-- ==== Sys2Proof/Word.lean ====
section
/-!
DEFINITION. The plainest shared types: bytes, words, fixed tables, bit fields, rounding.
R8 to R12 of spec/00_scope.md say how numbers, fields and rounding are written.
-/

namespace Sys2Proof

/-- One byte. -/
abbrev Byte := BitVec 8

/-- A 32-bit BAR0 register word (R13). -/
abbrev Word := BitVec 32

/-- A 64-bit register or Granary word (R13, R105). -/
abbrev DWord := BitVec 64

/-- A 64-byte command descriptor (R52): byte b, bit i is bit 8*b + i (little-endian, R9). -/
abbrev Desc := BitVec 512

/-- The 16 RESULT bytes 16 to 31 of a completion entry (R53): bit 0 is bit 0 of byte 16. -/
abbrev Result := BitVec 128

/-- A fixed number of like things. -/
abbrev Tab (α : Type) (n : Nat) := Vector α n

/-- A table of one value. -/
def Tab.all {α : Type} (n : Nat) (a : α) : Tab α n := Vector.ofFn fun _ => a

/-- Replace one entry. -/
def Tab.put {α : Type} {n : Nat} (t : Tab α n) (i : Fin n) (a : α) : Tab α n :=
  Vector.ofFn fun j => if j = i then a else t[j]

/-- Change one entry. -/
def Tab.upd {α : Type} {n : Nat} (t : Tab α n) (i : Fin n) (f : α → α) : Tab α n :=
  Vector.ofFn fun j => if j = i then f t[j] else t[j]

/-- Change every entry, each knowing its number. -/
def Tab.mapI {α β : Type} {n : Nat} (t : Tab α n) (f : Fin n → α → β) : Tab β n :=
  Vector.ofFn fun j => f j t[j]

/-- Change every entry. -/
def Tab.map' {α β : Type} {n : Nat} (t : Tab α n) (f : α → β) : Tab β n :=
  Vector.ofFn fun j => f t[j]

/-- Read by a plain number; the default stands for a number past the end. -/
def Tab.at' {α : Type} {n : Nat} (t : Tab α n) (k : Nat) (d : α) : α :=
  if h : k < n then t[k] else d

/-- Change the entry of a plain number; a number past the end changes nothing. -/
def Tab.updN {α : Type} {n : Nat} (t : Tab α n) (k : Nat) (f : α → α) : Tab α n :=
  if h : k < n then t.upd ⟨k, h⟩ f else t

/-- The numbers of the entries that satisfy a test, rising. -/
def Tab.which {α : Type} {n : Nat} (t : Tab α n) (p : α → Bool) : List (Fin n) :=
  (List.finRange n).filter fun i => p t[i]

/-- Every entry satisfies a test. -/
def Tab.every {α : Type} {n : Nat} (t : Tab α n) (p : α → Bool) : Bool :=
  (List.finRange n).all fun i => p t[i]

/-- Some entry satisfies a test. -/
def Tab.some' {α : Type} {n : Nat} (t : Tab α n) (p : α → Bool) : Bool :=
  (List.finRange n).any fun i => p t[i]

@[simp] theorem Tab.put_get {α : Type} {n : Nat} (t : Tab α n) (i j : Fin n) (a : α) :
    (t.put i a)[j] = if j = i then a else t[j] := by
  simp [Tab.put]

@[simp] theorem Tab.upd_get {α : Type} {n : Nat} (t : Tab α n) (i j : Fin n) (f : α → α) :
    (t.upd i f)[j] = if j = i then f t[j] else t[j] := by
  simp [Tab.upd]

@[simp] theorem Tab.map'_get {α β : Type} {n : Nat} (t : Tab α n) (f : α → β) (j : Fin n) :
    (t.map' f)[j] = f t[j] := by
  simp [Tab.map']

@[simp] theorem Tab.mapI_get {α β : Type} {n : Nat} (t : Tab α n) (f : Fin n → α → β)
    (j : Fin n) : (t.mapI f)[j] = f j t[j] := by
  simp [Tab.mapI]

@[simp] theorem Tab.all_get {α : Type} {n : Nat} (a : α) (j : Fin n) :
    (Tab.all n a)[j] = a := by
  simp [Tab.all]

end Sys2Proof
end

