-- ==== Sys2Proof/Machine/State/Dma.lean ====
section
/-!
DEFINITION. State of the DMA engine (spec/03_dma.md).
-/

namespace Sys2Proof.Machine

/-- DMA_CHn_STATUS.STATE. -/
inductive DmaState where
  | idle | fetch | run | waitRequest | stopping | stopped | aborted | halted
  deriving DecidableEq, Repr

/-- The burst that was granted last and is not finished (R90, R93): its channel and the bytes still to move. -/
structure Burst where
  ch : Fin 32
  left : Nat
  /-- A write to the destination; otherwise a read of the source. -/
  write : Bool
  /-- No beat of it has been made. -/
  fresh : Bool
  deriving DecidableEq, Repr

/-- A decoded DMA descriptor (R87). -/
structure DmaDesc where
  src : Nat
  dst : Nat
  lineBytes : Nat
  lines : Nat
  srcStride : Nat
  dstStride : Nat
  swidth : Nat
  dwidth : Nat
  srcHost : Bool
  dstHost : Bool
  last : Bool
  link : Bool
  fill : Bool
  tag : Nat
  deriving DecidableEq, Repr

/-- One channel: DMA_CHn_* and the transfer in progress. -/
structure DmaCh where
  descAddr : Nat
  descHost : Bool
  prio : Nat
  state : DmaState
  code : Byte
  descIndex : Nat
  remain : Nat
  tag : Nat
  errAddr : Nat
  errHost : Bool
  /-- The descriptor in progress, or in which the channel was halted or aborted. -/
  cur : Option DmaDesc
  /-- Source bytes of the descriptor that have arrived, all lines counted on. -/
  arrived : Nat
  /-- The packing holding register (R91): bytes not yet written. -/
  hold : List Byte
  /-- Bytes of the descriptor written to the destination. -/
  written : Nat
  /-- Consecutive LINK descriptors (R89). -/
  links : Nat
  /-- Requests of composition pending on a paced channel (R85), at most 2. -/
  requests : Nat
  /-- STOP asked for; takes effect at the next descriptor boundary (R95). -/
  stopReq : Bool
  /-- Consecutive grants that passed this ready channel over (R94). -/
  passed : Nat
  /-- A descriptor of the chain has completed (R95). -/
  doneOne : Bool
  /-- When an error halted the channel (R98). -/
  haltAt : Option Nat
  /-- When ABORT reached the channel, and its burst then (R98). -/
  abortAt : Option (Nat × Option Burst)
  deriving DecidableEq, Repr

/-- The DMA engine. -/
structure Dma where
  ch : Tab DmaCh 32
  burst : Option Burst
  overrun : Nat
  forced : Nat
  deriving DecidableEq, Repr

/-- Default priorities (R84). -/
def defaultDmaPrio (n : Nat) : Nat :=
  if n ≤ 7 then 6 else if n ≤ 29 then 4 else if n = 30 then 2 else 0

/-- Reset of channel n. -/
def DmaCh.reset (n : Nat) : DmaCh :=
  { descAddr := 0, descHost := false, prio := defaultDmaPrio n, state := .idle, code := 0,
    descIndex := 0, remain := 0, tag := 0, errAddr := 0, errHost := false, cur := none,
    arrived := 0, hold := [], written := 0, links := 0, requests := 0, stopReq := false,
    passed := 0, doneOne := false, haltAt := none, abortAt := none }

/-- Reset of the engine. -/
def Dma.reset : Dma :=
  { ch := Vector.ofFn fun n : Fin 32 => DmaCh.reset n.val, burst := none, overrun := 0, forced := 0 }

end Sys2Proof.Machine
end

