-- ==== Sys2Proof/Machine/State/Host.lean ====
section
/-!
DEFINITION. State of the host interface, the rings and the commands in flight (spec/02_host_rings.md).
-/

namespace Sys2Proof.Machine

/-- Where a command came from (R59, R78, R82, R523). -/
inductive Src where
  /-- Submission ring n. -/
  | ring (n : Fin 16)
  /-- Descriptor idx of datagram key in ETHp's queue. -/
  | eth (p : Fin 2) (key : Nat) (idx : Nat)
  /-- The I²C mailbox. -/
  | i2c
  /-- Entry idx of the image's start-up command list. -/
  | startup (idx : Nat)
  /-- A command whose completion is discarded (R44). -/
  | discard
  deriving DecidableEq, Repr

/-- A command: its origin, its 64-byte descriptor, when it arrived (R149; the model's clock, ns) and
its serial number in starting order (R60). -/
structure Cmd where
  src : Src
  d : Desc
  arr : Nat
  ser : Nat
  deriving DecidableEq, Repr

/-- A completion not yet delivered (R53); SQ_HEAD and PHASE are filled in when it is written. -/
structure Cpl where
  src : Src
  id : BitVec 16
  opcode : Byte
  status : BitVec 16
  frameSeq : BitVec 16
  result : Result
  deriving DecidableEq, Repr

/-- An entry fetched from a submission ring; `dead` marks one that is to complete with
STALE_DESCRIPTOR when HEAD reaches it (R67). -/
structure Fetched where
  d : Desc
  dead : Bool
  /-- When the read completion arrived (R149). -/
  arr : Nat
  deriving DecidableEq, Repr

/-- A submission ring: RING_SQn_* and what R57 to R67 keep beside it. -/
structure SqRing where
  base : DWord
  db : DWord
  pollUs : Nat
  log2 : Nat
  prio : Nat
  cq : Fin 16
  enable : Bool
  fetchError : Bool
  badIndex : Bool
  running : Bool
  phase : Bool
  head : Nat
  /-- Entries of the read request under way; 0 when none is (R57). -/
  asked : Nat
  /-- The last producer index read (R57). -/
  prod : Nat
  /-- When the producer-index read under way was issued (R57); none when none is. -/
  dbAsked : Option Nat
  /-- Fetching stopped by R58 until ENABLE is cleared and set. -/
  stopped : Bool
  /-- Fetched, not started, in index order. -/
  fetched : List Fetched
  /-- The stale entry being re-read and those fetched behind it (R67). -/
  behind : List Desc
  /-- Re-reads of the stale entry made so far. -/
  rereads : Nat
  /-- When a command of the ring last completed (R149). -/
  lastDone : Nat
  deriving DecidableEq, Repr

/-- A completion ring: RING_CQn_* and what R56, R63 and R68 keep beside it. -/
structure CqRing where
  base : DWord
  db : DWord
  coalUs : Nat
  coalCount : Nat
  log2 : Nat
  irqEn : Bool
  vector : Nat
  enable : Bool
  dbError : Bool
  fullWait : Bool
  full : Bool
  phase : Bool
  tail : Nat
  /-- The last consumer index read (R56). -/
  cons : Nat
  /-- When the consumer-index read under way was issued (R63); none when none is. -/
  dbAsked : Option Nat
  /-- The last consumer-index read ended in an error: it is tried again (R63). -/
  retry : Bool
  /-- Entries written since the last signal (R68). -/
  unsignalled : Nat
  /-- Completions waiting to be written, oldest first. -/
  waiting : List Cpl
  deriving DecidableEq, Repr

/-- The MSI-X capability and BAR4: the enable and function mask, the table's message addresses, message data
and vector mask bits, and the pending-bit array (R43, R68). -/
structure Msix where
  enable : Bool
  funcMask : Bool
  /-- Message address and message data of each vector. -/
  table : Tab (DWord × Word) 32
  masked : BitVec 32
  pending : BitVec 32
  deriving DecidableEq, Repr

/-- One authority mask (HIF_AUTH_*). -/
structure Auth where
  cls : BitVec 12
  image : BitVec 12
  deriving DecidableEq, Repr

/-- What strikes the first word an access reads (R117): the environment's, in the operand. -/
inductive Upset where
  | none | single | double
  deriving DecidableEq, Repr

/-- A host access through BAR2 (R46, R115, R116). -/
inductive Bar2Req where
  | read (addr bytes : Nat) (upset : Upset)
  | write (addr : Nat) (data : List Byte) (upset : Upset)
  deriving DecidableEq, Repr

/-- The host interface (HIF_*) and the endpoint. -/
structure Hif where
  vendorId : BitVec 16
  /-- Subsystem vendor ID and subsystem ID of the configuration space (R516). -/
  subVendor : BitVec 16
  subId : BitVec 16
  fwMajor : Byte
  fwMinor : Byte
  fwPatch : Byte
  lastDeniedPort : Nat
  lastDeniedOpcode : Byte
  hostless : Bool
  speed : Nat
  width : Nat
  linkUp : Bool
  d3hot : Bool
  /-- Configuration requests are answered with retry status until IDENTITY is applied (R574). -/
  configRetry : Bool
  authLock : Bool
  ringLock : Bool
  /-- 0 PCIe, 1 ETH0, 2 ETH1, 3 I²C, 4 yoke peer. -/
  auth : Tab Auth 5
  /-- 0 PCIe, 1 ETH0, 2 ETH1, 3 I²C. -/
  deniedCnt : Tab Nat 4
  cmdqDrop : Tab Nat 2
  sq : Tab SqRing 16
  cq : Tab CqRing 16
  /-- The ring served last at each PRIORITY (R59). -/
  lastSq : Tab (Option (Fin 16)) 4
  /-- The port group served last: 0 PCIe, 1 ETH0, 2 ETH1, 3 I²C (R59). -/
  lastGroup : Option (Fin 4)
  msix : Msix
  /-- The status registers of Advanced Error Reporting: uncorrectable and correctable errors (R43, R432). -/
  aerUncor : Word
  aerCor : Word
  /-- BAR2 accesses that wait for the Granary, oldest first (R116). -/
  bar2Wait : List Bar2Req
  /-- Read holding words of 64-bit registers, by low-word offset; unlisted reads 0 (R13). -/
  rdHold : List (Nat × Word)
  /-- Write holding words of 64-bit registers, by low-word offset; unlisted reads 0 (R13). -/
  wrHold : List (Nat × Word)
  deriving DecidableEq, Repr

/-- Reset of a submission ring (RING_SQn_* tables). -/
def SqRing.reset : SqRing :=
  { base := 0, db := 0, pollUs := 100, log2 := 4, prio := 0, cq := 0, enable := false,
    fetchError := false, badIndex := false, running := false, phase := false, head := 0,
    prod := 0, dbAsked := none, stopped := false, asked := 0, fetched := [], behind := [], rereads := 0,
    lastDone := 0 }

/-- Reset of completion ring n (RING_CQn_* tables). -/
def CqRing.reset (n : Fin 16) : CqRing :=
  { base := 0, db := 0, coalUs := 0, coalCount := 1, log2 := 4, irqEn := false,
    vector := n.val, enable := false, dbError := false, fullWait := false, full := false,
    phase := false, tail := 0, cons := 0, dbAsked := none, retry := false, unsignalled := 0, waiting := [] }

/-- The default authority ceilings (R72). -/
def defaultAuth : Tab Auth 5 :=
  Vector.ofFn fun i : Fin 5 =>
    let m : BitVec 12 := match i with
      | 0 => 0xFFF#12 | 1 => 0x08F#12 | 2 => 0x908#12 | 3 => 0x040#12 | 4 => 0x000#12
    { cls := if i = 4 then 0 else m, image := m }

/-- Reset of the MSI-X state. The spec gives none: DESIGN CHOICE, log entry 84: enabled and unmasked, message
addresses and data 0, nothing pending. -/
def Msix.reset : Msix :=
  { enable := true, funcMask := false, table := Tab.all 32 (0, 0), masked := 0, pending := 0 }

/-- Reset of the host interface. Image fields hold the image defaults until an image is applied. -/
def Hif.reset : Hif :=
  { vendorId := 0x1EC9#16, subVendor := 0x1EC9#16, subId := 0, fwMajor := 0, fwMinor := 0, fwPatch := 0,
    lastDeniedPort := 0,
    lastDeniedOpcode := 0, hostless := false, speed := 0, width := 0, linkUp := false,
    d3hot := false, configRetry := true, authLock := false, ringLock := false,
    auth := defaultAuth, deniedCnt := Tab.all 4 0, cmdqDrop := Tab.all 2 0,
    sq := Tab.all 16 SqRing.reset, cq := Vector.ofFn CqRing.reset, lastSq := Tab.all 4 none,
    lastGroup := none, msix := Msix.reset, aerUncor := 0, aerCor := 0, bar2Wait := [], rdHold := [], wrHold := [] }

end Sys2Proof.Machine
end

