-- ==== Sys2Proof/Machine/State/Time.lean ====
section
/-!
DEFINITION. State of the Bellhouse and of the Ethernet ports (spec/18_bellhouse_ethernet.md,
the datagram rules R77 to R80 of spec/02_host_rings.md).
-/

namespace Sys2Proof.Machine

/-- Time states (R499). -/
inductive TimeState where
  | unset | free | acquiring | locked | holdover
  deriving DecidableEq, Repr

/-- Servo modes (R497). -/
inductive ServoMode where
  | off | internal | external
  deriving DecidableEq, Repr

/-- An alarm (R501). -/
structure Alarm where
  armed : Bool
  fired : Bool
  s : Nat
  ns : Nat
  deriving DecidableEq, Repr

/-- Pulse modes (R502). -/
inductive PulseMode where
  | off | oneshot | periodic | frame
  deriving DecidableEq, Repr

/-- A PULSE_SET setting (R508). -/
structure PulseCfg where
  mode : PulseMode
  /-- POLARITY 1: pulse low. -/
  low : Bool
  width : Nat
  startS : Nat
  startNs : Nat
  period : Nat
  offset : Nat
  deriving DecidableEq, Repr

/-- One pulse output (R502, R503). -/
structure Pulse where
  cfg : PulseCfg
  /-- FRC at the start of the pulse in progress. -/
  active : Option Nat
  pending : Option PulseCfg
  /-- A ONESHOT's pulse has been given. -/
  given : Bool
  /-- FRC at the start of the last pulse. -/
  startedAt : Option Nat
  deriving DecidableEq, Repr

/-- The snapshot a read of BEL_TIME_NS captures (R510). -/
structure TimeSnap where
  t : Int
  frc : Nat
  offset : Int
  frcRef : Nat
  rate : Int
  deriving DecidableEq, Repr

/-- A sample of the ring (BEL_SAMPLEi). -/
structure TimeSample where
  seq : Nat
  delay : Nat
  offset : Int
  deriving DecidableEq, Repr

/-- The Bellhouse (BEL_*). FRC, OFFSET in units of 2^-16 ns, RATE in units of 2^-32. -/
structure Bell where
  powered : Bool
  frc : Nat
  frcRef : Nat
  offset : Int
  rate : Int
  sleepTrim : Int
  sleepClock : Bool
  valid : Bool
  state : TimeState
  alarm : Tab Alarm 4
  pulse : Tab Pulse 4
  snap : TimeSnap
  kp : Nat
  ki : Nat
  mode : ServoMode
  stepUs : Nat
  lockNs : Nat
  /-- BEL_CLOCK. -/
  clock : Word
  last : Int
  pathDelay : Nat
  onSample : Bool
  onLock : Bool
  onAlarm : Bool
  vector : Nat
  irqEn : Bool
  leap59 : Bool
  leap61 : Bool
  utcValid : Bool
  utcOffset : Int
  lockLosses : Nat
  steps : Nat
  sampleSeq : Nat
  sample : Tab TimeSample 16
  /-- The servo (R498), in double precision: integrator and rate in ppb, FRC at the last sample. -/
  integ : Rat
  ratePpb : Rat
  lastSample : Option Nat
  good : Nat
  bad : Nat
  deriving DecidableEq, Repr

/-- PTP port states (ETH_p_STATUS.PTP_STATE). -/
inductive PtpState where
  | initializing | faulty | disabled | listening | preMaster | master | passive | uncalibrated | slave
  deriving DecidableEq, Repr

/-- A peer: MAC address, IPv4 address and UDP port (R480). -/
structure Peer where
  mac : Nat
  ip : BitVec 32
  port : Nat
  deriving DecidableEq, Repr

/-- PTP messages the device sends or answers (R494, R495). -/
inductive PtpMsg where
  | sync | followUp | delayReq | delayResp | pdelayReq | pdelayResp | pdelayRespFollowUp | announce
  deriving DecidableEq, Repr

/-- The data set an Announce carries, or the clock's own (R496, IEEE 1588): the grandmaster's, the steps to it, and the
port identity of the sender. An identity is the number its eight bytes spell, first byte highest. -/
structure ClockData where
  priority1 : Nat
  clockClass : Nat
  accuracy : Nat
  variance : Nat
  priority2 : Nat
  grandmaster : Nat
  steps : Nat
  sender : Nat
  senderPort : Nat
  deriving DecidableEq, Repr

/-- A clock that announces itself on a port: its last data set, when it came, and whether it may be selected
(IEEE 1588; log entry 151). -/
structure Foreign where
  data : ClockData
  at' : Nat
  qualified : Bool
  deriving DecidableEq, Repr

/-- The header of a PTP message that leaves (R494 to R496): twoStepFlag, domain, the sender's port identity, and an
Announce's data set. -/
structure PtpHead where
  twoStep : Bool
  domain : Nat
  sender : Nat
  senderPort : Nat
  announce : Option ClockData
  deriving DecidableEq, Repr

/-- What an egress frame carries. -/
inductive EthPayload where
  | gratuitousArp
  | arpReply (to' : Peer)
  | echoReply (to' : Peer) (data : List Byte)
  /-- A command or bulk reply: the UDP payload. -/
  | udpReply (to' : Peer) (fromPort : Nat) (payload : List Byte)
  /-- A PTP message: its sequence number, its time field (originTimestamp or the ingress stamp being
  answered, units of 2^-16 ns) and its correctionField. -/
  | ptp (msg : PtpMsg) (seq : Nat) (time : Int) (correction : Int)
  /-- A frame of an ETH_LOOP. -/
  | loop (data : List Byte)
  deriving DecidableEq, Repr

/-- A frame in an egress queue, with its launch time in units of 2^-16 ns (R487). -/
structure EgFrame where
  payload : EthPayload
  launch : Option Int
  /-- Network time reached the launch time (ETH_LAUNCH_ELIGIBLE). -/
  eligible : Bool
  deriving DecidableEq, Repr

/-- An allow-list entry (R482). -/
structure Allow where
  valid : Bool
  pfx : Nat
  addr : BitVec 32
  deriving DecidableEq, Repr

/-- A port's PTP configuration (ETH_p_PTP). -/
structure PtpCfg where
  logDelay : Int
  logAnnounce : Int
  logSync : Int
  domain : Nat
  oneStep : Bool
  udp : Bool
  /-- 0 E2E, 1 P2P, 2 gPTP. -/
  profile : Nat
  /-- 0 DISABLED, 1 SLAVE_ONLY, 2 BMCA, 3 MASTER_ONLY. -/
  role : Nat
  deriving DecidableEq, Repr

/-- A datagram waiting in a port's queue (R80, R485). -/
inductive Datagram where
  /-- A command datagram: its key, its sender, SEQUENCE, descriptors not yet started, the number of the
  next one, and when its last byte or the last completion of an earlier descriptor came (R149). -/
  | cmd (key : Nat) (peer : Peer) (sequence : BitVec 32) (left : List Desc) (next : Nat) (arr : Nat)
  /-- A bulk datagram: header fields and data. -/
  | bulk (peer : Peer) (header : List Byte) (data : List Byte)
  deriving DecidableEq, Repr

/-- What the device remembers of a sender (R79). -/
structure Sender where
  ip : BitVec 32
  port : Nat
  sequence : BitVec 32
  /-- The reply sent, once it has been. -/
  reply : Option (List Byte)
  deriving DecidableEq, Repr

/-- A command datagram being executed: completions so far (R80). -/
structure Exec where
  key : Nat
  peer : Peer
  sequence : BitVec 32
  count : Nat
  /-- Completions by descriptor number, each with the descriptors started when it was written; none
  for a QUIET command that completed with SUCCESS (R80). -/
  done : List (Nat × Option (Cpl × Nat))
  deriving DecidableEq, Repr

/-- A two-step Sync waiting for its Follow_Up: sequence, ingress stamp, correction (R497). -/
structure SyncWait where
  seq : Nat
  ingress : Int
  correction : Int
  deriving DecidableEq, Repr

/-- A two-step Pdelay_Resp waiting for its Follow_Up: sequence, t4, t2, correction (R495). -/
structure PdelayWait where
  seq : Nat
  t4 : Int
  t2 : Int
  correction : Int
  deriving DecidableEq, Repr

/-- One Ethernet port (ETH_p_*). -/
structure Eth where
  enabled : Bool
  mode2500 : Bool
  acceptUntagged : Bool
  pcpReply : Nat
  vlanId : Nat
  mac : Nat
  ip : BitVec 32
  ptp : PtpCfg
  txDelay : Nat
  rxDelay : Nat
  asym : Int
  bulkBase : Nat
  bulkLimit : Nat
  allow : Tab Allow 8
  link : Bool
  ptpState : PtpState
  asCapable : Bool
  rxFcs : Nat
  rxDiscarded : Nat
  txLate : Nat
  txDropped : Nat
  syncRx : Nat
  ptpIgnored : Nat
  queue : List Datagram
  senders : List Sender
  execs : List Exec
  egress : Tab (List EgFrame) 8
  /-- Echo requests answered in the present second, and when it began. -/
  echoes : Nat
  echoSince : Nat
  fcsNote : Option Nat
  syncWait : Option SyncWait
  /-- Delay exchange: sequence, egress stamp of our request, a two-step answer, t2 - t1 - c of the last
  Sync, and the mean path delay; times in units of 2^-16 ns. -/
  delaySeq : Nat
  delayT3 : Option Int
  pdelay : Option PdelayWait
  syncDiff : Int
  pathDelay : Int
  /-- The parent: the data set of the clock selected on this port. -/
  parent : Option ClockData
  /-- The clocks heard on this port, and the intervals PRE_MASTER has still to wait (R496; log entry 151). -/
  foreign : List Foreign
  qualify : Nat
  /-- neighborRateRatio, and the stamps t3 and t4 of the last peer-delay exchange it is formed from (R497). -/
  ratio : Rat
  turn : Option (Int × Int)
  syncSeq : Nat
  annSeq : Nat
  deriving DecidableEq, Repr

/-- The two ports. -/
structure Eths where
  port : Tab Eth 2
  nextKey : Nat
  /-- syncReceiptTimeout came during LIGHT_HOLD (R500). -/
  syncLate : Bool
  deriving DecidableEq, Repr

/-- An OFF pulse setting. -/
def PulseCfg.reset : PulseCfg :=
  { mode := .off, low := false, width := 0, startS := 0, startNs := 0, period := 0, offset := 0 }

/-- An unused pulse output. -/
def Pulse.reset : Pulse :=
  { cfg := PulseCfg.reset, active := none, pending := none, given := false, startedAt := none }

/-- An alarm at reset. -/
def Alarm.reset : Alarm := { armed := false, fired := false, s := 0, ns := 0 }

/-- Reset of the Bellhouse (R492, BEL_*); image fields hold the image defaults. -/
def Bell.reset : Bell :=
  { powered := false, frc := 0, frcRef := 0, offset := 0, rate := 0, sleepTrim := 0,
    sleepClock := false, valid := false, state := .unset, alarm := Tab.all 4 Alarm.reset,
    pulse := Tab.all 4 Pulse.reset, snap := ⟨0, 0, 0, 0, 0⟩, kp := 0x00B3, ki := 0x004D,
    mode := .internal, stepUs := 100, lockNs := 100, clock := 0xFEF88080#32, last := 0,
    pathDelay := 0, onSample := false, onLock := false, onAlarm := false, vector := 0,
    irqEn := false, leap59 := false, leap61 := false, utcValid := false, utcOffset := 0,
    lockLosses := 0, steps := 0, sampleSeq := 0, sample := Tab.all 16 ⟨0, 0, 0⟩, integ := 0,
    ratePpb := 0, lastSample := none, good := 0, bad := 0 }

/-- A port's PTP configuration without a network section: zero. -/
def PtpCfg.reset : PtpCfg :=
  { logDelay := 0, logAnnounce := 0, logSync := 0, domain := 0, oneStep := false, udp := false,
    profile := 0, role := 0 }

/-- Reset of a port: disabled until a network section enables it (R509). -/
def Eth.reset : Eth :=
  { enabled := false, mode2500 := false, acceptUntagged := false, pcpReply := 5, vlanId := 0,
    mac := 0, ip := 0, ptp := PtpCfg.reset, txDelay := 0, rxDelay := 0, asym := 0, bulkBase := 0,
    bulkLimit := 0, allow := Tab.all 8 ⟨false, 0, 0⟩, link := false, ptpState := .initializing,
    asCapable := false, rxFcs := 0, rxDiscarded := 0, txLate := 0, txDropped := 0, syncRx := 0,
    ptpIgnored := 0, queue := [], senders := [], execs := [], egress := Tab.all 8 [],
    echoes := 0, echoSince := 0, fcsNote := none, syncWait := none, delaySeq := 0,
    delayT3 := none, pdelay := none, syncDiff := 0, pathDelay := 0, parent := none, foreign := [],
    qualify := 0, ratio := 1, turn := none, syncSeq := 0,
    annSeq := 0 }

/-- Reset of the ports. -/
def Eths.reset : Eths := { port := Tab.all 2 Eth.reset, nextKey := 0, syncLate := false }

end Sys2Proof.Machine
end

