-- ==== Sys2Proof/Machine/State/Event.lean ====
section
/-!
DEFINITION. What the outside shows the device (operands of commands) and what the device sends out
(emissions).
-/

namespace Sys2Proof.Machine

/-- A received Ethernet frame, as far as R479 to R482 look at it. -/
structure RxFrame where
  fcsOk : Bool
  /-- Destination address to FCS, tag included. -/
  length : Nat
  /-- VLAN ID of the tag; none untagged. -/
  vlan : Option Nat
  /-- Destination MAC address, first byte in bits [7:0], and EtherType. -/
  dst : Nat
  etherType : Nat
  /-- IPv4 protocol number, and the destination UDP port. -/
  protocol : Nat
  port : Nat
  /-- IPv4 destination address, or an ARP request's target address: first byte in bits [7:0]. -/
  target : BitVec 32
  /-- IPv4 without options, not a fragment, good header checksum, UDP checksum zero or good (R480). -/
  ipOk : Bool
  from' : Peer
  payload : List Byte
  deriving DecidableEq, Repr

/-- Code-groups that a receiver finds wrong over a stretch of symbols (R289). -/
structure CodeErrors where
  /-- Not in the Clause 36 table. -/
  notInTable : Nat
  /-- K code-groups outside the table Special symbols. -/
  strayK : Nat
  /-- Valid only for the other running disparity. -/
  otherDisparity : Nat
  deriving DecidableEq, Repr

/-- Code violations, one a symbol (R289). -/
def CodeErrors.violations (e : CodeErrors) : Nat := e.notInTable + e.strayK + e.otherDisparity

/-- A record of a TEL PIXEL packet (R335): its STATE code and VF in mV. -/
structure PixelRec where
  state : Nat
  vf : Nat
  deriving DecidableEq, Repr

/-- What a lane transmits (R290, R311, R320 to R333). -/
inductive LanePkt where
  /-- A PIX: SLOT, SEQ, FSEQ, LINE, MODE, the 256 values of its two lines, and how many characters LANE_ERR
  inverts. -/
  | pix (slot : Nat) (seq : Nat) (fseq : BitVec 16) (line mode : Nat) (codes : List Nat) (damaged : Nat)
  /-- A LAT: frame sequence number, mask of slots, REPEAT. -/
  | lat (seq : BitVec 16) (mask : Nat) (again : Bool)
  /-- A CFG: slot, address, data, match, sequence number. -/
  | cfg (slot : Nat) (addr : Nat) (data : Word) (match' : Word) (seq : BitVec 16)
  /-- An RDQ: slot, address, sequence number. -/
  | rdq (slot : Nat) (addr : Nat) (seq : BitVec 16)
  | blank
  | fbk
  /-- The check pattern: its data characters. -/
  | pattern (chars : Nat)
  /-- TS1 or TS2 with RATE and STATE, from here on again and again. -/
  | training (two : Bool) (rate : Nat) (state : Nat)
  /-- IDLE, from here on again and again. -/
  | idle
  /-- A SKP ordered set between other symbols (R311). -/
  | skp
  /-- The transmitter goes to electrical idle. -/
  | quiet
  deriving DecidableEq, Repr

/-- The attributes of a memory request on the link (R65). -/
structure TlpAttr where
  noSnoop : Bool
  relaxed : Bool
  deriving DecidableEq, Repr

end Sys2Proof.Machine
end

