-- ==== Sys2Proof/Machine/State/Compose.lean ====
section
/-!
DEFINITION. State of composition and geometry (spec/05_composition.md, spec/06_geometry.md).
-/

namespace Sys2Proof.Machine

/-- Where a layer takes its surface from (R137); none is the reset source. -/
inductive Source where
  | none
  | slot (k : Nat)
  | symbol (id : Fin 256)
  | host (addr : Nat)
  deriving DecidableEq, Repr

/-- Late policies (R153). -/
inductive Policy where
  | repeat' | drop | substitute
  deriving DecidableEq, Repr

/-- Blend modes (R142). -/
inductive Blend where
  | over' | add | max | mul
  deriving DecidableEq, Repr

/-- Layer formats (R136). -/
inductive Format where
  | l8 | l16 | la88 | la1616 | a8
  deriving DecidableEq, Repr

/-- Warp modes (R167). -/
inductive WarpMode where
  | projective | scale | direct
  deriving DecidableEq, Repr

/-- One layer's own settings, as LAYER_SET writes them (R156). -/
structure LayerCfg where
  source : Source
  policy : Policy
  blend : Blend
  subst : Fin 256
  format : Format
  width : Nat
  height : Nat
  pitch : Nat
  gain : Nat
  opacity : Nat
  fill : Nat
  deriving DecidableEq, Repr

/-- One layer's warp settings (R166). -/
structure Warp where
  mode : WarpMode
  clamp : Bool
  bank : Fin 4
  /-- H, row-major, S16.16 in units of 2^-16. -/
  h : Tab Int 9
  deriving DecidableEq, Repr

/-- All settings of one layer that a commit moves (R152, R180). -/
structure LayerSet where
  cfg : LayerCfg
  warp : Warp
  deriving DecidableEq, Repr

/-- How a layer takes part in the frame being composed (R152, R153). -/
inductive Part where
  /-- With the settings in use. -/
  | shown
  /-- Late under DROP: transparent. -/
  | dropped
  /-- Late under SUBSTITUTE: the pending settings with the substitute symbol. -/
  | substituted
  deriving DecidableEq, Repr

/-- One layer: the settings it composes with, those still pending, and its registers. -/
structure Layer where
  cur : LayerSet
  pending : Option LayerSet
  lateCount : Nat
  shownSeq : BitVec 16
  oversteps : Nat
  overstepPx : Nat
  parity : Nat
  /-- BILINEAR stands in for the bank named, from this pixel of the frame in which the failure was
  found (0 in later frames), until a READY bank is selected or the bank reloaded (R181). -/
  fallback : Option Nat
  /-- It has switched settings since the last composition started (SHOWN_SEQ). -/
  fresh : Bool
  deriving DecidableEq, Repr

/-- A coefficient bank's kind (R176). -/
inductive BankKind where
  | warp4 | scale8 | bilinear
  deriving DecidableEq, Repr

/-- A coefficient bank's state (R179). -/
inductive BankState where
  | ready | loading | invalid
  deriving DecidableEq, Repr

/-- One coefficient bank (R176 to R179). -/
structure Bank where
  kind : BankKind
  state : BankState
  /-- Stored S2.14 coefficients, in table order; empty for BILINEAR. -/
  coeffs : List Int
  crc : Word
  deriving DecidableEq, Repr

/-- A glare mask box (R148). -/
structure Box where
  enable : Bool
  x0 : Nat
  y0 : Nat
  x1 : Nat
  y1 : Nat
  level : Nat
  feather : Nat
  deriving DecidableEq, Repr

/-- A symbol entry's state (CMP_SYM_INFO). -/
inductive SymState where
  | empty | loading | valid | invalid
  deriving DecidableEq, Repr

/-- A symbol library entry (R161, R162). -/
structure Symbol where
  state : SymState
  format : Format
  width : Nat
  height : Nat
  addr : Nat
  pitch : Nat
  crc : Word
  extStart : Nat
  extBytes : Nat
  deriving DecidableEq, Repr

/-- Composition and geometry. -/
structure Compose where
  layer : Tab Layer 9
  show' : Byte
  order : BitVec 24
  pEnable : Bool
  /-- General layers that took part in the frame composed last (R153). -/
  was : Byte
  /-- CMP_STATUS.LATE. -/
  late : Byte
  box : Tab Box 64
  maskSeq : BitVec 16
  protCrc : Word
  symSel : Fin 256
  sym : Tab Symbol 256
  /-- Slot k has a copy in progress, or its last copy failed (R157). -/
  slotBusy : Tab Bool 8
  bank : Tab (Tab Bank 4) 9
  geoProtCrc : Word
  deriving DecidableEq, Repr

/-- Reset settings of a layer: no source, REPEAT, OVER, DIRECT identity. -/
def LayerCfg.reset : LayerCfg :=
  { source := .none, policy := .repeat', blend := .over', subst := 0, format := .l8, width := 0,
    height := 0, pitch := 0, gain := 0x010000, opacity := 0x10000, fill := 0 }

/-- The identity matrix in S16.16 (GEO_LAYERn_Hk). -/
def Warp.reset : Warp :=
  { mode := .direct, clamp := false, bank := 0,
    h := Vector.ofFn fun k : Fin 9 => if k = 0 ∨ k = 4 ∨ k = 8 then 65536 else 0 }

/-- Reset of a layer. -/
def Layer.reset : Layer :=
  { cur := ⟨LayerCfg.reset, Warp.reset⟩, pending := none, lateCount := 0, shownSeq := 0,
    oversteps := 0, overstepPx := 0, parity := 0, fallback := none, fresh := false }

/-- Reset of a bank: the BILINEAR set, READY (R178). -/
def Bank.reset : Bank := { kind := .bilinear, state := .ready, coeffs := [], crc := 0 }

/-- Reset of a box. -/
def Box.reset : Box :=
  { enable := false, x0 := 0, y0 := 0, x1 := 0, y1 := 0, level := 0, feather := 0 }

/-- Reset of a symbol entry. -/
def Symbol.reset : Symbol :=
  { state := .empty, format := .l8, width := 0, height := 0, addr := 0, pitch := 0, crc := 0,
    extStart := 0, extBytes := 0 }

/-- Reset of composition and geometry. -/
def Compose.reset : Compose :=
  { layer := Tab.all 9 Layer.reset, show' := 0, order := 0xFAC688#24, pEnable := false, was := 0,
    late := 0, box := Tab.all 64 Box.reset, maskSeq := 0, protCrc := 0, symSel := 0,
    sym := Tab.all 256 Symbol.reset, slotBusy := Tab.all 8 false,
    bank := Tab.all 9 (Tab.all 4 Bank.reset), geoProtCrc := 0 }

end Sys2Proof.Machine
end

