-- ==== Sys2Proof/Machine/State/Granary.lean ====
section
/-!
DEFINITION. State of the Granary (spec/04_granary.md).
-/

namespace Sys2Proof.Machine

/-- What a Granary word's cells hold beside its data (R117). -/
inductive Mark where
  /-- One bit in error: corrected when read. -/
  | single
  /-- Uncorrectable: delivered poisoned. -/
  | double
  deriving DecidableEq, Repr

/-- GRN_ECC_LAST.MASTER (R118). -/
inductive Master where
  | hedge | lamplighter | pipeline | dma | cores | host | scrub | march
  deriving DecidableEq, Repr

/-- GRN_ECC_LAST.TYPE. -/
inductive EccType where
  | none | corrected | hard | uncorrectable
  deriving DecidableEq, Repr

/-- One region register pair (R108, R109). -/
structure Region where
  base : Nat
  limit : Nat
  perm : BitVec 8
  deriving DecidableEq, Repr

/-- A row of a bank being copied to a spare row (R119). -/
structure RowCopy where
  bank : Nat
  row : Nat
  deriving DecidableEq, Repr

/-- A march in progress (R128 to R131). -/
structure March where
  start : Nat
  length : Nat
  destructive : Bool
  /-- Stripes done. -/
  done : Nat
  failWords : Nat
  firstFail : Option Nat
  rowsRepaired : Nat
  /-- Rows it found failing and left unrepaired. -/
  unrepaired : List RowCopy
  /-- The start-up march of R126. -/
  startup : Bool
  deriving DecidableEq, Repr

/-- The Granary and the GRN registers. -/
structure Granary where
  /-- Bytes outside the output double buffer; canonical (Memory.wf), unlisted bytes read 0 (R125). -/
  mem : List Host.Cell
  /-- Words with cell errors, by word address A[25:3], rising. -/
  marks : List (Nat × Mark)
  /-- Words corrected and rewritten once (R119). -/
  rewritten : List Nat
  /-- Corrected words waiting for their bank's scrub cycle (R118). -/
  rewriteQ : List Nat
  /-- Rows under copy (R119). -/
  copying : List RowCopy
  /-- Rows replaced by a spare row; kept as R120. -/
  repaired : List RowCopy
  initDone : Bool
  retention : Bool
  /-- PG_SRAM lost in SLEEP: the content counts as lost (R561). -/
  lost : Bool
  march : Option March
  eccCe : Nat
  eccHard : Nat
  eccUe : Nat
  lastSyndrome : Byte
  lastMaster : Master
  lastType : EccType
  /-- Word address of the last ECC event. -/
  lastAddr : Nat
  scrubEn : Bool
  scrubMs : Nat
  scrubActive : Bool
  passes : Nat
  scrubWord : Nat
  unrepaired : Nat
  violMaster : Master
  violWrite : Bool
  violAddr : Nat
  regLock : Bool
  regions : Tab Region 16
  deriving DecidableEq, Repr

/-- The default Granary map (R108). -/
def defaultRegions : Tab Region 16 :=
  Vector.ofFn fun i : Fin 16 => match i with
    | 0 => ⟨0x048, 0x1C7, 0xFF#8⟩
    | 1 => ⟨0x1C8, 0x257, 0x7F#8⟩
    | 2 => ⟨0x258, 0x377, 0xFF#8⟩
    | 3 => ⟨0x378, 0x3FF, 0xFD#8⟩
    | _ => ⟨0, 0, 0#8⟩

/-- Reset of the Granary: initialisation has yet to run; image fields hold the image defaults. -/
def Granary.reset : Granary :=
  { mem := [], marks := [], rewritten := [], rewriteQ := [], copying := [], repaired := [],
    initDone := false, retention := false, lost := false, march := none, eccCe := 0,
    eccHard := 0, eccUe := 0, lastSyndrome := 0, lastMaster := .hedge, lastType := .none,
    lastAddr := 0, scrubEn := true, scrubMs := 1000, scrubActive := false, passes := 0,
    scrubWord := 0, unrepaired := 0, violMaster := .hedge, violWrite := false, violAddr := 0,
    regLock := false, regions := defaultRegions }

end Sys2Proof.Machine
end

