-- ==== Sys2Proof/Machine/State/Frame.lean ====
section
/-!
DEFINITION. A frame's inputs, photometry's and the Hedge's settings
(spec/07_photometry.md, spec/08_hedge.md).
-/

namespace Sys2Proof.Machine

/-- One bin's parameters (R195, PHO_BINb_*): T_REF and T_KNEE in 1/16 °C. -/
structure Bin where
  tRef : Int
  tKnee : Int
  slope : Nat
  dMin : Nat
  deriving DecidableEq, Repr

/-- The envelope a Hedge judges by: a parameter block of 27,904 bytes (R241) or the uncommissioned
envelope (R247). -/
inductive Envelope where
  | uncommissioned
  | block (raw : List Byte)
  deriving DecidableEq, Repr

/-- What became of a HOST layer's missing line within a frame (R153). -/
inductive Underrun where
  | drop | substitute
  deriving DecidableEq, Repr

/-- The lines of a HOST layer that are missing (R153): the output row of the first, what replaces the surface from
there, and the words with errors and the region registers as that replacement is read. -/
structure Gap where
  row : Nat
  hole : Underrun
  marks : List (Nat × Mark)
  regions : Tab Region 16
  deriving DecidableEq, Repr

/-- One layer as a frame uses it (R141, R152, R153). -/
structure LayerView where
  set : LayerSet
  /-- The bank in use. -/
  bank : Bank
  /-- The symbol entry that supplies the surface, for SYMBOL or SUBSTITUTE. -/
  sym : Option Symbol
  /-- The layer's SUBST_SYMBOL entry, for an underrun. -/
  subst : Symbol
  /-- BILINEAR from this pixel number on (R181). -/
  fallback : Option Nat
  /-- Lines delivered by the paced channel (HOST), oldest first. -/
  lines : List (List Byte)
  /-- Bytes of the line being delivered (HOST). -/
  part : List Byte
  /-- The lines that did not come, if any. -/
  underrun : Option Gap
  deriving DecidableEq, Repr

/-- An entry of the health override list (R206). -/
structure Override where
  pixel : Nat
  state : Nat
  /-- Photometry has taken it at a VBI. -/
  taken : Bool
  deriving DecidableEq, Repr

/-- Everything a frame is composed from, fixed at the end of the VBI (R23, R27). -/
structure Frame where
  seq : BitVec 16
  /-- Layers 0 to 7 and P; none is a layer that takes no part. -/
  view : Tab (Option LayerView) 9
  order : BitVec 24
  boxes : List Box
  /-- The Granary when composition started, and when it ended (R138, R195). -/
  mem : List Host.Cell
  memEnd : List Host.Cell
  marks : List (Nat × Mark)
  /-- The region registers when composition started, and when it ended (R109). -/
  regions : Tab Region 16
  regionsEnd : Tab Region 16
  /-- Fade factor, budget factor, thermal factor: U1.15. -/
  fade : Nat
  budget : Nat
  dThermal : Nat
  /-- t_tile in 1/16 °C; none when no temperature is valid (R197). -/
  temp : Option (Tab Int 96)
  bins : Tab Bin 16
  planeBase : Nat
  defaultRec : DWord
  overrides : List (Nat × Nat)
  darkMask : BitVec 96
  /-- The zone maxima photometry holds (R204) and the block that governs the frame (R23). -/
  zoneCopy : Envelope
  envelope : Envelope
  /-- A HOST underrun under REPEAT: the frame is not used (R153, R584). -/
  unused : Bool
  /-- DIE SHUTDOWN or a stop left the composition undone. -/
  finished : Bool
  /-- Free-value numbers of the frame (R138, R195). -/
  free : Nat
  deriving DecidableEq, Repr

/-- A running fade (R198). -/
structure Fade where
  start : Nat
  target : Nat
  square : Bool
  n : Nat
  /-- Frames of the fade composed so far. -/
  k : Nat
  deriving DecidableEq, Repr

/-- A PLANE switch (R214). -/
inductive PlaneSwitch where
  /-- In the shadow or waiting for its commit. -/
  | staged (base : Nat)
  /-- The background copy runs. -/
  | copying (base : Nat)
  /-- Copied; takes effect at the next latch point. -/
  | copied (base : Nat)
  deriving DecidableEq, Repr

/-- Photometry (PHO_*). -/
structure Photo where
  planeBase : Nat
  plane : Option PlaneSwitch
  /-- The CAL_LOAD PLANE that completes at the switch (R214). -/
  planeCmd : Option Cmd
  fade : Option Fade
  /-- The fade was taken after the composition under way had started: that frame is none of its (R198). -/
  fadeNew : Bool
  /-- F of the frame last composed. -/
  fadeNow : Nat
  /-- PHO_FADE.CURRENT: F of the last frame used (R216, R584). -/
  fadeShown : Nat
  /-- F_target. -/
  fadeTarget : Nat
  fadeSquare : Bool
  limit : Nat
  rise : Nat
  /-- The budget factor last set (R200). -/
  budget : Nat
  /-- A frame has been measured, and its factor is set when the next composition starts (R200). -/
  budgetDue : Bool
  /-- PHO_BUDGET_STATE.FACTOR: the factor of the last frame used (R216, R584). -/
  factor : Nat
  /-- S of the last frame in units of 2^-16 LU (R200). -/
  demand : Nat
  /-- In units of 1/256 LU, and the largest zone shortfall in 1/16 LU (R205). -/
  shortfall : Nat
  shortZone : Nat
  shortAmount : Nat
  shortPx : Nat
  satCnt : Nat
  shortLimit : Nat
  defaultRec : DWord
  bins : Tab Bin 16
  /-- d_thermal and t_tile taken at the last VBI. -/
  dThermal : Nat
  temp : Tab Int 96
  noTemp : Bool
  subst : Tab Bool 96
  tempSubst : Bool
  /-- Health override list, oldest first, at most 512 (R206). -/
  overrides : List Override
  ovrFull : Bool
  zoneCopy : Envelope
  deriving DecidableEq, Repr

/-- Reset of a bin (R195 table Bin parameters). -/
def Bin.reset : Bin := { tRef := 0x190, tKnee := 0x550, slope := 0, dMin := 0x8000 }

/-- The reset default record (R194). -/
def defaultRecord : DWord := 0x0000800000004000#64

/-- Reset of photometry. -/
def Photo.reset : Photo :=
  { planeBase := 0x01C80000, plane := none, planeCmd := none, fade := none, fadeNew := false,
    fadeNow := 0x8000, fadeShown := 0x8000, fadeTarget := 0x8000, fadeSquare := false, limit := 0,
    rise := 0x8000, budget := 0x8000, budgetDue := false, factor := 0x8000,
    demand := 0, shortfall := 0, shortZone := 0, shortAmount := 0, shortPx := 0, satCnt := 0,
    shortLimit := 0x10000, defaultRec := defaultRecord, bins := Tab.all 16 Bin.reset,
    dThermal := 0x8000, temp := Tab.all 96 0x190, noTemp := false, subst := Tab.all 96 false,
    tempSubst := false, overrides := [], ovrFull := false, zoneCopy := .uncommissioned }

end Sys2Proof.Machine
end

