-- ==== Sys2Proof/Machine/State/Hedge.lean ====
section
/-!
DEFINITION. State of the Hedge (spec/08_hedge.md).
-/

namespace Sys2Proof.Machine

/-- One cause (R226, R230). -/
structure Cause where
  active : Bool
  /-- A cross-short was diagnosed: LATCH applies to this raising (R233). -/
  latched : Bool
  /-- A FAULT_ACK naming the Hedge group came after the cause was raised. -/
  acked : Bool
  /-- Releases since the last such FAULT_ACK. -/
  releases : Nat
  /-- When the cause was raised (model's own clock, ns), for FAULT_ACK's order. -/
  raisedAt : Nat
  deriving DecidableEq, Repr

/-- One safe-input channel (R231 to R233). -/
structure SafeCh where
  /-- Level after the filter. -/
  level : Bool
  /-- Within its own test window. -/
  window : Bool
  /-- The pulse in progress was sampled high, or the other channel was low: failed. -/
  pulseFailed : Bool
  pulseSampled : Bool
  /-- When the last pulse's falling edge was (model's clock, ns). -/
  pulseAt : Nat
  /-- Consecutive failed and passed tests. -/
  fails : Nat
  passes : Nat
  /-- When the channel last began to read high outside its windows; none while it reads low. -/
  highSince : Option Nat
  /-- It has passed a test pulse since then. -/
  passedSince : Bool
  lastPassed : Bool
  failCount : Nat
  deriving DecidableEq, Repr

/-- One disconnect switch (R235, R236). -/
structure Switch where
  /-- SAFE_FB level: high while the switch conducts. -/
  fb : Bool
  fails : Nat
  passes : Nat
  openTime : Nat
  lastPassed : Bool
  /-- A judged test found the feedback low, and no test has found it high since (R375). -/
  awaitHigh : Bool
  /-- The feedback read high again after a test then (R375); none if never. -/
  highAt : Option Nat
  deriving DecidableEq, Repr

/-- A disconnect test under way (R236, R237). -/
structure DiscTest where
  /-- false A, true B. -/
  second : Bool
  /-- SAFE_OFF asserted and not yet released. -/
  asserted : Bool
  /-- The feedback read low in time. -/
  opened : Bool
  powerUp : Bool
  requested : Bool
  /-- It repeats a failed test (R236). -/
  retry : Bool
  deriving DecidableEq, Repr

/-- A SAFE_TEST under way (R250). -/
structure SafeTest where
  cmd : Cmd
  /-- 0 INPUTS, 1 DISCONNECT, 2 PATH. -/
  test : Nat
  /-- Its own test has begun; before, a scheduled one runs to its end. -/
  begun : Bool
  passA : Option Bool
  passB : Option Bool
  /-- When its test began. -/
  since : Nat
  deriving DecidableEq, Repr

/-- A tile's echo bookkeeping (R224). -/
structure Echo where
  /-- Consecutive expected echoes missed. -/
  misses : Nat
  /-- The last expected echo was missed (HDG_ECHO_MISS). -/
  missed : Bool
  deriving DecidableEq, Repr

/-- The echo window of one latch point (R224). -/
structure EchoWin where
  /-- Number the echoes carry. -/
  seq : BitVec 16
  /-- Tile positions an echo is expected from, those that hold a floor zone, those whose echo came. -/
  expected : BitVec 96
  floor : BitVec 96
  got : BitVec 96
  /-- The block that judged the frame: its tile table names the slot of each position. -/
  block : Envelope
  /-- The frame was judged after L_G, so misses count (R577). -/
  counts : Bool
  deriving DecidableEq, Repr

/-- An accepted confirmation (R245): the block it makes active at the next latch point, and the CONFIRM
commands that complete then. -/
structure Confirmed where
  block : List Byte
  crc : Word
  cmds : List Cmd
  deriving DecidableEq, Repr

/-- The Hedge (HDG_*). -/
structure Hedge where
  /-- The active block; none until a block is active (R246). -/
  active : Option Envelope
  commissioned : Bool
  /-- The staged, checked block. -/
  staged : Option (List Byte)
  stagedCrc : Word
  /-- An accepted confirmation waits for the next latch point (R245). -/
  confirmed : Option Confirmed
  confirmFail : Bool
  commitCrc : Word
  /-- Always-on: HDG_ACTIVE_CRC, HDG_SELF and REF_VALID (R253). -/
  activeCrc : Word
  refValid : Bool
  selfRec : BitVec 6
  /-- A self-fault holds until SYS reset or POR (R238). -/
  selfHeld : Bool
  /-- The heartbeat reaches the always-on domain (R33). -/
  heartbeat : Bool
  /-- COMMISSION_N counts as low (R243, always-on); HDG_STATUS.LOCK is its opposite. -/
  commissionLow : Bool
  /-- The NOTE of R243 has been raised since then and since the last start. -/
  commNoted : Bool
  cause : Tab Cause 9
  /-- Consecutive rejections for ZONE_FLUX, GLOBAL_FLUX, FLOOR_CONTENT (R222). -/
  rejects : Tab Nat 3
  /-- Consecutive frames that passed each of those checks (R230). -/
  passRuns : Tab Nat 3
  rejectRun : Nat
  clampRun : Nat
  noClampRun : Nat
  echo : Tab Echo 96
  /-- Open echo windows, oldest first. -/
  echoWins : List EchoWin
  /-- The last window that closed had a miss (HDG_FRAME.ECHO). -/
  echoBad : Bool
  /-- The last comparison of R225 agreed. -/
  mapAgrees : Bool
  chA : SafeCh
  chB : SafeCh
  requests : Nat
  swA : Switch
  swB : Switch
  disc : Option DiscTest
  /-- A scheduled test has tested switch A and still has B to test (R236). -/
  discMid : Bool
  /-- A test of this switch failed and is to be repeated (R236). -/
  retryA : Bool
  retryB : Bool
  /-- The power-up test of each switch is done (R237). -/
  puDoneA : Bool
  puDoneB : Bool
  discFails : Nat
  test : Option SafeTest
  /-- When the block became active, and whether L_G has passed (R577). -/
  activeAt : Nat
  graceOver : Bool
  /-- The frame in the scan buffer was judged after L_G (R577). -/
  judgedLate : Bool
  frameSeq : BitVec 16
  frameFlags : BitVec 6
  clampedCnt : Nat
  ceiledCnt : Nat
  /-- G of the last frame in units of 2^-12 LU (R220). -/
  globalSum : Nat
  floorZone : Option Nat
  fluxZone : Option Nat
  rejectedCnt : Nat
  clampFrameCnt : Nat
  deriving DecidableEq, Repr

/-- Reset of a cause. -/
def Cause.reset : Cause :=
  { active := false, latched := false, acked := false, releases := 0, raisedAt := 0 }

/-- Reset of a safe-input channel (HDG_STATUS.IN_*, HDG_SAFEIN). -/
def SafeCh.reset : SafeCh :=
  { level := false, window := false, pulseFailed := false, pulseSampled := false, pulseAt := 0, fails := 0,
    passes := 0, highSince := none, passedSince := false, lastPassed := false, failCount := 0 }

/-- Reset of a switch (HDG_STATUS.FB_*, HDG_SAFEOFF). -/
def Switch.reset : Switch :=
  { fb := false, fails := 0, passes := 0, openTime := 0xFF, lastPassed := false, awaitHigh := false,
    highAt := none }

/-- Reset of a tile's echo bookkeeping. -/
def Echo.reset : Echo := { misses := 0, missed := false }

/-- Reset of the Hedge. -/
def Hedge.reset : Hedge :=
  { active := none, commissioned := false, staged := none, stagedCrc := 0, confirmed := none,
    confirmFail := false, commitCrc := 0, activeCrc := 0, refValid := false, selfRec := 0,
    selfHeld := false, heartbeat := true, commissionLow := false, commNoted := false, cause := Tab.all 9 Cause.reset,
    rejects := Tab.all 3 0, passRuns := Tab.all 3 0, rejectRun := 0, clampRun := 0,
    noClampRun := 0, echo := Tab.all 96 Echo.reset, echoWins := [], echoBad := false, mapAgrees := true,
    chA := SafeCh.reset, chB := SafeCh.reset, requests := 0, swA := Switch.reset,
    swB := Switch.reset, disc := none, discMid := false, retryA := false, retryB := false,
    puDoneA := false, puDoneB := false, discFails := 0,
    test := none, activeAt := 0, graceOver := false, judgedLate := false, frameSeq := 0, frameFlags := 0,
    clampedCnt := 0, ceiledCnt := 0, globalSum := 0, floorZone := none, fluxZone := none,
    rejectedCnt := 0, clampFrameCnt := 0 }

end Sys2Proof.Machine
end

