-- ==== Sys2Proof/Machine/State/Misc.lean ====
section
/-!
DEFINITION. State of boot, the I²C target, the auxiliary chains, the CRC unit, GPIO and the tests
(spec/19_management_aux.md, spec/20_test.md).
-/

namespace Sys2Proof.Machine

/-- What the device is: fuses, marking, straps (R2, R3, R513, R542, R551). -/
structure PartId where
  /-- GLN-9612: 12 lanes, 48 tiles. -/
  small : Bool
  /-- Ordering code -QI. -/
  qi : Bool
  step : Nat
  serial : DWord
  rollback : Nat
  /-- SHA-256 of the owner key; none while the fuses are blank. -/
  ownerKey : Option (BitVec 256)
  /-- ADDR2, ADDR1, ADDR0. -/
  addr : BitVec 3
  deriving DecidableEq, Repr

/-- An image slot's header, as far as it orders and identifies images (R512). -/
structure Slot where
  valid : Bool
  gen : Nat
  rollback : Nat
  fwVersion : BitVec 24
  deriving DecidableEq, Repr

/-- A commissioning record copy in flash (R521). -/
structure RecCopy where
  seq : Nat
  crc : Word
  block : List Byte
  deriving DecidableEq, Repr

/-- A FLASH_LOAD record (R518). -/
structure FlashRec where
  offset : Nat
  addr : Nat
  len : Nat
  crc : Word
  deriving DecidableEq, Repr

/-- An FW_STAGE under way (R519). -/
structure StageJob where
  cmd : Cmd
  slot : Bool
  rollback : Nat
  fwVersion : BitVec 24
  /-- The image, once its copy has ended; empty before. -/
  img : List Byte
  deriving DecidableEq, Repr

/-- A record write in progress or waiting (R521): the block, and the SAFETY_COMMIT if one waits. -/
structure RecWrite where
  block : List Byte
  crc : Word
  cmd : Option Cmd
  result : Result
  deriving DecidableEq, Repr

/-- Boot (BOOT_*), flash and start-up lists. -/
structure Boot where
  slot : Bool
  a : Slot
  b : Slot
  fail : Bool
  openKey : Bool
  actFail : Bool
  recFail : Bool
  rejected : BitVec 9
  rec0 : Option RecCopy
  rec1 : Option RecCopy
  /-- The record's block the Hedge loads at power-up (R246). -/
  record : Option RecCopy
  stage : Option StageJob
  /-- Record writes, first one running. -/
  writes : List RecWrite
  loads : List FlashRec
  startup : List Desc
  startupNext : Nat
  deriving DecidableEq, Repr

/-- The I²C target (MGT_STATUS, R522, R523, R395). -/
structure Mgt where
  base : Nat
  errors : Nat
  busy : Bool
  index : Nat
  mailbox : Desc
  /-- The completion buffer, always-on. -/
  cbuf : List Byte
  /-- A captured 4-byte field: its first index and value. -/
  captured : Option (Nat × Word)
  /-- A completion that waits for return to service: no completion is written in LIGHT_HOLD (R37), and the
  bytes it will write. -/
  late : Option (List Byte)
  deriving DecidableEq, Repr

/-- A word of a chain on its way to the value taken (R526, R527); without a fade in one frame. -/
structure AuxFade where
  word : Nat
  start : Nat
  target : Nat
  n : Nat
  k : Nat
  deriving DecidableEq, Repr

/-- An auxiliary chain (AUXc_*). -/
structure Aux where
  used : Bool
  ics : Nat
  ch : Nat
  wordBits : Nat
  div : Nat
  refreshMs : Nat
  /-- Committed words, word w = ic * CH + ch. -/
  words : List Nat
  fades : List AuxFade
  frames : Nat
  retFail : Nat
  /-- The frame being shifted: its words. -/
  shifting : Option (List Nat)
  /-- CRC of the previous frame; none before the first (R525). -/
  prevCrc : Option Nat
  /-- A shifted frame waits for its LAT pulse at the next latch point. -/
  latDue : Bool
  deriving DecidableEq, Repr

/-- A CRC unit channel (CRCU_CHc_*): the raw register. -/
structure Crcu where
  poly : Nat
  state : Word
  /-- Nothing has been written since reset: RESULT reads its reset value. -/
  fresh : Bool
  deriving DecidableEq, Repr

/-- GPIO (GPIO_CFG, GPIO_DATA). -/
structure Gpio where
  od : BitVec 16
  dir : BitVec 16
  inp : BitVec 16
  out : BitVec 16
  deriving DecidableEq, Repr

/-- Where a TEST_RUN stands (R536 to R541). -/
inductive TestPhase where
  /-- LANE_LOOP or YOKE_LOOP: waiting for the next latch point. -/
  | latch
  /-- The pattern runs. -/
  | pattern
  /-- Errors found, and whether it passed; the lane makes its warm bring-up. -/
  | bringUp (errors : Nat) (pass : Bool)
  /-- ETH_LOOP: frames left, frames failed, and the frame that is out. -/
  | frames (left failed : Nat) (sent : Option (List Byte))
  /-- LANE_ERR: latch points seen without a PIX. -/
  | pix (periods : Nat)
  /-- RAIL_CHECK: LIMIT_OK of the first test cycle, once run, and switching cycles since. -/
  | rail (limitOk : Option Bool) (cycles : Nat)
  deriving DecidableEq, Repr

/-- A TEST_RUN under way. -/
structure TestJob where
  cmd : Cmd
  test : Nat
  target : Nat
  depth : Nat
  slot : Nat
  count : Nat
  addr : Nat
  phase : TestPhase
  since : Nat
  deriving DecidableEq, Repr

/-- Tests (TST_*). -/
structure Test where
  test : Nat
  target : Nat
  lastSeq : Nat
  failed : Nat
  run : Nat
  job : Option TestJob
  deriving DecidableEq, Repr

/-- The part: a GLN-9624-QA, silicon step 1, blank fuses, straps low. -/
def PartId.reset : PartId :=
  { small := false, qi := false, step := 1, serial := 0, rollback := 0, ownerKey := none,
    addr := 0 }

/-- An empty slot. -/
def Slot.reset : Slot := { valid := false, gen := 0, rollback := 0, fwVersion := 0 }

/-- Reset of boot: the flash is unread. -/
def Boot.reset : Boot :=
  { slot := false, a := Slot.reset, b := Slot.reset, fail := false, openKey := false,
    actFail := false, recFail := false, rejected := 0, rec0 := none, rec1 := none, record := none,
    stage := none, writes := [], loads := [], startup := [], startupNext := 0 }

/-- Reset of the I²C target; I2C_BASE is the default of R516. -/
def Mgt.reset : Mgt :=
  { base := 9, errors := 0, busy := false, index := 0, mailbox := 0, cbuf := List.replicate 32 0,
    captured := none, late := none }

/-- Reset of a chain: not fitted (AUXc_CFG). -/
def Aux.reset : Aux :=
  { used := false, ics := 0, ch := 0, wordBits := 0, div := 1, refreshMs := 100, words := [],
    fades := [], frames := 0, retFail := 0, shifting := none,
    prevCrc := none, latDue := false }

/-- Reset of a CRC channel. -/
def Crcu.reset : Crcu := { poly := 0, state := 0xFFFFFFFF#32, fresh := true }

/-- Reset of GPIO. -/
def Gpio.reset : Gpio := { od := 0, dir := 0, inp := 0, out := 0 }

/-- Reset of the tests. -/
def Test.reset : Test := { test := 0, target := 0, lastSeq := 0, failed := 0, run := 0, job := none }

end Sys2Proof.Machine
end

