-- ==== Sys2Proof/Machine/State/Lamp.lean ====
section
/-!
DEFINITION. State of the Lamplighter, the device-wide shadow and the launch slots
(spec/09_lamplighter.md).
-/

namespace Sys2Proof.Machine

/-- Sync sources (R258). -/
inductive SyncSource where
  | free | syncIn | network
  deriving DecidableEq, Repr

/-- The frame timing (R254, R282). -/
structure Timing where
  source : SyncSource
  syncFalling : Bool
  teFalling : Bool
  freezeRepeat : Nat
  period : Nat
  vbi : Nat
  syncOffset : Nat
  epochS : Nat
  epochNs : Nat
  deriving DecidableEq, Repr

/-- One tile map entry (R272). -/
structure MapEntry where
  tile : Nat
  present : Bool
  mirrorX : Bool
  mirrorY : Bool
  teIn : Bool
  deriving DecidableEq, Repr

/-- The tile map: entry k = 4 * lane + slot. -/
abbrev TileMap := Tab MapEntry 96

/-- One write of the device-wide shadow (R62); a commit applies them in order. -/
inductive ShadowWrite where
  /-- LAYER_SET on layer n. -/
  | layer (n : Fin 9) (cfg : LayerCfg)
  /-- P_ENABLE of a LAYER_SET on P. -/
  | pEnable (on : Bool)
  /-- COEF_LOAD WARP. -/
  | warp (n : Fin 9) (w : Warp)
  /-- LAYER_PRESENT's show mask. -/
  | shown (mask : Byte)
  /-- LAYER_PRESENT's order. -/
  | order (o : BitVec 24)
  | timing (t : Timing)
  /-- One tile map entry. -/
  | map (k : Fin 96) (e : MapEntry)
  | bin (b : Fin 16) (v : Bin)
  | defaultRec (r : DWord)
  | plane (base : Nat)
  | fade (target : Nat) (square : Bool) (timeUs : Nat)
  | budget (limit rise : Nat)
  /-- AUX_WRITE of one chain's words, with its fade. -/
  | aux (c : Fin 4) (first : Nat) (words : List Nat) (frames : Nat)
  deriving DecidableEq, Repr

/-- A command that waits for its commit to be taken (R62), with the status and RESULT it carries. -/
structure CommitWait where
  cmd : Cmd
  /-- The number of its commit, counted since pairing (R460). -/
  num : Nat
  status : BitVec 16
  result : Result
  deriving DecidableEq, Repr

/-- An armed launch (R269). -/
structure Launch where
  s : Nat
  ns : Nat
  /-- Network time was already past LAUNCH when it was armed (R271). -/
  late : Bool
  writes : List ShadowWrite
  cmd : Cmd
  /-- Its number among the launches armed since pairing (R460). -/
  num : Nat
  deriving DecidableEq, Repr

/-- A TIMING_SET, or a DIM, taken and waiting for its first LAT (R283, R405). -/
structure TimingWait where
  cmd : Cmd
  seq : BitVec 16
  /-- Latch points since the take. -/
  frames : Nat
  /-- Latch points from the take to lock or holdover, once it has come. -/
  lockFrames : Option Nat
  noLock : Bool
  /-- Its timing is held under R280 and not in force yet. -/
  held : Bool
  /-- No composition has started since its take: COMMIT_TAKEN is not known yet (R417). -/
  unstarted : Bool
  deriving DecidableEq, Repr

/-- A PIX in scan order on a lane (R322): packet 4 * j + s. -/
structure ScanPos where
  j : Nat
  s : Nat
  deriving DecidableEq, Repr

/-- Where the writes are now that the general shadow held at the last latch point. -/
inductive ShadowPlace where
  /-- In the general shadow still. -/
  | general
  /-- In the commit of that number, seen since. -/
  | commit (num : Nat)
  /-- In the launch of that number, armed since. -/
  | launch (num : Nat)
  | gone
  deriving DecidableEq, Repr

/-- The Lamplighter (LPL_*). -/
structure Lamp where
  timing : Timing
  /-- Timing and map settings held by R280. -/
  heldTiming : Option Timing
  budgetMap : List (Fin 96 × MapEntry)
  /-- Map settings held by R276. -/
  heldMap : List (Fin 96 × MapEntry)
  budgetHold : Bool
  mapHold : Bool
  /-- The map of the current scan-out and the one the next scan-out will use (R274). -/
  map : TileMap
  mapNext : TileMap
  /-- The frame counter: the number of the frame being composed (R256). -/
  composing : BitVec 16
  commitTaken : BitVec 16
  lastLat : BitVec 16
  /-- The two output buffers (R107), the one being scanned, and whether its scan is a repeat. -/
  buf : Tab (Option Frame) 2
  /-- What the two buffers held before the last reset or SLEEP, which keep it (R125, R132). -/
  old : Tab (Option Frame) 2
  scan : Fin 2
  repeatScan : Bool
  /-- Scan-out runs since the last VBI end. -/
  scanning : Bool
  /-- The frame being composed. -/
  work : Option Frame
  locked : Bool
  hold : Bool
  syncLost : Bool
  holdover : Bool
  goodRun : Nat
  badRun : Nat
  lastEdge : Option Nat
  /-- The last good intervals, newest first, at most 4. -/
  intervals : List Nat
  /-- The last good edge (R260). -/
  goodEdge : Option Nat
  phaseErr : Int
  /-- When the last latch point was, whether there has been one since reset, its network time t_L (R262), and whether its VBI lasts still. -/
  lastLatch : Nat
  latched : Bool
  tL : Int
  inVbi : Bool
  /-- General shadow: writes since the last commit the Lamplighter saw. -/
  shadow : List ShadowWrite
  /-- The general shadow as it stood at the last latch point, and where those writes are (R270). -/
  shadowL : List ShadowWrite
  shadowAt : ShadowPlace
  /-- Writes of the commits seen and not yet taken, one list a commit, oldest first. -/
  seen : List (List ShadowWrite)
  commitPending : Bool
  waits : List CommitWait
  /-- TILE_MAP_SETs whose commit was taken while their entries stay held (R276, R280). -/
  mapWait : List CommitWait
  /-- Commands taken at a latch point at which no composition starts: they complete when the next one
  starts (R417). -/
  taken : List CommitWait
  /-- Settings were taken at such a latch point. -/
  heldTake : Bool
  launches : List Launch
  lateLaunches : Nat
  timingWait : List TimingWait
  repeats : Nat
  repeatRun : Nat
  /-- REPEAT has been raised for the run under way (R281). -/
  repeatNoted : Bool
  /-- LATs in a row whose echo was stale, and whether one has come since the last LAT (R281). -/
  staleRun : Tab Nat 96
  staleNow : Tab Bool 96
  frRepeat : Bool
  frSequence : Bool
  frStale : Bool
  staleTile : Nat
  stall : Bool
  /-- DIE SHUTDOWN has stopped the LATs, which resume with the first frame composed after it (R420): whether a
  composition has started since. -/
  resume : Option Bool
  /-- Tearing guard: the LAT number whose echo entry k owes, and entries skipped this scan (R277). -/
  teWait : Tab (Option (BitVec 16)) 96
  teSkip : Tab Bool 96
  teMisses : Nat
  lastTile : Nat
  badEdges : Nat
  lockLosses : Nat
  /-- Number of the last LAT whose MASK held the entry. -/
  lastTo : Tab (Option (BitVec 16)) 96
  /-- Entries the scan-out under way serves (R275, R277, R318). -/
  served : Tab Bool 96
  /-- Entries whose LAT of the frame being scanned is withheld under R25 or R328. -/
  withheld : Tab Bool 96
  /-- The LAT of the scan under way is withheld from every tile (R225). -/
  latOff : Bool
  /-- A parameter block became active at this latch point: a held map goes with it (R276). -/
  mapGo : Bool
  /-- Lock waits for the lanes whose rate DIM changed, and then for this many latch points (R390). -/
  relock : Option Nat
  /-- Next PIX of each lane's scan-out; none when its scan is done. -/
  pos : Tab (Option ScanPos) 24
  deriving DecidableEq, Repr

/-- Reset timing (LPL_PERIOD, LPL_VBI, LPL_CFG). -/
def Timing.reset : Timing :=
  { source := .free, syncFalling := false, teFalling := false, freezeRepeat := 8,
    period := 10000000, vbi := 8000, syncOffset := 0, epochS := 0, epochNs := 0 }

/-- An empty map entry. -/
def MapEntry.reset : MapEntry :=
  { tile := 0, present := false, mirrorX := false, mirrorY := false, teIn := false }

/-- Reset of the Lamplighter; the tile map is the image's, empty until one is applied. -/
def Lamp.reset : Lamp :=
  { timing := Timing.reset, heldTiming := none, budgetMap := [], heldMap := [], budgetHold := false,
    mapHold := false, map := Tab.all 96 MapEntry.reset, mapNext := Tab.all 96 MapEntry.reset,
    composing := 0, commitTaken := 0, lastLat := 0, buf := Tab.all 2 none, old := Tab.all 2 none, scan := 0,
    repeatScan := false, scanning := false, work := none, locked := false, hold := false,
    syncLost := false, holdover := false, goodRun := 0, badRun := 0, lastEdge := none,
    intervals := [], goodEdge := none, phaseErr := 0, lastLatch := 0, latched := false, tL := 0, inVbi := false, shadow := [],
    shadowL := [], shadowAt := .gone, seen := [],
    commitPending := false, waits := [], mapWait := [], taken := [], heldTake := false, launches := [],
    lateLaunches := 0, timingWait := [],
    repeats := 0, repeatRun := 0, repeatNoted := false, staleRun := Tab.all 96 0, staleNow := Tab.all 96 false,
    frRepeat := false,
    frSequence := false, frStale := false, staleTile := 0, stall := false, resume := none,
    teWait := Tab.all 96 none, teSkip := Tab.all 96 false, teMisses := 0, lastTile := 0,
    badEdges := 0, lockLosses := 0, lastTo := Tab.all 96 none, served := Tab.all 96 false,
    withheld := Tab.all 96 false, latOff := false, mapGo := false, relock := none,
    pos := Tab.all 24 none }

end Sys2Proof.Machine
end

