-- ==== Sys2Proof/Machine/State/Power.lean ====
section
/-!
DEFINITION. State of the power sequencer, the clocks, the start sequence and the control cores
(spec/01_architecture.md R35 to R40, spec/14_power_wake.md, spec/23_bringup.md).
-/

namespace Sys2Proof.Machine

/-- Power states (R380). -/
inductive PState where
  | run | lightHold | dim | nightwatch | sleep | dormant
  deriving DecidableEq, Repr

/-- The code of a power state (table Power states). -/
def PState.code : PState → Nat
  | .run => 0 | .lightHold => 1 | .dim => 2 | .nightwatch => 3 | .sleep => 4 | .dormant => 5

/-- DIM parameters in force and what RUN restores (R390, R391). -/
structure DimState where
  period : Nat
  vbi : Nat
  rate : Nat
  saved : Timing
  savedRates : Tab Nat 24
  deriving DecidableEq, Repr

/-- A POWER_REQUEST DIM or RUN whose commit has not been taken; none means RUN. -/
structure DimReq where
  cmd : Cmd
  dim : Option DimState
  deriving DecidableEq, Repr

/-- How far the first steps of a low-power entry have come (R387): waiting for the next latch point, the rails'
sequenced stop, lanes and link and DMA and rings stopped. -/
inductive LowStep where
  | latch | rails | engines
  deriving DecidableEq, Repr

/-- A low-power entry in progress (R387). -/
structure LowEntry where
  cmd : Cmd
  target : PState
  keepTime : Bool
  wakeEn : BitVec 6
  step : LowStep
  /-- The entry has passed its commit point (step 6). -/
  committed : Bool
  deriving DecidableEq, Repr

/-- What started the start sequence (R572, R397). -/
inductive StartKind where
  | por | sys | cold | warm
  deriving DecidableEq, Repr

/-- A start or wake in progress (R572, R397). -/
structure Start where
  kind : StartKind
  /-- Clock of the wake event or of the release. -/
  since : Nat
  pgCore : Bool
  pgSram : Bool
  analogue : Bool
  /-- Phase D has finished: initialisation, start-up march or release of retention. -/
  granary : Bool
  /-- The image runs (phase F), or the wake image has been restored. -/
  restored : Bool
  /-- A Hedge block has been made active or refused (phase G). -/
  record : Bool
  /-- 1 ms wait after a timeout (R401). -/
  waiting : Bool
  tries : Nat
  /-- The steps that timed out, not yet raised as events (R401). -/
  failed : List Nat
  /-- L0 of the wake frame has been placed; latch points since (R398). -/
  l0 : Option Nat
  deriving DecidableEq, Repr

/-- Why the control cores are down. -/
inductive HoldCause where
  | reset | lockstep | watchdog | activation
  deriving DecidableEq, Repr

/-- The control cores (R35 to R40). -/
structure Cores where
  /-- Firmware runs. -/
  up : Bool
  /-- Ports are served (phase K). -/
  served : Bool
  /-- The state LIGHT_HOLD was entered from, and the failed attempts so far. -/
  holdFrom : Option PState
  attempts : Nat
  /-- Held in reset after the third failed attempt (R40). -/
  stuck : Bool
  /-- A staged firmware is being activated; BURN (R520). -/
  activating : Option Bool
  deriving DecidableEq, Repr

/-- JTAG instructions (R542). -/
inductive JtagInstr where
  | bypass | idcode | samplePreload | extest | clamp | highz
  deriving DecidableEq, Repr

/-- The power sequencer, always-on registers and clocks (PWR_*, CLK_*). -/
structure Power where
  state : PState
  lastState : PState
  keepTime : Bool
  sleepAborted : Bool
  imageBad : Bool
  wakeFail : Bool
  failStep : Nat
  wakeSrc : BitVec 6
  wakeEn : BitVec 6
  wakeTimeoutMs : Nat
  imageBase : Nat
  nwAmbCh : Nat
  nwDebounce : Nat
  nwPeriod : Nat
  ambHigh : Nat
  ambLow : Nat
  tempLow : Int
  tempHigh : Int
  nwHottest : Int
  nwOutside : Nat
  nwAmbient : Nat
  wakes : Nat
  retries : Nat
  aborts : Nat
  xtalFail : Bool
  /-- XTAL32_FAIL has to be raised as a NOTE at the next wake (R382). -/
  xtalNote : Bool
  xtalActive : Bool
  /-- The Hedge oscillator runs; the PLLs are locked. -/
  hedgeOsc : Bool
  pllEth : Bool
  pllLane : Bool
  pllCore : Bool
  /-- CLK_STATUS.HEDGE_OSC, PLL_ETH, PLL_LANE and PLL_CORE: always-on, kept through SYS and every state (R406). -/
  clkHedge : Bool
  clkEth : Bool
  clkLane : Bool
  clkCore : Bool
  monHedge : Nat
  monEth : Nat
  monLane : Nat
  monCore : Nat
  regEnCore : Bool
  regEnSram : Bool
  /-- Domains powered and out of isolation. -/
  core : Bool
  hedge : Bool
  analogue : Bool
  serdes : Bool
  dim : Option DimState
  dimReq : Option DimReq
  entry : Option LowEntry
  /-- A wake event came after the commit point (R388). -/
  latched : Bool
  start : Option Start
  /-- SYS_RST_N low, TESTEN high: the device is held in SYS reset. -/
  rstLow : Bool
  testen : Bool
  /-- The JTAG instruction loaded (R542). -/
  tap : JtagInstr
  /-- PERST_N low. -/
  perstLow : Bool
  /-- The die bridge works (R21). -/
  bridge : Bool
  cores : Cores
  /-- The level VDDIO_AO, VDDIO_1 and VDDIO_2 took at the last rise of their supply: 3.3 V, else 1.8 V (R548). -/
  io33 : Tab Bool 3
  /-- WAKE has been high for 100 ns and is high still (R394, R396). -/
  wakeHigh : Bool
  deriving DecidableEq, Repr

/-- Cores held until the boot ROM starts firmware. -/
def Cores.reset : Cores :=
  { up := false, served := false, holdFrom := none, attempts := 0, stuck := false,
    activating := none }

/-- The start sequence right after a release, for a cold start of the given kind. -/
def Start.begin (kind : StartKind) (now : Nat) : Start :=
  { kind := kind, since := now, pgCore := false, pgSram := false, analogue := false,
    granary := false, restored := false, record := false, waiting := false, tries := 0, failed := [], l0 := none }

/-- Reset of the power sequencer (PWR_*, CLK_*): POR has just released, both regulators are still off (R385). -/
def Power.reset : Power :=
  { state := .run, lastState := .run, keepTime := false, sleepAborted := false, imageBad := false,
    wakeFail := false, failStep := 0, wakeSrc := 0, wakeEn := 0, wakeTimeoutMs := 5,
    imageBase := 0x3B0, nwAmbCh := 0, nwDebounce := 1, nwPeriod := 1000, ambHigh := 0xFFF,
    ambLow := 0, tempLow := -1024, tempHigh := 0x0C80, nwHottest := 0, nwOutside := 0,
    nwAmbient := 0, wakes := 0, retries := 0, aborts := 0, xtalFail := false, xtalNote := false,
    xtalActive := false, hedgeOsc := false, pllEth := false, pllLane := false, pllCore := false,
    clkHedge := false, clkEth := false, clkLane := false, clkCore := false,
    monHedge := 0, monEth := 0, monLane := 0, monCore := 0, regEnCore := false, regEnSram := false,
    core := false, hedge := false, analogue := false, serdes := false, dim := none,
    dimReq := none, entry := none, latched := false, start := some (Start.begin .por 0),
    rstLow := false, testen := false, tap := .idcode, perstLow := true, bridge := true,
    cores := Cores.reset, io33 := Tab.all 3 true, wakeHigh := false }

end Sys2Proof.Machine
end

