-- ==== Sys2Proof/Machine/State/Rail.lean ====
section
/-!
DEFINITION. State of the tile supply rails (spec/13_tile_rails.md).
-/

namespace Sys2Proof.Machine

/-- Rail states (R368). -/
inductive RailState where
  | off | waitSeq | softStart | regulate | softStop | suspended | faultWait | latched | hold
  deriving DecidableEq, Repr

/-- RAIL_n_STATUS.SUSPEND. -/
inductive Suspend where
  | none | disconnect | standby | predecessor
  deriving DecidableEq, Repr

/-- A rail entry of the board table (R366). -/
structure RailEntry where
  used : Bool
  seq : Nat
  linkPrev : Bool
  seqDelay : Nat
  vDefault : Nat
  vMin : Nat
  vMax : Nat
  iMax : Nat
  rsense : Nat
  ssTime : Nat
  kp : Nat
  ki : Nat
  kc : Nat
  retryMax : Nat
  ocTime : Nat
  deriving DecidableEq, Repr

/-- The fault a rail has recorded in this switching cycle (R375): its code, its counter before it, and the
state and LIMIT of the rail before it. -/
structure CycleFault where
  code : Nat
  count : Nat
  state : RailState
  limit : Bool
  deriving DecidableEq, Repr

/-- One rail controller (RAIL_n_*). Voltages in mV, currents in mA, duty in U0.16. -/
structure Rail where
  entry : RailEntry
  state : RailState
  /-- In WAIT_SEQ: its sequence turn has come, and it waits for a lower rail only (R368). -/
  turn : Bool
  suspend : Suspend
  lastFault : Nat
  cycleFault : Option CycleFault
  restarts : Nat
  /-- EN, in the always-on domain (R368). -/
  en : Bool
  limit : Bool
  pgood : Bool
  vs : Nat
  i : Nat
  vSet : Nat
  iLim : Nat
  duty : Nat
  integ : Nat
  /-- The voltage target of the loop (vset_now of R364). -/
  target : Nat
  /-- SLEW of the last SET, mV per µs; a target not at V_SET moves by it. -/
  slew : Nat
  /-- The target when the ramp began, and 1 µs cycles since (R369). -/
  vsEntry : Nat
  rampAt : Nat
  /-- V_SET last changed then (R375: undervoltage blanked for 100 µs); none if never. -/
  changedAt : Option Nat
  nShort : Nat
  nOver : Nat
  nUnder : Nat
  nOther : Nat
  /-- The partner regulated this rail in the last RAIL message (R374). -/
  partnerDuty : Nat
  partnerVin : Nat
  deriving DecidableEq, Repr

/-- A sequenced start or stop in progress (R372): the rails named. -/
structure RailSeq where
  named : BitVec 8
  start : Bool
  deriving DecidableEq, Repr

/-- A RAIL_SET still running (R378). -/
structure RailJob where
  cmd : Cmd
  mask : BitVec 8
  /-- 0 SET, 1 ENABLE, 2 DISABLE. -/
  action : Nat
  /-- A named rail has entered FAULT_WAIT or LATCHED since (R378). -/
  fault : Bool
  deriving DecidableEq, Repr

/-- The eight rails and the rail map. -/
structure Rails where
  rail : Tab Rail 8
  /-- Rail of tile map entry k; 15 none (R367). -/
  map : Tab Nat 96
  seqs : List RailSeq
  jobs : List RailJob
  /-- The power-up test of both switches has ended (R371). -/
  allowed : Bool
  deriving DecidableEq, Repr

/-- An unused rail entry: the board table is absent until an image is applied. -/
def RailEntry.unused : RailEntry :=
  { used := false, seq := 0, linkPrev := false, seqDelay := 0, vDefault := 0, vMin := 0, vMax := 0,
    iMax := 0, rsense := 0, ssTime := 0, kp := 0, ki := 0, kc := 0, retryMax := 0, ocTime := 0 }

/-- Reset of a rail (RAIL_n_*). -/
def Rail.reset : Rail :=
  { entry := RailEntry.unused, state := .off, turn := false, suspend := .none, lastFault := 0, cycleFault := none, restarts := 0,
    en := false, limit := false, pgood := false, vs := 0, i := 0, vSet := 0, iLim := 0,
    duty := 0, integ := 0, target := 0, slew := 0, vsEntry := 0, rampAt := 0, changedAt := none,
    nShort := 0, nOver := 0, nUnder := 0, nOther := 0, partnerDuty := 0, partnerVin := 0 }

/-- Reset of the rails. -/
def Rails.reset : Rails :=
  { rail := Tab.all 8 Rail.reset, map := Tab.all 96 15, seqs := [], jobs := [], allowed := false }

end Sys2Proof.Machine
end

