-- ==== Sys2Proof/Machine/State/Reeve.lean ====
section
/-!
DEFINITION. State of the Reeve (spec/16_reeve.md).
-/

namespace Sys2Proof.Machine

/-- Event classes (R430): ordered NOTE, MINOR, MAJOR, CRITICAL. -/
inductive Class where
  | note | minor | major | critical
  deriving DecidableEq, Repr

/-- The code of a class (R430). -/
def Class.code : Class → Nat
  | .note => 0 | .minor => 1 | .major => 2 | .critical => 3

/-- The class of a code. -/
def Class.ofCode : Nat → Class
  | 0 => .note | 1 => .minor | 2 => .major | _ => .critical

/-- An event on its way to the Reeve (R430). -/
structure Event where
  group : Nat
  cls : Class
  detail : Word
  injected : Bool
  /-- When its detector fired (model's clock, ns). -/
  at' : Nat
  deriving DecidableEq, Repr

/-- A log entry (table Log entry). -/
structure LogEntry where
  ns : Nat
  seconds : Nat
  source : Nat
  injected : Bool
  activation : Bool
  cls : Class
  held : Option Class
  escalated : Bool
  lostBefore : Bool
  seq : BitVec 16
  detail : Word
  deriving DecidableEq, Repr

/-- One copy of a group's counting variables (R433, R439): times on the model's clock, ns. -/
structure Counting where
  winOpen : Bool
  winStart : Nat
  k : Nat
  top : Class
  last : Nat
  held : Option Class
  latched : Bool
  rec' : Nat
  events : Nat
  deriving DecidableEq, Repr

/-- One source group (RVE_SRCs_*). -/
structure Group where
  n : Nat
  rlimit : Nat
  /-- Units of 100 µs. -/
  w : Nat
  /-- ms. -/
  q : Nat
  real : Counting
  inj : Counting
  deriving DecidableEq, Repr

/-- RVE_FIRST. -/
structure FirstRec where
  injected : Bool
  cls : Class
  source : Nat
  seq : BitVec 16
  deriving DecidableEq, Repr

/-- A DIAG_INJECT whose events have not all been processed (R448). -/
structure InjectJob where
  cmd : Cmd
  source : Nat
  cls : Class
  detail : Word
  /-- Events not yet processed. -/
  left : Nat
  /-- SEQ of the first event, once processed. -/
  first : Option (BitVec 16)
  deriving DecidableEq, Repr

/-- The Reeve (RVE_*). -/
structure Reeve where
  /-- Events raised and not yet processed, oldest first. -/
  inbox : List Event
  /-- The log, oldest first, at most 512 (R431). -/
  log : List LogEntry
  /-- Entries that wait for the log, oldest first, at most 64, and the first 600 MHz cycle in which it can take another
  (R431). -/
  queue : List LogEntry
  logCycle : Nat
  nextSeq : BitVec 16
  lost : Nat
  /-- The next entry written carries LOST_BEFORE. -/
  lostFlag : Bool
  note : BitVec 64
  group : Tab Group 64
  faultnClass : Class
  irqClass : Class
  vector : Nat
  irqEn : Bool
  first : Option FirstRec
  injKey : BitVec 16
  lock : Bool
  /-- Always-on: REEVE_LOST and the first CRITICAL (R441). -/
  lostAo : Bool
  crit : Option (Nat × BitVec 16)
  /-- A SYS reset has come since REEVE_LOST was set (R442). -/
  revive : Bool
  injects : List InjectJob
  deriving DecidableEq, Repr

/-- Cleared counting variables. -/
def Counting.reset : Counting :=
  { winOpen := false, winStart := 0, k := 0, top := .note, last := 0, held := none,
    latched := false, rec' := 0, events := 0 }

/-- Default N, W in 100 µs, Q in ms of a group (R432); where W is a dash N is 1, and W is 1 here. -/
def defaultNwq (s : Nat) : Nat × Nat × Nat :=
  if s = 0 then (1, 1, 1000)
  else if s = 1 then (1, 1, 0)
  else if s = 2 then (1, 1, 10000)
  else if s = 3 then (1, 1, 60000)
  else if s = 4 then (1, 1, 1000)
  else if s = 6 then (3, 1000, 10000)
  else if s = 8 then (16, 10000, 10000)
  else if s = 10 then (8, 10000, 10000)
  else if 14 ≤ s ∧ s ≤ 20 then (4, 10000, 10000)
  else if s = 21 then (1, 1, 60000)
  else if s = 22 then (4, 10000, 10000)
  else if s = 35 ∨ s = 36 ∨ s = 37 then (4, 10000, 10000)
  else if s = 38 then (1, 1, 60000)
  else if s = 39 then (16, 10000, 10000)
  else if s = 40 then (3, 1000, 10000)
  else if s = 41 ∨ s = 42 then (1, 1, 0)
  else if s ≤ 45 then (1, 1, 10000)
  else (1, 1, 0)

/-- Reset of group s: the image defaults (R432). -/
def Group.reset (s : Nat) : Group :=
  { n := (defaultNwq s).1, rlimit := 8, w := (defaultNwq s).2.1, q := (defaultNwq s).2.2,
    real := Counting.reset, inj := Counting.reset }

/-- Reset of the Reeve. -/
def Reeve.reset : Reeve :=
  { inbox := [], log := [], queue := [], logCycle := 0, nextSeq := 0, lost := 0, lostFlag := false, note := 0,
    group := Vector.ofFn fun s : Fin 64 => Group.reset s.val, faultnClass := .major,
    irqClass := .minor, vector := 0, irqEn := false, first := none, injKey := 0, lock := false,
    lostAo := false, crit := none, revive := false, injects := [] }

end Sys2Proof.Machine
end

