-- ==== Sys2Proof/Machine/State/Thermal.lean ====
section
/-!
DEFINITION. State of the thermal unit and of self-calibration (spec/15_thermal_calibration.md).
-/

namespace Sys2Proof.Machine

/-- The debounce state of a sensor (R413). Temperatures in 1/16 °C; states 0 NORMAL to 3 SHUTDOWN. -/
structure SensorState where
  temp : Int
  state : Nat
  nUp : Nat
  mUp : Nat
  nDn : Nat
  mDn : Nat
  broken : Bool
  /-- Consecutive implausible samples. -/
  badRun : Nat
  deriving DecidableEq, Repr

/-- An on-die or remote sensor (R407, R408). -/
structure Sensor where
  st : SensorState
  used : Bool
  light : Bool
  fast : Bool
  /-- Samples taken every 1 ms since the last one on the 10 ms schedule (R411, R423). -/
  ticks : Nat
  /-- A valid sample has been taken since reset. -/
  seen : Bool
  /-- BROKEN because of a die-bridge loss (R21, R410). -/
  bridge : Bool
  /-- Remote entry: TYPE is NTC, OFFSET in 1/16 K, R25 in Ω, BETA in K. -/
  ntc : Bool
  offset : Int
  r25 : Nat
  beta : Nat
  deriving DecidableEq, Repr

/-- A tile position's sensor (R410, R411). -/
structure TileSensor where
  st : SensorState
  /-- The last report, 0x8000 meaning invalid. -/
  report : BitVec 16
  /-- A report has come since the previous sample. -/
  fresh : Bool
  stale : Bool
  /-- A report has been sampled since reset (R196, R411). -/
  sampled : Bool
  deriving DecidableEq, Repr

/-- Thresholds and hystereses of a class (R412): states 1 to 3, in 1/16 °C and 1/16 K. -/
structure ClassLimits where
  warn : Int
  throttle : Int
  shutdown : Int
  hWarn : Nat
  hThrottle : Nat
  hShutdown : Nat
  deriving DecidableEq, Repr

/-- One class (THM_CLASSc_*) and its level (R415, R421). -/
structure ThermClass where
  lim : ClassLimits
  /-- The boot image's thresholds, which THERMAL_SET may not exceed (R412). -/
  ceiling : ClassLimits
  stepMs : Nat
  maxLevel : Nat
  dStep : Nat
  level : Nat
  allBroken : Bool
  deriving DecidableEq, Repr

/-- A step of a calibration run (R422): item bit and sensor, rail or input number. -/
structure CalStep where
  item : Nat
  index : Nat
  deriving DecidableEq, Repr

/-- A calibration run (R423 to R425). -/
structure CalRun where
  items : BitVec 5
  steps : List CalStep
  /-- Items with a failed step. -/
  failed : BitVec 5
  /-- Accepted new values, by step. -/
  values : List (CalStep × Int)
  vbis : Nat
  tCal : Int
  cmd : Option Cmd
  /-- A step has run in the VBI under way (for VBIS). -/
  usedVbi : Bool
  deriving DecidableEq, Repr

/-- Trims in use and their fuse values. -/
structure Trims where
  adcOffset : Int
  adcGain : Int
  /-- 1/16 K, one per on-die sensor. -/
  sensor : Tab Int 16
  /-- 50 µV units. -/
  rail : Tab Int 8
  /-- 2^-16 relative to nominal. -/
  remote : Tab Int 8
  deriving DecidableEq, Repr

/-- The thermal unit and self-calibration (THM_*, CAL_*). -/
structure Thermal where
  sensor : Tab Sensor 24
  tile : Tab TileSensor 96
  die : ThermClass
  light : ThermClass
  /-- The throttle level in force (R415). -/
  inForce : Nat
  /-- The DIE class is in SHUTDOWN and the outputs of R420 are held. -/
  shutdown : Bool
  shutdowns : Nat
  brokenCnt : Nat
  throttles : Nat
  run : Option CalRun
  /-- A run waits for the first VBI: the items, and the CAL_RUN if one. -/
  trigger : Option (BitVec 5 × Option Cmd)
  tCal : Int
  /-- A run has started since reset (R423). -/
  ran : Bool
  calDt : Nat
  calMaxS : Nat
  lastFrame : BitVec 16
  lastFailed : BitVec 5
  lastApplied : BitVec 5
  trims : Trims
  fuse : Trims
  deriving DecidableEq, Repr

/-- Reset of a sensor's debounce. -/
def SensorState.reset : SensorState :=
  { temp := 0, state := 0, nUp := 0, mUp := 0, nDn := 0, mDn := 0, broken := false, badRun := 0 }

/-- Reset of sensor n: on-die sensors are used, remote inputs are the image's. -/
def Sensor.reset (n : Nat) : Sensor :=
  { st := SensorState.reset, used := decide (n ≤ 15), light := false, fast := false, ticks := 0, seen := false,
    bridge := false, ntc := false, offset := 0, r25 := 0, beta := 0 }

/-- Reset of a tile sensor: stale until its first report (R410, THM_TILE_BADn). -/
def TileSensor.reset : TileSensor :=
  { st := SensorState.reset, report := 0x8000#16, fresh := false, stale := true,
    sampled := false }

/-- Default DIE thresholds of the -QA ordering code (R412). -/
def defaultDie : ClassLimits :=
  { warn := 0x730, throttle := 0x7D0, shutdown := 0x870, hWarn := 48, hThrottle := 48,
    hShutdown := 160 }

/-- Default LIGHT thresholds (R412). -/
def defaultLight : ClassLimits :=
  { warn := 0x5A0, throttle := 0x640, shutdown := 0x730, hWarn := 48, hThrottle := 48,
    hShutdown := 160 }

/-- Reset of a class. -/
def ThermClass.reset (lim : ClassLimits) (maxLevel dStep : Nat) : ThermClass :=
  { lim := lim, ceiling := lim, stepMs := 500, maxLevel := maxLevel, dStep := dStep, level := 0,
    allBroken := false }

/-- Trims of 0: CAL_ADC and CAL_RAIL_OFS reset. -/
def Trims.reset : Trims :=
  { adcOffset := 0, adcGain := 0, sensor := Tab.all 16 0, rail := Tab.all 8 0,
    remote := Tab.all 8 0 }

/-- Reset of the thermal unit. -/
def Thermal.reset : Thermal :=
  { sensor := Vector.ofFn fun n : Fin 24 => Sensor.reset n.val,
    tile := Tab.all 96 TileSensor.reset, die := ThermClass.reset defaultDie 3 0,
    light := ThermClass.reset defaultLight 4 0x800, inForce := 0, shutdown := false,
    shutdowns := 0, brokenCnt := 0, throttles := 0, run := none, trigger := none, tCal := 0, ran := false,
    calDt := 0x080, calMaxS := 3600, lastFrame := 0, lastFailed := 0, lastApplied := 0,
    trims := Trims.reset, fuse := Trims.reset }

end Sys2Proof.Machine
end

