-- ==== Sys2Proof/Machine/State/Health.lean ====
section
/-!
DEFINITION. State of pixel health (spec/12_pixel_health.md).
-/

namespace Sys2Proof.Machine

/-- A health store entry (R343); the cleared entry is HealthEntry.zero. -/
structure HealthEntry where
  vfAvg : Nat
  vfRef : Nat
  bad : Nat
  good : Nat
  /-- KIND: the bad samples are short. -/
  short : Bool
  samples : Nat
  unmeas : Nat
  /-- UNMEAS reached UNMEAS_REPORTS, and the pixel has not been measured since (R345). -/
  counted : Bool
  deriving DecidableEq, Repr

/-- The cleared entry (R342). -/
def HealthEntry.zero : HealthEntry :=
  { vfAvg := 0, vfRef := 0, bad := 0, good := 0, short := false, samples := 0, unmeas := 0,
    counted := false }

/-- What pixel health keeps of a tile position (PXH_TILEt, PXH_TILEt_AUX, PXH_TILEt_SERIAL). -/
structure TileHealth where
  /-- In the tile-dark mask (R350). -/
  dark : Bool
  /-- The cause that a VBI has still to see gone (R351): 0 none, 1 unmapped, 2 link, 3 rail. -/
  reason : Nat
  newSerial : Bool
  unlocated : Bool
  /-- Consecutive STATUS packets with more faults than pixel health holds (R353). -/
  unlocRun : Nat
  stale : Bool
  serial : Word
  /-- The dead count exceeds DEAD_TILE_LIMIT since it was last at or below it (R348). -/
  over' : Bool
  /-- The reset of R352 is writing the position's records. -/
  resetting : Bool
  deriving DecidableEq, Repr

/-- A change waiting for its write into the record (R207, R208). -/
structure WriteBack where
  pixel : Nat
  health : Option Nat
  ageing : Option Nat
  deriving DecidableEq, Repr

/-- A HEALTH_SET STATE under way (R360): the rectangle's pixels not yet in the override list. -/
structure HealthJob where
  cmd : Cmd
  state : Nat
  x0 : Nat
  y0 : Nat
  x1 : Nat
  y1 : Nat
  /-- Pixels of the rectangle already listed, in raster order. -/
  done : Nat
  /-- A SHORT_CLEAR failed (TILE_NO_ANSWER). -/
  noAnswer : Bool
  /-- SHORT_CLEAR requests not yet answered. -/
  clears : Nat
  /-- Every change has been taken; FRAME_SEQ of the composition that follows (R360). -/
  taken : Option (BitVec 16)
  deriving DecidableEq, Repr

/-- Pixel health (PXH_*). -/
structure Health where
  /-- The health store: entries that are not cleared, by rising pixel number. -/
  store : List (Nat × HealthEntry)
  tile : Tab TileHealth 96
  vfOpen : Nat
  vfShort : Nat
  confirm : Nat
  clear : Nat
  unmeasReports : Nat
  deadTileLimit : Nat
  ageGain : Nat
  /-- VF_TC in 1/16 mV per K. -/
  vfTc : Int
  wornLimit : Nat
  parity : Nat
  held : Nat
  recount : Bool
  /-- Changes held while the override list is full, oldest first (R349): pixel, state. -/
  heldChanges : List (Nat × Nat)
  writes : List WriteBack
  sets : List HealthJob
  deriving DecidableEq, Repr

/-- Reset of a tile position (PXH_TILEt). -/
def TileHealth.reset : TileHealth :=
  { dark := true, reason := 1, newSerial := false, unlocated := false, unlocRun := 0,
    stale := false, serial := 0, over' := false,
    resetting := false }

/-- Reset of pixel health. -/
def Health.reset : Health :=
  { store := [], tile := Tab.all 96 TileHealth.reset, vfOpen := 3900, vfShort := 1000,
    confirm := 3, clear := 8, unmeasReports := 64, deadTileLimit := 64, ageGain := 0,
    vfTc := -32, wornLimit := 0xC000, parity := 0, held := 0, recount := false,
    heldChanges := [], writes := [], sets := [] }

end Sys2Proof.Machine
end

