-- ==== Sys2Proof/Machine/State/Link.lean ====
section
/-!
DEFINITION. State of the Xieri lanes and protocol
(spec/10_xieri_lanes.md, spec/11_xieri_protocol.md).
-/

namespace Sys2Proof.Machine

/-- XLP_LANEn_STATUS.STATE. -/
inductive LaneState where
  | off | detect | commaLock | polarity | reversal | enumerate | check | ready | down | loopback
  deriving DecidableEq, Repr

/-- XLP_LANEn_STATUS.REASON. -/
inductive LaneReason where
  | none | noPartner | commaLock | polarity | reversal | miswired | noTile | check | unused | badEntry
  deriving DecidableEq, Repr

/-- A board-table lane entry (R293). -/
structure LaneEntry where
  used : Bool
  rate : Nat
  minRate : Nat
  txSwing : Nat
  preEmph : Nat
  rxEq : Nat
  errRetrain : Nat
  mirror : Bool
  deriving DecidableEq, Repr

/-- A CFG or RDQ not yet answered, or not yet sent (R331). -/
structure CtlReq where
  /-- SLOT of the request: 0 to 3, 6 ALL, 7 UNASSIGNED. -/
  slot : Nat
  write : Bool
  addr : Nat
  data : BitVec 32
  match' : BitVec 32
  seq : BitVec 16
  repeats : Nat
  /-- It has been sent; one that comes up while the lane carries a scan-out waits for the next VBI. -/
  sent : Bool
  deriving DecidableEq, Repr

/-- A loopback in progress (R307, R533). -/
structure Loop where
  depth : Nat
  slot : Nat
  count : Nat
  /-- The receiver has not reached COM alignment within 100 µs (R308). -/
  noAlign : Bool
  deriving DecidableEq, Repr

/-- A lane's transmitter between packets (R290, R311). -/
structure LaneTx where
  /-- Half bit times of the symbol under way that have passed. -/
  halves : Nat
  /-- Symbols of other traffic since the last SKP ordered set. -/
  since : Nat
  /-- Symbols sent of the ordered set under way, and of a SKP ordered set under way. -/
  place : Nat
  skp : Nat
  /-- Running disparity is positive (R289). -/
  rd : Bool
  deriving DecidableEq, Repr

/-- A transmitter that leaves electrical idle. -/
def LaneTx.reset : LaneTx := { halves := 0, since := 0, place := 0, skp := 0, rd := false }

/-- One lane: physical layer and protocol. -/
structure Lane where
  entry : LaneEntry
  tx : LaneTx
  state : LaneState
  reason : LaneReason
  warm : Bool
  fbkActive : Bool
  rxInvert : Bool
  rate : Nat
  /-- The rate warm bring-ups start at (R301). -/
  targetRate : Nat
  rateDowns : Nat
  chainLen : Nat
  attempts : Nat
  /-- Valid training sets counted in the present state (R295). -/
  tsRun : Nat
  /-- The slot being asked in ENUMERATE, or in service under R305. -/
  asking : Option Nat
  /-- HOPS and SERIAL of the answers to HELLO for the present slot (R317). -/
  answers : List (Nat × BitVec 32)
  /-- Checks failed in a row at this rate (R300). -/
  checkFails : Nat
  /-- Pattern ended; slots whose CHECK_ERR report has come, and whether all errors were 0. -/
  patternDone : Bool
  reported : BitVec 4
  checkBad : Bool
  /-- When the lane last left READY, or OFF for DETECT (R303; model's clock, ns). -/
  leftAt : Nat
  codeErr : Nat
  dispErr : Nat
  realign : Nat
  los : Nat
  retrains : Nat
  loopPass : Bool
  loop : Option Loop
  loopDepth : Nat
  loopErr : Nat
  mode : Nat
  included : BitVec 4
  assigned : BitVec 4
  silent : Bool
  nakRx : Nat
  upCrc : Nat
  withheldCnt : Nat
  refusedCnt : Nat
  retry : Nat
  fail : Nat
  ctlSeq : BitVec 16
  requests : List CtlReq
  /-- When the last control packet sent ends (R331). -/
  ctlBusy : Nat
  /-- When the last UP_CRC NOTE was raised (R336: at most one a second). -/
  upCrcNote : Option Nat
  /-- CHAIN_LEN that takes effect at the next latch point (R305, R318). -/
  nextLen : Option Nat
  deriving DecidableEq, Repr

/-- What the device keeps of the tile at entry k = 4 * lane + slot (XLK_SLOTk_*). -/
structure SlotInfo where
  id : Word
  serial : Word
  fbCrc : Word
  dupMismatch : Nat
  temp : BitVec 16
  /-- Consecutive clean STATUS packets while being included (R318). -/
  clean : Nat
  /-- Consecutive latch points with the LAT withheld by a NAK or refused (R328). -/
  refusals : Nat
  /-- A LAT that latches the slot left at the last latch point, and it was refused. -/
  latNow : Bool
  refusedNow : Bool
  /-- A NAK withheld the LAT of the frame being scanned. -/
  nakNow : Bool
  deriving DecidableEq, Repr

/-- The link: lanes, slots and port orientation. -/
structure Link where
  lane : Tab Lane 24
  slot : Tab SlotInfo 96
  /-- XLP_PORT_ORIENT: flipped since the last cold bring-up, expected, mirrored. -/
  flipped : BitVec 6
  expected : BitVec 6
  mirror : BitVec 6
  /-- When the overrides of the lanes were last repeated (R227, R303; model's clock, ns). -/
  overrideAt : Nat
  deriving DecidableEq, Repr

/-- The lane entry used without a board table (R294). -/
def LaneEntry.default : LaneEntry :=
  { used := true, rate := 1, minRate := 0, txSwing := 8, preEmph := 2, rxEq := 4,
    errRetrain := 16, mirror := false }

/-- Reset of a lane. -/
def Lane.reset : Lane :=
  { entry := LaneEntry.default, tx := LaneTx.reset, state := .off, reason := .none, warm := false,
    fbkActive := false, rxInvert := false, rate := 0, targetRate := 1, rateDowns := 0,
    chainLen := 0, attempts := 0, tsRun := 0, asking := none, answers := [],
    checkFails := 0, patternDone := false, reported := 0, checkBad := false, leftAt := 0,
    codeErr := 0, dispErr := 0, realign := 0, los := 0, retrains := 0, loopPass := false,
    loop := none, loopDepth := 0, loopErr := 0, mode := 0, included := 0, assigned := 0,
    silent := false, nakRx := 0, upCrc := 0, withheldCnt := 0, refusedCnt := 0, retry := 0,
    fail := 0, ctlSeq := 0, requests := [], ctlBusy := 0, upCrcNote := none, nextLen := none }

/-- Reset of a slot's record. -/
def SlotInfo.reset : SlotInfo :=
  { id := 0, serial := 0, fbCrc := 0, dupMismatch := 0, temp := 0x8000#16, clean := 0,
    refusals := 0, latNow := false, refusedNow := false, nakNow := false }

/-- Reset of the link. -/
def Link.reset : Link :=
  { lane := Tab.all 24 Lane.reset, slot := Tab.all 96 SlotInfo.reset, flipped := 0,
    expected := 0, mirror := 0, overrideAt := 0 }

end Sys2Proof.Machine
end

