-- ==== Sys2Proof/Machine/State/Yoke.lean ====
section
/-!
DEFINITION. State of the Yoke (spec/17_yoke.md).
-/

namespace Sys2Proof.Machine

/-- Yoke states (R452). -/
inductive YokeState where
  | solo | seek | copy | standby | active | alone | excluded
  deriving DecidableEq, Repr

/-- The code of a yoke state. -/
def YokeState.code : YokeState → Nat
  | .solo => 0 | .seek => 1 | .copy => 2 | .standby => 3 | .active => 4 | .alone => 5
  | .excluded => 6

/-- A claim in progress (R454). -/
inductive Claim where
  | none | pulse | release
  deriving DecidableEq, Repr

/-- Take counts since pairing (R460). -/
structure TakeCounts where
  commits : Nat
  masks : Nat
  launches : Nat
  deriving DecidableEq, Repr

/-- What the partner's last LATCH said (R457). -/
structure PartnerLatch where
  seq : BitVec 16
  /-- t_L, units of 2^-16 ns. -/
  time : Int
  period : Nat
  counts : TakeCounts
  state : YokeState
  locked : Bool
  ready : BitVec 24
  /-- Arrival, model's clock. -/
  at' : Nat
  deriving DecidableEq, Repr

/-- One rail of a RAIL message (R457). -/
structure RailMsg where
  en : Bool
  vSet : Nat
  iLim : Nat
  duty : Nat
  vin : Nat
  deriving DecidableEq, Repr

/-- SHARED inputs (R462). -/
structure Shared where
  /-- t_tile; none when the leader has no valid temperature at all (R197). -/
  temp : Option (Tab Int 96)
  dThermal : Nat
  dark : BitVec 96
  level : Nat
  /-- The entries taken at that VBI (R206). -/
  overrides : List (Nat × Nat)
  /-- AGEING writes the leader makes in this VBI: pixel and value. -/
  ageing : List (Nat × Nat)
  deriving DecidableEq, Repr

/-- A frame signature with what SIG carries (R464). -/
structure Sig where
  seq : BitVec 16
  sig : Word
  activeCrc : Word
  digest : Word
  deriving DecidableEq, Repr

/-- A partner's HELLO (R457, R472). -/
structure Hello where
  serial : DWord
  pri : Bool
  fwMajor : Byte
  fwMinor : Byte
  activeCrc : Word
  cmpCrc : Word
  geoCrc : Word
  mapCrc : Word
  digest : Word
  sentLat : Bool
  /-- Sent after the partner's block became active (R579). -/
  active : Bool
  deriving DecidableEq, Repr

/-- A handover: the latch point named, and whether it has passed (R471). -/
structure Handover where
  seq : BitVec 16
  passed : Bool
  deriving DecidableEq, Repr

/-- A YOKE_SWITCH under way (R476). -/
structure YokeJob where
  cmd : Cmd
  /-- 0 HANDOVER, 1 JOIN. -/
  sub : Nat
  /-- JOIN: the SNAPSHOT has been sent at L; the frame the follower composes first. -/
  sent : Option (BitVec 16)
  deriving DecidableEq, Repr

/-- The Yoke (YOK_*). -/
structure Yoke where
  pri : Bool
  state : YokeState
  /-- Level of YOKE_ACT_N. -/
  line : Bool
  holding : Bool
  claim : Claim
  reason : Nat
  /-- The partner has been declared lost (R468). -/
  lost : Bool
  partner : Option PartnerLatch
  copyDone : Bool
  locked : Bool
  delayNs : Nat
  errorNs : Int
  goodRun : Nat
  badRun : Nat
  run : Nat
  frames : Nat
  alignMiss : Nat
  contentions : Nat
  handovers : Nat
  takeovers : Nat
  hello : Option Hello
  digest : Word
  returnEn : Bool
  returnS : Nat
  mismatchLimit : Nat
  /-- Own counts, and those already taken. -/
  own : TakeCounts
  taken : TakeCounts
  /-- Own counts as they stood at the latch point just passed (R264, R460). -/
  atL : TakeCounts
  /-- The partner's counts for the present latch point have arrived or the 4 µs have passed. -/
  counted : Bool
  rails : Tab RailMsg 8
  shared : Option Shared
  ownSig : Option Sig
  partnerSig : Option Sig
  /-- DUP_MISMATCH, and MISSING of the non-holder's input, in the STATUS of each entry's tile that follows
  the last latch point (R464). -/
  dup : Tab Nat 96
  missing : Tab Nat 96
  /-- The signatures of the frame judged last have been compared, and whether they differ (R464). -/
  compared : Option Bool
  /-- Whether the frame judged before it, latched at the last latch point, is a mismatch frame; none where no frame
  was judged then. -/
  latched : Option Bool
  /-- Consecutive mismatch frames before the frame latched last. -/
  runBefore : Nat
  cover : BitVec 24
  trip : Bool
  handover : Option Handover
  jobs : List YokeJob
  /-- COPY on the holder: blocks of the pass still to send, dirty blocks, sent in the pass. -/
  copyLeft : List Nat
  dirty : List Nat
  sentInPass : Nat
  lastMsg : Nat
  sentLat : Bool
  /-- The device follows the partner's LATCH messages (R458, R459). -/
  following : Bool
  /-- A locked follower whose leader's LATCHes have stopped leads, and its LATs go on (R459, R468). -/
  leads : Bool
  /-- The yoke lane has reached READY since the last HELLO (R472). -/
  greet : Bool
  /-- YOKE_PRI = 0: the first claim is permitted (R579). -/
  mayClaim : Bool
  lane : Lane
  deriving DecidableEq, Repr

/-- The board-table entry of the yoke lane without a board table (R294). -/
def LaneEntry.unused : LaneEntry := { LaneEntry.default with used := false }

/-- Reset of the Yoke (YOK_*): SEEK until a board table makes the device SOLO; the strap is low. -/
def Yoke.reset : Yoke :=
  { pri := false, state := .seek, line := false, holding := false, claim := .none, reason := 0,
    lost := false, partner := none, copyDone := false, locked := false, delayNs := 0, errorNs := 0,
    goodRun := 0, badRun := 0, run := 0, frames := 0, alignMiss := 0, contentions := 0,
    handovers := 0, takeovers := 0, hello := none, digest := 0, returnEn := true, returnS := 10,
    mismatchLimit := 3, own := ⟨0, 0, 0⟩, taken := ⟨0, 0, 0⟩, atL := ⟨0, 0, 0⟩, counted := false,
    rails := Tab.all 8 ⟨false, 0, 0, 0, 0⟩, shared := none, ownSig := none, partnerSig := none,
    dup := Tab.all 96 0, missing := Tab.all 96 0, compared := none, latched := none, runBefore := 0, cover := 0, trip := false,
    handover := none,
    jobs := [], copyLeft := [], dirty := [], sentInPass := 0, lastMsg := 0, sentLat := false,
    following := false, leads := false, greet := true, mayClaim := false,
    lane := { Lane.reset with entry := LaneEntry.unused } }

end Sys2Proof.Machine
end

