-- ==== Sys2Proof/Machine/State/Operand.lean ====
section
/-!
DEFINITION. Operand types of the commands: what the outside shows the block with an event.
-/

namespace Sys2Proof.Machine

/-- A PTP event or general message as received (R493, R497). Times in units of 2^-16 ns. -/
structure PtpIn where
  domain : Nat
  seq : Nat
  twoStep : Bool
  /-- originTimestamp, preciseOriginTimestamp, receiveTimestamp or requestReceiptTimestamp. -/
  time : Int
  /-- correctionField. -/
  correction : Int
  /-- The SFD passed this many half nanoseconds into the present 4 ns counter cycle. -/
  halfNs : Fin 8
  deriving DecidableEq, Repr

/-- An Announce as received (R496). -/
structure AnnounceIn where
  domain : Nat
  data : ClockData
  utcOffset : Int
  utcValid : Bool
  leap59 : Bool
  leap61 : Bool
  deriving DecidableEq, Repr

/-- Why a DMA read or write failed (R98 to R100). -/
inductive BeatError where
  /-- A completion with status UR. -/
  | unsupported
  /-- A completion with status CA. -/
  | aborted
  /-- Poisoned data. -/
  | poisoned
  deriving DecidableEq, Repr

/-- What of a DMA channel did not finish within 1 ms (R101). -/
inductive DmaWait where
  /-- A source request. -/
  | source
  /-- A destination write to the Granary. -/
  | dest
  /-- A descriptor fetch. -/
  | fetch
  deriving DecidableEq, Repr

/-- A DMA beat (R90 to R93): bytes that arrive from the host, bytes to move, or a failure. -/
inductive Beat where
  /-- Source bytes arrived from host memory. -/
  | fromHost (data : List Byte)
  /-- The next source beat of the Granary, or of an export's records; a fresh upset of the first word it reads. -/
  | fromGranary (upset : Upset)
  /-- Held bytes are written to the destination. -/
  | write
  /-- The source or destination access failed. -/
  | error (e : BeatError)
  deriving DecidableEq, Repr

/-- An I²C transaction to the device's address, or a bus error (R522, R523). -/
inductive I2cIn where
  /-- A write: the index and the bytes after it. -/
  | write (index : Byte) (data : List Byte)
  /-- A read of this many bytes from the stored index. -/
  | read (n : Fin 257)
  /-- A start or stop inside a byte. -/
  | busError
  deriving DecidableEq, Repr

/-- What the boot ROM found in one slot (R513). -/
structure SlotIn where
  header : List Byte
  fwSigOk : Bool
  cfgSigOk : Bool
  /-- SHA-256 of the slot's OWNER_KEY. -/
  keyHash : BitVec 256
  deriving DecidableEq, Repr

/-- What the boot ROM found in flash (R514): both slots, the configuration segment of the slot it
loads, both copies of the commissioning record. -/
structure ImageIn where
  a : SlotIn
  b : SlotIn
  cfgA : List Byte
  cfgB : List Byte
  rec0 : Option RecCopy
  rec1 : Option RecCopy
  deriving DecidableEq, Repr

/-- A partner's LATCH message (R457). -/
structure LatchMsg where
  seq : BitVec 16
  time : Int
  period : Nat
  counts : TakeCounts
  state : YokeState
  locked : Bool
  ready : BitVec 24
  /-- The follower's error against the leader (R458), in ns. -/
  errorNs : Int
  deriving DecidableEq, Repr

/-- A SNAPSHOT (R475): the settings the follower applies. -/
structure Snapshot where
  cmp : Compose
  pho : Photo
  timing : Timing
  map : TileMap
  /-- Timing and map entries taken and held (R276, R280). -/
  heldTiming : Option Timing
  budgetMap : List (Fin 96 × MapEntry)
  heldMap : List (Fin 96 × MapEntry)
  shadow : List ShadowWrite
  launches : List Launch
  counts : TakeCounts
  digest : Word
  rails : Tab RailMsg 8
  /-- Each auxiliary chain's committed words and fades. -/
  aux : Tab (List Nat × List AuxFade) 4
  deriving DecidableEq, Repr

/-- What the device sends out; State.out holds them newest first. -/
inductive Emit where
  /-- The answer to a host read: its bytes, and whether it is poisoned. -/
  | answer (data : List Byte) (poisoned : Bool)
  | hostRead (addr : Nat) (len : Nat) (attr : TlpAttr)
  | hostWrite (addr : Nat) (data : List Byte) (attr : TlpAttr)
  /-- A vector's MSI-X message: its address and data. -/
  | msix (vector : Nat) (message : DWord × Word) (attr : TlpAttr)
  /-- A lane, 24 the yoke lane; `since` symbols went before since the last SKP ordered set (laneWire gives the
  symbols). -/
  | lane (n : Fin 25) (p : LanePkt) (since : Nat)
  /-- A frame of a port: its egress stamp, its tag's VLAN ID and PCP, whether the hardware writes its UDP
  checksum as 0, and the header of a PTP message. Its FCS is the one the MAC forms over it. -/
  | eth (p : Fin 2) (f : EgFrame) (stamp : Int) (tag : Option (Nat × Nat)) (checksum0 : Bool)
      (ptp : Option PtpHead)
  /-- Bytes the I²C target returns; nak: the last byte offered was not acknowledged. -/
  | i2c (data : List Byte) (nak : Bool)
  | flashRead (offset : Nat) (len : Nat)
  | flashErase (offset : Nat)
  | flashWrite (offset : Nat) (data : List Byte)
  /-- A yoke message: its kind and the words that name it. -/
  | yoke (kind : Nat) (words : List Nat)
  /-- SNAPSHOT on the yoke lane. -/
  | snapshot (m : Snapshot)
  /-- An auxiliary chain's frame: its words and its CRC. -/
  | auxFrame (c : Fin 4) (words : List Nat) (crc : Nat)
  | auxLatch (c : Fin 4)
  /-- A PPS output leaves or returns to its idle level. -/
  | pps (o : Fin 4) (active : Bool)
  | fuse (rollback : Nat)
  deriving DecidableEq, Repr

end Sys2Proof.Machine
end

