-- ==== Sys2Proof/Syntax.lean ====
section
/-!
DEFINITION. The commands of the block: one constructor per row of spec/opcode_table.json, in the
table's order. Operands are what the outside shows or writes with the event; the rows of the command
opcodes carry the command's origin and its 64-byte descriptor (R52).
-/

namespace Sys2Proof

open Machine

/-- The commands, one per row of the table. -/
inductive Instr where
  /-- POR (R561): Loss of VIN_AO, or power-on, resets everything, including the always-on domain,
  and starts the start sequence when VIN_AO is released. -/
  | por (yokePri : Bool) (addr : BitVec 3)
  /-- SYS_RESET (R553): A SYS_RST_N low of at least 1 µs in RUN, DIM or LIGHT_HOLD resets
  everything except the always-on domain and the Bellhouse, and the device boots again on
  release. -/
  | sysReset
  /-- PG_CORE_LOSS (R561): PG_CORE low for at least 1 µs in RUN, LIGHT_HOLD or DIM causes a SYS
  reset. -/
  | pgCoreLoss
  /-- PG_SRAM_LOSS_IN_SLEEP (R561): PG_SRAM low for at least 1 µs in SLEEP marks the Granary
  content as lost, so the next wake runs cold with IMAGE_BAD set. -/
  | pgSramLossInSleep
  /-- TESTEN_CHANGE (R552): TESTEN high holds the device in SYS reset; TESTEN returning low
  releases it to boot. -/
  | testenChange (high : Bool)
  /-- CORE_RESET (R35): A control-core reset puts the device in LIGHT_HOLD while the pipeline
  carries on. -/
  | coreReset
  /-- LOCKSTEP_MISMATCH (R35): A disagreement between the lockstep control cores enters
  LIGHT_HOLD. -/
  | lockstepMismatch
  /-- WATCHDOG_EXPIRY (R35): Expiry of the firmware watchdog enters LIGHT_HOLD. -/
  | watchdogExpiry
  /-- FIRMWARE_RETURN_TO_SERVICE (R38): The firmware returns to service, discards shadow writes
  made after the last seen commit, completes interrupted commands and resumes at the oldest
  unconsumed entry. -/
  | firmwareReturnToService
  /-- FIRMWARE_RESTART_TIMEOUT (R40): A restart not complete within 30 ms is retried; after the
  third failure the cores are held in reset with FAULT_N low. -/
  | firmwareRestartTimeout
  /-- PERST_N_CHANGE (R554): PERST_N low holds the endpoint in fundamental reset with the effects
  of R44; release lets it leave reset. -/
  | perstNChange (high : Bool)
  /-- PCIE_FLR (R44): A Function Level Reset disables every ring, aborts host DMA and discards the
  completion of the executing command. -/
  | pcieFlr
  /-- PCIE_D3HOT (R44): A transition to D3hot has the same effects as a Function Level Reset. -/
  | pcieD3hot
  /-- PCIE_LINK_DOWN (R44): Loss of the PCI Express link has the effects of R44 and raises a PCIE
  event. -/
  | pcieLinkDown
  /-- PCIE_LINK_UP (R43): The PCI Express link trains and HIF_STATUS reports its speed and width. -/
  | pcieLinkUp (speed : BitVec 3) (width : BitVec 3)
  /-- PCIE_AER_ERROR (R432): An AER correctable or uncorrectable error is reported to the Reeve in
  group PCIE. -/
  | pcieAerError (uncorrectable : Bool) (status : Word)
  /-- BAR0_UNMAPPED_ACCESS (R14): A read or write of a BAR0 offset with no register returns 0 or
  is discarded, and raises a Reeve NOTE. -/
  | bar0UnmappedAccess (write : Bool) (off : BitVec 22)
  /-- BAR0_BAD_WIDTH_ACCESS (R45): A BAR0 access that is not a naturally aligned 32-bit access
  returns 0 or is discarded, and raises a Reeve NOTE. -/
  | bar0BadWidthAccess (write : Bool) (off : BitVec 22) (bytes : BitVec 13)
  /-- REGISTER_WRITE (R14): A BAR0 write to a register field without a row of its own stores RW
  values, clears W1C bits, or is ignored for RO, locked RWC and RSV fields. -/
  | registerWrite (off : BitVec 22) (value : Word)
  /-- REG64_LOW_READ (R13): A read of the low word of a 64-bit register returns it and copies the
  high word into the read holding word. -/
  | reg64LowRead (off : BitVec 22)
  /-- REG64_HIGH_READ (R13): A read of the high word of a 64-bit register returns the read holding
  word. -/
  | reg64HighRead (off : BitVec 22)
  /-- REG64_LOW_WRITE (R13): A write of the low word of a 64-bit register is kept in the write
  holding word. -/
  | reg64LowWrite (off : BitVec 22) (value : Word)
  /-- REG64_HIGH_WRITE (R13): A write of the high word writes the whole 64-bit register from the
  written word and the write holding word. -/
  | reg64HighWrite (off : BitVec 22) (value : Word)
  /-- HIF_KICK_SQ (R57): Writing an HIF_KICK.SQ bit causes one read of that submission ring's
  producer-index word within 1 µs. -/
  | hifKickSq (n : Fin 16)
  /-- HIF_KICK_CQ (R63): Writing an HIF_KICK.CQ bit causes a read of that completion ring's
  consumer-index word within 1 µs. -/
  | hifKickCq (n : Fin 16)
  /-- HIF_AUTH_WRITE (R76): A write to HIF_AUTH stores the written value AND IMAGE_CLASS as the
  port's mask, unless AUTH_LOCK is set. -/
  | hifAuthWrite (port : Fin 5) (value : BitVec 12)
  /-- HIF_LOCK_AUTH_LOCK (R76): Setting AUTH_LOCK makes every HIF_AUTH register read-only until
  SYS reset. -/
  | hifLockAuthLock
  /-- HIF_LOCK_RING_LOCK (R48): Setting RING_LOCK makes every RING field except ENABLE read-only
  until SYS reset. -/
  | hifLockRingLock
  /-- HIF_CNT_CLEAR_DROP (R78): Writing DROP clears HIF_CMDQ_DROP. -/
  | hifCntClearDrop
  /-- HIF_CNT_CLEAR_DENIED (R73): Writing DENIED clears HIF_DENIED_CNT. -/
  | hifCntClearDenied
  /-- RING_SQ_ENABLE (R49): Setting ENABLE on a submission ring sets HEAD to 0 and the expected
  phase to 1, unless its completion ring is disabled. -/
  | ringSqEnable (n : Fin 16)
  /-- RING_SQ_DISABLE (R50): Clearing ENABLE on a submission ring stops fetching; fetched but
  unstarted entries complete with ABORTED. -/
  | ringSqDisable (n : Fin 16)
  /-- RING_CQ_ENABLE (R49): Setting ENABLE on a completion ring sets TAIL to 0 and the written
  phase to 1. -/
  | ringCqEnable (n : Fin 16)
  /-- RING_CQ_DISABLE (R49): Clearing ENABLE on a completion ring takes effect, or is discarded
  with a Reeve NOTE while a submission ring that names it is enabled or running. -/
  | ringCqDisable (n : Fin 16)
  /-- DMA_CNT_CLEAR_STARVE (R104): Writing STARVE clears both fields of DMA_STARVE_CNT. -/
  | dmaCntClearStarve
  /-- CMP_CNT_CLEAR_LATE (R165): Writing LATE clears every LATE_COUNT. -/
  | cmpCntClearLate
  /-- GEO_CNT_CLEAR_PARITY (R189): Writing PARITY clears every GEO_LAYERn_STATUS.PARITY. -/
  | geoCntClearParity
  /-- GEO_CNT_CLEAR_OVERSTEP (R189): Writing OVERSTEP clears every OVERSTEP_FRAMES and
  GEO_LAYERn_OVERSTEP_PX. -/
  | geoCntClearOverstep
  /-- PHO_CNT_CLEAR_SUBST (R197): Writing SUBST clears every PHO_TILEt_TEMP.SUBST flag. -/
  | phoCntClearSubst
  /-- HDG_COMMIT_CRC_WRITE (R245): A write to HDG_COMMIT_CRC is a confirmation of the staged
  parameter block, accepted or refused under R245. -/
  | hdgCommitCrcWrite (value : Word)
  /-- HDG_CNT_CLEAR_SAFE (R253): Writing SAFE clears the counts in HDG_SAFEIN and
  HDG_SAFEOFF.FAILS. -/
  | hdgCntClearSafe
  /-- HDG_CNT_CLEAR_COUNT (R253): Writing COUNT clears HDG_COUNT. -/
  | hdgCntClearCount
  /-- LPL_CNT_CLEAR_TE (R285): Writing TE clears LPL_TE.MISSES. -/
  | lplCntClearTe
  /-- LPL_CNT_CLEAR_SYNC (R285): Writing SYNC clears LPL_SYNC_CNT. -/
  | lplCntClearSync
  /-- LPL_CNT_CLEAR_LATE (R285): Writing LATE clears LPL_COUNT.LATE_LAUNCHES. -/
  | lplCntClearLate
  /-- LPL_CNT_CLEAR_REPEATS (R285): Writing REPEATS clears LPL_COUNT.REPEATS. -/
  | lplCntClearRepeats
  /-- XLP_CNT_CLEAR_EVENTS (R309): Writing EVENTS clears every XLP_LANEn_EVENTS. -/
  | xlpCntClearEvents
  /-- XLP_CNT_CLEAR_ERR (R309): Writing ERR clears every XLP_LANEn_ERR. -/
  | xlpCntClearErr
  /-- XLK_CNT_CLEAR_CTL (R341): Writing CTL clears every XLK_LANEn_CTL. -/
  | xlkCntClearCtl
  /-- XLK_CNT_CLEAR_LAT (R341): Writing LAT clears every XLK_LANEn_LAT. -/
  | xlkCntClearLat
  /-- XLK_CNT_CLEAR_CNT (R341): Writing CNT clears every XLK_LANEn_CNT. -/
  | xlkCntClearCnt
  /-- PXH_CNT_CLEAR_FLAGS (R362): Writing FLAGS clears every NEW_SERIAL flag. -/
  | pxhCntClearFlags
  /-- PXH_CNT_CLEAR_EVENTS (R362): Writing EVENTS clears PXH_EVENTS. -/
  | pxhCntClearEvents
  /-- RAIL_CNT_CLEAR_FAULTS (R379): Writing FAULTS clears every RAIL_n_FAULTS. -/
  | railCntClearFaults
  /-- PWR_CNT_CLEAR_COUNT (R406): Writing COUNT clears PWR_COUNT. -/
  | pwrCntClearCount
  /-- THM_CNT_CLEAR_COUNT (R429): Writing COUNT clears THM_COUNT. -/
  | thmCntClearCount
  /-- RVE_INJ_KEY_WRITE (R443): A write of RVE_INJ_KEY arms injection with the key, which clears
  itself 60 s after a non-zero write. -/
  | rveInjKeyWrite (key : BitVec 16)
  /-- RVE_LOCK_SET (R449): Setting RVE_LOCK.LOCK makes the Reeve configuration read-only until SYS
  reset. -/
  | rveLockSet
  /-- YOK_CNT_CLEAR_COUNT (R477): Writing COUNT clears YOK_COUNT. -/
  | yokCntClearCount
  /-- YOK_CNT_CLEAR_CHECK (R477): Writing CHECK clears YOK_CHECK.FRAMES. -/
  | yokCntClearCheck
  /-- BEL_TIME_NS_READ (R510): A read of BEL_TIME_NS returns the nanoseconds and captures the
  time, FRC, offset, reference and rate snapshot returned by the related registers. -/
  | belTimeNsRead
  /-- BEL_CNT_CLEAR_COUNT (R510): Writing COUNT clears BEL_COUNT. -/
  | belCntClearCount
  /-- ETH_CNT_CLEAR_PTP (R510): Writing PTP clears both ETH_p_PTPCNT. -/
  | ethCntClearPtp
  /-- ETH_CNT_CLEAR_TX (R510): Writing TX clears both ETH_p_TXCNT. -/
  | ethCntClearTx
  /-- ETH_CNT_CLEAR_RX (R510): Writing RX clears both ETH_p_RXCNT. -/
  | ethCntClearRx
  /-- CRCU_CFG_WRITE (R528): A write to CRCU_CHc_CFG selects the polynomial and loads the
  channel's initial value. -/
  | crcuCfgWrite (c : Fin 4) (poly : BitVec 2)
  /-- CRCU_DATA_WRITE (R528): A write to DATA8, DATA16 or DATA32 feeds 1, 2 or 4 bytes into the
  channel's CRC. -/
  | crcuDataWrite (c : Fin 4) (log2 : Fin 3) (value : Word)
  /-- CRCU_CTX_WRITE (R529): Writing a saved context restores the channel, or resets it with a
  NOTE in group CRCU if its check fails. -/
  | crcuCtxWrite (c : Fin 4) (value : DWord)
  /-- GPIO_DATA_WRITE (R530): A write of GPIO_DATA.OUT drives the levels of the output pins. -/
  | gpioDataWrite (out : BitVec 16)
  /-- GRN_REG_LOCK_SET (R109): Setting GRN_REG_LOCK.LOCK makes every region register read-only
  until SYS reset. -/
  | grnRegLockSet
  /-- TST_CNT_CLEAR_COUNT (R544): Writing COUNT clears TST_COUNT. -/
  | tstCntClearCount
  /-- BAR2_READ (R115): A host read through BAR2 returns Granary data after ECC, zeros on a region
  violation, or a poisoned completion on an uncorrectable word. -/
  | bar2Read (addr : BitVec 26) (bytes : BitVec 13) (upset : Upset)
  /-- BAR2_WRITE (R116): A host write through BAR2 replaces or read-modify-writes the Granary
  word, or is discarded on a region violation or an uncorrectable old word. -/
  | bar2Write (addr : BitVec 26) (data : List Byte) (upset : Upset)
  /-- RING_DOORBELL_POLL (R57): While a submission ring is empty, the device reads its producer-
  index word every POLL_US. -/
  | ringDoorbellPoll (n : Fin 16)
  /-- PRODUCER_INDEX_READ_DONE (R58): A producer-index read returns; a valid new index starts
  fetching, while an out-of-range index or error completion stops the ring with BAD_INDEX or
  FETCH_ERROR. -/
  | producerIndexReadDone (n : Fin 16) (result : Option Word)
  /-- RING_ENTRY_FETCHED (R54): Fetched submission entries arrive; those with the expected phase
  are queued for execution and a stale one is re-read. -/
  | ringEntryFetched (n : Fin 16) (entries : Option (List Desc))
  /-- STALE_ENTRY_REREAD (R67): A stale entry is read again 1 µs later; after the 16th stale re-
  read it completes with STALE_DESCRIPTOR and HEAD advances. -/
  | staleEntryReread (n : Fin 16) (entries : Option (List Desc))
  /-- COMMAND_START (R59): The device starts the next waiting command, chosen by ring priority,
  round-robin across ports, index order and FENCE. -/
  | commandStart
  /-- COMPLETION_WRITE (R56): A completion entry is written to its completion ring as soon as the
  ring has room. -/
  | completionWrite (n : Fin 16)
  /-- CQ_CONSUMER_POLL (R63): While a completion ring is full, its consumer-index word is read
  every 10 µs; an error completion sets DB_ERROR and is retried. -/
  | cqConsumerPoll (n : Fin 16) (result : Option Word)
  /-- CQ_FULL_WAIT_TIMEOUT (R63): A completion ring full for 100 ms sets FULL_WAIT and raises a
  Reeve MINOR while the device keeps waiting. -/
  | cqFullWaitTimeout (n : Fin 16)
  /-- MSIX_COALESCE_TIMEOUT (R68): COAL_US after the first entry not yet signalled, the completion
  ring signals its MSI-X vector. -/
  | msixCoalesceTimeout (n : Fin 16)
  /-- NOP (R71): NOP does nothing and, with COMMIT, commits the settings staged by earlier
  commands. -/
  | nop (src : Src) (d : Desc)
  /-- LAYER_SET (R156): LAYER_SET writes one layer's settings to the shadow, optionally copying a
  host surface into its slot first. -/
  | layerSet (src : Src) (d : Desc)
  /-- LAYER_PRESENT (R158): LAYER_PRESENT sets the shown general layers and their order,
  committing at once or at a launch time. -/
  | layerPresent (src : Src) (d : Desc)
  /-- MASK_UPDATE (R149): MASK_UPDATE writes up to four glare mask boxes into the mask shadow,
  taken at the first latch point at least 50 µs after arrival. -/
  | maskUpdate (src : Src) (d : Desc)
  /-- SYMBOL_LOAD (R162): SYMBOL_LOAD loads a symbol extent by DMA and verifies its header and
  CRC, or releases the entry. -/
  | symbolLoad (src : Src) (d : Desc)
  /-- COEF_LOAD (R187): COEF_LOAD writes a layer's warp settings to the shadow, or loads and
  checks a coefficient bank. -/
  | coefLoad (src : Src) (d : Desc)
  /-- TIMING_SET (R283): TIMING_SET writes the frame timing to the shadow and, with COMMIT,
  completes at the first LAT under the new timing. -/
  | timingSet (src : Src) (d : Desc)
  /-- TILE_MAP_SET (R284): TILE_MAP_SET writes up to 24 tile map entries to the shadow after the
  size, duplicate and lane-budget checks. -/
  | tileMapSet (src : Src) (d : Desc)
  /-- CAL_LOAD (R209): CAL_LOAD loads calibration records, one bin's parameters, the default
  record, or a new plane base. -/
  | calLoad (src : Src) (d : Desc)
  /-- FADE_SET (R198): FADE_SET writes a fade target, curve and time to the shadow, starting a
  fade at the commit. -/
  | fadeSet (src : Src) (d : Desc)
  /-- FLUX_BUDGET_SET (R200): FLUX_BUDGET_SET writes the flux budget LIMIT and RISE to the shadow. -/
  | fluxBudgetSet (src : Src) (d : Desc)
  /-- TELEMETRY_READ (R356): TELEMETRY_READ exports the fault list, health store or tile records,
  or returns one pixel's or tile's data in its result. -/
  | telemetryRead (src : Src) (d : Desc)
  /-- HEALTH_SET (R359): HEALTH_SET sets pixel states in a rectangle, clears ageing references, or
  sets the detection parameters. -/
  | healthSet (src : Src) (d : Desc)
  /-- RAIL_SET (R378): RAIL_SET sets, enables or disables the named rails. -/
  | railSet (src : Src) (d : Desc)
  /-- POWER_REQUEST (R387): POWER_REQUEST moves the device to RUN, DIM, SLEEP, NIGHTWATCH or
  DORMANT. -/
  | powerRequest (src : Src) (d : Desc)
  /-- LOW_POWER_POWERDOWN (R387): After the completion is written, or 100 µs after the commit
  point, the sequencer sets isolation and powers the domains down. -/
  | lowPowerPowerdown
  /-- THERMAL_SET (R427): THERMAL_SET sets thresholds, level controls or calibration triggers, or
  clears BROKEN sensors. -/
  | thermalSet (src : Src) (d : Desc)
  /-- CAL_RUN (R428): CAL_RUN starts a calibration run of the named items. -/
  | calRun (src : Src) (d : Desc)
  /-- TIME_SCHEDULE (R505): TIME_SCHEDULE arms a scene launch or an alarm, or cancels launches or
  alarms. -/
  | timeSchedule (src : Src) (d : Desc)
  /-- TIME_SET (R507): TIME_SET sets, steps or trims network time, configures the servo or a
  port's PTP, or reads the time. -/
  | timeSet (src : Src) (d : Desc)
  /-- PULSE_SET (R508): PULSE_SET programs the mode, polarity and timing of one PPS output. -/
  | pulseSet (src : Src) (d : Desc)
  /-- SAFETY_COMMIT (R249): SAFETY_COMMIT stages a parameter block into the Hedge or confirms a
  staged one. -/
  | safetyCommit (src : Src) (d : Desc)
  /-- SAFE_TEST (R250): SAFE_TEST runs a safe-input pulse test, a disconnect test or a safe-input
  path measurement on request. -/
  | safeTest (src : Src) (d : Desc)
  /-- FW_STAGE (R519): FW_STAGE checks an image and writes it into the slot not in use, header
  last. -/
  | fwStage (src : Src) (d : Desc)
  /-- FW_ACTIVATE (R520): FW_ACTIVATE restarts the control cores into the staged firmware through
  LIGHT_HOLD, optionally raising the rollback fuses. -/
  | fwActivate (src : Src) (d : Desc)
  /-- AUX_WRITE (R527): AUX_WRITE writes auxiliary chain words, with an optional fade, to the aux
  shadow. -/
  | auxWrite (src : Src) (d : Desc)
  /-- FAULT_ACK (R446): FAULT_ACK ends the named groups' held activations and NOTE bits, and can
  reset recovery or clear the always-on record. -/
  | faultAck (src : Src) (d : Desc)
  /-- FAULT_READ (R447): FAULT_READ returns the Reeve summary, one entry or one group's state, or
  exports log entries. -/
  | faultRead (src : Src) (d : Desc)
  /-- DIAG_INJECT (R448): DIAG_INJECT raises COUNT injected events in a source group when the
  injection key matches. -/
  | diagInject (src : Src) (d : Desc)
  /-- TEST_RUN (R534): TEST_RUN runs one loopback, error insertion, ECC insertion or rail
  comparator test. -/
  | testRun (src : Src) (d : Desc)
  /-- MARCH_RUN (R128): MARCH_RUN runs a preserving or destructive March C- over a Granary range. -/
  | marchRun (src : Src) (d : Desc)
  /-- YOKE_SWITCH (R476): YOKE_SWITCH hands the line over, joins a partner in COPY, or lets an
  excluded device rejoin. -/
  | yokeSwitch (src : Src) (d : Desc)
  /-- COMMAND_DATAGRAM_RECEIVED (R78): A command datagram on UDP port 47810 is dropped, answered
  from the cache, or queued for execution. -/
  | commandDatagramReceived (p : Fin 2) (f : RxFrame)
  /-- DATAGRAM_REPLY (R80): Once every descriptor of a datagram has completed, one reply datagram
  is sent and cached. -/
  | datagramReply (p : Fin 2)
  /-- BULK_DATAGRAM_RECEIVED (R484): A bulk datagram is dropped, or checked and written into the
  Granary by the control cores, and then answered. -/
  | bulkDatagramReceived (p : Fin 2) (f : RxFrame)
  /-- ARP_REQUEST_RECEIVED (R479): An ARP request for the port's address is answered by the MAC in
  queue 1. -/
  | arpRequestReceived (p : Fin 2) (f : RxFrame)
  /-- ICMP_ECHO_RECEIVED (R479): An ICMP echo request to the port is answered in queue 1, up to 16
  per second. -/
  | icmpEchoReceived (p : Fin 2) (f : RxFrame)
  /-- ETH_LINK_UP (R480): A port's link comes up and it sends a gratuitous ARP. -/
  | ethLinkUp (p : Fin 2)
  /-- ETH_LINK_DOWN (R487): A port's link goes down; its queued frames are discarded and a Reeve
  MINOR is raised. -/
  | ethLinkDown (p : Fin 2)
  /-- ETH_LAUNCH_ELIGIBLE (R487): A held egress frame becomes eligible when network time reaches
  its launch time. -/
  | ethLaunchEligible (p : Fin 2) (q : Fin 8)
  /-- ETH_FRAME_TRANSMIT (R486): With the link free, the highest eligible queue sends its head
  frame, with one-step rewriting where enabled. -/
  | ethFrameTransmit (p : Fin 2)
  /-- SYNC_RECEIVED (R497): A Sync on the time-source port is stamped and, when complete, gives a
  servo sample. -/
  | syncReceived (p : Fin 2) (f : RxFrame) (m : PtpIn)
  /-- FOLLOW_UP_RECEIVED (R497): A Follow_Up completes a two-step Sync sample. -/
  | followUpReceived (p : Fin 2) (f : RxFrame) (m : PtpIn)
  /-- DELAY_EXCHANGE_MESSAGE_RECEIVED (R495): A Delay_Req, Delay_Resp, Pdelay_Req or Pdelay_Resp
  is stamped and handled to measure path delay or answered. -/
  | delayExchangeMessageReceived (p : Fin 2) (f : RxFrame) (msg : PtpMsg) (m : PtpIn)
  /-- ANNOUNCE_RECEIVED (R496): An Announce feeds the best master clock algorithm and the UTC
  offset. -/
  | announceReceived (p : Fin 2) (f : RxFrame) (a : AnnounceIn)
  /-- MANAGEMENT_MESSAGE_RECEIVED (R495): A received PTP management message is discarded and
  counted. -/
  | managementMessageReceived (p : Fin 2) (f : RxFrame)
  /-- PTP_MESSAGE_TRANSMIT_TIMER (R487): On its interval, a master port queues Sync on its launch
  grid, and the port queues Announce or delay requests. -/
  | ptpMessageTransmitTimer (p : Fin 2) (msg : PtpMsg)
  /-- SYNC_RECEIPT_TIMEOUT (R499): No Sync for 3 intervals moves a LOCKED Bellhouse to HOLDOVER. -/
  | syncReceiptTimeout
  /-- ANNOUNCE_RECEIPT_TIMEOUT (R499): No Announce for 3 intervals moves a LOCKED Bellhouse to
  HOLDOVER. -/
  | announceReceiptTimeout
  /-- BEL_REBASE (R490): At least every 2^46 FRC units the Bellhouse folds the rate term into
  OFFSET without changing network time. -/
  | belRebase
  /-- ALARM_FIRE (R501): An armed alarm fires when network time reaches it, sets ALARM_FIRED and
  may interrupt or wake. -/
  | alarmFire (a : Fin 4)
  /-- PULSE_EDGE (R502): A PPS output starts a pulse at its ONESHOT, PERIODIC or FRAME time. -/
  | pulseEdge (o : Fin 4)
  /-- PULSE_END (R503): WIDTH_NS after its start a pulse ends, and any pending PULSE_SET applies. -/
  | pulseEnd (o : Fin 4)
  /-- LATCH_POINT (R255): At each latch point the frame counter advances, commits are taken, LATs
  are queued and the next buffer becomes the scan buffer. -/
  | latchPoint (vbiTestOk : Bool) (latSeq : Option (BitVec 16))
  /-- VBI_END (R255): At the end of the VBI, composition of the next frame starts and scan-out of
  the scan buffer starts on every lane. -/
  | vbiEnd
  /-- COMPOSITION_COMPLETE (R24): The last pixel of a frame passes the Hedge, completing its sums
  and its output buffer. -/
  | compositionComplete
  /-- PIX_SEND (R322): Scan-out sends the next PIX of the scan buffer to a served slot on a lane. -/
  | pixSend (n : Fin 24) (badLines : BitVec 2)
  /-- HOST_LINE_UNDERRUN (R154): Composition needs a line of a HOST layer that its DMA channel has
  not delivered, and the late policy applies. -/
  | hostLineUnderrun (layer : Fin 8) (row : Fin 768)
  /-- COEF_PARITY_FAILURE (R181): A coefficient parity failure makes the layer use BILINEAR from
  that pixel and marks the bank INVALID. -/
  | coefParityFailure (layer : Fin 9) (pixel : Fin 1179648)
  /-- FREEZE_STALL (R281): No latch point within 1.25 periods, or 2.5 in HOLD, sends FBK on every
  lane and drives FALLBACK_N low until SYS reset. -/
  | freezeStall
  /-- SYNC_IN_EDGE (R259): A SYNC_IN edge is time-stamped and its interval judged good or bad for
  lock. -/
  | syncInEdge
  /-- SYNC_IN_MISSING (R259): An edge missing for more than 1.02 periods counts as a bad interval. -/
  | syncInMissing
  /-- SYNC_LOCK_TIMEOUT (R267): SYNC_IN not locked after 8 periods clears HOLD and runs free in
  holdover. -/
  | syncLockTimeout
  /-- TE_IN_EDGE (R278): A TE_IN edge after a LAT counts as the echo of every PRESENT tile with
  TE_SRC 1. -/
  | teInEdge
  /-- TE_SEQUENCE_RECEIVED (R326): A tile's latch echo arrives, releasing the tearing guard and
  serving the Hedge's echo check. -/
  | teSequenceReceived (n : Fin 24) (a fseqLow fseqHigh chk : Byte)
  /-- ECHO_WINDOW_EXPIRY (R224): ECHO_WINDOW_US after a latch point, tiles without a valid echo
  miss it, and FLOOR_ECHO follows after ECHO_MISS misses. -/
  | echoWindowExpiry
  /-- NAK_RECEIVED (R328): A NAK for a PIX clears that slot's bit in the frame's LAT and counts
  WITHHELD. -/
  | nakReceived (n : Fin 24) (pkt : List Byte) (eop : Bool)
  /-- RDR_RECEIVED (R331): A read response answers a control request or an enumeration exchange. -/
  | rdrReceived (n : Fin 24) (pkt : List Byte) (eop : Bool)
  /-- TEL_STATUS_RECEIVED (R336): A TEL STATUS gives its temperature to the thermal unit, its
  counts to pixel health, and counts towards INCLUDED. -/
  | telStatusReceived (n : Fin 24) (pkt : List Byte) (eop : Bool)
  /-- TEL_PIXEL_RECEIVED (R344): A TEL PIXEL's 128 records are classified and update each pixel's
  health state and store entry. -/
  | telPixelReceived (n : Fin 24) (pkt : List Byte) (eop : Bool) (parity : BitVec 128)
  /-- TILE_SERIAL_RESET_DONE (R352): When the last reset write has landed, the position's dark bit
  clears. -/
  | tileSerialResetDone (t : Fin 96)
  /-- SLOT_INCLUDE_TIMEOUT (R318): A slot not INCLUDED within 1 s of assignment is returned to no
  slot. -/
  | slotIncludeTimeout (k : Fin 96)
  /-- SLOT_SILENT_TIMEOUT (R319): An assigned slot silent for 50 ms makes its lane retrain. -/
  | slotSilentTimeout (k : Fin 96)
  /-- CONTROL_REQUEST_RETRY (R331): An unanswered CFG or RDQ is repeated after 20 µs, up to 3
  times, then counted as a failure. -/
  | controlRequestRetry (n : Fin 24)
  /-- LANE_SIGNAL_DETECT (R295): A receiver detecting signal for 1 µs moves its lane out of
  DETECT, or restarts a NO_PARTNER DOWN lane. -/
  | laneSignalDetect (n : Fin 25)
  /-- LANE_COMMA_LOCK (R295): Three aligned COM without a code violation move the lane to
  POLARITY. -/
  | laneCommaLock (n : Fin 25)
  /-- LANE_TRAINING_SET_RECEIVED (R297): A valid upstream training set advances POLARITY and
  REVERSAL. -/
  | laneTrainingSetReceived (n : Fin 25) (ident lane rate state chk : Byte)
  /-- LANE_STATE_TIMEOUT (R296): A bring-up state times out; the attempt fails, and after three
  failures the lane goes DOWN. -/
  | laneStateTimeout (n : Fin 25)
  /-- ENUMERATE_HELLO_REPEAT (R317): The HELLO for the slot being enumerated is repeated every 20
  µs. -/
  | enumerateHelloRepeat (n : Fin 24)
  /-- ENUMERATE_SLOT_TIMEOUT (R299): A slot that does not answer within 200 µs ends enumeration
  and fixes CHAIN_LEN. -/
  | enumerateSlotTimeout (n : Fin 24)
  /-- CHECK_PATTERN_END (R300): The check pattern ends and the device reads every tile's
  CHECK_ERR. -/
  | checkPatternEnd (n : Fin 25) (errors : BitVec 32)
  /-- CHECK_REPORT_TIMEOUT (R300): A tile that has not reported 200 µs after the pattern shortens
  CHAIN_LEN. -/
  | checkReportTimeout (n : Fin 24)
  /-- LANE_LOSS_OF_SIGNAL (R302): Loss of signal for 1 µs on a READY lane starts a warm retrain. -/
  | laneLossOfSignal (n : Fin 25)
  /-- LANE_ERROR_BURST (R302): Four or more errors in 16 symbols on a READY lane start a warm
  retrain. -/
  | laneErrorBurst (n : Fin 25) (e : CodeErrors)
  /-- LANE_NEW_ALIGNMENT (R302): A COM at a new alignment starts a warm retrain. -/
  | laneNewAlignment (n : Fin 25)
  /-- LANE_ERROR_WINDOW (R302): More than ERR_RETRAIN errors in a 1 ms window start a warm
  retrain. -/
  | laneErrorWindow (n : Fin 25) (e : CodeErrors)
  /-- LANE_FBK_TIMEOUT (R303): A lane out of READY for 2 ms sends FBK at least every 10 µs and
  sets FBK_ACTIVE. -/
  | laneFbkTimeout (n : Fin 24)
  /-- LANE_SLOW_RETRAIN (R305): Every 1 s a DOWN lane retries a cold bring-up, and a short READY
  chain asks its first unanswered slot. -/
  | laneSlowRetrain (n : Fin 25)
  /-- RAIL_GOOD_LANE_RESTART (R576): A rail reaching regulation restarts its DOWN lanes at DETECT
  at once. -/
  | railGoodLaneRestart (r : Fin 8)
  /-- HEALTH_WRITEBACK (R208): Pixel health writes a state or ageing change back into the record
  in its reserved cycle, retrying if cancelled. -/
  | healthWriteback (cancelled : Bool)
  /-- HEALTH_RECOUNT_DONE (R582): The recount of health states from the records completes and
  RECOUNT clears. -/
  | healthRecountDone
  /-- PLANE_COPY_COMPLETE (R214): The background copy for a plane switch ends, and the switch
  takes effect at the next latch point. -/
  | planeCopyComplete
  /-- DMA_CHANNEL_FREED (R85): A channel in 8-29 becomes free and the oldest command waiting for
  one takes it. -/
  | dmaChannelFreed
  /-- DMA_DESCRIPTOR_FETCHED (R88): A fetched descriptor is checked and starts its transfer,
  follows a link, or halts the channel. -/
  | dmaDescriptorFetched (ch : Fin 32) (raw : Option (BitVec 256)) (upset : Upset)
  /-- DMA_PACED_REQUEST (R85): Composition requests a line from a paced channel, refused as an
  overrun when two are pending. -/
  | dmaPacedRequest (layer : Fin 8)
  /-- DMA_BEAT_COMPLETE (R99): A source or destination beat completes, or fails and halts the
  channel. -/
  | dmaBeatComplete (ch : Fin 32) (beat : Beat)
  /-- DMA_TIMEOUT (R101): A request, write or fetch unfinished after 1 ms fails as TIMEOUT. -/
  | dmaTimeout (ch : Fin 32) (what : DmaWait)
  /-- DMA_CHAIN_DONE (R95): A channel finishes its chain or stops at a descriptor boundary, and
  its command continues. -/
  | dmaChainDone (ch : Fin 32)
  /-- GRANARY_INIT_DONE (R125): Initialisation or the start-up march ends and INIT_DONE is set. -/
  | granaryInitDone (failing : List (BitVec 26))
  /-- ECC_REWRITE (R118): In the next scrub cycle of its bank a queued corrected word is
  rewritten, unless a master wrote it first. -/
  | eccRewrite (bank : Fin 32)
  /-- ROW_REPAIR_COMPLETE (R119): The row copy ends and the spare row replaces the original. -/
  | rowRepairComplete
  /-- SCRUB_WORD_READ (R123): The scrub engine reads and checks the next word of its pass. -/
  | scrubWordRead (bank : Fin 32) (upset : Upset)
  /-- MARCH_STRIPE_DONE (R129): A march finishes one stripe, and the command completes after its
  last stripe. -/
  | marchStripeDone (failing : List (Fin 32))
  /-- RETENTION_RELEASE_DONE (R133): 40 µs after the core domain is ready the Granary leaves
  retention and scrub restarts. -/
  | retentionReleaseDone
  /-- SAFE_IN_REQUEST (R232): A safe input low outside its test window raises SAFE_IN. -/
  | safeInRequest (second : Bool)
  /-- TEST_PULSE_START (R233): Every 10 ms a test pulse drives TP_A, or TP_B 5 ms later, low for
  200 µs. -/
  | testPulseStart (second : Bool)
  /-- TEST_PULSE_SAMPLE (R233): 150 µs after the falling edge the channel is sampled; two failures
  raise SAFE_IN_TEST. -/
  | testPulseSample (second : Bool) (level : Bool)
  /-- TEST_PULSE_END (R233): The test pulse ends and its test window closes 50 µs after the rising
  edge. -/
  | testPulseEnd (second : Bool)
  /-- DISCONNECT_TEST_START (R236): Every SD_PERIOD_S, or one second after switch A, the Hedge
  asserts one SAFE_OFF alone. -/
  | disconnectTestStart (second : Bool)
  /-- DISCONNECT_FEEDBACK_LOW (R236): The switch's feedback reads low during a test and the Hedge
  releases it. -/
  | disconnectFeedbackLow (tenths : Fin 10001)
  /-- DISCONNECT_OPEN_TIMEOUT (R236): SD_OPEN_US after assertion the switch is released and the
  test fails. -/
  | disconnectOpenTimeout
  /-- DISCONNECT_RELEASE_CHECK (R236): 20 µs after release the feedback is judged; two failures
  raise SAFE_OFF_FB. -/
  | disconnectReleaseCheck (high : Bool)
  /-- DISCONNECT_TEST_RETRY (R236): A failed disconnect test is repeated 1 s later. -/
  | disconnectTestRetry
  /-- POWERUP_DISCONNECT_TEST (R237): At Hedge power-up each switch is tested once with a 1 ms
  limit before any LAT. -/
  | powerupDisconnectTest (second : Bool)
  /-- SAFE_FB_UNEXPECTED_OPEN (R236): Feedback low for 10 µs without a command raises SAFE_OFF_FB
  at once. -/
  | safeFbUnexpectedOpen (second : Bool)
  /-- HEDGE_SELF_FAULT (R238): A self-fault stops the heartbeat and releases the disconnect
  outputs. -/
  | hedgeSelfFault (which : Fin 6)
  /-- HEDGE_HEARTBEAT_LOSS (R33): Heartbeat or supply lost for 2 µs makes the always-on domain
  drive FALLBACK. -/
  | hedgeHeartbeatLoss
  /-- HEDGE_CRC_SCAN (R240): Every 10 ms the Hedge checks its active block's CRC. -/
  | hedgeCrcScan (good : Bool) (corrected : Bool)
  /-- STAGED_BLOCK_TIMEOUT (R245): A staged block not confirmed within 10 s is discarded. -/
  | stagedBlockTimeout
  /-- HEDGE_POWER_UP (R246): At Hedge power-up the commissioning record is checked and activated,
  or the uncommissioned envelope is used. -/
  | hedgePowerUp
  /-- COMMISSION_N_LOW (R243): After 328 low samples COMMISSION_N counts as low, clears LOCK and
  raises a NOTE. -/
  | commissionNLow
  /-- COMMISSION_N_HIGH (R243): A high sample makes COMMISSION_N count as high, setting the
  commissioning lock and discarding any staged block. -/
  | commissionNHigh
  /-- CLOCK_DEVIATION (R29): A clock deviating more than 5 % for 10 µs raises a Reeve event, and a
  Hedge self-fault for the Hedge oscillator. -/
  | clockDeviation (clock : Fin 5)
  /-- DIE_BRIDGE_TRANSFER_FAIL (R20): A transfer failing its CRC twice is discarded and raises a
  NOTE. -/
  | dieBridgeTransferFail (kind : Byte)
  /-- DIE_BRIDGE_LOSS (R21): No good transfer for 100 µs holds the rails and marks analogue
  sensors BROKEN. -/
  | dieBridgeLoss
  /-- DIE_BRIDGE_RESTORED (R410): The first good transfer after a loss returns the rails to
  REGULATE and the sensors to NORMAL. -/
  | dieBridgeRestored
  /-- RAIL_SWITCHING_CYCLE (R364): Each 1 µs cycle the controller samples VS and current and
  updates its duty. -/
  | railSwitchingCycle (r : Fin 8) (vs : BitVec 15) (sense : Int)
  /-- RAIL_COMPARATOR_TRIP (R365): Current above 1.2 × I_LIM ends the on-time and sets LIMIT. -/
  | railComparatorTrip (r : Fin 8)
  /-- RAIL_SHORT_FAULT (R375): Current above 1.5 × I_LIM, or a collapsed VS in limit for 16
  cycles, turns the PWM off. -/
  | railShortFault (r : Fin 8)
  /-- RAIL_OVERVOLTAGE_FAULT (R375): VS above 110 % for 5 cycles latches the rail. -/
  | railOvervoltageFault (r : Fin 8)
  /-- RAIL_SENSE_FAULT (R375): A sense input out of common mode, or an open VS, latches the rail. -/
  | railSenseFault (r : Fin 8)
  /-- RAIL_OVERCURRENT_TIMEOUT (R375): LIMIT held for OC_TIME raises OVERCURRENT. -/
  | railOvercurrentTimeout (r : Fin 8)
  /-- RAIL_UNDERVOLTAGE_TIMEOUT (R375): VS below 90 % for 50 µs in REGULATE raises UNDERVOLTAGE. -/
  | railUndervoltageTimeout (r : Fin 8)
  /-- RAIL_SOFT_START_TIMEOUT (R375): No PGOOD within SS_TIME + 1 ms raises SOFT_START. -/
  | railSoftStartTimeout (r : Fin 8)
  /-- RAIL_PGOOD (R369): VS held within ±5 % for 20 µs after the ramp enters REGULATE. -/
  | railPgood (r : Fin 8)
  /-- RAIL_SOFT_STOP_END (R368): A soft stop ends in OFF once VS falls below 5 % or SS_TIME
  passes. -/
  | railSoftStopEnd (r : Fin 8)
  /-- RAIL_SEQ_DELAY_EXPIRY (R372): SEQ_DELAY after the preceding position, the next sequenced
  rail starts or stops. -/
  | railSeqDelayExpiry (r : Fin 8)
  /-- RAIL_RESTART_TIMEOUT (R376): 100 ms in FAULT_WAIT, the rail soft-starts again. -/
  | railRestartTimeout (r : Fin 8)
  /-- RAIL_RESTART_COUNT_CLEAR (R376): One second in REGULATE returns the restart count to 0. -/
  | railRestartCountClear (r : Fin 8)
  /-- SENSOR_SAMPLE (R413): Each 10 ms or 1 ms a sensor is sampled and its state updated with
  debounce. -/
  | sensorSample (sensor : Fin 120) (sample : Int)
  /-- TILE_TEMP_STALE (R410): A tile sensor without a report for 30 ms becomes stale. -/
  | tileTempStale (t : Fin 96)
  /-- THROTTLE_STEP (R415): Every STEP_MS in THROTTLE or SHUTDOWN the throttle level rises by 1. -/
  | throttleStep (light : Bool)
  /-- THROTTLE_HOLD_EXPIRY (R415): The hold timer reaching 1 s lowers the throttle level by 1. -/
  | throttleHoldExpiry (light : Bool)
  /-- CAL_MAX_TIMER (R423): CAL_MAX_S after the last run a calibration run starts. -/
  | calMaxTimer
  /-- CAL_STEP (R424): A calibration step runs in a VBI window when it fits. -/
  | calStep (value : Int)
  /-- REEVE_EVENT (R433): An event reaching the Reeve is logged, counted and may activate or
  escalate its group. -/
  | reeveEvent
  /-- REEVE_RECOVERY (R439): Q quiet time ends a held MINOR or MAJOR, or latches the group at
  RLIMIT. -/
  | reeveRecovery (g : Fin 64) (injected : Bool)
  /-- REEVE_HEARTBEAT_LOSS (R442): Reeve heartbeat missing for 10 µs sets REEVE_LOST and drives
  FAULT_N low. -/
  | reeveHeartbeatLoss
  /-- INJ_KEY_EXPIRY (R443): RVE_INJ_KEY clears itself 60 s after a non-zero write. -/
  | injKeyExpiry
  /-- WAKE_PIN_EVENT (R394): WAKE high for 100 ms fires the WAKE source. -/
  | wakePinEvent (high : Bool)
  /-- WAKE_SAFE_IN_EVENT (R394): A safe input changing level for 1 ms fires the SAFE_IN wake
  source. -/
  | wakeSafeInEvent
  /-- WAKE_PCIE_SQUELCH (R394): Exit from electrical idle on PCIe lane 0 fires the PCIE wake
  source. -/
  | wakePcieSquelch
  /-- I2C_TRANSACTION (R522): An I²C transaction sets the index, reads the window, or writes the
  mailbox. -/
  | i2cTransaction (x : I2cIn)
  /-- I2C_LOW_POWER_TRANSACTION (R395): In a low-power state the always-on domain serves
  PWR_STATUS and completion reads, and other accesses wake the device. -/
  | i2cLowPowerTransaction (x : I2cIn)
  /-- I2C_DOORBELL (R523): Writing 0x01 to index 0x3F submits the mailbox as a command. -/
  | i2cDoorbell
  /-- NIGHTWATCH_VISIT (R392): Each NW_PERIOD_MS the sequencer samples ambient and temperatures,
  and fires the wake after NW_DEBOUNCE visits outside. -/
  | nightwatchVisit (ambient : BitVec 12) (die : Tab Int 4) (remote : Tab Int 8)
  /-- PG_CORE_RISE (R397): PG_CORE high takes the core domain out of reset and releases isolation. -/
  | pgCoreRise
  /-- PLL_LOCK (R397): A PLL locks and the lanes or cores that wait on it start. -/
  | pllLock (pll : Fin 3)
  /-- WAKE_IMAGE_RESTORE (R397): The wake image's CRC is checked and state restored, or the wake
  continues as cold. -/
  | wakeImageRestore (good : Bool)
  /-- WAKE_STEP_TIMEOUT (R401): A wake step timing out powers down, waits 1 ms and retries, or
  enters DORMANT after three retries. -/
  | wakeStepTimeout (step : Fin 7)
  /-- WAKE_RETRY (R401): 1 ms after a wake timeout the wake restarts. -/
  | wakeRetry
  /-- WAKE_L0_PLACEMENT (R398): L0 is placed when restore, block and lanes are ready, or 980 µs
  after the wake. -/
  | wakeL0Placement
  /-- XTAL32_SWITCH (R382): After 4,096 good crystal cycles the always-on domain switches to the
  crystal. -/
  | xtal32Switch
  /-- XTAL32_LOSS (R382): No crystal edge for 125 µs switches back to the RC oscillator and sets
  XTAL32_FAIL. -/
  | xtal32Loss
  /-- BOOT_IMAGE_LOADED (R514): The boot ROM verifies a slot and starts its firmware, or fails
  with FAULT_N low. -/
  | bootImageLoaded (img : ImageIn)
  /-- FLASH_LOAD_RECORD_DONE (R518): A FLASH_LOAD record finishes, and the next record or the
  STARTUP list begins. -/
  | flashLoadRecordDone (data : Option (List Byte))
  /-- STARTUP_COMMAND (R82): The next start-up command runs and its completion is logged in group
  STARTUP. -/
  | startupCommand
  /-- COMMISSIONING_RECORD_WRITE_DONE (R521): A commissioning record write to flash completes or
  fails. -/
  | commissioningRecordWriteDone (ok : Bool)
  /-- AUX_FRAME_SHIFT (R524): A chain shifts a frame when its words change or REFRESH_MS expires. -/
  | auxFrameShift (c : Fin 4)
  /-- AUX_SHIFT_END (R525): A frame finishes shifting; its return check is judged and LAT waits
  for the next latch point. -/
  | auxShiftEnd (c : Fin 4) (dataCrc : BitVec 16) (ownCrc : BitVec 16)
  /-- YOKE_QUIET_TIME (R454): After its quiet time with the line high the device starts a claim
  pulse. -/
  | yokeQuietTime
  /-- YOKE_CLAIM_SAMPLE (R454): 120 ns into the release the line is sampled; high wins the claim. -/
  | yokeClaimSample (high : Bool)
  /-- YOKE_HOLDER_CHECK (R455): Each check interval the holder releases and samples the line for
  contention. -/
  | yokeHolderCheck (high : Bool)
  /-- YOKE_LATCH_MSG (R458): A partner LATCH message sets the follower's latch timing and take
  counts. -/
  | yokeLatchMsg (m : LatchMsg)
  /-- YOKE_RAIL_MSG (R457): A RAIL message records the holder's rail settings. -/
  | yokeRailMsg (m : Tab RailMsg 8)
  /-- YOKE_SIG_MSG (R464): A SIG message is compared with the own frame signature and digest. -/
  | yokeSigMsg (m : Sig)
  /-- YOKE_SHARED_MSG (R462): SHARED inputs from the leader replace the follower's own. -/
  | yokeSharedMsg (m : Shared)
  /-- YOKE_HELLO_MSG (R472): A HELLO is checked for compatibility to enter STANDBY, COPY or
  EXCLUDED. -/
  | yokeHelloMsg (m : Hello)
  /-- YOKE_TRIP_MSG (R466): A TRIP makes the holder assert SAFE_OFF. -/
  | yokeTripMsg
  /-- YOKE_TRIP_RELEASE (R466): 20 µs after the last TRIP the holder releases SAFE_OFF. -/
  | yokeTripRelease
  /-- YOKE_HANDOVER_MSG (R471): A HANDOVER names the latch point after which the holder releases
  the line. -/
  | yokeHandoverMsg (seq : BitVec 16)
  /-- YOKE_EXCLUDE_MSG (R465): An EXCLUDE makes the non-holder enter EXCLUDED. -/
  | yokeExcludeMsg (reason : Fin 5)
  /-- YOKE_COPY_BLOCK (R474): A copied Granary block is written on the follower during COPY. -/
  | yokeCopyBlock (block : Fin 1024) (data : List Byte)
  /-- YOKE_SNAPSHOT (R475): A SNAPSHOT puts the follower's settings in step and enters STANDBY. -/
  | yokeSnapshot (m : Snapshot)
  /-- PARTNER_LOSS (R468): No yoke message for 50 µs declares the partner lost. -/
  | partnerLoss
  /-- LEADER_LATCH_TIMEOUT (R459): The leader's LATCH absent for 2 periods makes the follower
  lead. -/
  | leaderLatchTimeout
  /-- YOKE_ALIGN_TIMEOUT (R460): Partner counts absent 4 µs after L count ALIGN_MISS. -/
  | yokeAlignTimeout
  /-- YOKE_RETURN_TIMER (R471): RETURN_S of a clean primary starts the handover back. -/
  | yokeReturnTimer
  /-- YOKE_SECONDARY_CLAIM_TIMEOUT (R579): 2 s after its block is active a secondary may claim. -/
  | yokeSecondaryClaimTimeout
  /-- SAFE_IN_HIGH (R230): A SAFE_IN channel returns high, starting the 20 ms of high reading that
  releasing SAFE_IN requires. -/
  | safeInHigh (second : Bool)
  /-- SYS_RST_N_RELEASE (R553): SYS_RST_N returns high and the device leaves SYS reset and boots. -/
  | sysRstNRelease
  /-- LOOPBACK_PATTERN_END (R307): A lane or yoke-lane loopback has sent its COUNT symbols, is
  judged under R308 and ends with a warm bring-up. -/
  | loopbackPatternEnd (n : Fin 25) (errors : BitVec 32)
  /-- ETH_LOOP_FRAME_RETURNED (R537): A looped-back ETH_LOOP frame returns and is compared with
  the copy sent. -/
  | ethLoopFrameReturned (fcsOk : Bool) (data : List Byte)
  /-- ETH_LOOP_FRAME_TIMEOUT (R537): An ETH_LOOP frame that has not returned within 1 ms counts as
  failed. -/
  | ethLoopFrameTimeout
  /-- JTAG_INSTRUCTION_UPDATE (R543): The TAP loads an instruction; EXTEST, CLAMP or HIGHZ while
  COMMISSION_N counts as low hold the device in SYS reset, and leaving it boots the device. -/
  | jtagInstructionUpdate (i : JtagInstr)
  /-- REEVE_HEARTBEAT_RESTORED (R442): After a SYS reset the Reeve heartbeat has run for 1 ms, and
  REEVE_LOST clears. -/
  | reeveHeartbeatRestored
  /-- FRC_WRAP (R490): The FRC wraps through 0 and OFFSET increases by 2^64. -/
  | frcWrap
  /-- ANALOGUE_DOMAIN_READY (R371): The analogue domain reports ready on a wake, and rails with EN
  = 1 start in sequence once the disconnect test has ended. -/
  | analogueDomainReady
  /-- PG_SRAM_RISE (R572): PG_SRAM rises, which together with PG_CORE lets phase D start. -/
  | pgSramRise
  /-- FW_STAGE_FLASH_DONE (R519): The erase, program and read-back of a staged image end, and
  FW_STAGE completes or fails with FW_FLASH. -/
  | fwStageFlashDone (fwSigOk cfgSigOk flashOk : Bool)
  /-- YOKE_PERIODIC_MESSAGE (R457): A device sends its timed yoke messages: RAIL every 10 µs, TRIP
  every 10 µs while it trips, and HELLO every 100 ms. -/
  | yokePeriodicMessage (kind : Fin 3)
  /-- COVER_BIT_EXPIRY (R467): A cover-mask bit clears when no partner LATCH has arrived within 1
  ms. -/
  | coverBitExpiry
  /-- YOKE_COPY_PASS_END (R474): A COPY pass over the regions ends on the holder, and COPY_DONE is
  set once a pass sends at most 16 blocks. -/
  | yokeCopyPassEnd
  /-- YOKE_HANDOVER_RELEASE (R471): 1 µs after the latch point named in HANDOVER, the holder
  releases YOKE_ACT_N and becomes STANDBY. -/
  | yokeHandoverRelease
  deriving DecidableEq, Repr

end Sys2Proof
end

