-- ==== Sys2Proof/Decode.lean ====
section
/-!
DEFINITION. The command that a word spells by the table's bits. No row of spec/opcode_table.json gives
bits, so no word spells a command; the descriptors of R52 are data of the rows of the command opcodes.
-/

namespace Sys2Proof

/-- The command a word of nbits bits spells: none, because no row of the table gives bits. -/
def decodeTableWord (_nbits _w : Nat) : Option Instr := none

end Sys2Proof
end

