-- ==== Sys2Proof/Config.lean ====
section
/-!
DEFINITION. What the spec leaves open: free values without a body.
Nothing in Lean can evaluate one, so a statement about one holds for every value it may take.
Each is applied to the counter State.free (a fresh value at each use) or to the operands it depends on.
-/

namespace Sys2Proof.Config

/-- A fresh open value of w bits; the number is the model's free-value counter.
DESIGN CHOICE: spec/ states no value where this stands; see the assumption log for each use. -/
opaque freeBits (w : Nat) (k : Nat) : BitVec w

/-- A byte of a range whose contents the spec leaves undefined (R96): the counter, and the byte's
place in the range. DESIGN CHOICE. -/
opaque freeByte (k : Nat) (i : Nat) : BitVec 8

/-- Whether an event whose occurrence the spec leaves open happens; the number is the counter. -/
opaque freeBool (k : Nat) : Bool

/-- The 8-bit check of a saved CRC-unit context (R529): its function is not stated.
DESIGN CHOICE. -/
opaque ctxCheck (poly : Nat) (state : BitVec 32) : BitVec 8

/-- The No Snoop and Relaxed Ordering attributes of a DMA channel's data requests to host memory: R65
states them for doorbells, entries, completions and MSI-X only. DESIGN CHOICE. -/
opaque dmaAttr (ch : Nat) (write : Bool) : Bool × Bool

/-- The SECDED syndrome of a Granary word (R117): the code matrix is not stated. DESIGN CHOICE. -/
opaque syndrome (word : Nat) (double : Bool) (k : Nat) : BitVec 8

/-- Whether a read of a byte written while a frame is composed shows the new content (R138), or a
record the new value (R195): applied to the frame's free-value number and the address. DESIGN CHOICE. -/
opaque showsNew (frame : Nat) (addr : Nat) : Bool

end Sys2Proof.Config
end

