-- ==== Sys2Proof/Machine/Bits.lean ====
section
/-!
DEFINITION. Bit fields, byte order, rounding and saturation: the helpers every meaning shares.
R9 to R11 and R16 of spec/00_scope.md say how fields, byte order and rounding work.
-/

namespace Sys2Proof

/-- Bits [lo + len - 1 : lo] of a word, as a number. -/
def field {w : Nat} (x : BitVec w) (lo len : Nat) : Nat := (x.toNat >>> lo) % 2 ^ len

/-- One bit of a word. -/
def bitOf {w : Nat} (x : BitVec w) (i : Nat) : Bool := x.getLsbD i

/-- Bits [lo + len - 1 : lo] as a two's-complement number. -/
def sfield {w : Nat} (x : BitVec w) (lo len : Nat) : Int :=
  let v := field x lo len
  if v < 2 ^ (len - 1) then (v : Int) else (v : Int) - (2 ^ len : Nat)

/-- A field of a descriptor: the byte its word starts at, the low bit, the length (R16). -/
def Desc.f (d : Desc) (byte lo len : Nat) : Nat := field d (8 * byte + lo) len

/-- One bit of a descriptor. -/
def Desc.b (d : Desc) (byte bit : Nat) : Bool := bitOf d (8 * byte + bit)

/-- A signed field of a descriptor. -/
def Desc.s (d : Desc) (byte lo len : Nat) : Int := sfield d (8 * byte + lo) len

/-- Bytes as a little-endian number (R9). -/
def leNat : List Byte → Nat
  | [] => 0
  | b :: r => b.toNat + 256 * leNat r

/-- The n low bytes of a number, little-endian (R9). -/
def leBytes : Nat → Nat → List Byte
  | 0, _ => []
  | n + 1, x => BitVec.ofNat 8 x :: leBytes n (x / 256)

/-- Bytes as a big-endian number (network order). -/
def beNat (l : List Byte) : Nat := leNat l.reverse

/-- Round num / den half to even (R11); den is positive. -/
def roundEven (num : Int) (den : Nat) : Int :=
  let q := num / (den : Int)
  let r := num % (den : Int)
  if 2 * r < den then q
  else if 2 * r > den then q + 1
  else if q % 2 = 0 then q else q + 1

/-- A power of two. -/
def pow2 (k : Int) : Rat := if k < 0 then 1 / (2 ^ k.natAbs : Nat) else (2 ^ k.natAbs : Nat)

/-- A rational number in double precision: 53 significant bits, half to even. -/
def dbl (x : Rat) : Rat :=
  if x = 0 then 0
  else
    let k : Int := 52 + (x.den.log2 : Int) - (x.num.natAbs.log2 : Int)
    let k := if |x * pow2 k| < pow2 52 then k + 1 else k
    let y := x * pow2 k
    (roundEven y.num y.den : Rat) / pow2 k

/-- Saturate into a range (R11). -/
def sat (lo hi x : Int) : Int := if x < lo then lo else if x > hi then hi else x

/-- Saturate into n unsigned bits (R11). -/
def satU (n : Nat) (x : Int) : Nat := (sat 0 ((2 ^ n : Nat) - 1 : Int) x).toNat

/-- Saturate into n signed bits (R11). -/
def satS (n : Nat) (x : Int) : Int :=
  sat (-((2 ^ (n - 1) : Nat) : Int)) (((2 ^ (n - 1) : Nat) : Int) - 1) x

/-- A saturating counter step: add k, stop at top. -/
def bump (top k x : Nat) : Nat := min top (x + k)

/-- A Bool as a number. -/
def bn (b : Bool) : Nat := if b then 1 else 0

/-- A two's-complement number in n bits, as a number from 0. -/
def toBits (n : Nat) (x : Int) : Nat := (x % ((2 ^ n : Nat) : Int)).toNat

end Sys2Proof
end

