-- ==== Sys2Proof/Machine/Envelope.lean ====
section
/-!
DEFINITION. The Hedge's parameter block: its fields (R241), its check (R242), the uncommissioned
envelope (R247), the CRC-32C (R241) (spec/08_hedge.md).
-/

namespace Sys2Proof.Machine.Env

/-- Length of a parameter block (R241). -/
def blockBytes : Nat := 27904

/-- One bit step of the reflected CRC-32C (R241): 0x82F63B78 is 0x1EDC6F41 reflected. -/
def crcBit (c : Nat) : Nat := if c % 2 = 1 then (c / 2) ^^^ 0x82F63B78 else c / 2

/-- One byte of the reflected CRC-32C. -/
def crcByte (c : Nat) (b : Byte) : Nat :=
  let x := c ^^^ b.toNat
  crcBit (crcBit (crcBit (crcBit (crcBit (crcBit (crcBit (crcBit x)))))))

/-- CRC-32C of a byte string (R241). -/
def crc32c (l : List Byte) : Word :=
  BitVec.ofNat 32 ((l.foldl crcByte 0xFFFFFFFF) ^^^ 0xFFFFFFFF)

/-- n bytes at an offset of a block, as a little-endian number. -/
def at' (raw : List Byte) (o n : Nat) : Nat := leNat ((raw.drop o).take n)

/-- LAMP_ID. -/
def lampId : Envelope → Nat
  | .uncommissioned => 0
  | .block r => at' r 4 4

/-- GLOBAL_FLUX, 1/16 LU. -/
def globalFlux : Envelope → Nat
  | .uncommissioned => 0xFFFFFFFF
  | .block r => at' r 8 4

/-- K_MAX. -/
def kMax : Envelope → Nat
  | .uncommissioned => 0xFFFFF
  | .block r => at' r 12 4 % 2 ^ 20

/-- OFFSET_MAX. -/
def offsetMax : Envelope → Nat
  | .uncommissioned => 0
  | .block r => at' r 16 1

/-- N_REJECT. -/
def nReject : Envelope → Nat
  | .uncommissioned => 1
  | .block r => at' r 17 1

/-- RELEASE_FRAMES. -/
def releaseFrames : Envelope → Nat
  | .uncommissioned => 1
  | .block r => at' r 18 1

/-- CLAMP_FRAMES. -/
def clampFrames : Envelope → Nat
  | .uncommissioned => 255
  | .block r => at' r 19 1

/-- CLAMP_LIMIT. -/
def clampLimit : Envelope → Nat
  | .uncommissioned => 1179648
  | .block r => at' r 20 4 % 2 ^ 21

/-- ECHO_WINDOW_US. -/
def echoWindow : Envelope → Nat
  | .uncommissioned => 1000
  | .block r => at' r 24 2

/-- ECHO_MISS. -/
def echoMiss : Envelope → Nat
  | .uncommissioned => 16
  | .block r => at' r 26 1

/-- SAFEIN_MODE. -/
def safeinMode : Envelope → Bool
  | .uncommissioned => true
  | .block r => at' r 27 1 % 2 == 1

/-- TP_ENABLE. -/
def tpEnable : Envelope → Bool
  | .uncommissioned => true
  | .block r => at' r 27 1 / 2 % 2 == 1

/-- The four REACTION bits of a cause; uncommissioned every cause reacts with BLANK, unlatched. -/
def reaction (e : Envelope) (c : Nat) : Nat :=
  match e with
  | .uncommissioned => 1
  | .block r => at' r 28 8 / 2 ^ (4 * c) % 16

/-- SD_PERIOD_S. -/
def sdPeriod : Envelope → Nat
  | .uncommissioned => 0
  | .block r => at' r 36 4

/-- SD_OPEN_US. -/
def sdOpen : Envelope → Nat
  | .uncommissioned => 20
  | .block r => at' r 40 1

/-- Entry t of the tile table: lane, slot when PRESENT. -/
def tile (e : Envelope) (t : Nat) : Option (Nat × Nat) :=
  match e with
  | .uncommissioned => none
  | .block r =>
    let w := at' r (0x40 + 2 * t) 2
    if w / 32768 = 1 then some (w % 32, w / 32 % 4) else none

/-- ZONE_MAX of a zone, U4.12. -/
def zoneMax (e : Envelope) (z : Nat) : Nat :=
  match e with
  | .uncommissioned => 0x0400
  | .block r => at' r (0x100 + 2 * z) 2

/-- ZONE_FLUX of a zone. -/
def zoneFlux (e : Envelope) (z : Nat) : Nat :=
  match e with
  | .uncommissioned => 0xFFFF
  | .block r => at' r (0x2500 + 2 * z) 2

/-- FLOOR_MIN of a zone. -/
def floorMin (e : Envelope) (z : Nat) : Nat :=
  match e with
  | .uncommissioned => 0
  | .block r => at' r (0x4900 + 2 * z) 2

/-- The zone of a pixel (R218). -/
def zoneOf (x y : Nat) : Nat := (y / 16) * 96 + x / 16

/-- The tile position of a zone (R218). -/
def zoneTile (z : Nat) : Nat := (z % 96) / 8 + 12 * ((z / 96) / 6)

/-- A tile position that holds a floor zone (R224). -/
def floorTile (e : Envelope) (t : Nat) : Bool :=
  match e with
  | .uncommissioned => false
  | .block _ => (List.range 4608).any fun z => zoneTile z == t && floorMin e z != 0

/-- The code ceiling of a zone (R219). -/
def codeMax (e : Envelope) (z : Nat) : Nat :=
  min 0xFFFF (offsetMax e + zoneMax e z * kMax e / 4096)

/-- Permitted actions of cause c (R226): REPORT (0) only for causes 1, 7 and 8. -/
def reportAllowed (c : Nat) : Bool := c == 1 || c == 7 || c == 8

/-- A REACTION entry the table permits: not 3, DISCONNECT only with BLANK (R226, R242). -/
def reactionOk (c v : Nat) : Bool :=
  let a := v % 4
  let disc := v / 4 % 2 == 1
  a != 3 && (a != 0 || reportAllowed c) && (!disc || a == 1)

/-- Rule 2 of R242: a header field outside its range, by byte offset. -/
def headerFault (r : List Byte) : Option Nat :=
  let bad : List (Bool × Nat) :=
    [ (at' r 12 4 % 2 ^ 20 = 0, 12),
      (at' r 17 1 < 1 ∨ at' r 17 1 > 16, 17),
      (at' r 18 1 < 1, 18),
      (at' r 19 1 < 1, 19),
      (at' r 20 4 % 2 ^ 21 > 1179648, 20),
      (at' r 24 2 < 20 ∨ at' r 24 2 > 1000, 24),
      (at' r 26 1 < 1 ∨ at' r 26 1 > 16, 26),
      (at' r 36 4 ≠ 0 ∧ (at' r 36 4 < 60 ∨ at' r 36 4 > 86400), 36),
      (at' r 40 1 < 2 ∨ at' r 40 1 > 20, 40) ]
  (bad.find? fun q => q.1).map Prod.snd

/-- R242: the reason and byte offset of the first failing rule, or none if the block passes.
`lanes` is 24, or 12 on a GLN-9612. -/
def check (r : List Byte) (lanes : Nat) : Option (Nat × Nat) :=
  let e := Envelope.block r
  if at' r 0 2 ≠ 0x4B48 then some (1, 0)
  else if at' r 2 1 ≠ 1 then some (1, 2)
  else match headerFault r with
  | some o => some (2, o)
  | none =>
    if !(List.range 9).all fun c => reactionOk c (reaction e c) then some (3, 28)
    else
      let badTile (t : Nat) : Bool := match tile e t with
        | none => false
        | some p => decide (p.1 ≥ lanes) || (List.range t).any fun u => tile e u == some p
      match (List.range 96).find? badTile with
      | some t => some (4, 0x40 + 2 * t)
      | none =>
        match (List.range 4608).find? fun z =>
            decide (floorMin e z > zoneMax e z) || decide (floorMin e z > zoneFlux e z) with
        | some z => some (5, 0x4900 + 2 * z)
        | none =>
          match (List.range 4608).find? fun z =>
              floorMin e z != 0 && (tile e (zoneTile z)).isNone with
          | some z => some (6, 0x4900 + 2 * z)
          | none => none

end Sys2Proof.Machine.Env
end

