-- ==== Sys2Proof/Machine/Memory.lean ====
section
/-!
DEFINITION. The sparse byte memory of the Granary: sorted cells, unlisted bytes read 0 (R125 of
spec/04_granary.md writes every word with data 0 before any master is served).
-/

namespace Sys2Proof.Machine.Memory

/-- What an unlisted address reads as: the 0 that initialisation writes (R125). -/
def blankByte : Byte := 0

/-- The byte at an address. -/
def read : List Host.Cell → Nat → Byte
  | [], _ => blankByte
  | (k, b) :: r, a => if k = a then b else if a < k then blankByte else read r a

/-- Store one byte, keeping the canonical form. -/
def write : List Host.Cell → Nat → Byte → List Host.Cell
  | [], a, v => if v = blankByte then [] else [(a, v)]
  | (k, b) :: r, a, v =>
    if k = a then (if v = blankByte then r else (a, v) :: r)
    else if a < k then (if v = blankByte then (k, b) :: r else (a, v) :: (k, b) :: r)
    else (k, b) :: write r a v

/-- Every listed address is at least `lo`, strictly rising, and no listed byte is the blank. -/
def wfFrom : Nat → List Host.Cell → Bool
  | _, [] => true
  | lo, (k, b) :: r => decide (lo ≤ k) && decide (b ≠ blankByte) && wfFrom (k + 1) r

/-- The canonical form: addresses strictly rising, no entry equal to what an unlisted address reads as. -/
def wf (m : List Host.Cell) : Bool := wfFrom 0 m

/-- Store bytes at rising addresses. -/
def writeBytes (m : List Host.Cell) (a : Nat) : List Byte → List Host.Cell
  | [] => m
  | b :: r => writeBytes (write m a b) (a + 1) r

/-- The bytes at rising addresses. -/
def readBytes (m : List Host.Cell) (a : Nat) : Nat → List Byte
  | 0 => []
  | n + 1 => read m a :: readBytes m (a + 1) n

/-- Drop every cell of a range (the bytes then read as blank). -/
def clear (m : List Host.Cell) (a n : Nat) : List Host.Cell :=
  m.filter fun c => decide (c.1 < a ∨ a + n ≤ c.1)

end Sys2Proof.Machine.Memory
end

