-- ==== Sys2Proof/Machine/State.lean ====
section
/-!
DEFINITION. The state of the block: every register, queue, counter, mode and pin of spec/, the queue
of commands that wait, and State.reset.
-/

namespace Sys2Proof.Machine

/-- How a step can stop with a fault. No meaning of this model answers with it: the spec gives every
command an effect in every state. -/
inductive Fault where
  /-- An absolute maximum rating is exceeded, so nothing binds the device (R558). Raised by nobody:
  no command of the table carries a stress. Safe. -/
  | beyondRatings
  deriving DecidableEq, Repr

/-- Why a command has no meaning here. -/
inductive Refusal where
  /-- The command is not modelled yet; raised only by an arm of Dispatch. Safe. -/
  | notModelled (mnemonic : String)
  deriving DecidableEq, Repr

/-- A MASK_UPDATE in the mask shadow (R149, R150, R164). -/
structure MaskEntry where
  cmd : Cmd
  clearAll : Bool
  boxes : List (Nat × Box)
  deriving DecidableEq, Repr

/-- A command that moves data with a DMA channel (R85). -/
structure DmaJob where
  cmd : Cmd
  /-- The channel it has, or none while it waits for one. -/
  ch : Option (Fin 32)
  /-- The channels it may take: first and last. -/
  lo : Nat
  hi : Nat
  /-- The transfer the command asks for. -/
  xfer : DmaDesc
  /-- Exports: next source index, and records written. -/
  pos : Nat
  written : Nat
  /-- LPL_SEQ.COMPOSING when it started (R358). -/
  seq0 : BitVec 16
  /-- Written bytes are gathered here, not stored in memory. -/
  toBuf : Bool
  /-- Bytes gathered. -/
  buf : List Byte
  /-- The command was interrupted while its channel was finishing a descriptor (R38, R95): the channel goes
  on to the end of it, and nothing follows. -/
  dead : Bool
  deriving DecidableEq, Repr

/-- GRN_VIOL and GRN_ECC_LAST in the wake image (R389). -/
structure GrnLast where
  violMaster : Master
  violWrite : Bool
  violAddr : Nat
  lastSyndrome : Byte
  lastMaster : Master
  lastType : EccType
  lastAddr : Nat
  deriving DecidableEq, Repr

/-- What the wake image holds of the core domain (R389). -/
structure Saved where
  hif : Hif
  grn : GrnLast
  cmp : Compose
  pho : Photo
  lpl : Lamp
  pxh : Health
  thm : Thermal
  rve : Reeve
  yok : Yoke
  eth : Eths
  aux : Tab Aux 4
  crcu : Tab Crcu 4
  gpio : Gpio
  tst : Test
  boot : Boot
  record : Option RecCopy
  deriving DecidableEq, Repr

/-- The state of the block. -/
structure State where
  /-- Commands that wait, first in, first out. -/
  pending : List Instr
  /-- The model's own clock, in ns since POR. -/
  now : Nat
  /-- The model's own number of the next free value. -/
  free : Nat
  /-- What the device has sent out, newest first. -/
  out : List Emit
  part : PartId
  hif : Hif
  dma : Dma
  grn : Granary
  cmp : Compose
  pho : Photo
  hdg : Hedge
  lpl : Lamp
  link : Link
  pxh : Health
  rail : Rails
  pwr : Power
  thm : Thermal
  rve : Reeve
  yok : Yoke
  bel : Bell
  eth : Eths
  mgt : Mgt
  boot : Boot
  aux : Tab Aux 4
  crcu : Tab Crcu 4
  gpio : Gpio
  tst : Test
  /-- Commands started and not completed, oldest first (R60). -/
  running : List Cmd
  nextSer : Nat
  /-- The mask shadow, oldest first (R149). -/
  maskQ : List MaskEntry
  jobs : List DmaJob
  /-- COEF_LOAD KERNELs whose bank is LOADING (R187). -/
  kernels : List Cmd
  marchCmd : Option Cmd
  saved : Option Saved
  deriving DecidableEq, Repr

/-- The machine right after POR has released: nothing waits, every register at its reset value. -/
def State.reset : State :=
  { pending := [], now := 0, free := 0, out := [], part := PartId.reset, hif := Hif.reset,
    dma := Dma.reset, grn := Granary.reset, cmp := Compose.reset, pho := Photo.reset,
    hdg := Hedge.reset, lpl := Lamp.reset, link := Link.reset, pxh := Health.reset,
    rail := Rails.reset, pwr := Power.reset, thm := Thermal.reset, rve := Reeve.reset,
    yok := Yoke.reset, bel := Bell.reset, eth := Eths.reset, mgt := Mgt.reset, boot := Boot.reset,
    aux := Tab.all 4 Aux.reset, crcu := Tab.all 4 Crcu.reset, gpio := Gpio.reset,
    tst := Test.reset, running := [], nextSer := 0, maskQ := [], jobs := [], kernels := [], marchCmd := none,
    saved := none }

end Sys2Proof.Machine
end

