-- ==== Sys2Proof/Machine/Ops.lean ====
section
/-!
DEFINITION. The operations every command shares: emissions, fresh free values, Reeve events, network
time, the check and the completion of a command.
-/

namespace Sys2Proof.Machine

/-- The outcome of a command. -/
abbrev Out := Host.Outcome State Fault Refusal

/-- Send something out. -/
def emit (e : Emit) (s : State) : State := { s with out := e :: s.out }

/-- No Snoop and Relaxed Ordering clear (R65). -/
def TlpAttr.clear : TlpAttr := { noSnoop := false, relaxed := false }

/-- The attributes of a DMA channel's data requests. -/
def TlpAttr.data (ch : Nat) (write : Bool) : TlpAttr :=
  { noSnoop := (Config.dmaAttr ch write).1, relaxed := (Config.dmaAttr ch write).2 }

/-- An MSI-X vector may be sent: MSI-X is enabled and neither mask holds the vector (R68). -/
def vectorOpen (v : Nat) (s : State) : Bool :=
  s.hif.msix.enable && !s.hif.msix.funcMask && !bitOf s.hif.msix.masked v

/-- The message of an MSI-X vector, as the table in BAR4 gives it (R43, R68). -/
def msixMsg (v : Nat) (s : State) : Emit := .msix v (s.hif.msix.table.at' v (0, 0)) TlpAttr.clear

/-- Signal an MSI-X vector (R68, R69): sent at once, or its pending bit set while it is masked. -/
def signalVec (v : Nat) (s : State) : State :=
  if vectorOpen v s then { s with out := msixMsg v s :: s.out }
  else if s.hif.msix.enable then
    { s with hif.msix.pending := s.hif.msix.pending ||| BitVec.ofNat 32 (2 ^ v) }
  else s

/-- Send a list out, first one first. -/
def emitAll (l : List Emit) (s : State) : State := l.foldl (fun s e => emit e s) s

/-- A fresh open value of w bits (log entry 2). -/
def freshBits (w : Nat) (s : State) : BitVec w × State :=
  (Config.freeBits w s.free, { s with free := s.free + 1 })

/-- A fresh open choice (log entry 2). -/
def freshBool (s : State) : Bool × State :=
  (Config.freeBool s.free, { s with free := s.free + 1 })

/-- Raise an event (R430). The Reeve is in the core domain: with it unpowered nothing is raised. -/
def raise (group : Nat) (cls : Class) (detail : Nat) (s : State) : State :=
  if s.pwr.core then
    { s with rve.inbox := s.rve.inbox ++ [⟨group, cls, BitVec.ofNat 32 detail, false, s.now⟩] }
  else s

/-- LPL_SEQ.COMPOSING: number of the frame being composed; in a VBI, of the one whose composition comes
next (R285, R416). -/
def composingSeq (s : State) : BitVec 16 := (s.lpl.work.map fun f => f.seq).getD s.lpl.composing

/-- The control cores are powered and run their firmware. -/
def coresUp (s : State) : Bool := s.pwr.core && s.pwr.cores.up

/-- BAR0 and BAR2 answer: the core domain is powered, the endpoint is out of reset, in D0, enabled and
past configuration retry (R43, R81, R554, R574). -/
def hostUp (s : State) : Bool :=
  s.pwr.core && !s.hif.hostless && !s.pwr.perstLow && !s.hif.configRetry && !s.hif.d3hot

/-- Populated lanes of the part (R2). -/
def laneCount (s : State) : Nat := if s.part.small then 12 else 24

/-- Tile positions the part may populate (R1). -/
def tileLimit (s : State) : Nat := if s.part.small then 48 else 96

/-- Network time T in units of 2^-16 ns (R488, R489). -/
def Bell.time (b : Bell) : Int :=
  let d : Int := ((b.frc - b.frcRef : Int) % (2 ^ 64 : Nat))
  let r := if b.sleepClock then b.rate + b.sleepTrim else b.rate
  b.offset + b.frc + roundEven (r * d) (2 ^ 32)

/-- Network time of the state. -/
def netTime (s : State) : Int := s.bel.time

/-- The nanoseconds of a time (R489). -/
def timeNs (t : Int) : Nat := ((t / 65536) % 1000000000).toNat

/-- The 48-bit seconds of a time (R489). -/
def timeS (t : Int) : Nat := ((t / 65536000000000) % (2 ^ 48 : Nat)).toNat

/-- A time from seconds and nanoseconds. -/
def mkTime (s ns : Nat) : Int := ((s * 1000000000 + ns) * 65536 : Nat)

/-- Classes of the opcode index (R71): the class bit of R72; `some none` is NOP, always permitted;
none is an opcode not in the index. -/
def classOf (op : Nat) : Option (Option Nat) :=
  if op = 0x00 then some none
  else if op = 0x10 ∨ op = 0x13 ∨ op = 0x14 ∨ op = 0x18 ∨ op = 0x21 ∨ op = 0x58 then some (some 0)
  else if op = 0x11 then some (some 1)
  else if op = 0x12 then some (some 2)
  else if op = 0x28 then some (some 3)
  else if op = 0x19 ∨ op = 0x20 ∨ op = 0x22 ∨ op = 0x29 ∨ op = 0x39 ∨ op = 0x3A then some (some 4)
  else if op = 0x30 then some (some 5)
  else if op = 0x38 then some (some 6)
  else if op = 0x40 ∨ op = 0x41 ∨ op = 0x42 then some (some 7)
  else if op = 0x50 ∨ op = 0x51 then some (some 8)
  else if op = 0x48 then some (some 9)
  else if op = 0x49 ∨ op = 0x60 ∨ op = 0x62 ∨ op = 0x68 ∨ op = 0x69 ∨ op = 0x70 then some (some 10)
  else if op = 0x61 then some (some 11)
  else none

/-- A field of the command's descriptor (R16). -/
def Cmd.f (c : Cmd) (byte lo len : Nat) : Nat := Desc.f c.d byte lo len
/-- One bit of the command's descriptor. -/
def Cmd.b (c : Cmd) (byte bit : Nat) : Bool := Desc.b c.d byte bit
/-- A signed field of the command's descriptor. -/
def Cmd.s (c : Cmd) (byte lo len : Nat) : Int := Desc.s c.d byte lo len
/-- OPCODE (R52). -/
def Cmd.opcode (c : Cmd) : Nat := c.f 0 0 8
/-- QUIET. -/
def Cmd.quiet (c : Cmd) : Bool := c.b 1 2
/-- COMMIT. -/
def Cmd.commit (c : Cmd) : Bool := c.b 1 3
/-- COMMAND_ID. -/
def Cmd.cmdId (c : Cmd) : BitVec 16 := BitVec.ofNat 16 (c.f 2 0 16)
/-- VERSION. -/
def Cmd.version (c : Cmd) : Nat := c.f 4 0 4
/-- FENCE (R52). -/
def fenceOf (d : Desc) : Bool := Desc.b d 1 1

/-- The descriptor with its OPCODE byte set. -/
def withOpcode (d : Desc) (op : Nat) : Desc :=
  ((d >>> 8) <<< 8) ||| BitVec.ofNat 512 (op % 256)

/-- Common status codes (R70). -/
def stSuccess : BitVec 16 := 0
/-- LATE. -/
def stLate : BitVec 16 := 1
/-- INTERRUPTED. -/
def stInterrupted : BitVec 16 := 2
/-- DENIED. -/
def stDenied : BitVec 16 := 3
/-- STALE_DESCRIPTOR. -/
def stStale : BitVec 16 := 4
/-- UNKNOWN_OPCODE. -/
def stUnknown : BitVec 16 := 5
/-- BAD_VERSION. -/
def stVersion : BitVec 16 := 6
/-- INVALID_FIELD. -/
def stField : BitVec 16 := 7
/-- ABORTED. -/
def stAborted : BitVec 16 := 8
/-- ERROR. -/
def stError : BitVec 16 := 9
/-- WRONG_STATE. -/
def stState : BitVec 16 := 10

/-- The port number of an origin (HIF_STATUS.LAST_DENIED_PORT); none for the start-up list. -/
def Src.port : Src → Option (Fin 4)
  | .ring _ => some 0
  | .eth p _ _ => some ⟨1 + p.val, by omega⟩
  | .i2c => some 3
  | .startup _ => none
  | .discard => some 0

/-- The authority mask a command is checked against (R73, R82). -/
def authMask (src : Src) (s : State) : BitVec 12 :=
  match src.port with
  | some p => (s.hif.auth[(⟨p.val, by omega⟩ : Fin 5)]).cls
  | none => (s.hif.auth[(0 : Fin 5)]).image

/-- The port and class let the command through (R73, R74). -/
def permitted (c : Cmd) (s : State) : Bool :=
  match classOf c.opcode with
  | some none => true
  | some (some b) => bitOf (authMask c.src s) b && (b != 9 || s.hdg.commissionLow)
  | none => true

/-- In COPY only NOP and the classes TELEMETRY and DIAG_READ run (R473). -/
def copyAllows (op : Nat) : Bool :=
  match classOf op with
  | some none => true
  | some (some b) => b == 3 || b == 11
  | none => true

/-- R61 steps 1 to 3, and R473 as the first of step 4. -/
def gate (c : Cmd) (s : State) : Option (BitVec 16) :=
  if c.version ≠ 1 then some stVersion
  else if (classOf c.opcode).isNone then some stUnknown
  else if !permitted c s then some stDenied
  else if s.yok.state = .copy ∧ !copyAllows c.opcode then some stState
  else none

/-- What a DENIED completion records (R73). -/
def noteDenied (c : Cmd) (s : State) : State :=
  match c.src.port with
  | none => s
  | some p =>
    raise 34 .note (c.opcode + p.val * 2 ^ 24 + 5 * 2 ^ 28)
      { s with
        hif.deniedCnt := s.hif.deniedCnt.upd p (bump 255 1)
        hif.lastDeniedPort := p.val
        hif.lastDeniedOpcode := BitVec.ofNat 8 c.opcode }

/-- The command digest of R461: CRC-32C over the 64 bytes with PHASE and COMMAND_ID taken as 0,
continued across commands; a device in SOLO folds nothing. -/
def foldDigest (c : Cmd) (s : State) : State :=
  if s.yok.state = .solo then s
  else
    let b := leBytes 64 c.d.toNat
    let b := (b.set 1 (BitVec.ofNat 8 ((b.getD 1 0).toNat / 2 * 2))).set 2 0 |>.set 3 0
    let x := b.foldl Env.crcByte (s.yok.digest.toNat ^^^ 0xFFFFFFFF)
    { s with yok.digest := BitVec.ofNat 32 (x ^^^ 0xFFFFFFFF) }

/-- A result word at a byte offset of the completion entry, bytes 16 to 31. -/
def resAt (byte : Nat) (v : Nat) : Result := BitVec.ofNat 128 v <<< (8 * (byte - 16))

/-- The command with a serial number, if it has not completed. -/
def findRunning (ser : Nat) (s : State) : Option Cmd := s.running.find? fun c => c.ser == ser

/-- Entries of a ring (R47). -/
def SqRing.size (q : SqRing) : Nat := 2 ^ q.log2
/-- Entries of a completion ring (R47). -/
def CqRing.size (q : CqRing) : Nat := 2 ^ q.log2

/-- The phase expected k entries past HEAD (R54). -/
def SqRing.phaseAt (q : SqRing) (k : Nat) : Bool := q.phase ^^ decide (q.head + k ≥ q.size)

/-- The entries read behind a stale one that carry the phase expected of them and so belong to the device
(R54, R67). -/
def SqRing.late (q : SqRing) : List Desc :=
  ((q.behind.zipIdx q.fetched.length).filter fun e => Desc.b e.1 1 0 == q.phaseAt e.2).map fun e => e.1

/-- Completions owed to submission ring n (R50): of commands that execute, of completions that wait on any
completion ring, of entries fetched and not started. -/
def ringOwes (n : Fin 16) (s : State) : Bool :=
  (s.running.any fun c => c.src == .ring n) ||
  (s.hif.cq.some' fun q => q.waiting.any fun c => c.src == .ring n) ||
  !(s.hif.sq[n]).fetched.isEmpty || !(s.hif.sq[n]).late.isEmpty

/-- STATUS.RUNNING clears after the last completion owed, once fetching has stopped (R50, R58). -/
def settleRing (n : Fin 16) (s : State) : State :=
  let q := s.hif.sq[n]
  if (!q.enable || q.stopped) && !ringOwes n s then
    { s with hif.sq := s.hif.sq.upd n fun q => { q with running := false } }
  else s

/-- Queue a completion on the completion ring its submission ring names (R56): the one CQ_ID names when
the completion is delivered. R48 lets CQ_ID be rewritten while completions are still owed (ENABLE 0,
RUNNING 1) and the spec does not say where those go (DESIGN CHOICE, log entry 83). -/
def queueCpl (n : Fin 16) (e : Cpl) (s : State) : State :=
  { s with hif.cq := s.hif.cq.upd (s.hif.sq[n]).cq fun q => { q with waiting := q.waiting ++ [e] } }

/-- Bytes of a completion entry (R53). -/
def cplBytes (e : Cpl) (sqId phase head : Nat) : List Byte :=
  leBytes 2 e.id.toNat ++ [BitVec.ofNat 8 sqId, BitVec.ofNat 8 phase] ++ leBytes 2 e.status.toNat ++
  leBytes 2 head ++ leBytes 2 e.frameSeq.toNat ++ [e.opcode] ++ List.replicate 5 0 ++
  leBytes 16 e.result.toNat

/-- Descriptors of a datagram that have started. -/
def startedOf (key : Nat) (e : Exec) (q : List Datagram) : Nat :=
  match q.find? fun d => match d with
    | .cmd k _ _ _ _ _ => k == key
    | .bulk _ _ _ => false with
  | some (.cmd _ _ _ _ n _) => n
  | _ => e.count

/-- A completion of one of its descriptors moves a datagram's arrival (R149). -/
def touchDatagram (key now : Nat) (d : Datagram) : Datagram :=
  match d with
  | .cmd k peer sequence left next arr =>
    .cmd k peer sequence left next (if k = key then now else arr)
  | .bulk peer header data => .bulk peer header data

/-- Deliver a completion to where the command came from (R53, R80, R82, R523); with QUIET and SUCCESS
none is written. -/
def deliver (src : Src) (e : Cpl) (quiet : Bool) (s : State) : State :=
  let mute := quiet && e.status == stSuccess
  match src with
  | .ring n =>
    let s := { s with hif.sq := s.hif.sq.upd n fun q => { q with lastDone := s.now } }
    settleRing n (if mute then s else queueCpl n e s)
  | .eth p key idx =>
    let put (x : Exec) : Exec :=
      if x.key = key then
        { x with done := x.done ++
            [(idx, if mute then none else some (e, startedOf key x s.eth.port[p].queue))] }
      else x
    { s with eth.port := s.eth.port.upd p fun q => { q with
        execs := q.execs.map put, queue := q.queue.map (touchDatagram key s.now) } }
  | .i2c =>
    let b := if mute then s.mgt.cbuf else cplBytes e 0 0 1
    if coresUp s then { s with mgt.busy := false, mgt.cbuf := b } else { s with mgt.late := some b }
  | .startup i =>
    if mute then s
    else raise 42 (if e.status = stSuccess then .note else .minor)
      (e.opcode.toNat + i * 256 + e.status.toNat * 65536) s
  | .discard => s

/-- Two origins name the same ring or the same datagram (R149). -/
def sameLine (a b : Src) : Bool :=
  match a, b with
  | .ring m, .ring n => m == n
  | .eth p k _, .eth q l _ => p == q && k == l
  | _, _ => false

/-- The completion of an earlier command of its ring or datagram moves a mask update's arrival
(R149). -/
def moveArrivals (c : Cmd) (s : State) : State :=
  { s with maskQ := s.maskQ.map fun m =>
      if sameLine c.src m.cmd.src && decide (c.ser < m.cmd.ser) then
        { m with cmd := { m.cmd with arr := s.now } }
      else m }

/-- Complete a command: it leaves the running list, and its completion goes where the list says it
came from (R44 changes that to nowhere). A command already completed is left alone. -/
def complete (c : Cmd) (st frameSeq : BitVec 16) (r : Result) (s : State) : State :=
  match findRunning c.ser s with
  | none => s
  | some k =>
    let s := moveArrivals k { s with running := s.running.filter fun x => x.ser != c.ser }
    let e : Cpl := ⟨k.src, k.cmdId, BitVec.ofNat 8 k.opcode, st, frameSeq, r⟩
    deliver k.src e k.quiet s

/-- Issue a commit: the Lamplighter sees it with every shadow setting written so far (R62, R264). -/
def issueCommit (s : State) : State :=
  { s with
    lpl.seen := s.lpl.seen ++ [s.lpl.shadow]
    lpl.shadow := []
    lpl.shadowAt := match s.lpl.shadowAt with
      | .general => .commit (s.yok.own.commits + 1)
      | p => p
    lpl.commitPending := true
    yok.own.commits := s.yok.own.commits + 1 }

/-- The end of a command's own work: with COMMIT and SUCCESS or LATE it issues its commit and
completes when that is taken, otherwise it completes now (R62). -/
def finish (c : Cmd) (st : BitVec 16) (r : Result) (s : State) : State :=
  if c.commit && (st == stSuccess || st == stLate) then
    let s := issueCommit s
    { s with lpl.waits := s.lpl.waits ++ [⟨c, s.yok.own.commits, st, r⟩] }
  else complete c st 0 r s

/-- SUCCESS with no result. -/
def finishOk (c : Cmd) (s : State) : State := finish c stSuccess 0 s

/-- Write into the device-wide shadow (R62). -/
def shadowAll (w : List ShadowWrite) (s : State) : State :=
  { s with lpl.shadow := s.lpl.shadow ++ w }

/-- What a command of one opcode does: its own checks (R61 steps 4 and 5 and its specific statuses),
then its effect. -/
structure Body where
  check : Cmd → State → Option (BitVec 16 × Result)
  /-- What a failing check does beside completing the command. -/
  fail : Cmd → BitVec 16 → State → State := fun _ _ s => s
  run : Cmd → State → State

/-- Execute a command that has been taken up (R61): the first failing check completes it and changes
nothing else. One that passes the checks of R61 is folded into the digest, whatever status of its own it then ends
with (R461). -/
def execute (b : Body) (c : Cmd) (s : State) : State :=
  match gate c s with
  | some st => complete c st 0 0 (if st = stDenied then noteDenied c s else s)
  | none =>
    match b.check c s with
    | some (st, r) => complete c st 0 r (b.fail c st (if decide (0x100 ≤ st.toNat) then foldDigest c s else s))
    | none => b.run c (foldDigest c s)

/-- A low-power entry has stopped lanes, MACs, link, DMA and rings (steps 3 and 4 of R387). -/
def lowOff (s : State) : Bool :=
  match s.pwr.entry with
  | some e => e.step == .engines
  | none => false

/-- The control cores serve commands of this origin now: the start-up list before any port is served,
ports afterwards (R82, R572); not in LIGHT_HOLD (R37) nor during a low-power entry (R387). -/
def serves (src : Src) (s : State) : Bool :=
  coresUp s && s.pwr.entry.isNone &&
    match src with
    | .startup _ => true
    | _ => s.pwr.cores.served

/-- No earlier command of the same ring or sender runs, where FENCE asks for that (R52). -/
def fenceOk (src : Src) (d : Desc) (s : State) : Bool :=
  let sender (p : Fin 2) (key : Nat) : Option (BitVec 32 × Nat) :=
    (s.eth.port[p].execs.find? fun x => x.key == key).map fun x => (x.peer.ip, x.peer.port)
  let same (k : Src) : Bool := match src, k with
    | .ring a, .ring b => a == b
    | .eth p a _, .eth q b _ => p == q && (a == b || sender p a == sender q b)
    | .i2c, .i2c => true
    | .startup _, .startup _ => true
    | _, _ => false
  !fenceOf d || !(s.running.any fun c => same c.src)

/-- Start a command that arrived at a time, and execute it. -/
def startCmd (b : Body) (src : Src) (arr : Nat) (d : Desc) (s : State) : State :=
  let c : Cmd := ⟨src, d, arr, s.nextSer⟩
  execute b c { s with nextSer := s.nextSer + 1, running := s.running ++ [c] }

/-- A row of the command opcodes: the device starts the command the row shows, if it can start now;
otherwise nothing happens (log entry 3). -/
def runRow (op : Nat) (b : Body) (src : Src) (d : Desc) (s : State) : State :=
  let d := withOpcode d op
  if serves src s && fenceOk src d s then startCmd b src s.now d s else s

/-- Read bytes of the Granary's cells. -/
def grnBytes (a n : Nat) (s : State) : List Byte := Memory.readBytes s.grn.mem a n

end Sys2Proof.Machine
end

