-- ==== Sys2Proof/Machine/Geometry.lean ====
section
/-!
DEFINITION. Warp arithmetic: mapping, phases, taps, filters and the step limit
(spec/06_geometry.md R166 to R175, R177, R178).
-/

namespace Sys2Proof.Machine.Geo

/-- The S16.16 range in units of 2^-16. -/
def inS16 (u : Int) : Bool := decide (-2147483648 ≤ u) && decide (u ≤ 2147483647)

/-- The source point of an array pixel in units of 2^-16, before the bounds of R171
(R168 PROJECTIVE, R169 SCALE, R170 DIRECT). -/
def point (w : Warp) (x y : Int) : Option (Int × Int) :=
  match w.mode with
  | .projective =>
    let nu := w.h[0] * x + w.h[1] * y + w.h[2]
    let nv := w.h[3] * x + w.h[4] * y + w.h[5]
    let d := w.h[6] * x + w.h[7] * y + w.h[8]
    if d ≤ 0 then none
    else
      let u := roundEven (nu * 65536) d.toNat
      let v := roundEven (nv * 65536) d.toNat
      if inS16 u && inS16 v then some (u, v) else none
  | .scale =>
    let u := w.h[0] * x + w.h[2]
    let v := w.h[4] * y + w.h[5]
    if inS16 u && inS16 v then some (u, v) else none
  | .direct => some ((x + w.h[2] / 65536) * 65536, (y + w.h[5] / 65536) * 65536)

/-- The bounds of R171 (and R170 for DIRECT, whose points are whole samples). -/
def inBounds (u v : Int) (width height : Nat) : Bool :=
  decide (-32768 ≤ u) && decide (u < (width : Int) * 65536 - 32768) &&
  decide (-32768 ≤ v) && decide (v < (height : Int) * 65536 - 32768)

/-- The in-source point of an array pixel. -/
def srcPoint (w : Warp) (width height : Nat) (x y : Int) : Option (Int × Int) :=
  match point w x y with
  | some (u, v) => if inBounds u v width height then some (u, v) else none
  | none => none

/-- R172: whole index and phase; `bits` is 11 in PROJECTIVE and 10 in SCALE mode, `top` 32 or 64. -/
def phase (u : Int) (bits top : Nat) : Int × Nat :=
  let i0 := u / 65536
  let q := (roundEven (u % 65536) (2 ^ bits)).toNat
  if q = top then (i0 + 1, 0) else (i0, q)

/-- The BILINEAR coefficient of a phase and tap (R178). -/
def bilinear (scale : Bool) (p t : Nat) : Int :=
  if scale then
    if t = 3 then 16384 - 256 * (p : Int) else if t = 4 then 256 * (p : Int) else 0
  else
    if t = 1 then 16384 - 512 * (p : Int) else if t = 2 then 512 * (p : Int) else 0

/-- The coefficient of a bank: axis 0 horizontal, 1 vertical (R176). -/
def coeff (b : Bank) (scale : Bool) (axis p t : Nat) : Int :=
  match b.kind with
  | .bilinear => bilinear scale p t
  | .warp4 => b.coeffs.getD (axis * 128 + p * 4 + t) 0
  | .scale8 => b.coeffs.getD (axis * 512 + p * 8 + t) 0

/-- The sample a tap reads under the edge mode (R173); `none` is the transparent pair. -/
def tapIndex (clamp : Bool) (size : Nat) (i : Int) : Option Nat :=
  if 0 ≤ i ∧ i < (size : Int) then some i.toNat
  else if clamp then some (if i < 0 then 0 else size - 1)
  else none

/-- One line's horizontal pass over T taps (R174 step 1). -/
def hpass (co : Nat → Int) (smp : Int → Int) (i0 : Int) (taps : Nat) : Int :=
  let sum := (List.range taps).foldl
    (fun acc t => acc + co t * smp (i0 - ((taps / 2 : Nat) : Int) + 1 + (t : Int))) 0
  sat (-16777216) 16777215 (roundEven sum 16384)

/-- The vertical pass over T line results (R174 step 2). -/
def vpass (co : Nat → Int) (line : Nat → Int) (taps : Nat) : Int :=
  roundEven ((List.range taps).foldl (fun acc r => acc + co r * line r) 0) 16384

/-- The filtered pair at a source point (R172 to R174); `smp` gives the pair of a sample inside
the surface. DIRECT copies one sample (R167). -/
def filterAt (w : Warp) (b : Bank) (width height : Nat) (smp : Nat → Nat → Int × Int)
    (u v : Int) : Int × Int :=
  match w.mode with
  | .direct => smp (u / 65536).toNat (v / 65536).toNat
  | m =>
    let scale := decide (m = .scale)
    let taps := if scale then 8 else 4
    let (i0, qu) := phase u (if scale then 10 else 11) (if scale then 64 else 32)
    let (j0, qv) := phase v (if scale then 10 else 11) (if scale then 64 else 32)
    let at' (sel : Int × Int → Int) (line i : Int) : Int :=
      match tapIndex w.clamp width i, tapIndex w.clamp height line with
      | some a, some c => sel (smp a c)
      | _, _ => 0
    let one (sel : Int × Int → Int) : Int :=
      vpass (coeff b scale 1 qv)
        (fun r => hpass (coeff b scale 0 qu)
          (at' sel (j0 - ((taps / 2 : Nat) : Int) + 1 + (r : Int))) i0 taps) taps
    (sat 0 0xFFFFFF (one Prod.fst), sat 0 0x10000 (one Prod.snd))

/-- Two points differ by more than 2.0 in u or v (R175). -/
def tooFar (a b : Int × Int) : Bool :=
  decide ((a.1 - b.1).natAbs > 131072) || decide ((a.2 - b.2).natAbs > 131072)

/-- R175: an in-source pixel is over step against its in-source left or upper neighbour. -/
def overStep (w : Warp) (width height : Nat) (x y : Nat) : Bool :=
  match w.mode with
  | .direct => false
  | _ =>
    match srcPoint w width height x y with
    | none => false
    | some p =>
      let near (ox oy : Nat) : Bool :=
        if x < ox ∨ y < oy then false
        else match srcPoint w width height ((x - ox : Nat) : Int) ((y - oy : Nat) : Int) with
          | some q => tooFar p q
          | none => false
      near 1 0 || near 0 1

/-- R188: a grid point in source that exceeds R175 towards x + 1 or y + 1. `size` is the surface's
width and height, or none when only the S16.16 range bounds the points. -/
def overPoint (w : Warp) (size : Option (Nat × Nat)) (x y : Nat) : Bool :=
  match w.mode with
  | .direct => false
  | _ =>
    let pt (x y : Nat) : Option (Int × Int) :=
      match size with
      | some (wd, ht) => srcPoint w wd ht x y
      | none => point w x y
    match pt x y with
    | none => false
    | some p =>
      let tooFarTo (q : Option (Int × Int)) : Bool :=
        match q with
        | some q => tooFar p q
        | none => false
      tooFarTo (pt (x + 1) y) || tooFarTo (pt x (y + 1))

/-- OVERSTEP_POINTS of a WARP (R188): the 96 by 48 grid of step 16. -/
def overPoints (w : Warp) (size : Option (Nat × Nat)) : Nat :=
  (List.range 48).foldl
    (fun acc j => acc + (List.range 96).countP fun i => overPoint w size (16 * i) (16 * j)) 0

/-- The S1.14 value of a table word (R176). -/
def coefWord (b0 b1 : Byte) : Int := sfield (BitVec.ofNat 16 (b0.toNat + 256 * b1.toNat)) 0 16

/-- Bit 15 of a table word equals bit 14 (R177). -/
def signExtended (b1 : Byte) : Bool := bitOf b1 7 == bitOf b1 6

/-- Position of the tap of largest magnitude, the lowest on a tie (R177). -/
def largestTap : List Int → Nat → Nat → Nat → Nat
  | [], _, best, _ => best
  | c :: r, i, best, mag =>
    if c.natAbs > mag then largestTap r (i + 1) i c.natAbs else largestTap r (i + 1) best mag

/-- The stored taps of one phase: the largest is replaced so that the sum is exactly 1.0 (R177). -/
def fixPhase (taps : List Int) : List Int :=
  let k := largestTap taps 0 0 0
  let others := taps.sum - taps.getD k 0
  taps.set k (16384 - others)

/-- Why a table is refused (COEF_LOAD result, R188): reason, axis, phase, tap. -/
structure CoefFault where
  reason : Nat
  axis : Nat
  phase : Nat
  tap : Nat
  deriving DecidableEq, Repr

/-- Taps of one phase as table words. -/
def words2 : List Byte → List (Byte × Byte)
  | a :: b :: r => (a, b) :: words2 r
  | _ => []

/-- R177 on one phase: first its words, then its sum. The spec says only 'first failing phase' (R188): in a
phase that fails both checks the word is reported (REASON 2), DESIGN CHOICE, log entry 98. -/
def checkPhase (axis p : Nat) (ws : List (Byte × Byte)) : Except CoefFault (List Int) :=
  match ws.findIdx? fun q => !signExtended q.2 with
  | some t => .error ⟨2, axis, p, t⟩
  | none =>
    let taps := ws.map fun q => coefWord q.1 q.2
    if (taps.sum - 16384).natAbs ≤ 32 then .ok (fixPhase taps) else .error ⟨1, axis, p, 0⟩

/-- R177 over a whole table: phases rising, n phases of `taps` taps are left. Axis 0 is checked before axis
1, which the spec leaves open (DESIGN CHOICE, log entry 98). -/
def checkPhases (taps phases : Nat) : Nat → List (Byte × Byte) → Nat →
    Except CoefFault (List Int)
  | 0, _, _ => .ok []
  | n + 1, ws, k =>
    match checkPhase (k / phases) (k % phases) (ws.take taps) with
    | .error e => .error e
    | .ok c =>
      match checkPhases taps phases n (ws.drop taps) (k + 1) with
      | .error e => .error e
      | .ok r => .ok (c ++ r)

/-- R177 on a loaded table of the given kind. -/
def checkTable (scale8 : Bool) (bytes : List Byte) : Except CoefFault (List Int) :=
  if scale8 then checkPhases 8 64 128 (words2 bytes) 0 else checkPhases 4 32 64 (words2 bytes) 0

end Sys2Proof.Machine.Geo
end

