-- ==== Sys2Proof/Machine/Blend.lean ====
section
/-!
DEFINITION. From samples to light units, blending and glare masks
(spec/05_composition.md R139, R141, R142, R148).
-/

namespace Sys2Proof.Machine.Cmp

/-- Bytes per sample (R136). -/
def fmtBytes : Format → Nat
  | .l8 => 1 | .l16 => 2 | .la88 => 2 | .la1616 => 4 | .a8 => 1

/-- The format of a code (R136). -/
def formatOf : Nat → Option Format
  | 0 => some .l8 | 1 => some .l16 | 2 => some .la88 | 3 => some .la1616 | 4 => some .a8
  | _ => none

/-- The code of a format (R136). -/
def formatCode : Format → Nat
  | .l8 => 0 | .l16 => 1 | .la88 => 2 | .la1616 => 3 | .a8 => 4

/-- x * y / 2^16 half to even, on numbers from 0. -/
def mul16 (x y : Nat) : Nat := (roundEven ((x * y : Nat) : Int) 65536).toNat

/-- Steps 1 and 2 of R139: an 8-bit or 16-bit code to U1.16. -/
def norm8 (v : Nat) : Nat := let e := v * 257; e + e / 32768

/-- Steps 1 and 2 of R139 for a 16-bit code. -/
def norm16 (e : Nat) : Nat := e + e / 32768

/-- The premultiplied pair (P, α) of a sample's bytes (R139). -/
def samplePair (c : LayerCfg) (fmt : Format) (b : List Byte) : Int × Int :=
  let g (k : Nat) : Nat := (b.getD k 0).toNat
  let nl : Nat := match fmt with
    | .l8 => norm8 (g 0)
    | .l16 => norm16 (g 0 + 256 * g 1)
    | .la88 => norm8 (g 0)
    | .la1616 => norm16 (g 0 + 256 * g 1)
    | .a8 => 0
  let na : Nat := match fmt with
    | .l8 => 0x10000
    | .l16 => 0x10000
    | .la88 => norm8 (g 1)
    | .la1616 => norm16 (g 2 + 256 * g 3)
    | .a8 => norm8 (g 0)
  let i : Nat := match fmt with
    | .a8 => c.fill
    | _ => min 0xFFFFFF (mul16 nl c.gain)
  let alpha := mul16 na c.opacity
  ((min 0xFFFFFF (mul16 i alpha) : Nat), (alpha : Nat))

/-- One blend (R142): D′ from D and the pair (P, α). -/
def blend (m : Blend) (d : Int) (pa : Int × Int) : Int :=
  let (p, a) := pa
  let r := match m with
    | .over' => p + roundEven (d * (65536 - a)) 65536
    | .add => d + p
    | .max => max d p
    | .mul => roundEven (d * ((65536 - a) + p)) 65536
  sat 0 0xFFFFFF r

/-- Pixels by which v lies outside lo to hi. -/
def outside (v lo hi : Nat) : Nat := if v < lo then lo - v else v - hi

/-- One box's factor at a pixel (R148). -/
def boxFactor (b : Box) (x y : Nat) : Nat :=
  let k := max (outside x b.x0 b.x1) (outside y b.y0 b.y1)
  let m0 := b.level * 2
  if k = 0 then m0
  else if k ≤ b.feather then
    m0 + (roundEven (((0x10000 : Int) - m0) * k) (b.feather + 1)).toNat
  else 0x10000

/-- The pixel's mask factor (R148). -/
def maskFactor (boxes : List Box) (x y : Nat) : Nat :=
  boxes.foldl (fun m b => if b.enable then min m (boxFactor b x y) else m) 0x10000

/-- The layer at depth d of an ORDER (R143). -/
def orderAt (o : BitVec 24) (d : Nat) : Nat := field o (3 * d) 3

/-- ORDER is a permutation of 0 to 7 (R143). -/
def orderOk (o : BitVec 24) : Bool :=
  (List.range 8).all fun l => (List.range 8).any fun d => orderAt o d == l

/-- R141: the pixel's light. `pair k` is layer k's filtered pair if it takes part in the frame, with
its blend mode; `prot` is the protected layer's. -/
def compose (o : BitVec 24) (pair : Nat → Option (Blend × (Int × Int))) (m : Nat)
    (prot : Option (Blend × (Int × Int))) : Int :=
  let d := (List.range 8).foldl
    (fun d k => match pair (orderAt o k) with
      | some (bm, pa) => blend bm d pa
      | none => d) 0
  let g := sat 0 0xFFFFFF (roundEven (d * m) 65536)
  match prot with
  | some (bm, pa) => blend bm g pa
  | none => g

end Sys2Proof.Machine.Cmp
end

