-- ==== Sys2Proof/Machine/Pipeline.lean ====
section
/-!
DEFINITION. A frame's pixels: composition, photometry and the Hedge's clamp, as functions of the
frame's inputs (spec/05_composition.md R135 to R148, spec/07_photometry.md R190 to R203,
spec/08_hedge.md R218 to R223).
-/

namespace Sys2Proof.Machine.Pipe

/-- Array width and height (R218, R193). -/
def arrayW : Nat := 1536
/-- Array height. -/
def arrayH : Nat := 768
/-- Pixels of the array. -/
def pixels : Nat := 1179648

/-- Start of surface slot k (R137). -/
def slotBase (k : Nat) : Nat := 0x02580000 + k * 0x240000

/-- A surface as a warp unit sees it. -/
structure Surface where
  /-- Granary address of line 0, or none for lines delivered from the host. -/
  base : Option Nat
  format : Format
  width : Nat
  height : Nat
  pitch : Nat
  deriving DecidableEq, Repr

/-- The surface a symbol entry supplies (R137). -/
def symSurface (s : Symbol) : Surface := ⟨some s.addr, s.format, s.width, s.height, s.pitch⟩

/-- The surface of a layer at an output row (R137, R153); none is transparent. -/
def surface (v : LayerView) (y : Nat) : Option Surface :=
  let c := v.set.cfg
  let own : Option Surface := match v.sym with
    | some s => some (symSurface s)
    | none => match c.source with
      | .slot k => some ⟨some (slotBase k), c.format, c.width, c.height, c.pitch⟩
      | .host _ => some ⟨none, c.format, c.width, c.height, c.pitch⟩
      | _ => none
  match v.underrun with
  | some g =>
    if y < g.row then own
    else match g.hole with
      | .drop => none
      | .substitute => if v.subst.state = .valid then some (symSurface v.subst) else none
  | none => own

/-- A region lets the pipeline read the word of an address; none grants it the output double buffer
(R107, R109). -/
def pipeMayRead (regions : Tab Region 16) (a : Nat) : Bool :=
  decide (0x480000 ≤ a) && regions.some' fun r => bitOf r.perm 0 && bitOf r.perm 1 &&
    decide (r.base * 65536 ≤ a) && decide (a < (r.limit + 1) * 65536)

/-- The region registers as the reads of a layer begin: at the start of the frame, or at its underrun (R109). -/
def startRegions (f : Frame) (v : LayerView) : Tab Region 16 := (v.underrun.map Gap.regions).getD f.regions

/-- The words with errors as a layer reads them: at the start of the frame, or at its underrun (R121; log
entry 142). -/
def startMarks (f : Frame) (v : LayerView) : List (Nat × Mark) := (v.underrun.map Gap.marks).getD f.marks

/-- The regions let the pipeline read an address in a frame, `start` being those its reads begin with (R109): a
change of a region register while the frame is composed applies to the reads made after it, and which those are is
open (free value). -/
def mayRead (f : Frame) (start : Tab Region 16) (a : Nat) : Bool :=
  let old := pipeMayRead start a
  let new := pipeMayRead f.regionsEnd a
  if old = new then old else if Config.showsNew f.free a then new else old

/-- The word of an address is uncorrectable (R121). -/
def poisoned (marks : List (Nat × Mark)) (a : Nat) : Bool :=
  marks.any fun m => m.1 == a / 8 && m.2 == .double

/-- A byte of a surface while a frame is composed: the old or the new content (R138). -/
def surfByte (f : Frame) (a : Nat) : Byte :=
  let old := Memory.read f.mem a
  let new := Memory.read f.memEnd a
  if old = new then old else if Config.showsNew f.free a then new else old

/-- The bytes of sample (i, j); none where the sample is transparent (R121, R140, R110). -/
def sampleBytes (f : Frame) (v : LayerView) (s : Surface) (i j : Nat) : Option (List Byte) :=
  let n := Cmp.fmtBytes s.format
  match s.base with
  | some b =>
    let a := b + j * s.pitch + i * n
    if poisoned (startMarks f v) a || !mayRead f (startRegions f v) a then none
    else some ((List.range n).map fun k => surfByte f (a + k))
  | none => (v.lines[j]?).map fun l => (l.drop (i * n)).take n

/-- The pair of sample (i, j) (R139, R140). -/
def sample (f : Frame) (v : LayerView) (s : Surface) (i j : Nat) : Int × Int :=
  match sampleBytes f v s i j with
  | some b => Cmp.samplePair v.set.cfg s.format b
  | none => (0, 0)

/-- The bank a pixel filters with (R181). -/
def bankAt (v : LayerView) (p : Nat) : Bank :=
  match v.fallback with
  | some k => if k ≤ p then Bank.reset else v.bank
  | none => v.bank

/-- A layer's filtered pair at a pixel; the transparent pair out of source, over step or where the
layer has no surface (R140, R171, R175). -/
def layerPair (f : Frame) (v : LayerView) (x y : Nat) : Int × Int :=
  match surface v y with
  | none => (0, 0)
  | some s =>
    match Geo.srcPoint v.set.warp s.width s.height x y with
    | none => (0, 0)
    | some (u, w) =>
      if Geo.overStep v.set.warp s.width s.height x y then (0, 0)
      else Geo.filterAt v.set.warp (bankAt v (y * arrayW + x)) s.width s.height
        (sample f v s) u w

/-- The composed light of a pixel, U8.16 (R141). -/
def light (f : Frame) (x y : Nat) : Nat :=
  let pair (k : Nat) : Option (Blend × (Int × Int)) :=
    (f.view.at' k none).map fun v => (v.set.cfg.blend, layerPair f v x y)
  (Cmp.compose f.order pair (Cmp.maskFactor f.boxes x y) (pair 8)).toNat

/-- The record a pixel uses: its own, old or new (R195), or the default record (R194). R110 gives no value
for a calibration record that the regions deny: it is taken like an uncorrectable one, and is neither
recorded in GRN_VIOL nor raised, which R110 says of a layer's reads only (DESIGN CHOICE, log entry 90). -/
def record (f : Frame) (p : Nat) : DWord :=
  let a := f.planeBase + 8 * p
  if poisoned f.marks a || !mayRead f f.regions a then f.defaultRec
  else
    let get (m : List Host.Cell) : DWord := BitVec.ofNat 64 (leNat (Memory.readBytes m a 8))
    if Config.showsNew f.free a then get f.memEnd else get f.mem

/-- The tile position of a pixel (Scope: 12 by 8 tiles of 128 by 96 pixels). -/
def tileOf (x y : Nat) : Nat := x / 128 + 12 * (y / 96)

/-- The health state photometry uses: DARK under the tile-dark mask (R350), the override list, then
the record (R206). -/
def health (f : Frame) (p : Nat) : Nat :=
  if f.darkMask.getLsbD (tileOf (p % arrayW) (p / arrayW)) then 4
  else match f.overrides.reverse.find? fun o => o.1 == p with
    | some o => o.2
    | none => field (record f p) 48 4

/-- OK or SUSPECT (R201). -/
def healthy (h : Nat) : Bool := decide (h ≤ 1)

/-- OPEN, SHORT, DARK or reserved: dead, its light is spread (R201). -/
def dead (h : Nat) : Bool := decide (2 ≤ h) && decide (h ≠ 5)

/-- round(a * b / 2^15). -/
def mul15 (a b : Nat) : Nat := (roundEven ((a * b : Nat) : Int) 32768).toNat

/-- l1 of R190. -/
def l1 (f : Frame) (p : Nat) : Nat := mul15 (light f (p % arrayW) (p / arrayW)) f.fade

/-- l2 of R190. -/
def l2 (f : Frame) (p : Nat) : Nat := mul15 (l1 f p) f.budget

/-- The neighbours of a pixel with their weights, in the order of R202, within the array. -/
def neighbours (p : Nat) : List (Nat × Nat) :=
  let x : Int := (p % arrayW : Nat)
  let y : Int := (p / arrayW : Nat)
  let all : List (Int × Int × Nat) :=
    [(-1, 0, 2), (1, 0, 2), (0, -1, 2), (0, 1, 2), (-1, -1, 1), (1, -1, 1), (-1, 1, 1), (1, 1, 1)]
  (all.filter fun n => decide (0 ≤ x + n.1) && decide (x + n.1 < arrayW) &&
      decide (0 ≤ y + n.2.1) && decide (y + n.2.1 < arrayH)).map
    fun n => ((y + n.2.1).toNat * arrayW + (x + n.1).toNat, n.2.2)

/-- Amounts received so far, by pixel. -/
abbrev Received := List (Nat × Nat)

/-- What a pixel has received. -/
def got (r : Received) (p : Nat) : Nat := ((r.filter fun q => q.1 == p).map Prod.snd).sum

/-- The headroom of a neighbour (R202). -/
def headroom (f : Frame) (r : Received) (n : Nat) : Nat :=
  let z := Env.zoneOf (n % arrayW) (n / arrayW)
  Env.zoneMax f.zoneCopy z * 16 - (l2 f n + got r n)

/-- Give offers to neighbours, each at most its headroom; the amount given, and the new list. -/
def give (f : Frame) (r : Received) : List (Nat × Nat) → Nat × Received
  | [] => (0, r)
  | (n, offer) :: rest =>
    let a := min offer (headroom f r n)
    let (g, r') := give f (if a = 0 then r else (n, a) :: r) rest
    (g + a, r')

/-- Add an amount to the first offer that satisfies a test. -/
def topUp (ok : Nat → Bool) (extra : Nat) : List (Nat × Nat) → List (Nat × Nat)
  | [] => []
  | (n, o) :: rest => if ok n then (n, o + extra) :: rest else (n, o) :: topUp ok extra rest

/-- The spread of one dead pixel (R202): its shortfall and the amounts received after it. -/
def spread (f : Frame) (r : Received) (p : Nat) : Nat × Received :=
  let l := l2 f p
  let el := (neighbours p).filter fun n => healthy (health f n.1)
  let w := (el.map Prod.snd).sum
  if w = 0 then (l, r)
  else
    let offers := el.map fun n => (n.1, l * n.2 / w)
    let rem := l - (offers.map Prod.snd).sum
    let (g1, r1) := give f r (topUp (fun _ => true) rem offers)
    let left := l - g1
    if left = 0 then (0, r1)
    else
      let open' := el.filter fun n => headroom f r1 n.1 != 0
      let h := (open'.map fun n => headroom f r1 n.1).sum
      if h = 0 then (left, r1)
      else
        let offers2 := open'.map fun n => (n.1, left * headroom f r1 n.1 / h)
        let rem2 := left - (offers2.map Prod.snd).sum
        let room (n : Nat) : Bool :=
          let o := ((offers2.find? fun q => q.1 == n).map Prod.snd).getD 0
          decide (o < headroom f r1 n)
        let (g2, r2) := give f r1 (topUp room rem2 offers2)
        (left - g2, r2)

/-- Shortfalls by pixel and amounts received, after the dead pixels of a list (R203). -/
def spreadAll (f : Frame) : List Nat → Received → List (Nat × Nat) × Received
  | [], r => ([], r)
  | p :: rest, r =>
    let (s, r1) := spread f r p
    let (ss, r2) := spreadAll f rest r1
    (if s = 0 then ss else (p, s) :: ss, r2)

/-- The dead pixels of a frame in raster order (R203). -/
def deadPixels (f : Frame) : List Nat := (List.range pixels).filter fun p => dead (health f p)

/-- Shortfalls and received amounts of the whole frame. -/
def compensation (f : Frame) : List (Nat × Nat) × Received := spreadAll f (deadPixels f) []

/-- derate(bin, t) of R190. -/
def derate (b : Bin) (t : Int) : Nat :=
  if t ≤ b.tKnee then 0x8000
  else max b.dMin (0x8000 - (roundEven ((b.slope : Int) * (t - b.tKnee)) 16).toNat)

/-- What photometry passes to the Hedge for a pixel: (code, lh), and whether the code saturated
(R190 to R192). `recv` is what compensation gave the pixel. -/
def drive (f : Frame) (p recv : Nat) : Nat × Nat × Bool :=
  let rec' := record f p
  let b := f.bins.at' (field rec' 52 4) Bin.reset
  let h := health f p
  let l3 := if healthy h then l2 f p + recv else 0
  let t := f.temp.map fun tt => tt.at' (tileOf (p % arrayW) (p / arrayW)) 0
  let d := min (match t with | some v => derate b v | none => b.dMin) f.dThermal
  let l4 := mul15 l3 d
  let lh := min 0xFFFF (roundEven (l4 : Int) 16).toNat
  let c1 := (roundEven ((l4 * field rec' 0 16 : Nat) : Int) 65536).toNat
  let c2 := mul15 c1 (field rec' 32 16)
  let dt : Int := (match t with | some v => v | none => b.tKnee) - b.tRef
  let kt := (sat 0 0xFFFF (16384 + roundEven (sfield rec' 24 8 * dt) 16)).toNat
  let c3 := (roundEven ((c2 * kt : Nat) : Int) 16384).toNat
  if c3 = 0 then (0, lh, false)
  else
    let c := c3 + field rec' 16 8
    (min 0xFFFF c, lh, decide (c > 0xFFFF))

/-- The Hedge's clamp (R219): the code and light written, and whether it clamped or ceiled. -/
structure Clamped where
  code : Nat
  lh : Nat
  clamped : Bool
  ceiled : Bool
  deriving DecidableEq, Repr

/-- R219 on one (code, lh) with a zone's maximum and code ceiling. -/
def clampPixel (zmax cmax code lh : Nat) : Clamped :=
  let over' := decide (lh > zmax)
  let c := if over' then code * zmax / lh else code
  let l := if over' then zmax else lh
  if c > cmax then ⟨cmax, l, over', true⟩ else ⟨c, l, over', false⟩

/-- The clamped pixel of a frame, given the amounts compensation moved. -/
def hedged (f : Frame) (r : Received) (p : Nat) : Clamped :=
  let (code, lh, _) := drive f p (got r p)
  let z := Env.zoneOf (p % arrayW) (p / arrayW)
  clampPixel (Env.zoneMax f.envelope z) (Env.codeMax f.envelope z) code lh

/-- The code a pixel has in the output buffer (R22, R219). -/
def code (f : Frame) (p : Nat) : Nat := (hedged f (compensation f).2 p).code

/-- The pixels of a zone. -/
def zonePixels (z : Nat) : List Nat :=
  (List.range 256).map fun k => ((z / 96) * 16 + k / 16) * arrayW + (z % 96) * 16 + k % 16

/-- S_z: the sum of a zone's clamped light (R220). -/
def zoneSum (f : Frame) (r : Received) (z : Nat) : Nat :=
  ((zonePixels z).map fun p => (hedged f r p).lh).sum

/-- What the Hedge finds in a frame (R220 to R223). -/
structure Verdict where
  zone : Bool
  globalF : Bool
  floor : Bool
  clamped : Nat
  ceiled : Nat
  sum : Nat
  fluxZone : Option Nat
  floorZone : Option Nat
  deriving DecidableEq, Repr

/-- The Hedge's sums and checks over a frame (R220). -/
def judge (f : Frame) : Verdict :=
  let r := (compensation f).2
  let e := f.envelope
  let fluxZ := (List.range 4608).find? fun z =>
    Env.zoneFlux e z != 0xFFFF && decide (zoneSum f r z > 256 * Env.zoneFlux e z)
  let floorZ := (List.range 4608).find? fun z =>
    Env.floorMin e z != 0 && decide (zoneSum f r z < 256 * Env.floorMin e z)
  let g := ((List.range 4608).map (zoneSum f r)).sum
  { zone := fluxZ.isSome,
    globalF := Env.globalFlux e != 0xFFFFFFFF && decide (g > 256 * Env.globalFlux e),
    floor := floorZ.isSome,
    clamped := (List.range pixels).countP fun p => (hedged f r p).clamped,
    ceiled := (List.range pixels).countP fun p => (hedged f r p).ceiled,
    sum := g, fluxZone := fluxZ, floorZone := floorZ }

/-- What photometry reports of a frame (R200, R205, R216). -/
structure PhotoReport where
  demand : Nat
  shortfall : Nat
  shortPx : Nat
  shortZone : Nat
  shortAmount : Nat
  satCnt : Nat
  deriving DecidableEq, Repr

/-- The shortfall of a zone. -/
def zoneShort (s : List (Nat × Nat)) (z : Nat) : Nat :=
  ((s.filter fun q => Env.zoneOf (q.1 % arrayW) (q.1 / arrayW) == z).map Prod.snd).sum

/-- Photometry's measures of a frame. -/
def measure (f : Frame) : PhotoReport :=
  let (s, r) := compensation f
  let best := (List.range 4608).foldl
    (fun (b : Nat × Nat) z => if zoneShort s z > b.2 then (z, zoneShort s z) else b) (0, 0)
  { demand := ((List.range pixels).map (l1 f)).sum,
    shortfall := (s.map Prod.snd).sum,
    shortPx := s.length,
    shortZone := best.1, shortAmount := best.2,
    satCnt := (List.range pixels).countP fun p => (drive f p (got r p)).2.2 }

/-- Over-step pixels of a layer in a frame (R175). -/
def overCount (v : LayerView) : Nat :=
  (List.range pixels).countP fun p =>
    match surface v (p / arrayW) with
    | some s => Geo.overStep v.set.warp s.width s.height (p % arrayW) (p / arrayW)
    | none => false

end Sys2Proof.Machine.Pipe
end

