-- ==== Sys2Proof/Machine/GranaryOps.lean ====
section
/-!
DEFINITION. Operations on the Granary: regions, checked words, writes (spec/04_granary.md).
-/

namespace Sys2Proof.Machine

/-- Code of a master (GRN_ECC_LAST.MASTER). -/
def Master.code : Master → Nat
  | .hedge => 0 | .lamplighter => 1 | .pipeline => 2 | .dma => 3 | .cores => 4 | .host => 5
  | .scrub => 6 | .march => 7

/-- Code of an event type (GRN_ECC_LAST.TYPE). -/
def EccType.code : EccType → Nat
  | .none => 0 | .corrected => 1 | .hard => 2 | .uncorrectable => 3

/-- The end of the output double buffer (R107). -/
def outBufEnd : Nat := 0x480000

/-- Bytes of the Granary. -/
def grnSize : Nat := 0x4000000

/-- One output buffer's bytes (R107). -/
def outBufHalf : Nat := 0x240000

/-- A byte of the Granary as a read finds it: the output double buffer holds the clamped codes of its
two frames, little-endian (R22, R107), or what a reset has left in it (R125). -/
def grnByte (s : State) (a : Nat) : Byte :=
  if a < outBufEnd then
    match (s.lpl.buf.at' (a / outBufHalf) none).orElse fun _ => s.lpl.old.at' (a / outBufHalf) none with
    | some f =>
      let o := a % outBufHalf
      BitVec.ofNat 8 (Pipe.code f (o / 2) / 256 ^ (o % 2))
    | none => 0
  else Memory.read s.grn.mem a

/-- n bytes from an address. -/
def grnRead (s : State) (a n : Nat) : List Byte := (List.range n).map fun i => grnByte s (a + i)

/-- A 64 KiB block lies in an enabled region that grants the permission bit (R109). -/
def blockGrants (s : State) (bit blk : Nat) : Bool :=
  s.grn.regions.some' fun r => bitOf r.perm 0 && bitOf r.perm bit && decide (r.base ≤ blk) &&
    decide (blk ≤ r.limit)

/-- Blocks of surface slot 7, behind the write gate of R146. -/
def inSlot7 (blk : Nat) : Bool := decide (0x354 ≤ blk) && decide (blk < 0x378)

/-- The 64 KiB blocks of a byte range. -/
def blocksOf (a n : Nat) : List Nat :=
  (List.range ((a + n - 1) / 65536 + 1 - a / 65536)).map fun k => a / 65536 + k

/-- The copy of an accepted LAYER_SET on P passes the write gate (R146) and obeys the regions. -/
def grnMayCopy (s : State) (bit a n : Nat) : Bool :=
  (blocksOf a n).all fun blk => decide (0x48 ≤ blk) && blockGrants s bit blk

/-- R109 over a byte range; `diag` is a read by the control cores or host BAR2, which may always read
the output double buffer. No write passes the gate in front of slot 7 (R146). -/
def grnMay (s : State) (bit : Nat) (diag : Bool) (a n : Nat) : Bool :=
  (blocksOf a n).all fun blk =>
    if blk < 0x48 then diag
    else blockGrants s bit blk &&
      !(inSlot7 blk && (bit == 3 || bit == 5 || bit == 7))

/-- PERM bits (GRN_REGn_PERM). -/
def permDmaR : Nat := 2
/-- DMA_W. -/
def permDmaW : Nat := 3
/-- CORE_R. -/
def permCoreR : Nat := 4
/-- CORE_W. -/
def permCoreW : Nat := 5
/-- HOST_R. -/
def permHostR : Nat := 6
/-- HOST_W. -/
def permHostW : Nat := 7

/-- Record a region violation (R110). -/
def violation (m : Master) (write : Bool) (a : Nat) (cls : Class) (s : State) : State :=
  raise 7 cls (a / 8 + m.code * 2 ^ 23)
    { s with grn.violMaster := m, grn.violWrite := write, grn.violAddr := a }

/-- The mark of a word. -/
def markOf (s : State) (w : Nat) : Option Mark := (s.grn.marks.find? fun m => m.1 == w).map Prod.snd

/-- Set or clear the mark of a word, rising by word. -/
def putMark (l : List (Nat × Mark)) (w : Nat) (m : Option Mark) : List (Nat × Mark) :=
  (l.filter fun x => decide (x.1 < w)) ++ (m.map fun v => (w, v)).toList ++
    l.filter fun x => decide (w < x.1)

/-- Bank of a word (R105). -/
def wordBank (w : Nat) : Nat := w % 32
/-- Row of a word in its bank (R106). -/
def wordRow (w : Nat) : Nat := w / 32 / 512

/-- The row of a word is being copied (R119). -/
def underCopy (s : State) (w : Nat) : Bool := s.grn.copying.any fun c => c == ⟨wordBank w, wordRow w⟩

/-- Rows of a bank that took or are taking a spare row (R119: four a bank). -/
def sparesUsed (s : State) (bank : Nat) : Nat :=
  (s.grn.repaired.filter fun c => c.bank == bank).length +
    (s.grn.copying.filter fun c => c.bank == bank).length

/-- Record an ECC event in GRN_ECC_LAST and raise it (R118, R119, R121). -/
def eccEvent (m : Master) (t : EccType) (w : Nat) (cls : Class) (s : State) : State :=
  raise 7 cls (w + m.code * 2 ^ 23 + t.code * 2 ^ 26)
    { s with
      free := s.free + 1
      grn.lastType := t
      grn.lastMaster := m
      grn.lastAddr := w
      grn.lastSyndrome := Config.syndrome w (decide (t = .uncorrectable)) s.free }

/-- Start the repair of a word's row, or count it unrepaired (R119). -/
def startRepair (w : Nat) (s : State) : State :=
  if sparesUsed s (wordBank w) < 4 then
    { s with grn.copying := s.grn.copying ++ [⟨wordBank w, wordRow w⟩] }
  else { s with grn.unrepaired := bump 255 1 s.grn.unrepaired }

/-- The mark a read finds: the word's own, or a fresh upset (R117). -/
def worse (m : Option Mark) (u : Upset) : Option Mark :=
  match m, u with
  | some .double, _ => some .double
  | _, .double => some .double
  | some .single, _ => some .single
  | none, .single => some .single
  | none, .none => none

/-- A master reads a word (R118, R119, R121): whether it is poisoned, and the state after. -/
def readWord (m : Master) (w : Nat) (u : Upset) (s : State) : Bool × State :=
  let mk := worse (markOf s w) u
  let s := { s with grn.marks := putMark s.grn.marks w mk }
  match mk with
  | none => (false, s)
  | some .double =>
    (true, eccEvent m .uncorrectable w .minor { s with grn.eccUe := bump 4095 1 s.grn.eccUe })
  | some .single =>
    if underCopy s w then (false, s)
    else if s.grn.rewritten.contains w then
      (false, startRepair w (eccEvent m .hard w .minor
        { s with grn.eccCe := bump 4095 1 s.grn.eccCe, grn.eccHard := bump 255 1 s.grn.eccHard }))
    else
      (false, eccEvent m .corrected w .note
        { s with
          grn.eccCe := bump 4095 1 s.grn.eccCe
          grn.rewriteQ := s.grn.rewriteQ.filter (fun x => x != w) ++ [w] })

/-- Read the words of a byte range, the fresh upset on the first; poisoned if any is. -/
def readWords (m : Master) (a n : Nat) (u : Upset) (s : State) : Bool × State :=
  (List.range ((a + n - 1) / 8 + 1 - a / 8)).foldl
    (fun acc k =>
      let r := readWord m (a / 8 + k) (if k = 0 then u else .none) acc.2
      (acc.1 || r.1, r.2)) (false, s)

/-- A master reads a whole range: its words with errors, in rising order; poisoned if any is. -/
def readMarked (m : Master) (a n : Nat) (s : State) : Bool × State :=
  ((s.grn.marks.map Prod.fst).filter fun w => decide (a ≤ 8 * w) && decide (8 * w < a + n)).foldl
    (fun acc w =>
      let r := readWord m w .none acc.2
      (acc.1 || r.1, r.2)) (false, s)

/-- Words a byte range covers only in part: its first and last, where unaligned. -/
def partialWords (a n : Nat) : List Nat :=
  if n = 0 then [] else (if a % 8 ≠ 0 ∨ n < 8 then [a / 8] else []) ++
  (if (a + n) % 8 ≠ 0 ∧ (a + n - 1) / 8 ≠ a / 8 then [(a + n - 1) / 8] else [])

/-- Blocks of 64 KiB of a region with PIPE_R written while a partner is in COPY, after they have been sent, become
dirty (R474). -/
def markDirty (a n : Nat) (s : State) : State :=
  let copying : Bool := match s.yok.partner with
    | some p => s.yok.holding && p.state == .copy
    | none => false
  if copying then
    let blks := blocksOf a n
    let new := blks.filter fun b => blockGrants s 1 b && !(s.yok.copyLeft.contains b) && !(s.yok.dirty.contains b)
    { s with yok.dirty := s.yok.dirty ++ new }
  else s

/-- Store bytes outside the output double buffer: the written words are clean and their queued
rewrites cancelled (R118, R122). -/
def storeBytes (a : Nat) (data : List Byte) (s : State) : State :=
  if data.isEmpty then s
  else
    let lo := a / 8
    let hi := (a + data.length - 1) / 8
    markDirty a data.length
      { s with
        grn.mem := Memory.writeBytes s.grn.mem a data
        grn.marks := s.grn.marks.filter fun m => decide (m.1 < lo ∨ hi < m.1)
        grn.rewriteQ := s.grn.rewriteQ.filter fun w => decide (w < lo ∨ hi < w) }

/-- Read words before they are written, the fresh upset on the first (R92): the uncorrectable ones. -/
def readFirst (m : Master) (ps : List Nat) (u : Upset) (s : State) : List Nat × State :=
  ps.foldl
    (fun acc w =>
      let x := readWord m w (if ps.head? = some w then u else .none) acc.2
      (if x.1 then acc.1 ++ [w] else acc.1, x.2)) ([], s)

/-- Write a beat whole or not at all (R92, R99): the words it covers in part, or with a narrow access width
every word, are read first; if one is uncorrectable nothing is written and the answer is false. -/
def grnStore (m : Master) (narrow : Bool) (a : Nat) (data : List Byte) (u : Upset) (s : State) :
    Bool × State :=
  let r := readFirst m
    (if narrow then (List.range ((a + data.length - 1) / 8 + 1 - a / 8)).map fun k => a / 8 + k
      else partialWords a data.length) u s
  if r.1.isEmpty then (true, storeBytes a data r.2) else (false, r.2)

/-- Write bytes word by word (R116, R122): a partly covered word is read first; where it is uncorrectable
that word is left and the answer is false; every other word is written. -/
def grnWrite (m : Master) (a : Nat) (data : List Byte) (u : Upset) (s : State) : Bool × State :=
  let r := readFirst m (partialWords a data.length) u s
  let e := a + data.length
  let lo := if r.1.contains (a / 8) then min (8 * (a / 8 + 1)) e else a
  let hi := if r.1.contains ((e - 1) / 8) then max (8 * ((e - 1) / 8)) lo else e
  (r.1.isEmpty, storeBytes lo ((data.drop (lo - a)).take (hi - lo)) r.2)

/-- A word of a range whose contents are undefined still shows the error it held: free, since whether it
has been written is open (log entry 88). -/
def staysBad (k lo hi w : Nat) : Bool := decide (w < lo ∨ hi ≤ w) || Config.showsNew k w

/-- Bytes whose contents the spec leaves undefined: free values, outside the output double buffer; whether
a word keeps its error and its queued rewrite is free too. -/
def scramble (a n : Nat) (s : State) : State :=
  let lo := max a outBufEnd
  let hi := min (a + n) grnSize
  let s' : State := { s with
    free := s.free + 1
    grn.marks := s.grn.marks.filter fun m => staysBad s.free (lo / 8) (hi / 8) m.1
    grn.rewriteQ := s.grn.rewriteQ.filter fun w => staysBad s.free (lo / 8) (hi / 8) w
    grn.mem := Memory.writeBytes s.grn.mem lo
      ((List.range (hi - lo)).map fun i => Config.freeByte s.free i) }
  if lo < hi then markDirty lo (hi - lo) s' else s'

/-- The first byte of a range that lies in a denied 64 KiB block (R109). -/
def firstDenied (s : State) (bit : Nat) (diag : Bool) (a n : Nat) : Option Nat :=
  ((blocksOf a n).find? fun blk => !grnMay s bit diag (max a (blk * 65536)) 1).map fun blk =>
    max a (blk * 65536)

/-- The control cores write bytes for a command, word by word in rising order (R109, R110, R116): the first
word that is denied or uncorrectable ends it; what comes before it is written (log entry 89). -/
def coreWrite (a : Nat) (data : List Byte) (s : State) : Bool × State :=
  match firstDenied s permCoreW false a data.length with
  | none => grnWrite .cores a data .none s
  | some b =>
    let r := grnWrite .cores a (data.take (b - a)) .none s
    if r.1 then (false, violation .cores true b .minor r.2) else r

/-- The control cores read bytes for a command, word by word in rising order (R109, R110, R121): none if a
word is denied or uncorrectable. -/
def coreRead (a n : Nat) (s : State) : Option (List Byte) × State :=
  match firstDenied s permCoreR true a n with
  | none =>
    let r := readWords .cores a n .none s
    (if r.1 then none else some (grnRead s a n), r.2)
  | some b =>
    let r := if a < b then readWords .cores a (b - a) .none s else (false, s)
    (none, if r.1 then r.2 else violation .cores false b .minor r.2)

/-- The Granary answers: initialised and out of retention (R116, R125, R133). -/
def grnReady (s : State) : Bool := s.grn.initDone && !s.grn.retention

/-- A host access through BAR2 is served (R46, R110, R115, R116, R121). -/
def serveHost (s : State) (x : Bar2Req) : State :=
  match x with
  | .read a n u =>
    if grnMay s permHostR true a n then
      let r := readWords .host a n u s
      emit (.answer (grnRead s a n) r.1) r.2
    else emit (.answer (List.replicate n 0) false) (violation .host false a .note s)
  | .write a data u =>
    if grnMay s permHostW false a data.length then (grnWrite .host a data u s).2
    else violation .host true a .note s

/-- A host access through BAR2: served now, or waiting until the Granary is ready (R116). -/
def hostAccess (x : Bar2Req) (s : State) : State :=
  if grnReady s then serveHost s x else { s with hif.bar2Wait := s.hif.bar2Wait ++ [x] }

/-- The Granary is ready: the host accesses that waited are served in their order (R114, R116). -/
def serveWaiting (s : State) : State :=
  s.hif.bar2Wait.foldl serveHost { s with hif.bar2Wait := [] }

end Sys2Proof.Machine
end

