-- ==== Sys2Proof/Machine/FrameReads.lean ====
section
/-!
DEFINITION. What a frame reads of the Granary: the words and stripes, their ECC events, and the reads the
regions deny (R109, R110, R118 to R121, R195, R583).
-/

namespace Sys2Proof.Machine

/-- Bytes of a calibration plane (R193). -/
def planeBytes : Nat := 0x900000

/-- The samples the taps of an in-source pixel read (R167, R172, R173, R583). -/
def tapSamples (w : Warp) (width height x y : Nat) : List (Nat × Nat) :=
  match Geo.srcPoint w width height x y with
  | none => []
  | some (u, v) =>
    match w.mode with
    | .direct => [((u / 65536).toNat, (v / 65536).toNat)]
    | m =>
      let taps := if m = .scale then 8 else 4
      let bits := if m = .scale then 10 else 11
      let top := if m = .scale then 64 else 32
      let line (q : Int) (size : Nat) : List Nat :=
        (List.range taps).filterMap fun (t : Nat) =>
          Geo.tapIndex w.clamp size ((Geo.phase q bits top).1 - ((taps / 2 : Nat) : Int) + 1 + (t : Int))
      (line v height).flatMap fun j => (line u width).map fun i => (i, j)

/-- The 256-byte stripes a layer reads of the Granary for a pixel (R583). -/
def pixelStripes (v : LayerView) (p : Nat) : List Nat :=
  let x := p % Pipe.arrayW
  let y := p / Pipe.arrayW
  match Pipe.surface v y with
  | none => []
  | some s =>
    match s.base with
    | none => []
    | some b =>
      let n := Cmp.fmtBytes s.format
      (tapSamples v.set.warp s.width s.height x y).flatMap fun ij =>
        let a := b + ij.2 * s.pitch + ij.1 * n
        [a / 256, (a + n - 1) / 256]

/-- A layer reads a stripe in a frame. -/
def layerReads (v : LayerView) (stripe : Nat) : Bool :=
  (List.range Pipe.pixels).any fun p => (pixelStripes v p).contains stripe

/-- A word holds a record of the calibration plane of a frame (R193). -/
def planeWord (f : Frame) (w : Nat) : Bool :=
  decide (f.planeBase ≤ 8 * w) && decide (8 * w < f.planeBase + planeBytes)

/-- A frame reads a word of the Granary: a stripe of a layer, or a calibration record, where the regions
let it (R109, R193, R583). -/
def frameReads (f : Frame) (w : Nat) : Bool :=
  Pipe.pipeMayRead f.regions (8 * w) && (planeWord f w ||
    f.view.some' fun v => match v with
      | some v => layerReads v (w / 32)
      | none => false)

/-- A read of a word is put at a free place among those before it: the reads, and the next free number. -/
def placeRead (w : Nat) (acc : List Nat × Nat) : List Nat × Nat :=
  let i := (Config.freeBits 32 acc.2).toNat % (acc.1.length + 1)
  (acc.1.take i ++ w :: acc.1.drop i, acc.2 + 1)

/-- The reads of words, in a free order (R583): each read a free number of times, but for the words of `once`, which
are read once (R195); and the next free number. -/
def readOrder (words : List Nat) (once : Nat → Bool) (free : Nat) : List Nat × Nat :=
  words.foldl
    (fun acc w =>
      let n := if once w then 1 else 1 + (Config.freeBits 8 acc.2).toNat
      (List.range n).foldl (fun acc _ => placeRead w acc) (acc.1, acc.2 + 1))
    ([], free)

/-- The ECC events of the words with errors that the pipeline reads (R118 to R121, R583): the order of the reads is
free, those of one word need not follow each other, and how often each is read is free too. -/
def readsEcc (words : List Nat) (once : Nat → Bool) (s : State) : State :=
  let r := readOrder words once s.free
  r.1.foldl (fun s w => (readWord .pipeline w .none s).2) { s with free := r.2 }

/-- The ECC events of a frame's reads. -/
def frameEcc (f : Frame) (s : State) : State :=
  if s.grn.marks.isEmpty then s
  else readsEcc ((s.grn.marks.map Prod.fst).filter (frameReads f)) (planeWord f) s

/-- The ECC events of the reads a layer makes of the surface it falls back to within a frame (R153,
R583). -/
def layerEcc (f : Frame) (v : LayerView) (s : State) : State :=
  if s.grn.marks.isEmpty then s
  else readsEcc
    ((s.grn.marks.map Prod.fst).filter fun w =>
      Pipe.pipeMayRead (Pipe.startRegions f v) (8 * w) && layerReads v (w / 32))
    (fun _ => false) s

/-- Every 64 KiB block of a surface may be read by the pipeline (R107, R109). -/
def surfaceGranted (regions : Tab Region 16) (f : Pipe.Surface) : Bool :=
  match f.base with
  | none => true
  | some b =>
    (blocksOf b ((f.height - 1) * f.pitch + f.width * Cmp.fmtBytes f.format)).all fun blk =>
      Pipe.pipeMayRead regions (65536 * blk)

/-- The stripes a layer reads in a frame that the pipeline may not read (R110, R583). -/
def deniedStripes (v : LayerView) (regions : Tab Region 16) : List Nat :=
  let all := (List.range Pipe.pixels).flatMap (pixelStripes v)
  all.filter fun t => !(Pipe.pipeMayRead regions (256 * t))

/-- The record and the event of the denied stripes `bad`, if there are any (R110): at a free word of
one of them (R583). -/
def denyOne (bad : List Nat) (s : State) : State :=
  match bad[(Config.freeBits 32 s.free).toNat % max 1 bad.length]? with
  | none => s
  | some t =>
    let w := 32 * t + (Config.freeBits 5 (s.free + 1)).toNat
    violation .pipeline false (8 * w) .minor { s with free := s.free + 2 }

/-- Denied reads of a layer (R110): one record and one event, at a denied word; which denied word comes
first is free, since the order of the reads is not defined (R583). -/
def denyLayer (regions : Tab Region 16) (v : LayerView) (s : State) : State :=
  match Pipe.surface v 767 with
  | none => s
  | some sf => if surfaceGranted regions sf then s else denyOne (deniedStripes v regions) s

/-- Denied reads of layer n in a frame, by the regions at its start (R110). -/
def frameDenied (f : Frame) (s : State) (n : Fin 9) : State :=
  match f.view[n] with
  | none => s
  | some v => denyLayer f.regions v s

/-- Reads of layer n that only a change of the regions during the composition denied (R109, R110): whether
any came after the change is free. -/
def lateDenied (f : Frame) (s : State) (n : Fin 9) : State :=
  match f.view[n] with
  | none => s
  | some v =>
    let start := Pipe.startRegions f v
    if f.regionsEnd = start ∨ !(deniedStripes v start).isEmpty then s
    else
      let b := freshBool s
      if b.1 then denyLayer f.regionsEnd v b.2 else b.2

end Sys2Proof.Machine
end

