-- ==== Sys2Proof/Machine/DmaOps.lean ====
section
/-!
DEFINITION. Operations on the DMA channels and on the transfers of commands (spec/03_dma.md).
-/

namespace Sys2Proof.Machine

/-- A channel that moves or waits (DMA_ACTIVE). -/
def DmaState.active : DmaState → Bool
  | .fetch | .run | .waitRequest | .stopping => true
  | _ => false

/-- Code of a channel state (DMA_CHn_STATUS.STATE). -/
def DmaState.code : DmaState → Nat
  | .idle => 0 | .fetch => 1 | .run => 2 | .waitRequest => 3 | .stopping => 4 | .stopped => 5
  | .aborted => 6 | .halted => 7

/-- Access width in bytes (SWIDTH, DWIDTH). -/
def widthBytes (w : Nat) : Nat := 2 ^ (w % 4)

/-- A DMA descriptor as its 32 bytes lay it out (R87). -/
def parseDma (raw : BitVec 256) : DmaDesc :=
  { src := field raw 0 64, dst := field raw 64 64, lineBytes := field raw 128 24,
    lines := field raw 160 16, srcStride := field raw 192 16, dstStride := field raw 208 16,
    swidth := field raw 224 2, dwidth := field raw 226 2, srcHost := bitOf raw 228,
    dstHost := bitOf raw 229, last := bitOf raw 230, link := bitOf raw 231, fill := bitOf raw 232,
    tag := field raw 240 16 }

/-- Bytes of a descriptor. -/
def DmaDesc.total (x : DmaDesc) : Nat := x.lineBytes * x.lines

/-- Source address of byte o of a descriptor. -/
def DmaDesc.srcAt (x : DmaDesc) (o : Nat) : Nat :=
  x.src + (o / x.lineBytes) * x.srcStride * 8 + o % x.lineBytes

/-- Destination address of byte o of a descriptor. -/
def DmaDesc.dstAt (x : DmaDesc) (o : Nat) : Nat :=
  x.dst + (o / x.lineBytes) * x.dstStride * 8 + o % x.lineBytes

/-- The byte a FILL writes at an address (R92). -/
def DmaDesc.fillByte (x : DmaDesc) (a : Nat) : Byte := BitVec.ofNat 8 (x.src / 256 ^ (a % 8))

/-- The descriptor reads host memory. -/
def DmaDesc.readsHost (x : DmaDesc) : Bool := x.srcHost && !x.fill

/-- The descriptor touches host memory (R97). -/
def DmaDesc.touchesHost (x : DmaDesc) : Bool := x.readsHost || x.dstHost

/-- The link carries host transfers (R88). -/
def hostReachable (s : State) : Bool := !s.hif.hostless && s.hif.linkUp

/-- R88: the code of the first failing check. -/
def checkDesc (x : DmaDesc) (s : State) : Option Byte :=
  let sw := if x.fill then widthBytes x.dwidth else widthBytes x.swidth
  let dw := widthBytes x.dwidth
  let lastOf (base stride : Nat) : Nat := base + (x.lines - 1) * stride * 8 + x.lineBytes
  if x.lines = 0 ∨ x.lineBytes = 0 then some 0x13
  else if x.lineBytes % (max sw dw) ≠ 0 then some 0x13
  else if (!x.fill && x.src % sw != 0) || x.dst % dw != 0 then some 0x13
  else if x.lines > 1 ∧ x.dstStride * 8 < x.lineBytes then some 0x13
  else if x.total > 0x4000000 then some 0x13
  else if !x.fill && !x.srcHost && decide (lastOf x.src x.srcStride > grnSize) then some 0x14
  else if !x.dstHost && decide (lastOf x.dst x.dstStride > grnSize) then some 0x14
  else if x.touchesHost && !hostReachable s then some 0x14
  else none

/-- The burst under way belongs to channel k. -/
def burstOf (k : Fin 32) (s : State) : Option Burst := s.dma.burst.filter fun b => b.ch == k

/-- The burst of channel k, if one is under way, ends (R96, R99). -/
def endBurst (k : Fin 32) (s : State) : State :=
  { s with dma.burst := s.dma.burst.filter fun b => b.ch != k }

/-- Change a channel. -/
def modCh (k : Fin 32) (f : DmaCh → DmaCh) (s : State) : State :=
  { s with dma.ch := s.dma.ch.upd k f }

/-- ABORT has reached the channel in this very cycle (R98). -/
def abortedNow (k : Fin 32) (s : State) : Bool :=
  (s.dma.ch[k]).state == .aborted && ((s.dma.ch[k]).abortAt.map fun a => a.1) == some s.now

/-- Halt a channel on an error (R99, R102). An error in the cycle of an ABORT only records its address: the code
stays ABORTED (R98). -/
def dmaHalt (k : Fin 32) (code : Byte) (addr : Nat) (host : Bool) (s : State) : State :=
  if abortedNow k s then modCh k (fun c => { c with errAddr := addr, errHost := host }) s
  else raise 32 .minor (k.val + code.toNat * 256)
    (modCh k (fun c => { c with
      state := .halted, code := code, errAddr := addr, errHost := host, hold := [],
      stopReq := false, haltAt := some s.now, abortAt := none }) (endBurst k s))

/-- The job that holds a channel. -/
def jobOn (k : Fin 32) (s : State) : Option DmaJob := s.jobs.find? fun j => j.ch == some k

/-- A channel no command holds and nothing moves on. -/
def chIdle (k : Fin 32) (s : State) : Bool := !(s.dma.ch[k]).state.active && (jobOn k s).isNone

/-- The lowest-numbered idle channel of a range (R85). -/
def freeCh (lo hi : Nat) (s : State) : Option (Fin 32) :=
  (List.finRange 32).find? fun k => decide (lo ≤ k.val) && decide (k.val ≤ hi) && chIdle k s

/-- A channel begins a chain: its first descriptor is at an address (R86). -/
def DmaCh.begin (c : DmaCh) (addr : Nat) (host : Bool) : DmaCh :=
  { c with
    descAddr := addr, descHost := host, state := .fetch, code := 0, descIndex := 0, remain := 0,
    cur := none, arrived := 0, hold := [], written := 0, links := 0, stopReq := false,
    passed := 0, doneOne := false, haltAt := none, abortAt := none }

/-- A descriptor of a chain in host memory is read, with snooping (R65, R89). -/
def askDesc (addr : Nat) (host : Bool) (s : State) : State :=
  if host then emit (.hostRead addr 32 TlpAttr.clear) s else s

/-- Software start of a channel on a chain (R86). -/
def startChain (k : Fin 32) (addr : Nat) (host : Bool) (s : State) : State :=
  askDesc addr host (modCh k (fun c => c.begin addr host) s)

/-- Give a job a channel and start it: at the chain its payload names, or at the descriptor the
control cores wrote, whose place the spec does not state (log entry 4). A SAFETY_COMMIT that begins its copy
discards the block staged before (R245). -/
def startJob (k : Fin 32) (j : DmaJob) (s : State) : State :=
  let a := (Config.freeBits 26 s.free).toNat / 32 * 32
  let s := { s with
    free := s.free + 1, hdg.staged := if j.cmd.opcode = 0x48 then none else s.hdg.staged }
  if j.xfer.link then startChain k j.xfer.src j.xfer.srcHost s
  else modCh k (fun c => c.begin a false) s

/-- Interrupted jobs whose channel has ended its descriptor are gone (R95). -/
def reapJobs (s : State) : State :=
  { s with jobs := s.jobs.filter fun j => !j.dead || match j.ch with
      | some k => (s.dma.ch[k]).state.active
      | none => false }

/-- A command asks for a transfer: it takes the lowest idle channel of its range, or waits (R85). -/
def askTransfer (j : DmaJob) (s : State) : State :=
  let s := reapJobs s
  let waiting := s.jobs.any fun x => x.ch.isNone && x.lo == j.lo
  match if waiting then none else freeCh j.lo j.hi s with
  | some k => startJob k { j with ch := some k } { s with jobs := s.jobs ++ [{ j with ch := some k }] }
  | none => { s with jobs := s.jobs ++ [{ j with ch := none }] }

/-- A chain named by a payload, as the transfer of a job. -/
def chainXfer (addr : Nat) (host : Bool) : DmaDesc :=
  { src := addr, dst := 0, lineBytes := 0, lines := 0, srcStride := 0, dstStride := 0, swidth := 0,
    dwidth := 0, srcHost := host, dstHost := false, last := false, link := true, fill := false,
    tag := 0 }

/-- The largest access width (its code) that an address, a length and a pitch are all multiples of. -/
def widthFor (a n p : Nat) : Nat :=
  if a % 8 = 0 ∧ n % 8 = 0 ∧ p % 8 = 0 then 3
  else if a % 4 = 0 ∧ n % 4 = 0 ∧ p % 4 = 0 then 2
  else if a % 2 = 0 ∧ n % 2 = 0 ∧ p % 2 = 0 then 1 else 0

/-- Lines of `bytes` at a pitch, from a source to a destination. The control cores write this descriptor
and the spec does not state its widths: each is the largest its addresses allow (log entry 86). -/
def lineXfer (src : Nat) (srcHost : Bool) (srcPitch : Nat) (dst : Nat) (dstHost : Bool)
    (dstPitch bytes lines : Nat) : DmaDesc :=
  { src := src, dst := dst, lineBytes := bytes, lines := lines, srcStride := srcPitch / 8,
    dstStride := dstPitch / 8, swidth := widthFor src bytes srcPitch
    dwidth := widthFor dst bytes dstPitch, srcHost := srcHost, dstHost := dstHost,
    last := true, link := false, fill := false, tag := 0 }

/-- A job of a command over channels 8 to 29. -/
def cmdJob (c : Cmd) (x : DmaDesc) (toBuf : Bool) : DmaJob :=
  { cmd := c, ch := none, lo := 8, hi := 29, xfer := x, pos := 0, written := 0, seq0 := 0,
    toBuf := toBuf, buf := [], dead := false }

/-- The transfer detail of R103. -/
def xferDetail (k : Fin 32) (s : State) : Result :=
  let c := s.dma.ch[k]
  resAt 16 c.code.toNat ||| resAt 17 k.val ||| resAt 18 (c.descIndex % 65536) |||
    resAt 20 (c.remain % 2 ^ 27)

/-- The detail of a command that never took a channel (R85). -/
def xferNone : Result := resAt 16 0x02 ||| resAt 17 0xFF

/-- Drop the job that holds a channel; the channel is free again. -/
def dropJob (k : Fin 32) (s : State) : State :=
  { s with jobs := s.jobs.filter fun j => j.ch != some k }

/-- Replace the job that holds a channel. -/
def setJob (k : Fin 32) (f : DmaJob → DmaJob) (s : State) : State :=
  { s with jobs := s.jobs.map fun j => if j.ch = some k then f j else j }

/-- A channel stopped between descriptors (R95): DESC_INDEX is that of the last completed one, modulo
65,536; with none completed it stays 0 (log entry 38). -/
def DmaCh.stopHere (c : DmaCh) : DmaCh :=
  { c with
    state := .stopped, code := 0x01, remain := 0, requests := 0
    descIndex := if c.doneOne then (c.descIndex + 65535) % 65536 else c.descIndex }

/-- STOP (R95): at once between descriptors or before a paced request, otherwise at the boundary. -/
def dmaStop (k : Fin 32) (s : State) : State :=
  match (s.dma.ch[k]).state with
  | .fetch => modCh k DmaCh.stopHere s
  | .waitRequest => modCh k DmaCh.stopHere s
  | .run => modCh k (fun c => { c with state := .stopping, stopReq := true }) s
  | _ => s

/-- An error halted the channel in this very cycle (R98). -/
def haltedNow (k : Fin 32) (s : State) : Bool :=
  (s.dma.ch[k]).state == .halted && (s.dma.ch[k]).haltAt == some s.now

/-- ABORT that meets an error in the same cycle (R98): the code reads ABORTED and ERRADDR stays. -/
def abortHalted (k : Fin 32) (s : State) : State :=
  let r := (Config.freeBits 27 s.free).toNat
  let i := (Config.freeBits 16 (s.free + 1)).toNat
  modCh k (fun c => { c with state := .aborted, code := 0x02, remain := r, descIndex := i })
    { s with free := s.free + 2 }

/-- ABORT (R96, R98): REMAIN, DESC_INDEX and the destination range become free values. What the channel was about
is kept for an error of the same cycle (R98); nothing else reads it in ABORTED. -/
def dmaAbort (k : Fin 32) (s : State) : State :=
  let c := s.dma.ch[k]
  if haltedNow k s then abortHalted k s
  else if !c.state.active then s
  else
    let toBuf := match jobOn k s with
      | some j => j.toBuf
      | none => true
    let s := match c.cur with
      | some x =>
        if x.dstHost || toBuf then s
        else (List.range x.lines).foldl
          (fun s i => scramble (x.dst + i * x.dstStride * 8) x.lineBytes s) s
      | none => s
    let r := (Config.freeBits 27 s.free).toNat
    let i := (Config.freeBits 16 (s.free + 1)).toNat
    modCh k (fun c => { c with
      state := .aborted, code := 0x02, remain := r, descIndex := i, stopReq := false, requests := 0
      abortAt := some (s.now, burstOf k s) }) (endBurst k { s with free := s.free + 2 })

/-- Stop every channel (R37, R387 step 4). -/
def dmaStopAll (s : State) : State := (List.finRange 32).foldl (fun s k => dmaStop k s) s

end Sys2Proof.Machine
end

