-- ==== Sys2Proof/Machine/Rings.lean ====
section
/-!
DEFINITION. The host interface and the rings (spec/02_host_rings.md): set-up, doorbells, fetching,
completions, interrupts.
-/

namespace Sys2Proof.Machine

/-- Do something if a condition holds; otherwise the event has no effect (log entry 3). -/
def whenS (b : Bool) (f : State → State) (s : State) : State := if b then f s else s

/-- Change submission ring n. -/
def modSq (n : Fin 16) (f : SqRing → SqRing) (s : State) : State :=
  { s with hif.sq := s.hif.sq.upd n f }

/-- Change completion ring n. -/
def modCq (n : Fin 16) (f : CqRing → CqRing) (s : State) : State :=
  { s with hif.cq := s.hif.cq.upd n f }

/-- Index of the next entry to fetch. -/
def SqRing.nextIdx (q : SqRing) : Nat := (q.head + q.fetched.length + q.behind.length) % q.size

/-- The ring manager serves rings: the cores run, outside LIGHT_HOLD and low-power entry. -/
def ringsServed (s : State) : Bool := coresUp s && s.pwr.cores.served && !lowOff s

/-- A submission ring that may fetch: enabled, not stopped by R58, its completion ring not full (R63). -/
def mayFetch (n : Fin 16) (s : State) : Bool :=
  let q := s.hif.sq[n]
  ringsServed s && q.enable && !q.stopped && !(s.hif.cq[q.cq]).full

/-- Request the next entries, at most 8 and not past the end of the ring (R57); one request of a ring is
under way at a time. -/
def requestEntries (n : Fin 16) (s : State) : State :=
  let q := s.hif.sq[n]
  let avail := (q.prod + q.size - q.nextIdx) % q.size
  let k := min (min 8 avail) (q.size - q.nextIdx)
  if mayFetch n s && q.behind.isEmpty && q.asked == 0 && decide (0 < k) then
    emit (.hostRead (q.base.toNat + 64 * q.nextIdx) (64 * k) TlpAttr.clear)
      (modSq n (fun q => { q with asked := k }) s)
  else s

/-- Read a producer-index word (R57): a kick and a poll that fall due at one time cause one read. -/
def readDoorbell (n : Fin 16) (s : State) : State :=
  let q := s.hif.sq[n]
  whenS (ringsServed s && q.enable && !q.stopped && q.dbAsked != some s.now)
    (fun s => emit (.hostRead q.db.toNat 4 TlpAttr.clear)
      (modSq n (fun q => { q with dbAsked := some s.now }) s)) s

/-- Stop a ring's fetching under R58; kind 1 is BAD_INDEX, 2 FETCH_ERROR. -/
def stopRing (n : Fin 16) (kind : Nat) (s : State) : State :=
  settleRing n (raise 33 .minor (n.val + kind * 256)
    (modSq n (fun q => { q with
      stopped := true
      badIndex := q.badIndex || kind == 1
      fetchError := q.fetchError || kind == 2 }) s))

/-- Raise STALE_DESCRIPTOR on an entry and complete it (R67). -/
def staleDone (n : Fin 16) (d : Desc) (s : State) : State :=
  let e : Cpl := ⟨.ring n, BitVec.ofNat 16 (Desc.f d 2 0 16), BitVec.ofNat 8 (Desc.f d 0 0 8),
    stStale, 0, 0⟩
  deliver (.ring n) e false (raise 34 .note (Desc.f d 0 0 8 + 6 * 2 ^ 28) s)

/-- Move HEAD past one entry (R54). -/
def SqRing.advance (q : SqRing) : SqRing :=
  if q.head + 1 ≥ q.size then { q with head := 0, phase := !q.phase }
  else { q with head := q.head + 1 }

/-- Complete the dead entries at HEAD; `fuel` bounds them. -/
def flushDead (n : Fin 16) : Nat → State → State
  | 0, s => s
  | fuel + 1, s =>
    match (s.hif.sq[n]).fetched with
    | ⟨d, true, _⟩ :: r =>
      flushDead n fuel (staleDone n d (modSq n (fun q => { q.advance with fetched := r }) s))
    | _ => s

/-- Sort fetched entries: those with the expected phase are queued up to the first stale one, which
waits with those behind it (R54, R67). -/
def sortEntries (q : SqRing) (now : Nat) : List Desc → SqRing
  | [] => { q with behind := [] }
  | d :: r =>
    if Desc.b d 1 0 = q.phaseAt q.fetched.length then
      sortEntries { q with fetched := q.fetched ++ [⟨d, false, now⟩] } now r
    else { q with behind := d :: r, rereads := 0 }

/-- HIF_KICK.SQ (R57). -/
def execHifKickSq (n : Fin 16) (s : State) : Out := .next (whenS (hostUp s) (readDoorbell n) s)

/-- Read a consumer-index word (R63): a kick and a poll that fall due at one time cause one read. -/
def readConsumer (n : Fin 16) (s : State) : State :=
  let q := s.hif.cq[n]
  whenS (q.enable && q.dbAsked != some s.now)
    (fun s => emit (.hostRead q.db.toNat 4 TlpAttr.clear)
      (modCq n (fun q => { q with dbAsked := some s.now, retry := false }) s)) s

/-- HIF_KICK.CQ (R63). -/
def execHifKickCq (n : Fin 16) (s : State) : Out := .next (whenS (hostUp s) (readConsumer n) s)

/-- A write to HIF_AUTH of a port (R76); HIF_AUTH_YOKE reads 0 and is read-only (R75). -/
def execHifAuthWrite (port : Fin 5) (value : BitVec 12) (s : State) : Out :=
  .next (whenS (hostUp s && !s.hif.authLock && decide (port ≠ 4))
    (fun s => { s with
      hif.auth := s.hif.auth.upd port fun a => { a with cls := value &&& a.image } }) s)

/-- Setting AUTH_LOCK (R76). -/
def execHifLockAuthLock (s : State) : Out :=
  .next (whenS (hostUp s) (fun s => { s with hif.authLock := true }) s)

/-- Setting RING_LOCK (R48). -/
def execHifLockRingLock (s : State) : Out :=
  .next (whenS (hostUp s) (fun s => { s with hif.ringLock := true }) s)

/-- HIF_CNT_CLEAR.DROP (R78). -/
def execHifCntClearDrop (s : State) : Out :=
  .next (whenS (hostUp s) (fun s => { s with hif.cmdqDrop := Tab.all 2 0 }) s)

/-- HIF_CNT_CLEAR.DENIED (R73). -/
def execHifCntClearDenied (s : State) : Out :=
  .next (whenS (hostUp s) (fun s => { s with hif.deniedCnt := Tab.all 4 0 }) s)

/-- ENABLE of a submission ring (R49). -/
def enableSq (n : Fin 16) (s : State) : State :=
  let q := s.hif.sq[n]
  whenS (!q.enable && (s.hif.cq[q.cq]).enable)
    (modSq n fun q => { q with
      enable := true, running := true, head := 0, phase := true, prod := 0, stopped := false,
      asked := 0, dbAsked := none, fetched := [], behind := [], rereads := 0 }) s

/-- Entries fetched and not started complete with ABORTED, in index order (R50); a dead one with
STALE_DESCRIPTOR, and a stale one not at all: it does not belong to the device (R54). -/
def abortEntries (n : Fin 16) (s : State) : State :=
  let q := s.hif.sq[n]
  let all := q.fetched ++ q.late.map fun d => ⟨d, false, s.now⟩
  let s := modSq n (fun q => { q with asked := 0, dbAsked := none, fetched := [], behind := [] }) s
  all.foldl
    (fun s e =>
      if e.dead then staleDone n e.d s
      else deliver (.ring n) ⟨.ring n, BitVec.ofNat 16 (Desc.f e.d 2 0 16),
        BitVec.ofNat 8 (Desc.f e.d 0 0 8), stAborted, 0, 0⟩ false s) s

/-- Clearing ENABLE of a submission ring (R50). -/
def disableSq (n : Fin 16) (s : State) : State :=
  whenS (s.hif.sq[n]).enable
    (fun s => settleRing n (abortEntries n (modSq n (fun q => { q with enable := false }) s))) s

/-- ENABLE of a completion ring (R49). -/
def enableCq (n : Fin 16) (s : State) : State :=
  whenS (!(s.hif.cq[n]).enable && !s.hif.hostless)
    (modCq n fun q => { q with
      enable := true, tail := 0, phase := true, cons := 0, full := false, dbAsked := none, retry := false,
      unsignalled := 0 }) s

/-- A submission ring that names completion ring n is enabled or running, or completions owed wait on it: they
are always written before it can be disabled. -/
def cqInUse (n : Fin 16) (s : State) : Bool :=
  (s.hif.sq.some' fun q => q.cq == n && (q.enable || q.running)) || !(s.hif.cq[n]).waiting.isEmpty

/-- Clearing ENABLE of a completion ring (R49). -/
def disableCq (n : Fin 16) (s : State) : State :=
  if cqInUse n s then raise 33 .note (n.val + 16 + 5 * 256) s
  else modCq n (fun q => { q with enable := false, full := false, dbAsked := none, retry := false }) s

/-- Setting ENABLE on a submission ring. -/
def execRingSqEnable (n : Fin 16) (s : State) : Out := .next (whenS (hostUp s) (enableSq n) s)

/-- Clearing ENABLE on a submission ring. -/
def execRingSqDisable (n : Fin 16) (s : State) : Out := .next (whenS (hostUp s) (disableSq n) s)

/-- Setting ENABLE on a completion ring. -/
def execRingCqEnable (n : Fin 16) (s : State) : Out := .next (whenS (hostUp s) (enableCq n) s)

/-- Clearing ENABLE on a completion ring. -/
def execRingCqDisable (n : Fin 16) (s : State) : Out := .next (whenS (hostUp s) (disableCq n) s)

/-- POLL_US after the last poll of an empty ring (R57). -/
def execRingDoorbellPoll (n : Fin 16) (s : State) : Out :=
  .next (whenS ((s.hif.sq[n]).head == (s.hif.sq[n]).prod) (readDoorbell n) s)

/-- A producer-index read returns (R55, R57, R58). -/
def execProducerIndexReadDone (n : Fin 16) (result : Option Word) (s : State) : Out :=
  .next (whenS (ringsServed s && (s.hif.sq[n]).enable && !(s.hif.sq[n]).stopped)
    (fun s =>
      let s := modSq n (fun q => { q with dbAsked := none }) s
      match result with
      | none => stopRing n 2 s
      | some w =>
        let i := field w 0 16
        if i ≥ (s.hif.sq[n]).size then stopRing n 1 s
        else requestEntries n (modSq n (fun q => { q with prod := i }) s)) s)

/-- Fetched entries arrive (R54, R57, R58, R67). -/
def execRingEntryFetched (n : Fin 16) (entries : Option (List Desc)) (s : State) : Out :=
  let q := s.hif.sq[n]
  .next (whenS (ringsServed s && q.enable && !q.stopped && q.asked != 0)
    (fun s =>
      let s := modSq n (fun q => { q with asked := 0 }) s
      match entries with
      | none => stopRing n 2 s
      | some l => requestEntries n (modSq n (fun r => sortEntries r s.now (l.take q.asked)) s)) s)

/-- Read the stale entry again (R67). -/
def askStale (n : Fin 16) (s : State) : State :=
  let q := s.hif.sq[n]
  whenS (!q.behind.isEmpty)
    (emit (.hostRead (q.base.toNat + 64 * ((q.head + q.fetched.length) % q.size)) 64 TlpAttr.clear)) s

/-- The stale entry is read again, and what the read returns (R67). -/
def execStaleEntryReread (n : Fin 16) (entries : Option (List Desc)) (s : State) : Out :=
  .next (whenS (mayFetch n s)
    (fun s =>
      let s := askStale n s
      match (s.hif.sq[n]).behind, entries with
      | [], _ => s
      | _, none => stopRing n 2 s
      | _, some [] => s
      | _ :: r, some (d :: _) =>
        let q := s.hif.sq[n]
        if Desc.b d 1 0 = q.phaseAt q.fetched.length then
          requestEntries n (modSq n (fun q => sortEntries { q with behind := [] } s.now (d :: r)) s)
        else if q.rereads + 1 ≥ 16 then
          let s := modSq n (fun q =>
            sortEntries { q with behind := [], fetched := q.fetched ++ [⟨d, true, s.now⟩] } s.now r) s
          requestEntries n (flushDead n (s.hif.sq[n]).fetched.length s)
        else modSq n (fun q => { q with behind := d :: r, rereads := q.rereads + 1 }) s) s)

/-- Send the vector of a completion ring (R68). -/
def signalCq (n : Fin 16) (s : State) : State :=
  let q := s.hif.cq[n]
  whenS q.irqEn
    (fun s => signalVec q.vector (modCq n (fun q => { q with unsignalled := 0 }) s)) s

/-- SQ_ID and SQ_HEAD of a completion entry of a ring (R53). -/
def sqOf (src : Src) (s : State) : Nat × Nat :=
  match src with
  | .ring m => (m.val, (s.hif.sq[m]).head)
  | _ => (0, 1)

/-- Completion ring n has no room for an entry (R56). -/
def cqNoRoom (n : Fin 16) (s : State) : Bool :=
  let q := s.hif.cq[n]
  (q.tail + 1) % q.size == q.cons

/-- Write an entry at TAIL of completion ring n, which has room, and signal it (R53, R54, R56, R68). -/
def putCpl (n : Fin 16) (e : Cpl) (s : State) : State :=
  let q := s.hif.cq[n]
  let id := sqOf e.src s
  let s := emit (.hostWrite (q.base.toNat + 32 * q.tail) (cplBytes e id.1 (bn q.phase) id.2)
    TlpAttr.clear) s
  let t := (q.tail + 1) % q.size
  let s := modCq n (fun q => { q with
    tail := t, phase := q.phase ^^ decide (t = 0)
    unsignalled := q.unsignalled + 1, full := q.enable && (t + 1) % q.size == q.cons }) s
  let q := s.hif.cq[n]
  whenS ((e.status != stSuccess && e.status != stLate) || q.coalUs == 0 ||
    decide (q.unsignalled ≥ q.coalCount)) (signalCq n) s

/-- Write the oldest waiting completion of a ring, if there is room (R53, R56, R68). -/
def writeCpl (n : Fin 16) (s : State) : State :=
  let q := s.hif.cq[n]
  match q.waiting with
  | [] => s
  | e :: r =>
    if !q.enable || cqNoRoom n s then modCq n (fun q => { q with full := q.enable }) s
    else
      let s := putCpl n e (modCq n (fun q => { q with waiting := r }) s)
      match e.src with
      | .ring m => settleRing m s
      | _ => s

/-- A completion entry is written (R56); none in LIGHT_HOLD (R37). -/
def execCompletionWrite (n : Fin 16) (s : State) : Out := .next (whenS (coresUp s) (writeCpl n) s)

/-- A consumer-index read of completion ring n is under way or due (R63): while it is full, and after an
error. -/
def CqRing.polls (q : CqRing) : Bool := q.full || q.retry || q.dbAsked.isSome

/-- A consumer-index read and its result (R56, R63): the one under way, else the one that is due now. -/
def execCqConsumerPoll (n : Fin 16) (result : Option Word) (s : State) : Out :=
  .next (whenS (s.pwr.core && (s.hif.cq[n]).enable && (s.hif.cq[n]).polls)
    (fun s =>
      let s := if (s.hif.cq[n]).dbAsked.isSome then s else readConsumer n s
      match result with
      | none => raise 33 .minor (n.val + 16 + 4 * 256)
          (modCq n (fun q => { q with dbError := true, dbAsked := none, retry := true }) s)
      | some w =>
        let s := modCq n (fun q => { q with
          cons := field w 0 16, full := (q.tail + 1) % q.size == field w 0 16, dbAsked := none }) s
        ((List.finRange 16).filter fun m => (s.hif.sq[m]).cq == n).foldl
          (fun s m => requestEntries m s) s) s)

/-- A completion ring has been full for 100 ms (R63). -/
def execCqFullWaitTimeout (n : Fin 16) (s : State) : Out :=
  .next (whenS (s.pwr.core && (s.hif.cq[n]).full)
    (fun s => raise 33 .minor (n.val + 16 + 3 * 256)
      (modCq n (fun q => { q with fullWait := true }) s)) s)

/-- COAL_US after the first entry not yet signalled (R68). -/
def execMsixCoalesceTimeout (n : Fin 16) (s : State) : Out :=
  .next (whenS (s.pwr.core && (s.hif.cq[n]).enable && decide ((s.hif.cq[n]).unsignalled > 0))
    (signalCq n) s)

/-- An AER error (R43, R432): its status register shows it until the host clears it. -/
def execPcieAerError (uncorrectable : Bool) (status : Word) (s : State) : Out :=
  let s := raise 35 (if uncorrectable then .minor else .note) status.toNat s
  .next (whenS s.pwr.core
    (fun s => if uncorrectable then { s with hif.aerUncor := s.hif.aerUncor ||| status }
      else { s with hif.aerCor := s.hif.aerCor ||| status }) s)

/-- An access of another width or alignment (R45). -/
def execBar0BadWidthAccess (write : Bool) (off : BitVec 22) (bytes : BitVec 13) (s : State) : Out :=
  .next (whenS (hostUp s)
    (fun s => raise 34 .note (off.toNat + (if write then 4 else 3) * 2 ^ 28)
      (if write then s else emit (.answer (List.replicate bytes.toNat 0) false) s)) s)

end Sys2Proof.Machine
end

