-- ==== Sys2Proof/Machine/Scene.lean ====
section
/-!
DEFINITION. NOP, LAYER_SET, MASK_UPDATE, SYMBOL_LOAD and COEF_LOAD, and the counters of composition
and geometry (spec/05_composition.md, spec/06_geometry.md).
-/

namespace Sys2Proof.Machine

/-- A check list: the first failing one answers with its status. -/
def firstFail (l : List (Bool × BitVec 16)) : Option (BitVec 16 × Result) :=
  (l.find? fun x => x.1).map fun x => (x.2, 0)

/-- NOP (R71). -/
def nopBody : Body := { check := fun _ _ => none, run := finishOk }

/-- Every write that a commit already issued, or a later one, will apply, in order. -/
def stagedWrites (s : State) : List ShadowWrite := s.lpl.seen.flatten ++ s.lpl.shadow

/-- The settings of layer n as the shadow stands: staged, else pending, else in use. -/
def shadowCfg (n : Fin 9) (s : State) : LayerCfg :=
  let l := s.cmp.layer[n]
  let base := match l.pending with
    | some p => p.cfg
    | none => l.cur.cfg
  (stagedWrites s).foldl
    (fun c w => match w with
      | .layer m x => if m = n then x else c
      | _ => c) base

/-- The warp of layer n as the shadow stands (R182). -/
def shadowWarp (n : Fin 9) (s : State) : Warp :=
  let l := s.cmp.layer[n]
  let base := match l.pending with
    | some p => p.warp
    | none => l.cur.warp
  (stagedWrites s).foldl
    (fun c w => match w with
      | .warp m x => if m = n then x else c
      | _ => c) base

/-- The settings of layer n that a commit has taken: in use, and pending (R152, R180). -/
def committedSets (n : Fin 9) (s : State) : List LayerSet :=
  (s.cmp.layer[n]).cur :: ((s.cmp.layer[n]).pending).toList

/-- Layer n is shown by the committed show mask or P_ENABLE (R135). -/
def layerShown (n : Fin 9) (s : State) : Bool :=
  if n.val = 8 then s.cmp.pEnable else bitOf s.cmp.show' n.val

/-- A committed, shown layer uses slot k; for slot 7, P is shown (SLOT_IN_USE). Settings committed for a shown layer
count from their commit on, also while they wait to be taken (log entry 143). -/
def slotInUse (k : Nat) (s : State) : Bool :=
  if k = 7 then s.cmp.pEnable
  else (List.finRange 9).any fun n =>
    layerShown n s && (committedSets n s).any fun l => l.cfg.source == .slot k

/-- Committed settings name symbol id, as surface or as the substitute of a SUBSTITUTE layer. The spec
does not say whether SUBST_SYMBOL counts under another policy, which never uses it: it does not
(DESIGN CHOICE, log entry 96). -/
def symbolNamed (id : Fin 256) (s : State) : Bool :=
  (List.finRange 8).any fun n =>
    (committedSets (Fin.castSucc n) s).any fun l =>
      l.cfg.source == .symbol id || (l.cfg.policy == .substitute && l.cfg.subst == id)

/-- Symbol id, or an extent, is used by committed settings or by a LOADING symbol (SYMBOL_IN_USE). An entry
that is EMPTY or INVALID is used by nobody: a layer that names it waits for it to become VALID (R163). -/
def symbolInUse (id : Fin 256) (extent : Option (Nat × Nat)) (s : State) : Bool :=
  (List.finRange 256).any fun k =>
    ((symbolNamed k s && (s.cmp.sym[k]).state == .valid) || (s.cmp.sym[k]).state == .loading) &&
      (k == id ||
        match extent with
        | none => false
        | some (a, n) =>
          let e := s.cmp.sym[k]
          (e.state == .valid || e.state == .loading) && decide (a < e.extStart + e.extBytes) &&
            decide (e.extStart < a + n))

/-- A HOST layer may have this warp (R182). -/
def hostWarpOk (w : Warp) : Bool :=
  match w.mode with
  | .direct => true
  | .scale => decide (0 < w.h[4]) && decide (w.h[4] ≤ 131072)
  | .projective => false

/-- LAYER of a payload, when it names one. -/
def layerOf (c : Cmd) : Option (Fin 9) :=
  if h : c.f 8 0 4 < 9 then some ⟨c.f 8 0 4, h⟩ else none

/-- SOURCE of a LAYER_SET. -/
def lsSource (c : Cmd) : Source :=
  match c.f 9 0 2 with
  | 0 => .slot (c.f 20 0 8)
  | 1 => .symbol ⟨c.f 21 0 8 % 256, by omega⟩
  | 2 => .host (c.f 24 0 64)
  | _ => .none

/-- COPY of a LAYER_SET: the table says 'SOURCE = SLOT only', and not whether COPY with another SOURCE is
out of range: it is ignored (DESIGN CHOICE, log entry 93). -/
def lsCopy (c : Cmd) : Bool := c.b 9 2 && c.f 9 0 2 == 0

/-- Late policy of a code. -/
def policyOf (k : Nat) : Policy := if k = 1 then .drop else if k = 2 then .substitute else .repeat'

/-- Blend mode of a code. -/
def blendOf (k : Nat) : Blend :=
  if k = 0 then .over' else if k = 1 then .add else if k = 2 then .max else .mul

/-- The settings a LAYER_SET writes (R156); a SYMBOL source keeps format, width, height and pitch of
no use, written as the payload holds them. -/
def lsCfg (c : Cmd) : LayerCfg :=
  { source := lsSource c,
    policy := if c.f 8 0 4 = 8 then .repeat' else policyOf (c.f 9 4 2),
    blend := blendOf (c.f 10 4 2), subst := ⟨c.f 11 0 8 % 256, by omega⟩,
    format := (Cmp.formatOf (c.f 10 0 3)).getD .l8, width := c.f 12 0 16, height := c.f 14 0 16,
    pitch := c.f 16 0 32, gain := c.f 32 0 24, opacity := c.f 36 0 17, fill := c.f 40 0 24 }

/-- Bytes of one line of a LAYER_SET's surface. -/
def lsLine (c : Cmd) : Nat := c.f 12 0 16 * Cmp.fmtBytes ((Cmp.formatOf (c.f 10 0 3)).getD .l8)

/-- R156, R136, R137, R182: a field of a LAYER_SET is out of range. -/
def lsBad (c : Cmd) (s : State) : Bool :=
  match layerOf c with
  | none => true
  | some n =>
    let src := c.f 9 0 2
    let own := src == 0 || src == 2
    let w := c.f 12 0 16
    let h := c.f 14 0 16
    let p := c.f 16 0 32
    src == 3 || (n.val != 8 && c.f 9 4 2 == 3) ||
    (n.val == 8 && (src != 0 || c.f 20 0 8 != 7)) ||
    (n.val != 8 && decide (c.f 20 0 8 > 6)) ||
    (n.val == 8 && c.f 10 4 2 == 3) ||
    decide (c.f 36 0 17 > 0x10000) ||
    ((src == 2 || lsCopy c) && c.f 24 0 64 % 8 != 0) ||
    (own && ((Cmp.formatOf (c.f 10 0 3)).isNone || decide (w < 1 ∨ w > 4096) ||
      decide (h < 1 ∨ h > 4096) || p % 8 != 0 || decide (p < lsLine c))) ||
    (src == 0 && decide ((h - 1) * p + lsLine c > 0x240000)) ||
    (src == 2 && !hostWarpOk (shadowWarp n s))

/-- A command of the STARTUP list. -/
def fromStartup (c : Cmd) : Bool := match c.src with
  | .startup _ => true
  | _ => false

/-- Settings of P are locked: COMMISSION_N does not count as low (R147, R184), but for the STARTUP list
(R575). -/
def protLocked (c : Cmd) (s : State) : Bool :=
  c.f 8 0 4 == 8 && !s.hdg.commissionLow && !fromStartup c

/-- R61 step 5, then PROTECTED_LOCKED and SLOT_IN_USE. -/
def lsCheck (c : Cmd) (s : State) : Option (BitVec 16 × Result) :=
  firstFail
    [ (lsBad c s, stField),
      (protLocked c s, 0x0111#16),
      (lsCopy c && slotInUse (c.f 20 0 8) s, 0x0110#16) ]

/-- The shadow writes of a LAYER_SET. -/
def lsWrites (c : Cmd) : List ShadowWrite :=
  match layerOf c with
  | none => []
  | some n => .layer n (lsCfg c) :: (if n.val = 8 then [.pEnable (c.b 8 4)] else [])

/-- LAYER_SET without COPY, or after its copy (R157). -/
def lsFinish (c : Cmd) (r : Result) (s : State) : State :=
  finish c stSuccess r (shadowAll (lsWrites c) s)

/-- Set whether a copy into slot k counts as in progress (R157). -/
def setSlotBusy (k : Nat) (b : Bool) (s : State) : State :=
  { s with cmp.slotBusy := s.cmp.slotBusy.updN k fun _ => b }

/-- The bytes of a surface's lines, padding excluded, as the Granary holds them. -/
def lineBytes (s : State) (a pitch bytes lines : Nat) : List Byte :=
  (List.range lines).flatMap fun i => grnRead s (a + i * pitch) bytes

/-- The device reads the lines of a LAYER_SET on P in slot 7 (R118, R121): as the control cores, which no region is
asked about (log entry 133); poisoned if any word is. -/
def readProt (c : Cmd) (s : State) : Bool × State :=
  (List.range (c.f 14 0 16)).foldl
    (fun acc i =>
      let r := readMarked .cores (Pipe.slotBase 7 + i * c.f 16 0 32) (lsLine c) acc.2
      (acc.1 || r.1, r.2)) (false, s)

/-- The CRC-32C over the lines in slot 7 goes into CMP_PROT_CRC, and the LAYER_SET goes on; an uncorrectable word ends
it with ERROR (R121, R147; log entry 133). -/
def finishProt (c : Cmd) (r : Nat → Result) (s : State) : State :=
  let x := readProt c s
  if x.1 then complete c stError 0 0 x.2
  else
    let crc := Env.crc32c (lineBytes s (Pipe.slotBase 7) (c.f 16 0 32) (lsLine c) (c.f 14 0 16))
    lsFinish c (r crc.toNat) { x.2 with cmp.protCrc := crc }

/-- LAYER_SET (R156, R157). On P without COPY in the STARTUP list it computes CMP_PROT_CRC over slot 7 (R575). -/
def layerSetBody : Body :=
  { check := lsCheck
    run := fun c s =>
      if lsCopy c then
        let k := c.f 20 0 8
        askTransfer (cmdJob c (lineXfer (c.f 24 0 64) true (c.f 16 0 32) (Pipe.slotBase k) false
          (c.f 16 0 32) (lsLine c) (c.f 14 0 16)) false) (setSlotBusy k true s)
      else if fromStartup c && c.f 8 0 4 == 8 && c.f 9 0 2 == 0 then finishProt c (fun _ => 0) s
      else lsFinish c 0 s }

/-- The copy of a LAYER_SET has ended well (R147, R157): its job has been dropped. -/
def lsCopied (c : Cmd) (s : State) : State :=
  let k := c.f 20 0 8
  let again := s.jobs.any fun j => j.cmd.opcode == 0x10 && j.cmd.f 20 0 8 == k
  let s := setSlotBusy k again s
  if c.f 8 0 4 = 8 then finishProt c (resAt 24) s else lsFinish c 0 s

/-- Byte offset of box record i of a MASK_UPDATE (R164). -/
def boxAt (i : Nat) : Nat := 16 + 12 * i

/-- Box record i of a MASK_UPDATE. -/
def boxRec (c : Cmd) (i : Nat) : Nat × Box :=
  let o := boxAt i
  (c.f (o + 10) 0 6,
   { enable := c.b (o + 10) 6, x0 := c.f o 0 11, y0 := c.f (o + 2) 0 10, x1 := c.f (o + 4) 0 11,
     y1 := c.f (o + 6) 0 10, level := c.f (o + 8) 0 16, feather := c.f (o + 11) 0 4 })

/-- R164: a box out of range. -/
def boxBad (b : Box) : Bool :=
  decide (b.x1 < b.x0) || decide (b.y1 < b.y0) || decide (b.x1 > 1535) || decide (b.y1 > 767) ||
    decide (b.level > 0x8000)

/-- The box records of a MASK_UPDATE. -/
def boxRecs (c : Cmd) : List (Nat × Box) := (List.range (c.f 8 0 3)).map (boxRec c)

/-- MASK_UPDATE (R149, R150, R164): into the mask shadow; its COMMIT issues a general commit besides,
and it completes at its own take. -/
def maskBody : Body :=
  { check := fun c _ =>
      firstFail [(decide (c.f 8 0 3 > 4) || (boxRecs c).any fun b => boxBad b.2, stField)]
    run := fun c s =>
      let s := { s with
        maskQ := s.maskQ ++ [{ cmd := c, clearAll := c.b 8 3, boxes := boxRecs c }] }
      if c.commit then issueCommit s else s }

/-- SYMBOL_ID of a SYMBOL_LOAD. -/
def symId (c : Cmd) : Fin 256 := ⟨c.f 8 0 8 % 256, by omega⟩

/-- R161 on the fields of a SYMBOL_LOAD that loads. -/
def symBad (c : Cmd) (s : State) : Bool :=
  let a := c.f 12 0 32
  let n := c.f 16 0 32
  let r := s.grn.regions[(0 : Fin 16)]
  a % 64 != 0 || n % 64 != 0 || decide (n < 128) || decide (a < r.base * 65536) ||
    decide ((r.limit + 1) * 65536 < a + n) || c.f 24 0 64 % 32 != 0

/-- Change a symbol entry. -/
def modSym (id : Fin 256) (f : Symbol → Symbol) (s : State) : State :=
  { s with cmp.sym := s.cmp.sym.upd id f }

/-- SYMBOL_LOAD (R161 to R163). An entry keeps the fields of the header verified last while it is LOADING or INVALID,
and CMP_SYM_INFO, CMP_SYM_ADDR and CMP_SYM_CRC show them (log entry 144). -/
def symbolBody : Body :=
  { check := fun c s =>
      if c.b 9 0 then firstFail [(symbolInUse (symId c) none s, 0x0112#16)]
      else firstFail
        [ (symBad c s, stField),
          (symbolInUse (symId c) (some (c.f 12 0 32, c.f 16 0 32)) s, 0x0112#16) ]
    run := fun c s =>
      if c.b 9 0 then finishOk c (modSym (symId c) (fun _ => Symbol.reset) s)
      else
        askTransfer (cmdJob c (chainXfer (c.f 24 0 64) (c.b 9 1)) false)
          (modSym (symId c) (fun e => { e with
            state := .loading, extStart := c.f 12 0 32, extBytes := c.f 16 0 32 }) s) }

/-- R162 step 3 on the 64 bytes of a header: the new entry, or the reason of SYMBOL_BAD. The header's PITCH
is R136's, and step 3 names neither a check of it nor a reason: a PITCH that breaks R136 counts as a bad
dimension, reason 2 (DESIGN CHOICE, log entry 94). -/
def symbolHeader (c : Cmd) (s : State) : Except Nat Symbol :=
  let st := c.f 12 0 32
  let n := c.f 16 0 32
  let g (o k : Nat) : Nat := leNat (grnRead s (st + o) k)
  if g 0 2 ≠ 0x5953 ∨ g 3 1 ≠ c.f 8 0 8 then .error 1
  else match Cmp.formatOf (g 2 1) with
  | none => .error 2
  | some fm =>
    let w := g 4 2
    let h := g 6 2
    let a := g 8 4
    let p := g 12 4
    let line := w * Cmp.fmtBytes fm
    if w < 1 ∨ w > 4096 ∨ h < 1 ∨ h > 4096 ∨ p % 8 ≠ 0 ∨ p < line then .error 2
    else if a % 8 ≠ 0 ∨ a < st + 64 ∨ st + n < a + (h - 1) * p + line then .error 3
    else
      .ok { state := .valid, format := fm, width := w, height := h, addr := a, pitch := p,
            crc := BitVec.ofNat 32 (g 16 4), extStart := st, extBytes := n }

/-- The control cores read lines (R121): none if a word of one is uncorrectable or denied. -/
def coreReadLines (a pitch bytes : Nat) : Nat → State → Option (List Byte) × State
  | 0, s => (some [], s)
  | k + 1, s =>
    let r := coreReadLines a pitch bytes k s
    match r.1 with
    | none => r
    | some l =>
      let x := coreRead (a + k * pitch) bytes r.2
      (x.1.map fun y => l ++ y, x.2)

/-- A SYMBOL_LOAD ends without a valid symbol (R162). -/
def symbolFails (c : Cmd) (st : BitVec 16) (why : Result) (s : State) : State :=
  complete c st 0 why (modSym (symId c) (fun e => { e with state := .invalid }) s)

/-- The chain of a SYMBOL_LOAD has ended well (R162): the header, then the CRC over the lines. For a word
that is uncorrectable or denied when the device reads it back, R162 names no status; R110 and R121 have the
command complete with ERROR, and RESULT is 0 (DESIGN CHOICE, log entry 95). -/
def symbolLoaded (c : Cmd) (s : State) : State :=
  let r := coreRead (c.f 12 0 32) 64 s
  match r.1 with
  | none => symbolFails c stError 0 r.2
  | some _ =>
    match symbolHeader c r.2 with
    | .error k => symbolFails c 0x0113#16 (resAt 24 k) r.2
    | .ok e =>
      let x := coreReadLines e.addr e.pitch (e.width * Cmp.fmtBytes e.format) e.height r.2
      match x.1 with
      | none => symbolFails c stError 0 x.2
      | some l =>
        if Env.crc32c l = e.crc then finishOk c (modSym (symId c) (fun _ => e) x.2)
        else symbolFails c 0x0113#16 (resAt 24 4) x.2

/-- The warp a COEF_LOAD WARP writes (R166, R185). -/
def clWarp (c : Cmd) : Warp :=
  { mode := if c.f 9 0 2 = 0 then .projective else if c.f 9 0 2 = 1 then .scale else .direct,
    clamp := c.b 9 2, bank := ⟨c.f 9 4 2 % 4, by omega⟩,
    h := Vector.ofFn fun k : Fin 9 => c.s (12 + 4 * k.val) 0 32 }

/-- A bank kind serves a warp mode (R176). -/
def kindServes (k : BankKind) (m : WarpMode) : Bool :=
  match k, m with
  | _, .direct => true
  | .bilinear, _ => true
  | .warp4, .projective => true
  | .scale8, .scale => true
  | _, _ => false

/-- Length of a table (R176). -/
def tableBytes (scale8 : Bool) : Nat := if scale8 then 2048 else 512

/-- R186 on a COEF_LOAD. -/
def clBad (c : Cmd) (s : State) : Bool :=
  match layerOf c with
  | none => true
  | some n =>
    match c.f 8 4 2 with
    | 0 =>
      let w := clWarp c
      c.f 9 0 2 == 3 ||
      (w.mode == .scale && (decide ((w.h[0]).natAbs > 131072) || decide ((w.h[4]).natAbs > 131072))) ||
      (match (shadowCfg n s).source with
        | .host _ => !hostWarpOk w
        | _ => false) ||
      !kindServes (s.cmp.bank[n][w.bank]).kind w.mode
    | 1 =>
      let sc := c.b 9 2
      let a := c.f 16 0 32
      let w := shadowWarp n s
      a % 8 != 0 || decide (a + tableBytes sc > grnSize) ||
      (w.bank.val == c.f 9 0 2 && !kindServes (if sc then .scale8 else .warp4) w.mode)
    | _ => true

/-- R180: committed settings name the bank in PROJECTIVE or SCALE mode, unless it is INVALID; or it is
LOADING. -/
def bankInUse (n : Fin 9) (b : Fin 4) (s : State) : Bool :=
  let st := (s.cmp.bank[n][b]).state
  st == .loading || (st != .invalid &&
    (committedSets n s).any fun l => l.warp.bank == b && l.warp.mode != .direct)

/-- BANK of a KERNEL. -/
def clBank (c : Cmd) : Fin 4 := ⟨c.f 9 0 2 % 4, by omega⟩

/-- The surface size that bounds OVERSTEP_POINTS (R188). -/
def overSize (n : Fin 9) (s : State) : Option (Nat × Nat) :=
  let c := shadowCfg n s
  match c.source with
  | .none => none
  | .symbol id =>
    let e := s.cmp.sym[id]
    if e.state = .valid then some (e.width, e.height) else none
  | _ => some (c.width, c.height)

/-- Change a bank. -/
def modBank (n : Fin 9) (b : Fin 4) (f : Bank → Bank) (s : State) : State :=
  { s with cmp.bank := s.cmp.bank.upd n fun t => t.upd b f }

/-- The first byte address of a range that the control cores may not read, or that is uncorrectable. -/
def firstBad (a n : Nat) (s : State) : Nat :=
  ((List.range (n / 8)).map fun k => a + 8 * k).find?
    (fun x => !grnMay s permCoreR true x 8 || markOf s (x / 8) == some .double) |>.getD a

/-- Kind of a KERNEL. -/
def clKind (c : Cmd) : BankKind := if c.b 9 2 then .scale8 else .warp4

/-- KERNEL of a COEF_LOAD starts (R187 step 1): the bank is LOADING, its kind that of the load (R186). -/
def kernelStart (n : Fin 9) (c : Cmd) (s : State) : State :=
  modBank n (clBank c) (fun x => { x with kind := clKind c, state := .loading })
    { s with kernels := s.kernels ++ [c] }

/-- KERNEL of a COEF_LOAD ends (R187 steps 2 to 4): the control cores read the table, the device checks and
stores it. -/
def kernelRun (n : Fin 9) (c : Cmd) (s : State) : State :=
  let b := clBank c
  let sc := c.b 9 2
  let kind : BankKind := if sc then .scale8 else .warp4
  let a := c.f 16 0 32
  let bad := firstBad a (tableBytes sc) s
  let r := coreRead a (tableBytes sc) s
  match r.1 with
  | none =>
    complete c stError 0 (resAt 16 bad)
      (modBank n b (fun x => { x with kind := kind, state := .invalid }) r.2)
  | some bytes =>
    match Geo.checkTable sc bytes with
    | .error e =>
      complete c 0x0119#16 0
        (resAt 16 e.reason ||| resAt 17 e.axis ||| resAt 18 e.phase ||| resAt 19 e.tap)
        (modBank n b (fun x => { x with kind := kind, state := .invalid }) r.2)
    | .ok co =>
      let crc := Env.crc32c bytes
      let s := modBank n b (fun _ => { kind := kind, state := .ready, coeffs := co, crc := crc }) r.2
      let s := { s with cmp.layer := s.cmp.layer.upd n fun l =>
        if l.cur.warp.bank = b then { l with fallback := none } else l }
      finish c stSuccess (resAt 16 crc.toNat) s

/-- The KERNELs under way end, as time passes: each within 20 us of its start (R187; log entry 99). -/
def finishKernels (s : State) : State :=
  s.kernels.foldl
    (fun s c => match layerOf c with
      | some n => kernelRun n c s
      | none => s) { s with kernels := [] }

/-- COEF_LOAD (R185 to R188). -/
def coefBody : Body :=
  { check := fun c s =>
      let inUse : Bool := match layerOf c with
        | some n => c.f 8 4 2 == 1 && bankInUse n (clBank c) s
        | none => false
      firstFail
        [ (clBad c s, stField), (protLocked c s, 0x0111#16),
          (inUse, 0x0118#16) ]
    run := fun c s =>
      match layerOf c with
      | none => s
      | some n =>
        if c.f 8 4 2 = 0 then
          finish c stSuccess (resAt 16 (Geo.overPoints (clWarp c) (overSize n s)))
            (shadowAll [.warp n (clWarp c)] s)
        else kernelStart n c s }

/-- NOP. -/
def execNop (src : Src) (d : Desc) (s : State) : Out := .next (runRow 0x00 nopBody src d s)

/-- LAYER_SET. -/
def execLayerSet (src : Src) (d : Desc) (s : State) : Out := .next (runRow 0x10 layerSetBody src d s)

/-- MASK_UPDATE. -/
def execMaskUpdate (src : Src) (d : Desc) (s : State) : Out := .next (runRow 0x12 maskBody src d s)

/-- SYMBOL_LOAD. -/
def execSymbolLoad (src : Src) (d : Desc) (s : State) : Out := .next (runRow 0x13 symbolBody src d s)

/-- COEF_LOAD. -/
def execCoefLoad (src : Src) (d : Desc) (s : State) : Out := .next (runRow 0x14 coefBody src d s)

/-- CMP_CNT_CLEAR.LATE (R165). -/
def execCmpCntClearLate (s : State) : Out :=
  .next (whenS (hostUp s)
    (fun s => { s with cmp.layer := s.cmp.layer.map' fun l => { l with lateCount := 0 } }) s)

/-- GEO_CNT_CLEAR.PARITY (R189). -/
def execGeoCntClearParity (s : State) : Out :=
  .next (whenS (hostUp s)
    (fun s => { s with cmp.layer := s.cmp.layer.map' fun l => { l with parity := 0 } }) s)

/-- GEO_CNT_CLEAR.OVERSTEP (R189). -/
def execGeoCntClearOverstep (s : State) : Out :=
  .next (whenS (hostUp s)
    (fun s => { s with
      cmp.layer := s.cmp.layer.map' fun l => { l with oversteps := 0, overstepPx := 0 } }) s)

/-- A layer is late or has an underrun in a frame: one late event (R155). -/
def lateEvent (n : Fin 9) (seq : BitVec 16) (s : State) : State :=
  raise 8 .note (n.val + seq.toNat * 65536)
    { s with cmp.layer := s.cmp.layer.upd n fun l => { l with lateCount := bump 65535 1 l.lateCount } }

/-- The bank whose coefficients a layer reads in the frame under composition, if it reads a bank (R181): the
one its view of the frame names, which for a late SUBSTITUTE layer is that of its new warp (R153). -/
def bankRead (n : Fin 9) (s : State) : Option (Fin 4) :=
  match s.lpl.work with
  | none => none
  | some f =>
    if f.finished then none
    else match f.view[n] with
      | none => none
      | some v =>
        if v.set.warp.mode != .direct && v.fallback.isNone &&
            (s.cmp.bank[n][v.set.warp.bank]).state == .ready then some v.set.warp.bank
        else none

/-- A layer filters with BILINEAR from a pixel on, and its bank becomes INVALID (R181). -/
def parityFails (n : Fin 9) (b : Fin 4) (pixel : Nat) (s : State) : State :=
  let s := modBank n b (fun x => { x with state := .invalid }) s
  let s := { s with cmp.layer := s.cmp.layer.upd n fun l => { l with
    parity := bump 255 1 l.parity
    fallback := if l.cur.warp.bank = b ∧ l.cur.warp.mode ≠ WarpMode.direct then some b.val else l.fallback } }
  let view (v : LayerView) : LayerView := { v with fallback := some pixel }
  let s := { s with lpl.work := s.lpl.work.map fun f =>
    { f with view := f.view.upd n fun v => v.map view } }
  raise 9 (if n.val = 8 then .major else .minor) (n.val + b.val * 16) s

/-- COEF_PARITY_FAILURE (R181). -/
def execCoefParityFailure (layer : Fin 9) (pixel : Fin 1179648) (s : State) : Out :=
  .next (whenS s.pwr.core
    (fun s => match bankRead layer s with
      | some b => parityFails layer b pixel.val s
      | none => s) s)

/-- A HOST layer's line is missing from an output row on (R153, R155, R584): the symbol that replaces it is read as the
Granary and the regions stand then (R583). -/
def hostUnderrun (n : Fin 9) (row : Nat) (s : State) : State :=
  match s.lpl.work with
  | none => s
  | some f =>
    if f.finished then s
    else match f.view[n] with
    | none => s
    | some v =>
      match v.set.cfg.source, v.underrun, v.sym with
      | .host _, none, none =>
        let hole : Underrun := if v.set.cfg.policy = .substitute then .substitute else .drop
        let v' : LayerView := { v with underrun := some ⟨row, hole, s.grn.marks, s.grn.regions⟩ }
        let f' : Frame := { f with
          unused := f.unused || v.set.cfg.policy == .repeat'
          view := f.view.upd n fun _ => some v' }
        let s := { s with lpl.work := some f' }
        let s := if hole = .substitute then
            denyLayer s.grn.regions v' (layerEcc f' v' s) else s
        if bitOf s.cmp.late n.val then s else lateEvent n f.seq s
      | _, _, _ => s

/-- Composition needs a line of a HOST layer that has not been delivered. -/
def execHostLineUnderrun (layer : Fin 8) (row : Fin 768) (s : State) : Out :=
  .next (whenS s.pwr.core (hostUnderrun (Fin.castSucc layer) row.val) s)

end Sys2Proof.Machine
end

