-- ==== Sys2Proof/Machine/Symbols.lean ====
section
/-!
DEFINITION. The symbols of a lane: special symbols, ordered sets, packets and the check pattern, as the
device sends them (R289 to R291, R300 of spec/10_xieri_lanes.md; R310 to R312, R320, R324, R331 of
spec/11_xieri_protocol.md).
-/

namespace Sys2Proof.Machine

/-- The K code-groups the link uses (table Special symbols). -/
inductive KSym where
  | com | sop | eop | blank | fbk | te | skp
  deriving DecidableEq, Repr

/-- The byte a K code-group is written as: K28.5, K27.7, K29.7, K28.3, K28.6, K23.7, K28.0. -/
def KSym.byte : KSym → Byte
  | .com => 0xBC | .sop => 0xFB | .eop => 0xFD | .blank => 0x7C | .fbk => 0xDC | .te => 0xF7
  | .skp => 0x1C

/-- A symbol: a K code-group or a data character. -/
inductive Sym where
  | k (c : KSym)
  | d (b : Byte)
  deriving DecidableEq, Repr

/-- Bits per pixel of a payload MODE (R320). -/
def modeBits (m : Nat) : Nat :=
  if m = 1 then 14 else if m = 2 then 12 else if m = 3 then 10 else if m = 4 then 8 else 16

/-- A packet header (R312): TYPE, SLOT, SUB, SEQ, FSEQ_ADDR, ARG. -/
def pktHeader (kind slot sub seq fseq arg : Nat) : List Byte :=
  [BitVec.ofNat 8 (kind + 16 * slot), BitVec.ofNat 8 sub] ++ leBytes 2 seq ++ leBytes 2 fseq ++
    [BitVec.ofNat 8 arg, 0]

/-- A packet (R310): SOP, header, payload, CRC-32C least significant byte first, EOP. `sent` is the payload as
it leaves, `payload` the one the CRC covers: they differ under LANE_ERR alone (R539). -/
def packet (header payload sent : List Byte) : List Sym :=
  .k .sop :: (header ++ sent ++ leBytes 4 (Env.crc32c (header ++ payload)).toNat).map .d ++ [.k .eop]

/-- The payload of a PIX (R320): value i takes bits [b * i + b - 1 : b * i] of the bit string, whose bit i is
bit i mod 8 of byte i / 8. -/
def packBits (b : Nat) (vals : List Nat) : List Byte :=
  leBytes (32 * b) (vals.foldr (fun v acc => v % 2 ^ b + 2 ^ b * acc) 0)

/-- Bit 0 of the first n characters inverted (R539; which characters of the payload the spec leaves open: log
entry 106). -/
def invertFirst (n : Nat) (l : List Byte) : List Byte := (l.take n).map (fun x => x ^^^ 1) ++ l.drop n

/-- One step of the PRBS-15 generator x^15 + x^14 + 1: its oldest stage is bit 14. -/
def prbsStep (r : Nat) : Nat := r % 16384 * 2 + (r / 16384 + r / 8192) % 2

/-- A data character of the check pattern: the next 8 generator bits, the first of them bit 0; and the
generator after it (R300). That a generator bit is the stage that leaves the register is the model's reading
(DESIGN CHOICE, log entry 107). -/
def prbsChar (r : Nat) : Nat × Nat :=
  (List.range 8).foldl (fun x i => (x.1 + x.2 / 16384 * 2 ^ i, prbsStep x.2)) (0, r)

/-- n characters of the check pattern from a state of its generator. -/
def prbsChars : Nat → Nat → List Byte
  | 0, _ => []
  | n + 1, r => BitVec.ofNat 8 (prbsChar r).1 :: prbsChars n (prbsChar r).2

/-- The seed of the check pattern: all ones (R300). -/
def prbsSeed : Nat := 0x7FFF

/-- Pattern characters among n symbols that carry the SKP ordered sets of R311: 130,560 of 131,072 and 16,320
of 16,384 (R300, R332). -/
def patternChars (n : Nat) : Nat := n - 4 * (n / 1024)

/-- A training set of lane n (R290): COM, identifier, LANE, RATE, STATE, two zeros, CHK. -/
def trainingSet (n : Nat) (two : Bool) (rate state : Nat) : List Sym :=
  let ident : Nat := if two then 0x45 else 0x4A
  .k .com :: ([ident, n, rate, state, 0, 0, ident ^^^ n ^^^ rate ^^^ state].map fun x => .d (BitVec.ofNat 8 x))

/-- The SKP ordered set (R290). -/
def skpSet : List Sym := [.k .com, .k .skp, .k .skp, .k .skp]

/-- The symbols of what lane n sends, without SKP ordered sets (R290, R310, R312, R320, R324, R331). -/
def LanePkt.symbols (n : Nat) : LanePkt → List Sym
  | .pix slot seq fseq line mode codes damaged =>
    let p := packBits (modeBits mode) codes
    packet (pktHeader 1 slot mode seq fseq.toNat line) p (invertFirst damaged p)
  | .lat seq mask again => packet (pktHeader 2 6 (bn again) 0xFFFF seq.toNat mask) [] []
  | .cfg slot addr data match' seq =>
    let p := leBytes 4 data.toNat ++ leBytes 4 match'.toNat
    packet (pktHeader 3 slot 0 seq.toNat addr 0) p p
  | .rdq slot addr seq => packet (pktHeader 4 slot 0 seq.toNat addr 0) [] []
  | .blank => [.k .blank]
  | .fbk => [.k .fbk]
  | .pattern chars => (prbsChars chars prbsSeed).map .d
  | .training two rate state => trainingSet n two rate state
  | .idle => [.k .com, .d 0x50]
  | .skp => skpSet
  | .quiet => []

/-- How many symbols that is (table Packet types). -/
def LanePkt.length : LanePkt → Nat
  | .pix _ _ _ _ mode _ _ => 14 + 32 * modeBits mode
  | .lat _ _ _ => 14
  | .cfg _ _ _ _ _ => 22
  | .rdq _ _ _ => 14
  | .blank | .fbk => 1
  | .pattern chars => chars
  | .training _ _ _ => 8
  | .idle => 2
  | .skp => 4
  | .quiet => 0

/-- Symbols with a SKP ordered set after each 1,020 of them, inside packets too (R291, R311); `since` of them
went before. -/
def withSkp : Nat → List Sym → List Sym
  | _, [] => []
  | since, x :: r => if since ≥ 1020 then skpSet ++ x :: withSkp 1 r else x :: withSkp (since + 1) r

/-- What stands on the wire of lane n for an emission: a special symbol and a SKP ordered set go as they are
(R292). -/
def laneWire (n : Nat) (p : LanePkt) (since : Nat) : List Sym :=
  match p with
  | .blank => [.k .blank]
  | .fbk => [.k .fbk]
  | .skp => skpSet
  | p => withSkp since (p.symbols n)

/-- The 5b/6b code of D.x at negative running disparity, bits abcdei with a first (IEEE 802.3 Clause 36, log entry
131). -/
def sixB : List Nat :=
  [0b100111, 0b011101, 0b101101, 0b110001, 0b110101, 0b101001, 0b011001, 0b111000,
   0b111001, 0b100101, 0b010101, 0b110100, 0b001101, 0b101100, 0b011100, 0b010111,
   0b011011, 0b100011, 0b010011, 0b110010, 0b001011, 0b101010, 0b011010, 0b111010,
   0b110011, 0b100110, 0b010110, 0b110110, 0b001110, 0b101110, 0b011110, 0b101011]

/-- The 3b/4b code of D.x.y at negative running disparity, bits fghj; 7 is the primary D.x.P7. -/
def fourB : List Nat := [0b1011, 0b1001, 0b0101, 0b1100, 0b1101, 0b1010, 0b0110, 0b1110]

/-- Ones among the low n bits. -/
def ones (n x : Nat) : Nat := (List.range n).countP fun i => x.testBit i

/-- A sub-block of n bits at a running disparity: complemented at positive disparity where it is unbalanced, or is
one of the two whose halves differ (D.7 and D.x.3). -/
def subBlock (n code : Nat) (rd : Bool) : Nat :=
  if rd && (decide (2 * ones n code ≠ n) || code == 0b111000 || (n == 4 && code == 0b1100)) then
    2 ^ n - 1 - code
  else code

/-- D.x.7 takes the alternate code A7. -/
def altSeven (x : Nat) (rd : Bool) : Bool :=
  if rd then x == 11 || x == 13 || x == 14 else x == 17 || x == 18 || x == 20

/-- The code-group of a data character (R289), its ten bits read from a, the first sent, down to j. -/
def dataGroup (b : Byte) (rd : Bool) : Nat :=
  let x := b.toNat % 32
  let y := b.toNat / 32
  let six := subBlock 6 (sixB.getD x 0) rd
  let mid := rd ^^ decide (ones 6 six ≠ 3)
  let four := if y = 7 ∧ altSeven x mid then 0b0111 else fourB.getD y 0
  six * 16 + subBlock 4 four mid

/-- The code-group of a special symbol at negative running disparity (table Special symbols). -/
def KSym.group : KSym → Nat
  | .com => 0b0011111010 | .sop => 0b1101101000 | .eop => 0b1011101000 | .blank => 0b0011110011
  | .fbk => 0b0011110110 | .te => 0b1110101000 | .skp => 0b0011110100

/-- The code-group of a symbol at a running disparity (R289). -/
def Sym.group (x : Sym) (rd : Bool) : Nat :=
  match x with
  | .k c => if rd then 1023 - c.group else c.group
  | .d b => dataGroup b rd

/-- Running disparity after a symbol. -/
def Sym.after (x : Sym) (rd : Bool) : Bool := rd ^^ decide (ones 10 (x.group rd) ≠ 5)

/-- Running disparity after some symbols. -/
def dispAfter (l : List Sym) (rd : Bool) : Bool := l.foldl (fun rd x => x.after rd) rd

/-- The code-groups of some symbols (R289). -/
def codeGroups : Bool → List Sym → List Nat
  | _, [] => []
  | rd, x :: r => x.group rd :: codeGroups (x.after rd) r

end Sys2Proof.Machine
end

