-- ==== Sys2Proof/Machine/Timing.lean ====
section
/-!
DEFINITION. The Lamplighter's commands and its sync input (spec/09_lamplighter.md): TIMING_SET,
TILE_MAP_SET, LAYER_PRESENT, arming, the lane budget, SYNC_IN, the freeze detector's STALL.
-/

namespace Sys2Proof.Machine

/-- ACTIVE = PERIOD_NS - VBI_NS (R254). -/
def Timing.active (t : Timing) : Nat := t.period - t.vbi

/-- PRESENT entries of a lane. -/
def presentOn (m : TileMap) (lane : Nat) : Nat :=
  (List.range 4).countP fun k => (m.at' (4 * lane + k) MapEntry.reset).present

/-- Symbols of one frame's scan-out on a lane (R323). -/
def laneSymbols (mode slots : Nat) : Nat :=
  let d := 48 * slots * (14 + 32 * modeBits mode)
  d + 4 * (d / 1020)

/-- Line rate of a RATE code in units of 10^4 baud (R293). -/
def rateBaud (r : Nat) : Nat := if r = 0 then 125000 else if r = 1 then 250000 else 312500

/-- The symbol limit of a lane (R279): floor(ACTIVE * baud / 10^10). -/
def laneLimit (active rate : Nat) : Nat := active * rateBaud rate / 1000000

/-- The rate the budget counts for a lane: the rate in force, or the one it would come up at. -/
def budgetRate (l : Lane) : Nat := if l.state = .ready then l.rate else l.targetRate

/-- The first lane that does not fit (R279): lane, symbols needed, limit. -/
def budgetFault (rate : Fin 24 → Nat) (active : Nat) (m : TileMap) (s : State) :
    Option (Nat × Nat × Nat) :=
  ((List.finRange 24).map fun n =>
      (n.val, laneSymbols (s.link.lane[n]).mode (presentOn m n.val), laneLimit active (rate n))).find?
    fun x => decide (x.2.1 > x.2.2)

/-- The least ACTIVE at which a READY lane meets R279, for the map in use. -/
def leastActive (n : Fin 24) (s : State) : Nat :=
  let l := s.link.lane[n]
  if l.state = .ready then
    (laneSymbols l.mode (presentOn s.lpl.map n.val) * 1000000 + rateBaud l.rate - 1) / rateBaud l.rate
  else 0

/-- The wake period (R398): 500 µs, or the shortest longer period at which every READY lane meets R279. -/
def wakePeriod (s : State) : Nat :=
  max 500000 (s.lpl.timing.vbi + (List.finRange 24).foldl (fun m n => max m (leastActive n s)) 0)

/-- The period of the latch points (R254), of those of a wake from SLEEP up to L2 (R398). -/
def periodNow (s : State) : Nat :=
  match s.pwr.start with
  | some st => if st.kind = .warm then wakePeriod s else s.lpl.timing.period
  | none => s.lpl.timing.period

/-- The RESULT of LANE_BUDGET (table TIMING_SET result). -/
def budgetResult (x : Nat × Nat × Nat) : Result :=
  resAt 16 x.1 ||| resAt 20 x.2.1 ||| resAt 24 x.2.2

/-- The timing as the shadow stands: staged, held, or in force. -/
def shadowTiming (s : State) : Timing :=
  (stagedWrites s).foldl
    (fun t w => match w with
      | .timing x => x
      | _ => t) (s.lpl.heldTiming.getD s.lpl.timing)

/-- Apply map entries in order. -/
def putMap (m : TileMap) (l : List (Fin 96 × MapEntry)) : TileMap :=
  l.foldl (fun m e => m.put e.1 e.2) m

/-- The map entries among shadow writes. -/
def mapWrites (l : List ShadowWrite) : List (Fin 96 × MapEntry) :=
  l.filterMap fun w => match w with
    | .map k e => some (k, e)
    | _ => none

/-- The map as the shadow stands. -/
def shadowMap (s : State) : TileMap :=
  putMap (putMap (putMap s.lpl.mapNext s.lpl.budgetMap) s.lpl.heldMap) (mapWrites (stagedWrites s))

/-- The timing a TIMING_SET writes (R282). -/
def tsTiming (c : Cmd) : Timing :=
  { source := if c.f 8 0 2 = 1 then .syncIn else if c.f 8 0 2 = 2 then .network else .free,
    syncFalling := c.b 8 2, teFalling := c.b 8 3, freezeRepeat := c.f 9 0 8, period := c.f 12 0 32,
    vbi := c.f 16 0 32, syncOffset := c.f 20 0 32, epochS := c.f 24 0 48, epochNs := c.f 32 0 32 }

/-- R254, R282: a field out of range. -/
def timingBad (t : Timing) : Bool :=
  decide (t.freezeRepeat < 1) || decide (t.period < 500000 ∨ t.period > 20000000) ||
    decide (t.vbi < 8000 ∨ t.vbi + 491520 > t.period) || decide (t.syncOffset ≥ t.period) ||
    decide (t.epochNs > 999999999)

/-- TIMING_SET (R282, R283, R391). -/
def timingBody : Body :=
  { check := fun c s =>
      if s.pwr.state = .dim then some (stState, 0)
      else if c.f 8 0 2 = 3 ∨ timingBad (tsTiming c) then some (stField, 0)
      else
        (budgetFault (fun n => budgetRate (s.link.lane[n])) (tsTiming c).active (shadowMap s) s).map
          fun x => (0x0140#16, budgetResult x)
    run := fun c s => finishOk c (shadowAll [.timing (tsTiming c)] s) }

/-- A tile map entry as 16 bits (R272). -/
def parseMapEntry (v : Nat) : MapEntry :=
  { tile := v % 128, present := v / 128 % 2 == 1, mirrorX := v / 256 % 2 == 1,
    mirrorY := v / 512 % 2 == 1, teIn := v / 1024 % 2 == 1 }

/-- The entries of a TILE_MAP_SET (R284). -/
def tmEntries (c : Cmd) : List (Fin 96 × MapEntry) :=
  (List.range (c.f 9 0 5)).map fun i =>
    (⟨(c.f 8 0 7 + i) % 96, Nat.mod_lt _ (by decide)⟩, parseMapEntry (c.f (16 + 2 * i) 0 16))

/-- R274: the tile position two PRESENT entries name. -/
def mapDuplicate (m : TileMap) : Option Nat :=
  let e (k : Nat) : MapEntry := m.at' k MapEntry.reset
  ((List.range 96).find? fun k => (e k).present &&
    (List.range k).any fun j => (e j).present && (e j).tile == (e k).tile).map fun k => (e k).tile

/-- R274: a PRESENT entry above lane 11 of a GLN-9612. -/
def mapTooLarge (m : TileMap) (s : State) : Bool :=
  s.part.small && (List.range 96).any fun k =>
    decide (k ≥ 48) && (m.at' k MapEntry.reset).present

/-- TILE_MAP_SET (R284). -/
def tileMapBody : Body :=
  { check := fun c s =>
      let n := c.f 9 0 5
      let m := putMap (shadowMap s) (tmEntries c)
      if n < 1 ∨ n > 24 ∨ c.f 8 0 7 + n > 96 ∨ (tmEntries c).any fun e => decide (e.2.tile > 95) then
        some (stField, 0)
      else if mapTooLarge m s then some (0x0141#16, 0)
      else match mapDuplicate m with
      | some t => some (0x0142#16, resAt 16 t)
      | none =>
        (budgetFault (fun n => budgetRate (s.link.lane[n])) (shadowTiming s).active m s).map
          fun x => (0x0140#16, budgetResult x)
    run := fun c s => finishOk c (shadowAll ((tmEntries c).map fun e => .map e.1 e.2) s) }

/-- Arm a launch (R269, R271): it takes every setting staged since the last commit. -/
def armLaunch (c : Cmd) (sec ns : Nat) (own : List ShadowWrite) (s : State) : State :=
  { s with
    lpl.launches := s.lpl.launches ++
      [{ s := sec, ns := ns, late := decide (netTime s > mkTime sec ns),
         writes := s.lpl.shadow ++ own, cmd := c, num := s.yok.own.launches + 1 }]
    lpl.shadow := []
    lpl.shadowAt := match s.lpl.shadowAt with
      | .general => .launch (s.yok.own.launches + 1)
      | p => p
    yok.own.launches := s.yok.own.launches + 1 }

/-- The shadow writes of a LAYER_PRESENT (R158). -/
def lpWrites (c : Cmd) : List ShadowWrite :=
  .shown (BitVec.ofNat 8 (c.f 8 0 8)) ::
    (if c.b 9 0 then [.order (BitVec.ofNat 24 (c.f 12 0 24))] else [])

/-- LAYER_PRESENT (R158 to R160). -/
def presentBody : Body :=
  { check := fun c s =>
      let noSource (n : Fin 8) : Bool :=
        bitOf (BitVec.ofNat 8 (c.f 8 0 8)) n.val &&
          (committedSets (Fin.castSucc n) s).all (fun l => l.cfg.source == .none) &&
          (shadowCfg (Fin.castSucc n) s).source == .none
      firstFail
        [ (c.b 9 0 && !Cmp.orderOk (BitVec.ofNat 24 (c.f 12 0 24)), stField),
          ((List.finRange 8).any noSource, stField),
          (decide (c.f 24 0 32 ≥ 1000000000), stField),
          (c.b 9 1 && decide (s.lpl.launches.length ≥ 16), 0x0144#16) ]
    run := fun c s =>
      if c.b 9 1 then armLaunch c (c.f 16 0 48) (c.f 24 0 32) (lpWrites c) s
      else finishOk c (shadowAll (lpWrites c) s) }

/-- LAYER_PRESENT. -/
def execLayerPresent (src : Src) (d : Desc) (s : State) : Out :=
  .next (runRow 0x11 presentBody src d s)

/-- TIMING_SET. -/
def execTimingSet (src : Src) (d : Desc) (s : State) : Out := .next (runRow 0x18 timingBody src d s)

/-- TILE_MAP_SET. -/
def execTileMapSet (src : Src) (d : Desc) (s : State) : Out := .next (runRow 0x19 tileMapBody src d s)

/-- The mean of the last good intervals, rounded half to even (R11), or PERIOD_NS before any (R260, R267). -/
def meanInterval (l : Lamp) : Nat :=
  if l.intervals.isEmpty then l.timing.period
  else (roundEven (l.intervals.sum : Int) l.intervals.length).toNat

/-- The target of the next latch point under SYNC_IN (R260), once a good edge is known. -/
def syncTarget (l : Lamp) : Option Nat :=
  l.goodEdge.map fun e =>
    let base := e + l.timing.syncOffset
    let least := l.lastLatch + l.timing.active + 8000
    let p := max 1 (meanInterval l)
    if least ≤ base then base else base + ((least - base + p - 1) / p) * p

/-- SYNC_IN governs this device's latch points: committed, and the device leads (R258). -/
def syncGoverns (s : State) : Bool := s.pwr.core && s.lpl.timing.source == .syncIn && !s.yok.following

/-- A bad interval (R259, R261). -/
def badInterval (s : State) : State :=
  let s := { s with
    lpl.badEdges := bump 65535 1 s.lpl.badEdges
    lpl.badRun := s.lpl.badRun + 1
    lpl.goodRun := 0 }
  if s.lpl.locked && s.lpl.badRun == 4 && !s.lpl.syncLost then
    raise 5 .minor (1 + s.lpl.composing.toNat * 65536)
      { s with
        lpl.syncLost := true
        lpl.holdover := true
        lpl.locked := false
        lpl.lockLosses := bump 65535 1 s.lpl.lockLosses }
  else s

/-- A good interval (R259 to R261). -/
def goodInterval (i : Nat) (s : State) : State :=
  let run := s.lpl.goodRun + 1
  let back := s.lpl.syncLost && decide (run ≥ 3)
  { s with
    lpl.goodRun := run
    lpl.badRun := 0
    lpl.intervals := (i :: s.lpl.intervals).take 4
    lpl.goodEdge := some s.now
    lpl.syncLost := s.lpl.syncLost && !back
    lpl.holdover := s.lpl.holdover && !back
    lpl.locked := s.lpl.locked || back }

/-- An edge on SYNC_IN (R259). -/
def execSyncInEdge (s : State) : Out :=
  .next (whenS (syncGoverns s)
    (fun s =>
      let s' := { s with lpl.lastEdge := some s.now }
      match s.lpl.lastEdge with
      | none => s'
      | some e =>
        let i := s.now - e
        let p := s.lpl.timing.period
        if p * 98 ≤ i * 100 ∧ i * 100 ≤ p * 102 ∧ s.lpl.timing.active + 8000 ≤ i then goodInterval i s'
        else badInterval s') s)

/-- An edge is missing for more than 1.02 periods (R259): each one missing is bad; the next edge seen starts
a new interval (log entry 6). -/
def execSyncInMissing (s : State) : Out :=
  .next (whenS (syncGoverns s) (fun s => badInterval { s with lpl.lastEdge := none }) s)

/-- A command under the timing in force has its lock, or the free run in its place (R267, R283). -/
def lockWait (noLock : Bool) (w : TimingWait) : TimingWait :=
  if w.held || w.lockFrames.isSome then w
  else { w with noLock := noLock, lockFrames := some w.frames }

/-- SYNC_IN has not locked after 8 periods (R267). -/
def execSyncLockTimeout (s : State) : Out :=
  .next (whenS (syncGoverns s && s.lpl.hold)
    (fun s => { s with
      lpl.hold := false
      lpl.relock := none
      lpl.syncLost := true
      lpl.holdover := true
      lpl.timingWait := s.lpl.timingWait.map (lockWait true) }) s)

/-- LPL_CNT_CLEAR.TE (R285). -/
def execLplCntClearTe (s : State) : Out :=
  .next (whenS (hostUp s) (fun s => { s with lpl.teMisses := 0 }) s)

/-- LPL_CNT_CLEAR.SYNC (R285). -/
def execLplCntClearSync (s : State) : Out :=
  .next (whenS (hostUp s) (fun s => { s with lpl.badEdges := 0, lpl.lockLosses := 0 }) s)

/-- LPL_CNT_CLEAR.LATE (R285). -/
def execLplCntClearLate (s : State) : Out :=
  .next (whenS (hostUp s) (fun s => { s with lpl.lateLaunches := 0 }) s)

/-- LPL_CNT_CLEAR.REPEATS (R285). -/
def execLplCntClearRepeats (s : State) : Out :=
  .next (whenS (hostUp s) (fun s => { s with lpl.repeats := 0 }) s)

end Sys2Proof.Machine
end

