-- ==== Sys2Proof/Machine/Photometry.lean ====
section
/-!
DEFINITION. CAL_LOAD, FADE_SET, FLUX_BUDGET_SET, the plane copy and the fade and budget factors
(spec/07_photometry.md).
-/

namespace Sys2Proof.Machine

/-- R210 on PLANE_ADDR. -/
def planeOk (a : Nat) (s : State) : Bool :=
  let img := s.pwr.imageBase * 65536
  a % 65536 == 0 && decide (0x480000 ≤ a) && decide (a ≤ 0x3700000) &&
    (decide (a + planeBytes ≤ 0x3540000) || decide (0x3780000 ≤ a)) &&
    (decide (a + planeBytes ≤ img) || decide (img + 0x500000 ≤ a))

/-- The base of a pending plane switch. -/
def PlaneSwitch.base : PlaneSwitch → Nat
  | .staged b => b
  | .copying b => b
  | .copied b => b

/-- R210: a field of a CAL_LOAD out of range. -/
def calBad (c : Cmd) (s : State) : Bool :=
  match c.f 8 0 2 with
  | 0 =>
    let n := c.f 16 0 21
    decide (n < 1) || decide (c.f 12 0 21 + n > Pipe.pixels) || c.f 24 0 64 % 8 != 0 ||
      (c.b 8 3 && s.hif.hostless) || !planeOk (c.f 20 0 32) s
  | 1 => decide (c.f 22 0 16 > 0x8000)
  | 2 => !planeOk (c.f 20 0 32) s
  | _ => false

/-- PLANE_BUSY (table CAL_LOAD statuses). -/
def calBusy (c : Cmd) (s : State) : Bool :=
  match c.f 8 0 2 with
  | 0 => c.b 8 2 && (c.f 20 0 32 == s.pho.planeBase ||
      match s.pho.plane with
      | some p => p.base == c.f 20 0 32
      | none => false)
  | 2 => s.pho.plane.isSome
  | _ => false

/-- The transfer of a RECORDS (R211), by 8-byte words. -/
def recordsXfer (c : Cmd) : DmaDesc :=
  let n := 8 * c.f 16 0 21
  { lineXfer (c.f 24 0 64) (c.b 8 3) n (c.f 20 0 32 + 8 * c.f 12 0 21) false n n 1 with
    swidth := 3, dwidth := 3 }

/-- CAL_LOAD (R209 to R214). -/
def calLoadBody : Body :=
  { check := fun c s => firstFail [(calBad c s, stField), (calBusy c s, 0x0120#16)]
    run := fun c s =>
      match c.f 8 0 2 with
      | 0 => askTransfer (cmdJob c (recordsXfer c) false) s
      | 1 =>
        let b : Bin := { tRef := c.s 16 0 16, tKnee := c.s 18 0 16, slope := c.f 20 0 16,
                         dMin := c.f 22 0 16 }
        finishOk c (shadowAll [.bin ⟨c.f 12 0 4 % 16, by omega⟩ b] s)
      | 2 =>
        let a := c.f 20 0 32
        let s := { shadowAll [.plane a] s with
          pho.plane := some (.staged a), pho.planeCmd := some c }
        if c.commit then issueCommit s else s
      | _ => finishOk c (shadowAll [.defaultRec (BitVec.ofNat 64 (c.f 24 0 64))] s) }

/-- The RECORDS transfer has ended well (R212): the CRC of the records as read. -/
def calLoaded (j : DmaJob) (s : State) : State :=
  finish j.cmd stSuccess (resAt 16 (Env.crc32c j.buf).toNat) s

/-- The word a merge writes (R211): AGEING and HEALTH kept from the old word, bits [51:32]; from an
uncorrectable one the whole new record with HEALTH OK. -/
def mergeRecord (old : Option Nat) (new : Nat) : Nat :=
  match old with
  | some o => new - (new / 2 ^ 32 % 2 ^ 20) * 2 ^ 32 + (o / 2 ^ 32 % 2 ^ 20) * 2 ^ 32
  | none => new - (new / 2 ^ 48 % 16) * 2 ^ 48

/-- FADE_SET (R198, R215). -/
def fadeBody : Body :=
  { check := fun c _ =>
      firstFail [(decide (c.f 8 0 16 > 0x8000) || decide (c.f 12 0 32 > 60000000), stField)]
    run := fun c s => finishOk c (shadowAll [.fade (c.f 8 0 16) (c.b 10 0) (c.f 12 0 32)] s) }

/-- FLUX_BUDGET_SET (R200, R215). -/
def budgetBody : Body :=
  { check := fun c _ =>
      firstFail [(decide (c.f 12 0 16 < 1) || decide (c.f 12 0 16 > 0x8000), stField)]
    run := fun c s => finishOk c (shadowAll [.budget (c.f 8 0 32) (c.f 12 0 16)] s) }

/-- CAL_LOAD. -/
def execCalLoad (src : Src) (d : Desc) (s : State) : Out := .next (runRow 0x20 calLoadBody src d s)

/-- FADE_SET. -/
def execFadeSet (src : Src) (d : Desc) (s : State) : Out := .next (runRow 0x21 fadeBody src d s)

/-- FLUX_BUDGET_SET. -/
def execFluxBudgetSet (src : Src) (d : Desc) (s : State) : Out :=
  .next (runRow 0x22 budgetBody src d s)

/-- N of a fade (R198). -/
def fadeFrames (timeUs period : Nat) : Nat :=
  max 1 (roundEven ((timeUs * 1000 : Nat) : Int) period).toNat

/-- F_k of a fade (R198). -/
def Fade.value (f : Fade) : Nat :=
  let d : Int := (f.target : Int) - f.start
  let num : Int := if f.square then d * ((f.k * f.k : Nat) : Int) else d * (f.k : Int)
  let den : Nat := if f.square then f.n * f.n else f.n
  ((f.start : Int) + roundEven num den).toNat

/-- A FADE_SET is taken (R198, R199). -/
def startFade (target : Nat) (square : Bool) (timeUs : Nat) (s : State) : State :=
  { s with
    pho.fade := some { start := s.pho.fadeNow, target := target, square := square,
                       n := fadeFrames timeUs s.lpl.timing.period, k := 0 }
    pho.fadeNew := true
    pho.fadeTarget := target
    pho.fadeSquare := square }

/-- A fade one frame on. -/
def Fade.step (f : Fade) : Fade := { f with k := f.k + 1 }

/-- F of the frame composed next (R198). -/
def nextFade (p : Photo) : Nat :=
  match p.fade with
  | none => p.fadeNow
  | some f => f.step.value

/-- A composition with fade factor F has ended (R198, R199): the fade it belongs to moves one frame on. -/
def endFade (F : Nat) (p : Photo) : Photo :=
  { p with
    fadeNow := F
    fadeNew := false
    fade := match p.fade with
      | some f => if p.fadeNew then some f else if f.step.k ≥ f.n then none else some f.step
      | none => none }

/-- The budget factor for the frame composed next (R200): LIMIT, RISE and the factor last set, on the demand
of the last frame. -/
def nextFactor (p : Photo) : Nat :=
  let target := if p.limit = 0 ∨ p.demand = 0 then 0x8000 else min 0x8000 (p.limit * 2 ^ 31 / p.demand)
  min target (p.budget + p.rise)

/-- A composition starts: the factor that its predecessor's demand asks for is set, by the LIMIT and RISE
committed so far (R200, R417), and a fade taken so far counts from this frame (R198). -/
def startFactors (s : State) : State :=
  { s with
    pho.fadeNew := false
    pho.budget := if s.pho.budgetDue then nextFactor s.pho else s.pho.budget
    pho.budgetDue := false }

/-- The highest of a list of temperatures. -/
def hottest (l : List Int) : Option Int :=
  l.foldl (fun m t => some (match m with
    | some x => max x t
    | none => t)) none

/-- A tile's sensor is neither BROKEN nor stale (R197, R410). -/
def tileTempOk (t : TileSensor) : Bool := !t.st.broken && !t.stale

/-- An on-die or remote sensor counts in its class (R410, R413). -/
def Sensor.valid (x : Sensor) : Bool := x.used && !x.st.broken

/-- A valid sensor has a temperature: it has been sampled since reset (log entry 118). -/
def Sensor.known (x : Sensor) : Bool := x.valid && x.seen

/-- A tile has a temperature for photometry: it is neither BROKEN nor stale, and a report has been sampled
(R196, R197). Between the first report ever and its sample the spec gives t_tile no value of the tile's own:
the position is substituted until then (DESIGN CHOICE, log entry 102). -/
def tileTempKnown (t : TileSensor) : Bool := tileTempOk t && t.sampled

/-- A position a PRESENT entry of the committed map names, and not tile-dark (R197). -/
def litPosition (s : State) (t : Nat) : Bool :=
  (s.lpl.mapNext.some' fun m => m.present && m.tile == t) && !(s.pxh.tile.at' t TileHealth.reset).dark

/-- Photometry takes the tile temperatures and d_thermal at a VBI (R196, R197), or the leader's
(R462). With no valid temperature at all PHO_TILEt_TEMP.TEMP, of which the spec says nothing then, reads 0
(DESIGN CHOICE, log entry 101). -/
def takeTemps (s : State) : State :=
  let own := (s.thm.tile.toList.filter tileTempKnown).map fun t => t.st.temp
  let sensors := ((List.finRange 24).filter fun n => (s.thm.sensor[n]).known).map fun n =>
    (s.thm.sensor[n]).st.temp
  let sub := match hottest own with
    | some t => some t
    | none => hottest sensors
  let temps : Tab Int 96 := s.thm.tile.map' fun t =>
    if tileTempKnown t then t.st.temp else sub.getD 0
  let needs (t : Fin 96) : Bool := !tileTempKnown (s.thm.tile[t]) && litPosition s t.val
  let new := (List.finRange 96).filter fun t => needs t && !(s.pho.subst[t])
  let s := { s with
    pho.temp := temps
    pho.noTemp := sub.isNone
    pho.dThermal := 0x8000 - s.thm.light.level * s.thm.light.dStep
    pho.subst := s.pho.subst.mapI fun t b => b || needs t
    pho.tempSubst := (List.finRange 96).any needs }
  let s := new.foldl (fun s t => raise 10 .note (1 + t.val * 65536) s) s
  match s.yok.following, s.yok.shared with
  | true, some sh => { s with
    pho.temp := sh.temp.getD (Tab.all 96 0), pho.noTemp := sh.temp.isNone, pho.dThermal := sh.dThermal }
  | _, _ => s

/-- PHO_CNT_CLEAR.SUBST (R197). -/
def execPhoCntClearSubst (s : State) : Out :=
  .next (whenS (hostUp s) (fun s => { s with pho.subst := Tab.all 96 false }) s)

/-- Copy bits [51:32] of record p from one plane to the other (R214); out of an uncorrectable word they
are free (log entry 7), and an uncorrectable record of the new plane is left as it is (R92, R122). -/
def copyRecord (old new p : Nat) (s : State) : State :=
  let a := old + 8 * p
  let b := new + 8 * p
  let x := readWord .cores (a / 8) .none s
  let y := readWord .cores (b / 8) .none x.2
  if y.1 then y.2
  else
    let f := freshBits 20 y.2
    let s := if x.1 then f.2 else y.2
    let keep := if x.1 then f.1.toNat * 2 ^ 32 else leNat (grnBytes a 8 s)
    storeBytes b (leBytes 8 (mergeRecord (some keep) (leNat (grnBytes b 8 s)))) s

/-- Copy every record of the plane in use to the other plane. -/
def copyPlane (b : Nat) (s : State) : State :=
  (List.range Pipe.pixels).foldl (fun s p => copyRecord s.pho.planeBase b p s) s

/-- The background copy of a plane switch has ended (R214): every record is copied here, as both planes then stand
(log entry 147). -/
def execPlaneCopyComplete (s : State) : Out :=
  .next (whenS (s.pwr.core)
    (fun s =>
      match s.pho.plane with
      | some (.copying b) =>
        let s := copyPlane b s
        { s with pho.plane := some (.copied b) }
      | _ => s) s)

end Sys2Proof.Machine
end

