-- ==== Sys2Proof/Machine/HedgeView.lean ====
section
/-!
DEFINITION. What the Hedge's state says: its safe state, its disconnect outputs (spec/08_hedge.md).
-/

namespace Sys2Proof.Machine

/-- Causes by bit (table Hedge causes). -/
def cSafeIn : Fin 9 := 0
/-- SAFE_IN_TEST. -/
def cSafeInTest : Fin 9 := 1
/-- ZONE_FLUX. -/
def cZone : Fin 9 := 2
/-- GLOBAL_FLUX. -/
def cGlobal : Fin 9 := 3
/-- FLOOR_CONTENT. -/
def cFloor : Fin 9 := 4
/-- FLOOR_ECHO. -/
def cEcho : Fin 9 := 5
/-- MAP_MISMATCH. -/
def cMap : Fin 9 := 6
/-- CLAMP_PERSIST. -/
def cClamp : Fin 9 := 7
/-- SAFE_OFF_FB. -/
def cOffFb : Fin 9 := 8

/-- The envelope in force; before a block is active nothing is judged by it. -/
def Hedge.env (h : Hedge) : Envelope := h.active.getD .uncommissioned

/-- The action of a cause: 0 REPORT, 1 BLANK, 2 FALLBACK (R226). -/
def Hedge.action (h : Hedge) (c : Fin 9) : Nat := Env.reaction h.env c.val % 4

/-- A cause is active with an action. -/
def Hedge.acting (h : Hedge) (a : Nat) : Bool :=
  (List.finRange 9).any fun c => (h.cause[c]).active && h.action c == a

/-- PATH of SAFE_TEST holds BLANK (R250). -/
def Hedge.pathTest (h : Hedge) : Bool := match h.test with
  | some t => t.test == 2 && t.begun
  | none => false

/-- HDG_STATUS.STATE (R228, R238, R246): 0 NORMAL, 1 BLANK, 2 FALLBACK, which a self-fault gives. -/
def Hedge.state (h : Hedge) : Nat :=
  if h.selfHeld then 2
  else if h.active.isNone || h.pathTest || h.acting 1 then 1 else if h.acting 2 then 2 else 0

/-- An active BLANK cause carries DISCONNECT (R228). -/
def Hedge.wantsOff (h : Hedge) : Bool :=
  (List.finRange 9).any fun c =>
    (h.cause[c]).active && h.action c == 1 && Env.reaction h.env c.val / 4 % 2 == 1

/-- This device drives SAFE_OFF and the rails: alone, or holding YOKE_ACT_N (R237, R466). -/
def drivesOff (s : State) : Bool := s.yok.state == .solo || s.yok.holding

/-- SAFE_OFF_A and SAFE_OFF_B are asserted by a cause, this device's or a TRIP's (R227, R238, R466). -/
def disconnected (s : State) : Bool :=
  s.pwr.hedge && drivesOff s && !s.hdg.selfHeld && (s.hdg.wantsOff || s.yok.trip)

/-- SAFE_FB_A, or SAFE_FB_B for `second` (R235): low while a cause holds the switch open, otherwise as it last
read. The 5 µs a feedback may take are not modelled. -/
def safeFb (second : Bool) (s : State) : Bool :=
  (if second then s.hdg.swB.fb else s.hdg.swA.fb) && !disconnected s

/-- The disconnect test under way, if there is one, is dropped: its switch is released and conducts, and the
feedback reads high again (R235, R375). -/
def dropDisc (s : State) : State :=
  match s.hdg.disc with
  | none => s
  | some t =>
    if t.second then { s with hdg.disc := none, hdg.swB.fb := true, hdg.swB.highAt := some s.now }
    else { s with hdg.disc := none, hdg.swA.fb := true, hdg.swA.highAt := some s.now }

/-- The Hedge's datapath runs and a block governs it. -/
def hedgeUp (s : State) : Bool := s.pwr.hedge && s.hdg.active.isSome

end Sys2Proof.Machine
end

