-- ==== Sys2Proof/Machine/RailOps.lean ====
section
/-!
DEFINITION. Operations on the tile supply rails: sequencing, suspension, faults, the jobs of RAIL_SET
(spec/13_tile_rails.md).
-/

namespace Sys2Proof.Machine

/-- End the TEST_RUN under way (R534, R535); `low` is the first result byte of the failing check. -/
def endRun (st : BitVec 16) (errors : Nat) (flags : Nat) (s : State) : State :=
  match s.tst.job with
  | none => s
  | some j =>
    let us := (roundEven ((s.now - j.since : Nat) : Int) 1000).toNat
    let errors := satU 32 errors
    let r := if st = stSuccess ∨ st = 0x01D0#16 then
        resAt 16 errors ||| resAt 20 flags ||| resAt 24 (satU 32 us) else 0
    let s := { s with tst.job := none }
    let low := if j.test = 5 then flags else errors % 256
    let s := if st = 0x01D0#16 then
        raise 44 .minor (j.test + j.target * 16 + low * 65536)
          { s with tst.failed := bump 65535 1 s.tst.failed }
      else s
    complete j.cmd st 0 r s

/-- A rail under RAIL_CHECK has left REGULATE: the test ends (R541). -/
def checkRailTest (s : State) : State :=
  match s.tst.job with
  | some j =>
    if j.test = 5 ∧ ((s.rail.rail.toList[j.target]?).all fun (r : Rail) => r.state != .regulate) then
      endRun 0x01D4#16 0 0 s
    else s
  | none => s

/-- Code of a rail state (table Rail states). -/
def RailState.code : RailState → Nat
  | .off => 0 | .waitSeq => 1 | .softStart => 2 | .regulate => 3 | .softStop => 4 | .suspended => 5
  | .faultWait => 6 | .latched => 7 | .hold => 8

/-- Code of a suspension (RAIL_n_STATUS.SUSPEND). -/
def Suspend.code : Suspend → Nat
  | .none => 0 | .disconnect => 1 | .standby => 2 | .predecessor => 3

/-- The rail switches its stage (table Rail states). -/
def Rail.switching (r : Rail) : Bool :=
  r.state == .softStart || r.state == .regulate || r.state == .softStop || r.state == .hold

/-- FAULT_WAIT or LATCHED. -/
def Rail.faulted (r : Rail) : Bool := r.state == .faultWait || r.state == .latched

/-- VS within ±5 % of V_SET (R369). -/
def Rail.inBand (r : Rail) : Bool :=
  decide (r.vSet * 95 ≤ r.vs * 100) && decide (r.vs * 100 ≤ r.vSet * 105)

/-- Change rail k. -/
def modRail (k : Fin 8) (f : Rail → Rail) (s : State) : State :=
  { s with rail.rail := s.rail.rail.upd k f }

/-- The PWM goes high-impedance in a state (R363). -/
def Rail.stop (r : Rail) (st : RailState) (why : Suspend) : Rail :=
  { r with state := st, turn := false, suspend := why, duty := 0, integ := 0, limit := false, pgood := false }

/-- Soft start from the VS measured now (R369). -/
def Rail.soft (r : Rail) : Rail :=
  { r with
    state := .softStart, suspend := .none, duty := 0, integ := 0, limit := false, pgood := false,
    cycleFault := none, vsEntry := r.vs, target := r.vs, rampAt := 0 }

/-- Every used rail of lower SEQ is in REGULATE, or, where `held`, in REGULATE or HOLD (R372). -/
def lowerOk (k : Fin 8) (held : Bool) (s : State) : Bool :=
  s.rail.rail.every fun j =>
    !j.entry.used || decide (j.entry.seq ≥ (s.rail.rail[k]).entry.seq) || j.state == .regulate ||
      (held && j.state == .hold)

/-- A low-power entry stops the rails, or has stopped them (R387): none starts, EN notwithstanding. -/
def railsStopping (s : State) : Bool :=
  match s.pwr.entry with
  | some e => e.step != .latch
  | none => false

/-- Rails may leave OFF (R371): the power-up test of both switches has ended, the analogue domain is ready, and
no low-power entry stops them. -/
def railsMayRun (s : State) : Bool := s.rail.allowed && s.pwr.analogue && !railsStopping s

/-- The rail's turn has come (R368, R371 to R374). -/
def startRail (k : Fin 8) (s : State) : State :=
  let r := s.rail.rail[k]
  if !r.entry.used || !r.en || r.state == .latched || !railsMayRun s then s
  else if !drivesOff s then modRail k (fun r => r.stop .suspended .standby) s
  else if disconnected s then modRail k (fun r => r.stop .suspended .disconnect) s
  else if r.entry.linkPrev && !lowerOk k false s then
    modRail k (fun r => { r.stop .waitSeq .none with turn := true }) s
  else modRail k Rail.soft s

/-- The rails of a mask. -/
def maskRails (m : BitVec 8) : List (Fin 8) := (List.finRange 8).filter fun k => m.getLsbD k.val

/-- A mask of rails that satisfy a test. -/
def railMask (s : State) (p : Rail → Bool) : BitVec 8 :=
  BitVec.ofNat 8 (((List.finRange 8).map fun k => bn (p (s.rail.rail[k])) * 2 ^ k.val).sum)

/-- A rail leaves every sequence in progress. -/
def dropSeq (k : Fin 8) (s : State) : State :=
  { s with rail.seqs := (s.rail.seqs.map fun q =>
      { q with named := q.named &&& ~~~ BitVec.ofNat 8 (2 ^ k.val) }).filter fun q => q.named != 0 }

/-- Sequenced start of the rails `m` among those named (R372): those of the lowest position at once, the others
wait for every named rail below them, one that is starting already or that has yet to restart among them. -/
def seqStart (named m : BitVec 8) (s : State) : State :=
  if !railsMayRun s then s
  else
    let l := maskRails named
    let s := l.foldl (fun s k => dropSeq k s) s
    let first (k : Fin 8) : Bool := l.all fun j =>
      decide ((s.rail.rail[k]).entry.seq ≤ (s.rail.rail[j]).entry.seq)
    let now := (maskRails m).filter first
    let rest := (maskRails m).filter fun k => !first k
    let s := rest.foldl (fun s k => modRail k (fun r => r.stop .waitSeq .none) s) s
    let s := now.foldl (fun s k => startRail k s) s
    if rest.isEmpty then s
    else { s with rail.seqs := s.rail.seqs ++ [{ named := named, start := true }] }

/-- Soft stop, or straight to OFF where nothing switches; LATCHED stays (R368, R369). -/
def stopRail (k : Fin 8) (s : State) : State :=
  let r := s.rail.rail[k]
  match r.state with
  | .softStart | .regulate | .hold =>
    modRail k (fun r => { r with
      state := .softStop, suspend := .none, vsEntry := r.target, rampAt := 0, pgood := false }) s
  | .softStop | .latched | .off => s
  | _ => modRail k (fun r => r.stop .off .none) s

/-- Sequenced stop of the named rails (R372): the highest position at once, the others wait; a rail that does
not switch has no soft stop to wait for (log entry 129). -/
def seqStop (m : BitVec 8) (s : State) : State :=
  let l := maskRails m
  let s := l.foldl (fun s k => dropSeq k s) s
  let first (k : Fin 8) : Bool := !(s.rail.rail[k]).switching || l.all fun j =>
    decide ((s.rail.rail[j]).entry.seq ≤ (s.rail.rail[k]).entry.seq)
  let rest := l.filter fun k => !first k
  let s := (l.filter first).foldl (fun s k => stopRail k s) s
  if rest.isEmpty then s
  else { s with rail.seqs := s.rail.seqs ++ [{ named := m, start := false }] }

/-- A rail's turn in a sequence has come: every named rail before it is through (R372). -/
def seqReady (q : RailSeq) (k : Fin 8) (s : State) : Bool :=
  let r := s.rail.rail[k]
  q.named.getLsbD k.val &&
    (if q.start then
      r.state == .waitSeq && !r.turn && (maskRails q.named).all fun j =>
        decide ((s.rail.rail[j]).entry.seq ≥ r.entry.seq) || (s.rail.rail[j]).state == .regulate
    else
      (r.state == .regulate || r.state == .softStart || r.state == .hold) &&
        (maskRails q.named).all fun j =>
          decide ((s.rail.rail[j]).entry.seq ≤ r.entry.seq) || (s.rail.rail[j]).state == .off ||
            (s.rail.rail[j]).state == .latched)

/-- Sequences with nothing left to do end. -/
def pruneSeqs (s : State) : State :=
  let live (q : RailSeq) : Bool := (maskRails q.named).any fun k =>
    let st := (s.rail.rail[k]).state
    if q.start then st == .waitSeq else !(st == .off || st == .softStop || st == .latched)
  { s with rail.seqs := s.rail.seqs.filter live }

/-- RESULT of RAIL_SET (table RAIL_SET result). -/
def railResult (s : State) : Result :=
  let fault := match (List.finRange 8).find? fun k => (s.rail.rail[k]).faulted with
    | some k => (s.rail.rail[k]).lastFault
    | none => 0
  resAt 16 (railMask s fun r => r.state == .regulate).toNat |||
    resAt 17 (railMask s Rail.faulted).toNat |||
    resAt 18 (railMask s fun r => r.state == .suspended).toNat ||| resAt 19 fault

/-- How a running RAIL_SET completes now, if it does (R378). -/
def railJobDone (j : RailJob) (s : State) : Option (BitVec 16) :=
  let l := (maskRails j.mask).map fun k => s.rail.rail[k]
  match j.action with
  | 0 => if l.all fun r => !r.switching || r.inBand then some stSuccess else none
  | 1 =>
    if j.fault then some 0x0160#16
    else if l.all fun r => r.state == .regulate then some stSuccess
    else none
  | _ => if l.all fun r => r.state == .off then some stSuccess else none

/-- Complete the RAIL_SETs that are done. -/
def checkRailJobs (s : State) : State :=
  s.rail.jobs.foldl
    (fun s j => match railJobDone j s with
      | none => s
      | some st =>
        finish j.cmd st (railResult s)
          { s with rail.jobs := s.rail.jobs.filter fun x => x.cmd.ser != j.cmd.ser }) s

/-- One pass over the suspensions that follow from what other parts of the device do (R372 to R374). -/
def settleRail (k : Fin 8) (s : State) : State :=
  let r := s.rail.rail[k]
  if !r.entry.used then s
  else if (!r.en || railsStopping s) &&
      (r.state == .waitSeq || r.state == .suspended || r.state == .faultWait) then
    modRail k (fun r => r.stop .off .none) s
  else if !drivesOff s then
    if r.switching || r.state == .waitSeq || r.state == .faultWait ||
        (r.state == .suspended && r.suspend != .standby) || (r.state == .off && r.en && railsMayRun s) then
      modRail k (fun r => if r.en then r.stop .suspended .standby else r.stop .off .none) s
    else s
  else if disconnected s && r.switching then modRail k (fun r => r.stop .suspended .disconnect) s
  else if r.entry.linkPrev && (r.state == .softStart || r.state == .regulate || r.state == .hold) &&
      !lowerOk k true s then
    modRail k (fun r => r.stop .suspended .predecessor) s
  else if r.state == .suspended && r.suspend == .predecessor && lowerOk k false s then startRail k s
  else if r.state == .waitSeq && (r.turn || !(s.rail.seqs.any fun q => q.named.getLsbD k.val)) then startRail k s
  else s

/-- DISCONNECT has cleared (R373): the rails it held start in sequence, and those that waited for their turn in a
sequence wait for it again behind them. -/
def releaseRails (s : State) : State :=
  let held := railMask s fun r => r.state == .suspended && r.suspend == .disconnect
  if disconnected s || !drivesOff s || held == 0 then s
  else
    let seqs := s.rail.seqs.filter fun q => q.start
    let on := held &&& railMask s Rail.en
    let waits := railMask s (fun r => r.state == .waitSeq && !r.turn) &&&
      seqs.foldl (fun m q => m ||| q.named) 0
    seqStart (seqs.foldl (fun m q => m ||| q.named) on) (on ||| waits)
      ((maskRails (held &&& ~~~ on)).foldl (fun s k => modRail k (fun r => r.stop .off .none) s) s)

/-- Bring every rail in step with the disconnect, the line and the rails before it, then complete what
is done. -/
def settleRails (s : State) : State :=
  let pass (s : State) : State := (List.finRange 8).foldl (fun s k => settleRail k s) s
  checkRailTest (checkRailJobs (pruneSeqs ((List.range 8).foldl (fun s _ => pass s) (releaseRails s))))

/-- The counter of a fault (RAIL_n_COUNT). -/
def Rail.faultCount (r : Rail) (code : Nat) : Nat :=
  match code with
  | 1 => r.nShort
  | 4 => r.nOver
  | 5 => r.nUnder
  | _ => r.nOther

/-- The counter of a fault set. -/
def Rail.setFaultCount (r : Rail) (code n : Nat) : Rail :=
  match code with
  | 1 => { r with nShort := n }
  | 4 => { r with nOver := n }
  | 5 => { r with nUnder := n }
  | _ => { r with nOther := n }

/-- DETAIL of a rail's fault. -/
def faultDetail (code : Nat) (r : Rail) : Nat := code + r.restarts * 256

/-- A fault recorded in this cycle gives way to one that stands before it in the table Rail faults (R375): its
count and its event are taken back. -/
def dropFault (k : Fin 8) (f : CycleFault) (s : State) : State :=
  let detail : Word := BitVec.ofNat 32 (faultDetail f.code s.rail.rail[k])
  modRail k (fun r => r.setFaultCount f.code f.count) { s with
    rve.inbox := s.rve.inbox.filter fun e => !(e.group == 23 + k.val && e.detail == detail && e.at' == s.now) }

/-- A rail records and counts a fault (R375, R376), and waits or latches. -/
def recordFault (k : Fin 8) (code : Nat) (was : Rail) (s : State) : State :=
  let r := s.rail.rail[k]
  let retry := code == 1 || code == 4 || code == 5 || code == 6
  let next : RailState := if retry && decide (r.restarts < r.entry.retryMax) then .faultWait else .latched
  let f : CycleFault := { code := code, count := r.faultCount code, state := was.state, limit := was.limit }
  let s := modRail k (fun r => ({ r.stop next .none with lastFault := code, cycleFault := some f } : Rail).setFaultCount
    code (bump 255 1 (r.faultCount code))) s
  let s := { s with rail.jobs := s.rail.jobs.map fun j => { j with fault := j.fault || j.mask.getLsbD k.val } }
  settleRails (raise (23 + k.val) (if code ≤ 3 then .major else .minor) (faultDetail code r)
    (if next = .latched then dropSeq k s else s))

/-- A rail as it was before the fault it has recorded in this cycle. -/
def Rail.before (r : Rail) : Rail :=
  match r.cycleFault with
  | some f => { r with state := f.state, limit := f.limit }
  | none => r

/-- A fault of a rail (R375): of several in one cycle only the first in table order is recorded and counted. -/
def railFault (k : Fin 8) (code : Nat) (s : State) : State :=
  let r := s.rail.rail[k]
  match r.cycleFault with
  | some f => if code < f.code then recordFault k code r.before (dropFault k f s) else s
  | none => recordFault k code r s

/-- The device gains the line (R374): rails the partner regulated switch at once, the others in
sequence. A duty preset from an input estimate of 0 is free (log entry 9). -/
def takeRails (s : State) : State :=
  let one (s : State) (k : Fin 8) : State :=
    let m := s.yok.rails[k]
    let r := s.rail.rail[k]
    if r.entry.used && r.en && m.en && m.duty != 0 then
      let f := freshBits 16 s
      let duty := if m.vin = 0 then f.1.toNat else (roundEven (r.vs * 65536 : Nat) m.vin).toNat
      modRail k (fun r => { r with
        state := .regulate, suspend := .none, target := r.vSet, duty := min 62259 duty,
        integ := r.i, limit := false, pgood := true }) (if m.vin = 0 then f.2 else s)
    else s
  let s := (List.finRange 8).foldl one s
  let left := railMask s fun r =>
    r.entry.used && r.en && r.state == .suspended && r.suspend == .standby
  settleRails (seqStart left left s)

/-- Every rail with EN = 1 starts in sequence (R371, R388). -/
def restartRails (s : State) : State :=
  let m := railMask s fun r => r.entry.used && r.en && r.state == .off
  settleRails (seqStart m m s)

/-- Step 2 of a low-power entry (R371, R387), at the first latch point of the entry: the sequenced stop of every
used rail, EN unchanged. In LIGHT_HOLD the entry stands still (log entry 109). -/
def lowRails (s : State) : State :=
  match s.pwr.entry with
  | some e =>
    if e.step != .latch || !coresUp s then s
    else
      let s := { s with pwr.entry := some { e with step := .rails } }
      settleRails (seqStop (railMask s fun r => r.entry.used) s)
  | none => s

/-- The rails may leave OFF: the power-up test of both switches has ended (R371). -/
def allowRails (s : State) : State := restartRails { s with rail.allowed := true }

/-- A rail regulates its tile positions' supply as far as pixel health is concerned (R370). -/
def railGood (r : Rail) : Bool :=
  r.state == .regulate || r.state == .hold || (r.state == .suspended && r.suspend == .standby)

end Sys2Proof.Machine
end

