-- ==== Sys2Proof/Machine/Transmit.lean ====
section
/-!
DEFINITION. The transmitters of the lanes: what a lane sends, its SKP interval, what it sends when it has
nothing else to send (R290 to R292 of spec/10_xieri_lanes.md, R311 of spec/11_xieri_protocol.md). Lane 24 is
the yoke lane (R293, R457).
-/

namespace Sys2Proof.Machine

/-- Code of a lane state (XLP_LANEn_STATUS.STATE). -/
def LaneState.code : LaneState → Nat
  | .off => 0 | .detect => 1 | .commaLock => 2 | .polarity => 3 | .reversal => 4 | .enumerate => 5
  | .check => 6 | .ready => 7 | .down => 8 | .loopback => 9

/-- Lane n; 24 is the yoke lane. -/
def laneAt (n : Fin 25) (s : State) : Lane :=
  if h : n.val < 24 then s.link.lane[(⟨n.val, h⟩ : Fin 24)] else s.yok.lane

/-- Change lane n. -/
def modLane (n : Fin 25) (f : Lane → Lane) (s : State) : State :=
  if h : n.val < 24 then { s with link.lane := s.link.lane.upd ⟨n.val, h⟩ f }
  else { s with yok.lane := f s.yok.lane }

/-- The yoke lane. -/
def isYokeLane (n : Fin 25) : Bool := n.val == 24

/-- A lane held in DOWN on a GLN-9612 (R288). -/
def laneHeld (n : Fin 25) (s : State) : Bool :=
  s.part.small && decide (12 ≤ n.val) && decide (n.val < 24)

/-- The transmitter of a lane can take an override: it is not in OFF, nor idle in LOOPBACK at depth 2
(R292, R307). -/
def Lane.txRuns (l : Lane) : Bool :=
  l.state != .off && !(match l.loop with
    | some x => x.depth == 2
    | none => false)

/-- Ordered sets and special symbols, which are all that an EXCLUDED device sends (R465). -/
def LanePkt.isOrdered : LanePkt → Bool
  | .blank | .fbk | .training _ _ _ | .idle | .skp | .quiet => true
  | _ => false

/-- Symbols since the last SKP ordered set when the next packet starts: one under way ends first. -/
def LaneTx.start (t : LaneTx) : Nat := if t.skp = 0 then t.since else 0

/-- The SKP interval after a packet or ordered set of `len` symbols (R311). -/
def LaneTx.after (t : LaneTx) (len : Nat) : LaneTx :=
  let n := (if t.start ≥ 1020 then 0 else t.start) + len
  { t with since := n - 1020 * ((n - 1) / 1020), place := 0, skp := 0 }

/-- A BLANK or FBK takes the next symbol slot (R292): an ordered set it interrupts is sent again, and after a
SKP ordered set sent again the interval starts again. -/
def LaneTx.special (t : LaneTx) : LaneTx :=
  { t with since := if t.skp = 0 then t.since + 1 else 0, place := 0, skp := 0 }

/-- Lane n sends a packet, an ordered set, a pattern or a special symbol; an emission says how many symbols
went before it since the last SKP ordered set. Running disparity goes on over its code-groups, and starts negative on
leaving electrical idle (R289). -/
def sendLane (n : Fin 25) (p : LanePkt) (s : State) : State :=
  let t := (laneAt n s).tx
  let put (x : LaneTx) : State → State := modLane n fun l => { l with tx := { x with
    rd := if p = .quiet then false else dispAfter (laneWire n.val p t.start) t.rd } }
  if s.yok.state == .excluded && !isYokeLane n && !p.isOrdered then s
  else match p with
  | .blank | .fbk =>
    let s := emit (.lane n p t.start) (put t.special s)
    if t.skp = 0 then s else emit (.lane n .skp 0) s
  | .quiet => emit (.lane n .quiet 0) (put LaneTx.reset s)
  | p => emit (.lane n p t.start) (put (t.after p.length) s)

/-- What the transmitter of lane n sends again and again while it has nothing else to send (R290): TS1 from
DETECT to REVERSAL, TS2 in ENUMERATE and CHECK, IDLE elsewhere; none while it is off or idle, or its pattern
runs (R288, R300, R307). -/
def laneFill (n : Fin 25) (s : State) : Option LanePkt :=
  let l := laneAt n s
  if laneHeld n s || !l.txRuns then none
  else match l.state with
    | .off => none
    | .detect | .commaLock | .polarity | .reversal => some (.training false l.rate l.state.code)
    | .enumerate => some (.training true l.rate l.state.code)
    | .check => if l.patternDone then some (.training true l.rate l.state.code) else none
    | .ready | .down => some .idle
    | .loopback => if l.loopDepth = 1 then some .idle else none

/-- A lane takes up what it sends in its present state. -/
def laneSends (n : Fin 25) (s : State) : State :=
  match laneFill n s with
  | some p => sendLane n p s
  | none => s

/-- The lane goes to a state and sends what belongs to it. -/
def toState (n : Fin 25) (st : LaneState) (s : State) : State :=
  laneSends n (modLane n (fun l => { l with state := st, tsRun := 0 }) s)

/-- One symbol time of a transmitter that sends ordered sets of `len` symbols: whether a SKP ordered set
starts (R290, R311). -/
def LaneTx.tick (len : Nat) (t : LaneTx) : Bool × LaneTx :=
  if t.skp ≠ 0 then (false, if t.skp ≥ 3 then { t with since := 0, skp := 0 } else { t with skp := t.skp + 1 })
  else if t.since ≥ 1020 then (true, { t with skp := 1 })
  else (false, { t with since := t.since + 1, place := (t.place + 1) % len })

/-- The symbol a transmitter sends in a symbol time while it sends an ordered set again and again (R290, R311). -/
def LaneTx.now (l : List Sym) (t : LaneTx) : Sym :=
  if t.skp ≠ 0 then .k .skp else if t.since ≥ 1020 then .k .com else l.getD t.place (.k .com)

/-- One symbol time of lane n, which sends the ordered set p again and again. -/
def laneTick (n : Fin 25) (p : LanePkt) (s : State) : State :=
  let t := (laneAt n s).tx
  let x := t.tick p.length
  let rd := (t.now (p.symbols n.val)).after t.rd
  let s := modLane n (fun l => { l with tx := { x.2 with rd := rd } }) s
  if x.1 then emit (.lane n .skp 0) s else s

/-- Half bit times in 4 ns at a RATE code (R287); a symbol has 20. -/
def rateHalves (r : Nat) : Nat := if r = 0 then 10 else if r = 1 then 20 else 25

/-- Lane n over 4 ns in which it has nothing else to send. -/
def laneIdle (s : State) (n : Fin 25) : State :=
  match laneFill n s with
  | none => s
  | some p =>
    let l := laneAt n s
    let h := l.tx.halves + rateHalves l.rate
    let s := modLane n (fun l => { l with tx.halves := h % 20 }) s
    (List.range (h / 20)).foldl (fun s _ => laneTick n p s) s

end Sys2Proof.Machine
end

