-- ==== Sys2Proof/Machine/YokeOps.lean ====
section
/-!
DEFINITION. Operations of the Yoke: the line, the partner, the cover mask, messages (spec/17_yoke.md).
-/

namespace Sys2Proof.Machine

/-- Message kinds, the model's own numbers (table Yoke messages). -/
inductive YokeMsg where
  | trip | latch | rail | sig | shared | hello | handover | exclude | copy | snapshot
  deriving DecidableEq, Repr

/-- The number an emission carries for a message kind. -/
def YokeMsg.code : YokeMsg → Nat
  | .trip => 0 | .latch => 1 | .rail => 2 | .sig => 3 | .shared => 4 | .hello => 5 | .handover => 6
  | .exclude => 7 | .copy => 8 | .snapshot => 9

/-- The device is one of a yoked pair (R450). -/
def yoked (s : State) : Bool := s.yok.state != .solo

/-- Send a message on the yoke lane, if it is READY (R457). -/
def sendYoke (m : YokeMsg) (words : List Nat) (s : State) : State :=
  if yoked s && s.yok.lane.state == .ready then emit (.yoke m.code words) s else s

/-- An event of group YOKE (R476). -/
def yokeEvent (kind : Nat) (cls : Class) (s : State) : State :=
  raise 21 cls (kind + s.yok.state.code * 16 + s.yok.reason * 256 + s.lpl.composing.toNat * 65536) s

/-- A tile map entry as the 16 bits of R272. -/
def mapEntryBits (e : MapEntry) : Nat :=
  e.tile + bn e.present * 128 + bn e.mirrorX * 256 + bn e.mirrorY * 512 + bn e.teIn * 1024

/-- CRC-32C of the 96 active tile-map entries (R457). -/
def mapCrc (m : TileMap) : Word := Env.crc32c (m.toList.flatMap fun e => leBytes 2 (mapEntryBits e))

/-- The HELLO this device sends (R457, R579). -/
def ownHello (s : State) : Hello :=
  { serial := s.part.serial, pri := s.yok.pri, fwMajor := s.hif.fwMajor, fwMinor := s.hif.fwMinor,
    activeCrc := s.hdg.activeCrc, cmpCrc := s.cmp.protCrc, geoCrc := s.cmp.geoProtCrc,
    mapCrc := mapCrc s.lpl.map, digest := s.yok.digest, sentLat := s.yok.sentLat,
    active := s.hdg.active.isSome }

/-- Send HELLO (R457, R579). -/
def sendHello (s : State) : State :=
  let h := ownHello s
  sendYoke .hello
    [h.serial.toNat, bn h.pri, h.fwMajor.toNat, h.fwMinor.toNat, h.activeCrc.toNat, h.cmpCrc.toNat,
     h.geoCrc.toNat, h.mapCrc.toNat, h.digest.toNat, bn h.sentLat, bn h.active] s

/-- A request of the bring-up exchanges, which every yoked device sends on its own lanes (R456): any but SHORT_CLEAR
and LOOP. -/
def CtlReq.bringUp (q : CtlReq) : Bool := q.addr != 0x0020 && q.addr != 0x0024

/-- No request of another kind waits for an answer or for the VBI any longer (R455, R456). -/
def dropRequests (s : State) : State :=
  { s with link.lane := s.link.lane.map' fun (l : Lane) => { l with requests := l.requests.filter CtlReq.bringUp } }

/-- Release YOKE_ACT_N, which then rises (R450), and stop the outputs of R456; the device is then in a state
of its own. -/
def releaseLine (st : YokeState) (s : State) : State :=
  if s.yok.holding || s.yok.claim != .none then
    settleRails { dropDisc (dropRequests s) with
      yok.holding := false, yok.claim := .none, yok.line := true, yok.trip := false, yok.state := st
      hdg.discMid := false }
  else s

/-- Enter EXCLUDED (R465, R472): 1 INCOMPATIBLE, 2 STRAP, 3 MISMATCH, 4 DIGEST. -/
def exclude (reason : Nat) (s : State) : State :=
  let s := releaseLine .excluded s
  yokeEvent 4 .minor { s with
    yok.state := .excluded, yok.reason := reason, yok.locked := false, yok.following := false
    yok.leads := false }

/-- A follower leads, its leader's LATCHes having stopped (R459): it loses lock, and LATs it was sending go on. -/
def leadOn (s : State) : State :=
  { s with
    yok.following := false, yok.locked := false, yok.goodRun := 0, yok.badRun := 0
    yok.leads := s.yok.leads || (s.yok.following && s.yok.locked) }

/-- The partner is lost (R468): the holder goes on ALONE, a follower leads. -/
def partnerLost (s : State) : State :=
  if !yoked s || s.yok.lost then s
  else
    let s := yokeEvent 1 .major { s with yok.lost := true, yok.shared := none, yok.partner := none }
    if s.yok.holding then { s with yok.state := .alone } else leadOn s

/-- The partner holds YOKE_ACT_N, by its last LATCH (R457). -/
def partnerHolds (s : State) : Bool :=
  !s.yok.lost && match s.yok.partner with
    | some p => p.state == .active || p.state == .alone
    | none => false

/-- The partner holds YOKE_ACT_N, by its last LATCH or by the level of the line, which this device does not pull. -/
def heldByPartner (s : State) : Bool :=
  !s.yok.holding && (partnerHolds s || (s.yok.claim == .none && !s.yok.line))

/-- The partner is in a state, by its last LATCH. -/
def partnerIn (st : YokeState) (s : State) : Bool :=
  !s.yok.lost && match s.yok.partner with
    | some p => p.state == st
    | none => false

/-- One device holds the line and the other is in STANDBY (R460, R464). -/
def paired (s : State) : Bool :=
  yoked s && ((s.yok.holding && partnerIn .standby s) ||
    (!s.yok.holding && s.yok.state == .standby && partnerHolds s))

/-- Lanes of the non-holder that are READY: the partner's by its LATCH, or this device's. -/
def otherReady (s : State) : BitVec 24 :=
  if s.yok.holding then
    match s.yok.partner with
    | some p => p.ready
    | none => 0
  else BitVec.ofNat 24 (((List.finRange 24).map fun n =>
    bn ((s.link.lane[n]).state == .ready) * 2 ^ n.val).sum)

/-- The non-holder drives input A of the chains: it is the primary (table Pair wiring). -/
def otherOnA (s : State) : Bool := s.yok.pri != s.yok.holding

/-- A tile reported unequal copies, or copies missing from the non-holder's input while its lane is READY on
the non-holder (R464). -/
def tileMismatch (s : State) : Bool :=
  (s.yok.dup.some' fun d => d != 0) ||
    (List.finRange 96).any fun k => s.yok.missing[k] != 0 && (otherReady s).getLsbD (k.val / 4)

/-- Leave the pair's check for a reason (R465): the non-holder is excluded, the holder says so. -/
def excludeFor (reason : Nat) (s : State) : State :=
  if reason = 0 then s
  else if s.yok.holding then sendYoke .exclude [reason] s
  else exclude reason s

/-- Consecutive mismatch frames up to the frame latched last. -/
def runLatched (s : State) : Nat :=
  match s.yok.latched with
  | some true => bump 255 1 s.yok.runBefore
  | some false => 0
  | none => s.yok.runBefore

/-- YOK_CHECK.RUN: consecutive mismatch frames up to the last one compared. -/
def setRun (s : State) : State :=
  { s with yok.run := match s.yok.compared with
      | some true => bump 255 1 (runLatched s)
      | some false => 0
      | none => runLatched s }

/-- A mismatch frame (R464). -/
def mismatchFrame (s : State) : State :=
  yokeEvent 3 .minor (setRun { s with yok.frames := bump 65535 1 s.yok.frames })

/-- The reason MISMATCH_LIMIT gives (R465). -/
def mismatchReason (s : State) : Nat := if max (runLatched s) s.yok.run ≥ s.yok.mismatchLimit then 3 else 0

/-- A STATUS that follows the latch of a frame whose signatures agreed can still make it a mismatch frame
(R464). -/
def checkTiles (s : State) : State :=
  if s.yok.latched == some false && paired s && tileMismatch s then
    let s := mismatchFrame { s with yok.latched := some true }
    excludeFor (mismatchReason s) s
  else s

/-- The pair's check at a latch point (R464): the frame judged last is latched now, and the STATUS that follows is
its own. -/
def checkAtLatch (s : State) : State :=
  { s with
    yok.runBefore := runLatched s, yok.latched := s.yok.ownSig.map fun _ => s.yok.compared.getD false
    yok.compared := none, yok.ownSig := none, yok.dup := Tab.all 96 0, yok.missing := Tab.all 96 0 }

/-- PIX and LAT may be sent (tables Yoke states; R458, R459, R463). -/
def yokeSends (s : State) : Bool :=
  match s.yok.state with
  | .solo => true
  | .standby => s.yok.locked || s.yok.leads
  | _ => s.yok.holding

/-- YOKE_ACT_N while this device does not pull it: high or low as the partner has it (R450; log entry 132). -/
def idleLine (s : State) : State :=
  if !yoked s || s.yok.holding || s.yok.claim != .none then s
  else
    let f := freshBool s
    { f.2 with yok.line := f.1 }

/-- Lanes of the device. -/
def laneList (s : State) : List (Fin 24) :=
  (List.finRange 24).filter fun n => decide (n.val < laneCount s)

/-- An override reaches lane n (R288, R292). -/
def laneDriven (s : State) (n : Fin 24) : Bool := decide (n.val < laneCount s) && (s.link.lane[n]).txRuns

/-- The lanes an override reaches (R288, R292). -/
def drivenLanes (s : State) : List (Fin 24) := (List.finRange 24).filter (laneDriven s)

/-- The partner covers lane n (R467). -/
def coveredLane (s : State) (n : Fin 24) : Bool := yoked s && s.yok.cover.getLsbD n.val

/-- The states in which the core domain is supplied and SYS reset acts at once (R553). -/
def supplied (s : State) : Bool :=
  s.pwr.state == .run || s.pwr.state == .dim || s.pwr.state == .lightHold

/-- The Hedge's heartbeat is lost, as it is too while a self-fault holds (R33, R238). -/
def hedgeLost (s : State) : Bool :=
  supplied s && ((s.pwr.hedge && s.hdg.selfHeld) || !s.hdg.heartbeat)

/-- A cause outside the Hedge asks for FBK: the heartbeat is lost, DIE SHUTDOWN, STALL (R33, R281, R420). -/
def fbkHolds (s : State) : Bool := hedgeLost s || (s.pwr.core && (s.thm.shutdown || s.lpl.stall))

/-- What lane n carries in place of packets, while something overrides it (R227, R228, R303, R420, R467): FBK
for a lost heartbeat (R33), then the Hedge's BLANK before any FBK; none also where the partner covers the
lane. -/
def laneOverride (s : State) (n : Fin 24) : Option LanePkt :=
  if !laneDriven s n then none
  else if hedgeLost s then if coveredLane s n then none else some .fbk
  else if s.pwr.hedge && s.hdg.state == 1 then some .blank
  else if s.pwr.hedge && s.hdg.state == 2 then some .fbk
  else if (fbkHolds s || (s.link.lane[n]).fbkActive) && !coveredLane s n then some .fbk
  else none

/-- A cause of R467 puts lane n into electrical idle: the partner covers it and nothing of the Hedge's overrides
it. -/
def laneSilenced (s : State) (n : Fin 24) : Bool :=
  fbkHolds s && laneDriven s n && coveredLane s n && (laneOverride s n).isNone

/-- A cause outside the Hedge has come: the lanes carry what overrides them, except that a yoked device silences
the lanes its partner covers, and then releases the line (R33, R281, R420, R467). -/
def sendFbkAll (s : State) : State :=
  let s' := (List.finRange 24).foldl (fun s' n =>
    if laneSilenced s n then sendLane (Fin.castSucc n) .quiet s'
    else match laneOverride s n with
      | some p => sendLane (Fin.castSucc n) p s'
      | none => s') s
  if (List.finRange 24).any (laneSilenced s) then releaseLine .seek s' else s'

end Sys2Proof.Machine
end

