-- ==== Sys2Proof/Machine/HedgeOps.lean ====
section
/-!
DEFINITION. Operations of the Hedge: causes and their reactions, self-faults, echo windows, activation
of a block (spec/08_hedge.md).
-/

namespace Sys2Proof.Machine

/-- The override of the lanes that the Hedge's state asks for (R227). -/
def sendOverride (s : State) : State :=
  let p : Option LanePkt :=
    if s.hdg.state = 1 then some .blank else if s.hdg.state = 2 then some .fbk else none
  match p with
  | none => s
  | some p => (drivenLanes s).foldl (fun s n => sendLane (Fin.castSucc n) p s) s

/-- The Hedge's safe state has changed from that of `old`: the lanes follow the remaining causes (R228). -/
def followState (old s : State) : State :=
  if s.hdg.state ≠ old.hdg.state then sendOverride s else s

/-- DETAIL of a HEDGE event (R432, R581). -/
def hedgeDetail (causes kind : Nat) (frame : BitVec 16) : Nat :=
  causes + kind * 512 + frame.toNat * 65536

/-- Raise a cause (R226 to R228); one already active stays as it is. -/
def raiseCause (c : Fin 9) (frame : BitVec 16) (s : State) : State :=
  if (s.hdg.cause[c]).active then s
  else
    let r := Env.reaction s.hdg.env c.val
    let s := { s with hdg.cause := s.hdg.cause.upd c fun k => { k with
      active := true, latched := false, acked := false, raisedAt := s.now } }
    let s := raise 0 (if r % 4 = 0 then .minor else .major) (hedgeDetail (2 ^ c.val) 1 frame) s
    if r % 4 = 0 then s else settleRails (sendOverride s)

/-- LATCH applies to a cause (R230). -/
def Hedge.latches (h : Hedge) (c : Fin 9) : Bool :=
  (h.cause[c]).latched || Env.reaction h.env c.val / 8 % 2 == 1 ||
    decide ((h.cause[c]).releases ≥ 8) || c == cEcho

/-- A channel has met the condition of SAFE_IN (table Release of causes). -/
def SafeCh.clear (k : SafeCh) (needPass : Bool) (now : Nat) : Bool :=
  match k.highSince with
  | some t => decide (t + 20000000 ≤ now) && (k.passedSince || !needPass)
  | none => false

/-- The switches' feedbacks agree with the command (R230). -/
def fbAgrees (s : State) : Bool :=
  safeFb false s == !disconnected s && safeFb true s == !disconnected s

/-- The condition under which a cause is released (table Release of causes). -/
def releaseOk (c : Fin 9) (s : State) : Bool :=
  let h := s.hdg
  let n := Env.releaseFrames h.env
  match c.val with
  | 0 => !Env.safeinMode h.env ||
      (h.chA.clear (Env.tpEnable h.env) s.now && h.chB.clear (Env.tpEnable h.env) s.now)
  | 1 => decide (h.chA.passes ≥ 2) && decide (h.chB.passes ≥ 2)
  | 2 => decide (h.passRuns[0] ≥ n)
  | 3 => decide (h.passRuns[1] ≥ n)
  | 4 => decide (h.passRuns[2] ≥ n)
  | 5 => true
  | 6 => h.mapAgrees
  | 7 => decide (h.noClampRun ≥ n)
  | _ => decide (h.swA.passes ≥ 2) && decide (h.swB.passes ≥ 2) && fbAgrees s

/-- Release the causes that may be released, at a latch point (R230). -/
def releaseCauses (s : State) : State :=
  let ok (c : Fin 9) : Bool := (s.hdg.cause[c]).active && releaseOk c s &&
    (!s.hdg.latches c || (s.hdg.cause[c]).acked)
  let next := s.hdg.cause.mapI fun c k =>
    if ok c then { k with active := false, latched := false, releases := k.releases + 1 } else k
  settleRails { s with hdg.cause := next }

/-- A FAULT_ACK that names the Hedge group (R230). -/
def ackHedge (s : State) : State :=
  { s with hdg.cause := s.hdg.cause.map' fun k => { k with acked := k.active, releases := 0 } }

/-- LATs may go out as far as the Hedge is concerned (R227, R237, R246, R466). -/
def hedgeLets (s : State) : Bool :=
  s.hdg.state == 0 && !s.hdg.selfHeld && s.hdg.heartbeat &&
    ((s.hdg.puDoneA && s.hdg.puDoneB) || (s.hdg.cause[cOffFb]).active)

/-- End the SAFE_TEST under way (R250). -/
def endTest (st : BitVec 16) (r : Result) (s : State) : State :=
  match s.hdg.test with
  | none => s
  | some t =>
    let s := { s with hdg.test := none }
    if st = stSuccess then finish t.cmd st r s else complete t.cmd st 0 r s

/-- A self-fault (R238): the heartbeat stops, SAFE_OFF is released, the fault is recorded. -/
def selfFault (bit : Fin 6) (s : State) : State :=
  if !s.pwr.hedge then s
  else
    let s := dropDisc s
    let s := { s with
      hdg.selfRec := s.hdg.selfRec ||| BitVec.ofNat 6 (2 ^ bit.val)
      hdg.selfHeld := true
      hdg.discMid := false
      hdg.chA.window := false
      hdg.chB.window := false }
    let s := endTest 0x0131#16 0 s
    settleRails (releaseLine .seek (raise 1 .critical s.hdg.selfRec.toNat s))

/-- The NOTE that COMMISSION_N counts as low (R243): once, as soon as the Reeve is up. -/
def noteCommission (s : State) : State :=
  if s.hdg.commissionLow && !s.hdg.commNoted && s.pwr.core then
    raise 0 .note (hedgeDetail 0 5 0) { s with hdg.commNoted := true }
  else s

/-- A change to one safe-input channel. -/
def modSafe (second : Bool) (f : SafeCh → SafeCh) (s : State) : State :=
  if second then { s with hdg.chB := f s.hdg.chB } else { s with hdg.chA := f s.hdg.chA }

/-- One safe-input channel. -/
def safeCh (second : Bool) (s : State) : SafeCh := if second then s.hdg.chB else s.hdg.chA

/-- A request (R232): counted when it raises SAFE_IN. -/
def safeInRaise (s : State) : State :=
  if (s.hdg.cause[cSafeIn]).active || !Env.safeinMode s.hdg.env || s.hdg.active.isNone then s
  else
    raiseCause cSafeIn s.lpl.composing { s with hdg.requests := bump 255 1 s.hdg.requests }

/-- Evaluate both inputs as they read, when a block becomes active (R234). -/
def evalInputs (s : State) : State :=
  let low (k : SafeCh) : Bool := !k.level && !k.window
  if low s.hdg.chA || low s.hdg.chB then safeInRaise s else s

/-- Make a block active (R245, R246): every count of R222 to R224 starts again, and photometry copies the
zone maxima. -/
def activateBlock (e : Envelope) (crc : Word) (s : State) : State :=
  { s with
    hdg.active := some e
    hdg.commissioned := e != .uncommissioned
    hdg.activeCrc := crc
    hdg.refValid := s.hdg.refValid || e != .uncommissioned
    hdg.rejects := Tab.all 3 0
    hdg.clampRun := 0
    hdg.echo := s.hdg.echo.map' fun x => { x with misses := 0 }
    pho.zoneCopy := e }

/-- Discard the staged block. -/
def dropStaged (s : State) : State := { s with hdg.staged := none }

/-- The tile position that the window's block feeds from entry k = 4 * lane + slot, if its echo has not come
(R224). -/
def EchoWin.waits (w : EchoWin) (k : Nat) : Option Nat :=
  (List.range 96).find? fun t => Env.tile w.block t == some (k / 4, k % 4) && !w.got.getLsbD t

/-- An echo from entry k satisfies the oldest window with its number, for the position that the block of that
window names (R224). -/
def takeEcho (k : Nat) (seq : BitVec 16) (s : State) : State :=
  let note (w : EchoWin) : EchoWin := match w.waits k with
    | some t => { w with got := w.got ||| BitVec.ofNat 96 (2 ^ t) }
    | none => w
  match s.hdg.echoWins.findIdx? fun w => w.seq == seq && (w.waits k).isSome with
  | some i => { s with hdg.echoWins := s.hdg.echoWins.modify i note }
  | none => s

/-- Close the oldest echo window (R224, R577). -/
def closeWindow (s : State) : State :=
  match s.hdg.echoWins with
  | [] => s
  | w :: rest =>
    let miss (t : Nat) : Bool := w.expected.getLsbD t && !w.got.getLsbD t
    let e := s.hdg.echo.mapI fun t x =>
      if !w.expected.getLsbD t.val then x
      else if miss t.val then { misses := if w.counts then x.misses + 1 else x.misses, missed := true }
      else { misses := 0, missed := false }
    let s := { s with
      hdg.echoWins := rest
      hdg.echo := e
      hdg.echoBad := (List.range 96).any miss }
    let bad := (List.finRange 96).any fun t =>
      w.counts && miss t.val && w.floor.getLsbD t.val &&
        decide ((e[t]).misses ≥ Env.echoMiss s.hdg.env)
    if bad then raiseCause cEcho w.seq s else s

end Sys2Proof.Machine
end

