-- ==== Sys2Proof/Machine/Hedge.lean ====
section
/-!
DEFINITION. The Hedge's rows (spec/08_hedge.md): commissioning, SAFETY_COMMIT, SAFE_TEST, the safe inputs
and their test pulses, echoes, self-monitoring.
-/

namespace Sys2Proof.Machine

/-- Space and address of a SAFETY_COMMIT (R248). -/
def scBad (c : Cmd) (s : State) : Bool :=
  decide (c.f 8 0 2 ≥ 2) ||
  (c.f 8 0 2 == 0 &&
    (c.f 16 0 64 % 8 != 0 || (!c.b 8 2 && decide (c.f 16 0 64 + Env.blockBytes > grnSize)) ||
      (c.b 8 2 && s.hif.hostless)))

/-- A confirmation with a value (R245): what becomes of a CONFIRM command, or none if it is accepted and
waits. -/
def confirmBlock (value : Word) (cmd : Option Cmd) (s : State) : Option (BitVec 16) × State :=
  match s.hdg.staged with
  | none => (some 0x0133#16, s)
  | some b =>
    if value ≠ s.hdg.stagedCrc then
      (some 0x0132#16,
        raise 0 .minor (hedgeDetail 0 6 s.lpl.composing)
          { s with hdg.confirmFail := true, hdg.staged := none })
    else
      let old := match s.hdg.confirmed with
        | some k => k.cmds
        | none => []
      (none, { s with hdg.confirmed := some ⟨b, value, old ++ cmd.toList⟩ })

/-- SAFETY_COMMIT (R248, R249); its COMMIT bit is ignored. -/
def safetyBody : Body :=
  { check := fun c s => firstFail [(scBad c s, stField)]
    run := fun c s =>
      if c.f 8 0 2 = 0 then
        if s.hdg.selfHeld then complete c 0x0131#16 0 0 (dropStaged s)
        else askTransfer (cmdJob c (lineXfer (c.f 16 0 64) (c.b 8 2) Env.blockBytes 0 false
          Env.blockBytes Env.blockBytes 1) true) s
      else
        let s := { s with hdg.commitCrc := BitVec.ofNat 32 (c.f 24 0 32) }
        let r := confirmBlock (BitVec.ofNat 32 (c.f 24 0 32)) (some c) s
        match r.1 with
        | some st => complete c st 0 0 r.2
        | none => r.2 }

/-- The copy of a STAGE has ended well (R242, R249): its job has been dropped. -/
def stageCopied (j : DmaJob) (s : State) : State :=
  if s.hdg.selfHeld then complete j.cmd 0x0131#16 0 0 s
  else match Env.check j.buf (laneCount s) with
  | some (reason, offset) => complete j.cmd 0x0130#16 0 (resAt 16 reason ||| resAt 20 offset) s
  | none =>
    let crc := Env.crc32c j.buf
    complete j.cmd stSuccess 0 (resAt 16 crc.toNat ||| resAt 20 (Env.at' j.buf 4 4))
      { s with
        hdg.staged := if s.hdg.commissionLow then some j.buf else none
        hdg.stagedCrc := crc }

/-- Start a test pulse (R233): while the other channel reads low outside a window of its own, the test
fails. -/
def startPulse (second : Bool) (s : State) : State :=
  let o := safeCh (!second) s
  modSafe second (fun k => { k with
    window := true, pulseSampled := false, pulseFailed := !o.level && !o.window, pulseAt := s.now }) s

/-- Start a disconnect test of one switch (R236, R237). -/
def startDisc (second powerUp requested retry : Bool) (s : State) : State :=
  let t : DiscTest :=
    { second := second, asserted := true, opened := false, powerUp := powerUp,
      requested := requested, retry := retry }
  { s with hdg.disc := some t }

/-- A scheduled test pulse or disconnect test is under way (R233, R236): the disconnect test from the start of A's
half to the end of B's, unless a safe state with DISCONNECT has cut it short in between. -/
def testRuns (s : State) : Bool :=
  s.hdg.chA.window || s.hdg.chB.window || s.hdg.disc.isSome || (s.hdg.discMid && !disconnected s)

/-- Start what a waiting SAFE_TEST asked for, once no scheduled test is under way (R250). A disconnect test of a
device that has released YOKE_ACT_N since is a failed one (R456; log entry 137). -/
def beginTest (s : State) : State :=
  match s.hdg.test with
  | some t =>
    if t.test = 1 ∧ !drivesOff s then endTest 0x0138#16 0 s
    else if t.begun || testRuns s then s
    else
      let s : State := { s with hdg.test := some { t with begun := true, since := s.now } }
      if t.test = 0 then startPulse false s
      else if t.test = 1 then startDisc false false true false s
      else sendOverride s
  | none => s

/-- SAFE_TEST (R250). Only the holder runs a disconnect test (R466). -/
def safeTestBody : Body :=
  { check := fun c s =>
      firstFail
        [ (c.f 8 0 2 == 2 && !s.hdg.commissionLow, stState),
          (c.f 8 0 2 == 0 && (s.hdg.active.isNone || !Env.safeinMode s.hdg.env), stState),
          (c.f 8 0 2 == 1 && !drivesOff s, stState),
          (c.f 8 0 2 == 3, stField),
          (s.hdg.selfHeld, 0x0131#16),
          (s.hdg.test.isSome || (c.f 8 0 2 == 1 && disconnected s), 0x0139#16) ]
    run := fun c s =>
      let t : SafeTest :=
        { cmd := c, test := c.f 8 0 2, begun := false, passA := none, passB := none, since := s.now }
      beginTest { s with hdg.test := some t } }

/-- SAFETY_COMMIT. -/
def execSafetyCommit (src : Src) (d : Desc) (s : State) : Out :=
  .next (runRow 0x48 safetyBody src d s)

/-- SAFE_TEST. -/
def execSafeTest (src : Src) (d : Desc) (s : State) : Out := .next (runRow 0x49 safeTestBody src d s)

/-- A write of HDG_COMMIT_CRC (R245): read-only while the commissioning lock is set (R243). -/
def execHdgCommitCrcWrite (value : Word) (s : State) : Out :=
  .next (whenS (hostUp s && s.hdg.commissionLow)
    (fun s => (confirmBlock value none { s with hdg.commitCrc := value }).2) s)

/-- HDG_CNT_CLEAR.SAFE (R253). -/
def execHdgCntClearSafe (s : State) : Out :=
  .next (whenS (hostUp s)
    (fun s => { s with
      hdg.requests := 0, hdg.chA.failCount := 0, hdg.chB.failCount := 0, hdg.discFails := 0 }) s)

/-- HDG_CNT_CLEAR.COUNT (R253). -/
def execHdgCntClearCount (s : State) : Out :=
  .next (whenS (hostUp s) (fun s => { s with hdg.rejectedCnt := 0, hdg.clampFrameCnt := 0 }) s)

/-- ECHO_WINDOW_US after a latch point (R224). -/
def execEchoWindowExpiry (s : State) : Out := .next (whenS s.pwr.hedge closeWindow s)

/-- An edge on TE_IN: the echo of every PRESENT entry with TE_SRC = 1 (R278), with the number of the last
LAT. -/
def execTeInEdge (s : State) : Out :=
  .next (whenS s.pwr.core
    (fun s =>
      let s := { s with
        lpl.teWait := s.lpl.teWait.mapI fun k w => if (s.lpl.map[k]).teIn then none else w }
      (List.finRange 96).foldl
        (fun s k =>
          match s.lpl.lastTo[k] with
          | some seq =>
            if (s.lpl.map[k]).present && (s.lpl.map[k]).teIn then takeEcho k.val seq s
            else s
          | none => s) s) s)

/-- A safe input low outside its test window (R232, R233): a request; inside the other channel's window
it is also a failed test of that channel, and the SAFE_IN raised is latched. -/
def execSafeInRequest (second : Bool) (s : State) : Out :=
  .next (whenS (s.pwr.hedge && !(safeCh second s).window)
    (fun s =>
      let s := modSafe second (fun k => { k with
        level := false, highSince := none, passedSince := false }) s
      let s := safeInRaise s
      if (safeCh (!second) s).window then
        let s := modSafe (!second) (fun k => { k with pulseFailed := true }) s
        { s with hdg.cause := s.hdg.cause.upd cSafeIn fun k =>
          { k with latched := k.latched || k.active } }
      else s) s)

/-- A safe input returns high (R230). -/
def execSafeInHigh (second : Bool) (s : State) : Out :=
  .next (whenS s.pwr.hedge
    (modSafe second fun k => { k with
      level := true
      highSince := if k.highSince.isNone then some s.now else k.highSince }) s)

/-- A test pulse starts (R233), scheduled or asked for by SAFE_TEST (R250); scheduled ones wait while a
SAFE_TEST runs. -/
def execTestPulseStart (second : Bool) (s : State) : Out :=
  let mode := hedgeUp s && !s.hdg.selfHeld && Env.safeinMode s.hdg.env
  let due : Bool := match s.hdg.test with
    | none => Env.tpEnable s.hdg.env
    | some t => t.test == 0 && t.begun && second && t.passB.isNone
  .next (whenS (mode && due && !(safeCh second s).window) (startPulse second) s)

/-- The channel is sampled 150 µs into its pulse: a high sample is a failed test (R233). -/
def execTestPulseSample (second : Bool) (level : Bool) (s : State) : Out :=
  .next (whenS (s.pwr.hedge && (safeCh second s).window && !(safeCh second s).pulseSampled)
    (modSafe second fun k => { k with
      level := level, pulseSampled := true, pulseFailed := k.pulseFailed || level }) s)

/-- Count a judged pulse (R233). -/
def SafeCh.judge (k : SafeCh) (pass : Bool) : SafeCh :=
  { k with
    window := false
    lastPassed := pass
    fails := if pass then 0 else k.fails + 1
    passes := if pass then k.passes + 1 else 0
    passedSince := (k.passedSince || pass) && k.highSince.isSome
    failCount := if pass then k.failCount else bump 255 1 k.failCount }

/-- A judged pulse of a SAFE_TEST INPUTS (R250). -/
def testPulse (second pass : Bool) (s : State) : State :=
  match s.hdg.test with
  | none => s
  | some t =>
    if t.test ≠ 0 ∨ !t.begun then s
    else if !second then { s with hdg.test := some { t with passA := some pass } }
    else
      let a := t.passA.getD false
      endTest (if a && pass then stSuccess else 0x0138#16) (resAt 16 (bn a + 2 * bn pass)) s

/-- The test window closes and the pulse is judged (R233); a channel still low is a request (R232). -/
def execTestPulseEnd (second : Bool) (s : State) : Out :=
  .next (whenS (s.pwr.hedge && (safeCh second s).window)
    (fun s =>
      let k := safeCh second s
      let pass := k.pulseSampled && !k.pulseFailed
      let s := modSafe second (fun k => k.judge pass) s
      let s := if decide ((safeCh second s).fails ≥ 2) && Env.tpEnable s.hdg.env then
          raiseCause cSafeInTest s.lpl.composing s
        else s
      let s := testPulse second pass s
      let s := if !k.level then
          safeInRaise (modSafe second (fun k => { k with highSince := none, passedSince := false }) s)
        else s
      beginTest s) s)

/-- A self-fault (R238). -/
def execHedgeSelfFault (which : Fin 6) (s : State) : Out := .next (selfFault which s)

/-- The always-on domain has missed the heartbeat or the supply for 2 µs (R33): the lanes carry FBK. Without
a self-fault, whose own event has been raised, the Reeve records the fault in group HEDGE_SELF (R34). -/
def execHedgeHeartbeatLoss (s : State) : Out :=
  .next (whenS (decide (s.pwr.state = .run ∨ s.pwr.state = .dim ∨ s.pwr.state = .lightHold))
    (fun s =>
      let new := s.hdg.heartbeat && !s.hdg.selfHeld
      let s := sendFbkAll { s with hdg.heartbeat := false }
      if new then raise 1 .critical s.hdg.selfRec.toNat s else s) s)

/-- The CRC scan of the active block (R240). -/
def execHedgeCrcScan (good : Bool) (corrected : Bool) (s : State) : Out :=
  .next (whenS (hedgeUp s)
    (fun s =>
      let s := if corrected then raise 0 .note (hedgeDetail 0 4 0) s else s
      if good then s else selfFault 4 s) s)

/-- No confirmation within 10 s of staging (R245). -/
def execStagedBlockTimeout (s : State) : Out := .next (whenS s.pwr.hedge dropStaged s)

/-- COMMISSION_N counts as low (R243). -/
def execCommissionNLow (s : State) : Out :=
  .next (whenS (!s.hdg.commissionLow)
    (fun s => noteCommission { s with hdg.commissionLow := true }) s)

/-- A clock deviates by more than 5 % (R29); 0 core PLL, 1 lane PLL, 2 Ethernet PLL, 3 FIRC, 4 Hedge
oscillator. -/
def execClockDeviation (clock : Fin 5) (s : State) : Out :=
  let s := match clock.val with
    | 0 => { s with pwr.monCore := bump 255 1 s.pwr.monCore }
    | 1 => { s with pwr.monLane := bump 255 1 s.pwr.monLane }
    | 2 => { s with pwr.monEth := bump 255 1 s.pwr.monEth }
    | 3 => { s with pwr.monCore := bump 255 1 s.pwr.monCore }
    | _ => { s with pwr.monHedge := bump 255 1 s.pwr.monHedge }
  let s := raise 2 .major clock.val s
  .next (if clock.val = 4 then selfFault 0 s else s)

/-- No latch point in time (R281): STALL holds until SYS reset or POR. -/
def execFreezeStall (s : State) : Out :=
  .next (whenS (s.pwr.core && !s.lpl.stall && s.pwr.entry.isNone)
    (fun s =>
      let s := sendFbkAll (raise 5 .critical (6 + s.lpl.composing.toNat * 65536)
        { s with lpl.stall := true })
      releaseLine .seek s) s)

end Sys2Proof.Machine
end

