-- ==== Sys2Proof/Machine/Disconnect.lean ====
section
/-!
DEFINITION. The safe disconnect's tests (spec/08_hedge.md R235 to R237).
-/

namespace Sys2Proof.Machine

/-- Change one switch's record. -/
def modSwitch (second : Bool) (f : Switch → Switch) (s : State) : State :=
  if second then { s with hdg.swB := f s.hdg.swB } else { s with hdg.swA := f s.hdg.swA }

/-- RUN, DIM or LIGHT_HOLD (R236, R454). -/
def lit (s : State) : Bool :=
  s.pwr.state == .run || s.pwr.state == .dim || s.pwr.state == .lightHold

/-- A disconnect test is due (R236) or is the second half of a SAFE_TEST (R250), for which scheduled ones wait unless
they are under way; a device that does not hold the line records its partner's test (R466). -/
def execDisconnectTestStart (second : Bool) (s : State) : Out :=
  let free := hedgeUp s && lit s && !disconnected s && !s.hdg.selfHeld && s.hdg.disc.isNone
  let own : Bool := match s.hdg.test with
    | some t => t.test == 1 && t.begun && second && t.passA.isSome
    | none => false
  let waits : Bool := match s.hdg.test with
    | some t => t.begun || !second
    | none => false
  let due := (!drivesOff s || (Env.sdPeriod s.hdg.env != 0 && !waits)) && (!second || s.hdg.discMid)
  .next (whenS (free && (own || due))
    (fun s => startDisc second false own false
      { s with hdg.discMid := if own then s.hdg.discMid else !second }) s)

/-- The open limit of a test in 0.1 µs (R236, R237). -/
def openLimit (t : DiscTest) (s : State) : Nat :=
  if t.powerUp then 10000 else 10 * Env.sdOpen s.hdg.env

/-- The switch's feedback reads low (R236). An open time above 25.4 µs, the largest that OPEN_A and OPEN_B can
give, saturates there (R11; log entry 10). -/
def execDisconnectFeedbackLow (tenths : Fin 10001) (s : State) : Out :=
  .next (match s.hdg.disc with
    | none => s
    | some t =>
      if !t.asserted then s
      else
        let s := modSwitch t.second (fun w => { w with fb := false, openTime := min 254 tenths.val }) s
        let t' : DiscTest :=
          { t with asserted := false, opened := decide (tenths.val ≤ openLimit t s) }
        { s with hdg.disc := some t' })

/-- The switch has not opened in time: released, and the test fails (R236). -/
def execDisconnectOpenTimeout (s : State) : Out :=
  .next (match s.hdg.disc with
    | none => s
    | some t =>
      if !t.asserted then s
      else
        let t' : DiscTest := { t with asserted := false, opened := false }
        { modSwitch t.second (fun w => { w with openTime := 0xFF }) s with hdg.disc := some t' })

/-- Count a judged disconnect test (R236). -/
def Switch.judge (w : Switch) (pass high : Bool) (now : Nat) : Switch :=
  { w with
    fb := high
    awaitHigh := !high
    highAt := if high then some now else w.highAt
    lastPassed := pass
    fails := if pass then 0 else w.fails + 1
    passes := if pass then w.passes + 1 else 0 }

/-- The power-up test of one switch is done; the rails may start after both (R237, R371). -/
def powerUpDone (second : Bool) (s : State) : State :=
  let s := if second then { s with hdg.puDoneB := true } else { s with hdg.puDoneA := true }
  if s.hdg.puDoneA && s.hdg.puDoneB then allowRails s else s

/-- A test of a switch is to be repeated, or no longer (R236). -/
def setRetry (second b : Bool) (s : State) : State :=
  if second then { s with hdg.retryB := b } else { s with hdg.retryA := b }

/-- What a judged test of a SAFE_TEST DISCONNECT means (R250). -/
def testDisc (second pass : Bool) (s : State) : State :=
  match s.hdg.test with
  | none => s
  | some t =>
    if t.test ≠ 1 then s
    else if !second then { s with hdg.test := some { t with passA := some pass } }
    else
      let ok := t.passA.getD false && pass
      endTest (if ok then stSuccess else 0x0138#16)
        (resAt 16 s.hdg.swA.openTime ||| resAt 17 s.hdg.swB.openTime) s

/-- 20 µs after release the test is judged (R236, R237). -/
def execDisconnectReleaseCheck (high : Bool) (s : State) : Out :=
  .next (match s.hdg.disc with
    | none => s
    | some t =>
      if t.asserted then s
      else
        let pass := t.opened && high
        let s := modSwitch t.second (fun w => w.judge pass high s.now) { s with hdg.disc := none }
        let s := if pass then s else { s with hdg.discFails := bump 255 1 s.hdg.discFails }
        let w := if t.second then s.hdg.swB else s.hdg.swA
        if t.powerUp then
          let s := if pass then s else raiseCause cOffFb s.lpl.composing s
          powerUpDone t.second s
        else
          let s := if w.fails ≥ 2 then raiseCause cOffFb s.lpl.composing s else s
          let s := if pass || t.retry then s else setRetry t.second true s
          if t.requested then testDisc t.second pass s else beginTest s)

/-- A failed test, scheduled or requested, is repeated (R236, R250): A's first where both wait. -/
def execDisconnectTestRetry (s : State) : Out :=
  let free := hedgeUp s && lit s && !disconnected s && !s.hdg.selfHeld && s.hdg.disc.isNone &&
    s.hdg.test.isNone
  let second := !s.hdg.retryA
  .next (whenS (free && (s.hdg.retryA || s.hdg.retryB))
    (fun s => startDisc second false false true (setRetry second false s)) s)

/-- The power-up test of one switch (R237); with the line held by the partner, as its level tells, it is skipped
(R466), and the switches, which nobody opens, conduct (R235). -/
def execPowerupDisconnectTest (second : Bool) (s : State) : Out :=
  let done := if second then s.hdg.puDoneB else s.hdg.puDoneA
  .next (whenS (s.pwr.hedge && !done && s.hdg.disc.isNone && !s.hdg.selfHeld)
    (fun s =>
      let s := idleLine { s with pwr.hedgeOsc := true, pwr.clkHedge := true }
      if drivesOff s then startDisc second true false false s
      else if !s.yok.line then
        powerUpDone true (powerUpDone false { s with hdg.swA.fb := true, hdg.swB.fb := true })
      else s) s)

/-- A feedback reads low with its switch not commanded open (R236). -/
def execSafeFbUnexpectedOpen (second : Bool) (s : State) : Out :=
  let testing : Bool := match s.hdg.disc with
    | some t => t.second == second
    | none => false
  .next (whenS (s.pwr.hedge && !disconnected s && !testing)
    (fun s => raiseCause cOffFb s.lpl.composing (modSwitch second (fun w => { w with fb := false }) s)) s)

end Sys2Proof.Machine
end

