-- ==== Sys2Proof/Machine/HealthOps.lean ====
section
/-!
DEFINITION. Operations of pixel health: records, the override list, samples, counts, a replaced tile
(spec/12_pixel_health.md).
-/

namespace Sys2Proof.Machine

/-- An event of group PIXEL_HEALTH (R432, R581). -/
def healthEvent (kind arg : Nat) (cls : Class) (s : State) : State :=
  raise 11 cls (arg + kind * 2 ^ 24) s

/-- The record of a pixel in the committed plane (R193). -/
def recordOf (p : Nat) (s : State) : Nat := leNat (grnBytes (s.pho.planeBase + 8 * p) 8 s)

/-- HEALTH of a pixel's record. -/
def recHealth (p : Nat) (s : State) : Nat := recordOf p s / 2 ^ 48 % 16

/-- AGEING of a pixel's record. -/
def recAgeing (p : Nat) (s : State) : Nat := recordOf p s / 2 ^ 32 % 65536

/-- The state pixel health holds for a pixel: its latest change, else the record (R206, R349). -/
def healthNow (p : Nat) (s : State) : Nat :=
  match s.pxh.heldChanges.reverse.find? fun c => c.1 == p with
  | some c => c.2
  | none => match s.pho.overrides.reverse.find? fun o => o.pixel == p with
    | some o => o.state
    | none => recHealth p s

/-- Pixels at or above WORN_LIMIT (R355, PXH_WORN_CNT): by the AGEING of the records of the committed plane, whatever
wrote it (log entry 111). -/
def wornPixels (s : State) : Nat :=
  (List.range Pipe.pixels).countP fun p => decide (s.pxh.wornLimit ≤ recAgeing p s)

/-- The pixels of a tile position, in raster order. -/
def tilePixels (t : Nat) : List Nat :=
  (List.range 12288).map fun k =>
    (96 * (t / 12) + k / 128) * Pipe.arrayW + 128 * (t % 12) + k % 128

/-- Dead pixels of a position (R348, R582). -/
def tileDead (t : Nat) (s : State) : Nat := (tilePixels t).countP fun p => Pipe.dead (recHealth p s)

/-- SUSPECT pixels of a position (R582). -/
def tileSuspect (t : Nat) (s : State) : Nat := (tilePixels t).countP fun p => recHealth p s == 1

/-- The entry of a pixel in the health store. -/
def storeGet (l : List (Nat × HealthEntry)) (p : Nat) : HealthEntry :=
  ((l.find? fun e => e.1 == p).map Prod.snd).getD .zero

/-- Put an entry, rising by pixel; a cleared one is not listed. -/
def storePut (l : List (Nat × HealthEntry)) (p : Nat) (e : HealthEntry) : List (Nat × HealthEntry) :=
  (l.filter fun x => decide (x.1 < p)) ++ (if e = .zero then [] else [(p, e)]) ++
    l.filter fun x => decide (p < x.1)

/-- Change a pixel's entry. -/
def modEntry (p : Nat) (f : HealthEntry → HealthEntry) (s : State) : State :=
  { s with pxh.store := storePut s.pxh.store p (f (storeGet s.pxh.store p)) }

/-- A health store entry fails its parity: it is cleared, counted and reported (R342). -/
def storeParity (p : Nat) (s : State) : State :=
  healthEvent 3 p .note (modEntry p (fun _ => .zero) { s with pxh.parity := bump 65535 1 s.pxh.parity })

/-- Pixels of a position counted in PXH_TILEt_AUX.UNMEAS (R345). -/
def tileUnmeas (t : Nat) (s : State) : Nat :=
  s.pxh.store.countP fun e => e.2.counted && Pipe.tileOf (e.1 % Pipe.arrayW) (e.1 / Pipe.arrayW) == t

/-- A health store entry as R343 lays it out. -/
def HealthEntry.word (e : HealthEntry) : Nat :=
  e.vfAvg + e.vfRef * 2 ^ 16 + e.bad * 2 ^ 32 + e.good * 2 ^ 36 + bn e.short * 2 ^ 40 +
    e.samples * 2 ^ 41 + e.unmeas * 2 ^ 45

/-- Check a position's dead count against DEAD_TILE_LIMIT (R348); not while the counts are being
rebuilt (R582). -/
def checkDead (t : Nat) (s : State) : State :=
  if s.pxh.recount then s
  else
    let was := (s.pxh.tile.at' t TileHealth.reset).over'
    let now := decide (tileDead t s > s.pxh.deadTileLimit)
    let s := { s with pxh.tile := s.pxh.tile.updN t fun x => { x with over' := now } }
    if now && !was then healthEvent 6 t .minor s else s

/-- Check every position. -/
def checkDeadAll (s : State) : State := (List.range 96).foldl (fun s t => checkDead t s) s

/-- The device composes with its leader's health overrides (R462). -/
def followsShared (s : State) : Bool := s.yok.following && s.yok.shared.isSome

/-- Add an entry to the override list, and its write into the record (R206, R208). -/
def pushOverride (p st : Nat) (s : State) : State :=
  let s := { s with
    pho.overrides := s.pho.overrides ++ [{ pixel := p, state := st, taken := false }]
    pxh.writes := s.pxh.writes ++ [{ pixel := p, health := some st, ageing := none }] }
  if s.pho.overrides.length ≥ 512 ∧ !s.pho.ovrFull then
    raise 10 .note 3 { s with pho.ovrFull := true }
  else s

/-- Move held changes into the list while it has room (R206, R349). -/
def feedHeld : Nat → State → State
  | 0, s => s
  | n + 1, s =>
    match s.pxh.heldChanges with
    | [] => s
    | c :: r =>
      if s.pho.overrides.length ≥ 512 then s
      else feedHeld n (pushOverride c.1 c.2 { s with pxh.heldChanges := r })

/-- A change enters the override list, or is held while the list is full (R206, R349). -/
def enterChange (p st : Nat) (s : State) : State :=
  if s.pho.overrides.length ≥ 512 ∨ !s.pxh.heldChanges.isEmpty then
    { s with
      pxh.heldChanges := s.pxh.heldChanges ++ [(p, st)]
      pxh.held := bump 65535 1 s.pxh.held }
  else pushOverride p st s

/-- A transition into OPEN or SHORT raises its NOTE (R348). -/
def noteDead (p was st : Nat) (s : State) : State :=
  if was = st then s
  else if st = 2 then healthEvent 1 p .note s
  else if st = 3 then healthEvent 2 p .note s else s

/-- Pixel health changes a pixel's state (R206, R348, R349). -/
def changeHealth (p st : Nat) (s : State) : State :=
  if followsShared s then s
  else enterChange p st (noteDead p (healthNow p s) st s)

/-- A sample's class (R344): none unmeasured, some none good, some (some short). -/
def sampleClass (r : PixelRec) (h : Health) : Option (Option Bool) :=
  if r.state = 3 then none
  else if r.state = 2 ∨ r.vf ≤ h.vfShort then some (some true)
  else if r.state = 1 ∨ r.vf ≥ h.vfOpen then some (some false)
  else some none

/-- The transition a measured sample makes (R346): the new state, if it changes, and the entry. -/
def transition (now : Nat) (tileShort : Bool) (bad : Option Bool) (h : Health) (e : HealthEntry) :
    Option Nat × HealthEntry :=
  if now = 0 then
    match bad with
    | none => (none, e)
    | some k =>
      if tileShort then (some 3, { e with bad := 0, good := 0 })
      else (some 1, { e with bad := 1, good := 0, short := k })
  else if now = 1 then
    match bad with
    | none =>
      if e.good + 1 ≥ h.clear then (some 0, { e with bad := 0, good := 0 })
      else (none, { e with good := e.good + 1 })
    | some k =>
      if tileShort then (some 3, { e with bad := 0, good := 0 })
      else if k ≠ e.short then (none, { e with bad := 1, good := 0, short := k })
      else if e.bad + 1 ≥ h.confirm then
        (some (if k then 3 else 2), { e with bad := 0, good := 0 })
      else (none, { e with bad := e.bad + 1, good := 0 })
  else (none, e)

/-- R354: the entry after a good sample of `vf` mV at a temperature. VF_REF follows from VF_AVG as stored. -/
def average (vf : Nat) (t tRef : Int) (ageing : Nat) (h : Health) (e : HealthEntry) : HealthEntry :=
  let vfc : Int := (vf : Int) - roundEven (h.vfTc * (t - tRef)) 256
  let avg : Int := if e.samples = 0 then vfc * 16
    else (e.vfAvg : Int) + roundEven (vfc * 16 - (e.vfAvg : Int)) 64
  let n := min 15 (e.samples + 1)
  let avg := satU 16 avg
  let ref : Int := if h.ageGain ≠ 0 ∧ e.vfRef = 0 ∧ n = 15 then
      max 1 ((avg : Int) - roundEven (((ageing : Int) - 0x8000) * 4096) h.ageGain)
    else e.vfRef
  { e with vfAvg := avg, vfRef := satU 16 ref, samples := n }

/-- R355: the AGEING a good sample writes, if it writes one. -/
def nextAgeing (ageing : Nat) (h : Health) (e : HealthEntry) : Option Nat :=
  if h.ageGain = 0 ∨ e.vfRef = 0 then none
  else
    let target := sat 0x8000 0xFFFF
      (0x8000 + roundEven (((e.vfAvg : Int) - (e.vfRef : Int)) * h.ageGain) 4096)
    if target ≥ (ageing : Int) + 2 then some (ageing + 1)
    else if target + 2 ≤ (ageing : Int) then some (ageing - 1)
    else none

/-- One record of a TEL PIXEL from a PRESENT, INCLUDED slot (R344 to R346, R354, R355). -/
def pixelSample (p : Nat) (r : PixelRec) (s : State) : State :=
  let h := s.pxh
  let e := storeGet h.store p
  match sampleClass r h with
  | none =>
    let n := min 255 (e.unmeas + 1)
    modEntry p (fun e => { e with unmeas := n, counted := e.counted || decide (h.unmeasReports ≤ n) }) s
  | some bad =>
    let x := transition (healthNow p s) (r.state == 2) bad h { e with unmeas := 0, counted := false }
    let s := modEntry p (fun _ => x.2) s
    let s := match x.1 with
      | some st => changeHealth p st s
      | none => s
    if bad.isSome then s
    else
      let t := Pipe.tileOf (p % Pipe.arrayW) (p / Pipe.arrayW)
      let bin := s.pho.bins.at' (recordOf p s / 2 ^ 52 % 16) Bin.reset
      let s := if s.pho.subst.at' t false then s
        else
          let temp := if s.pho.noTemp then bin.tKnee else s.pho.temp.at' t 0
          modEntry p (average r.vf temp bin.tRef (recAgeing p s) h) s
      match nextAgeing (recAgeing p s) h (storeGet s.pxh.store p) with
      | some a =>
        if followsShared s then s
        else { s with pxh.writes := s.pxh.writes ++ [{ pixel := p, health := none, ageing := some a }] }
      | none => s

/-- Array pixel of tile pixel (c, r) under a map entry (R273). -/
def tileToArray (e : MapEntry) (r c : Nat) : Nat :=
  let c := if e.mirrorX then 127 - c else c
  let r := if e.mirrorY then 95 - r else r
  (96 * (e.tile / 12) + r) * Pipe.arrayW + 128 * (e.tile % 12) + c

/-- Tile pixel r′ × 128 + c′ of an array pixel under a map entry (R273). -/
def arrayToTile (e : MapEntry) (p : Nat) : Nat :=
  let c := p % Pipe.arrayW % 128
  let r := p / Pipe.arrayW % 96
  (if e.mirrorY then 95 - r else r) * 128 + (if e.mirrorX then 127 - c else c)

/-- The PRESENT entry of a map that names a position. -/
def entryOf (m : TileMap) (t : Nat) : Option (Fin 96) :=
  (List.finRange 96).find? fun k => (m[k]).present && (m[k]).tile == t

/-- Slot k is INCLUDED on a READY lane. -/
def slotIncluded (k : Nat) (s : State) : Bool :=
  let l := s.link.lane.at' (k / 4) Lane.reset
  l.state == .ready && l.included.getLsbD (k % 4)

/-- The lowest cause that darkens a position: 0 none, 1 unmapped, 2 link, 3 rail (R350). -/
def darkCause (t : Nat) (s : State) : Nat :=
  match entryOf s.lpl.mapNext t with
  | none => 1
  | some k =>
    if !slotIncluded k.val s then 2
    else
      match s.rail.rail.toList[s.rail.map[k]]? with
      | some r => if !railGood r then 3 else 0
      | none => 0

/-- Positions of a lane that leaves READY go dark until a VBI clears them (R350, R351). -/
def laneDark (n : Fin 25) (s : State) : State :=
  let hit (t : Nat) : Bool := match entryOf s.lpl.mapNext t with
    | some k => k.val / 4 == n.val
    | none => false
  { s with pxh.tile := s.pxh.tile.mapI fun t x =>
      if hit t.val then { x with dark := true, reason := 2 } else x }

/-- The tile-dark mask at a VBI (R350, R351), and the reasons. -/
def takeDark (s : State) : State :=
  { s with pxh.tile := s.pxh.tile.mapI fun t x =>
      let c := darkCause t.val s
      if c ≠ 0 then { x with dark := true, reason := c }
      else if x.resetting then { x with dark := true, reason := 0 }
      else { x with dark := false, reason := 0 } }

/-- A position's bit in the tile-dark mask as it reads: set while a cause holds, cleared at a VBI (R350,
R351). -/
def isDark (t : Nat) (s : State) : Bool :=
  (s.pxh.tile.at' t TileHealth.reset).dark || darkCause t s != 0

/-- DARK_REASON as it reads: the lowest cause that holds, or the one that set the bit (R350). -/
def darkReason (t : Nat) (s : State) : Nat :=
  let c := darkCause t s
  if c ≠ 0 then c else (s.pxh.tile.at' t TileHealth.reset).reason

/-- The tile-dark mask as photometry takes it at a VBI. -/
def darkMask (s : State) : BitVec 96 :=
  BitVec.ofNat 96 (((List.range 96).map fun t =>
    bn (s.pxh.tile.at' t TileHealth.reset).dark * 2 ^ t).sum)

/-- The planes a write of HEALTH or AGEING goes to: the committed one, and during a switch the new one
(R214). -/
def writePlanes (s : State) : List Nat :=
  s.pho.planeBase :: match s.pho.plane with
    | some (.copying b) => [b]
    | some (.copied b) => [b]
    | _ => []

/-- A background write is queued again (R208): behind the writes of other pixels, but before the later ones of its own,
so that the last change of a pixel stands (log entry 145). -/
def requeue (w : WriteBack) (s : State) : State :=
  let other (x : WriteBack) : Bool := x.pixel != w.pixel
  { s with pxh.writes := s.pxh.writes.takeWhile other ++ w :: s.pxh.writes.dropWhile other }

/-- Write HEALTH or AGEING into a record of one plane (R208): none if its word is uncorrectable, which
only its owner heals (R122; log entry 12). -/
def writeField (base : Nat) (w : WriteBack) (s : State) : Option State × State :=
  let a := base + 8 * w.pixel
  let x := readWord .pipeline (a / 8) .none s
  if x.1 then (none, x.2)
  else
    let v := leNat (grnBytes a 8 x.2)
    let v := match w.health with
      | some h => v - v / 2 ^ 48 % 16 * 2 ^ 48 + h % 16 * 2 ^ 48
      | none => v
    let v := match w.ageing with
      | some g => v - v / 2 ^ 32 % 65536 * 2 ^ 32 + g % 65536 * 2 ^ 32
      | none => v
    let s := storeBytes a (leBytes 8 v) x.2
    (some s, s)

/-- A new serial on an INCLUDED slot (R352): the position keeps its dark bit until its records are
reset; a zero recorded serial is replaced. -/
def checkSerial (k : Fin 96) (s : State) : State :=
  let e := s.lpl.map[k]
  let serial := (s.link.slot[k]).serial
  let old := (s.pxh.tile.at' e.tile TileHealth.reset).serial
  if !e.present || serial = 0 || serial = old then s
  else if old = 0 then
    { s with pxh.tile := s.pxh.tile.updN e.tile fun x => { x with serial := serial } }
  else
    { s with pxh.tile := s.pxh.tile.updN e.tile fun x => { x with resetting := true, dark := true } }

/-- A tile's OPEN and SHORT counts (R353). -/
def tileCounts (t : Nat) (n : Nat) (s : State) : State :=
  let own := (tilePixels t).countP fun p => healthNow p s == 2 || healthNow p s == 3
  let x := s.pxh.tile.at' t TileHealth.reset
  let run := if n > own then min 192 (x.unlocRun + 1) else 0
  let hit := run == 192
  let s := { s with pxh.tile := s.pxh.tile.updN t fun x => { x with
    unlocRun := run, unlocated := (x.unlocated || hit) && decide (n > own) } }
  if hit && !x.unlocated then healthEvent 4 t .note s else s

end Sys2Proof.Machine
end

