-- ==== Sys2Proof/Machine/Rail.lean ====
section
/-!
DEFINITION. The rail rows: the switching cycle, the comparator, the faults, the sequences, RAIL_SET and
the die bridge's effect on the rails (spec/13_tile_rails.md, spec/01_architecture.md R20, R21).
-/

namespace Sys2Proof.Machine

/-- The target of the next cycle (R364, R369, R378): ramps in soft start and soft stop, slews in REGULATE
and HOLD. -/
def Rail.nextTarget (r : Rail) : Nat :=
  let cycles := max 1 (r.entry.ssTime * 50)
  let ramp (moved : Int) : Nat := (roundEven ((r.vsEntry : Int) * cycles + moved) cycles).toNat
  match r.state with
  | .softStart => min r.vSet (ramp (r.vSet * (r.rampAt + 1) : Nat))
  | .softStop => ramp (-(r.vSet * (r.rampAt + 1) : Nat))
  | _ =>
    if r.target < r.vSet then min r.vSet (r.target + r.slew)
    else max r.vSet (r.target - r.slew)

/-- Clamp to a range from 0. -/
def clamp0 (top : Nat) (x : Int) : Nat := (sat 0 top x).toNat

/-- One switching cycle of the loop (R364, R365); >> rounds towards minus infinity. -/
def Rail.cycle (r : Rail) (vs : Nat) (i : Int) : Rail :=
  let r := { r with vs := vs, i := min 65535 i.toNat, cycleFault := none }
  if !r.switching then r
  else
    let t := r.nextTarget
    let ev : Int := (t : Int) - vs
    let integ := clamp0 r.iLim ((r.integ : Int) + ((r.entry.ki : Int) * ev) / 4096)
    let iref := clamp0 r.iLim (((r.entry.kp : Int) * ev) / 4096 + integ)
    let duty := clamp0 62259 ((r.duty : Int) + ((r.entry.kc : Int) * ((iref : Int) - i)) / 65536)
    { r with
      target := t, rampAt := r.rampAt + 1, integ := integ, duty := duty,
      limit := iref == r.iLim }

/-- A RAIL_CHECK's two test cycles, 1,000 switching cycles apart (R541): whether a comparator trips at
half the sensed current is free. -/
def railTestCycle (r : Fin 8) (s : State) : State :=
  match s.tst.job with
  | none => s
  | some j =>
    if j.test ≠ 5 ∨ j.target ≠ r.val then s
    else match j.phase with
    | .rail none _ =>
      let f := freshBool s
      { f.2 with tst.job := some { j with phase := .rail (some f.1) 0 } }
    | .rail (some ok) n =>
      if n + 1 < 1000 then { s with tst.job := some { j with phase := .rail (some ok) (n + 1) } }
      else
        let f := freshBool s
        let pass := ok && f.1
        endRun (if pass then stSuccess else 0x01D0#16) 0 (bn pass + 2 * bn ok + 4 * bn f.1) f.2
    | _ => s

/-- The current in mA of a sense voltage in steps of 50 µV within ±102.4 mV (R364), less the trim in use, which is
what the shorted inputs measured (R422, R425; log entry 148): RSENSE is in 0.1 mΩ. -/
def Rail.milliamps (r : Rail) (trim sense : Int) : Int :=
  roundEven ((sat (-2048) 2048 sense - trim) * 500) r.entry.rsense

/-- A switching cycle of rail r (R364): the sample of VS in steps of 2 mV, that of the sense voltage in steps
of 50 µV, to which the rail loop applies its trim (R425). -/
def execRailSwitchingCycle (r : Fin 8) (vs : BitVec 15) (sense : Int) (s : State) : Out :=
  .next (whenS (s.pwr.analogue && (s.rail.rail[r]).entry.used)
    (fun s => railTestCycle r
      (checkRailJobs (modRail r (fun x => x.cycle (2 * vs.toNat) (x.milliamps s.thm.trims.rail[r] sense)) s))) s)

/-- A rail of a row is powered and in a set of states. -/
def railIn (r : Fin 8) (p : Rail → Bool) (s : State) : Bool :=
  s.pwr.analogue && (s.rail.rail[r]).entry.used && p (s.rail.rail[r])

/-- The comparator ends the on-time (R365). -/
def execRailComparatorTrip (r : Fin 8) (s : State) : Out :=
  .next (whenS (railIn r Rail.switching s) (modRail r fun x => { x with limit := true }) s)

/-- A rail's fault of a row is detected: the rail, or the rail before a fault it has recorded in this cycle, is in
a set of states (R375). -/
def faultIn (r : Fin 8) (p : Rail → Bool) (s : State) : Bool := railIn r (fun x => p x.before) s

/-- SHORT (R375). -/
def execRailShortFault (r : Fin 8) (s : State) : Out :=
  .next (whenS (faultIn r Rail.switching s) (railFault r 1) s)

/-- OVERVOLTAGE. -/
def execRailOvervoltageFault (r : Fin 8) (s : State) : Out :=
  .next (whenS (faultIn r Rail.switching s) (railFault r 2) s)

/-- SENSE. -/
def execRailSenseFault (r : Fin 8) (s : State) : Out :=
  .next (whenS (faultIn r Rail.switching s) (railFault r 3) s)

/-- OVERCURRENT: LIMIT held for OC_TIME. -/
def execRailOvercurrentTimeout (r : Fin 8) (s : State) : Out :=
  .next (whenS (faultIn r (fun x => x.switching && x.limit) s) (railFault r 4) s)

/-- Less than `span` ns have passed since a moment. -/
def within (at' : Option Nat) (span : Nat) (s : State) : Bool :=
  match at' with
  | some t => decide (s.now < t + span)
  | none => false

/-- Undervoltage is blanked (R375): from a disconnect test until 20 µs after its feedback reads high again, and
for 100 µs after a V_SET change begins. -/
def underBlanked (r : Fin 8) (s : State) : Bool :=
  s.hdg.disc.isSome || s.hdg.swA.awaitHigh || s.hdg.swB.awaitHigh || within s.hdg.swA.highAt 20000 s ||
    within s.hdg.swB.highAt 20000 s || within (s.rail.rail[r]).changedAt 100000 s

/-- UNDERVOLTAGE, in REGULATE. -/
def execRailUndervoltageTimeout (r : Fin 8) (s : State) : Out :=
  .next (whenS (faultIn r (fun x => x.state == .regulate) s && !underBlanked r s) (railFault r 5) s)

/-- SOFT_START: no PGOOD in time. -/
def execRailSoftStartTimeout (r : Fin 8) (s : State) : Out :=
  .next (whenS (faultIn r (fun x => x.state == .softStart) s) (railFault r 6) s)

/-- PGOOD (R369): the ramp has ended and VS has stayed in its band. -/
def execRailPgood (r : Fin 8) (s : State) : Out :=
  .next (whenS (railIn r (fun x => x.state == .softStart && x.target == x.vSet && x.inBand) s)
    (fun s => settleRails (modRail r (fun x => { x with state := .regulate, pgood := true }) s)) s)

/-- A soft stop ends (R368). -/
def execRailSoftStopEnd (r : Fin 8) (s : State) : Out :=
  .next (whenS (railIn r (fun x => x.state == .softStop) s)
    (fun s => settleRails (modRail r (fun x => x.stop .off .none) s)) s)

/-- The next sequenced rail starts or stops (R372). -/
def execRailSeqDelayExpiry (r : Fin 8) (s : State) : Out :=
  .next (match s.rail.seqs.find? fun q => seqReady q r s with
    | none => s
    | some q => settleRails (if q.start then startRail r s else stopRail r s))

/-- 100 ms in FAULT_WAIT: the rail soft-starts from its measured VS (R376). -/
def execRailRestartTimeout (r : Fin 8) (s : State) : Out :=
  .next (whenS (railIn r (fun x => x.state == .faultWait) s)
    (fun s => settleRails (startRail r
      (modRail r (fun x => { x with restarts := min 15 (x.restarts + 1) }) s))) s)

/-- One second in REGULATE (R376). -/
def execRailRestartCountClear (r : Fin 8) (s : State) : Out :=
  .next (whenS (railIn r (fun x => x.state == .regulate) s)
    (modRail r fun x => { x with restarts := 0 }) s)

/-- RAIL_CNT_CLEAR.FAULTS (R379). -/
def execRailCntClearFaults (s : State) : Out :=
  .next (whenS (hostUp s)
    (fun s => { s with rail.rail := s.rail.rail.map' fun r =>
      { r with nShort := 0, nOver := 0, nUnder := 0, nOther := 0 } }) s)

/-- R377: a field of a RAIL_SET out of range. -/
def railBad (c : Cmd) (s : State) : Bool :=
  let m : BitVec 8 := BitVec.ofNat 8 (c.f 8 0 8)
  let l := (maskRails m).map fun k => s.rail.rail[k]
  let v := c.f 12 0 16
  let i := c.f 14 0 16
  m == 0 || l.any (fun r => !r.entry.used) || c.f 9 0 2 == 3 || c.f 16 0 8 == 0 ||
    (c.f 9 0 2 == 0 && l.any fun r =>
      decide (v < r.entry.vMin ∨ v > r.entry.vMax ∨ i < 100 ∨ i > r.entry.iMax))

/-- ENABLE of one rail (R378). -/
def enableRail (k : Fin 8) (s : State) : State :=
  modRail k (fun r =>
    let r := { r with en := true }
    if r.state = .latched then { r.stop .off .none with restarts := 0 }
    -- from a soft stop the target ramps up from where it is
    else if r.state = .softStop then { r with state := .softStart, vsEntry := r.target, rampAt := 0 }
    else r) s

/-- RAIL_SET (R377, R378). -/
def railBody : Body :=
  { check := fun c s => firstFail [(railBad c s, stField)]
    run := fun c s =>
      let m : BitVec 8 := BitVec.ofNat 8 (c.f 8 0 8)
      let l := maskRails m
      let old := s.rail.jobs.filter fun j => (j.mask &&& m) != 0
      let s := { s with rail.jobs := s.rail.jobs.filter fun j => (j.mask &&& m) == 0 }
      let s := old.foldl (fun s j => complete j.cmd stInterrupted 0 (railResult s) s) s
      let job : RailJob := { cmd := c, mask := m, action := c.f 9 0 2, fault := false }
      match c.f 9 0 2 with
      | 0 =>
        let s := l.foldl (fun s k => modRail k (fun r => { r with
          vSet := c.f 12 0 16, iLim := c.f 14 0 16, slew := c.f 16 0 8
          changedAt := if r.vSet ≠ c.f 12 0 16 then some s.now else r.changedAt }) s) s
        checkRailJobs { s with rail.jobs := s.rail.jobs ++ [job] }
      | 1 =>
        let s := l.foldl (fun s k => enableRail k (dropSeq k s)) s
        let idle := m &&& railMask s fun r => r.state == .off || r.state == .waitSeq
        let s := settleRails (if c.b 9 2 then seqStart m idle s
          else (maskRails idle).foldl (fun s k => startRail k s) s)
        if l.any fun k => (s.rail.rail[k]).state == .suspended &&
            ((s.rail.rail[k]).suspend == .disconnect || (s.rail.rail[k]).suspend == .standby) then
          complete c 0x0161#16 0 (railResult s) s
        else checkRailJobs { s with rail.jobs := s.rail.jobs ++ [job] }
      | _ =>
        let s := l.foldl (fun s k => modRail k (fun r => { r with en := false }) s) s
        let s := if c.b 9 2 then seqStop m s
          else l.foldl (fun s k => stopRail k (dropSeq k s)) s
        settleRails { s with rail.jobs := s.rail.jobs ++ [job] } }

/-- RAIL_SET. -/
def execRailSet (src : Src) (d : Desc) (s : State) : Out := .next (runRow 0x30 railBody src d s)

/-- A transfer over the die bridge fails its CRC twice (R20). -/
def execDieBridgeTransferFail (kind : Byte) (s : State) : Out := .next (raise 4 .note kind.toNat s)

end Sys2Proof.Machine
end

