-- ==== Sys2Proof/Machine/LaneOps.lean ====
section
/-!
DEFINITION. Operations on the lanes: bring-up, retrain, enumeration, control requests
(spec/10_xieri_lanes.md, spec/11_xieri_protocol.md). Lane 24 is the yoke lane (R293, R457).
-/

namespace Sys2Proof.Machine

/-- Code of a reason (XLP_LANEn_STATUS.REASON). -/
def LaneReason.code : LaneReason → Nat
  | .none => 0 | .noPartner => 1 | .commaLock => 2 | .polarity => 3 | .reversal => 4 | .miswired => 5
  | .noTile => 6 | .check => 7 | .unused => 8 | .badEntry => 9

/-- An event of the lane's group (R432, R581). -/
def laneEvent (n : Fin 25) (kind reason : Nat) (cls : Class) (s : State) : State :=
  if isYokeLane n then raise 22 cls reason s
  else raise (14 + n.val / 4) cls (n.val + reason * 256 + kind * 4096) s

/-- An event of the protocol's group. -/
def linkEvent (n : Fin 25) (slot kind : Nat) (cls : Class) (s : State) : State :=
  raise 20 cls (n.val + slot * 32 + kind * 256) s

/-- A lane that ran a loopback is READY again, or DOWN (R536). -/
def loopLaneBack (n : Fin 25) (s : State) : State :=
  match s.tst.job with
  | some j =>
    match j.phase with
    | .bringUp e pass =>
      if (j.test = 0 ∧ j.target = n.val) ∨ (j.test = 1 ∧ isYokeLane n) then
        endRun (if pass then stSuccess else 0x01D0#16) e (bn pass) s
      else s
    | _ => s
  | none => s

/-- The requests that a lane's leaving READY does not end (R331): those that are no bring-up exchange go on being
repeated until the third repeat has failed. -/
def Lane.kept (l : Lane) : List CtlReq := l.requests.filter fun q => !q.bringUp

/-- The lane enters DOWN (R296, R299, R300); the yoke lane's DOWN loses the partner (R468). -/
def enterDown (n : Fin 25) (why : LaneReason) (s : State) : State :=
  let s := laneSends n (modLane n (fun l => { l with
    state := .down, reason := why, asking := none, requests := l.kept, assigned := 0, included := 0 }) s)
  let s := laneEvent n 5 why.code .major s
  let s := if isYokeLane n then partnerLost s else s
  loopLaneBack n s

/-- Lanes of the port of lane n. -/
def portLanes (n : Fin 25) : List (Fin 25) :=
  (List.finRange 25).filter fun k => decide (k.val / 4 = n.val / 4) && decide (k.val < 24)

/-- The lane's state is past DETECT in the table Bring-up states (R298); LOOPBACK is no state of it (log
entry 8). -/
def Lane.pastDetect (l : Lane) : Bool :=
  match l.state with
  | .off | .detect | .down | .loopback => false
  | _ => true

/-- One bit of a port mask. -/
def portBit (n : Fin 25) : BitVec 6 := BitVec.ofNat 6 (2 ^ (n.val / 4))

/-- A cold bring-up finds the orientation of the port afresh, unless another lane of the port is past
DETECT (R298, R301; log entry 8). -/
def freshOrientation (n : Fin 25) (s : State) : State :=
  if isYokeLane n || (portLanes n).any fun k => k != n && (laneAt k s).pastDetect then s
  else
    { s with
      link.mirror := (s.link.mirror &&& ~~~ portBit n) ||| (s.link.expected &&& portBit n)
      link.flipped := s.link.flipped &&& ~~~ portBit n }

/-- A lane that leaves READY takes no further part in the scan-out under way: it joins the first one that
starts after it is READY again (R304). -/
def leaveScan (n : Fin 25) (s : State) : State :=
  { s with
    lpl.served := s.lpl.served.mapI fun k b => b && decide (k.val / 4 ≠ n.val)
    lpl.pos := s.lpl.pos.mapI fun m p => if m.val = n.val then none else p }

/-- The rate of lane n in DIM (R390): DIM_RATE, raised to MIN_RATE, and never above the rate it had before. -/
def dimCap (d : DimState) (n : Fin 24) (l : Lane) : Nat :=
  let before := d.savedRates[n]
  if d.rate = 3 then before else min before (max d.rate l.entry.minRate)

/-- The rate a cold bring-up starts at (R301): the board table's, in DIM never above the lane's DIM rate (R390). -/
def coldRate (n : Fin 25) (s : State) : Nat :=
  let r := (laneAt n s).entry.rate
  if h : n.val < 24 then
    match s.pwr.dim with
    | some d => min r (dimCap d ⟨n.val, h⟩ s.link.lane[n.val])
    | none => r
  else r

/-- A cold bring-up begins: orientation, polarity and rate afresh (R298, R301; log entry 8). -/
def coldStart (n : Fin 25) (s : State) : State :=
  let r := coldRate n s
  modLane n (fun l => { l with
    rxInvert := false, targetRate := r, rateDowns := 0 }) (freshOrientation n s)

/-- The lane enters DETECT (R295, R296, R301): at the start of a bring-up, and after a failed attempt, which
keeps orientation, polarity and rate. -/
def enterDetect (n : Fin 25) (warm : Bool) (attempts : Nat) (s : State) : State :=
  let s := laneDark n (leaveScan n (if warm || attempts != 0 then s else coldStart n s))
  laneSends n (modLane n (fun l => { l with
    state := .detect
    reason := .none
    warm := warm
    attempts := attempts
    rate := l.targetRate
    leftAt := if l.state = .off ∨ l.state = .ready then s.now else l.leftAt
    tsRun := 0, asking := none, answers := [], checkFails := 0, patternDone := false, reported := 0
    checkBad := false, assigned := 0, included := 0, requests := l.kept, loop := none, nextLen := none }) s)

/-- A failed attempt (R296). -/
def attemptFailed (n : Fin 25) (why : LaneReason) (s : State) : State :=
  let a := (laneAt n s).attempts + 1
  if a ≥ 3 then enterDown n why (modLane n (fun l => { l with attempts := 3 }) s)
  else enterDetect n (laneAt n s).warm a s

/-- Control traffic waits: the lane is READY and a scan-out runs (R331). -/
def ctlWaits (n : Fin 25) (s : State) : Bool := (laneAt n s).state == .ready && s.lpl.scanning

/-- When a control packet of `len` symbols that starts after those under way ends (R287, R331). -/
def ctlEnd (n : Fin 25) (len : Nat) (s : State) : Nat :=
  let l := laneAt n s
  max s.now l.ctlBusy + (80 * len + rateHalves l.rate - 1) / rateHalves l.rate

/-- A control packet may start (R331): no scan-out runs on a READY lane, and in a VBI it ends before the VBI does,
which is taken to last VBI_NS (log entry 134). -/
def ctlNow (n : Fin 25) (len : Nat) (s : State) : Bool :=
  !ctlWaits n s && ((laneAt n s).state != .ready || !s.lpl.inVbi ||
    decide (ctlEnd n len s ≤ s.lpl.lastLatch + s.lpl.timing.vbi))

/-- Send a control packet; on a lane in OFF or DOWN nothing stands on the wire. -/
def sendReq (n : Fin 25) (p : LanePkt) (s : State) : State :=
  let l := laneAt n s
  if l.state == .off || l.state == .down then s
  else sendLane n p (modLane n (fun l => { l with ctlBusy := ctlEnd n p.length s }) s)

/-- A request is followed up: not one to ALL, nor HELLO (R317, R331). -/
def CtlReq.followed (q : CtlReq) : Bool := q.slot != 6 && q.addr != 0x000C

/-- The packet of a request. -/
def CtlReq.packet (q : CtlReq) : LanePkt :=
  if q.write then .cfg q.slot q.addr q.data q.match' q.seq else .rdq q.slot q.addr q.seq

/-- Send a CFG or an RDQ, or keep it for the next VBI (R331); but for the bring-up exchanges only a device that holds
YOKE_ACT_N sends any (R337, R456). -/
def sendCtl (n : Fin 25) (slot : Nat) (write : Bool) (addr data match' : Nat) (s : State) : State :=
  let q : CtlReq :=
    { slot := slot, write := write, addr := addr, data := BitVec.ofNat 32 data
      match' := BitVec.ofNat 32 match', seq := (laneAt n s).ctlSeq, repeats := 0, sent := false }
  if !q.bringUp && !drivesOff s then s
  else
    let now := ctlNow n q.packet.length s
    let s := if now then sendReq n q.packet s else s
    modLane n (fun l => { l with
      ctlSeq := l.ctlSeq + 1
      requests := if now && !q.followed then l.requests else l.requests ++ [{ q with sent := now }] }) s

/-- A request that waited for the VBI is sent, if it fits. -/
def flushReq (n : Fin 25) (s : State) (q : CtlReq) : State :=
  if !ctlNow n q.packet.length s then s
  else sendReq n q.packet (modLane n (fun l => { l with
    requests := if q.followed then l.requests.map fun x => if x = q then { x with sent := true } else x
      else l.requests.erase q }) s)

/-- The control traffic of a lane that waited for the VBI (R331). -/
def flushCtl (s : State) (n : Fin 25) : State :=
  ((laneAt n s).requests.filter fun q => !q.sent).foldl (flushReq n) s

/-- Ask for a slot (R317). -/
def askSlot (n : Fin 25) (k : Nat) (s : State) : State :=
  sendCtl n 7 false 0x000C 0 0 (modLane n (fun l => { l with asking := some k, answers := [] }) s)

/-- The ASSIGN under way is given up: its acknowledgement assigns nothing (R299, R317). -/
def dropAssign (n : Fin 25) (s : State) : State :=
  modLane n (fun l => { l with
    asking := none, answers := [], requests := l.requests.filter fun q => q.addr != 0x0010 }) s

/-- Start the check pattern (R300, R332). -/
def enterCheck (n : Fin 25) (s : State) : State :=
  let s := modLane n (fun l => { l with
    state := .check, patternDone := false, reported := 0, checkBad := false, asking := none }) s
  let warm := (laneAt n s).warm
  let s := if isYokeLane n then s
    else sendCtl n 6 true 0x0018 (patternChars (if warm then 16384 else 131072)) 0 s
  sendLane n (.pattern (patternChars (if warm then 16384 else 131072))) s

/-- Enumeration starts, or on the yoke lane the check (R295, R457). -/
def enterEnumerate (n : Fin 25) (s : State) : State :=
  if isYokeLane n then enterCheck n s
  else askSlot n 0 (toState n .enumerate (modLane n (fun l => { l with assigned := 0 }) s))

/-- Enumeration ends with a chain length (R299). -/
def endEnumerate (n : Fin 25) (len : Nat) (s : State) : State :=
  let s := dropAssign n (modLane n (fun l => { l with chainLen := len }) s)
  if len = 0 then enterDown n .noTile s else enterCheck n s

/-- A slot becomes INCLUDED: its tile sensor is stale until a report comes, and its serial is
compared (R318, R352, R410). -/
def includeSlot (n : Fin 24) (k : Fin 4) (s : State) : State :=
  let e := (s.lpl.map.at' (4 * n.val + k.val) MapEntry.reset)
  let s := modLane (Fin.castSucc n) (fun l => { l with
    included := l.included ||| BitVec.ofNat 4 (2 ^ k.val) }) s
  let s := if h : 4 * n.val + k.val < 96 then checkSerial ⟨4 * n.val + k.val, h⟩ s else s
  if e.present then
    { s with thm.tile := s.thm.tile.updN e.tile fun t => { t with
      stale := true, fresh := false, sampled := false } }
  else s

/-- The yoke lane reaches READY (R457, R458): an event of its group, of class NOTE (log entry 135); DELAY is measured,
a number of 600 MHz cycles that the wiring decides, at most 1 µs (log entry 136); and HELLO goes out. -/
def yokeReady (s : State) : State :=
  let f := freshBits 10 s
  let ns := (roundEven ((min 600 f.1.toNat * 5 : Nat) : Int) 3).toNat
  sendHello (raise 22 .note 0 { f.2 with yok.greet := true, yok.delayNs := ns })

/-- The lane reaches READY (R295, R304, R318). -/
def enterReady (n : Fin 25) (s : State) : State :=
  let s := toState n .ready (modLane n (fun l => { l with
    reason := .none, attempts := 0, fbkActive := false }) s)
  let s := if h : n.val < 24 then
      ((List.finRange 4).filter fun k => (laneAt n s).assigned.getLsbD k.val).foldl
        (fun s k => includeSlot ⟨n.val, h⟩ k s) s
    else yokeReady s
  loopLaneBack n s

/-- Judge the check (R300). -/
def judgeCheck (n : Fin 25) (s : State) : State :=
  let l := laneAt n s
  if !l.checkBad then enterReady n s
  else if l.checkFails = 0 then enterCheck n (modLane n (fun l => { l with checkFails := 1 }) s)
  else if l.rate > l.entry.minRate then
    laneEvent n 2 0 .minor (toState n .commaLock (modLane n (fun l => { l with
      rate := l.rate - 1, targetRate := l.rate - 1, rateDowns := min 3 (l.rateDowns + 1), checkFails := 0
      assigned := 0, requests := l.kept }) s))
  else enterDown n .check s

/-- Every answered slot has reported its CHECK_ERR. -/
def Lane.allReported (l : Lane) : Bool := (List.range l.chainLen).all fun k => l.reported.getLsbD k

/-- A retrain from READY (R302, R319, R328): causes 1 to 6 of R581. -/
def retrain (n : Fin 25) (cause : Nat) (s : State) : State :=
  let s := modLane n (fun l => { l with
    retrains := bump 65535 1 l.retrains, silent := cause == 6 }) s
  enterDetect n true 0 (laneEvent n 1 cause .minor s)

/-- Start a lane when its PLL has locked (R288, R294, R295). -/
def startLane (n : Fin 25) (warm : Bool) (s : State) : State :=
  let l := laneAt n s
  if laneHeld n s then s
  else if !l.entry.used then
    modLane n (fun l => { l with
      state := .off, reason := if l.reason = .badEntry then .badEntry else .unused }) s
  else if l.state = .off then enterDetect n warm 0 s
  else s

/-- Start every lane (R295). -/
def startLanes (warm : Bool) (s : State) : State :=
  (List.finRange 25).foldl (fun s n => startLane n warm s) s

/-- Every lane goes to OFF without training (R306); a lane held in DOWN stays there. -/
def lanesOff (s : State) : State :=
  (List.finRange 25).foldl
    (fun s n =>
      if laneHeld n s then s
      else modLane n (fun l => { l with
        state := .off, fbkActive := false, asking := none, requests := l.kept, assigned := 0
        included := 0, loop := none, tx := LaneTx.reset }) s) s

/-- A slot with the number of a map entry k = 4 * lane + slot. -/
def slotOf (k : Fin 96) : Fin 25 × Nat := (⟨k.val / 4, by omega⟩, k.val % 4)

/-- Change the record of a slot. -/
def modSlot (k : Nat) (f : SlotInfo → SlotInfo) (s : State) : State :=
  { s with link.slot := s.link.slot.updN k f }

end Sys2Proof.Machine
end

