-- ==== Sys2Proof/Machine/Lanes.lean ====
section
/-!
DEFINITION. The lane rows (spec/10_xieri_lanes.md): bring-up, retrain, slow retrain, loopbacks.
-/

namespace Sys2Proof.Machine

/-- The lane of a row is in a state. -/
def laneIs (n : Fin 25) (st : LaneState) (s : State) : Bool := (laneAt n s).state == st

/-- A receiver has detected a signal (R295, R305). -/
def execLaneSignalDetect (n : Fin 25) (s : State) : Out :=
  let l := laneAt n s
  .next (if l.state = .detect then toState n .commaLock s
    else if l.state = .down ∧ l.reason = .noPartner ∧ !laneHeld n s then enterDetect n false 0 s
    else s)

/-- Three aligned COM (R295). -/
def execLaneCommaLock (n : Fin 25) (s : State) : Out :=
  .next (whenS (laneIs n .commaLock s)
    (toState n .polarity) s)

/-- The port of lane n is mirrored against its crossbar (R298). -/
def flipPort (n : Fin 25) (s : State) : State :=
  let s := { s with
    link.mirror := s.link.mirror ^^^ portBit n
    link.flipped := s.link.flipped ||| portBit n }
  let s := laneEvent n 4 0 .note s
  (portLanes n).foldl
    (fun s k =>
      if (laneAt k s).pastDetect then
        let s := if (laneAt k s).state = .ready then laneDark k (leaveScan k s) else s
        toState k .commaLock (modLane k (fun l => { l with
          leftAt := if l.state = .ready then s.now else l.leftAt
          rxInvert := false, asking := none, answers := [], checkFails := 0, patternDone := false
          reported := 0, checkBad := false, assigned := 0, included := 0, requests := l.kept
          nextLen := none }) s)
      else s) s

/-- A training set read in POLARITY (R297). -/
def inPolarity (n : Fin 25) (ident : Byte) (s : State) : State :=
  let l := laneAt n s
  if ident = 0xB5 ∨ ident = 0xBA then
    if l.rxInvert then attemptFailed n .polarity s
    else modLane n (fun l => { l with rxInvert := true, tsRun := 0 }) s
  else if ident ≠ 0x4A then modLane n (fun l => { l with tsRun := 0 }) s
  else if l.tsRun + 1 < 8 then modLane n (fun l => { l with tsRun := l.tsRun + 1 }) s
  else if isYokeLane n then enterEnumerate n s
  else toState n .reversal s

/-- A training set read in REVERSAL (R298). -/
def inReversal (n : Fin 25) (ident lane : Byte) (s : State) : State :=
  let l := laneAt n s
  if ident ≠ 0x4A then modLane n (fun l => { l with tsRun := 0 }) s
  else if lane = 0xFF then s
  else if lane.toNat = n.val then
    if l.tsRun + 1 < 8 then modLane n (fun l => { l with tsRun := l.tsRun + 1 }) s
    else enterEnumerate n s
  else if lane.toNat = 4 * (n.val / 4) + 3 - n.val % 4 ∧ (s.link.flipped &&& portBit n) = 0 then
    flipPort n s
  else attemptFailed n .miswired s

/-- A training set arrives (R290, R297, R298); one with a wrong CHK is ignored, an inverted one too (log entry
105). -/
def execLaneTrainingSetReceived (n : Fin 25) (ident lane rate state chk : Byte) (s : State) : Out :=
  let ok := chk == ident ^^^ lane ^^^ rate ^^^ state
  .next (whenS ok
    (fun s => match (laneAt n s).state with
      | .polarity => inPolarity n ident s
      | .reversal => inReversal n ident lane s
      | _ => s) s)

/-- A bring-up state times out (R295, R296); in LOOPBACK the receiver has not reached COM alignment (R308). -/
def execLaneStateTimeout (n : Fin 25) (s : State) : Out :=
  .next (match (laneAt n s).state with
    | .detect => enterDown n .noPartner s
    | .commaLock => attemptFailed n .commaLock s
    | .polarity => attemptFailed n .polarity s
    | .reversal => attemptFailed n .reversal s
    | .enumerate => endEnumerate n ((laneAt n s).asking.getD 0) s
    | .check => judgeCheck n (modLane n (fun l => { l with checkBad := true }) s)
    | .loopback => modLane n (fun l => { l with loop := l.loop.map fun x => { x with noAlign := true } }) s
    | _ => s)

/-- The HELLO is repeated (R317). -/
def execEnumerateHelloRepeat (n : Fin 24) (s : State) : Out :=
  let m := Fin.castSucc n
  .next (match (laneAt m s).asking with
    | some _ => if ctlWaits m s then s else sendCtl m 7 false 0x000C 0 0 s
    | none => s)

/-- A slot has not answered (R299); one asked in service is left for the next second (R305). -/
def execEnumerateSlotTimeout (n : Fin 24) (s : State) : Out :=
  let m := Fin.castSucc n
  .next (match (laneAt m s).asking with
    | none => s
    | some k =>
      if (laneAt m s).state = .enumerate then endEnumerate m k s
      else dropAssign m s)

/-- The check pattern ends (R300, R332): the device reads every tile's CHECK_ERR. -/
def execCheckPatternEnd (n : Fin 25) (errors : BitVec 32) (s : State) : Out :=
  .next (whenS (laneIs n .check s && !(laneAt n s).patternDone)
    (fun s =>
      let s := laneSends n (modLane n (fun l => { l with
        patternDone := true, checkBad := errors != 0, loopErr := errors.toNat }) s)
      if isYokeLane n then judgeCheck n s
      else (List.range (laneAt n s).chainLen).foldl
        (fun s k => sendCtl n k false 0x001C 0 0 s) s) s)

/-- A tile has not reported (R300): the chain ends before it. -/
def execCheckReportTimeout (n : Fin 24) (s : State) : Out :=
  let m := Fin.castSucc n
  .next (whenS (laneIs m .check s && (laneAt m s).patternDone && !(laneAt m s).allReported)
    (fun s =>
      let l := laneAt m s
      let len := ((List.range l.chainLen).find? fun k => !l.reported.getLsbD k).getD l.chainLen
      let s := modLane m (fun l => { l with
        chainLen := len, requests := []
        assigned := l.assigned &&& BitVec.ofNat 4 (2 ^ len - 1) }) s
      if len = 0 then enterDown m .noTile s else judgeCheck m s) s)

/-- Loss of signal (R302). -/
def execLaneLossOfSignal (n : Fin 25) (s : State) : Out :=
  .next (whenS (laneIs n .ready s)
    (fun s => retrain n 1 (modLane n (fun l => { l with los := bump 255 1 l.los }) s)) s)

/-- Count errors of a lane (R289, XLP_LANEn_ERR). -/
def countErrors (n : Fin 25) (e : CodeErrors) (s : State) : State :=
  modLane n (fun l => { l with
    codeErr := bump 65535 e.violations l.codeErr, dispErr := bump 65535 e.otherDisparity l.dispErr }) s

/-- The receiver of a lane runs: in every state but OFF, and not on a lane held in DOWN (R288, R305). -/
def rxRuns (n : Fin 25) (s : State) : Bool := (laneAt n s).state != .off && !laneHeld n s

/-- Four or more errors in 16 symbols (R302); a symbol is counted once (log entry 104). -/
def execLaneErrorBurst (n : Fin 25) (e : CodeErrors) (s : State) : Out :=
  .next (whenS (laneIs n .ready s && decide (e.violations ≥ 4))
    (fun s => retrain n 2 (countErrors n e s)) s)

/-- COM at a new alignment (R302). -/
def execLaneNewAlignment (n : Fin 25) (s : State) : Out :=
  .next (whenS (laneIs n .ready s)
    (fun s => retrain n 3 (modLane n (fun l => { l with realign := bump 255 1 l.realign }) s)) s)

/-- A 1 ms error window ends (R289, R302): its errors are counted in every state whose receiver runs, and
force a retrain in READY; ERR_RETRAIN 0 never does (R293). -/
def execLaneErrorWindow (n : Fin 25) (e : CodeErrors) (s : State) : Out :=
  .next (whenS (rxRuns n s)
    (fun s =>
      let s := countErrors n e s
      let k := (laneAt n s).entry.errRetrain
      if laneIs n .ready s ∧ k ≠ 0 ∧ e.violations > k then retrain n 4 s else s) s)

/-- A lane has been out of READY for 2 ms (R303, R467). -/
def execLaneFbkTimeout (n : Fin 24) (s : State) : Out :=
  let m := Fin.castSucc n
  let l := laneAt m s
  let silent : Bool := match l.loop with
    | some x => x.depth == 2 || x.depth == 3
    | none => false
  .next (whenS (l.state != .ready && l.state != .off && !laneHeld m s && !silent)
    (fun s =>
      let s := modLane m (fun l => { l with fbkActive := true }) s
      if s.hdg.state = 1 then sendLane m .blank s
      else if yoked s && s.yok.cover.getLsbD n.val then
        releaseLine .seek (sendLane m .quiet s)
      else sendLane m .fbk s) s)

/-- Every second: a DOWN lane tries again, a short READY chain asks its first unanswered slot, in the next VBI
where a scan-out runs (R305, R331). -/
def execLaneSlowRetrain (n : Fin 25) (s : State) : Out :=
  let l := laneAt n s
  .next (if l.state = .down then
      if laneHeld n s then s else enterDetect n false 0 s
    else if l.state = .ready ∧ !isYokeLane n ∧ l.chainLen < presentOn s.lpl.map n.val ∧
        l.asking.isNone then
      askSlot n l.chainLen s
    else s)

/-- A rail has reached regulation: its lanes in DOWN start at once (R576). -/
def execRailGoodLaneRestart (r : Fin 8) (s : State) : Out :=
  let onRail (n : Fin 25) : Bool := (List.range 4).any fun k => s.rail.map.at' (4 * n.val + k) 15 == r.val
  let takes (n : Fin 25) : Bool :=
    let l := laneAt n s
    l.state == .down && (l.reason == .noPartner || l.reason == .noTile) && !laneHeld n s &&
      !isYokeLane n && onRail n
  .next (whenS ((s.rail.rail[r]).en && (s.rail.rail[r]).inBand)
    (fun s => ((List.finRange 25).filter takes).foldl (fun s n => enterDetect n false 0 s) s) s)

/-- XLP_CNT_CLEAR.EVENTS (R309). -/
def execXlpCntClearEvents (s : State) : Out :=
  .next (whenS (hostUp s)
    (fun s => { s with link.lane := s.link.lane.map' fun l =>
      { l with realign := 0, los := 0, retrains := 0 } }) s)

/-- XLP_CNT_CLEAR.ERR (R309). -/
def execXlpCntClearErr (s : State) : Out :=
  .next (whenS (hostUp s)
    (fun s => { s with link.lane := s.link.lane.map' fun l => { l with codeErr := 0, dispErr := 0 } }) s)

/-- A loopback leaves READY (R307, R536): depth 4 first writes LOOP to its slot; depth 1 drives IDLE, depth 2
nothing, 3 and 4 the pattern. -/
def enterLoop (n : Fin 25) (depth slot count : Nat) (s : State) : State :=
  let s := modLane n (fun l => { l with
    state := .loopback, leftAt := s.now, loop := some ⟨depth, slot, count, false⟩, loopDepth := depth
    loopErr := 0, loopPass := false, included := 0, requests := [] }) s
  let s := if depth = 4 then sendCtl n slot true 0x0024 1 0 s else s
  if depth = 1 then laneSends n s
  else if depth = 2 then sendLane n .quiet s
  else sendLane n (.pattern (patternChars count)) s

/-- A loopback has sent its symbols (R307, R308): judged, and the lane makes a warm bring-up. -/
def execLoopbackPatternEnd (n : Fin 25) (errors : BitVec 32) (s : State) : Out :=
  .next (whenS (laneIs n .loopback s)
    (fun s =>
      let aligned : Bool := match (laneAt n s).loop with
        | some x => !x.noAlign
        | none => true
      let pass := aligned && errors == 0
      let s := modLane n (fun l => { l with loopPass := pass, loopErr := errors.toNat }) s
      let s := match s.tst.job with
        | some j =>
          if j.phase = .pattern then
            { s with tst.job := some { j with phase := .bringUp errors.toNat pass } }
          else s
        | none => s
      enterDetect n true 0 s) s)

end Sys2Proof.Machine
end

