-- ==== Sys2Proof/Machine/Health.lean ====
section
/-!
DEFINITION. Pixel health's rows (spec/12_pixel_health.md): write-back, recount, a replaced tile,
TELEMETRY_READ, HEALTH_SET.
-/

namespace Sys2Proof.Machine

/-- A write resets the record of a tile that has been replaced (R352). -/
def WriteBack.resets (w : WriteBack) : Bool := w.health.isSome && w.ageing.isSome

/-- A write may be made now (R206, R352, R462): a state whose override entry photometry has taken; an AGEING
only in a VBI while a partner is in STANDBY; a reset of a replaced tile's record at any time. -/
def writeReady (s : State) (w : WriteBack) : Bool :=
  w.resets || (match w.health with
    | some h => s.pho.overrides.any fun o => o.pixel == w.pixel && o.state == h && o.taken
    | none => true) &&
  (w.ageing.isNone || s.lpl.inVbi || !(s.yok.holding && match s.yok.partner with
    | some p => p.state == .standby
    | none => false))

/-- Retire the override entry a landed write answers (R206). -/
def retire (w : WriteBack) (s : State) : State :=
  match w.health, w.ageing with
  | none, _ => s
  | some _, some _ => s
  | some h, none =>
    let l := s.pho.overrides.eraseP fun o => o.pixel == w.pixel && o.state == h && o.taken
    { s with pho.overrides := l, pho.ovrFull := decide (l.length ≥ 512) }

/-- Make a background write (R208, R214, R355). -/
def landWrite (w : WriteBack) (s : State) : State :=
  let x := writeField s.pho.planeBase w s
  match x.1 with
  | none => requeue w x.2
  | some s =>
    let s := (writePlanes s).tail.foldl (fun s b => (writeField b w s).2) s
    let s := match w.ageing with
      | some a => if s.yok.holding && partnerIn .standby s then sendYoke .shared [w.pixel, a] s else s
      | none => s
    feedHeld 512 (checkDead (Pipe.tileOf (w.pixel % Pipe.arrayW) (w.pixel / Pipe.arrayW)) (retire w s))

/-- A background write of HEALTH or AGEING, or one cancelled and queued again (R206 to R208). -/
def execHealthWriteback (cancelled : Bool) (s : State) : Out :=
  .next (whenS (s.pwr.core && grnReady s)
    (fun s =>
      match s.pxh.writes.find? (writeReady s) with
      | none => s
      | some w =>
        let s := { s with pxh.writes := s.pxh.writes.erase w }
        if cancelled then requeue w s else landWrite w s) s)

/-- The reads of the recount (R582) find the errors of the committed plane's words (R118, R121). -/
def recountReads (s : State) : State :=
  (readMarked .pipeline s.pho.planeBase (8 * Pipe.pixels) s).2

/-- The recount has ended (R582). -/
def execHealthRecountDone (s : State) : Out :=
  .next (whenS (s.pwr.core && s.pxh.recount && grnReady s)
    (fun s => checkDeadAll { recountReads s with pxh.recount := false }) s)

/-- The record of a pixel of a replaced tile is reset, and its health store entry cleared (R352). A record whose word
is uncorrectable, which only its owner heals (R122), waits for its write in the queue (log entry 12). -/
def resetRecord (s : State) (p : Nat) : State :=
  let w : WriteBack := { pixel := p, health := some 0, ageing := some 0x8000 }
  let r := (writePlanes s).foldl
    (fun (acc : Bool × State) b =>
      let x := writeField b w acc.2
      (acc.1 || x.1.isNone, x.2)) (false, { s with pxh.store := storePut s.pxh.store p .zero })
  if r.1 then { r.2 with pxh.writes := r.2.pxh.writes ++ [w] } else r.2

/-- The last write of a position's reset has landed (R352): its dark bit clears, unless a cause of R350 holds or a VBI
has still to see it gone (R351). -/
def execTileSerialResetDone (t : Fin 96) (s : State) : Out :=
  .next (whenS (s.pwr.core && (s.pxh.tile[t]).resetting)
    (fun s =>
      let s := (tilePixels t.val).foldl resetRecord s
      let serial := match entryOf s.lpl.map t.val with
        | some k => (s.link.slot[k]).serial
        | none => (s.pxh.tile[t]).serial
      let s := { s with pxh.tile := s.pxh.tile.upd t fun x => { x with
        resetting := false, newSerial := true, serial := serial
        dark := x.reason != 0 || darkCause t.val s != 0 } }
      checkDead t.val (healthEvent 5 t.val .note s)) s)

/-- PXH_CNT_CLEAR.FLAGS (R362). -/
def execPxhCntClearFlags (s : State) : Out :=
  .next (whenS (hostUp s)
    (fun s => { s with pxh.tile := s.pxh.tile.map' fun x => { x with newSerial := false } }) s)

/-- PXH_CNT_CLEAR.EVENTS (R362). -/
def execPxhCntClearEvents (s : State) : Out :=
  .next (whenS (hostUp s) (fun s => { s with pxh.held := 0, pxh.parity := 0 }) s)

/-- PXH_TILEt; its counts are free while they are being rebuilt (R582; log entry 13). -/
def tileWord (t : Nat) (s : State) : Nat × State :=
  let x := s.pxh.tile.at' t TileHealth.reset
  let flags := bn (isDark t s) * 2 ^ 31 + darkReason t s * 2 ^ 29 + bn x.newSerial * 2 ^ 28 +
    bn x.unlocated * 2 ^ 27 + bn x.stale * 2 ^ 26
  if s.pxh.recount then
    let f := freshBits 26 s
    (flags + f.1.toNat, f.2)
  else (flags + min 4095 (tileSuspect t s) * 2 ^ 14 + tileDead t s, s)

/-- R356 on a TELEMETRY_READ. -/
def trBad (c : Cmd) (s : State) : Bool :=
  let sub := c.f 8 0 3
  let first := c.f 12 0 21
  let n := c.f 16 0 21
  decide (sub ≥ 5) || (sub == 3 && decide (first ≥ Pipe.pixels)) || (sub == 4 && decide (first > 95)) ||
    (decide (sub ≤ 1) && decide (n < 1 ∨ n > Pipe.pixels)) ||
    (sub == 1 && decide (first + n > Pipe.pixels)) ||
    c.f 24 0 64 % 8 != 0 || (c.b 8 3 && s.hif.hostless)

/-- The transfer of an export of n bytes to the payload's destination: its source is the unit that
exports. -/
def exportXfer (dst : Nat) (host : Bool) (n : Nat) : DmaDesc :=
  { src := 0, dst := dst, lineBytes := n, lines := 1, srcStride := 0, dstStride := 0, swidth := 3,
    dwidth := 3, srcHost := false, dstHost := host, last := true, link := false, fill := false,
    tag := 0 }

/-- TELEMETRY_READ (R356 to R358). -/
def telemetryBody : Body :=
  { check := fun c s => firstFail [(trBad c s, stField)]
    run := fun c s =>
      let first := c.f 12 0 21
      match c.f 8 0 3 with
      | 3 =>
        let r := coreRead (s.pho.planeBase + 8 * first) 8 s
        match r.1 with
        | none => complete c stError 0 0 r.2
        | some b =>
          finish c stSuccess (resAt 16 (storeGet s.pxh.store first).word ||| resAt 24 (leNat b)) r.2
      | 4 =>
        let w := tileWord first s
        finish c stSuccess (resAt 16 w.1 ||| resAt 20 (tileUnmeas first s) |||
          resAt 24 (s.pxh.tile.at' first TileHealth.reset).serial.toNat) w.2
      | k =>
        let n := if k = 2 then 96 else c.f 16 0 21
        let j := { cmdJob c (exportXfer (c.f 24 0 64) (c.b 8 3) (8 * n)) false with
          lo := if k = 2 then 8 else 30, hi := if k = 2 then 29 else 30
          pos := if k = 1 then first else 0, seq0 := composingSeq s }
        askTransfer j s }

/-- TELEMETRY_READ. -/
def execTelemetryRead (src : Src) (d : Desc) (s : State) : Out :=
  .next (runRow 0x28 telemetryBody src d s)

/-- R359: a rectangle of a HEALTH_SET is refused. -/
def rectBad (c : Cmd) : Bool :=
  let x0 := c.f 12 0 11
  let y0 := c.f 14 0 10
  let x1 := c.f 16 0 11
  let y1 := c.f 18 0 10
  decide (x1 < x0) || decide (y1 < y0) || decide (x1 > 1535) || decide (y1 > 767) ||
    decide ((x1 + 1 - x0) * (y1 + 1 - y0) > 12288)

/-- R359 on a HEALTH_SET. -/
def hsBad (c : Cmd) : Bool :=
  match c.f 8 0 2 with
  | 0 => rectBad c || !([0, 2, 4, 5].contains (c.f 8 4 4))
  | 1 => rectBad c
  | 2 =>
    decide (c.f 14 0 12 ≥ c.f 12 0 12) || c.f 16 0 4 == 0 || c.f 16 4 4 == 0 || c.f 16 8 8 == 0 ||
      decide (c.f 22 0 16 < 0x8000) || decide (c.f 24 0 14 < 1) || decide (c.f 24 0 14 > 12288)
  | _ => true

/-- Pixels of a job's rectangle. -/
def HealthJob.size (j : HealthJob) : Nat := (j.x1 + 1 - j.x0) * (j.y1 + 1 - j.y0)

/-- The job's next pixel, in raster order. -/
def HealthJob.next (j : HealthJob) : Nat :=
  let w := j.x1 + 1 - j.x0
  (j.y0 + j.done / w) * Pipe.arrayW + j.x0 + j.done % w

/-- The job's rectangle holds a pixel. -/
def HealthJob.holds (j : HealthJob) (p : Nat) : Bool :=
  let x := p % Pipe.arrayW
  let y := p / Pipe.arrayW
  decide (j.x0 ≤ x) && decide (x ≤ j.x1) && decide (j.y0 ≤ y) && decide (y ≤ j.y1)

/-- The rectangle of a HEALTH_SET as a job. -/
def healthJob (c : Cmd) : HealthJob :=
  { cmd := c, state := c.f 8 4 4, x0 := c.f 12 0 11, y0 := c.f 14 0 10, x1 := c.f 16 0 11,
    y1 := c.f 18 0 10, done := 0, noAnswer := false, clears := 0, taken := none }

/-- HEALTH_SET (R359 to R361). -/
def healthBody : Body :=
  { check := fun c _ => firstFail [(hsBad c, stField)]
    run := fun c s =>
      match c.f 8 0 2 with
      | 0 => { s with pxh.sets := s.pxh.sets ++ [healthJob c] }
      | 1 =>
        let j := healthJob c
        let f (p : Nat) (e : HealthEntry) : HealthEntry := if j.holds p then { e with vfRef := 0 } else e
        let l := (s.pxh.store.map fun e => (e.1, f e.1 e.2)).filter fun e => e.2 != .zero
        finishOk c { s with pxh.store := l }
      | _ => finishOk c { s with
          pxh.vfOpen := c.f 12 0 12
          pxh.vfShort := c.f 14 0 12
          pxh.confirm := c.f 16 0 4
          pxh.clear := c.f 16 4 4
          pxh.unmeasReports := c.f 16 8 8
          pxh.ageGain := c.f 18 0 16
          pxh.vfTc := c.s 20 0 8
          pxh.wornLimit := c.f 22 0 16
          pxh.deadTileLimit := c.f 24 0 14 } }

/-- HEALTH_SET. -/
def execHealthSet (src : Src) (d : Desc) (s : State) : Out := .next (runRow 0x29 healthBody src d s)

/-- Send SHORT_CLEAR for a pixel to its slot (R360): in a pair only the holder sends it (R337). -/
def sendShortClear (p : Nat) (s : State) : Bool × State :=
  let t := Pipe.tileOf (p % Pipe.arrayW) (p / Pipe.arrayW)
  match entryOf s.lpl.map t with
  | none => (false, s)
  | some k =>
    if slotIncluded k.val s && drivesOff s then
      let x := slotOf k
      (true, sendCtl x.1 x.2 true 0x0020 (arrayToTile (s.lpl.map[k]) p) 0 s)
    else (false, s)

/-- Pass one pixel of the first unfinished HEALTH_SET through the override list (R349, R360). -/
def feedSet (s : State) : State :=
  match s.pxh.sets.findIdx? fun j => decide (j.done < j.size) with
  | none => s
  | some i =>
    match s.pxh.sets[i]? with
    | none => s
    | some j =>
      if s.pho.overrides.length ≥ 512 ∧ !followsShared s then s
      else
        let p := j.next
        let x := if j.state = 0 ∧ healthNow p s = 3 then sendShortClear p s else (false, s)
        let s := modEntry p (fun e => { e with bad := 0, good := 0 }) x.2
        let s := { s with pxh.sets := s.pxh.sets.modify i fun j => { j with
          done := j.done + 1, clears := if x.1 then j.clears + 1 else j.clears } }
        if followsShared s then s else pushOverride p j.state (noteDead p (healthNow p s) j.state s)

/-- Complete the HEALTH_SETs whose changes are all taken and answered (R360). -/
def settleSets (s : State) : State :=
  s.pxh.sets.foldl
    (fun s j =>
      match j.taken with
      | some q =>
        if j.clears ≠ 0 then s
        else
          let s := { s with pxh.sets := s.pxh.sets.filter fun x => x.cmd.ser != j.cmd.ser }
          if j.noAnswer then complete j.cmd 0x0151#16 q 0 s
          else if j.cmd.commit then finishOk j.cmd s
          else complete j.cmd stSuccess q 0 s
      | none => s) s

/-- A SHORT_CLEAR has been answered, or has failed (R331, R360). -/
def clearDone (k : Fin 96) (data : Nat) (ok : Bool) (s : State) : State :=
  let p := tileToArray (s.lpl.map[k]) (data / 128 % 128) (data % 128)
  match s.pxh.sets.findIdx? fun j => j.holds p && decide (0 < j.clears) with
  | none => s
  | some i =>
    settleSets { s with pxh.sets := s.pxh.sets.modify i fun j => { j with
      clears := j.clears - 1, noAnswer := j.noAnswer || !ok } }

/-- A follower enters the changes its leader's SHARED brings, once (R206, R462). -/
def enterShared (s : State) : State :=
  match s.yok.following, s.yok.shared with
  | true, some sh =>
    sh.overrides.foldl (fun (s : State) (o : Nat × Nat) => enterChange o.1 o.2 s)
      { s with yok.shared := some { sh with overrides := [] } }
  | _, _ => s

/-- What has entered the override list by a VBI (R206, R349, R360, R462), and the tile-dark mask at it
(R350). -/
def enterHealth (s : State) : State :=
  takeDark (enterShared ((List.range 512).foldl (fun s _ => feedSet s) (feedHeld 512 s)))

/-- Photometry takes every entry added since the previous VBI (R27, R206). -/
def takeOverrides (s : State) : State :=
  { s with pho.overrides := s.pho.overrides.map fun (o : Override) => { o with taken := true } }

/-- The HEALTH_SETs whose last change has been taken carry the number of the composition that starts
(R360). -/
def setsTaken (seq : BitVec 16) (s : State) : State :=
  settleSets { s with pxh.sets := s.pxh.sets.map fun j =>
    if j.done ≥ j.size && j.taken.isNone then { j with taken := some seq } else j }

end Sys2Proof.Machine
end

