-- ==== Sys2Proof/Machine/Temperature.lean ====
section
/-!
DEFINITION. What a remote input's measurement says in 1/16 °C (spec/15_thermal_calibration.md R409).
-/

namespace Sys2Proof.Machine

/-- The fixed point of the logarithm: 96 bits after the point. -/
def lnOne : Int := 2 ^ 96

/-- ln 2 in that fixed point. -/
def ln2 : Int := 54916777467707473351141471128

/-- ln 10 in that fixed point. -/
def ln10 : Int := 182429585950654714090129938606

/-- ln (a / b) in that fixed point, for positive a and b: 2 artanh ((m − 1) / (m + 1)) + k ln 2 with
a / b = m × 2^k, to within 2^-88 (log entry 117). -/
def lnRatio (a b : Nat) : Int :=
  let k : Int := (a.log2 : Int) - (b.log2 : Int)
  let x : Int := (a : Int) * 2 ^ (-k).toNat
  let y : Int := (b : Int) * 2 ^ k.toNat
  let z := (x - y) * lnOne / (x + y)
  let zz := z * z / lnOne
  let sum := (List.range 40).foldl
    (fun (acc : Int × Int) (i : Nat) => (acc.1 + acc.2 / (2 * (i : Int) + 1), acc.2 * zz / lnOne)) (0, z)
  2 * sum.1 + k * ln2

/-- A measurement that gives no temperature: it lies outside every plausible range (R410). -/
def noReading : Int := -0x4000

/-- An NTC of a resistance in mΩ (R409): T = 1 / (1 / 298.15 + ln (R / R25) / BETA) − 273.15 + OFFSET, rounded
to 1/16 °C; none where the resistance is not positive or the sum is not. -/
def ntcReading (r25 beta : Nat) (offset : Int) (mohm : Int) : Int :=
  if mohm ≤ 0 ∨ r25 = 0 then noReading
  else
    let d := 100 * (beta : Int) * lnOne + 29815 * lnRatio mohm.toNat (1000 * r25)
    if d ≤ 0 then noReading
    else roundEven (10 * (16 * 29815 * (beta : Int) * lnOne) - 43704 * d + 10 * d * offset) (10 * d).toNat

/-- A diode whose two voltages differ by a number of nV (R409): T = dV × q / (1.008 × k × ln 10) − 273.15 + OFFSET,
rounded to 1/16 °C, with q / k = 16021766340 / 1380649 K per V (log entry 117). -/
def diodeReading (offset : Int) (nv : Int) : Int :=
  let d := 1000000000 * 1380649 * 1008 * ln10
  roundEven (10 * (16 * nv * 16021766340 * 1000 * lnOne) - 43704 * d + 10 * d * offset) (10 * d).toNat

/-- What sensor k measures (R407, R409): an on-die sensor its temperature in 1/16 °C, an NTC its resistance in
mΩ, a diode the difference of its two voltages in nV. -/
def Sensor.reading (x : Sensor) (k : Nat) (v : Int) : Int :=
  if k < 16 then v
  else if x.ntc then ntcReading x.r25 x.beta x.offset v
  else diodeReading x.offset v

end Sys2Proof.Machine
end

