-- ==== Sys2Proof/Machine/Thermal.lean ====
section
/-!
DEFINITION. The thermal unit and self-calibration (spec/15_thermal_calibration.md), and the die bridge
(R20, R21 of spec/01_architecture.md). Temperatures are in 1/16 °C.
-/

namespace Sys2Proof.Machine

/-- A sample within −60 to 200 °C (R410). -/
def plausible (v : Int) : Bool := decide (-960 ≤ v) && decide (v ≤ 3200)

/-- T[x] of a class. -/
def ClassLimits.t (l : ClassLimits) (x : Nat) : Int :=
  if x = 1 then l.warn else if x = 2 then l.throttle else l.shutdown

/-- H[x] of a class. -/
def ClassLimits.h (l : ClassLimits) (x : Nat) : Int :=
  if x = 1 then l.hWarn else if x = 2 then l.hThrottle else l.hShutdown

/-- The state a sample points at (R413). -/
def candidate (l : ClassLimits) (state : Nat) (v : Int) : Nat :=
  let up := [1, 2, 3].foldl (fun u x => if state < x ∧ v ≥ l.t x then x else u) 0
  let dn :=
    if 0 < state ∧ v < l.t state - l.h state then
      [1, 2].foldl (fun d x => if x < state ∧ v ≥ l.t x - l.h x then x else d) 0
    else state
  if up ≠ 0 then up else dn

/-- R413 on one valid sample. -/
def SensorState.step (s : SensorState) (l : ClassLimits) (v : Int) : SensorState :=
  let c := candidate l s.state v
  let s := { s with temp := v, badRun := 0 }
  let s :=
    if c > s.state then
      { s with nDn := 0, nUp := s.nUp + 1, mUp := if s.nUp = 0 then c else min s.mUp c }
    else if c < s.state then
      { s with nUp := 0, nDn := s.nDn + 1, mDn := if s.nDn = 0 then c else max s.mDn c }
    else { s with nUp := 0, nDn := 0 }
  let s := if s.nUp = 3 then { s with state := s.mUp, nUp := 0 } else s
  if s.nDn = 3 then { s with state := s.mDn, nDn := 0 } else s

/-- A sensor back in state NORMAL (R410, R427). -/
def SensorState.clear (s : SensorState) : SensorState :=
  { s with broken := false, state := 0, nUp := 0, nDn := 0, badRun := 0 }

/-- State of the DIE class (R413). -/
def dieState (s : State) : Nat :=
  ((s.thm.sensor.toList.filter fun x => x.valid && !x.light).map fun x => x.st.state).foldl max 0

/-- State of the LIGHT class (R413). -/
def lightState (s : State) : Nat :=
  (((s.thm.sensor.toList.filter fun x => x.valid && x.light).map fun x => x.st.state) ++
    ((s.thm.tile.toList.filter tileTempOk).map fun x => x.st.state)).foldl max 0

/-- One class. -/
def thermClass (light : Bool) (s : State) : ThermClass := if light then s.thm.light else s.thm.die

/-- Change a class. -/
def modClass (light : Bool) (f : ThermClass → ThermClass) (s : State) : State :=
  if light then { s with thm.light := f s.thm.light } else { s with thm.die := f s.thm.die }

/-- A level rises by 1, never above MAX_LEVEL (R415). -/
def ThermClass.rise (c : ThermClass) : ThermClass :=
  if c.level < c.maxLevel then { c with level := c.level + 1 } else c

/-- What follows from the sensors' states: ALL_BROKEN, the DIE SHUTDOWN outputs, the LIGHT level in
SHUTDOWN (R419 to R421). -/
def settleThermal (s : State) : State :=
  let gone := (s.thm.sensor.toList.filter fun x => x.used && !x.light).all fun x => x.st.broken
  let s :=
    if gone then
      let new := !s.thm.die.allBroken
      let s := modClass false (fun c => { c with allBroken := true, level := c.maxLevel }) s
      if new then raise 12 .major 0 s else s
    else modClass false (fun c => { c with allBroken := false }) s
  let hot := dieState s == 3
  let s :=
    if hot && !s.thm.shutdown then
      sendFbkAll { s with
        thm.shutdown := true, thm.shutdowns := bump 255 1 s.thm.shutdowns, lpl.resume := some false }
    else if !hot && s.thm.shutdown then
      modClass false (fun c => { c with level := c.maxLevel }) { s with thm.shutdown := false }
    else s
  if lightState s = 3 then modClass true (fun c => { c with level := c.maxLevel }) s else s

/-- What a sensor's change of state causes (R414, R415). -/
def entered (idx : Nat) (light : Bool) (old new : Nat) (s : State) : State :=
  if new = old ∨ new = 0 ∨ (new = 1 ∧ old > 1) then s
  else
    let cls : Class := if new = 1 then .note else if new = 2 then .minor
      else if light then .major else .critical
    let s := raise 12 cls (idx + new * 256) s
    if new = 1 then s
    else
      let s := modClass light ThermClass.rise s
      if !light && new == 2 then { s with thm.throttles := bump 65535 1 s.thm.throttles } else s

/-- The mean of a list, rounded to the unit. -/
def meanOf (l : List Int) : Int := roundEven l.sum (max 1 l.length)

/-- T_CAL (R423): the mean of the valid sensors 12 to 15, else of 0 to 11. -/
def tCalNow (s : State) : Option Int :=
  let pick (lo hi : Nat) : List Int := ((List.finRange 24).filter fun k =>
    decide (lo ≤ k.val) && decide (k.val ≤ hi) && (s.thm.sensor[k]).known).map
      fun k => (s.thm.sensor[k]).st.temp
  let a := pick 12 15
  let b := pick 0 11
  if !a.isEmpty then some (meanOf a) else if !b.isEmpty then some (meanOf b) else none

/-- The steps of a run, in order (R422, R424). -/
def calSteps (items : BitVec 5) (s : State) : List CalStep :=
  (if items.getLsbD 0 then [⟨0, 0⟩] else []) ++ (if items.getLsbD 1 then [⟨1, 0⟩] else []) ++
  (if items.getLsbD 2 then (List.range 16).map fun k => ⟨2, k⟩ else []) ++
  (if items.getLsbD 3 then
    (s.rail.rail.which fun r => r.entry.used).map fun k => ⟨3, k.val⟩ else []) ++
  (if items.getLsbD 4 then
    ((s.thm.sensor.which fun x => x.used).filter fun k => decide (16 ≤ k.val)).map
      fun k => ⟨4, k.val - 16⟩ else [])

/-- Start a run now (R423). -/
def startCal (items : BitVec 5) (cmd : Option Cmd) (s : State) : State :=
  let t := (tCalNow s).getD s.thm.tCal
  { s with
    thm.trigger := none
    thm.tCal := t
    thm.ran := true
    thm.run := some { items := items, steps := calSteps items s, failed := 0, values := [], vbis := 0,
                      tCal := t, cmd := cmd, usedVbi := false } }

/-- Calibration runs in RUN and DIM (R426). -/
def calAllowed (s : State) : Bool :=
  s.pwr.entry.isNone && (s.pwr.state == .run || s.pwr.state == .dim)

/-- A trigger of a full run (R423): ignored during a run; outside RUN and DIM it waits. -/
def triggerCal (s : State) : State :=
  if s.thm.run.isSome then s
  else if calAllowed s then startCal 0x1F none s
  else { s with thm.trigger := some (0x1F, none) }

/-- A run is abandoned (R426); it starts again at the first VBI after the return to RUN or DIM. -/
def abandonCal (s : State) : State :=
  match s.thm.run with
  | none => s
  | some r =>
    let s := { s with thm.run := none, thm.trigger := some (r.items, none) }
    match r.cmd with
    | some c => complete c 0x0183#16 0 0 s
    | none => s

/-- A trigger that waits starts its run at the first VBI in RUN or DIM (R423, R426). -/
def calAtVbi (s : State) : State :=
  match s.thm.run, s.thm.trigger with
  | none, some (items, cmd) => if calAllowed s then startCal items cmd s else s
  | _, _ => s

/-- The value in use of a step's trim. -/
def trimOf (t : Trims) (x : CalStep) : Int :=
  match x.item with
  | 0 => t.adcOffset
  | 1 => t.adcGain
  | 2 => t.sensor.at' x.index 0
  | 3 => t.rail.at' x.index 0
  | _ => t.remote.at' x.index 0

/-- Set a step's trim. -/
def setTrim (t : Trims) (x : CalStep) (v : Int) : Trims :=
  match x.item with
  | 0 => { t with adcOffset := v }
  | 1 => { t with adcGain := v }
  | 2 => { t with sensor := t.sensor.updN x.index fun _ => v }
  | 3 => { t with rail := t.rail.updN x.index fun _ => v }
  | _ => { t with remote := t.remote.updN x.index fun _ => v }

/-- A step's new value is accepted (table Calibration items). -/
def trimOk (x : CalStep) (v : Int) (s : State) : Bool :=
  let old := trimOf s.thm.trims x
  let d := (v - old).natAbs
  match x.item with
  | 0 => decide (v.natAbs ≤ 16) && decide (d ≤ 4)
  | 1 => decide (v.natAbs * 100 ≤ 2 * 65536) && decide (d * 10000 ≤ 25 * (65536 + old).natAbs)
  | 2 => decide ((v - trimOf s.thm.fuse x).natAbs ≤ 128) && decide (d ≤ 32)
  | 3 => decide (v.natAbs ≤ 20) && decide (d ≤ 4)
  | _ => decide (v.natAbs * 100 ≤ 65536) && decide (d * 1000 ≤ 2 * (65536 + old).natAbs)

/-- A step of the run in a VBI window (R422, R424, R425): its measured value in the item's unit. -/
def execCalStep (value : Int) (s : State) : Out :=
  .next (match s.thm.run with
    | none => s
    | some r =>
      match r.steps with
      | [] => s
      | x :: rest =>
        if s.lpl.scanning then s
        else
          let skip := x.item == 3 && match s.rail.rail.toList[x.index]? with
            | some k => k.state == .softStart || k.state == .softStop
            | none => true
          let r := { r with
            steps := rest, vbis := if r.usedVbi then r.vbis else r.vbis + 1, usedVbi := true }
          let r := if skip then r
            else if trimOk x value s then { r with values := r.values ++ [(x, value)] }
            else { r with failed := r.failed ||| BitVec.ofNat 5 (2 ^ x.item) }
          { s with thm.run := some r })

/-- A run whose steps are all done applies at a latch point (R425, R428). -/
def applyCal (s : State) : State :=
  match s.thm.run with
  | none => s
  | some r =>
    if !r.steps.isEmpty then { s with thm.run := some { r with usedVbi := false } }
    else
      let applied := r.items &&& ~~~ r.failed
      let t := (r.values.filter fun v => applied.getLsbD v.1.item).foldl
        (fun t v => setTrim t v.1 v.2) s.thm.trims
      let s := { s with
        thm.run := none
        thm.trims := t
        thm.lastFrame := s.lpl.composing
        thm.lastFailed := r.failed
        thm.lastApplied := applied }
      let s := if r.failed = 0 then s else raise 13 .minor r.failed.toNat s
      match r.cmd with
      | none => s
      | some c =>
        let res := resAt 16 applied.toNat ||| resAt 17 r.failed.toNat ||| resAt 18 r.vbis |||
          resAt 20 (toBits 16 r.tCal) ||| resAt 22 s.lpl.composing.toNat
        if r.failed = 0 then finish c stSuccess res s else complete c 0x0182#16 0 res s

/-- Sampled every 1 ms: within 5 K of a threshold of its class, or of one minus its hysteresis (R411). -/
def isFast (l : ClassLimits) (v : Int) : Bool :=
  [1, 2, 3].any fun x =>
    decide ((v - l.t x).natAbs ≤ 80) || decide ((v - (l.t x - l.h x)).natAbs ≤ 80)

/-- A sensor becomes BROKEN (R410). -/
def breakSensor (k : Fin 24) (bridge : Bool) (s : State) : State :=
  { s with
    thm.sensor := s.thm.sensor.upd k fun x => { x with st.broken := true, bridge := bridge }
    thm.brokenCnt := bump 255 1 s.thm.brokenCnt }

/-- T_CAL has moved by more than CAL_DT since the start of the last run (R423). -/
def calMoved (s : State) : State :=
  match tCalNow s with
  | some t => if s.thm.ran && decide ((t - s.thm.tCal).natAbs > s.thm.calDt) then triggerCal s else s
  | none => s

/-- The next sample is one of the 10 ms schedule: of every 1 ms samples, each tenth is (R411). -/
def Sensor.tenth (x : Sensor) : Bool := !x.fast || decide (9 ≤ x.ticks)

/-- A sample of an on-die or remote sensor (R410, R411, R413). -/
def takeReading (k : Fin 24) (v : Int) (s : State) : State :=
  let x := s.thm.sensor[k]
  if !x.valid then s
  else if !plausible v then
    if x.st.badRun + 1 ≥ 3 then settleThermal (raise 12 .minor k.val (breakSensor k false s))
    else { s with thm.sensor := s.thm.sensor.upd k fun x => { x with st.badRun := x.st.badRun + 1 } }
  else
    let l := (thermClass x.light s).lim
    let st := x.st.step l v
    let s := { s with thm.sensor := s.thm.sensor.upd k fun x => { x with st := st, fast := isFast l v, seen := true } }
    settleThermal (entered k.val x.light x.st.state st.state s)

/-- One sample is counted against the 10 ms schedule. -/
def Sensor.count (x : Sensor) : Sensor := { x with ticks := if x.tenth then 0 else x.ticks + 1 }

/-- The sampling tick of an on-die or remote sensor; T_CAL is evaluated at the 10 ms samples of the sensors on the dies
(R411, R423). -/
def dieSample (k : Fin 24) (v : Int) (s : State) : State :=
  let t := takeReading k v { s with thm.sensor := s.thm.sensor.upd k Sensor.count }
  if (s.thm.sensor[k]).tenth && decide (k.val < 16) then calMoved t else t

/-- A sample of a tile sensor from its latest report (R411, R413). -/
def tileSample (t : Fin 96) (s : State) : State :=
  let x := s.thm.tile[t]
  if !x.fresh || !tileTempOk x then s
  else
    let st := x.st.step s.thm.light.lim (sfield x.report 0 16)
    let s := { s with thm.tile := s.thm.tile.upd t fun x => { x with
      st := st, fresh := false, sampled := true } }
    settleThermal (entered (24 + t.val) true x.st.state st.state s)

/-- A sampling tick of a sensor (R407, R411): what an on-die or remote sensor measures; 24 + t is tile position t,
whose sample is its latest report. -/
def execSensorSample (idx : Fin 120) (sample : Int) (s : State) : Out :=
  .next (whenS s.pwr.core
    (fun s =>
      if h : idx.val < 24 then
        dieSample ⟨idx.val, h⟩ ((s.thm.sensor[(⟨idx.val, h⟩ : Fin 24)]).reading idx.val sample) s
      else tileSample ⟨idx.val - 24, by omega⟩ s) s)

/-- A TEMP that a STATUS brings for a position (R336, R410). -/
def tileReport (t : Nat) (temp : BitVec 16) (s : State) : State :=
  let bad := !plausible (sfield temp 0 16)
  let was := (s.thm.tile.at' t TileSensor.reset).st.broken
  let f (x : TileSensor) : TileSensor :=
    if bad then { x with report := temp, fresh := true, st.broken := true }
    else { x with report := temp, fresh := true, stale := false, st.broken := false }
  let s := { s with thm.tile := s.thm.tile.updN t f }
  if bad && !was then raise 12 .minor (24 + t) { s with thm.brokenCnt := bump 255 1 s.thm.brokenCnt }
  else s

/-- A tile sensor has had no report for 30 ms (R410). -/
def execTileTempStale (t : Fin 96) (s : State) : Out :=
  .next (whenS s.pwr.core
    (fun s => settleThermal { s with thm.tile := s.thm.tile.upd t fun x => { x with stale := true } }) s)

/-- STEP_MS in THROTTLE or SHUTDOWN (R415, R421). -/
def execThrottleStep (light : Bool) (s : State) : Out :=
  .next (whenS (s.pwr.core && decide ((if light then lightState s else dieState s) ≥ 2))
    (modClass light ThermClass.rise) s)

/-- The hold timer reaches 1 s (R415, R418, R419, R421). -/
def execThrottleHoldExpiry (light : Bool) (s : State) : Out :=
  .next (whenS (s.pwr.core && !(thermClass light s).allBroken && !(light && lightState s == 3))
    (modClass light fun c => { c with level := c.level - 1 }) s)

/-- CAL_MAX_S since the last run (R423). -/
def execCalMaxTimer (s : State) : Out :=
  .next (whenS (s.pwr.core && s.thm.calMaxS != 0) triggerCal s)

/-- Die-bridge loss (R21): rails hold, analogue-die and remote sensors are BROKEN. -/
def execDieBridgeLoss (s : State) : Out :=
  .next (whenS (s.pwr.core && s.pwr.bridge)
    (fun s =>
      let s := raise 4 .major 0 { s with
        pwr.bridge := false
        rail.rail := s.rail.rail.map' fun r => if r.state = .regulate then { r with state := .hold } else r }
      let l := (s.thm.sensor.which fun x => x.valid).filter fun k => decide (12 ≤ k.val)
      settleRails (settleThermal (l.foldl (fun s k => breakSensor k true s) s))) s)

/-- The first good transfer after a loss (R21, R410). -/
def execDieBridgeRestored (s : State) : Out :=
  .next (whenS (s.pwr.core && !s.pwr.bridge)
    (fun s =>
      let s := { s with
        pwr.bridge := true
        rail.rail := s.rail.rail.map' fun r => if r.state = .hold then { r with state := .regulate } else r
        thm.sensor := s.thm.sensor.map' fun x =>
          if x.bridge then { x with st := x.st.clear, bridge := false } else x }
      settleRails (settleThermal s)) s)

/-- THM_CNT_CLEAR.COUNT (R429). -/
def execThmCntClearCount (s : State) : Out :=
  .next (whenS (hostUp s)
    (fun s => { s with thm.shutdowns := 0, thm.brokenCnt := 0, thm.throttles := 0 }) s)

/-- The limits a THERMAL_SET writes. -/
def tsLimits (c : Cmd) : ClassLimits :=
  { warn := c.s 12 0 16, throttle := c.s 14 0 16, shutdown := c.s 16 0 16, hWarn := c.f 18 0 8,
    hThrottle := c.f 19 0 8, hShutdown := c.f 20 0 8 }

/-- R427 on a THERMAL_SET. -/
def thBad (c : Cmd) (s : State) : Bool :=
  match c.f 8 0 2 with
  | 0 =>
    let l := tsLimits c
    !(decide (l.warn < l.throttle) && decide (l.throttle < l.shutdown)) ||
      decide (l.hWarn < 8) || decide (l.hThrottle < 8) || decide (l.hShutdown < 8) ||
      !decide (l.throttle - l.hThrottle > l.warn) || !decide (l.shutdown - l.hShutdown > l.throttle)
  | 1 => decide (c.f 12 0 16 < 10) || decide (c.f 12 0 16 > 60000) || (c.b 8 2 && c.f 16 0 12 == 0)
  | 2 => (List.finRange 24).any fun k => c.b (12 + k.val / 8) (k.val % 8) && !(s.thm.sensor[k]).used
  | _ => decide (c.f 12 0 12 < 0x010) || decide (c.f 12 0 12 > 0xFF0) ||
      (c.f 16 0 16 != 0 && decide (c.f 16 0 16 < 60))

/-- A LIMITS above the image's thresholds (R412, R427). -/
def overCeiling (c : Cmd) (s : State) : Bool :=
  let l := tsLimits c
  let m := (thermClass (c.b 8 2) s).ceiling
  c.f 8 0 2 == 0 &&
    (decide (l.warn > m.warn) || decide (l.throttle > m.throttle) || decide (l.shutdown > m.shutdown))

/-- CLEAR_BROKEN on one sensor. -/
def clearNamed (c : Cmd) (k : Fin 24) (x : Sensor) : Sensor :=
  if c.b (12 + k.val / 8) (k.val % 8) && x.st.broken then { x with st := x.st.clear, bridge := false }
  else x

/-- New thresholds of a class change which of its sensors are sampled every 1 ms (R411). -/
def refast (light : Bool) (s : State) : State :=
  let l := (thermClass light s).lim
  { s with thm.sensor := s.thm.sensor.map' fun x =>
      if x.light == light && x.seen then { x with fast := isFast l x.st.temp } else x }

/-- THERMAL_SET (R427). -/
def thermalBody : Body :=
  { check := fun c s => firstFail [(thBad c s, stField), (overCeiling c s, 0x0180#16)]
    run := fun c s =>
      let light := c.b 8 2
      let s := match c.f 8 0 2 with
        | 0 => refast light (modClass light (fun k => { k with lim := tsLimits c }) s)
        | 1 => settleThermal <| modClass light (fun k => { k with
            stepMs := c.f 12 0 16, maxLevel := c.f 14 0 3
            dStep := if light then c.f 16 0 12 else k.dStep }) s
        | 2 => settleThermal { s with thm.sensor := s.thm.sensor.mapI (clearNamed c) }
        | _ => { s with thm.calDt := c.f 12 0 12, thm.calMaxS := c.f 16 0 16 }
      finishOk c s }

/-- CAL_RUN (R428). -/
def calRunBody : Body :=
  { check := fun c s =>
      firstFail [(c.f 8 0 5 == 0, stField), (s.thm.run.isSome, 0x0181#16)]
    run := fun c s => startCal (BitVec.ofNat 5 (c.f 8 0 5)) (some c) s }

/-- THERMAL_SET. -/
def execThermalSet (src : Src) (d : Desc) (s : State) : Out := .next (runRow 0x39 thermalBody src d s)

/-- CAL_RUN. -/
def execCalRun (src : Src) (d : Desc) (s : State) : Out := .next (runRow 0x3A calRunBody src d s)

end Sys2Proof.Machine
end

