-- ==== Sys2Proof/Machine/Protocol.lean ====
section
/-!
DEFINITION. The Xieri protocol's rows (spec/11_xieri_protocol.md): PIX, echoes, NAKs, control answers,
telemetry, slots in service.
-/

namespace Sys2Proof.Machine

/-- An upstream packet (R310, R312). -/
structure UpPkt where
  kind : Nat
  slot : Nat
  sub : Nat
  seq : Nat
  addr : Nat
  arg : Nat
  payload : List Byte
  deriving DecidableEq, Repr

/-- Payload bytes of an upstream TYPE and KIND (table Packet types). -/
def upLength (kind sub : Nat) : Option Nat :=
  if kind = 8 then (if sub = 0 then some 32 else if sub = 1 then some 256 else none)
  else if kind = 9 then some 8
  else if kind = 10 then some 0
  else none

/-- A received packet, header to CRC, and whether EOP followed; none where R313 discards it. -/
def parsePkt (b : List Byte) (eop : Bool) : Option UpPkt :=
  let g (i : Nat) : Nat := (b.getD i 0).toNat
  let n := b.length - 12
  let body := b.take (8 + n)
  let p : UpPkt :=
    { kind := g 0 % 16, slot := g 0 / 16 % 8, sub := g 1, seq := g 2 + 256 * g 3,
      addr := g 4 + 256 * g 5, arg := g 6, payload := (b.drop 8).take n }
  if !eop ∨ b.length < 12 ∨ p.slot = 4 ∨ p.slot = 5 then none
  else if upLength p.kind p.sub ≠ some n then none
  else if (Env.crc32c body).toNat ≠ leNat (b.drop (8 + n)) then none
  else some p

/-- A lane that receives upstream packets. -/
def receives (n : Fin 24) (s : State) : Bool :=
  let l := s.link.lane[n]
  s.pwr.core && (l.state == .enumerate || l.state == .check || l.state == .ready)

/-- The last upstream-CRC NOTE of a lane is less than a second old (R336). -/
def crcQuiet (n : Fin 24) (s : State) : Bool :=
  match (s.link.lane[n]).upCrcNote with
  | some t => decide (s.now < t + 1000000000)
  | none => false

/-- An upstream packet discarded under R313 (R336). -/
def badUp (n : Fin 24) (s : State) : State :=
  let m := Fin.castSucc n
  if crcQuiet n s then modLane m (fun l => { l with upCrc := bump 65535 1 l.upCrc }) s
  else linkEvent m 0 5 .note
    (modLane m (fun l => { l with upCrc := bump 65535 1 l.upCrc, upCrcNote := some s.now }) s)

/-- Take a packet of a type, or discard it. -/
def withPkt (n : Fin 24) (kind : Nat) (sub : Nat → Bool) (b : List Byte) (eop : Bool)
    (f : UpPkt → State → State) (s : State) : State :=
  if !receives n s then s
  else match parsePkt b eop with
  | none => badUp n s
  | some p => if p.kind = kind ∧ sub p.sub then f p s else s

/-- Map entry of a lane's slot. -/
def entryNo (n : Fin 24) (slot : Nat) : Fin 96 := ⟨(4 * n.val + slot % 4) % 96, by omega⟩

/-- Number of the frame in the scan buffer. -/
def scanSeq (s : State) : Option (BitVec 16) := (s.lpl.buf[s.lpl.scan]).map fun f => f.seq

/-- An answer to HELLO (R317). -/
def helloAnswer (n : Fin 24) (k : Nat) (hops : Nat) (serial : Word) (s : State) : State :=
  let m := Fin.castSucc n
  let l := laneAt m s
  if l.answers.any fun a => a.2 == serial && a.1 != hops then
    if l.state = .enumerate then endEnumerate m k s else dropAssign m s
  else
    let first := hops == k && !(l.answers.any fun a => a.1 == k)
    let s := modLane m (fun l => { l with answers := l.answers ++ [(hops, serial)] }) s
    if first then sendCtl m 7 true 0x0010 k serial.toNat s else s

/-- A tile has taken its slot (R317, R318). -/
def slotTaken (n : Fin 24) (k : Nat) (serial : Word) (s : State) : State :=
  let m := Fin.castSucc n
  let s := modLane m (fun l => { l with assigned := l.assigned ||| BitVec.ofNat 4 (2 ^ k), answers := [] }) s
  let s := modSlot (entryNo n k).val (fun x => { x with serial := serial, clean := 0 }) s
  let s := [0x0000, 0x0004, 0x0014].foldl (fun s a => sendCtl m k false a 0 0 s) s
  if (laneAt m s).state = .enumerate then
    if k ≥ 3 then endEnumerate m 4 s else askSlot m (k + 1) s
  else modLane m (fun l => { l with asking := none, nextLen := some (k + 1) }) s

/-- A request has been answered with DATA (R331). -/
def answered (n : Fin 24) (q : CtlReq) (ok : Bool) (data : Word) (s : State) : State :=
  let m := Fin.castSucc n
  let k := entryNo n q.slot
  if q.addr = 0x0010 then
    if ok && decide (q.data.toNat < 4) then slotTaken n q.data.toNat q.match' s else s
  else if q.addr = 0x0020 ∧ q.write then clearDone k q.data.toNat ok s
  else if !ok then s
  else if q.addr = 0x0000 then modSlot k.val (fun x => { x with id := data }) s
  else if q.addr = 0x0004 then
    let s := modSlot k.val (fun x => { x with serial := data }) s
    if slotIncluded k.val s then checkSerial k s else s
  else if q.addr = 0x0014 then modSlot k.val (fun x => { x with fbCrc := data }) s
  else if q.addr = 0x001C ∧ laneIs m .check s then
    let s := modLane m (fun l => { l with
      reported := l.reported ||| BitVec.ofNat 4 (2 ^ q.slot), checkBad := l.checkBad || data != 0 }) s
    if (laneAt m s).patternDone && (laneAt m s).allReported then judgeCheck m s else s
  else s

/-- A read response (R317, R331). -/
def takeRdr (n : Fin 24) (p : UpPkt) (s : State) : State :=
  let m := Fin.castSucc n
  let data : Word := BitVec.ofNat 32 (leNat (p.payload.take 4))
  let serial : Word := BitVec.ofNat 32 (leNat (p.payload.drop 4))
  if p.addr = 0x000C then
    match (laneAt m s).asking with
    | some k => if p.sub = 0 then helloAnswer n k p.arg serial s else s
    | none => s
  else
    match (laneAt m s).requests.find? fun q => q.sent && q.seq.toNat == p.seq && q.addr == p.addr with
    | none => s
    | some q =>
      answered n q (p.sub == 0) data
        (modLane m (fun l => { l with requests := l.requests.erase q }) s)

/-- A read response arrives. -/
def execRdrReceived (n : Fin 24) (pkt : List Byte) (eop : Bool) (s : State) : Out :=
  .next (withPkt n 9 (fun _ => true) pkt eop (takeRdr n) s)

/-- An unanswered request is repeated, in the VBI (R331); it stands last among those that wait. -/
def repeatCtl (m : Fin 25) (q : CtlReq) (s : State) : State :=
  let now := ctlNow m q.packet.length s
  let s := modLane m (fun l => { l with
    retry := bump 65535 1 l.retry
    requests := l.requests.erase q ++ [{ q with repeats := q.repeats + 1, sent := now }] }) s
  if now then sendReq m q.packet s else s

/-- A request has failed after its third repeat (R331). -/
def ctlFails (n : Fin 24) (q : CtlReq) (s : State) : State :=
  let m := Fin.castSucc n
  let s := modLane m (fun l => { l with fail := bump 65535 1 l.fail, requests := l.requests.erase q }) s
  let s := linkEvent m (q.slot % 4) 2 .minor s
  if q.addr = 0x0020 ∧ q.write then clearDone (entryNo n q.slot) q.data.toNat false s else s

/-- The request of a lane that has waited longest for its answer is repeated after 20 µs, up to 3 times (R331). -/
def execControlRequestRetry (n : Fin 24) (s : State) : Out :=
  .next (match (s.link.lane[n]).requests.find? fun q => q.sent with
    | none => s
    | some q => if q.repeats < 3 then repeatCtl (Fin.castSucc n) q s else ctlFails n q s)

/-- A refused LAT is counted; the fourth at consecutive latch points forces a warm retrain (R327, R328). -/
def countRefusal (n : Fin 24) (k : Fin 96) (seq : BitVec 16) (s : State) : State :=
  let m := Fin.castSucc n
  let s := modLane m (fun l => { l with refusedCnt := bump 65535 1 l.refusedCnt }) s
  let x := s.link.slot[k]
  if x.refusedNow || s.lpl.lastTo[k] != some seq then s
  else
    let again := decide (x.refusals + 1 ≥ 4)
    let s := modSlot k.val (fun x => { x with
      refusals := if again then 0 else x.refusals + 1, refusedNow := true }) s
    if again && laneIs m .ready s then retrain m 5 s else s

/-- A tile's latch echo (R224, R277, R281, R326, R327, R585). -/
def takeTe (n : Fin 24) (slot : Nat) (refused : Bool) (seq : BitVec 16) (s : State) : State :=
  let k := entryNo n slot
  let e := s.lpl.map[k]
  let s := if refused then countRefusal n k seq s else s
  let s := if !e.teIn && s.lpl.teWait[k] == some seq then
      { s with lpl.teWait := s.lpl.teWait.put k none }
    else s
  let s := if refused || e.teIn then s else takeEcho (4 * n.val + slot) seq s
  match s.lpl.lastTo[k] with
  | none => s
  | some last =>
    if last = seq then
      let s := { s with
        lpl.staleRun := s.lpl.staleRun.put k 0, lpl.staleNow := s.lpl.staleNow.put k false }
      if e.present then
        { s with pxh.tile := s.pxh.tile.updN e.tile fun x => { x with stale := false } }
      else s
    else if 0 < (last - seq).toNat ∧ (last - seq).toNat < 32768 then
      if s.lpl.staleNow[k] then s
      else
      let r := s.lpl.staleRun[k] + 1
      let s := { s with
        lpl.staleRun := s.lpl.staleRun.put k r, lpl.staleNow := s.lpl.staleNow.put k true }
      if r = 3 ∧ e.present then
        raise 5 .minor (3 + e.tile * 16 + s.lpl.composing.toNat * 65536)
          { s with
            lpl.frStale := true
            lpl.staleTile := e.tile
            pxh.tile := s.pxh.tile.updN e.tile fun x => { x with stale := true } }
      else s
    else s

/-- A TE sequence arrives; one with a wrong CHK is discarded (R326). -/
def execTeSequenceReceived (n : Fin 24) (a fseqLow fseqHigh chk : Byte) (s : State) : Out :=
  .next (whenS (receives n s && chk == a ^^^ fseqLow ^^^ fseqHigh && decide (field a 0 3 < 4))
    (takeTe n (field a 0 3) (bitOf a 3) (fseqHigh ++ fseqLow)) s)

/-- A NAK (R328): one for a PIX of the frame being scanned withholds that slot's LAT. REASON 3 tells of an upstream
packet that a tile has dropped (R315). -/
def takeNak (n : Fin 24) (p : UpPkt) (s : State) : State :=
  let m := Fin.castSucc n
  let k := entryNo n p.slot
  let s := modLane m (fun l => { l with nakRx := bump 65535 1 l.nakRx }) s
  let mine : Bool := match scanSeq s with
    | some q => q.toNat == p.addr || p.addr == 0
    | none => false
  if p.slot < 4 && p.sub != 3 && s.lpl.scanning && s.lpl.served[k] && mine then
    let s := modLane m (fun l => { l with withheldCnt := bump 65535 1 l.withheldCnt }) s
    linkEvent m p.slot 4 .note (modSlot k.val (fun x => { x with nakNow := true }) s)
  else s

/-- A NAK arrives. -/
def execNakReceived (n : Fin 24) (pkt : List Byte) (eop : Bool) (s : State) : Out :=
  .next (withPkt n 10 (fun _ => true) pkt eop (takeNak n) s)

/-- A TEL STATUS (R318, R336, R339, R353). Input B of a tile is in service where the tile is DUAL and the device
is one of a pair (R337; log entry 108). The STATUS that makes a slot INCLUDED is no report after that (R410). -/
def takeStatus (n : Fin 24) (p : UpPkt) (s : State) : State :=
  let w (o : Nat) : Nat := leNat ((p.payload.drop o).take 2)
  let k := entryNo n p.slot
  let e := s.lpl.map[k]
  if p.slot ≥ 4 then s
  else
    let temp : BitVec 16 := BitVec.ofNat 16 (w 0)
    let s := modSlot k.val (fun x => { x with
      temp := temp, dupMismatch := w 16, fbCrc := BitVec.ofNat 32 (leNat ((p.payload.drop 24).take 4)) }) s
    let s := { s with
      yok.dup := s.yok.dup.put k (w 16)
      yok.missing := s.yok.missing.put k (if otherOnA s then w 18 else w 20) }
    let s := checkTiles s
    let inputB := (s.link.slot[k]).id.getLsbD 31 && yoked s
    let clean := w 8 == 0 && w 12 == 0 && (!inputB || (w 10 == 0 && w 14 == 0))
    let l := s.link.lane[n]
    let s := if e.present then tileReport e.tile temp s else s
    let s :=
      if l.state == .ready && l.assigned.getLsbD p.slot && !l.included.getLsbD p.slot then
        let c := if clean then (s.link.slot[k]).clean + 1 else 0
        let s := modSlot k.val (fun x => { x with clean := c }) s
        if c ≥ 16 then includeSlot n ⟨p.slot % 4, by omega⟩ s else s
      else s
    if e.present then tileCounts e.tile (w 4 + w 6) (settleThermal s) else s

/-- A TEL STATUS arrives. -/
def execTelStatusReceived (n : Fin 24) (pkt : List Byte) (eop : Bool) (s : State) : Out :=
  .next (withPkt n 8 (fun k => k == 0) pkt eop (takeStatus n) s)

/-- Record c′ of a TEL PIXEL (R335). -/
def pixelRec (p : UpPkt) (c : Nat) : PixelRec :=
  let v := leNat ((p.payload.drop (2 * c)).take 2)
  { state := v / 4096 % 4, vf := v % 4096 }

/-- A TEL PIXEL of a PRESENT, INCLUDED slot (R344). Bit c′ of `parity` says that the health store entry of
record c′ fails its parity when it is read (R342). -/
def takePixels (n : Fin 24) (parity : BitVec 128) (p : UpPkt) (s : State) : State :=
  let k := entryNo n p.slot
  let e := s.lpl.map[k]
  if p.slot ≥ 4 || !e.present || !slotIncluded k.val s || decide (p.arg > 95) then s
  else (List.range 128).foldl
    (fun s c =>
      let a := tileToArray e p.arg c
      pixelSample a (pixelRec p c) (if parity.getLsbD c then storeParity a s else s)) s

/-- A TEL PIXEL arrives. -/
def execTelPixelReceived (n : Fin 24) (pkt : List Byte) (eop : Bool) (parity : BitVec 128) (s : State) : Out :=
  .next (withPkt n 8 (fun k => k == 1) pkt eop (takePixels n parity) s)

/-- A slot has not been INCLUDED within 1 s of its assignment (R318): it is returned to no slot. -/
def execSlotIncludeTimeout (k : Fin 96) (s : State) : Out :=
  let x := slotOf k
  let l := laneAt x.1 s
  .next (whenS (l.state == .ready && l.assigned.getLsbD x.2 && !l.included.getLsbD x.2)
    (fun s =>
      let s := sendCtl x.1 7 true 0x0010 7 (s.link.slot[k]).serial.toNat s
      modLane x.1 (fun l => { l with
        assigned := l.assigned &&& ~~~ BitVec.ofNat 4 (2 ^ x.2), nextLen := some x.2 }) s) s)

/-- An assigned slot has been silent for 50 ms (R319). -/
def execSlotSilentTimeout (k : Fin 96) (s : State) : Out :=
  let x := slotOf k
  let l := laneAt x.1 s
  .next (whenS (l.state == .ready && l.assigned.getLsbD x.2)
    (fun s => retrain x.1 6 (linkEvent x.1 x.2 1 .minor s)) s)

/-- XLK_CNT_CLEAR.CTL (R341). -/
def execXlkCntClearCtl (s : State) : Out :=
  .next (whenS (hostUp s)
    (fun s => { s with link.lane := s.link.lane.map' fun l => { l with retry := 0, fail := 0 } }) s)

/-- XLK_CNT_CLEAR.LAT (R341). -/
def execXlkCntClearLat (s : State) : Out :=
  .next (whenS (hostUp s)
    (fun s => { s with
      link.lane := s.link.lane.map' fun l => { l with withheldCnt := 0, refusedCnt := 0 } }) s)

/-- XLK_CNT_CLEAR.CNT (R341). -/
def execXlkCntClearCnt (s : State) : Out :=
  .next (whenS (hostUp s)
    (fun s => { s with link.lane := s.link.lane.map' fun l => { l with nakRx := 0, upCrc := 0 } }) s)

/-- The next PIX of a lane's scan from a position on, over the slots served (R322). -/
def nextPix (served : Nat → Bool) (p : ScanPos) : Option ScanPos :=
  match [0, 1, 2, 3].find? fun k => decide (p.s ≤ k) && served k with
  | some k => some ⟨p.j, k⟩
  | none => if p.j ≥ 47 then none else ([0, 1, 2, 3].find? served).map fun k => ⟨p.j + 1, k⟩

/-- Array pixels of two lines of a tile, in the order sent (R273, R320). -/
def pixPixels (e : MapEntry) (line : Nat) : List Nat :=
  (List.range 256).map fun i => tileToArray e (line + i / 128) (i % 128)

/-- The LANE_ERR under way that damages the next PIX of a lane (R539). -/
def laneErr (n : Fin 24) (s : State) : Option Nat :=
  match s.tst.job with
  | some j => if j.test = 3 ∧ j.target = n.val then some j.count else none
  | none => none

/-- Lanes may carry PIX and LAT: no Hedge override, lost heartbeat, DIE SHUTDOWN or STALL, and a yoke state
that sends (R33, R227, R281, R420, R452). -/
def lanesSend (s : State) : Bool :=
  s.pwr.core && s.hdg.state == 0 && s.hdg.heartbeat && !s.thm.shutdown && !s.lpl.stall && yokeSends s

/-- The words of an output buffer that hold a tile's line (R107, R273). -/
def lineWords (b : Fin 2) (e : MapEntry) (line : Nat) : List Nat :=
  (List.range 32).map fun i => b.val * (outBufHalf / 8) + tileToArray e line (4 * i) / 4

/-- The Lamplighter reads a list of words (R118, R121): those that are poisoned. -/
def readLine (l : List Nat) (s : State) : List Nat × State :=
  l.foldl
    (fun x w =>
      let y := readWord .lamplighter w .none x.2
      (if y.1 then x.1 ++ [w] else x.1, y.2)) ([], s)

/-- What the two lines of a PIX show (R22, R320): the truncated codes of the output buffer; the codes of a
poisoned word are free. -/
def pixValues (f : Frame) (b : Fin 2) (bad : List Nat) (mode : Nat) (pixels : List Nat) (free : Nat) : List Nat :=
  pixels.mapIdx fun i a =>
    let code :=
      if bad.contains (b.val * (outBufHalf / 8) + a / 4) then (Config.freeBits 16 (free + i)).toNat
      else Pipe.code f a
    code / 2 ^ (16 - modeBits mode)

/-- A tile line that fails the Hedge's check value or holds an uncorrectable word withholds its frame's LAT
(R25). -/
def lineFails (k : Fin 96) (tile line : Nat) (seq : BitVec 16) (s : State) : State :=
  raise 6 .minor (line + tile * 128 + seq.toNat * 65536) { s with lpl.withheld := s.lpl.withheld.put k true }

/-- A PIX leaves (R320, R322), damaged where a LANE_ERR waits for it (R539). -/
def sendPix (n : Fin 24) (q : ScanPos) (f : Frame) (vals : List Nat) (s : State) : State :=
  let mode := (s.link.lane[n]).mode
  let hit := laneErr n s
  let s := sendLane (Fin.castSucc n) (.pix q.s (4 * q.j + q.s) f.seq (2 * q.j) mode vals (hit.getD 0))
    { s with lpl.pos := s.lpl.pos.put n (some ⟨q.j, q.s + 1⟩) }
  match hit with
  | some c => endRun stSuccess c 1 { s with
      tst.lastSeq := s.rve.log.getLast?.elim 0 fun e => e.seq.toNat % 256 }
  | none => s

/-- Scan-out sends the next PIX of a lane (R25, R320, R322). Bit b of `badLines` says that line LINE + b fails
the Hedge's check value. -/
def execPixSend (n : Fin 24) (badLines : BitVec 2) (s : State) : Out :=
  .next (whenS (lanesSend s && s.lpl.scanning && laneIs (Fin.castSucc n) .ready s)
    (fun s =>
      match s.lpl.pos[n], s.lpl.buf[s.lpl.scan] with
      | some p, some f =>
        match nextPix (fun k => s.lpl.served[entryNo n k]) p with
        | none => { s with lpl.pos := s.lpl.pos.put n none }
        | some q =>
          let k := entryNo n q.s
          let e := s.lpl.map[k]
          let b := s.lpl.scan
          let x := readLine (lineWords b e (2 * q.j)) s
          let y := readLine (lineWords b e (2 * q.j + 1)) x.2
          let bad := x.1 ++ y.1
          let vals := pixValues f b bad (s.link.lane[n]).mode (pixPixels e (2 * q.j)) y.2.free
          let s := sendPix n q f vals
            (let t := y.2; if bad.isEmpty then t else { t with free := t.free + 256 })
          let s := if bitOf badLines 0 || !x.1.isEmpty then lineFails k e.tile (2 * q.j) f.seq s else s
          if bitOf badLines 1 || !y.1.isEmpty then lineFails k e.tile (2 * q.j + 1) f.seq s else s
      | _, _ => s) s)

end Sys2Proof.Machine
end

