-- ==== Sys2Proof/Machine/Reeve.lean ====
section
/-!
DEFINITION. The Reeve: the log, counting, activations, recovery, FAULT_ACK, FAULT_READ, DIAG_INJECT
(spec/16_reeve.md).
-/

namespace Sys2Proof.Machine

/-- A group's level line (R432). -/
def levelLine (g : Nat) (s : State) : Bool :=
  if g = 1 then s.hdg.selfHeld
  else if g = 3 then s.pwr.cores.stuck
  else if g = 4 then !s.pwr.bridge
  else if g = 5 then s.lpl.stall
  else if g = 12 then s.thm.shutdown || lightState s == 3 || s.thm.die.allBroken
  else false

/-- The higher of two classes. -/
def Class.max (a b : Class) : Class := if a.code < b.code then b else a

/-- One copy of a group's variables. -/
def Group.copy (g : Group) (injected : Bool) : Counting := if injected then g.inj else g.real

/-- Change one copy. -/
def Group.upd (g : Group) (injected : Bool) (f : Counting → Counting) : Group :=
  if injected then { g with inj := f g.inj } else { g with real := f g.real }

/-- Change one copy of group g. -/
def modGroup (g : Nat) (injected : Bool) (f : Counting → Counting) (s : State) : State :=
  { s with rve.group := s.rve.group.updN g fun x => x.upd injected f }

/-- A held class of a copy, and whether it was an escalation, after an activation (R435). -/
def holdClass (held : Option Class) (a : Class) : Class × Bool :=
  match held with
  | none => (a, false)
  | some h =>
    if h = a then (Class.ofCode (min 3 (a.code + 1)), h != .critical)
    else if h.code < a.code then (a, false) else (h, false)

/-- What counting makes of an event (R433): the copy after it, and the class of its activation. -/
def countEvent (g : Group) (c : Counting) (cls : Class) (now : Nat) : Counting × Option Class :=
  let fresh := !c.winOpen || decide (now - c.winStart ≥ g.w * 100000)
  let c := { c with last := now, events := bump 255 1 c.events }
  let c := if fresh then { c with winOpen := true, winStart := now, k := 0, top := .note } else c
  let c := { c with k := min 255 (c.k + 1), top := c.top.max cls }
  if c.k < g.n then (c, none)
  else ({ c with winOpen := false },
    some (if c.top = .note ∧ g.n > 1 then .minor else c.top))

/-- The 600 MHz cycle of the model's clock. -/
def coreCycle (s : State) : Nat := s.now * 3 / 5

/-- The log can take an entry in this cycle: it takes one a cycle (R431). -/
def logTakes (s : State) : Bool := decide (s.rve.logCycle ≤ coreCycle s)

/-- The log takes an entry, `cycle` being the first in which it can take another (R431). -/
def appendLog (e : LogEntry) (cycle : Nat) (s : State) : State :=
  let e := { e with seq := s.rve.nextSeq, lostBefore := s.rve.lostFlag }
  let l := s.rve.log ++ [e]
  { s with
    rve.log := l.drop (l.length - 512)
    rve.logCycle := cycle
    rve.nextSeq := s.rve.nextSeq + 1
    rve.lostFlag := false }

/-- No place is left for an entry: 64 others wait (R431). -/
def logFull (s : State) : Bool := decide (64 ≤ s.rve.queue.length)

/-- Write a log entry, let it wait, or lose it (R431); the first of a run of lost entries raises the overflow NOTE
(R432). -/
def logEntry (e : LogEntry) (s : State) : State :=
  if s.rve.queue.isEmpty && logTakes s then appendLog e (coreCycle s + 1) s
  else if logFull s then
    let s := if s.rve.lostFlag then s else raise 45 .note 1 s
    { s with rve.lost := bump 65535 1 s.rve.lost, rve.lostFlag := true }
  else { s with rve.queue := s.rve.queue ++ [e] }

/-- The log takes the entries that wait, one a cycle (R431). -/
def drainLog (s : State) : State :=
  (List.range 64).foldl
    (fun s _ =>
      match s.rve.queue with
      | [] => s
      | e :: rest =>
        if logTakes s then appendLog e (s.rve.logCycle + 1) { s with rve.queue := rest } else s) s

/-- An interrupt for an activation of a class (R436, R437). -/
def reeveIrq (a : Class) (s : State) : State :=
  if s.rve.irqEn && (a == .critical || decide (s.rve.irqClass.code ≤ a.code)) then
    signalVec s.rve.vector s
  else s

/-- One injected event has been processed (R448). -/
def injectDone (g : Nat) (seq : BitVec 16) (s : State) : State :=
  match s.rve.injects.findIdx? fun j => j.source == g with
  | none => s
  | some i =>
    match s.rve.injects[i]? with
    | none => s
    | some j =>
      let j := { j with left := j.left - 1, first := some (j.first.getD seq) }
      if j.left ≠ 0 then { s with rve.injects := s.rve.injects.set i j }
      else
        let h := (s.rve.group.at' g (Group.reset g)).inj.held
        let r := resAt 16 (j.first.getD 0).toNat ||| resAt 18 (match h with
          | some c => c.code + 4
          | none => 0)
        finish j.cmd stSuccess r { s with rve.injects := s.rve.injects.eraseIdx i }

/-- SEQ of the entry of an event: an open value where no entry is written for it (log entry 119). -/
def entrySeq (s : State) : BitVec 16 × State :=
  if logFull s then freshBits 16 s else (s.rve.nextSeq + BitVec.ofNat 16 s.rve.queue.length, s)

/-- The Reeve processes an event (R430 to R436, R441, R444): an activation that escalates is one of the class it rises
to (R441; log entry 150). The model's clock counts the microseconds
between the events of one DIAG_INJECT. -/
def processEvent (e : Event) (s : State) : State :=
  let g := s.rve.group.at' e.group (Group.reset e.group)
  let r := countEvent g (g.copy e.injected) e.cls (max s.now e.at')
  let c := r.1
  let act := r.2
  let (held, esc) : Option Class × Bool := match act with
    | none => (c.held, false)
    | some .note => (c.held, false)
    | some a => let h := holdClass c.held a; (some h.1, h.2)
  let s := modGroup e.group e.injected (fun _ => { c with held := held }) s
  let t := netTime s
  let entry : LogEntry :=
    { ns := timeNs t, seconds := timeS t % 2 ^ 32, source := e.group, injected := e.injected,
      activation := act.isSome, cls := e.cls, held := held, escalated := esc, lostBefore := false,
      seq := 0, detail := e.detail }
  let w := entrySeq s
  let seq := w.1
  let s := logEntry entry w.2
  let s := match act with
    | none => s
    | some .note => reeveIrq .note { s with rve.note := s.rve.note ||| BitVec.ofNat 64 (2 ^ e.group) }
    | some a =>
      let top := held.getD a
      let of' := if esc then top else a
      let s := if of' = .critical ∧ s.rve.crit.isNone then
          { s with rve.crit := some (e.group, composingSeq s) }
        else s
      let s := if of'.code ≥ 2 ∧ s.rve.first.isNone then
          { s with rve.first := some ⟨e.injected, top, e.group, seq⟩ }
        else s
      reeveIrq of' s
  if e.injected then injectDone e.group seq s else s

/-- The event the Reeve takes next (R430, R444, R448): the earliest, of those that came in one cycle the
lowest source first, a real one before an injected one. -/
def nextEvent (l : List Event) : Option Event :=
  match l with
  | [] => none
  | h :: _ =>
    let e := l.foldl (fun m x => if x.at' < m.at' then x else m) h
    let same := l.filter fun x => x.at' == e.at'
    let low := same.foldl (fun m x => min m x.group) e.group
    let mine := same.filter fun x => x.group == low
    match mine.find? fun x => !x.injected with
    | some x => some x
    | none => mine.head?

/-- An event reaches the Reeve (R430, R433). -/
def execReeveEvent (s : State) : Out :=
  .next (match nextEvent s.rve.inbox with
    | none => s
    | some e => processEvent e { s with rve.inbox := s.rve.inbox.erase e })

/-- Q has passed without an event (R439, R440). -/
def execReeveRecovery (g : Fin 64) (injected : Bool) (s : State) : Out :=
  let x := s.rve.group[g]
  let c := x.copy injected
  let due := (c.held == some .minor || c.held == some .major) && !c.latched && x.q != 0 &&
    !levelLine g.val s && !(s.rve.inbox.any fun e => e.group == g.val && e.injected == injected)
  .next (whenS (s.pwr.core && due)
    (modGroup g.val injected fun c =>
      if c.rec' + 1 ≥ x.rlimit then { c with latched := true }
      else { c with held := none, rec' := c.rec' + 1 }) s)

/-- The Reeve's heartbeat has been missing for 10 µs (R442). -/
def execReeveHeartbeatLoss (s : State) : Out :=
  .next (whenS (s.pwr.state == .run || s.pwr.state == .lightHold || s.pwr.state == .dim)
    (fun s => { s with rve.lostAo := true, rve.revive := false }) s)

/-- After a SYS reset the heartbeat has run for 1 ms (R442). -/
def execReeveHeartbeatRestored (s : State) : Out :=
  .next (whenS (s.pwr.core && s.rve.revive)
    (fun s => { s with rve.lostAo := false, rve.revive := false }) s)

/-- A write of RVE_INJ_KEY (R443). -/
def execRveInjKeyWrite (key : BitVec 16) (s : State) : Out :=
  .next (whenS (hostUp s) (fun s => { s with rve.injKey := key }) s)

/-- 60 s after a non-zero write (R443). -/
def execInjKeyExpiry (s : State) : Out := .next { s with rve.injKey := 0 }

/-- RVE_LOCK.LOCK (R449). -/
def execRveLockSet (s : State) : Out :=
  .next (whenS (hostUp s) (fun s => { s with rve.lock := true }) s)

/-- A group's held class at or above a level drives FAULT_N (R436, R437, R442). -/
def faultNLow (s : State) : Bool :=
  let drives (c : Counting) : Bool := match c.held with
    | some h => h == .critical || decide (s.rve.faultnClass.code ≤ h.code)
    | none => false
  s.pwr.wakeFail || s.rve.lostAo || s.rve.group.some' fun g => drives g.real || drives g.inj

/-- A mask of the groups that satisfy a test. -/
def groupMask (s : State) (p : Group → Bool) : BitVec 64 :=
  BitVec.ofNat 64 (((List.range 64).map fun g =>
    bn (p (s.rve.group.at' g (Group.reset g))) * 2 ^ g).sum)

/-- RVE_STATUS (R434, R444). -/
def rveStatus (s : State) : BitVec 64 :=
  groupMask s fun g => g.real.held.isSome || g.inj.held.isSome

/-- RVE_LATCHED (R439). -/
def rveLatched (s : State) : BitVec 64 := groupMask s fun g => g.real.latched || g.inj.latched

/-- RVE_SRCs_STATE.K (R433): the real events in the open window. -/
def windowCount (x : Group) (now : Nat) : Nat :=
  if x.real.winOpen && decide (now - x.real.winStart < x.w * 100000) then x.real.k else 0

/-- RVE_SRCs_STATE. -/
def srcState (g : Nat) (s : State) : Nat :=
  let x := s.rve.group.at' g (Group.reset g)
  let h (c : Counting) : Nat := match c.held with
    | some k => 4 + k.code
    | none => 0
  bn (levelLine g s) * 2 ^ 31 + bn (x.real.latched || x.inj.latched) * 2 ^ 30 + h x.inj * 2 ^ 27 +
    h x.real * 2 ^ 24 + x.real.rec' % 256 * 2 ^ 16 + windowCount x s.now * 2 ^ 8 + x.real.events

/-- FAULT_ACK on one group (R438, R439). -/
def ackGroup (g : Nat) (resetRec injOnly : Bool) (s : State) : State :=
  let f (c : Counting) : Counting :=
    let c := { c with held := none, winOpen := false }
    if resetRec then { c with rec' := 0, latched := false } else c
  let s := modGroup g true f s
  if injOnly then s
  else { modGroup g false f s with rve.note := s.rve.note &&& ~~~ BitVec.ofNat 64 (2 ^ g) }

/-- FAULT_ACK (R438, R446). -/
def faultAckRun (c : Cmd) (s : State) : State :=
  let named := (List.range 64).filter fun g => c.b (8 + g / 8) (g % 8)
  let inj := c.b 16 1
  let free := named.filter fun g => !levelLine g s
  let ends (g : Nat) : Bool :=
    let x := s.rve.group.at' g (Group.reset g)
    x.inj.held.isSome || (!inj && (x.real.held.isSome || bitOf s.rve.note g))
  let acked := ((free.filter ends).map fun g => 2 ^ g).sum
  let still := ((named.filter fun g => levelLine g s).map fun g => 2 ^ g).sum
  let s := free.foldl (fun s g => ackGroup g (c.b 16 0) inj s) s
  let s := if named.contains 0 && !inj then ackHedge s else s
  let s := if c.b 16 2 then { s with rve.crit := none } else s
  let s := if rveStatus s = 0 then { s with rve.first := none } else s
  finish c stSuccess (resAt 16 acked ||| resAt 24 still) s

/-- FAULT_ACK. -/
def faultAckBody : Body :=
  { check := fun c _ => firstFail [(c.f 8 0 64 == 0 && !c.b 16 2, stField)]
    run := faultAckRun }

/-- The 16 bytes of a log entry (table Log entry). -/
def LogEntry.word (e : LogEntry) : Nat :=
  let held := match e.held with
    | some k => k.code * 4 + 16
    | none => 0
  e.ns + e.seconds * 2 ^ 30 +
    (e.source + bn e.injected * 64 + bn e.activation * 128) * 2 ^ 64 +
    (e.cls.code + held + bn e.escalated * 32 + bn e.lostBefore * 64) * 2 ^ 72 +
    e.seq.toNat * 2 ^ 80 + e.detail.toNat * 2 ^ 96

/-- The log entry with a SEQ. -/
def logAt (seq : BitVec 16) (s : State) : Option LogEntry := s.rve.log.find? fun e => e.seq == seq

/-- RVE_LOG_STATUS.HEAD (R431). -/
def logHead (s : State) : BitVec 16 := match s.rve.log.getLast? with
  | some e => e.seq
  | none => 0

/-- Where an EXPORT from SEQ starts; none where it writes nothing (R447). -/
def exportFirst (seq : BitVec 16) (s : State) : Option (BitVec 16) :=
  match s.rve.log.head? with
  | none => none
  | some old =>
    if (logAt seq s).isSome then some seq
    else
      let d := (seq - logHead s).toNat
      if 1 ≤ d ∧ d ≤ 32767 then none else some old.seq

/-- RESULT of an EXPORT. -/
def faultExportResult (first : BitVec 16) (n : Nat) : Result := resAt 16 first.toNat ||| resAt 18 n

/-- R447: a field of a FAULT_READ out of range. -/
def frBad (c : Cmd) (s : State) : Bool :=
  c.f 8 0 2 == 3 &&
    (decide (c.f 12 0 10 < 1) || decide (c.f 12 0 10 > 512) || c.f 16 0 64 % 8 != 0 ||
      (c.b 8 2 && s.hif.hostless))

/-- FAULT_READ (R447). -/
def faultReadBody : Body :=
  { check := fun c s =>
      let seq : BitVec 16 := BitVec.ofNat 16 (c.f 10 0 16)
      firstFail
        [(frBad c s, stField), (c.f 8 0 2 == 1 && (logAt seq s).isNone, 0x0191#16)]
    run := fun c s =>
      let seq : BitVec 16 := BitVec.ofNat 16 (c.f 10 0 16)
      match c.f 8 0 2 with
      | 0 => finish c stSuccess (resAt 16 (rveStatus s).toNat ||| resAt 24 (rveLatched s).toNat) s
      | 1 => finish c stSuccess (match logAt seq s with
          | some e => resAt 16 e.word
          | none => 0) s
      | 2 =>
        let g := c.f 9 0 6
        let x := s.rve.group.at' g (Group.reset g)
        finish c stSuccess (resAt 16 (srcState g s) ||| resAt 20 (x.n + x.rlimit * 256) |||
          resAt 24 x.w ||| resAt 28 x.q) s
      | _ =>
        match exportFirst seq s with
        | none => finish c stSuccess (faultExportResult seq 0) s
        | some first =>
          let x : DmaDesc :=
            { lineXfer 0 false 0 (c.f 16 0 64) (c.b 8 2) 0 (16 * c.f 12 0 10) 1 with swidth := 3, dwidth := 3 }
          askTransfer { cmdJob c x false with pos := first.toNat, seq0 := first } s }

/-- DIAG_INJECT (R443, R448): a wrong key completes it, disarms injection and is recorded. -/
def injectBody : Body :=
  { check := fun c s => firstFail
      [ (decide (c.f 8 0 6 > 45) || c.f 10 0 8 == 0, stField),
        (s.rve.injKey == 0 || s.rve.injKey.toNat != c.f 16 0 16, 0x0190#16) ]
    fail := fun _ st s =>
      if st = 0x0190#16 then raise 45 .note 2 { s with rve.injKey := 0 } else s
    run := fun c s =>
      let g := c.f 8 0 6
      let k := Class.ofCode (c.f 9 0 2)
      let d : Word := BitVec.ofNat 32 (c.f 12 0 32)
      { s with
        rve.inbox := s.rve.inbox ++
          (List.range (c.f 10 0 8)).map fun i => ⟨g, k, d, true, s.now + 1000 * i⟩
        rve.injects := s.rve.injects ++
          [{ cmd := c, source := g, cls := k, detail := d, left := c.f 10 0 8, first := none }] } }

/-- FAULT_ACK. -/
def execFaultAck (src : Src) (d : Desc) (s : State) : Out := .next (runRow 0x60 faultAckBody src d s)

/-- FAULT_READ. -/
def execFaultRead (src : Src) (d : Desc) (s : State) : Out := .next (runRow 0x61 faultReadBody src d s)

/-- DIAG_INJECT. -/
def execDiagInject (src : Src) (d : Desc) (s : State) : Out := .next (runRow 0x62 injectBody src d s)

end Sys2Proof.Machine
end

