-- ==== Sys2Proof/Machine/Yoke.lean ====
section
/-!
DEFINITION. The Yoke's rows (spec/17_yoke.md) but for LATCH and its timeout, which take commits:
arbitration, messages, exclusion, handover, COPY, YOKE_SWITCH.
-/

namespace Sys2Proof.Machine

/-- The yoke lane's messages reach the Yoke: it is one of a pair and powered (R450, R457). -/
def hears (s : State) : Bool := s.pwr.core && yoked s

/-- A message of the partner has arrived (R468). -/
def heard (s : State) : State := { s with yok.lost := false, yok.lastMsg := s.now }

/-- A device that may claim (R454, R579), and why it would not hold what it wins (R453). -/
def mayClaim (s : State) : Bool :=
  s.pwr.core && (s.yok.state == .seek || s.yok.state == .standby) && !s.yok.holding &&
    (s.yok.pri || s.yok.mayClaim) && lit s && s.hdg.active.isSome && !s.hdg.selfHeld && !s.lpl.stall

/-- The line has been high for the quiet time (R454): the claim pulse starts. -/
def execYokeQuietTime (s : State) : Out :=
  .next (whenS (mayClaim s && s.yok.claim == .none)
    (fun s => { s with yok.claim := .pulse, yok.line := false }) s)

/-- The device gains the line (R374, R452, R469, R471). -/
def gainLine (s : State) : State :=
  let was := s.yok.state
  let given : Bool := match s.yok.handover with
    | some h => h.passed
    | none => false
  let s := { s with
    yok.claim := .none, yok.holding := true, yok.line := false, yok.following := false
    yok.mayClaim := true, yok.handover := none, yok.errorNs := 0, yok.leads := false
    yok.locked := false, yok.goodRun := 0, yok.badRun := 0
    yok.state := if was = .standby ∧ given then .active else .alone }
  let s :=
    if was = .standby ∧ given then { s with yok.handovers := bump 255 1 s.yok.handovers }
    else if was = .standby then
      yokeEvent 2 .major { s with yok.takeovers := bump 255 1 s.yok.takeovers }
    else s
  takeRails s

/-- The sample in the claim's release window (R454). -/
def execYokeClaimSample (high : Bool) (s : State) : Out :=
  .next (whenS (s.yok.claim != .none)
    (fun s =>
      if high && mayClaim s then gainLine s
      else { s with yok.claim := .none, yok.line := high }) s)

/-- The holder's check (R455): a low sample is contention. -/
def execYokeHolderCheck (high : Bool) (s : State) : Out :=
  .next (whenS (yoked s && s.yok.holding && !high)
    (fun s => yokeEvent 5 .major { releaseLine .seek
      { s with yok.contentions := bump 255 1 s.yok.contentions } with yok.line := false }) s)

/-- A RAIL message (R457, R374). -/
def execYokeRailMsg (m : Tab RailMsg 8) (s : State) : Out :=
  .next (whenS (hears s) (fun s => { heard s with yok.rails := m }) s)

/-- Compare the two signatures once both of a frame are there (R464, R465). -/
def compareSigs (s : State) : State :=
  match s.yok.ownSig, s.yok.partnerSig with
  | some a, some b =>
    if a.seq ≠ b.seq ∨ !paired s then s
    else
      let bad := a.sig != b.sig
      let s := { s with yok.partnerSig := none, yok.compared := some bad }
      let s := if bad then mismatchFrame s else setRun s
      excludeFor (if a.digest ≠ b.digest then 4 else if bad then mismatchReason s else 0) s
  | _, _ => s

/-- A SIG message (R464). -/
def execYokeSigMsg (m : Sig) (s : State) : Out :=
  .next (whenS (hears s) (fun s => compareSigs { heard s with yok.partnerSig := some m }) s)

/-- The follower makes an AGEING write of its leader (R355, R462). -/
def followAgeing (p v : Nat) (s : State) : State :=
  let w : WriteBack := { pixel := p, health := none, ageing := some v }
  (writePlanes s).foldl (fun s b => (writeField b w s).2) s

/-- SHARED inputs (R462): the follower in STANDBY takes them, and makes the leader's AGEING writes. -/
def execYokeSharedMsg (m : Shared) (s : State) : Out :=
  .next (whenS (hears s)
    (fun s =>
      if s.yok.state = .standby ∧ s.yok.holding = false then
        m.ageing.foldl (fun s a => followAgeing a.1 a.2 s) { heard s with yok.shared := some m }
      else heard s) s)

/-- The two devices are compatible (R472); 1 INCOMPATIBLE or 2 STRAP where not. -/
def incompatible (m : Hello) (s : State) : Nat :=
  let h := ownHello s
  if m.pri = h.pri then 2
  else if m.fwMajor = h.fwMajor ∧ m.fwMinor = h.fwMinor ∧ m.activeCrc = h.activeCrc ∧
      m.cmpCrc = h.cmpCrc ∧ m.geoCrc = h.geoCrc ∧ m.mapCrc = h.mapCrc then 0
  else 1

/-- Count from 0 again at pairing (R460): what was seen and not taken keeps its order. -/
def rebase (s : State) : State :=
  let t := s.yok.taken
  let ls := s.lpl.launches.zipIdx.map fun (x : Launch × Nat) => { x.1 with num := x.2 + 1 }
  { s with
    yok.own := ⟨s.yok.own.commits - t.commits, s.yok.own.masks - t.masks, ls.length⟩
    yok.atL := ⟨s.yok.atL.commits - t.commits, s.yok.atL.masks - t.masks,
      s.lpl.launches.countP fun l => decide (l.num ≤ s.yok.atL.launches)⟩
    yok.taken := ⟨0, 0, 0⟩
    lpl.shadowAt := match s.lpl.shadowAt with
      | .commit k => .commit (k - t.commits)
      | .launch k => .launch ((ls.zipIdx.find? fun x => (s.lpl.launches.getD x.2 x.1).num == k).elim 0 fun x => x.1.num)
      | p => p
    lpl.waits := s.lpl.waits.map fun w => { w with num := w.num - t.commits }
    lpl.launches := ls }

/-- A compatible HELLO of a device that does not hold the line (R473): STANDBY where the digests are equal or no LAT
has been sent, otherwise COPY, from a partner that holds it. -/
def joinPair (m : Hello) (s : State) : State :=
  if m.digest = s.yok.digest ∨ !m.sentLat then
    rebase { s with yok.state := .standby, yok.following := true, yok.leads := false, yok.locked := false }
  else if heldByPartner s then
    { s with yok.state := .copy, yok.following := true, yok.leads := false, yok.locked := false }
  else s

/-- A HELLO (R472, R473, R579): judged on the first after READY, and as long as the device is in SEEK. -/
def execYokeHelloMsg (m : Hello) (s : State) : Out :=
  .next (whenS (hears s)
    (fun s =>
      let first := s.yok.greet
      let s := { heard s with
        yok.hello := some m, yok.greet := false, yok.mayClaim := s.yok.mayClaim || m.active }
      let why := incompatible m s
      let loses := !s.yok.holding && (heldByPartner s ||
        (if m.pri = s.yok.pri then decide (s.part.serial.toNat < m.serial.toNat) else !s.yok.pri))
      if s.yok.state = .excluded ∨ s.yok.holding ∨ s.yok.claim ≠ .none then s
      else if !first && s.yok.state != .seek then s
      else if why ≠ 0 then if loses then exclude why s else s
      else joinPair m s) s)

/-- A TRIP (R466). -/
def execYokeTripMsg (s : State) : Out :=
  .next (whenS (hears s)
    (fun s =>
      let s := heard s
      if s.yok.holding then settleRails { s with yok.trip := true } else s) s)

/-- 20 µs after the last TRIP (R466). -/
def execYokeTripRelease (s : State) : Out :=
  .next (whenS s.yok.trip (fun s => settleRails { s with yok.trip := false }) s)

/-- A HANDOVER message (R471). -/
def execYokeHandoverMsg (seq : BitVec 16) (s : State) : Out :=
  .next (whenS (hears s)
    (fun s => if s.yok.holding then heard s else { heard s with yok.handover := some ⟨seq, false⟩ }) s)

/-- An EXCLUDE message (R465). -/
def execYokeExcludeMsg (reason : Fin 5) (s : State) : Out :=
  .next (whenS (hears s)
    (fun s => if s.yok.holding then heard s else exclude reason.val (heard s)) s)

/-- A copied block lands on the follower (R474). -/
def execYokeCopyBlock (block : Fin 1024) (data : List Byte) (s : State) : Out :=
  .next (whenS (hears s)
    (fun s =>
      -- only the Hedge writes the output double buffer (R107)
      if s.yok.state = .copy ∧ 72 ≤ block.val ∧ data.length = 65536 then
        storeBytes (block.val * 65536) data (heard s)
      else heard s) s)

/-- A launch copied from the holder: its command is the holder's, and completes there. -/
def foreignLaunch (s : State) (i : Nat) (l : Launch) : Launch :=
  { l with cmd := { l.cmd with src := .discard, ser := s.nextSer + i } }

/-- Composition and geometry as the follower takes them over (R475): the holder's settings, banks, boxes and
symbols; what this device has counted stays. -/
def adoptCompose (m own : Compose) : Compose :=
  { m with
    layer := m.layer.mapI fun n (l : Layer) =>
      let o := own.layer[n]
      { l with
        lateCount := o.lateCount, shownSeq := o.shownSeq, oversteps := o.oversteps
        overstepPx := o.overstepPx, parity := o.parity }
    was := own.was, late := own.late, symSel := own.symSel }

/-- Photometry as the follower takes it over (R475): the holder's settings, fade and budget state; what this
device has measured, its override list and its zone copy stay (R204; log entry 121). -/
def adoptPhoto (m own : Photo) : Photo :=
  { m with
    planeCmd := none, shortfall := own.shortfall, shortZone := own.shortZone
    shortAmount := own.shortAmount, shortPx := own.shortPx, satCnt := own.satCnt
    dThermal := own.dThermal, temp := own.temp, noTemp := own.noTemp, subst := own.subst
    tempSubst := own.tempSubst, overrides := own.overrides, ovrFull := own.ovrFull
    zoneCopy := own.zoneCopy }

/-- The rail settings of a SNAPSHOT (R475). -/
def adoptRails (m : Tab RailMsg 8) (r : Tab Rail 8) : Tab Rail 8 :=
  r.mapI fun k r => { r with en := (m[k]).en, vSet := (m[k]).vSet, iLim := (m[k]).iLim }

/-- The words and fades of the auxiliary chains in a SNAPSHOT (R475). -/
def adoptAux (m : Tab (List Nat × List AuxFade) 4) (a : Tab Aux 4) : Tab Aux 4 :=
  a.mapI fun c a => { a with words := (m[c]).1, fades := (m[c]).2 }

/-- A SNAPSHOT (R475): the follower's settings are the holder's, and it is in STANDBY. -/
def takeSnapshot (m : Snapshot) (s : State) : State :=
  let ls := m.launches.zipIdx.map fun x => foreignLaunch s x.2 x.1
  { s with
    cmp := adoptCompose m.cmp s.cmp, pho := adoptPhoto m.pho s.pho, lpl.timing := m.timing
    lpl.mapNext := m.map, lpl.heldTiming := m.heldTiming, lpl.budgetMap := m.budgetMap
    lpl.heldMap := m.heldMap, lpl.shadow := m.shadow, lpl.shadowAt := .gone, lpl.launches := ls
    nextSer := s.nextSer + ls.length, yok.own := m.counts, yok.taken := m.counts, yok.atL := m.counts
    yok.digest := m.digest, rail.rail := adoptRails m.rails s.rail.rail, aux := adoptAux m.aux s.aux
    yok.rails := m.rails, yok.state := .standby, yok.following := true, yok.leads := false }

/-- A SNAPSHOT arrives (R475). -/
def execYokeSnapshot (m : Snapshot) (s : State) : Out :=
  .next (whenS (hears s)
    (fun s => if s.yok.state = .copy then settleRails (takeSnapshot m (heard s)) else heard s) s)

/-- No message for 50 µs (R468). -/
def execPartnerLoss (s : State) : Out :=
  .next (whenS (s.yok.hello.isSome || s.yok.partner.isSome) partnerLost s)

/-- The leader's LATCH has been absent for 2 periods (R458, R459). -/
def execLeaderLatchTimeout (s : State) : Out :=
  .next (whenS s.yok.following (fun s => leadOn { s with yok.shared := none }) s)

/-- Begin a handover at the next latch point (R471). -/
def startHandover (s : State) : State :=
  sendYoke .handover [(s.lpl.composing + 1).toNat]
    { s with yok.handover := some ⟨s.lpl.composing + 1, false⟩ }

/-- The partner is locked in STANDBY. -/
def partnerReady (s : State) : Bool :=
  partnerIn .standby s && match s.yok.partner with
    | some p => p.locked
    | none => false

/-- The primary has been clean for RETURN_S (R471). -/
def execYokeReturnTimer (s : State) : Out :=
  .next (whenS (s.yok.returnEn && s.yok.holding && !s.yok.pri && partnerReady s &&
      s.yok.handover.isNone) startHandover s)

/-- 1 µs after the latch point named in HANDOVER (R471). -/
def execYokeHandoverRelease (s : State) : Out :=
  let due : Bool := match s.yok.handover with
    | some h => h.passed
    | none => false
  .next (whenS (s.yok.holding && due)
    (fun s => releaseLine .standby { s with
      yok.handover := none, yok.following := true, yok.leads := false
      yok.handovers := bump 255 1 s.yok.handovers }) s)

/-- 2 s since the secondary's block became active (R579). -/
def execYokeSecondaryClaimTimeout (s : State) : Out :=
  .next (whenS s.hdg.active.isSome (fun s => { s with yok.mayClaim := true }) s)

/-- One rail as a message gives it (R457): EN, V_SET, I_LIM, the duty of a rail that switches and 0 otherwise,
and the input estimate VS × 2^16 / duty (R374; log entry 121). -/
def railMsg (r : Rail) : RailMsg :=
  let duty := if r.switching then r.duty else 0
  { en := r.en, vSet := r.vSet, iLim := r.iLim, duty := duty
    vin := if duty = 0 then 0 else (roundEven (r.vs * 65536 : Nat) duty).toNat }

/-- One rail of a RAIL message as words. -/
def railWords (r : Rail) : List Nat :=
  let m := railMsg r
  [bn m.en, m.vSet, m.iLim, m.duty, m.vin]

/-- What the holder's SNAPSHOT carries (R475). -/
def ownSnapshot (s : State) : Snapshot :=
  { cmp := s.cmp, pho := s.pho, timing := s.lpl.timing, map := s.lpl.mapNext
    heldTiming := s.lpl.heldTiming, budgetMap := s.lpl.budgetMap, heldMap := s.lpl.heldMap
    shadow := s.lpl.shadow, launches := s.lpl.launches, counts := s.yok.own, digest := s.yok.digest
    rails := s.rail.rail.map' railMsg, aux := s.aux.map' fun a => (a.words, a.fades) }

/-- Send SNAPSHOT, if the yoke lane is READY (R457, R475). -/
def sendSnapshot (s : State) : State :=
  if yoked s && s.yok.lane.state == .ready then emit (.snapshot (ownSnapshot s)) s else s

/-- The timed messages (R457): 0 RAIL, 1 TRIP, 2 HELLO. -/
def execYokePeriodicMessage (kind : Fin 3) (s : State) : Out :=
  .next (match kind with
    | 0 => whenS s.yok.holding
        (sendYoke .rail (s.rail.rail.toList.flatMap railWords)) s
    | 1 => whenS (!s.yok.holding && s.hdg.wantsOff && !s.hdg.selfHeld)
        (fun s => sendYoke .trip
          [((List.finRange 9).map fun c => bn (s.hdg.cause[c]).active * 2 ^ c.val).sum] s) s
    | 2 => sendHello s)

/-- No LATCH within 1 ms (R467). -/
def execCoverBitExpiry (s : State) : Out := .next { s with yok.cover := 0 }

/-- Blocks of the enabled regions with PIPE_R (R474), ascending. -/
def copyBlocks (s : State) : List Nat := (List.range 1024).filter fun b => blockGrants s 1 b

/-- The device reads a block to copy (R118, R121): a background read of its own, which no region is asked about
(log entry 133). -/
def readBlock (b : Nat) (s : State) : State := (readMarked .cores (b * 65536) 65536 s).2

/-- A COPY pass over the regions ends on the holder (R474). -/
def execYokeCopyPassEnd (s : State) : Out :=
  .next (whenS (s.yok.holding && partnerIn .copy s && s.yok.lane.state == .ready)
    (fun s =>
      let l := s.yok.copyLeft
      let s := l.foldl
        (fun s b => sendYoke .copy (b :: (grnRead s (b * 65536) 65536).map BitVec.toNat) (readBlock b s)) s
      { s with
        yok.copyDone := s.yok.copyDone || decide (l.length ≤ 16)
        yok.copyLeft := s.yok.dirty, yok.dirty := [], yok.sentInPass := l.length }) s)

/-- YOK_CNT_CLEAR.COUNT (R477). -/
def execYokCntClearCount (s : State) : Out :=
  .next (whenS (hostUp s)
    (fun s => { s with
      yok.alignMiss := 0, yok.contentions := 0, yok.handovers := 0, yok.takeovers := 0 }) s)

/-- YOK_CNT_CLEAR.CHECK (R477). -/
def execYokCntClearCheck (s : State) : Out :=
  .next (whenS (hostUp s) (fun s => { s with yok.frames := 0 }) s)

/-- YOKE_SWITCH (R476). -/
def yokeSwitchBody : Body :=
  { check := fun c s =>
      let sub := c.f 8 0 2
      firstFail
        [ (sub == 3, stField), (!yoked s, 0x01A1#16),
          (decide (sub < 2) && !s.yok.holding, stState),
          (sub == 2 && s.yok.state != .excluded, stState),
          (sub == 0 && !partnerReady s, 0x01A0#16), (sub == 1 && !partnerIn .copy s, 0x01A0#16) ]
    run := fun c s =>
      match c.f 8 0 2 with
      | 0 => startHandover { s with yok.jobs := s.yok.jobs ++ [{ cmd := c, sub := 0, sent := none }] }
      | 1 => { s with yok.jobs := s.yok.jobs ++ [{ cmd := c, sub := 1, sent := none }] }
      | _ => finishOk c { s with yok.state := .seek, yok.reason := 0, yok.run := 0, yok.greet := true } }

/-- YOKE_SWITCH. -/
def execYokeSwitch (src : Src) (d : Desc) (s : State) : Out := .next (runRow 0x70 yokeSwitchBody src d s)

/-- The partner holds the line: a HANDOVER command completes (R476). -/
def handoverDone (s : State) : State :=
  if !partnerHolds s ∨ s.yok.holding then s
  else
    (s.yok.jobs.filter fun j => j.sub == 0).foldl (fun s j => finishOk j.cmd s)
      { s with yok.jobs := s.yok.jobs.filter fun j => j.sub != 0 }

/-- Lanes of this device that are READY, for LATCH (R457). -/
def ownReady (s : State) : BitVec 24 :=
  BitVec.ofNat 24 (((List.finRange 24).map fun n =>
    bn ((s.link.lane[n]).state == .ready) * 2 ^ n.val).sum)

/-- The frame signature (R464): CRC-32C of the clamped codes in write order. -/
def frameSig (f : Frame) : Word :=
  Env.crc32c ((List.range Pipe.pixels).flatMap fun p => leBytes 2 (Pipe.code f p))

/-- What a yoked device sends and compares at its latch point (R457, R464, R471, R475): the number just
reached is LPL_SEQ.COMPOSING; `judged` is the frame judged. -/
def yokeAtLatch (judged : Option Frame) (s : State) : State :=
  if !yoked s then s
  else
    let s := sendYoke .latch
      [s.lpl.composing.toNat, toBits 128 s.lpl.tL, s.lpl.timing.period, s.yok.own.commits,
       s.yok.own.masks, s.yok.own.launches, s.yok.state.code, bn (s.yok.locked || s.yok.holding),
       (ownReady s).toNat] (checkAtLatch s)
    let s := match judged with
      | some f =>
        let g : Sig := ⟨f.seq, frameSig f, s.hdg.activeCrc, s.yok.digest⟩
        compareSigs (sendYoke .sig [g.seq.toNat, g.sig.toNat, g.activeCrc.toNat, g.digest.toNat]
          { s with yok.ownSig := some g })
      | none => s
    let s := match s.yok.handover with
      | some h =>
        if h.seq = s.lpl.composing then { s with yok.handover := some { h with passed := true } }
        else if h.passed && !s.yok.holding then { s with yok.handover := none }
        else s
      | none => s
    let done := s.yok.jobs.filter fun j => j.sub == 1 && j.sent.isSome
    let s := done.foldl
      (fun s j =>
        if j.cmd.commit then finishOk j.cmd s else complete j.cmd stSuccess s.lpl.composing 0 s)
      { s with
        yok.jobs := s.yok.jobs.filter fun j => !(j.sub == 1 && j.sent.isSome)
        yok.state := if done.isEmpty || !s.yok.holding then s.yok.state else .active }
    let ready := s.yok.copyDone && s.yok.dirty.isEmpty && s.yok.copyLeft.isEmpty &&
      s.running.all fun c => (s.yok.jobs.any fun j => j.cmd.ser == c.ser && j.sub == 1) ||
        s.lpl.launches.any fun l => l.cmd.ser == c.ser
    if ready && (s.yok.jobs.any fun j => j.sub == 1) then
      sendSnapshot
        { s with yok.jobs := s.yok.jobs.map fun j =>
            if j.sub = 1 then { j with sent := some (s.lpl.composing + 1) } else j }
    else s

end Sys2Proof.Machine
end

