-- ==== Sys2Proof/Machine/Take.lean ====
section
/-!
DEFINITION. What the Lamplighter takes at a latch point: launches, commits, masks, timing, the tile map,
layer settings (spec/05_composition.md R149 to R153, spec/09_lamplighter.md R264 to R283).
-/

namespace Sys2Proof.Machine

/-- A composition starts in the VBI that follows (R416, R420). -/
def willCompose (s : State) : Bool := s.lpl.work.isNone && !s.thm.shutdown

/-- Complete a command at its take; with no composition starting it waits for the next start (R417). -/
def takeDone (c : Cmd) (st : BitVec 16) (r : Result) (s : State) : State :=
  if willCompose s then complete c st s.lpl.composing r s
  else { s with lpl.taken := s.lpl.taken ++ [⟨c, 0, st, r⟩] }

/-- The network time t_L of a latch point, in its cycle (R262): its grid time in NETWORK mode, otherwise the Bellhouse
time. -/
def ownLatchTime (s : State) : Int :=
  let t := s.lpl.timing
  if t.source = .network ∧ !s.yok.following ∧ s.pwr.start.isNone then
    let e := mkTime t.epochS t.epochNs
    e + roundEven (netTime s - e) (t.period * 65536) * ((t.period * 65536 : Nat) : Int)
  else netTime s

/-- The t_L that launches use at the latch point just passed (R262, R460): the leader's, or this device's own. -/
def latchTime (s : State) : Int :=
  match s.yok.following, s.yok.partner with
  | true, some p => if p.seq = s.lpl.composing then p.time else s.lpl.tL
  | _, _ => s.lpl.tL

/-- The settings a layer would have with its pending ones (R152). -/
def Layer.next (l : Layer) : LayerSet := l.pending.getD l.cur

/-- Change a layer's next settings. -/
def stageLayer (n : Fin 9) (f : LayerSet → LayerSet) (s : State) : State :=
  { s with cmp.layer := s.cmp.layer.upd n fun l => { l with pending := some (f l.next) } }

/-- Words of a chain on their way to the values taken (R526, R527); one on its way already is
replaced. -/
def takeAux (c : Fin 4) (first : Nat) (words : List Nat) (frames : Nat) (s : State) : State :=
  let new (a : Aux) : List AuxFade := words.zipIdx.map fun (x : Nat × Nat) =>
    { word := first + x.2, start := a.words.getD (first + x.2) 0, target := x.1, n := max 1 frames,
      k := 0 }
  let keep (a : Aux) : List AuxFade :=
    a.fades.filter fun x => decide (x.word < first ∨ first + words.length ≤ x.word)
  { s with aux := s.aux.upd c fun a => { a with fades := keep a ++ new a } }

/-- Apply one write of the shadow; timing and map writes go their own way (R276, R280). -/
def applyWrite (s : State) (w : ShadowWrite) : State :=
  match w with
  | .layer n c => stageLayer n (fun l => { l with cfg := c }) s
  | .pEnable on => { s with cmp.pEnable := on }
  | .warp n x => stageLayer n (fun l => { l with warp := x }) s
  | .shown m => { s with cmp.show' := m }
  | .order o => { s with cmp.order := o }
  | .timing _ => s
  | .map _ _ => s
  | .bin b v => { s with pho.bins := s.pho.bins.put b v }
  | .defaultRec r => { s with pho.defaultRec := r }
  | .plane b => { s with pho.plane := some (.copying b) }
  | .fade t q us => startFade t q us s
  | .budget l r => { s with pho.limit := l, pho.rise := r }
  | .aux c f ws n => takeAux c f ws n s

/-- GEO_LAYERn_CFG bits [7:0] of a warp. -/
def warpByte (w : Warp) : Nat :=
  (match w.mode with
    | .projective => 0
    | .scale => 1
    | .direct => 2) + bn w.clamp * 4 + w.bank.val * 16

/-- GEO_PROT_CRC of P's committed warp (R184). -/
def geoCrc (s : State) : Word :=
  let w := (s.cmp.layer[(8 : Fin 9)]).next.warp
  let bank := s.cmp.bank[(8 : Fin 9)][w.bank]
  Env.crc32c ((w.h.toList.flatMap fun x => leBytes 4 (toBits 32 x)) ++ leBytes 4 (warpByte w) ++
    leBytes 4 (if bank.kind = .bilinear then 0 else bank.crc.toNat))

/-- Writes change P's warp. -/
def writesP (l : List ShadowWrite) : Bool :=
  l.any fun w => match w with
    | .warp n _ => n.val == 8
    | _ => false

/-- Apply a list of writes that one take carries (R184, R265). -/
def applyWrites (l : List ShadowWrite) (s : State) : State :=
  let s := l.foldl applyWrite s
  if writesP l then { s with cmp.geoProtCrc := geoCrc s } else s

/-- The last timing among writes. -/
def timingWrite (l : List ShadowWrite) : Option Timing :=
  l.foldl (fun t w => match w with
    | .timing x => some x
    | _ => t) none

/-- A change that R266 names. -/
def timingMoves (a b : Timing) : Bool :=
  a.source != b.source || a.period != b.period || a.vbi != b.vbi || a.syncOffset != b.syncOffset ||
    a.syncFalling != b.syncFalling || a.epochS != b.epochS || a.epochNs != b.epochNs

/-- The lock under the timing in force is declared (R267, R283). -/
def declareLock (s : State) : State :=
  { s with
    lpl.hold := false
    lpl.locked := true
    lpl.relock := none
    lpl.timingWait := s.lpl.timingWait.map (lockWait false) }

/-- A new timing governs from this latch point (R266 to R268); FREE locks at once, unless DIM has changed
lane rates (R390), and a follower's latch points stay its leader's (R458). -/
def governTiming (s : State) : State :=
  let s := { s with lpl.syncLost := false, lpl.holdover := false }
  if s.yok.following || (s.lpl.timing.source == .free && s.lpl.relock.isNone) then declareLock s
  else
    { s with
      lpl.hold := true
      lpl.locked := false
      lpl.goodRun := 0
      lpl.badRun := 0
      lpl.lastEdge := none
      lpl.intervals := []
      lpl.goodEdge := none }

/-- The rate DIM, or the return from it, gives a lane (R390, R391). -/
def dimLaneRate (q : DimReq) (n : Fin 24) (s : State) : Nat :=
  let l := s.link.lane[n]
  match q.dim, s.pwr.dim with
  | some d, _ => dimCap d n l
  | none, some d => d.savedRates[n]
  | none, none => l.targetRate

/-- The lanes whose rate DIM changes. -/
def dimLanes (q : DimReq) (s : State) : List (Fin 24) :=
  (laneList s).filter fun n => (s.link.lane[n]).entry.used &&
    dimLaneRate q n s != (s.link.lane[n]).targetRate

/-- A lane that DIM, or the return from it, gives another rate starts a warm bring-up (R390, R391): one that is
READY or in the midst of a bring-up. -/
def Lane.retimes (l : Lane) : Bool :=
  match l.state with
  | .off | .down | .loopback => false
  | _ => true

/-- DIM is entered or left at its take (R390, R391): lanes whose rate changes bring up warm. -/
def takeDim (q : DimReq) (s : State) : State :=
  let l := dimLanes q s
  let one (s : State) (n : Fin 24) : State :=
    let m := Fin.castSucc n
    let r := dimLaneRate q n s
    let moves := (s.link.lane[n]).retimes
    let s := modLane m (fun l => { l with targetRate := r }) s
    if moves then enterDetect m true 0 s else s
  let s := l.foldl one s
  let new : PState := if q.dim.isSome then .dim else .run
  let hold := s.pwr.state == .lightHold
  { s with
    pwr.state := if hold then .lightHold else new
    pwr.lastState := if hold then s.pwr.lastState else s.pwr.state
    pwr.cores.holdFrom := if hold then some new else none
    pwr.dim := q.dim
    pwr.dimReq := none
    lpl.relock := if l.isEmpty then s.lpl.relock else some 2 }

/-- The DIM request among the commands being taken. -/
def dimOf (l : List CommitWait) (s : State) : Option DimReq :=
  s.pwr.dimReq.filter fun q => l.any fun w => w.cmd.ser == q.cmd.ser

/-- A TIMING_SET or a DIM waits for its first LAT (R283, R405). -/
def waitTiming (c : Cmd) (s : State) : State :=
  let w : TimingWait :=
    { cmd := c, seq := s.lpl.composing, frames := 0, lockFrames := none, noLock := false, held := true
      unstarted := false }
  { s with lpl.timingWait := s.lpl.timingWait ++ [w] }

/-- Complete a command that waited for its first LAT with the COMMIT_TAKEN of its take; where no
composition has started since, that is known at the next start (R283, R417). -/
def endTiming (st : BitVec 16) (r : Result) (s : State) (w : TimingWait) : State :=
  if w.unstarted then { s with lpl.taken := s.lpl.taken ++ [⟨w.cmd, 0, st, r⟩] }
  else complete w.cmd st w.seq r s

/-- TIMING_SETs under the timing in force that wait while HOLD is set end with TIMING_REPLACED (R268); DIM's
commands have no such end (R405). -/
def replaceTiming (s : State) : State :=
  let old (w : TimingWait) : Bool := !w.held && w.cmd.opcode == 0x18
  (s.lpl.timingWait.filter old).foldl (endTiming 0x0145#16 0)
    { s with lpl.timingWait := s.lpl.timingWait.filter fun w => !old w }

/-- A timing commit replaces, while HOLD is set, a timing that is held under R280 (R268): the TIMING_SET that waited
with it ends. -/
def replaceHeld (ws : List ShadowWrite) (s : State) : State :=
  let old (w : TimingWait) : Bool := w.held && decide (0 < w.frames) && w.cmd.opcode == 0x18
  if (timingWrite ws).isNone || !s.lpl.hold then s
  else (s.lpl.timingWait.filter old).foldl (endTiming 0x0145#16 0)
    { s with lpl.timingWait := s.lpl.timingWait.filter fun w => !old w }

/-- The map settings of one take (R276, R280): those to apply now, and those that wait for a confirmed
block. -/
def splitMap (ws : List ShadowWrite) (s : State) :
    List (Fin 96 × MapEntry) × List (Fin 96 × MapEntry) :=
  let low := s.hdg.commissionLow && !s.lpl.mapGo
  (s.lpl.budgetMap ++ (if s.lpl.mapGo then s.lpl.heldMap else []) ++ (if low then [] else mapWrites ws),
   (if s.lpl.mapGo then [] else s.lpl.heldMap) ++ (if low then mapWrites ws else []))

/-- A timing, where one is taken, and map settings that fit take effect (R266, R268, R280). -/
def applyTimingMap (t : Option Timing) (m : TileMap) (s : State) : State :=
  let moved := match t with
    | some x => timingMoves s.lpl.timing x || s.lpl.hold
    | none => false
  let s := if t.isSome && s.lpl.hold then replaceTiming s else s
  let enter (w : TimingWait) : TimingWait :=
    if t.isSome && w.held then
      { w with held := false, seq := s.lpl.composing, frames := 0, unstarted := !willCompose s }
    else w
  let s := { s with
    lpl.budgetHold := false, lpl.heldTiming := none, lpl.budgetMap := [], lpl.mapNext := m
    lpl.timing := t.getD s.lpl.timing, lpl.timingWait := s.lpl.timingWait.map enter }
  if moved || (t.isSome && s.lpl.relock.isSome) then governTiming s
  else if t.isSome then { s with lpl.timingWait := s.lpl.timingWait.map (lockWait false) }
  else s

/-- Timing and map settings that do not fit the lanes stay pending; the MINOR is raised once (R280). -/
def holdBudget (t : Option Timing) (go : List (Fin 96 × MapEntry)) (s : State) : State :=
  let s' := { s with lpl.budgetHold := true, lpl.heldTiming := t, lpl.budgetMap := go }
  if s.lpl.budgetHold then s' else raise 5 .minor (2 + s.lpl.composing.toNat * 65536) s'

/-- Timing and map settings of the writes taken (R276, R280): the map waits for a block while
COMMISSION_N is low, and neither is taken while a lane does not fit. -/
def takeTimingMap (ws : List ShadowWrite) (dim : Option DimReq) (s : State) : State :=
  let t := (timingWrite ws).orElse fun _ => s.lpl.heldTiming
  let x := splitMap ws s
  let s := replaceHeld ws { s with lpl.mapHold := !x.2.isEmpty, lpl.heldMap := x.2 }
  let s := match dim with
    | some q => takeDim q s
    | none => s
  if t.isNone && x.1.isEmpty then s
  else
    let m := putMap s.lpl.mapNext x.1
    match budgetFault (fun n => budgetRate (s.link.lane[n])) (t.getD s.lpl.timing).active m s with
    | some _ => holdBudget t x.1 s
    | none => applyTimingMap t m s

/-- A source meets the condition of R152. -/
def sourceReady (c : LayerCfg) (s : State) : Bool :=
  match c.source with
  | .slot k => !(s.cmp.slotBusy.at' k false)
  | .symbol id => (s.cmp.sym[id]).state == .valid
  | _ => true

/-- A pending layer is ready: its source, and the bank its warp names (R152, R153, R180). -/
def layerReady (n : Fin 9) (p : LayerSet) (s : State) : Bool :=
  sourceReady p.cfg s &&
    (p.warp.mode == .direct || (s.cmp.bank[n][p.warp.bank]).state == .ready)

/-- One layer at a latch point (R152, R153, R155, R181). P is never late (R145): while its new settings are
not ready they stay pending, and no event counts it (log entry 100). -/
def settleLayer (s : State) (n : Fin 9) : State :=
  let bit := BitVec.ofNat 8 (2 ^ n.val)
  let s := { s with cmp.late := s.cmp.late &&& ~~~ bit }
  match (s.cmp.layer[n]).pending with
  | none => s
  | some p =>
    if layerReady n p s then
      { s with cmp.layer := s.cmp.layer.upd n fun l => { l with
          cur := p, pending := none, fallback := none, fresh := true } }
    else if layerShown n s && n.val != 8 then
      let s := { s with cmp.late := s.cmp.late ||| bit }
      if willCompose s then lateEvent n s.lpl.composing s else s
    else s

/-- LAYER_LATE, or LATE for a late launch, with their RESULT (R160). -/
def presentStatus (late : Bool) (s : State) : BitVec 16 × Result :=
  (if s.cmp.late ≠ 0 then 0x0114#16 else if late then stLate else stSuccess,
   resAt 16 s.cmp.late.toNat ||| resAt 17 (bn late))

/-- Settings held under R276 or R280 before are taken in the state after. -/
def heldTaken (before after : State) : Bool :=
  (before.lpl.budgetHold || (before.lpl.mapHold && before.lpl.mapGo)) && !after.lpl.budgetHold

/-- A TILE_MAP_SET has entries that are not taken yet (R276, R280, R284). -/
def mapStays (s : State) (c : Cmd) : Bool :=
  c.opcode == 0x19 && (s.lpl.heldMap ++ s.lpl.budgetMap).any fun x =>
    decide (c.f 8 0 7 ≤ x.1.val ∧ x.1.val < c.f 8 0 7 + c.f 9 0 5)

/-- TILE_MAP_SETs whose entries are taken now complete (R284). -/
def mapDone (s : State) : State :=
  let go := s.lpl.mapWait.filter fun w => !mapStays s w.cmd
  go.foldl (fun s w => takeDone w.cmd w.status w.result s)
    { s with lpl.mapWait := s.lpl.mapWait.filter fun w => mapStays s w.cmd }

/-- Complete a command whose commit has been taken (R62, R160, R283, R405). -/
def commitDone (s : State) (w : CommitWait) : State :=
  if w.cmd.opcode = 0x18 ∨ w.cmd.opcode = 0x38 then s
  else if mapStays s w.cmd then { s with lpl.mapWait := s.lpl.mapWait ++ [w] }
  else if w.cmd.opcode = 0x11 then
    let x := presentStatus false s
    takeDone w.cmd x.1 x.2 s
  else takeDone w.cmd w.status w.result s

/-- A launch is late at the latch point that takes it (R271). -/
def launchLate (l : Launch) (s : State) : Bool :=
  l.late || decide (latchTime s - mkTime l.s l.ns ≥ ((periodNow s * 65536 : Nat) : Int))

/-- Complete the command of a launch taken (R160, R271, R505). -/
def launchDone (s : State) (x : Launch × Bool) : State :=
  let s := if x.2 then { s with lpl.lateLaunches := bump 65535 1 s.lpl.lateLaunches } else s
  if x.1.cmd.opcode = 0x11 then
    let r := presentStatus x.2 s
    takeDone x.1.cmd r.1 r.2 s
  else takeDone x.1.cmd (if x.2 then stLate else stSuccess) 0 s

/-- Insert a launch in LAUNCH order, after those with an equal LAUNCH. -/
def insertLaunch (x : Launch) : List Launch → List Launch
  | [] => [x]
  | y :: r => if mkTime y.s y.ns ≤ mkTime x.s x.ns then y :: insertLaunch x r else x :: y :: r

/-- Launches in the order they are taken (R270). -/
def launchOrder (l : List Launch) : List Launch := l.foldl (fun a x => insertLaunch x a) []

/-- A MASK_UPDATE may be taken at the latch point just passed (R149); none is in LIGHT_HOLD (R151). -/
def maskDue (s : State) (m : MaskEntry) : Bool :=
  coresUp s && decide (m.cmd.arr + 50000 ≤ s.lpl.lastLatch) &&
    !(s.running.any fun c => sameLine c.src m.cmd.src && decide (c.ser < m.cmd.ser))

/-- Take one MASK_UPDATE (R150); CLEAR_ALL disables the boxes it does not name (R164). -/
def takeMask (s : State) (m : MaskEntry) : State :=
  let box := if m.clearAll then s.cmp.box.map' fun b => { b with enable := false } else s.cmp.box
  let s := { s with
    cmp.box := m.boxes.foldl (fun (t : Tab Box 64) (b : Nat × Box) => t.updN b.1 fun _ => b.2) box
    cmp.maskSeq := s.lpl.composing
    maskQ := s.maskQ.filter fun x => x.cmd.ser != m.cmd.ser
    yok.taken.masks := s.yok.taken.masks + 1 }
  takeDone m.cmd stSuccess 0 s

/-- How much of what was seen up to the latch point just passed may be taken (R264, R460): in a pair, up to
the lower of the two counts. -/
def takeLimit (s : State) : TakeCounts :=
  let own := s.yok.atL
  match paired s, s.yok.partner with
  | true, some p =>
    if p.seq = s.lpl.composing then
      ⟨min own.commits p.counts.commits, min own.masks p.counts.masks,
       min own.launches p.counts.launches⟩
    else own
  | _, _ => own

/-- The general shadow, as it stood at the latch point, that a launch taken commits with its slot (R159, R270); a
commit seen by then that the pair may not take yet keeps later writes back (log entry 103). -/
def launchShadow (due : List Launch) (n : Nat) (s : State) : List ShadowWrite :=
  if due.isEmpty || decide (n < s.yok.atL.commits - s.yok.taken.commits) then [] else s.lpl.shadowL

/-- Writes of the general shadow at the latch point, once taken, go from where they are since (R270). -/
def dropShadow (l : List ShadowWrite) (s : State) : State :=
  match s.lpl.shadowAt with
  | .general => { s with lpl.shadow := s.lpl.shadow.drop l.length }
  | .commit k => { s with
      lpl.seen := s.lpl.seen.modify (k - s.yok.taken.commits - 1) fun w => w.drop l.length }
  | .launch k => { s with
      lpl.launches := s.lpl.launches.map fun x => if x.num = k then { x with writes := x.writes.drop l.length } else x }
  | .gone => s

/-- Everything taken at the latch point just passed, up to the counts given (R149, R265, R270, R460). -/
def takeAll (lim : TakeCounts) (s : State) : State :=
  let tL := latchTime s
  let due := launchOrder (s.lpl.launches.filter fun l =>
    decide (l.num ≤ lim.launches) && decide (mkTime l.s l.ns ≤ tL))
  let lates := due.map fun l => (l, launchLate l s)
  let n := lim.commits - s.yok.taken.commits
  let general := launchShadow due n s
  let ws := (due.flatMap fun l => l.writes) ++ (s.lpl.seen.take n).flatten ++ general
  let done := s.lpl.waits.filter fun w => decide (w.num ≤ lim.commits)
  let masks := (s.maskQ.filter (maskDue s)).take (lim.masks - s.yok.taken.masks)
  let took := decide (0 < n) || !due.isEmpty
  let s := dropShadow general s
  let s := { s with
    lpl.launches := s.lpl.launches.filter fun l => !(due.any fun x => x.num == l.num)
    lpl.seen := s.lpl.seen.drop n
    lpl.shadowL := [], lpl.shadowAt := .gone
    lpl.waits := s.lpl.waits.filter fun w => decide (w.num > lim.commits)
    lpl.commitPending := !(s.lpl.seen.drop n).isEmpty
    yok.taken.commits := s.yok.taken.commits + min n s.lpl.seen.length
    yok.counted := true }
  let s := (done.filter fun w => w.cmd.opcode == 0x18 || w.cmd.opcode == 0x38).foldl
    (fun s w => waitTiming w.cmd s) s
  let before := s
  let s := takeTimingMap ws (dimOf done s) s
  let took := took || heldTaken before s
  let s := applyWrites ws s
  let s := { s with lpl.mapGo := false }
  let s := (List.finRange 9).foldl settleLayer s
  let s := if !took then s
    else if willCompose s then { s with lpl.commitTaken := s.lpl.composing }
    else { s with lpl.heldTake := true }
  let s := lates.foldl launchDone (done.foldl commitDone (mapDone s))
  masks.foldl takeMask s

end Sys2Proof.Machine
end

