-- ==== Sys2Proof/Machine/Latch.lean ====
section
/-!
DEFINITION. The latch point (R255 of spec/09_lamplighter.md): LATs, the buffer choice and the Hedge's
judgement, what is taken; and a partner's LATCH message.
-/

namespace Sys2Proof.Machine

/-- The Lamplighter places latch points: from phase F of a start on, from L0 after a warm wake
(R398, R572). -/
def lampRuns (s : State) : Bool :=
  s.pwr.core && match s.pwr.start with
    | none => true
    | some st => if st.kind = .warm then st.l0.isSome else st.restored

/-- The error of a latch point against its target, in ns (LPL_PHASE). -/
def phaseNow (s : State) : Int :=
  match s.lpl.timing.source with
  | .free => 0
  | .syncIn => match syncTarget s.lpl with
    | some t => (s.now : Int) - t
    | none => 0
  | .network =>
    let e := mkTime s.lpl.timing.epochS s.lpl.timing.epochNs
    let p := s.lpl.timing.period * 65536
    let d := netTime s - e
    roundEven (d - roundEven d p * (p : Int)) 65536

/-- LATs may leave at this latch point (R225, R227, R266, R387). -/
def latsLeave (s : State) : Bool :=
  lanesSend s && hedgeLets s && !s.lpl.hold && !s.lpl.latOff && s.pwr.entry.isNone

/-- Entry k is latched by the LAT of the scan that ends (R324). -/
def latches (s : State) (k : Nat) : Bool :=
  s.lpl.served.at' k false && !(s.lpl.withheld.at' k false) &&
    !(s.link.slot.at' k SlotInfo.reset).nakNow

/-- MASK of a lane's LAT (R324). -/
def latMask (s : State) (n : Fin 24) : Nat :=
  if laneIs (Fin.castSucc n) .ready s then
    ((List.range 4).map fun k => bn (latches s (4 * n.val + k)) * 2 ^ k).sum
  else 0

/-- Note the LAT of the entries it latches: the tearing guard waits for their echoes (R277). `old` is the
state as the scan ended. -/
def noteLat (old : State) (seq : BitVec 16) (s : State) : State :=
  let hit (k : Fin 96) : Bool := (latMask old ⟨k.val / 4, by omega⟩).testBit (k.val % 4)
  { s with
    lpl.lastTo := s.lpl.lastTo.mapI fun k x => if hit k then some seq else x
    lpl.staleRun := s.lpl.staleRun.mapI fun k r => if hit k && !(s.lpl.staleNow[k]) then 0 else r
    lpl.staleNow := s.lpl.staleNow.mapI fun k x => x && !hit k
    lpl.teWait := s.lpl.teWait.mapI fun k x => if hit k then some seq else x }

/-- The echo window of a latch point at which LATs leave (R224, R577). -/
def openWindow (old : State) (f : Frame) (s : State) : State :=
  let slot (t : Nat) : Option Nat := (Env.tile f.envelope t).map fun x => 4 * x.1 + x.2
  let expects (t : Nat) : Bool := match slot t with
    | some k => !(old.lpl.withheld.at' k false) && !(old.link.slot.at' k SlotInfo.reset).nakNow
    | none => false
  let mask (p : Nat → Bool) : BitVec 96 :=
    BitVec.ofNat 96 (((List.range 96).map fun t => bn (p t) * 2 ^ t).sum)
  let w : EchoWin :=
    { seq := f.seq, expected := mask expects, floor := mask (Env.floorTile f.envelope), got := 0,
      block := f.envelope, counts := old.hdg.judgedLate }
  { s with hdg.echoWins := s.hdg.echoWins ++ [w] }

/-- A TIMING_SET or a DIM completes when the first LAT under its timing is sent (R283, R405); SYNC_NO_LOCK is a
status of TIMING_SET alone. -/
def firstLat (seq : BitVec 16) (s : State) : State :=
  let due := s.lpl.timingWait.filter fun w => !w.held && w.lockFrames.isSome
  let one (s : State) (w : TimingWait) : State :=
    let r : Result :=
      if w.cmd.opcode = 0x18 then resAt 16 (w.lockFrames.getD 0 % 256) ||| resAt 18 seq.toNat else 0
    endTiming (if w.noLock && w.cmd.opcode == 0x18 then 0x0143#16 else stSuccess) r s w
  due.foldl one
    { s with lpl.timingWait := s.lpl.timingWait.filter fun w => w.held || w.lockFrames.isNone }

/-- The REPEAT signature and LPL_COUNT.REPEATS (R256, R281). -/
def countRepeat (old : State) (sent : Bool) (s : State) : State :=
  if sent && old.lpl.repeatScan then
    let s := { s with
      lpl.repeats := bump 65535 1 s.lpl.repeats, lpl.repeatRun := s.lpl.repeatRun + 1 }
    if s.lpl.repeatRun ≥ s.lpl.timing.freezeRepeat ∧ !s.lpl.repeatNoted then
      raise 5 .major (4 + old.lpl.composing.toNat * 65536)
        { s with lpl.frRepeat := true, lpl.repeatNoted := true }
    else s
  else { s with lpl.repeatRun := 0, lpl.repeatNoted := false }

/-- The LATs about to leave carry another number than that of their buffer: the SEQUENCE signature, and
none leaves (R281). -/
def wrongSequence (old : State) (s : State) : State :=
  countRepeat old false
    (raise 5 .major (5 + old.lpl.composing.toNat * 65536) { s with lpl.frSequence := true })

/-- LATs leave at a latch point, for the buffer just scanned (R255, R256, R324): none where a cause holds, one raised
by the judgement of this latch point included (R227). -/
def latsGo (old s : State) : Bool := latsLeave old && hedgeLets s && (old.lpl.buf[old.lpl.scan]).isSome

/-- The LATs of the scan that ends (R255, R256, R324). `latSeq` is the number they carry where a fault makes it
another than their buffer's. -/
def sendLats (latSeq : Option (BitVec 16)) (old : State) (s : State) : State :=
  match latsGo old s, old.lpl.buf[old.lpl.scan] with
  | true, some f =>
    let on := (laneList old).filter fun n => latMask old n != 0
    let sent := !on.isEmpty
    if sent && latSeq.getD f.seq != f.seq then wrongSequence old s
    else
      let s := openWindow old f s
      let s := { s with yok.sentLat := s.yok.sentLat || sent }
      let s := on.foldl (fun s n =>
        sendLane (Fin.castSucc n) (.lat f.seq (latMask old n) old.lpl.repeatScan) s) s
      let s := if sent then { noteLat old f.seq s with lpl.lastLat := f.seq } else s
      countRepeat old sent (if sent then firstLat f.seq s else s)
  | _, _ => countRepeat old false s

/-- LATs of a slot withheld by a NAK or refused at consecutive latch points (R328): a refusal is counted
when its echo comes, a LAT withheld now here; one withheld under R25 neither counts nor breaks the run. `old` is the
state before the LATs of this latch point, and `left` says that they left. -/
def slotRun (left : Bool) (old : State) (s : State) (k : Fin 96) : State :=
  let x := s.link.slot[k]
  let n := (slotOf k).1
  let hit := left && (latMask old ⟨k.val / 4, by omega⟩).testBit (k.val % 4)
  let byNak := left && x.nakNow && old.lpl.served[k]
  let r := if x.latNow && !x.refusedNow then 0 else x.refusals
  let r := if byNak then r + 1 else if hit || old.lpl.withheld[k] then r else 0
  let s := modSlot k.val (fun x => { x with
    refusals := if r ≥ 4 then 0 else r, latNow := hit, refusedNow := false, nakNow := false }) s
  if r ≥ 4 ∧ laneIs n .ready s then retrain n 5 s else s

/-- LANE_LOOP and YOKE_LOOP leave READY after the LAT; LANE_ERR counts periods without a PIX (R536,
R539). -/
def testAtLatch (s : State) : State :=
  match s.tst.job with
  | none => s
  | some j =>
    match j.phase with
    | .latch =>
      let n : Fin 25 := if j.test = 1 then 24 else ⟨j.target % 24, by omega⟩
      enterLoop n j.depth j.slot j.count { s with tst.job := some { j with phase := .pattern } }
    | .pix k =>
      if k + 1 ≥ 2 then endRun 0x01D4#16 0 0 s
      else { s with tst.job := some { j with phase := .pix (k + 1) } }
    | _ => s

/-- The tile table of a block agrees with a tile map (R225). -/
def mapOk (e : Envelope) (m : TileMap) : Bool :=
  (List.range 96).all fun t => match Env.tile e t with
    | none => true
    | some (lane, slot) =>
      let x := m.at' (4 * lane + slot) MapEntry.reset
      x.present && x.tile == t

/-- MAP_MISMATCH is raised at once (R225). -/
def mapBad (seq : BitVec 16) (s : State) : State :=
  raiseCause cMap seq { s with hdg.mapAgrees := false }

/-- A frame scanned again that disagrees with the map counts as rejected (R225); one rejection a latch point is
counted, so `counted` says that the frame judged at it has been (log entry 56). -/
def rejectAgain (counted : Bool) (seq : BitVec 16) (s : State) : State :=
  if counted then { s with hdg.frameFlags := s.hdg.frameFlags ||| 16#6 }
  else raise 0 .minor (hedgeDetail 64 2 seq)
    { s with
      hdg.frameSeq := seq
      hdg.frameFlags := BitVec.ofNat 6 (16 + 32 * bn s.hdg.echoBad)
      hdg.rejectRun := s.hdg.rejectRun + 1
      hdg.rejectedCnt := bump 65535 1 s.hdg.rejectedCnt }

/-- The present scan buffer is scanned again (R26, R221, R225). -/
def scanAgain (counted : Bool) (s : State) : State :=
  let s := { s with lpl.repeatScan := true }
  match s.lpl.buf[s.lpl.scan] with
  | none => { s with lpl.latOff := false }
  | some f =>
    if mapOk f.envelope s.lpl.map then { s with lpl.latOff := false }
    else mapBad f.seq (rejectAgain counted f.seq { s with lpl.latOff := true })

/-- PHO_SHORTFALL of a shortfall in 2^-16 LU: 1/256 LU, truncated, saturating at its 32 bits (R11, R205). -/
def shortfallReg (n : Nat) : Nat := min 0xFFFFFFFF (n / 256)

/-- PHO_SHORT_ZONE.AMOUNT of a shortfall in 2^-16 LU: 1/16 LU, half to even, saturating (R11, R205). -/
def shortAmountReg (n : Nat) : Nat := min 0xFFFF (roundEven (n : Int) 4096).toNat

/-- Photometry's registers after a frame with the measures p (R200, R205, R216). -/
def takeReport (p : Pipe.PhotoReport) (s : State) : State :=
  let s := { s with
    pho.demand := p.demand
    pho.budgetDue := true
    pho.shortfall := shortfallReg p.shortfall
    pho.shortZone := p.shortZone
    pho.shortAmount := shortAmountReg p.shortAmount
    pho.shortPx := p.shortPx
    pho.satCnt := p.satCnt }
  if s.pho.shortfall > s.pho.shortLimit then raise 10 .note (2 + p.shortZone * 65536) s else s

/-- Photometry's measures of the frame whose composition has ended, and the factors it was composed with
(R200, R205, R216). -/
def measureFrame (f : Frame) (s : State) : State :=
  takeReport (Pipe.measure f) { s with pho.fadeShown := f.fade, pho.factor := f.budget }

/-- The Hedge judges a frame (R220 to R225, R577): whether it passes. -/
def judgeFrame (f : Frame) (s : State) : Bool × State :=
  let v := Pipe.judge f
  let e := f.envelope
  let agrees := mapOk e s.lpl.map
  let fail : Tab Bool 3 := #v[v.zone, v.globalF, v.floor && s.hdg.graceOver]
  let rejected := (fail.some' fun b => b) || !agrees
  let clamp := decide (v.clamped + v.ceiled > Env.clampLimit e)
  let bits := bn (fail[0]) + 2 * bn (fail[1]) + 4 * bn (fail[2])
  let flags := bits + 8 * bn clamp + 16 * bn (!agrees) + 32 * bn s.hdg.echoBad
  let h := s.hdg
  let s := { s with
    hdg.frameSeq := f.seq
    hdg.frameFlags := BitVec.ofNat 6 flags
    hdg.clampedCnt := v.clamped
    hdg.ceiledCnt := v.ceiled
    hdg.globalSum := v.sum
    hdg.fluxZone := v.fluxZone
    hdg.floorZone := v.floorZone
    hdg.mapAgrees := agrees
    hdg.rejects := h.rejects.mapI fun i k => if fail[i] then k + 1 else if rejected then k else 0
    hdg.passRuns := h.passRuns.mapI fun i k => if fail[i] then 0 else k + 1
    hdg.rejectRun := if rejected then h.rejectRun + 1 else 0
    hdg.rejectedCnt := bump 65535 (bn rejected) h.rejectedCnt
    hdg.clampRun := if clamp then h.clampRun + 1 else 0
    hdg.noClampRun := if clamp then 0 else h.noClampRun + 1
    hdg.clampFrameCnt := bump 65535 (bn clamp) h.clampFrameCnt }
  let s := if rejected then
      raise 0 .minor (hedgeDetail (4 * bits + 64 * bn (!agrees)) 2 f.seq) s
    else s
  let s := if clamp then raise 0 .note (hedgeDetail 0 3 f.seq) s else s
  let causes : List (Fin 3 × Fin 9) := [(0, cZone), (1, cGlobal), (2, cFloor)]
  let s := causes.foldl
    (fun s x => if fail[x.1] && decide (s.hdg.rejects[x.1] ≥ Env.nReject e) then
        raiseCause x.2 f.seq s else s) s
  let s := if clamp && decide (s.hdg.clampRun ≥ Env.clampFrames e) then raiseCause cClamp f.seq s
    else s
  (!rejected, if agrees then s else mapBad f.seq s)

/-- The buffer just completed becomes the scan buffer, unless it is not finished, not used or rejected
(R26, R221, R416, R584); the frame the Hedge judged. -/
def chooseBuffer (s : State) : Option Frame × State :=
  match s.lpl.work with
  | none => (none, scanAgain false { s with hdg.mapAgrees := true })
  | some f =>
    if !f.finished then
      let s := { s with hdg.mapAgrees := true }
      (none, scanAgain false (if s.thm.inForce = 0 then { s with lpl.work := none } else s))
    else
    let s := { s with lpl.work := none, pho := endFade f.fade s.pho }
    if f.unused then (none, scanAgain false { s with hdg.mapAgrees := true })
    else
      let late := s.hdg.graceOver
      let x := judgeFrame f (measureFrame f s)
      (some f,
        if x.1 then { x.2 with
          lpl.scan := 1 - x.2.lpl.scan, lpl.repeatScan := false, lpl.latOff := false
          lpl.resume := x.2.lpl.resume.filter fun since => !since
          hdg.judgedLate := late }
        else scanAgain true x.2)

/-- L_G has come (R577). -/
def graceEnds (s : State) : Bool :=
  let ready (t : Nat) : Bool := match Env.tile s.hdg.env t with
    | some (lane, slot) => slotIncluded (4 * lane + slot) s
    | none => false
  s.hdg.active.isSome &&
    (decide (s.hdg.activeAt + 2000000000 ≤ s.now) ||
      (List.range 96).all fun t => !Env.floorTile s.hdg.env t || ready t)

/-- A confirmed block becomes active (R245, R249, R276, R521): its record waits to be written. -/
def activateConfirmed (s : State) : State :=
  match s.hdg.confirmed with
  | none => s
  | some k =>
    let keep := s.hdg.staged.filter fun _ => s.hdg.stagedCrc != k.crc
    let w : RecWrite := { block := k.block, crc := k.crc, cmd := none, result := 0 }
    let s := activateBlock (.block k.block) k.crc { s with
      hdg.confirmed := none, hdg.staged := keep, lpl.mapGo := true
      boot.writes := s.boot.writes ++ [w] }
    settleRails <| evalInputs (k.cmds.foldl
      (fun s c => complete c stSuccess 0
        (resAt 16 k.crc.toNat ||| resAt 20 s.lpl.composing.toNat) s) s)

/-- The PATH test ends at the first latch point at least one frame period after it began (R250; log entry
23): the time it measured is free. -/
def endPathTest (s : State) : State :=
  match s.hdg.test with
  | some t =>
    if t.test = 2 ∧ t.begun ∧ t.since + periodNow s ≤ s.now then
      let f := freshBits 32 s
      endTest stSuccess (resAt 16 f.1.toNat) f.2
    else s
  | none => s

/-- The Hedge at a latch point (R228 to R230, R238, R245, R577): once causes have gone or their reactions have
changed, the lanes follow the state that remains. -/
def hedgeAtLatch (vbiTestOk : Bool) (s : State) : State :=
  let s := if vbiTestOk then s else selfFault 5 s
  let s := { s with hdg.graceOver := s.hdg.graceOver || graceEnds s }
  followState s (activateConfirmed (releaseCauses (endPathTest s)))

/-- A lane that DIM moved has yet to reach READY or DOWN (R390). -/
def lanesTrain (s : State) : Bool :=
  s.link.lane.some' fun l => l.entry.used && l.state != .ready && l.state != .down && l.state != .off

/-- The lock may be declared at this latch point (R267, R390). -/
def lockAtLatch (s : State) : State :=
  if !s.lpl.hold || s.yok.following then s
  else
    let left := match s.lpl.relock with
      | some k => if lanesTrain s then 2 else k - 1
      | none => 0
    let s := { s with lpl.relock := s.lpl.relock.map fun _ => left }
    let ok := match s.lpl.timing.source with
      | .syncIn => decide (s.lpl.goodRun ≥ 3) && decide (s.lpl.phaseErr.natAbs ≤ 1000)
      | _ => true
    if ok && left == 0 then declareLock s else s

/-- One word of a chain moves on (R527). -/
def AuxFade.value (f : AuxFade) : Nat :=
  ((f.start : Int) + roundEven (((f.target : Int) - f.start) * f.k) f.n).toNat

/-- A chain at a latch point (R526, R527): its LAT pulse, then its words. -/
def auxAtLatch (s : State) (c : Fin 4) : State :=
  let a := s.aux[c]
  let s := if a.latDue then emit (.auxLatch c) s else s
  let fs := a.fades.map fun f => { f with k := f.k + 1 }
  let words := fs.foldl (fun (w : List Nat) f => w.set f.word f.value) a.words
  let a' : Aux := { a with
    latDue := false, words := words
    fades := fs.filter fun f => decide (f.k < f.n) }
  { s with aux := s.aux.put c a' }

/-- A plane switch whose copy has ended takes effect (R214). -/
def switchPlane (s : State) : State :=
  match s.pho.plane with
  | some (.copied b) =>
    let s' := { s with
      pho.planeBase := b, pho.plane := none, pho.planeCmd := none, pxh.recount := true }
    match s.pho.planeCmd with
    | some c => takeDone c stSuccess 0 s'
    | none => s'
  | _ => s

/-- A paced channel that halted, or that LIGHT_HOLD stopped, starts again (R154, R97; log entry 20). -/
def restartPaced (s : State) : State :=
  { s with dma.ch := s.dma.ch.mapI fun k (c : DmaCh) =>
      let host : Bool := match (s.cmp.layer.at' k.val Layer.reset).cur.cfg.source with
        | .host _ => true
        | _ => false
      if k.val < 8 && (c.state == .halted || c.state == .stopped) && host && coresUp s then
        { c with state := .waitRequest, code := 0, requests := 0, cur := none, hold := [] }
      else c }

/-- CHAIN_LEN changes at the latch point (R305, R318). -/
def chainLens (s : State) : State :=
  { s with link.lane := s.link.lane.map' fun (l : Lane) =>
      { l with chainLen := l.nextLen.getD l.chainLen, nextLen := none } }

/-- L0, L1 and L2 after a warm wake (R398): from L2 the committed timing governs, and the ports are served. -/
def wakeAtLatch (s : State) : State :=
  match s.pwr.start with
  | some st =>
    match st.l0 with
    | some k =>
      if k < 2 then { s with pwr.start := some { st with l0 := some (k + 1) } }
      else governTiming { s with pwr.start := none, pwr.cores.served := s.pwr.cores.served || s.pwr.cores.up }
    | none => s
  | none => s

/-- What the pair may take is known: the partner's counts have come, or the device is not one of a pair
(R460). -/
def countsKnown (s : State) : Bool :=
  !paired s || match s.yok.partner with
    | some p => p.seq == s.lpl.composing
    | none => false

/-- Everything at a latch point up to the takes (R255). -/
def latchBegin (vbiTestOk : Bool) (latSeq : Option (BitVec 16)) (s : State) : Option Frame × State :=
  let s := { s with lpl.phaseErr := phaseNow s }
  let old := s
  let s := { s with
    lpl.composing := s.lpl.composing + 1
    lpl.lastLatch := s.now
    lpl.latched := true
    lpl.tL := ownLatchTime s
    lpl.inVbi := true
    lpl.scanning := false
    lpl.map := s.lpl.mapNext
    lpl.timingWait := s.lpl.timingWait.map fun w => { w with frames := w.frames + 1 } }
  let x := chooseBuffer s
  let left := latsGo old x.2
  let s := sendLats latSeq old x.2
  let s := (List.finRange 96).foldl (slotRun left old) s
  let s := (List.finRange 25).foldl flushCtl (chainLens (testAtLatch s))
  let s := hedgeAtLatch vbiTestOk s
  let s := restartPaced (switchPlane (lockAtLatch s))
  let s := (List.finRange 4).foldl auxAtLatch s
  (x.1, calAtVbi (applyCal s))

/-- The mask updates of this latch point count as the device's own takes (R460). -/
def countMasks (s : State) : State :=
  { s with yok.own.masks := s.yok.taken.masks + (s.maskQ.filter (maskDue s)).length }

/-- The counts as of L are sent to the partner (R460). -/
def shareCounts (f : Option Frame) (s : State) : State :=
  yokeAtLatch f { s with yok.atL := s.yok.own, lpl.shadowL := s.lpl.shadow, lpl.shadowAt := .general }

/-- The takes of a latch point, now or when the partner's counts are known (R460). -/
def latchTakes (s : State) : State :=
  if countsKnown s then takeAll (takeLimit s) s else { s with yok.counted := false }

/-- A latch point (R255, R256, R460). -/
def latch (vbiTestOk : Bool) (latSeq : Option (BitVec 16)) (s : State) : State :=
  let x := latchBegin vbiTestOk latSeq s
  lowRails <| wakeAtLatch (latchTakes (shareCounts x.1 (countMasks x.2)))

/-- A latch point. -/
def execLatchPoint (vbiTestOk : Bool) (latSeq : Option (BitVec 16)) (s : State) : Out :=
  .next (whenS (lampRuns s) (latch vbiTestOk latSeq) s)

/-- The takes of a latch point whose counts were awaited (R460). -/
def lateTake (s : State) : State :=
  if paired s && !s.yok.counted then takeAll (takeLimit s) s else s

/-- A follower's lock on its leader's latch points (R458). -/
def followLatch (m : LatchMsg) (s : State) : State :=
  let e := m.errorNs.natAbs
  let good := if e ≤ 100 then s.yok.goodRun + 1 else 0
  let bad := if e > 2000 then s.yok.badRun + 1 else 0
  let s := { s with yok.following := true, yok.leads := false, yok.goodRun := good, yok.badRun := bad }
  if !s.yok.locked && good ≥ 8 then
    { s with yok.locked := true, lpl.composing := m.seq }
  else if s.yok.locked && bad ≥ 4 then { s with yok.locked := false, yok.goodRun := 0 }
  else s

/-- The holder's view of its partner's state (R452, R460, R474). -/
def holderLatch (was : Option YokeState) (m : LatchMsg) (s : State) : State :=
  let s := { s with yok.state := if m.state = .standby then .active else .alone }
  let s := if m.state = .standby ∧ was ≠ some .standby ∧ was ≠ some .copy then rebase s else s
  if m.state = .copy ∧ was ≠ some .copy then
    { s with
      yok.copyLeft := copyBlocks s, yok.dirty := [], yok.copyDone := false, yok.sentInPass := 0 }
  else s

/-- A partner's LATCH (R457 to R460, R467, R476). -/
def execYokeLatchMsg (m : LatchMsg) (s : State) : Out :=
  .next (whenS (hears s)
    (fun s =>
      let was := s.yok.partner.map fun p => p.state
      let lit := m.state == .standby || m.state == .active || m.state == .alone
      let p : PartnerLatch :=
        { seq := m.seq, time := m.time, period := m.period, counts := m.counts, state := m.state,
          locked := m.locked, ready := m.ready, at' := s.now }
      let s := { heard s with
        yok.partner := some p
        yok.errorNs := if s.yok.holding then 0 else m.errorNs
        yok.cover := if lit && m.locked then m.ready else 0
        yok.line := s.yok.line && !(m.state == YokeState.active || m.state == YokeState.alone) }
      let s :=
        if s.yok.holding then holderLatch was m s
        else if (m.state = .active ∨ m.state = .alone) ∧
            (s.yok.state = .copy ∨ s.yok.state = .standby) then followLatch m s
        else s
      let s := handoverDone s
      if countsKnown s then lateTake s else s) s)

/-- The partner's counts have not come 4 µs after L (R460). -/
def execYokeAlignTimeout (s : State) : Out :=
  .next (whenS (paired s && !s.yok.counted)
    (fun s => takeAll s.yok.atL { s with yok.alignMiss := bump 255 1 s.yok.alignMiss }) s)

end Sys2Proof.Machine
end

