-- ==== Sys2Proof/Machine/Composition.lean ====
section
/-!
DEFINITION. The end of the VBI, where composition and scan-out start, and the end of a composition
(R255 of spec/09_lamplighter.md; R27, R152, R153, R416, R417, R583).
-/

namespace Sys2Proof.Machine

/-- A layer as a frame uses it, `bilinear` where it falls back to BILINEAR (R137, R152, R181). -/
def mkView (n : Fin 9) (l : LayerSet) (sym : Option Symbol) (bilinear : Bool) (s : State) : LayerView :=
  let own : Option Symbol := match l.cfg.source with
    | .symbol id => some s.cmp.sym[id]
    | _ => none
  { set := l, bank := s.cmp.bank[n][l.warp.bank], sym := sym.orElse fun _ => own,
    subst := s.cmp.sym[l.cfg.subst]
    fallback := if bilinear then some 0 else none
    lines := [], part := [], underrun := none }

/-- How a layer takes part in the frame composed next (R135, R152, R153); none where it does not. A late layer under
SUBSTITUTE filters with the bank of its new warp, if that is READY (R153, R181). -/
def viewOf (s : State) (n : Fin 9) : Option LayerView :=
  let l := s.cmp.layer[n]
  let own : LayerView := mkView n l.cur none l.fallback.isSome s
  if !layerShown n s then none
  else
    match bitOf s.cmp.late n.val, l.pending with
    | true, some p =>
      match p.cfg.policy with
      | .repeat' => if bitOf s.cmp.was n.val then some own else none
      | .drop => none
      | .substitute =>
        let sub := s.cmp.sym[p.cfg.subst]
        if sub.state = .valid then
          some (mkView n p (some sub) ((s.cmp.bank[n][p.warp.bank]).state != .ready) s)
        else none
    | _, _ => some own

/-- Layer n is not hidden in the frame composed next (R153). -/
def notHidden (s : State) (n : Nat) : Bool :=
  let repeats : Bool := match (s.cmp.layer.at' n Layer.reset).pending with
    | some p => p.cfg.policy == .repeat'
    | none => false
  bitOf s.cmp.show' n && (!(bitOf s.cmp.late n && repeats) || bitOf s.cmp.was n)

/-- The frame composed from here on (R23, R27, R462). -/
def newFrame (s : State) : Frame :=
  { seq := s.lpl.composing, view := Vector.ofFn (viewOf s), order := s.cmp.order,
    boxes := s.cmp.box.toList, mem := s.grn.mem, memEnd := s.grn.mem, marks := s.grn.marks,
    regions := s.grn.regions, regionsEnd := s.grn.regions, fade := nextFade s.pho, budget := s.pho.budget,
    dThermal := s.pho.dThermal, temp := if s.pho.noTemp then none else some s.pho.temp,
    bins := s.pho.bins, planeBase := s.pho.planeBase, defaultRec := s.pho.defaultRec,
    overrides := (s.pho.overrides.filter Override.taken).map fun (o : Override) => (o.pixel, o.state),
    darkMask := match s.yok.following, s.yok.shared with
      | true, some m => m.dark
      | _, _ => darkMask s
    zoneCopy := s.pho.zoneCopy, envelope := s.hdg.env, unused := false, finished := false,
    free := s.free }

/-- The paced channels of HOST layers start over at line 0 of the frame (R85); none in LIGHT_HOLD, whose STOP lets a
descriptor under way end (R37, R95), and one that was stopped waits for the latch point (restartPaced). The spec does not say where
the descriptors of a paced channel lie (R87): DMA_CHn_DESC goes on from the value it has, in steps of 32
and with SPACE 0 (DESIGN CHOICE, log entry 91). -/
def pacedStart (f : Frame) (s : State) : State :=
  let starts (k : Fin 32) : Bool :=
    let host : Bool := match f.view.at' k.val none with
      | some v => match v.set.cfg.source, v.sym with
        | .host _, none => true
        | _, _ => false
      | none => false
    let st := (s.dma.ch[k]).state
    decide (k.val < 8) && host && coresUp s && st != .halted && st != .stopping && st != .stopped
  { s with
    dma.burst := s.dma.burst.filter fun b => !starts b.ch
    dma.ch := s.dma.ch.mapI fun k (c : DmaCh) =>
      if starts k then
        { c with state := .waitRequest, code := 0, descIndex := 0, requests := 0, cur := none
                 hold := [], arrived := 0, written := 0, stopReq := false, descHost := false
                 doneOne := false, haltAt := none, abortAt := none }
      else c }

/-- What was taken at latch points without a composition applies now (R417). -/
def startTaken (seq : BitVec 16) (s : State) : State :=
  let held := s.lpl.taken
  let s := if s.lpl.heldTake then
      { s with
        lpl.heldTake := false
        lpl.commitTaken := seq
        lpl.timingWait := s.lpl.timingWait.map fun w =>
          if w.unstarted then { w with seq := seq, unstarted := false } else w }
    else s
  let s := if held.any fun w => w.cmd.opcode == 0x12 then { s with cmp.maskSeq := seq } else s
  held.foldl (fun s w => complete w.cmd w.status seq w.result s) { s with lpl.taken := [] }

/-- A lowered MAX_LEVEL caps the levels as a composition starts (R415, R421). -/
def capLevels (s : State) : State :=
  let cap (c : ThermClass) : ThermClass := { c with level := min c.level c.maxLevel }
  { s with thm.die := cap s.thm.die, thm.light := cap s.thm.light }

/-- The throttle level in force changes only here (R415, R462). -/
def startLevel (s : State) : State :=
  { s with thm.inForce := match s.yok.following, s.yok.shared with
      | true, some m => m.level
      | _, _ => s.thm.die.level }

/-- A composition starts (R255, R257). All its reads of the Granary are taken here (R583; log entry 142). -/
def startComposition (s : State) : State :=
  let seq := s.lpl.composing
  let s := startTaken seq (startLevel (startFactors s))
  let s := setsTaken seq { s with
    cmp.layer := s.cmp.layer.map' fun (l : Layer) =>
      if l.fresh then { l with fresh := false, shownSeq := seq } else l }
  let f := newFrame s
  let was := BitVec.ofNat 8 (((List.range 8).map fun n => bn (notHidden s n) * 2 ^ n).sum)
  let s := { s with
    lpl.work := some f, lpl.resume := s.lpl.resume.map fun _ => true, free := s.free + 1, cmp.was := was }
  (List.finRange 9).foldl (frameDenied f) (frameEcc f (pacedStart f s))

/-- The leader's SHARED message at a VBI (R457, R462): of the override list, the entries taken at this
VBI. -/
def sendShared (s : State) : State :=
  if s.yok.holding && partnerIn .standby s then
    let os := s.pho.overrides.filter fun o => !o.taken
    sendYoke .shared
      ((if s.pho.noTemp then [] else s.pho.temp.toList.map (toBits 16)) ++
        [s.pho.dThermal, (darkMask s).toNat, min s.thm.die.level s.thm.die.maxLevel] ++
        os.flatMap fun (o : Override) => [o.pixel, o.state]) s
  else s

/-- The tearing guard at the end of the VBI (R277). -/
def tearGuard (s : State) : State :=
  let skip (k : Fin 96) : Bool := (s.lpl.map[k]).present && (s.lpl.teWait[k]).isSome
  let l := (List.finRange 96).filter skip
  { s with
    lpl.teSkip := Vector.ofFn skip
    lpl.teMisses := bump 65535 l.length s.lpl.teMisses
    lpl.lastTile := match l.getLast? with
      | some k => (s.lpl.map[k]).tile
      | none => s.lpl.lastTile }

/-- Scan-out of the scan buffer starts on every lane (R255, R275, R277, R304, R318). -/
def startScan (s : State) : State :=
  let run := lanesSend s && !s.lpl.hold && !railsStopping s && s.lpl.resume.isNone &&
    (s.lpl.buf[s.lpl.scan]).isSome
  let s := if run then tearGuard s else { s with lpl.teSkip := Tab.all 96 false }
  let serves (k : Fin 96) : Bool :=
    run && (s.lpl.map[k]).present && slotIncluded k.val s && !(s.lpl.teSkip[k]) &&
      decide (k.val % 4 < (s.link.lane.at' (k.val / 4) Lane.reset).chainLen)
  let used (n : Fin 24) : Bool := (List.finRange 4).any fun j => serves ⟨4 * n.val + j.val, by omega⟩
  let first : ScanPos := ⟨0, 0⟩
  { s with
    lpl.served := Vector.ofFn serves
    lpl.withheld := Tab.all 96 false
    lpl.pos := Vector.ofFn fun n : Fin 24 => if used n then some first else none
    lpl.scanning := run }

/-- The end of the VBI (R27, R255, R416, R420). -/
def execVbiEnd (s : State) : Out :=
  .next (whenS (lampRuns s && !s.lpl.scanning)
    (fun s =>
      let s := if willCompose s then capLevels s else s
      let s := takeOverrides (sendShared (takeTemps (enterHealth s)))
      let s := if willCompose s then startComposition s else s
      startScan { s with lpl.inVbi := false }) s)

/-- Over-step pixels of a layer in a frame (R175). -/
def countOver (f : Frame) (s : State) (n : Fin 9) : State :=
  match f.view[n] with
  | none => s
  | some v =>
    let k := Pipe.overCount v
    if k = 0 then s
    else raise 9 .note n.val { s with cmp.layer := s.cmp.layer.upd n fun (l : Layer) =>
      { l with oversteps := bump 65535 1 l.oversteps, overstepPx := k } }

/-- The Hedge has written every word of an output buffer: their errors are healed and queued rewrites
cancelled (R118, R122). -/
def bufferWritten (b : Fin 2) (s : State) : State :=
  let outside (w : Nat) : Bool := decide (w / (outBufHalf / 8) ≠ b.val)
  { s with
    grn.marks := s.grn.marks.filter fun m => outside m.1
    grn.rewriteQ := s.grn.rewriteQ.filter outside }

/-- The last pixel of a frame passes the Hedge (R24): its output buffer is complete. -/
def execCompositionComplete (s : State) : Out :=
  .next (whenS s.pwr.core
    (fun s =>
      match s.lpl.work with
      | none => s
      | some f =>
        if f.finished then s
        else
          let f := { f with finished := true, memEnd := s.grn.mem, regionsEnd := s.grn.regions }
          let s := bufferWritten (1 - s.lpl.scan) { s with
            lpl.work := some f, lpl.buf := s.lpl.buf.put (1 - s.lpl.scan) (some f) }
          (List.finRange 9).foldl (countOver f) ((List.finRange 9).foldl (lateDenied f) s)) s)

end Sys2Proof.Machine
end

