-- ==== Sys2Proof/Machine/Bell.lean ====
section
/-!
DEFINITION. The Bellhouse: the clock model, time states, the servo, TIME_SCHEDULE, TIME_SET, PULSE_SET
(R488 to R508 of spec/18_bellhouse_ethernet.md).
-/

namespace Sys2Proof.Machine

/-- Units of 2^-16 ns in one FRC cycle (R488). -/
def Bell.cycle (b : Bell) : Nat := if b.sleepClock then 2621440 else 262144

/-- Rebase the model: T does not change (R490). -/
def Bell.rebase (b : Bell) : Bell := { b with offset := b.time - b.frc, frcRef := b.frc }

/-- One FRC cycle; at the wrap OFFSET increases by 2^64 (R488, R490). -/
def Bell.tick (b : Bell) : Bell :=
  if b.frc + b.cycle < 2 ^ 64 then { b with frc := b.frc + b.cycle }
  else { b with frc := b.frc + b.cycle - 2 ^ 64, offset := b.offset + (2 ^ 64 : Nat) }

/-- Units of network time in one second. -/
def unitsPerS : Nat := 65536000000000

/-- The port in UNCALIBRATED or SLAVE: the time source (R496). -/
def sourcePort (s : State) : Option (Fin 2) :=
  (List.finRange 2).find? fun p =>
    s.eth.port[p].ptpState == .slave || s.eth.port[p].ptpState == .uncalibrated

/-- Signal the Bellhouse vector (R499, R501). -/
def belSignal (on : Bool) (s : State) : State :=
  if on && s.bel.irqEn then signalVec s.bel.vector s else s

/-- Change the time state (R499): leaving LOCKED is counted and raised with a kind and a port. -/
def setTimeState (k : TimeState) (kind : Nat) (p : Fin 2) (s : State) : State :=
  if s.bel.state = k then s
  else
    let s := if s.bel.state = .locked then
        raise 38 .minor (kind % 16 + p.val * 16 + (composingSeq s).toNat * 65536)
          { s with bel.lockLosses := bump 65535 1 s.bel.lockLosses }
      else s
    belSignal s.bel.onLock { s with bel.state := k }

/-- LOCKED falls to HOLDOVER for a reason (R499). -/
def loseLock (kind : Nat) (p : Fin 2) (s : State) : State :=
  if s.bel.state = .locked then setTimeState .holdover kind p s else s

/-- FREE: VALID with MODE OFF, or with no port in UNCALIBRATED or SLAVE (R499), LOCKED left with kind 0; HOLDOVER stays
until a sample (DEDUCED, log entry 14). -/
def settleFree (s : State) : State :=
  if s.bel.valid && s.bel.state != .holdover &&
      (s.bel.mode == .off || (sourcePort s).isNone) then
    setTimeState .free 0 0 s
  else s

/-- Stamps of both sides of a step tell no rate (R497). -/
def dropTurns (s : State) : State :=
  { s with eth.port := s.eth.port.map' fun e => { e with turn := none } }

/-- STEP: T moves by exactly this amount; VALID is set and the step counted (R491, R507). -/
def stepTime (d : Int) (s : State) : State :=
  { dropTurns s with
    bel.offset := s.bel.offset + d
    bel.valid := true
    bel.steps := bump 65535 1 s.bel.steps }

/-- SET: T becomes a time (R507). -/
def setTime (t : Int) (s : State) : State :=
  let b := s.bel.rebase
  { dropTurns s with bel := { b with offset := t - b.frc, valid := true, steps := bump 65535 1 b.steps } }

/-- A RATE write with its rebase (R490, R491). -/
def writeRate (r : Int) (s : State) : State := { s with bel := { s.bel.rebase with rate := r } }

/-- A TIME_SET SET or STEP discards the servo's integrator (R491). -/
def dropIntegrator (s : State) : State := { s with bel.integ := s.bel.ratePpb }

/-- Clamp a rational number into ± a bound. -/
def clampRat (b x : Rat) : Rat := if x < -b then -b else if b < x then b else x

/-- Round a rational number half to even (R11). -/
def roundRat (x : Rat) : Int := roundEven x.num x.den

/-- The servo (R498) on an offset in units of 2^-16 ns, dt in seconds: every value and every result of an operation is a
double (log entry 15). -/
def servo (o : Int) (dt : Rat) (s : State) : State :=
  let b := s.bel
  let ns : Rat := dbl ((o : Rat) / 65536)
  if !b.valid || decide ((b.stepUs : Rat) * 1000 < |ns|) then
    let s := stepTime (-roundRat (ns * 65536)) s
    let p := (sourcePort s).getD 0
    let s := { s with bel.integ := s.bel.ratePpb, bel.good := 0, bel.bad := 0 }
    setTimeState .acquiring 1 p s
  else
    let kp : Rat := (b.kp : Rat) / 256
    let ki : Rat := (b.ki : Rat) / 256
    let integ := clampRat 500000 (dbl (b.integ - dbl (dbl (ki * ns) * dbl dt)))
    let rate := clampRat 500000 (dbl (integ - dbl (kp * ns)))
    writeRate (roundRat (dbl (rate * dbl (4294967296 / 1000000000))))
      { s with bel.integ := integ, bel.ratePpb := rate }

/-- The time state follows a sample (R499). -/
def judgeSample (o : Int) (p : Fin 2) (s : State) : State :=
  let b := s.bel
  let isIn (k : Nat) : Bool := decide (o.natAbs ≤ k * b.lockNs * 65536)
  let first := b.state == .unset || b.state == .free || b.state == .holdover
  let s := if first then
      setTimeState .acquiring 1 p { s with bel.good := 0, bel.bad := 0 }
    else s
  let good := if isIn 1 then s.bel.good + 1 else 0
  let bad := if isIn 4 then 0 else s.bel.bad + 1
  let s := { s with bel.good := min good 8, bel.bad := min bad 4 }
  if s.bel.state = .acquiring ∧ good ≥ 8 then setTimeState .locked 0 p { s with bel.bad := 0 }
  else if s.bel.state = .locked ∧ bad ≥ 4 then
    setTimeState .acquiring 1 p { s with bel.good := 0, bel.bad := 0 }
  else s

/-- Seconds since the previous sample, counted on the FRC; without one the spec states none, and the
value is free (log entry 2). -/
def sampleDt (s : State) : Rat × State :=
  match s.bel.lastSample with
  | some f => ((((s.bel.frc + 2 ^ 64 - f) % 2 ^ 64 : Nat) : Rat) / (unitsPerS : Rat), s)
  | none =>
    let r := freshBits 64 s
    ((r.1.toNat : Rat) / 65536, r.2)

/-- A servo sample from a port: offset and path delay in units of 2^-16 ns (R497). -/
def takeSample (p : Fin 2) (o delay : Int) (s : State) : State :=
  let ns := satS 32 (roundEven o 65536)
  let d := roundEven delay 65536
  let slot : TimeSample := { seq := s.bel.sampleSeq % 256, delay := (sat 0 16777215 d).toNat, offset := ns }
  let s := { s with
    bel.sample := s.bel.sample.updN (s.bel.sampleSeq % 16) fun _ => slot
    bel.sampleSeq := (s.bel.sampleSeq + 1) % 65536
    bel.last := ns
    bel.pathDelay := satU 32 d }
  let s := belSignal s.bel.onSample s
  let r := sampleDt s
  let s := { r.2 with bel.lastSample := some r.2.bel.frc }
  match s.bel.mode with
  | .off =>
    if s.bel.valid then setTimeState .free 0 p s else setTimeState .unset 0 p s
  | .internal => judgeSample o p (servo o r.1 s)
  | .external => judgeSample o p s

/-- The Bellhouse powers up: it starts as at POR, its image fields as they are (R492, R510). -/
def Bell.restart (b : Bell) : Bell :=
  { Bell.reset with
    powered := true, kp := b.kp, ki := b.ki, mode := b.mode, stepUs := b.stepUs, lockNs := b.lockNs
    clock := b.clock }

/-- SLEEP_TRIM as the Bellhouse has measured it while the Ethernet PLL runs (R488): the two clocks are the
board's, and the value is free (log entry 122). -/
def measureTrim (s : State) : State :=
  let r := freshBits 32 s
  { r.2 with bel.sleepTrim := r.1.toInt }

/-- A read of BEL_TIME_NS captures the snapshot (R510). -/
def execBelTimeNsRead (s : State) : Out :=
  .next (whenS (hostUp s)
    (fun s =>
      let b := s.bel
      emit (.answer (leBytes 4 (timeNs b.time)) false)
        { s with bel.snap := ⟨b.time, b.frc, b.offset, b.frcRef, b.rate⟩ }) s)

/-- BEL_CNT_CLEAR.COUNT (R510). -/
def execBelCntClearCount (s : State) : Out :=
  .next (whenS (hostUp s) (fun s => { s with bel.lockLosses := 0, bel.steps := 0 }) s)

/-- The Bellhouse rebases the model (R490). -/
def execBelRebase (s : State) : Out :=
  .next (whenS s.bel.powered (fun s => { s with bel := s.bel.rebase }) s)

/-- The FRC wraps through 0 (R490). -/
def execFrcWrap (s : State) : Out :=
  .next (whenS (s.bel.powered && decide (2 ^ 64 ≤ s.bel.frc + s.bel.cycle))
    (fun s => { s with bel := s.bel.tick }) s)

/-- A launch and its writes leave the slots; its command completes with LAUNCH_CANCELLED (R505). -/
def cancelLaunch (s : State) (l : Launch) : State :=
  complete l.cmd 0x01B2#16 0 0
    { s with lpl.launches := s.lpl.launches.filter fun x => x.num != l.num }

/-- The launches a CANCEL_LAUNCH names (R505). -/
def cancelNamed (c : Cmd) (s : State) : List Launch :=
  let mine := s.lpl.launches.filter fun l => l.cmd.src.port == c.src.port
  if c.b 8 2 then mine
  else
    let ids := mine.filter fun l => l.cmd.cmdId.toNat == c.f 10 0 16
    match ids with
    | [] => []
    | x :: r =>
      [r.foldl (fun m l => if mkTime l.s l.ns < mkTime m.s m.ns then l else m) x]

/-- TIME_SCHEDULE (R504, R505); its COMMIT bit is ignored. -/
def scheduleBody : Body :=
  { check := fun c s =>
      let sub := c.f 8 0 2
      let a := c.f 9 0 2
      firstFail
        [ (decide (c.f 24 0 32 ≥ 1000000000), stField),
          (sub == 0 && decide (s.lpl.launches.length ≥ 16), 0x0144#16),
          (sub == 2 && (cancelNamed c s).isEmpty, 0x01B1#16),
          (sub == 3 && !(if c.b 8 2 then s.bel.alarm.some' fun (x : Alarm) => x.armed
            else (s.bel.alarm.at' a Alarm.reset).armed), 0x01B1#16) ]
    run := fun c s =>
      match c.f 8 0 2 with
      | 0 => armLaunch c (c.f 16 0 48) (c.f 24 0 32) [] s
      | 1 =>
        let t := mkTime (c.f 16 0 48) (c.f 24 0 32)
        complete c (if netTime s > t then stLate else stSuccess) 0 0
          { s with bel.alarm := s.bel.alarm.updN (c.f 9 0 2) fun (x : Alarm) =>
              { x with armed := true, s := c.f 16 0 48, ns := c.f 24 0 32 } }
      | 2 =>
        let l := cancelNamed c s
        complete c stSuccess 0 (resAt 16 l.length) (l.foldl cancelLaunch s)
      | _ =>
        let off (a : Alarm) : Alarm := { a with armed := false }
        complete c stSuccess 0 0
          { s with bel.alarm :=
              if c.b 8 2 then s.bel.alarm.map' off else s.bel.alarm.updN (c.f 9 0 2) off } }

/-- TIME_SCHEDULE. -/
def execTimeSchedule (src : Src) (d : Desc) (s : State) : Out :=
  .next (runRow 0x40 scheduleBody src d s)

/-- A PTP configuration word (ETH_p_PTP). -/
def parsePtp (w : BitVec 32) : PtpCfg :=
  { logDelay := sfield w 24 4, logAnnounce := sfield w 20 4, logSync := sfield w 16 4,
    domain := field w 8 8, oneStep := bitOf w 5, udp := bitOf w 4, profile := field w 2 2,
    role := field w 0 2 }

/-- Ranges of a PTP configuration (R506, ETH_p_PTP). -/
def PtpCfg.bad (x : PtpCfg) : Bool :=
  decide (x.logDelay < -7) || decide (5 < x.logDelay) || decide (x.logAnnounce < -3) ||
    decide (4 < x.logAnnounce) || decide (x.logSync < -7) || decide (4 < x.logSync) ||
    decide (x.domain > 127) || x.profile == 3 ||
    (x.profile == 2 && (x.udp || x.domain != 0 || x.role != 2))

/-- The port runs PTP. -/
def Eth.runsPtp (e : Eth) : Bool := e.enabled && e.ptp.role != 0

/-- The other port runs PTP with another PROFILE or DOMAIN (R496, R506). -/
def ptpClash (p : Fin 2) (x : PtpCfg) (s : State) : Bool :=
  let o := s.eth.port[1 - p]
  o.runsPtp && (o.ptp.profile != x.profile || o.ptp.domain != x.domain)

/-- The port a TIME_SET PTP names. -/
def tsPort (c : Cmd) : Fin 2 := if c.b 12 0 then 1 else 0

/-- The time a SET or STEP leads to. -/
def tsTarget (c : Cmd) (s : State) : Int :=
  if c.f 8 0 3 = 0 then mkTime (c.f 16 0 48) (c.f 24 0 32) else netTime s + c.s 16 0 64

/-- R506: a field out of range. -/
def tsBad (c : Cmd) (s : State) : Bool :=
  let sub := c.f 8 0 3
  let t := tsTarget c s
  let x := parsePtp (BitVec.ofNat 32 (c.f 16 0 32))
  decide (sub ≥ 6) ||
    (sub == 0 && decide (c.f 24 0 32 > 999999999)) ||
    (decide (sub ≤ 1) && (decide (t < 0) || decide (((2 ^ 48 * unitsPerS : Nat) : Int) ≤ t))) ||
    (sub == 2 && (decide (c.s 16 0 32 > 2147484) || decide (c.s 16 0 32 < -2147484))) ||
    (sub == 3 && (c.f 12 0 2 == 3 || c.f 20 0 16 == 0 || c.f 20 16 14 == 0)) ||
    (sub == 5 && (x.bad || ptpClash (tsPort c) x s))

/-- Change a port. -/
def modEth (p : Fin 2) (f : Eth → Eth) (s : State) : State :=
  { s with eth.port := s.eth.port.upd p f }

/-- A port's PTP starts again in INITIALIZING (R507). -/
def restartPtp (p : Fin 2) (x : PtpCfg) (s : State) : State :=
  let was := decide (sourcePort s = some p)
  let s := modEth p (fun e => { e with
    ptp := x, ptpState := .initializing, asCapable := false, syncWait := none, delayT3 := none
    pdelay := none, parent := none, foreign := [], qualify := 0, ratio := 1, turn := none }) s
  settleFree (if was then loseLock 4 p s else s)

/-- The servo mode of a field. -/
def modeOf (m : Nat) : ServoMode := if m = 0 then .off else if m = 1 then .internal else .external

/-- The code of a time state. -/
def TimeState.code : TimeState → Nat
  | .unset => 0 | .free => 1 | .acquiring => 2 | .locked => 3 | .holdover => 4

/-- RESULT of a READ (R507). -/
def timeReadResult (s : State) : Result :=
  resAt 16 (timeS (netTime s)) ||| resAt 22 (timeNs (netTime s)) ||| resAt 26 (toBits 32 s.bel.last) |||
    resAt 30 (s.bel.state.code + 8 * bn s.bel.valid)

/-- TIME_SET (R506, R507). -/
def timeSetBody : Body :=
  { check := fun c s => firstFail
      [ (tsBad c s, stField),
        (decide (c.f 8 0 3 ≤ 2) && s.bel.mode == .internal &&
          (s.bel.state == .acquiring || s.bel.state == .locked), 0x01B0#16) ]
    run := fun c s =>
      match c.f 8 0 3 with
      | 0 => finishOk c (settleFree (dropIntegrator (setTime (tsTarget c s) s)))
      | 1 => finishOk c (settleFree (dropIntegrator (stepTime (c.s 16 0 64) s)))
      | 2 => finishOk c (writeRate (c.s 16 0 32) s)
      | 3 => finishOk c { s with
          bel.mode := modeOf (c.f 12 0 2)
          bel.kp := c.f 16 0 16
          bel.ki := c.f 16 16 16
          bel.lockNs := c.f 20 0 16
          bel.stepUs := c.f 20 16 14 }
      | 4 => finish c stSuccess (timeReadResult s) s
      | _ => finishOk c (restartPtp (tsPort c) (parsePtp (BitVec.ofNat 32 (c.f 16 0 32))) s) }

/-- TIME_SET. -/
def execTimeSet (src : Src) (d : Desc) (s : State) : Out := .next (runRow 0x41 timeSetBody src d s)

/-- The pulse setting of a PULSE_SET. -/
def psCfg (c : Cmd) : PulseCfg :=
  let m := c.f 8 2 2
  { mode := if m = 0 then .off else if m = 1 then .oneshot else if m = 2 then .periodic else .frame,
    low := c.b 8 4, width := c.f 12 0 32, startS := c.f 16 0 48, startNs := c.f 24 0 32,
    period := c.f 28 0 32, offset := c.f 32 0 32 }

/-- R508: a field outside its range; OFF uses none of them (DEDUCED, log entry 16). -/
def PulseCfg.bad (x : PulseCfg) : Bool :=
  match x.mode with
  | .off => false
  | .oneshot => decide (x.width < 20) || decide (x.width > 1000000000) || decide (x.startNs > 999999999)
  | .periodic =>
    decide (x.period < 100) || decide (x.period > 4000000000) || decide (x.width < 20) ||
      decide (x.width > 1000000000) || decide (x.width + 20 > x.period) || decide (x.startNs > 999999999)
  | .frame => decide (x.width < 20) || decide (x.width > 100000) || decide (x.offset > 400000)

/-- Change a pulse output. -/
def modPulse (o : Fin 4) (f : Pulse → Pulse) (s : State) : State :=
  { s with bel.pulse := s.bel.pulse.upd o f }

/-- A pulse starts (R502). -/
def startPps (o : Fin 4) (s : State) : State :=
  emit (.pps o true)
    (modPulse o (fun x => { x with
      active := some s.bel.frc, given := true, startedAt := some s.bel.frc }) s)

/-- START of a ONESHOT lies in the past. -/
def PulseCfg.passed (x : PulseCfg) (s : State) : Bool :=
  x.mode == .oneshot && decide (mkTime x.startS x.startNs < netTime s)

/-- A PULSE_SET setting applies (R503); the pulse of a ONESHOT whose START has passed is given at once
(R508). -/
def setPulse (o : Fin 4) (x : PulseCfg) (s : State) : State :=
  let s := modPulse o (fun p => { p with cfg := x, pending := none, given := false, startedAt := none }) s
  if x.passed s then startPps o s else s

/-- PULSE_SET (R503, R508). -/
def pulseBody : Body :=
  { check := fun c _ => firstFail [((psCfg c).bad, stField)]
    run := fun c s =>
      let o : Fin 4 := ⟨c.f 8 0 2 % 4, by omega⟩
      let x := psCfg c
      let s :=
        if (s.bel.pulse[o]).active.isSome then modPulse o (fun p => { p with pending := some x }) s
        else setPulse o x s
      finish c (if x.passed s then stLate else stSuccess) 0 s }

/-- PULSE_SET. -/
def execPulseSet (src : Src) (d : Desc) (s : State) : Out := .next (runRow 0x42 pulseBody src d s)

/-- The grid of pulse edges: 0.5 ns, in SLEEP 40 ns (R502, R503). -/
def Bell.grid (b : Bell) : Nat := if b.sleepClock then 2621440 else 32768

/-- The last network time whose edge falls in this cycle: its first grid point at or after that time does (R502). -/
def edgeLimit (s : State) : Int := s.bel.tick.time - s.bel.grid

/-- A PERIODIC edge falls in this cycle: of START + k * PERIOD_NS, k at least 0 (R502). -/
def periodDue (x : PulseCfg) (s : State) : Bool :=
  let since := edgeLimit s - mkTime x.startS x.startNs
  let period : Int := x.period * 65536
  decide (0 ≤ since) && decide (since % period < s.bel.tick.time - netTime s)

/-- A FRAME edge falls in these 4 ns: OFFSET_NS after the last latch point (R502). -/
def frameDue (x : PulseCfg) (s : State) : Bool :=
  let t := s.lpl.lastLatch + x.offset
  s.lpl.latched && !s.bel.sleepClock && decide (s.now ≤ t) && decide (t < s.now + 4)

/-- A pulse may start in this cycle (R502, R503): ONESHOT once at START, PERIODIC at its points, FRAME after the latch
points, not in SLEEP. -/
def pulseDue (o : Fin 4) (s : State) : Bool :=
  let x := s.bel.pulse[o]
  s.bel.powered && x.active.isNone && x.startedAt != some s.bel.frc &&
    match x.cfg.mode with
    | .off => false
    | .oneshot => !x.given && decide (mkTime x.cfg.startS x.cfg.startNs ≤ edgeLimit s)
    | .periodic => periodDue x.cfg s
    | .frame => frameDue x.cfg s

/-- A PPS output starts a pulse. -/
def execPulseEdge (o : Fin 4) (s : State) : Out := .next (whenS (pulseDue o s) (startPps o) s)

/-- WIDTH_NS after its start a pulse ends, counted on the FRC, and a pending PULSE_SET applies (R503). -/
def execPulseEnd (o : Fin 4) (s : State) : Out :=
  let x := s.bel.pulse[o]
  .next (match x.active with
    | none => s
    | some f =>
      if x.cfg.width * 65536 < (s.bel.frc + 2 ^ 64 - f) % 2 ^ 64 + s.bel.cycle then
        let s := emit (.pps o false) (modPulse o (fun p => { p with active := none }) s)
        match x.pending with
        | some c => setPulse o c s
        | none => s
      else s)

end Sys2Proof.Machine
end

