-- ==== Sys2Proof/Machine/Eth.lean ====
section
/-!
DEFINITION. The Ethernet ports: accepted frames, command and bulk datagrams, egress, PTP messages
(R77 to R80 of spec/02_host_rings.md, R478 to R500 of spec/18_bellhouse_ethernet.md).
-/

namespace Sys2Proof.Machine

/-- A port sends: powered, enabled, its link up, not in a low-power entry (R387 step 3). -/
def macSends (p : Fin 2) (s : State) : Bool :=
  s.pwr.core && !lowOff s && s.eth.port[p].enabled && s.eth.port[p].link

/-- Its receiver is on too: past phase K (R574). -/
def macUp (p : Fin 2) (s : State) : Bool := macSends p s && s.pwr.cores.served

/-- R481: the VLAN rules; gPTP frames are untagged. -/
def vlanOk (e : Eth) (f : RxFrame) (gptp : Bool) : Bool :=
  let plain := f.vlan == none || f.vlan == some 0
  if gptp then f.vlan == none
  else if e.vlanId = 0 then plain
  else f.vlan == some e.vlanId || (e.acceptUntagged && plain)

/-- An IPv4 packet of a protocol that R480 admits. -/
def isIp (f : RxFrame) (protocol : Nat) : Bool :=
  f.etherType == 0x0800 && f.protocol == protocol && f.ipOk

/-- The table Received frames (R479): an ARP request for the port's address. -/
def rowArp (e : Eth) (f : RxFrame) : Bool := f.etherType == 0x0806 && f.target == e.ip

/-- An ICMP echo request to the port's address. -/
def rowIcmp (e : Eth) (f : RxFrame) : Bool := isIp f 1 && f.target == e.ip

/-- A datagram to a UDP port of the port's address: 47810 commands, 47811 bulk data. -/
def rowUdp (port : Nat) (e : Eth) (f : RxFrame) : Bool :=
  isIp f 17 && f.port == port && f.target == e.ip

/-- PTP as the port's TRANSPORT carries it; addresses have their first byte in the low bits: 01-1B-19-00-00-00,
01-80-C2-00-00-0E, 224.0.1.129, 224.0.0.107. -/
def rowPtp (e : Eth) (f : RxFrame) : Bool :=
  if e.ptp.udp then
    isIp f 17 && (f.port == 319 || f.port == 320) &&
      (f.target == 0x810100E0#32 || f.target == 0x6B0000E0#32 || f.target == e.ip)
  else
    f.etherType == 0x88F7 && (f.dst == 0x000000191B01 || f.dst == 0x0E0000C28001 || f.dst == e.mac)

/-- R479 to R481: the port accepts the frame, which is to match a row of the table Received frames. -/
def frameOk (e : Eth) (f : RxFrame) (gptp row : Bool) : Bool :=
  decide (64 ≤ f.length) && decide (f.length ≤ 9216) && vlanOk e f gptp && row

/-- A frame with a bad FCS (R479): at most one NOTE a second. -/
def fcsBad (p : Fin 2) (s : State) : State :=
  let e := s.eth.port[p]
  let s := modEth p (fun e => { e with rxFcs := bump 65535 1 e.rxFcs }) s
  let quiet : Bool := match e.fcsNote with
    | some t => decide (s.now < t + 1000000000)
    | none => false
  if quiet then s
  else raise (36 + p.val) .note 2 (modEth p (fun e => { e with fcsNote := some s.now }) s)

/-- Receive a frame (R479): handle an accepted one, count every other. -/
def receive (p : Fin 2) (f : RxFrame) (gptp : Bool) (row : Eth → RxFrame → Bool) (h : State → State)
    (s : State) : State :=
  if !macUp p s then s
  else if !f.fcsOk then fcsBad p s
  else if frameOk s.eth.port[p] f gptp (row s.eth.port[p] f) then h s
  else modEth p (fun e => { e with rxDiscarded := bump 65535 1 e.rxDiscarded }) s

/-- A PTP message no option covers is discarded and counted (R495). -/
def ptpIgnore (p : Fin 2) (s : State) : State :=
  modEth p (fun e => { e with ptpIgnored := bump 65535 1 e.ptpIgnored }) s

/-- Receive a PTP message (R479, R481); one of another domain is discarded and counted (R495). -/
def receivePtp (p : Fin 2) (f : RxFrame) (domain : Nat) (h : State → State) (s : State) : State :=
  receive p f (s.eth.port[p].ptp.profile == 2) rowPtp
    (fun s => if s.eth.port[p].ptp.domain = domain then h s else ptpIgnore p s) s

/-- Queue a frame for sending (R486); without a link it is dropped (R487). -/
def enqueue (p : Fin 2) (q : Fin 8) (f : EthPayload) (launch : Option Int) (s : State) : State :=
  if s.eth.port[p].link then
    modEth p (fun e => { e with
      egress := e.egress.upd q fun l => l ++ [⟨f, launch, launch.isNone⟩] }) s
  else modEth p (fun e => { e with txDropped := bump 65535 1 e.txDropped }) s

/-- The queue of command and bulk replies (R486). -/
def replyQueue (p : Fin 2) (s : State) : Fin 8 := ⟨s.eth.port[p].pcpReply % 8, by omega⟩

/-- An allow-list entry matches a source (R482): the first PREFIX bits agree; the first byte sent is in
bits [7:0]. -/
def Allow.hit (a : Allow) (ip : BitVec 32) : Bool :=
  let bits (x : BitVec 32) : Nat := beNat (leBytes 4 x.toNat)
  a.valid && bits a.addr / 2 ^ (32 - min 32 a.pfx) == bits ip / 2 ^ (32 - min 32 a.pfx)

/-- R482. -/
def allowed (e : Eth) (ip : BitVec 32) : Bool :=
  !(e.allow.some' fun (a : Allow) => a.valid) || e.allow.some' fun (a : Allow) => a.hit ip

/-- A dropped datagram (R78, R484). -/
def dropDatagram (p : Fin 2) (s : State) : State :=
  { s with hif.cmdqDrop := s.hif.cmdqDrop.upd p (bump 65535 1) }

/-- A field of a header. -/
def hdr (l : List Byte) (o n : Nat) : Nat := leNat ((l.drop o).take n)

/-- R78: the header or the length is wrong. -/
def cmdBad (l : List Byte) : Bool :=
  let n := hdr l 3 1
  hdr l 0 2 != 0x4C47 || hdr l 2 1 != 1 || hdr l 8 1 != 0 || n == 0 || decide (n > 16) ||
    l.length != 16 + 64 * n

/-- The descriptors of a datagram. -/
def cmdDescs (l : List Byte) : List Desc :=
  (List.range (hdr l 3 1)).map fun i => BitVec.ofNat 512 (hdr l (16 + 64 * i) 64)

/-- Remember a sender as the one last heard, at most 8 of them (R79). -/
def rememberSender (l : List Sender) (x : Sender) : List Sender :=
  (x :: l.filter fun y => !(y.ip == x.ip && y.port == x.port)).take 8

/-- Send a cached reply again with DUPLICATE = 1 (R79). -/
def resend (p : Fin 2) (to' : Peer) (reply : List Byte) (s : State) : State :=
  enqueue p (replyQueue p s) (.udpReply to' 47810 (reply.set 9 1)) none s

/-- An accepted command datagram (R78, R79). -/
def takeCommand (p : Fin 2) (f : RxFrame) (s : State) : State :=
  let e := s.eth.port[p]
  let l := f.payload
  let seq : BitVec 32 := BitVec.ofNat 32 (hdr l 4 4)
  if cmdBad l || !allowed e f.from'.ip then dropDatagram p s
  else
    let known := e.senders.find? fun x => x.ip == f.from'.ip && x.port == f.from'.port
    let repeats : Option Sender := match known with
      | some x => if x.sequence = seq then some x else none
      | none => none
    match repeats with
    | some x =>
      let s := modEth p (fun e => { e with senders := rememberSender e.senders x }) s
      match x.reply with
      | some r => if e.queue.length ≥ 64 then dropDatagram p s else resend p f.from' r s
      | none => dropDatagram p s
    | none =>
      let stale : Bool := match known with
        | some x => (seq - x.sequence).msb
        | none => false
      if e.queue.length ≥ 64 || stale then
        dropDatagram p (match known with
          | some x => modEth p (fun e => { e with senders := rememberSender e.senders x }) s
          | none => s)
      else
        let ds := cmdDescs l
        let key := s.eth.nextKey
        let s := { s with eth.nextKey := key + 1 }
        modEth p (fun e => { e with
          senders := rememberSender e.senders ⟨f.from'.ip, f.from'.port, seq, none⟩
          queue := e.queue ++ [.cmd key f.from' seq ds 0 s.now]
          execs := e.execs ++ [⟨key, f.from', seq, ds.length, []⟩] }) s

/-- A command datagram arrives. -/
def execCommandDatagramReceived (p : Fin 2) (f : RxFrame) (s : State) : Out :=
  .next (receive p f false (rowUdp 47810) (takeCommand p f) s)

/-- The reply of a finished datagram (R77, R80): every completion written, in the order written. -/
def replyBytes (x : Exec) : List Byte :=
  let es := x.done.filterMap fun d => d.2
  leBytes 2 0x4C47 ++ [1, BitVec.ofNat 8 es.length] ++ leBytes 4 x.sequence.toNat ++ [1, 0] ++
    List.replicate 6 0 ++ es.flatMap fun e => cplBytes e.1 0 0 e.2

/-- Every descriptor of a datagram has completed: one reply is sent and cached (R79, R80). -/
def execDatagramReply (p : Fin 2) (s : State) : Out :=
  .next (if !coresUp s then s
    else match s.eth.port[p].execs.find? fun x => x.done.length == x.count with
    | none => s
    | some x =>
      let r := replyBytes x
      let cache (y : Sender) : Sender :=
        if y.ip = x.peer.ip ∧ y.port = x.peer.port ∧ y.sequence = x.sequence then
          { y with reply := some r }
        else y
      let s := modEth p (fun e => { e with
        execs := e.execs.filter fun y => y.key != x.key
        senders := e.senders.map cache }) s
      enqueue p (replyQueue p s) (.udpReply x.peer 47810 r) none s)

/-- R484: a bulk datagram that is dropped. -/
def bulkBad (l : List Byte) : Bool :=
  hdr l 0 2 != 0x4C42 || hdr l 2 1 != 1 || hdr l 3 1 != 0 || decide (l.length < 32) ||
    l.length != 32 + hdr l 12 2

/-- The STATUS of a bulk datagram (R483, R484) and the state after its write; one that is denied a byte writes
none. -/
def bulkWrite (p : Fin 2) (header data : List Byte) (s : State) : Nat × State :=
  let e := s.eth.port[p]
  let a := hdr header 8 4
  let mask := authMask (.eth p 0 0) s
  if !(bitOf mask 0 || bitOf mask 4 || bitOf mask 8) then (1, s)
  else if a < e.bulkBase * 65536 ∨ (e.bulkLimit + 1) * 65536 < a + data.length ∨
      e.bulkLimit < e.bulkBase then (2, s)
  else if (Env.crc32c data).toNat ≠ hdr header 16 4 then (3, s)
  else if data.isEmpty then (0, s)
  else match firstDenied s permCoreW false a data.length with
    | some b => (4, violation .cores true b .minor s)
    | none =>
      let r := coreWrite a data s
      (if r.1 then 0 else 4, r.2)

/-- A bulk reply: the header with TYPE 1 and the STATUS (R483). -/
def bulkReply (header : List Byte) (st : Nat) : List Byte :=
  (header.set 3 1).set 14 (BitVec.ofNat 8 st)

/-- The control cores handle bulk datagrams at the front of a port's queue (R485); `fuel` bounds them. -/
def drainBulk (p : Fin 2) : Nat → State → State
  | 0, s => s
  | fuel + 1, s =>
    match s.eth.port[p].queue with
    | .bulk peer header data :: rest =>
      if serves (.eth p 0 0) s then
        let s := modEth p (fun e => { e with queue := rest }) s
        let r := bulkWrite p header data s
        let s := enqueue p (replyQueue p s) (.udpReply peer 47811 (bulkReply header r.1)) none r.2
        drainBulk p fuel s
      else s
    | _ => s

/-- Handle what stands at the front of a port's queue. -/
def drainQueue (p : Fin 2) (s : State) : State := drainBulk p s.eth.port[p].queue.length s

/-- An accepted bulk datagram (R484, R485). -/
def takeBulk (p : Fin 2) (f : RxFrame) (s : State) : State :=
  let e := s.eth.port[p]
  if bulkBad f.payload || !allowed e f.from'.ip || decide (e.queue.length ≥ 64) then dropDatagram p s
  else
    drainQueue p (modEth p (fun e => { e with
      queue := e.queue ++ [.bulk f.from' (f.payload.take 32) (f.payload.drop 32)] }) s)

/-- A bulk datagram arrives. -/
def execBulkDatagramReceived (p : Fin 2) (f : RxFrame) (s : State) : Out :=
  .next (receive p f false (rowUdp 47811) (takeBulk p f) s)

/-- An ARP request for the port's address (R479, R480). -/
def execArpRequestReceived (p : Fin 2) (f : RxFrame) (s : State) : Out :=
  .next (receive p f false rowArp (enqueue p 1 (.arpReply f.from') none) s)

/-- An ICMP echo request (R479): at most 16 a second are answered, the rest discarded. -/
def takeEchoRequest (p : Fin 2) (f : RxFrame) (s : State) : State :=
  let e := s.eth.port[p]
  let fresh := decide (s.now ≥ e.echoSince + 1000000000) || e.echoes == 0
  let n := if fresh then 0 else e.echoes
  if n ≥ 16 then modEth p (fun e => { e with rxDiscarded := bump 65535 1 e.rxDiscarded }) s
  else
    enqueue p 1 (.echoReply f.from' f.payload) none
      (modEth p (fun e => { e with
        echoes := n + 1, echoSince := if fresh then s.now else e.echoSince }) s)

/-- An ICMP echo request arrives. -/
def execIcmpEchoReceived (p : Fin 2) (f : RxFrame) (s : State) : Out :=
  .next (receive p f false rowIcmp (takeEchoRequest p f) s)

/-- The PTP state a port runs in once it has initialised (R496; log entry 17). -/
def Eth.firstPtp (e : Eth) : PtpState :=
  if e.ptp.role = 0 then .disabled else if e.ptp.role = 3 then .master else .listening

/-- A port's link comes up (R480). -/
def execEthLinkUp (p : Fin 2) (s : State) : Out :=
  let e := s.eth.port[p]
  let looping : Bool := match s.tst.job with
    | some j => j.test == 2 && j.target == p.val
    | none => false
  .next (whenS (s.pwr.core && e.enabled && !e.link && !looping)
    (fun s => enqueue p 1 .gratuitousArp none
      (modEth p (fun e => { e with link := true, ptpState := e.firstPtp }) s)) s)

/-- Every queued frame of a port is discarded (R487). -/
def dropEgress (p : Fin 2) (s : State) : State :=
  modEth p (fun e => { e with
    egress := Tab.all 8 []
    txDropped := bump 65535 ((List.finRange 8).map fun q => (e.egress[q]).length).sum e.txDropped }) s

/-- The link of a port goes away. -/
def ethLinkLost (p : Fin 2) (s : State) : State :=
  let was := decide (sourcePort s = some p)
  let s := dropEgress p s
  let s := modEth p (fun e => { e with
    link := false, asCapable := false, syncWait := none, delayT3 := none, pdelay := none, parent := none
    foreign := [], qualify := 0, ratio := 1, turn := none
    ptpState := if e.ptp.role = 0 then .disabled else .faulty }) s
  settleFree (if was then loseLock 5 p s else s)

/-- A port's link goes down (R479, R487, R499). -/
def execEthLinkDown (p : Fin 2) (s : State) : Out :=
  .next (whenS (s.pwr.core && s.eth.port[p].link)
    (fun s => ethLinkLost p (raise (36 + p.val) .minor 1 s)) s)

/-- Mark the head frame of a queue eligible if its launch time has come (R487). -/
def markEligible (s : State) (p : Fin 2) (q : Fin 8) : State :=
  let t := netTime s
  modEth p (fun e => { e with egress := e.egress.upd q fun l => match l with
    | f :: r => (match f.launch with
      | some k => { f with eligible := decide (k ≤ t) }
      | none => { f with eligible := true }) :: r
    | [] => [] }) s

/-- Network time reached a held frame's launch time. -/
def execEthLaunchEligible (p : Fin 2) (q : Fin 8) (s : State) : Out :=
  .next (whenS (macSends p s) (fun s => markEligible s p q) s)

/-- The egress time stamp (R493): the place of the frame in its 4 ns cycle is the environment's, a free
value in half nanoseconds (log entry 2). -/
def egressStamp (p : Fin 2) (s : State) : Int × State :=
  let r := freshBits 3 s
  (netTime s + r.1.toNat * 32768 + s.eth.port[p].txDelay * 16384, r.2)

/-- One-step rewriting and the Follow_Ups of two-step messages (R494, R495). -/
def sendPtp (p : Fin 2) (m : PtpMsg) (seq : Nat) (time corr stamp : Int) (s : State) :
    EthPayload × State :=
  let one := s.eth.port[p].ptp.oneStep
  let whole := stamp / 65536 * 65536
  let plain : EthPayload := .ptp m seq time corr
  match m with
  | .sync =>
    if one then (.ptp .sync seq whole (corr + stamp % 65536), s)
    else (plain, enqueue p 6 (.ptp .followUp seq whole (stamp % 65536)) none s)
  | .pdelayResp =>
    if one then (.ptp .pdelayResp seq 0 (corr + (stamp - time)), s)
    else (.ptp .pdelayResp seq time 0, enqueue p 6 (.ptp .pdelayRespFollowUp seq stamp corr) none s)
  | .delayReq | .pdelayReq => (plain, modEth p (fun e => { e with delayT3 := some stamp }) s)
  | _ => (plain, s)

/-- The tag of a frame (R481): its VLAN ID and, as PCP, its queue; gPTP frames go untagged. -/
def egressTag (p : Fin 2) (q : Fin 8) (f : EthPayload) (s : State) : Option (Nat × Nat) :=
  let e := s.eth.port[p]
  let gptp : Bool := match f with
    | .ptp _ _ _ _ => e.ptp.profile == 2
    | _ => false
  if e.vlanId = 0 ∨ gptp then none else some (e.vlanId, q.val)

/-- The hardware rewrites the frame as it leaves, and over UDP/IPv4 its checksum becomes 0 (R494). -/
def zeroChecksum (p : Fin 2) (f : EthPayload) (s : State) : Bool :=
  let c := s.eth.port[p].ptp
  c.oneStep && c.udp && match f with
    | .ptp m _ _ _ => m == .sync || m == .pdelayResp
    | _ => false

/-- A PTP message. -/
def EthPayload.isPtp : EthPayload → Bool
  | .ptp _ _ _ _ => true
  | _ => false

/-- A queue whose head frame may leave; no PTP message does while the firmware is down (R500; log entry 152). -/
def headEligible (p : Fin 2) (s : State) (q : Fin 8) : Bool :=
  match (s.eth.port[p].egress[q]).head? with
  | some f => f.eligible && (coresUp s || !f.payload.isPtp)
  | none => false

/-- The clockIdentity, first byte highest: ETH0's MAC address with FF, FE after its third byte (R496). -/
def clockIdentity (s : State) : Nat :=
  let b := leBytes 6 s.eth.port[(0 : Fin 2)].mac
  beNat (b.take 3 ++ [0xFF, 0xFE] ++ b.drop 3)

/-- The clock's own data set (R496, BEL_CLOCK; its variance PRESUMED, log entry 151). -/
def ownData (s : State) : ClockData :=
  let c := s.bel.clock
  { priority1 := field c 0 8, clockClass := field c 16 8, accuracy := field c 24 8, variance := 0xFFFF
    priority2 := field c 8 8, grandmaster := clockIdentity s, steps := 0, sender := clockIdentity s
    senderPort := 0 }

/-- The data set an Announce of a port carries: the source's, one step further, or the clock's own (R496). -/
def announceData (p : Fin 2) (s : State) : ClockData :=
  let d := match sourcePort s with
    | some q => match s.eth.port[q].parent with
      | some d => { d with steps := d.steps + 1 }
      | none => ownData s
    | none => ownData s
  { d with sender := clockIdentity s, senderPort := p.val + 1 }

/-- The header of a PTP message that leaves: twoStepFlag is 0 with ONE_STEP (R494 to R496). -/
def ptpHead (p : Fin 2) (s : State) : EthPayload → Option PtpHead
  | .ptp m _ _ _ =>
    let c := s.eth.port[p].ptp
    some
      { twoStep := !c.oneStep && (m == .sync || m == .pdelayResp), domain := c.domain
        sender := clockIdentity s, senderPort := p.val + 1
        announce := if m = .announce then some (announceData p s) else none }
  | _ => none

/-- The link is free: the highest-numbered eligible queue sends its head frame (R486, R487, R494). -/
def sendFrame (p : Fin 2) (s : State) : State :=
  let s := (List.finRange 8).foldl (fun s q => markEligible s p q) s
  match ((List.finRange 8).filter (headEligible p s)).getLast? with
  | none => s
  | some q =>
    match s.eth.port[p].egress[q] with
    | [] => s
    | f :: rest =>
      let late : Bool := match f.launch with
        | some k => decide (k + 65536000 < netTime s)
        | none => false
      let s := modEth p (fun e => { e with
        egress := e.egress.put q rest
        txLate := if late then bump 65535 1 e.txLate else e.txLate }) s
      let r := egressStamp p s
      let x : EthPayload × State := match f.payload with
        | .ptp m seq t c => sendPtp p m seq t c r.1 r.2
        | y => (y, r.2)
      emit (.eth p { f with payload := x.1 } r.1 (egressTag p q x.1 s) (zeroChecksum p x.1 s)
        (ptpHead p s x.1)) x.2

/-- A frame leaves a port. -/
def execEthFrameTransmit (p : Fin 2) (s : State) : Out := .next (whenS (macSends p s) (sendFrame p) s)

/-- The ingress stamp of a message (R493). -/
def ingress (p : Fin 2) (m : PtpIn) (s : State) : Int :=
  netTime s + m.halfNs.val * 32768 - s.eth.port[p].rxDelay * 16384

/-- The port's firmware runs PTP (R495, R500). -/
def ptpRuns (p : Fin 2) (s : State) : Bool := coresUp s && s.eth.port[p].ptp.role != 0

/-- The gPTP profile. -/
def isGptp (p : Fin 2) (s : State) : Bool := s.eth.port[p].ptp.profile == 2

/-- The port is the time source. -/
def isSource (p : Fin 2) (s : State) : Bool :=
  s.eth.port[p].ptpState == .slave || s.eth.port[p].ptpState == .uncalibrated

/-- A complete Sync: t2, t1 and the corrections give a sample (R497); the port's first makes it SLAVE (log entry
151). -/
def syncSample (p : Fin 2) (t2 t1 corr : Int) (s : State) : State :=
  let e := s.eth.port[p]
  let diff := t2 - t1 - (corr + e.asym)
  let s := modEth p (fun e => { e with syncDiff := diff, syncWait := none, ptpState := .slave }) s
  takeSample p (diff - e.pathDelay) e.pathDelay s

/-- A Sync (R493, R497). -/
def takeSync (p : Fin 2) (m : PtpIn) (s : State) : State :=
  let s := modEth p (fun e => { e with syncRx := bump 65535 1 e.syncRx }) s
  if !ptpRuns p s || !isSource p s then s
  else
    let t2 := ingress p m s
    if m.twoStep then
      modEth p (fun e => { e with syncWait := some ⟨m.seq, t2, m.correction⟩ }) s
    else syncSample p t2 m.time m.correction s

/-- A Sync arrives. -/
def execSyncReceived (p : Fin 2) (f : RxFrame) (m : PtpIn) (s : State) : Out :=
  .next (receivePtp p f m.domain (takeSync p m) s)

/-- A Follow_Up (R497). -/
def takeFollowUp (p : Fin 2) (m : PtpIn) (s : State) : State :=
  match s.eth.port[p].syncWait with
  | some w =>
    if ptpRuns p s && isSource p s && w.seq == m.seq then
      syncSample p w.ingress m.time (w.correction + m.correction) s
    else s
  | none => s

/-- A Follow_Up arrives. -/
def execFollowUpReceived (p : Fin 2) (f : RxFrame) (m : PtpIn) (s : State) : Out :=
  .next (receivePtp p f m.domain (takeFollowUp p m) s)

/-- neighborRateRatio (R497): the responder's time between two of its answers, of which t3 is known, against the
port's own between their arrivals. -/
def rateRatio (e : Eth) (t3 : Option Int) (t4 : Int) : Rat :=
  match e.turn, t3 with
  | some u, some t => if u.2 < t4 then ((t - u.1 : Int) : Rat) / ((t4 - u.2 : Int) : Rat) else e.ratio
  | _, _ => e.ratio

/-- A peer delay exchange is complete: (ratio (t4 - t1) - (t3 - t2) - c) / 2, t3 known of a two-step answer
(R497). -/
def pdelayDone (p : Fin 2) (t4 t1 turn corr : Int) (t3 : Option Int) (s : State) : State :=
  let r := rateRatio s.eth.port[p] t3 t4
  let span := roundRat (r * (t4 - t1 : Int))
  modEth p (fun e => { e with
    pathDelay := roundEven (span - turn - corr) 2, delayT3 := none, pdelay := none
    ratio := r, turn := match t3 with
      | some t => some (t, t4)
      | none => e.turn
    asCapable := e.asCapable || e.ptp.profile == 2 }) s

/-- A delay message (R494, R495, R497). -/
def takeDelay (p : Fin 2) (msg : PtpMsg) (m : PtpIn) (s : State) : State :=
  let e := s.eth.port[p]
  let t := ingress p m s
  if !coresUp s then s
  else if !ptpRuns p s then ptpIgnore p s
  else match msg with
  | .delayReq =>
    if e.ptp.profile ≠ 0 then ptpIgnore p s
    else if e.ptpState = .master then enqueue p 6 (.ptp .delayResp m.seq t m.correction) none s
    else s
  | .delayResp =>
    if e.ptp.profile ≠ 0 then ptpIgnore p s
    else match e.delayT3 with
    | some t3 =>
      if m.seq = e.delaySeq then
        modEth p (fun e => { e with
          pathDelay := roundEven (e.syncDiff + (m.time - t3 - m.correction)) 2, delayT3 := none }) s
      else s
    | none => s
  | .pdelayReq =>
    if e.ptp.profile = 0 then ptpIgnore p s
    else enqueue p 7 (.ptp .pdelayResp m.seq t m.correction) none s
  | .pdelayResp =>
    if e.ptp.profile = 0 then ptpIgnore p s
    else match e.delayT3 with
    | some t1 =>
      if m.seq ≠ e.delaySeq then s
      else if m.twoStep then
        modEth p (fun e => { e with pdelay := some ⟨m.seq, t, m.time, m.correction + e.asym⟩ }) s
      else pdelayDone p t t1 0 (m.correction + e.asym) none s
    | none => s
  | .pdelayRespFollowUp =>
    if e.ptp.profile = 0 then ptpIgnore p s
    else match e.delayT3, e.pdelay with
    | some t1, some w =>
      if m.seq = w.seq then
        pdelayDone p w.t4 t1 (m.time - w.t2) (w.correction + m.correction)
          (some (m.time + w.correction + m.correction)) s
      else s
    | _, _ => s
  | _ => ptpIgnore p s

/-- A delay message arrives. -/
def execDelayExchangeMessageReceived (p : Fin 2) (f : RxFrame) (msg : PtpMsg) (m : PtpIn)
    (s : State) : Out :=
  .next (receivePtp p f m.domain (takeDelay p msg m) s)

/-- A state a port's ROLE admits (R496). -/
def roleAdmits (role : Nat) (k : PtpState) : Bool :=
  match k with
  | .master | .preMaster => role != 1
  | .slave | .uncalibrated => role != 3
  | .passive => role == 2
  | _ => true

/-- A list of numbers comes first in lexicographic order. -/
def lexLess : List Nat → List Nat → Bool
  | a :: x, b :: y => decide (a < b) || (a == b && lexLess x y)
  | _, _ => false

/-- Data set comparison: the grandmaster's attributes, then, for one grandmaster, the way to it (R496; PRESUMED IEEE
1588, log entry 151). -/
def ClockData.better (a b : ClockData) : Bool :=
  if a.grandmaster = b.grandmaster then
    lexLess [a.steps, a.sender, a.senderPort] [b.steps, b.sender, b.senderPort]
  else
    lexLess [a.priority1, a.clockClass, a.accuracy, a.variance, a.priority2, a.grandmaster]
      [b.priority1, b.clockClass, b.accuracy, b.variance, b.priority2, b.grandmaster]

/-- Of the data sets a port and its number give, the better; a tie goes to the first. -/
def betterOf (x y : Option (Fin 2 × ClockData)) : Option (Fin 2 × ClockData) :=
  match x, y with
  | some a, some b => if b.2.better a.2 then y else x
  | some _, none => x
  | none, _ => y

/-- A port's announce interval in ns. -/
def announceNs (e : Eth) : Nat :=
  if e.ptp.logAnnounce < 0 then 1000000000 / 2 ^ e.ptp.logAnnounce.natAbs
  else 1000000000 * 2 ^ e.ptp.logAnnounce.natAbs

/-- A clock last heard within the window of 4 announce intervals. -/
def Foreign.fresh (x : Foreign) (e : Eth) (s : State) : Bool := decide (s.now ≤ x.at' + 4 * announceNs e)

/-- The best clock heard on a port: one of those that may be selected. -/
def bestOn (p : Fin 2) (s : State) : Option (Fin 2 × ClockData) :=
  let e := s.eth.port[p]
  if !e.link || e.ptp.role == 0 || e.ptp.role == 3 then none
  else (e.foreign.filter fun x => x.qualified && x.fresh e s).foldl
    (fun best x => betterOf best (some (p, x.data))) none

/-- The best clock on a port lies behind the device's own time source (better by topology). -/
def behind (best mine : ClockData) (own : Nat) : Bool :=
  best.grandmaster == mine.grandmaster &&
    (mine.steps == best.steps || (mine.steps == best.steps + 1 && decide (mine.sender < own)))

/-- What the best master clock algorithm makes of a port (R496): its state, and the parent of a source. -/
def decidePort (p : Fin 2) (s : State) : PtpState × Option ClockData :=
  let e := s.eth.port[p]
  let own := ownData s
  let mine := bestOn p s
  let master : PtpState × Option ClockData := (if e.ptpState = .preMaster then .preMaster else .master, none)
  if e.ptpState = .listening ∧ mine.isNone then (.listening, none)
  else if 1 ≤ own.clockClass ∧ own.clockClass ≤ 127 then
    match mine with
    | some m => if own.better m.2 then master else (.passive, none)
    | none => master
  else match betterOf (bestOn 0 s) (bestOn 1 s) with
    | none => master
    | some b =>
      if own.better b.2 then master
      else if b.1 = p then (.uncalibrated, some b.2)
      else match mine with
        | some m => if behind b.2 m.2 own.grandmaster then (.passive, none) else (.preMaster, none)
        | none => (.preMaster, none)

/-- A port takes what the algorithm says, as its ROLE admits: a source keeps its state under the same parent, a new
master behind a source first waits in PRE_MASTER (R496; log entry 151). -/
def becomes (x : PtpState × Option ClockData) (e : Eth) (steps : Nat) : Eth :=
  let sameParent : Bool := match e.parent, x.2 with
    | some a, some b => a.sender == b.sender && a.senderPort == b.senderPort
    | _, _ => false
  let waits := x.1 == .preMaster && e.ptpState != .master && e.ptp.profile != 2
  match x.1 with
  | .uncalibrated =>
    { e with
      parent := x.2
      ptpState := if sameParent && e.ptpState == .slave then .slave else .uncalibrated }
  | k =>
    let k : PtpState := if k = .preMaster ∧ !waits then .master else k
    let k : PtpState := if roleAdmits e.ptp.role k then k else if e.ptp.role = 3 then .master else .listening
    { e with
      parent := none
      qualify := if k = .preMaster ∧ e.ptpState ≠ .preMaster then steps + 1 else e.qualify
      ptpState := k }

/-- A port's best clock may change its state. -/
def decides (p : Fin 2) (s : State) : Bool :=
  let e := s.eth.port[p]
  e.runsPtp && e.link && e.ptpState != .initializing && e.ptpState != .faulty && e.ptpState != .disabled

/-- The time source's port and its parent's port identity. -/
def sourceOf (s : State) : Option (Fin 2 × Nat × Nat) :=
  match sourcePort s with
  | some p => (s.eth.port[p].parent).map fun d => (p, d.sender, d.senderPort)
  | none => none

/-- The best master clock algorithm on both ports (R496, R499). -/
def bestMaster (s : State) : State :=
  let was := sourceOf s
  let steps := match betterOf (bestOn 0 s) (bestOn 1 s) with
    | some b => b.2.steps
    | none => 0
  let next (p : Fin 2) : Eth :=
    if decides p s then becomes (decidePort p s) s.eth.port[p] steps else s.eth.port[p]
  let e0 := next 0
  let e1 := next 1
  let s := modEth 1 (fun _ => e1) (modEth 0 (fun _ => e0) s)
  let s := match was, sourceOf s with
    | some a, some b => if a = b then s else loseLock 4 b.1 s
    | _, _ => s
  settleFree s

/-- A clock is heard: its second Announce within the window, in gPTP its first, makes it one that may be selected. -/
def hear (d : ClockData) (e : Eth) (s : State) : Eth :=
  let is (x : Foreign) : Bool := x.data.sender == d.sender && x.data.senderPort == d.senderPort
  let again := (e.foreign.filter fun x => x.fresh e s).any is
  { e with foreign := (e.foreign.filter fun x => !is x && x.fresh e s) ++
      [⟨d, s.now, again || e.ptp.profile == 2⟩] }

/-- The UTC fields of the parent's Announce (R495). -/
def takeUtc (p : Fin 2) (a : AnnounceIn) (s : State) : State :=
  if sourceOf s = some (p, a.data.sender, a.data.senderPort) then
    { s with
      bel.utcOffset := a.utcOffset
      bel.utcValid := a.utcValid
      bel.leap59 := a.leap59
      bel.leap61 := a.leap61 }
  else s

/-- An Announce (R496, R499): the clock is heard and the algorithm runs; the device's own, and one 255 steps away, count
for nothing. -/
def takeAnnounce (p : Fin 2) (a : AnnounceIn) (s : State) : State :=
  if !coresUp s then s
  else if !ptpRuns p s then ptpIgnore p s
  else if a.data.sender = clockIdentity s ∨ 255 ≤ a.data.steps then s
  else takeUtc p a (bestMaster (modEth p (fun e => hear a.data e s) s))

/-- An Announce arrives. -/
def execAnnounceReceived (p : Fin 2) (f : RxFrame) (a : AnnounceIn) (s : State) : Out :=
  .next (receivePtp p f a.domain (takeAnnounce p a) s)

/-- A management message arrives: discarded and counted (R495). -/
def execManagementMessageReceived (p : Fin 2) (f : RxFrame) (s : State) : Out :=
  .next (receive p f (s.eth.port[p].ptp.profile == 2) rowPtp (ptpIgnore p) s)

/-- Network time of the next point of the Sync grid (R487): k * 2^LOG_SYNC s. -/
def syncGrid (log : Int) (t : Int) : Int :=
  let g : Int := if log < 0 then ((unitsPerS / 2 ^ log.natAbs : Nat) : Int)
    else ((unitsPerS * 2 ^ log.natAbs : Nat) : Int)
  (t / g + 1) * g

/-- A port sends what its state sends on that interval (R486, R487, R495). -/
def sendTimed (p : Fin 2) (msg : PtpMsg) (s : State) : State :=
  let e := s.eth.port[p]
  let master := e.ptpState == .master
  match msg with
  | .sync =>
    if !master then s
    else
      enqueue p 7 (.ptp .sync e.syncSeq 0 0) (some (syncGrid e.ptp.logSync (netTime s)))
        (modEth p (fun e => { e with syncSeq := (e.syncSeq + 1) % 65536 }) s)
  | .announce =>
    if e.ptpState = .preMaster then
      modEth p (fun e => { e with
        qualify := e.qualify - 1, ptpState := if e.qualify ≤ 1 then .master else .preMaster }) s
    else if !master then s
    else
      enqueue p 6 (.ptp .announce e.annSeq 0 0) none
        (modEth p (fun e => { e with annSeq := (e.annSeq + 1) % 65536 }) s)
  | .delayReq =>
    if e.ptp.profile ≠ 0 ∨ !isSource p s then s
    else
      let n := (e.delaySeq + 1) % 65536
      enqueue p 7 (.ptp .delayReq n 0 (-e.asym)) none
        (modEth p (fun e => { e with delaySeq := n, delayT3 := none }) s)
  | .pdelayReq =>
    if e.ptp.profile = 0 then s
    else
      let n := (e.delaySeq + 1) % 65536
      enqueue p 7 (.ptp .pdelayReq n 0 (-e.asym)) none
        (modEth p (fun e => { e with delaySeq := n, delayT3 := none, pdelay := none }) s)
  | _ => s

/-- A PTP interval of a port has passed; a port in INITIALIZING first comes into service. -/
def execPtpMessageTransmitTimer (p : Fin 2) (msg : PtpMsg) (s : State) : Out :=
  .next (whenS (macSends p s && ptpRuns p s)
    (fun s =>
      let s := modEth p (fun e => { e with
        ptpState := if e.ptpState = .initializing then e.firstPtp else e.ptpState }) s
      sendTimed p msg s) s)

/-- No Sync for 3 intervals (R499); in LIGHT_HOLD it counts on return to service (R500). -/
def execSyncReceiptTimeout (s : State) : Out :=
  .next (match sourcePort s with
    | none => s
    | some p => if coresUp s then loseLock 2 p s else { s with eth.syncLate := true })

/-- No Announce for 3 intervals (R496, R499): the source port, or a listening one, becomes what its ROLE
admits. -/
def execAnnounceReceiptTimeout (s : State) : Out :=
  let fall (e : Eth) : Eth :=
    { e with ptpState := if e.ptp.role = 2 then .master else .listening, parent := none, foreign := [] }
  .next (whenS (coresUp s)
    (fun s =>
      match sourcePort s with
      | some p => bestMaster (modEth p fall (loseLock 3 p s))
      | none =>
        { s with eth.port := s.eth.port.map' fun e =>
            if e.link && (e.ptpState == .listening || e.ptpState == .passive) then fall e else e }) s)

/-- ETH_CNT_CLEAR.PTP (R510). -/
def execEthCntClearPtp (s : State) : Out :=
  .next (whenS (hostUp s)
    (fun s => { s with eth.port := s.eth.port.map' fun e => { e with syncRx := 0, ptpIgnored := 0 } }) s)

/-- ETH_CNT_CLEAR.TX (R510). -/
def execEthCntClearTx (s : State) : Out :=
  .next (whenS (hostUp s)
    (fun s => { s with eth.port := s.eth.port.map' fun e => { e with txLate := 0, txDropped := 0 } }) s)

/-- ETH_CNT_CLEAR.RX (R510). -/
def execEthCntClearRx (s : State) : Out :=
  .next (whenS (hostUp s)
    (fun s => { s with eth.port := s.eth.port.map' fun e => { e with rxFcs := 0, rxDiscarded := 0 } }) s)

end Sys2Proof.Machine
end

