-- ==== Sys2Proof/Machine/RegMap.lean ====
section
/-!
DEFINITION. What BAR0 registers read (the Registers sections of every chapter; R13 to R15 of
spec/00_scope.md). A write-only field, a W1S or an RSV field reads 0 unless its table says otherwise.
-/

namespace Sys2Proof.Machine

/-- A word from (low bit, value) pairs. -/
def pk (l : List (Nat × Nat)) : Nat := (l.map fun x => x.2 * 2 ^ x.1).sum

/-- Index and rest of an offset in an array of registers. -/
def arrayAt (o base stride count : Nat) : Option (Nat × Nat) :=
  if base ≤ o ∧ o < base + stride * count then some ((o - base) / stride, (o - base) % stride) else none

/-- The bits of a vector of flags from a place on. -/
def flagWord (n lo : Nat) (p : Nat → Bool) : Nat := pk ((List.range n).map fun i => (i, bn (p (lo + i))))

/-- HIF and its locks (R51). -/
def hifRead (o : Nat) (s : State) : Option Nat :=
  let h := s.hif
  if o = 0x00 then some (pk [(16, if s.part.small then 0x9612 else 0x9624), (0, h.vendorId.toNat)])
  else if o = 0x04 then
    some (pk [(24, s.part.step), (16, h.fwMajor.toNat), (8, h.fwMinor.toNat), (0, h.fwPatch.toNat)])
  else if o = 0x08 then
    some (pk [(16, h.lastDeniedPort), (8, h.lastDeniedOpcode.toNat), (6, bn h.hostless), (4, h.speed),
      (1, h.width), (0, bn h.linkUp)])
  else if o = 0x10 ∨ o = 0x48 then some 0
  else if o = 0x14 then some (pk [(1, bn h.authLock), (0, bn h.ringLock)])
  else if o = 0x40 then some (pk ((List.finRange 4).map fun i => (8 * i.val, h.deniedCnt[i])))
  else if o = 0x44 then some (pk ((List.finRange 2).map fun i => (16 * i.val, h.cmdqDrop[i])))
  else match arrayAt o 0x20 4 5 with
    | some (k, _) =>
      let a := h.auth.at' k ⟨0, 0⟩
      some (pk [(16, a.image.toNat), (0, a.cls.toNat)])
    | none => none

/-- RING_SQn and RING_CQn. -/
def ringRead (o : Nat) (s : State) : Option Nat :=
  match arrayAt o 0 0x20 16, arrayAt o 0x400 0x20 16 with
  | some (n, 0x10), _ =>
    let q := s.hif.sq.at' n SqRing.reset
    some (pk [(16, q.pollUs), (8, q.log2), (6, q.prio), (2, q.cq.val), (0, bn q.enable)])
  | some (n, 0x14), _ =>
    let q := s.hif.sq.at' n SqRing.reset
    some (pk [(19, bn q.fetchError), (18, bn q.badIndex), (17, bn q.running), (16, bn q.phase), (0, q.head)])
  | _, some (n, 0x10) =>
    let q := s.hif.cq.at' n (CqRing.reset 0)
    some (pk [(20, q.coalUs), (12, q.coalCount), (8, q.log2), (6, bn q.irqEn), (1, q.vector), (0, bn q.enable)])
  | _, some (n, 0x14) =>
    let q := s.hif.cq.at' n (CqRing.reset 0)
    some (pk [(19, bn q.dbError), (18, bn q.fullWait), (17, bn q.full), (16, bn q.phase), (0, q.tail)])
  | _, _ => none

/-- 64-bit RING registers. -/
def ringRead64 (o : Nat) (s : State) : Option Nat :=
  match arrayAt o 0 0x20 16, arrayAt o 0x400 0x20 16 with
  | some (n, 0x00), _ => some (s.hif.sq.at' n SqRing.reset).base.toNat
  | some (n, 0x08), _ => some (s.hif.sq.at' n SqRing.reset).db.toNat
  | _, some (n, 0x00) => some (s.hif.cq.at' n (CqRing.reset 0)).base.toNat
  | _, some (n, 0x08) => some (s.hif.cq.at' n (CqRing.reset 0)).db.toNat
  | _, _ => none

/-- DMA (R104). -/
def dmaRead (o : Nat) (s : State) : Option Nat :=
  let c (n : Nat) : DmaCh := s.dma.ch.at' n (DmaCh.reset n)
  if o = 0x1000 then some (flagWord 32 0 fun i => (c i).state.active)
  else if o = 0x1004 then some (flagWord 32 0 fun i => (c i).state == .halted)
  else if o = 0x1008 then some (pk [(16, s.dma.overrun), (0, s.dma.forced)])
  else if o = 0x100C then some 0
  else match arrayAt o 0 0x40 32 with
    | some (n, 0x08) => some (pk [(3, bn (decide (n ≤ 7))), (0, (c n).prio)])
    | some (n, 0x0C) =>
      some (pk [(24, (c n).code.toNat), (16, (c n).state.code), (0, (c n).descIndex % 65536)])
    | some (n, 0x10) => some ((c n).remain % 2 ^ 27)
    | some (n, 0x14) => some ((c n).tag % 65536)
    | _ => none

/-- 64-bit DMA registers. -/
def dmaRead64 (o : Nat) (s : State) : Option Nat :=
  match arrayAt o 0 0x40 32 with
  | some (n, 0x00) =>
    let c := s.dma.ch.at' n (DmaCh.reset n)
    some (c.descAddr / 32 * 32 + bn c.descHost)
  | some (n, 0x18) =>
    let c := s.dma.ch.at' n (DmaCh.reset n)
    some (c.errAddr / 2 * 2 + bn c.errHost)
  | _ => none

/-- GRN. -/
def grnRead32 (o : Nat) (s : State) : Option Nat :=
  let g := s.grn
  if o = 0x00 then
    some (pk [(3, bn g.march.isSome), (2, bn g.scrubActive), (1, bn g.retention), (0, bn g.initDone)])
  else if o = 0x04 then some (pk [(20, g.eccUe), (12, g.eccHard), (0, g.eccCe)])
  else if o = 0x10 then some (pk [(1, g.scrubMs), (0, bn g.scrubEn)])
  else if o = 0x14 then some (pk [(18, g.passes), (0, g.scrubWord % 2 ^ 18)])
  else if o = 0x18 then some (pk [(8, g.unrepaired), (0, g.repaired.length)])
  else if o = 0x20 then some (pk [(29, g.violMaster.code), (28, bn g.violWrite), (0, g.violAddr)])
  else if o = 0xFC then some (bn g.regLock)
  else match arrayAt o 0x100 8 16 with
    | some (n, 0) =>
      let r := g.regions.at' n ⟨0, 0, 0⟩
      some (pk [(16, r.limit), (0, r.base)])
    | some (n, 4) => some (g.regions.at' n ⟨0, 0, 0⟩).perm.toNat
    | _ => none

/-- 64-bit GRN registers. -/
def grnRead64 (o : Nat) (s : State) : Option Nat :=
  let g := s.grn
  if o = 0x08 then
    some (pk [(56, g.lastSyndrome.toNat), (48, g.lastMaster.code), (32, g.lastType.code), (3, g.lastAddr)])
  else none

/-- Code of a format (R136). -/
def Format.code : Format → Nat
  | .l8 => 0 | .l16 => 1 | .la88 => 2 | .la1616 => 3 | .a8 => 4
/-- Code of a blend mode (R142). -/
def Blend.code : Blend → Nat
  | .over' => 0 | .add => 1 | .max => 2 | .mul => 3
/-- Code of a late policy (R153). -/
def Policy.code : Policy → Nat
  | .repeat' => 0 | .drop => 1 | .substitute => 2
/-- Code and index of a source (CMP_LAYERn_SRC): INDEX is 0 for HOST (log entry 144). -/
def Source.codes : Source → Nat × Nat
  | .slot k => (0, k) | .symbol id => (1, id.val) | .host _ => (2, 0) | .none => (3, 0)
/-- Code of a symbol state. -/
def SymState.code : SymState → Nat
  | .empty => 0 | .loading => 1 | .valid => 2 | .invalid => 3
/-- Code of a warp mode (R167). -/
def WarpMode.code : WarpMode → Nat
  | .projective => 0 | .scale => 1 | .direct => 2
/-- Code of a bank kind. -/
def BankKind.code : BankKind → Nat
  | .warp4 => 0 | .scale8 => 1 | .bilinear => 2
/-- Code of a bank state. -/
def BankState.code : BankState → Nat
  | .ready => 0 | .loading => 1 | .invalid => 2

/-- Layer n, P for 8. -/
def layerN (n : Nat) (s : State) : Layer := s.cmp.layer.at' n Layer.reset

/-- CMP; a layer's registers report its committed settings. -/
def cmpRead (o : Nat) (s : State) : Option Nat :=
  let c := s.cmp
  let y := c.sym[c.symSel]
  if o = 0x00 then
    some (pk [(24, bn c.pEnable), (16, c.show'.toNat), (8, c.late.toNat),
      (0, c.box.toList.countP fun b => b.enable)])
  else if o = 0x04 then some c.order.toNat
  else if o = 0x08 then some c.maskSeq.toNat
  else if o = 0x0C then some c.protCrc.toNat
  else if o = 0x10 then some 0
  else if o = 0x20 then some c.symSel.val
  else if o = 0x24 then
    some (pk [(30, y.state.code), (27, y.format.code), (26, bn (symbolNamed c.symSel s)),
      (14, (y.height - 1) % 4096), (2, (y.width - 1) % 4096)])
  else if o = 0x28 then some (y.addr % 2 ^ 26)
  else if o = 0x2C then some y.crc.toNat
  else match arrayAt o 0x100 0x20 9 with
    | some (n, r) =>
      let l := layerN n s
      let k := (l.pending.getD l.cur).cfg
      if r = 0x00 then
        some (pk [(28, k.format.code), (26, k.blend.code), (24, k.policy.code), (22, k.source.codes.1),
          (8, k.subst.val), (0, k.source.codes.2 % 256)])
      else if r = 0x04 then some k.gain
      else if r = 0x08 then some k.opacity
      else if r = 0x0C then some k.fill
      else if r = 0x10 then some (pk [(16, l.shownSeq.toNat), (0, l.lateCount)])
      else none
    | none => none

/-- 64-bit CMP registers. -/
def cmpRead64 (o : Nat) (s : State) : Option Nat :=
  match arrayAt o 0x400 8 64 with
  | some (n, 0) =>
    let b := s.cmp.box.at' n Box.reset
    some (pk [(63, bn b.enable), (59, b.feather), (43, b.level), (33, b.y1), (22, b.x1), (12, b.y0), (1, b.x0)])
  | _ => none

/-- GEO. -/
def geoRead (o : Nat) (s : State) : Option Nat :=
  if o = 0x400 then some s.cmp.geoProtCrc.toNat
  else if o = 0x404 then some 0
  else match arrayAt o 0 0x40 9 with
    | some (n, r) =>
      let l := layerN n s
      let w := (l.pending.getD l.cur).warp
      let bank (b : Nat) : Bank := (s.cmp.bank.at' n (Tab.all 4 Bank.reset)).at' b Bank.reset
      let each (f : Bank → Nat) (lo : Nat) : List (Nat × Nat) :=
        (List.range 4).map fun b => (lo + 2 * b, f (bank b))
      if r = 0x00 then
        some (pk (each (fun b => b.kind.code) 24 ++ each (fun b => b.state.code) 16 ++
          [(4, w.bank.val), (2, bn w.clamp), (0, w.mode.code)]))
      else if r = 0x04 then some (pk [(16, l.oversteps), (8, l.parity)])
      else if r = 0x08 then some l.overstepPx
      else if r < 0x30 then some (toBits 32 (w.h.at' ((r - 0x0C) / 4) 0))
      else some (bank ((r - 0x30) / 4)).crc.toNat
    | none => none

/-- PHO. -/
def phoRead (o : Nat) (s : State) : Option Nat :=
  let p := s.pho
  let copying : Bool := match p.plane with
    | some (.copying _) => true
    | _ => false
  if o = 0x00 then some (pk [(2, bn p.ovrFull), (1, bn p.tempSubst), (0, bn copying)])
  else if o = 0x04 then some (p.planeBase / 65536 * 65536)
  else if o = 0x08 then some (pk [(16, p.fadeTarget), (0, p.fadeShown)])
  else if o = 0x0C then
    some (pk [(31, bn p.fadeSquare), (0, match p.fade with
      | some f => f.n - f.k
      | none => 0)])
  else if o = 0x10 then some p.limit
  else if o = 0x14 then some (pk [(16, p.rise), (0, p.factor)])
  else if o = 0x18 then some (min 0xFFFFFFFF (p.demand / 65536))
  else if o = 0x1C then some p.shortfall
  else if o = 0x20 then some (pk [(16, p.shortZone), (0, p.shortAmount)])
  else if o = 0x24 then some p.shortPx
  else if o = 0x28 then some p.satCnt
  else if o = 0x2C then some p.shortLimit
  else if o = 0x38 then some p.dThermal
  else if o = 0x3C then some p.overrides.length
  else if o = 0x40 then some 0
  else match arrayAt o 0x100 8 16, arrayAt o 0x200 4 96 with
    | some (b, 0), _ =>
      let x := p.bins.at' b Bin.reset
      some (pk [(16, toBits 16 x.tKnee), (0, toBits 16 x.tRef)])
    | some (b, 4), _ =>
      let x := p.bins.at' b Bin.reset
      some (pk [(16, x.dMin), (0, x.slope)])
    | _, some (t, _) => some (pk [(16, bn (p.subst.at' t false)), (0, toBits 16 (p.temp.at' t 0))])
    | _, _ => none

/-- HDG_STATUS. -/
def hdgStatus (s : State) : Nat :=
  let h := s.hdg
  pk [(19, bn h.staged.isSome), (18, bn h.confirmFail), (17, bn h.commissioned),
    (16, bn (!h.commissionLow)), (11, bn (safeFb true s)), (10, bn (safeFb false s)), (9, bn h.chB.level),
    (8, bn h.chA.level), (4, bn (disconnected s)), (0, h.state)]

/-- HDG. -/
def hdgRead (o : Nat) (s : State) : Option Nat :=
  let h := s.hdg
  if o = 0x00 then some (hdgStatus s)
  else if o = 0x04 then
    some (pk [(16, flagWord 9 0 fun i =>
        let c := h.cause.at' i Cause.reset
        c.active && !c.acked && h.latches (⟨i % 9, by omega⟩ : Fin 9)),
      (0, flagWord 9 0 fun i => (h.cause.at' i Cause.reset).active)])
  else if o = 0x08 then some (pk [(31, bn h.refValid), (0, h.selfRec.toNat)])
  else if o = 0x0C then some h.activeCrc.toNat
  else if o = 0x10 then some h.stagedCrc.toNat
  else if o = 0x14 then some h.commitCrc.toNat
  else if o = 0x18 then
    some (pk [(16, h.frameSeq.toNat), (12, min 15 h.rejectRun), (0, h.frameFlags.toNat)])
  else if o = 0x1C then some (pk [(21, min 2047 h.ceiledCnt), (0, h.clampedCnt)])
  else if o = 0x20 then some (h.globalSum / 256 % 2 ^ 32)
  else if o = 0x24 then
    some (pk [(31, bn h.floorZone.isSome), (16, h.floorZone.getD 0), (15, bn h.fluxZone.isSome),
      (0, h.fluxZone.getD 0)])
  else if o = 0x28 then
    some (pk [(24, h.chB.failCount), (16, h.chA.failCount), (8, h.requests), (1, bn h.chB.lastPassed),
      (0, bn h.chA.lastPassed)])
  else if o = 0x2C then
    some (pk [(24, h.swB.openTime), (16, h.swA.openTime), (8, h.discFails), (1, bn h.swB.lastPassed),
      (0, bn h.swA.lastPassed)])
  else if o = 0x3C then some (pk [(16, h.rejectedCnt), (0, h.clampFrameCnt)])
  else if o = 0x40 then some 0
  else match arrayAt o 0x30 4 3 with
    | some (n, _) => some (flagWord 32 (32 * n) fun t => (h.echo.at' t Echo.reset).missed)
    | none => none

/-- Code of a sync source (R258). -/
def SyncSource.code : SyncSource → Nat
  | .free => 0 | .syncIn => 1 | .network => 2

/-- The earliest armed launch. -/
def firstLaunch (s : State) : Option Launch := (launchOrder s.lpl.launches).head?

/-- LPL_SEQ. -/
def lplSeq (s : State) : Nat := pk [(16, s.lpl.lastLat.toNat), (0, (composingSeq s).toNat)]

/-- LPL. -/
def lplRead (o : Nat) (s : State) : Option Nat :=
  let l := s.lpl
  let t := l.timing
  if o = 0x00 then
    some (pk [(16, l.commitTaken.toNat), (13, bn l.stall), (12, bn l.budgetHold), (11, bn l.mapHold),
      (10, bn l.holdover), (9, bn l.syncLost), (8, bn l.locked), (7, bn l.hold), (5, t.source.code),
      (0, l.launches.length)])
  else if o = 0x04 then some (lplSeq s)
  else if o = 0x08 then some t.period
  else if o = 0x0C then some t.vbi
  else if o = 0x10 then some t.syncOffset
  else if o = 0x14 then some (pk [(8, t.freezeRepeat), (2, bn t.teFalling), (1, bn t.syncFalling)])
  else if o = 0x20 then some t.epochNs
  else if o = 0x24 then some (if t.source = .syncIn then meanInterval l else 0)
  else if o = 0x28 then some (if t.source = .free then 0 else toBits 32 (satS 32 l.phaseErr))
  else if o = 0x38 then some (match firstLaunch s with
    | some x => x.ns
    | none => 0)
  else if o = 0x3C then some (pk [(16, l.repeats), (0, l.lateLaunches)])
  else if o = 0x40 then some (pk [(16, l.badEdges), (0, l.lockLosses)])
  else if o = 0x44 then some (pk [(16, l.teMisses), (0, l.lastTile)])
  else if o = 0x48 then
    some (pk [(8, l.staleTile), (3, bn l.frStale), (2, bn l.frSequence), (1, bn l.stall), (0, bn l.frRepeat)])
  else if o = 0x4C then some 0
  else match arrayAt o 0x100 4 96 with
    | some (k, _) =>
      some (pk [(16, mapEntryBits ((shadowMap s).at' k MapEntry.reset)),
        (0, mapEntryBits (l.map.at' k MapEntry.reset))])
    | none => none

/-- 64-bit LPL registers. -/
def lplRead64 (o : Nat) (s : State) : Option Nat :=
  if o = 0x18 then some s.lpl.timing.epochS
  else if o = 0x30 then some (match firstLaunch s with
    | some x => x.s
    | none => 0)
  else none

/-- Lane n, the yoke lane for 24. -/
def laneN (n : Nat) (s : State) : Lane := if h : n < 25 then laneAt ⟨n, h⟩ s else Lane.reset

/-- Loopback depth and running (XLP_LANEn_LOOP). -/
def xlpRead (o : Nat) (s : State) : Option Nat :=
  let k := s.link
  if o = 0x400 then
    some (pk [(16, k.flipped.toNat), (8, k.expected.toNat), (0, k.mirror.toNat)])
  else if o = 0x404 then some (flagWord 24 0 fun n => (laneN n s).state == .ready)
  else if o = 0x408 then some (flagWord 24 0 fun n => (laneN n s).state == .down)
  else if o = 0x40C then some 0
  else match arrayAt o 0 0x20 24 with
    | some (n, r) =>
      let l := laneN n s
      if r = 0x00 then
        some (pk [(24, l.reason.code), (20, bn l.warm), (19, bn l.fbkActive), (18, bn l.rxInvert),
          (16, l.rate), (12, l.rateDowns % 4), (8, l.chainLen), (4, l.attempts % 4), (0, l.state.code)])
      else if r = 0x04 then some (pk [(16, l.dispErr), (0, l.codeErr)])
      else if r = 0x08 then some (pk [(24, l.realign), (16, l.los), (0, l.retrains)])
      else if r = 0x0C then
        let e := l.entry
        some (pk [(24, e.errRetrain), (20, e.rxEq), (17, e.preEmph), (13, e.txSwing),
          (12, bn (bitOf k.expected (n / 4))), (10, e.minRate), (8, e.rate), (0, bn e.used)])
      else if r = 0x10 then
        some (pk [(5, bn l.loopPass), (4, bn (l.state == .loopback)), (0, l.loopDepth)])
      else if r = 0x14 then some l.loopErr
      else none
    | none => none

/-- XLK. -/
def xlkRead (o : Nat) (s : State) : Option Nat :=
  if o = 0x2000 then some 0
  else match arrayAt o 0 0x20 24, arrayAt o 0x1000 0x10 96 with
    | some (n, r), _ =>
      let l := laneN n s
      if r = 0x00 then
        some (pk [(16, bn l.silent), (12, l.included.toNat), (8, l.assigned.toNat), (0, l.mode)])
      else if r = 0x04 then some (pk [(16, l.nakRx), (0, l.upCrc)])
      else if r = 0x08 then some (pk [(16, l.withheldCnt), (0, l.refusedCnt)])
      else if r = 0x0C then some (pk [(16, l.retry), (0, l.fail)])
      else none
    | _, some (k, r) =>
      let x := s.link.slot.at' k SlotInfo.reset
      if r = 0x0 then some x.id.toNat
      else if r = 0x4 then some x.serial.toNat
      else if r = 0x8 then some x.fbCrc.toNat
      else if r = 0xC then some (pk [(16, x.dupMismatch), (0, x.temp.toNat)])
      else none
    | _, _ => none

/-- PXH; while RECOUNT is 1 the dead, suspect and worn counts are free (log entry 13). DARK_TILES counts the mask's
bits, all of which are set at reset, where its table gives 0 (log entry 146). -/
def pxhRead (o : Nat) (s : State) : Option Nat :=
  let h := s.pxh
  let tiles := List.range 96
  let count (f : Nat → State → Nat) : Nat :=
    if h.recount then (Config.freeBits 21 s.free).toNat else (tiles.map fun t => f t s).sum
  if o = 0x00 then
    some (pk [(28, bn h.recount), (21, tiles.countP fun t => isDark t s),
      (0, count tileDead)])
  else if o = 0x10 then some (pk [(16, h.vfOpen), (0, h.vfShort)])
  else if o = 0x14 then
    some (pk [(16, h.deadTileLimit), (8, h.unmeasReports), (4, h.clear), (0, h.confirm)])
  else if o = 0x18 then some (pk [(16, toBits 8 h.vfTc), (0, h.ageGain)])
  else if o = 0x1C then some h.wornLimit
  else if o = 0x20 then
    some (if h.recount then (Config.freeBits 21 s.free).toNat else wornPixels s)
  else if o = 0x24 then some (count tileSuspect)
  else if o = 0x28 then some (pk [(16, h.parity), (0, h.held)])
  else if o = 0x2C then some 0
  else match arrayAt o 0x04 4 3, arrayAt o 0x100 4 96, arrayAt o 0x300 4 96, arrayAt o 0x500 4 96 with
    | some (n, _), _, _, _ => some (flagWord 32 (32 * n) fun t => isDark t s)
    | _, some (t, _), _, _ => some (tileWord t s).1
    | _, _, some (t, _), _ => some (tileUnmeas t s)
    | _, _, _, some (t, _) => some (h.tile.at' t TileHealth.reset).serial.toNat
    | _, _, _, _ => none

/-- RAIL. -/
def railRead (o : Nat) (s : State) : Option Nat :=
  if o = 0x600 then some 0
  else match arrayAt o 0 0x40 8, arrayAt o 0x500 4 12 with
    | some (n, r), _ =>
      let x := s.rail.rail.at' n Rail.reset
      let e := x.entry
      if r = 0x00 then
        some (pk [(18, x.suspend.code), (12, x.lastFault), (8, x.restarts), (7, bn x.en), (6, bn x.limit),
          (5, bn x.pgood), (0, x.state.code)])
      else if r = 0x04 then some (pk [(16, x.vs), (0, x.i)])
      else if r = 0x08 then some (pk [(16, x.iLim), (0, x.vSet)])
      else if r = 0x0C then some x.duty
      else if r = 0x10 then
        some (pk [(24, e.ssTime), (16, e.rsense), (8, e.seqDelay), (4, bn e.linkPrev), (1, e.seq), (0, bn e.used)])
      else if r = 0x14 then some (pk [(16, e.vMax), (0, e.vMin)])
      else if r = 0x18 then some (pk [(16, e.ki), (0, e.kp)])
      else if r = 0x1C then some (pk [(24, e.ocTime), (16, e.retryMax), (0, e.kc)])
      else if r = 0x20 then some e.iMax
      else if r = 0x24 then some (pk [(24, x.nShort), (16, x.nOver), (8, x.nUnder), (0, x.nOther)])
      else none
    | _, some (w, _) => some (pk ((List.range 8).map fun i => (4 * i, s.rail.map.at' (8 * w + i) 15)))
    | _, _ => none

/-- PWR_STATUS. -/
def pwrStatus (s : State) : Nat :=
  let p := s.pwr
  pk [(16, p.failStep), (10, bn p.imageBad), (9, bn p.sleepAborted), (8, bn p.wakeFail),
    (7, bn p.keepTime), (4, p.lastState.code), (0, p.state.code)]

/-- PWR and CLK. -/
def pwrRead (o : Nat) (s : State) : Option Nat :=
  let p := s.pwr
  if o = 0x00 then some (pwrStatus s)
  else if o = 0x04 then some (pk [(16, p.wakeSrc.toNat), (0, p.wakeEn.toNat)])
  else if o = 0x08 then some (pk [(24, p.wakeTimeoutMs), (0, p.imageBase)])
  else if o = 0x0C then some (pk [(20, p.nwAmbCh), (16, p.nwDebounce), (0, min 65535 p.nwPeriod)])
  else if o = 0x10 then some (pk [(16, p.ambHigh), (0, p.ambLow)])
  else if o = 0x14 then some (pk [(16, toBits 16 p.tempLow), (0, toBits 16 p.tempHigh)])
  else if o = 0x18 then some (pk [(16, toBits 16 p.nwHottest), (12, p.nwOutside % 16), (0, p.nwAmbient)])
  else if o = 0x1C then some (pk [(16, p.wakes), (8, p.retries), (0, p.aborts)])
  else if o = 0x20 then some 0
  else if o = 0x100 then
    some (pk [(5, bn p.xtalFail), (4, bn p.xtalActive), (3, bn p.clkHedge), (2, bn p.clkEth),
      (1, bn p.clkLane), (0, bn p.clkCore)])
  else if o = 0x104 then
    some (pk [(24, p.monHedge), (16, p.monEth), (8, p.monLane), (0, p.monCore)])
  else none

/-- The hottest of some sensors: temperature and index, the lowest on a tie; both 0 without one. -/
def hottestOf (l : List (Nat × Int)) : Nat × Int :=
  match l with
  | [] => (0, 0)
  | x :: r => r.foldl (fun m y => if m.2 < y.2 then y else m) x

/-- THM_HOTTEST_DIE and THM_HOTTEST_LIGHT. -/
def thmHottest (light : Bool) (s : State) : Nat :=
  let own := (s.thm.sensor.toList.zipIdx.filter fun x => x.1.known && x.1.light == light).map
    fun x => (x.2, x.1.st.temp)
  let tiles := (s.thm.tile.toList.zipIdx.filter fun x => tileTempOk x.1).map
    fun x => (24 + x.2, x.1.st.temp)
  let h := hottestOf (if light then own ++ tiles else own)
  pk [(16, toBits 16 h.2), (0, h.1)]

/-- THM and CAL. -/
def thmRead (o : Nat) (s : State) : Option Nat :=
  let t := s.thm
  if o = 0x00 then
    some (pk [(20, t.light.level), (16, t.inForce), (9, bn t.die.allBroken),
      (8, bn (decide (0 < t.die.level) && !t.die.allBroken)), (4, lightState s), (0, dieState s)])
  else if o = 0x04 then some (thmHottest false s)
  else if o = 0x08 then some (thmHottest true s)
  else if o = 0x0C then some (flagWord 24 0 fun k => (t.sensor.at' k (Sensor.reset k)).st.broken)
  else if o = 0x1C then some (pk [(24, t.shutdowns), (16, t.brokenCnt), (0, t.throttles)])
  else if o = 0x40 then some 0
  else if o = 0x200 then
    some (pk [(31, bn t.run.isSome), (16, match t.run with
      | some r => flagWord 5 0 fun i => r.steps.any fun x => x.item == i
      | none => 0), (0, toBits 16 t.tCal)])
  else if o = 0x204 then some (pk [(16, t.calMaxS), (0, t.calDt)])
  else if o = 0x208 then
    some (pk [(16, t.lastFrame.toNat), (8, t.lastFailed.toNat), (0, t.lastApplied.toNat)])
  else if o = 0x20C then some (pk [(16, toBits 16 t.trims.adcGain), (0, toBits 16 t.trims.adcOffset)])
  else match arrayAt o 0x10 4 3, arrayAt o 0x20 0x10 2, arrayAt o 0x100 4 24 with
    | some (n, _), _, _ =>
      some (flagWord 32 (32 * n) fun k => !tileTempOk (t.tile.at' k TileSensor.reset))
    | _, some (c, r), _ =>
      let x := if c = 1 then t.light else t.die
      if r = 0x0 then some (pk [(16, toBits 16 x.lim.throttle), (0, toBits 16 x.lim.warn)])
      else if r = 0x4 then some (pk [(16, x.lim.hShutdown), (0, toBits 16 x.lim.shutdown)])
      else if r = 0x8 then some (pk [(8, x.lim.hThrottle), (0, x.lim.hWarn)])
      else if r = 0xC then some (pk [(20, x.dStep), (16, x.maxLevel), (0, x.stepMs)])
      else none
    | _, _, some (k, _) =>
      let x := t.sensor.at' k (Sensor.reset k)
      some (pk [(16, toBits 16 x.st.temp), (7, bn x.used), (6, bn x.light), (5, bn x.st.broken),
        (4, bn x.fast), (0, x.st.state)])
    | _, _, _ => none

/-- 64-bit THM registers. -/
def thmRead64 (o : Nat) (s : State) : Option Nat :=
  if o = 0x210 then some (pk ((List.finRange 8).map fun i => (8 * i.val, toBits 8 s.thm.trims.rail[i])))
  else none

/-- RVE. -/
def rveRead (o : Nat) (s : State) : Option Nat :=
  let r := s.rve
  if o = 0x18 then
    some (pk [(10, r.faultnClass.code), (8, r.irqClass.code), (1, r.vector), (0, bn r.irqEn)])
  else if o = 0x1C then some (pk [(16, r.lost), (0, (logHead s).toNat)])
  else if o = 0x20 then some (match r.first with
    | some f => pk [(31, 1), (30, bn f.injected), (22, f.cls.code), (16, f.source), (0, f.seq.toNat)]
    | none => 0)
  else if o = 0x24 then
    some (pk [(31, bn r.lostAo), (30, bn r.crit.isSome), (16, (r.crit.getD (0, 0)).1),
      (0, (r.crit.getD (0, 0)).2.toNat)])
  else if o = 0x28 then some 0
  else if o = 0x2C then some (bn r.lock)
  else match arrayAt o 0x100 0x10 64 with
    | some (g, k) =>
      let x := r.group.at' g (Group.reset g)
      if k = 0x0 then some (pk [(8, x.rlimit), (0, x.n)])
      else if k = 0x4 then some x.w
      else if k = 0x8 then some x.q
      else if k = 0xC then some (srcState g s)
      else none
    | none => none

/-- 64-bit RVE registers. -/
def rveRead64 (o : Nat) (s : State) : Option Nat :=
  if o = 0x00 then some (rveStatus s).toNat
  else if o = 0x08 then some s.rve.note.toNat
  else if o = 0x10 then some (rveLatched s).toNat
  else none

/-- YOK. -/
def yokRead (o : Nat) (s : State) : Option Nat :=
  let y := s.yok
  if o = 0x00 then
    some (pk [(24, y.reason), (20, if y.lost then 7 else match y.partner with
        | some p => p.state.code
        | none => 0), (11, bn y.copyDone), (10, bn y.locked), (9, bn y.line), (8, bn y.holding),
      (7, bn y.pri), (0, y.state.code)])
  else if o = 0x04 then some (pk [(16, satU 16 y.delayNs), (0, toBits 16 (satS 16 y.errorNs))])
  else if o = 0x08 then some (pk [(16, y.run), (0, y.frames)])
  else if o = 0x0C then
    some (pk [(24, y.alignMiss), (16, y.contentions), (8, y.handovers), (0, y.takeovers)])
  else if o = 0x18 then some y.digest.toNat
  else if o = 0x1C then some (pk [(24, bn y.returnEn), (8, y.returnS), (0, y.mismatchLimit)])
  else if o = 0x20 then some 0
  else none

/-- 64-bit YOK registers. -/
def yokRead64 (o : Nat) (s : State) : Option Nat :=
  if o = 0x10 then some (match s.yok.hello with
    | some h => h.serial.toNat
    | none => 0)
  else none

/-- Code of a pulse mode. -/
def PulseMode.code : PulseMode → Nat
  | .off => 0 | .oneshot => 1 | .periodic => 2 | .frame => 3
/-- Code of a servo mode. -/
def ServoMode.code : ServoMode → Nat
  | .off => 0 | .internal => 1 | .external => 2

/-- BEL. -/
def belRead (o : Nat) (s : State) : Option Nat :=
  let b := s.bel
  if o = 0x00 then
    some (pk [(12, flagWord 4 0 fun a => (b.alarm.at' a Alarm.reset).armed),
      (8, flagWord 4 0 fun a => (b.alarm.at' a Alarm.reset).fired), (5, bn b.sleepClock),
      (4, match sourcePort s with
        | some p => p.val
        | none => 0), (3, bn b.valid), (0, b.state.code)])
  else if o = 0x04 then some (timeNs b.time)
  else if o = 0x20 then some (toBits 80 b.snap.offset / 2 ^ 64)
  else if o = 0x24 then some (toBits 16 b.snap.t)
  else if o = 0x30 then some (toBits 32 b.snap.rate)
  else if o = 0x34 then some (pk [(16, b.ki), (0, b.kp)])
  else if o = 0x38 then some (pk [(30, b.mode.code), (16, b.stepUs), (0, b.lockNs)])
  else if o = 0x3C then some b.clock.toNat
  else if o = 0x40 then some (toBits 32 b.last)
  else if o = 0x44 then some b.pathDelay
  else if o = 0x48 then
    some (pk [(10, bn b.onSample), (9, bn b.onLock), (8, bn b.onAlarm), (1, b.vector), (0, bn b.irqEn)])
  else if o = 0x4C then
    some (pk [(18, bn b.leap59), (17, bn b.leap61), (16, bn b.utcValid), (0, toBits 16 b.utcOffset)])
  else if o = 0x50 then some (toBits 32 b.sleepTrim)
  else if o = 0x54 then some (pk [(16, b.lockLosses), (0, b.steps)])
  else if o = 0x58 then some b.sampleSeq
  else if o = 0x5C then some 0
  else match arrayAt o 0x80 0x10 4, arrayAt o 0x200 0x20 4 with
    | some (a, 0x8), _ => some (b.alarm.at' a Alarm.reset).ns
    | _, some (k, r) =>
      let x := (b.pulse.at' k Pulse.reset).cfg
      if r = 0x00 then some (pk [(8, x.offset), (2, bn x.low), (0, x.mode.code)])
      else if r = 0x04 then some x.period
      else if r = 0x08 then some x.width
      else if r = 0x0C then some x.startNs
      else none
    | _, _ => none

/-- 64-bit BEL registers: the snapshot, alarm seconds, samples, pulse starts (R510). -/
def belRead64 (o : Nat) (s : State) : Option Nat :=
  let b := s.bel
  if o = 0x08 then some (timeS b.snap.t)
  else if o = 0x10 then some b.snap.frc
  else if o = 0x18 then some (toBits 64 b.snap.offset)
  else if o = 0x28 then some b.snap.frcRef
  else match arrayAt o 0x80 0x10 4, arrayAt o 0x100 8 16, arrayAt o 0x200 0x20 4 with
    | some (a, 0), _, _ => some (b.alarm.at' a Alarm.reset).s
    | _, some (i, 0), _ =>
      let x := b.sample.at' i ⟨0, 0, 0⟩
      some (pk [(56, x.seq), (32, x.delay), (0, toBits 32 x.offset)])
    | _, _, some (k, 0x10) => some (b.pulse.at' k Pulse.reset).cfg.startS
    | _, _, _ => none

/-- Code of a PTP state. -/
def PtpState.code : PtpState → Nat
  | .initializing => 0 | .faulty => 1 | .disabled => 2 | .listening => 3 | .preMaster => 4
  | .master => 5 | .passive => 6 | .uncalibrated => 7 | .slave => 8

/-- ETH. -/
def ethRead (o : Nat) (s : State) : Option Nat :=
  if o = 0x400 then some 0
  else match arrayAt o 0 0x100 2 with
    | some (p, r) =>
      let e := s.eth.port.at' p Eth.reset
      let t := e.ptp
      if r = 0x00 then some (pk [(7, bn e.asCapable), (3, e.ptpState.code), (0, bn e.link)])
      else if r = 0x10 then some e.ip.toNat
      else if r = 0x14 then
        some (pk [(16, e.vlanId), (7, e.pcpReply), (2, bn e.acceptUntagged), (1, bn e.mode2500),
          (0, bn e.enabled)])
      else if r = 0x18 then
        some (pk [(24, toBits 4 t.logDelay), (20, toBits 4 t.logAnnounce), (16, toBits 4 t.logSync),
          (8, t.domain), (5, bn t.oneStep), (4, bn t.udp), (2, t.profile), (0, t.role)])
      else if r = 0x1C then some (pk [(16, e.rxDelay), (0, e.txDelay)])
      else if r = 0x20 then some (toBits 32 e.asym)
      else if r = 0x24 then some (pk [(16, e.bulkLimit), (0, e.bulkBase)])
      else if r = 0x28 then some (pk [(16, e.rxFcs), (0, e.rxDiscarded)])
      else if r = 0x2C then some (pk [(16, e.txLate), (0, e.txDropped)])
      else if r = 0x30 then some (pk [(16, e.syncRx), (0, e.ptpIgnored)])
      else none
    | none => none

/-- 64-bit ETH registers. -/
def ethRead64 (o : Nat) (s : State) : Option Nat :=
  match arrayAt o 0 0x100 2 with
  | some (p, r) =>
    let e := s.eth.port.at' p Eth.reset
    if r = 0x08 then some e.mac
    else match arrayAt r 0x40 8 8 with
      | some (i, 0) =>
        let a := e.allow.at' i ⟨false, 0, 0⟩
        some (pk [(63, bn a.valid), (32, a.pfx), (0, a.addr.toNat)])
      | _ => none
  | none => none

/-- The I²C address (R522). -/
def i2cAddress (s : State) : Nat := s.mgt.base * 8 + s.part.addr.toNat

/-- MGT_STATUS. -/
def mgtStatus (s : State) : Nat := pk [(16, s.mgt.errors), (8, bn s.mgt.busy), (0, i2cAddress s)]

/-- MGT, AUX and GPIO. -/
def mgtRead (o : Nat) (s : State) : Option Nat :=
  if o = 0x000 then some (mgtStatus s)
  else if o = 0x200 then some (pk [(16, s.gpio.od.toNat), (0, s.gpio.dir.toNat)])
  else if o = 0x204 then some (pk [(16, s.gpio.inp.toNat), (0, s.gpio.out.toNat)])
  else match arrayAt o 0x100 0x20 4 with
    | some (c, r) =>
      let a := s.aux.at' c Aux.reset
      if r = 0x00 then
        some (pk [(22, a.refreshMs), (18, a.div), (13, a.wordBits), (7, a.ch), (1, a.ics), (0, bn a.used)])
      else if r = 0x04 then
        some (pk [(16, a.frames % 65536), (1, a.retFail), (0, bn (a.fades.any fun f => decide (f.n > 1)))])
      else none
    | none => none

/-- RESULT: the CRC with the final exclusive-or of its polynomial (R528); the register's reset value until
something is written (DEDUCED, log entry 124). -/
def crcuResult (c : Crcu) : Nat :=
  if c.fresh then 0xFFFFFFFF
  else if c.poly = 2 then c.state.toNat % 65536 else c.state.toNat ^^^ 0xFFFFFFFF

/-- CRCU and BOOT. -/
def crcuRead (o : Nat) (s : State) : Option Nat :=
  let b := s.boot
  if o = 0x8000 then
    some (pk [(26, s.part.rollback), (9, b.rejected.toNat), (8, bn b.recFail), (7, bn b.actFail),
      (6, bn b.openKey), (5, bn b.fail), (4, bn b.b.valid), (3, bn b.a.valid), (0, bn b.slot)])
  else match arrayAt o 0 0x20 4 with
    | some (c, r) =>
      let x := s.crcu.at' c Crcu.reset
      if r = 0x00 then some x.poly
      else if r = 0x04 ∨ r = 0x08 ∨ r = 0x0C then some 0
      else if r = 0x10 then some (crcuResult x)
      else none
    | none => none

/-- 64-bit CRCU and BOOT registers. -/
def crcuRead64 (o : Nat) (s : State) : Option Nat :=
  let b := s.boot
  if o = 0x8004 then
    let r := b.record
    some (pk [(32, match r with
        | some x => x.crc.toNat
        | none => 0), (2, match r with
        | some x => x.seq % 2 ^ 30
        | none => 0), (1, bn b.rec1.isSome), (0, bn b.rec0.isSome)])
  else match arrayAt o 0 0x20 4 with
    | some (c, 0x18) =>
      let x := s.crcu.at' c Crcu.reset
      some (pk [(56, (Config.ctxCheck x.poly x.state).toNat), (32, x.poly), (0, x.state.toNat)])
    | _ => none

/-- TST_STATUS, TST_COUNT, TST_IDCODE. -/
def tstRead (o : Nat) (s : State) : Option Nat :=
  let t := s.tst
  if o = 0x00 then
    some (pk [(16, t.lastSeq), (5, t.target), (4, bn t.job.isSome), (0, t.test)])
  else if o = 0x04 then some (pk [(16, t.failed), (0, t.run)])
  else if o = 0x08 then
    some (pk [(28, (s.part.step - 1) % 16), (0, if s.part.small then 0x9612497 else 0x9624497)])
  else if o = 0x0C then some 0
  else none

/-- A 32-bit register; none where there is none. -/
def regRead (off : Nat) (s : State) : Option Nat :=
  let o := off % 65536
  match off / 65536 with
  | 0x00 => hifRead o s | 0x01 => ringRead o s | 0x02 => dmaRead o s | 0x03 => grnRead32 o s
  | 0x04 => cmpRead o s | 0x05 => geoRead o s | 0x06 => phoRead o s | 0x07 => hdgRead o s
  | 0x08 => lplRead o s | 0x09 => xlpRead o s | 0x0A => xlkRead o s | 0x0B => pxhRead o s
  | 0x0C => railRead o s | 0x0D => pwrRead o s | 0x0E => thmRead o s | 0x0F => rveRead o s
  | 0x10 => yokRead o s | 0x11 => belRead o s | 0x12 => ethRead o s | 0x13 => mgtRead o s
  | 0x14 => crcuRead o s | 0x15 => tstRead o s
  | _ => none

/-- A 64-bit register by the offset of its low word; none where there is none. -/
def regRead64 (off : Nat) (s : State) : Option Nat :=
  let o := off % 65536
  match off / 65536 with
  | 0x01 => ringRead64 o s | 0x02 => dmaRead64 o s | 0x03 => grnRead64 o s | 0x04 => cmpRead64 o s
  | 0x06 => if o = 0x30 then some s.pho.defaultRec.toNat else none
  | 0x08 => lplRead64 o s | 0x0E => thmRead64 o s | 0x0F => rveRead64 o s | 0x10 => yokRead64 o s
  | 0x11 => belRead64 o s | 0x12 => ethRead64 o s | 0x14 => crcuRead64 o s
  | _ => none

end Sys2Proof.Machine
end

