-- ==== Sys2Proof/Machine/RegWrite.lean ====
section
/-!
DEFINITION. Host accesses to BAR0 and BAR2: register writes, 64-bit registers, the CRC unit, GPIO, the
Granary window (R13 to R15, R45, R46, R48, R115, R116, R528 to R530).
-/

namespace Sys2Proof.Machine

/-- The next state of an outcome that has one. -/
def nextOr (o : Out) (s : State) : State := match o with
  | .next t => t
  | _ => s

/-- Bits of a written word. -/
def wf' (v lo len : Nat) : Nat := v / 2 ^ lo % 2 ^ len

/-- One bit of a written word. -/
def wb (v i : Nat) : Bool := wf' v i 1 == 1

/-- LOG2_SIZE as it is stored (R47). -/
def ringLog (v : Nat) : Nat := max 4 (min 12 v)

/-- A write of RING_SQn_CFG (R47 to R50). -/
def sqCfgWrite (n : Fin 16) (v : Nat) (s : State) : State :=
  let s := if (s.hif.sq[n]).enable || s.hif.ringLock then s
    else modSq n (fun q => { q with
      pollUs := max 1 (min 1000 (wf' v 16 10)), log2 := ringLog (wf' v 8 4), prio := wf' v 6 2
      cq := ⟨wf' v 2 4 % 16, by omega⟩ }) s
  if wb v 0 then enableSq n s else disableSq n s

/-- A write of RING_CQn_CFG (R47 to R49). -/
def cqCfgWrite (n : Fin 16) (v : Nat) (s : State) : State :=
  let s := if (s.hif.cq[n]).enable || s.hif.ringLock then s
    else modCq n (fun q => { q with
      coalUs := min 1000 (wf' v 20 10), coalCount := max 1 (wf' v 12 8), log2 := ringLog (wf' v 8 4)
      irqEn := wb v 6, vector := wf' v 1 5 }) s
  if wb v 0 then enableCq n s
  else if (s.hif.cq[n]).enable then disableCq n s else s

/-- A ring number of an offset. -/
def ring16 (n : Nat) : Fin 16 := ⟨n % 16, by omega⟩

/-- HIF. -/
def hifWrite (o v : Nat) (s : State) : State :=
  let each (f : Fin 16 → State → Out) (lo : Nat) (s : State) : State :=
    (List.finRange 16).foldl (fun s n => if wb v (lo + n.val) then nextOr (f n s) s else s) s
  if o = 0x10 then each execHifKickCq 16 (each execHifKickSq 0 s)
  else if o = 0x14 then
    let s := if wb v 1 then nextOr (execHifLockAuthLock s) s else s
    if wb v 0 then nextOr (execHifLockRingLock s) s else s
  else if o = 0x48 then
    let s := if wb v 1 then nextOr (execHifCntClearDrop s) s else s
    if wb v 0 then nextOr (execHifCntClearDenied s) s else s
  else match arrayAt o 0x20 4 5 with
    | some (k, _) => nextOr (execHifAuthWrite ⟨k % 5, by omega⟩ (BitVec.ofNat 12 v) s) s
    | none => s

/-- RING; the W1C flags obey R48 as every RING field does. -/
def ringWrite (o v : Nat) (s : State) : State :=
  match arrayAt o 0 0x20 16, arrayAt o 0x400 0x20 16 with
  | some (n, 0x10), _ => sqCfgWrite (ring16 n) v s
  | some (n, 0x14), _ =>
    if (s.hif.sq[ring16 n]).enable || s.hif.ringLock then s
    else modSq (ring16 n) (fun q => { q with
      fetchError := q.fetchError && !wb v 19, badIndex := q.badIndex && !wb v 18 }) s
  | _, some (n, 0x10) => cqCfgWrite (ring16 n) v s
  | _, some (n, 0x14) =>
    if (s.hif.cq[ring16 n]).enable || s.hif.ringLock then s
    else modCq (ring16 n) (fun q => { q with
      dbError := q.dbError && !wb v 19, fullWait := q.fullWait && !wb v 18 }) s
  | _, _ => s

/-- Change a region unless GRN_REG_LOCK is set (R109). -/
def regionWrite (n : Nat) (f : Region → Region) (s : State) : State :=
  if s.grn.regLock then s else { s with grn.regions := s.grn.regions.updN n f }

/-- GRN. A scrub pass that ENABLE interrupts keeps its place and goes on there (R123; log entry 141). -/
def grnRegWrite (o v : Nat) (s : State) : State :=
  if o = 0x10 then
    { s with grn.scrubEn := wb v 0, grn.scrubMs := max 28 (min 60000 (wf' v 1 16)) }
  else if o = 0xFC then { s with grn.regLock := s.grn.regLock || wb v 0 }
  else match arrayAt o 0x100 8 16 with
    | some (n, 0) => regionWrite n (fun r => { r with limit := wf' v 16 10, base := wf' v 0 10 }) s
    | some (n, 4) => regionWrite n (fun r => { r with perm := BitVec.ofNat 8 v }) s
    | _ => s

/-- A Reeve configuration write: refused with a NOTE while RVE_LOCK is set (R449). -/
def rveCfg (f : State → State) (s : State) : State :=
  if s.rve.lock then raise 45 .note 3 s else f s

/-- Change a group's settings. -/
def groupCfg (g : Nat) (f : Group → Group) (s : State) : State :=
  rveCfg (fun s => { s with rve.group := s.rve.group.updN g f }) s

/-- RVE. -/
def rveWrite (o v : Nat) (s : State) : State :=
  if o = 0x18 then
    rveCfg (fun s => { s with
      rve.faultnClass := Class.ofCode (wf' v 10 2)
      rve.irqClass := Class.ofCode (wf' v 8 2)
      rve.vector := wf' v 1 5
      rve.irqEn := wb v 0 }) s
  else if o = 0x28 then nextOr (execRveInjKeyWrite (BitVec.ofNat 16 v) s) s
  else if o = 0x2C then (if wb v 0 then nextOr (execRveLockSet s) s else s)
  else match arrayAt o 0x100 0x10 64 with
    | some (g, 0x0) =>
      groupCfg g (fun x => { x with rlimit := max 1 (wf' v 8 8), n := max 1 (wf' v 0 8) }) s
    | some (g, 0x4) => groupCfg g (fun x => { x with w := max 1 (min 600000 (wf' v 0 20)) }) s
    | some (g, 0x8) => groupCfg g (fun x => { x with q := min 600000 (wf' v 0 20) }) s
    | _ => s

/-- HDG. -/
def hdgWrite (o v : Nat) (s : State) : State :=
  if o = 0x00 then { s with hdg.confirmFail := s.hdg.confirmFail && !wb v 18 }
  else if o = 0x08 then { s with hdg.selfRec := s.hdg.selfRec &&& ~~~ BitVec.ofNat 6 v }
  else if o = 0x14 then nextOr (execHdgCommitCrcWrite (BitVec.ofNat 32 v) s) s
  else if o = 0x40 then
    let s := if wb v 1 then nextOr (execHdgCntClearSafe s) s else s
    if wb v 0 then nextOr (execHdgCntClearCount s) s else s
  else s

/-- Clear what the set bits of a counter-clear register name. -/
def clears (v : Nat) (l : List (Nat × (State → Out))) (s : State) : State :=
  l.foldl (fun s x => if wb v x.1 then nextOr (x.2 s) s else s) s

/-- LPL. -/
def lplWrite (o v : Nat) (s : State) : State :=
  if o = 0x48 then
    { s with
      lpl.frStale := s.lpl.frStale && !wb v 3
      lpl.frSequence := s.lpl.frSequence && !wb v 2
      lpl.frRepeat := s.lpl.frRepeat && !wb v 0 }
  else if o = 0x4C then
    clears v [(3, execLplCntClearTe), (2, execLplCntClearSync), (1, execLplCntClearLate),
      (0, execLplCntClearRepeats)] s
  else s

/-- PWR_CNT_CLEAR.COUNT (R406). -/
def execPwrCntClearCount (s : State) : Out :=
  .next (whenS (hostUp s) (fun s => { s with pwr.wakes := 0, pwr.retries := 0, pwr.aborts := 0 }) s)

/-- PWR. -/
def pwrWrite (o v : Nat) (s : State) : State :=
  if o = 0x00 then
    { s with
      pwr.imageBad := s.pwr.imageBad && !wb v 10
      pwr.sleepAborted := s.pwr.sleepAborted && !wb v 9 }
  else if o = 0x04 then { s with pwr.wakeSrc := s.pwr.wakeSrc &&& ~~~ BitVec.ofNat 6 (wf' v 16 6) }
  else if o = 0x20 then clears v [(0, execPwrCntClearCount)] s
  else s

/-- BEL. -/
def belWrite (o v : Nat) (s : State) : State :=
  if o = 0x00 then
    { s with bel.alarm := s.bel.alarm.mapI fun a x => { x with fired := x.fired && !wb v (8 + a.val) } }
  else if o = 0x48 then
    { s with
      bel.onSample := wb v 10
      bel.onLock := wb v 9
      bel.onAlarm := wb v 8
      bel.vector := wf' v 1 5
      bel.irqEn := wb v 0 }
  else if o = 0x5C then clears v [(0, execBelCntClearCount)] s
  else s

/-- The initial value of a polynomial (R524, R528). -/
def crcuInit (poly : Nat) : Word := if poly = 2 then 0xFFFF#32 else 0xFFFFFFFF#32

/-- One bit of the reflected CRC-32 of IEEE 802.3. -/
def crc32Bit (c : Nat) : Nat := if c % 2 = 1 then (c / 2) ^^^ 0xEDB88320 else c / 2

/-- One bit of the CRC-16 of R524, most significant bit first. -/
def crc16Bit (c : Nat) : Nat :=
  if c / 32768 % 2 = 1 then (c * 2 % 65536) ^^^ 0x1021 else c * 2 % 65536

/-- Feed one byte (R528). -/
def crcuByte (poly : Nat) (c : Nat) (b : Byte) : Nat :=
  if poly = 2 then (List.range 8).foldl (fun x _ => crc16Bit x) (c % 65536 ^^^ b.toNat * 256)
  else if poly = 1 then (List.range 8).foldl (fun x _ => crc32Bit x) (c ^^^ b.toNat)
  else Env.crcByte c b

/-- Change a CRC channel. -/
def modCrcu (c : Fin 4) (f : Crcu → Crcu) (s : State) : State := { s with crcu := s.crcu.upd c f }

/-- A POLY of 3 is stored as 0 (CRCU_CHc_CFG). -/
def polyOf (p : Nat) : Nat := if p = 3 then 0 else p

/-- CRCU_CHc_CFG (R528). -/
def execCrcuCfgWrite (c : Fin 4) (poly : BitVec 2) (s : State) : Out :=
  let p := polyOf poly.toNat
  .next (whenS (hostUp s) (modCrcu c fun _ => { poly := p, state := crcuInit p, fresh := false }) s)

/-- CRCU_CHc_DATA8, DATA16, DATA32 (R528): the low bytes, little-endian. -/
def execCrcuDataWrite (c : Fin 4) (log2 : Fin 3) (value : Word) (s : State) : Out :=
  .next (whenS (hostUp s)
    (modCrcu c fun x => { x with
      fresh := false, state := BitVec.ofNat 32
        ((leBytes (2 ^ log2.val) value.toNat).foldl (crcuByte x.poly) x.state.toNat) }) s)

/-- CRCU_CHc_CTX (R529): restored, or reset to the initial value of its POLY with a NOTE. -/
def execCrcuCtxWrite (c : Fin 4) (value : DWord) (s : State) : Out :=
  let p := polyOf (field value 32 2)
  let st : Word := BitVec.ofNat 32 (field value 0 32)
  .next (whenS (hostUp s)
    (fun s =>
      if BitVec.ofNat 8 (field value 56 8) = Config.ctxCheck p st then
        modCrcu c (fun _ => { poly := p, state := st, fresh := false }) s
      else raise 43 .note c.val (modCrcu c (fun x => { x with state := crcuInit x.poly, fresh := false }) s)) s)

/-- GPIO_DATA.OUT (R530). -/
def execGpioDataWrite (out : BitVec 16) (s : State) : Out :=
  .next (whenS (hostUp s) (fun s => { s with gpio.out := out }) s)

/-- GRN_REG_LOCK.LOCK (R109). -/
def execGrnRegLockSet (s : State) : Out :=
  .next (whenS (hostUp s) (fun s => { s with grn.regLock := true }) s)

/-- DMA_CNT_CLEAR.STARVE (R104). -/
def execDmaCntClearStarve (s : State) : Out :=
  .next (whenS (hostUp s) (fun s => { s with dma.overrun := 0, dma.forced := 0 }) s)

/-- TST_CNT_CLEAR.COUNT (R544). -/
def execTstCntClearCount (s : State) : Out :=
  .next (whenS (hostUp s) (fun s => { s with tst.failed := 0, tst.run := 0 }) s)

/-- CRCU. -/
def crcuWrite (o v : Nat) (s : State) : State :=
  match arrayAt o 0 0x20 4 with
  | some (k, r) =>
    let c : Fin 4 := ⟨k % 4, by omega⟩
    if r = 0x00 then nextOr (execCrcuCfgWrite c (BitVec.ofNat 2 v) s) s
    else if r = 0x04 then nextOr (execCrcuDataWrite c 0 (BitVec.ofNat 32 v) s) s
    else if r = 0x08 then nextOr (execCrcuDataWrite c 1 (BitVec.ofNat 32 v) s) s
    else if r = 0x0C then nextOr (execCrcuDataWrite c 2 (BitVec.ofNat 32 v) s) s
    else s
  | none => s

/-- A 32-bit BAR0 write (R14): RW fields are stored, W1C bits cleared, everything else is left alone. -/
def regWrite (off v : Nat) (s : State) : State :=
  let o := off % 65536
  match off / 65536 with
  | 0x00 => hifWrite o v s
  | 0x01 => ringWrite o v s
  | 0x02 => if o = 0x100C then clears v [(0, execDmaCntClearStarve)] s else s
  | 0x03 => grnRegWrite o v s
  | 0x04 =>
    if o = 0x20 then { s with cmp.symSel := ⟨v % 256, by omega⟩ }
    else if o = 0x10 then clears v [(0, execCmpCntClearLate)] s else s
  | 0x05 =>
    if o = 0x404 then clears v [(1, execGeoCntClearParity), (0, execGeoCntClearOverstep)] s else s
  | 0x06 =>
    if o = 0x2C then { s with pho.shortLimit := v % 2 ^ 32 }
    else if o = 0x40 then clears v [(0, execPhoCntClearSubst)] s else s
  | 0x07 => hdgWrite o v s
  | 0x08 => lplWrite o v s
  | 0x09 => if o = 0x40C then clears v [(1, execXlpCntClearEvents), (0, execXlpCntClearErr)] s else s
  | 0x0A =>
    if o = 0x2000 then
      clears v [(2, execXlkCntClearCtl), (1, execXlkCntClearLat), (0, execXlkCntClearCnt)] s
    else s
  | 0x0B => if o = 0x2C then clears v [(1, execPxhCntClearFlags), (0, execPxhCntClearEvents)] s else s
  | 0x0C => if o = 0x600 then clears v [(0, execRailCntClearFaults)] s else s
  | 0x0D => pwrWrite o v s
  | 0x0E => if o = 0x40 then clears v [(0, execThmCntClearCount)] s else s
  | 0x0F => rveWrite o v s
  | 0x10 => if o = 0x20 then clears v [(1, execYokCntClearCount), (0, execYokCntClearCheck)] s else s
  | 0x11 => belWrite o v s
  | 0x12 =>
    if o = 0x400 then clears v [(2, execEthCntClearPtp), (1, execEthCntClearTx), (0, execEthCntClearRx)] s
    else s
  | 0x13 => if o = 0x204 then nextOr (execGpioDataWrite (BitVec.ofNat 16 v) s) s else s
  | 0x14 => crcuWrite o v s
  | 0x15 => if o = 0x0C then clears v [(0, execTstCntClearCount)] s else s
  | _ => s

/-- A BAR0 write to a register. -/
def execRegisterWrite (off : BitVec 22) (value : Word) (s : State) : Out :=
  .next (whenS (hostUp s) (regWrite off.toNat value.toNat) s)

/-- An access to an offset with no register (R14). -/
def execBar0UnmappedAccess (write : Bool) (off : BitVec 22) (s : State) : Out :=
  let mapped (o : Nat) : Bool :=
    (regRead o s).isSome || (regRead64 o s).isSome || (regRead64 (o - 4) s).isSome
  .next (whenS (hostUp s && !mapped off.toNat)
    (fun s => raise 34 .note (off.toNat + (if write then 2 else 1) * 2 ^ 28)
      (if write then s else emit (.answer [0, 0, 0, 0] false) s)) s)

/-- A holding word (R13). -/
def holding (l : List (Nat × Word)) (off : Nat) : Word :=
  match l.find? fun x => x.1 == off with
  | some x => x.2
  | none => 0

/-- Set a holding word. -/
def setHolding (l : List (Nat × Word)) (off : Nat) (w : Word) : List (Nat × Word) :=
  (off, w) :: l.filter fun x => x.1 != off

/-- The 64-bit registers with the capture rule of R510, by the offset of the low word. -/
def captured64 (off : Nat) : Bool :=
  off == 0x110008 || off == 0x110010 || off == 0x110018 || off == 0x110028

/-- A read of the low word of a 64-bit register (R13). -/
def execReg64LowRead (off : BitVec 22) (s : State) : Out :=
  .next (match regRead64 off.toNat s with
    | none => s
    | some v => whenS (hostUp s)
      (fun s => emit (.answer (leBytes 4 v) false)
        { s with hif.rdHold := setHolding s.hif.rdHold off.toNat (BitVec.ofNat 32 (v / 2 ^ 32)) }) s)

/-- A read of the high word (R13, R510); `off` is the high word's offset. -/
def execReg64HighRead (off : BitVec 22) (s : State) : Out :=
  let lo := off.toNat - 4
  .next (match regRead64 lo s with
    | none => s
    | some v => whenS (hostUp s)
      (emit (.answer (leBytes 4 (if captured64 lo then v / 2 ^ 32
        else (holding s.hif.rdHold lo).toNat)) false)) s)

/-- A write of the low word (R13). -/
def execReg64LowWrite (off : BitVec 22) (value : Word) (s : State) : Out :=
  .next (whenS (hostUp s && (regRead64 off.toNat s).isSome)
    (fun s => { s with hif.wrHold := setHolding s.hif.wrHold off.toNat value }) s)

/-- A whole 64-bit register is written: the ring addresses (R48), RVE_NOTE (W1C), a saved CRC context. -/
def write64 (lo v : Nat) (s : State) : State :=
  let o := lo % 65536
  let free (n : Nat) (cq : Bool) : Bool :=
    !s.hif.ringLock && !(if cq then (s.hif.cq[ring16 n]).enable else (s.hif.sq[ring16 n]).enable)
  match lo / 65536 with
  | 0x01 =>
    match arrayAt o 0 0x20 16, arrayAt o 0x400 0x20 16 with
    | some (n, 0x00), _ =>
      whenS (free n false) (modSq (ring16 n) fun q => { q with base := BitVec.ofNat 64 (v / 64 * 64) }) s
    | some (n, 0x08), _ =>
      whenS (free n false) (modSq (ring16 n) fun q => { q with db := BitVec.ofNat 64 (v / 4 * 4) }) s
    | _, some (n, 0x00) =>
      whenS (free n true) (modCq (ring16 n) fun q => { q with base := BitVec.ofNat 64 (v / 32 * 32) }) s
    | _, some (n, 0x08) =>
      whenS (free n true) (modCq (ring16 n) fun q => { q with db := BitVec.ofNat 64 (v / 4 * 4) }) s
    | _, _ => s
  | 0x0F => if o = 0x08 then { s with rve.note := s.rve.note &&& ~~~ BitVec.ofNat 64 v } else s
  | 0x14 =>
    match arrayAt o 0 0x20 4 with
    | some (c, 0x18) => nextOr (execCrcuCtxWrite ⟨c % 4, by omega⟩ (BitVec.ofNat 64 v) s) s
    | _ => s
  | _ => s

/-- A write of the high word (R13); `off` is the high word's offset. -/
def execReg64HighWrite (off : BitVec 22) (value : Word) (s : State) : Out :=
  let lo := off.toNat - 4
  .next (whenS (hostUp s && (regRead64 lo s).isSome)
    (fun s => write64 lo (value.toNat * 2 ^ 32 + (holding s.hif.wrHold lo).toNat) s) s)

/-- A host read through BAR2 (R46, R109, R110, R115, R121). While the Granary is not ready it waits
(R116). -/
def execBar2Read (addr : BitVec 26) (bytes : BitVec 13) (upset : Upset) (s : State) : Out :=
  .next (whenS (hostUp s && decide (0 < bytes.toNat))
    (hostAccess (.read addr.toNat bytes.toNat upset)) s)

/-- A host write through BAR2 (R46, R110, R116); it waits as a read does. -/
def execBar2Write (addr : BitVec 26) (data : List Byte) (upset : Upset) (s : State) : Out :=
  .next (whenS (hostUp s && !data.isEmpty) (hostAccess (.write addr.toNat data upset)) s)

end Sys2Proof.Machine
end

