-- ==== Sys2Proof/Machine/Dma.lean ====
section
/-!
DEFINITION. The DMA engine's descriptors, beats, arbitration and ends (spec/03_dma.md), and how a
command goes on when its transfer has ended.
-/

namespace Sys2Proof.Machine

/-- Bytes left in the line that holds byte o. -/
def DmaDesc.left (x : DmaDesc) (o : Nat) : Nat := x.lineBytes - o % x.lineBytes

/-- Bytes the next write takes (R91): to the end of the aligned 64-byte block, or of the line. -/
def DmaDesc.writeLen (x : DmaDesc) (o : Nat) : Nat := min (64 - x.dstAt o % 64) (x.left o)

/-- The general layer a paced channel serves (R84). -/
def pacedLayer (k : Fin 32) : Option (Fin 9) := if h : k.val < 8 then some ⟨k.val, by omega⟩ else none

/-- The HOST layer as the frame under composition uses it (R137, R153). -/
def hostView (n : Fin 9) (s : State) : Option (Nat × LayerView) :=
  match s.lpl.work with
  | some f =>
    if f.finished then none
    else match f.view[n] with
      | some v => match v.set.cfg.source, v.sym with
        | .host a, none => some (a, v)
        | _, _ => none
      | none => none
  | none => none

/-- Change a layer's view in the frame under composition. -/
def modView (n : Fin 9) (f : LayerView → LayerView) (s : State) : State :=
  { s with lpl.work := s.lpl.work.map fun x => { x with view := x.view.upd n fun v => v.map f } }

/-- The first output row with a tap in a line that has not been delivered (R153). -/
def missingRow (v : LayerView) : Option Nat :=
  (List.range Pipe.arrayH).find? fun y => (List.range Pipe.arrayW).any fun x =>
    (tapSamples v.set.warp v.set.cfg.width v.set.cfg.height x y).any fun ij =>
      decide (v.lines.length ≤ ij.2)

/-- A paced channel stops short: its layer follows its late policy (R85). -/
def pacedFails (k : Fin 32) (s : State) : State :=
  match pacedLayer k with
  | none => s
  | some n =>
    match hostView n s with
    | none => s
    | some (_, v) => match missingRow v with
      | some y => hostUnderrun n y s
      | none => s

/-- Halt a channel on an error (R99); a paced one leaves its layer late. -/
def dmaFail (k : Fin 32) (code : Byte) (addr : Nat) (host : Bool) (s : State) : State :=
  if abortedNow k s then dmaHalt k code addr host s else pacedFails k (dmaHalt k code addr host s)

/-- The descriptor of the next line of a paced channel (R84, R85). -/
def pacedDesc (n : Fin 9) (s : State) : Option DmaDesc :=
  (hostView n s).map fun (x : Nat × LayerView) =>
    let c := x.2.set.cfg
    let j := x.2.lines.length
    { lineXfer (x.1 + j * c.pitch) true 0 0 false 0 (c.width * Cmp.fmtBytes c.format) 1 with
      last := decide (j + 1 ≥ c.height) }

/-- A channel has a write to make (R91, R93). -/
def DmaCh.canWrite (c : DmaCh) : Bool :=
  match c.cur with
  | none => false
  | some x => decide (c.written < x.total) && (x.fill || decide (x.writeLen c.written ≤ c.hold.length))

/-- A channel has a source request to make, with room in its holding register (R93). One source request of
a channel is outstanding at a time (log entry 37). -/
def DmaCh.canRequest (c : DmaCh) : Bool :=
  match c.cur with
  | none => false
  | some x => !x.fill && decide (0 < c.remain) && x.total - c.remain == c.arrived &&
      decide (c.hold.length < 64)

/-- n source bytes fit into the 64-byte holding register, and end a SWIDTH unit; where less than a unit
fits, a part of one fills it (R91, log entry 86). -/
def DmaCh.fits (c : DmaCh) (x : DmaDesc) (n : Nat) : Bool :=
  decide (0 < n) && (decide (c.hold.length + n = 64) ||
    (decide (c.hold.length + n ≤ 64) && (c.arrived + n) % widthBytes x.swidth == 0))

/-- A channel is ready for a grant (R93). -/
def DmaCh.ready (c : DmaCh) : Bool :=
  (c.state == .run || c.state == .stopping) && (c.canWrite || c.canRequest)

/-- The channel that wins the next grant (R93, R94). -/
def dmaWinner (s : State) : Option (Fin 32) :=
  let l := s.dma.ch.which DmaCh.ready
  match l.find? fun k => decide ((s.dma.ch[k]).passed ≥ 1024) with
  | some k => some k
  | none =>
    let top := l.foldl (fun m k => max m (s.dma.ch[k]).prio) 0
    l.find? fun k => (s.dma.ch[k]).prio == top

/-- A grant to channel k: every other ready channel is passed over (R94). -/
def grantTo (k : Fin 32) (s : State) : State :=
  let forced := decide ((s.dma.ch[k]).passed ≥ 1024)
  { s with
    dma.forced := if forced then bump 65535 1 s.dma.forced else s.dma.forced
    dma.ch := s.dma.ch.mapI fun i (c : DmaCh) =>
      if i = k then { c with passed := 0 }
      else if c.ready then { c with passed := c.passed + 1 } else { c with passed := 0 } }

/-- Bytes of the next host burst of a descriptor at byte o: to the 256-byte boundary or the line's end
(R90). -/
def DmaDesc.hostBurst (x : DmaDesc) (o : Nat) : Nat := min (256 - x.srcAt o % 256) (x.left o)

/-- The channel that a grant now would go to, and its descriptor (R93); none while a burst is under way. -/
def nextGrant (s : State) : Option (Fin 32 × DmaDesc) :=
  if s.dma.burst.isSome then none
  else match dmaWinner s with
    | none => none
    | some k => (s.dma.ch[k]).cur.map fun x => (k, x)

/-- Bytes of a read burst count as requested from its grant on (R100). -/
def asked (k : Fin 32) (n : Nat) (s : State) : State :=
  modCh k (fun (c : DmaCh) => { c with remain := c.remain - n }) s

/-- Grant channel k one burst (R90, R93): its source request before its write. A host read is issued at once;
a read of the Granary or of an export's records, at most 256 bytes and not past the end of the line, and a write
are under way until their last beat. -/
def grantBurst (k : Fin 32) (x : DmaDesc) (s : State) : State :=
  let c := s.dma.ch[k]
  let s := grantTo k s
  if c.canRequest && x.readsHost then
    emit (.hostRead (x.srcAt c.arrived) (x.hostBurst c.arrived) (TlpAttr.data k.val false))
      (asked k (x.hostBurst c.arrived) s)
  else if c.canRequest then
    let n := min 256 (x.left c.arrived)
    { asked k n s with dma.burst := some ⟨k, n, false, true⟩ }
  else { s with dma.burst := some ⟨k, x.writeLen c.written, true, true⟩ }

/-- Grant bursts until one is under way or no channel is ready (R93, R94); `fuel` bounds the host reads: a
channel has one outstanding. -/
def grantBursts : Nat → State → State
  | 0, s => s
  | fuel + 1, s =>
    match nextGrant s with
    | none => s
    | some (k, x) => grantBursts fuel (grantBurst k x s)

/-- The engine arbitrates before and after an event of its channels. -/
def arbitrate (s : State) : State := grantBursts 33 s

/-- A descriptor of a transfer has arrived (R87, R88): its TAG shows, and it starts or the channel
halts. -/
def beginDesc (k : Fin 32) (x : DmaDesc) (s : State) : State :=
  let s := modCh k (fun (c : DmaCh) => { c with tag := x.tag }) s
  let c := s.dma.ch[k]
  match checkDesc x s with
  | some code => dmaFail k code c.descAddr c.descHost s
  | none =>
    modCh k (fun (c : DmaCh) => { c with
      cur := some x, arrived := 0, hold := [], written := 0, links := 0,
      remain := x.total, state := .run }) s

/-- A LINK descriptor (R89). -/
def followLink (k : Fin 32) (x : DmaDesc) (s : State) : State :=
  let s := modCh k (fun (c : DmaCh) => { c with tag := x.tag }) s
  let c := s.dma.ch[k]
  if c.links + 1 ≥ 16 ∨ x.src % 32 ≠ 0 then dmaFail k 0x13 c.descAddr c.descHost s
  else if (!x.srcHost && decide (x.src ≥ grnSize)) || (x.srcHost && !hostReachable s) then
    dmaFail k 0x14 c.descAddr c.descHost s
  else
    askDesc x.src x.srcHost (modCh k (fun (c : DmaCh) => { c with
      links := c.links + 1, descAddr := x.src, descHost := x.srcHost }) s)

/-- A descriptor read from a chain: LAST makes LINK ignored (R89). -/
def takeDesc (k : Fin 32) (raw : BitVec 256) (s : State) : State :=
  let x := parseDma raw
  if x.link && !x.last then followLink k x s else beginDesc k x s

/-- A descriptor in the Granary is read (R99, R109, R121). -/
def fetchGranary (k : Fin 32) (u : Upset) (s : State) : State :=
  let c := s.dma.ch[k]
  if !grnMay s permDmaR false c.descAddr 32 then
    dmaFail k 0x16 c.descAddr false (violation .dma false c.descAddr .minor s)
  else
    let r := readWords .dma c.descAddr 32 u s
    if r.1 then dmaFail k 0x12 c.descAddr false r.2
    else takeDesc k (BitVec.ofNat 256 (leNat (grnRead s c.descAddr 32))) r.2

/-- DMA_DESCRIPTOR_FETCHED (R86 to R89): what the channel's own descriptor is, by who built it. -/
def execDmaDescriptorFetched (ch : Fin 32) (raw : Option (BitVec 256)) (upset : Upset) (s : State) :
    Out :=
  .next (whenS (s.pwr.core && (s.dma.ch[ch]).state == .fetch)
    (fun s =>
      let c := s.dma.ch[ch]
      arbitrate (match pacedLayer ch with
      | some n => match pacedDesc n s with
        | some x => beginDesc ch x s
        | none => modCh ch (fun (c : DmaCh) => { c with state := .idle }) s
      | none =>
        let own := match jobOn ch s with
          | some j => if j.xfer.link then none else some j.xfer
          | none => none
        match own, c.descHost, raw with
        | some x, _, _ => beginDesc ch x s
        | none, true, some w => takeDesc ch w s
        | none, true, none => dmaFail ch 0x12 c.descAddr true s
        | none, false, _ => if grnReady s then fetchGranary ch upset s else s)) s)

/-- DMA_PACED_REQUEST (R85): a third pending request is refused as an overrun (R102). -/
def execDmaPacedRequest (layer : Fin 8) (s : State) : Out :=
  let k : Fin 32 := ⟨layer.val, by omega⟩
  .next (whenS s.pwr.core
    (fun s =>
      let c := s.dma.ch[k]
      if c.state = .waitRequest then modCh k (fun (c : DmaCh) => { c with state := .fetch }) s
      else if !c.state.active then s
      else if c.requests < 2 then
        modCh k (fun (c : DmaCh) => { c with requests := c.requests + 1 }) s
      else
        pacedFails k (raise 32 .note k.val { s with dma.overrun := bump 65535 1 s.dma.overrun })) s)

/-- The command exports records of a unit of the device: its source is no memory. -/
def DmaJob.exports (j : DmaJob) : Bool := j.cmd.opcode == 0x28 || j.cmd.opcode == 0x61

/-- Position t is in the tile-dark mask. -/
def tileDark (t : Nat) (s : State) : Bool := isDark t s

/-- FAULT_LIST lists pixel p (R357). -/
def faultListed (p : Nat) (s : State) : Bool :=
  !tileDark (Pipe.tileOf (p % Pipe.arrayW) (p / Pipe.arrayW)) s && recHealth p s != 0

/-- A FAULT_LIST record (R357). -/
def faultRecord (p : Nat) (s : State) : Nat :=
  p + recHealth p s * 2 ^ 24 + recAgeing p s * 2 ^ 32 + (storeGet s.pxh.store p).vfAvg * 2 ^ 48

/-- Read pixels from p on until one is listed; none past the last (R357, R358). A word that is
uncorrectable, or that the regions deny the DMA engine, ends it with its code and address (R109, R121). -/
def scanFaults : Nat → Nat → State → Except (Byte × Nat) (Option Nat) × State
  | 0, _, s => (.ok none, s)
  | fuel + 1, p, s =>
    if p ≥ Pipe.pixels then (.ok none, s)
    else
      let a := s.pho.planeBase + 8 * p
      if !grnMay s permDmaR false a 8 then (.error (0x16, a), violation .dma false a .minor s)
      else
      let r := readWord .dma (a / 8) .none s
      if r.1 then (.error (0x10, a), r.2)
      else if faultListed p r.2 then (.ok (some p), r.2)
      else scanFaults fuel (p + 1) r.2

/-- The next record of an export, with the source's place after it (R357, R358, R447); none at the end;
a code and an address where the source fails. -/
def nextRecord (j : DmaJob) (s : State) : Except (Byte × Nat) (Option (List Byte × Nat)) × State :=
  if j.cmd.opcode = 0x61 then
    let seq : BitVec 16 := BitVec.ofNat 16 j.pos
    if j.written ≥ j.cmd.f 12 0 10 then (.ok none, s)
    else match logAt seq s with
      | some e => (.ok (some (leBytes 16 e.word, (seq + 1).toNat)), s)
      | none => (.ok none, s)
  else match j.cmd.f 8 0 3 with
    | 0 =>
      if j.written ≥ j.cmd.f 16 0 21 then (.ok none, s)
      else
        let r := scanFaults (Pipe.pixels - j.pos) j.pos s
        match r.1 with
        | .error a => (.error a, r.2)
        | .ok none => (.ok none, r.2)
        | .ok (some p) => (.ok (some (leBytes 8 (faultRecord p r.2), p + 1)), r.2)
    | 1 =>
      if j.written ≥ j.cmd.f 16 0 21 then (.ok none, s)
      else (.ok (some (leBytes 8 (storeGet s.pxh.store j.pos).word, j.pos + 1)), s)
    | _ =>
      if j.written ≥ 96 then (.ok none, s)
      else
        let w := tileWord j.written s
        (.ok (some (leBytes 4 w.1 ++ leBytes 4 (tileUnmeas j.written s), 0)), w.2)

/-- Bytes of one record of an export. -/
def DmaJob.recBytes (j : DmaJob) : Nat := if j.cmd.opcode = 0x61 then 16 else 8

/-- n bytes of the read burst of channel k have been read; the burst ends with its last byte. -/
def burstRead (k : Fin 32) (n : Nat) (s : State) : State :=
  { s with dma.burst := match s.dma.burst with
      | some b => if b.ch = k then
          (if b.left ≤ n then none else some { b with left := b.left - n, fresh := false }) else some b
      | none => none }

/-- Take records of an export into the holding register, as far as it and the burst have room; with no record
left, the descriptor ends where it is. A record counts as requested before it is made (R100). -/
def takeRecords (k : Fin 32) : Nat → State → State
  | 0, s => s
  | n + 1, s =>
    match jobOn k s, burstOf k s with
    | some j, some b =>
      if (s.dma.ch[k]).hold.length + j.recBytes > 64 ∨ b.left < j.recBytes then s
      else
      let r := nextRecord j s
      match r.1 with
      | .error e => dmaFail k e.1 e.2 false r.2
      | .ok none => endBurst k (modCh k (fun (c : DmaCh) => { c with
          remain := 0, cur := c.cur.map fun x => { x with lineBytes := c.arrived } }) r.2)
      | .ok (some (l, pos)) =>
        let s := setJob k (fun j => { j with pos := pos, written := j.written + 1 }) r.2
        takeRecords k n (burstRead k l.length (modCh k (fun (c : DmaCh) => { c with
          hold := c.hold ++ l, arrived := c.arrived + l.length }) s))
    | _, _ => s

/-- Where a DMA write may land (R109, R146, R162): a write outside is a violation. -/
def dmaMayWrite (k : Fin 32) (a n : Nat) (s : State) : Bool :=
  match jobOn k s with
  | some j =>
    if j.cmd.opcode = 0x13 then
      decide (j.cmd.f 12 0 32 ≤ a) && decide (a + n ≤ j.cmd.f 12 0 32 + j.cmd.f 16 0 32) &&
        grnMay s permDmaW false a n
    else if j.cmd.opcode = 0x10 && j.cmd.f 8 0 4 == 8 then grnMayCopy s permDmaW a n
    else grnMay s permDmaW false a n
  | none => grnMay s permDmaW false a n

/-- Write calibration records as a merge, word by word (R211). -/
def mergeWrite (a : Nat) (data : List Byte) (s : State) : State :=
  (List.range (data.length / 8)).foldl
    (fun s i =>
      let b := a + 8 * i
      let r := readWord .dma (b / 8) .none s
      let old := if r.1 then none else some (leNat (grnRead s b 8))
      storeBytes b (leBytes 8 (mergeRecord old (leNat ((data.drop (8 * i)).take 8)))) r.2) s

/-- A write into the Granary, one 32-byte beat after the other (R90, R92, R99); `narrow` is a DWIDTH below
8 bytes, which reads every word first. -/
def dmaStore (k : Fin 32) (narrow : Bool) (a : Nat) (data : List Byte) (s : State) : Bool × State :=
  if !dmaMayWrite k a data.length s then
    (false, dmaFail k 0x16 a false (violation .dma true a .minor s))
  else
    let merges := match jobOn k s with
      | some j => j.cmd.opcode == 0x20 && !j.cmd.b 8 2
      | none => false
    if merges then (true, mergeWrite a data s)
    else
      let n := min (32 - a % 32) data.length
      let r := grnStore .dma narrow a (data.take n) .none s
      if !r.1 then (false, dmaFail k 0x11 a false r.2)
      else if decide (data.length ≤ n) then (true, r.2)
      else
        let r := grnStore .dma narrow (a + n) (data.drop n) .none r.2
        if r.1 then (true, r.2) else (false, dmaFail k 0x11 (a + n) false r.2)

/-- A write to host memory. The channel of a SYMBOL_LOAD may write the named extent and nothing else
(R162): its chain halts with REGION, and the write is a region violation, whose ADDR holds the low bits of the host
address (log entry 95). -/
def dmaSend (k : Fin 32) (a : Nat) (data : List Byte) (s : State) : Bool × State :=
  let symbol := match jobOn k s with
    | some j => j.cmd.opcode == 0x13
    | none => false
  if symbol then (false, dmaFail k 0x16 a true (violation .dma true (a % grnSize) .minor s))
  else (true, emit (.hostWrite a data (TlpAttr.data k.val true)) s)

/-- Records a CAL_LOAD writes change the dead counts at each write (R582). -/
def countLoaded (k : Fin 32) (s : State) : State :=
  match jobOn k s with
  | some j => if j.cmd.opcode = 0x20 then checkDeadAll s else s
  | none => s

/-- Bytes leave for the destination (R90 to R92); false where the write failed. -/
def dmaPut (k : Fin 32) (x : DmaDesc) (a : Nat) (data : List Byte) (s : State) : Bool × State :=
  match pacedLayer k with
  | some n => (true, modView n (fun v => { v with part := v.part ++ data }) s)
  | none =>
    let keeps := match jobOn k s with
      | some j => j.toBuf || j.cmd.opcode == 0x20
      | none => false
    let toBuf := match jobOn k s with
      | some j => j.toBuf
      | none => false
    let s := if keeps then setJob k (fun j => { j with buf := j.buf ++ data }) s else s
    if toBuf then (true, s)
    else if x.dstHost then dmaSend k a data s
    else if grnReady s then
      let r := dmaStore k (decide (x.dwidth < 3)) a data s
      (r.1, countLoaded k r.2)
    else (false, s)

/-- A descriptor has ended (R89, R95): the chain stops, ends, or goes on; a paced channel waits for the
next request (R85). A STOP met in a descriptor with LAST ends STOPPED as well. -/
def descDone (k : Fin 32) (x : DmaDesc) (s : State) : State :=
  let s := match pacedLayer k with
    | some n => modView n (fun v => { v with lines := v.lines ++ [v.part], part := [] }) s
    | none => s
  let c := s.dma.ch[k]
  let s := modCh k (fun (c : DmaCh) => { c with
    cur := none, hold := [], remain := 0, doneOne := true }) s
  let next := c.descAddr + 32
  if c.stopReq then
    modCh k (fun (c : DmaCh) => { c with
      state := .stopped, code := 0x01, descAddr := next, stopReq := false, requests := 0 }) s
  else if x.last then
    modCh k (fun (c : DmaCh) => { c with state := .idle, code := 0, stopReq := false, requests := 0 }) s
  else
    let s := modCh k (fun (c : DmaCh) => { c with
      descAddr := next, descIndex := (c.descIndex + 1) % 65536, state := .fetch }) s
    match pacedLayer k with
    | some _ => modCh k (fun (c : DmaCh) =>
        if c.requests = 0 then { c with state := .waitRequest }
        else { c with requests := c.requests - 1 }) s
    | none => askDesc next c.descHost s

/-- The descriptor ends once its last byte has been written. -/
def settleDesc (k : Fin 32) (s : State) : State :=
  let c := s.dma.ch[k]
  match c.cur with
  | some x => if (c.state == .run || c.state == .stopping) && decide (c.written ≥ x.total) then
      descDone k x s else s
  | none => s

/-- Source bytes arrive from host memory, as far as the holding register has room (R90, R91). -/
def beatHost (k : Fin 32) (data : List Byte) (s : State) : State :=
  let c := s.dma.ch[k]
  match c.cur with
  | none => s
  | some x =>
    let out := x.total - c.remain - c.arrived
    if !x.readsHost || !c.fits x data.length || decide (out < data.length) then s
    else modCh k (fun (c : DmaCh) => { c with
      hold := c.hold ++ data, arrived := c.arrived + data.length }) s

/-- Bytes of the next Granary beat (R90, R91): to the end of the aligned 32 bytes or of the burst. Where the
holding register has less room, a write goes first; with no write to make, as many bytes as it has room for. -/
def DmaCh.beatLen (c : DmaCh) (a left : Nat) : Nat :=
  let n := min (32 - a % 32) left
  let room := 64 - c.hold.length
  if n ≤ room then n else if c.canWrite then 0 else room

/-- The words of a beat that its burst has not read yet: a word that an earlier beat of the burst read in part
was checked then. -/
def beatWords (fresh : Bool) (a n : Nat) (u : Upset) (s : State) : Bool × State :=
  let first := if fresh then a else (a + 7) / 8 * 8
  if first < a + n then readWords .dma first (a + n - first) u s else (false, s)

/-- A beat of n source bytes is read from the Granary (R90, R99, R109). -/
def readBeat (k : Fin 32) (fresh : Bool) (a n : Nat) (u : Upset) (s : State) : State :=
  if !grnMay s permDmaR false a n then dmaFail k 0x16 a false (violation .dma false a .minor s)
  else
    let r := beatWords fresh a n u s
    if r.1 then dmaFail k 0x10 a false r.2
    else burstRead k n (modCh k (fun (c : DmaCh) => { c with
      hold := c.hold ++ grnRead s a n, arrived := c.arrived + n }) r.2)

/-- The next source beat of channel k in a read burst: bytes of the Granary, or records of an export
(R90, R99). -/
def beatGranary (k : Fin 32) (b : Option Burst) (u : Upset) (s : State) : State :=
  let c := s.dma.ch[k]
  match c.cur, b with
  | some x, some b =>
    let exporting := match jobOn k s with
      | some j => j.exports
      | none => false
    let a := x.srcAt c.arrived
    let n := c.beatLen a b.left
    if b.write || x.srcHost || x.fill then s
    else if exporting then takeRecords k 8 s
    else if grnReady s && decide (0 < n) then readBeat k b.fresh a n u s
    else s
  | _, _ => s

/-- The burst of a write ends with it; a read burst of its channel goes on (R90). -/
def wroteBurst (k : Fin 32) (s : State) : State :=
  { s with dma.burst := s.dma.burst.filter fun b => !(b.ch == k && b.write) }

/-- Held bytes are written in a burst of the channel: its own write burst, or as its read burst needs room
(R91, R92). R100 does not say what REMAIN counts under FILL, which makes no source request: it counts the bytes
not yet written (DESIGN CHOICE, log entry 87). -/
def beatWrite (k : Fin 32) (b : Option Burst) (s : State) : State :=
  let c := s.dma.ch[k]
  match c.cur with
  | none => s
  | some x =>
    if !c.canWrite || b.isNone || (abortedNow k s && (pacedLayer k).isSome) then s
    else
      let n := x.writeLen c.written
      let a := x.dstAt c.written
      let data := if x.fill then (List.range n).map fun i => x.fillByte (a + i) else c.hold.take n
      let r := dmaPut k x a data s
      if r.1 then
        wroteBurst k (modCh k (fun (c : DmaCh) => { c with
          hold := if x.fill then [] else c.hold.drop n, written := c.written + n
          remain := if x.fill then x.total - (c.written + n) else c.remain }) r.2)
      else r.2

/-- A source request of channel k is under way: bytes of it have been requested and have not arrived. In the cycle
of an ABORT REMAIN says nothing any more: the request is the one the channel could have under way. -/
def sourceOwed (k : Fin 32) (x : DmaDesc) (s : State) : Bool :=
  let c := s.dma.ch[k]
  !x.fill && decide (c.arrived < x.total) && (abortedNow k s || decide (c.arrived < x.total - c.remain))

/-- A read of host memory failed (R98 to R100). -/
def beatError (k : Fin 32) (s : State) : State :=
  match (s.dma.ch[k]).cur with
  | some x =>
    if x.readsHost && sourceOwed k x s then dmaFail k 0x10 (x.srcAt (s.dma.ch[k]).arrived) true s else s
  | none => s

/-- A channel moves data, or was aborted in this very cycle (R98). -/
def dmaMoves (k : Fin 32) (s : State) : Bool :=
  (s.dma.ch[k]).state == .run || (s.dma.ch[k]).state == .stopping || abortedNow k s

/-- The burst of channel k: the one under way, or for an abort in this cycle the one it had (R98). -/
def burstAt (k : Fin 32) (s : State) : Option Burst :=
  if abortedNow k s then (s.dma.ch[k]).abortAt.bind fun a => a.2 else burstOf k s

/-- DMA_BEAT_COMPLETE (R90 to R94, R98 to R100). -/
def execDmaBeatComplete (ch : Fin 32) (beat : Beat) (s : State) : Out :=
  .next (whenS (s.pwr.core && dmaMoves ch s)
    (fun s =>
      let s := arbitrate s
      let b := burstAt ch s
      arbitrate (settleDesc ch (match beat with
        | .fromHost data => if abortedNow ch s then s else beatHost ch data s
        | .fromGranary u => beatGranary ch b u s
        | .write => beatWrite ch b s
        | .error _ => beatError ch s))) s)

/-- The address and space of what did not finish in time, if it was under way (R101): a source request of
a Granary or host burst, a write to the Granary, a descriptor fetch. -/
def timedOut (k : Fin 32) (what : DmaWait) (s : State) : Option (Nat × Bool) :=
  let c := s.dma.ch[k]
  match what, c.cur with
  | .fetch, _ =>
    if c.state = .fetch ∨ (abortedNow k s ∧ c.cur.isNone) then some (c.descAddr, c.descHost) else none
  | .source, some x =>
    if dmaMoves k s && sourceOwed k x s then some (x.srcAt c.arrived, x.srcHost) else none
  | .dest, some x =>
    if dmaMoves k s && !x.dstHost && (pacedLayer k).isNone && c.canWrite && (burstAt k s).isSome then
      some (x.dstAt c.written, false) else none
  | _, none => none

/-- DMA_TIMEOUT (R98, R101): the request, write or fetch that has not finished. -/
def execDmaTimeout (ch : Fin 32) (what : DmaWait) (s : State) : Out :=
  .next (whenS s.pwr.core
    (fun s =>
      let s := arbitrate s
      match timedOut ch what s with
      | some x => arbitrate (dmaFail ch 0x15 x.1 x.2 s)
      | none => s) s)

/-- DMA_CHANNEL_FREED (R85): the oldest waiting command takes the lowest idle channel of its range. -/
def execDmaChannelFreed (s : State) : Out :=
  .next (whenS (coresUp s)
    (fun s =>
      let s := reapJobs s
      match s.jobs.find? fun j => j.ch.isNone && (freeCh j.lo j.hi s).isSome with
      | none => s
      | some j => match freeCh j.lo j.hi s with
        | none => s
        | some k =>
          let j' := { j with ch := some k }
          startJob k j' { s with
            jobs := s.jobs.map fun x => if x.cmd.ser = j.cmd.ser then j' else x }) s)

/-- The destination of a transfer that failed is undefined (R100, R157, R212); a command that still waited for
a channel has moved no data (R85). -/
def failedRange (j : DmaJob) (a n : Nat) (s : State) : State :=
  match j.ch with
  | some _ => scramble a n s
  | none => s

/-- What a transfer that failed leaves behind (R157, R162, R212); its job has been dropped. -/
def transferFailed (j : DmaJob) (s : State) : State :=
  match j.cmd.opcode with
  | 0x10 => failedRange j (Pipe.slotBase (j.cmd.f 20 0 8)) 0x240000 s
  | 0x13 => modSym (symId j.cmd) (fun e => { e with state := .invalid }) s
  | 0x20 => failedRange j j.xfer.dst j.xfer.lineBytes s
  | 0x50 => { s with boot.stage := none }
  | 0x68 => { s with tst.job := none }
  | _ => s

/-- A command's transfer has halted or been aborted: it completes with ERROR (R97, R99, R103). -/
def jobFailed (j : DmaJob) (s : State) : State :=
  let r : Result := match j.ch with
    | some k => xferDetail k s
    | none => xferNone
  if j.dead then s else complete j.cmd stError 0 r (transferFailed j s)

/-- An export has ended well (R358, R447). A FAULT_LIST that has written COUNT records reads on to find whether there
are more (LIST_TRUNCATED); a record it cannot read then ends it with ERROR (log entry 49). -/
def exportDone (j : DmaJob) (s : State) : State :=
  if j.cmd.opcode = 0x61 then finish j.cmd stSuccess (faultExportResult j.seq0 j.written) s
  else
    let r := if j.cmd.f 8 0 3 = 0 ∧ j.cmd.f 16 0 21 ≤ j.written then scanFaults (Pipe.pixels - j.pos) j.pos s
      else (.ok none, s)
    let res := resAt 16 j.written ||| resAt 20 j.seq0.toNat ||| resAt 22 (composingSeq r.2).toNat
    match r.1 with
    | .ok none => finish j.cmd stSuccess res r.2
    | .ok (some _) => finish j.cmd 0x0150#16 res r.2
    | .error _ => complete j.cmd stError 0 xferNone r.2

/-- A CAL_LOAD RECORDS has ended: the written records' health counts (R212, R582). -/
def calDone (j : DmaJob) (s : State) : State := checkDeadAll (calLoaded j s)

end Sys2Proof.Machine
end

