-- ==== Sys2Proof/Machine/HostLink.lean ====
section
/-!
DEFINITION. The endpoint's resets and its link (R43, R44 of spec/02_host_rings.md, R554 of
spec/21_balls.md).
-/

namespace Sys2Proof.Machine

/-- A channel's transfer touches host memory (R97): its chain lies there, its descriptor or its command's
transfer reads or writes there, or it is a paced one. A chain in the Granary counts by the descriptor in progress,
not by one that stands elsewhere in it, and so not at all while it is in FETCH; R97 does not say (DESIGN CHOICE, log
entry 127). -/
def chHost (k : Fin 32) (s : State) : Bool :=
  let c := s.dma.ch[k]
  let byCur : Bool := c.descHost || (match c.cur with
    | some x => x.touchesHost
    | none => false)
  let byJob : Bool := match jobOn k s with
    | some j => !j.xfer.link && j.xfer.touchesHost
    | none => false
  byCur || byJob || decide (k.val < 8)

/-- Abort a channel that touches host memory; a paced one leaves its layer late. -/
def abortHost (s : State) (k : Fin 32) : State :=
  if ((s.dma.ch[k]).state.active || haltedNow k s) && chHost k s then pacedFails k (dmaAbort k s)
  else s

/-- A job whose transfer an event of R44 ends: aborted, or one that waits and would touch host memory
(R85). In LIGHT_HOLD a command waits no longer: it completes with INTERRUPTED after return to service. -/
def jobDead (s : State) (j : DmaJob) : Bool :=
  match j.ch with
  | some k => (s.dma.ch[k]).state == .aborted
  | none => coresUp s && j.xfer.touchesHost

/-- Every ring is disabled with what it holds; completions of executing ring commands are discarded and
BAR2 accesses that wait are dropped (R44). -/
def ringsLost (s : State) : State :=
  { s with
    running := s.running.map fun (c : Cmd) => match c.src with
      | .ring _ => { c with src := .discard }
      | _ => c
    hif.sq := s.hif.sq.map' fun q =>
      { q with
        enable := false, running := false, asked := 0, dbAsked := none, fetched := [], behind := [] }
    hif.bar2Wait := []
    hif.cq := s.hif.cq.map' fun q =>
      { q with enable := false, full := false, dbAsked := none, retry := false, waiting := [] } }

/-- The transfers that an event of R44 ends leave the list of jobs and fail (R85). -/
def jobsLost (s : State) : State :=
  (s.jobs.filter (jobDead s)).foldl (fun t j => jobFailed j t)
    { s with jobs := s.jobs.filter fun j => !jobDead s j }

/-- The effects of FLR, D3hot and link loss on rings and host transfers (R44, R85, R97): rings disabled,
host transfers aborted, completions of executing ring commands discarded. -/
def hostLost (s : State) : State := jobsLost (ringsLost ((List.finRange 32).foldl abortHost s))

/-- The function is reset: D0 again, no vector pending (R43, R68, log entry 84). -/
def functionReset (s : State) : State := { s with hif.d3hot := false, hif.msix.pending := 0 }

/-- A Function Level Reset (R44). -/
def execPcieFlr (s : State) : Out := .next (whenS s.pwr.core (fun s => functionReset (hostLost s)) s)

/-- The function's power state: D3hot or D0. -/
def setD3hot (v : Bool) (s : State) : State := { s with hif.d3hot := v }

/-- A transition to D3hot (R44). -/
def execPcieD3hot (s : State) : Out :=
  .next (whenS s.pwr.core (fun s => setD3hot true (hostLost s)) s)

/-- Loss of the link (R44); group PCIE records it with no AER bit set (R432). -/
def linkLost (s : State) : State :=
  hostLost { s with
    hif.linkUp := false, hif.speed := 0, hif.width := 0, hif.msix.pending := 0 }

/-- Loss of the link. -/
def execPcieLinkDown (s : State) : Out :=
  .next (whenS (s.pwr.core && s.hif.linkUp) (fun s => raise 35 .minor 0 (linkLost s)) s)

/-- The link trains (R43): Gen1 to Gen3, ×1, ×2 or ×4. -/
def execPcieLinkUp (speed width : BitVec 3) (s : State) : Out :=
  .next (whenS (s.pwr.core && !s.hif.hostless && !s.pwr.perstLow &&
      decide (1 ≤ speed.toNat ∧ speed.toNat ≤ 3) &&
      decide (width.toNat = 1 ∨ width.toNat = 2 ∨ width.toNat = 4))
    (fun s => { s with
      hif.linkUp := true, hif.speed := speed.toNat, hif.width := width.toNat,
      hif.d3hot := false }) s)

/-- PERST_N (R554, R81): low holds the endpoint in fundamental reset. -/
def perst (high : Bool) (s : State) : State :=
  if high then { s with pwr.perstLow := false }
  else
    let s := { s with pwr.perstLow := true }
    if s.pwr.core then setD3hot false (linkLost s) else s

/-- PERST_N changes. -/
def execPerstNChange (high : Bool) (s : State) : Out := .next (perst high s)

end Sys2Proof.Machine
end

