-- ==== Sys2Proof/Machine/Granary.lean ====
section
/-!
DEFINITION. The Granary's own activities: initialisation, rewriting, repair, scrub, march, release of
retention (spec/04_granary.md R118 to R133).
-/

namespace Sys2Proof.Machine

/-- The row of a word. -/
def rowOf (w : Nat) : RowCopy := ⟨wordBank w, wordRow w⟩

/-- A word that a march finds failing marks its row for repair, once (R119, R127): rows repaired, and the
rows left unrepaired. -/
def repairFailing (acc : Nat × List RowCopy × State) (w : Nat) : Nat × List RowCopy × State :=
  if underCopy acc.2.2 w || acc.2.1.contains (rowOf w) then acc
  else if sparesUsed acc.2.2 (wordBank w) < 4 then (acc.1 + 1, acc.2.1, startRepair w acc.2.2)
  else (acc.1, acc.2.1 ++ [rowOf w], startRepair w acc.2.2)

/-- The copies under way become repairs at once, as in a start-up march (R126). -/
def settleCopies (s : State) : State :=
  { s with grn.repaired := s.grn.repaired ++ s.grn.copying, grn.copying := [] }

/-- A word in a row that the start-up march could not repair (R126). -/
def leaveBad (s : State) (w : Nat) : State :=
  if s.grn.repaired.any fun c => c == ⟨wordBank w, wordRow w⟩ then s
  else { s with grn.marks := putMark s.grn.marks w (some .double) }

/-- Initialisation, or a start-up march that found these failing words, has ended (R125, R126). Where a row stays
unrepaired, the first failing address stands in the MAJOR's DETAIL (log entry 139). -/
def initDone (failing : List Nat) (s : State) : State :=
  let s := { s with
    grn.mem := [], grn.marks := [], grn.rewritten := [], grn.rewriteQ := []
    lpl.old := Tab.all 2 none
    grn.lost := false, grn.initDone := true, grn.scrubWord := 0, grn.scrubActive := false
    pwr.start := s.pwr.start.map fun x => { x with granary := true } }
  let r := failing.foldl repairFailing (0, [], s)
  let s := failing.foldl leaveBad (settleCopies r.2.2)
  serveWaiting (if r.2.1.isEmpty then s
    else raise 7 .major ((failing.head?.getD 0) + Master.march.code * 2 ^ 23) s)

/-- GRANARY_INIT_DONE: the words a start-up march found failing, as byte addresses; an initialisation
finds none. -/
def execGranaryInitDone (failing : List (BitVec 26)) (s : State) : Out :=
  let runs : Bool := match s.pwr.start with
    | some x => x.pgCore && x.pgSram && !x.granary
    | none => false
  .next (whenS (s.pwr.core && !s.grn.initDone && !s.grn.retention && runs)
    (initDone (failing.map fun a => a.toNat / 8)) s)

/-- ECC_REWRITE (R118): the oldest queued word of the bank. -/
def execEccRewrite (bank : Fin 32) (s : State) : Out :=
  .next (whenS (s.pwr.core && grnReady s)
    (fun s =>
      match s.grn.rewriteQ.find? fun w => wordBank w == bank.val with
      | none => s
      | some w =>
        let m := if markOf s w = some .single then none else markOf s w
        { s with
          grn.rewriteQ := s.grn.rewriteQ.filter fun x => x != w
          grn.marks := putMark s.grn.marks w m
          grn.rewritten := if s.grn.rewritten.contains w then s.grn.rewritten
            else s.grn.rewritten ++ [w] }) s)

/-- A word lies in a row. -/
def inRow (r : RowCopy) (w : Nat) : Bool := wordBank w == r.bank && wordRow w == r.row

/-- ROW_REPAIR_COMPLETE (R119): the row under copy longest is replaced; its correctable errors stay
behind in the old row. -/
def execRowRepairComplete (s : State) : Out :=
  .next (whenS (s.pwr.core && grnReady s)
    (fun s =>
      match s.grn.copying with
      | [] => s
      | r :: rest => { s with
          grn.copying := rest
          grn.repaired := s.grn.repaired ++ [r]
          grn.marks := s.grn.marks.filter fun m => !(inRow r m.1 && m.2 == .single)
          grn.rewritten := s.grn.rewritten.filter fun w => !inRow r w
          grn.rewriteQ := s.grn.rewriteQ.filter fun w => !inRow r w }) s)

/-- The scrubber reads the word at the pass's index in every bank; a fresh upset strikes one bank
(R123). -/
def scrubBanks (bank : Fin 32) (upset : Upset) (s : State) : State :=
  (List.range 32).foldl (fun t b =>
    (readWord .scrub (32 * s.grn.scrubWord + b) (if b = bank.val then upset else .none) t).2) s

/-- The pass goes on to the next index, or ends behind the last (R124). -/
def scrubOn (s : State) : State :=
  if s.grn.scrubWord + 1 ≥ 262144 then
    { s with
      grn.scrubWord := 0, grn.scrubActive := false, grn.passes := (s.grn.passes + 1) % 16384 }
  else { s with grn.scrubWord := s.grn.scrubWord + 1, grn.scrubActive := true }

/-- SCRUB_WORD_READ (R123, R124): every bank is read, then the index moves on. -/
def execScrubWordRead (bank : Fin 32) (upset : Upset) (s : State) : Out :=
  .next (whenS (s.pwr.core && grnReady s && s.grn.scrubEn)
    (fun s => scrubOn (scrubBanks bank upset s)) s)

/-- RETENTION_RELEASE_DONE (R133). -/
def execRetentionReleaseDone (s : State) : Out :=
  let runs : Bool := match s.pwr.start with
    | some x => x.pgCore
    | none => false
  .next (whenS (s.pwr.core && s.grn.retention && runs)
    (fun s => serveWaiting { s with
      grn.retention := false, grn.scrubWord := 0, grn.scrubActive := false
      pwr.start := s.pwr.start.map fun x => { x with granary := true } }) s)

/-- Two byte ranges overlap. -/
def overlap (a n b m : Nat) : Bool := decide (a < b + m) && decide (b < a + n)

/-- The ranges a committed setting names: surfaces in slots, symbol extents (R130). -/
def namedRanges (s : State) : List (Nat × Nat) :=
  (List.finRange 9).flatMap fun n => (committedSets n s).flatMap fun l =>
    let c := l.cfg
    let symbol (id : Fin 256) : List (Nat × Nat) := [((s.cmp.sym[id]).extStart, (s.cmp.sym[id]).extBytes)]
    (match c.source with
      | .slot k => [(Pipe.slotBase k, (c.height - 1) * c.pitch + c.width * Cmp.fmtBytes c.format)]
      | .symbol id => symbol id
      | _ => []) ++ (if n.val < 8 && c.policy == .substitute then symbol c.subst else [])

/-- R130 on a DESTRUCTIVE march. -/
def marchInUse (a n : Nat) (s : State) : Bool :=
  (s.pwr.state == .run || s.pwr.state == .dim || s.pwr.state == .lightHold) &&
    (overlap a n 0 outBufEnd || overlap a n s.pho.planeBase planeBytes ||
      (namedRanges s).any fun r => overlap a n r.1 r.2)

/-- MARCH_RUN (R128 to R131). Where MARCH_IN_USE and MARCH_BUSY both hold it completes with the former (log
entry 140). -/
def marchBody : Body :=
  { check := fun c s =>
      let a := c.f 8 0 32
      let n := c.f 12 0 32
      firstFail
        [ (a % 256 != 0 || n % 256 != 0 || decide (n < 256) || decide (a + n > grnSize) ||
            decide (c.f 16 0 2 ≥ 2), stField),
          (c.f 16 0 2 == 1 && marchInUse a n s, 0x0100#16),
          (s.grn.march.isSome, 0x0101#16) ]
    run := fun c s =>
      let m : March :=
        { start := c.f 8 0 32, length := c.f 12 0 32, destructive := c.f 16 0 2 == 1, done := 0,
          failWords := 0, firstFail := none, rowsRepaired := 0, unrepaired := [],
          startup := false }
      { s with grn.march := some m, marchCmd := some c } }

/-- MARCH_RUN. -/
def execMarchRun (src : Src) (d : Desc) (s : State) : Out := .next (runRow 0x69 marchBody src d s)

/-- The result of a march (table MARCH_RUN result). -/
def March.result (m : March) : Result :=
  resAt 16 (min (2 ^ 32 - 1) m.failWords) ||| resAt 20 (m.firstFail.getD 0) |||
    resAt 24 (min 255 m.rowsRepaired) ||| resAt 25 (min 255 m.unrepaired.length)

/-- A march has tested its whole range (R131). -/
def marchEnd (m : March) (s : State) : State :=
  let detail := m.firstFail.getD 0 / 8 + Master.march.code * 2 ^ 23
  let cmd := s.marchCmd
  let s := { s with grn.march := none, marchCmd := none }
  let s := if !m.unrepaired.isEmpty then raise 7 .major detail s
    else if m.failWords ≠ 0 then raise 7 .note detail s else s
  match cmd with
  | none => s
  | some c =>
    if !m.unrepaired.isEmpty then complete c 0x0103#16 0 m.result s
    else if m.failWords ≠ 0 then complete c 0x0102#16 0 m.result s
    else finish c stSuccess m.result s

/-- MARCH_STRIPE_DONE (R127, R129 to R131): the words of the stripe that failed. -/
def execMarchStripeDone (failing : List (Fin 32)) (s : State) : Out :=
  .next (whenS (s.pwr.core && grnReady s)
    (fun s =>
      match s.grn.march with
      | none => s
      | some m =>
        let a := m.start + 256 * m.done
        let bad := (List.finRange 32).filter fun k => failing.contains k
        let s := if m.destructive then storeBytes a (List.replicate 256 0) s else s
        let r := bad.foldl (fun x k => repairFailing x (a / 8 + k.val)) (0, m.unrepaired, s)
        let m : March := { m with
          done := m.done + 1
          failWords := m.failWords + bad.length
          firstFail := m.firstFail.orElse fun _ => bad.head?.map fun k => a + 8 * k.val
          rowsRepaired := m.rowsRepaired + r.1
          unrepaired := r.2.1 }
        if 256 * m.done ≥ m.length then marchEnd m r.2.2
        else { r.2.2 with grn.march := some m }) s)

end Sys2Proof.Machine
end

