-- ==== Sys2Proof/Machine/AuxChains.lean ====
section
/-!
DEFINITION. The auxiliary LED chains (spec/19_management_aux.md R524 to R527).
-/

namespace Sys2Proof.Machine

/-- The data bits of a frame in shift order (R524): word w in descending w, each most significant bit
first. -/
def auxBits (wordBits : Nat) (words : List Nat) : List Bool :=
  words.reverse.flatMap fun w => (List.range wordBits).map fun i => w.testBit (wordBits - 1 - i)

/-- One bit of data into the CRC-16 of R524. -/
def auxCrcBit (c : Nat) (b : Bool) : Nat := crc16Bit (c ^^^ (bn b * 32768))

/-- The CRC-16 of a frame's data (R524). -/
def auxCrc (wordBits : Nat) (words : List Nat) : Nat :=
  (auxBits wordBits words).foldl auxCrcBit 0xFFFF

/-- Change a chain. -/
def modAux (c : Fin 4) (f : Aux → Aux) (s : State) : State := { s with aux := s.aux.upd c f }

/-- CHAIN of an AUX_WRITE. -/
def awChain (c : Cmd) : Fin 4 := ⟨c.f 8 0 2 % 4, by omega⟩

/-- The words of an AUX_WRITE. -/
def awWords (c : Cmd) : List Nat := (List.range (c.f 12 0 8)).map fun i => c.f (24 + 2 * i) 0 16

/-- R527 on an AUX_WRITE. -/
def awBad (c : Cmd) (s : State) : Bool :=
  let a := s.aux[awChain c]
  let n := c.f 12 0 8
  decide (n < 1) || decide (n > 20) || !a.used || decide (c.f 10 0 16 + n > a.ics * a.ch) ||
    (awWords c).any fun w => decide (w ≥ 2 ^ a.wordBits)

/-- AUX_WRITE (R527): into the aux shadow, taken at a commit. -/
def auxWriteBody : Body :=
  { check := fun c s => firstFail [(awBad c s, stField)]
    run := fun c s =>
      finishOk c (shadowAll [.aux (awChain c) (c.f 10 0 16) (awWords c) (c.f 14 0 16)] s) }

/-- AUX_WRITE. -/
def execAuxWrite (src : Src) (d : Desc) (s : State) : Out := .next (runRow 0x58 auxWriteBody src d s)

/-- A chain starts a frame: its words changed, or a refresh is due (R524 to R526). -/
def execAuxFrameShift (c : Fin 4) (s : State) : Out :=
  .next (whenS (s.pwr.core && (s.aux[c]).used && (s.aux[c]).shifting.isNone)
    (fun s =>
      let a := s.aux[c]
      emit (.auxFrame c a.words (auxCrc a.wordBits a.words))
        (modAux c (fun (a : Aux) => { a with latDue := false, shifting := some a.words }) s)) s)

/-- A frame has been shifted (R525): RET returned data whose CRC is dataCrc, then ownCrc. After a failed check the
next frame is shifted at once with the same words. -/
def execAuxShiftEnd (c : Fin 4) (dataCrc ownCrc : BitVec 16) (s : State) : Out :=
  .next (whenS s.pwr.core
    (fun s =>
      let a := s.aux[c]
      match a.shifting with
      | none => s
      | some words =>
        let crc := auxCrc a.wordBits words
        let dataOk : Bool := match a.prevCrc with
          | some p => p == dataCrc.toNat
          | none => true
        let ok := dataOk && ownCrc.toNat == crc
        let s := modAux c (fun (a : Aux) => { a with
          shifting := if ok then none else some words, prevCrc := some crc
          frames := (a.frames + 1) % 65536, latDue := ok
          retFail := if ok then a.retFail else bump 32767 1 a.retFail }) s
        if ok then s else emit (.auxFrame c words crc) (raise 40 .minor c.val s)) s)

end Sys2Proof.Machine
end

