-- ==== Sys2Proof/Machine/TestRun.lean ====
section
/-!
DEFINITION. TEST_RUN and its Ethernet loopback (spec/20_test.md R532 to R541). The lane, PIX and rail
parts of the tests stand with the rows that show them.
-/

namespace Sys2Proof.Machine

/-- COUNT of a TEST_RUN is in its range (R534); unused it is 0. -/
def trCountOk (test n : Nat) : Bool :=
  if test ≤ 1 then decide (16384 ≤ n) && decide (n ≤ 16777216)
  else if test = 2 then decide (1 ≤ n) && decide (n ≤ 65535)
  else if test = 3 then decide (1 ≤ n) && decide (n ≤ 255)
  else n == 0

/-- The word of an ECC_INSERT may be changed (R540). -/
def eccTargetOk (a : Nat) (s : State) : Bool :=
  decide (outBufEnd ≤ a) && decide (a < grnSize) && !inSlot7 (a / 65536) &&
    blockGrants s permCoreW (a / 65536)

/-- R534 on a TEST_RUN's fields. -/
def testBad (c : Cmd) (s : State) : Bool :=
  let test := c.f 8 0 4
  let target := c.f 9 0 5
  let depth := c.f 10 0 3
  let slot := c.f 10 4 2
  let bits := c.f 11 0 2
  let a := c.f 16 0 32
  let depthOk := if test = 0 then decide (1 ≤ depth) && decide (depth ≤ 4)
    else if test ≤ 2 then decide (1 ≤ depth) && decide (depth ≤ 3) else depth == 0
  let targetOk := if test = 0 ∨ test = 3 then decide (target ≤ 23) else if test = 2 then decide (target ≤ 1)
    else if test = 5 then decide (target ≤ 7) else target == 0
  let slotOk := if test = 0 ∧ depth = 4 then decide (slot < (laneN target s).chainLen) else slot == 0
  let bitsOk := if test = 4 then bits == 1 || bits == 2 else bits == 0
  let addrOk := if test = 4 then a % 8 == 0 && eccTargetOk a s
    else if test = 2 then a % 8 == 0 else a == 0
  decide (test > 5) || !targetOk || !depthOk || !slotOk || !bitsOk || !addrOk || !trCountOk test (c.f 12 0 32)

/-- A committed setting names the word (R532). -/
def eccNamed (a : Nat) (s : State) : Bool :=
  overlap a 8 s.pho.planeBase planeBytes || (namedRanges s).any fun r => overlap a 8 r.1 r.2

/-- The test disturbs the light (R532). -/
def testDisturbs (c : Cmd) (s : State) : Bool :=
  decide (c.f 8 0 4 ≤ 1) || (c.f 8 0 4 == 4 && c.f 11 0 2 == 2 && eccNamed (c.f 16 0 32) s)

/-- The target is in the state the test needs (TEST_TARGET). -/
def testTargetOk (c : Cmd) (s : State) : Bool :=
  let t := c.f 9 0 5
  match c.f 8 0 4 with
  | 0 | 3 => (laneN t s).state == .ready
  | 1 => s.yok.lane.state == .ready
  | 2 => (s.eth.port.toList[t]?).any fun (e : Eth) => e.enabled && e.link
  | 5 => (s.rail.rail.toList[t]?).any fun (r : Rail) => r.state == .regulate
  | _ => true

/-- The command came over the port it names (TEST_PORT). -/
def testOwnPort (c : Cmd) : Bool :=
  match c.src with
  | .eth p _ _ => c.f 8 0 4 == 2 && c.f 9 0 5 == p.val
  | _ => false

/-- Low 8 bits of RVE_LOG_STATUS.HEAD (TST_STATUS). -/
def noteInsertion (s : State) : State := { s with tst.lastSeq := (logHead s).toNat % 256 }

/-- Invert check bits of a word (R540). What a further inversion makes of a word already in error is
free. -/
def eccInsert (w bits : Nat) (s : State) : State :=
  match markOf s w with
  | none => { s with grn.marks := putMark s.grn.marks w (some (if bits = 2 then .double else .single)) }
  | some _ =>
    let f := freshBits 2 s
    let m : Option Mark := if f.1.toNat = 0 then none else if f.1.toNat = 1 then some .single
      else some .double
    { f.2 with grn.marks := putMark f.2.grn.marks w m }

/-- Channel 31 reads the frame of an ETH_LOOP once (R537). -/
def loopRead (j : TestJob) (s : State) : State :=
  askTransfer { cmdJob j.cmd (lineXfer j.addr false 1024 0 false 1024 1024 1) true with lo := 31, hi := 31 } s

/-- TEST_RUN (R532 to R541); its COMMIT bit is ignored. -/
def testRunBody : Body :=
  { check := fun c s => firstFail
      [ (!(s.pwr.state == .run || s.pwr.state == .dim), stState),
        (testBad c s, stField),
        (s.tst.job.isSome, 0x01D1#16),
        (testDisturbs c s && !c.b 8 4, 0x01D2#16),
        (testOwnPort c, 0x01D3#16),
        (!testTargetOk c s, 0x01D4#16) ]
    run := fun c s =>
      let test := c.f 8 0 4
      let phase : TestPhase := match test with
        | 0 | 1 => .latch
        | 2 => .frames (c.f 12 0 32) 0 none
        | 3 => .pix 0
        | _ => .rail none 0
      let j : TestJob :=
        { cmd := c, test := test, target := c.f 9 0 5, depth := c.f 10 0 3, slot := c.f 10 4 2,
          count := c.f 12 0 32, addr := c.f 16 0 32, phase := phase, since := s.now }
      let s := { s with
        tst.job := some j, tst.test := test, tst.target := j.target, tst.run := bump 65535 1 s.tst.run }
      match test with
      | 2 => loopRead j (ethLinkLost (if j.target = 1 then 1 else 0) s)
      | 4 => endRun stSuccess 0 1 (noteInsertion (eccInsert (j.addr / 8) (c.f 11 0 2) s))
      | _ => s }

/-- TEST_RUN. -/
def execTestRun (src : Src) (d : Desc) (s : State) : Out := .next (runRow 0x68 testRunBody src d s)

/-- The copy of an ETH_LOOP has been read: the port sends it (R537); its job has been dropped. -/
def loopSend (job : DmaJob) (s : State) : State :=
  match s.tst.job with
  | some j =>
    match j.phase with
    | .frames left failed _ =>
      let p : Fin 2 := if j.target = 1 then 1 else 0
      emit (.eth p { payload := .loop job.buf, launch := none, eligible := true } 0 none false none)
        { s with tst.job := some { j with phase := .frames left failed (some job.buf) } }
    | _ => s
  | none => s

/-- A frame of an ETH_LOOP has come back, or has failed (R537). -/
def loopBack (ok : List Byte → Bool) (s : State) : State :=
  match s.tst.job with
  | some j =>
    match j.phase with
    | .frames left failed (some sent) =>
      let failed := if ok sent then failed else failed + 1
      let j' : TestJob := { j with phase := .frames (left - 1) failed none }
      if left ≤ 1 then
        endRun (if failed = 0 then stSuccess else 0x01D0#16) failed (bn (failed == 0)) s
      else loopRead j' { s with tst.job := some j' }
    | _ => s
  | none => s

/-- ETH_LOOP_FRAME_RETURNED. -/
def execEthLoopFrameReturned (fcsOk : Bool) (data : List Byte) (s : State) : Out :=
  .next (whenS s.pwr.core (loopBack fun sent => fcsOk && data == sent) s)

/-- ETH_LOOP_FRAME_TIMEOUT. -/
def execEthLoopFrameTimeout (s : State) : Out := .next (whenS s.pwr.core (loopBack fun _ => false) s)

end Sys2Proof.Machine
end

