-- ==== Sys2Proof/Machine/Image.lean ====
section
/-!
DEFINITION. The boot image's configuration segment: SETTINGS records and the board table
(spec/19_management_aux.md R515 to R518, R293, R294, R321, R366, R367, R408, R509).
-/

namespace Sys2Proof.Machine

/-- A settings record applies if its fields are in range. -/
def applyIf (ok : Bool) (s : State) : Option State := if ok then some s else none

/-- A signed field of a settings value. -/
def wsf (v lo len : Nat) : Int := sfield (BitVec.ofNat 32 v) lo len

/-- Image fields of the host interface, the DMA engine and the Granary (R517, R74, R75). -/
def imgHost (o v : Nat) (s : State) : Option State :=
  if o = 0x000000 then some { s with hif.vendorId := BitVec.ofNat 16 v }
  else if o = 0x000004 then
    some { s with hif.fwMajor := BitVec.ofNat 8 (v / 65536), hif.fwMinor := BitVec.ofNat 8 (v / 256),
                  hif.fwPatch := BitVec.ofNat 8 v }
  else if o = 0x000008 then some { s with hif.hostless := wb v 6 }
  else if 0x000020 ≤ o ∧ o ≤ 0x000030 ∧ o % 4 = 0 then
    let p := (o - 0x20) / 4
    let img : BitVec 12 := BitVec.ofNat 12 (wf' v 16 12)
    let cls : BitVec 12 := BitVec.ofNat 12 (wf' v 0 12)
    applyIf (if p = 4 then img == 0 && cls == 0
        else if p = 3 then !(bitOf img 9 || bitOf cls 9) else true)
      { s with hif.auth := s.hif.auth.updN p fun _ => { image := img, cls := cls &&& img } }
  else match arrayAt o 0x020008 0x40 32 with
  | some (n, 0) =>
    some { s with dma.ch := s.dma.ch.updN n fun c => { c with prio := wf' v 0 3 } }
  | _ =>
  if o = 0x030010 then
    applyIf (decide (28 ≤ wf' v 1 16) && decide (wf' v 1 16 ≤ 60000))
      { s with grn.scrubMs := wf' v 1 16, grn.scrubEn := wb v 0 }
  else if o = 0x0300FC then some { s with grn.regLock := wb v 0 }
  else match arrayAt o 0x030100 8 16 with
  | some (n, 0) =>
    some { s with grn.regions := s.grn.regions.updN n fun r =>
      { r with base := wf' v 0 10, limit := wf' v 16 10 } }
  | some (n, 4) =>
    some { s with grn.regions := s.grn.regions.updN n fun r => { r with perm := BitVec.ofNat 8 v } }
  | _ => none

/-- The lane entry a settings value spells (XLP_LANEn_EQ). -/
def eqEntry (v : Nat) : LaneEntry :=
  { used := wb v 0, rate := wf' v 8 2, minRate := wf' v 10 2, txSwing := wf' v 13 4,
    preEmph := wf' v 17 3, rxEq := wf' v 20 4, errRetrain := wf' v 24 8, mirror := wb v 12 }

/-- Image fields of the tile map and the lanes (LPL, XLP, XLK). -/
def imgLanes (o v : Nat) (s : State) : Option State :=
  match arrayAt o 0x080100 4 96 with
  | some (k, 0) =>
    let act := parseMapEntry (wf' v 0 16)
    let shd := parseMapEntry (wf' v 16 16)
    let t : State := { s with lpl.map := s.lpl.map.updN k fun _ => act
                              lpl.mapNext := s.lpl.mapNext.updN k fun _ => act }
    applyIf (decide (act.tile < 96) && decide (shd.tile < 96))
      (if shd = act then t else shadowAll [.map ⟨k % 96, Nat.mod_lt _ (by decide)⟩ shd] t)
  | _ => match arrayAt o 0x09000C 0x20 24 with
  | some (n, 0) =>
    let e := eqEntry v
    applyIf (decide (e.rate < 3) && decide (e.minRate ≤ e.rate))
      { s with link.lane := s.link.lane.updN n fun l => { l with entry := e, targetRate := e.rate } }
  | _ =>
  if o = 0x090400 then some { s with link.expected := BitVec.ofNat 6 (wf' v 8 6) }
  else match arrayAt o 0x0A0000 0x20 24 with
  | some (n, 0) =>
    applyIf (decide (wf' v 0 3 ≤ 4))
      { s with link.lane := s.link.lane.updN n fun l => { l with mode := wf' v 0 3 } }
  | _ => none

/-- Change one rail's board-table entry. -/
def modEntryOf (n : Nat) (f : RailEntry → RailEntry) (s : State) : State :=
  { s with rail.rail := s.rail.rail.updN n fun r => { r with entry := f r.entry } }

/-- A voltage within what a rail entry may hold (R366). -/
def voltOk (v : Nat) : Bool := decide (500 ≤ v) && decide (v ≤ 6000)

/-- One RAIL_MAPw word: values 8 to 14 count as 15 (R367). -/
def mapWord (w v : Nat) (m : Tab Nat 96) : Tab Nat 96 :=
  let f (m : Tab Nat 96) (i : Nat) : Tab Nat 96 :=
    m.updN (8 * w + i) fun _ => if wf' v (4 * i) 4 < 8 then wf' v (4 * i) 4 else 15
  (List.range 8).foldl f m

/-- DETAIL of group BOOT: kind, reason, section type. -/
def bootDetail (kind reason type : Nat) : Nat := kind + reason * 256 + type * 4096

/-- An event of group BOOT whose reason the spec does not number: the reason is open (log entry 18). -/
def bootEvent (kind type : Nat) (cls : Class) (s : State) : State :=
  let r := freshBits 4 s
  raise 41 cls (bootDetail kind r.1.toNat type) r.2

/-- A word of the rail map holds a value from 8 to 14, which counts as none (R367). -/
def mapReserved (v : Nat) : Bool := (List.range 8).any fun i => decide (8 ≤ wf' v (4 * i) 4 ∧ wf' v (4 * i) 4 < 15)

/-- Image fields of the rails (RAIL_n_*, RAIL_MAPw). -/
def imgRails (o v : Nat) (s : State) : Option State :=
  match arrayAt o 0x0C0500 4 12 with
  | some (w, 0) =>
    some (whenS (mapReserved v) (bootEvent 3 5 .minor) { s with rail.map := mapWord w v s.rail.map })
  | _ => match arrayAt o 0x0C0000 0x40 8 with
  | some (n, 0x08) =>
    some { s with rail.rail := s.rail.rail.updN n fun r => { r with
      vSet := wf' v 0 16, iLim := wf' v 16 16, entry.vDefault := wf' v 0 16 } }
  | some (n, 0x10) =>
    applyIf (decide (1 ≤ wf' v 16 8) && decide (1 ≤ wf' v 24 8) && decide (wf' v 24 8 ≤ 200))
      (modEntryOf n (fun e => { e with
        used := wb v 0, seq := wf' v 1 3, linkPrev := wb v 4, seqDelay := wf' v 8 8,
        rsense := wf' v 16 8, ssTime := wf' v 24 8 }) s)
  | some (n, 0x14) =>
    applyIf (voltOk (wf' v 0 16) && voltOk (wf' v 16 16))
      (modEntryOf n (fun e => { e with vMin := wf' v 0 16, vMax := wf' v 16 16 }) s)
  | some (n, 0x18) =>
    some (modEntryOf n (fun e => { e with kp := wf' v 0 16, ki := wf' v 16 16 }) s)
  | some (n, 0x1C) =>
    applyIf (decide (1 ≤ wf' v 24 8) && decide (wf' v 24 8 ≤ 100))
      (modEntryOf n (fun e => { e with
        kc := wf' v 0 16, retryMax := wf' v 16 4, ocTime := wf' v 24 8 }) s)
  | some (n, 0x20) =>
    applyIf (decide (100 ≤ wf' v 0 16) && decide (wf' v 0 16 ≤ 20000))
      (modEntryOf n (fun e => { e with iMax := wf' v 0 16 }) s)
  | _ => none

/-- Thresholds of a class and its ceiling, changed together (R412). -/
def imgClass (light : Bool) (f : ClassLimits → ClassLimits) (s : State) : State :=
  modClass light (fun c => { c with lim := f c.lim, ceiling := f c.ceiling }) s

/-- Image fields of power, thermal and calibration registers. -/
def imgPower (o v : Nat) (s : State) : Option State :=
  if o = 0x0D0008 then
    applyIf (decide (1 ≤ wf' v 24 8) && decide (0x048 ≤ wf' v 0 10) && decide (wf' v 0 10 ≤ 0x3B0))
      { s with pwr.wakeTimeoutMs := wf' v 24 8, pwr.imageBase := wf' v 0 10 }
  else match arrayAt o 0x0E0020 0x10 2 with
  | some (c, 0) =>
    some (imgClass (c == 1) (fun l => { l with warn := wsf v 0 16, throttle := wsf v 16 16 }) s)
  | some (c, 4) =>
    some (imgClass (c == 1) (fun l => { l with shutdown := wsf v 0 16, hShutdown := wf' v 16 8 }) s)
  | some (c, 8) =>
    some (imgClass (c == 1) (fun l => { l with hWarn := wf' v 0 8, hThrottle := wf' v 8 8 }) s)
  | _ => match arrayAt o 0x0E0100 4 24 with
  | some (k, 0) =>
    some { s with thm.sensor := s.thm.sensor.updN k fun x => { x with used := wb v 7, light := wb v 6 } }
  | _ =>
  if o = 0x0E0204 then
    applyIf (decide (0x010 ≤ wf' v 0 12) && decide (wf' v 0 12 ≤ 0xFF0) &&
        (wf' v 16 16 == 0 || decide (60 ≤ wf' v 16 16)))
      { s with thm.calDt := wf' v 0 12, thm.calMaxS := wf' v 16 16 }
  else none

/-- Image fields of the Reeve and of the Yoke. -/
def imgReeve (o v : Nat) (s : State) : Option State :=
  if o = 0x0F0018 then
    some { s with rve.irqClass := Class.ofCode (wf' v 8 2), rve.faultnClass := Class.ofCode (wf' v 10 2) }
  else if o = 0x0F002C then some { s with rve.lock := wb v 0 }
  else if o = 0x10001C then
    applyIf (decide (1 ≤ wf' v 8 16) && decide (1 ≤ wf' v 0 8))
      { s with yok.returnEn := wb v 24, yok.returnS := wf' v 8 16, yok.mismatchLimit := wf' v 0 8 }
  else match arrayAt o 0x0F0100 0x10 64 with
  | some (g, 0) =>
    applyIf (decide (1 ≤ wf' v 0 8) && decide (1 ≤ wf' v 8 8))
      { s with rve.group := s.rve.group.updN g fun x => { x with n := wf' v 0 8, rlimit := wf' v 8 8 } }
  | some (g, 4) =>
    applyIf (decide (1 ≤ wf' v 0 20) && decide (wf' v 0 20 ≤ 600000))
      { s with rve.group := s.rve.group.updN g fun x => { x with w := wf' v 0 20 } }
  | some (g, 8) =>
    applyIf (decide (wf' v 0 20 ≤ 600000))
      { s with rve.group := s.rve.group.updN g fun x => { x with q := wf' v 0 20 } }
  | _ => none

/-- BEL_SERVO, BEL_SERVO2 and BEL_CLOCK. -/
def imgBell (o v : Nat) (s : State) : Option State :=
  if o = 0x110034 then some { s with bel.kp := wf' v 0 16, bel.ki := wf' v 16 16 }
  else if o = 0x110038 then
    applyIf (decide (wf' v 30 2 ≤ 2) && decide (1 ≤ wf' v 16 14) && decide (1 ≤ wf' v 0 16))
      { s with bel.mode := modeOf (wf' v 30 2), bel.stepUs := wf' v 16 14, bel.lockNs := wf' v 0 16 }
  else if o = 0x11003C then some { s with bel.clock := BitVec.ofNat 32 v }
  else none

/-- One 32-bit word of an ETH port's image registers: offset within the port (ETH_p_*). -/
def imgEth (p : Fin 2) (o v : Nat) (s : State) : Option State :=
  match o with
  | 0x08 => some (modEth p (fun e => { e with mac := e.mac / 2 ^ 32 * 2 ^ 32 + v }) s)
  | 0x0C => some (modEth p (fun e => { e with mac := e.mac % 2 ^ 32 + wf' v 0 16 * 2 ^ 32 }) s)
  | 0x10 => some (modEth p (fun e => { e with ip := BitVec.ofNat 32 v }) s)
  | 0x14 =>
    applyIf (decide (wf' v 7 3 ≤ 5))
      (modEth p (fun e => { e with
        enabled := wb v 0, mode2500 := wb v 1, acceptUntagged := wb v 2, pcpReply := wf' v 7 3,
        vlanId := wf' v 16 12 }) s)
  | 0x18 =>
    let x := parsePtp (BitVec.ofNat 32 v)
    applyIf (!x.bad && !(x.role != 0 && ptpClash p x s)) (modEth p (fun e => { e with ptp := x }) s)
  | 0x1C => some (modEth p (fun e => { e with txDelay := wf' v 0 16, rxDelay := wf' v 16 16 }) s)
  | 0x20 => some (modEth p (fun e => { e with asym := wsf v 0 32 }) s)
  | 0x24 => some (modEth p (fun e => { e with bulkBase := wf' v 0 10, bulkLimit := wf' v 16 10 }) s)
  | _ => match arrayAt o 0x40 8 8 with
    | some (i, 0) =>
      some (modEth p (fun e => { e with
        allow := e.allow.updN i fun a => { a with addr := BitVec.ofNat 32 v } }) s)
    | some (i, 4) =>
      applyIf (decide (wf' v 0 6 ≤ 32))
        (modEth p (fun e => { e with
          allow := e.allow.updN i fun a => { a with pfx := wf' v 0 6, valid := wb v 31 } }) s)
    | _ => none

/-- Image fields of the AUX chains and of GPIO. A changed geometry starts the chain anew (R525). -/
def imgAux (o v : Nat) (s : State) : Option State :=
  if o = 0x130200 then
    some { s with gpio.dir := BitVec.ofNat 16 v, gpio.od := BitVec.ofNat 16 (v / 65536) }
  else match arrayAt o 0x130100 0x20 4 with
  | some (c, 0) =>
    let used := wb v 0
    applyIf (!used || (decide (1 ≤ wf' v 22 10) && decide (wf' v 22 10 ≤ 1000) &&
        decide (1 ≤ wf' v 18 4) && decide (8 ≤ wf' v 13 5) && decide (wf' v 13 5 ≤ 16) &&
        decide (1 ≤ wf' v 7 6) && decide (wf' v 7 6 ≤ 48) && decide (1 ≤ wf' v 1 6) &&
        decide (wf' v 1 6 ≤ 32)))
      { s with aux := s.aux.updN c fun a => { a with
          used := used, ics := wf' v 1 6, ch := wf' v 7 6, wordBits := wf' v 13 5, div := wf' v 18 4
          refreshMs := wf' v 22 10, words := List.replicate (wf' v 1 6 * wf' v 7 6) 0
          fades := [], shifting := none, prevCrc := none, latDue := false } }
  | _ => none

/-- One SETTINGS record (R517): the image fields of the register at a BAR0 offset; none where it has
none, or a field is out of range. -/
def imgReg (o v : Nat) (s : State) : Option State :=
  if o < 0x080000 then imgHost o v s
  else if o < 0x0C0000 then imgLanes o v s
  else if o < 0x0D0000 then imgRails o v s
  else if o < 0x0F0000 then imgPower o v s
  else if o < 0x110000 then imgReeve o v s
  else if o < 0x120000 then imgBell o v s
  else if o < 0x120100 then imgEth 0 (o - 0x120000) v s
  else if o < 0x120200 then imgEth 1 (o - 0x120100) v s
  else imgAux o v s

/-- A SETTINGS section: its records in order, all or none (R517). -/
def imgSettings : List (Nat × Nat) → State → Option State
  | [], s => some s
  | (o, v) :: r, s => (imgReg o v s).bind (imgSettings r)

/-- The tile map of a SETTINGS section breaks neither case of R274. -/
def mapFits (s : State) : Bool :=
  !mapTooLarge s.lpl.mapNext s && (mapDuplicate s.lpl.mapNext).isNone && !mapTooLarge (shadowMap s) s &&
    (mapDuplicate (shadowMap s)).isNone

/-- The words of a section. -/
def words (l : List Byte) : List Nat := (List.range (l.length / 4)).map fun i => hdr l (4 * i) 4

/-- The records of a SETTINGS section. -/
def settingsRecords (l : List Byte) : List (Nat × Nat) :=
  (List.range (l.length / 8)).map fun i => (hdr l (8 * i) 3, hdr l (8 * i + 4) 4)

/-- The IDENTITY section (R516). -/
def imgIdentity (l : List Byte) (s : State) : State :=
  { s with hif.vendorId := BitVec.ofNat 16 (hdr l 0 2), hif.subVendor := BitVec.ofNat 16 (hdr l 2 2)
           hif.subId := BitVec.ofNat 16 (hdr l 4 2), mgt.base := hdr l 6 1 % 16 }

/-- One entry of the LANE section: none where it is refused (R293, R294). -/
def parseLane (e : List Byte) : Option LaneEntry :=
  let b (i : Nat) : Nat := hdr e i 1
  let x : LaneEntry :=
    { used := b 0 % 2 == 1, rate := b 0 / 2 % 4, minRate := b 0 / 8 % 4, txSwing := b 1 % 16,
      preEmph := b 2 % 8, rxEq := b 3 % 16, errRetrain := b 4, mirror := b 5 % 2 == 1 }
  if x.rate = 3 ∨ x.minRate > x.rate ∨ b 0 ≥ 32 ∨ b 1 ≥ 16 ∨ b 2 ≥ 8 ∨ b 3 ≥ 16 ∨ b 5 ≥ 2 ∨
      hdr e 6 2 ≠ 0 then none
  else some x

/-- The LANE section (R293, R294): MIRROR of a port comes from its lane 4p. The entry of a lane held in DOWN
counts for nothing and raises nothing (R288). -/
def imgLaneSection (l : List Byte) (s : State) : State :=
  (List.finRange 25).foldl
    (fun s n =>
      let e := (l.drop (8 * n.val)).take 8
      match parseLane e with
      | none =>
        if laneHeld n s then modLane n (fun x => { x with entry := LaneEntry.unused }) s
        else laneEvent n 3 9 .minor (modLane n (fun x => { x with
          entry := LaneEntry.unused, reason := .badEntry }) s)
      | some x =>
        let s := modLane n (fun y => { y with entry := x, targetRate := x.rate }) s
        if n.val < 24 ∧ n.val % 4 = 0 then
          { s with link.expected := if x.mirror then s.link.expected ||| portBit n
                                    else s.link.expected &&& ~~~ portBit n }
        else s) s

/-- The LINK section (R321). -/
def imgLinkSection (l : List Byte) (s : State) : State :=
  (List.finRange 24).foldl
    (fun s n =>
      let v := hdr l n.val 1
      let m : Fin 25 := ⟨n.val, by omega⟩
      if v ≤ 4 then modLane m (fun x => { x with mode := v }) s
      else linkEvent m 0 3 .minor (modLane m (fun x => { x with mode := 0 }) s)) s

/-- One entry of the RAIL section: none where it is rejected (R366). -/
def parseRail (e : List Byte) : Option RailEntry :=
  let b (i n : Nat) : Nat := hdr e i n
  let x : RailEntry :=
    { used := b 0 1 % 2 == 1, seq := b 0 1 / 2 % 8, linkPrev := b 0 1 / 16 % 2 == 1, seqDelay := b 1 1,
      vDefault := b 2 2, vMin := b 4 2, vMax := b 6 2, iMax := b 8 2, rsense := b 10 1,
      ssTime := b 11 1, kp := b 12 2, ki := b 14 2, kc := b 16 2, retryMax := b 18 1 % 16,
      ocTime := b 19 1 }
  if voltOk x.vDefault ∧ voltOk x.vMin ∧ voltOk x.vMax ∧ x.vMin ≤ x.vDefault ∧ x.vDefault ≤ x.vMax ∧
      100 ≤ x.iMax ∧ x.iMax ≤ 20000 ∧ 1 ≤ x.rsense ∧ 1 ≤ x.ssTime ∧ x.ssTime ≤ 200 ∧
      1 ≤ x.ocTime ∧ x.ocTime ≤ 100 ∧ x.iMax * x.rsense ≤ 640000 ∧
      b 0 1 < 32 ∧ b 18 1 < 16 ∧ b 20 4 = 0 then some x
  else none

/-- The RAIL section (R366, R367). -/
def imgRailSection (l : List Byte) (s : State) : State :=
  let s := (List.finRange 8).foldl
    (fun s k =>
      match parseRail ((l.drop (24 * k.val)).take 24) with
      | none =>
        raise (23 + k.val) .minor 7
          (modRail k (fun r => { r with entry := RailEntry.unused, lastFault := 7 }) s)
      | some e => modRail k (fun r => { r with entry := e, vSet := e.vDefault, iLim := e.iMax }) s) s
  let nib (k : Nat) : Nat := hdr l (192 + k / 2) 1 / 16 ^ (k % 2) % 16
  let m : Tab Nat 96 := Vector.ofFn fun k : Fin 96 => if nib k.val < 8 then nib k.val else 15
  let s : State := { s with rail.map := m }
  if (List.range 96).any (fun k => decide (8 ≤ nib k) && decide (nib k < 15)) then
    bootEvent 3 5 .minor s
  else s

/-- One entry of the THERMAL section: none where it is refused (R408). -/
def parseRemote (e : List Byte) (x : Sensor) : Option Sensor :=
  let b0 := hdr e 0 1
  let ntc := b0 / 4 % 2 == 1
  let r25 := hdr e 2 2
  let beta := hdr e 4 2
  if b0 ≥ 8 ∨ hdr e 6 2 ≠ 0 ∨ (ntc = true ∧ (r25 < 100 ∨ beta < 1000 ∨ 10000 < beta)) then none
  else some { x with used := b0 % 2 == 1, light := b0 / 2 % 2 == 1, ntc := ntc
                     offset := sfield (BitVec.ofNat 8 (hdr e 1 1)) 0 8, r25 := r25, beta := beta }

/-- The THERMAL section (R408). -/
def imgThermalSection (l : List Byte) (s : State) : State :=
  (List.range 8).foldl
    (fun s i =>
      match parseRemote ((l.drop (8 * i)).take 8) (s.thm.sensor.at' (16 + i) (Sensor.reset 16)) with
      | none =>
        raise 12 .minor (16 + i) { s with
          thm.sensor := s.thm.sensor.updN (16 + i) fun x => { x with used := false } }
      | some x => { s with thm.sensor := s.thm.sensor.updN (16 + i) fun _ => x }) s

/-- Offsets of ETH_p's words in the NETWORK section's order (R509). -/
def ethWords : List Nat :=
  [0x08, 0x0C, 0x10, 0x14, 0x18, 0x1C, 0x20, 0x24] ++ (List.range 16).map fun i => 0x40 + 4 * i

/-- Reserved bits of ETH_p's words. -/
def ethReserved (o v : Nat) : Bool :=
  if o = 0x0C then decide (v ≥ 65536)
  else if o = 0x14 then wf' v 28 4 != 0 || wf' v 10 6 != 0 || wf' v 3 4 != 0
  else if o = 0x18 then wf' v 28 4 != 0 || wf' v 6 2 != 0
  else if o = 0x24 then wf' v 26 6 != 0 || wf' v 10 6 != 0
  else if 0x40 ≤ o ∧ o % 8 = 4 then wf' v 6 25 != 0
  else false

/-- ETH_p's 24 words, all or none (R509). -/
def imgPort (p : Fin 2) : List (Nat × Nat) → State → Option State
  | [], s => some s
  | (o, v) :: r, s => if ethReserved o v then none else (imgEth p o v s).bind (imgPort p r)

/-- The NETWORK section (R509). -/
def imgNetwork (l : List Byte) (s : State) : State :=
  let w := words l
  let bell : Bool × State := [(0x11003C, 0), (0x110034, 1), (0x110038, 2)].foldl
    (fun (x : Bool × State) (o : Nat × Nat) => match imgBell o.1 (w.getD o.2 0) x.2 with
      | some t => (x.1, t)
      | none => (true, x.2)) (false, s)
  let s := if bell.1 then bootEvent 3 7 .major bell.2 else bell.2
  (List.finRange 2).foldl
    (fun s p =>
      match imgPort p (ethWords.zip ((w.drop (3 + 24 * p.val)).take 24)) s with
      | some t => t
      | none => bootEvent 3 7 .major (modEth p (fun e => { e with enabled := false }) s)) s

/-- The records of a FLASH_LOAD section (R518). -/
def imgLoads (l : List Byte) : List FlashRec :=
  (List.range (l.length / 16)).map fun i =>
    { offset := hdr l (16 * i) 4, addr := hdr l (16 * i + 4) 4, len := hdr l (16 * i + 8) 4
      crc := BitVec.ofNat 32 (hdr l (16 * i + 12) 4) }

/-- The descriptors of a STARTUP section (R82). -/
def imgStartup (l : List Byte) : List Desc :=
  (List.range (l.length / 64)).map fun i => BitVec.ofNat 512 (hdr l (64 * i) 64)

/-- A section of a known type has a right length (R515). -/
def sectionLengthOk (type len : Nat) : Bool :=
  match type with
  | 1 => len == 8
  | 2 => len % 8 == 0
  | 3 => len == 200
  | 4 => len == 24
  | 5 => len == 240
  | 6 => len == 64
  | 7 => len == 204
  | 8 => len % 16 == 0 && decide (len ≤ 4096)
  | 9 => len % 64 == 0 && decide (len ≤ 64 * 256)
  | _ => false

/-- The sections of a configuration segment: type, data, and whether the form is right (R515); the first
number bounds them. A section that reaches past the segment ends it. -/
def sections : Nat → List Nat → List Byte → List (Nat × List Byte × Bool)
  | 0, _, _ => []
  | fuel + 1, seen, l =>
    let type := hdr l 0 1
    let len := hdr l 2 2
    if l.length < 4 ∨ type = 0 then []
    else if l.length < 4 + len then [(type, [], false)]
    else
      (type, (l.drop 4).take len, sectionLengthOk type len && !seen.contains type) ::
        sections fuel (type :: seen) (l.drop ((4 + len + 7) / 8 * 8))

/-- All sections of a segment. -/
def sectionsOf (cfg : List Byte) : List (Nat × List Byte × Bool) := sections (cfg.length / 8 + 1) [] cfg

/-- The SETTINGS section; rejected where the lane map it leaves does not fit (R515, R280). -/
def settingsSection (l : List Byte) (s : State) : Option State :=
  match imgSettings (settingsRecords l) s with
  | some t => if mapFits t then some t else none
  | none => none

/-- Apply an accepted section; none where its content rejects it (R517, R518). -/
def applySection (type : Nat) (l : List Byte) (s : State) : Option State :=
  match type with
  | 1 => some (imgIdentity l s)
  | 2 => settingsSection l s
  | 3 => some (imgLaneSection l s)
  | 4 => some (imgLinkSection l s)
  | 5 => some (imgRailSection l s)
  | 6 => some (imgThermalSection l s)
  | 7 => some (imgNetwork l s)
  | 8 => some { s with boot.loads := imgLoads l }
  | 9 => some { s with boot.startup := imgStartup l, boot.startupNext := 0 }
  | _ => none

/-- A section is rejected: absent, with a MAJOR (R515). -/
def rejectSection (type : Nat) (s : State) : State :=
  bootEvent 3 (type % 16) .major
    (if 1 ≤ type ∧ type ≤ 9 then
      { s with boot.rejected := s.boot.rejected ||| BitVec.ofNat 9 (2 ^ (type - 1)) } else s)

/-- Apply a configuration segment (R515). -/
def applySections (cfg : List Byte) (s : State) : State :=
  (sectionsOf cfg).foldl
    (fun s x =>
      match if x.2.2 then applySection x.1 x.2.1 s else none with
      | some t => t
      | none => rejectSection x.1 s) s

/-- The thresholds a class has without SETTINGS: Sarnusa's defaults for the ordering code (R412). -/
def classDefault (light : Bool) (qi : Bool) : ClassLimits :=
  if light then defaultLight
  else if qi then { defaultDie with warn := 0x690, throttle := 0x730, shutdown := 0x7D0 }
  else defaultDie

/-- Every image field at its default (R517): what a boot starts from before its sections apply. -/
def imageDefaults (s : State) : State :=
  let lane (e : LaneEntry) (l : Lane) : Lane :=
    { l with
      entry := e, targetRate := e.rate, mode := 0
      reason := if l.state = .down then l.reason else .none }
  let s : State := { s with
    hif.vendorId := 0x1EC9, hif.subVendor := 0x1EC9, hif.subId := 0, hif.hostless := false
    hif.auth := defaultAuth, mgt.base := 9
    dma.ch := s.dma.ch.mapI fun n c => { c with prio := defaultDmaPrio n.val }
    grn.scrubEn := true, grn.scrubMs := 1000, grn.regLock := false, grn.regions := defaultRegions
    lpl.map := Tab.all 96 MapEntry.reset, lpl.mapNext := Tab.all 96 MapEntry.reset
    link.lane := s.link.lane.map' (lane LaneEntry.default), link.expected := 0
    yok.lane := lane LaneEntry.unused s.yok.lane
    yok.returnEn := true, yok.returnS := 10, yok.mismatchLimit := 3
    rail.map := Tab.all 96 15
    pwr.wakeTimeoutMs := 5, pwr.imageBase := 0x3B0
    thm.calDt := 0x080, thm.calMaxS := 3600 }
  let s : State := { s with
    rail.rail := s.rail.rail.map' fun r => { r with entry := RailEntry.unused }
    thm.sensor := s.thm.sensor.mapI fun n x =>
      { x with used := decide (n.val ≤ 15), light := false, ntc := false, offset := 0, r25 := 0, beta := 0 }
    rve.faultnClass := .major, rve.irqClass := .minor, rve.lock := false
    rve.group := s.rve.group.mapI fun g x => { x with
      n := (defaultNwq g.val).1, w := (defaultNwq g.val).2.1, q := (defaultNwq g.val).2.2, rlimit := 8 }
    bel.kp := 0x00B3, bel.ki := 0x004D, bel.mode := .internal, bel.stepUs := 100, bel.lockNs := 100
    bel.clock := 0xFEF88080#32
    eth.port := s.eth.port.map' fun e => { e with
      enabled := false, mode2500 := false, acceptUntagged := false, pcpReply := 5, vlanId := 0, mac := 0
      ip := 0, ptp := PtpCfg.reset, txDelay := 0, rxDelay := 0, asym := 0, bulkBase := 0, bulkLimit := 0
      allow := Tab.all 8 ⟨false, 0, 0⟩ }
    aux := s.aux.map' fun a => { a with
      used := false, ics := 0, ch := 0, wordBits := 0, div := 1, refreshMs := 100, words := []
      fades := [], shifting := none, prevCrc := none, latDue := false }
    gpio.od := 0, gpio.dir := 0
    boot.rejected := 0, boot.loads := [], boot.startup := [], boot.startupNext := 0 }
  imgClass true (fun _ => classDefault true s.part.qi)
    (imgClass false (fun _ => classDefault false s.part.qi) s)

/-- A rail whose entry the boot left unused stays OFF (R366, R368). -/
def unusedRailsOff (s : State) : State :=
  { s with rail.rail := s.rail.rail.map' fun r =>
      if r.entry.used then r else { r.stop .off .none with vSet := r.vSet } }

/-- HOSTLESS holds the endpoint in reset: a link that has trained goes down (R81). -/
def hostlessReset (s : State) : State :=
  if s.hif.hostless then
    { s with hif.linkUp := false, hif.speed := 0, hif.width := 0, hif.d3hot := false }
  else s

/-- A boot applies its configuration segment (R515 to R517): the device is SOLO unless the yoke lane is
used (R450). -/
def applyImage (fw : BitVec 24) (cfg : List Byte) (s : State) : State :=
  let s := imageDefaults s
  let s : State := { s with
    hif.fwMajor := BitVec.ofNat 8 (field fw 16 8), hif.fwMinor := BitVec.ofNat 8 (field fw 8 8)
    hif.fwPatch := BitVec.ofNat 8 (field fw 0 8) }
  let s := hostlessReset (unusedRailsOff (applySections cfg s))
  { s with hif.configRetry := false
           yok.state := if s.yok.lane.entry.used then .seek else .solo }

end Sys2Proof.Machine
end

