-- ==== Sys2Proof/Machine/Domains.lean ====
section
/-!
DEFINITION. What a reset or a power-down of the core and Hedge domains leaves: reset values everywhere
but in the always-on domain, the Bellhouse, the Granary's contents and the image fields
(R15, R30, R31, R134, R253, R341, R379, R406, R429, R441, R449, R477, R510, R531).
-/

namespace Sys2Proof.Machine

/-- The host interface at reset; image fields stay until the next boot applies them. -/
def keepHif (h : Hif) : Hif :=
  { Hif.reset with
    vendorId := h.vendorId, subVendor := h.subVendor, subId := h.subId, fwMajor := h.fwMajor
    fwMinor := h.fwMinor, fwPatch := h.fwPatch, hostless := h.hostless, auth := h.auth }

/-- The Granary's registers at reset; its contents, check bits and repairs stay (R125, R134). The spec does
not say what becomes of the record of rewritten words, of queued rewrites and of a row copy under way
(R118, R119): they end (DESIGN CHOICE, log entry 92). -/
def keepGranary (g : Granary) : Granary :=
  { Granary.reset with
    mem := g.mem, marks := g.marks, repaired := g.repaired, initDone := g.initDone
    retention := g.retention, lost := g.lost, scrubEn := g.scrubEn, scrubMs := g.scrubMs
    regLock := g.regLock, regions := g.regions }

/-- A lane at reset, with its image fields; after a power-down (`low`) with what a warm bring-up keeps (R294,
R301). -/
def keepLane (low : Bool) (l : Lane) : Lane :=
  { Lane.reset with
    entry := l.entry, mode := l.mode
    targetRate := if low then l.targetRate else l.entry.rate
    rateDowns := if low then l.rateDowns else 0
    reason := if low && l.reason == .badEntry then .badEntry else .none }

/-- On a GLN-9612 lanes 12 to 23 are held in DOWN with REASON NO_PARTNER from POR (R288). -/
def holdLanes (small : Bool) (k : Link) : Link :=
  { k with lane := k.lane.mapI fun n l =>
      if small && decide (12 ≤ n.val) then { l with state := .down, reason := .noPartner } else l }

/-- The link at reset; after a power-down with the orientation of its ports (R301). -/
def keepLink (low : Bool) (k : Link) : Link :=
  { Link.reset with
    lane := k.lane.map' (keepLane low), expected := k.expected
    mirror := if low then k.mirror else 0, flipped := if low then k.flipped else 0 }

/-- A rail at reset, with its image fields and, where it lives on, EN (R368). -/
def keepRail (en : Bool) (r : Rail) : Rail :=
  { Rail.reset with entry := r.entry, vSet := r.vSet, iLim := r.iLim, en := en && r.en }

/-- The thermal unit at reset, with its image fields and the fuse trims in use. -/
def keepThermal (t : Thermal) : Thermal :=
  { Thermal.reset with
    sensor := t.sensor.mapI fun n x =>
      { Sensor.reset n.val with used := x.used, light := x.light, ntc := x.ntc, offset := x.offset
                                r25 := x.r25, beta := x.beta }
    die := { ThermClass.reset t.die.ceiling 3 0 with ceiling := t.die.ceiling }
    light := { ThermClass.reset t.light.ceiling 4 0x800 with ceiling := t.light.ceiling }
    calDt := t.calDt, calMaxS := t.calMaxS, trims := t.fuse, fuse := t.fuse }

/-- The Reeve at reset, with its image fields and the always-on record (R441, R442). `low` is a power-down or a wake,
which keeps the recovery counters and the latches (R439). -/
def keepReeve (low : Bool) (r : Reeve) : Reeve :=
  let copy (c : Counting) : Counting :=
    { Counting.reset with rec' := if low then c.rec' else 0, latched := low && c.latched }
  { Reeve.reset with
    group := r.group.mapI fun g x =>
      { Group.reset g.val with
        n := x.n, rlimit := x.rlimit, w := x.w, q := x.q, real := copy x.real, inj := copy x.inj }
    faultnClass := r.faultnClass, irqClass := r.irqClass, lock := r.lock
    lostAo := r.lostAo, crit := r.crit, revive := r.revive }

/-- A port at reset, with its image fields. -/
def keepEth (e : Eth) : Eth :=
  { Eth.reset with
    enabled := e.enabled, mode2500 := e.mode2500, acceptUntagged := e.acceptUntagged
    pcpReply := e.pcpReply, vlanId := e.vlanId, mac := e.mac, ip := e.ip, ptp := e.ptp
    txDelay := e.txDelay, rxDelay := e.rxDelay, asym := e.asym, bulkBase := e.bulkBase
    bulkLimit := e.bulkLimit, allow := e.allow }

/-- A chain at reset, with its image fields. -/
def keepAux (a : Aux) : Aux :=
  { Aux.reset with
    used := a.used, ics := a.ics, ch := a.ch, wordBits := a.wordBits, div := a.div
    refreshMs := a.refreshMs, words := List.replicate (a.ics * a.ch) 0 }

/-- The Hedge at reset, with its always-on record (R243, R253). `low` is a power-down or a wake, which does not
clear a self-fault (R238). -/
def keepHedge (low : Bool) (h : Hedge) : Hedge :=
  { Hedge.reset with
    activeCrc := h.activeCrc, refValid := h.refValid, selfRec := h.selfRec
    commissionLow := h.commissionLow, selfHeld := low && h.selfHeld
    heartbeat := !(low && h.selfHeld) || h.heartbeat }

/-- The Yoke at reset, with its strap, its line and its image fields. A device without a yoke lane stays
SOLO (R450; log entry 19). -/
def keepYoke (low : Bool) (y : Yoke) : Yoke :=
  { Yoke.reset with
    pri := y.pri, line := y.line, cover := y.cover, returnEn := y.returnEn, returnS := y.returnS
    mismatchLimit := y.mismatchLimit, lane := keepLane low y.lane
    state := if y.state = .solo then .solo else .seek }

/-- Boot at reset: FAIL and ACT_FAIL keep their values at SYS (R531). -/
def keepBoot (b : Boot) : Boot :=
  { Boot.reset with fail := b.fail, actFail := b.actFail }

/-- The I²C target at reset; the completion buffer lies in the always-on domain (R522). -/
def keepMgt (m : Mgt) : Mgt := { Mgt.reset with base := m.base, cbuf := m.cbuf }

/-- The power sequencer when the other domains go down: the PWR registers and CLK_STATUS stay, everything that runs
in the core domain ends (R406). Clocks stop with a power-down (`low`) and run on through a SYS reset (R488, R492). -/
def keepPower (low : Bool) (p : Power) : Power :=
  { p with
    pllEth := !low && p.pllEth, pllLane := !low && p.pllLane, pllCore := !low && p.pllCore
    hedgeOsc := !low && p.hedgeOsc, monHedge := 0, monEth := 0, monLane := 0, monCore := 0, core := false, hedge := false, serdes := false, dim := none
    dimReq := none, entry := none, start := none, cores := Cores.reset, bridge := true }

/-- Every domain but the always-on one, the Bellhouse and the Granary's arrays at reset. `en`, for a power-down
and a wake, keeps EN of the rails, a self-fault of the Hedge, and rates and orientation of the lanes. -/
def domainsReset (en : Bool) (s : State) : State :=
  { State.reset with
    pending := s.pending, now := s.now, free := s.free, out := s.out, part := s.part, nextSer := s.nextSer
    hif := keepHif s.hif
    dma := { Dma.reset with
      ch := Vector.ofFn fun n : Fin 32 => { DmaCh.reset n.val with prio := (s.dma.ch[n]).prio } }
    grn := keepGranary s.grn
    hdg := keepHedge en s.hdg
    lpl := { Lamp.reset with
      map := s.lpl.map, mapNext := s.lpl.mapNext
      old := s.lpl.buf.mapI fun b x => x.orElse fun _ => s.lpl.old[b] }
    link := holdLanes s.part.small (keepLink en s.link)
    rail := { Rails.reset with rail := s.rail.rail.map' (keepRail en), map := s.rail.map }
    pwr := keepPower en s.pwr
    thm := keepThermal s.thm
    rve := keepReeve en s.rve
    yok := keepYoke en s.yok
    bel := s.bel
    eth := { Eths.reset with port := s.eth.port.map' keepEth }
    mgt := keepMgt s.mgt
    boot := keepBoot s.boot
    aux := s.aux.map' keepAux
    gpio := { s.gpio with out := 0 }
    saved := s.saved }

/-- EXTEST, CLAMP or HIGHZ is loaded and takes effect: COMMISSION_N counts as low (R543). -/
def scanHolds (s : State) : Bool :=
  s.hdg.commissionLow && (s.pwr.tap == .extest || s.pwr.tap == .clamp || s.pwr.tap == .highz)

/-- The device is held in SYS reset by a pin or by the TAP (R543, R552, R553). -/
def sysHeld (s : State) : Bool := s.pwr.rstLow || s.pwr.testen || scanHolds s

/-- The core domain's supply is good, and nothing holds it: it leaves reset and isolation is released;
once VDD_SRAM is good as well the boot ROM reads both headers (R397, R514, R572). -/
def coreOut (s : State) : State :=
  match s.pwr.start with
  | some st =>
    let held := (st.kind == .por || st.kind == .sys) && sysHeld s
    if st.pgCore && !held && !st.waiting then
      let was := s.pwr.core
      let s := { s with
        pwr.core := true, pwr.serdes := true
        bel := if s.bel.powered then s.bel else s.bel.restart
        pwr.state := .run
        pwr.lastState := if s.pwr.state = .run then s.pwr.lastState else s.pwr.state }
      if !was && st.pgSram && st.kind != .warm then
        emitAll [.flashRead 0 256, .flashRead 0x400000 256] s
      else s
    else s
  | none => s

/-- A start sequence of a kind begins (R385, R397, R572): on a wake both regulators are enabled and the Hedge domain
powers up at once; at POR they wait for phase B; a SYS reset finds them as they are. -/
def beginStart (kind : StartKind) (s : State) : State :=
  let wake := kind == .warm || kind == .cold
  let on := wake || (kind == .sys && s.pwr.regEnCore)
  { s with
    pwr.start := some (Start.begin kind s.now)
    pwr.hedge := wake || (on && !sysHeld s)
    pwr.regEnCore := on, pwr.regEnSram := on }

/-- Phase B of a start (R385, R572): REG_EN_SRAM and REG_EN_CORE rise together, and the Hedge domain powers up. -/
def phaseB (s : State) : State :=
  match s.pwr.start with
  | some st =>
    if st.waiting || s.pwr.regEnCore then s
    else { s with pwr.regEnCore := true, pwr.regEnSram := true, pwr.hedge := !sysHeld s }
  | none => s

/-- Phase A, the first 32 kHz cycle after POR, has ended (R572). -/
def idlePhaseA (s : State) : State :=
  match s.pwr.start with
  | some st => if st.since + 31250 ≤ s.now then phaseB s else s
  | none => s

/-- VDD_CORE is good (R385). -/
def coreSupply (s : State) : Bool :=
  s.pwr.core || match s.pwr.start with
    | some st => st.pgCore
    | none => false

/-- VDD_SRAM is good, as far as a start in progress has seen it (R385). -/
def sramSupply (s : State) : Bool :=
  match s.pwr.start with
  | some st => st.pgSram
  | none => s.pwr.regEnSram

/-- SYS reset (R15, R553, R578): the device boots on release. A SYS reset while network time is not valid
restarts FRC at 0 (R492). `core` says whether VDD_CORE is good. -/
def sysStart (core : Bool) (s : State) : State :=
  let was := s.rve.lostAo
  let sram := sramSupply s
  let s := { domainsReset false s with saved := none }
  let s := { s with
    pwr.lastState := if s.pwr.state = .run then s.pwr.lastState else s.pwr.state
    pwr.state := .run, rve.revive := was, pxh.recount := true
    bel := if s.bel.valid then s.bel else { s.bel.rebase with frc := 0, frcRef := 0, offset := 0 } }
  let s := beginStart .sys (if core then s else { s with
    pwr.pllEth := false, pwr.pllLane := false, pwr.pllCore := false })
  coreOut { s with
    pwr.start := s.pwr.start.map fun x => { x with
      pgCore := core, pgSram := sram, analogue := s.pwr.analogue
      granary := s.grn.initDone && !s.grn.retention } }

/-- A hold on SYS reset begins: at once, or in a low-power state when the wake completes (R553). -/
def sysHold (s : State) : State := if supplied s then sysStart (coreSupply s) s else s

/-- A wake has completed: a hold that is still present starts a SYS reset at that moment (R553). -/
def wakeComplete (s : State) : State := if sysHeld s then sysStart true s else s

/-- SYS_RESET: SYS_RST_N has been low for 1 µs (R553). -/
def execSysReset (s : State) : Out := .next (sysHold { s with pwr.rstLow := true })

/-- A hold on SYS reset ends; without any other the device boots (R514, R543, R552, R553). -/
def sysRelease (s : State) : State :=
  if sysHeld s then s
  else coreOut (whenS s.pwr.start.isSome (fun s => { s with pwr.hedge := s.pwr.regEnCore }) s)

/-- SYS_RST_N returns high. -/
def execSysRstNRelease (s : State) : Out := .next (sysRelease { s with pwr.rstLow := false })

/-- TESTEN (R552). -/
def execTestenChange (high : Bool) (s : State) : Out :=
  .next (if high then sysHold { s with pwr.testen := true }
    else sysRelease { s with pwr.testen := false })

/-- A JTAG instruction is loaded: BYPASS in place of EXTEST, CLAMP and HIGHZ unless COMMISSION_N counts as low
(R542, R543). -/
def execJtagInstructionUpdate (i : JtagInstr) (s : State) : Out :=
  let scan := i == .extest || i == .clamp || i == .highz
  let was := scanHolds s
  let s := { s with pwr.tap := if scan && !s.hdg.commissionLow then .bypass else i }
  .next (if scanHolds s then sysHold s else if was then sysRelease s else s)

/-- COMMISSION_N counts as high: the lock is set and a staged block is discarded (R243, R245); a boundary-scan
instruction ends, BYPASS in its place (R543). -/
def execCommissionNHigh (s : State) : Out :=
  let was := scanHolds s
  let s := dropStaged { s with hdg.commissionLow := false, hdg.commNoted := false }
  .next (if was then sysRelease { s with pwr.tap := .bypass } else s)

/-- PG_CORE has been low for 1 µs (R561). -/
def execPgCoreLoss (s : State) : Out :=
  .next (whenS (s.pwr.core && supplied s) (sysStart false) s)

/-- PG_SRAM has been low for 1 µs in SLEEP (R561): the Granary has lost power, and its repairs with it
(R120). -/
def execPgSramLossInSleep (s : State) : Out :=
  .next (whenS (s.pwr.state == .sleep && s.grn.retention)
    (fun s => { s with grn.lost := true, grn.repaired := [] }) s)

/-- The supplies of the VDDIO banks in `l` (0 VDDIO_AO, 1 VDDIO_1, 2 VDDIO_2) may have risen from below 0.5 V: each
takes its level, 1.8 V or 3.3 V, anew (R548). No row tells of a supply, so the level is free (log entry 125). -/
def riseIo (l : List Nat) (s : State) : State :=
  { s with
    pwr.io33 := s.pwr.io33.mapI fun k x => if l.contains k.val then Config.freeBool (s.free + k.val) else x
    free := s.free + 3 }

/-- POR (R15, R551, R561): everything resets, the straps are sampled; pin levels and fuses stay. -/
def execPor (yokePri : Bool) (addr : BitVec 3) (s : State) : Out :=
  let p : Power := { Power.reset with
    perstLow := s.pwr.perstLow, rstLow := s.pwr.rstLow, testen := s.pwr.testen, io33 := s.pwr.io33
    wakeHigh := s.pwr.wakeHigh }
  let t : State := { State.reset with
    pending := s.pending, now := s.now, free := s.free, out := s.out
    part := { s.part with addr := addr }
    link := holdLanes s.part.small Link.reset
    pwr := p, yok.pri := yokePri, yok.line := s.yok.line, gpio.inp := s.gpio.inp
    thm := keepThermal { Thermal.reset with fuse := s.thm.fuse } }
  .next (beginStart .por (riseIo [0, 1, 2] t))

end Sys2Proof.Machine
end

