-- ==== Sys2Proof/Machine/Boot.lean ====
section
/-!
DEFINITION. Boot and flash (spec/19_management_aux.md R511 to R521, spec/23_bringup.md R572 to R579):
the boot ROM, the start phases F to K, FLASH_LOAD, the commissioning record, FW_STAGE, Hedge power-up.
-/

namespace Sys2Proof.Machine

/-- Bytes of an image slot (R511). -/
def slotBytes : Nat := 0x400000

/-- Every header field lies in its range and both segments lie inside the slot (R512, R513). -/
def headerOk (h : List Byte) : Bool :=
  let f (o n : Nat) : Nat := hdr h o n
  decide (256 ≤ h.length) && f 0 2 == 0x4D49 && f 2 1 == 1 && f 3 1 % 4 != 3 && f 4 4 != 0 &&
    f 4 4 != 0xFFFFFFFF && decide (f 11 1 ≤ 63) && f 12 4 % 256 == 0 && f 20 4 % 8 == 0 &&
    decide (f 12 4 + f 16 4 ≤ slotBytes) && decide (f 20 4 + f 24 4 ≤ slotBytes)

/-- The first check of R513 that an image fails: 0 none, 1 header, 2 FW_SIG, 3 CFG_SIG or owner key,
4 rollback. With blank fuses the checks on the owner key are skipped. -/
def imageFault (h : List Byte) (fwSigOk cfgSigOk keyOk : Bool) (s : State) : Nat :=
  if !headerOk h then 1
  else if !fwSigOk then 2
  else if hdr h 11 1 < s.part.rollback then 4
  else if s.part.ownerKey.isSome && !(cfgSigOk && keyOk) then 3
  else 0

/-- The fault of a slot the boot ROM reads. -/
def slotFault (x : SlotIn) (s : State) : Nat :=
  imageFault x.header x.fwSigOk x.cfgSigOk (s.part.ownerKey == some x.keyHash) s

/-- What the device keeps of a slot. -/
def slotOfIn (x : SlotIn) (s : State) : Slot :=
  { valid := slotFault x s == 0, gen := hdr x.header 4 4, rollback := hdr x.header 11 1
    fwVersion := BitVec.ofNat 24 (hdr x.header 8 3) }

/-- The copy with the higher SEQ (R521). -/
def newerRec (a b : Option RecCopy) : Option RecCopy :=
  match a, b with
  | some x, some y => if x.seq < y.seq then some y else some x
  | some x, none => some x
  | none, y => y

/-- A start-up command has started and not completed. -/
def startupRuns (s : State) : Bool :=
  s.running.any fun (c : Cmd) => match c.src with
    | .startup _ => true
    | _ => false

/-- Phase K: with the record judged, flash loaded and the STARTUP list done, ports are served (R572). -/
def advanceStart (s : State) : State :=
  match s.pwr.start with
  | none => s
  | some st =>
    if st.kind != .warm && st.restored && st.record && st.granary && s.boot.loads.isEmpty &&
        decide (s.boot.startup.length ≤ s.boot.startupNext) && !startupRuns s && coresUp s then
      { s with pwr.start := none, pwr.cores.served := true }
    else s

/-- Phase H: the next FLASH_LOAD record is read, once phase D has finished (R518, R572). -/
def readLoad (s : State) : State :=
  let ready : Bool := match s.pwr.start with
    | some st => st.restored && st.granary
    | none => false
  match s.boot.loads with
  | r :: _ => if ready then emit (.flashRead r.offset r.len) s else s
  | [] => s

/-- Neither slot is valid (R514): the cores stay in reset; the Hedge keeps BLANK. -/
def bootFails (a b : Nat) (s : State) : State :=
  let s := { s with
    boot.fail := true
    pwr.start := s.pwr.start.map fun x => { x with record := true } }
  raise 41 .major (bootDetail 2 b 0) (raise 41 .major (bootDetail 1 a 0) s)

/-- The image of a slot runs (phase F of R572): its sections apply, lanes start once their PLL is
locked, latch points begin, and network time is settled: the ports have come out of reset with no time source
(R499). -/
def bootRuns (second : Bool) (img : ImageIn) (s : State) : State :=
  let slot := if second then s.boot.b else s.boot.a
  let cfg := if second then img.cfgB else img.cfgA
  let s := applyImage slot.fwVersion cfg s
  let s := { s with
    boot.slot := second, boot.fail := false, boot.openKey := s.part.ownerKey.isNone
    boot.rec0 := img.rec0, boot.rec1 := img.rec1, boot.record := newerRec img.rec0 img.rec1
    pwr.cores := { Cores.reset with up := true }
    pwr.start := s.pwr.start.map fun x => { x with restored := true }
    lpl.lastLatch := s.now, saved := none, pxh.recount := true, thm.trigger := some (0x1F, none) }
  let s := if s.pwr.pllLane then startLanes false s else s
  readLoad (settleFree s)

/-- A wake has succeeded (R401, PWR_COUNT.WAKES); a hold that is still there acts now (R553). -/
def wakeSucceeds (s : State) : State :=
  wakeComplete { s with
    pwr.wakeFail := false, pwr.failStep := 0, pwr.wakes := bump 65535 1 s.pwr.wakes }

/-- The boot ROM has finished (R514): of two valid slots the higher GENERATION runs; a slot that was to run
and failed is recorded. -/
def bootImage (img : ImageIn) (s : State) : State :=
  let fa := slotFault img.a s
  let fb := slotFault img.b s
  let a := slotOfIn img.a s
  let b := slotOfIn img.b s
  let s := { s with boot.a := a, boot.b := b }
  if fa ≠ 0 ∧ fb ≠ 0 then bootFails fa fb s
  else
    let second := fa != 0 || (fb == 0 && decide (a.gen < b.gen))
    let other := if second then a else b
    let own := if second then b else a
    let fault := if second then fa else fb
    let s := if fault > 1 ∧ own.gen ≤ other.gen then
        raise 41 .major (bootDetail (if second then 1 else 2) fault 0) s
      else s
    let cold : Bool := match s.pwr.start with
      | some st => st.kind == .cold
      | none => false
    let s := bootRuns second img s
    if cold then wakeSucceeds s else s

/-- BOOT_IMAGE_LOADED. -/
def execBootImageLoaded (img : ImageIn) (s : State) : Out :=
  let runs : Bool := match s.pwr.start with
    | some st => st.pgCore && st.pgSram && !st.restored && !st.record && st.kind != .warm
    | none => false
  .next (whenS (s.pwr.core && runs) (bootImage img) s)

/-- Where the first word of a FLASH_LOAD record's range lies that the control cores may not write under R109, if one
does; only a range that lies in slot 7 passes the write gate (R518, R575). -/
def loadDenied (a n : Nat) (s : State) : Option Nat :=
  let l := blocksOf a n
  (l.find? fun blk => decide (blk < 0x48) || decide (0x400 ≤ blk) || !blockGrants s permCoreW blk ||
    (inSlot7 blk && !l.all inSlot7)).map fun blk => max a (blk * 65536)

/-- A FLASH_LOAD record meets a denied word (R110): recorded where the Granary has that address, which ADDR can hold
(log entry 138). -/
def loadViolation (a : Nat) (s : State) : State :=
  if a < grnSize then violation .cores true a .minor s else s

/-- A FLASH_LOAD record's data arrived (R518): written, or its range is left undefined. -/
def loadRecord (r : FlashRec) (data : Option (List Byte)) (s : State) : State :=
  let fails (s : State) : State := bootEvent 4 8 .major (scramble r.addr r.len s)
  match data with
  | none => fails s
  | some l =>
    if r.len % 8 ≠ 0 ∨ r.len > 0x1000000 ∨ l.length ≠ r.len ∨ Env.crc32c l ≠ r.crc then fails s
    else if let some a := loadDenied r.addr r.len s then fails (loadViolation a s)
    else
      let x := grnWrite .cores r.addr l .none s
      if x.1 then x.2 else fails x.2

/-- FLASH_LOAD_RECORD_DONE. -/
def execFlashLoadRecordDone (data : Option (List Byte)) (s : State) : Out :=
  let runs : Bool := match s.pwr.start with
    | some st => st.restored && st.granary
    | none => false
  .next (whenS (coresUp s && runs)
    (fun s =>
      match s.boot.loads with
      | [] => s
      | r :: rest =>
        let s := loadRecord r data s
        advanceStart (readLoad { s with boot.loads := rest })) s)

/-- The record's block judged at Hedge power-up (R246, R253): the block, or the kind of event. -/
def judgeRecord (s : State) : Except Nat (List Byte × Word) :=
  match s.boot.record with
  | none => .error 8
  | some r =>
    let crc := Env.crc32c r.block
    let ref := if s.hdg.refValid then s.hdg.activeCrc else r.crc
    if crc ≠ ref then .error 7
    else if (Env.check r.block (laneCount s)).isSome then .error 9
    else .ok (r.block, crc)

/-- The Hedge powers up with a block or with the uncommissioned envelope (R246, R247, R577, R579). -/
def hedgePowerUp (s : State) : State :=
  let s : State := match judgeRecord s with
    | .ok (b, crc) => activateBlock (.block b) crc s
    | .error k =>
      raise 0 .major (hedgeDetail 0 k s.lpl.composing)
        (activateBlock .uncommissioned s.hdg.activeCrc s)
  let s := { s with
    hdg.activeAt := s.now, hdg.graceOver := false, hdg.judgedLate := false
    pwr.start := s.pwr.start.map fun x => { x with record := true } }
  advanceStart (sendHello (evalInputs (noteCommission s)))

/-- HEDGE_POWER_UP: phase G, or step 8 of a wake from SLEEP. -/
def execHedgePowerUp (s : State) : Out :=
  let runs : Bool := match s.pwr.start with
    | some st => st.restored && !st.record
    | none => false
  .next (whenS (s.pwr.core && s.pwr.hedge && runs) hedgePowerUp s)

/-- The copy a record write goes to: the one that does not hold the higher valid SEQ (R521). -/
def recTarget (b : Boot) : Bool :=
  match b.rec0, b.rec1 with
  | some x, some y => decide (y.seq ≤ x.seq)
  | some _, none => true
  | none, _ => false

/-- Bytes of a record in flash (R521). -/
def recBytes (seq : Nat) (w : RecWrite) : List Byte :=
  leBytes 2 0x5243 ++ leBytes 2 0 ++ leBytes 4 seq ++ leBytes 4 w.crc.toNat ++ leBytes 4 0 ++ w.block

/-- The SEQ a record write carries: one above the higher valid SEQ; open for the first (log entry 21). -/
def recSeq (s : State) : Nat × State :=
  match newerRec s.boot.rec0 s.boot.rec1 with
  | some r => ((r.seq + 1) % 2 ^ 32, s)
  | none => let x := freshBits 32 s; (x.1.toNat, x.2)

/-- A record write ends (R521). -/
def recordWritten (ok : Bool) (s : State) : State :=
  match s.boot.writes with
  | [] => s
  | w :: rest =>
    let second := recTarget s.boot
    let x := recSeq s
    let base := if second then 0x810000 else 0x800000
    let s := emit (.flashErase base) { x.2 with boot.writes := rest }
    let put (r : Option RecCopy) (s : State) : State :=
      if second then { s with boot.rec1 := r } else { s with boot.rec0 := r }
    if ok then
      emit (.flashWrite base (recBytes x.1 w)) (put (some ⟨x.1, w.crc, w.block⟩) s)
    else
      let keep := freshBool s
      let s := if keep.1 then keep.2 else put none keep.2
      bootEvent 5 0 .major { s with boot.recFail := true }

/-- COMMISSIONING_RECORD_WRITE_DONE. -/
def execCommissioningRecordWriteDone (ok : Bool) (s : State) : Out :=
  .next (whenS (coresUp s) (recordWritten ok) s)

/-- Change the slot not in use. -/
def modOtherSlot (f : Slot → Slot) (s : State) : State :=
  if s.boot.slot then { s with boot.a := f s.boot.a } else { s with boot.b := f s.boot.b }

/-- The running slot, and the one not in use. -/
def ownSlot (s : State) : Slot := if s.boot.slot then s.boot.b else s.boot.a
/-- The slot not in use. -/
def otherSlot (s : State) : Slot := if s.boot.slot then s.boot.a else s.boot.b

/-- Where the slot not in use starts in flash (R511). -/
def otherBase (s : State) : Nat := if s.boot.slot then 0 else slotBytes

/-- FW_STAGE (R519). -/
def fwStageBody : Body :=
  { check := fun c s => firstFail
      [ (c.f 16 0 64 % 8 != 0 || decide (c.f 24 0 32 < 1024) || decide (c.f 24 0 32 > slotBytes) ||
          (c.b 8 0 && s.hif.hostless), stField),
        (s.boot.stage.isSome, 0x01C3#16) ]
    run := fun c s =>
      let n := c.f 24 0 32
      let x := lineXfer (c.f 16 0 64) (c.b 8 0) n 0 false n n 1
      askTransfer (cmdJob c x true)
        { s with boot.stage := some { cmd := c, slot := !s.boot.slot, rollback := 0, fwVersion := 0, img := [] } } }

/-- FW_STAGE. -/
def execFwStage (src : Src) (d : Desc) (s : State) : Out := .next (runRow 0x50 fwStageBody src d s)

/-- The copy of an image has ended: its signatures are checked next. -/
def stageImage (img : List Byte) (s : State) : State :=
  { s with boot.stage := s.boot.stage.map fun x => { x with img := img } }

/-- The form of an image's sections is right (R515, R519). -/
def imageSectionsOk (img : List Byte) : Bool :=
  (sectionsOf ((img.drop (hdr img 20 4)).take (hdr img 24 4))).all fun x => x.2.2

/-- The first check of R513 and R515 that a staged image fails; 0 none, 5 sections. -/
def stageFault (img : List Byte) (fwSigOk cfgSigOk : Bool) (s : State) : Nat :=
  let f := imageFault img fwSigOk cfgSigOk true s
  if f ≠ 0 then f
  else if hdr img 12 4 + hdr img 16 4 ≤ img.length ∧ hdr img 20 4 + hdr img 24 4 ≤ img.length ∧
      imageSectionsOk img then 0
  else 5

/-- Erases of the 64 blocks of 64 KiB of a slot (R511). -/
def eraseSlot (base : Nat) : List Emit :=
  (List.range 64).map fun i => .flashErase (base + 0x10000 * i)

/-- The staging steps after the copy have ended (R519). -/
def stageDone (fwSigOk cfgSigOk flashOk : Bool) (s : State) : State :=
  match s.boot.stage with
  | none => s
  | some j =>
    if j.img.isEmpty then s
    else
      let s := { s with boot.stage := none }
      let fault := stageFault j.img fwSigOk cfgSigOk s
      if fault ≠ 0 then finish j.cmd 0x01C0#16 (resAt 16 fault) s
      else
        let base := otherBase s
        let gen := ((ownSlot s).gen + 1) % 2 ^ 32
        let head := j.img.take 4 ++ leBytes 4 gen ++ (j.img.take 256).drop 8
        let s := emitAll (eraseSlot base ++ [.flashWrite (base + 256) (j.img.drop 256)])
          (modOtherSlot (fun x => { x with valid := false }) s)
        if flashOk then
          finishOk j.cmd (emitAll [.flashWrite base head, .flashRead base j.img.length]
            (modOtherSlot (fun _ =>
              { valid := true, gen := gen, rollback := hdr j.img 11 1
                fwVersion := BitVec.ofNat 24 (hdr j.img 8 3) }) s))
        else finish j.cmd 0x01C1#16 0 s

/-- FW_STAGE_FLASH_DONE. -/
def execFwStageFlashDone (fwSigOk cfgSigOk flashOk : Bool) (s : State) : Out :=
  .next (whenS (coresUp s) (stageDone fwSigOk cfgSigOk flashOk) s)

end Sys2Proof.Machine
end

