-- ==== Sys2Proof/Machine/Cores.lean ====
section
/-!
DEFINITION. LIGHT_HOLD and firmware activation (spec/01_architecture.md R35 to R41, R520).
-/

namespace Sys2Proof.Machine

/-- The rails with EN = 1 restart in sequence (R371, R388); a sequenced stop under way ends. -/
def rerunRails (s : State) : State :=
  let s := { s with rail.seqs := s.rail.seqs.filter fun q => q.start }
  let on := railMask s fun r => r.entry.used && r.en && r.state != .latched
  let m := on &&& railMask s fun r => r.state == .off || r.state == .softStop
  settleRails (seqStart on m s)

/-- Every lane makes a warm bring-up (R301, R388): those in OFF start, and those still READY train again. -/
def rerunLanes (s : State) : State :=
  startLanes true ((laneList s).foldl (fun s n =>
    if (s.link.lane[n]).state = .ready then enterDetect (Fin.castSucc n) true 0 s else s) s)

/-- A low-power entry that has not reached its commit point is given up: rails and lanes start again, and
LATs resume under the rule of the wake frame (R388, R398). -/
def undoEntry (s : State) : State :=
  let st : Start := { Start.begin .warm s.now with
    pgCore := true, pgSram := true, analogue := true, granary := true, restored := true, record := true }
  rerunLanes (rerunRails { s with pwr.entry := none, pwr.start := some st })

/-- Entry to LIGHT_HOLD from RUN or DIM (R35, R37): the cores stop, DMA channels stop. A low-power entry under
way stands still, and no lane changes state (R306): it ends with the return to service (log entry 109). -/
def enterHold (s : State) : State :=
  dmaStopAll (abandonCal { s with
    pwr.cores := { s.pwr.cores with up := false, holdFrom := some s.pwr.state, attempts := 0 }
    pwr.lastState := s.pwr.state, pwr.state := .lightHold })

/-- A cause of LIGHT_HOLD arises (R35): in RUN or DIM, with the cores running and no low-power entry past
its commit point. -/
def mayHold (s : State) : Bool :=
  coresUp s && (s.pwr.state == .run || s.pwr.state == .dim) &&
    match s.pwr.entry with
    | some e => !e.committed
    | none => true

/-- DETAIL of group CORES: the cause and the frame number (R432). -/
def coresDetail (cause : Nat) (s : State) : Nat := cause + s.lpl.composing.toNat * 65536

/-- CORE_RESET. -/
def execCoreReset (s : State) : Out := .next (whenS (mayHold s) enterHold s)

/-- LOCKSTEP_MISMATCH. -/
def execLockstepMismatch (s : State) : Out :=
  .next (whenS (mayHold s) (fun s => enterHold (raise 3 .major (coresDetail 1 s) s)) s)

/-- WATCHDOG_EXPIRY. -/
def execWatchdogExpiry (s : State) : Out :=
  .next (whenS (mayHold s) (fun s => enterHold (raise 3 .major (coresDetail 2 s) s)) s)

/-- Serial numbers of the commands that outlive the cores: their commit has been seen, their launch armed
or their confirmation accepted (R38, R39). -/
def outlives (s : State) : List Nat :=
  let plane : List Cmd := match s.pho.plane with
    | some (.staged b) => if s.lpl.shadow.contains (.plane b) then [] else s.pho.planeCmd.toList
    | _ => s.pho.planeCmd.toList
  let confirmed : List Cmd := match s.hdg.confirmed with
    | some k => k.cmds
    | none => []
  (s.lpl.waits.map fun w => w.cmd.ser) ++ (s.lpl.mapWait.map fun w => w.cmd.ser) ++
    (s.lpl.taken.map fun w => w.cmd.ser) ++
    (s.lpl.launches.map fun l => l.cmd.ser) ++
    (s.lpl.timingWait.map fun w => w.cmd.ser) ++ (plane.map fun c => c.ser) ++
    (confirmed.map fun c => c.ser)

/-- A coefficient load that is interrupted leaves its bank INVALID (R187). -/
def kernelStops (c : Cmd) (s : State) : State :=
  match layerOf c with
  | some n => modBank n (clBank c) (fun x => { x with state := .invalid }) s
  | none => s

/-- What an interrupted command leaves beside its unshadowed effects (R38, R162, R187, R519). -/
def interrupted (s : State) (c : Cmd) : State :=
  let s := match c.opcode with
    | 0x13 =>
      if (s.cmp.sym[symId c]).state = .loading then
        modSym (symId c) (fun e => { e with state := .invalid }) s
      else s
    | 0x50 =>
      let begun : Bool := match s.boot.stage with
        | some j => !j.img.isEmpty
        | none => false
      let s := { s with boot.stage := none }
      if begun then modOtherSlot (fun x => { x with valid := false }) s else s
    | 0x14 => if s.kernels.any fun k => k.ser == c.ser then kernelStops c s else s
    | _ => s
  complete c stInterrupted 0 0 s

/-- What is left of a job whose command has been interrupted: a channel that is still finishing its
descriptor (R95). -/
def deadJob (s : State) (j : DmaJob) : Option DmaJob :=
  match j.ch with
  | some k => if (s.dma.ch[k]).state.active then some { j with dead := true } else none
  | none => none

/-- Shadow writes, mask updates and jobs of the firmware that the cores take no further (R38). -/
def dropUnseen (s : State) : State :=
  let plane : Bool := match s.pho.plane with
    | some (.staged b) => s.lpl.shadow.contains (.plane b)
    | _ => false
  { s with
    lpl.shadow := [], lpl.shadowAt := .gone, maskQ := [], jobs := s.jobs.filterMap (deadJob s), kernels := []
    marchCmd := none, tst.job := none
    pxh.sets := [], rail.jobs := [], yok.jobs := [], rve.injects := []
    pho.plane := if plane then none else s.pho.plane
    pho.planeCmd := if plane then none else s.pho.planeCmd }

/-- The channel of a job was stopped, or is stopping (R95). -/
def jobStopped (j : DmaJob) (s : State) : Bool :=
  match j.ch with
  | some k => (s.dma.ch[k]).state == .stopped || (s.dma.ch[k]).stopReq
  | none => false

/-- Commands whose transfer has been stopped complete with INTERRUPTED (R38, R97). -/
def endStopped (s : State) : State :=
  let gone := s.jobs.filter fun j => jobStopped j s
  gone.foldl (fun s j => interrupted s j.cmd) { s with
    jobs := s.jobs.filterMap fun j => if jobStopped j s then deadJob s j else some j }

/-- The completion held for the I²C target is written (R37, R523). -/
def deliverLate (s : State) : State :=
  match s.mgt.late with
  | some b => { s with mgt.late := none, mgt.busy := false, mgt.cbuf := b }
  | none => s

/-- The staged firmware is in service (R520): the slots change places, BURN raises the fuses. -/
def activated (burn : Bool) (s : State) : State :=
  let x := otherSlot s
  let s := { s with
    boot.slot := !s.boot.slot
    hif.fwMajor := BitVec.ofNat 8 (field x.fwVersion 16 8)
    hif.fwMinor := BitVec.ofNat 8 (field x.fwVersion 8 8)
    hif.fwPatch := BitVec.ofNat 8 (field x.fwVersion 0 8) }
  let s := raise 3 .note (coresDetail 3 s) s
  if burn ∧ s.part.rollback < x.rollback then
    emit (.fuse x.rollback) { s with part.rollback := x.rollback }
  else s

/-- The firmware returns to service (R38, R40). -/
def returnToService (s : State) : State :=
  let keep := outlives s
  let back := s.pwr.cores.holdFrom.getD .run
  let act := s.pwr.cores.activating
  let s := { s with
    pwr.cores := { s.pwr.cores with up := true, holdFrom := none, attempts := 0, activating := none }
    pwr.lastState := s.pwr.state, pwr.state := back }
  let s := match act with
    | some burn => activated burn s
    | none => s
  let s := if s.pwr.entry.isSome then undoEntry s else s
  let gone := s.running.filter fun c => !keep.contains c.ser
  let s := dropUnseen (gone.foldl interrupted s)
  let s := if s.eth.syncLate then loseLock 2 ((sourcePort s).getD 0) { s with eth.syncLate := false } else s
  let s := { s with hif.sq := s.hif.sq.map' fun q => { q with
    asked := 0, dbAsked := none, fetched := [], behind := [], rereads := 0 } }
  let s := (List.finRange 16).foldl (fun s n => requestEntries n s) (deliverLate s)
  advanceStart (drainQueue 1 (drainQueue 0 s))

/-- FIRMWARE_RETURN_TO_SERVICE. -/
def execFirmwareReturnToService (s : State) : Out :=
  .next (whenS (s.pwr.core && s.pwr.state == .lightHold && !s.pwr.cores.up && !s.pwr.cores.stuck)
    returnToService s)

/-- A restart failed (R40, R520): the third failure holds the cores; a failed activation goes back to the
previous slot for the third attempt. -/
def restartFailed (s : State) : State :=
  let n := s.pwr.cores.attempts + 1
  let s := { s with pwr.cores.attempts := n }
  let s : State := if n = 2 ∧ s.pwr.cores.activating.isSome then
      bootEvent 6 0 .major (emit (.flashErase (otherBase s))
        (modOtherSlot (fun x => { x with valid := false })
          { s with pwr.cores.activating := none, boot.actFail := true }))
    else s
  if n ≥ 3 then raise 3 .critical (coresDetail 4 s) { s with pwr.cores.stuck := true } else s

/-- FIRMWARE_RESTART_TIMEOUT. -/
def execFirmwareRestartTimeout (s : State) : Out :=
  .next (whenS (s.pwr.core && s.pwr.state == .lightHold && !s.pwr.cores.up && !s.pwr.cores.stuck)
    restartFailed s)

/-- FW_ACTIVATE (R520). -/
def fwActivateBody : Body :=
  { check := fun _ s => firstFail
      [ (s.boot.stage.isSome, 0x01C3#16),
        (!(otherSlot s).valid || decide ((otherSlot s).gen ≤ (ownSlot s).gen), 0x01C2#16) ]
    run := fun c s =>
      let s := finishOk c s
      enterHold { s with pwr.cores.activating := some (c.b 8 0) } }

/-- FW_ACTIVATE. -/
def execFwActivate (src : Src) (d : Desc) (s : State) : Out := .next (runRow 0x51 fwActivateBody src d s)

end Sys2Proof.Machine
end

