-- ==== Sys2Proof/Machine/Power.lean ====
section
/-!
DEFINITION. Power states, low-power entry and wake (spec/14_power_wake.md).
-/

namespace Sys2Proof.Machine

/-- TARGET of a POWER_REQUEST as a state. -/
def prTarget (c : Cmd) : PState :=
  match c.f 8 0 3 with
  | 1 => .dim
  | 2 => .sleep
  | 3 => .nightwatch
  | 4 => .dormant
  | _ => .run

/-- The wake sources a state allows (table Wake sources). -/
def wakeAllowed (t : PState) (keepTime : Bool) : BitVec 6 :=
  match t with
  | .sleep => if keepTime then 0x37#6 else 0x27#6
  | .nightwatch => 0x2F#6
  | .dormant => 0x27#6
  | _ => 0#6

/-- R404: a field the TARGET uses is out of range. -/
def prBad (c : Cmd) : Bool :=
  let en : BitVec 6 := BitVec.ofNat 6 (c.f 9 0 6)
  match c.f 8 0 3 with
  | 0 => false
  | 1 =>
    decide (c.f 12 0 32 < 500000) || decide (c.f 12 0 32 > 20000000) || decide (c.f 16 0 32 < 8000) ||
      decide (c.f 16 0 32 + 491520 > c.f 12 0 32)
  | 2 => en == 0 || en &&& ~~~ wakeAllowed .sleep (c.b 8 3) != 0
  | 3 =>
    en == 0 || en &&& ~~~ wakeAllowed .nightwatch false != 0 || c.f 21 0 4 == 0 ||
      decide (c.f 21 4 3 > 5) || decide (c.f 24 0 32 < 10) || decide (c.f 24 0 32 > 60000) ||
      !decide (c.s 34 0 16 < c.s 32 0 16)
  | 4 => en == 0 || en &&& ~~~ wakeAllowed .dormant false != 0
  | _ => true

/-- What a DIM or a RUN asks for: RUN gives back what DIM saved, DIM keeps what was before it
(R390, R391). -/
def dimAsked (c : Cmd) (s : State) : DimReq :=
  if c.f 8 0 3 = 0 then { cmd := c, dim := none }
  else
    let (t, r) : Timing × Tab Nat 24 := match s.pwr.dim with
      | some d => (d.saved, d.savedRates)
      | none => (s.lpl.timing, s.link.lane.map' fun l => budgetRate l)
    { cmd := c
      dim := some { period := c.f 12 0 32, vbi := c.f 16 0 32, rate := c.f 20 0 2, saved := t, savedRates := r } }

/-- The timing a DIM or a RUN stages (R390, R391). -/
def dimTiming (q : DimReq) (s : State) : Timing :=
  match q.dim, s.pwr.dim with
  | some d, _ => { s.lpl.timing with
      source := if s.lpl.timing.source = .network then .network else .free
      period := d.period, vbi := d.vbi }
  | none, some d => d.saved
  | none, none => s.lpl.timing

/-- WRONG_STATE of R404: RUN from RUN, or the DIM parameters in force. -/
def prState (c : Cmd) (s : State) : Bool :=
  match c.f 8 0 3 with
  | 0 => s.pwr.state == .run
  | 1 => match s.pwr.dim with
    | some d => d.period == c.f 12 0 32 && d.vbi == c.f 16 0 32 && d.rate == c.f 20 0 2
    | none => false
  | _ => false

/-- LANE_BUDGET of R391, R405. -/
def prBudget (c : Cmd) (s : State) : Option (Nat × Nat × Nat) :=
  if c.f 8 0 3 ≥ 2 then none
  else
    let q := dimAsked c s
    budgetFault (fun n => dimLaneRate q n s) (dimTiming q s).active (shadowMap s) s

/-- DIM, or RUN from DIM: the timing is staged and its commit issued (R390). -/
def askDim (c : Cmd) (s : State) : State :=
  let q := dimAsked c s
  let s := issueCommit (shadowAll [.timing (dimTiming q s)] { s with pwr.dimReq := some q })
  { s with lpl.waits := s.lpl.waits ++ [⟨c, s.yok.own.commits, stSuccess, 0⟩] }

/-- The registers a low-power request sets (PWR_WAKE.EN, PWR_NW_*). -/
def lowRegs (c : Cmd) (s : State) : State :=
  let s := { s with pwr.wakeEn := BitVec.ofNat 6 (c.f 9 0 6) }
  if c.f 8 0 3 = 3 then
    { s with
      pwr.nwDebounce := c.f 21 0 4, pwr.nwAmbCh := c.f 21 4 3, pwr.nwPeriod := c.f 24 0 32
      pwr.ambLow := c.f 28 0 12, pwr.ambHigh := c.f 30 0 12, pwr.tempHigh := c.s 32 0 16
      pwr.tempLow := c.s 34 0 16, pwr.nwOutside := 0 }
  else if c.f 8 0 3 = 2 then { s with pwr.keepTime := c.b 8 3 }
  else s

/-- The completion of a low-power request (step 7 of R387): to host memory, although step 3 has brought the link down
and disabled the ring, where its completion ring has room (R56), or to wherever the request came from. -/
def entryCpl (e : LowEntry) (st : BitVec 16) (s : State) : State :=
  let c := e.cmd
  let t := complete c st 0 0 s
  match c.src with
  | .ring n =>
    let q := (s.hif.sq[n]).cq
    if e.step != .engines || (c.quiet && st == stSuccess) || cqNoRoom q s then t
    else putCpl q ⟨c.src, c.cmdId, BitVec.ofNat 8 c.opcode, st, 0, 0⟩ t
  | _ => t

/-- A background write that can be made has not landed. -/
def writeOwed (s : State) : Bool :=
  s.pxh.writes.any fun w => writeReady s w && markOf s ((s.pho.planeBase + 8 * w.pixel) / 8) != some .double

/-- Steps 3 and 4 of a low-power entry (R387), once the rails' sequenced stop has ended: lanes and link go down, the
DMA channels stop, the rings fetch no more. The entry's own completion is not discarded with those of R44. -/
def engineStop (s : State) : State :=
  match s.pwr.entry with
  | some e =>
    if e.step != .rails || !coresUp s || s.rail.rail.some' Rail.switching then s
    else
      let c := (findRunning e.cmd.ser s).getD e.cmd
      dmaStopAll (linkLost (lanesOff { s with pwr.entry := some { e with cmd := c, step := .engines } }))
  | none => s

/-- Steps 1 to 4 have ended: no channel moves data, and every write has landed (R132). -/
def lowReady (e : LowEntry) (s : State) : Bool :=
  e.step == .engines && !writeOwed s && s.dma.ch.every fun c => !c.state.active

/-- GRN_VIOL and GRN_ECC_LAST. -/
def grnLast (g : Granary) : GrnLast :=
  { violMaster := g.violMaster, violWrite := g.violWrite, violAddr := g.violAddr, lastSyndrome := g.lastSyndrome
    lastMaster := g.lastMaster, lastType := g.lastType, lastAddr := g.lastAddr }

/-- What the wake image holds (R389). -/
def saveImage (s : State) : Saved :=
  { hif := s.hif, grn := grnLast s.grn, cmp := s.cmp, pho := s.pho, lpl := s.lpl, pxh := s.pxh, thm := s.thm, rve := s.rve
    yok := s.yok, eth := s.eth, aux := s.aux, crcu := s.crcu, gpio := s.gpio, tst := s.tst
    boot := s.boot, record := s.boot.record }

/-- The wake image's place in the Granary (R389). -/
def imageAt (s : State) : Nat := s.pwr.imageBase * 65536

/-- Bytes of the wake image. -/
def imageBytes : Nat := 0x500000

/-- Steps 5 to 7 of a low-power entry (R387 to R389): for SLEEP the wake image overwrites its range, the
commit point, the completion. -/
def commitNow (s : State) : State :=
  match s.pwr.entry with
  | some e =>
    if e.committed || !coresUp s || !lowReady e s then s
    else
      let s := if e.target = .sleep then
          scramble (imageAt s) imageBytes { s with saved := some (saveImage s) }
        else { s with saved := none }
      entryCpl e stSuccess { s with pwr.entry := some { e with committed := true } }
  | none => s

/-- Steps 3 to 7 of a low-power entry, as far as they can go (R387). -/
def commitLow (s : State) : State := commitNow (engineStop s)

/-- An entry is abandoned by a wake event up to its commit point (R388); commands whose transfer it stopped end
(R38). -/
def abandonEntry (e : LowEntry) (s : State) : State :=
  let s := undoEntry { s with pwr.sleepAborted := true, pwr.aborts := bump 255 1 s.pwr.aborts }
  if coresUp s then entryCpl e 0x0170#16 (endStopped s) else s

/-- What the core domain raises once it is out of reset on a wake: timeouts, a lost image, the crystal
(R382, R401, R561). -/
def raiseWake (s : State) : State :=
  match s.pwr.start with
  | none => s
  | some st =>
    if !s.pwr.core then s
    else
      let s := st.failed.foldl (fun s k => raise 31 .minor k s)
        { s with pwr.start := some { st with failed := [] } }
      let s := if s.grn.lost then raise 31 .major 0 { s with grn.lost := false } else s
      if s.pwr.xtalNote then raise 31 .note 0 { s with pwr.xtalNote := false } else s

/-- The board may have switched VDDIO_1 and VDDIO_2 off in a low-power state; VDDIO_2 stays on where a PPS output
runs in SLEEP with KEEP_TIME (R503, R557). -/
def wakeIo (kind : StartKind) (s : State) : State :=
  let pps := s.pwr.keepTime && s.bel.powered && s.bel.pulse.some' fun x => x.cfg.mode != .off
  if kind == .warm || kind == .cold then riseIo (if pps then [1] else [1, 2]) s else s

/-- PG_CORE reads high in a start (R385): the core domain leaves reset (R397, R572). -/
def coreGood (s : State) : State :=
  match s.pwr.start with
  | some st =>
    if st.pgCore || st.waiting then s
    else raiseWake (coreOut (wakeIo st.kind { s with pwr.start := some { st with pgCore := true } }))
  | none => s

/-- A wake begins (R397, R400): warm from SLEEP with the Granary's content intact, otherwise cold. A supply that
stayed on, VDD_SRAM in SLEEP and VDD_CORE with KEEP_TIME, is good already (R385). -/
def beginWake (s : State) : State :=
  let core := s.pwr.regEnCore
  let sram := s.pwr.regEnSram
  let warm := s.pwr.state == .sleep && !s.grn.lost
  let s : State := if warm then s
    else { s with
      grn.initDone := false, grn.retention := false, saved := none
      pwr.imageBad := s.pwr.imageBad || s.grn.lost }
  let s := beginStart (if warm then .warm else .cold) s
  whenS core coreGood { s with pwr.start := s.pwr.start.map fun x => { x with pgSram := sram } }

/-- A wake source fires (R388, R394, R396). -/
def fireWake (bit : Fin 6) (s : State) : State :=
  let low := s.pwr.state == .sleep || s.pwr.state == .nightwatch || s.pwr.state == .dormant
  let s' := { s with pwr.wakeSrc := s.pwr.wakeSrc ||| BitVec.ofNat 6 (2 ^ bit.val) }
  if !s.pwr.wakeEn.getLsbD bit.val then s
  else match s.pwr.entry with
  | some e =>
    if (wakeAllowed e.target e.keepTime).getLsbD bit.val then
      if e.committed then { s' with pwr.latched := true } else abandonEntry e s'
    else s
  | none =>
    let under : Bool := match s.pwr.start with
      | some st => (st.kind == .warm || st.kind == .cold) && !s.pwr.cores.up
      | none => false
    if under then s'
    else if s.pwr.start.isNone && low && (wakeAllowed s.pwr.state s.pwr.keepTime).getLsbD bit.val then beginWake s'
    else s

/-- A low-power entry begins (R387): from the next latch point no PIX and no LAT are sent. WAKE held high abandons
it at once where WAKE may wake (R396). -/
def enterLow (c : Cmd) (s : State) : State :=
  let e : LowEntry :=
    { cmd := c, target := prTarget c, keepTime := c.b 8 3, wakeEn := BitVec.ofNat 6 (c.f 9 0 6)
      step := .latch, committed := false }
  let s := { abandonCal (lowRegs c s) with pwr.latched := false, pwr.entry := some e }
  whenS s.pwr.wakeHigh (fireWake 1) s

/-- POWER_REQUEST (R403 to R405). -/
def powerBody : Body :=
  { check := fun c s =>
      match firstFail [(prBad c, stField), (prState c s, stState)] with
      | some x => some x
      | none => (prBudget c s).map fun x => (0x0140#16, budgetResult x)
    run := fun c s => if c.f 8 0 3 ≤ 1 then askDim c s else enterLow c s }

/-- POWER_REQUEST. -/
def execPowerRequest (src : Src) (d : Desc) (s : State) : Out := .next (runRow 0x38 powerBody src d s)

/-- Step 8 of a low-power entry (R31, R132, R386): every domain but the always-on one goes down; the
Granary goes to retention for SLEEP; a latched wake event starts its wake. -/
def powerDown (e : LowEntry) (s : State) : State :=
  let old := s.pwr.state
  let sleep := e.target == .sleep
  let keep := sleep && e.keepTime
  let s := if keep then measureTrim s else s
  let bel := s.bel
  let latched := s.pwr.latched
  let s := domainsReset true s
  let s := { s with
    pwr.state := e.target, pwr.lastState := old, pwr.analogue := false, pwr.latched := false
    pwr.regEnCore := keep, pwr.regEnSram := sleep
    bel := if keep then { bel.rebase with sleepClock := true } else { bel.restart with powered := false }
    grn := if sleep then { s.grn with retention := true }
      else { s.grn with mem := [], marks := [], repaired := [], initDone := false, retention := false } }
  if latched then beginWake s else s

/-- LOW_POWER_POWERDOWN (R387). -/
def execLowPowerPowerdown (s : State) : Out :=
  let s := commitLow s
  .next (match s.pwr.entry with
    | some e => if e.committed then powerDown e s else s
    | none => s)

/-- WAKE has been high for 100 ns, and fires until it is low again (R394, R396). -/
def execWakePinEvent (high : Bool) (s : State) : Out :=
  .next (whenS high (fireWake 1) { s with pwr.wakeHigh := high })

/-- A SAFE_IN channel has changed level for 1 ms. -/
def execWakeSafeInEvent (s : State) : Out := .next (fireWake 2 s)

/-- PCI Express lane 0 leaves electrical idle. -/
def execWakePcieSquelch (s : State) : Out := .next (fireWake 5 s)

/-- A visit is outside the window (R393). -/
def visitOutside (amb : Nat) (temps : List Int) (p : Power) : Bool :=
  (p.ambLow != 0 && decide (amb < p.ambLow)) || (p.ambHigh != 0xFFF && decide (p.ambHigh < amb)) ||
    temps.any fun t => decide (p.tempHigh < t) || decide (t < p.tempLow)

/-- The temperatures of a visit (R392, R409): those of the four analogue-die sensors and of the used remote
inputs. -/
def visitTemps (die : Tab Int 4) (remote : Tab Int 8) (s : State) : List Int :=
  die.toList ++ (List.finRange 8).filterMap fun i =>
    let x := s.thm.sensor.at' (16 + i.val) (Sensor.reset 16)
    if x.used then some (x.reading (16 + i.val) remote[i]) else none

/-- A Nightwatch visit (R392, R393). Where no temperature is valid the spec does not say what HOTTEST shows: it
keeps its value (DESIGN CHOICE, log entry 115). -/
def nightVisit (amb : Nat) (temps : List Int) (s : State) : State :=
  let ok := temps.filter plausible
  let n := if visitOutside amb ok s.pwr then min 15 (s.pwr.nwOutside + 1) else 0
  let s := { s with
    pwr.nwAmbient := amb, pwr.nwOutside := n, pwr.nwHottest := (hottest ok).getD s.pwr.nwHottest }
  if n ≥ s.pwr.nwDebounce then fireWake 3 s else s

/-- NIGHTWATCH_VISIT. -/
def execNightwatchVisit (ambient : BitVec 12) (die : Tab Int 4) (remote : Tab Int 8) (s : State) : Out :=
  .next (whenS (s.pwr.state == .nightwatch && s.pwr.start.isNone)
    (fun s => nightVisit ambient.toNat (visitTemps die remote s) s) s)

/-- PG_CORE_RISE: the core domain leaves reset (R397, R572). -/
def execPgCoreRise (s : State) : Out :=
  .next (coreGood (phaseB s))

/-- PG_SRAM_RISE (R572): with PG_CORE, phase D starts and the boot ROM reads both headers. -/
def execPgSramRise (s : State) : Out :=
  let s := phaseB s
  .next (match s.pwr.start with
    | some st =>
      if st.pgSram || st.waiting then s
      else
        let s' := { s with pwr.start := some { st with pgSram := true } }
        if s.pwr.core && st.kind != .warm then
          emitAll [.flashRead 0 256, .flashRead 0x400000 256] s'
        else s'
    | none => s)

/-- ANALOGUE_DOMAIN_READY (R371): rails with EN = 1 start once the disconnect test has ended too. -/
def execAnalogueDomainReady (s : State) : Out :=
  .next (whenS (s.pwr.start.isSome && !s.pwr.analogue)
    (fun s =>
      let s := { phaseB s with
        pwr.analogue := true, pwr.start := (phaseB s).pwr.start.map fun x => { x with analogue := true } }
      if s.rail.allowed then restartRails s else s) s)

/-- PLL_LOCK: 0 core, 1 lane, 2 Ethernet. The lanes start on the lane PLL, at a boot once the image runs
(R397, R572); the Bellhouse goes back to the Ethernet PLL (R488). -/
def pllLocks (pll : Fin 3) (s : State) : State :=
  match pll with
  | 0 => { s with pwr.pllCore := true, pwr.clkCore := true }
  | 1 =>
    let s := { s with pwr.pllLane := true, pwr.clkLane := true }
    match s.pwr.start with
    | some st =>
      if st.kind = .warm then startLanes true s else if st.restored then startLanes false s else s
    | none => startLanes false s
  | _ =>
    let s := { s with pwr.pllEth := true, pwr.clkEth := true }
    measureTrim (if s.bel.sleepClock then { s with bel := { s.bel.rebase with sleepClock := false } } else s)

/-- PLL_LOCK. -/
def execPllLock (pll : Fin 3) (s : State) : Out :=
  let locked := if pll = 0 then s.pwr.pllCore else if pll = 1 then s.pwr.pllLane else s.pwr.pllEth
  .next (whenS (s.pwr.core && !locked) (pllLocks pll) s)

/-- XTAL32_SWITCH (R382). -/
def execXtal32Switch (s : State) : Out :=
  .next (whenS (!s.pwr.xtalFail) (fun s => { s with pwr.xtalActive := true }) s)

/-- XTAL32_LOSS (R382). -/
def execXtal32Loss (s : State) : Out :=
  .next (whenS (!s.pwr.xtalFail)
    (fun s => { s with pwr.xtalActive := false, pwr.xtalFail := true, pwr.xtalNote := true }) s)

/-- A step of a wake has not been done yet (R401, PWR_STATUS.FAIL_STEP). No row tells that FIRC is ready: as the supplies
that follow it are good, it is (DEDUCED, log entry 130). -/
def stepOpen (step : Nat) (st : Start) (s : State) : Bool :=
  match step with
  | 1 => !st.pgCore
  | 2 => !st.pgSram
  | 3 => !st.pgCore && !st.analogue
  | 4 => !s.pwr.hedgeOsc
  | 5 => !s.pwr.analogue
  | 6 => st.pgCore && !(s.pwr.pllCore && s.pwr.pllLane && s.pwr.pllEth)
  | _ => false

/-- Every domain back down, both regulators off (R401). -/
def allDown (s : State) : State :=
  let bel := s.bel
  let s := domainsReset true s
  { s with
    pwr.analogue := false, pwr.regEnCore := false, pwr.regEnSram := false
    bel := { bel.restart with powered := false } }

/-- A wake step times out (R401): retry, or after the third retry DORMANT. -/
def wakeTimeout (step : Nat) (st : Start) (s : State) : State :=
  let low : PState := match st.kind with
    | .warm => .sleep
    | .cold => if s.pwr.core then s.pwr.lastState else s.pwr.state
    | _ => s.pwr.state
  let s := allDown s
  if st.tries ≥ 3 then
    { s with
      pwr.state := .dormant, pwr.lastState := s.pwr.state, pwr.wakeFail := true, pwr.failStep := step
      saved := none
      grn := { s.grn with mem := [], marks := [], repaired := [], initDone := false, retention := false } }
  else
    { s with
      grn.retention := st.kind == .warm, grn.initDone := st.kind == .warm && s.grn.initDone
      pwr.state := low, pwr.retries := bump 255 1 s.pwr.retries
      pwr.start := some { Start.begin st.kind st.since with
        waiting := true, tries := st.tries + 1, failed := st.failed ++ [step] } }

/-- WAKE_STEP_TIMEOUT. -/
def execWakeStepTimeout (step : Fin 7) (s : State) : Out :=
  .next (match s.pwr.start with
    | some st =>
      if st.waiting || !stepOpen step.val st s then s else wakeTimeout step.val st s
    | none => s)

/-- WAKE_RETRY: the wake starts again from its first step (R401). -/
def execWakeRetry (s : State) : Out :=
  .next (match s.pwr.start with
    | some st =>
      if !st.waiting then s
      else
        let s := if st.kind = .warm then beginWake { s with pwr.start := none } else beginStart st.kind s
        { s with pwr.start := s.pwr.start.map fun x => { x with
            since := st.since, tries := st.tries, failed := st.failed } }
    | none => s)

/-- The rings come back with every ENABLE at 0, the link untrained, counters at reset (R389); values of registers that
count nothing, error flags among them, come back. -/
def restoreHif (h : Hif) : Hif :=
  { h with
    deniedCnt := Tab.all 4 0, cmdqDrop := Tab.all 2 0
    speed := 0, width := 0, linkUp := false, d3hot := false, configRetry := false, bar2Wait := []
    sq := h.sq.map' fun q => { q with
      enable := false, running := false, asked := 0, dbAsked := none, fetched := [], behind := [] }
    cq := h.cq.map' fun q => { q with
      enable := false, dbAsked := none, retry := false, full := false, waiting := [] }
    lastSq := Tab.all 4 none, lastGroup := none }

/-- Layers and banks come back, counters at reset. -/
def restoreCmp (c : Compose) : Compose :=
  { c with
    layer := c.layer.map' fun l => { l with lateCount := 0, oversteps := 0, overstepPx := 0, parity := 0 }
    bank := c.bank.map' fun t => t.map' fun b => if b.state = .loading then { b with state := .invalid } else b
    sym := c.sym.map' fun e => if e.state = .loading then { e with state := .invalid } else e
    was := 0, late := 0 }

/-- Photometry's settings, its register values and the override list come back; its counter does not. -/
def restorePho (p : Photo) : Photo := { p with satCnt := 0, planeCmd := none }

/-- The Lamplighter's settings, those held under R276 and R280 too, and its register values come back; its
counters do not. A commit seen and not taken leaves its settings in the shadow. -/
def restoreLamp (v t : Lamp) : Lamp :=
  { t with
    timing := v.timing, heldTiming := v.heldTiming, budgetMap := v.budgetMap, heldMap := v.heldMap
    budgetHold := v.budgetHold, mapHold := v.mapHold, map := v.mapNext, mapNext := v.mapNext
    composing := v.composing, commitTaken := v.commitTaken, lastLat := v.lastLat
    frRepeat := v.frRepeat, frSequence := v.frSequence, frStale := v.frStale, staleTile := v.staleTile
    lastTile := v.lastTile, stall := v.stall, shadow := v.seen.flatten ++ v.shadow, launches := v.launches }

/-- Pixel health's settings and register values come back; the store is cleared (R342) and the counts are
rebuilt (R582). -/
def restorePxh (v : Health) : Health :=
  { v with
    store := [], tile := v.tile.map' fun t => { t with dark := true, reason := 1, unlocRun := 0 }
    parity := 0, held := 0, recount := true, sets := [] }

/-- Thresholds, trims and CAL_LAST come back; the sensors keep what they measure; a calibration run waits for the first
VBI (R423, R426). -/
def restoreThm (v t : Thermal) : Thermal :=
  { t with
    die := { v.die with level := t.die.level, allBroken := t.die.allBroken }
    light := { v.light with level := t.light.level, allBroken := t.light.allBroken }
    trigger := some (0x1F, none), tCal := v.tCal, ran := v.ran, calDt := v.calDt, calMaxS := v.calMaxS
    lastFrame := v.lastFrame, lastFailed := v.lastFailed, lastApplied := v.lastApplied
    trims := v.trims, fuse := v.fuse }

/-- The higher of two held classes. -/
def heldMax (a b : Option Class) : Option Class :=
  match a, b with
  | some x, some y => some (if x.code < y.code then y else x)
  | none, y => y
  | x, none => x

/-- The Reeve's configuration and held classes come back; its log was emptied (R431). A group with an event since the
core left reset keeps its count, and the higher of its two classes; the recovery counter and the latch have been
kept (R439). -/
def restoreRve (v r : Reeve) : Reeve :=
  let copy (old live : Counting) : Counting :=
    if live.events = 0 then
      { old with events := 0, winOpen := false, k := 0, rec' := live.rec', latched := live.latched }
    else { live with held := heldMax old.held live.held }
  { r with
    note := v.note ||| r.note
    group := v.group.mapI fun g x =>
      { x with real := copy x.real (r.group[g]).real, inj := copy x.inj (r.group[g]).inj }
    faultnClass := v.faultnClass, irqClass := v.irqClass, vector := v.vector, irqEn := v.irqEn
    first := v.first, lock := v.lock }

/-- GRN_VIOL and GRN_ECC_LAST come back (R389). -/
def restoreGrn (v : GrnLast) (g : Granary) : Granary :=
  { g with
    violMaster := v.violMaster, violWrite := v.violWrite, violAddr := v.violAddr, lastSyndrome := v.lastSyndrome
    lastMaster := v.lastMaster, lastType := v.lastType, lastAddr := v.lastAddr }

/-- State restored from the wake image (R389, R397). -/
def restoreImage (v : Saved) (s : State) : State :=
  { s with
    hif := restoreHif v.hif
    grn := restoreGrn v.grn s.grn
    cmp := restoreCmp v.cmp
    pho := { restorePho v.pho with zoneCopy := s.pho.zoneCopy }
    lpl := restoreLamp v.lpl s.lpl
    pxh := restorePxh v.pxh
    thm := restoreThm v.thm s.thm
    rve := restoreRve v.rve s.rve
    yok := { s.yok with digest := v.yok.digest, mayClaim := true }
    eth := { s.eth with port := v.eth.port.map' keepEth }
    aux := v.aux.map' fun a => { a with
      frames := 0, retFail := 0, shifting := none, latDue := false }
    crcu := v.crcu
    gpio := { v.gpio with inp := s.gpio.inp }
    tst := { v.tst with job := none, failed := 0, run := 0 }
    boot := { v.boot with stage := none, writes := [], record := v.record }
    pwr.cores := { Cores.reset with up := true, served := true }
    pwr.start := s.pwr.start.map fun x => { x with restored := true }
    saved := none }

/-- A bad wake image (R397): the device goes on as a cold wake. -/
def imageFails (s : State) : State :=
  let s := raise 31 .major 0 { s with
    pwr.imageBad := true, saved := none, grn.initDone := false
    pwr.start := s.pwr.start.map fun x => { x with kind := .cold, granary := false } }
  emitAll [.flashRead 0 256, .flashRead 0x400000 256] (lanesOff s)

/-- The cores read the wake image and check its CRC (R121, R397): an uncorrectable word fails it too. -/
def readImage (good : Bool) (s : State) : Bool × State :=
  let r := readMarked .cores (imageAt s) imageBytes s
  (good && !r.1, r.2)

/-- WAKE_IMAGE_RESTORE. -/
def execWakeImageRestore (good : Bool) (s : State) : Out :=
  let runs : Bool := match s.pwr.start with
    | some st => st.kind == .warm && st.granary && !st.restored
    | none => false
  .next (whenS (s.pwr.core && runs && s.pwr.pllCore && s.pwr.pllLane && s.pwr.pllEth)
    (fun s =>
      let r := readImage good s
      match s.saved with
      | some v => if r.1 then wakeSucceeds (restoreImage v r.2) else imageFails r.2
      | none => imageFails r.2) s)

/-- Restore complete, block active, every used lane READY or DOWN (R398). -/
def wakeReady (st : Start) (s : State) : Bool :=
  st.restored && st.record && (laneList s).all fun n =>
    !(s.link.lane[n]).entry.used || (s.link.lane[n]).state == .ready || (s.link.lane[n]).state == .down

/-- WAKE_L0_PLACEMENT: when everything is ready, or 980 µs after the wake event (R398). -/
def execWakeL0Placement (s : State) : Out :=
  .next (match s.pwr.start with
    | some st =>
      if st.kind == .warm && s.pwr.core && st.l0.isNone && !st.waiting &&
          (wakeReady st s || decide (st.since + 980000 ≤ s.now)) then
        latch true none { s with pwr.start := some { st with l0 := some 0 } }
      else s
    | none => s)

/-- ALARM_FIRE (R501). -/
def alarmFires (a : Fin 4) (s : State) : State :=
  let s := belSignal s.bel.onAlarm { s with
    bel.alarm := s.bel.alarm.upd a fun x => { x with armed := false, fired := true } }
  fireWake 4 s

/-- ALARM_FIRE. -/
def execAlarmFire (a : Fin 4) (s : State) : Out :=
  let x := s.bel.alarm[a]
  .next (whenS (s.bel.powered && x.armed && decide (mkTime x.s x.ns ≤ netTime s)) (alarmFires a) s)

end Sys2Proof.Machine
end

