-- ==== Sys2Proof/Machine/Management.lean ====
section
/-!
DEFINITION. The I²C target (spec/19_management_aux.md R522, R523; R395 of spec/14_power_wake.md).
-/

namespace Sys2Proof.Machine

/-- The 4-byte field of the window that starts at an index (table I²C window). -/
def i2cField (i : Nat) (s : State) : Nat :=
  match i with
  | 0x00 => (hifRead 0 s).getD 0
  | 0x04 => pwrStatus s
  | 0x08 => (rveStatus s).toNat % 2 ^ 32
  | 0x0C => (rveStatus s).toNat / 2 ^ 32
  | 0x10 => hdgStatus s
  | 0x14 => thmHottest false s
  | 0x18 => thmHottest true s
  | 0x1C => lplSeq s
  | 0x20 => s.part.serial.toNat % 2 ^ 32
  | 0x24 => s.part.serial.toNat / 2 ^ 32
  | 0x28 => mgtStatus s
  | _ => 0

/-- One byte of the window is read; the first byte of a 4-byte field captures the whole field (R522). -/
def i2cReadByte (i : Nat) (s : State) : Byte × State :=
  if 0x80 ≤ i ∧ i ≤ 0x9F then (s.mgt.cbuf.getD (i - 0x80) 0, s)
  else if i < 0x2C then
    let first := i / 4 * 4
    let live : Word := BitVec.ofNat 32 (i2cField first s)
    let s := if i = first then { s with mgt.captured := some (first, live) } else s
    let v : Word := match s.mgt.captured with
      | some (f, w) => if f = first then w else live
      | none => live
    (BitVec.ofNat 8 (field v (8 * (i - first)) 8), s)
  else (0, s)

/-- Bytes read from the stored index on; the index wraps from 0xFF to 0x00. -/
def i2cRead : Nat → List Byte → State → List Byte × State
  | 0, acc, s => (acc, s)
  | n + 1, acc, s =>
    let x := i2cReadByte s.mgt.index s
    i2cRead n (acc ++ [x.1]) { x.2 with mgt.index := (x.2.mgt.index + 1) % 256 }

/-- A protocol error (R523): kind 1 a start or stop inside a byte, 2 a NAKed byte. -/
def i2cError (kind : Nat) (s : State) : State :=
  raise 39 .note kind { s with mgt.errors := bump 65535 1 s.mgt.errors }

/-- The doorbell submits the mailbox (R523); while BUSY it is NAKed. -/
def ringDoorbell (s : State) : State :=
  if s.mgt.busy then i2cError 2 s else { s with mgt.busy := true }

/-- Replace one byte of the mailbox. -/
def putMailbox (i : Nat) (b : Byte) (d : Desc) : Desc :=
  (d &&& ~~~ ((0xFF#512) <<< (8 * i))) ||| (BitVec.ofNat 512 b.toNat <<< (8 * i))

/-- One byte is written to the window; true if it was NAKed. -/
def i2cWriteByte (b : Byte) (acc : Bool × State) : Bool × State :=
  let s := acc.2
  let i := s.mgt.index
  let next (s : State) : State := { s with mgt.index := (i + 1) % 256 }
  if 0x3F ≤ i ∧ i ≤ 0x7F then
    if s.mgt.busy then (true, next (i2cError 2 s))
    else if i = 0x3F then (acc.1, next (if b = 1 then ringDoorbell s else s))
    else (acc.1, next { s with mgt.mailbox := putMailbox (i - 0x40) b s.mgt.mailbox })
  else (acc.1, next s)

/-- A transaction with the core domain up (R522, R523). -/
def i2cServe (x : I2cIn) (s : State) : State :=
  match x with
  | .busError => i2cError 1 s
  | .write index data =>
    let s := { s with mgt.index := index.toNat }
    let r := data.foldl (fun acc b => i2cWriteByte b acc) (false, s)
    emit (.i2c [] r.1) r.2
  | .read n =>
    let r := i2cRead n.val [] s
    emit (.i2c r.1 false) r.2

/-- An index the always-on domain serves itself, as the first and last of its range (R395). -/
def i2cRange (i : Nat) : Option (Nat × Nat) :=
  if 0x04 ≤ i ∧ i ≤ 0x07 then some (0x04, 0x07)
  else if 0x80 ≤ i ∧ i ≤ 0x9F then some (0x80, 0x9F)
  else none

/-- The always-on domain would serve a transaction itself (R395). -/
def i2cOwn (x : I2cIn) (s : State) : Bool :=
  match x with
  | .busError => true
  | .write index data => (i2cRange index.toNat).isSome && data.isEmpty
  | .read _ => (i2cRange s.mgt.index).isSome

/-- I2C_TRANSACTION. During a low-power entry one that the always-on domain does not serve itself is a wake event
(R388, R394). -/
def execI2cTransaction (x : I2cIn) (s : State) : Out :=
  .next (whenS s.pwr.core
    (fun s =>
      let t := i2cServe x s
      if s.pwr.entry.isSome && !i2cOwn x s then fireWake 0 t else t) s)

/-- Bytes the always-on domain returns, the index wrapping within its range (R395). -/
def i2cLowRead : Nat → Nat × Nat → List Byte → State → List Byte × State
  | 0, _, acc, s => (acc, s)
  | n + 1, r, acc, s =>
    let x := i2cReadByte s.mgt.index s
    let i := x.2.mgt.index
    i2cLowRead n r (acc ++ [x.1]) { x.2 with mgt.index := if i ≥ r.2 then r.1 else i + 1 }

/-- A transaction in a low-power state (R395): served, or NAKed as the wake event. -/
def i2cLow (x : I2cIn) (s : State) : State :=
  match x with
  | .busError => s
  | .write index data =>
    match i2cRange index.toNat with
    | some _ =>
      let s := { s with mgt.index := index.toNat }
      if data.isEmpty then emit (.i2c [] false) s else fireWake 0 (emit (.i2c [] true) s)
    | none => fireWake 0 (emit (.i2c [] true) s)
  | .read n =>
    match i2cRange s.mgt.index with
    | some r =>
      let y := i2cLowRead n.val r [] s
      emit (.i2c y.1 false) y.2
    | none => fireWake 0 (emit (.i2c [] true) s)

/-- I2C_LOW_POWER_TRANSACTION. -/
def execI2cLowPowerTransaction (x : I2cIn) (s : State) : Out :=
  .next (whenS (!s.pwr.core &&
    (s.pwr.state == .sleep || s.pwr.state == .nightwatch || s.pwr.state == .dormant)) (i2cLow x) s)

/-- I2C_DOORBELL. -/
def execI2cDoorbell (s : State) : Out := .next (whenS s.pwr.core ringDoorbell s)

end Sys2Proof.Machine
end

