-- ==== Sys2Proof/Machine/Commands.lean ====
section
/-!
DEFINITION. Which command starts next (R59, R60, R77 to R82, R149 of spec/02_host_rings.md), the
start-up list, and how a command goes on when its DMA chain has ended (R95, R97).
-/

namespace Sys2Proof.Machine

/-- What a command of an opcode does (R71); none for an opcode that is not in the index. -/
def bodyOf (op : Nat) : Option Body :=
  match op with
  | 0x00 => some nopBody
  | 0x10 => some layerSetBody
  | 0x11 => some presentBody
  | 0x12 => some maskBody
  | 0x13 => some symbolBody
  | 0x14 => some coefBody
  | 0x18 => some timingBody
  | 0x19 => some tileMapBody
  | 0x20 => some calLoadBody
  | 0x21 => some fadeBody
  | 0x22 => some budgetBody
  | 0x28 => some telemetryBody
  | 0x29 => some healthBody
  | 0x30 => some railBody
  | 0x38 => some powerBody
  | 0x39 => some thermalBody
  | 0x3A => some calRunBody
  | 0x40 => some scheduleBody
  | 0x41 => some timeSetBody
  | 0x42 => some pulseBody
  | 0x48 => some safetyBody
  | 0x49 => some safeTestBody
  | 0x50 => some fwStageBody
  | 0x51 => some fwActivateBody
  | 0x58 => some auxWriteBody
  | 0x60 => some faultAckBody
  | 0x61 => some faultReadBody
  | 0x62 => some injectBody
  | 0x68 => some testRunBody
  | 0x69 => some marchBody
  | 0x70 => some yokeSwitchBody
  | _ => none

/-- Start a command from one of its queues; an unknown opcode fails R61's step 2. -/
def startDesc (src : Src) (arr : Nat) (d : Desc) (s : State) : State :=
  startCmd ((bodyOf (Desc.f d 0 0 8)).getD nopBody) src arr d s

/-- The entry at HEAD of a submission ring that may start now (R52, R59). -/
def ringHead (n : Fin 16) (s : State) : Option Fetched :=
  let q := s.hif.sq[n]
  match q.fetched with
  | e :: _ => if q.enable && serves (.ring n) s && fenceOk (.ring n) e.d s then some e else none
  | [] => none

/-- The place of a PRIORITY in the table of the rings served last. -/
def prioIndex (n : Fin 16) (s : State) : Fin 4 := ⟨(s.hif.sq[n]).prio % 4, Nat.mod_lt _ (by decide)⟩

/-- The place of a ring in the order of service: higher PRIORITY first, then round-robin after the ring
of that PRIORITY served last (R59). -/
def ringKey (n : Fin 16) (s : State) : Nat :=
  let last := match s.hif.lastSq[prioIndex n s] with
    | some m => m.val + 1
    | none => 0
  (3 - (prioIndex n s).val) * 16 + (n.val + 16 - last) % 16

/-- The submission ring served next. -/
def nextRing (s : State) : Option (Fin 16) :=
  let ready := (List.finRange 16).filter fun n => (ringHead n s).isSome
  ready.foldl
    (fun best n => match best with
      | none => some n
      | some m => if ringKey n s < ringKey m s then some n else some m) none

/-- The descriptor at the front of a port's datagram queue that may start now (R59, R80). -/
def ethHead (p : Fin 2) (s : State) : Option (Nat × Nat × Nat × Desc) :=
  match s.eth.port[p].queue with
  | .cmd key _ _ (d :: _) next arr :: _ =>
    let src : Src := .eth p key next
    if serves src s && fenceOk src d s then some (key, next, arr, d) else none
  | _ => none

/-- The mailbox has been submitted and not started (R523). -/
def i2cWaiting (s : State) : Bool :=
  s.mgt.busy && s.mgt.late.isNone && serves .i2c s && !(s.running.any fun c => c.src == .i2c)

/-- A port group has a command that may start. -/
def groupReady (g : Fin 4) (s : State) : Bool :=
  match g with
  | 0 => (nextRing s).isSome
  | 1 => (ethHead 0 s).isSome
  | 2 => (ethHead 1 s).isSome
  | 3 => i2cWaiting s

/-- The port group served next: round-robin after the one served last (R59). R59 does not say where the
first turn begins: the PCIe group comes first (DESIGN CHOICE, log entry 85). -/
def nextGroup (s : State) : Option (Fin 4) :=
  let first : Nat := match s.hif.lastGroup with
    | some g => g.val + 1
    | none => 0
  ((List.range 4).map fun i => (⟨(first + i) % 4, Nat.mod_lt _ (by decide)⟩ : Fin 4)).find?
    fun g => groupReady g s

/-- Start the entry at HEAD of a ring (R54, R149). -/
def startRing (n : Fin 16) (s : State) : State :=
  match ringHead n s with
  | none => s
  | some e =>
    let arr := max e.arr (s.hif.sq[n]).lastDone
    let s := modSq n (fun q => { q.advance with fetched := q.fetched.drop 1 })
      { s with hif.lastSq := s.hif.lastSq.put (prioIndex n s) (some n) }
    let s := flushDead n (s.hif.sq[n]).fetched.length s
    startDesc (.ring n) arr e.d (requestEntries n s)

/-- Start the next descriptor of a port's first datagram (R80). -/
def startEth (p : Fin 2) (s : State) : State :=
  match ethHead p s with
  | none => s
  | some (key, next, arr, d) =>
    let q : List Datagram := match s.eth.port[p].queue with
      | .cmd k peer sequence (_ :: left) i a :: rest =>
        if left.isEmpty then rest else .cmd k peer sequence left (i + 1) a :: rest
      | l => l
    drainQueue p (startDesc (.eth p key next) arr d (modEth p (fun e => { e with queue := q }) s))

/-- Start the next waiting command (R59). -/
def startNext (s : State) : State :=
  match nextGroup s with
  | none => s
  | some g =>
    let s := { s with hif.lastGroup := some g }
    match g with
    | 0 => match nextRing s with
      | some n => startRing n s
      | none => s
    | 1 => startEth 0 s
    | 2 => startEth 1 s
    | 3 => startDesc .i2c s.now s.mgt.mailbox s

/-- COMMAND_START. -/
def execCommandStart (s : State) : Out := .next (startNext (advanceStart s))

/-- STARTUP_COMMAND (R82, R572): the next descriptor of the list, in order, once phases G and H are done. -/
def startStartup (s : State) : State :=
  match s.pwr.start with
  | none => s
  | some st =>
    let i := s.boot.startupNext
    match s.boot.startup[i]? with
    | none => advanceStart s
    | some d =>
      if st.kind != .warm && st.restored && st.record && st.granary && s.boot.loads.isEmpty &&
          serves (.startup i) s && fenceOk (.startup i) d s then
        startDesc (.startup i) s.now d { s with boot.startupNext := i + 1 }
      else s

/-- STARTUP_COMMAND. -/
def execStartupCommand (s : State) : Out := .next (startStartup s)

/-- What a command does when its transfer has ended well; its job has been dropped. -/
def jobDone (j : DmaJob) (s : State) : State :=
  if j.dead then s
  else match j.cmd.opcode with
  | 0x10 => lsCopied j.cmd s
  | 0x13 => symbolLoaded j.cmd s
  | 0x20 => calDone j s
  | 0x28 => exportDone j s
  | 0x48 => stageCopied j s
  | 0x50 => stageImage j.buf s
  | 0x61 => exportDone j s
  | 0x68 => loopSend j s
  | _ => finishOk j.cmd s

/-- A channel has ended its chain, or stopped (R95, R97): its command continues; one that was stopped by
LIGHT_HOLD is interrupted on return to service (R38). -/
def chainDone (ch : Fin 32) (s : State) : State :=
  match jobOn ch s with
  | none => s
  | some j =>
    match (s.dma.ch[ch]).state with
    | .idle => jobDone j (dropJob ch s)
    | .halted => jobFailed j (dropJob ch s)
    | .aborted => jobFailed j (dropJob ch s)
    | _ => s

/-- DMA_CHAIN_DONE. -/
def execDmaChainDone (ch : Fin 32) (s : State) : Out := .next (whenS (coresUp s) (chainDone ch) s)

end Sys2Proof.Machine
end

