-- ==== Sys2Proof/Machine/Dispatch.lean ====
section
/-!
DEFINITION. One arm per command of the table.
-/

namespace Sys2Proof.Machine

/-- The effect of a command on everything but the queue. -/
def exec (i : Instr) (s : State) : Host.Outcome State Fault Refusal :=
  match i with
  | .por yokePri addr => Sys2Proof.Machine.execPor yokePri addr s
  | .sysReset => Sys2Proof.Machine.execSysReset s
  | .pgCoreLoss => Sys2Proof.Machine.execPgCoreLoss s
  | .pgSramLossInSleep => Sys2Proof.Machine.execPgSramLossInSleep s
  | .testenChange high => Sys2Proof.Machine.execTestenChange high s
  | .coreReset => Sys2Proof.Machine.execCoreReset s
  | .lockstepMismatch => Sys2Proof.Machine.execLockstepMismatch s
  | .watchdogExpiry => Sys2Proof.Machine.execWatchdogExpiry s
  | .firmwareReturnToService => Sys2Proof.Machine.execFirmwareReturnToService s
  | .firmwareRestartTimeout => Sys2Proof.Machine.execFirmwareRestartTimeout s
  | .perstNChange high => Sys2Proof.Machine.execPerstNChange high s
  | .pcieFlr => Sys2Proof.Machine.execPcieFlr s
  | .pcieD3hot => Sys2Proof.Machine.execPcieD3hot s
  | .pcieLinkDown => Sys2Proof.Machine.execPcieLinkDown s
  | .pcieLinkUp speed width => Sys2Proof.Machine.execPcieLinkUp speed width s
  | .pcieAerError uncorrectable status => Sys2Proof.Machine.execPcieAerError uncorrectable status s
  | .bar0UnmappedAccess write off => Sys2Proof.Machine.execBar0UnmappedAccess write off s
  | .bar0BadWidthAccess write off bytes => Sys2Proof.Machine.execBar0BadWidthAccess write off bytes s
  | .registerWrite off value => Sys2Proof.Machine.execRegisterWrite off value s
  | .reg64LowRead off => Sys2Proof.Machine.execReg64LowRead off s
  | .reg64HighRead off => Sys2Proof.Machine.execReg64HighRead off s
  | .reg64LowWrite off value => Sys2Proof.Machine.execReg64LowWrite off value s
  | .reg64HighWrite off value => Sys2Proof.Machine.execReg64HighWrite off value s
  | .hifKickSq n => Sys2Proof.Machine.execHifKickSq n s
  | .hifKickCq n => Sys2Proof.Machine.execHifKickCq n s
  | .hifAuthWrite port value => Sys2Proof.Machine.execHifAuthWrite port value s
  | .hifLockAuthLock => Sys2Proof.Machine.execHifLockAuthLock s
  | .hifLockRingLock => Sys2Proof.Machine.execHifLockRingLock s
  | .hifCntClearDrop => Sys2Proof.Machine.execHifCntClearDrop s
  | .hifCntClearDenied => Sys2Proof.Machine.execHifCntClearDenied s
  | .ringSqEnable n => Sys2Proof.Machine.execRingSqEnable n s
  | .ringSqDisable n => Sys2Proof.Machine.execRingSqDisable n s
  | .ringCqEnable n => Sys2Proof.Machine.execRingCqEnable n s
  | .ringCqDisable n => Sys2Proof.Machine.execRingCqDisable n s
  | .dmaCntClearStarve => Sys2Proof.Machine.execDmaCntClearStarve s
  | .cmpCntClearLate => Sys2Proof.Machine.execCmpCntClearLate s
  | .geoCntClearParity => Sys2Proof.Machine.execGeoCntClearParity s
  | .geoCntClearOverstep => Sys2Proof.Machine.execGeoCntClearOverstep s
  | .phoCntClearSubst => Sys2Proof.Machine.execPhoCntClearSubst s
  | .hdgCommitCrcWrite value => Sys2Proof.Machine.execHdgCommitCrcWrite value s
  | .hdgCntClearSafe => Sys2Proof.Machine.execHdgCntClearSafe s
  | .hdgCntClearCount => Sys2Proof.Machine.execHdgCntClearCount s
  | .lplCntClearTe => Sys2Proof.Machine.execLplCntClearTe s
  | .lplCntClearSync => Sys2Proof.Machine.execLplCntClearSync s
  | .lplCntClearLate => Sys2Proof.Machine.execLplCntClearLate s
  | .lplCntClearRepeats => Sys2Proof.Machine.execLplCntClearRepeats s
  | .xlpCntClearEvents => Sys2Proof.Machine.execXlpCntClearEvents s
  | .xlpCntClearErr => Sys2Proof.Machine.execXlpCntClearErr s
  | .xlkCntClearCtl => Sys2Proof.Machine.execXlkCntClearCtl s
  | .xlkCntClearLat => Sys2Proof.Machine.execXlkCntClearLat s
  | .xlkCntClearCnt => Sys2Proof.Machine.execXlkCntClearCnt s
  | .pxhCntClearFlags => Sys2Proof.Machine.execPxhCntClearFlags s
  | .pxhCntClearEvents => Sys2Proof.Machine.execPxhCntClearEvents s
  | .railCntClearFaults => Sys2Proof.Machine.execRailCntClearFaults s
  | .pwrCntClearCount => Sys2Proof.Machine.execPwrCntClearCount s
  | .thmCntClearCount => Sys2Proof.Machine.execThmCntClearCount s
  | .rveInjKeyWrite key => Sys2Proof.Machine.execRveInjKeyWrite key s
  | .rveLockSet => Sys2Proof.Machine.execRveLockSet s
  | .yokCntClearCount => Sys2Proof.Machine.execYokCntClearCount s
  | .yokCntClearCheck => Sys2Proof.Machine.execYokCntClearCheck s
  | .belTimeNsRead => Sys2Proof.Machine.execBelTimeNsRead s
  | .belCntClearCount => Sys2Proof.Machine.execBelCntClearCount s
  | .ethCntClearPtp => Sys2Proof.Machine.execEthCntClearPtp s
  | .ethCntClearTx => Sys2Proof.Machine.execEthCntClearTx s
  | .ethCntClearRx => Sys2Proof.Machine.execEthCntClearRx s
  | .crcuCfgWrite c poly => Sys2Proof.Machine.execCrcuCfgWrite c poly s
  | .crcuDataWrite c log2 value => Sys2Proof.Machine.execCrcuDataWrite c log2 value s
  | .crcuCtxWrite c value => Sys2Proof.Machine.execCrcuCtxWrite c value s
  | .gpioDataWrite out => Sys2Proof.Machine.execGpioDataWrite out s
  | .grnRegLockSet => Sys2Proof.Machine.execGrnRegLockSet s
  | .tstCntClearCount => Sys2Proof.Machine.execTstCntClearCount s
  | .bar2Read addr bytes upset => Sys2Proof.Machine.execBar2Read addr bytes upset s
  | .bar2Write addr data upset => Sys2Proof.Machine.execBar2Write addr data upset s
  | .ringDoorbellPoll n => Sys2Proof.Machine.execRingDoorbellPoll n s
  | .producerIndexReadDone n result => Sys2Proof.Machine.execProducerIndexReadDone n result s
  | .ringEntryFetched n entries => Sys2Proof.Machine.execRingEntryFetched n entries s
  | .staleEntryReread n entries => Sys2Proof.Machine.execStaleEntryReread n entries s
  | .commandStart => Sys2Proof.Machine.execCommandStart s
  | .completionWrite n => Sys2Proof.Machine.execCompletionWrite n s
  | .cqConsumerPoll n result => Sys2Proof.Machine.execCqConsumerPoll n result s
  | .cqFullWaitTimeout n => Sys2Proof.Machine.execCqFullWaitTimeout n s
  | .msixCoalesceTimeout n => Sys2Proof.Machine.execMsixCoalesceTimeout n s
  | .nop src d => Sys2Proof.Machine.execNop src d s
  | .layerSet src d => Sys2Proof.Machine.execLayerSet src d s
  | .layerPresent src d => Sys2Proof.Machine.execLayerPresent src d s
  | .maskUpdate src d => Sys2Proof.Machine.execMaskUpdate src d s
  | .symbolLoad src d => Sys2Proof.Machine.execSymbolLoad src d s
  | .coefLoad src d => Sys2Proof.Machine.execCoefLoad src d s
  | .timingSet src d => Sys2Proof.Machine.execTimingSet src d s
  | .tileMapSet src d => Sys2Proof.Machine.execTileMapSet src d s
  | .calLoad src d => Sys2Proof.Machine.execCalLoad src d s
  | .fadeSet src d => Sys2Proof.Machine.execFadeSet src d s
  | .fluxBudgetSet src d => Sys2Proof.Machine.execFluxBudgetSet src d s
  | .telemetryRead src d => Sys2Proof.Machine.execTelemetryRead src d s
  | .healthSet src d => Sys2Proof.Machine.execHealthSet src d s
  | .railSet src d => Sys2Proof.Machine.execRailSet src d s
  | .powerRequest src d => Sys2Proof.Machine.execPowerRequest src d s
  | .lowPowerPowerdown => Sys2Proof.Machine.execLowPowerPowerdown s
  | .thermalSet src d => Sys2Proof.Machine.execThermalSet src d s
  | .calRun src d => Sys2Proof.Machine.execCalRun src d s
  | .timeSchedule src d => Sys2Proof.Machine.execTimeSchedule src d s
  | .timeSet src d => Sys2Proof.Machine.execTimeSet src d s
  | .pulseSet src d => Sys2Proof.Machine.execPulseSet src d s
  | .safetyCommit src d => Sys2Proof.Machine.execSafetyCommit src d s
  | .safeTest src d => Sys2Proof.Machine.execSafeTest src d s
  | .fwStage src d => Sys2Proof.Machine.execFwStage src d s
  | .fwActivate src d => Sys2Proof.Machine.execFwActivate src d s
  | .auxWrite src d => Sys2Proof.Machine.execAuxWrite src d s
  | .faultAck src d => Sys2Proof.Machine.execFaultAck src d s
  | .faultRead src d => Sys2Proof.Machine.execFaultRead src d s
  | .diagInject src d => Sys2Proof.Machine.execDiagInject src d s
  | .testRun src d => Sys2Proof.Machine.execTestRun src d s
  | .marchRun src d => Sys2Proof.Machine.execMarchRun src d s
  | .yokeSwitch src d => Sys2Proof.Machine.execYokeSwitch src d s
  | .commandDatagramReceived p f => Sys2Proof.Machine.execCommandDatagramReceived p f s
  | .datagramReply p => Sys2Proof.Machine.execDatagramReply p s
  | .bulkDatagramReceived p f => Sys2Proof.Machine.execBulkDatagramReceived p f s
  | .arpRequestReceived p f => Sys2Proof.Machine.execArpRequestReceived p f s
  | .icmpEchoReceived p f => Sys2Proof.Machine.execIcmpEchoReceived p f s
  | .ethLinkUp p => Sys2Proof.Machine.execEthLinkUp p s
  | .ethLinkDown p => Sys2Proof.Machine.execEthLinkDown p s
  | .ethLaunchEligible p q => Sys2Proof.Machine.execEthLaunchEligible p q s
  | .ethFrameTransmit p => Sys2Proof.Machine.execEthFrameTransmit p s
  | .syncReceived p f m => Sys2Proof.Machine.execSyncReceived p f m s
  | .followUpReceived p f m => Sys2Proof.Machine.execFollowUpReceived p f m s
  | .delayExchangeMessageReceived p f msg m => Sys2Proof.Machine.execDelayExchangeMessageReceived p f msg m s
  | .announceReceived p f a => Sys2Proof.Machine.execAnnounceReceived p f a s
  | .managementMessageReceived p f => Sys2Proof.Machine.execManagementMessageReceived p f s
  | .ptpMessageTransmitTimer p msg => Sys2Proof.Machine.execPtpMessageTransmitTimer p msg s
  | .syncReceiptTimeout => Sys2Proof.Machine.execSyncReceiptTimeout s
  | .announceReceiptTimeout => Sys2Proof.Machine.execAnnounceReceiptTimeout s
  | .belRebase => Sys2Proof.Machine.execBelRebase s
  | .alarmFire a => Sys2Proof.Machine.execAlarmFire a s
  | .pulseEdge o => Sys2Proof.Machine.execPulseEdge o s
  | .pulseEnd o => Sys2Proof.Machine.execPulseEnd o s
  | .latchPoint vbiTestOk latSeq => Sys2Proof.Machine.execLatchPoint vbiTestOk latSeq s
  | .vbiEnd => Sys2Proof.Machine.execVbiEnd s
  | .compositionComplete => Sys2Proof.Machine.execCompositionComplete s
  | .pixSend n badLines => Sys2Proof.Machine.execPixSend n badLines s
  | .hostLineUnderrun layer row => Sys2Proof.Machine.execHostLineUnderrun layer row s
  | .coefParityFailure layer pixel => Sys2Proof.Machine.execCoefParityFailure layer pixel s
  | .freezeStall => Sys2Proof.Machine.execFreezeStall s
  | .syncInEdge => Sys2Proof.Machine.execSyncInEdge s
  | .syncInMissing => Sys2Proof.Machine.execSyncInMissing s
  | .syncLockTimeout => Sys2Proof.Machine.execSyncLockTimeout s
  | .teInEdge => Sys2Proof.Machine.execTeInEdge s
  | .teSequenceReceived n a fseqLow fseqHigh chk => Sys2Proof.Machine.execTeSequenceReceived n a fseqLow fseqHigh chk s
  | .echoWindowExpiry => Sys2Proof.Machine.execEchoWindowExpiry s
  | .nakReceived n pkt eop => Sys2Proof.Machine.execNakReceived n pkt eop s
  | .rdrReceived n pkt eop => Sys2Proof.Machine.execRdrReceived n pkt eop s
  | .telStatusReceived n pkt eop => Sys2Proof.Machine.execTelStatusReceived n pkt eop s
  | .telPixelReceived n pkt eop parity => Sys2Proof.Machine.execTelPixelReceived n pkt eop parity s
  | .tileSerialResetDone t => Sys2Proof.Machine.execTileSerialResetDone t s
  | .slotIncludeTimeout k => Sys2Proof.Machine.execSlotIncludeTimeout k s
  | .slotSilentTimeout k => Sys2Proof.Machine.execSlotSilentTimeout k s
  | .controlRequestRetry n => Sys2Proof.Machine.execControlRequestRetry n s
  | .laneSignalDetect n => Sys2Proof.Machine.execLaneSignalDetect n s
  | .laneCommaLock n => Sys2Proof.Machine.execLaneCommaLock n s
  | .laneTrainingSetReceived n ident lane rate state chk => Sys2Proof.Machine.execLaneTrainingSetReceived n ident lane rate state chk s
  | .laneStateTimeout n => Sys2Proof.Machine.execLaneStateTimeout n s
  | .enumerateHelloRepeat n => Sys2Proof.Machine.execEnumerateHelloRepeat n s
  | .enumerateSlotTimeout n => Sys2Proof.Machine.execEnumerateSlotTimeout n s
  | .checkPatternEnd n errors => Sys2Proof.Machine.execCheckPatternEnd n errors s
  | .checkReportTimeout n => Sys2Proof.Machine.execCheckReportTimeout n s
  | .laneLossOfSignal n => Sys2Proof.Machine.execLaneLossOfSignal n s
  | .laneErrorBurst n e => Sys2Proof.Machine.execLaneErrorBurst n e s
  | .laneNewAlignment n => Sys2Proof.Machine.execLaneNewAlignment n s
  | .laneErrorWindow n e => Sys2Proof.Machine.execLaneErrorWindow n e s
  | .laneFbkTimeout n => Sys2Proof.Machine.execLaneFbkTimeout n s
  | .laneSlowRetrain n => Sys2Proof.Machine.execLaneSlowRetrain n s
  | .railGoodLaneRestart r => Sys2Proof.Machine.execRailGoodLaneRestart r s
  | .healthWriteback cancelled => Sys2Proof.Machine.execHealthWriteback cancelled s
  | .healthRecountDone => Sys2Proof.Machine.execHealthRecountDone s
  | .planeCopyComplete => Sys2Proof.Machine.execPlaneCopyComplete s
  | .dmaChannelFreed => Sys2Proof.Machine.execDmaChannelFreed s
  | .dmaDescriptorFetched ch raw upset => Sys2Proof.Machine.execDmaDescriptorFetched ch raw upset s
  | .dmaPacedRequest layer => Sys2Proof.Machine.execDmaPacedRequest layer s
  | .dmaBeatComplete ch beat => Sys2Proof.Machine.execDmaBeatComplete ch beat s
  | .dmaTimeout ch what => Sys2Proof.Machine.execDmaTimeout ch what s
  | .dmaChainDone ch => Sys2Proof.Machine.execDmaChainDone ch s
  | .granaryInitDone failing => Sys2Proof.Machine.execGranaryInitDone failing s
  | .eccRewrite bank => Sys2Proof.Machine.execEccRewrite bank s
  | .rowRepairComplete => Sys2Proof.Machine.execRowRepairComplete s
  | .scrubWordRead bank upset => Sys2Proof.Machine.execScrubWordRead bank upset s
  | .marchStripeDone failing => Sys2Proof.Machine.execMarchStripeDone failing s
  | .retentionReleaseDone => Sys2Proof.Machine.execRetentionReleaseDone s
  | .safeInRequest second => Sys2Proof.Machine.execSafeInRequest second s
  | .testPulseStart second => Sys2Proof.Machine.execTestPulseStart second s
  | .testPulseSample second level => Sys2Proof.Machine.execTestPulseSample second level s
  | .testPulseEnd second => Sys2Proof.Machine.execTestPulseEnd second s
  | .disconnectTestStart second => Sys2Proof.Machine.execDisconnectTestStart second s
  | .disconnectFeedbackLow tenths => Sys2Proof.Machine.execDisconnectFeedbackLow tenths s
  | .disconnectOpenTimeout => Sys2Proof.Machine.execDisconnectOpenTimeout s
  | .disconnectReleaseCheck high => Sys2Proof.Machine.execDisconnectReleaseCheck high s
  | .disconnectTestRetry => Sys2Proof.Machine.execDisconnectTestRetry s
  | .powerupDisconnectTest second => Sys2Proof.Machine.execPowerupDisconnectTest second s
  | .safeFbUnexpectedOpen second => Sys2Proof.Machine.execSafeFbUnexpectedOpen second s
  | .hedgeSelfFault which => Sys2Proof.Machine.execHedgeSelfFault which s
  | .hedgeHeartbeatLoss => Sys2Proof.Machine.execHedgeHeartbeatLoss s
  | .hedgeCrcScan good corrected => Sys2Proof.Machine.execHedgeCrcScan good corrected s
  | .stagedBlockTimeout => Sys2Proof.Machine.execStagedBlockTimeout s
  | .hedgePowerUp => Sys2Proof.Machine.execHedgePowerUp s
  | .commissionNLow => Sys2Proof.Machine.execCommissionNLow s
  | .commissionNHigh => Sys2Proof.Machine.execCommissionNHigh s
  | .clockDeviation clock => Sys2Proof.Machine.execClockDeviation clock s
  | .dieBridgeTransferFail kind => Sys2Proof.Machine.execDieBridgeTransferFail kind s
  | .dieBridgeLoss => Sys2Proof.Machine.execDieBridgeLoss s
  | .dieBridgeRestored => Sys2Proof.Machine.execDieBridgeRestored s
  | .railSwitchingCycle r vs num => Sys2Proof.Machine.execRailSwitchingCycle r vs num s
  | .railComparatorTrip r => Sys2Proof.Machine.execRailComparatorTrip r s
  | .railShortFault r => Sys2Proof.Machine.execRailShortFault r s
  | .railOvervoltageFault r => Sys2Proof.Machine.execRailOvervoltageFault r s
  | .railSenseFault r => Sys2Proof.Machine.execRailSenseFault r s
  | .railOvercurrentTimeout r => Sys2Proof.Machine.execRailOvercurrentTimeout r s
  | .railUndervoltageTimeout r => Sys2Proof.Machine.execRailUndervoltageTimeout r s
  | .railSoftStartTimeout r => Sys2Proof.Machine.execRailSoftStartTimeout r s
  | .railPgood r => Sys2Proof.Machine.execRailPgood r s
  | .railSoftStopEnd r => Sys2Proof.Machine.execRailSoftStopEnd r s
  | .railSeqDelayExpiry r => Sys2Proof.Machine.execRailSeqDelayExpiry r s
  | .railRestartTimeout r => Sys2Proof.Machine.execRailRestartTimeout r s
  | .railRestartCountClear r => Sys2Proof.Machine.execRailRestartCountClear r s
  | .sensorSample sensor sample => Sys2Proof.Machine.execSensorSample sensor sample s
  | .tileTempStale t => Sys2Proof.Machine.execTileTempStale t s
  | .throttleStep light => Sys2Proof.Machine.execThrottleStep light s
  | .throttleHoldExpiry light => Sys2Proof.Machine.execThrottleHoldExpiry light s
  | .calMaxTimer => Sys2Proof.Machine.execCalMaxTimer s
  | .calStep value => Sys2Proof.Machine.execCalStep value s
  | .reeveEvent => Sys2Proof.Machine.execReeveEvent s
  | .reeveRecovery g injected => Sys2Proof.Machine.execReeveRecovery g injected s
  | .reeveHeartbeatLoss => Sys2Proof.Machine.execReeveHeartbeatLoss s
  | .injKeyExpiry => Sys2Proof.Machine.execInjKeyExpiry s
  | .wakePinEvent high => Sys2Proof.Machine.execWakePinEvent high s
  | .wakeSafeInEvent => Sys2Proof.Machine.execWakeSafeInEvent s
  | .wakePcieSquelch => Sys2Proof.Machine.execWakePcieSquelch s
  | .i2cTransaction x => Sys2Proof.Machine.execI2cTransaction x s
  | .i2cLowPowerTransaction x => Sys2Proof.Machine.execI2cLowPowerTransaction x s
  | .i2cDoorbell => Sys2Proof.Machine.execI2cDoorbell s
  | .nightwatchVisit ambient die remote => Sys2Proof.Machine.execNightwatchVisit ambient die remote s
  | .pgCoreRise => Sys2Proof.Machine.execPgCoreRise s
  | .pllLock pll => Sys2Proof.Machine.execPllLock pll s
  | .wakeImageRestore good => Sys2Proof.Machine.execWakeImageRestore good s
  | .wakeStepTimeout step => Sys2Proof.Machine.execWakeStepTimeout step s
  | .wakeRetry => Sys2Proof.Machine.execWakeRetry s
  | .wakeL0Placement => Sys2Proof.Machine.execWakeL0Placement s
  | .xtal32Switch => Sys2Proof.Machine.execXtal32Switch s
  | .xtal32Loss => Sys2Proof.Machine.execXtal32Loss s
  | .bootImageLoaded img => Sys2Proof.Machine.execBootImageLoaded img s
  | .flashLoadRecordDone data => Sys2Proof.Machine.execFlashLoadRecordDone data s
  | .startupCommand => Sys2Proof.Machine.execStartupCommand s
  | .commissioningRecordWriteDone ok => Sys2Proof.Machine.execCommissioningRecordWriteDone ok s
  | .auxFrameShift c => Sys2Proof.Machine.execAuxFrameShift c s
  | .auxShiftEnd c dataCrc ownCrc => Sys2Proof.Machine.execAuxShiftEnd c dataCrc ownCrc s
  | .yokeQuietTime => Sys2Proof.Machine.execYokeQuietTime s
  | .yokeClaimSample high => Sys2Proof.Machine.execYokeClaimSample high s
  | .yokeHolderCheck high => Sys2Proof.Machine.execYokeHolderCheck high s
  | .yokeLatchMsg m => Sys2Proof.Machine.execYokeLatchMsg m s
  | .yokeRailMsg m => Sys2Proof.Machine.execYokeRailMsg m s
  | .yokeSigMsg m => Sys2Proof.Machine.execYokeSigMsg m s
  | .yokeSharedMsg m => Sys2Proof.Machine.execYokeSharedMsg m s
  | .yokeHelloMsg m => Sys2Proof.Machine.execYokeHelloMsg m s
  | .yokeTripMsg => Sys2Proof.Machine.execYokeTripMsg s
  | .yokeTripRelease => Sys2Proof.Machine.execYokeTripRelease s
  | .yokeHandoverMsg seq => Sys2Proof.Machine.execYokeHandoverMsg seq s
  | .yokeExcludeMsg reason => Sys2Proof.Machine.execYokeExcludeMsg reason s
  | .yokeCopyBlock block data => Sys2Proof.Machine.execYokeCopyBlock block data s
  | .yokeSnapshot m => Sys2Proof.Machine.execYokeSnapshot m s
  | .partnerLoss => Sys2Proof.Machine.execPartnerLoss s
  | .leaderLatchTimeout => Sys2Proof.Machine.execLeaderLatchTimeout s
  | .yokeAlignTimeout => Sys2Proof.Machine.execYokeAlignTimeout s
  | .yokeReturnTimer => Sys2Proof.Machine.execYokeReturnTimer s
  | .yokeSecondaryClaimTimeout => Sys2Proof.Machine.execYokeSecondaryClaimTimeout s
  | .safeInHigh second => Sys2Proof.Machine.execSafeInHigh second s
  | .sysRstNRelease => Sys2Proof.Machine.execSysRstNRelease s
  | .loopbackPatternEnd n errors => Sys2Proof.Machine.execLoopbackPatternEnd n errors s
  | .ethLoopFrameReturned fcsOk data => Sys2Proof.Machine.execEthLoopFrameReturned fcsOk data s
  | .ethLoopFrameTimeout => Sys2Proof.Machine.execEthLoopFrameTimeout s
  | .jtagInstructionUpdate num => Sys2Proof.Machine.execJtagInstructionUpdate num s
  | .reeveHeartbeatRestored => Sys2Proof.Machine.execReeveHeartbeatRestored s
  | .frcWrap => Sys2Proof.Machine.execFrcWrap s
  | .analogueDomainReady => Sys2Proof.Machine.execAnalogueDomainReady s
  | .pgSramRise => Sys2Proof.Machine.execPgSramRise s
  | .fwStageFlashDone fwSigOk cfgSigOk flashOk => Sys2Proof.Machine.execFwStageFlashDone fwSigOk cfgSigOk flashOk s
  | .yokePeriodicMessage kind => Sys2Proof.Machine.execYokePeriodicMessage kind s
  | .coverBitExpiry => Sys2Proof.Machine.execCoverBitExpiry s
  | .yokeCopyPassEnd => Sys2Proof.Machine.execYokeCopyPassEnd s
  | .yokeHandoverRelease => Sys2Proof.Machine.execYokeHandoverRelease s

end Sys2Proof.Machine
end

