-- ==== Sys2Proof/Machine/Endpoint.lean ====
section
/-!
DEFINITION. What the PCI Express configuration space presents (R43, R51, R68 of spec/02_host_rings.md): a
function of the state, as the pins are. No command of the table reads it or writes it.
-/

namespace Sys2Proof.Machine

/-- The capabilities the endpoint implements, and no others (R43). -/
inductive PcieCap where
  /-- PCI Express, with Function Level Reset and ASPM L1. -/
  | express
  /-- Power Management: D0 and D3hot. -/
  | power
  | msix
  | aer
  | serialNumber
  deriving DecidableEq, Repr

/-- A base address register: 64-bit, its size, and whether it is prefetchable. -/
structure PcieBar where
  number : Nat
  bytes : Nat
  prefetchable : Bool
  deriving DecidableEq, Repr

/-- The table PCI Express configuration (R43). -/
structure PcieConfig where
  vendorId : BitVec 16
  deviceId : BitVec 16
  revision : Nat
  classCode : BitVec 24
  subVendor : BitVec 16
  subId : BitVec 16
  bars : List PcieBar
  maxPayload : Nat
  maxReadRequest : Nat
  nonPosted : Nat
  capabilities : List PcieCap
  /-- Function Level Reset and ASPM L1 are implemented, ASPM L0s is not. -/
  flr : Bool
  aspmL1 : Bool
  aspmL0s : Bool
  msixVectors : Nat
  /-- The MSI-X capability's enable and function mask. -/
  msixEnable : Bool
  msixFuncMask : Bool
  /-- Offsets in BAR4 of the MSI-X table and of the pending-bit array. -/
  msixTable : Nat
  msixPending : Nat
  interruptPin : Nat
  serialNumber : DWord
  /-- The function is in D3hot. -/
  d3hot : Bool
  /-- The status registers of Advanced Error Reporting. -/
  aerUncor : Word
  aerCor : Word
  deriving DecidableEq, Repr

/-- Device ID (R43): 0x9624, on a GLN-9612 0x9612. -/
def deviceId (s : State) : BitVec 16 := if s.part.small then 0x9612#16 else 0x9624#16

/-- The configuration space (R43). -/
def pcieConfig (s : State) : PcieConfig :=
  { vendorId := s.hif.vendorId, deviceId := deviceId s, revision := s.part.step
    classCode := 0x048000#24, subVendor := s.hif.subVendor, subId := s.hif.subId
    bars := [⟨0, 0x400000, false⟩, ⟨2, 0x4000000, true⟩, ⟨4, 0x10000, false⟩]
    maxPayload := 256, maxReadRequest := 512, nonPosted := 64
    capabilities := [.express, .power, .msix, .aer, .serialNumber]
    flr := true, aspmL1 := true, aspmL0s := false
    msixVectors := 32, msixEnable := s.hif.msix.enable, msixFuncMask := s.hif.msix.funcMask
    msixTable := 0x0000, msixPending := 0x8000, interruptPin := 0
    serialNumber := s.part.serial, d3hot := s.hif.d3hot
    aerUncor := s.hif.aerUncor, aerCor := s.hif.aerCor }

/-- The configuration space as a request finds it: retry status until IDENTITY is applied, nothing while
the endpoint is in reset (R43, R81, R554, R574). -/
inductive ConfigAnswer where
  | reset
  | retry
  | config (c : PcieConfig)
  deriving DecidableEq, Repr

/-- The answer to a configuration request. -/
def configAnswer (s : State) : ConfigAnswer :=
  if !s.pwr.core || s.hif.hostless || s.pwr.perstLow then .reset
  else if s.hif.configRetry then .retry
  else .config (pcieConfig s)

/-- The Vector Control word of entry v of the MSI-X table in BAR4: bit 0 masks the vector (R68). -/
def msixVectorControl (v : Fin 32) (s : State) : Word := if bitOf s.hif.msix.masked v.val then 1 else 0

/-- The message address and message data of entry v of the MSI-X table in BAR4 (R68). -/
def msixTableEntry (v : Fin 32) (s : State) : DWord × Word := s.hif.msix.table[v]

/-- The pending-bit array in BAR4 (R68). -/
def msixPendingBits (s : State) : BitVec 32 := s.hif.msix.pending

/-- What the host may write in the configuration space and in BAR4 between two commands (R43, R68): the MSI-X
enable, function mask and table, the power state D0, and the AER status bits, which it clears. Each field is a
free value (log entry 84). -/
def hostWrites (s : State) : State :=
  let n := s.free
  { s with
    free := n + 72
    hif.msix.enable := Config.freeBool n
    hif.msix.funcMask := Config.freeBool (n + 1)
    hif.msix.masked := Config.freeBits 32 (n + 2)
    hif.msix.table := Vector.ofFn fun v : Fin 32 =>
      (Config.freeBits 64 (n + 8 + 2 * v.val), Config.freeBits 32 (n + 9 + 2 * v.val))
    hif.d3hot := s.hif.d3hot && Config.freeBool (n + 3)
    hif.aerUncor := s.hif.aerUncor &&& Config.freeBits 32 (n + 4)
    hif.aerCor := s.hif.aerCor &&& Config.freeBits 32 (n + 5) }

/-- The vectors that are pending and held by no mask any more are sent (R68). -/
def sendPending (s : State) : State :=
  (List.range 32).foldl (fun s v =>
    if bitOf s.hif.msix.pending v && vectorOpen v s then
      emit (msixMsg v s) { s with
        hif.msix.pending := s.hif.msix.pending &&& ~~~(BitVec.ofNat 32 (2 ^ v)) }
    else s) s

/-- In idle time a host whose link is up may or may not write the configuration space and BAR4, for which the
table has no row (R43, R68, log entry 84). -/
def hostConfigures (s : State) : State :=
  if !(s.pwr.core && s.hif.linkUp && !s.hif.hostless && !s.pwr.perstLow && !s.hif.configRetry) then s
  else
    let f := freshBool s
    if f.1 then sendPending (hostWrites f.2) else f.2

end Sys2Proof.Machine
end

