-- ==== Sys2Proof/Machine/Pins.lean ====
section
/-!
DEFINITION. The levels of the output balls the spec gives a meaning, as functions of the state
(R33, R226, R386, R401, R436, R442, R453, R514 and the tables of spec/21_balls.md).
-/

namespace Sys2Proof.Machine

/-- FAULT_N is low (R40, R401, R436, R442, R514); in SLEEP, NIGHTWATCH and DORMANT only for a wake failure
(R386) and for REEVE_LOST, which R442 lets drive it in every state (log entry 149). -/
def faultLow (s : State) : Bool :=
  s.pwr.wakeFail || s.rve.lostAo || (supplied s && (s.pwr.cores.stuck || s.boot.fail || faultNLow s))

/-- FALLBACK_N is low (R33, R226, R281, R401, R420): in a yoked device those causes drive it only while the
partner covers no lane (R467). -/
def fallbackLow (s : State) : Bool :=
  s.pwr.wakeFail || (fbkHolds s && !(yoked s && s.yok.cover != 0)) ||
    (s.pwr.hedge && !s.hdg.selfHeld && s.hdg.state == 2)

/-- TP_A, or TP_B for `second`, is high (R231, R233, R234): low for 200 µs of a test pulse. -/
def tpHigh (second : Bool) (s : State) : Bool :=
  let k := safeCh second s
  !(s.pwr.hedge && k.window && decide (s.now < k.pulseAt + 200000))

/-- SAFE_OFF_A and SAFE_OFF_B disconnect (R32, R235, R236): the reaction acts on both, a test on its own
switch. A device that does not hold YOKE_ACT_N drives neither (R237, R456, R466): its tests are its partner's. -/
def safeOffA (s : State) : Bool :=
  disconnected s || (s.pwr.hedge && drivesOff s && match s.hdg.disc with
    | some t => t.asserted && !t.second
    | none => false)

/-- SAFE_OFF_B. -/
def safeOffB (s : State) : Bool :=
  disconnected s || (s.pwr.hedge && drivesOff s && match s.hdg.disc with
    | some t => t.asserted && t.second
    | none => false)

/-- YOKE_ACT_N is pulled low by this device (R453, R454). -/
def yokeActLow (s : State) : Bool := s.yok.holding || s.yok.claim == .pulse

/-- SETTINGS has been applied since the last release from reset or isolation (R517, R549). -/
def settingsApplied (s : State) : Bool :=
  s.pwr.core && match s.pwr.start with
    | some st => st.restored
    | none => true

/-- A GPIO is set as an output through GPIO_CFG (R530, R548); it resets as an input. -/
def gpioOutput (i : Fin 16) (s : State) : Bool := bitOf s.gpio.dir i.val && settingsApplied s

/-- A GPIO pin is driven, and to which level (R530): open-drain pins drive low only. -/
def gpioDrives (i : Fin 16) (s : State) : Option Bool :=
  let out := bitOf s.gpio.out i.val
  if gpioOutput i s && !(bitOf s.gpio.od i.val && out) then some out else none

/-- RAILn_PWM (R363): none is high-impedance; while the rail switches, the part of each cycle, in 1/65,536, for
which it is high before it goes low. A comparator trip ends the on-time earlier (R365). -/
def railPwm (k : Fin 8) (s : State) : Option Nat :=
  if s.pwr.analogue && (s.rail.rail[k]).switching then some (s.rail.rail[k]).duty else none

/-- PPS_OUTo is high (R386, R502, R503): its idle level, the other one during a pulse, and low while the
Bellhouse is unpowered. -/
def ppsHigh (o : Fin 4) (s : State) : Bool :=
  let x := s.bel.pulse[o]
  s.bel.powered && (x.active.isSome != x.cfg.low)

/-- The signal balls of R550, a differential pair as one, but those of a lane, which have neither pull nor
VDDIO bank. -/
inductive Ball where
  | safeIn (b : Bool) | tp (b : Bool) | safeOff (b : Bool) | safeFb (b : Bool) | fallbackN | faultN | wake
  | commissionN | yokeActN | yokePri | scl | sda | addr (i : Fin 3) | testen | sysRstN | regEnCore
  | regEnSram | pgCore | pgSram | syncIn | teIn | ppsOut (o : Fin 4) | auxClk (c : Fin 4) | auxDat (c : Fin 4)
  | auxLat (c : Fin 4) | auxRet (c : Fin 4) | qspiClk | qspiCsN | qspiIo (i : Fin 4) | jtagTck | jtagTms
  | jtagTdi | jtagTdo | jtagTrstN | perstN | gpio (i : Fin 16)
  deriving DecidableEq, Repr

/-- The bank of a ball (R550): 0 VDDIO_AO, 1 VDDIO_1, 2 VDDIO_2. -/
def Ball.bank (b : Ball) : Fin 3 :=
  match b with
  | .syncIn | .teIn | .ppsOut _ | .auxClk _ | .auxDat _ | .auxLat _ | .auxRet _ => 2
  | .qspiClk | .qspiCsN | .qspiIo _ | .jtagTck | .jtagTms | .jtagTdi | .jtagTdo | .jtagTrstN | .perstN
  | .gpio _ => 1
  | _ => 0

/-- The internal pull of a ball (R550): up, or down. -/
def Ball.fitted (b : Ball) : Option Bool :=
  match b with
  | .safeOff _ | .safeFb _ | .wake | .yokePri | .addr _ | .testen | .pgCore | .pgSram | .syncIn | .teIn
  | .auxClk _ | .auxDat _ | .auxLat _ | .auxRet _ | .qspiClk | .jtagTck | .jtagTrstN | .perstN
  | .gpio _ => some false
  | .commissionN | .sysRstN | .qspiCsN | .qspiIo _ | .jtagTms | .jtagTdi => some true
  | .safeIn _ | .tp _ | .fallbackN | .faultN | .yokeActN | .scl | .sda | .regEnCore | .regEnSram
  | .ppsOut _ | .jtagTdo => none

/-- The pull that is enabled (R548): always, but on a GPIO set as an output. -/
def pull (b : Ball) (s : State) : Option Bool :=
  match b with
  | .gpio i => if gpioOutput i s then none else b.fitted
  | _ => b.fitted

/-- The millivolts a ball's bank runs at (R548). -/
def ioMillivolts (b : Ball) (s : State) : Nat := if s.pwr.io33[b.bank] then 3300 else 1800

/-- AUXc_CLK and AUXc_DAT are driven: high-impedance while USED = 0 and while the core domain is down
(R386, R549). -/
def auxDriven (c : Fin 4) (s : State) : Bool := s.pwr.core && (s.aux[c]).used

/-- The quad-SPI outputs are driven (R386). -/
def qspiDriven (s : State) : Bool := s.pwr.core

/-- A lane's transmitter, 24 the yoke lane's, is driven: high-impedance until the lane enters DETECT, and in OFF
(R295, R306, R386, R549, R550); off too on a lane that the part does not have (R2, R288). -/
def txDriven (n : Fin 25) (s : State) : Bool :=
  s.pwr.serdes && !laneHeld n s && (laneAt n s).state != .off

/-- The transmitter of ETHp is driven: high-impedance until the port is enabled and while the SerDes domain is
down (R386, R550). -/
def ethTxDriven (p : Fin 2) (s : State) : Bool :=
  s.pwr.core && s.pwr.serdes && (s.eth.port[p]).enabled

/-- AUXc_LAT is high, in the pulse of a latch under way (Emit.auxLatch) or not (R386, R549): between the pulses,
unused and while the core domain is down it is held low. -/
def auxLatHigh (c : Fin 4) (pulse : Bool) (s : State) : Bool := pulse && auxDriven c s

/-- JTAG_TDO is driven: only while the TAP shifts (R550), and high-impedance while the core domain is down
(R386). -/
def tdoDriven (shifting : Bool) (s : State) : Bool := s.pwr.core && shifting

/-- REG_EN_CORE and REG_EN_SRAM (R385). -/
def regEnCore (s : State) : Bool := s.pwr.regEnCore
/-- REG_EN_SRAM. -/
def regEnSram (s : State) : Bool := s.pwr.regEnSram

end Sys2Proof.Machine
end

