-- ==== Sys2Proof/Machine/Idle.lean ====
section
/-!
DEFINITION. What passes while no command waits: one cycle of the FRC's clock, 4 ns, or 40 ns in
SLEEP with KEEP_TIME (R488; log entry 1).
-/

namespace Sys2Proof.Machine

/-- The free-running counter advances while the Bellhouse is powered and has its clock (R488). -/
def idleClock (s : State) : State :=
  let s := { s with now := s.now + if s.bel.sleepClock then 40 else 4 }
  if s.bel.powered && (s.pwr.pllEth || s.bel.sleepClock) then { s with bel := s.bel.tick } else s

/-- The control cores end the coefficient loads they have begun (R187). -/
def idleKernels (s : State) : State := if coresUp s then finishKernels s else s

/-- Every lane over 4 ns of idle time; one that the partner covers and a cause of R467 silences is in electrical
idle. -/
def idleLanes (s : State) : State :=
  (List.finRange 25).foldl (fun s n =>
    if (List.finRange 24).any fun k => k.val == n.val && laneSilenced s k then s else laneIdle s n) s

/-- The overrides of the lanes are repeated every 10 µs (R227, R281, R303, R420). -/
def repeatOverride (s : State) : State :=
  if s.link.overrideAt + 10000 ≤ s.now then
    (drivenLanes s).foldl
      (fun s n => match laneOverride s n with
        | some p => sendLane (Fin.castSucc n) p s
        | none => s) { s with link.overrideAt := s.now }
  else s

/-- Idle time: the clock runs, YOKE_ACT_N may move, a SAFE_TEST that waited begins (R250), the lanes keep their SKP interval (R311), overrides of the lanes repeat,
coefficient loads end, the host may configure the endpoint (R43), phases B and K open when they are due, the Reeve's log takes
what waits (R431), WAKE held high keeps firing (R396), and a
low-power entry goes on to its commit point (R187, R387, R572). -/
def idle (s : State) : State :=
  let s := hostConfigures (idleKernels (repeatOverride (idleLanes (beginTest (idleLine (idleClock s))))))
  let s := advanceStart (idlePhaseA s)
  commitLow (whenS s.pwr.wakeHigh (fireWake 1) (whenS s.pwr.core drainLog s))

end Sys2Proof.Machine
end

