-- ==== Sys2Proof/Safety.lean ====
section
/-!
DEFINITION. What claims about a step are stated in: the parts of the state a command may change, and
the invariants every step keeps.
-/

namespace Sys2Proof.Safety

open Sys2Proof Sys2Proof.Machine

/-- The parts of State: its fields, with the authority masks apart from the rest of the host interface
(R72) and the Granary's bytes apart from its registers (R104). -/
inductive Zone where
  | pending | now | free | out | part | hif | auth | dma | grn | mem | cmp | pho | hdg | lpl | link | pxh | rail | pwr
  | thm | rve | yok | bel | eth | mgt | boot | aux | crcu | gpio | tst | running | nextSer | maskQ
  | jobs | kernels | marchCmd | saved
  deriving DecidableEq, Repr

/-- Two states agree in a part. -/
def same : Zone → State → State → Prop
  | .pending, s, t => t.pending = s.pending
  | .now, s, t => t.now = s.now
  | .free, s, t => t.free = s.free
  | .out, s, t => t.out = s.out
  | .part, s, t => t.part = s.part
  | .hif, s, t => { t.hif with auth := s.hif.auth } = s.hif
  | .auth, s, t => t.hif.auth = s.hif.auth
  | .dma, s, t => t.dma = s.dma
  | .grn, s, t => { t.grn with mem := s.grn.mem } = s.grn
  | .mem, s, t => t.grn.mem = s.grn.mem
  | .cmp, s, t => t.cmp = s.cmp
  | .pho, s, t => t.pho = s.pho
  | .hdg, s, t => t.hdg = s.hdg
  | .lpl, s, t => t.lpl = s.lpl
  | .link, s, t => t.link = s.link
  | .pxh, s, t => t.pxh = s.pxh
  | .rail, s, t => t.rail = s.rail
  | .pwr, s, t => t.pwr = s.pwr
  | .thm, s, t => t.thm = s.thm
  | .rve, s, t => t.rve = s.rve
  | .yok, s, t => t.yok = s.yok
  | .bel, s, t => t.bel = s.bel
  | .eth, s, t => t.eth = s.eth
  | .mgt, s, t => t.mgt = s.mgt
  | .boot, s, t => t.boot = s.boot
  | .aux, s, t => t.aux = s.aux
  | .crcu, s, t => t.crcu = s.crcu
  | .gpio, s, t => t.gpio = s.gpio
  | .tst, s, t => t.tst = s.tst
  | .running, s, t => t.running = s.running
  | .nextSer, s, t => t.nextSer = s.nextSer
  | .maskQ, s, t => t.maskQ = s.maskQ
  | .jobs, s, t => t.jobs = s.jobs
  | .kernels, s, t => t.kernels = s.kernels
  | .marchCmd, s, t => t.marchCmd = s.marchCmd
  | .saved, s, t => t.saved = s.saved

/-- t differs from s in none but the listed parts. -/
def Keeps (l : List Zone) (s t : State) : Prop := ∀ p, p ∉ l → same p s t

/-- An outcome is a next state that satisfies P. -/
def Answers (o : Host.Outcome State Fault Refusal) (P : State → Prop) : Prop := ∃ t, o = .next t ∧ P t

/-- t has one more event in the Reeve's inbox than s: the group, class and detail given (R430). -/
def Raised (group : Nat) (cls : Machine.Class) (detail : Nat) (s t : State) : Prop :=
  t.rve.inbox = s.rve.inbox ++ [⟨group, cls, BitVec.ofNat 32 detail, false, s.now⟩]

/-- t has sent exactly these since s, first one first. -/
def Sent (l : List Emit) (s t : State) : Prop := t.out = l.reverse ++ s.out

end Sys2Proof.Safety
end

