-- ==== Sys2Proof/Claims.lean ====
section
/-!
DEFINITION. The words the statements are made of: a command that starts, the state it runs in, how it ends, and
the parts of the state each command may change.
-/

open Sys2Proof Sys2Proof.Machine

namespace Sys2Proof.Safety

/-- The command that a row of the opcode table starts: the descriptor under the row's opcode, its sender,
its arrival and its serial number. -/
def cmdOf (op : Nat) (src : Src) (d : Desc) (s : State) : Cmd := ⟨src, withOpcode d op, s.now, s.nextSer⟩

/-- The state in which that command runs: it counts as started and not completed. -/
def begun (op : Nat) (src : Src) (d : Desc) (s : State) : State :=
  { s with nextSer := s.nextSer + 1, running := s.running ++ [cmdOf op src d s] }

/-- The command starts, and nothing that comes before the checks of its own opcode turns it away: its
sender is served, no FENCE holds it, and it passes the version, the opcode, the authority of its sender and
the state of the pair (R54, R60, R61). -/
abbrev Accepted (op : Nat) (src : Src) (d : Desc) (s : State) : Prop :=
  serves src s = true ∧ fenceOk src (withOpcode d op) s = true ∧
    gate (cmdOf op src d s) (begun op src d s) = none

/-- The command has done its work, which leaves u, and finishes there with a status and a result: `finish`
writes its completion, or has it wait for its commit (R62). u differs from s in no part but those listed,
the list of running commands and the pair's digest of commands (R461). -/
def Ends (op : Nat) (src : Src) (d : Desc) (s : State) (l : List Zone) (st : BitVec 16) (r : Result)
    (P : State → Prop) (o : Host.Outcome State Fault Refusal) : Prop :=
  ∃ u, o = .next (finish (cmdOf op src d s) st r u) ∧ Keeps ([.nextSer, .running, .yok] ++ l) s u ∧
    u.running = s.running ++ [cmdOf op src d s] ∧ P u

/-- The command has begun and goes on: it is among the running ones, without a completion yet. -/
def Begins (op : Nat) (src : Src) (d : Desc) (s : State) (l : List Zone) (P : State → Prop)
    (o : Host.Outcome State Fault Refusal) : Prop :=
  ∃ t, o = .next t ∧ Keeps ([.nextSer, .running, .yok] ++ l) s t ∧
    t.running = s.running ++ [cmdOf op src d s] ∧ P t

/-- A row of the opcode index (R71), with its sender and its descriptor. -/
def opcodeRow : Instr → Option (Nat × Src × Desc)
  | .nop src d => some (0x00, src, d)
  | .layerSet src d => some (0x10, src, d)
  | .layerPresent src d => some (0x11, src, d)
  | .maskUpdate src d => some (0x12, src, d)
  | .symbolLoad src d => some (0x13, src, d)
  | .coefLoad src d => some (0x14, src, d)
  | .timingSet src d => some (0x18, src, d)
  | .tileMapSet src d => some (0x19, src, d)
  | .calLoad src d => some (0x20, src, d)
  | .fadeSet src d => some (0x21, src, d)
  | .fluxBudgetSet src d => some (0x22, src, d)
  | .telemetryRead src d => some (0x28, src, d)
  | .healthSet src d => some (0x29, src, d)
  | .railSet src d => some (0x30, src, d)
  | .powerRequest src d => some (0x38, src, d)
  | .thermalSet src d => some (0x39, src, d)
  | .calRun src d => some (0x3A, src, d)
  | .timeSchedule src d => some (0x40, src, d)
  | .timeSet src d => some (0x41, src, d)
  | .pulseSet src d => some (0x42, src, d)
  | .safetyCommit src d => some (0x48, src, d)
  | .safeTest src d => some (0x49, src, d)
  | .fwStage src d => some (0x50, src, d)
  | .fwActivate src d => some (0x51, src, d)
  | .auxWrite src d => some (0x58, src, d)
  | .faultAck src d => some (0x60, src, d)
  | .faultRead src d => some (0x61, src, d)
  | .diagInject src d => some (0x62, src, d)
  | .testRun src d => some (0x68, src, d)
  | .marchRun src d => some (0x69, src, d)
  | .yokeSwitch src d => some (0x70, src, d)
  | _ => none

/-- Every authority mask lies within its IMAGE_CLASS, and that of the yoke peer is 0 (R75, R76). -/
abbrev AuthorityWithin (h : Hif) : Prop :=
  (∀ p : Fin 5, (h.auth[p]).cls &&& (h.auth[p]).image = (h.auth[p]).cls) ∧
    (h.auth[(4 : Fin 5)]).image = 0 ∧ (h.auth[(4 : Fin 5)]).cls = 0

/-- So do the masks of the state and those a wake image holds. -/
def AuthorityKeeps (s : State) : Prop :=
  AuthorityWithin s.hif ∧ ∀ v, s.saved = some v → AuthorityWithin v.hif

/-- The fields of a submission ring that software writes, ENABLE apart (R48). -/
def sqFields (q : SqRing) : DWord × DWord × Nat × Nat × Nat × Fin 16 :=
  (q.base, q.db, q.pollUs, q.log2, q.prio, q.cq)

/-- The fields of a completion ring that software writes, ENABLE apart (R48). -/
def cqFields (q : CqRing) : DWord × DWord × Nat × Nat × Nat × Bool × Nat :=
  (q.base, q.db, q.coalUs, q.coalCount, q.log2, q.irqEn, q.vector)

/-- The parts of the state a command may change; every other part stays as it is. `.registerRead` and the
other accesses name the parts that a register of the map may stand for. -/
def touches : Instr → List Zone
  | .por _ _ =>
    [.free, .part, .hif, .auth, .dma, .grn, .mem, .cmp, .pho, .hdg, .lpl, .link, .pxh, .rail, .pwr,
     .thm, .rve, .yok, .bel, .eth, .mgt, .boot, .aux, .crcu, .gpio, .tst, .running, .nextSer,
     .maskQ, .jobs, .kernels, .marchCmd, .saved]
  | .sysReset | .pgCoreLoss | .testenChange _ | .jtagInstructionUpdate _ =>
    [.out, .hif, .dma, .grn, .cmp, .pho, .hdg, .lpl, .link, .pxh, .rail, .pwr, .thm, .rve, .yok,
     .bel, .eth, .mgt, .boot, .aux, .crcu, .gpio, .tst, .running, .maskQ, .jobs, .kernels,
     .marchCmd, .saved]
  | .pgSramLossInSleep | .grnRegLockSet | .eccRewrite _ | .rowRepairComplete => [.grn]
  | .coreReset | .lockstepMismatch | .watchdogExpiry =>
    [.hif, .dma, .pwr, .thm, .rve, .eth, .mgt, .running, .maskQ]
  | .firmwareReturnToService =>
    [.free, .out, .part, .hif, .grn, .mem, .cmp, .pho, .lpl, .link, .pxh, .rail, .pwr, .rve, .yok,
     .bel, .eth, .mgt, .boot, .tst, .running, .maskQ, .jobs, .kernels, .marchCmd]
  | .firmwareRestartTimeout => [.free, .out, .pwr, .rve, .boot]
  | .perstNChange _ =>
    [.free, .hif, .dma, .grn, .mem, .cmp, .lpl, .pwr, .rve, .yok, .eth, .mgt, .boot, .tst, .running,
     .maskQ, .jobs]
  | .pcieFlr | .pcieD3hot | .pcieLinkDown =>
    [.free, .hif, .dma, .grn, .mem, .cmp, .lpl, .rve, .yok, .eth, .mgt, .boot, .tst, .running,
     .maskQ, .jobs]
  | .pcieLinkUp _ _ | .reg64LowWrite _ _ | .hifLockAuthLock | .hifLockRingLock | .hifCntClearDrop
  | .hifCntClearDenied | .ringSqEnable _ | .ringCqEnable _ => [.hif]
  | .pcieAerError _ _ | .ringCqDisable _ | .cqFullWaitTimeout _ => [.hif, .rve]
  | .bar0UnmappedAccess _ _ | .bar0BadWidthAccess _ _ _ => [.out, .rve]
  | .registerWrite _ _ =>
    [.out, .hif, .auth, .dma, .grn, .cmp, .pho, .hdg, .lpl, .link, .pxh, .rail, .pwr, .thm, .rve,
     .yok, .bel, .eth, .mgt, .crcu, .gpio, .tst]
  | .reg64LowRead _ | .hifKickSq _ | .hifKickCq _ | .ringDoorbellPoll _ | .completionWrite _
  | .msixCoalesceTimeout _ => [.out, .hif]
  | .reg64HighRead _ | .yokePeriodicMessage _ => [.out]
  | .reg64HighWrite _ _ => [.hif, .rve, .crcu]
  | .hifAuthWrite _ _ => [.hif, .auth]
  | .ringSqDisable _ => [.hif, .rve, .eth, .mgt]
  | .dmaCntClearStarve => [.dma]
  | .cmpCntClearLate | .geoCntClearParity | .geoCntClearOverstep => [.cmp]
  | .phoCntClearSubst => [.pho]
  | .hdgCommitCrcWrite _ | .commissionNLow => [.hdg, .rve]
  | .hdgCntClearSafe | .hdgCntClearCount | .testPulseStart _ | .testPulseSample _ _
  | .disconnectTestStart _ | .disconnectFeedbackLow _ | .disconnectOpenTimeout
  | .disconnectTestRetry | .stagedBlockTimeout | .safeInHigh _ => [.hdg]
  | .lplCntClearTe | .lplCntClearSync | .lplCntClearLate | .lplCntClearRepeats | .syncLockTimeout =>
    [.lpl]
  | .xlpCntClearEvents | .xlpCntClearErr | .xlkCntClearCtl | .xlkCntClearLat | .xlkCntClearCnt =>
    [.link]
  | .pxhCntClearFlags | .pxhCntClearEvents => [.pxh]
  | .railCntClearFaults | .railComparatorTrip _ | .railRestartCountClear _ => [.rail]
  | .pwrCntClearCount | .xtal32Switch | .xtal32Loss => [.pwr]
  | .thmCntClearCount | .throttleStep _ | .throttleHoldExpiry _ | .calMaxTimer | .calStep _ =>
    [.thm]
  | .rveInjKeyWrite _ | .rveLockSet | .dieBridgeTransferFail _ | .reeveRecovery _ _
  | .reeveHeartbeatLoss | .injKeyExpiry | .reeveHeartbeatRestored => [.rve]
  | .yokCntClearCount | .yokCntClearCheck | .yokeQuietTime | .yokeRailMsg _ | .yokeHandoverMsg _
  | .leaderLatchTimeout | .yokeSecondaryClaimTimeout | .coverBitExpiry => [.yok]
  | .belTimeNsRead | .pulseEdge _ | .pulseEnd _ => [.out, .bel]
  | .belCntClearCount | .belRebase | .frcWrap => [.bel]
  | .ethCntClearPtp | .ethCntClearTx | .ethCntClearRx | .datagramReply _ | .ethLinkUp _
  | .ethLaunchEligible _ _ | .ptpMessageTransmitTimer _ _ => [.eth]
  | .crcuCfgWrite _ _ | .crcuDataWrite _ _ _ => [.crcu]
  | .crcuCtxWrite _ _ => [.rve, .crcu]
  | .gpioDataWrite _ => [.gpio]
  | .tstCntClearCount => [.tst]
  | .bar2Read _ _ _ | .bar2Write _ _ _ => [.free, .out, .hif, .grn, .mem, .rve, .yok]
  | .producerIndexReadDone _ _ | .ringEntryFetched _ _ | .cqConsumerPoll _ _ => [.out, .hif, .rve]
  | .staleEntryReread _ _ => [.out, .hif, .rve, .eth, .mgt]
  | .commandStart | .startupCommand =>
    [.free, .out, .hif, .dma, .grn, .mem, .cmp, .pho, .hdg, .lpl, .link, .pxh, .rail, .pwr, .thm,
     .rve, .yok, .bel, .eth, .mgt, .boot, .tst, .running, .nextSer, .maskQ, .jobs, .kernels,
     .marchCmd, .saved]
  | .nop _ _ | .layerPresent _ _ | .maskUpdate _ _ | .timingSet _ _ | .tileMapSet _ _
  | .fadeSet _ _ | .fluxBudgetSet _ _ | .auxWrite _ _ =>
    [.hif, .lpl, .rve, .yok, .eth, .mgt, .running, .nextSer, .maskQ]
  | .layerSet _ _ =>
    [.free, .out, .hif, .dma, .grn, .cmp, .hdg, .lpl, .rve, .yok, .eth, .mgt, .running, .nextSer,
     .maskQ, .jobs]
  | .symbolLoad _ _ =>
    [.free, .out, .hif, .dma, .cmp, .hdg, .lpl, .rve, .yok, .eth, .mgt, .running, .nextSer, .maskQ,
     .jobs]
  | .coefLoad _ _ =>
    [.hif, .cmp, .lpl, .rve, .yok, .eth, .mgt, .running, .nextSer, .maskQ, .kernels]
  | .calLoad _ _ =>
    [.free, .out, .hif, .dma, .pho, .hdg, .lpl, .rve, .yok, .eth, .mgt, .running, .nextSer, .maskQ,
     .jobs]
  | .telemetryRead _ _ =>
    [.free, .out, .hif, .dma, .grn, .hdg, .lpl, .rve, .yok, .eth, .mgt, .running, .nextSer, .maskQ,
     .jobs]
  | .healthSet _ _ => [.hif, .lpl, .pxh, .rve, .yok, .eth, .mgt, .running, .nextSer, .maskQ]
  | .railSet _ _ => [.hif, .lpl, .rail, .rve, .yok, .eth, .mgt, .tst, .running, .nextSer, .maskQ]
  | .powerRequest _ _ =>
    [.free, .out, .hif, .grn, .cmp, .lpl, .link, .pxh, .rail, .pwr, .thm, .rve, .yok, .bel, .eth,
     .mgt, .boot, .tst, .running, .nextSer, .maskQ, .jobs, .saved]
  | .lowPowerPowerdown =>
    [.free, .out, .hif, .dma, .grn, .mem, .cmp, .pho, .hdg, .lpl, .link, .pxh, .rail, .pwr, .thm,
     .rve, .yok, .bel, .eth, .mgt, .boot, .aux, .crcu, .gpio, .tst, .running, .maskQ, .jobs,
     .kernels, .marchCmd, .saved]
  | .thermalSet _ _ =>
    [.out, .hif, .hdg, .lpl, .link, .rail, .thm, .rve, .yok, .eth, .mgt, .tst, .running, .nextSer,
     .maskQ]
  | .calRun _ _ => [.hif, .thm, .rve, .yok, .eth, .mgt, .running, .nextSer, .maskQ]
  | .timeSchedule _ _ => [.hif, .lpl, .rve, .yok, .bel, .eth, .mgt, .running, .nextSer, .maskQ]
  | .timeSet _ _ | .pulseSet _ _ =>
    [.out, .hif, .lpl, .rve, .yok, .bel, .eth, .mgt, .running, .nextSer, .maskQ]
  | .safetyCommit _ _ =>
    [.free, .out, .hif, .dma, .hdg, .rve, .yok, .eth, .mgt, .running, .nextSer, .maskQ, .jobs]
  | .safeTest _ _ =>
    [.out, .hif, .hdg, .lpl, .link, .rve, .yok, .eth, .mgt, .running, .nextSer, .maskQ]
  | .fwStage _ _ =>
    [.free, .out, .hif, .dma, .hdg, .rve, .yok, .eth, .mgt, .boot, .running, .nextSer, .maskQ,
     .jobs]
  | .fwActivate _ _ =>
    [.hif, .dma, .lpl, .pwr, .thm, .rve, .yok, .eth, .mgt, .running, .nextSer, .maskQ]
  | .faultAck _ _ => [.hif, .hdg, .lpl, .rve, .yok, .eth, .mgt, .running, .nextSer, .maskQ]
  | .faultRead _ _ =>
    [.free, .out, .hif, .dma, .hdg, .lpl, .rve, .yok, .eth, .mgt, .running, .nextSer, .maskQ, .jobs]
  | .diagInject _ _ => [.hif, .rve, .yok, .eth, .mgt, .running, .nextSer, .maskQ]
  | .testRun _ _ =>
    [.free, .out, .hif, .dma, .grn, .hdg, .rve, .yok, .bel, .eth, .mgt, .tst, .running, .nextSer,
     .maskQ, .jobs]
  | .marchRun _ _ => [.hif, .grn, .rve, .yok, .eth, .mgt, .running, .nextSer, .maskQ, .marchCmd]
  | .yokeSwitch _ _ => [.out, .hif, .lpl, .rve, .yok, .eth, .mgt, .running, .nextSer, .maskQ]
  | .commandDatagramReceived _ _ => [.hif, .rve, .eth]
  | .bulkDatagramReceived _ _ => [.free, .hif, .grn, .mem, .rve, .yok, .eth]
  | .arpRequestReceived _ _ | .icmpEchoReceived _ _ | .delayExchangeMessageReceived _ _ _ _
  | .managementMessageReceived _ _ => [.rve, .eth]
  | .ethLinkDown _ | .announceReceived _ _ _ | .syncReceiptTimeout | .announceReceiptTimeout =>
    [.out, .hif, .rve, .bel, .eth]
  | .ethFrameTransmit _ => [.free, .out, .eth]
  | .syncReceived _ _ _ | .followUpReceived _ _ _ => [.free, .out, .hif, .rve, .bel, .eth]
  | .alarmFire _ | .wakePinEvent _ | .wakeSafeInEvent | .wakePcieSquelch | .i2cTransaction _
  | .i2cLowPowerTransaction _ | .nightwatchVisit _ _ _ =>
    [.free, .out, .hif, .grn, .cmp, .lpl, .link, .pxh, .rail, .pwr, .rve, .yok, .bel, .eth, .mgt,
     .boot, .tst, .running, .maskQ, .jobs, .saved]
  | .latchPoint _ _ | .wakeL0Placement =>
    [.free, .out, .hif, .dma, .cmp, .pho, .hdg, .lpl, .link, .pxh, .rail, .pwr, .thm, .rve, .yok,
     .eth, .mgt, .boot, .aux, .tst, .running, .maskQ]
  | .vbiEnd =>
    [.free, .out, .hif, .dma, .grn, .cmp, .pho, .lpl, .link, .pxh, .thm, .rve, .yok, .eth, .mgt,
     .running, .maskQ]
  | .compositionComplete | .hostLineUnderrun _ _ => [.free, .grn, .cmp, .lpl, .rve]
  | .pixSend _ _ =>
    [.free, .out, .hif, .grn, .lpl, .link, .rve, .yok, .eth, .mgt, .tst, .running, .maskQ]
  | .coefParityFailure _ _ => [.cmp, .lpl, .rve]
  | .freezeStall | .echoWindowExpiry | .laneFbkTimeout _ | .safeInRequest _ | .testPulseEnd _
  | .disconnectReleaseCheck _ | .safeFbUnexpectedOpen _ | .hedgeHeartbeatLoss | .yokeSigMsg _ =>
    [.out, .hif, .hdg, .lpl, .link, .rail, .rve, .yok, .eth, .mgt, .tst, .running, .maskQ]
  | .syncInEdge | .syncInMissing => [.lpl, .rve]
  | .teInEdge => [.hdg, .lpl]
  | .teSequenceReceived _ _ _ _ _ => [.out, .hdg, .lpl, .link, .pxh, .rve, .yok]
  | .nakReceived _ _ _ => [.link, .rve, .yok]
  | .rdrReceived _ _ _ | .laneStateTimeout _ =>
    [.free, .out, .hif, .lpl, .link, .pxh, .thm, .rve, .yok, .eth, .mgt, .tst, .running, .maskQ]
  | .telStatusReceived _ _ _ =>
    [.out, .hif, .hdg, .lpl, .link, .pxh, .rail, .thm, .rve, .yok, .eth, .mgt, .tst, .running,
     .maskQ]
  | .telPixelReceived _ _ _ _ => [.pho, .link, .pxh, .rve, .yok]
  | .tileSerialResetDone _ => [.free, .grn, .mem, .pxh, .rve, .yok]
  | .slotIncludeTimeout _ | .laneCommaLock _ | .enumerateHelloRepeat _ => [.out, .link, .yok]
  | .slotSilentTimeout _ | .laneLossOfSignal _ | .laneErrorBurst _ _ | .laneNewAlignment _
  | .laneErrorWindow _ _ => [.out, .lpl, .link, .pxh, .rve, .yok]
  | .controlRequestRetry _ =>
    [.out, .hif, .lpl, .link, .pxh, .rve, .yok, .eth, .mgt, .running, .maskQ]
  | .laneSignalDetect _ | .laneSlowRetrain _ | .railGoodLaneRestart _ =>
    [.out, .lpl, .link, .pxh, .yok]
  | .laneTrainingSetReceived _ _ _ _ _ _ =>
    [.out, .hif, .lpl, .link, .pxh, .rve, .yok, .eth, .mgt, .tst, .running, .maskQ]
  | .enumerateSlotTimeout _ => [.out, .hif, .link, .rve, .yok, .eth, .mgt, .tst, .running, .maskQ]
  | .checkPatternEnd _ _ | .checkReportTimeout _ =>
    [.free, .out, .hif, .link, .pxh, .thm, .rve, .yok, .eth, .mgt, .tst, .running, .maskQ]
  | .healthWriteback _ => [.free, .out, .grn, .mem, .pho, .pxh, .rve, .yok]
  | .healthRecountDone => [.free, .grn, .pxh, .rve]
  | .planeCopyComplete => [.free, .grn, .mem, .pho, .rve, .yok]
  | .dmaChannelFreed => [.free, .out, .dma, .hdg, .jobs]
  | .dmaDescriptorFetched _ _ _ | .dmaTimeout _ _ => [.free, .out, .dma, .grn, .cmp, .lpl, .rve]
  | .dmaPacedRequest _ => [.free, .dma, .grn, .cmp, .lpl, .rve]
  | .dmaBeatComplete _ _ => [.free, .out, .dma, .grn, .mem, .cmp, .lpl, .pxh, .rve, .yok, .jobs]
  | .dmaChainDone _ =>
    [.free, .out, .hif, .grn, .mem, .cmp, .hdg, .lpl, .pxh, .rve, .yok, .eth, .mgt, .boot, .tst,
     .running, .maskQ, .jobs]
  | .granaryInitDone _ => [.free, .out, .hif, .grn, .mem, .lpl, .pwr, .rve, .yok]
  | .scrubWordRead _ _ => [.free, .grn, .rve]
  | .marchStripeDone _ =>
    [.hif, .grn, .mem, .lpl, .rve, .yok, .eth, .mgt, .running, .maskQ, .marchCmd]
  | .retentionReleaseDone => [.free, .out, .hif, .grn, .mem, .pwr, .rve, .yok]
  | .powerupDisconnectTest _ =>
    [.free, .hif, .hdg, .lpl, .rail, .pwr, .rve, .yok, .eth, .mgt, .tst, .running, .maskQ]
  | .hedgeSelfFault _ | .hedgeCrcScan _ _ | .yokeHolderCheck _ | .yokeHelloMsg _
  | .yokeExcludeMsg _ | .yokeHandoverRelease =>
    [.hif, .hdg, .lpl, .link, .rail, .rve, .yok, .eth, .mgt, .tst, .running, .maskQ]
  | .hedgePowerUp =>
    [.out, .hif, .pho, .hdg, .lpl, .link, .rail, .pwr, .rve, .yok, .eth, .mgt, .tst, .running,
     .maskQ]
  | .commissionNHigh => [.out, .hdg, .pwr, .bel]
  | .clockDeviation _ =>
    [.hif, .hdg, .lpl, .link, .rail, .pwr, .rve, .yok, .eth, .mgt, .tst, .running, .maskQ]
  | .dieBridgeLoss | .dieBridgeRestored =>
    [.out, .hif, .hdg, .lpl, .link, .rail, .pwr, .thm, .rve, .yok, .eth, .mgt, .tst, .running,
     .maskQ]
  | .railSwitchingCycle _ _ _ | .yokeClaimSample _ =>
    [.free, .hif, .lpl, .rail, .rve, .yok, .eth, .mgt, .tst, .running, .maskQ]
  | .railShortFault _ | .railOvervoltageFault _ | .railSenseFault _ | .railOvercurrentTimeout _
  | .railUndervoltageTimeout _ | .railSoftStartTimeout _ | .railPgood _ | .railSoftStopEnd _
  | .railSeqDelayExpiry _ | .railRestartTimeout _ | .yokeTripMsg | .yokeTripRelease =>
    [.hif, .lpl, .rail, .rve, .yok, .eth, .mgt, .tst, .running, .maskQ]
  | .sensorSample _ _ | .tileTempStale _ =>
    [.out, .hif, .hdg, .lpl, .link, .rail, .thm, .rve, .yok, .eth, .mgt, .tst, .running, .maskQ]
  | .reeveEvent => [.free, .out, .hif, .lpl, .rve, .yok, .eth, .mgt, .running, .maskQ]
  | .i2cDoorbell => [.rve, .mgt]
  | .pgCoreRise => [.free, .out, .grn, .pwr, .rve, .bel]
  | .pllLock _ => [.free, .out, .lpl, .link, .pxh, .pwr, .yok, .bel]
  | .wakeImageRestore _ =>
    [.free, .out, .hif, .auth, .dma, .grn, .cmp, .pho, .hdg, .lpl, .link, .pxh, .rail, .pwr, .thm,
     .rve, .yok, .bel, .eth, .mgt, .boot, .aux, .crcu, .gpio, .tst, .running, .maskQ, .jobs,
     .kernels, .marchCmd, .saved]
  | .wakeStepTimeout _ =>
    [.hif, .dma, .grn, .mem, .cmp, .pho, .hdg, .lpl, .link, .pxh, .rail, .pwr, .thm, .rve, .yok,
     .bel, .eth, .mgt, .boot, .aux, .crcu, .gpio, .tst, .running, .maskQ, .jobs, .kernels,
     .marchCmd, .saved]
  | .wakeRetry => [.free, .out, .grn, .pwr, .rve, .bel, .saved]
  | .bootImageLoaded _ =>
    [.free, .out, .hif, .auth, .dma, .grn, .mem, .cmp, .pho, .hdg, .lpl, .link, .pxh, .rail, .pwr,
     .thm, .rve, .yok, .bel, .eth, .mgt, .boot, .aux, .crcu, .gpio, .tst, .running, .maskQ, .jobs,
     .kernels, .marchCmd, .saved]
  | .flashLoadRecordDone _ => [.free, .out, .grn, .mem, .pwr, .rve, .yok, .boot]
  | .commissioningRecordWriteDone _ => [.free, .out, .rve, .boot]
  | .auxFrameShift _ => [.out, .aux]
  | .auxShiftEnd _ _ _ => [.out, .rve, .aux]
  | .yokeLatchMsg _ | .yokeAlignTimeout =>
    [.out, .hif, .cmp, .pho, .lpl, .link, .pxh, .pwr, .rve, .yok, .eth, .mgt, .aux, .running,
     .maskQ]
  | .yokeSharedMsg _ => [.free, .grn, .mem, .rve, .yok]
  | .yokeCopyBlock _ _ => [.grn, .mem, .yok]
  | .yokeSnapshot _ =>
    [.hif, .cmp, .pho, .lpl, .rail, .rve, .yok, .eth, .mgt, .aux, .tst, .running, .nextSer, .maskQ]
  | .partnerLoss => [.rve, .yok]
  | .yokeReturnTimer => [.out, .yok]
  | .sysRstNRelease => [.out, .pwr, .bel]
  | .loopbackPatternEnd _ _ => [.out, .lpl, .link, .pxh, .yok, .tst]
  | .ethLoopFrameReturned _ _ | .ethLoopFrameTimeout =>
    [.free, .out, .hif, .dma, .hdg, .rve, .eth, .mgt, .tst, .running, .maskQ, .jobs]
  | .analogueDomainReady =>
    [.hif, .lpl, .rail, .pwr, .rve, .yok, .eth, .mgt, .tst, .running, .maskQ]
  | .pgSramRise => [.out, .pwr]
  | .fwStageFlashDone _ _ _ => [.out, .hif, .lpl, .rve, .yok, .eth, .mgt, .boot, .running, .maskQ]
  | .yokeCopyPassEnd => [.free, .out, .grn, .rve, .yok]

end Sys2Proof.Safety
end

