-- ==== Sys2Proof/Certificates/Slice0/Obligations.lean ====
section
/-!
DEFINITION. The statements about the model: what a step does, what every step keeps, and, command by command,
what each leaves in the state and what it leaves alone. Each names the rules of spec/ it rests on.
-/

open Sys2Proof Sys2Proof.Machine Sys2Proof.Safety

/-- A step with a command at the front of the queue runs that command on the state with the queue's
rest. -/
def Obligations.StepRunsFront : Prop :=
  ∀ (c : Instr) (rest : List Instr) (s : State), s.pending = c :: rest →
    step s = exec c { s with pending := rest }

/-- The model's choice of log entry 1: a step on an empty queue lets one cycle of the counter pass, 4 ns, in SLEEP
with KEEP_TIME 40 ns. The time moves on by that, and the Bellhouse's counter ticks while it is powered and has a
clock. Where no start sequence, no low-power entry, no coefficient load and no SAFE_TEST waits or runs, no WAKE is
held high and the log has taken all its entries, nothing else changes but the lanes, the yoke lane and line, what
is sent, and what the host writes of the endpoint's configuration (log entry 84); the rings and the authority masks
stay. Where moreover every lane's transmitter is off or idle, no repeat of the overrides is due, the device is
alone and the PCIe link is down, nothing else changes at all. -/
def Obligations.StepIdles : Prop :=
  (∀ s : State, s.pending = [] → s.pwr.start = none → s.pwr.entry = none → s.kernels = [] →
    s.hdg.test = none → s.pwr.wakeHigh = false → s.rve.queue = [] →
    Answers (step s) fun t => t.now = s.now + (if s.bel.sleepClock then 40 else 4) ∧
      t.bel = (if s.bel.powered && (s.pwr.pllEth || s.bel.sleepClock) then s.bel.tick else s.bel) ∧
      t.hif.sq = s.hif.sq ∧ t.hif.cq = s.hif.cq ∧
      Keeps [.now, .free, .bel, .link, .yok, .hif, .out] s t) ∧
  ∀ s : State, s.pending = [] → s.pwr.start = none → s.pwr.entry = none → s.kernels = [] →
    s.hdg.test = none → s.pwr.wakeHigh = false → s.rve.queue = [] →
    (∀ n : Fin 25, laneFill n s = none) →
    s.now + (if s.bel.sleepClock then 40 else 4) < s.link.overrideAt + 10000 →
    yoked s = false → s.hif.linkUp = false →
    Answers (step s) fun t => Keeps [.now, .bel] s t

/-- What reset leaves, of the tables of registers and of R51, R72, R134, R309, R379, R452, R492 and R531. No
command waits or runs and nothing has been sent; every ring is disabled with a size of 2^4; the authority masks
are the default ceilings, and neither lock of the host interface is set; the Granary lists no byte, is not
initialised and has no repaired row; every lane is OFF, and every rail OFF with EN 0; the Hedge holds no block; the
time is not valid and UNSET; no port has a link; the GPIO outputs and the key of injection are 0. -/
def Obligations.ResetValues : Prop :=
  State.reset.pending = [] ∧ State.reset.running = [] ∧ State.reset.out = [] ∧
  (∀ n : Fin 16, (State.reset.hif.sq[n]).enable = false ∧ (State.reset.hif.cq[n]).enable = false ∧
    (State.reset.hif.sq[n]).log2 = 4 ∧ (State.reset.hif.cq[n]).log2 = 4) ∧
  (State.reset.hif.auth.toList.map fun a => a.cls) = [0xFFF#12, 0x08F#12, 0x908#12, 0x040#12, 0#12] ∧
  State.reset.hif.authLock = false ∧ State.reset.hif.ringLock = false ∧
  State.reset.grn.mem = [] ∧ State.reset.grn.initDone = false ∧ State.reset.grn.repaired = [] ∧
  (∀ n : Fin 24, (State.reset.link.lane[n]).state = .off) ∧
  (∀ k : Fin 8, (State.reset.rail.rail[k]).en = false ∧ (State.reset.rail.rail[k]).state = .off) ∧
  State.reset.hdg.active = none ∧ State.reset.hdg.commissioned = false ∧
  State.reset.bel.valid = false ∧ State.reset.bel.state = .unset ∧
  (∀ p : Fin 2, (State.reset.eth.port[p]).link = false) ∧ State.reset.gpio.out = 0 ∧
  State.reset.rve.injKey = 0

/-- The state after reset satisfies what every step keeps: the Granary's bytes are in canonical form, and every
authority mask lies within its IMAGE_CLASS, that of the yoke peer being 0, also in a wake image. -/
def Obligations.ResetInvariants : Prop :=
  Memory.wf State.reset.grn.mem = true ∧ AuthorityKeeps State.reset

/-- The frame of every command, and that every command answers a next state: `touches` names the parts of the state
it may change, and every other part, each register group, queue, buffer and the Granary's bytes among them, stays
as it is. No command takes from the queue of waiting commands or adds to it, and none moves the model's clock. -/
def Obligations.FrameOfEveryCommand : Prop :=
  ∀ (c : Instr) (s : State), Answers (exec c s) fun t =>
    Keeps (touches c) s t ∧ t.pending = s.pending ∧ t.now = s.now

/-- Every step keeps the Granary's bytes in canonical form: addresses strictly rising, no entry equal to
what an unlisted address reads as. -/
def Obligations.MemoryStaysCanonical : Prop :=
  ∀ s t : State, Memory.wf s.grn.mem = true → step s = .next t → Memory.wf t.grn.mem = true

/-- R72, R75, R76 and R83 of spec/02_host_rings.md: no command sets a bit of an authority mask that
IMAGE_CLASS holds at 0, and the mask of the yoke peer stays 0: from every state where that holds, of the
live masks and of those in a wake image, a step leads to such a state. -/
def Obligations.AuthorityStaysWithin : Prop :=
  ∀ s t : State, AuthorityKeeps s → step s = .next t → AuthorityKeeps t

/-- R76 of spec/02_host_rings.md with R75: while AUTH_LOCK is 0 a write to HIF_AUTH of a port stores the written value
AND IMAGE_CLASS as that port's mask, and the other ports' masks and every IMAGE_CLASS stay; with AUTH_LOCK set, and
for the yoke peer always, it changes nothing. Setting AUTH_LOCK or RING_LOCK sets that bit and nothing else. -/
def Obligations.AuthorityMaskWrites : Prop :=
  (∀ (s : State) (p : Fin 5) (v : BitVec 12), hostUp s = true → s.hif.authLock = false → p ≠ 4 →
    Answers (exec (.hifAuthWrite p v) s) fun t =>
      (t.hif.auth[p]).cls = v &&& (s.hif.auth[p]).image ∧
      (t.hif.auth[p]).image = (s.hif.auth[p]).image ∧
      (∀ q : Fin 5, q ≠ p → t.hif.auth[q] = s.hif.auth[q]) ∧ Keeps [.auth] s t) ∧
  (∀ (s : State) (p : Fin 5) (v : BitVec 12), s.hif.authLock = true ∨ p = 4 →
    exec (.hifAuthWrite p v) s = .next s) ∧
  (∀ s : State, hostUp s = true →
    exec .hifLockAuthLock s = .next { s with hif.authLock := true }) ∧
  ∀ s : State, hostUp s = true →
    exec .hifLockRingLock s = .next { s with hif.ringLock := true }

/-- Of R49 and R50 of spec/02_host_rings.md. Setting ENABLE on a disabled submission ring whose completion ring is
enabled sets ENABLE and RUNNING, HEAD to 0 and the expected phase to 1, and BASE and every other ring stay; where
the completion ring it names is disabled, ENABLE stays 0 and nothing changes. Clearing ENABLE on a submission ring
that holds no stale entry completes every fetched entry with ABORTED, in index order, on its completion ring, and
the other submission rings stay. Setting ENABLE on a disabled completion ring, with HOSTLESS 0, sets TAIL to 0 and
the written phase to 1; clearing it does so while no submission ring that names it is enabled or running, and is
discarded with a NOTE of group 33 while one is. The other rings stay. -/
def Obligations.RingEnableBits : Prop :=
  (∀ (s : State) (n : Fin 16), hostUp s = true → (s.hif.sq[n]).enable = false →
    (s.hif.cq[(s.hif.sq[n]).cq]).enable = true →
    Answers (exec (.ringSqEnable n) s) fun t =>
      (t.hif.sq[n]).enable = true ∧ (t.hif.sq[n]).running = true ∧ (t.hif.sq[n]).head = 0 ∧
      (t.hif.sq[n]).phase = true ∧ (t.hif.sq[n]).base = (s.hif.sq[n]).base ∧
      t.hif.cq = s.hif.cq ∧ (∀ m : Fin 16, m ≠ n → t.hif.sq[m] = s.hif.sq[m]) ∧ Keeps [.hif] s t) ∧
  (∀ (s : State) (n : Fin 16), (s.hif.cq[(s.hif.sq[n]).cq]).enable = false →
    exec (.ringSqEnable n) s = .next s) ∧
  (∀ (s : State) (n : Fin 16), hostUp s = true → (s.hif.sq[n]).enable = true →
    (s.hif.sq[n]).behind = [] → (∀ e ∈ (s.hif.sq[n]).fetched, e.dead = false) →
    Answers (exec (.ringSqDisable n) s) fun t =>
      (t.hif.sq[n]).enable = false ∧ (t.hif.sq[n]).fetched = [] ∧
      (t.hif.cq[(s.hif.sq[n]).cq]).waiting = (s.hif.cq[(s.hif.sq[n]).cq]).waiting ++
        (s.hif.sq[n]).fetched.map (fun e => ⟨.ring n, BitVec.ofNat 16 (Desc.f e.d 2 0 16),
          BitVec.ofNat 8 (Desc.f e.d 0 0 8), stAborted, 0, 0⟩) ∧
      ∀ m : Fin 16, m ≠ n → t.hif.sq[m] = s.hif.sq[m]) ∧
  (∀ (s : State) (n : Fin 16), hostUp s = true → (s.hif.cq[n]).enable = false →
    Answers (exec (.ringCqEnable n) s) fun t =>
      (t.hif.cq[n]).enable = true ∧ (t.hif.cq[n]).tail = 0 ∧ (t.hif.cq[n]).phase = true ∧
      (t.hif.cq[n]).waiting = (s.hif.cq[n]).waiting ∧ t.hif.sq = s.hif.sq ∧
      ∀ m : Fin 16, m ≠ n → t.hif.cq[m] = s.hif.cq[m]) ∧
  (∀ (s : State) (n : Fin 16), hostUp s = true → cqInUse n s = false →
    Answers (exec (.ringCqDisable n) s) fun t =>
      (t.hif.cq[n]).enable = false ∧ t.hif.sq = s.hif.sq ∧
      ∀ m : Fin 16, m ≠ n → t.hif.cq[m] = s.hif.cq[m]) ∧
  ∀ (s : State) (n : Fin 16), hostUp s = true → cqInUse n s = true →
    Answers (exec (.ringCqDisable n) s) fun t =>
      t.hif = s.hif ∧ Raised 33 .note (n.val + 16 + 5 * 256) s t

/-- Of R54, R57, R58, R63 and R67 of spec/02_host_rings.md. A kick of a submission ring that fetches, and the poll
of an empty one, each read its producer-index word, once where they fall due together; a kick of an enabled
completion ring reads its consumer-index word, unless it did so at that time already. A producer index below the ring size is taken, and where no entry is
on hand or under way the entries from HEAD on are read, at most 8 and not past the ring's end; one at or beyond the
ring size stops the ring with BAD_INDEX, a failed read of it or of entries with FETCH_ERROR, each with a MINOR of
group 33. Of the entries a read returns, those up to the first whose PHASE is not the expected one are queued, and
that one waits with those behind it. A re-read of it reads its 64 bytes again; one that shows the expected phase queues
the entry; one that is still stale counts, up to the 16th, after which the entry, where it is at HEAD and alone, completes with
STALE_DESCRIPTOR, a NOTE of group 34 is raised and HEAD moves past it, and behind an entry not yet started it is
marked for that. -/
def Obligations.RingFetching : Prop :=
  ((∀ (s : State) (n : Fin 16) (c : Instr), ringsServed s = true → (s.hif.sq[n]).enable = true →
     (s.hif.sq[n]).stopped = false →
     (c = .hifKickSq n ∧ hostUp s = true ∨
       c = .ringDoorbellPoll n ∧ (s.hif.sq[n]).head = (s.hif.sq[n]).prod) →
     ((s.hif.sq[n]).dbAsked ≠ some s.now → Answers (exec c s) fun t =>
       Sent [.hostRead (s.hif.sq[n]).db.toNat 4 TlpAttr.clear] s t ∧
       t.hif.sq[n] = { s.hif.sq[n] with dbAsked := some s.now } ∧ Keeps [.out, .hif] s t) ∧
     ((s.hif.sq[n]).dbAsked = some s.now → exec c s = .next s)) ∧
   (∀ (s : State) (n : Fin 16), hostUp s = true → (s.hif.cq[n]).enable = true →
     (s.hif.cq[n]).dbAsked ≠ some s.now →
     Answers (exec (.hifKickCq n) s) fun t =>
       Sent [.hostRead (s.hif.cq[n]).db.toNat 4 TlpAttr.clear] s t ∧
       t.hif.cq[n] = { s.hif.cq[n] with dbAsked := some s.now, retry := false } ∧
       (∀ m : Fin 16, m ≠ n → t.hif.cq[m] = s.hif.cq[m]) ∧ t.hif.sq = s.hif.sq ∧ Keeps [.out, .hif] s t) ∧
   (∀ (s : State) (n : Fin 16) (w : Word), ringsServed s = true → (s.hif.sq[n]).enable = true →
     (s.hif.sq[n]).stopped = false → field w 0 16 < (s.hif.sq[n]).size →
     Answers (exec (.producerIndexReadDone n (some w)) s) fun t =>
       (t.hif.sq[n]).prod = field w 0 16 ∧ (t.hif.sq[n]).head = (s.hif.sq[n]).head ∧
       (t.hif.sq[n]).dbAsked = none ∧
       ((s.hif.cq[(s.hif.sq[n]).cq]).full = false → (s.hif.sq[n]).fetched = [] → (s.hif.sq[n]).behind = [] →
         (s.hif.sq[n]).asked = 0 → (s.hif.sq[n]).head < (s.hif.sq[n]).size →
         field w 0 16 ≠ (s.hif.sq[n]).head →
         Sent [.hostRead ((s.hif.sq[n]).base.toNat + 64 * (s.hif.sq[n]).head)
           (64 * min (min 8 ((field w 0 16 + (s.hif.sq[n]).size - (s.hif.sq[n]).head) % (s.hif.sq[n]).size))
             ((s.hif.sq[n]).size - (s.hif.sq[n]).head)) TlpAttr.clear] s t) ∧
       t.hif.cq = s.hif.cq ∧ ∀ m : Fin 16, m ≠ n → t.hif.sq[m] = s.hif.sq[m]) ∧
   (∀ (s : State) (n : Fin 16) (w : Word), ringsServed s = true → (s.hif.sq[n]).enable = true →
     (s.hif.sq[n]).stopped = false → (s.hif.sq[n]).size ≤ field w 0 16 →
     Answers (exec (.producerIndexReadDone n (some w)) s) fun t =>
       (t.hif.sq[n]).badIndex = true ∧ (t.hif.sq[n]).stopped = true ∧
       (t.hif.sq[n]).prod = (s.hif.sq[n]).prod ∧ Raised 33 .minor (n.val + 256) s t) ∧
   ∀ (s : State) (n : Fin 16) (c : Instr), ringsServed s = true → (s.hif.sq[n]).enable = true →
     (s.hif.sq[n]).stopped = false →
     (c = .producerIndexReadDone n none ∨ c = .ringEntryFetched n none ∧ (s.hif.sq[n]).asked ≠ 0) →
     Answers (exec c s) fun t =>
       (t.hif.sq[n]).fetchError = true ∧ (t.hif.sq[n]).stopped = true ∧
       (t.hif.sq[n]).fetched = (s.hif.sq[n]).fetched ∧ Raised 33 .minor (n.val + 512) s t) ∧
  ((∀ (s : State) (n : Fin 16) (a b : List Desc), ringsServed s = true → (s.hif.sq[n]).enable = true →
     (s.hif.sq[n]).stopped = false → (s.hif.sq[n]).asked = (a ++ b).length → a ++ b ≠ [] →
     (s.hif.sq[n]).behind = [] →
     (∀ i : Fin a.length, Desc.b a[i] 1 0 = (s.hif.sq[n]).phaseAt ((s.hif.sq[n]).fetched.length + i.val)) →
     (∀ d, b.head? = some d → Desc.b d 1 0 ≠ (s.hif.sq[n]).phaseAt ((s.hif.sq[n]).fetched.length + a.length)) →
     Answers (exec (.ringEntryFetched n (some (a ++ b))) s) fun t =>
       (t.hif.sq[n]).fetched = (s.hif.sq[n]).fetched ++ a.map (fun d => ⟨d, false, s.now⟩) ∧
       (t.hif.sq[n]).behind = b ∧ (b ≠ [] → (t.hif.sq[n]).rereads = 0) ∧
       (t.hif.sq[n]).head = (s.hif.sq[n]).head ∧ ∀ m : Fin 16, m ≠ n → t.hif.sq[m] = s.hif.sq[m]) ∧
   (∀ (s : State) (n : Fin 16) (d e : Desc), mayFetch n s = true → (s.hif.sq[n]).behind = [e] →
     Desc.b d 1 0 = (s.hif.sq[n]).phaseAt (s.hif.sq[n]).fetched.length →
     Answers (exec (.staleEntryReread n (some [d])) s) fun t =>
       (t.hif.sq[n]).fetched = (s.hif.sq[n]).fetched ++ [⟨d, false, s.now⟩] ∧ (t.hif.sq[n]).behind = [] ∧
       Emit.hostRead ((s.hif.sq[n]).base.toNat + 64 * (((s.hif.sq[n]).head + (s.hif.sq[n]).fetched.length)
         % (s.hif.sq[n]).size)) 64 TlpAttr.clear ∈ t.out) ∧
   (∀ (s : State) (n : Fin 16) (d e : Desc) (r : List Desc), mayFetch n s = true →
     (s.hif.sq[n]).behind = e :: r →
     Desc.b d 1 0 ≠ (s.hif.sq[n]).phaseAt (s.hif.sq[n]).fetched.length → (s.hif.sq[n]).rereads + 1 < 16 →
     Answers (exec (.staleEntryReread n (some [d])) s) fun t =>
       (t.hif.sq[n]).rereads = (s.hif.sq[n]).rereads + 1 ∧ (t.hif.sq[n]).behind = d :: r ∧
       (t.hif.sq[n]).fetched = (s.hif.sq[n]).fetched ∧ t.hif.cq = s.hif.cq ∧
       Sent [.hostRead ((s.hif.sq[n]).base.toNat + 64 * (((s.hif.sq[n]).head + (s.hif.sq[n]).fetched.length)
         % (s.hif.sq[n]).size)) 64 TlpAttr.clear] s t ∧ Keeps [.out, .hif] s t) ∧
   (∀ (s : State) (n : Fin 16) (d e : Desc), mayFetch n s = true → (s.hif.sq[n]).fetched = [] →
     (s.hif.sq[n]).behind = [e] → Desc.b d 1 0 ≠ (s.hif.sq[n]).phaseAt 0 →
     (s.hif.sq[n]).rereads + 1 = 16 → (s.hif.sq[n]).head < (s.hif.sq[n]).size →
     Answers (exec (.staleEntryReread n (some [d])) s) fun t =>
       (t.hif.sq[n]).head = ((s.hif.sq[n]).head + 1) % (s.hif.sq[n]).size ∧
       (t.hif.sq[n]).behind = [] ∧ Raised 34 .note (Desc.f d 0 0 8 + 6 * 2 ^ 28) s t ∧
       (t.hif.cq[(s.hif.sq[n]).cq]).waiting = (s.hif.cq[(s.hif.sq[n]).cq]).waiting ++
         [⟨.ring n, BitVec.ofNat 16 (Desc.f d 2 0 16), BitVec.ofNat 8 (Desc.f d 0 0 8), stStale, 0, 0⟩]) ∧
   ∀ (s : State) (n : Fin 16) (d e : Desc) (x : Fetched) (l : List Fetched), mayFetch n s = true →
     (s.hif.sq[n]).fetched = x :: l → x.dead = false → (s.hif.sq[n]).behind = [e] →
     Desc.b d 1 0 ≠ (s.hif.sq[n]).phaseAt (s.hif.sq[n]).fetched.length → (s.hif.sq[n]).rereads + 1 = 16 →
     Answers (exec (.staleEntryReread n (some [d])) s) fun t =>
       (t.hif.sq[n]).fetched = (s.hif.sq[n]).fetched ++ [⟨d, true, s.now⟩] ∧ (t.hif.sq[n]).behind = [] ∧
       (t.hif.sq[n]).head = (s.hif.sq[n]).head ∧ t.hif.cq = s.hif.cq ∧ t.rve = s.rve)

/-- Of R53, R56, R63 and R68 of spec/02_host_rings.md. With room, the oldest waiting completion is written at TAIL in
one write of 32 bytes, and TAIL moves on by one, the phase inverting where it wraps; in a full ring completions go
on waiting and nothing is written. A consumer index that is read is kept, and the ring is full or not by it; a read
of it that ends in error sets DB_ERROR and raises a MINOR of group 33, and it is read again; 100 ms of being full sets FULL_WAIT with
one. COAL_US after the first entry not yet signalled, a ring with IRQ_EN sends its vector's message, or sets its pending bit
while the vector is masked. -/
def Obligations.CompletionRing : Prop :=
  (∀ (s : State) (n : Fin 16) (e : Cpl) (r : List Cpl), coresUp s = true → (s.hif.cq[n]).enable = true →
    (s.hif.cq[n]).waiting = e :: r → ((s.hif.cq[n]).tail + 1) % (s.hif.cq[n]).size ≠ (s.hif.cq[n]).cons →
    Answers (exec (.completionWrite n) s) fun t =>
      (t.hif.cq[n]).waiting = r ∧
      (t.hif.cq[n]).tail = ((s.hif.cq[n]).tail + 1) % (s.hif.cq[n]).size ∧
      (t.hif.cq[n]).phase = ((s.hif.cq[n]).phase ^^ decide ((t.hif.cq[n]).tail = 0)) ∧
      Emit.hostWrite ((s.hif.cq[n]).base.toNat + 32 * (s.hif.cq[n]).tail)
        (cplBytes e (sqOf e.src s).1 (bn (s.hif.cq[n]).phase) (sqOf e.src s).2) TlpAttr.clear ∈ t.out ∧
      ∀ m : Fin 16, m ≠ n → t.hif.cq[m] = s.hif.cq[m]) ∧
  (∀ (s : State) (n : Fin 16), ((s.hif.cq[n]).tail + 1) % (s.hif.cq[n]).size = (s.hif.cq[n]).cons →
    Answers (exec (.completionWrite n) s) fun t =>
      (t.hif.cq[n]).waiting = (s.hif.cq[n]).waiting ∧ (t.hif.cq[n]).tail = (s.hif.cq[n]).tail ∧
      t.out = s.out) ∧
  (∀ (s : State) (n : Fin 16) (w : Word), s.pwr.core = true → (s.hif.cq[n]).enable = true →
    (s.hif.cq[n]).polls = true →
    Answers (exec (.cqConsumerPoll n (some w)) s) fun t =>
      (t.hif.cq[n]).cons = field w 0 16 ∧
      (t.hif.cq[n]).full = decide (((s.hif.cq[n]).tail + 1) % (s.hif.cq[n]).size = field w 0 16) ∧
      (t.hif.cq[n]).waiting = (s.hif.cq[n]).waiting ∧
      ((s.hif.cq[n]).dbAsked = none → Emit.hostRead (s.hif.cq[n]).db.toNat 4 TlpAttr.clear ∈ t.out)) ∧
  (∀ (s : State) (n : Fin 16), s.pwr.core = true → (s.hif.cq[n]).enable = true →
    (s.hif.cq[n]).polls = true →
    Answers (exec (.cqConsumerPoll n none) s) fun t =>
      (t.hif.cq[n]).dbError = true ∧ (t.hif.cq[n]).retry = true ∧
      Raised 33 .minor (n.val + 16 + 4 * 256) s t ∧
      ((s.hif.cq[n]).dbAsked = none → Sent [.hostRead (s.hif.cq[n]).db.toNat 4 TlpAttr.clear] s t) ∧
      ((s.hif.cq[n]).dbAsked ≠ none → t.out = s.out) ∧ Keeps [.out, .hif, .rve] s t) ∧
  (∀ (s : State) (n : Fin 16), s.pwr.core = true → (s.hif.cq[n]).full = true →
    Answers (exec (.cqFullWaitTimeout n) s) fun t =>
      (t.hif.cq[n]).fullWait = true ∧ (t.hif.cq[n]).waiting = (s.hif.cq[n]).waiting ∧
      Raised 33 .minor (n.val + 16 + 3 * 256) s t ∧ Keeps [.hif, .rve] s t) ∧
  ∀ (s : State) (n : Fin 16), s.pwr.core = true → (s.hif.cq[n]).enable = true →
    (s.hif.cq[n]).irqEn = true → 0 < (s.hif.cq[n]).unsignalled →
    Answers (exec (.msixCoalesceTimeout n) s) fun t =>
      (t.hif.cq[n]).unsignalled = 0 ∧
      (vectorOpen (s.hif.cq[n]).vector s = true → Sent [msixMsg (s.hif.cq[n]).vector s] s t ∧
        t.hif.msix = s.hif.msix) ∧
      (vectorOpen (s.hif.cq[n]).vector s = false → s.hif.msix.enable = true → t.out = s.out ∧
        t.hif.msix.pending = s.hif.msix.pending ||| BitVec.ofNat 32 (2 ^ (s.hif.cq[n]).vector)) ∧
      Keeps [.out, .hif] s t

/-- Of R43, R44, R432 and R554. A link that trains at Gen1 to Gen3 and ×1, ×2 or ×4, with HOSTLESS 0 and PERST_N
high, is reported with its speed and width, and the function is in D0. A Function Level Reset, a transition to
D3hot, the loss of a trained link and PERST_N low each disable every ring and discard what was fetched and what
waits on the completion rings; no running command owes a completion to a ring any more; the masks and both locks
stay. A loss of the link raises a MINOR of group 35; with PERST_N low and after a loss the link is down;
D3hot is recorded, and ended by a Function Level Reset. PERST_N high changes nothing but its level. An AER error
raises an event of group 35 with its status, an uncorrectable one a MINOR and a correctable one a NOTE, its
status register shows it, and nothing else changes. -/
def Obligations.PcieEndpoint : Prop :=
  (∀ (s : State) (sp w : BitVec 3), s.pwr.core = true → s.hif.hostless = false → s.pwr.perstLow = false →
    1 ≤ sp.toNat → sp.toNat ≤ 3 → (w.toNat = 1 ∨ w.toNat = 2 ∨ w.toNat = 4) →
    exec (.pcieLinkUp sp w) s = .next { s with
      hif.linkUp := true, hif.speed := sp.toNat, hif.width := w.toNat, hif.d3hot := false }) ∧
  (∀ (s : State) (c : Instr), s.pwr.core = true →
    (c = .pcieFlr ∨ c = .pcieD3hot ∨ (c = .pcieLinkDown ∧ s.hif.linkUp = true) ∨
      c = .perstNChange false) →
    Answers (exec c s) fun t =>
      (∀ n : Fin 16, (t.hif.sq[n]).enable = false ∧ (t.hif.sq[n]).running = false ∧
        (t.hif.sq[n]).fetched = [] ∧ (t.hif.cq[n]).enable = false ∧ (t.hif.cq[n]).waiting = []) ∧
      (∀ x ∈ t.running, ∀ n, x.src ≠ .ring n) ∧
      (c = .pcieLinkDown ∨ c = .perstNChange false → t.hif.linkUp = false) ∧
      (c = .pcieLinkDown → ∃ l, t.rve.inbox = s.rve.inbox ++ l ++ [⟨35, .minor, 0#32, false, s.now⟩]) ∧
      (c = .pcieD3hot → t.hif.d3hot = true) ∧ (c = .pcieFlr → t.hif.d3hot = false) ∧
      t.hif.auth = s.hif.auth ∧ t.hif.authLock = s.hif.authLock ∧ t.hif.ringLock = s.hif.ringLock ∧
      t.pwr.perstLow = (s.pwr.perstLow || decide (c = .perstNChange false))) ∧
  (∀ s : State, exec (.perstNChange true) s = .next { s with pwr.perstLow := false }) ∧
  ∀ (s : State) (u : Bool) (w : Word), s.pwr.core = true →
    Answers (exec (.pcieAerError u w) s) fun t =>
      Raised 35 (if u then .minor else .note) w.toNat s t ∧
      t.hif = (if u then { s.hif with aerUncor := s.hif.aerUncor ||| w }
        else { s.hif with aerCor := s.hif.aerCor ||| w }) ∧ Keeps [.hif, .rve] s t

/-- Of R230, R232 and R233 of spec/08_hedge.md. With SAFEIN_MODE 1 and a block active, a channel that reads low outside
its own test window is a request: it raises SAFE_IN where that is not active, which counts the request and leaves
the other causes; within the other channel's window that channel's test fails and the SAFE_IN raised latches.
Without a block or with SAFEIN_MODE 0 the low raises nothing. A channel that returns high begins its time of reading
high, and a test pulse opens the channel's window and fails at once where the other channel reads low outside a
window of its own; its sample judges it, a high one failing; neither of the three changes a cause or the other
channel, nor anything outside the Hedge. A pulse's end closes the window: a pulse sampled low and not failed counts
as passed and ends the run of failures, and a failed one counts as failed, the second in a row raising SAFE_IN_TEST
with TP_ENABLE 1. -/
def Obligations.HedgeSafeInputs : Prop :=
  (∀ (s : State) (b : Bool) (e : Envelope), s.pwr.hedge = true → s.hdg.active = some e →
    Env.safeinMode e = true → (safeCh b s).window = false → (s.hdg.cause[cSafeIn]).active = false →
    Answers (exec (.safeInRequest b) s) fun t =>
      (t.hdg.cause[cSafeIn]).active = true ∧ (t.hdg.cause[cSafeIn]).raisedAt = s.now ∧
      (t.hdg.cause[cSafeIn]).latched = (safeCh (!b) s).window ∧
      (safeCh b t).level = false ∧ (safeCh b t).highSince = none ∧
      (safeCh (!b) t).pulseFailed = ((safeCh (!b) s).pulseFailed || (safeCh (!b) s).window) ∧
      t.hdg.requests = bump 255 1 s.hdg.requests ∧
      ∀ c : Fin 9, c ≠ cSafeIn → t.hdg.cause[c] = s.hdg.cause[c]) ∧
  (∀ (s : State) (b : Bool), s.pwr.hedge = true → (∀ e, s.hdg.active = some e → Env.safeinMode e = false) →
    (safeCh b s).window = false → (safeCh (!b) s).window = false →
    Answers (exec (.safeInRequest b) s) fun t =>
      (safeCh b t).level = false ∧ t.hdg.cause = s.hdg.cause ∧ t.hdg.requests = s.hdg.requests ∧
      Keeps [.hdg] s t) ∧
  (∀ (s : State) (b : Bool), s.pwr.hedge = true →
    Answers (exec (.safeInHigh b) s) fun t =>
      (safeCh b t).level = true ∧ (safeCh b t).highSince = some ((safeCh b s).highSince.getD s.now) ∧
      safeCh (!b) t = safeCh (!b) s ∧ t.hdg.cause = s.hdg.cause ∧ Keeps [.hdg] s t) ∧
  (∀ (s : State) (b : Bool) (e : Envelope), s.pwr.hedge = true → s.hdg.active = some e →
    s.hdg.selfHeld = false → Env.safeinMode e = true → Env.tpEnable e = true → s.hdg.test = none →
    (safeCh b s).window = false →
    Answers (exec (.testPulseStart b) s) fun t =>
      (safeCh b t).window = true ∧ (safeCh b t).pulseSampled = false ∧ (safeCh b t).pulseAt = s.now ∧
      (safeCh b t).pulseFailed = (!(safeCh (!b) s).level && !(safeCh (!b) s).window) ∧
      safeCh (!b) t = safeCh (!b) s ∧ t.hdg.cause = s.hdg.cause ∧ Keeps [.hdg] s t) ∧
  (∀ (s : State) (b lv : Bool), s.pwr.hedge = true → (safeCh b s).window = true →
    (safeCh b s).pulseSampled = false →
    Answers (exec (.testPulseSample b lv) s) fun t =>
      (safeCh b t).pulseSampled = true ∧ (safeCh b t).pulseFailed = ((safeCh b s).pulseFailed || lv) ∧
      (safeCh b t).level = lv ∧ safeCh (!b) t = safeCh (!b) s ∧ t.hdg.cause = s.hdg.cause ∧
      Keeps [.hdg] s t) ∧
  (∀ (s : State) (b : Bool), s.pwr.hedge = true → (safeCh b s).window = true → s.hdg.test = none →
    (safeCh b s).pulseSampled = true → (safeCh b s).pulseFailed = false → (safeCh b s).level = true →
    Answers (exec (.testPulseEnd b) s) fun t =>
      (safeCh b t).window = false ∧ (safeCh b t).fails = 0 ∧
      (safeCh b t).passes = (safeCh b s).passes + 1 ∧ t.hdg.cause = s.hdg.cause ∧ Keeps [.hdg] s t) ∧
  ∀ (s : State) (b : Bool) (e : Envelope), s.pwr.hedge = true → s.hdg.active = some e →
    (safeCh b s).window = true → s.hdg.test = none → (safeCh b s).pulseFailed = true →
    (safeCh b s).level = true → (s.hdg.cause[cSafeInTest]).active = false →
    Answers (exec (.testPulseEnd b) s) fun t =>
      (safeCh b t).window = false ∧ (safeCh b t).fails = (safeCh b s).fails + 1 ∧ (safeCh b t).passes = 0 ∧
      (t.hdg.cause[cSafeInTest]).active = (decide (1 ≤ (safeCh b s).fails) && Env.tpEnable e)

/-- Of R236 and R237 of spec/08_hedge.md. Where the device drives the disconnect in RUN, DIM or LIGHT_HOLD, no safe
state with DISCONNECT holds, no self-fault and no other test, and SD_PERIOD_S is not 0, the test of switch A begins,
and after it that of switch B: one SAFE_OFF is asserted and nothing outside the Hedge changes. Feedback low releases
it, in time or not by the open limit, and its open time is recorded, at most 25.4 µs (the model's reading, log
entry 10); the time limit releases it with the test failed. At the check after release a test that opened in time
and whose feedback is high again has passed and leaves SAFE_OFF_FB as it is; a failed one counts, and outside
power-up the second failure in a row of a switch raises SAFE_OFF_FB, and one that was no repeat has the test repeated;
a failed power-up test raises it at once. A repeat tests the switch that waits, A before B; a power-up test asserts the
SAFE_OFF of its switch. Feedback low without a command raises SAFE_OFF_FB at once. -/
def Obligations.HedgeDisconnectTests : Prop :=
  (∀ (s : State) (b : Bool) (e : Envelope), s.pwr.hedge = true → s.hdg.active = some e → lit s = true →
    drivesOff s = true → disconnected s = false → s.hdg.selfHeld = false → s.hdg.disc = none →
    s.hdg.test = none → Env.sdPeriod e ≠ 0 → (b = true → s.hdg.discMid = true) →
    Answers (exec (.disconnectTestStart b) s) fun t =>
      t.hdg.disc = some ⟨b, true, false, false, false, false⟩ ∧ t.hdg.discMid = !b ∧ Keeps [.hdg] s t) ∧
  (∀ (s : State) (d : DiscTest) (k : Fin 10001), s.hdg.disc = some d → d.asserted = true →
    Answers (exec (.disconnectFeedbackLow k) s) fun t =>
      t.hdg.disc = some { d with asserted := false, opened := decide (k.val ≤ openLimit d s) } ∧
      (if d.second then t.hdg.swB else t.hdg.swA).openTime = min 254 k.val ∧
      (if d.second then t.hdg.swA = s.hdg.swA else t.hdg.swB = s.hdg.swB) ∧ Keeps [.hdg] s t) ∧
  (∀ (s : State) (d : DiscTest), s.hdg.disc = some d → d.asserted = true →
    Answers (exec .disconnectOpenTimeout s) fun t =>
      t.hdg.disc = some { d with asserted := false, opened := false } ∧
      (if d.second then t.hdg.swB else t.hdg.swA).openTime = 0xFF ∧ Keeps [.hdg] s t) ∧
  (∀ (s : State) (d : DiscTest) (high : Bool), s.hdg.disc = some d → d.asserted = false →
    d.powerUp = false → s.hdg.test = none →
    (s.hdg.cause[cOffFb]).active = false →
    Answers (exec (.disconnectReleaseCheck high) s) fun t =>
      t.hdg.disc = none ∧
      (if d.opened && high then
        (t.hdg.cause[cOffFb]).active = false ∧ t.hdg.discFails = s.hdg.discFails ∧
          (if d.second then t.hdg.swB else t.hdg.swA).fails = 0
      else
        (t.hdg.cause[cOffFb]).active =
          decide (2 ≤ (if d.second then s.hdg.swB else s.hdg.swA).fails + 1) ∧
        t.hdg.discFails = bump 255 1 s.hdg.discFails ∧
        (d.retry = false → (if d.second then t.hdg.retryB else t.hdg.retryA) = true))) ∧
  (∀ (s : State) (d : DiscTest) (high : Bool), s.hdg.disc = some d → d.asserted = false → d.powerUp = true →
    (s.hdg.cause[cOffFb]).active = false →
    Answers (exec (.disconnectReleaseCheck high) s) fun t =>
      (t.hdg.cause[cOffFb]).active = !(d.opened && high) ∧
      (if d.second then t.hdg.puDoneB else t.hdg.puDoneA) = true) ∧
  (∀ (s : State) (e : Envelope), s.hdg.retryA = true ∨ s.hdg.retryB = true → s.pwr.hedge = true →
    s.hdg.active = some e → lit s = true → disconnected s = false → s.hdg.selfHeld = false →
    s.hdg.disc = none → s.hdg.test = none →
    Answers (exec .disconnectTestRetry s) fun t =>
      t.hdg.disc = some ⟨!s.hdg.retryA, true, false, false, false, true⟩ ∧ t.hdg.retryA = false ∧
      t.hdg.retryB = (s.hdg.retryA && s.hdg.retryB) ∧ Keeps [.hdg] s t) ∧
  (∀ (s : State) (b : Bool), s.pwr.hedge = true → s.hdg.selfHeld = false → s.hdg.disc = none →
    (if b then s.hdg.puDoneB else s.hdg.puDoneA) = false → drivesOff s = true →
    Answers (exec (.powerupDisconnectTest b) s) fun t =>
      t.hdg.disc = some ⟨b, true, false, true, false, false⟩ ∧ Keeps [.hdg, .pwr] s t) ∧
  ∀ (s : State) (b : Bool), s.pwr.hedge = true → disconnected s = false → s.hdg.disc = none →
    Answers (exec (.safeFbUnexpectedOpen b) s) fun t =>
      (t.hdg.cause[cOffFb]).active = true ∧ (if b then t.hdg.swB else t.hdg.swA).fb = false

/-- Of R29, R33, R34, R238, R240, R243, R245, R281 and R432. A self-fault is recorded in HDG_SELF and holds, ends a
disconnect test, the test windows and the disconnect, and raises a CRITICAL of group 1 with HDG_SELF; a CRC of the
active block that is wrong, and a deviation of the Hedge oscillator, are self-faults, while a corrected error of the
block raises a NOTE of group 0. Every clock that deviates is counted and raises a MAJOR of group 2 that names it,
and for the other clocks that is all. A heartbeat lost for 2 µs in RUN, DIM or LIGHT_HOLD and a stall of the latch
points are recorded, put FBK on every driven lane that the partner does not cover, and raise a CRITICAL, of group 1
where no self-fault has raised one before, or of group 5. COMMISSION_N that counts as low raises one NOTE of group 0,
and one that counts as high discards the staged block and leaves the active one, and without a boundary scan to end
changes nothing outside the Hedge. A staged block whose 10 s are over is discarded. While COMMISSION_N counts as low a
write of HDG_COMMIT_CRC that equals the CRC of the staged block is accepted for that block, and another value is refused with CONFIRM_FAIL, a MINOR
of group 0 and the staged block discarded; while it counts as high the write changes nothing. -/
def Obligations.HedgeSelfFaultsAndCommissioning : Prop :=
  ((∀ (s : State) (c : Instr) (b : Fin 6), s.pwr.hedge = true →
     (c = .hedgeSelfFault b ∨ (∃ k, c = .hedgeCrcScan false k) ∧ hedgeUp s = true ∧ b = 4 ∨
       c = .clockDeviation 4 ∧ b = 0) →
     Answers (exec c s) fun t =>
       t.hdg.selfRec = s.hdg.selfRec ||| BitVec.ofNat 6 (2 ^ b.val) ∧ t.hdg.selfHeld = true ∧
       t.hdg.disc = none ∧ disconnected t = false ∧ t.hdg.chA.window = false ∧ t.hdg.chB.window = false ∧
       (s.pwr.core = true →
         ⟨1, .critical, BitVec.ofNat 32 t.hdg.selfRec.toNat, false, s.now⟩ ∈ t.rve.inbox)) ∧
   (∀ (s : State), hedgeUp s = true → s.pwr.core = true →
     (Answers (exec (.hedgeCrcScan true true) s) fun t =>
       Raised 0 .note (hedgeDetail 0 4 0) s t ∧ Keeps [.rve] s t) ∧
     exec (.hedgeCrcScan true false) s = .next s) ∧
   (∀ (s : State) (k : Fin 5), s.pwr.core = true →
     Answers (exec (.clockDeviation k) s) fun t =>
       ⟨2, .major, BitVec.ofNat 32 k.val, false, s.now⟩ ∈ t.rve.inbox ∧
       t.pwr.monCore = (if k = 0 ∨ k = 3 then bump 255 1 s.pwr.monCore else s.pwr.monCore) ∧
       t.pwr.monLane = (if k = 1 then bump 255 1 s.pwr.monLane else s.pwr.monLane) ∧
       t.pwr.monEth = (if k = 2 then bump 255 1 s.pwr.monEth else s.pwr.monEth) ∧
       t.pwr.monHedge = (if k = 4 then bump 255 1 s.pwr.monHedge else s.pwr.monHedge) ∧
       (k ≠ 4 → Raised 2 .major k.val s t ∧ Keeps [.pwr, .rve] s t)) ∧
   (∀ (s : State), (s.pwr.state = .run ∨ s.pwr.state = .dim ∨ s.pwr.state = .lightHold) →
     Answers (exec .hedgeHeartbeatLoss s) fun t => t.hdg.heartbeat = false ∧
       (∀ n ∈ drivenLanes s, coveredLane s n = false → ∃ k, Emit.lane (Fin.castSucc n) .fbk k ∈ t.out) ∧
       (s.pwr.core = true → s.hdg.heartbeat = true → s.hdg.selfHeld = false →
         ⟨1, .critical, BitVec.ofNat 32 s.hdg.selfRec.toNat, false, s.now⟩ ∈ t.rve.inbox)) ∧
   ∀ (s : State), s.pwr.core = true → s.lpl.stall = false → s.pwr.entry = none →
     Answers (exec .freezeStall s) fun t => t.lpl.stall = true ∧ t.yok.holding = false ∧
       (∀ n ∈ drivenLanes s, coveredLane s n = false → ∃ k, Emit.lane (Fin.castSucc n) .fbk k ∈ t.out) ∧
       ⟨5, .critical, BitVec.ofNat 32 (6 + s.lpl.composing.toNat * 65536), false, s.now⟩ ∈ t.rve.inbox) ∧
  ((∀ s : State, s.hdg.commissionLow = false → s.hdg.commNoted = false → s.pwr.core = true →
     Answers (exec .commissionNLow s) fun t =>
       t.hdg.commissionLow = true ∧ t.hdg.commNoted = true ∧ t.hdg.staged = s.hdg.staged ∧
       Raised 0 .note (hedgeDetail 0 5 0) s t ∧ Keeps [.hdg, .rve] s t) ∧
   (∀ s : State, Answers (exec .commissionNHigh s) fun t =>
       t.hdg.commissionLow = false ∧ t.hdg.staged = none ∧ t.hdg.active = s.hdg.active ∧
       (scanHolds s = false → Keeps [.hdg] s t)) ∧
   (∀ s : State, s.pwr.hedge = true →
     Answers (exec .stagedBlockTimeout s) fun t =>
       t.hdg.staged = none ∧ t.hdg.active = s.hdg.active ∧ Keeps [.hdg] s t) ∧
   (∀ (s : State) (b : List Byte), hostUp s = true → s.hdg.commissionLow = true →
     s.hdg.staged = some b →
     Answers (exec (.hdgCommitCrcWrite s.hdg.stagedCrc) s) fun t =>
       t.hdg.commitCrc = s.hdg.stagedCrc ∧ t.hdg.active = s.hdg.active ∧
       (∃ k, t.hdg.confirmed = some k ∧ k.crc = s.hdg.stagedCrc ∧ k.block = b) ∧ Keeps [.hdg] s t) ∧
   (∀ (s : State) (v : Word) (b : List Byte), hostUp s = true → s.hdg.commissionLow = true →
     s.hdg.staged = some b → v ≠ s.hdg.stagedCrc →
     Answers (exec (.hdgCommitCrcWrite v) s) fun t =>
       t.hdg.confirmFail = true ∧ t.hdg.staged = none ∧ t.hdg.confirmed = s.hdg.confirmed ∧
       Raised 0 .minor (hedgeDetail 0 6 s.lpl.composing) s t ∧ Keeps [.hdg, .rve] s t) ∧
   ∀ (s : State) (v : Word), s.hdg.commissionLow = false → exec (.hdgCommitCrcWrite v) s = .next s)

/-- Of R364, R365, R368, R369, R372 and R376 of spec/13_tile_rails.md. Where no TEST_RUN and no RAIL_SET runs, a
switching cycle of a used rail sets its VS to the sample of 2 mV steps and its I to the current of the sense
voltage with the rail's trim, from 0 to 65,535 mA, leaves a switching rail's duty at 62,259 or less, and changes no other rail. A
comparator trip sets LIMIT of a switching rail and leaves its state. In band with its ramp at V_SET a rail without
LINK_PREV that soft-starts goes to REGULATE with PGOOD, while the outputs are driven and not disconnected. A soft
stop that ends leaves the rail with duty 0 and no PGOOD, SUSPENDED where the device does not hold the line and the
rail's EN is 1 and rails may run, else OFF. The rail whose turn the expired SEQ_DELAY brings goes
to SOFT_STOP in a sequenced stop, and in a sequenced start, where its EN, the power-up test, the line and the
disconnect allow it and it has no LINK_PREV, to SOFT_START. One second in REGULATE makes the restart count 0 and
changes nothing else of the rail's state, nor another rail. -/
def Obligations.RailOperation : Prop :=
  (∀ (s : State) (r : Fin 8) (vs : BitVec 15) (i : Int), s.pwr.analogue = true →
    (s.rail.rail[r]).entry.used = true → s.tst.job = none → s.rail.jobs = [] →
    Answers (exec (.railSwitchingCycle r vs i) s) fun t =>
      (t.rail.rail[r]).vs = 2 * vs.toNat ∧
      (t.rail.rail[r]).i = min 65535 ((s.rail.rail[r]).milliamps s.thm.trims.rail[r] i).toNat ∧
      ((s.rail.rail[r]).switching = true → (t.rail.rail[r]).duty ≤ 62259) ∧
      (t.rail.rail[r]).state = (s.rail.rail[r]).state ∧
      (∀ k : Fin 8, k ≠ r → t.rail.rail[k] = s.rail.rail[k]) ∧ Keeps [.rail] s t) ∧
  (∀ (s : State) (r : Fin 8), railIn r Rail.switching s = true →
    Answers (exec (.railComparatorTrip r) s) fun t =>
      (t.rail.rail[r]).limit = true ∧ (t.rail.rail[r]).state = (s.rail.rail[r]).state ∧
      (∀ k : Fin 8, k ≠ r → t.rail.rail[k] = s.rail.rail[k]) ∧ Keeps [.rail] s t) ∧
  (∀ (s : State) (r : Fin 8), railIn r (fun x => x.state == .softStart) s = true →
    (s.rail.rail[r]).target = (s.rail.rail[r]).vSet → (s.rail.rail[r]).inBand = true →
    drivesOff s = true → disconnected s = false → (s.rail.rail[r]).entry.linkPrev = false →
    Answers (exec (.railPgood r) s) fun t =>
      (t.rail.rail[r]).state = .regulate ∧ (t.rail.rail[r]).pgood = true) ∧
  (∀ (s : State) (r : Fin 8), railIn r (fun x => x.state == .softStop) s = true →
    Answers (exec (.railSoftStopEnd r) s) fun t =>
      (t.rail.rail[r]).state =
        (if drivesOff s = false ∧ (s.rail.rail[r]).en = true ∧ railsMayRun s = true then .suspended else .off) ∧
      (t.rail.rail[r]).duty = 0 ∧ (t.rail.rail[r]).pgood = false) ∧
  (∀ (s : State) (r : Fin 8) (q : RailSeq), s.rail.seqs = [q] → seqReady q r s = true →
    q.start = false → drivesOff s = true → disconnected s = false →
    Answers (exec (.railSeqDelayExpiry r) s) fun t => (t.rail.rail[r]).state = .softStop) ∧
  (∀ (s : State) (r : Fin 8) (q : RailSeq), s.rail.seqs = [q] → seqReady q r s = true →
    q.start = true → drivesOff s = true → disconnected s = false → (s.rail.rail[r]).en = true →
    (s.rail.rail[r]).entry.used = true → (s.rail.rail[r]).entry.linkPrev = false →
    s.rail.allowed = true → s.pwr.analogue = true → s.pwr.entry = none →
    Answers (exec (.railSeqDelayExpiry r) s) fun t => (t.rail.rail[r]).state = .softStart) ∧
  ∀ (s : State) (r : Fin 8), railIn r (fun x => x.state == .regulate) s = true →
    Answers (exec (.railRestartCountClear r) s) fun t =>
      t.rail.rail[r] = { s.rail.rail[r] with restarts := 0 } ∧
      (∀ k : Fin 8, k ≠ r → t.rail.rail[k] = s.rail.rail[k]) ∧ Keeps [.rail] s t

/-- Of R20, R21, R371, R375, R376, R410 and R432, while the outputs are driven, no RAIL_SET, no TEST_RUN and no low-power
entry runs and the core is powered, and where the rail has recorded no fault in the same switching cycle. A short, an overvoltage or a sense fault of a switching rail, LIMIT held for OC_TIME, an
undervoltage in REGULATE that is not blanked and a soft start without PGOOD each turn the rail's PWM off, are
recorded as LAST with their code, counted, and raise an event of the rail's group with the code and the restart
count, a MAJOR for codes 1 to 3 and a MINOR for the others. The rail goes to FAULT_WAIT, or with EN 0 to OFF, where the fault is
retriable and restarts are left, else to LATCHED; a blanked undervoltage does nothing. From FAULT_WAIT a rail that may run
soft-starts after its time and counts a restart, up to 15. A die-bridge transfer that fails twice raises a NOTE of
group 4 with its kind and changes nothing else. A loss of the bridge raises a MAJOR of group 4, marks sensors 12 to
23 that were valid as BROKEN and takes rails without LINK_PREV from REGULATE to HOLD; the first good transfer takes
them back and clears those sensors. The analogue domain's readiness is recorded in a start sequence. -/
def Obligations.RailFaultsAndAnalogueDomain : Prop :=
  ((∀ (s : State) (r : Fin 8) (c : Instr) (code : Nat),
     ((c = .railShortFault r ∧ code = 1) ∨ (c = .railOvervoltageFault r ∧ code = 2) ∨
       (c = .railSenseFault r ∧ code = 3)) →
     railIn r Rail.switching s = true → drivesOff s = true → s.rail.jobs = [] → s.tst.job = none →
     s.pwr.core = true → s.pwr.entry = none → (s.rail.rail[r]).cycleFault = none →
     Answers (exec c s) fun t =>
       (t.rail.rail[r]).lastFault = code ∧ (t.rail.rail[r]).duty = 0 ∧
       (t.rail.rail[r]).nShort = (if code = 1 then bump 255 1 (s.rail.rail[r]).nShort else (s.rail.rail[r]).nShort) ∧
       (t.rail.rail[r]).nOther = (if code = 1 then (s.rail.rail[r]).nOther else bump 255 1 (s.rail.rail[r]).nOther) ∧
       (t.rail.rail[r]).state =
         (if code = 1 ∧ (s.rail.rail[r]).restarts < (s.rail.rail[r]).entry.retryMax then
           (if (s.rail.rail[r]).en then .faultWait else .off)
          else .latched) ∧
       Raised (23 + r.val) .major (code + (s.rail.rail[r]).restarts * 256) s t) ∧
   (∀ (s : State) (r : Fin 8) (c : Instr) (code : Nat),
     ((c = .railOvercurrentTimeout r ∧ code = 4 ∧ railIn r (fun x => x.switching && x.limit) s = true) ∨
       (c = .railUndervoltageTimeout r ∧ code = 5 ∧
         railIn r (fun x => x.state == .regulate) s = true ∧ underBlanked r s = false) ∨
       (c = .railSoftStartTimeout r ∧ code = 6 ∧ railIn r (fun x => x.state == .softStart) s = true)) →
     drivesOff s = true → s.rail.jobs = [] → s.tst.job = none → s.pwr.core = true → s.pwr.entry = none →
     (s.rail.rail[r]).cycleFault = none →
     Answers (exec c s) fun t =>
       (t.rail.rail[r]).lastFault = code ∧ (t.rail.rail[r]).duty = 0 ∧
       (t.rail.rail[r]).nOver = (if code = 4 then bump 255 1 (s.rail.rail[r]).nOver else (s.rail.rail[r]).nOver) ∧
       (t.rail.rail[r]).nUnder = (if code = 5 then bump 255 1 (s.rail.rail[r]).nUnder else (s.rail.rail[r]).nUnder) ∧
       (t.rail.rail[r]).nOther = (if code = 6 then bump 255 1 (s.rail.rail[r]).nOther else (s.rail.rail[r]).nOther) ∧
       (t.rail.rail[r]).state =
         (if (s.rail.rail[r]).restarts < (s.rail.rail[r]).entry.retryMax then
           (if (s.rail.rail[r]).en then .faultWait else .off)
          else .latched) ∧
       Raised (23 + r.val) .minor (code + (s.rail.rail[r]).restarts * 256) s t) ∧
   (∀ (s : State) (r : Fin 8), underBlanked r s = true →
     exec (.railUndervoltageTimeout r) s = .next s) ∧
   ∀ (s : State) (r : Fin 8), railIn r (fun x => x.state == .faultWait) s = true →
     (s.rail.rail[r]).en = true → s.rail.allowed = true → s.pwr.entry = none → drivesOff s = true →
     disconnected s = false → (s.rail.rail[r]).entry.linkPrev = false → s.rail.jobs = [] →
     s.tst.job = none →
     Answers (exec (.railRestartTimeout r) s) fun t =>
       (t.rail.rail[r]).state = .softStart ∧
       (t.rail.rail[r]).restarts = min 15 ((s.rail.rail[r]).restarts + 1)) ∧
  ((∀ (s : State) (k : Byte), s.pwr.core = true →
     Answers (exec (.dieBridgeTransferFail k) s) fun t =>
       Raised 4 .note k.toNat s t ∧ Keeps [.rve] s t) ∧
   (∀ s : State, s.pwr.core = true → s.pwr.bridge = true →
     Answers (exec .dieBridgeLoss s) fun t =>
       t.pwr.bridge = false ∧ ⟨4, .major, 0#32, false, s.now⟩ ∈ t.rve.inbox ∧
       (∀ k : Fin 24, 12 ≤ k.val → (s.thm.sensor[k]).valid = true →
         (t.thm.sensor[k]).st.broken = true ∧ (t.thm.sensor[k]).bridge = true) ∧
       (drivesOff s = true → disconnected s = false → ∀ r : Fin 8,
         (s.rail.rail[r]).state = .regulate → (s.rail.rail[r]).entry.linkPrev = false →
         (t.rail.rail[r]).state = .hold)) ∧
   (∀ s : State, s.pwr.core = true → s.pwr.bridge = false →
     Answers (exec .dieBridgeRestored s) fun t =>
       t.pwr.bridge = true ∧
       (∀ k : Fin 24, (s.thm.sensor[k]).bridge = true →
         (t.thm.sensor[k]).st.broken = false ∧ (t.thm.sensor[k]).st.state = 0) ∧
       (drivesOff s = true → disconnected s = false → ∀ r : Fin 8,
         (s.rail.rail[r]).state = .hold → (s.rail.rail[r]).entry.linkPrev = false →
         (t.rail.rail[r]).state = .regulate)) ∧
   ∀ (s : State) (x : Start), s.pwr.start = some x → s.pwr.analogue = false →
     Answers (exec .analogueDomainReady s) fun t => t.pwr.analogue = true ∧
       t.pwr.start = some { x with analogue := true })

/-- Of R295 to R298, R300, R301, R305 and R576 of spec/10_xieri_lanes.md and spec/23_bringup.md. Signal takes a lane
from DETECT to COMMA_LOCK, alignment to POLARITY, the eighth training set in a row from POLARITY to REVERSAL on
lanes 0 to 23, and the eighth with the lane's own number from REVERSAL to ENUMERATE, which asks for slot 0; before
that each is counted. The first inverted set with a right CHK inverts the receiver and restarts the count. A
time-out of COMMA_LOCK, POLARITY or REVERSAL is a failed attempt: the first two go back to DETECT and are counted,
the third in POLARITY leads lanes 0 to 23 to DOWN with reason POLARITY. A time-out in CHECK where no check has failed
at this rate repeats the check. Every second a lane in DOWN that is not held, and the moment a rail is good a lane
whose slot 0 hangs on it in DOWN with reason NO_PARTNER, begin a cold bring-up in DETECT. In the first three
transitions no other lane changes. -/
def Obligations.LaneBringUp : Prop :=
  ((∀ (s : State) (n : Fin 25), (laneAt n s).state = .detect →
     Answers (exec (.laneSignalDetect n) s) fun t =>
       (laneAt n t).state = .commaLock ∧ ∀ m : Fin 25, m ≠ n → laneAt m t = laneAt m s) ∧
   (∀ (s : State) (n : Fin 25), (laneAt n s).state = .commaLock →
     Answers (exec (.laneCommaLock n) s) fun t =>
       (laneAt n t).state = .polarity ∧ (laneAt n t).tsRun = 0 ∧
       ∀ m : Fin 25, m ≠ n → laneAt m t = laneAt m s) ∧
   (∀ (s : State) (n : Fin 25) (lane rate st : Byte), (laneAt n s).state = .polarity → n ≠ 24 →
     Answers (exec (.laneTrainingSetReceived n 0x4A lane rate st (0x4A ^^^ lane ^^^ rate ^^^ st)) s) fun t =>
       (if (laneAt n s).tsRun + 1 < 8 then
         (laneAt n t).state = .polarity ∧ (laneAt n t).tsRun = (laneAt n s).tsRun + 1
       else (laneAt n t).state = .reversal ∧ (laneAt n t).tsRun = 0) ∧
       ∀ m : Fin 25, m ≠ n → laneAt m t = laneAt m s) ∧
   (∀ (s : State) (n : Fin 24) (rate st : Byte), (s.link.lane[n]).state = .reversal →
     Answers (exec (.laneTrainingSetReceived (Fin.castSucc n) 0x4A (BitVec.ofNat 8 n.val) rate st
         (0x4A ^^^ BitVec.ofNat 8 n.val ^^^ rate ^^^ st)) s) fun t =>
       if (s.link.lane[n]).tsRun + 1 < 8 then
         (t.link.lane[n]).state = .reversal ∧ (t.link.lane[n]).tsRun = (s.link.lane[n]).tsRun + 1
       else (t.link.lane[n]).state = .enumerate ∧ (t.link.lane[n]).asking = some 0 ∧
         (t.link.lane[n]).assigned = 0) ∧
   (∀ (s : State) (n : Fin 25) (ident lane rate st : Byte), (laneAt n s).state = .polarity →
     (ident = 0xB5 ∨ ident = 0xBA) → (laneAt n s).rxInvert = false →
     Answers (exec (.laneTrainingSetReceived n ident lane rate st (ident ^^^ lane ^^^ rate ^^^ st)) s) fun t =>
       (laneAt n t).rxInvert = true ∧ (laneAt n t).tsRun = 0 ∧ (laneAt n t).state = .polarity)) ∧
  (∀ (s : State) (n : Fin 25),
    ((laneAt n s).state = .commaLock ∨ (laneAt n s).state = .polarity ∨ (laneAt n s).state = .reversal) →
    (laneAt n s).attempts < 2 →
    Answers (exec (.laneStateTimeout n) s) fun t =>
      (laneAt n t).state = .detect ∧ (laneAt n t).attempts = (laneAt n s).attempts + 1 ∧
      (laneAt n t).warm = (laneAt n s).warm) ∧
  (∀ (s : State) (n : Fin 25), (laneAt n s).state = .polarity → 2 ≤ (laneAt n s).attempts → n ≠ 24 →
    Answers (exec (.laneStateTimeout n) s) fun t =>
      (laneAt n t).state = .down ∧ (laneAt n t).reason = .polarity ∧ (laneAt n t).attempts = 3) ∧
  (∀ (s : State) (n : Fin 25), (laneAt n s).state = .check → (laneAt n s).checkFails = 0 →
    Answers (exec (.laneStateTimeout n) s) fun t =>
      (laneAt n t).state = .check ∧ (laneAt n t).checkFails = 1 ∧ (laneAt n t).patternDone = false ∧
      (laneAt n t).checkBad = false) ∧
  (∀ (s : State) (n : Fin 25), (laneAt n s).state = .down → laneHeld n s = false →
    Answers (exec (.laneSlowRetrain n) s) fun t =>
      (laneAt n t).state = .detect ∧ (laneAt n t).attempts = 0 ∧ (laneAt n t).warm = false) ∧
  ∀ (s : State) (r : Fin 8) (n : Fin 25), (s.rail.rail[r]).en = true → (s.rail.rail[r]).inBand = true →
    (laneAt n s).state = .down → (laneAt n s).reason = .noPartner → laneHeld n s = false → n ≠ 24 →
    s.rail.map.at' (4 * n.val) 15 = r.val →
    Answers (exec (.railGoodLaneRestart r) s) fun t =>
      (laneAt n t).state = .detect ∧ (laneAt n t).warm = false

/-- Of R299, R300, R305, R307, R308, R317 and R331. While a slot is asked for on a lane not in OFF or DOWN and the packet may
start now, the repeat sends a HELLO once more and the slot stays asked for; while the lane's control traffic must wait,
the repeat does nothing.
In ENUMERATE a slot that does not answer fixes CHAIN_LEN, which leads to CHECK, or at 0 to DOWN; in any other state
the slot is no longer asked for. The end of the pattern in CHECK records its errors, and a read of CHECK_ERR goes to
every slot of the chain; no other lane changes. Where a tile has not reported, the chain ends before it: before the
first, the lane is DOWN with NO_TILE, and before a later one, with no error so far, READY with the shorter chain. The
first request that was sent and not answered is counted and queued again behind the others up to three times, and sent
where its packet may start now; after that it is given up, counted as failed, and raises a MINOR of group 20. The end of a loopback records its errors and
whether it passed, which needs an aligned receiver and no error, and trains the lane again, warm. -/
def Obligations.LaneEnumeration : Prop :=
  ((∀ (s : State) (n : Fin 24) (k : Nat), (s.link.lane[n]).asking = some k →
     ctlNow (Fin.castSucc n) (LanePkt.rdq 7 0x000C (s.link.lane[n]).ctlSeq).length s = true →
     (s.link.lane[n]).state ≠ .off → (s.link.lane[n]).state ≠ .down →
     Answers (exec (.enumerateHelloRepeat n) s) fun t =>
       Sent [.lane (Fin.castSucc n) (.rdq 7 0x000C (s.link.lane[n]).ctlSeq) (s.link.lane[n]).tx.start] s t ∧
       (t.link.lane[n]).asking = some k ∧ (t.link.lane[n]).requests = (s.link.lane[n]).requests ∧
       ∀ m : Fin 24, m ≠ n → t.link.lane[m] = s.link.lane[m]) ∧
   (∀ (s : State) (n : Fin 24), ctlWaits (Fin.castSucc n) s = true →
     exec (.enumerateHelloRepeat n) s = .next s) ∧
   (∀ (s : State) (n : Fin 24) (k : Nat), (s.link.lane[n]).asking = some k →
     (s.link.lane[n]).state = .enumerate →
     Answers (exec (.enumerateSlotTimeout n) s) fun t =>
       (t.link.lane[n]).chainLen = k ∧ (t.link.lane[n]).asking = none ∧
       (t.link.lane[n]).state = (if k = 0 then .down else .check)) ∧
   (∀ (s : State) (n : Fin 24) (k : Nat), (s.link.lane[n]).asking = some k →
     (s.link.lane[n]).state ≠ .enumerate →
     Answers (exec (.enumerateSlotTimeout n) s) fun t =>
       (t.link.lane[n]).asking = none ∧ (t.link.lane[n]).state = (s.link.lane[n]).state ∧
       (t.link.lane[n]).chainLen = (s.link.lane[n]).chainLen) ∧
   (∀ (s : State) (n : Fin 24) (e : BitVec 32), (s.link.lane[n]).state = .check →
     (s.link.lane[n]).patternDone = false → (s.link.lane[n]).chainLen ≤ 4 →
     Answers (exec (.checkPatternEnd (Fin.castSucc n) e) s) fun t =>
       (t.link.lane[n]).patternDone = true ∧ (t.link.lane[n]).checkBad = (e != 0) ∧
       (t.link.lane[n]).loopErr = e.toNat ∧
       (t.link.lane[n]).requests = (s.link.lane[n]).requests ++
         (List.range (s.link.lane[n]).chainLen).map (fun k =>
           { slot := k, write := false, addr := 0x001C, data := 0#32, match' := 0#32,
             seq := (s.link.lane[n]).ctlSeq + BitVec.ofNat 16 k, repeats := 0, sent := true }) ∧
       ∀ m : Fin 24, m ≠ n → t.link.lane[m] = s.link.lane[m])) ∧
  ((∀ (s : State) (n : Fin 24), (s.link.lane[n]).state = .check → (s.link.lane[n]).patternDone = true →
     0 < (s.link.lane[n]).chainLen → (s.link.lane[n]).reported.getLsbD 0 = false →
     Answers (exec (.checkReportTimeout n) s) fun t =>
       (t.link.lane[n]).chainLen = 0 ∧ (t.link.lane[n]).state = .down ∧
       (t.link.lane[n]).reason = .noTile) ∧
   (∀ (s : State) (n : Fin 24) (k : Nat), (s.link.lane[n]).state = .check →
     (s.link.lane[n]).patternDone = true → 0 < k → k < (s.link.lane[n]).chainLen →
     (∀ j : Nat, j < k → (s.link.lane[n]).reported.getLsbD j = true) →
     (s.link.lane[n]).reported.getLsbD k = false → (s.link.lane[n]).checkBad = false →
     Answers (exec (.checkReportTimeout n) s) fun t =>
       (t.link.lane[n]).chainLen = k ∧ (t.link.lane[n]).state = .ready ∧
       (t.link.lane[n]).reason = .none)) ∧
  ((∀ (s : State) (n : Fin 24) (q : CtlReq),
     (s.link.lane[n]).requests.find? (fun x => x.sent) = some q → q.repeats < 3 →
     ctlNow (Fin.castSucc n) q.packet.length s = true →
     (s.link.lane[n]).state ≠ .off → (s.link.lane[n]).state ≠ .down →
     Answers (exec (.controlRequestRetry n) s) fun t =>
       (t.link.lane[n]).requests =
         (s.link.lane[n]).requests.erase q ++ [{ q with repeats := q.repeats + 1, sent := true }] ∧
       (t.link.lane[n]).retry = bump 65535 1 (s.link.lane[n]).retry ∧
       Sent [.lane (Fin.castSucc n) (if q.write then .cfg q.slot q.addr q.data q.match' q.seq
         else .rdq q.slot q.addr q.seq) (s.link.lane[n]).tx.start] s t) ∧
   (∀ (s : State) (n : Fin 24) (q : CtlReq),
     (s.link.lane[n]).requests.find? (fun x => x.sent) = some q → q.repeats < 3 →
     ctlNow (Fin.castSucc n) q.packet.length s = false →
     Answers (exec (.controlRequestRetry n) s) fun t =>
       (t.link.lane[n]).requests =
         (s.link.lane[n]).requests.erase q ++ [{ q with repeats := q.repeats + 1, sent := false }] ∧
       (t.link.lane[n]).retry = bump 65535 1 (s.link.lane[n]).retry ∧ t.out = s.out) ∧
   (∀ (s : State) (n : Fin 24) (q : CtlReq),
     (s.link.lane[n]).requests.find? (fun x => x.sent) = some q →
     3 ≤ q.repeats → s.pwr.core = true → (q.addr ≠ 0x0020 ∨ q.write = false) →
     Answers (exec (.controlRequestRetry n) s) fun t =>
       (t.link.lane[n]).requests = (s.link.lane[n]).requests.erase q ∧ (t.link.lane[n]).fail = bump 65535 1 (s.link.lane[n]).fail ∧
       Raised 20 .minor (n.val + q.slot % 4 * 32 + 512) s t)) ∧
  ∀ (s : State) (n : Fin 25) (e : BitVec 32) (x : Loop), (laneAt n s).state = .loopback →
    (laneAt n s).loop = some x →
    Answers (exec (.loopbackPatternEnd n e) s) fun t =>
      (laneAt n t).loopPass = (!x.noAlign && e == 0) ∧ (laneAt n t).loopErr = e.toNat ∧
      (laneAt n t).state = .detect ∧ (laneAt n t).warm = true

/-- Of R289, R302, R303, R318 and R319 of spec/10_xieri_lanes.md and spec/11_xieri_protocol.md. A loss of signal, a
burst of four or more errors and a COM at a new alignment each send a READY lane to DETECT for a warm bring-up, are
counted with the retrain, and on lanes 0 to 23 raise a MINOR of the lane's group that names the cause. The errors of
a window are counted on every lane whose receiver runs; a READY lane with more of them than a limit that is not 0
retrains, and otherwise stays READY. A lane below READY that is no loopback and not held sends BLANK in the Hedge's
BLANK state and FBK else, where the partner does not cover it, and shows FBK_ACTIVE; no other lane changes. A slot
not INCLUDED in its time is returned to no slot by a CFG of ASSIGN 7 and is no longer assigned, and the chain ends
before it from the next latch point; one that is silent retrains the lane, warm, and raises a MINOR of group 20. -/
def Obligations.LaneRetrains : Prop :=
  (∀ (s : State) (n : Fin 25) (c : Instr) (k : Nat), (laneAt n s).state = .ready →
    (c = .laneLossOfSignal n ∧ k = 1 ∨ c = .laneNewAlignment n ∧ k = 3 ∨
      ∃ e : CodeErrors, c = .laneErrorBurst n e ∧ 4 ≤ e.violations ∧ k = 2) →
    Answers (exec c s) fun t =>
      (laneAt n t).state = .detect ∧ (laneAt n t).warm = true ∧ (laneAt n t).attempts = 0 ∧
      (laneAt n t).retrains = bump 65535 1 (laneAt n s).retrains ∧
      (c = .laneLossOfSignal n → (laneAt n t).los = bump 255 1 (laneAt n s).los) ∧
      (c = .laneNewAlignment n → (laneAt n t).realign = bump 255 1 (laneAt n s).realign) ∧
      (∀ e, c = .laneErrorBurst n e →
        (laneAt n t).codeErr = bump 65535 e.violations (laneAt n s).codeErr ∧
        (laneAt n t).dispErr = bump 65535 e.otherDisparity (laneAt n s).dispErr) ∧
      (s.pwr.core = true → n ≠ 24 → Raised (14 + n.val / 4) .minor (n.val + k * 256 + 4096) s t)) ∧
  (∀ (s : State) (n : Fin 25) (e : CodeErrors), rxRuns n s = true →
    Answers (exec (.laneErrorWindow n e) s) fun t =>
      (laneAt n t).codeErr = bump 65535 e.violations (laneAt n s).codeErr ∧
      (laneAt n t).dispErr = bump 65535 e.otherDisparity (laneAt n s).dispErr ∧
      ((laneAt n s).state = .ready → (laneAt n t).state =
        (if (laneAt n s).entry.errRetrain ≠ 0 ∧ (laneAt n s).entry.errRetrain < e.violations then .detect
          else .ready)) ∧
      ((laneAt n s).state ≠ .ready → (laneAt n t).state = (laneAt n s).state)) ∧
  (∀ (s : State) (n : Fin 24), (s.link.lane[n]).state ≠ .ready → (s.link.lane[n]).state ≠ .off →
    laneHeld (Fin.castSucc n) s = false → (s.link.lane[n]).loop = none →
    s.yok.cover.getLsbD n.val = false → (s.link.lane[n]).tx.skp = 0 →
    Answers (exec (.laneFbkTimeout n) s) fun t =>
      (t.link.lane[n]).fbkActive = true ∧
      Sent [.lane (Fin.castSucc n) (if s.hdg.state = 1 then .blank else .fbk)
        (s.link.lane[n]).tx.start] s t ∧
      ∀ m : Fin 24, m ≠ n → t.link.lane[m] = s.link.lane[m]) ∧
  (∀ (s : State) (k : Fin 96), (laneAt (slotOf k).1 s).state = .ready →
    (laneAt (slotOf k).1 s).assigned.getLsbD (slotOf k).2 = true →
    (laneAt (slotOf k).1 s).included.getLsbD (slotOf k).2 = false →
    Answers (exec (.slotIncludeTimeout k) s) fun t =>
      (laneAt (slotOf k).1 t).assigned =
        (laneAt (slotOf k).1 s).assigned &&& ~~~ BitVec.ofNat 4 (2 ^ (slotOf k).2) ∧
      (laneAt (slotOf k).1 t).nextLen = some (slotOf k).2 ∧
      (∃ q, (laneAt (slotOf k).1 t).requests = (laneAt (slotOf k).1 s).requests ++ [q] ∧ q.slot = 7 ∧
        q.write = true ∧ q.addr = 0x0010 ∧ q.data = 7#32 ∧ q.match' = (s.link.slot[k]).serial) ∧
      (laneAt (slotOf k).1 t).state = .ready) ∧
  ∀ (s : State) (k : Fin 96), (laneAt (slotOf k).1 s).state = .ready →
    (laneAt (slotOf k).1 s).assigned.getLsbD (slotOf k).2 = true →
    Answers (exec (.slotSilentTimeout k) s) fun t =>
      (laneAt (slotOf k).1 t).state = .detect ∧ (laneAt (slotOf k).1 t).silent = true ∧
      (laneAt (slotOf k).1 t).warm = true ∧
      (s.pwr.core = true → ⟨20, .minor, BitVec.ofNat 32 ((slotOf k).1.val + (slotOf k).2 * 32 + 256),
        false, s.now⟩ ∈ t.rve.inbox)

/-- Of R313, R317, R320, R322, R326, R328, R331, R335, R336 and R344. On a lane that receives, a packet with a wrong
CRC, SLOT or length, or without its EOP, is counted; a NAK is counted and leaves the lane's state; a STATUS gives its
slot the temperature it brings; an answer to the only request under way ends it, and a good one of the tile's ID
gives the slot that ID; a PIXEL report of a PRESENT and INCLUDED slot is taken record by record, entries that fail
their parity being cleared first, and any other PIXEL report of the right form does nothing; a record without a
measurement is counted in its pixel's entry. A latch echo with a wrong check byte does nothing; an accepted one that
the tearing guard waits for ends that wait, and one of the slot's last LAT ends its run of stale echoes. While lanes
may send, scan-out of a READY lane sends the next packet of the scan, with the truncated codes of its two lines where
the Granary marks no word, goes on behind it, and withholds the LAT of a tile of which a line fails. -/
def Obligations.LanePackets : Prop :=
  ((∀ (s : State) (n : Fin 24) (b : List Byte) (eop : Bool) (y : BitVec 128) (c : Instr),
     receives n s = true → parsePkt b eop = none →
     (c = .rdrReceived n b eop ∨ c = .nakReceived n b eop ∨ c = .telStatusReceived n b eop ∨
       c = .telPixelReceived n b eop y) →
     Answers (exec c s) fun t => (t.link.lane[n]).upCrc = bump 65535 1 (s.link.lane[n]).upCrc) ∧
   (∀ (s : State) (n : Fin 24) (b : List Byte) (p : UpPkt), receives n s = true →
     parsePkt b true = some p → p.kind = 10 →
     Answers (exec (.nakReceived n b true) s) fun t =>
       (t.link.lane[n]).nakRx = bump 65535 1 (s.link.lane[n]).nakRx ∧
       (t.link.lane[n]).state = (s.link.lane[n]).state) ∧
   (∀ (s : State) (n : Fin 24) (b : List Byte) (p : UpPkt), receives n s = true →
     parsePkt b true = some p → p.kind = 8 → p.sub = 0 → p.slot < 4 →
     Answers (exec (.telStatusReceived n b true) s) fun t =>
       (t.link.slot[entryNo n p.slot]).temp = BitVec.ofNat 16 (leNat (p.payload.take 2))) ∧
   (∀ (s : State) (n : Fin 24) (b : List Byte) (p : UpPkt) (q : CtlReq), receives n s = true →
     parsePkt b true = some p → p.kind = 9 → p.addr ≠ 0x000C → (s.link.lane[n]).requests = [q] →
     q.sent = true → q.seq.toNat = p.seq → q.addr = p.addr → q.addr ≠ 0x0010 → q.addr ≠ 0x0020 →
     Answers (exec (.rdrReceived n b true) s) fun t => (t.link.lane[n]).requests = [] ∧
       (p.sub = 0 → q.addr = 0x0000 →
         (t.link.slot[entryNo n q.slot]).id = BitVec.ofNat 32 (leNat (p.payload.take 4))))) ∧
  ((∀ (s : State) (n : Fin 24) (b : List Byte) (y : BitVec 128) (p : UpPkt), receives n s = true →
     parsePkt b true = some p → p.kind = 8 → p.sub = 1 → p.slot < 4 → p.arg ≤ 95 →
     (s.lpl.map[entryNo n p.slot]).present = true → slotIncluded (entryNo n p.slot).val s = true →
     exec (.telPixelReceived n b true y) s = .next ((List.range 128).foldl
       (fun s' c =>
         let a := tileToArray (s.lpl.map[entryNo n p.slot]) p.arg c
         pixelSample a (pixelRec p c) (if y.getLsbD c then storeParity a s' else s')) s)) ∧
   (∀ (s : State) (a : Nat) (r : PixelRec), r.state = 3 →
     (storeGet (pixelSample a r s).pxh.store a).unmeas = min 255 ((storeGet s.pxh.store a).unmeas + 1)) ∧
   ∀ (s : State) (n : Fin 24) (b : List Byte) (y : BitVec 128) (p : UpPkt), receives n s = true →
     parsePkt b true = some p → p.kind = 8 → p.sub = 1 →
     (p.slot ≥ 4 ∨ p.arg > 95 ∨ (s.lpl.map[entryNo n p.slot]).present = false ∨
       slotIncluded (entryNo n p.slot).val s = false) →
     exec (.telPixelReceived n b true y) s = .next s) ∧
  ((∀ (s : State) (n : Fin 24) (a lo hi chk : Byte), chk ≠ a ^^^ lo ^^^ hi →
     exec (.teSequenceReceived n a lo hi chk) s = .next s) ∧
   (∀ (s : State) (n : Fin 24) (a lo hi : Byte), receives n s = true → field a 0 3 < 4 →
     bitOf a 3 = false →
     Answers (exec (.teSequenceReceived n a lo hi (a ^^^ lo ^^^ hi)) s) fun t =>
       ((s.lpl.map[entryNo n (field a 0 3)]).teIn = false →
         s.lpl.teWait[entryNo n (field a 0 3)] = some (hi ++ lo) →
         t.lpl.teWait[entryNo n (field a 0 3)] = none) ∧
       (s.lpl.lastTo[entryNo n (field a 0 3)] = some (hi ++ lo) →
         t.lpl.staleRun[entryNo n (field a 0 3)] = 0))) ∧
  ∀ (s : State) (n : Fin 24) (w : BitVec 2) (p q : ScanPos) (f : Frame), lanesSend s = true →
    s.lpl.scanning = true → (s.link.lane[n]).state = .ready → s.lpl.pos[n] = some p →
    s.lpl.buf[s.lpl.scan] = some f → nextPix (fun k => s.lpl.served[entryNo n k]) p = some q →
    s.tst.job = none →
    Answers (exec (.pixSend n w) s) fun t =>
      t.lpl.pos[n] = some ⟨q.j, q.s + 1⟩ ∧ (∀ m : Fin 24, m ≠ n → t.lpl.pos[m] = s.lpl.pos[m]) ∧
      (∃ vals, Sent [.lane (Fin.castSucc n)
        (.pix q.s (4 * q.j + q.s) f.seq (2 * q.j) (s.link.lane[n]).mode vals 0)
        (s.link.lane[n]).tx.start] s t ∧
        (s.grn.marks = [] → vals = (pixPixels (s.lpl.map[entryNo n q.s]) (2 * q.j)).map fun a =>
          Pipe.code f a / 2 ^ (16 - modeBits (s.link.lane[n]).mode))) ∧
      (w ≠ 0 → t.lpl.withheld[entryNo n q.s] = true)

/-- R14, R51, R104, R189, R216, R253, R285, R309, R341, R362, R379, R406, R429, R477, R510 and R544, while the host is
connected: a 1 written to a bit of a counter-clear register clears the counts it names and leaves every other part of
the state alone. A count that is a whole register, or a whole array of registers, reads 0 afterwards. LATE clears the
late counts of the layers, PARITY their parity counts, SUBST the substitution flags of the tiles, SAFE the requests,
the failed pulses and the failed disconnect tests and neither a run of failed pulses nor a cause, TE the missed
echoes, LATE of the Lamplighter the late launches, REPEATS the repeats, FLAGS the flags of new serials, and CHECK the
compared frames. -/
def Obligations.CounterClears : Prop :=
  ∀ s : State, hostUp s = true →
  (∀ c base stride count z,
    (c, base, stride, count, z) ∈
      [(Instr.hifCntClearDrop, 0x000044, 0, 1, Zone.hif), (.hifCntClearDenied, 0x000040, 0, 1, .hif),
       (.dmaCntClearStarve, 0x021008, 0, 1, .dma), (.hdgCntClearCount, 0x07003C, 0, 1, .hdg),
       (.lplCntClearSync, 0x080040, 0, 1, .lpl), (.pxhCntClearEvents, 0x0B0028, 0, 1, .pxh),
       (.pwrCntClearCount, 0x0D001C, 0, 1, .pwr), (.thmCntClearCount, 0x0E001C, 0, 1, .thm),
       (.yokCntClearCount, 0x10000C, 0, 1, .yok), (.belCntClearCount, 0x110054, 0, 1, .bel),
       (.tstCntClearCount, 0x150004, 0, 1, .tst), (.geoCntClearOverstep, 0x050008, 0x40, 8, .cmp),
       (.xlpCntClearEvents, 0x090008, 0x20, 24, .link), (.xlpCntClearErr, 0x090004, 0x20, 24, .link),
       (.xlkCntClearCtl, 0x0A000C, 0x20, 24, .link), (.xlkCntClearLat, 0x0A0008, 0x20, 24, .link),
       (.xlkCntClearCnt, 0x0A0004, 0x20, 24, .link), (.railCntClearFaults, 0x0C0024, 0x40, 8, .rail),
       (.ethCntClearPtp, 0x120030, 0x100, 2, .eth), (.ethCntClearTx, 0x12002C, 0x100, 2, .eth),
       (.ethCntClearRx, 0x120028, 0x100, 2, .eth)] →
    Answers (exec c s) fun t =>
      (∀ k, k < count → regRead (base + stride * k) t = some 0) ∧ Keeps [z] s t) ∧
  (Answers (exec .cmpCntClearLate s) fun t =>
    (∀ n : Fin 9, t.cmp.layer[n] = { s.cmp.layer[n] with lateCount := 0 }) ∧ Keeps [.cmp] s t) ∧
  (Answers (exec .geoCntClearParity s) fun t =>
    (∀ n : Fin 9, t.cmp.layer[n] = { s.cmp.layer[n] with parity := 0 }) ∧ Keeps [.cmp] s t) ∧
  (Answers (exec .phoCntClearSubst s) fun t =>
    (∀ n : Fin 96, t.pho.subst[n] = false) ∧ Keeps [.pho] s t) ∧
  (Answers (exec .hdgCntClearSafe s) fun t =>
    t.hdg.requests = 0 ∧ t.hdg.chA.failCount = 0 ∧ t.hdg.chB.failCount = 0 ∧ t.hdg.discFails = 0 ∧
    t.hdg.chA.fails = s.hdg.chA.fails ∧ t.hdg.cause = s.hdg.cause ∧ Keeps [.hdg] s t) ∧
  (∀ c l, (c, l) ∈ [(Instr.lplCntClearTe, { s.lpl with teMisses := 0 }),
      (.lplCntClearLate, { s.lpl with lateLaunches := 0 }),
      (.lplCntClearRepeats, { s.lpl with repeats := 0 })] →
    exec c s = .next { s with lpl := l }) ∧
  (Answers (exec .pxhCntClearFlags s) fun t =>
    (∀ n : Fin 96, t.pxh.tile[n] = { s.pxh.tile[n] with newSerial := false }) ∧ Keeps [.pxh] s t) ∧
  exec .yokCntClearCheck s = .next { s with yok.frames := 0 }

/-- R13 and R14 of spec/00_scope.md, with R45, R48 and R510, while the host is connected. An access to an offset with no register
raises a NOTE of group 34 that names it; one of a wrong width raises another; a read of either kind answers zeros,
and nothing else changes. A read of the low word of a 64-bit register answers it and holds the high word, which a
read of the high word answers; of a register of the capture rule that read answers the high word as it stands. A
write of the low word is held, and every other held word stays. The write of the high word of a disabled submission
ring's BASE, while RING_LOCK is 0, stores both words with the 6 low bits 0, and leaves every other ring alone. -/
def Obligations.RegisterAccess : Prop :=
  (∀ (s : State) (off : BitVec 22), hostUp s = true → regRead off.toNat s = none →
    regRead64 off.toNat s = none → regRead64 (off.toNat - 4) s = none →
    (Answers (exec (.bar0UnmappedAccess true off) s) fun t =>
      Raised 34 .note (off.toNat + 2 * 2 ^ 28) s t ∧ Keeps [.rve] s t) ∧
    Answers (exec (.bar0UnmappedAccess false off) s) fun t =>
      Raised 34 .note (off.toNat + 2 ^ 28) s t ∧ Sent [.answer [0, 0, 0, 0] false] s t ∧
      Keeps [.out, .rve] s t) ∧
  (∀ (s : State) (off : BitVec 22) (n : BitVec 13), hostUp s = true →
    (Answers (exec (.bar0BadWidthAccess true off n) s) fun t =>
      Raised 34 .note (off.toNat + 4 * 2 ^ 28) s t ∧ Keeps [.rve] s t) ∧
    Answers (exec (.bar0BadWidthAccess false off n) s) fun t =>
      Raised 34 .note (off.toNat + 3 * 2 ^ 28) s t ∧
      Sent [.answer (List.replicate n.toNat 0) false] s t ∧ Keeps [.out, .rve] s t) ∧
  (∀ (s : State) (off : BitVec 22) (v : Nat), hostUp s = true → regRead64 off.toNat s = some v →
    Answers (exec (.reg64LowRead off) s) fun t =>
      Sent [.answer (leBytes 4 v) false] s t ∧
      holding t.hif.rdHold off.toNat = BitVec.ofNat 32 (v / 2 ^ 32) ∧ Keeps [.out, .hif] s t) ∧
  (∀ (s : State) (off : BitVec 22) (v : Nat), hostUp s = true → 4 ≤ off.toNat →
    regRead64 (off.toNat - 4) s = some v →
    Answers (exec (.reg64HighRead off) s) fun t =>
      Sent [.answer (leBytes 4 (if captured64 (off.toNat - 4) then v / 2 ^ 32
        else (holding s.hif.rdHold (off.toNat - 4)).toNat)) false] s t ∧ Keeps [.out] s t) ∧
  (∀ (s : State) (off : BitVec 22) (w : Word), hostUp s = true → (regRead64 off.toNat s).isSome = true →
    Answers (exec (.reg64LowWrite off w) s) fun t =>
      holding t.hif.wrHold off.toNat = w ∧
      (∀ o, o ≠ off.toNat → holding t.hif.wrHold o = holding s.hif.wrHold o) ∧ Keeps [.hif] s t) ∧
  ∀ (s : State) (n : Fin 16) (w : Word), hostUp s = true → s.hif.ringLock = false →
    (s.hif.sq[n]).enable = false →
    Answers (exec (.reg64HighWrite (BitVec.ofNat 22 (0x010004 + 0x20 * n.val)) w) s) fun t =>
      (t.hif.sq[n]).base = (w ++ holding s.hif.wrHold (0x010000 + 0x20 * n.val)) &&&
        0xFFFFFFFFFFFFFFC0#64 ∧
      (t.hif.sq[n]).enable = false ∧ t.hif.cq = s.hif.cq ∧
      ∀ m : Fin 16, m ≠ n → t.hif.sq[m] = s.hif.sq[m]

/-- Of R15, R72, R76, R120, R243, R288, R492, R542, R543, R549, R552, R553, R561 and R572. POR leaves the parts of the
state as at reset but for the sampled straps, the fuses, pin levels, free values and what has been sent; lanes 12 to
23 of a GLN-9612 are DOWN, every other lane OFF; the start sequence begins with the core in reset. Where the core
domain is supplied, SYS_RST_N, TESTEN, a boundary-scan instruction loaded while COMMISSION_N counts as low, and a
loss of VDD_CORE reset every domain but the always-on one, the Bellhouse and the Granary's bytes: no command runs,
the rings, the composition, photometry and the tests are as at reset, the Hedge has no active block and keeps its
record, valid network time stays, every rail is OFF with EN 0, the tile map and the authority masks stay, and the
start sequence begins with the core in reset. Once SYS_RST_N returns high, no other hold is there and VDD_CORE is good,
the core is out of reset in RUN, and the Hedge with it where the regulator of VDD_CORE is enabled, and with VDD_SRAM good the boot ROM reads both headers. TESTEN going
low while SYS_RST_N is low releases nothing. Another JTAG instruction is loaded and does nothing else where no
boundary-scan instruction is in effect; a boundary-scan instruction while COMMISSION_N counts as high loads BYPASS. A
loss of VDD_SRAM in SLEEP under retention loses the Granary and its repairs. -/
def Obligations.Resets : Prop :=
  (∀ (s : State) (pri : Bool) (a : BitVec 3),
    Answers (exec (.por pri a) s) fun t =>
      Keeps [.pending, .now, .free, .out, .part, .pwr, .yok, .gpio, .thm, .link] State.reset t ∧
      t.part.addr = a ∧ t.part.rollback = s.part.rollback ∧ t.yok.pri = pri ∧
      t.yok.state = State.reset.yok.state ∧ t.gpio.out = 0 ∧ t.pwr.start.isSome = true ∧
      t.pwr.core = false ∧
      ∀ n : Fin 24, (t.link.lane[n]).state = if s.part.small = true ∧ 12 ≤ n.val then .down else .off) ∧
  (∀ (s : State) (c : Instr), supplied s = true →
    (c = .sysReset ∨ c = .testenChange true ∨
      (∃ i, c = .jtagInstructionUpdate i ∧ (i = .extest ∨ i = .clamp ∨ i = .highz) ∧
        s.hdg.commissionLow = true) ∨
      (c = .pgCoreLoss ∧ s.pwr.core = true)) →
    Answers (exec c s) fun t =>
      Keeps [.out, .hif, .dma, .grn, .cmp, .pho, .hdg, .lpl, .link, .pxh, .rail, .pwr, .thm, .rve, .yok, .bel,
        .eth, .mgt, .boot, .aux, .crcu, .gpio, .tst, .running, .nextSer, .maskQ, .jobs, .kernels, .marchCmd,
        .saved] s t ∧
      t.cmp = Compose.reset ∧ t.pho = Photo.reset ∧ t.tst = Test.reset ∧ t.running = [] ∧ t.jobs = [] ∧
      t.hif.sq = Hif.reset.sq ∧ t.hif.cq = Hif.reset.cq ∧ t.lpl.map = s.lpl.map ∧
      t.hdg.active = none ∧ t.hdg.selfRec = s.hdg.selfRec ∧ t.hdg.activeCrc = s.hdg.activeCrc ∧
      (s.bel.valid = true → t.bel = s.bel) ∧ t.pwr.start.isSome = true ∧ t.pwr.core = false ∧
      ∀ r : Fin 8, (t.rail.rail[r]).en = false ∧ (t.rail.rail[r]).state = .off) ∧
  (∀ (s : State) (st : Start), s.pwr.start = some st → st.kind = .sys → st.pgCore = true →
    st.waiting = false → s.pwr.testen = false → scanHolds s = false →
    Answers (exec .sysRstNRelease s) fun t =>
      t.pwr.rstLow = false ∧ t.pwr.core = true ∧ t.pwr.hedge = s.pwr.regEnCore ∧ t.pwr.state = .run ∧
      (s.pwr.core = false → st.pgSram = true →
        Sent [.flashRead 0 256, .flashRead 0x400000 256] s t)) ∧
  (∀ (s : State), s.pwr.rstLow = true →
    Answers (exec (.testenChange false) s) fun t =>
      t.pwr.testen = false ∧ t.pwr.core = s.pwr.core ∧ Keeps [.pwr] s t) ∧
  (∀ (s : State) (i : JtagInstr), (i = .bypass ∨ i = .idcode ∨ i = .samplePreload) → scanHolds s = false →
    exec (.jtagInstructionUpdate i) s = .next { s with pwr.tap := i }) ∧
  (∀ (s : State) (i : JtagInstr), (i = .extest ∨ i = .clamp ∨ i = .highz) → s.hdg.commissionLow = false →
    exec (.jtagInstructionUpdate i) s = .next { s with pwr.tap := .bypass }) ∧
  ∀ s : State, s.pwr.state = .sleep → s.grn.retention = true →
    exec .pgSramLossInSleep s = .next { s with grn.lost := true, grn.repaired := [] }

/-- Of R35, R37, R38, R39, R40, R187, R432 and R520. In RUN or DIM with the cores up and no low-power entry past its
commit point, a reset of the control cores, a lockstep mismatch and a watchdog expiry enter LIGHT_HOLD, the last two
with a MAJOR of group 3. Where no command runs, nothing waits to be sent and no entry or start is under way, the
return of the firmware ends it in the state it was entered from, with no write, mask update or coefficient load left
that no commit has covered, no job but channels that still end a descriptor, and the launches kept; an activation under
way makes the staged slot the one in use and raises a NOTE of group 3. A restart that fails is counted; the second
failure of an activation goes back to the previous slot and is recorded; the third failure holds the cores with a
CRITICAL of group 3. -/
def Obligations.LightHold : Prop :=
  (∀ (s : State) (c : Instr) (k : Nat), mayHold s = true →
    ((c = .coreReset ∧ k = 0) ∨ (c = .lockstepMismatch ∧ k = 1) ∨ (c = .watchdogExpiry ∧ k = 2)) →
    Answers (exec c s) fun t =>
      t.pwr.state = .lightHold ∧ t.pwr.lastState = s.pwr.state ∧ t.pwr.cores.up = false ∧
      t.pwr.cores.holdFrom = some s.pwr.state ∧ t.pwr.cores.attempts = 0 ∧
      (1 ≤ k → ⟨3, .major, BitVec.ofNat 32 (k + s.lpl.composing.toNat * 65536), false, s.now⟩ ∈
        t.rve.inbox)) ∧
  (∀ s : State, s.pwr.core = true → s.pwr.state = .lightHold → s.pwr.cores.up = false →
    s.pwr.cores.stuck = false → s.running = [] → s.mgt.late = none → s.eth.syncLate = false →
    (s.eth.port[0]).queue = [] → (s.eth.port[1]).queue = [] → s.pwr.start = none → s.pwr.entry = none →
    Answers (exec .firmwareReturnToService s) fun t =>
      t.pwr.state = s.pwr.cores.holdFrom.getD .run ∧ t.pwr.cores.up = true ∧ t.pwr.cores.attempts = 0 ∧
      t.lpl.shadow = [] ∧ t.maskQ = [] ∧ t.kernels = [] ∧ (∀ j ∈ t.jobs, j.dead = true) ∧
      t.lpl.launches = s.lpl.launches ∧
      (s.pwr.cores.activating = none → t.boot.slot = s.boot.slot) ∧
      (∀ burn, s.pwr.cores.activating = some burn → t.boot.slot = !s.boot.slot ∧
        ⟨3, .note, BitVec.ofNat 32 (3 + s.lpl.composing.toNat * 65536), false, s.now⟩ ∈ t.rve.inbox)) ∧
  ∀ s : State, s.pwr.core = true → s.pwr.state = .lightHold → s.pwr.cores.up = false →
    s.pwr.cores.stuck = false →
    Answers (exec .firmwareRestartTimeout s) fun t =>
      t.pwr.cores.attempts = s.pwr.cores.attempts + 1 ∧
      (s.pwr.cores.attempts = 0 → t.pwr.cores.stuck = false ∧ Keeps [.pwr] s t) ∧
      (s.pwr.cores.attempts = 1 → ∀ b, s.pwr.cores.activating = some b →
        t.pwr.cores.activating = none ∧ t.boot.actFail = true ∧ t.boot.slot = s.boot.slot) ∧
      (s.pwr.cores.attempts = 2 → t.pwr.cores.stuck = true ∧
        Raised 3 .critical (4 + s.lpl.composing.toNat * 65536) s t)

/-- Of R71, R147, R149, R150, R156, R157, R161, R162, R163 and R164, of a command that starts and passes the checks before its own
(R61). NOP does nothing. A LAYER_SET that passes its checks without a copy adds its settings to the shadow, and with
one marks the slot as busy and has its transfer among the jobs. MASK_UPDATE with no more than four boxes, all in
range, joins the mask shadow with its boxes and CLEAR_ALL. SYMBOL_LOAD with INVALIDATE of a symbol that nothing uses
empties that symbol and no other, and a load of one, in range, into memory that no used symbol has, marks that symbol
LOADING and no other and has its transfer among the jobs. -/
def Obligations.SceneCommands : Prop :=
  (∀ (s : State) (src : Src) (d : Desc), Accepted 0x00 src d s →
    Ends 0x00 src d s [] stSuccess 0 (fun _ => True) (exec (.nop src d) s)) ∧
  (∀ (s : State) (src : Src) (d : Desc), Accepted 0x10 src d s →
    lsCheck (cmdOf 0x10 src d s) s = none → lsCopy (cmdOf 0x10 src d s) = false →
    Ends 0x10 src d s [.lpl, .cmp] stSuccess 0
      (fun u => u.lpl.shadow = s.lpl.shadow ++ lsWrites (cmdOf 0x10 src d s) ∧
        u.lpl.seen = s.lpl.seen ∧ (fromStartup (cmdOf 0x10 src d s) = false → u.cmp = s.cmp))
      (exec (.layerSet src d) s)) ∧
  (∀ (s : State) (src : Src) (d : Desc), Accepted 0x10 src d s →
    lsCheck (cmdOf 0x10 src d s) s = none → lsCopy (cmdOf 0x10 src d s) = true →
    Begins 0x10 src d s [.free, .dma, .cmp, .jobs]
      (fun t => t.cmp = (setSlotBusy ((cmdOf 0x10 src d s).f 20 0 8) true s).cmp ∧
        t.jobs.any (fun j => j.cmd == cmdOf 0x10 src d s) = true)
      (exec (.layerSet src d) s)) ∧
  (∀ (s : State) (src : Src) (d : Desc), Accepted 0x12 src d s →
    (cmdOf 0x12 src d s).f 8 0 3 ≤ 4 → (∀ b ∈ boxRecs (cmdOf 0x12 src d s), boxBad b.2 = false) →
    Begins 0x12 src d s [.lpl, .maskQ]
      (fun t => t.maskQ = s.maskQ ++
          [⟨cmdOf 0x12 src d s, (cmdOf 0x12 src d s).b 8 3, boxRecs (cmdOf 0x12 src d s)⟩] ∧
        ((cmdOf 0x12 src d s).commit = false → t.lpl = s.lpl))
      (exec (.maskUpdate src d) s)) ∧
  (∀ (s : State) (src : Src) (d : Desc), Accepted 0x13 src d s → (cmdOf 0x13 src d s).b 9 0 = true →
    symbolInUse (symId (cmdOf 0x13 src d s)) none s = false →
    Ends 0x13 src d s [.cmp] stSuccess 0
      (fun u => u.cmp.sym[symId (cmdOf 0x13 src d s)] = Symbol.reset ∧
        ∀ k : Fin 256, k ≠ symId (cmdOf 0x13 src d s) → u.cmp.sym[k] = s.cmp.sym[k])
      (exec (.symbolLoad src d) s)) ∧
  ∀ (s : State) (src : Src) (d : Desc), Accepted 0x13 src d s → (cmdOf 0x13 src d s).b 9 0 = false →
    symBad (cmdOf 0x13 src d s) s = false →
    symbolInUse (symId (cmdOf 0x13 src d s))
      (some ((cmdOf 0x13 src d s).f 12 0 32, (cmdOf 0x13 src d s).f 16 0 32)) s = false →
    Begins 0x13 src d s [.free, .out, .dma, .cmp, .jobs]
      (fun t => (t.cmp.sym[symId (cmdOf 0x13 src d s)]).state = .loading ∧
        (∀ k : Fin 256, k ≠ symId (cmdOf 0x13 src d s) → t.cmp.sym[k] = s.cmp.sym[k]) ∧
        t.jobs.any (fun j => j.cmd == cmdOf 0x13 src d s) = true)
      (exec (.symbolLoad src d) s)

/-- Of R158 to R160, R182, R185 to R188, R279, R282 and R284, of a command that starts and passes the checks before its
own (R61). LAYER_PRESENT without AT_TIME that passes its checks, TIMING_SET outside DIM in range and within the lane budget,
TILE_MAP_SET that passes its checks, and the warp form of COEF_LOAD that passes its checks add their writes to the
shadow and complete with SUCCESS, the last with its OVERSTEP_POINTS. LAYER_PRESENT with AT_TIME takes the shadow with
its writes into an armed launch. The table form of COEF_LOAD makes its bank LOADING and joins the loads under way,
which, while the cores are up, all end in idle time (the model's choice, log entry 99); a load whose words are read
and whose table passes its checks leaves the bank READY with the table and its CRC, one whose table does not leaves
the bank INVALID, and no other layer's banks change. -/
def Obligations.FrameCommands : Prop :=
  (∀ (s : State) (src : Src) (d : Desc), Accepted 0x11 src d s →
    presentBody.check (cmdOf 0x11 src d s) (begun 0x11 src d s) = none →
    (cmdOf 0x11 src d s).b 9 1 = false →
    Ends 0x11 src d s [.lpl] stSuccess 0
      (fun u => u.lpl = { s.lpl with shadow := s.lpl.shadow ++ lpWrites (cmdOf 0x11 src d s) })
      (exec (.layerPresent src d) s)) ∧
  (∀ (s : State) (src : Src) (d : Desc), Accepted 0x11 src d s →
    presentBody.check (cmdOf 0x11 src d s) (begun 0x11 src d s) = none →
    (cmdOf 0x11 src d s).b 9 1 = true →
    Begins 0x11 src d s [.lpl]
      (fun t => t.lpl.shadow = [] ∧ ∃ l, t.lpl.launches = s.lpl.launches ++ [l] ∧
        l.s = (cmdOf 0x11 src d s).f 16 0 48 ∧ l.ns = (cmdOf 0x11 src d s).f 24 0 32 ∧
        l.writes = s.lpl.shadow ++ lpWrites (cmdOf 0x11 src d s) ∧ l.cmd = cmdOf 0x11 src d s)
      (exec (.layerPresent src d) s)) ∧
  (∀ (s : State) (src : Src) (d : Desc), Accepted 0x18 src d s → s.pwr.state ≠ .dim →
    (cmdOf 0x18 src d s).f 8 0 2 ≠ 3 → timingBad (tsTiming (cmdOf 0x18 src d s)) = false →
    budgetFault (fun n => budgetRate (s.link.lane[n])) (tsTiming (cmdOf 0x18 src d s)).active
      (shadowMap s) s = none →
    Ends 0x18 src d s [.lpl] stSuccess 0
      (fun u => u.lpl = { s.lpl with
        shadow := s.lpl.shadow ++ [.timing (tsTiming (cmdOf 0x18 src d s))] })
      (exec (.timingSet src d) s)) ∧
  (∀ (s : State) (src : Src) (d : Desc), Accepted 0x19 src d s →
    tileMapBody.check (cmdOf 0x19 src d s) (begun 0x19 src d s) = none →
    Ends 0x19 src d s [.lpl] stSuccess 0
      (fun u => u.lpl = { s.lpl with
        shadow := s.lpl.shadow ++ (tmEntries (cmdOf 0x19 src d s)).map fun e => .map e.1 e.2 })
      (exec (.tileMapSet src d) s)) ∧
  (∀ (s : State) (src : Src) (d : Desc) (n : Fin 9), Accepted 0x14 src d s →
    coefBody.check (cmdOf 0x14 src d s) (begun 0x14 src d s) = none →
    layerOf (cmdOf 0x14 src d s) = some n → (cmdOf 0x14 src d s).f 8 4 2 = 0 →
    Ends 0x14 src d s [.lpl] stSuccess
      (resAt 16 (Geo.overPoints (clWarp (cmdOf 0x14 src d s)) (overSize n s)))
      (fun u => u.lpl = { s.lpl with shadow := s.lpl.shadow ++ [.warp n (clWarp (cmdOf 0x14 src d s))] })
      (exec (.coefLoad src d) s)) ∧
  (∀ (s : State) (src : Src) (d : Desc) (n : Fin 9), Accepted 0x14 src d s →
    coefBody.check (cmdOf 0x14 src d s) (begun 0x14 src d s) = none →
    layerOf (cmdOf 0x14 src d s) = some n → (cmdOf 0x14 src d s).f 8 4 2 ≠ 0 →
    Begins 0x14 src d s [.cmp, .kernels]
      (fun t => (t.cmp.bank[n][clBank (cmdOf 0x14 src d s)]).state = .loading ∧
        (t.cmp.bank[n][clBank (cmdOf 0x14 src d s)]).kind = clKind (cmdOf 0x14 src d s) ∧
        t.kernels = s.kernels ++ [cmdOf 0x14 src d s] ∧
        ∀ m : Fin 9, m ≠ n → t.cmp.bank[m] = s.cmp.bank[m])
      (exec (.coefLoad src d) s)) ∧
  (∀ s : State, s.pending = [] → coresUp s = true → Answers (step s) fun t => t.kernels = []) ∧
  (∀ (s s' : State) (n : Fin 9) (c : Cmd) (bytes : List Byte) (tab : List Int),
    coreRead (c.f 16 0 32) (tableBytes (c.b 9 2)) s = (some bytes, s') →
    Geo.checkTable (c.b 9 2) bytes = .ok tab →
    (kernelRun n c s).cmp.bank[n][clBank c] =
      { kind := clKind c, state := .ready, coeffs := tab, crc := Env.crc32c bytes } ∧
    ∀ m : Fin 9, m ≠ n → (kernelRun n c s).cmp.bank[m] = s.cmp.bank[m]) ∧
  ∀ (s s' : State) (n : Fin 9) (c : Cmd) (bytes : List Byte) (e : Geo.CoefFault),
    coreRead (c.f 16 0 32) (tableBytes (c.b 9 2)) s = (some bytes, s') →
    Geo.checkTable (c.b 9 2) bytes = .error e →
    ((kernelRun n c s).cmp.bank[n][clBank c]).state = .invalid

/-- Of R198, R200, R209 to R215 and R524 to R526, of a command that starts and passes the checks before its own (R61). FADE_SET and
FLUX_BUDGET_SET in range, the bin and the default record of CAL_LOAD, the bin in range, and AUX_WRITE in range add
their fields to the shadow and complete with SUCCESS. A plane switch to a possible plane while none is pending is
staged, and its write joins the shadow, or with COMMIT the commit that takes the shadow. A load of records in range
into a plane that is not busy has its transfer, 8 bytes a record into its plane, among the jobs. -/
def Obligations.LightCommands : Prop :=
  (∀ (s : State) (src : Src) (d : Desc) (c : Cmd), c = cmdOf 0x21 src d s → Accepted 0x21 src d s →
    c.f 8 0 16 ≤ 0x8000 → c.f 12 0 32 ≤ 60000000 →
    Ends 0x21 src d s [.lpl] stSuccess 0
      (fun u => u.lpl = { s.lpl with
        shadow := s.lpl.shadow ++ [.fade (c.f 8 0 16) (c.b 10 0) (c.f 12 0 32)] })
      (exec (.fadeSet src d) s)) ∧
  (∀ (s : State) (src : Src) (d : Desc) (c : Cmd), c = cmdOf 0x22 src d s → Accepted 0x22 src d s →
    1 ≤ c.f 12 0 16 → c.f 12 0 16 ≤ 0x8000 →
    Ends 0x22 src d s [.lpl] stSuccess 0
      (fun u => u.lpl = { s.lpl with shadow := s.lpl.shadow ++ [.budget (c.f 8 0 32) (c.f 12 0 16)] })
      (exec (.fluxBudgetSet src d) s)) ∧
  (∀ (s : State) (src : Src) (d : Desc) (c : Cmd), c = cmdOf 0x20 src d s → Accepted 0x20 src d s →
    c.f 8 0 2 = 1 → c.f 22 0 16 ≤ 0x8000 →
    Ends 0x20 src d s [.lpl] stSuccess 0
      (fun u => ∃ b : Fin 16, b.val = c.f 12 0 4 ∧ u.lpl = { s.lpl with
        shadow := s.lpl.shadow ++ [.bin b ⟨c.s 16 0 16, c.s 18 0 16, c.f 20 0 16, c.f 22 0 16⟩] })
      (exec (.calLoad src d) s)) ∧
  (∀ (s : State) (src : Src) (d : Desc) (c : Cmd), c = cmdOf 0x20 src d s → Accepted 0x20 src d s →
    c.f 8 0 2 = 3 →
    Ends 0x20 src d s [.lpl] stSuccess 0
      (fun u => u.lpl = { s.lpl with
        shadow := s.lpl.shadow ++ [.defaultRec (BitVec.ofNat 64 (c.f 24 0 64))] })
      (exec (.calLoad src d) s)) ∧
  (∀ (s : State) (src : Src) (d : Desc) (c : Cmd), c = cmdOf 0x20 src d s → Accepted 0x20 src d s →
    c.f 8 0 2 = 2 → planeOk (c.f 20 0 32) s = true → s.pho.plane = none →
    Begins 0x20 src d s [.lpl, .pho]
      (fun t => t.pho = { s.pho with plane := some (.staged (c.f 20 0 32)), planeCmd := some c } ∧
        (c.commit = false → t.lpl.shadow = s.lpl.shadow ++ [.plane (c.f 20 0 32)]) ∧
        (c.commit = true → t.lpl.shadow = [] ∧
          t.lpl.seen = s.lpl.seen ++ [s.lpl.shadow ++ [.plane (c.f 20 0 32)]]))
      (exec (.calLoad src d) s)) ∧
  (∀ (s : State) (src : Src) (d : Desc) (c : Cmd), c = cmdOf 0x20 src d s → Accepted 0x20 src d s →
    c.f 8 0 2 = 0 → calBad c s = false → calBusy c s = false →
    Begins 0x20 src d s [.free, .dma, .jobs]
      (fun t => t.jobs.any (fun j => j.cmd == c && j.xfer == recordsXfer c) = true)
      (exec (.calLoad src d) s)) ∧
  ∀ (s : State) (src : Src) (d : Desc) (c : Cmd), c = cmdOf 0x58 src d s → Accepted 0x58 src d s →
    awBad c s = false →
    Ends 0x58 src d s [.lpl] stSuccess 0
      (fun u => u.lpl = { s.lpl with
        shadow := s.lpl.shadow ++ [.aux (awChain c) (c.f 10 0 16) (awWords c) (c.f 14 0 16)] })
      (exec (.auxWrite src d) s)

/-- Of R206, R352, R356 to R361 and R582 of spec/12_pixel_health.md and spec/07_photometry.md; the commands start and
pass the checks before their own (R61). HEALTH_SET in range: its parameters take their fields at once, while the
store and the tiles stay; the references of its rectangle are 0 at once; its states join the sets under way.
TELEMETRY_READ answers the word of a tile position, its unmeasured pixels and its serial while no recount runs, and
the store entry and the record of a pixel that is read; an export in range has its transfer among the jobs. The last
write of a new tile's reset ends it with NEW_SERIAL. A change whose override photometry has taken is written back, and
with no error marked its override leaves the list; one cut off is queued again, and one not taken waits. A recount
ends and leaves the store and the Granary's bytes. -/
def Obligations.HealthCommandsAndUpkeep : Prop :=
  ((∀ (s : State) (src : Src) (d : Desc) (c : Cmd), c = cmdOf 0x29 src d s → Accepted 0x29 src d s →
     hsBad c = false → c.f 8 0 2 = 2 →
     Ends 0x29 src d s [.pxh] stSuccess 0
       (fun u => u.pxh.vfOpen = c.f 12 0 12 ∧ u.pxh.vfShort = c.f 14 0 12 ∧ u.pxh.confirm = c.f 16 0 4 ∧
         u.pxh.clear = c.f 16 4 4 ∧ u.pxh.ageGain = c.f 18 0 16 ∧ u.pxh.deadTileLimit = c.f 24 0 14 ∧
         u.pxh.store = s.pxh.store ∧ u.pxh.tile = s.pxh.tile)
       (exec (.healthSet src d) s)) ∧
   (∀ (s : State) (src : Src) (d : Desc) (c : Cmd), c = cmdOf 0x29 src d s → Accepted 0x29 src d s →
     hsBad c = false → c.f 8 0 2 = 0 →
     Begins 0x29 src d s [.pxh] (fun t => t.pxh = { s.pxh with sets := s.pxh.sets ++ [healthJob c] })
       (exec (.healthSet src d) s)) ∧
   (∀ (s : State) (src : Src) (d : Desc) (c : Cmd), c = cmdOf 0x29 src d s → Accepted 0x29 src d s →
     hsBad c = false → c.f 8 0 2 = 1 →
     Ends 0x29 src d s [.pxh] stSuccess 0
       (fun u => (∀ p e, (p, e) ∈ u.pxh.store → (healthJob c).holds p = true → e.vfRef = 0) ∧
         u.pxh.tile = s.pxh.tile ∧ u.pxh.sets = s.pxh.sets)
       (exec (.healthSet src d) s)) ∧
   (∀ (s : State) (src : Src) (d : Desc) (c : Cmd), c = cmdOf 0x28 src d s → Accepted 0x28 src d s →
     c.f 8 0 3 = 4 → c.f 12 0 21 ≤ 95 → s.pxh.recount = false →
     Ends 0x28 src d s [] stSuccess
       (resAt 16 (tileWord (c.f 12 0 21) s).1 ||| resAt 20 (tileUnmeas (c.f 12 0 21) s) |||
         resAt 24 (s.pxh.tile.at' (c.f 12 0 21) TileHealth.reset).serial.toNat)
       (fun _ => True) (exec (.telemetryRead src d) s)) ∧
   (∀ (s s' : State) (src : Src) (d : Desc) (c : Cmd) (b : List Byte), c = cmdOf 0x28 src d s →
     Accepted 0x28 src d s → c.f 8 0 3 = 3 → c.f 12 0 21 < Pipe.pixels →
     coreRead (s.pho.planeBase + 8 * c.f 12 0 21) 8 (foldDigest c (begun 0x28 src d s)) = (some b, s') →
     exec (.telemetryRead src d) s = .next (finish c stSuccess
       (resAt 16 (storeGet s.pxh.store (c.f 12 0 21)).word ||| resAt 24 (leNat b)) s')) ∧
   ∀ (s : State) (src : Src) (d : Desc) (c : Cmd), c = cmdOf 0x28 src d s → Accepted 0x28 src d s →
     trBad c s = false → c.f 8 0 3 ≤ 2 →
     Begins 0x28 src d s [.free, .dma, .jobs]
       (fun t => t.jobs.any (fun j => j.cmd == c && j.xfer.srcHost == false) = true)
       (exec (.telemetryRead src d) s)) ∧
  ((∀ (s : State) (k : Fin 96), s.pwr.core = true → (s.pxh.tile[k]).resetting = true →
     Answers (exec (.tileSerialResetDone k) s) fun t =>
       (t.pxh.tile[k]).resetting = false ∧ (t.pxh.tile[k]).newSerial = true) ∧
   (∀ (s : State) (w : WriteBack), s.pwr.core = true → grnReady s = true → s.pxh.writes = [w] →
     writeReady s w = true →
     exec (.healthWriteback false) s = .next (landWrite w { s with pxh.writes := [] }) ∧
     exec (.healthWriteback true) s = .next { s with pxh.writes := [w] }) ∧
   (∀ (s : State) (w : WriteBack) (o : Override) (h : Nat), s.pwr.core = true → grnReady s = true →
     s.pxh.writes = [w] → s.pho.overrides = [o] → w.health = some h → w.ageing = none → o.pixel = w.pixel →
     o.state = h → o.taken = true → s.grn.marks = [] → s.pxh.heldChanges = [] →
     Answers (exec (.healthWriteback false) s) fun t => t.pho.overrides = [] ∧ t.pho.ovrFull = false) ∧
   (∀ (s : State) (w : WriteBack), s.pxh.writes = [w] → writeReady s w = false → ∀ b,
     exec (.healthWriteback b) s = .next s) ∧
   ∀ s : State, s.pwr.core = true → s.pxh.recount = true → grnReady s = true →
     Answers (exec .healthRecountDone s) fun t =>
       t.pxh.recount = false ∧ t.pxh.store = s.pxh.store ∧ t.grn.mem = s.grn.mem)

/-- Of R377, R378, R387, R390, R404, R412, R427 and R428; the commands start and pass the checks before their own (R61). RAIL_SET in
range: while no other runs SET writes V_SET, I_LIM and SLEW of the rails that its mask names and leaves the others,
ENABLE sets their EN and DISABLE clears it. POWER_REQUEST in range: DIM from another state and within the lane budget
keeps what it asks for and has its timing committed; a low-power state begins its entry with the wake sources it
names, abandons a calibration run, and leaves the link and the rails to the entry's steps; where WAKE is high and may
wake, the entry is abandoned at once and counted. THERMAL_SET in range: LIMITS under the image's thresholds
writes the limits of its class and leaves the other class and the states of the sensors, STEP writes the step time and
the highest level of its class, CAL the two parameters of calibration. CAL_RUN with an item, while no run is under way,
starts a run of its items. -/
def Obligations.PlantCommands : Prop :=
  (∀ (s : State) (src : Src) (d : Desc) (c : Cmd), c = cmdOf 0x30 src d s → Accepted 0x30 src d s →
    railBad c s = false → c.f 9 0 2 = 0 → s.rail.jobs = [] →
    Answers (exec (.railSet src d) s) fun t => ∀ r : Fin 8,
      ((c.f 8 0 8).testBit r.val = true → (t.rail.rail[r]).vSet = c.f 12 0 16 ∧
        (t.rail.rail[r]).iLim = c.f 14 0 16 ∧ (t.rail.rail[r]).slew = c.f 16 0 8) ∧
      ((c.f 8 0 8).testBit r.val = false → t.rail.rail[r] = s.rail.rail[r])) ∧
  (∀ (s : State) (src : Src) (d : Desc) (c : Cmd) (on : Bool), c = cmdOf 0x30 src d s →
    Accepted 0x30 src d s → railBad c s = false → c.f 9 0 2 = (if on then 1 else 2) →
    Answers (exec (.railSet src d) s) fun t => ∀ r : Fin 8,
      (c.f 8 0 8).testBit r.val = true → (t.rail.rail[r]).en = on) ∧
  (∀ (s : State) (src : Src) (d : Desc) (c : Cmd), c = cmdOf 0x38 src d s → Accepted 0x38 src d s →
    prBad c = false → prState c s = false → prBudget c s = none → c.f 8 0 3 = 1 →
    Begins 0x38 src d s [.pwr, .lpl]
      (fun t => t.pwr = { s.pwr with dimReq := some (dimAsked c s) } ∧ t.lpl.shadow = [] ∧
        ∃ w, t.lpl.waits = s.lpl.waits ++ [w] ∧ w.cmd = c)
      (exec (.powerRequest src d) s)) ∧
  (∀ (s : State) (src : Src) (d : Desc) (c : Cmd), c = cmdOf 0x38 src d s → Accepted 0x38 src d s →
    prBad c = false → 2 ≤ c.f 8 0 3 → s.pwr.wakeHigh = false →
    Answers (exec (.powerRequest src d) s) fun t =>
      (∃ e, t.pwr.entry = some e ∧ e.target = prTarget c ∧ e.step = .latch ∧ e.committed = false ∧ e.cmd = c) ∧
      t.pwr.wakeEn = BitVec.ofNat 6 (c.f 9 0 6) ∧ t.hif.linkUp = s.hif.linkUp ∧ t.rail.rail = s.rail.rail ∧
      t.thm.run = none) ∧
  (∀ (s : State) (src : Src) (d : Desc) (c : Cmd), c = cmdOf 0x38 src d s → Accepted 0x38 src d s →
    prBad c = false → 2 ≤ c.f 8 0 3 → s.pwr.wakeHigh = true → c.b 9 1 = true →
    (wakeAllowed (prTarget c) (c.b 8 3)).getLsbD 1 = true →
    Answers (exec (.powerRequest src d) s) fun t =>
      t.pwr.entry = none ∧ t.pwr.aborts = bump 255 1 s.pwr.aborts ∧ t.pwr.sleepAborted = true) ∧
  (∀ (s : State) (src : Src) (d : Desc) (c : Cmd), c = cmdOf 0x39 src d s → Accepted 0x39 src d s →
    c.f 8 0 2 = 0 → thBad c s = false → overCeiling c s = false →
    Ends 0x39 src d s [.thm] stSuccess 0
      (fun u => thermClass (c.b 8 2) u = { thermClass (c.b 8 2) s with lim := tsLimits c } ∧
        thermClass (!c.b 8 2) u = thermClass (!c.b 8 2) s ∧
        ∀ k : Fin 24, (u.thm.sensor[k]).st = (s.thm.sensor[k]).st)
      (exec (.thermalSet src d) s)) ∧
  (∀ (s : State) (src : Src) (d : Desc) (c : Cmd), c = cmdOf 0x39 src d s → Accepted 0x39 src d s →
    c.f 8 0 2 = 1 → thBad c s = false →
    Ends 0x39 src d s [.thm] stSuccess 0
      (fun u => (thermClass (c.b 8 2) u).stepMs = c.f 12 0 16 ∧
        (thermClass (c.b 8 2) u).maxLevel = c.f 14 0 3 ∧
        thermClass (!c.b 8 2) u = thermClass (!c.b 8 2) s)
      (exec (.thermalSet src d) s)) ∧
  (∀ (s : State) (src : Src) (d : Desc) (c : Cmd), c = cmdOf 0x39 src d s → Accepted 0x39 src d s →
    c.f 8 0 2 = 3 → thBad c s = false →
    Ends 0x39 src d s [.thm] stSuccess 0
      (fun u => u.thm = { s.thm with calDt := c.f 12 0 12, calMaxS := c.f 16 0 16 })
      (exec (.thermalSet src d) s)) ∧
  ∀ (s : State) (src : Src) (d : Desc) (c : Cmd), c = cmdOf 0x3A src d s → Accepted 0x3A src d s →
    c.f 8 0 5 ≠ 0 → s.thm.run = none →
    Begins 0x3A src d s [.thm]
      (fun t => t.thm.trigger = none ∧ ∃ r, t.thm.run = some r ∧ r.items = BitVec.ofNat 5 (c.f 8 0 5) ∧
        r.cmd = some c ∧ r.failed = 0)
      (exec (.calRun src d) s)

/-- Of R490, R491, R499, R502 to R508 of spec/18_bellhouse_ethernet.md; the commands start and pass the checks before their own (R61),
and their own fields are in range. TIME_SCHEDULE arms a launch with the sender's shadow while there is room, arms or
disarms the alarm it names and no other, and with ALL cancels every launch of its port. TIME_SET, while the servo is
not internal: SET makes network time its operand, STEP moves it by its operand, both make it valid, are counted and
set the servo's integrator to the rate in use; RATE writes the rate after a rebase, CONFIG the servo's parameters;
READ answers the time, and PTP takes the port's configuration and starts its PTP again. PULSE_SET takes its setting
at once on an idle output and keeps it pending on one whose pulse is under way, and leaves the others alone; a
ONESHOT whose START has passed starts its pulse on an idle output and completes with LATE. -/
def Obligations.TimeCommands : Prop :=
  (∀ (s : State) (src : Src) (d : Desc) (c : Cmd), c = cmdOf 0x40 src d s → Accepted 0x40 src d s →
    c.f 8 0 2 = 0 → c.f 24 0 32 < 1000000000 → s.lpl.launches.length < 16 →
    Begins 0x40 src d s [.lpl]
      (fun t => t.lpl.shadow = [] ∧ ∃ l, t.lpl.launches = s.lpl.launches ++ [l] ∧ l.cmd = c ∧
        l.s = c.f 16 0 48 ∧ l.ns = c.f 24 0 32 ∧ l.writes = s.lpl.shadow ∧
        l.late = decide (netTime s > mkTime (c.f 16 0 48) (c.f 24 0 32)))
      (exec (.timeSchedule src d) s)) ∧
  (∀ (s : State) (src : Src) (d : Desc) (c : Cmd), c = cmdOf 0x40 src d s → Accepted 0x40 src d s →
    c.f 8 0 2 = 1 → c.f 24 0 32 < 1000000000 →
    Answers (exec (.timeSchedule src d) s) fun t => ∀ a : Fin 4,
      t.bel.alarm[a] = if a.val = c.f 9 0 2 then
        { s.bel.alarm[a] with armed := true, s := c.f 16 0 48, ns := c.f 24 0 32 } else s.bel.alarm[a]) ∧
  (∀ (s : State) (src : Src) (d : Desc) (c : Cmd) (b : Fin 4), c = cmdOf 0x40 src d s →
    Accepted 0x40 src d s → c.f 8 0 2 = 3 → c.b 8 2 = false → c.f 24 0 32 < 1000000000 → b.val = c.f 9 0 2 →
    (s.bel.alarm[b]).armed = true →
    Answers (exec (.timeSchedule src d) s) fun t => ∀ a : Fin 4,
      t.bel.alarm[a] = if a = b then { s.bel.alarm[a] with armed := false } else s.bel.alarm[a]) ∧
  (∀ (s : State) (src : Src) (d : Desc) (c : Cmd), c = cmdOf 0x40 src d s → Accepted 0x40 src d s →
    c.f 8 0 2 = 2 → c.b 8 2 = true → c.f 24 0 32 < 1000000000 → cancelNamed c s ≠ [] →
    Answers (exec (.timeSchedule src d) s) fun t => ∀ l ∈ t.lpl.launches, l.cmd.src.port ≠ c.src.port) ∧
  (∀ (s : State) (src : Src) (d : Desc) (c : Cmd), c = cmdOf 0x41 src d s → Accepted 0x41 src d s →
    tsBad c s = false → c.f 8 0 3 = 0 → s.bel.mode ≠ .internal →
    Ends 0x41 src d s [.bel, .rve, .pwr, .hif, .eth, .mgt, .out, .free, .lpl, .thm] stSuccess 0
      (fun u => u.bel.valid = true ∧ netTime u = mkTime (c.f 16 0 48) (c.f 24 0 32) ∧
        u.bel.steps = bump 65535 1 s.bel.steps ∧ u.bel.integ = s.bel.ratePpb)
      (exec (.timeSet src d) s)) ∧
  (∀ (s : State) (src : Src) (d : Desc) (c : Cmd), c = cmdOf 0x41 src d s → Accepted 0x41 src d s →
    tsBad c s = false → c.f 8 0 3 = 1 → s.bel.mode ≠ .internal →
    Ends 0x41 src d s [.bel, .rve, .pwr, .hif, .eth, .mgt, .out, .free, .lpl, .thm] stSuccess 0
      (fun u => u.bel.valid = true ∧ netTime u = netTime s + c.s 16 0 64 ∧
        u.bel.steps = bump 65535 1 s.bel.steps ∧ u.bel.integ = s.bel.ratePpb)
      (exec (.timeSet src d) s)) ∧
  (∀ (s : State) (src : Src) (d : Desc) (c : Cmd), c = cmdOf 0x41 src d s → Accepted 0x41 src d s →
    tsBad c s = false → c.f 8 0 3 = 2 → s.bel.mode ≠ .internal →
    Ends 0x41 src d s [.bel] stSuccess 0
      (fun u => u.bel = { s.bel.rebase with rate := c.s 16 0 32 })
      (exec (.timeSet src d) s)) ∧
  (∀ (s : State) (src : Src) (d : Desc) (c : Cmd), c = cmdOf 0x41 src d s → Accepted 0x41 src d s →
    tsBad c s = false → c.f 8 0 3 = 5 →
    Ends 0x41 src d s [.bel, .rve, .hif, .eth, .out] stSuccess 0
      (fun u => (u.eth.port[tsPort c]).ptp = parsePtp (BitVec.ofNat 32 (c.f 16 0 32)) ∧
        (u.eth.port[tsPort c]).ptpState = .initializing)
      (exec (.timeSet src d) s)) ∧
  (∀ (s : State) (src : Src) (d : Desc) (c : Cmd), c = cmdOf 0x41 src d s → Accepted 0x41 src d s →
    tsBad c s = false → c.f 8 0 3 = 3 →
    Ends 0x41 src d s [.bel] stSuccess 0
      (fun u => u.bel = { s.bel with
        mode := modeOf (c.f 12 0 2), kp := c.f 16 0 16, ki := c.f 16 16 16, lockNs := c.f 20 0 16, stepUs := c.f 20 16 14 })
      (exec (.timeSet src d) s)) ∧
  (∀ (s : State) (src : Src) (d : Desc) (c : Cmd), c = cmdOf 0x41 src d s → Accepted 0x41 src d s →
    tsBad c s = false → c.f 8 0 3 = 4 →
    Ends 0x41 src d s [] stSuccess (timeReadResult s) (fun _ => True) (exec (.timeSet src d) s)) ∧
  (∀ (s : State) (src : Src) (d : Desc) (c : Cmd) (o : Fin 4), c = cmdOf 0x42 src d s →
    Accepted 0x42 src d s → (psCfg c).bad = false → o.val = c.f 8 0 2 → (psCfg c).passed s = true →
    (s.bel.pulse[o]).active = none →
    Ends 0x42 src d s [.bel, .out] stLate 0
      (fun u => Sent [.pps o true] s u ∧ (u.bel.pulse[o]).cfg = psCfg c ∧
        (u.bel.pulse[o]).active = some s.bel.frc ∧ (u.bel.pulse[o]).given = true)
      (exec (.pulseSet src d) s)) ∧
  ∀ (s : State) (src : Src) (d : Desc) (c : Cmd) (o : Fin 4), c = cmdOf 0x42 src d s →
    Accepted 0x42 src d s → (psCfg c).bad = false → o.val = c.f 8 0 2 → (psCfg c).passed s = false →
    Ends 0x42 src d s [.bel] stSuccess 0
      (fun u => (if (s.bel.pulse[o]).active.isSome then
          u.bel.pulse[o] = { s.bel.pulse[o] with pending := some (psCfg c) }
        else u.bel.pulse[o] = { s.bel.pulse[o] with
            cfg := psCfg c, pending := none, given := false, startedAt := none }) ∧
        ∀ q : Fin 4, q ≠ o → u.bel.pulse[q] = s.bel.pulse[q])
      (exec (.pulseSet src d) s)

/-- Of R128, R236, R245, R248, R249, R250, R519, R520, R532 to R541; the commands start and pass the checks before their own (R61),
and their own fields are in range. SAFETY_COMMIT STAGE without a self-fault has its transfer among the jobs, and where
no other command waits and a channel is idle the block staged before is discarded; CONFIRM with the CRC of the staged
block is accepted and waits. While no test of the Hedge is under way, SAFE_TEST PATH with COMMISSION_N low,
INPUTS with a block of its mode, and DISCONNECT with the outputs driven and connected, start their tests. FW_STAGE marks the other
slot and has its transfer among the jobs, and FW_ACTIVATE of a newer valid slot enters LIGHT_HOLD. TEST_RUN of a lane,
the yoke lane, LANE_ERR and a rail starts its test; ECC_INSERT marks a word without an error and ends; ETH_LOOP starts
its frames and has its read among the jobs. MARCH_RUN without DESTRUCTIVE starts its march. -/
def Obligations.ServiceCommands : Prop :=
  (∀ (s : State) (src : Src) (d : Desc) (c : Cmd), c = cmdOf 0x48 src d s → Accepted 0x48 src d s →
    scBad c s = false → c.f 8 0 2 = 0 → s.hdg.selfHeld = false →
    Begins 0x48 src d s [.free, .dma, .hdg, .jobs]
      (fun t => t.jobs.any (fun j => j.cmd == c && j.toBuf) = true ∧
        (t.hdg = s.hdg ∨ t.hdg = { s.hdg with staged := none }) ∧
        (s.jobs = [] → freeCh 8 29 s ≠ none → t.hdg = { s.hdg with staged := none }))
      (exec (.safetyCommit src d) s)) ∧
  (∀ (s : State) (src : Src) (d : Desc) (c : Cmd) (b : List Byte), c = cmdOf 0x48 src d s →
    Accepted 0x48 src d s → c.f 8 0 2 = 1 → s.hdg.staged = some b →
    BitVec.ofNat 32 (c.f 24 0 32) = s.hdg.stagedCrc →
    Begins 0x48 src d s [.hdg]
      (fun t => t.hdg.commitCrc = s.hdg.stagedCrc ∧ t.hdg.active = s.hdg.active ∧
        ∃ k, t.hdg.confirmed = some k ∧ k.block = b ∧ k.crc = s.hdg.stagedCrc ∧ c ∈ k.cmds)
      (exec (.safetyCommit src d) s)) ∧
  (∀ (s : State) (src : Src) (d : Desc) (c : Cmd), c = cmdOf 0x49 src d s → Accepted 0x49 src d s →
    c.f 8 0 2 = 2 → s.hdg.commissionLow = true → s.hdg.selfHeld = false → s.hdg.test = none →
    testRuns s = false →
    Begins 0x49 src d s [.hdg, .link, .out]
      (fun t => ∃ x, t.hdg = { s.hdg with test := some x } ∧ x.cmd = c ∧ x.test = 2 ∧ x.begun = true)
      (exec (.safeTest src d) s)) ∧
  (∀ (s : State) (src : Src) (d : Desc) (c : Cmd), c = cmdOf 0x49 src d s → Accepted 0x49 src d s →
    c.f 8 0 2 = 0 → s.hdg.active.isSome = true → Env.safeinMode s.hdg.env = true → s.hdg.selfHeld = false →
    s.hdg.test = none → testRuns s = false →
    Begins 0x49 src d s [.hdg]
      (fun t => (∃ x, t.hdg.test = some x ∧ x.cmd = c ∧ x.test = 0 ∧ x.begun = true) ∧
        t.hdg.chA.window = true ∧ t.hdg.chB.window = false)
      (exec (.safeTest src d) s)) ∧
  (∀ (s : State) (src : Src) (d : Desc) (c : Cmd), c = cmdOf 0x49 src d s → Accepted 0x49 src d s →
    c.f 8 0 2 = 1 → drivesOff s = true → disconnected s = false → s.hdg.selfHeld = false →
    s.hdg.test = none → testRuns s = false →
    Begins 0x49 src d s [.hdg]
      (fun t => (∃ x, t.hdg.test = some x ∧ x.cmd = c ∧ x.test = 1 ∧ x.begun = true) ∧
        ∃ y, t.hdg.disc = some y ∧ y.second = false ∧ y.asserted = true ∧ y.requested = true)
      (exec (.safeTest src d) s)) ∧
  (∀ (s : State) (src : Src) (d : Desc) (c : Cmd), c = cmdOf 0x50 src d s → Accepted 0x50 src d s →
    c.f 16 0 64 % 8 = 0 → 1024 ≤ c.f 24 0 32 → c.f 24 0 32 ≤ slotBytes → c.b 8 0 = false →
    s.boot.stage = none →
    Begins 0x50 src d s [.free, .dma, .boot, .jobs]
      (fun t => (∃ x, t.boot = { s.boot with stage := some x } ∧ x.cmd = c ∧ x.slot = !s.boot.slot) ∧
        t.jobs.any (fun j => j.cmd == c && j.toBuf) = true)
      (exec (.fwStage src d) s)) ∧
  (∀ (s : State) (src : Src) (d : Desc) (c : Cmd), c = cmdOf 0x51 src d s → Accepted 0x51 src d s →
    s.boot.stage = none → (otherSlot s).valid = true → (ownSlot s).gen < (otherSlot s).gen →
    Answers (exec (.fwActivate src d) s) fun t =>
      t.pwr.state = .lightHold ∧ t.pwr.cores.up = false ∧ t.pwr.cores.activating = some (c.b 8 0)) ∧
  (∀ (s : State) (src : Src) (d : Desc) (c : Cmd), c = cmdOf 0x68 src d s → Accepted 0x68 src d s →
    (s.pwr.state = .run ∨ s.pwr.state = .dim) → testBad c s = false → s.tst.job = none →
    (testDisturbs c s = true → c.b 8 4 = true) → testOwnPort c = false → testTargetOk c s = true →
    (c.f 8 0 4 = 0 ∨ c.f 8 0 4 = 1 ∨ c.f 8 0 4 = 3 ∨ c.f 8 0 4 = 5) →
    Begins 0x68 src d s [.tst]
      (fun t => t.tst.run = bump 65535 1 s.tst.run ∧ t.tst.test = c.f 8 0 4 ∧ t.tst.target = c.f 9 0 5 ∧
        ∃ j, t.tst.job = some j ∧ j.cmd = c ∧ j.test = c.f 8 0 4 ∧ j.count = c.f 12 0 32)
      (exec (.testRun src d) s)) ∧
  (∀ (s : State) (src : Src) (d : Desc) (c : Cmd), c = cmdOf 0x68 src d s → Accepted 0x68 src d s →
    (s.pwr.state = .run ∨ s.pwr.state = .dim) → testBad c s = false → s.tst.job = none →
    (testDisturbs c s = true → c.b 8 4 = true) → c.f 8 0 4 = 4 → markOf s (c.f 16 0 32 / 8) = none →
    Answers (exec (.testRun src d) s) fun t =>
      t.tst.run = bump 65535 1 s.tst.run ∧ t.tst.job = none ∧
      markOf t (c.f 16 0 32 / 8) = some (if c.f 11 0 2 = 2 then .double else .single)) ∧
  (∀ (s : State) (src : Src) (d : Desc) (c : Cmd), c = cmdOf 0x68 src d s → Accepted 0x68 src d s →
    (s.pwr.state = .run ∨ s.pwr.state = .dim) → testBad c s = false → s.tst.job = none →
    testOwnPort c = false → testTargetOk c s = true → c.f 8 0 4 = 2 →
    Answers (exec (.testRun src d) s) fun t =>
      t.tst.run = bump 65535 1 s.tst.run ∧ t.jobs.any (fun j => j.cmd == c && j.toBuf) = true ∧
      ∃ j, t.tst.job = some j ∧ j.cmd = c ∧ j.phase = .frames (c.f 12 0 32) 0 none) ∧
  ∀ (s : State) (src : Src) (d : Desc) (c : Cmd), c = cmdOf 0x69 src d s → Accepted 0x69 src d s →
    c.f 8 0 32 % 256 = 0 → c.f 12 0 32 % 256 = 0 → 256 ≤ c.f 12 0 32 →
    c.f 8 0 32 + c.f 12 0 32 ≤ grnSize → c.f 16 0 2 = 0 → s.grn.march = none →
    Begins 0x69 src d s [.grn, .marchCmd]
      (fun t => t.marchCmd = some c ∧ ∃ m, t.grn.march = some m ∧ m.start = c.f 8 0 32 ∧
        m.length = c.f 12 0 32 ∧ m.destructive = false ∧ m.done = 0)
      (exec (.marchRun src d) s)

/-- Of R430, R431, R433, R434, R437 to R443 and R447 to R449 of spec/16_reeve.md and R452, R471 and R476 of
spec/17_yoke.md; the commands start and pass the checks before their own (R61). FAULT_ACK that names groups, the
Hedge's not among them, ends the holds and windows of those whose level has gone, the real copies only without
INJECTED_ONLY, and leaves every group that it does not name or whose level stands; with CLEAR_CRIT it clears
RVE_CRIT; it leaves the log. FAULT_READ answers the summary, a log entry, and the state and parameters of a source,
and an EXPORT in range with an entry to write has its transfer among the jobs. DIAG_INJECT with the key puts its
events into the inbox a microsecond apart and changes no group and no log entry. YOKE_SWITCH CLEAR leaves EXCLUDED,
JOIN waits for the partner, and HANDOVER names the next latch point and waits. A real event that does not bring its
source to its count leaves the inbox, is counted, and changes neither the held class nor RVE_NOTE nor RVE_FIRST; where no
entry waits and the log can take one in this cycle, its entry is written with the next SEQ; else it waits behind at
most 63 others, and with 64 waiting it is lost and counted. A source's recovery ends a MINOR or MAJOR hold and counts
it, or latches it at its limit, and changes no other group. The loss of the heartbeat is kept until it is restored;
the injection key expires. -/
def Obligations.FaultCollection : Prop :=
  ((∀ (s : State) (src : Src) (d : Desc) (c : Cmd), c = cmdOf 0x60 src d s → Accepted 0x60 src d s →
     c.b 8 0 = false → (c.f 8 0 64 ≠ 0 ∨ c.b 16 2 = true) →
     ∃ r, Ends 0x60 src d s [.rve] stSuccess r
       (fun u => u.rve.log = s.rve.log ∧ u.rve.crit = (if c.b 16 2 then none else s.rve.crit) ∧
         ∀ g : Fin 64,
           (c.b (8 + g.val / 8) (g.val % 8) = true → levelLine g.val s = false →
             (u.rve.group[g]).inj.held = none ∧ (u.rve.group[g]).inj.winOpen = false ∧
             (c.b 16 1 = false →
               (u.rve.group[g]).real.held = none ∧ (u.rve.group[g]).real.winOpen = false) ∧
             (c.b 16 1 = true → (u.rve.group[g]).real = (s.rve.group[g]).real)) ∧
           (c.b (8 + g.val / 8) (g.val % 8) = false ∨ levelLine g.val s = true →
             u.rve.group[g] = s.rve.group[g]))
       (exec (.faultAck src d) s)) ∧
   (∀ (s : State) (src : Src) (d : Desc) (c : Cmd), c = cmdOf 0x61 src d s → Accepted 0x61 src d s →
     c.f 8 0 2 = 0 →
     Ends 0x61 src d s [] stSuccess (resAt 16 (rveStatus s).toNat ||| resAt 24 (rveLatched s).toNat)
       (fun _ => True) (exec (.faultRead src d) s)) ∧
   (∀ (s : State) (src : Src) (d : Desc) (c : Cmd) (e : LogEntry), c = cmdOf 0x61 src d s →
     Accepted 0x61 src d s → c.f 8 0 2 = 1 → logAt (BitVec.ofNat 16 (c.f 10 0 16)) s = some e →
     Ends 0x61 src d s [] stSuccess (resAt 16 e.word) (fun _ => True) (exec (.faultRead src d) s)) ∧
   (∀ (s : State) (src : Src) (d : Desc) (c : Cmd) (g : Fin 64), c = cmdOf 0x61 src d s →
     Accepted 0x61 src d s → c.f 8 0 2 = 2 → c.f 9 0 6 = g.val →
     Ends 0x61 src d s [] stSuccess
       (resAt 16 (srcState g.val s) ||| resAt 20 ((s.rve.group[g]).n + (s.rve.group[g]).rlimit * 256) |||
         resAt 24 (s.rve.group[g]).w ||| resAt 28 (s.rve.group[g]).q)
       (fun _ => True) (exec (.faultRead src d) s)) ∧
   (∀ (s : State) (src : Src) (d : Desc) (c : Cmd) (first : BitVec 16), c = cmdOf 0x61 src d s →
     Accepted 0x61 src d s → c.f 8 0 2 = 3 → frBad c s = false →
     exportFirst (BitVec.ofNat 16 (c.f 10 0 16)) s = some first →
     Begins 0x61 src d s [.free, .dma, .jobs]
       (fun t => t.jobs.any (fun j => j.cmd == c && j.pos == first.toNat) = true)
       (exec (.faultRead src d) s)) ∧
   (∀ (s : State) (src : Src) (d : Desc) (c : Cmd), c = cmdOf 0x62 src d s → Accepted 0x62 src d s →
     c.f 8 0 6 ≤ 45 → 0 < c.f 10 0 8 → s.rve.injKey ≠ 0 → s.rve.injKey.toNat = c.f 16 0 16 →
     Begins 0x62 src d s [.rve]
       (fun t => t.rve.inbox = s.rve.inbox ++ (List.range (c.f 10 0 8)).map (fun i =>
           ⟨c.f 8 0 6, Machine.Class.ofCode (c.f 9 0 2), BitVec.ofNat 32 (c.f 12 0 32), true,
             s.now + 1000 * i⟩) ∧
         t.rve.group = s.rve.group ∧ t.rve.log = s.rve.log)
       (exec (.diagInject src d) s)) ∧
   (∀ (s : State) (src : Src) (d : Desc) (c : Cmd), c = cmdOf 0x70 src d s → Accepted 0x70 src d s →
     c.f 8 0 2 = 2 → s.yok.state = .excluded →
     Ends 0x70 src d s [] stSuccess 0
       (fun u => u.yok.state = .seek ∧ u.yok.reason = 0 ∧ u.yok.run = 0 ∧ u.yok.own = s.yok.own)
       (exec (.yokeSwitch src d) s)) ∧
   (∀ (s : State) (src : Src) (d : Desc) (c : Cmd), c = cmdOf 0x70 src d s → Accepted 0x70 src d s →
     c.f 8 0 2 = 1 → yoked s = true → s.yok.holding = true → partnerIn .copy s = true →
     Begins 0x70 src d s []
       (fun t => t.yok.jobs = s.yok.jobs ++ [{ cmd := c, sub := 1, sent := none }])
       (exec (.yokeSwitch src d) s)) ∧
   ∀ (s : State) (src : Src) (d : Desc) (c : Cmd), c = cmdOf 0x70 src d s → Accepted 0x70 src d s →
     c.f 8 0 2 = 0 → yoked s = true → s.yok.holding = true → partnerReady s = true →
     Begins 0x70 src d s [.out]
       (fun t => t.yok.handover = some ⟨s.lpl.composing + 1, false⟩ ∧
         t.yok.jobs = s.yok.jobs ++ [{ cmd := c, sub := 0, sent := none }])
       (exec (.yokeSwitch src d) s)) ∧
  ((∀ (s : State) (e : Event) (g : Fin 64), s.rve.inbox = [e] → e.injected = false →
     e.group = g.val → (logFull s = false ∨ s.rve.lostFlag = true) → (s.rve.group[g]).real.winOpen = true →
     max s.now e.at' - (s.rve.group[g]).real.winStart < (s.rve.group[g]).w * 100000 →
     (s.rve.group[g]).real.k + 1 < (s.rve.group[g]).n → (s.rve.group[g]).real.k < 255 →
     Answers (exec .reeveEvent s) fun t =>
       t.rve.inbox = [] ∧ t.rve.note = s.rve.note ∧ t.rve.first = s.rve.first ∧ t.out = s.out ∧
       (t.rve.group[g]).real.k = (s.rve.group[g]).real.k + 1 ∧
       (t.rve.group[g]).real.held = (s.rve.group[g]).real.held) ∧
   (∀ (s : State) (e : Event), s.rve.inbox = [e] → e.injected = false → s.rve.queue = [] → logTakes s = true →
     Answers (exec .reeveEvent s) fun t =>
       t.rve.inbox = [] ∧ t.rve.nextSeq = s.rve.nextSeq + 1 ∧ t.rve.lostFlag = false ∧
       ∃ x, t.rve.log.getLast? = some x ∧ x.seq = s.rve.nextSeq ∧ x.source = e.group ∧ x.cls = e.cls ∧
         x.detail = e.detail ∧ x.injected = false ∧ x.lostBefore = s.rve.lostFlag) ∧
   (∀ (s : State) (e : Event), s.rve.inbox = [e] → e.injected = false →
     (s.rve.queue ≠ [] ∨ logTakes s = false) → logFull s = false →
     Answers (exec .reeveEvent s) fun t =>
       t.rve.inbox = [] ∧ t.rve.log = s.rve.log ∧ t.rve.lost = s.rve.lost ∧
       t.rve.queue.dropLast = s.rve.queue ∧
       ∃ x, t.rve.queue.getLast? = some x ∧ x.source = e.group ∧ x.cls = e.cls ∧ x.detail = e.detail ∧
         x.injected = false) ∧
   (∀ (s : State) (e : Event), s.rve.inbox = [e] → e.injected = false → s.rve.lostFlag = true →
     logFull s = true →
     Answers (exec .reeveEvent s) fun t =>
       t.rve.inbox = [] ∧ t.rve.log = s.rve.log ∧ t.rve.queue = s.rve.queue ∧
       t.rve.lost = bump 65535 1 s.rve.lost) ∧
   (∀ (s : State) (g : Fin 64), s.pwr.core = true → s.rve.inbox = [] → levelLine g.val s = false →
     (s.rve.group[g]).q ≠ 0 → (s.rve.group[g]).real.latched = false →
     ((s.rve.group[g]).real.held = some .minor ∨ (s.rve.group[g]).real.held = some .major) →
     Answers (exec (.reeveRecovery g false) s) fun t =>
       (if (s.rve.group[g]).rlimit ≤ (s.rve.group[g]).real.rec' + 1 then
         (t.rve.group[g]).real.latched = true ∧
           (t.rve.group[g]).real.held = (s.rve.group[g]).real.held
       else (t.rve.group[g]).real.held = none ∧
         (t.rve.group[g]).real.rec' = (s.rve.group[g]).real.rec' + 1) ∧
       (t.rve.group[g]).inj = (s.rve.group[g]).inj ∧
       (∀ k : Fin 64, k ≠ g → t.rve.group[k] = s.rve.group[k]) ∧ Keeps [.rve] s t) ∧
   (∀ s : State, (s.pwr.state = .run ∨ s.pwr.state = .lightHold ∨ s.pwr.state = .dim) →
     exec .reeveHeartbeatLoss s = .next { s with rve.lostAo := true, rve.revive := false }) ∧
   (∀ s : State, s.pwr.core = true → s.rve.revive = true →
     exec .reeveHeartbeatRestored s = .next { s with rve.lostAo := false, rve.revive := false }) ∧
   ∀ s : State, exec .injKeyExpiry s = .next { s with rve.injKey := 0 })

/-- Of R13, R104, R109, R216, R443, R449, R510, R528, R529 and R530 of spec/, while the host can reach the registers:
writes of registers with an effect of their own, and one read. RVE_INJ_KEY takes the key; RVE_LOCK and GRN_REG_LOCK
are set; GPIO_DATA takes its outputs; PHO_SHORT_LIMIT is stored; a write of RVE_INJ_KEY through the register map does
the same and changes nothing but the Reeve. CRCU_CHc_CFG sets the channel's polynomial, 3 as 0, with its initial
value; a data write feeds its low bytes, least significant first, to the channel's polynomial; CRCU_CHc_CTX with its
check right restores polynomial and state, and with it wrong gives the channel the initial value of the polynomial it
has, with a NOTE of group 43; no other channel changes. A read of BEL_TIME_NS answers the nanoseconds of network
time and captures time, counter, offset, reference and rate together. -/
def Obligations.RegisterEffects : Prop :=
  (∀ s : State, hostUp s = true →
    (∀ k, exec (.rveInjKeyWrite k) s = .next { s with rve.injKey := k }) ∧
    exec .rveLockSet s = .next { s with rve.lock := true } ∧
    exec .grnRegLockSet s = .next { s with grn.regLock := true } ∧
    (∀ v, exec (.gpioDataWrite v) s = .next { s with gpio.out := v }) ∧
    (∀ v : Word, exec (.registerWrite 0x06002C v) s = .next { s with pho.shortLimit := v.toNat }) ∧
    ∀ v : Word, Answers (exec (.registerWrite 0x0F0028 v) s) fun t =>
      t.rve.injKey = v.truncate 16 ∧ Keeps [.rve] s t) ∧
  (∀ (s : State) (c : Fin 4) (poly : BitVec 2), hostUp s = true →
    Answers (exec (.crcuCfgWrite c poly) s) fun t =>
      (t.crcu[c]).poly = (if poly = 3 then 0 else poly.toNat) ∧
      (t.crcu[c]).state = (if poly = 2 then 0xFFFF#32 else 0xFFFFFFFF#32) ∧ (t.crcu[c]).fresh = false ∧
      (∀ k : Fin 4, k ≠ c → t.crcu[k] = s.crcu[k]) ∧ Keeps [.crcu] s t) ∧
  (∀ (s : State) (c : Fin 4) (k : Fin 3) (v : Word), hostUp s = true →
    Answers (exec (.crcuDataWrite c k v) s) fun t =>
      (t.crcu[c]).poly = (s.crcu[c]).poly ∧
      (t.crcu[c]).state = BitVec.ofNat 32 ((leBytes (2 ^ k.val) v.toNat).foldl
        (crcuByte (s.crcu[c]).poly) (s.crcu[c]).state.toNat) ∧ (t.crcu[c]).fresh = false ∧
      (∀ j : Fin 4, j ≠ c → t.crcu[j] = s.crcu[j]) ∧ Keeps [.crcu] s t) ∧
  (∀ (s : State) (c : Fin 4) (st : Word) (p : BitVec 24), hostUp s = true →
    Answers (exec (.crcuCtxWrite c (Config.ctxCheck (polyOf (p.toNat % 4)) st ++ p ++ st)) s) fun t =>
      (t.crcu[c]).poly = polyOf (p.toNat % 4) ∧ (t.crcu[c]).state = st ∧
      (∀ j : Fin 4, j ≠ c → t.crcu[j] = s.crcu[j]) ∧ Keeps [.crcu] s t) ∧
  (∀ (s : State) (c : Fin 4) (st : Word) (p : BitVec 24) (k : Byte), hostUp s = true →
    k ≠ Config.ctxCheck (polyOf (p.toNat % 4)) st →
    Answers (exec (.crcuCtxWrite c (k ++ p ++ st)) s) fun t =>
      Raised 43 .note c.val s t ∧ (t.crcu[c]).poly = (s.crcu[c]).poly ∧
      (t.crcu[c]).state = crcuInit (s.crcu[c]).poly ∧
      (∀ j : Fin 4, j ≠ c → t.crcu[j] = s.crcu[j]) ∧ Keeps [.crcu, .rve] s t) ∧
  ∀ s : State, hostUp s = true →
    Answers (exec .belTimeNsRead s) fun t =>
      t.bel.snap = ⟨s.bel.time, s.bel.frc, s.bel.offset, s.bel.frcRef, s.bel.rate⟩ ∧
      Sent [.answer (leBytes 4 (timeNs s.bel.time)) false] s t ∧ Keeps [.bel, .out] s t

/-- Of R46, R108, R109, R110, R115, R116, R118, R121 and R122 of spec/02_host_rings.md and spec/04_granary.md, while
the host can reach the device and for accesses of at least one byte. A BAR2 read that the regions permit, of words
without an error, answers their bytes and changes neither the memory nor the Reeve; one they do not permit answers
zeros and is recorded and raised as a violation of the host. A BAR2 write that they permit, whose partly covered
words have no error, is what later reads of the memory find at its addresses, and every other byte stays; one they do
not permit is discarded and is a violation. While the Granary is not ready an access waits, and does nothing else. -/
def Obligations.HostMemoryAccess : Prop :=
  (∀ (s : State) (a : BitVec 26) (n : BitVec 13), hostUp s = true → grnReady s = true → 0 < n.toNat →
    grnMay s permHostR true a.toNat n.toNat = true →
    (∀ w ∈ (List.range n.toNat).map (fun i => (a.toNat + i) / 8), markOf s w = none) →
    Answers (exec (.bar2Read a n .none) s) fun t =>
      Sent [.answer (grnRead s a.toNat n.toNat) false] s t ∧ t.grn.mem = s.grn.mem ∧ t.rve = s.rve) ∧
  (∀ (s : State) (a : BitVec 26) (n : BitVec 13) (u : Upset), hostUp s = true → grnReady s = true →
    0 < n.toNat → grnMay s permHostR true a.toNat n.toNat = false →
    Answers (exec (.bar2Read a n u) s) fun t =>
      Sent [.answer (List.replicate n.toNat 0) false] s t ∧
      Raised 7 .note (a.toNat / 8 + Master.host.code * 2 ^ 23) s t ∧ t.grn.violMaster = .host ∧
      t.grn.violAddr = a.toNat ∧ t.grn.violWrite = false ∧ Keeps [.out, .grn, .rve] s t) ∧
  (∀ (s : State) (a : BitVec 26) (d : List Byte) (u : Upset), hostUp s = true → grnReady s = true →
    d ≠ [] → grnMay s permHostW false a.toNat d.length = true →
    (∀ w ∈ partialWords a.toNat d.length, markOf s w = none ∧ u = .none) →
    a.toNat + d.length ≤ grnSize → Memory.wf s.grn.mem = true →
    Answers (exec (.bar2Write a d u) s) fun t =>
      (∀ i, i < d.length → Memory.read t.grn.mem (a.toNat + i) = d.getD i 0) ∧
      (∀ x, x < a.toNat ∨ a.toNat + d.length ≤ x →
        Memory.read t.grn.mem x = Memory.read s.grn.mem x) ∧ t.out = s.out ∧ t.rve = s.rve) ∧
  (∀ (s : State) (a : BitVec 26) (d : List Byte) (u : Upset), hostUp s = true → grnReady s = true →
    d ≠ [] → grnMay s permHostW false a.toNat d.length = false →
    Answers (exec (.bar2Write a d u) s) fun t =>
      t.grn.mem = s.grn.mem ∧ t.grn.violMaster = .host ∧ t.grn.violWrite = true ∧ t.grn.violAddr = a.toNat ∧
      Raised 7 .note (a.toNat / 8 + Master.host.code * 2 ^ 23) s t ∧ Keeps [.grn, .rve] s t) ∧
  ∀ (s : State) (a : BitVec 26) (u : Upset), hostUp s = true → grnReady s = false →
    (∀ n : BitVec 13, 0 < n.toNat → exec (.bar2Read a n u) s =
      .next { s with hif.bar2Wait := s.hif.bar2Wait ++ [.read a.toNat n.toNat u] }) ∧
    ∀ d : List Byte, d ≠ [] → exec (.bar2Write a d u) s =
      .next { s with hif.bar2Wait := s.hif.bar2Wait ++ [.write a.toNat d u] }

/-- Of R116, R118, R119, R122 to R127, R129, R131 and R133 of spec/04_granary.md, with the core powered and no host
access waiting. Initialisation leaves every byte 0, no mark and the Granary ready, and a start-up march that found one
failing word with a spare row free gives its row the spare. A rewrite takes the word at the front of its bank's queue
off it and ends its single error; a row under copy longest is replaced by its spare and leaves no single error in
marks of the old row. The scrub moves by one word in every bank and after the last counts a pass. A march moves by
one stripe: without DESTRUCTIVE the bytes stay, with it the stripe reads 0 and every other byte stays; at the end of
its range with nothing failing the command that asked for it finishes. The release of retention makes the Granary
ready with its bytes kept. -/
def Obligations.GranaryUpkeep : Prop :=
  (∀ (s : State) (st : Start), s.pwr.core = true → s.grn.initDone = false → s.grn.retention = false →
    s.pwr.start = some st → st.pgCore = true → st.pgSram = true → st.granary = false → s.hif.bar2Wait = [] →
    Answers (exec (.granaryInitDone []) s) fun t =>
      t.grn.mem = [] ∧ t.grn.marks = [] ∧ grnReady t = true ∧ t.grn.scrubWord = 0 ∧
      t.grn.regions = s.grn.regions ∧ t.pwr.start = some { st with granary := true } ∧
      Keeps [.grn, .mem, .pwr, .lpl] s t) ∧
  (∀ (s : State) (st : Start) (a : BitVec 26), s.pwr.core = true → s.grn.initDone = false →
    s.grn.retention = false → s.pwr.start = some st → st.pgCore = true → st.pgSram = true →
    st.granary = false → s.hif.bar2Wait = [] → s.grn.repaired = [] → s.grn.copying = [] →
    Answers (exec (.granaryInitDone [a]) s) fun t =>
      t.grn.repaired = [rowOf (a.toNat / 8)] ∧ t.grn.copying = [] ∧ t.grn.mem = [] ∧ t.grn.marks = [] ∧
      grnReady t = true ∧ Keeps [.grn, .mem, .pwr, .lpl] s t) ∧
  (∀ (s : State) (b : Fin 32) (w : Nat) (r : List Nat), s.pwr.core = true → grnReady s = true →
    s.grn.rewriteQ = w :: r → wordBank w = b.val → w ∉ r → markOf s w = some .single →
    Answers (exec (.eccRewrite b) s) fun t =>
      t.grn.rewriteQ = r ∧ w ∈ t.grn.rewritten ∧ markOf t w = none ∧ t.grn.mem = s.grn.mem ∧
      t.grn.eccCe = s.grn.eccCe ∧ Keeps [.grn] s t) ∧
  (∀ (s : State) (x : RowCopy) (r : List RowCopy), s.pwr.core = true → grnReady s = true →
    s.grn.copying = x :: r →
    Answers (exec .rowRepairComplete s) fun t =>
      t.grn.copying = r ∧ t.grn.repaired = s.grn.repaired ++ [x] ∧ t.grn.mem = s.grn.mem ∧
      (∀ m ∈ t.grn.marks, inRow x m.1 = true → m.2 ≠ .single) ∧ Keeps [.grn] s t) ∧
  (∀ (s : State) (b : Fin 32), s.pwr.core = true → grnReady s = true → s.grn.scrubEn = true →
    s.grn.marks = [] →
    Answers (exec (.scrubWordRead b .none) s) fun t =>
      (if s.grn.scrubWord + 1 < 262144 then
        t.grn.scrubWord = s.grn.scrubWord + 1 ∧ t.grn.passes = s.grn.passes
      else t.grn.scrubWord = 0 ∧ t.grn.passes = (s.grn.passes + 1) % 16384) ∧
      t.grn.marks = [] ∧ Keeps [.grn] s t) ∧
  (∀ (s : State) (m : March), s.pwr.core = true → grnReady s = true → s.grn.march = some m →
    m.destructive = false → 256 * (m.done + 1) < m.length →
    Answers (exec (.marchStripeDone []) s) fun t =>
      t.grn.march = some { m with done := m.done + 1 } ∧ Keeps [.grn] s t) ∧
  (∀ (s : State) (m : March), s.pwr.core = true → grnReady s = true → s.grn.march = some m →
    m.destructive = true → 256 * (m.done + 1) < m.length → Memory.wf s.grn.mem = true →
    Answers (exec (.marchStripeDone []) s) fun t =>
      t.grn.march = some { m with done := m.done + 1 } ∧
      ∀ x, Memory.read t.grn.mem x =
        if m.start + 256 * m.done ≤ x ∧ x < m.start + 256 * m.done + 256 then 0
        else Memory.read s.grn.mem x) ∧
  (∀ (s : State) (m : March) (c : Cmd), s.pwr.core = true → grnReady s = true → s.grn.march = some m →
    m.destructive = false → m.length ≤ 256 * (m.done + 1) → m.failWords = 0 → m.unrepaired = [] →
    s.marchCmd = some c →
    exec (.marchStripeDone []) s =
      .next (finish c stSuccess m.result { s with grn.march := none, marchCmd := none })) ∧
  ∀ (s : State) (st : Start), s.pwr.core = true → s.grn.retention = true → s.grn.initDone = true →
    s.pwr.start = some st → st.pgCore = true → s.hif.bar2Wait = [] →
    Answers (exec .retentionReleaseDone s) fun t =>
      grnReady t = true ∧ t.pwr.start = some { st with granary := true } ∧ Keeps [.grn, .pwr] s t

/-- Of R54, R59, R80, R82 and R149 of spec/02_host_rings.md and spec/05_composition.md, with the start-up list done.
COMMAND_START takes the only queued entry of the ring whose turn it is, moves HEAD past it, counts the ring and its
group as served last and starts its descriptor, which arrived when it was fetched or when the ring's last completion
came, whichever was later; it leaves the other rings. It takes the next descriptor of a port's first datagram when it
is the port's turn, and the mailbox's when it is that of I2C; with nothing waiting it does nothing. With the image
and the commissioning record in, the Granary ready and no FLASH_LOAD left, STARTUP_COMMAND starts the next descriptor
of the list and moves on by one. -/
def Obligations.CommandStarts : Prop :=
  (∀ (s : State) (n : Fin 16) (e : Fetched), s.pwr.start = none → nextGroup s = some 0 →
    nextRing s = some n → (s.hif.sq[n]).fetched = [e] → ringHead n s = some e →
    ∃ u, exec .commandStart s =
        .next (startDesc (.ring n) (max e.arr (s.hif.sq[n]).lastDone) e.d u) ∧
      (u.hif.sq[n]).head = ((s.hif.sq[n]).head + 1) % (s.hif.sq[n]).size ∧
      (u.hif.sq[n]).fetched = [] ∧ u.hif.lastSq[prioIndex n s] = some n ∧ u.hif.lastGroup = some 0 ∧
      Keeps [.out, .hif] s u ∧ ∀ m : Fin 16, m ≠ n → u.hif.sq[m] = s.hif.sq[m]) ∧
  (∀ (s : State) (p : Fin 2) (g : Fin 4) (key next arr : Nat) (d : Desc), s.pwr.start = none →
    g.val = p.val + 1 → nextGroup s = some g → ethHead p s = some (key, next, arr, d) →
    ∃ u, exec .commandStart s = .next (drainQueue p (startDesc (.eth p key next) arr d u)) ∧
      u.hif.lastGroup = some g ∧ Keeps [.hif, .eth] s u) ∧
  (∀ (s : State), nextGroup s = none → s.pwr.start = none → exec .commandStart s = .next s) ∧
  (∀ (s : State) (d : Desc), s.pwr.start = none → nextGroup s = some 3 → d = s.mgt.mailbox →
    exec .commandStart s = .next (startDesc .i2c s.now d { s with hif.lastGroup := some 3 })) ∧
  ∀ (s : State) (st : Start) (d : Desc) (i : Nat), s.pwr.start = some st → i = s.boot.startupNext →
    s.boot.startup[i]? = some d → st.kind ≠ .warm → st.restored = true → st.record = true →
    st.granary = true → s.boot.loads = [] → serves (.startup i) s = true →
    fenceOk (.startup i) d s = true →
    exec .startupCommand s =
      .next (startDesc (.startup i) s.now d { s with boot.startupNext := i + 1 })

/-- Of R87 to R90, R99, R102 and R109 of spec/03_dma.md and spec/04_granary.md, with the core powered, for a channel
of commands (8 and above) that fetches; after each event the engine may grant source requests, which changes the
REMAIN and the passes of other channels and nothing else of them. A descriptor that arrived from host memory, is no
LINK, and passes the checks is run from its first byte under its TAG; one whose check fails halts the channel with the
check's code, ERRADDR at the descriptor and a MINOR, and so does one whose read failed, with code 0x12. A LINK with
an aligned reachable address moves the chain there. A descriptor in the Granary that the regions permit and that has
no error is taken as its bytes are. A descriptor the control cores wrote is run when it passes the checks. -/
def Obligations.DmaDescriptors : Prop :=
  (∀ (s : State) (k : Fin 32) (w : BitVec 256) (u : Upset), s.pwr.core = true →
    (s.dma.ch[k]).state = .fetch → 8 ≤ k.val → jobOn k s = none → (s.dma.ch[k]).descHost = true →
    ((parseDma w).link = false ∨ (parseDma w).last = true) → checkDesc (parseDma w) s = none →
    Answers (exec (.dmaDescriptorFetched k (some w) u) s) fun t =>
      (t.dma.ch[k]).state = .run ∧ (t.dma.ch[k]).cur = some (parseDma w) ∧
      (t.dma.ch[k]).arrived = 0 ∧ (t.dma.ch[k]).written = 0 ∧ (t.dma.ch[k]).tag = (parseDma w).tag ∧
      (∀ j : Fin 32, j ≠ k → t.dma.ch[j] = { s.dma.ch[j] with
        remain := (t.dma.ch[j]).remain, passed := (t.dma.ch[j]).passed }) ∧ Keeps [.dma, .out] s t) ∧
  (∀ (s : State) (k : Fin 32) (w : BitVec 256) (u : Upset) (code : Byte), s.pwr.core = true →
    (s.dma.ch[k]).state = .fetch → 8 ≤ k.val → jobOn k s = none → (s.dma.ch[k]).descHost = true →
    ((parseDma w).link = false ∨ (parseDma w).last = true) → checkDesc (parseDma w) s = some code →
    Answers (exec (.dmaDescriptorFetched k (some w) u) s) fun t =>
      (t.dma.ch[k]).state = .halted ∧ (t.dma.ch[k]).code = code ∧ (t.dma.ch[k]).tag = (parseDma w).tag ∧
      (t.dma.ch[k]).errAddr = (s.dma.ch[k]).descAddr ∧ (t.dma.ch[k]).errHost = true ∧
      Raised 32 .minor (k.val + code.toNat * 256) s t ∧ Keeps [.dma, .rve, .out] s t) ∧
  (∀ (s : State) (k : Fin 32) (u : Upset), s.pwr.core = true →
    (s.dma.ch[k]).state = .fetch → 8 ≤ k.val → jobOn k s = none → (s.dma.ch[k]).descHost = true →
    Answers (exec (.dmaDescriptorFetched k none u) s) fun t =>
      (t.dma.ch[k]).state = .halted ∧ (t.dma.ch[k]).code = 0x12 ∧
      (t.dma.ch[k]).errAddr = (s.dma.ch[k]).descAddr ∧
      Raised 32 .minor (k.val + 0x12 * 256) s t ∧ Keeps [.dma, .rve, .out] s t) ∧
  (∀ (s : State) (k : Fin 32) (w : BitVec 256) (u : Upset), s.pwr.core = true →
    (s.dma.ch[k]).state = .fetch → 8 ≤ k.val → jobOn k s = none → (s.dma.ch[k]).descHost = true →
    (parseDma w).link = true → (parseDma w).last = false → (s.dma.ch[k]).links + 1 < 16 →
    (parseDma w).src % 32 = 0 →
    (if (parseDma w).srcHost then hostReachable s = true else (parseDma w).src < grnSize) →
    Answers (exec (.dmaDescriptorFetched k (some w) u) s) fun t =>
      (t.dma.ch[k]).state = .fetch ∧ (t.dma.ch[k]).descAddr = (parseDma w).src ∧
      (t.dma.ch[k]).descHost = (parseDma w).srcHost ∧ (t.dma.ch[k]).links = (s.dma.ch[k]).links + 1 ∧
      Keeps [.dma, .out] s t) ∧
  (∀ (s : State) (k : Fin 32) (x : DmaDesc) (r : Option (BitVec 256)), s.pwr.core = true →
    (s.dma.ch[k]).state = .fetch → 8 ≤ k.val → jobOn k s = none → (s.dma.ch[k]).descHost = false →
    grnReady s = true → grnMay s permDmaR false (s.dma.ch[k]).descAddr 32 = true → s.grn.marks = [] →
    x = parseDma (BitVec.ofNat 256 (leNat (grnRead s (s.dma.ch[k]).descAddr 32))) →
    (x.link = false ∨ x.last = true) → checkDesc x s = none →
    Answers (exec (.dmaDescriptorFetched k r .none) s) fun t =>
      (t.dma.ch[k]).state = .run ∧ (t.dma.ch[k]).cur = some x ∧ (t.dma.ch[k]).arrived = 0 ∧
      (t.dma.ch[k]).written = 0 ∧ (t.dma.ch[k]).tag = x.tag ∧ Keeps [.dma, .out, .grn] s t) ∧
  ∀ (s : State) (k : Fin 32) (j : DmaJob) (r : Option (BitVec 256)) (u : Upset), s.pwr.core = true →
    (s.dma.ch[k]).state = .fetch → 8 ≤ k.val → jobOn k s = some j → j.xfer.link = false →
    checkDesc j.xfer s = none →
    Answers (exec (.dmaDescriptorFetched k r u) s) fun t =>
      (t.dma.ch[k]).state = .run ∧ (t.dma.ch[k]).cur = some j.xfer ∧ (t.dma.ch[k]).arrived = 0 ∧
      (t.dma.ch[k]).written = 0 ∧ Keeps [.dma, .out] s t

/-- Of R85, R90 to R94, R97, R99 to R103 and R447 of spec/03_dma.md and spec/16_reeve.md, with the core powered;
before and after each event of a channel the engine may grant bursts, which changes REMAIN and the passes of
channels and nothing else of them. Bytes that arrive from the host, as many as were requested and as the holding register
takes, are held in order. A beat of the channel's own Granary burst, to the end of the 32 bytes or of the burst, that the
regions permit, of words without an error, is held as memory has it where the holding register has room. A write in
a burst of the channel, permitted and of full access width, lands at
the destination and nowhere else. A read error halts a channel of commands at the failing beat, and so does what was
not finished in time, each with its code, address and a MINOR. A paced channel that waits takes its request up, one
that runs counts it up to two, and a third is an overrun. A freed channel is given to the only command that waits for
one. A log export that has ended well finishes with its result, and one that was halted completes with ERROR and the
transfer detail. -/
def Obligations.DmaProgress : Prop :=
  (∀ (s : State) (k : Fin 32) (x : DmaDesc) (data : List Byte), s.pwr.core = true →
    (s.dma.ch[k]).state = .run → abortedNow k s = false → (s.dma.ch[k]).cur = some x → x.readsHost = true →
    (s.dma.ch[k]).fits x data.length = true →
    data.length ≤ x.total - (s.dma.ch[k]).remain - (s.dma.ch[k]).arrived →
    (s.dma.ch[k]).written < x.total →
    Answers (exec (.dmaBeatComplete k (.fromHost data)) s) fun t =>
      (t.dma.ch[k]).hold = (s.dma.ch[k]).hold ++ data ∧
      (t.dma.ch[k]).arrived = (s.dma.ch[k]).arrived + data.length ∧ (t.dma.ch[k]).cur = some x ∧
      (∀ j : Fin 32, j ≠ k → t.dma.ch[j] = { s.dma.ch[j] with
        remain := (t.dma.ch[j]).remain, passed := (t.dma.ch[j]).passed }) ∧ Keeps [.dma, .out] s t) ∧
  (∀ (s : State) (k : Fin 32) (x : DmaDesc) (a n left : Nat) (fresh : Bool), s.pwr.core = true →
    (s.dma.ch[k]).state = .run → abortedNow k s = false → (s.dma.ch[k]).cur = some x → x.srcHost = false →
    x.fill = false → jobOn k s = none → s.dma.burst = some ⟨k, left, false, fresh⟩ →
    a = x.srcAt (s.dma.ch[k]).arrived → n = min (32 - a % 32) left → 0 < n →
    (s.dma.ch[k]).hold.length + n ≤ 64 → grnReady s = true → s.grn.marks = [] →
    grnMay s permDmaR false a n = true → (s.dma.ch[k]).written < x.total →
    Answers (exec (.dmaBeatComplete k (.fromGranary .none)) s) fun t =>
      (t.dma.ch[k]).hold = (s.dma.ch[k]).hold ++ grnRead s a n ∧
      (t.dma.ch[k]).arrived = (s.dma.ch[k]).arrived + n ∧ (t.dma.ch[k]).cur = some x ∧
      t.grn.mem = s.grn.mem ∧ Keeps [.dma, .out, .grn] s t) ∧
  (∀ (s : State) (k : Fin 32) (x : DmaDesc) (a n : Nat) (data : List Byte), s.pwr.core = true → 8 ≤ k.val →
    (s.dma.ch[k]).state = .run → abortedNow k s = false → (s.dma.ch[k]).cur = some x → x.dstHost = false →
    x.dwidth = 3 → jobOn k s = none → (s.dma.ch[k]).canWrite = true → n = x.writeLen (s.dma.ch[k]).written →
    (burstAt k s).isSome = true → a = x.dstAt (s.dma.ch[k]).written → grnReady s = true → s.grn.marks = [] →
    grnMay s permDmaW false a n = true → a + n ≤ grnSize → (s.dma.ch[k]).written + n < x.total →
    data = (if x.fill then (List.range n).map (fun i => x.fillByte (a + i)) else (s.dma.ch[k]).hold.take n) →
    Memory.wf s.grn.mem = true →
    Answers (exec (.dmaBeatComplete k .write) s) fun t =>
      (t.dma.ch[k]).written = (s.dma.ch[k]).written + n ∧ (t.dma.ch[k]).cur = some x ∧
      ∀ b, Memory.read t.grn.mem b = if a ≤ b ∧ b < a + n then data.getD (b - a) 0
        else Memory.read s.grn.mem b) ∧
  (∀ (s : State) (k : Fin 32) (x : DmaDesc) (b : BeatError), s.pwr.core = true → 8 ≤ k.val →
    (s.dma.ch[k]).state = .run → abortedNow k s = false → (s.dma.ch[k]).cur = some x → x.readsHost = true →
    (s.dma.ch[k]).arrived < x.total - (s.dma.ch[k]).remain →
    Answers (exec (.dmaBeatComplete k (.error b)) s) fun t =>
      (t.dma.ch[k]).state = .halted ∧ (t.dma.ch[k]).code = 0x10 ∧
      (t.dma.ch[k]).errAddr = x.srcAt (s.dma.ch[k]).arrived ∧ (t.dma.ch[k]).errHost = true ∧
      Raised 32 .minor (k.val + 0x10 * 256) s t) ∧
  (∀ (s : State) (k : Fin 32) (what : DmaWait) (x : Nat × Bool), s.pwr.core = true → 8 ≤ k.val →
    timedOut k what s = some x →
    Answers (exec (.dmaTimeout k what) s) fun t =>
      (t.dma.ch[k]).state = .halted ∧ (t.dma.ch[k]).code = 0x15 ∧
      (t.dma.ch[k]).errAddr = x.1 ∧ (t.dma.ch[k]).errHost = x.2 ∧
      Raised 32 .minor (k.val + 0x15 * 256) s t) ∧
  (∀ (s : State) (l : Fin 8) (k : Fin 32), k.val = l.val → s.pwr.core = true →
    (s.dma.ch[k]).state = .waitRequest →
    Answers (exec (.dmaPacedRequest l) s) fun t =>
      t.dma.ch[k] = { s.dma.ch[k] with state := .fetch } ∧
      (∀ j : Fin 32, j ≠ k → t.dma.ch[j] = s.dma.ch[j]) ∧ Keeps [.dma] s t) ∧
  (∀ (s : State) (l : Fin 8) (k : Fin 32), k.val = l.val → s.pwr.core = true →
    (s.dma.ch[k]).state = .run → (s.dma.ch[k]).requests < 2 →
    Answers (exec (.dmaPacedRequest l) s) fun t =>
      t.dma.ch[k] = { s.dma.ch[k] with requests := (s.dma.ch[k]).requests + 1 } ∧
      (∀ j : Fin 32, j ≠ k → t.dma.ch[j] = s.dma.ch[j]) ∧ Keeps [.dma] s t) ∧
  (∀ (s : State) (l : Fin 8) (k : Fin 32), k.val = l.val → s.pwr.core = true →
    (s.dma.ch[k]).state = .run → 2 ≤ (s.dma.ch[k]).requests → s.lpl.work = none →
    Answers (exec (.dmaPacedRequest l) s) fun t =>
      t.dma.overrun = bump 65535 1 s.dma.overrun ∧ t.dma.ch = s.dma.ch ∧
      Raised 32 .note k.val s t ∧ Keeps [.dma, .rve] s t) ∧
  (∀ (s : State) (j : DmaJob) (k : Fin 32), coresUp s = true → s.jobs = [j] → j.ch = none → j.dead = false →
    freeCh j.lo j.hi s = some k →
    Answers (exec .dmaChannelFreed s) fun t =>
      t.jobs = [{ j with ch := some k }] ∧ (t.dma.ch[k]).state = .fetch ∧ (t.dma.ch[k]).descIndex = 0 ∧
      (j.xfer.link = true →
        (t.dma.ch[k]).descAddr = j.xfer.src ∧ (t.dma.ch[k]).descHost = j.xfer.srcHost) ∧
      (∀ i : Fin 32, i ≠ k → t.dma.ch[i] = s.dma.ch[i]) ∧
      (j.cmd.opcode ≠ 0x48 → t.hdg = s.hdg) ∧ Keeps [.free, .dma, .jobs, .out, .hdg] s t) ∧
  (∀ (s : State) (j : DmaJob) (k : Fin 32), coresUp s = true → jobOn k s = some j → j.dead = false →
    (s.dma.ch[k]).state = .idle → j.cmd.opcode = 0x61 →
    exec (.dmaChainDone k) s =
      .next (finish j.cmd stSuccess (faultExportResult j.seq0 j.written) (dropJob k s))) ∧
  ∀ (s : State) (j : DmaJob) (k : Fin 32), coresUp s = true → jobOn k s = some j → j.dead = false →
    (s.dma.ch[k]).state = .halted → j.cmd.opcode = 0x61 →
    exec (.dmaChainDone k) s =
      .next (complete j.cmd stError 0 (xferDetail k (dropJob k s)) (dropJob k s))

/-- Of R22, R24, R118, R152 to R155, R181, R255, R257 and R416 of spec/. A latch point gives the next frame its
number, ends the scan and is the latest latch point. When the VBI ends with no frame under way and no shutdown, a
composition starts of the frame of that number, not yet finished, and the output buffers stay. A composition that ends
lies finished in the buffer that is not scanned, with the memory as it then is; the other buffer and the choice of the
scan buffer stay. A line of host memory that a layer of the frame misses for the first time leaves the hole its policy
gives it from that row on, filled as the Granary and the regions then stand, the frame is not used under REPEAT, and where the layer was not late before it is counted
late with a NOTE of group 8. A coefficient of the bank a layer reads in the frame that fails its parity makes the bank
INVALID, has BILINEAR stand in from that pixel on, is counted, and raises a MAJOR for the protected layer and a MINOR
for another; a layer that reads no bank is not touched. -/
def Obligations.FramesAndTheirFailures : Prop :=
  ((∀ (s : State) (v : Bool) (q : Option (BitVec 16)), lampRuns s = true →
     Answers (exec (.latchPoint v q) s) fun t =>
       t.lpl.composing = s.lpl.composing + 1 ∧ t.lpl.lastLatch = s.now ∧ t.lpl.scanning = false) ∧
   (∀ s : State, lampRuns s = true → s.lpl.scanning = false → s.lpl.work = none → s.thm.shutdown = false →
     Answers (exec .vbiEnd s) fun t =>
       (∃ f, t.lpl.work = some f ∧ f.seq = s.lpl.composing ∧ f.finished = false) ∧
       t.lpl.composing = s.lpl.composing ∧ t.lpl.buf = s.lpl.buf ∧ t.lpl.scan = s.lpl.scan) ∧
   ∀ (s : State) (f : Frame), s.pwr.core = true → s.lpl.work = some f → f.finished = false →
     Answers (exec .compositionComplete s) fun t =>
       t.lpl.work = some { f with finished := true, memEnd := s.grn.mem, regionsEnd := s.grn.regions } ∧
       t.lpl.buf[1 - s.lpl.scan] = t.lpl.work ∧ t.lpl.buf[s.lpl.scan] = s.lpl.buf[s.lpl.scan] ∧
       t.lpl.scan = s.lpl.scan ∧ t.grn.mem = s.grn.mem ∧ Keeps [.free, .grn, .cmp, .lpl, .rve] s t) ∧
  ((∀ (s : State) (l : Fin 8) (y : Fin 768) (f : Frame) (v : LayerView) (a : Nat), s.pwr.core = true →
     s.lpl.work = some f → f.finished = false → f.view[Fin.castSucc l] = some v →
     v.set.cfg.source = .host a → v.underrun = none → v.sym = none → bitOf s.cmp.late l.val = false →
     Answers (exec (.hostLineUnderrun l y) s) fun t =>
       (∃ g, t.lpl.work = some g ∧ g.unused = (f.unused || v.set.cfg.policy == .repeat') ∧
         g.view[Fin.castSucc l] = some { v with underrun := some (Gap.mk y.val
           (if v.set.cfg.policy = .substitute then .substitute else .drop) s.grn.marks s.grn.regions) }) ∧
       (t.cmp.layer[Fin.castSucc l]).lateCount =
         bump 65535 1 (s.cmp.layer[Fin.castSucc l]).lateCount ∧
       ⟨8, .note, BitVec.ofNat 32 (l.val + f.seq.toNat * 65536), false, s.now⟩ ∈ t.rve.inbox ∧
       Keeps [.free, .grn, .cmp, .lpl, .rve] s t) ∧
   (∀ (s : State) (n : Fin 9) (b : Fin 4) (p : Fin 1179648), s.pwr.core = true → bankRead n s = some b →
     Answers (exec (.coefParityFailure n p) s) fun t =>
       (t.cmp.bank[n][b]).state = .invalid ∧
       (t.cmp.layer[n]).parity = bump 255 1 (s.cmp.layer[n]).parity ∧
       (∀ f v, s.lpl.work = some f → f.view[n] = some v →
         ∃ g, t.lpl.work = some g ∧ g.view[n] = some { v with fallback := some p.val }) ∧
       Raised 9 (if n.val = 8 then .major else .minor) (n.val + b.val * 16) s t ∧
       (∀ m : Fin 9, m ≠ n → t.cmp.layer[m] = s.cmp.layer[m] ∧ t.cmp.bank[m] = s.cmp.bank[m]) ∧
       Keeps [.cmp, .lpl, .rve] s t) ∧
   ∀ (s : State) (n : Fin 9) (p : Fin 1179648), bankRead n s = none →
     exec (.coefParityFailure n p) s = .next s)

/-- Of R214, R224, R259, R261, R267, R277, R278 and R577 of spec/, while SYNC_IN governs the latch points. An interval
between edges within 2 percent of the period, and not shorter than active time and least blanking, counts as good;
the first edge begins an interval; a shorter interval, and every edge that is missing, counts as bad, and the fourth in
a row while locked is HOLDOVER with a MINOR. No lock in time ends the hold in HOLDOVER. TE_IN, with the core powered,
ends the waits of the entries that use it. The oldest echo window closes: where every expected echo came, no cause is
raised and the misses of those tiles are 0. A plane copy that has ended is ready for its
switch; the plane in force stays. -/
def Obligations.SyncAndEchoes : Prop :=
  (∀ (s : State) (e : Nat), syncGoverns s = true → s.lpl.lastEdge = some e →
    s.lpl.timing.period * 98 ≤ (s.now - e) * 100 → (s.now - e) * 100 ≤ s.lpl.timing.period * 102 →
    s.lpl.timing.active + 8000 ≤ s.now - e →
    Answers (exec .syncInEdge s) fun t =>
      t.lpl.goodRun = s.lpl.goodRun + 1 ∧ t.lpl.badRun = 0 ∧ t.lpl.lastEdge = some s.now ∧
      t.lpl.goodEdge = some s.now ∧ t.lpl.badEdges = s.lpl.badEdges ∧ Keeps [.lpl] s t) ∧
  (∀ s : State, syncGoverns s = true → s.lpl.lastEdge = none →
    exec .syncInEdge s = .next { s with lpl.lastEdge := some s.now }) ∧
  (∀ (s : State) (e : Nat), syncGoverns s = true → s.lpl.lastEdge = some e →
    (s.now - e) * 100 < s.lpl.timing.period * 98 →
    Answers (exec .syncInEdge s) fun t =>
      t.lpl.goodRun = 0 ∧ t.lpl.badRun = s.lpl.badRun + 1 ∧
      t.lpl.badEdges = bump 65535 1 s.lpl.badEdges ∧ Keeps [.lpl, .rve] s t) ∧
  (∀ s : State, syncGoverns s = true →
    Answers (exec .syncInMissing s) fun t =>
      t.lpl.goodRun = 0 ∧ t.lpl.badRun = s.lpl.badRun + 1 ∧
      t.lpl.badEdges = bump 65535 1 s.lpl.badEdges ∧
      (s.lpl.locked = true → s.lpl.badRun = 3 → s.lpl.syncLost = false →
        t.lpl.holdover = true ∧ t.lpl.syncLost = true ∧ t.lpl.locked = false ∧
        t.lpl.lockLosses = bump 65535 1 s.lpl.lockLosses ∧
        Raised 5 .minor (1 + s.lpl.composing.toNat * 65536) s t) ∧ Keeps [.lpl, .rve] s t) ∧
  (∀ s : State, syncGoverns s = true → s.lpl.hold = true →
    Answers (exec .syncLockTimeout s) fun t =>
      t.lpl.hold = false ∧ t.lpl.syncLost = true ∧ t.lpl.holdover = true ∧ Keeps [.lpl] s t) ∧
  (∀ s : State, s.pwr.core = true →
    Answers (exec .teInEdge s) fun t =>
      (∀ k : Fin 96, t.lpl.teWait[k] = if (s.lpl.map[k]).teIn then none else s.lpl.teWait[k]) ∧
      Keeps [.hdg, .lpl] s t) ∧
  (∀ (s : State) (w : EchoWin) (r : List EchoWin), s.pwr.hedge = true → s.hdg.echoWins = w :: r →
    w.expected = w.got →
    Answers (exec .echoWindowExpiry s) fun t =>
      t.hdg.echoWins = r ∧ t.hdg.cause = s.hdg.cause ∧
      (∀ k : Fin 96, w.expected.getLsbD k.val = true → (t.hdg.echo[k]).misses = 0) ∧
      Keeps [.hdg] s t) ∧
  ∀ (s : State) (b : Nat), s.pwr.core = true → s.pho.plane = some (.copying b) →
    Answers (exec .planeCopyComplete s) fun t =>
      t.pho.plane = some (.copied b) ∧ t.pho.planeBase = s.pho.planeBase ∧
      Keeps [.free, .grn, .mem, .pho, .rve, .yok] s t

/-- Of R407 to R416, R420 to R426 of spec/15_thermal_calibration.md, with the core powered. A plausible sample of a
valid on-die or remote sensor, as its entry reads it, moves the sensor's state by the rule of three, and no other
sensor; an implausible one is counted, and the third in a row makes the sensor BROKEN, counts it and raises a MINOR of
group 12. A sampling tick of a tile position with a fresh report that holds a temperature moves that position's
state by the same rule. A position without a report for its time is stale, and no other. A step in THROTTLE raises
the LIGHT level by one up to its highest; a hold that expires lowers the DIE level by one where a sensor of the
class is left. The longest time between runs starts a run of every item where none runs and the state allows it. A
step of a run outside the scan is done: a value within the limits is kept, another one makes its item fail. -/
def Obligations.ThermalSteps : Prop :=
  (∀ (s : State) (k : Fin 24) (i : Fin 120) (v : Int), s.pwr.core = true → i.val = k.val →
    (s.thm.sensor[k]).valid = true → plausible ((s.thm.sensor[k]).reading i.val v) = true →
    Answers (exec (.sensorSample i v) s) fun t =>
      (t.thm.sensor[k]).st = (s.thm.sensor[k]).st.step (thermClass (s.thm.sensor[k]).light s).lim
        ((s.thm.sensor[k]).reading i.val v) ∧
      (t.thm.sensor[k]).seen = true ∧
      ∀ j : Fin 24, j ≠ k → t.thm.sensor[j] = s.thm.sensor[j]) ∧
  (∀ (s : State) (k : Fin 24) (i : Fin 120) (v : Int), s.pwr.core = true → i.val = k.val →
    (s.thm.sensor[k]).valid = true → plausible ((s.thm.sensor[k]).reading i.val v) = false →
    (s.thm.sensor[k]).st.badRun < 2 →
    Answers (exec (.sensorSample i v) s) fun t =>
      (t.thm.sensor[k]).st = { (s.thm.sensor[k]).st with badRun := (s.thm.sensor[k]).st.badRun + 1 } ∧
      Keeps [.thm] s t) ∧
  (∀ (s : State) (k : Fin 24) (i : Fin 120) (v : Int), s.pwr.core = true → i.val = k.val →
    (s.thm.sensor[k]).valid = true → plausible ((s.thm.sensor[k]).reading i.val v) = false →
    2 ≤ (s.thm.sensor[k]).st.badRun →
    Answers (exec (.sensorSample i v) s) fun t =>
      (t.thm.sensor[k]).st.broken = true ∧ t.thm.brokenCnt = bump 255 1 s.thm.brokenCnt ∧
      ⟨12, .minor, BitVec.ofNat 32 k.val, false, s.now⟩ ∈ t.rve.inbox) ∧
  (∀ (s : State) (k : Fin 96) (i : Fin 120) (v : Int), s.pwr.core = true → i.val = 24 + k.val →
    (s.thm.tile[k]).fresh = true → tileTempOk (s.thm.tile[k]) = true →
    Answers (exec (.sensorSample i v) s) fun t =>
      t.thm.tile[k] = { s.thm.tile[k] with
        st := (s.thm.tile[k]).st.step s.thm.light.lim (sfield (s.thm.tile[k]).report 0 16),
        fresh := false, sampled := true } ∧
      ∀ j : Fin 96, j ≠ k → t.thm.tile[j] = s.thm.tile[j]) ∧
  (∀ (s : State) (k : Fin 96), s.pwr.core = true →
    Answers (exec (.tileTempStale k) s) fun t =>
      (t.thm.tile[k]).stale = true ∧ ∀ j : Fin 96, j ≠ k → t.thm.tile[j] = s.thm.tile[j]) ∧
  (∀ s : State, s.pwr.core = true → 2 ≤ lightState s →
    Answers (exec (.throttleStep true) s) fun t =>
      t.thm.light.level = (if s.thm.light.level < s.thm.light.maxLevel then s.thm.light.level + 1
        else s.thm.light.level) ∧ t.thm.die = s.thm.die ∧ Keeps [.thm] s t) ∧
  (∀ s : State, s.pwr.core = true → s.thm.die.allBroken = false →
    Answers (exec (.throttleHoldExpiry false) s) fun t =>
      t.thm.die.level = s.thm.die.level - 1 ∧ t.thm.light = s.thm.light ∧ Keeps [.thm] s t) ∧
  (∀ s : State, s.pwr.core = true → s.thm.calMaxS ≠ 0 → s.thm.run = none → calAllowed s = true →
    Answers (exec .calMaxTimer s) fun t =>
      (∃ r, t.thm.run = some r ∧ r.items = 0x1F ∧ r.cmd = none) ∧ Keeps [.thm] s t) ∧
  ∀ (s : State) (r : CalRun) (x : CalStep) (l : List CalStep) (v : Int), s.thm.run = some r →
    r.steps = x :: l → s.lpl.scanning = false → x.item ≠ 3 →
    Answers (exec (.calStep v) s) fun t =>
      (∃ q, t.thm.run = some q ∧ q.steps = l ∧ q.usedVbi = true ∧
        (if trimOk x v s = true then q.values = r.values ++ [(x, v)] ∧ q.failed = r.failed
        else q.values = r.values ∧ q.failed = r.failed ||| BitVec.ofNat 5 (2 ^ x.item))) ∧
      Keeps [.thm] s t

/-- Of R78 to R80 and R482 to R485 of spec/02_host_rings.md and spec/18_bellhouse_ethernet.md, on a port that receives,
for frames it accepts. A well-formed command datagram of an allowed sender, neither repeated nor stale, joins the
port's queue with its descriptors while there is room, and its sender is remembered; one that repeats the sender's
last has its cached reply sent again, marked DUPLICATE, and is not queued. A well-formed bulk datagram waits behind a
command, and with nothing waiting is handled and answered at once. A malformed datagram is counted in HIF_CMDQ_DROP of
its port and nothing else. Once every descriptor of the only datagram under way has completed, its reply is queued and
cached for its sender. -/
def Obligations.Datagrams : Prop :=
  (∀ (s : State) (p : Fin 2) (f : RxFrame), macUp p s = true → f.fcsOk = true →
    frameOk s.eth.port[p] f false (rowUdp 47810 s.eth.port[p] f) = true → cmdBad f.payload = false →
    allowed s.eth.port[p] f.from'.ip = true →
    (∀ x, (s.eth.port[p]).senders.find? (fun y => y.ip == f.from'.ip && y.port == f.from'.port) = some x →
      x.sequence ≠ BitVec.ofNat 32 (hdr f.payload 4 4) ∧
      (BitVec.ofNat 32 (hdr f.payload 4 4) - x.sequence).msb = false) →
    (s.eth.port[p]).queue.length < 64 →
    Answers (exec (.commandDatagramReceived p f) s) fun t =>
      (t.eth.port[p]).queue = (s.eth.port[p]).queue ++
        [.cmd s.eth.nextKey f.from' (BitVec.ofNat 32 (hdr f.payload 4 4)) (cmdDescs f.payload) 0 s.now] ∧
      (t.eth.port[p]).senders = rememberSender (s.eth.port[p]).senders
        ⟨f.from'.ip, f.from'.port, BitVec.ofNat 32 (hdr f.payload 4 4), none⟩ ∧
      (t.eth.port[p]).execs = (s.eth.port[p]).execs ++ [⟨s.eth.nextKey, f.from',
        BitVec.ofNat 32 (hdr f.payload 4 4), (cmdDescs f.payload).length, []⟩] ∧
      t.eth.nextKey = s.eth.nextKey + 1 ∧ t.eth.port[1 - p] = s.eth.port[1 - p] ∧ Keeps [.eth] s t) ∧
  (∀ (s : State) (p : Fin 2) (f : RxFrame) (x : Sender) (r : List Byte), macUp p s = true → f.fcsOk = true →
    frameOk s.eth.port[p] f false (rowUdp 47810 s.eth.port[p] f) = true → cmdBad f.payload = false →
    allowed s.eth.port[p] f.from'.ip = true →
    (s.eth.port[p]).senders.find? (fun y => y.ip == f.from'.ip && y.port == f.from'.port) = some x →
    x.sequence = BitVec.ofNat 32 (hdr f.payload 4 4) → x.reply = some r →
    (s.eth.port[p]).queue.length < 64 →
    Answers (exec (.commandDatagramReceived p f) s) fun t =>
      (t.eth.port[p]).egress[replyQueue p s] = (s.eth.port[p]).egress[replyQueue p s] ++
        [⟨.udpReply f.from' 47810 (r.set 9 1), none, true⟩] ∧
      (t.eth.port[p]).queue = (s.eth.port[p]).queue ∧ t.eth.port[1 - p] = s.eth.port[1 - p] ∧
      Keeps [.eth] s t) ∧
  (∀ (s : State) (p : Fin 2) (f : RxFrame) (k : Nat) (a : Peer) (b : BitVec 32) (l : List Desc) (n c : Nat)
    (r : List Datagram), macUp p s = true → f.fcsOk = true →
    frameOk s.eth.port[p] f false (rowUdp 47811 s.eth.port[p] f) = true → bulkBad f.payload = false →
    allowed s.eth.port[p] f.from'.ip = true → (s.eth.port[p]).queue = .cmd k a b l n c :: r →
    (s.eth.port[p]).queue.length < 64 →
    Answers (exec (.bulkDatagramReceived p f) s) fun t =>
      (t.eth.port[p]).queue = (s.eth.port[p]).queue ++
        [.bulk f.from' (f.payload.take 32) (f.payload.drop 32)] ∧
      t.eth.port[1 - p] = s.eth.port[1 - p] ∧ Keeps [.eth] s t) ∧
  (∀ (s : State) (p : Fin 2) (f : RxFrame), macUp p s = true → f.fcsOk = true →
    frameOk s.eth.port[p] f false (rowUdp 47811 s.eth.port[p] f) = true → bulkBad f.payload = false →
    allowed s.eth.port[p] f.from'.ip = true → (s.eth.port[p]).queue = [] → serves (.eth p 0 0) s = true →
    Answers (exec (.bulkDatagramReceived p f) s) fun t =>
      (t.eth.port[p]).queue = [] ∧
      ∃ st, (t.eth.port[p]).egress[replyQueue p s] = (s.eth.port[p]).egress[replyQueue p s] ++
        [⟨.udpReply f.from' 47811 (bulkReply (f.payload.take 32) st), none, true⟩]) ∧
  (∀ (s : State) (p : Fin 2) (f : RxFrame), macUp p s = true → f.fcsOk = true →
    (frameOk s.eth.port[p] f false (rowUdp 47810 s.eth.port[p] f) = true → cmdBad f.payload = true → Answers (exec (.commandDatagramReceived p f) s) fun t =>
      t.hif.cmdqDrop[p] = bump 65535 1 s.hif.cmdqDrop[p] ∧
      t.hif.cmdqDrop[1 - p] = s.hif.cmdqDrop[1 - p] ∧ Keeps [.hif] s t) ∧
    (frameOk s.eth.port[p] f false (rowUdp 47811 s.eth.port[p] f) = true → bulkBad f.payload = true → Answers (exec (.bulkDatagramReceived p f) s) fun t =>
      t.hif.cmdqDrop[p] = bump 65535 1 s.hif.cmdqDrop[p] ∧
      t.hif.cmdqDrop[1 - p] = s.hif.cmdqDrop[1 - p] ∧ Keeps [.hif] s t)) ∧
  ∀ (s : State) (p : Fin 2) (x : Exec), coresUp s = true → (s.eth.port[p]).execs = [x] →
    x.done.length = x.count → (s.eth.port[p]).link = true →
    Answers (exec (.datagramReply p) s) fun t =>
      (t.eth.port[p]).execs = [] ∧
      ((t.eth.port[p]).egress[replyQueue p s] = (s.eth.port[p]).egress[replyQueue p s] ++
        [⟨.udpReply x.peer 47810 (replyBytes x), none, true⟩]) ∧
      (∀ y ∈ (s.eth.port[p]).senders, y.ip = x.peer.ip → y.port = x.peer.port →
        y.sequence = x.sequence → { y with reply := some (replyBytes x) } ∈ (t.eth.port[p]).senders) ∧
      t.eth.port[1 - p] = s.eth.port[1 - p] ∧ Keeps [.eth] s t

/-- Of R479 to R481, R486 and R487 of spec/18_bellhouse_ethernet.md. On a port that receives, an accepted ARP request is
answered in queue 1, and an accepted echo request too while fewer than 16 have been answered. A link of an enabled
port that comes up outside a loop test begins the port's PTP and queues a gratuitous ARP; one that goes down discards
the queued frames, counts them and raises a MINOR of the port's group. On a port that sends, a held frame at the head
of its queue becomes eligible when network time has reached its launch time, and the only queue with frames sends its
head frame, tagged as the port's VLAN says. The other port stays as it is throughout. -/
def Obligations.EthernetFrames : Prop :=
  (∀ (s : State) (p : Fin 2) (f : RxFrame), macUp p s = true → f.fcsOk = true →
    frameOk s.eth.port[p] f false (rowArp s.eth.port[p] f) = true →
    Answers (exec (.arpRequestReceived p f) s) fun t =>
      ((t.eth.port[p]).egress[(1 : Fin 8)] = (s.eth.port[p]).egress[(1 : Fin 8)] ++
        [⟨.arpReply f.from', none, true⟩]) ∧
      (∀ q : Fin 8, q ≠ 1 → (t.eth.port[p]).egress[q] = (s.eth.port[p]).egress[q]) ∧
      t.eth.port[1 - p] = s.eth.port[1 - p] ∧ Keeps [.eth] s t) ∧
  (∀ (s : State) (p : Fin 2) (f : RxFrame), macUp p s = true → f.fcsOk = true →
    frameOk s.eth.port[p] f false (rowIcmp s.eth.port[p] f) = true → (s.eth.port[p]).echoes < 16 →
    Answers (exec (.icmpEchoReceived p f) s) fun t =>
      ((t.eth.port[p]).egress[(1 : Fin 8)] = (s.eth.port[p]).egress[(1 : Fin 8)] ++
        [⟨.echoReply f.from' f.payload, none, true⟩]) ∧ 1 ≤ (t.eth.port[p]).echoes ∧
      t.eth.port[1 - p] = s.eth.port[1 - p] ∧ Keeps [.eth] s t) ∧
  (∀ (s : State) (p : Fin 2), s.pwr.core = true → (s.eth.port[p]).enabled = true →
    (s.eth.port[p]).link = false → s.tst.job = none →
    Answers (exec (.ethLinkUp p) s) fun t =>
      (t.eth.port[p]).link = true ∧ (t.eth.port[p]).ptpState = (s.eth.port[p]).firstPtp ∧
      ((t.eth.port[p]).egress[(1 : Fin 8)] = (s.eth.port[p]).egress[(1 : Fin 8)] ++
        [⟨.gratuitousArp, none, true⟩]) ∧
      t.eth.port[1 - p] = s.eth.port[1 - p] ∧ Keeps [.eth] s t) ∧
  (∀ (s : State) (p : Fin 2), s.pwr.core = true → (s.eth.port[p]).link = true →
    Answers (exec (.ethLinkDown p) s) fun t =>
      (t.eth.port[p]).link = false ∧ (∀ q : Fin 8, (t.eth.port[p]).egress[q] = []) ∧
      (t.eth.port[p]).txDropped = bump 65535
        (((List.finRange 8).map fun q => ((s.eth.port[p]).egress[q]).length).sum) (s.eth.port[p]).txDropped ∧
      t.eth.port[1 - p] = s.eth.port[1 - p] ∧
      ∃ l, t.rve.inbox = s.rve.inbox ++ ⟨36 + p.val, .minor, 1#32, false, s.now⟩ :: l) ∧
  (∀ (s : State) (p : Fin 2) (q : Fin 8) (g : EgFrame) (r : List EgFrame) (k : Int), macSends p s = true →
    (s.eth.port[p]).egress[q] = g :: r → g.launch = some k →
    Answers (exec (.ethLaunchEligible p q) s) fun t =>
      ((t.eth.port[p]).egress[q] = { g with eligible := decide (k ≤ netTime s) } :: r) ∧
      (∀ j : Fin 8, j ≠ q → (t.eth.port[p]).egress[j] = (s.eth.port[p]).egress[j]) ∧
      t.eth.port[1 - p] = s.eth.port[1 - p] ∧ Keeps [.eth] s t) ∧
  ∀ (s : State) (p : Fin 2) (g : EgFrame) (r : List EgFrame), macSends p s = true →
    (∀ q : Fin 8, q ≠ 1 → (s.eth.port[p]).egress[q] = []) →
    (s.eth.port[p]).egress[(1 : Fin 8)] = g :: r → g.launch = none →
    (∀ m a b c, g.payload ≠ .ptp m a b c) →
    Answers (exec (.ethFrameTransmit p) s) fun t =>
      ((t.eth.port[p]).egress[(1 : Fin 8)] = r) ∧
      (∃ stamp, Sent [.eth p { g with eligible := true } stamp (egressTag p 1 g.payload s) false none] s t) ∧
      t.eth.port[1 - p] = s.eth.port[1 - p] ∧ Keeps [.eth, .free, .out] s t

/-- Of R481, R487, R493 to R497 and R499 of spec/18_bellhouse_ethernet.md, on a port that receives and whose firmware
runs PTP, for messages it accepts over the transport and of the domain it is set to. A Sync of the time source is counted; a two-step
one waits for its Follow_Up, a one-step one gives the offset's difference at once, and the Follow_Up of the Sync that
waits gives it with both corrections. A Pdelay_Req outside the default profile is answered with its receipt time, and
so is a Delay_Req to a master of that profile. The Follow_Up of a peer delay answer gives the path delay with
neighborRateRatio, and the stamps of the next one. An Announce of another clock, fewer than 255 steps away, is
remembered; where no other clock is heard and the other port has no link and is no source, a better data set than the device's own,
its clockClass above 127, makes the port the source under that parent, with its UTC fields, and a worse one makes it
a master as its ROLE admits (the comparison is log entry 151's). A management message is discarded and counted. A master's timer queues its
Sync for the next point of its grid. A time source that falls silent, in Syncs or in Announces, ends LOCKED in
HOLDOVER with a MINOR of group 38 and leaves network time, while no interrupt is asked for; the other port stays as it
is where a port is named, but for the stamps of its last peer delay exchange, which a step of time drops. -/
def Obligations.PrecisionTime : Prop :=
  (∀ (s : State) (p : Fin 2) (f : RxFrame) (m : PtpIn), macUp p s = true → f.fcsOk = true →
    frameOk s.eth.port[p] f (isGptp p s) (rowPtp s.eth.port[p] f) = true →
    m.domain = (s.eth.port[p]).ptp.domain → ptpRuns p s = true → isSource p s = true →
    m.twoStep = true →
    Answers (exec (.syncReceived p f m) s) fun t =>
      (t.eth.port[p]).syncRx = bump 65535 1 (s.eth.port[p]).syncRx ∧
      (t.eth.port[p]).syncWait = some ⟨m.seq, ingress p m s, m.correction⟩ ∧
      t.eth.port[1 - p] = s.eth.port[1 - p] ∧ t.bel = s.bel ∧ Keeps [.eth] s t) ∧
  (∀ (s : State) (p : Fin 2) (f : RxFrame) (m : PtpIn), macUp p s = true → f.fcsOk = true → frameOk s.eth.port[p] f (isGptp p s) (rowPtp s.eth.port[p] f) = true →
    m.domain = (s.eth.port[p]).ptp.domain → ptpRuns p s = true →
    isSource p s = true → m.twoStep = false →
    Answers (exec (.syncReceived p f m) s) fun t =>
      (t.eth.port[p]).syncRx = bump 65535 1 (s.eth.port[p]).syncRx ∧
      (t.eth.port[p]).syncDiff = ingress p m s - m.time - (m.correction + (s.eth.port[p]).asym) ∧
      (t.eth.port[p]).syncWait = none ∧ (t.eth.port[p]).ptpState = .slave ∧
      t.eth.port[1 - p] = { s.eth.port[1 - p] with turn := (t.eth.port[1 - p]).turn }) ∧
  (∀ (s : State) (p : Fin 2) (f : RxFrame) (m : PtpIn) (w : SyncWait), macUp p s = true → f.fcsOk = true →
    frameOk s.eth.port[p] f (isGptp p s) (rowPtp s.eth.port[p] f) = true →
    m.domain = (s.eth.port[p]).ptp.domain → ptpRuns p s = true → isSource p s = true →
    (s.eth.port[p]).syncWait = some w → w.seq = m.seq →
    Answers (exec (.followUpReceived p f m) s) fun t =>
      (t.eth.port[p]).syncWait = none ∧ (t.eth.port[p]).ptpState = .slave ∧
      (t.eth.port[p]).syncDiff =
        w.ingress - m.time - (w.correction + m.correction + (s.eth.port[p]).asym) ∧
      t.eth.port[1 - p] = { s.eth.port[1 - p] with turn := (t.eth.port[1 - p]).turn }) ∧
  (∀ (s : State) (p : Fin 2) (f : RxFrame) (m : PtpIn), macUp p s = true → f.fcsOk = true →
    frameOk s.eth.port[p] f (isGptp p s) (rowPtp s.eth.port[p] f) = true →
    m.domain = (s.eth.port[p]).ptp.domain → ptpRuns p s = true →
    (s.eth.port[p]).ptp.profile ≠ 0 →
    Answers (exec (.delayExchangeMessageReceived p f .pdelayReq m) s) fun t =>
      ((t.eth.port[p]).egress[(7 : Fin 8)] = (s.eth.port[p]).egress[(7 : Fin 8)] ++
        [⟨.ptp .pdelayResp m.seq (ingress p m s) m.correction, none, true⟩]) ∧
      t.eth.port[1 - p] = s.eth.port[1 - p] ∧ Keeps [.eth] s t) ∧
  (∀ (s : State) (p : Fin 2) (f : RxFrame) (m : PtpIn), macUp p s = true → f.fcsOk = true → frameOk s.eth.port[p] f (isGptp p s) (rowPtp s.eth.port[p] f) = true →
    m.domain = (s.eth.port[p]).ptp.domain → ptpRuns p s = true →
    (s.eth.port[p]).ptp.profile = 0 → (s.eth.port[p]).ptpState = .master →
    Answers (exec (.delayExchangeMessageReceived p f .delayReq m) s) fun t =>
      ((t.eth.port[p]).egress[(6 : Fin 8)] = (s.eth.port[p]).egress[(6 : Fin 8)] ++
        [⟨.ptp .delayResp m.seq (ingress p m s) m.correction, none, true⟩]) ∧
      t.eth.port[1 - p] = s.eth.port[1 - p] ∧ Keeps [.eth] s t) ∧
  (∀ (s : State) (p : Fin 2) (f : RxFrame) (m : PtpIn) (t1 : Int) (w : PdelayWait) (r : Rat), macUp p s = true →
    f.fcsOk = true → frameOk s.eth.port[p] f (isGptp p s) (rowPtp s.eth.port[p] f) = true →
    m.domain = (s.eth.port[p]).ptp.domain → ptpRuns p s = true → (s.eth.port[p]).ptp.profile ≠ 0 →
    (s.eth.port[p]).delayT3 = some t1 → (s.eth.port[p]).pdelay = some w → w.seq = m.seq →
    r = rateRatio s.eth.port[p] (some (m.time + w.correction + m.correction)) w.t4 →
    Answers (exec (.delayExchangeMessageReceived p f .pdelayRespFollowUp m) s) fun t =>
      (t.eth.port[p]).pathDelay =
        roundEven (roundRat (r * (w.t4 - t1 : Int)) - (m.time - w.t2) - (w.correction + m.correction)) 2 ∧
      (t.eth.port[p]).ratio = r ∧
      (t.eth.port[p]).turn = some (m.time + w.correction + m.correction, w.t4) ∧
      t.eth.port[1 - p] = s.eth.port[1 - p] ∧ Keeps [.eth] s t) ∧
  (∀ (s : State) (p : Fin 2) (f : RxFrame) (a : AnnounceIn), macUp p s = true → f.fcsOk = true →
    frameOk s.eth.port[p] f (isGptp p s) (rowPtp s.eth.port[p] f) = true →
    a.domain = (s.eth.port[p]).ptp.domain → ptpRuns p s = true → a.data.sender ≠ clockIdentity s →
    a.data.steps < 255 →
    Answers (exec (.announceReceived p f a) s) fun t =>
      (∃ x ∈ (t.eth.port[p]).foreign, x.data = a.data ∧ x.at' = s.now) ∧
      (t.eth.port[1 - p]).foreign = (s.eth.port[1 - p]).foreign ∧ netTime t = netTime s) ∧
  (∀ (s : State) (p : Fin 2) (f : RxFrame) (a : AnnounceIn), macUp p s = true → f.fcsOk = true →
    frameOk s.eth.port[p] f (isGptp p s) (rowPtp s.eth.port[p] f) = true →
    a.domain = (s.eth.port[p]).ptp.domain → decides p s = true → coresUp s = true →
    a.data.sender ≠ clockIdentity s → a.data.steps < 255 → (s.eth.port[1 - p]).link = false → isSource (1 - p) s = false →
    (s.eth.port[p]).ptp.role ≠ 3 → 127 < (ownData s).clockClass →
    (∀ x ∈ (s.eth.port[p]).foreign, x.data.sender = a.data.sender ∧ x.data.senderPort = a.data.senderPort) →
    ((s.eth.port[p]).ptp.profile = 2 ∨ ∃ x ∈ (s.eth.port[p]).foreign, x.fresh s.eth.port[p] s = true) →
    Answers (exec (.announceReceived p f a) s) fun t =>
      ((ownData s).better a.data = false →
        ((t.eth.port[p]).ptpState = .uncalibrated ∨ (t.eth.port[p]).ptpState = .slave) ∧
        (t.eth.port[p]).parent = some a.data ∧ t.bel.utcOffset = a.utcOffset ∧
        t.bel.utcValid = a.utcValid ∧ t.bel.leap59 = a.leap59 ∧ t.bel.leap61 = a.leap61) ∧
      ((ownData s).better a.data = true → (t.eth.port[p]).parent = none ∧
        (t.eth.port[p]).ptpState = (if (s.eth.port[p]).ptp.role = 1 then .listening
          else if (s.eth.port[p]).ptpState = .preMaster then
            (if (s.eth.port[p]).ptp.profile = 2 then .master else .preMaster)
          else .master))) ∧
  (∀ (s : State) (p : Fin 2) (f : RxFrame), macUp p s = true → f.fcsOk = true →
    frameOk s.eth.port[p] f (isGptp p s) (rowPtp s.eth.port[p] f) = true →
    Answers (exec (.managementMessageReceived p f) s) fun t =>
      (t.eth.port[p]).ptpIgnored = bump 65535 1 (s.eth.port[p]).ptpIgnored ∧
      t.eth.port[1 - p] = s.eth.port[1 - p] ∧ Keeps [.eth] s t) ∧
  (∀ (s : State) (p : Fin 2), macSends p s = true → ptpRuns p s = true →
    (s.eth.port[p]).ptpState = .master →
    Answers (exec (.ptpMessageTransmitTimer p .sync) s) fun t =>
      ((t.eth.port[p]).egress[(7 : Fin 8)] = (s.eth.port[p]).egress[(7 : Fin 8)] ++
        [⟨.ptp .sync (s.eth.port[p]).syncSeq 0 0,
          some (syncGrid (s.eth.port[p]).ptp.logSync (netTime s)), false⟩]) ∧
      (t.eth.port[p]).syncSeq = ((s.eth.port[p]).syncSeq + 1) % 65536 ∧
      t.eth.port[1 - p] = s.eth.port[1 - p] ∧ Keeps [.eth] s t) ∧
  (∀ (s : State) (p : Fin 2), coresUp s = true → sourcePort s = some p → s.bel.state = .locked →
    s.bel.onLock = false →
    Answers (exec .syncReceiptTimeout s) fun t =>
      t.bel.state = .holdover ∧ t.bel.lockLosses = bump 65535 1 s.bel.lockLosses ∧
      netTime t = netTime s ∧ Raised 38 .minor (2 + p.val * 16 + (composingSeq s).toNat * 65536) s t ∧
      Keeps [.bel, .rve] s t) ∧
  ∀ (s : State) (p : Fin 2), coresUp s = true → sourcePort s = some p → s.bel.state = .locked →
    s.bel.onLock = false →
    Answers (exec .announceReceiptTimeout s) fun t =>
      t.bel.state = .holdover ∧ t.bel.lockLosses = bump 65535 1 s.bel.lockLosses ∧
      (t.eth.port[p]).parent = none ∧ netTime t = netTime s ∧
      Raised 38 .minor (3 + p.val * 16 + (composingSeq s).toNat * 65536) s t ∧ Keeps [.bel, .rve, .eth] s t

/-- Of R488, R490, R501 to R503 and R537 of spec/18_bellhouse_ethernet.md and spec/20_test.md. A rebase of the powered
Bellhouse leaves network time, counter and rate as they are; where the counter wraps, OFFSET takes up what it loses.
An armed alarm whose time has come, outside SLEEP with KEEP_TIME, fires: it is disarmed and fired, the other alarms
and network time stay, and its message is sent where one is asked for and its vector is open. A pulse that is due
begins, and ends once its width has passed, when a pending setting that does not start a pulse at once takes its
place; the other outputs stay. A frame of the Ethernet test that came back is judged by its FCS and its content, and
one that did not come back has failed; with frames left the test goes on to the next. -/
def Obligations.NetworkTime : Prop :=
  (∀ s : State, s.bel.powered = true →
    Answers (exec .belRebase s) fun t =>
      netTime t = netTime s ∧ t.bel.frcRef = s.bel.frc ∧ t.bel.frc = s.bel.frc ∧
      t.bel.rate = s.bel.rate ∧ Keeps [.bel] s t) ∧
  (∀ s : State, s.bel.powered = true → 2 ^ 64 ≤ s.bel.frc + s.bel.cycle →
    Answers (exec .frcWrap s) fun t =>
      (t.bel.frc : Int) + t.bel.offset = s.bel.frc + s.bel.offset + s.bel.cycle ∧
      t.bel.frc = s.bel.frc + s.bel.cycle - 2 ^ 64 ∧ t.bel.frcRef = s.bel.frcRef ∧ Keeps [.bel] s t) ∧
  (∀ (s : State) (a : Fin 4), s.bel.powered = true → (s.bel.alarm[a]).armed = true →
    mkTime (s.bel.alarm[a]).s (s.bel.alarm[a]).ns ≤ netTime s →
    ¬(s.pwr.state = .sleep ∧ s.pwr.keepTime = true) →
    Answers (exec (.alarmFire a) s) fun t =>
      (t.bel.alarm[a]).armed = false ∧ (t.bel.alarm[a]).fired = true ∧
      (∀ b : Fin 4, b ≠ a → t.bel.alarm[b] = s.bel.alarm[b]) ∧ netTime t = netTime s ∧
      (if s.bel.onAlarm = true ∧ s.bel.irqEn = true then
        vectorOpen s.bel.vector s = true → Sent [msixMsg s.bel.vector s] s t
      else t.out = s.out) ∧ Keeps [.bel, .out, .hif] s t) ∧
  (∀ (s : State) (o : Fin 4), pulseDue o s = true →
    Answers (exec (.pulseEdge o) s) fun t =>
      (t.bel.pulse[o]).active = some s.bel.frc ∧ Sent [.pps o true] s t ∧
      (∀ b : Fin 4, b ≠ o → t.bel.pulse[b] = s.bel.pulse[b]) ∧ Keeps [.bel, .out] s t) ∧
  (∀ (s : State) (o : Fin 4) (f : Nat), (s.bel.pulse[o]).active = some f →
    (s.bel.pulse[o]).cfg.width * 65536 < (s.bel.frc + 2 ^ 64 - f) % 2 ^ 64 + s.bel.cycle →
    (∀ c, (s.bel.pulse[o]).pending = some c → c.passed s = false) →
    Answers (exec (.pulseEnd o) s) fun t =>
      (t.bel.pulse[o]).active = none ∧ Sent [.pps o false] s t ∧
      (∀ c, (s.bel.pulse[o]).pending = some c →
        (t.bel.pulse[o]).cfg = c ∧ (t.bel.pulse[o]).pending = none) ∧
      (∀ b : Fin 4, b ≠ o → t.bel.pulse[b] = s.bel.pulse[b]) ∧ Keeps [.bel, .out] s t) ∧
  ∀ (s : State) (j : TestJob) (left failed : Nat) (sent data : List Byte), s.pwr.core = true →
    s.tst.job = some j → j.phase = .frames left failed (some sent) → 2 ≤ left →
    (∀ ok : Bool, Answers (exec (.ethLoopFrameReturned ok data) s) fun t =>
      (∃ x, t.tst.job = some x ∧ x.phase = .frames (left - 1)
        (if ok && data == sent then failed else failed + 1) none)) ∧
    Answers (exec .ethLoopFrameTimeout s) fun t =>
      ∃ x, t.tst.job = some x ∧ x.phase = .frames (left - 1) (failed + 1) none

/-- Of R31, R132, R386 to R389, R392 to R397, R400, R501, R522 and R523 of spec/14_power_wake.md,
spec/18_bellhouse_ethernet.md and spec/19_management_aux.md. At its last step a low-power entry past its commit point,
with no wake event latched, powers the core and Hedge domains down and asks for the supplies its target keeps; in
SLEEP the Granary keeps its bytes in retention, and with KEEP_TIME network time goes on. In a low-power state with no
wake under way, an enabled wake source that the state allows is recorded and starts a wake, warm from SLEEP with the
Granary intact, else cold, and one that is not enabled does nothing, but that the level of WAKE is kept; so does an alarm in SLEEP with KEEP_TIME. A
Nightwatch visit inside its window sets the count back to 0, one outside counts up, and the one that reaches the
debounce wakes where that source is enabled. In SLEEP the always-on domain serves its own I2C indices and refuses
others, which wakes where that source is enabled. -/
def Obligations.LowPowerStates : Prop :=
  (∀ (s : State) (e : LowEntry), s.pwr.entry = some e → e.committed = true → s.pwr.latched = false →
    Answers (exec .lowPowerPowerdown s) fun t =>
      t.pwr.state = e.target ∧ t.pwr.lastState = s.pwr.state ∧ t.pwr.core = false ∧ t.pwr.hedge = false ∧
      t.pwr.entry = none ∧ t.pwr.start = none ∧ t.pwr.regEnSram = (e.target == .sleep) ∧
      t.pwr.regEnCore = (e.target == .sleep && e.keepTime) ∧
      (e.target = .sleep → t.grn.mem = s.grn.mem ∧ t.grn.retention = true) ∧
      (e.target = .sleep → e.keepTime = true → netTime t = netTime s)) ∧
  (∀ s : State, exec (.wakePinEvent false) s = .next { s with pwr.wakeHigh := false }) ∧
  (∀ (s : State) (b : Fin 6) (i : Instr), (b = 1 ∧ i = .wakePinEvent true) ∨ (b = 2 ∧ i = .wakeSafeInEvent) ∨
      (b = 5 ∧ i = .wakePcieSquelch) →
    (s.pwr.wakeEn.getLsbD b.val = false →
      exec i s = .next (if b = 1 then { s with pwr.wakeHigh := true } else s)) ∧
    (s.pwr.wakeEn.getLsbD b.val = true → s.pwr.entry = none → s.pwr.start = none →
      (s.pwr.state = .sleep ∨ s.pwr.state = .nightwatch ∨ s.pwr.state = .dormant) →
      Answers (exec i s) fun t =>
        (∃ st, t.pwr.start = some st ∧ st.since = s.now ∧
          st.kind = (if s.pwr.state = .sleep ∧ s.grn.lost = false then .warm else .cold)) ∧
        t.pwr.wakeSrc = s.pwr.wakeSrc ||| BitVec.ofNat 6 (2 ^ b.val) ∧ t.pwr.regEnCore = true ∧
        t.pwr.regEnSram = true ∧ t.pwr.hedge = true ∧ t.grn.mem = s.grn.mem ∧
        (s.pwr.regEnCore = false → Keeps [.pwr, .grn, .saved] s t) ∧
        Keeps [.free, .out, .pwr, .bel, .rve, .grn, .saved] s t)) ∧
  (∀ (s : State) (a : Fin 4), s.bel.powered = true → (s.bel.alarm[a]).armed = true →
    mkTime (s.bel.alarm[a]).s (s.bel.alarm[a]).ns ≤ netTime s → s.pwr.state = .sleep →
    s.pwr.keepTime = true → s.pwr.wakeEn.getLsbD 4 = true → s.pwr.entry = none → s.pwr.start = none →
    Answers (exec (.alarmFire a) s) fun t =>
      (t.bel.alarm[a]).fired = true ∧ t.pwr.start.isSome = true ∧
      t.pwr.wakeSrc = s.pwr.wakeSrc ||| 0x10#6) ∧
  (∀ (s : State) (a : BitVec 12) (x : Tab Int 4) (y : Tab Int 8), s.pwr.state = .nightwatch →
    s.pwr.start = none → visitOutside a.toNat ((visitTemps x y s).filter plausible) s.pwr = false →
    1 ≤ s.pwr.nwDebounce →
    Answers (exec (.nightwatchVisit a x y) s) fun t =>
      t.pwr.nwAmbient = a.toNat ∧ t.pwr.nwOutside = 0 ∧ t.pwr.start = none ∧ Keeps [.pwr] s t) ∧
  (∀ (s : State) (a : BitVec 12) (x : Tab Int 4) (y : Tab Int 8), s.pwr.state = .nightwatch →
    s.pwr.start = none → visitOutside a.toNat ((visitTemps x y s).filter plausible) s.pwr = true →
    s.pwr.nwOutside + 1 < s.pwr.nwDebounce → s.pwr.nwDebounce ≤ 15 →
    Answers (exec (.nightwatchVisit a x y) s) fun t =>
      t.pwr.nwAmbient = a.toNat ∧ t.pwr.nwOutside = s.pwr.nwOutside + 1 ∧ t.pwr.start = none ∧
      Keeps [.pwr] s t) ∧
  (∀ (s : State) (a : BitVec 12) (x : Tab Int 4) (y : Tab Int 8), s.pwr.state = .nightwatch →
    s.pwr.start = none → visitOutside a.toNat ((visitTemps x y s).filter plausible) s.pwr = true →
    s.pwr.nwDebounce ≤ s.pwr.nwOutside + 1 → s.pwr.nwDebounce ≤ 15 → s.pwr.wakeEn.getLsbD 3 = true →
    s.pwr.entry = none →
    Answers (exec (.nightwatchVisit a x y) s) fun t =>
      t.pwr.nwAmbient = a.toNat ∧ (∃ st, t.pwr.start = some st ∧ st.kind = .cold) ∧
      t.pwr.wakeSrc = s.pwr.wakeSrc ||| 0x08#6) ∧
  (∀ (s : State) (k : Byte), s.pwr.core = false → s.pwr.state = .sleep → s.pwr.entry = none →
    Answers (exec (.i2cLowPowerTransaction (.write k [])) s) fun t =>
      if (0x04 ≤ k.toNat ∧ k.toNat ≤ 0x07) ∨ (0x80 ≤ k.toNat ∧ k.toNat ≤ 0x9F) then
        t.mgt.index = k.toNat ∧ Sent [.i2c [] false] s t ∧ t.pwr = s.pwr
      else t.mgt = s.mgt ∧ Sent [.i2c [] true] s t ∧
        (s.pwr.wakeEn.getLsbD 0 = true → s.pwr.start = none → t.pwr.start.isSome = true)) ∧
  ∀ (s : State) (b : Byte), s.pwr.core = false → s.pwr.state = .sleep → 0x80 ≤ s.mgt.index →
    s.mgt.index ≤ 0x9F → s.mgt.cbuf.getD (s.mgt.index - 0x80) 0 = b →
    Answers (exec (.i2cLowPowerTransaction (.read 1)) s) fun t =>
      Sent [.i2c [b] false] s t ∧
      t.mgt.index = (if s.mgt.index = 0x9F then 0x80 else s.mgt.index + 1) ∧ Keeps [.mgt, .out] s t

/-- Of R382, R389, R397, R398 and R401 of spec/14_power_wake.md. In a wake that does not wait for its retry, the core domain
leaves reset at PG_CORE, and PG_SRAM is noted, with the boot ROM's header reads where the core is up and the wake is
cold. Each PLL locks once, the Ethernet PLL with the Bellhouse's clock and without a jump of network time. The crystal
takes over, and once it has failed stays failed. With the three PLLs locked, a good wake image, with no memory error and no hold on SYS reset,
brings the settings back and keeps the Granary's bytes; a bad one is discarded with a MAJOR and the wake goes on as a
cold one. A step that times out sends every domain down for a retry, after the third into DORMANT with WAKE_FAIL; a
retry starts the wake again under its first event, with both regulators enabled. The latch point L0 of a warm wake is placed at the latest 980 us
after the event. -/
def Obligations.WakeSequence : Prop :=
  (∀ (s : State) (st : Start), s.pwr.start = some st → st.pgCore = false → st.waiting = false →
    (st.kind = .warm ∨ st.kind = .cold) →
    Answers (exec .pgCoreRise s) fun t =>
      t.pwr.core = true ∧ t.pwr.serdes = true ∧ t.pwr.state = .run ∧
      (∃ x, t.pwr.start = some x ∧ x.pgCore = true ∧ x.kind = st.kind ∧ x.since = st.since) ∧
      Keeps [.free, .out, .pwr, .bel, .rve, .grn] s t) ∧
  (∀ (s : State) (st : Start), s.pwr.start = some st → st.pgSram = false → st.waiting = false →
    Answers (exec .pgSramRise s) fun t =>
      t.pwr.start = some { st with pgSram := true } ∧
      Sent (if s.pwr.core && st.kind != .warm then [.flashRead 0 256, .flashRead 0x400000 256] else []) s t ∧
      Keeps [.out, .pwr] s t) ∧
  (∀ s : State, s.pwr.core = true →
    (s.pwr.pllCore = false → Answers (exec (.pllLock 0) s) fun t => t.pwr.pllCore = true ∧ Keeps [.pwr] s t) ∧
    (s.pwr.pllLane = false → Answers (exec (.pllLock 1) s) fun t => t.pwr.pllLane = true ∧
      t.pwr.pllCore = s.pwr.pllCore ∧ t.pwr.pllEth = s.pwr.pllEth) ∧
    (s.pwr.pllEth = false → Answers (exec (.pllLock 2) s) fun t => t.pwr.pllEth = true ∧
      t.bel.sleepClock = false ∧ netTime t = netTime s ∧ Keeps [.free, .pwr, .bel] s t)) ∧
  (∀ s : State, s.pwr.xtalFail = false →
    (Answers (exec .xtal32Switch s) fun t => t.pwr.xtalActive = true ∧ t.pwr.xtalFail = false ∧
      Keeps [.pwr] s t) ∧
    Answers (exec .xtal32Loss s) fun t => t.pwr.xtalActive = false ∧ t.pwr.xtalFail = true ∧
      Keeps [.pwr] s t) ∧
  (∀ s : State, s.pwr.xtalFail = true →
    exec .xtal32Switch s = .next s ∧ exec .xtal32Loss s = .next s) ∧
  (∀ (s : State) (st : Start) (v : Saved), s.pwr.start = some st → st.kind = .warm → st.granary = true →
    st.restored = false → s.pwr.core = true → s.pwr.pllCore = true →
    s.pwr.pllLane = true → s.pwr.pllEth = true → s.saved = some v →
    s.grn.marks = [] → sysHeld s = false →
    (Answers (exec (.wakeImageRestore true) s) fun t =>
      t.cmp = restoreCmp v.cmp ∧ t.lpl.timing = v.lpl.timing ∧
      t.lpl.shadow = v.lpl.seen.flatten ++ v.lpl.shadow ∧ t.lpl.launches = v.lpl.launches ∧ t.saved = none ∧ t.pwr.cores.served = true ∧
      t.pwr.wakes = bump 65535 1 s.pwr.wakes ∧ t.grn.mem = s.grn.mem ∧
      ∃ x, t.pwr.start = some x ∧ x.restored = true) ∧
    Answers (exec (.wakeImageRestore false) s) fun t =>
      t.pwr.imageBad = true ∧ t.saved = none ∧ t.cmp = s.cmp ∧ Raised 31 .major 0 s t ∧
      ∃ x, t.pwr.start = some x ∧ x.kind = .cold ∧ x.granary = false) ∧
  (∀ (s : State) (st : Start) (k : Fin 7), s.pwr.start = some st → st.waiting = false →
    stepOpen k.val st s = true →
    Answers (exec (.wakeStepTimeout k) s) fun t =>
      t.pwr.core = false ∧ t.pwr.hedge = false ∧ t.pwr.regEnCore = false ∧ t.pwr.regEnSram = false ∧
      if st.tries < 3 then
        (∃ x, t.pwr.start = some x ∧ x.waiting = true ∧ x.tries = st.tries + 1 ∧ x.kind = st.kind ∧
          x.since = st.since ∧ x.failed = st.failed ++ [k.val]) ∧
        t.pwr.retries = bump 255 1 s.pwr.retries
      else
        t.pwr.state = .dormant ∧ t.pwr.wakeFail = true ∧ t.pwr.failStep = k.val ∧ t.pwr.start = none) ∧
  (∀ (s : State) (st : Start), s.pwr.start = some st → st.waiting = true →
    Answers (exec .wakeRetry s) fun t =>
      (∃ x, t.pwr.start = some x ∧ x.waiting = false ∧ x.tries = st.tries ∧ x.since = st.since ∧
        x.failed = st.failed) ∧
      ((st.kind = .warm ∨ st.kind = .cold) → t.pwr.regEnCore = true ∧ t.pwr.regEnSram = true)) ∧
  ∀ (s : State) (st : Start), s.pwr.start = some st → st.kind = .warm → s.pwr.core = true → st.l0 = none →
    st.waiting = false → st.since + 980000 ≤ s.now →
    Answers (exec .wakeL0Placement s) fun t =>
      t.lpl.composing = s.lpl.composing + 1 ∧ t.lpl.lastLatch = s.now

/-- Of R246, R247, R513 to R515, R518, R519, R521 and R572 of spec/. At a power-on start whose supplies are good and which
has not read an image, the boot ROM runs the valid slot of the higher generation, and where neither is valid the cores
stay in reset with a MAJOR for each. While flash is loaded and the record is not yet judged, a FLASH_LOAD record that
did not arrive raises a MAJOR and leaves every byte outside its range, one that is right and permitted is what its
range then reads, and the next record follows. The Hedge powers up with the record's block, or uncommissioned with a
MAJOR. With a record in flash, a record write ends in the copy that does not hold the higher SEQ with the next SEQ; a
failed one leaves the other copy and raises a MAJOR. A staged image that fails a check completes with BAD_IMAGE's
reason and touches no slot; one whose flash write fails leaves the other slot invalid; one that passes fills it with
the next generation; the running slot stays. -/
def Obligations.BootAndFlash : Prop :=
  (∀ (s : State) (st : Start) (img : ImageIn), s.pwr.core = true → s.pwr.start = some st →
    st.pgCore = true → st.pgSram = true → st.restored = false → st.record = false → st.kind = .por →
    (slotFault img.a s ≠ 0 → slotFault img.b s ≠ 0 → Answers (exec (.bootImageLoaded img) s) fun t =>
      t.boot.fail = true ∧ t.pwr.cores = s.pwr.cores ∧
      t.rve.inbox = s.rve.inbox ++
        [⟨41, .major, BitVec.ofNat 32 (bootDetail 1 (slotFault img.a s) 0), false, s.now⟩,
         ⟨41, .major, BitVec.ofNat 32 (bootDetail 2 (slotFault img.b s) 0), false, s.now⟩]) ∧
    (slotFault img.a s = 0 ∨ slotFault img.b s = 0 → Answers (exec (.bootImageLoaded img) s) fun t =>
      t.boot.slot = (slotFault img.a s != 0 ||
        (slotFault img.b s == 0 && decide (hdr img.a.header 4 4 < hdr img.b.header 4 4))) ∧
      t.boot.fail = false ∧ t.pwr.cores.up = true ∧ t.boot.rec0 = img.rec0 ∧ t.boot.rec1 = img.rec1)) ∧
  (∀ (s : State) (st : Start) (r : FlashRec) (l : List FlashRec), coresUp s = true →
    s.pwr.start = some st → st.restored = true → st.granary = true → st.record = false →
    s.boot.loads = r :: l → Memory.wf s.grn.mem = true →
    Answers (exec (.flashLoadRecordDone none) s) fun t =>
      t.boot.loads = l ∧ (∃ d, Raised 41 .major d s t) ∧
      ∀ a, a < r.addr ∨ r.addr + r.len ≤ a → Memory.read t.grn.mem a = Memory.read s.grn.mem a) ∧
  (∀ (s : State) (st : Start) (r : FlashRec) (l : List FlashRec) (d : List Byte), coresUp s = true →
    s.pwr.start = some st → st.restored = true → st.granary = true → st.record = false →
    s.boot.loads = r :: l → Memory.wf s.grn.mem = true → s.grn.marks = [] → r.len % 8 = 0 →
    r.len ≤ 0x1000000 → d.length = r.len → Env.crc32c d = r.crc → loadDenied r.addr r.len s = none →
    Answers (exec (.flashLoadRecordDone (some d)) s) fun t =>
      t.boot.loads = l ∧ t.rve = s.rve ∧
      ∀ a, Memory.read t.grn.mem a =
        if r.addr ≤ a ∧ a < r.addr + r.len then d.getD (a - r.addr) 0 else Memory.read s.grn.mem a) ∧
  (∀ (s : State) (st : Start), s.pwr.core = true → s.pwr.hedge = true → s.pwr.start = some st →
    st.restored = true → st.record = false →
    Answers (exec .hedgePowerUp s) fun t =>
      (∀ b crc, judgeRecord s = .ok (b, crc) → t.hdg.active = some (.block b) ∧ t.hdg.activeCrc = crc) ∧
      (∀ k, judgeRecord s = .error k → t.hdg.active = some .uncommissioned ∧
        ∃ l, t.rve.inbox = s.rve.inbox ++
          ⟨0, .major, BitVec.ofNat 32 (hedgeDetail 0 k s.lpl.composing), false, s.now⟩ :: l)) ∧
  (∀ (s : State) (w : RecWrite) (l : List RecWrite) (r : RecCopy), coresUp s = true →
    s.boot.writes = w :: l → newerRec s.boot.rec0 s.boot.rec1 = some r →
    (Answers (exec (.commissioningRecordWriteDone true) s) fun t =>
      t.boot.writes = l ∧
      (if recTarget s.boot then t.boot.rec1 = some ⟨(r.seq + 1) % 2 ^ 32, w.crc, w.block⟩ ∧
          t.boot.rec0 = s.boot.rec0
        else t.boot.rec0 = some ⟨(r.seq + 1) % 2 ^ 32, w.crc, w.block⟩ ∧ t.boot.rec1 = s.boot.rec1) ∧
      Keeps [.boot, .out] s t) ∧
    Answers (exec (.commissioningRecordWriteDone false) s) fun t =>
      t.boot.writes = l ∧ t.boot.recFail = true ∧ (∃ d, Raised 41 .major d s t) ∧
      (if recTarget s.boot then t.boot.rec0 = s.boot.rec0 else t.boot.rec1 = s.boot.rec1) ∧
      t.hdg = s.hdg) ∧
  ∀ (s : State) (j : StageJob), coresUp s = true → s.boot.stage = some j → j.img ≠ [] →
    (∀ a b ok, stageFault j.img a b { s with boot.stage := none } ≠ 0 →
      exec (.fwStageFlashDone a b ok) s = .next (finish j.cmd 0x01C0#16
        (resAt 16 (stageFault j.img a b { s with boot.stage := none })) { s with boot.stage := none })) ∧
    (stageFault j.img true true { s with boot.stage := none } = 0 →
      ∃ u, exec (.fwStageFlashDone true true false) s = .next (finish j.cmd 0x01C1#16 0 u) ∧
        u.boot.stage = none ∧ (otherSlot u).valid = false ∧ ownSlot u = ownSlot s ∧
        Keeps [.boot, .out] s u) ∧
    (stageFault j.img true true { s with boot.stage := none } = 0 →
      ∃ u, exec (.fwStageFlashDone true true true) s = .next (finish j.cmd stSuccess 0 u) ∧
        u.boot.stage = none ∧ (otherSlot u).valid = true ∧
        (otherSlot u).gen = ((ownSlot s).gen + 1) % 2 ^ 32 ∧ ownSlot u = ownSlot s ∧ Keeps [.boot, .out] s u)

/-- Of R522 to R527 of spec/19_management_aux.md, with the core powered. A transaction's first byte sets the index; a
further byte into the mailbox, while it is free, is stored there and moves the index on; a byte of the completion
buffer is read and moves the index on; a bus error is counted and raises a NOTE of group 39; the doorbell submits the
mailbox, or, while it is busy, counts as such an error. A chain that is used and shifts nothing sends its words with
their CRC; a shift that ends keeps the CRC of its data and has its LAT due, or, where the returned CRCs are not those
expected, is counted, sends the same words again at once, and raises a MINOR of group 40; the other chains stay. -/
def Obligations.ManagementAndAuxChains : Prop :=
  ((∀ (s : State) (k : Byte), s.pwr.core = true →
     Answers (exec (.i2cTransaction (.write k [])) s) fun t =>
       t.mgt.index = k.toNat ∧ t.mgt.mailbox = s.mgt.mailbox ∧ Sent [.i2c [] false] s t ∧
       Keeps [.mgt, .out] s t) ∧
   (∀ (s : State) (k b : Byte), s.pwr.core = true → s.mgt.busy = false → 0x40 ≤ k.toNat → k.toNat ≤ 0x7F →
     Answers (exec (.i2cTransaction (.write k [b])) s) fun t =>
       t.mgt.index = k.toNat + 1 ∧ t.mgt.mailbox = putMailbox (k.toNat - 0x40) b s.mgt.mailbox ∧
       Sent [.i2c [] false] s t ∧ Keeps [.mgt, .out] s t) ∧
   (∀ s : State, s.pwr.core = true →
     Answers (exec (.i2cTransaction .busError) s) fun t =>
       t.mgt.errors = bump 65535 1 s.mgt.errors ∧ Raised 39 .note 1 s t ∧ Keeps [.mgt, .rve] s t) ∧
   (∀ (s : State) (b : Byte), s.pwr.core = true → 0x80 ≤ s.mgt.index → s.mgt.index ≤ 0x9F →
     s.mgt.cbuf.getD (s.mgt.index - 0x80) 0 = b →
     Answers (exec (.i2cTransaction (.read 1)) s) fun t =>
       Sent [.i2c [b] false] s t ∧ t.mgt.index = s.mgt.index + 1 ∧ Keeps [.mgt, .out] s t) ∧
   ∀ s : State, s.pwr.core = true →
     Answers (exec .i2cDoorbell s) fun t =>
       if s.mgt.busy then t.mgt.errors = bump 65535 1 s.mgt.errors ∧ Raised 39 .note 2 s t ∧
         Keeps [.mgt, .rve] s t
       else t.mgt.busy = true ∧ t.mgt.mailbox = s.mgt.mailbox ∧ Keeps [.mgt] s t) ∧
  ((∀ (s : State) (c : Fin 4), s.pwr.core = true → (s.aux[c]).used = true → (s.aux[c]).shifting = none →
     Answers (exec (.auxFrameShift c) s) fun t =>
       t.aux[c] = { s.aux[c] with latDue := false, shifting := some (s.aux[c]).words } ∧
       Sent [.auxFrame c (s.aux[c]).words (auxCrc (s.aux[c]).wordBits (s.aux[c]).words)] s t ∧
       (∀ k : Fin 4, k ≠ c → t.aux[k] = s.aux[k]) ∧ Keeps [.aux, .out] s t) ∧
   ∀ (s : State) (c : Fin 4) (w : List Nat) (a b : BitVec 16), s.pwr.core = true →
     (s.aux[c]).shifting = some w →
     Answers (exec (.auxShiftEnd c a b) s) fun t =>
       (t.aux[c]).prevCrc = some (auxCrc (s.aux[c]).wordBits w) ∧
       (if ((s.aux[c]).prevCrc = none ∨ (s.aux[c]).prevCrc = some a.toNat) ∧
           b.toNat = auxCrc (s.aux[c]).wordBits w then
         (t.aux[c]).shifting = none ∧ (t.aux[c]).latDue = true ∧
         (t.aux[c]).retFail = (s.aux[c]).retFail ∧ t.rve = s.rve ∧ t.out = s.out
       else (t.aux[c]).shifting = some w ∧ (t.aux[c]).latDue = false ∧
         (t.aux[c]).retFail = bump 32767 1 (s.aux[c]).retFail ∧
         Sent [.auxFrame c w (auxCrc (s.aux[c]).wordBits w)] s t ∧ Raised 40 .minor c.val s t) ∧
       ∀ k : Fin 4, k ≠ c → t.aux[k] = s.aux[k])

/-- Of R450, R452 to R459, R467 to R469, R471 and R579 of spec/17_yoke.md and spec/23_bringup.md. After its quiet time a
device that may claim pulls YOKE_ACT_N low; one that reads it high in its release window and still may claim gains it,
a follower without a handover that has passed as a takeover with a MAJOR of group 21, and one that does not goes on
without it. A holder that reads the line low counts a contention, raises a MAJOR and releases it. A partner that was
heard and falls silent is lost with a MAJOR: the holder goes on ALONE, a follower stops following. A leader whose
LATCH is absent is not followed any more. A holder that is not the primary and may return begins a handover at the
next latch point with its message, and once that latch point has passed releases the line into STANDBY. The secondary
may claim after its time, and the cover bits expire. -/
def Obligations.YokeLine : Prop :=
  (∀ s : State, mayClaim s = true → s.yok.claim = .none →
    Answers (exec .yokeQuietTime s) fun t =>
      t.yok.claim = .pulse ∧ t.yok.line = false ∧ t.yok.holding = s.yok.holding ∧
      t.yok.state = s.yok.state ∧ Keeps [.yok] s t) ∧
  (∀ (s : State) (high : Bool), s.yok.claim ≠ .none →
    Answers (exec (.yokeClaimSample high) s) fun t =>
      t.yok.claim = .none ∧
      if high && mayClaim s then
        t.yok.holding = true ∧ t.yok.line = false ∧ t.yok.following = false ∧
        t.yok.state = (if s.yok.state = .standby ∧ s.yok.handover.map Handover.passed = some true
          then .active else .alone) ∧
        (s.yok.state = .standby → s.yok.handover.map Handover.passed ≠ some true →
          t.yok.takeovers = bump 255 1 s.yok.takeovers ∧
          ∃ d, ⟨21, .major, d, false, s.now⟩ ∈ t.rve.inbox)
      else t.yok.holding = s.yok.holding ∧ t.yok.line = high ∧ t.yok.state = s.yok.state ∧
        Keeps [.yok] s t) ∧
  (∀ s : State, yoked s = true → s.yok.holding = true → s.pwr.core = true →
    (exec (.yokeHolderCheck true) s = .next s) ∧
    Answers (exec (.yokeHolderCheck false) s) fun t =>
      t.yok.holding = false ∧ t.yok.line = false ∧ t.yok.claim = .none ∧ t.yok.state = .seek ∧
      t.yok.trip = false ∧
      t.hdg.disc = none ∧ t.yok.contentions = bump 255 1 s.yok.contentions ∧
      ∃ d, ⟨21, .major, d, false, s.now⟩ ∈ t.rve.inbox) ∧
  (∀ s : State, yoked s = true → s.yok.lost = false → s.pwr.core = true →
    (s.yok.hello.isSome = true ∨ s.yok.partner.isSome = true) →
    Answers (exec .partnerLoss s) fun t =>
      t.yok.lost = true ∧ t.yok.shared = none ∧
      (if s.yok.holding then t.yok.state = .alone else t.yok.state = s.yok.state ∧
        t.yok.following = false ∧ t.yok.locked = false) ∧
      (∃ d, ⟨21, .major, d, false, s.now⟩ ∈ t.rve.inbox) ∧ Keeps [.yok, .rve] s t) ∧
  (∀ s : State, s.yok.following = true →
    Answers (exec .leaderLatchTimeout s) fun t =>
      t.yok.following = false ∧ t.yok.locked = false ∧ t.yok.shared = none ∧
      t.yok.state = s.yok.state ∧ Keeps [.yok] s t) ∧
  (∀ s : State, s.yok.returnEn = true → s.yok.holding = true → s.yok.pri = false →
    partnerReady s = true → s.yok.handover = none →
    Answers (exec .yokeReturnTimer s) fun t =>
      t.yok.handover = some ⟨s.lpl.composing + 1, false⟩ ∧ t.yok.holding = true ∧
      Sent (if yoked s && s.yok.lane.state == .ready then
        [.yoke YokeMsg.handover.code [(s.lpl.composing + 1).toNat]] else []) s t ∧ Keeps [.yok, .out] s t) ∧
  (∀ (s : State) (q : BitVec 16), s.yok.holding = true → s.yok.handover = some ⟨q, true⟩ →
    Answers (exec .yokeHandoverRelease s) fun t =>
      t.yok.holding = false ∧ t.yok.line = true ∧ t.yok.state = .standby ∧ t.yok.handover = none ∧
      t.yok.following = true ∧
      t.yok.handovers = bump 255 1 s.yok.handovers) ∧
  (∀ s : State, s.hdg.active.isSome = true →
    Answers (exec .yokeSecondaryClaimTimeout s) fun t =>
      t.yok.mayClaim = true ∧ t.yok.holding = s.yok.holding ∧ Keeps [.yok] s t) ∧
  ∀ s : State, Answers (exec .coverBitExpiry s) fun t =>
    t.yok.cover = 0 ∧ t.yok.state = s.yok.state ∧ Keeps [.yok] s t

/-- Of R452, R457, R458, R460, R462, R464 to R467, R471 to R473 of spec/17_yoke.md, on a device of a pair whose core is
powered: what a message of the partner does, which each shows that it is there. A LATCH gives its state, its counts,
a follower the measured error and the lanes it covers, and moves a holder to ACTIVE or ALONE; RAIL is kept. A SIG of
the frame whose own signature is there and whose digest is equal is a mismatch frame, counted and raised, where
the signatures or the tiles differ, and otherwise ends the run of them. SHARED is kept by a follower in STANDBY. A
HELLO that does not match while the partner holds the line excludes a device in SEEK for its reason, and one that
matches brings it to STANDBY, or to COPY where the digests differ. TRIP reaches the holder until it is released;
HANDOVER and EXCLUDE concern the device that does not hold the line. -/
def Obligations.YokeMessages : Prop :=
  (∀ (s : State) (m : LatchMsg), hears s = true →
    Answers (exec (.yokeLatchMsg m) s) fun t =>
      t.yok.lost = false ∧ t.yok.lastMsg = s.now ∧ t.yok.delayNs = s.yok.delayNs ∧
      t.yok.errorNs = (if s.yok.holding then 0 else m.errorNs) ∧
      (∃ p, t.yok.partner = some p ∧ p.seq = m.seq ∧ p.counts = m.counts ∧ p.state = m.state ∧
        p.ready = m.ready) ∧
      t.yok.cover = (if (m.state = .standby ∨ m.state = .active ∨ m.state = .alone) ∧ m.locked = true
        then m.ready else 0) ∧
      t.yok.holding = s.yok.holding ∧
      (s.yok.holding = true → t.yok.state = if m.state = .standby then .active else .alone)) ∧
  (∀ (s : State) (m : Tab RailMsg 8), hears s = true →
    Answers (exec (.yokeRailMsg m) s) fun t =>
      t.yok.rails = m ∧ t.yok.lastMsg = s.now ∧ t.yok.state = s.yok.state ∧ Keeps [.yok] s t) ∧
  (∀ (s : State) (m a : Sig), hears s = true → paired (heard s) = true →
    s.yok.ownSig = some a → a.seq = m.seq → a.digest = m.digest →
    Answers (exec (.yokeSigMsg m) s) fun t =>
      if a.sig ≠ m.sig ∨ tileMismatch s = true then
        t.yok.frames = bump 65535 1 s.yok.frames ∧ t.yok.run = bump 255 1 s.yok.run ∧
        (∃ d, ⟨21, .minor, d, false, s.now⟩ ∈ t.rve.inbox)
      else t.yok.frames = s.yok.frames ∧ t.yok.run = 0 ∧ t.yok.state = s.yok.state ∧ Keeps [.yok] s t) ∧
  (∀ (s : State) (m : Shared), hears s = true → s.yok.state = .standby → s.yok.holding = false → m.ageing = [] →
    Answers (exec (.yokeSharedMsg m) s) fun t =>
      t.yok.shared = some m ∧ t.yok.lastMsg = s.now ∧ t.yok.state = .standby ∧ Keeps [.yok] s t) ∧
  (∀ (s : State) (m : Hello), hears s = true → s.yok.state = .seek →
    s.yok.holding = false → incompatible m s ≠ 0 → partnerHolds (heard s) = true →
    Answers (exec (.yokeHelloMsg m) s) fun t =>
      t.yok.hello = some m ∧ t.yok.state = .excluded ∧ t.yok.reason = incompatible m s ∧
      t.yok.locked = false ∧ t.yok.following = false ∧
      ∃ d, ⟨21, .minor, d, false, s.now⟩ ∈ t.rve.inbox) ∧
  (∀ (s : State) (m : Hello), hears s = true → s.yok.state = .seek →
    s.yok.holding = false → s.yok.claim = .none → incompatible m s = 0 → partnerHolds (heard s) = true →
    Answers (exec (.yokeHelloMsg m) s) fun t =>
      t.yok.hello = some m ∧
      t.yok.state = (if m.digest = s.yok.digest ∨ m.sentLat = false then .standby else .copy)) ∧
  (∀ s : State, hears s = true → s.yok.holding = true →
    Answers (exec .yokeTripMsg s) fun t => t.yok.trip = true ∧ t.yok.lastMsg = s.now) ∧
  (∀ s : State, s.yok.trip = true → Answers (exec .yokeTripRelease s) fun t => t.yok.trip = false) ∧
  (∀ (s : State) (q : BitVec 16), hears s = true → s.yok.holding = false →
    Answers (exec (.yokeHandoverMsg q) s) fun t =>
      t.yok.handover = some ⟨q, false⟩ ∧ t.yok.state = s.yok.state ∧ Keeps [.yok] s t) ∧
  ∀ (s : State) (r : Fin 5), hears s = true → s.yok.holding = false → s.yok.claim = .none →
    Answers (exec (.yokeExcludeMsg r) s) fun t =>
      t.yok.state = .excluded ∧ t.yok.reason = r.val ∧ t.yok.locked = false ∧ t.yok.following = false ∧
      (∃ d, ⟨21, .minor, d, false, s.now⟩ ∈ t.rve.inbox) ∧ Keeps [.yok, .rve] s t

/-- Of R457, R460, R466, R472, R474 and R475 of spec/17_yoke.md. Counts that do not come in time are counted as missed,
and the device takes by its own as they stood at the latch point. A block copied during COPY is what its 64 KiB of the
Granary then read, and no other byte changes. The snapshot gives the follower in COPY the holder's composition,
photometry, timing, map, held settings, shadow, launches, counts, digest, rail settings and auxiliary words, and ends
COPY in STANDBY. On the holder the end of a pass, while the yoke lane is READY, leaves for the next pass the blocks
written meanwhile, and COPY is done once a pass sent at most 16. On a READY yoke lane the periodic messages are sent:
RAIL by the holder, TRIP by a device that does not hold the line and wants the outputs off, HELLO by each. -/
def Obligations.YokeCopies : Prop :=
  (∀ s : State, paired s = true → s.yok.counted = false →
    exec .yokeAlignTimeout s = .next (takeAll s.yok.atL
      { s with yok.alignMiss := bump 255 1 s.yok.alignMiss })) ∧
  (∀ (s : State) (k : Fin 1024) (l : List Byte), hears s = true → s.yok.state = .copy → 72 ≤ k.val → l.length = 65536 →
    Memory.wf s.grn.mem = true →
    Answers (exec (.yokeCopyBlock k l) s) fun t =>
      (∀ i : Nat, i < 65536 → Memory.read t.grn.mem (k.val * 65536 + i) = l.getD i 0) ∧
      (∀ a, a < k.val * 65536 ∨ (k.val + 1) * 65536 ≤ a →
        Memory.read t.grn.mem a = Memory.read s.grn.mem a) ∧
      t.yok.state = .copy ∧ Keeps [.grn, .mem, .yok] s t) ∧
  (∀ (s : State) (m : Snapshot), hears s = true → s.yok.state = .copy →
    Answers (exec (.yokeSnapshot m) s) fun t =>
      t.cmp = adoptCompose m.cmp s.cmp ∧ t.pho = adoptPhoto m.pho s.pho ∧ t.lpl.timing = m.timing ∧
      t.lpl.mapNext = m.map ∧ t.lpl.heldTiming = m.heldTiming ∧ t.lpl.heldMap = m.heldMap ∧
      t.lpl.budgetMap = m.budgetMap ∧ t.lpl.shadow = m.shadow ∧
      t.lpl.launches.length = m.launches.length ∧ t.yok.own = m.counts ∧ t.yok.taken = m.counts ∧
      t.yok.digest = m.digest ∧ t.yok.rails = m.rails ∧ t.yok.state = .standby ∧ t.yok.following = true ∧
      (∀ k : Fin 8, (t.rail.rail[k]).vSet = (m.rails[k]).vSet ∧
        (t.rail.rail[k]).state = (s.rail.rail[k]).state) ∧
      (∀ c : Fin 4, (t.aux[c]).words = (m.aux[c]).1 ∧ (t.aux[c]).fades = (m.aux[c]).2) ∧
      Keeps [.cmp, .pho, .lpl, .nextSer, .yok, .rail, .aux] s t) ∧
  (∀ s : State, s.yok.holding = true → partnerIn .copy s = true →
    s.yok.lane.state = .ready →
    Answers (exec .yokeCopyPassEnd s) fun t =>
      t.yok.copyLeft = s.yok.dirty ∧ t.yok.dirty = [] ∧ t.yok.sentInPass = s.yok.copyLeft.length ∧
      t.yok.copyDone = (s.yok.copyDone || decide (s.yok.copyLeft.length ≤ 16)) ∧
      t.grn.mem = s.grn.mem ∧ Keeps [.free, .grn, .rve, .yok, .out] s t) ∧
  ∀ s : State, yoked s = true → s.yok.lane.state = .ready →
    (s.yok.holding = true → Answers (exec (.yokePeriodicMessage 0) s) fun t =>
      Sent [.yoke YokeMsg.rail.code (s.rail.rail.toList.flatMap railWords)] s t ∧ Keeps [.out] s t) ∧
    (s.yok.holding = false → s.hdg.wantsOff = true → s.hdg.selfHeld = false →
      Answers (exec (.yokePeriodicMessage 1) s) fun t => ∃ l, Sent [.yoke YokeMsg.trip.code l] s t ∧
        Keeps [.out] s t) ∧
    Answers (exec (.yokePeriodicMessage 2) s) fun t => ∃ l, Sent [.yoke YokeMsg.hello.code l] s t ∧ Keeps [.out] s t

/-- R488, R489 and R491 of spec/18_bellhouse_ethernet.md: between steps of the time, network time never
decreases while RATE, with the trim of the sleep clock, is above minus one half, which R491's bound of
500 ppm is: a cycle moves it on, also where the counter wraps. Stated for the cycles within 2^64 units
of a rebase (R490). -/
def Obligations.TimeNeverFallsBack : Prop :=
  ∀ s : State, s.pending = [] → s.pwr.start = none → s.pwr.entry = none → s.bel.powered = true →
    s.pwr.pllEth = true ∨ s.bel.sleepClock = true → s.bel.frc < 2 ^ 64 →
    -(2 ^ 31 : Int) ≤ (if s.bel.sleepClock then s.bel.rate + s.bel.sleepTrim else s.bel.rate) →
    ((s.bel.frc : Int) - s.bel.frcRef) % (2 ^ 64 : Int) + s.bel.cycle < 2 ^ 64 →
    Answers (step s) fun t => netTime s < netTime t

/-- R73 of spec/02_host_rings.md: a command whose class bit is 0 in its port's mask completes with
DENIED. The device does not act on it: beside the completion, the port's denied count, LAST_DENIED_PORT,
LAST_DENIED_OPCODE and one NOTE, nothing changes. -/
def Obligations.DeniedCommands : Prop :=
  ∀ (i : Instr) (op : Nat) (src : Src) (d : Desc) (s : State) (p : Fin 4) (b : Nat),
    opcodeRow i = some (op, src, d) → serves src s = true → fenceOk src (withOpcode d op) s = true →
    (cmdOf op src d s).version = 1 → src.port = some p → classOf op = some (some b) →
    bitOf (authMask src s) b = false →
    ∃ u, exec i s = .next (complete (cmdOf op src d s) stDenied 0 0 u) ∧
      Keeps [.nextSer, .running, .hif, .rve] s u ∧ u.running = s.running ++ [cmdOf op src d s] ∧
      u.hif.deniedCnt[p] = bump 255 1 s.hif.deniedCnt[p] ∧
      (∀ q : Fin 4, q ≠ p → u.hif.deniedCnt[q] = s.hif.deniedCnt[q]) ∧
      u.hif.lastDeniedPort = p.val ∧ u.hif.lastDeniedOpcode = BitVec.ofNat 8 op ∧
      { u.hif with
        deniedCnt := s.hif.deniedCnt
        lastDeniedPort := s.hif.lastDeniedPort
        lastDeniedOpcode := s.hif.lastDeniedOpcode } = s.hif ∧
      Raised 34 .note (op + p.val * 2 ^ 24 + 5 * 2 ^ 28) s u

/-- R37, R52, R60, R61 and R473: a command that its sender's state or a FENCE holds back does not start;
one of another version, of an opcode that does not exist, or that COPY does not let run completes with
that status and does nothing else. -/
def Obligations.HeldAndRefusedCommands : Prop :=
  (∀ (i : Instr) (op : Nat) (src : Src) (d : Desc) (s : State), opcodeRow i = some (op, src, d) →
    serves src s = false ∨ fenceOk src (withOpcode d op) s = false → exec i s = .next s) ∧
  ∀ (i : Instr) (op : Nat) (src : Src) (d : Desc) (s : State) (st : BitVec 16),
    opcodeRow i = some (op, src, d) → serves src s = true → fenceOk src (withOpcode d op) s = true →
    gate (cmdOf op src d s) (begun op src d s) = some st → st ≠ stDenied →
    exec i s = .next (complete (cmdOf op src d s) st 0 0 (begun op src d s))

/-- R53, R56, R80, R82 and R523: a completion leaves the running list and goes where its command came
from: to the completion ring of its submission ring behind those waiting, to its datagram's reply, to
the I²C buffer with BUSY cleared, or, from the STARTUP list, into one event of group 42; QUIET with
SUCCESS writes none; a command that has completed already completes no more. -/
def Obligations.CompletionToOrigin : Prop :=
  ∀ (c k : Cmd) (st fs : BitVec 16) (r : Result) (s : State),
    (findRunning c.ser s = none → complete c st fs r s = s) ∧
    (findRunning c.ser s = some k →
      let t := complete c st fs r s
      let e : Cpl := ⟨k.src, k.cmdId, BitVec.ofNat 8 k.opcode, st, fs, r⟩
      let mute := k.quiet && st == stSuccess
      t.running = (s.running.filter fun x => x.ser != c.ser) ∧
      (∀ n, k.src = .ring n →
        (t.hif.cq[(s.hif.sq[n]).cq]).waiting =
          (s.hif.cq[(s.hif.sq[n]).cq]).waiting ++ (if mute then [] else [e]) ∧
        (∀ m : Fin 16, m ≠ (s.hif.sq[n]).cq → t.hif.cq[m] = s.hif.cq[m]) ∧
        (t.hif.sq[n]).lastDone = s.now ∧ Keeps [.running, .hif, .maskQ] s t) ∧
      (∀ p key i, k.src = .eth p key i →
        (∀ x ∈ (s.eth.port[p]).execs, x.key = key → ∃ y ∈ (t.eth.port[p]).execs, y.key = key ∧
          y.peer = x.peer ∧ y.done.length = x.done.length + 1 ∧
          (mute = true → y.done = x.done ++ [(i, none)])) ∧
        t.eth.port[1 - p] = s.eth.port[1 - p] ∧ Keeps [.running, .eth, .maskQ] s t) ∧
      (k.src = .i2c → Keeps [.running, .mgt, .maskQ] s t ∧
        (coresUp s = true → t.mgt.busy = false ∧
          t.mgt.cbuf = if mute then s.mgt.cbuf else cplBytes e 0 0 1)) ∧
      (∀ i, k.src = .startup i → s.pwr.core = true → Keeps [.running, .rve, .maskQ] s t ∧
        (if mute then t.rve = s.rve
        else Raised 42 (if st = stSuccess then .note else .minor)
          (e.opcode.toNat + i * 256 + st.toNat * 65536) s t)))

/-- R62 and R264: a command with COMMIT whose own status is SUCCESS or LATE issues a commit, which sees
every shadow setting written so far, and does not complete before that commit is taken; every other
command completes at once. -/
def Obligations.CommitWaits : Prop :=
  (∀ (c : Cmd) (st : BitVec 16) (r : Result) (s : State), c.commit = true →
    st = stSuccess ∨ st = stLate →
    (finish c st r s).lpl.seen = s.lpl.seen ++ [s.lpl.shadow] ∧ (finish c st r s).lpl.shadow = [] ∧
    (finish c st r s).lpl.commitPending = true ∧
    (finish c st r s).lpl.waits = s.lpl.waits ++ [⟨c, s.yok.own.commits + 1, st, r⟩] ∧
    (finish c st r s).running = s.running ∧ Keeps [.lpl, .yok] s (finish c st r s)) ∧
  ∀ (c : Cmd) (st : BitVec 16) (r : Result) (s : State),
    c.commit = false ∨ (st ≠ stSuccess ∧ st ≠ stLate) → finish c st r s = complete c st 0 r s

/-- R48 of spec/02_host_rings.md: every field of a ring but ENABLE accepts writes only while the ring's
ENABLE is 0 and RING_LOCK is 0: a write of CFG, BASE, DB or a write-one-to-clear flag is otherwise
discarded; with both at 0 a write is stored. -/
def Obligations.RingFieldsLocked : Prop :=
  (∀ (s : State) (n : Fin 16) (v : Word) (o : Fin 8) (i : Instr),
    i = .registerWrite (BitVec.ofNat 22 (0x10000 + 0x20 * n.val + 4 * o.val)) v ∨
    i = .reg64HighWrite (BitVec.ofNat 22 (0x10000 + 0x20 * n.val + 4 * o.val)) v →
    (s.hif.sq[n]).enable = true ∨ s.hif.ringLock = true →
    Answers (exec i s) fun t => sqFields t.hif.sq[n] = sqFields s.hif.sq[n] ∧
      (t.hif.sq[n]).fetchError = (s.hif.sq[n]).fetchError ∧
      (t.hif.sq[n]).badIndex = (s.hif.sq[n]).badIndex) ∧
  (∀ (s : State) (n : Fin 16) (v : Word) (o : Fin 8) (i : Instr),
    i = .registerWrite (BitVec.ofNat 22 (0x10400 + 0x20 * n.val + 4 * o.val)) v ∨
    i = .reg64HighWrite (BitVec.ofNat 22 (0x10400 + 0x20 * n.val + 4 * o.val)) v →
    (s.hif.cq[n]).enable = true ∨ s.hif.ringLock = true →
    Answers (exec i s) fun t => cqFields t.hif.cq[n] = cqFields s.hif.cq[n] ∧
      (t.hif.cq[n]).dbError = (s.hif.cq[n]).dbError ∧
      (t.hif.cq[n]).fullWait = (s.hif.cq[n]).fullWait) ∧
  (∀ (s : State) (n : Fin 16) (v : Word), hostUp s = true → s.hif.ringLock = false →
    ((s.hif.sq[n]).enable = false →
      (Answers (exec (.registerWrite (BitVec.ofNat 22 (0x10010 + 0x20 * n.val)) v) s) fun t =>
        (t.hif.sq[n]).pollUs = max 1 (min 1000 (v.toNat / 2 ^ 16 % 1024)) ∧
        (t.hif.sq[n]).log2 = max 4 (min 12 (v.toNat / 2 ^ 8 % 16)) ∧
        (t.hif.sq[n]).prio = v.toNat / 2 ^ 6 % 4 ∧ ((t.hif.sq[n]).cq).val = v.toNat / 2 ^ 2 % 16) ∧
      Answers (exec (.registerWrite (BitVec.ofNat 22 (0x10014 + 0x20 * n.val)) v) s) fun t =>
        (t.hif.sq[n]).fetchError = ((s.hif.sq[n]).fetchError && !(v.toNat / 2 ^ 19 % 2 == 1)) ∧
        (t.hif.sq[n]).badIndex = ((s.hif.sq[n]).badIndex && !(v.toNat / 2 ^ 18 % 2 == 1))) ∧
    ((s.hif.cq[n]).enable = false →
      (Answers (exec (.registerWrite (BitVec.ofNat 22 (0x10410 + 0x20 * n.val)) v) s) fun t =>
        (t.hif.cq[n]).coalUs = min 1000 (v.toNat / 2 ^ 20 % 1024) ∧
        (t.hif.cq[n]).coalCount = max 1 (v.toNat / 2 ^ 12 % 256) ∧
        (t.hif.cq[n]).log2 = max 4 (min 12 (v.toNat / 2 ^ 8 % 16)) ∧
        (t.hif.cq[n]).irqEn = (v.toNat / 2 ^ 6 % 2 == 1) ∧ (t.hif.cq[n]).vector = v.toNat / 2 % 32) ∧
      Answers (exec (.registerWrite (BitVec.ofNat 22 (0x10414 + 0x20 * n.val)) v) s) fun t =>
        (t.hif.cq[n]).dbError = ((s.hif.cq[n]).dbError && !(v.toNat / 2 ^ 19 % 2 == 1)) ∧
        (t.hif.cq[n]).fullWait = ((s.hif.cq[n]).fullWait && !(v.toNat / 2 ^ 18 % 2 == 1)))) ∧
  ∀ (s : State) (n : Fin 16) (v : Word), hostUp s = true → s.hif.ringLock = false →
    ((s.hif.sq[n]).enable = false →
      (Answers (exec (.reg64HighWrite (BitVec.ofNat 22 (0x10004 + 0x20 * n.val)) v) s) fun t =>
        ((t.hif.sq[n]).base).toNat = (v.toNat * 2 ^ 32 +
          (holding s.hif.wrHold (0x10000 + 0x20 * n.val)).toNat) / 64 * 64) ∧
      Answers (exec (.reg64HighWrite (BitVec.ofNat 22 (0x1000C + 0x20 * n.val)) v) s) fun t =>
        ((t.hif.sq[n]).db).toNat = (v.toNat * 2 ^ 32 +
          (holding s.hif.wrHold (0x10008 + 0x20 * n.val)).toNat) / 4 * 4) ∧
    ((s.hif.cq[n]).enable = false →
      (Answers (exec (.reg64HighWrite (BitVec.ofNat 22 (0x10404 + 0x20 * n.val)) v) s) fun t =>
        ((t.hif.cq[n]).base).toNat = (v.toNat * 2 ^ 32 +
          (holding s.hif.wrHold (0x10400 + 0x20 * n.val)).toNat) / 32 * 32) ∧
      Answers (exec (.reg64HighWrite (BitVec.ofNat 22 (0x1040C + 0x20 * n.val)) v) s) fun t =>
        ((t.hif.cq[n]).db).toNat = (v.toNat * 2 ^ 32 +
          (holding s.hif.wrHold (0x10408 + 0x20 * n.val)).toNat) / 4 * 4)

/-- R120 of spec/04_granary.md: a repair lasts until the Granary loses power: it survives SLEEP, SYS
reset and CORE reset, and is lost in NIGHTWATCH, DORMANT, at POR and where PG_SRAM fails in SLEEP. -/
def Obligations.RepairsLast : Prop :=
  (∀ (s : State) (i : Instr), i = .sysReset ∨ i = .coreReset ∨ i = .pgCoreLoss →
    Answers (exec i s) fun t => t.grn.repaired = s.grn.repaired) ∧
  (∀ (s : State) (e : LowEntry), s.pwr.entry = some e → e.committed = true →
    Answers (exec .lowPowerPowerdown s) fun t =>
      t.grn.repaired = if e.target = .sleep then s.grn.repaired else []) ∧
  (∀ (s : State) (y : Bool) (a : BitVec 3), Answers (exec (.por y a) s) fun t => t.grn.repaired = []) ∧
  ∀ s : State, s.pwr.state = .sleep → s.grn.retention = true →
    Answers (exec .pgSramLossInSleep s) fun t => t.grn.repaired = [] ∧ t.grn.lost = true ∧ Keeps [.grn] s t
end

