-- ==== Sys2Proof/Laws/Keeps.lean ====
section
/-!
SUPPORT. How "nothing but these parts changed" composes: over a record update, a condition, a fold and
a further operation.
-/

namespace Sys2Proof.Laws

-- Each proof is checked before the next begins: hundreds at once would ask for a thread each.
set_option Elab.async false
set_option linter.all false

open Sys2Proof Sys2Proof.Machine Sys2Proof.Safety

/-- Every part of the first list stands in the second. -/
def sub (l m : List Zone) : Bool := l.all fun p => m.contains p

theorem sub_mem {l m : List Zone} (h : sub l m = true) {p : Zone} (hp : p ∉ m) : p ∉ l := by
  intro hl
  have := List.all_eq_true.mp h p hl
  exact hp (by simpa using this)

theorem same_refl (p : Zone) (s : State) : same p s s := by cases p <;> rfl

theorem same_trans {p : Zone} {s t u : State} (h : same p s t) (k : same p t u) : same p s u := by
  cases p <;> simp only [same] at * <;> try exact k.trans h
  · rw [← h, ← k]
  · rw [← h, ← k]

theorem keeps_refl (l : List Zone) (s : State) : Keeps l s s := fun p _ => same_refl p s

theorem keeps_trans {l : List Zone} {s t u : State} (h : Keeps l s t) (k : Keeps l t u) : Keeps l s u :=
  fun p hp => same_trans (h p hp) (k p hp)

theorem keeps_mono {l m : List Zone} {s t : State} (h : Keeps l s t) (k : sub l m = true) : Keeps m s t :=
  fun p hp => h p (sub_mem k hp)

/-- A further operation that keeps more. -/
theorem keeps_step {l m : List Zone} {s t u : State} (k : Keeps m t u) (j : sub m l = true)
    (h : Keeps l s t) : Keeps l s u := keeps_trans h (keeps_mono k j)

/-- A claim that stands unless it is waived (b = true). -/
def butIf (b : Bool) (p : Prop) : Prop := b = false → p

theorem butIf_eq {α : Type} {b : Bool} (x : α) : butIf b (x = x) := fun _ => rfl

theorem butIf_in {b : Bool} {p : Prop} (h : b = true) : butIf b p := fun k => by
  rw [h] at k
  cases k

theorem butIf_of {b : Bool} {p : Prop} (h : p) : butIf b p := fun _ => h

theorem butIf_hif {b : Bool} {h : Hif} {a : Tab Auth 5} (e : a = h.auth) :
    butIf b ({ h with auth := a } = h) := fun _ => by subst e; rfl

theorem butIf_grn {b : Bool} {g : Granary} {m : List Host.Cell} (e : m = g.mem) :
    butIf b ({ g with mem := m } = g) := fun _ => by subst e; rfl

/-- A record update of a state: the queue stays, and every part that changes is listed. -/
theorem keeps_mk {l : List Zone} {s t : State}
    {v1 : Nat} {v2 : Nat} {v3 : List Emit} {v4 : PartId} {v5 : Hif} {v6 : Dma} {v7 : Granary} {v8 :
    Compose} {v9 : Photo} {v10 : Hedge} {v11 : Lamp} {v12 : Link} {v13 : Health} {v14 : Rails} {v15
    : Power} {v16 : Thermal} {v17 : Reeve} {v18 : Yoke} {v19 : Bell} {v20 : Eths} {v21 : Mgt} {v22 :
    Boot} {v23 : Tab Aux 4} {v24 : Tab Crcu 4} {v25 : Gpio} {v26 : Test} {v27 : List Cmd} {v28 :
    Nat} {v29 : List MaskEntry} {v30 : List DmaJob} {v31 : List Cmd}
    {v32 : Option Cmd} {v33 : Option Saved}
    (h : Keeps l s t)
    (k :
      butIf (l.contains .now) (v1 = t.now) ∧
      butIf (l.contains .free) (v2 = t.free) ∧
      butIf (l.contains .out) (v3 = t.out) ∧
      butIf (l.contains .part) (v4 = t.part) ∧
      butIf (l.contains .hif) ({ v5 with auth := t.hif.auth } = t.hif) ∧
      butIf (l.contains .auth) (v5.auth = t.hif.auth) ∧
      butIf (l.contains .dma) (v6 = t.dma) ∧
      butIf (l.contains .grn) ({ v7 with mem := t.grn.mem } = t.grn) ∧
      butIf (l.contains .mem) (v7.mem = t.grn.mem) ∧
      butIf (l.contains .cmp) (v8 = t.cmp) ∧
      butIf (l.contains .pho) (v9 = t.pho) ∧
      butIf (l.contains .hdg) (v10 = t.hdg) ∧
      butIf (l.contains .lpl) (v11 = t.lpl) ∧
      butIf (l.contains .link) (v12 = t.link) ∧
      butIf (l.contains .pxh) (v13 = t.pxh) ∧
      butIf (l.contains .rail) (v14 = t.rail) ∧
      butIf (l.contains .pwr) (v15 = t.pwr) ∧
      butIf (l.contains .thm) (v16 = t.thm) ∧
      butIf (l.contains .rve) (v17 = t.rve) ∧
      butIf (l.contains .yok) (v18 = t.yok) ∧
      butIf (l.contains .bel) (v19 = t.bel) ∧
      butIf (l.contains .eth) (v20 = t.eth) ∧
      butIf (l.contains .mgt) (v21 = t.mgt) ∧
      butIf (l.contains .boot) (v22 = t.boot) ∧
      butIf (l.contains .aux) (v23 = t.aux) ∧
      butIf (l.contains .crcu) (v24 = t.crcu) ∧
      butIf (l.contains .gpio) (v25 = t.gpio) ∧
      butIf (l.contains .tst) (v26 = t.tst) ∧
      butIf (l.contains .running) (v27 = t.running) ∧
      butIf (l.contains .nextSer) (v28 = t.nextSer) ∧
      butIf (l.contains .maskQ) (v29 = t.maskQ) ∧
      butIf (l.contains .jobs) (v30 = t.jobs) ∧
      butIf (l.contains .kernels) (v31 = t.kernels) ∧
      butIf (l.contains .marchCmd) (v32 = t.marchCmd) ∧
      butIf (l.contains .saved) (v33 = t.saved) := by
        and_intros <;> first | exact butIf_in rfl | with_reducible exact butIf_hif rfl |
          with_reducible exact butIf_grn rfl | with_reducible exact butIf_eq _ | exact butIf_of rfl) :
    Keeps l s
      (State.mk t.pending v1 v2 v3 v4 v5 v6 v7 v8 v9 v10 v11 v12 v13 v14 v15 v16 v17 v18 v19 v20
      v21 v22 v23 v24 v25 v26 v27 v28 v29 v30 v31 v32 v33) := by
  refine keeps_trans h fun p hp => ?_
  have hp' : l.contains p = false := by simpa using hp
  obtain ⟨k0, k1, k2, k3, k4, k5, k6, k7, k8, k9, k10, k11, k12, k13, k14, k15, k16, k17, k18, k19, k20, k21, k22, k23, k24, k25, k26, k27, k28, k29, k30, k31, k32, k33, k34⟩ := k
  cases p
  · rfl
  · exact k0 hp'
  · exact k1 hp'
  · exact k2 hp'
  · exact k3 hp'
  · exact k4 hp'
  · exact k5 hp'
  · exact k6 hp'
  · exact k7 hp'
  · exact k8 hp'
  · exact k9 hp'
  · exact k10 hp'
  · exact k11 hp'
  · exact k12 hp'
  · exact k13 hp'
  · exact k14 hp'
  · exact k15 hp'
  · exact k16 hp'
  · exact k17 hp'
  · exact k18 hp'
  · exact k19 hp'
  · exact k20 hp'
  · exact k21 hp'
  · exact k22 hp'
  · exact k23 hp'
  · exact k24 hp'
  · exact k25 hp'
  · exact k26 hp'
  · exact k27 hp'
  · exact k28 hp'
  · exact k29 hp'
  · exact k30 hp'
  · exact k31 hp'
  · exact k32 hp'
  · exact k33 hp'
  · exact k34 hp'

theorem keeps_ite {l : List Zone} {s t u : State} {c : Prop} [Decidable c] (h : Keeps l s t)
    (k : Keeps l s u) : Keeps l s (if c then t else u) := by
  split
  · exact h
  · exact k

theorem keeps_dite {l : List Zone} {s : State} {c : Prop} [Decidable c] {t : c → State} {u : ¬ c → State}
    (h : ∀ x, Keeps l s (t x)) (k : ∀ x, Keeps l s (u x)) : Keeps l s (if x : c then t x else u x) := by
  split
  · exact h _
  · exact k _

theorem keeps_foldl {α : Type} {l : List Zone} {s t : State} {f : State → α → State} {x : List α}
    (h : Keeps l s t) (k : ∀ u a, Keeps l s u → Keeps l s (f u a)) : Keeps l s (x.foldl f t) := by
  induction x generalizing t with
  | nil => exact h
  | cons a x ih => exact ih (k t a h)

theorem keeps_foldl2 {α β : Type} {l : List Zone} {s : State} {t : β × State}
    {f : β × State → α → β × State} {x : List α} (h : Keeps l s t.2)
    (k : ∀ u a, Keeps l s u.2 → Keeps l s (f u a).2) : Keeps l s (x.foldl f t).2 := by
  induction x generalizing t with
  | nil => exact h
  | cons a x ih => exact ih (k t a h)

theorem keeps_foldl3 {α β γ : Type} {l : List Zone} {s : State} {t : β × γ × State}
    {f : β × γ × State → α → β × γ × State} {x : List α} (h : Keeps l s t.2.2)
    (k : ∀ u a, Keeps l s u.2.2 → Keeps l s (f u a).2.2) : Keeps l s (x.foldl f t).2.2 := by
  induction x generalizing t with
  | nil => exact h
  | cons a x ih => exact ih (k t a h)

theorem keeps_whenS {l : List Zone} {s t : State} {g : Bool} {f : State → State}
    (h : Keeps l s t) (k : Keeps l s t → Keeps l s (f t)) : Keeps l s (whenS g f t) := by
  unfold whenS
  split
  · exact k h
  · exact h

/-- The state a command answers with. -/
theorem keeps_next {l m : List Zone} {s t : State} {o : Out} (h : ∃ u, o = .next u ∧ Keeps m t u)
    (j : sub m l = true) (k : Keeps l s t) : ∃ u, o = .next u ∧ Keeps l s u := by
  obtain ⟨u, rfl, hu⟩ := h
  exact ⟨u, rfl, keeps_step hu j k⟩

/-- Where an operation that may fail answers a state, nothing but the listed parts changed. -/
def OKeeps (l : List Zone) (s : State) (o : Option State) : Prop := ∀ t, o = some t → Keeps l s t

theorem okeeps_some {l : List Zone} {s t : State} (h : Keeps l s t) : OKeeps l s (some t) := by
  intro u e
  cases e
  exact h

theorem okeeps_none {l : List Zone} {s : State} : OKeeps l s none :=
  fun _ e => absurd e (Option.some_ne_none _).symm

theorem okeeps_ite {l : List Zone} {s : State} {t u : Option State} {c : Prop} [Decidable c]
    (h : OKeeps l s t) (k : OKeeps l s u) : OKeeps l s (if c then t else u) := by
  split
  · exact h
  · exact k

theorem okeeps_bind {l : List Zone} {s : State} {o : Option State} {f : State → Option State}
    (h : OKeeps l s o) (k : ∀ t, OKeeps l t (f t)) : OKeeps l s (o.bind f) := by
  intro u e
  obtain ⟨t, ht, hu⟩ := Option.bind_eq_some_iff.mp e
  exact keeps_trans (h t ht) (k t u hu)

theorem okeeps_mono {l m : List Zone} {s : State} {o : Option State} (h : OKeeps m s o)
    (j : sub m l = true) : OKeeps l s o := fun t e => keeps_mono (h t e) j

theorem okeeps_step {l m : List Zone} {s t : State} {o : Option State} (h : OKeeps m t o)
    (j : sub m l = true) (k : Keeps l s t) : OKeeps l s o := fun u e => keeps_step (h u e) j k

/-- The state an operation that may fail has answered. -/
theorem keeps_some {l m : List Zone} {s t u : State} {o : Option State} (h : OKeeps m u o)
    (j : sub m l = true) (e : o = some t) (k : Keeps l s u) : Keeps l s t := keeps_step (h t e) j k

end Sys2Proof.Laws
end

