-- ==== Sys2Proof/Laws/KeepOps.lean ====
section
/-!
SUPPORT. Which parts of the state the operations of Ops.lean leave alone.
-/

namespace Sys2Proof.Laws

-- Each proof is checked before the next begins: hundreds at once would ask for a thread each.
set_option Elab.async false
set_option linter.all false

open Sys2Proof Sys2Proof.Machine Sys2Proof.Safety

theorem keeps_emit : ∀ x0 s, Keeps [.out] s (@emit x0 s) := by
  intro x0 s
  unfold emit
  refine keeps_mk ?_
  exact keeps_refl _ _

theorem keeps_signalVec : ∀ x0 s, Keeps [.out, .hif] s (@signalVec x0 s) := by
  intro x0 s
  unfold signalVec
  refine keeps_ite ?_ ?_
  · refine keeps_mk ?_
    exact keeps_refl _ _
  · refine keeps_ite ?_ ?_
    · refine keeps_mk ?_
      exact keeps_refl _ _
    · exact keeps_refl _ _

theorem keeps_emitAll : ∀ x0 s, Keeps [.out] s (@emitAll x0 s) := by
  intro x0 s
  unfold emitAll
  refine keeps_foldl ?_ fun _ _ _ => ?_
  · exact keeps_refl _ _
  · refine keeps_step (keeps_emit _ _) rfl ?_
    assumption

theorem keeps_freshBits : ∀ x0 s, Keeps [.free] s (@freshBits x0 s).2 := by
  intro x0 s
  unfold freshBits
  dsimp only
  refine keeps_mk ?_
  exact keeps_refl _ _

theorem keeps_freshBool : ∀ s, Keeps [.free] s (@freshBool s).2 := by
  intro s
  unfold freshBool
  dsimp only
  refine keeps_mk ?_
  exact keeps_refl _ _

theorem keeps_raise : ∀ x0 x1 x2 s, Keeps [.rve] s (@raise x0 x1 x2 s) := by
  intro x0 x1 x2 s
  unfold raise
  refine keeps_ite ?_ ?_
  · refine keeps_mk ?_
    exact keeps_refl _ _
  · exact keeps_refl _ _

theorem keeps_noteDenied : ∀ x0 s, Keeps [.hif, .rve] s (@noteDenied x0 s) := by
  intro x0 s
  unfold noteDenied
  split
  · exact keeps_refl _ _
  · refine keeps_step (keeps_raise _ _ _ _) rfl ?_
    refine keeps_mk ?_
    exact keeps_refl _ _

theorem keeps_foldDigest : ∀ x0 s, Keeps [.yok] s (@foldDigest x0 s) := by
  intro x0 s
  unfold foldDigest
  refine keeps_ite ?_ ?_
  · exact keeps_refl _ _
  · dsimp only
    refine keeps_mk ?_
    exact keeps_refl _ _

theorem keeps_settleRing : ∀ x0 s, Keeps [.hif] s (@settleRing x0 s) := by
  intro x0 s
  unfold settleRing
  dsimp only
  refine keeps_ite ?_ ?_
  · refine keeps_mk ?_
    exact keeps_refl _ _
  · exact keeps_refl _ _

theorem keeps_queueCpl : ∀ x0 x1 s, Keeps [.hif] s (@queueCpl x0 x1 s) := by
  intro x0 x1 s
  unfold queueCpl
  refine keeps_mk ?_
  exact keeps_refl _ _

theorem keeps_deliver : ∀ x0 x1 x2 s, Keeps [.hif, .rve, .eth, .mgt] s (@deliver x0 x1 x2 s) := by
  intro x0 x1 x2 s
  unfold deliver
  dsimp only
  split
  · refine keeps_step (keeps_settleRing _ _) rfl ?_
    refine keeps_ite ?_ ?_
    · refine keeps_mk ?_
      exact keeps_refl _ _
    · refine keeps_step (keeps_queueCpl _ _ _) rfl ?_
      refine keeps_mk ?_
      exact keeps_refl _ _
  · refine keeps_mk ?_
    exact keeps_refl _ _
  · refine keeps_ite ?_ ?_
    · refine keeps_mk ?_
      exact keeps_refl _ _
    · refine keeps_mk ?_
      exact keeps_refl _ _
  · refine keeps_ite ?_ ?_
    · exact keeps_refl _ _
    · refine keeps_step (keeps_raise _ _ _ _) rfl ?_
      exact keeps_refl _ _
  · exact keeps_refl _ _

theorem keeps_moveArrivals : ∀ x0 s, Keeps [.maskQ] s (@moveArrivals x0 s) := by
  intro x0 s
  unfold moveArrivals
  refine keeps_mk ?_
  exact keeps_refl _ _

theorem keeps_complete : ∀ x0 x1 x2 x3 s, Keeps [.hif, .rve, .eth, .mgt, .running, .maskQ] s
    (@complete x0 x1 x2 x3 s) := by
  intro x0 x1 x2 x3 s
  unfold complete
  split
  · exact keeps_refl _ _
  · dsimp only
    refine keeps_step (keeps_deliver _ _ _ _) rfl ?_
    refine keeps_step (keeps_moveArrivals _ _) rfl ?_
    refine keeps_mk ?_
    exact keeps_refl _ _

theorem keeps_issueCommit : ∀ s, Keeps [.lpl, .yok] s (@issueCommit s) := by
  intro s
  unfold issueCommit
  refine keeps_mk ?_
  exact keeps_refl _ _

theorem keeps_finish : ∀ x0 x1 x2 s, Keeps [.hif, .lpl, .rve, .yok, .eth, .mgt, .running, .maskQ] s
    (@finish x0 x1 x2 s) := by
  intro x0 x1 x2 s
  unfold finish
  refine keeps_ite ?_ ?_
  · dsimp only
    refine keeps_mk ?_
    refine keeps_step (keeps_issueCommit _) rfl ?_
    exact keeps_refl _ _
  · refine keeps_step (keeps_complete _ _ _ _ _) rfl ?_
    exact keeps_refl _ _

theorem keeps_finishOk : ∀ x0 s, Keeps [.hif, .lpl, .rve, .yok, .eth, .mgt, .running, .maskQ] s
    (@finishOk x0 s) := by
  intro x0 s
  unfold finishOk
  refine keeps_step (keeps_finish _ _ _ _) rfl ?_
  exact keeps_refl _ _

theorem keeps_shadowAll : ∀ x0 s, Keeps [.lpl] s (@shadowAll x0 s) := by
  intro x0 s
  unfold shadowAll
  refine keeps_mk ?_
  exact keeps_refl _ _

/-- The parts the body of a command opcode may change. -/
def BodyKeeps (l : List Zone) (b : Body) : Prop :=
  (∀ c s, Keeps l s (b.run c s)) ∧ ∀ c st s, Keeps l s (b.fail c st s)

/-- What executing any command may change beside its body's parts. -/
def commonZones : List Zone := [.hif, .rve, .yok, .eth, .mgt, .running, .nextSer, .maskQ]

theorem keeps_execute {l m : List Zone} {s t : State} {b : Body} {c : Cmd} (hm : sub m l = true)
    (hc : sub commonZones l = true) (hb : BodyKeeps m b) (h : Keeps l s t) :
    Keeps l s (execute b c t) := by
  unfold execute
  split
  · refine keeps_trans h ?_
    refine keeps_trans ?_ (keeps_mono (keeps_mono (keeps_complete _ _ _ _ _) (m := commonZones) rfl) hc)
    split
    · exact keeps_mono (keeps_mono (keeps_noteDenied _ _) (m := commonZones) rfl) hc
    · exact keeps_refl _ _
  · split
    · refine keeps_trans h ?_
      refine keeps_trans ?_ (keeps_mono (keeps_mono (keeps_complete _ _ _ _ _) (m := commonZones) rfl) hc)
      refine keeps_trans ?_ (keeps_mono (hb.2 _ _ _) hm)
      split
      · exact keeps_mono (keeps_mono (keeps_foldDigest _ _) (m := commonZones) rfl) hc
      · exact keeps_refl _ _
    · refine keeps_trans h ?_
      refine keeps_trans ?_ (keeps_mono (hb.1 _ _) hm)
      exact keeps_mono (keeps_mono (keeps_foldDigest _ _) (m := commonZones) rfl) hc

theorem keeps_startCmd {l m : List Zone} {s t : State} {b : Body} {src : Src} {arr : Nat} {d : Desc}
    (hm : sub m l = true) (hc : sub commonZones l = true) (hb : BodyKeeps m b) (h : Keeps l s t) :
    Keeps l s (startCmd b src arr d t) := by
  unfold startCmd
  refine keeps_execute hm hc hb (keeps_trans h ?_)
  refine keeps_mono (m := l) (l := commonZones) ?_ hc
  exact keeps_mk (keeps_refl _ _)

theorem keeps_runRow {l m : List Zone} {s t : State} {op : Nat} {b : Body} {src : Src} {d : Desc}
    (hm : sub m l = true) (hc : sub commonZones l = true) (hb : BodyKeeps m b) (h : Keeps l s t) :
    Keeps l s (runRow op b src d t) := by
  unfold runRow
  dsimp only
  split
  · exact keeps_startCmd hm hc hb h
  · exact h

end Sys2Proof.Laws
end

