-- ==== Sys2Proof/Laws/KeepGranaryOps.lean ====
section
/-!
SUPPORT. Which parts of the state the operations of GranaryOps.lean leave alone.
-/

namespace Sys2Proof.Laws

-- Each proof is checked before the next begins: hundreds at once would ask for a thread each.
set_option Elab.async false
set_option linter.all false

open Sys2Proof Sys2Proof.Machine Sys2Proof.Safety

theorem keeps_violation : ∀ x0 x1 x2 x3 s, Keeps [.grn, .rve] s (@violation x0 x1 x2 x3 s) := by
  intro x0 x1 x2 x3 s
  unfold violation
  refine keeps_step (keeps_raise _ _ _ _) rfl ?_
  refine keeps_mk ?_
  exact keeps_refl _ _

theorem keeps_eccEvent : ∀ x0 x1 x2 x3 s, Keeps [.free, .grn, .rve] s (@eccEvent x0 x1 x2 x3 s) :=
    by
  intro x0 x1 x2 x3 s
  unfold eccEvent
  refine keeps_step (keeps_raise _ _ _ _) rfl ?_
  refine keeps_mk ?_
  exact keeps_refl _ _

theorem keeps_startRepair : ∀ x0 s, Keeps [.grn] s (@startRepair x0 s) := by
  intro x0 s
  unfold startRepair
  refine keeps_ite ?_ ?_
  · refine keeps_mk ?_
    exact keeps_refl _ _
  · refine keeps_mk ?_
    exact keeps_refl _ _

theorem keeps_readWord : ∀ x0 x1 x2 s, Keeps [.free, .grn, .rve] s (@readWord x0 x1 x2 s).2 := by
  intro x0 x1 x2 s
  unfold readWord
  dsimp only
  split
  · dsimp only
    refine keeps_mk ?_
    exact keeps_refl _ _
  · dsimp only
    refine keeps_step (keeps_eccEvent _ _ _ _ _) rfl ?_
    refine keeps_mk ?_
    exact keeps_refl _ _
  · split
    · dsimp only
      refine keeps_mk ?_
      exact keeps_refl _ _
    · split
      · dsimp only
        refine keeps_step (keeps_startRepair _ _) rfl ?_
        refine keeps_step (keeps_eccEvent _ _ _ _ _) rfl ?_
        refine keeps_mk ?_
        exact keeps_refl _ _
      · dsimp only
        refine keeps_step (keeps_eccEvent _ _ _ _ _) rfl ?_
        refine keeps_mk ?_
        exact keeps_refl _ _

theorem keeps_readWords : ∀ x0 x1 x2 x3 s, Keeps [.free, .grn, .rve] s (@readWords x0 x1 x2 x3 s).2
    := by
  intro x0 x1 x2 x3 s
  unfold readWords
  refine keeps_foldl2 ?_ fun _ _ _ => ?_
  · dsimp only
    exact keeps_refl _ _
  · dsimp only
    refine keeps_step (keeps_readWord _ _ _ _) rfl ?_
    assumption

theorem keeps_readMarked : ∀ x0 x1 x2 s, Keeps [.free, .grn, .rve] s (@readMarked x0 x1 x2 s).2 :=
    by
  intro x0 x1 x2 s
  unfold readMarked
  refine keeps_foldl2 ?_ fun _ _ _ => ?_
  · dsimp only
    exact keeps_refl _ _
  · dsimp only
    refine keeps_step (keeps_readWord _ _ _ _) rfl ?_
    assumption

theorem keeps_markDirty : ∀ x0 x1 s, Keeps [.yok] s (@markDirty x0 x1 s) := by
  intro x0 x1 s
  unfold markDirty
  dsimp only
  refine keeps_ite ?_ ?_
  · refine keeps_mk ?_
    exact keeps_refl _ _
  · exact keeps_refl _ _

theorem keeps_storeBytes : ∀ x0 x1 s, Keeps [.grn, .mem, .yok] s (@storeBytes x0 x1 s) := by
  intro x0 x1 s
  unfold storeBytes
  refine keeps_ite ?_ ?_
  · exact keeps_refl _ _
  · dsimp only
    refine keeps_step (keeps_markDirty _ _ _) rfl ?_
    refine keeps_mk ?_
    exact keeps_refl _ _

theorem keeps_readFirst : ∀ x0 x1 x2 s, Keeps [.free, .grn, .rve] s (@readFirst x0 x1 x2 s).2 := by
  intro x0 x1 x2 s
  unfold readFirst
  refine keeps_foldl2 ?_ fun _ _ _ => ?_
  · dsimp only
    exact keeps_refl _ _
  · dsimp only
    refine keeps_step (keeps_readWord _ _ _ _) rfl ?_
    assumption

theorem keeps_grnStore : ∀ x0 x1 x2 x3 x4 s, Keeps [.free, .grn, .mem, .rve, .yok] s (@grnStore x0
    x1 x2 x3 x4 s).2 := by
  intro x0 x1 x2 x3 x4 s
  unfold grnStore
  dsimp only
  split
  · split
    · dsimp only
      refine keeps_step (keeps_storeBytes _ _ _) rfl ?_
      refine keeps_step (keeps_readFirst _ _ _ _) rfl ?_
      exact keeps_refl _ _
    · dsimp only
      refine keeps_step (keeps_readFirst _ _ _ _) rfl ?_
      exact keeps_refl _ _
  · split
    · dsimp only
      refine keeps_step (keeps_storeBytes _ _ _) rfl ?_
      refine keeps_step (keeps_readFirst _ _ _ _) rfl ?_
      exact keeps_refl _ _
    · dsimp only
      refine keeps_step (keeps_readFirst _ _ _ _) rfl ?_
      exact keeps_refl _ _

theorem keeps_grnWrite : ∀ x0 x1 x2 x3 s, Keeps [.free, .grn, .mem, .rve, .yok] s (@grnWrite x0 x1
    x2 x3 s).2 := by
  intro x0 x1 x2 x3 s
  unfold grnWrite
  dsimp only
  refine keeps_step (keeps_storeBytes _ _ _) rfl ?_
  refine keeps_step (keeps_readFirst _ _ _ _) rfl ?_
  exact keeps_refl _ _

theorem keeps_scramble : ∀ x0 x1 s, Keeps [.free, .grn, .mem, .yok] s (@scramble x0 x1 s) := by
  intro x0 x1 s
  unfold scramble
  dsimp only
  refine keeps_ite ?_ ?_
  · refine keeps_step (keeps_markDirty _ _ _) rfl ?_
    refine keeps_mk ?_
    exact keeps_refl _ _
  · refine keeps_mk ?_
    exact keeps_refl _ _

theorem keeps_coreWrite : ∀ x0 x1 s, Keeps [.free, .grn, .mem, .rve, .yok] s (@coreWrite x0 x1 s).2
    := by
  intro x0 x1 s
  unfold coreWrite
  split
  · refine keeps_step (keeps_grnWrite _ _ _ _ _) rfl ?_
    exact keeps_refl _ _
  · dsimp only
    split
    · dsimp only
      refine keeps_step (keeps_violation _ _ _ _ _) rfl ?_
      refine keeps_step (keeps_grnWrite _ _ _ _ _) rfl ?_
      exact keeps_refl _ _
    · refine keeps_step (keeps_grnWrite _ _ _ _ _) rfl ?_
      exact keeps_refl _ _

theorem keeps_coreRead : ∀ x0 x1 s, Keeps [.free, .grn, .rve] s (@coreRead x0 x1 s).2 := by
  intro x0 x1 s
  unfold coreRead
  split
  · dsimp only
    refine keeps_step (keeps_readWords _ _ _ _ _) rfl ?_
    exact keeps_refl _ _
  · dsimp only
    refine keeps_ite ?_ ?_
    · split
      · refine keeps_step (keeps_readWords _ _ _ _ _) rfl ?_
        exact keeps_refl _ _
      · dsimp only
        exact keeps_refl _ _
    · refine keeps_step (keeps_violation _ _ _ _ _) rfl ?_
      split
      · refine keeps_step (keeps_readWords _ _ _ _ _) rfl ?_
        exact keeps_refl _ _
      · dsimp only
        exact keeps_refl _ _

theorem keeps_serveHost : ∀ s x1, Keeps [.free, .out, .grn, .mem, .rve, .yok] s (@serveHost s x1) :=
    by
  intro s x1
  unfold serveHost
  split
  · refine keeps_ite ?_ ?_
    · dsimp only
      refine keeps_step (keeps_emit _ _) rfl ?_
      refine keeps_step (keeps_readWords _ _ _ _ _) rfl ?_
      exact keeps_refl _ _
    · refine keeps_step (keeps_emit _ _) rfl ?_
      refine keeps_step (keeps_violation _ _ _ _ _) rfl ?_
      exact keeps_refl _ _
  · refine keeps_ite ?_ ?_
    · refine keeps_step (keeps_grnWrite _ _ _ _ _) rfl ?_
      exact keeps_refl _ _
    · refine keeps_step (keeps_violation _ _ _ _ _) rfl ?_
      exact keeps_refl _ _

theorem keeps_hostAccess : ∀ x0 s, Keeps [.free, .out, .hif, .grn, .mem, .rve, .yok] s (@hostAccess
    x0 s) := by
  intro x0 s
  unfold hostAccess
  refine keeps_ite ?_ ?_
  · refine keeps_step (keeps_serveHost _ _) rfl ?_
    exact keeps_refl _ _
  · refine keeps_mk ?_
    exact keeps_refl _ _

theorem keeps_serveWaiting : ∀ s, Keeps [.free, .out, .hif, .grn, .mem, .rve, .yok] s (@serveWaiting
    s) := by
  intro s
  unfold serveWaiting
  refine keeps_foldl ?_ fun _ _ _ => ?_
  · refine keeps_mk ?_
    exact keeps_refl _ _
  · refine keeps_step (keeps_serveHost _ _) rfl ?_
    assumption

end Sys2Proof.Laws
end

