-- ==== Sys2Proof/Laws/KeepFrameReads.lean ====
section
/-!
SUPPORT. Which parts of the state the operations of FrameReads.lean leave alone.
-/

namespace Sys2Proof.Laws

-- Each proof is checked before the next begins: hundreds at once would ask for a thread each.
set_option Elab.async false
set_option linter.all false

open Sys2Proof Sys2Proof.Machine Sys2Proof.Safety

theorem keeps_readsEcc : ∀ x0 x1 s, Keeps [.free, .grn, .rve] s (@readsEcc x0 x1 s) := by
  intro x0 x1 s
  unfold readsEcc
  dsimp only
  refine keeps_foldl ?_ fun _ _ _ => ?_
  · refine keeps_mk ?_
    exact keeps_refl _ _
  · refine keeps_step (keeps_readWord _ _ _ _) rfl ?_
    assumption

theorem keeps_frameEcc : ∀ x0 s, Keeps [.free, .grn, .rve] s (@frameEcc x0 s) := by
  intro x0 s
  unfold frameEcc
  refine keeps_ite ?_ ?_
  · exact keeps_refl _ _
  · refine keeps_step (keeps_readsEcc _ _ _) rfl ?_
    exact keeps_refl _ _

theorem keeps_layerEcc : ∀ x0 x1 s, Keeps [.free, .grn, .rve] s (@layerEcc x0 x1 s) := by
  intro x0 x1 s
  unfold layerEcc
  refine keeps_ite ?_ ?_
  · exact keeps_refl _ _
  · refine keeps_step (keeps_readsEcc _ _ _) rfl ?_
    exact keeps_refl _ _

theorem keeps_denyOne : ∀ x0 s, Keeps [.free, .grn, .rve] s (@denyOne x0 s) := by
  intro x0 s
  unfold denyOne
  split
  · exact keeps_refl _ _
  · dsimp only
    refine keeps_step (keeps_violation _ _ _ _ _) rfl ?_
    refine keeps_mk ?_
    exact keeps_refl _ _

theorem keeps_denyLayer : ∀ x0 x1 s, Keeps [.free, .grn, .rve] s (@denyLayer x0 x1 s) := by
  intro x0 x1 s
  unfold denyLayer
  split
  · exact keeps_refl _ _
  · refine keeps_ite ?_ ?_
    · exact keeps_refl _ _
    · refine keeps_step (keeps_denyOne _ _) rfl ?_
      exact keeps_refl _ _

theorem keeps_frameDenied : ∀ x0 s x2, Keeps [.free, .grn, .rve] s (@frameDenied x0 s x2) := by
  intro x0 s x2
  unfold frameDenied
  split
  · exact keeps_refl _ _
  · refine keeps_step (keeps_denyLayer _ _ _) rfl ?_
    exact keeps_refl _ _

theorem keeps_lateDenied : ∀ x0 s x2, Keeps [.free, .grn, .rve] s (@lateDenied x0 s x2) := by
  intro x0 s x2
  unfold lateDenied
  split
  · exact keeps_refl _ _
  · dsimp only
    refine keeps_ite ?_ ?_
    · exact keeps_refl _ _
    · refine keeps_ite ?_ ?_
      · refine keeps_step (keeps_denyLayer _ _ _) rfl ?_
        refine keeps_step (keeps_freshBool _) rfl ?_
        exact keeps_refl _ _
      · refine keeps_step (keeps_freshBool _) rfl ?_
        exact keeps_refl _ _

end Sys2Proof.Laws
end

