-- ==== Sys2Proof/Laws/KeepDmaOps.lean ====
section
/-!
SUPPORT. Which parts of the state the operations of DmaOps.lean leave alone.
-/

namespace Sys2Proof.Laws

-- Each proof is checked before the next begins: hundreds at once would ask for a thread each.
set_option Elab.async false
set_option linter.all false

open Sys2Proof Sys2Proof.Machine Sys2Proof.Safety

theorem keeps_endBurst : ∀ x0 s, Keeps [.dma] s (@endBurst x0 s) := by
  intro x0 s
  unfold endBurst
  refine keeps_mk ?_
  exact keeps_refl _ _

theorem keeps_modCh : ∀ x0 x1 s, Keeps [.dma] s (@modCh x0 x1 s) := by
  intro x0 x1 s
  unfold modCh
  refine keeps_mk ?_
  exact keeps_refl _ _

theorem keeps_dmaHalt : ∀ x0 x1 x2 x3 s, Keeps [.dma, .rve] s (@dmaHalt x0 x1 x2 x3 s) := by
  intro x0 x1 x2 x3 s
  unfold dmaHalt
  refine keeps_ite ?_ ?_
  · refine keeps_step (keeps_modCh _ _ _) rfl ?_
    exact keeps_refl _ _
  · refine keeps_step (keeps_raise _ _ _ _) rfl ?_
    refine keeps_step (keeps_modCh _ _ _) rfl ?_
    refine keeps_step (keeps_endBurst _ _) rfl ?_
    exact keeps_refl _ _

theorem keeps_askDesc : ∀ x0 x1 s, Keeps [.out] s (@askDesc x0 x1 s) := by
  intro x0 x1 s
  unfold askDesc
  refine keeps_ite ?_ ?_
  · refine keeps_step (keeps_emit _ _) rfl ?_
    exact keeps_refl _ _
  · exact keeps_refl _ _

theorem keeps_startChain : ∀ x0 x1 x2 s, Keeps [.out, .dma] s (@startChain x0 x1 x2 s) := by
  intro x0 x1 x2 s
  unfold startChain
  refine keeps_step (keeps_askDesc _ _ _) rfl ?_
  refine keeps_step (keeps_modCh _ _ _) rfl ?_
  exact keeps_refl _ _

theorem keeps_startJob : ∀ x0 x1 s, Keeps [.free, .out, .dma, .hdg] s (@startJob x0 x1 s) := by
  intro x0 x1 s
  unfold startJob
  dsimp only
  refine keeps_ite ?_ ?_
  · refine keeps_step (keeps_startChain _ _ _ _) rfl ?_
    refine keeps_mk ?_
    exact keeps_refl _ _
  · refine keeps_step (keeps_modCh _ _ _) rfl ?_
    refine keeps_mk ?_
    exact keeps_refl _ _

theorem keeps_reapJobs : ∀ s, Keeps [.jobs] s (@reapJobs s) := by
  intro s
  unfold reapJobs
  refine keeps_mk ?_
  exact keeps_refl _ _

theorem keeps_askTransfer : ∀ x0 s, Keeps [.free, .out, .dma, .hdg, .jobs] s (@askTransfer x0 s) :=
    by
  intro x0 s
  unfold askTransfer
  dsimp only
  split
  · refine keeps_step (keeps_startJob _ _ _) rfl ?_
    refine keeps_mk ?_
    refine keeps_step (keeps_reapJobs _) rfl ?_
    exact keeps_refl _ _
  · refine keeps_mk ?_
    refine keeps_step (keeps_reapJobs _) rfl ?_
    exact keeps_refl _ _

theorem keeps_dropJob : ∀ x0 s, Keeps [.jobs] s (@dropJob x0 s) := by
  intro x0 s
  unfold dropJob
  refine keeps_mk ?_
  exact keeps_refl _ _

theorem keeps_setJob : ∀ x0 x1 s, Keeps [.jobs] s (@setJob x0 x1 s) := by
  intro x0 x1 s
  unfold setJob
  refine keeps_mk ?_
  exact keeps_refl _ _

theorem keeps_dmaStop : ∀ x0 s, Keeps [.dma] s (@dmaStop x0 s) := by
  intro x0 s
  unfold dmaStop
  split
  · refine keeps_step (keeps_modCh _ _ _) rfl ?_
    exact keeps_refl _ _
  · refine keeps_step (keeps_modCh _ _ _) rfl ?_
    exact keeps_refl _ _
  · refine keeps_step (keeps_modCh _ _ _) rfl ?_
    exact keeps_refl _ _
  · exact keeps_refl _ _

theorem keeps_abortHalted : ∀ x0 s, Keeps [.free, .dma] s (@abortHalted x0 s) := by
  intro x0 s
  unfold abortHalted
  dsimp only
  refine keeps_step (keeps_modCh _ _ _) rfl ?_
  refine keeps_mk ?_
  exact keeps_refl _ _

theorem keeps_dmaAbort : ∀ x0 s, Keeps [.free, .dma, .grn, .mem, .yok] s (@dmaAbort x0 s) := by
  intro x0 s
  unfold dmaAbort
  dsimp only
  refine keeps_ite ?_ ?_
  · refine keeps_step (keeps_abortHalted _ _) rfl ?_
    exact keeps_refl _ _
  · refine keeps_ite ?_ ?_
    · exact keeps_refl _ _
    · refine keeps_step (keeps_modCh _ _ _) rfl ?_
      refine keeps_step (keeps_endBurst _ _) rfl ?_
      refine keeps_mk ?_
      split
      · refine keeps_ite ?_ ?_
        · exact keeps_refl _ _
        · refine keeps_foldl ?_ fun _ _ _ => ?_
          · exact keeps_refl _ _
          · refine keeps_step (keeps_scramble _ _ _) rfl ?_
            assumption
      · exact keeps_refl _ _

theorem keeps_dmaStopAll : ∀ s, Keeps [.dma] s (@dmaStopAll s) := by
  intro s
  unfold dmaStopAll
  refine keeps_foldl ?_ fun _ _ _ => ?_
  · exact keeps_refl _ _
  · refine keeps_step (keeps_dmaStop _ _) rfl ?_
    assumption

end Sys2Proof.Laws
end

