-- ==== Sys2Proof/Laws/KeepRings.lean ====
section
/-!
SUPPORT. Which parts of the state the operations of Rings.lean leave alone.
-/

namespace Sys2Proof.Laws

-- Each proof is checked before the next begins: hundreds at once would ask for a thread each.
set_option Elab.async false
set_option linter.all false

open Sys2Proof Sys2Proof.Machine Sys2Proof.Safety

theorem keeps_modSq : ∀ x0 x1 s, Keeps [.hif] s (@modSq x0 x1 s) := by
  intro x0 x1 s
  unfold modSq
  refine keeps_mk ?_
  exact keeps_refl _ _

theorem keeps_modCq : ∀ x0 x1 s, Keeps [.hif] s (@modCq x0 x1 s) := by
  intro x0 x1 s
  unfold modCq
  refine keeps_mk ?_
  exact keeps_refl _ _

theorem keeps_requestEntries : ∀ x0 s, Keeps [.out, .hif] s (@requestEntries x0 s) := by
  intro x0 s
  unfold requestEntries
  dsimp only
  refine keeps_ite ?_ ?_
  · refine keeps_step (keeps_emit _ _) rfl ?_
    refine keeps_step (keeps_modSq _ _ _) rfl ?_
    exact keeps_refl _ _
  · exact keeps_refl _ _

theorem keeps_readDoorbell : ∀ x0 s, Keeps [.out, .hif] s (@readDoorbell x0 s) := by
  intro x0 s
  unfold readDoorbell
  dsimp only
  refine keeps_whenS ?_ fun _ => ?_
  · exact keeps_refl _ _
  · refine keeps_step (keeps_emit _ _) rfl ?_
    refine keeps_step (keeps_modSq _ _ _) rfl ?_
    exact keeps_refl _ _

theorem keeps_stopRing : ∀ x0 x1 s, Keeps [.hif, .rve] s (@stopRing x0 x1 s) := by
  intro x0 x1 s
  unfold stopRing
  refine keeps_step (keeps_settleRing _ _) rfl ?_
  refine keeps_step (keeps_raise _ _ _ _) rfl ?_
  refine keeps_step (keeps_modSq _ _ _) rfl ?_
  exact keeps_refl _ _

theorem keeps_staleDone : ∀ x0 x1 s, Keeps [.hif, .rve, .eth, .mgt] s (@staleDone x0 x1 s) := by
  intro x0 x1 s
  unfold staleDone
  dsimp only
  refine keeps_step (keeps_deliver _ _ _ _) rfl ?_
  refine keeps_step (keeps_raise _ _ _ _) rfl ?_
  exact keeps_refl _ _

theorem keeps_flushDead : ∀ x0 x1 s, Keeps [.hif, .rve, .eth, .mgt] s (@flushDead x0 x1 s) := by
  intro x0 x1 s
  induction x1 generalizing x0 s with
  | zero =>
    exact keeps_refl _ _
  | succ _ ih =>
    rw [flushDead]
    split
    · refine keeps_step (ih _ _) rfl ?_
      refine keeps_step (keeps_staleDone _ _ _) rfl ?_
      refine keeps_step (keeps_modSq _ _ _) rfl ?_
      exact keeps_refl _ _
    · exact keeps_refl _ _

theorem keeps_execHifKickSq : ∀ x0 s, ∃ t, @execHifKickSq x0 s = .next t ∧ Keeps [.out, .hif] s t :=
    by
  intro x0 s
  unfold execHifKickSq
  refine ⟨_, rfl, ?_⟩
  refine keeps_whenS ?_ fun _ => ?_
  · exact keeps_refl _ _
  · refine keeps_step (keeps_readDoorbell _ _) rfl ?_
    exact keeps_refl _ _

theorem keeps_readConsumer : ∀ x0 s, Keeps [.out, .hif] s (@readConsumer x0 s) := by
  intro x0 s
  unfold readConsumer
  dsimp only
  refine keeps_whenS ?_ fun _ => ?_
  · exact keeps_refl _ _
  · refine keeps_step (keeps_emit _ _) rfl ?_
    refine keeps_step (keeps_modCq _ _ _) rfl ?_
    exact keeps_refl _ _

theorem keeps_execHifKickCq : ∀ x0 s, ∃ t, @execHifKickCq x0 s = .next t ∧ Keeps [.out, .hif] s t :=
    by
  intro x0 s
  unfold execHifKickCq
  refine ⟨_, rfl, ?_⟩
  refine keeps_whenS ?_ fun _ => ?_
  · exact keeps_refl _ _
  · refine keeps_step (keeps_readConsumer _ _) rfl ?_
    exact keeps_refl _ _

theorem keeps_execHifAuthWrite : ∀ x0 x1 s, ∃ t, @execHifAuthWrite x0 x1 s = .next t ∧ Keeps [.hif,
    .auth] s t := by
  intro x0 x1 s
  unfold execHifAuthWrite
  refine ⟨_, rfl, ?_⟩
  refine keeps_whenS ?_ fun _ => ?_
  · exact keeps_refl _ _
  · refine keeps_mk ?_
    exact keeps_refl _ _

theorem keeps_execHifLockAuthLock : ∀ s, ∃ t, @execHifLockAuthLock s = .next t ∧ Keeps [.hif] s t :=
    by
  intro s
  unfold execHifLockAuthLock
  refine ⟨_, rfl, ?_⟩
  refine keeps_whenS ?_ fun _ => ?_
  · exact keeps_refl _ _
  · refine keeps_mk ?_
    exact keeps_refl _ _

theorem keeps_execHifLockRingLock : ∀ s, ∃ t, @execHifLockRingLock s = .next t ∧ Keeps [.hif] s t :=
    by
  intro s
  unfold execHifLockRingLock
  refine ⟨_, rfl, ?_⟩
  refine keeps_whenS ?_ fun _ => ?_
  · exact keeps_refl _ _
  · refine keeps_mk ?_
    exact keeps_refl _ _

theorem keeps_execHifCntClearDrop : ∀ s, ∃ t, @execHifCntClearDrop s = .next t ∧ Keeps [.hif] s t :=
    by
  intro s
  unfold execHifCntClearDrop
  refine ⟨_, rfl, ?_⟩
  refine keeps_whenS ?_ fun _ => ?_
  · exact keeps_refl _ _
  · refine keeps_mk ?_
    exact keeps_refl _ _

theorem keeps_execHifCntClearDenied : ∀ s, ∃ t, @execHifCntClearDenied s = .next t ∧ Keeps [.hif] s
    t := by
  intro s
  unfold execHifCntClearDenied
  refine ⟨_, rfl, ?_⟩
  refine keeps_whenS ?_ fun _ => ?_
  · exact keeps_refl _ _
  · refine keeps_mk ?_
    exact keeps_refl _ _

theorem keeps_enableSq : ∀ x0 s, Keeps [.hif] s (@enableSq x0 s) := by
  intro x0 s
  unfold enableSq
  dsimp only
  refine keeps_whenS ?_ fun _ => ?_
  · exact keeps_refl _ _
  · refine keeps_step (keeps_modSq _ _ _) rfl ?_
    exact keeps_refl _ _

theorem keeps_abortEntries : ∀ x0 s, Keeps [.hif, .rve, .eth, .mgt] s (@abortEntries x0 s) := by
  intro x0 s
  unfold abortEntries
  dsimp only
  refine keeps_foldl ?_ fun _ _ _ => ?_
  · refine keeps_step (keeps_modSq _ _ _) rfl ?_
    exact keeps_refl _ _
  · refine keeps_ite ?_ ?_
    · refine keeps_step (keeps_staleDone _ _ _) rfl ?_
      assumption
    · refine keeps_step (keeps_deliver _ _ _ _) rfl ?_
      assumption

theorem keeps_disableSq : ∀ x0 s, Keeps [.hif, .rve, .eth, .mgt] s (@disableSq x0 s) := by
  intro x0 s
  unfold disableSq
  refine keeps_whenS ?_ fun _ => ?_
  · exact keeps_refl _ _
  · refine keeps_step (keeps_settleRing _ _) rfl ?_
    refine keeps_step (keeps_abortEntries _ _) rfl ?_
    refine keeps_step (keeps_modSq _ _ _) rfl ?_
    exact keeps_refl _ _

theorem keeps_enableCq : ∀ x0 s, Keeps [.hif] s (@enableCq x0 s) := by
  intro x0 s
  unfold enableCq
  refine keeps_whenS ?_ fun _ => ?_
  · exact keeps_refl _ _
  · refine keeps_step (keeps_modCq _ _ _) rfl ?_
    exact keeps_refl _ _

theorem keeps_disableCq : ∀ x0 s, Keeps [.hif, .rve] s (@disableCq x0 s) := by
  intro x0 s
  unfold disableCq
  refine keeps_ite ?_ ?_
  · refine keeps_step (keeps_raise _ _ _ _) rfl ?_
    exact keeps_refl _ _
  · refine keeps_step (keeps_modCq _ _ _) rfl ?_
    exact keeps_refl _ _

theorem keeps_execRingSqEnable : ∀ x0 s, ∃ t, @execRingSqEnable x0 s = .next t ∧ Keeps [.hif] s t :=
    by
  intro x0 s
  unfold execRingSqEnable
  refine ⟨_, rfl, ?_⟩
  refine keeps_whenS ?_ fun _ => ?_
  · exact keeps_refl _ _
  · refine keeps_step (keeps_enableSq _ _) rfl ?_
    exact keeps_refl _ _

theorem keeps_execRingSqDisable : ∀ x0 s, ∃ t, @execRingSqDisable x0 s = .next t ∧ Keeps [.hif,
    .rve, .eth, .mgt] s t := by
  intro x0 s
  unfold execRingSqDisable
  refine ⟨_, rfl, ?_⟩
  refine keeps_whenS ?_ fun _ => ?_
  · exact keeps_refl _ _
  · refine keeps_step (keeps_disableSq _ _) rfl ?_
    exact keeps_refl _ _

theorem keeps_execRingCqEnable : ∀ x0 s, ∃ t, @execRingCqEnable x0 s = .next t ∧ Keeps [.hif] s t :=
    by
  intro x0 s
  unfold execRingCqEnable
  refine ⟨_, rfl, ?_⟩
  refine keeps_whenS ?_ fun _ => ?_
  · exact keeps_refl _ _
  · refine keeps_step (keeps_enableCq _ _) rfl ?_
    exact keeps_refl _ _

theorem keeps_execRingCqDisable : ∀ x0 s, ∃ t, @execRingCqDisable x0 s = .next t ∧ Keeps [.hif,
    .rve] s t := by
  intro x0 s
  unfold execRingCqDisable
  refine ⟨_, rfl, ?_⟩
  refine keeps_whenS ?_ fun _ => ?_
  · exact keeps_refl _ _
  · refine keeps_step (keeps_disableCq _ _) rfl ?_
    exact keeps_refl _ _

theorem keeps_execRingDoorbellPoll : ∀ x0 s, ∃ t, @execRingDoorbellPoll x0 s = .next t ∧ Keeps
    [.out, .hif] s t := by
  intro x0 s
  unfold execRingDoorbellPoll
  refine ⟨_, rfl, ?_⟩
  refine keeps_whenS ?_ fun _ => ?_
  · exact keeps_refl _ _
  · refine keeps_step (keeps_readDoorbell _ _) rfl ?_
    exact keeps_refl _ _

theorem keeps_execProducerIndexReadDone : ∀ x0 x1 s, ∃ t, @execProducerIndexReadDone x0 x1 s = .next
    t ∧ Keeps [.out, .hif, .rve] s t := by
  intro x0 x1 s
  unfold execProducerIndexReadDone
  refine ⟨_, rfl, ?_⟩
  refine keeps_whenS ?_ fun _ => ?_
  · exact keeps_refl _ _
  · dsimp only
    split
    · refine keeps_step (keeps_stopRing _ _ _) rfl ?_
      refine keeps_step (keeps_modSq _ _ _) rfl ?_
      exact keeps_refl _ _
    · refine keeps_ite ?_ ?_
      · refine keeps_step (keeps_stopRing _ _ _) rfl ?_
        refine keeps_step (keeps_modSq _ _ _) rfl ?_
        exact keeps_refl _ _
      · refine keeps_step (keeps_requestEntries _ _) rfl ?_
        refine keeps_step (keeps_modSq _ _ _) rfl ?_
        refine keeps_step (keeps_modSq _ _ _) rfl ?_
        exact keeps_refl _ _

theorem keeps_execRingEntryFetched : ∀ x0 x1 s, ∃ t, @execRingEntryFetched x0 x1 s = .next t ∧ Keeps
    [.out, .hif, .rve] s t := by
  intro x0 x1 s
  unfold execRingEntryFetched
  dsimp only
  refine ⟨_, rfl, ?_⟩
  refine keeps_whenS ?_ fun _ => ?_
  · exact keeps_refl _ _
  · split
    · refine keeps_step (keeps_stopRing _ _ _) rfl ?_
      refine keeps_step (keeps_modSq _ _ _) rfl ?_
      exact keeps_refl _ _
    · refine keeps_step (keeps_requestEntries _ _) rfl ?_
      refine keeps_step (keeps_modSq _ _ _) rfl ?_
      refine keeps_step (keeps_modSq _ _ _) rfl ?_
      exact keeps_refl _ _

theorem keeps_askStale : ∀ x0 s, Keeps [.out] s (@askStale x0 s) := by
  intro x0 s
  unfold askStale
  dsimp only
  refine keeps_whenS ?_ fun _ => ?_
  · exact keeps_refl _ _
  · refine keeps_step (keeps_emit _ _) rfl ?_
    exact keeps_refl _ _

theorem keeps_execStaleEntryReread : ∀ x0 x1 s, ∃ t, @execStaleEntryReread x0 x1 s = .next t ∧ Keeps
    [.out, .hif, .rve, .eth, .mgt] s t := by
  intro x0 x1 s
  unfold execStaleEntryReread
  refine ⟨_, rfl, ?_⟩
  refine keeps_whenS ?_ fun _ => ?_
  · exact keeps_refl _ _
  · dsimp only
    split
    · refine keeps_step (keeps_askStale _ _) rfl ?_
      exact keeps_refl _ _
    · refine keeps_step (keeps_stopRing _ _ _) rfl ?_
      refine keeps_step (keeps_askStale _ _) rfl ?_
      exact keeps_refl _ _
    · refine keeps_step (keeps_askStale _ _) rfl ?_
      exact keeps_refl _ _
    · refine keeps_ite ?_ ?_
      · refine keeps_step (keeps_requestEntries _ _) rfl ?_
        refine keeps_step (keeps_modSq _ _ _) rfl ?_
        refine keeps_step (keeps_askStale _ _) rfl ?_
        exact keeps_refl _ _
      · refine keeps_ite ?_ ?_
        · refine keeps_step (keeps_requestEntries _ _) rfl ?_
          refine keeps_step (keeps_flushDead _ _ _) rfl ?_
          refine keeps_step (keeps_modSq _ _ _) rfl ?_
          refine keeps_step (keeps_askStale _ _) rfl ?_
          exact keeps_refl _ _
        · refine keeps_step (keeps_modSq _ _ _) rfl ?_
          refine keeps_step (keeps_askStale _ _) rfl ?_
          exact keeps_refl _ _

theorem keeps_signalCq : ∀ x0 s, Keeps [.out, .hif] s (@signalCq x0 s) := by
  intro x0 s
  unfold signalCq
  dsimp only
  refine keeps_whenS ?_ fun _ => ?_
  · exact keeps_refl _ _
  · refine keeps_step (keeps_signalVec _ _) rfl ?_
    refine keeps_step (keeps_modCq _ _ _) rfl ?_
    exact keeps_refl _ _

theorem keeps_putCpl : ∀ x0 x1 s, Keeps [.out, .hif] s (@putCpl x0 x1 s) := by
  intro x0 x1 s
  unfold putCpl
  dsimp only
  refine keeps_whenS ?_ fun _ => ?_
  · refine keeps_step (keeps_modCq _ _ _) rfl ?_
    refine keeps_step (keeps_emit _ _) rfl ?_
    exact keeps_refl _ _
  · refine keeps_step (keeps_signalCq _ _) rfl ?_
    assumption

theorem keeps_writeCpl : ∀ x0 s, Keeps [.out, .hif] s (@writeCpl x0 s) := by
  intro x0 s
  unfold writeCpl
  dsimp only
  split
  · exact keeps_refl _ _
  · refine keeps_ite ?_ ?_
    · refine keeps_step (keeps_modCq _ _ _) rfl ?_
      exact keeps_refl _ _
    · split
      · refine keeps_step (keeps_settleRing _ _) rfl ?_
        refine keeps_step (keeps_putCpl _ _ _) rfl ?_
        refine keeps_step (keeps_modCq _ _ _) rfl ?_
        exact keeps_refl _ _
      · refine keeps_step (keeps_putCpl _ _ _) rfl ?_
        refine keeps_step (keeps_modCq _ _ _) rfl ?_
        exact keeps_refl _ _

theorem keeps_execCompletionWrite : ∀ x0 s, ∃ t, @execCompletionWrite x0 s = .next t ∧ Keeps [.out,
    .hif] s t := by
  intro x0 s
  unfold execCompletionWrite
  refine ⟨_, rfl, ?_⟩
  refine keeps_whenS ?_ fun _ => ?_
  · exact keeps_refl _ _
  · refine keeps_step (keeps_writeCpl _ _) rfl ?_
    exact keeps_refl _ _

theorem keeps_execCqConsumerPoll : ∀ x0 x1 s, ∃ t, @execCqConsumerPoll x0 x1 s = .next t ∧ Keeps
    [.out, .hif, .rve] s t := by
  intro x0 x1 s
  unfold execCqConsumerPoll
  refine ⟨_, rfl, ?_⟩
  refine keeps_whenS ?_ fun _ => ?_
  · exact keeps_refl _ _
  · dsimp only
    split
    · refine keeps_step (keeps_raise _ _ _ _) rfl ?_
      refine keeps_step (keeps_modCq _ _ _) rfl ?_
      refine keeps_ite ?_ ?_
      · exact keeps_refl _ _
      · refine keeps_step (keeps_readConsumer _ _) rfl ?_
        exact keeps_refl _ _
    · refine keeps_foldl ?_ fun _ _ _ => ?_
      · refine keeps_step (keeps_modCq _ _ _) rfl ?_
        refine keeps_ite ?_ ?_
        · exact keeps_refl _ _
        · refine keeps_step (keeps_readConsumer _ _) rfl ?_
          exact keeps_refl _ _
      · refine keeps_step (keeps_requestEntries _ _) rfl ?_
        assumption

theorem keeps_execCqFullWaitTimeout : ∀ x0 s, ∃ t, @execCqFullWaitTimeout x0 s = .next t ∧ Keeps
    [.hif, .rve] s t := by
  intro x0 s
  unfold execCqFullWaitTimeout
  refine ⟨_, rfl, ?_⟩
  refine keeps_whenS ?_ fun _ => ?_
  · exact keeps_refl _ _
  · refine keeps_step (keeps_raise _ _ _ _) rfl ?_
    refine keeps_step (keeps_modCq _ _ _) rfl ?_
    exact keeps_refl _ _

theorem keeps_execMsixCoalesceTimeout : ∀ x0 s, ∃ t, @execMsixCoalesceTimeout x0 s = .next t ∧ Keeps
    [.out, .hif] s t := by
  intro x0 s
  unfold execMsixCoalesceTimeout
  refine ⟨_, rfl, ?_⟩
  refine keeps_whenS ?_ fun _ => ?_
  · exact keeps_refl _ _
  · refine keeps_step (keeps_signalCq _ _) rfl ?_
    exact keeps_refl _ _

theorem keeps_execPcieAerError : ∀ x0 x1 s, ∃ t, @execPcieAerError x0 x1 s = .next t ∧ Keeps [.hif,
    .rve] s t := by
  intro x0 x1 s
  unfold execPcieAerError
  dsimp only
  refine ⟨_, rfl, ?_⟩
  refine keeps_whenS ?_ fun _ => ?_
  · refine keeps_step (keeps_raise _ _ _ _) rfl ?_
    exact keeps_refl _ _
  · refine keeps_ite ?_ ?_
    · refine keeps_mk ?_
      assumption
    · refine keeps_mk ?_
      assumption

theorem keeps_execBar0BadWidthAccess : ∀ x0 x1 x2 s, ∃ t, @execBar0BadWidthAccess x0 x1 x2 s = .next
    t ∧ Keeps [.out, .rve] s t := by
  intro x0 x1 x2 s
  unfold execBar0BadWidthAccess
  refine ⟨_, rfl, ?_⟩
  refine keeps_whenS ?_ fun _ => ?_
  · exact keeps_refl _ _
  · refine keeps_step (keeps_raise _ _ _ _) rfl ?_
    refine keeps_ite ?_ ?_
    · exact keeps_refl _ _
    · refine keeps_step (keeps_emit _ _) rfl ?_
      exact keeps_refl _ _

end Sys2Proof.Laws
end

