-- ==== Sys2Proof/Laws/KeepScene.lean ====
section
/-!
SUPPORT. Which parts of the state the operations of Scene.lean leave alone.
-/

namespace Sys2Proof.Laws

-- Each proof is checked before the next begins: hundreds at once would ask for a thread each.
set_option Elab.async false
set_option linter.all false

open Sys2Proof Sys2Proof.Machine Sys2Proof.Safety

theorem keeps_nopBody : BodyKeeps [.hif, .lpl, .rve, .yok, .eth, .mgt, .running, .maskQ] nopBody :=
    by
  refine ⟨fun c s => ?_, fun c st s => ?_⟩
  · unfold nopBody
    dsimp only
    refine keeps_step (keeps_finishOk _ _) rfl ?_
    exact keeps_refl _ _
  · unfold nopBody
    dsimp only
    exact keeps_refl _ _

theorem keeps_lsFinish : ∀ x0 x1 s, Keeps [.hif, .lpl, .rve, .yok, .eth, .mgt, .running, .maskQ] s
    (@lsFinish x0 x1 s) := by
  intro x0 x1 s
  unfold lsFinish
  refine keeps_step (keeps_finish _ _ _ _) rfl ?_
  refine keeps_step (keeps_shadowAll _ _) rfl ?_
  exact keeps_refl _ _

theorem keeps_setSlotBusy : ∀ x0 x1 s, Keeps [.cmp] s (@setSlotBusy x0 x1 s) := by
  intro x0 x1 s
  unfold setSlotBusy
  refine keeps_mk ?_
  exact keeps_refl _ _

theorem keeps_readProt : ∀ x0 s, Keeps [.free, .grn, .rve] s (@readProt x0 s).2 := by
  intro x0 s
  unfold readProt
  refine keeps_foldl2 ?_ fun _ _ _ => ?_
  · dsimp only
    exact keeps_refl _ _
  · dsimp only
    refine keeps_step (keeps_readMarked _ _ _ _) rfl ?_
    assumption

theorem keeps_finishProt : ∀ x0 x1 s, Keeps [.free, .hif, .grn, .cmp, .lpl, .rve, .yok, .eth, .mgt,
    .running, .maskQ] s (@finishProt x0 x1 s) := by
  intro x0 x1 s
  unfold finishProt
  dsimp only
  refine keeps_ite ?_ ?_
  · refine keeps_step (keeps_complete _ _ _ _ _) rfl ?_
    refine keeps_step (keeps_readProt _ _) rfl ?_
    exact keeps_refl _ _
  · refine keeps_step (keeps_lsFinish _ _ _) rfl ?_
    refine keeps_mk ?_
    refine keeps_step (keeps_readProt _ _) rfl ?_
    exact keeps_refl _ _

theorem keeps_layerSetBody : BodyKeeps [.free, .out, .hif, .dma, .grn, .cmp, .hdg, .lpl, .rve, .yok,
    .eth, .mgt, .running, .maskQ, .jobs] layerSetBody := by
  refine ⟨fun c s => ?_, fun c st s => ?_⟩
  · unfold layerSetBody
    dsimp only
    refine keeps_ite ?_ ?_
    · refine keeps_step (keeps_askTransfer _ _) rfl ?_
      refine keeps_step (keeps_setSlotBusy _ _ _) rfl ?_
      exact keeps_refl _ _
    · refine keeps_ite ?_ ?_
      · refine keeps_step (keeps_finishProt _ _ _) rfl ?_
        exact keeps_refl _ _
      · refine keeps_step (keeps_lsFinish _ _ _) rfl ?_
        exact keeps_refl _ _
  · unfold layerSetBody
    dsimp only
    exact keeps_refl _ _

theorem keeps_lsCopied : ∀ x0 s, Keeps [.free, .hif, .grn, .cmp, .lpl, .rve, .yok, .eth, .mgt,
    .running, .maskQ] s (@lsCopied x0 s) := by
  intro x0 s
  unfold lsCopied
  dsimp only
  refine keeps_ite ?_ ?_
  · refine keeps_step (keeps_finishProt _ _ _) rfl ?_
    refine keeps_step (keeps_setSlotBusy _ _ _) rfl ?_
    exact keeps_refl _ _
  · refine keeps_step (keeps_lsFinish _ _ _) rfl ?_
    refine keeps_step (keeps_setSlotBusy _ _ _) rfl ?_
    exact keeps_refl _ _

theorem keeps_maskBody : BodyKeeps [.lpl, .yok, .maskQ] maskBody := by
  refine ⟨fun c s => ?_, fun c st s => ?_⟩
  · unfold maskBody
    dsimp only
    refine keeps_ite ?_ ?_
    · refine keeps_step (keeps_issueCommit _) rfl ?_
      refine keeps_mk ?_
      exact keeps_refl _ _
    · refine keeps_mk ?_
      exact keeps_refl _ _
  · unfold maskBody
    dsimp only
    exact keeps_refl _ _

theorem keeps_modSym : ∀ x0 x1 s, Keeps [.cmp] s (@modSym x0 x1 s) := by
  intro x0 x1 s
  unfold modSym
  refine keeps_mk ?_
  exact keeps_refl _ _

theorem keeps_symbolBody : BodyKeeps [.free, .out, .hif, .dma, .cmp, .hdg, .lpl, .rve, .yok, .eth,
    .mgt, .running, .maskQ, .jobs] symbolBody := by
  refine ⟨fun c s => ?_, fun c st s => ?_⟩
  · unfold symbolBody
    dsimp only
    refine keeps_ite ?_ ?_
    · refine keeps_step (keeps_finishOk _ _) rfl ?_
      refine keeps_step (keeps_modSym _ _ _) rfl ?_
      exact keeps_refl _ _
    · refine keeps_step (keeps_askTransfer _ _) rfl ?_
      refine keeps_step (keeps_modSym _ _ _) rfl ?_
      exact keeps_refl _ _
  · unfold symbolBody
    dsimp only
    exact keeps_refl _ _

theorem keeps_coreReadLines : ∀ x0 x1 x2 x3 s, Keeps [.free, .grn, .rve] s (@coreReadLines x0 x1 x2
    x3 s).2 := by
  intro x0 x1 x2 x3 s
  induction x3 generalizing x0 x1 x2 s with
  | zero =>
    exact keeps_refl _ _
  | succ _ ih =>
    rw [coreReadLines]
    split
    · refine keeps_step (ih _ _ _ _) rfl ?_
      exact keeps_refl _ _
    · dsimp only
      refine keeps_step (keeps_coreRead _ _ _) rfl ?_
      refine keeps_step (ih _ _ _ _) rfl ?_
      exact keeps_refl _ _

theorem keeps_symbolFails : ∀ x0 x1 x2 s, Keeps [.hif, .cmp, .rve, .eth, .mgt, .running, .maskQ] s
    (@symbolFails x0 x1 x2 s) := by
  intro x0 x1 x2 s
  unfold symbolFails
  refine keeps_step (keeps_complete _ _ _ _ _) rfl ?_
  refine keeps_step (keeps_modSym _ _ _) rfl ?_
  exact keeps_refl _ _

theorem keeps_symbolLoaded : ∀ x0 s, Keeps [.free, .hif, .grn, .cmp, .lpl, .rve, .yok, .eth, .mgt,
    .running, .maskQ] s (@symbolLoaded x0 s) := by
  intro x0 s
  unfold symbolLoaded
  dsimp only
  split
  · refine keeps_step (keeps_symbolFails _ _ _ _) rfl ?_
    refine keeps_step (keeps_coreRead _ _ _) rfl ?_
    exact keeps_refl _ _
  · split
    · refine keeps_step (keeps_symbolFails _ _ _ _) rfl ?_
      refine keeps_step (keeps_coreRead _ _ _) rfl ?_
      exact keeps_refl _ _
    · split
      · refine keeps_step (keeps_symbolFails _ _ _ _) rfl ?_
        refine keeps_step (keeps_coreReadLines _ _ _ _ _) rfl ?_
        refine keeps_step (keeps_coreRead _ _ _) rfl ?_
        exact keeps_refl _ _
      · refine keeps_ite ?_ ?_
        · refine keeps_step (keeps_finishOk _ _) rfl ?_
          refine keeps_step (keeps_modSym _ _ _) rfl ?_
          refine keeps_step (keeps_coreReadLines _ _ _ _ _) rfl ?_
          refine keeps_step (keeps_coreRead _ _ _) rfl ?_
          exact keeps_refl _ _
        · refine keeps_step (keeps_symbolFails _ _ _ _) rfl ?_
          refine keeps_step (keeps_coreReadLines _ _ _ _ _) rfl ?_
          refine keeps_step (keeps_coreRead _ _ _) rfl ?_
          exact keeps_refl _ _

theorem keeps_modBank : ∀ x0 x1 x2 s, Keeps [.cmp] s (@modBank x0 x1 x2 s) := by
  intro x0 x1 x2 s
  unfold modBank
  refine keeps_mk ?_
  exact keeps_refl _ _

theorem keeps_kernelStart : ∀ x0 x1 s, Keeps [.cmp, .kernels] s (@kernelStart x0 x1 s) := by
  intro x0 x1 s
  unfold kernelStart
  refine keeps_step (keeps_modBank _ _ _ _) rfl ?_
  refine keeps_mk ?_
  exact keeps_refl _ _

theorem keeps_kernelRun : ∀ x0 x1 s, Keeps [.free, .hif, .grn, .cmp, .lpl, .rve, .yok, .eth, .mgt,
    .running, .maskQ] s (@kernelRun x0 x1 s) := by
  intro x0 x1 s
  unfold kernelRun
  dsimp only
  split
  · refine keeps_step (keeps_complete _ _ _ _ _) rfl ?_
    refine keeps_step (keeps_modBank _ _ _ _) rfl ?_
    refine keeps_step (keeps_coreRead _ _ _) rfl ?_
    exact keeps_refl _ _
  · split
    · refine keeps_step (keeps_complete _ _ _ _ _) rfl ?_
      refine keeps_step (keeps_modBank _ _ _ _) rfl ?_
      refine keeps_step (keeps_coreRead _ _ _) rfl ?_
      exact keeps_refl _ _
    · refine keeps_step (keeps_finish _ _ _ _) rfl ?_
      refine keeps_mk ?_
      refine keeps_step (keeps_modBank _ _ _ _) rfl ?_
      refine keeps_step (keeps_coreRead _ _ _) rfl ?_
      exact keeps_refl _ _

theorem keeps_finishKernels : ∀ s, Keeps [.free, .hif, .grn, .cmp, .lpl, .rve, .yok, .eth, .mgt,
    .running, .maskQ, .kernels] s (@finishKernels s) := by
  intro s
  unfold finishKernels
  refine keeps_foldl ?_ fun _ _ _ => ?_
  · refine keeps_mk ?_
    exact keeps_refl _ _
  · split
    · refine keeps_step (keeps_kernelRun _ _ _) rfl ?_
      assumption
    · assumption

theorem keeps_coefBody : BodyKeeps [.hif, .cmp, .lpl, .rve, .yok, .eth, .mgt, .running, .maskQ,
    .kernels] coefBody := by
  refine ⟨fun c s => ?_, fun c st s => ?_⟩
  · unfold coefBody
    dsimp only
    split
    · exact keeps_refl _ _
    · refine keeps_ite ?_ ?_
      · refine keeps_step (keeps_finish _ _ _ _) rfl ?_
        refine keeps_step (keeps_shadowAll _ _) rfl ?_
        exact keeps_refl _ _
      · refine keeps_step (keeps_kernelStart _ _ _) rfl ?_
        exact keeps_refl _ _
  · unfold coefBody
    dsimp only
    exact keeps_refl _ _

theorem keeps_execNop : ∀ x0 x1 s, ∃ t, @execNop x0 x1 s = .next t ∧ Keeps [.hif, .lpl, .rve, .yok,
    .eth, .mgt, .running, .nextSer, .maskQ] s t := by
  intro x0 x1 s
  unfold execNop
  refine ⟨_, rfl, ?_⟩
  refine keeps_runRow rfl rfl keeps_nopBody ?_
  exact keeps_refl _ _

theorem keeps_execLayerSet : ∀ x0 x1 s, ∃ t, @execLayerSet x0 x1 s = .next t ∧ Keeps [.free, .out,
    .hif, .dma, .grn, .cmp, .hdg, .lpl, .rve, .yok, .eth, .mgt, .running, .nextSer, .maskQ, .jobs] s
    t := by
  intro x0 x1 s
  unfold execLayerSet
  refine ⟨_, rfl, ?_⟩
  refine keeps_runRow rfl rfl keeps_layerSetBody ?_
  exact keeps_refl _ _

theorem keeps_execMaskUpdate : ∀ x0 x1 s, ∃ t, @execMaskUpdate x0 x1 s = .next t ∧ Keeps [.hif,
    .lpl, .rve, .yok, .eth, .mgt, .running, .nextSer, .maskQ] s t := by
  intro x0 x1 s
  unfold execMaskUpdate
  refine ⟨_, rfl, ?_⟩
  refine keeps_runRow rfl rfl keeps_maskBody ?_
  exact keeps_refl _ _

theorem keeps_execSymbolLoad : ∀ x0 x1 s, ∃ t, @execSymbolLoad x0 x1 s = .next t ∧ Keeps [.free,
    .out, .hif, .dma, .cmp, .hdg, .lpl, .rve, .yok, .eth, .mgt, .running, .nextSer, .maskQ, .jobs] s
    t := by
  intro x0 x1 s
  unfold execSymbolLoad
  refine ⟨_, rfl, ?_⟩
  refine keeps_runRow rfl rfl keeps_symbolBody ?_
  exact keeps_refl _ _

theorem keeps_execCoefLoad : ∀ x0 x1 s, ∃ t, @execCoefLoad x0 x1 s = .next t ∧ Keeps [.hif, .cmp,
    .lpl, .rve, .yok, .eth, .mgt, .running, .nextSer, .maskQ, .kernels] s t := by
  intro x0 x1 s
  unfold execCoefLoad
  refine ⟨_, rfl, ?_⟩
  refine keeps_runRow rfl rfl keeps_coefBody ?_
  exact keeps_refl _ _

theorem keeps_execCmpCntClearLate : ∀ s, ∃ t, @execCmpCntClearLate s = .next t ∧ Keeps [.cmp] s t :=
    by
  intro s
  unfold execCmpCntClearLate
  refine ⟨_, rfl, ?_⟩
  refine keeps_whenS ?_ fun _ => ?_
  · exact keeps_refl _ _
  · refine keeps_mk ?_
    exact keeps_refl _ _

theorem keeps_execGeoCntClearParity : ∀ s, ∃ t, @execGeoCntClearParity s = .next t ∧ Keeps [.cmp] s
    t := by
  intro s
  unfold execGeoCntClearParity
  refine ⟨_, rfl, ?_⟩
  refine keeps_whenS ?_ fun _ => ?_
  · exact keeps_refl _ _
  · refine keeps_mk ?_
    exact keeps_refl _ _

theorem keeps_execGeoCntClearOverstep : ∀ s, ∃ t, @execGeoCntClearOverstep s = .next t ∧ Keeps
    [.cmp] s t := by
  intro s
  unfold execGeoCntClearOverstep
  refine ⟨_, rfl, ?_⟩
  refine keeps_whenS ?_ fun _ => ?_
  · exact keeps_refl _ _
  · refine keeps_mk ?_
    exact keeps_refl _ _

theorem keeps_lateEvent : ∀ x0 x1 s, Keeps [.cmp, .rve] s (@lateEvent x0 x1 s) := by
  intro x0 x1 s
  unfold lateEvent
  refine keeps_step (keeps_raise _ _ _ _) rfl ?_
  refine keeps_mk ?_
  exact keeps_refl _ _

theorem keeps_parityFails : ∀ x0 x1 x2 s, Keeps [.cmp, .lpl, .rve] s (@parityFails x0 x1 x2 s) := by
  intro x0 x1 x2 s
  unfold parityFails
  dsimp only
  refine keeps_step (keeps_raise _ _ _ _) rfl ?_
  refine keeps_mk ?_
  refine keeps_step (keeps_modBank _ _ _ _) rfl ?_
  exact keeps_refl _ _

theorem keeps_execCoefParityFailure : ∀ x0 x1 s, ∃ t, @execCoefParityFailure x0 x1 s = .next t ∧
    Keeps [.cmp, .lpl, .rve] s t := by
  intro x0 x1 s
  unfold execCoefParityFailure
  refine ⟨_, rfl, ?_⟩
  refine keeps_whenS ?_ fun _ => ?_
  · exact keeps_refl _ _
  · split
    · refine keeps_step (keeps_parityFails _ _ _ _) rfl ?_
      exact keeps_refl _ _
    · exact keeps_refl _ _

theorem keeps_hostUnderrun : ∀ x0 x1 s, Keeps [.free, .grn, .cmp, .lpl, .rve] s (@hostUnderrun x0 x1
    s) := by
  intro x0 x1 s
  unfold hostUnderrun
  split
  · exact keeps_refl _ _
  · refine keeps_ite ?_ ?_
    · exact keeps_refl _ _
    · split
      · exact keeps_refl _ _
      · split
        · dsimp only
          refine keeps_ite ?_ ?_
          · refine keeps_ite ?_ ?_
            · refine keeps_step (keeps_denyLayer _ _ _) rfl ?_
              refine keeps_step (keeps_layerEcc _ _ _) rfl ?_
              refine keeps_mk ?_
              exact keeps_refl _ _
            · refine keeps_mk ?_
              exact keeps_refl _ _
          · refine keeps_step (keeps_lateEvent _ _ _) rfl ?_
            refine keeps_ite ?_ ?_
            · refine keeps_step (keeps_denyLayer _ _ _) rfl ?_
              refine keeps_step (keeps_layerEcc _ _ _) rfl ?_
              refine keeps_mk ?_
              exact keeps_refl _ _
            · refine keeps_mk ?_
              exact keeps_refl _ _
        · exact keeps_refl _ _

theorem keeps_execHostLineUnderrun : ∀ x0 x1 s, ∃ t, @execHostLineUnderrun x0 x1 s = .next t ∧ Keeps
    [.free, .grn, .cmp, .lpl, .rve] s t := by
  intro x0 x1 s
  unfold execHostLineUnderrun
  refine ⟨_, rfl, ?_⟩
  refine keeps_whenS ?_ fun _ => ?_
  · exact keeps_refl _ _
  · refine keeps_step (keeps_hostUnderrun _ _ _) rfl ?_
    exact keeps_refl _ _

end Sys2Proof.Laws
end

