-- ==== Sys2Proof/Laws/KeepTiming.lean ====
section
/-!
SUPPORT. Which parts of the state the operations of Timing.lean leave alone.
-/

namespace Sys2Proof.Laws

-- Each proof is checked before the next begins: hundreds at once would ask for a thread each.
set_option Elab.async false
set_option linter.all false

open Sys2Proof Sys2Proof.Machine Sys2Proof.Safety

theorem keeps_timingBody : BodyKeeps [.hif, .lpl, .rve, .yok, .eth, .mgt, .running, .maskQ]
    timingBody := by
  refine ⟨fun c s => ?_, fun c st s => ?_⟩
  · unfold timingBody
    dsimp only
    refine keeps_step (keeps_finishOk _ _) rfl ?_
    refine keeps_step (keeps_shadowAll _ _) rfl ?_
    exact keeps_refl _ _
  · unfold timingBody
    dsimp only
    exact keeps_refl _ _

theorem keeps_tileMapBody : BodyKeeps [.hif, .lpl, .rve, .yok, .eth, .mgt, .running, .maskQ]
    tileMapBody := by
  refine ⟨fun c s => ?_, fun c st s => ?_⟩
  · unfold tileMapBody
    dsimp only
    refine keeps_step (keeps_finishOk _ _) rfl ?_
    refine keeps_step (keeps_shadowAll _ _) rfl ?_
    exact keeps_refl _ _
  · unfold tileMapBody
    dsimp only
    exact keeps_refl _ _

theorem keeps_armLaunch : ∀ x0 x1 x2 x3 s, Keeps [.lpl, .yok] s (@armLaunch x0 x1 x2 x3 s) := by
  intro x0 x1 x2 x3 s
  unfold armLaunch
  refine keeps_mk ?_
  exact keeps_refl _ _

theorem keeps_presentBody : BodyKeeps [.hif, .lpl, .rve, .yok, .eth, .mgt, .running, .maskQ]
    presentBody := by
  refine ⟨fun c s => ?_, fun c st s => ?_⟩
  · unfold presentBody
    dsimp only
    refine keeps_ite ?_ ?_
    · refine keeps_step (keeps_armLaunch _ _ _ _ _) rfl ?_
      exact keeps_refl _ _
    · refine keeps_step (keeps_finishOk _ _) rfl ?_
      refine keeps_step (keeps_shadowAll _ _) rfl ?_
      exact keeps_refl _ _
  · unfold presentBody
    dsimp only
    exact keeps_refl _ _

theorem keeps_execLayerPresent : ∀ x0 x1 s, ∃ t, @execLayerPresent x0 x1 s = .next t ∧ Keeps [.hif,
    .lpl, .rve, .yok, .eth, .mgt, .running, .nextSer, .maskQ] s t := by
  intro x0 x1 s
  unfold execLayerPresent
  refine ⟨_, rfl, ?_⟩
  refine keeps_runRow rfl rfl keeps_presentBody ?_
  exact keeps_refl _ _

theorem keeps_execTimingSet : ∀ x0 x1 s, ∃ t, @execTimingSet x0 x1 s = .next t ∧ Keeps [.hif, .lpl,
    .rve, .yok, .eth, .mgt, .running, .nextSer, .maskQ] s t := by
  intro x0 x1 s
  unfold execTimingSet
  refine ⟨_, rfl, ?_⟩
  refine keeps_runRow rfl rfl keeps_timingBody ?_
  exact keeps_refl _ _

theorem keeps_execTileMapSet : ∀ x0 x1 s, ∃ t, @execTileMapSet x0 x1 s = .next t ∧ Keeps [.hif,
    .lpl, .rve, .yok, .eth, .mgt, .running, .nextSer, .maskQ] s t := by
  intro x0 x1 s
  unfold execTileMapSet
  refine ⟨_, rfl, ?_⟩
  refine keeps_runRow rfl rfl keeps_tileMapBody ?_
  exact keeps_refl _ _

theorem keeps_badInterval : ∀ s, Keeps [.lpl, .rve] s (@badInterval s) := by
  intro s
  unfold badInterval
  dsimp only
  refine keeps_ite ?_ ?_
  · refine keeps_step (keeps_raise _ _ _ _) rfl ?_
    refine keeps_mk ?_
    exact keeps_refl _ _
  · refine keeps_mk ?_
    exact keeps_refl _ _

theorem keeps_goodInterval : ∀ x0 s, Keeps [.lpl] s (@goodInterval x0 s) := by
  intro x0 s
  unfold goodInterval
  dsimp only
  refine keeps_mk ?_
  exact keeps_refl _ _

theorem keeps_execSyncInEdge : ∀ s, ∃ t, @execSyncInEdge s = .next t ∧ Keeps [.lpl, .rve] s t := by
  intro s
  unfold execSyncInEdge
  refine ⟨_, rfl, ?_⟩
  refine keeps_whenS ?_ fun _ => ?_
  · exact keeps_refl _ _
  · dsimp only
    split
    · refine keeps_mk ?_
      exact keeps_refl _ _
    · refine keeps_ite ?_ ?_
      · refine keeps_step (keeps_goodInterval _ _) rfl ?_
        refine keeps_mk ?_
        exact keeps_refl _ _
      · refine keeps_step (keeps_badInterval _) rfl ?_
        refine keeps_mk ?_
        exact keeps_refl _ _

theorem keeps_execSyncInMissing : ∀ s, ∃ t, @execSyncInMissing s = .next t ∧ Keeps [.lpl, .rve] s t
    := by
  intro s
  unfold execSyncInMissing
  refine ⟨_, rfl, ?_⟩
  refine keeps_whenS ?_ fun _ => ?_
  · exact keeps_refl _ _
  · refine keeps_step (keeps_badInterval _) rfl ?_
    refine keeps_mk ?_
    exact keeps_refl _ _

theorem keeps_execSyncLockTimeout : ∀ s, ∃ t, @execSyncLockTimeout s = .next t ∧ Keeps [.lpl] s t :=
    by
  intro s
  unfold execSyncLockTimeout
  refine ⟨_, rfl, ?_⟩
  refine keeps_whenS ?_ fun _ => ?_
  · exact keeps_refl _ _
  · refine keeps_mk ?_
    exact keeps_refl _ _

theorem keeps_execLplCntClearTe : ∀ s, ∃ t, @execLplCntClearTe s = .next t ∧ Keeps [.lpl] s t := by
  intro s
  unfold execLplCntClearTe
  refine ⟨_, rfl, ?_⟩
  refine keeps_whenS ?_ fun _ => ?_
  · exact keeps_refl _ _
  · refine keeps_mk ?_
    exact keeps_refl _ _

theorem keeps_execLplCntClearSync : ∀ s, ∃ t, @execLplCntClearSync s = .next t ∧ Keeps [.lpl] s t :=
    by
  intro s
  unfold execLplCntClearSync
  refine ⟨_, rfl, ?_⟩
  refine keeps_whenS ?_ fun _ => ?_
  · exact keeps_refl _ _
  · refine keeps_mk ?_
    exact keeps_refl _ _

theorem keeps_execLplCntClearLate : ∀ s, ∃ t, @execLplCntClearLate s = .next t ∧ Keeps [.lpl] s t :=
    by
  intro s
  unfold execLplCntClearLate
  refine ⟨_, rfl, ?_⟩
  refine keeps_whenS ?_ fun _ => ?_
  · exact keeps_refl _ _
  · refine keeps_mk ?_
    exact keeps_refl _ _

theorem keeps_execLplCntClearRepeats : ∀ s, ∃ t, @execLplCntClearRepeats s = .next t ∧ Keeps [.lpl]
    s t := by
  intro s
  unfold execLplCntClearRepeats
  refine ⟨_, rfl, ?_⟩
  refine keeps_whenS ?_ fun _ => ?_
  · exact keeps_refl _ _
  · refine keeps_mk ?_
    exact keeps_refl _ _

end Sys2Proof.Laws
end

