-- ==== Sys2Proof/Laws/KeepPhotometry.lean ====
section
/-!
SUPPORT. Which parts of the state the operations of Photometry.lean leave alone.
-/

namespace Sys2Proof.Laws

-- Each proof is checked before the next begins: hundreds at once would ask for a thread each.
set_option Elab.async false
set_option linter.all false

open Sys2Proof Sys2Proof.Machine Sys2Proof.Safety

theorem keeps_calLoadBody : BodyKeeps [.free, .out, .hif, .dma, .pho, .hdg, .lpl, .rve, .yok, .eth,
    .mgt, .running, .maskQ, .jobs] calLoadBody := by
  refine ⟨fun c s => ?_, fun c st s => ?_⟩
  · unfold calLoadBody
    dsimp only
    split
    · refine keeps_step (keeps_askTransfer _ _) rfl ?_
      exact keeps_refl _ _
    · refine keeps_step (keeps_finishOk _ _) rfl ?_
      refine keeps_step (keeps_shadowAll _ _) rfl ?_
      exact keeps_refl _ _
    · refine keeps_ite ?_ ?_
      · refine keeps_step (keeps_issueCommit _) rfl ?_
        refine keeps_mk ?_
        refine keeps_step (keeps_shadowAll _ _) rfl ?_
        exact keeps_refl _ _
      · refine keeps_mk ?_
        refine keeps_step (keeps_shadowAll _ _) rfl ?_
        exact keeps_refl _ _
    · refine keeps_step (keeps_finishOk _ _) rfl ?_
      refine keeps_step (keeps_shadowAll _ _) rfl ?_
      exact keeps_refl _ _
  · unfold calLoadBody
    dsimp only
    exact keeps_refl _ _

theorem keeps_calLoaded : ∀ x0 s, Keeps [.hif, .lpl, .rve, .yok, .eth, .mgt, .running, .maskQ] s
    (@calLoaded x0 s) := by
  intro x0 s
  unfold calLoaded
  refine keeps_step (keeps_finish _ _ _ _) rfl ?_
  exact keeps_refl _ _

theorem keeps_fadeBody : BodyKeeps [.hif, .lpl, .rve, .yok, .eth, .mgt, .running, .maskQ] fadeBody
    := by
  refine ⟨fun c s => ?_, fun c st s => ?_⟩
  · unfold fadeBody
    dsimp only
    refine keeps_step (keeps_finishOk _ _) rfl ?_
    refine keeps_step (keeps_shadowAll _ _) rfl ?_
    exact keeps_refl _ _
  · unfold fadeBody
    dsimp only
    exact keeps_refl _ _

theorem keeps_budgetBody : BodyKeeps [.hif, .lpl, .rve, .yok, .eth, .mgt, .running, .maskQ]
    budgetBody := by
  refine ⟨fun c s => ?_, fun c st s => ?_⟩
  · unfold budgetBody
    dsimp only
    refine keeps_step (keeps_finishOk _ _) rfl ?_
    refine keeps_step (keeps_shadowAll _ _) rfl ?_
    exact keeps_refl _ _
  · unfold budgetBody
    dsimp only
    exact keeps_refl _ _

theorem keeps_execCalLoad : ∀ x0 x1 s, ∃ t, @execCalLoad x0 x1 s = .next t ∧ Keeps [.free, .out,
    .hif, .dma, .pho, .hdg, .lpl, .rve, .yok, .eth, .mgt, .running, .nextSer, .maskQ, .jobs] s t :=
    by
  intro x0 x1 s
  unfold execCalLoad
  refine ⟨_, rfl, ?_⟩
  refine keeps_runRow rfl rfl keeps_calLoadBody ?_
  exact keeps_refl _ _

theorem keeps_execFadeSet : ∀ x0 x1 s, ∃ t, @execFadeSet x0 x1 s = .next t ∧ Keeps [.hif, .lpl,
    .rve, .yok, .eth, .mgt, .running, .nextSer, .maskQ] s t := by
  intro x0 x1 s
  unfold execFadeSet
  refine ⟨_, rfl, ?_⟩
  refine keeps_runRow rfl rfl keeps_fadeBody ?_
  exact keeps_refl _ _

theorem keeps_execFluxBudgetSet : ∀ x0 x1 s, ∃ t, @execFluxBudgetSet x0 x1 s = .next t ∧ Keeps
    [.hif, .lpl, .rve, .yok, .eth, .mgt, .running, .nextSer, .maskQ] s t := by
  intro x0 x1 s
  unfold execFluxBudgetSet
  refine ⟨_, rfl, ?_⟩
  refine keeps_runRow rfl rfl keeps_budgetBody ?_
  exact keeps_refl _ _

theorem keeps_startFade : ∀ x0 x1 x2 s, Keeps [.pho] s (@startFade x0 x1 x2 s) := by
  intro x0 x1 x2 s
  unfold startFade
  refine keeps_mk ?_
  exact keeps_refl _ _

theorem keeps_startFactors : ∀ s, Keeps [.pho] s (@startFactors s) := by
  intro s
  unfold startFactors
  refine keeps_mk ?_
  exact keeps_refl _ _

theorem keeps_takeTemps : ∀ s, Keeps [.pho, .rve] s (@takeTemps s) := by
  intro s
  unfold takeTemps
  dsimp only
  split
  · refine keeps_mk ?_
    refine keeps_foldl ?_ fun _ _ _ => ?_
    · refine keeps_mk ?_
      exact keeps_refl _ _
    · refine keeps_step (keeps_raise _ _ _ _) rfl ?_
      assumption
  · refine keeps_foldl ?_ fun _ _ _ => ?_
    · refine keeps_mk ?_
      exact keeps_refl _ _
    · refine keeps_step (keeps_raise _ _ _ _) rfl ?_
      assumption

theorem keeps_execPhoCntClearSubst : ∀ s, ∃ t, @execPhoCntClearSubst s = .next t ∧ Keeps [.pho] s t
    := by
  intro s
  unfold execPhoCntClearSubst
  refine ⟨_, rfl, ?_⟩
  refine keeps_whenS ?_ fun _ => ?_
  · exact keeps_refl _ _
  · refine keeps_mk ?_
    exact keeps_refl _ _

theorem keeps_copyRecord : ∀ x0 x1 x2 s, Keeps [.free, .grn, .mem, .rve, .yok] s (@copyRecord x0 x1
    x2 s) := by
  intro x0 x1 x2 s
  unfold copyRecord
  dsimp only
  refine keeps_ite ?_ ?_
  · refine keeps_step (keeps_readWord _ _ _ _) rfl ?_
    refine keeps_step (keeps_readWord _ _ _ _) rfl ?_
    exact keeps_refl _ _
  · refine keeps_step (keeps_storeBytes _ _ _) rfl ?_
    refine keeps_ite ?_ ?_
    · refine keeps_step (keeps_freshBits _ _) rfl ?_
      refine keeps_step (keeps_readWord _ _ _ _) rfl ?_
      refine keeps_step (keeps_readWord _ _ _ _) rfl ?_
      exact keeps_refl _ _
    · refine keeps_step (keeps_readWord _ _ _ _) rfl ?_
      refine keeps_step (keeps_readWord _ _ _ _) rfl ?_
      exact keeps_refl _ _

theorem keeps_copyPlane : ∀ x0 s, Keeps [.free, .grn, .mem, .rve, .yok] s (@copyPlane x0 s) := by
  intro x0 s
  unfold copyPlane
  refine keeps_foldl ?_ fun _ _ _ => ?_
  · exact keeps_refl _ _
  · refine keeps_step (keeps_copyRecord _ _ _ _) rfl ?_
    assumption

theorem keeps_execPlaneCopyComplete : ∀ s, ∃ t, @execPlaneCopyComplete s = .next t ∧ Keeps [.free,
    .grn, .mem, .pho, .rve, .yok] s t := by
  intro s
  unfold execPlaneCopyComplete
  refine ⟨_, rfl, ?_⟩
  refine keeps_whenS ?_ fun _ => ?_
  · exact keeps_refl _ _
  · split
    · dsimp only
      refine keeps_mk ?_
      refine keeps_step (keeps_copyPlane _ _) rfl ?_
      exact keeps_refl _ _
    · exact keeps_refl _ _

end Sys2Proof.Laws
end

