-- ==== Sys2Proof/Laws/KeepRailOps.lean ====
section
/-!
SUPPORT. Which parts of the state the operations of RailOps.lean leave alone.
-/

namespace Sys2Proof.Laws

-- Each proof is checked before the next begins: hundreds at once would ask for a thread each.
set_option Elab.async false
set_option linter.all false

open Sys2Proof Sys2Proof.Machine Sys2Proof.Safety

theorem keeps_endRun : ∀ x0 x1 x2 s, Keeps [.hif, .rve, .eth, .mgt, .tst, .running, .maskQ] s
    (@endRun x0 x1 x2 s) := by
  intro x0 x1 x2 s
  unfold endRun
  split
  · exact keeps_refl _ _
  · dsimp only
    refine keeps_step (keeps_complete _ _ _ _ _) rfl ?_
    refine keeps_ite ?_ ?_
    · refine keeps_step (keeps_raise _ _ _ _) rfl ?_
      refine keeps_mk ?_
      exact keeps_refl _ _
    · refine keeps_mk ?_
      exact keeps_refl _ _

theorem keeps_checkRailTest : ∀ s, Keeps [.hif, .rve, .eth, .mgt, .tst, .running, .maskQ] s
    (@checkRailTest s) := by
  intro s
  unfold checkRailTest
  split
  · refine keeps_ite ?_ ?_
    · refine keeps_step (keeps_endRun _ _ _ _) rfl ?_
      exact keeps_refl _ _
    · exact keeps_refl _ _
  · exact keeps_refl _ _

theorem keeps_modRail : ∀ x0 x1 s, Keeps [.rail] s (@modRail x0 x1 s) := by
  intro x0 x1 s
  unfold modRail
  refine keeps_mk ?_
  exact keeps_refl _ _

theorem keeps_startRail : ∀ x0 s, Keeps [.rail] s (@startRail x0 s) := by
  intro x0 s
  unfold startRail
  dsimp only
  refine keeps_ite ?_ ?_
  · exact keeps_refl _ _
  · refine keeps_ite ?_ ?_
    · refine keeps_step (keeps_modRail _ _ _) rfl ?_
      exact keeps_refl _ _
    · refine keeps_ite ?_ ?_
      · refine keeps_step (keeps_modRail _ _ _) rfl ?_
        exact keeps_refl _ _
      · refine keeps_ite ?_ ?_
        · refine keeps_step (keeps_modRail _ _ _) rfl ?_
          exact keeps_refl _ _
        · refine keeps_step (keeps_modRail _ _ _) rfl ?_
          exact keeps_refl _ _

theorem keeps_dropSeq : ∀ x0 s, Keeps [.rail] s (@dropSeq x0 s) := by
  intro x0 s
  unfold dropSeq
  refine keeps_mk ?_
  exact keeps_refl _ _

theorem keeps_seqStart : ∀ x0 x1 s, Keeps [.rail] s (@seqStart x0 x1 s) := by
  intro x0 x1 s
  unfold seqStart
  refine keeps_ite ?_ ?_
  · exact keeps_refl _ _
  · dsimp only
    refine keeps_ite ?_ ?_
    · refine keeps_foldl ?_ fun _ _ _ => ?_
      · refine keeps_foldl ?_ fun _ _ _ => ?_
        · refine keeps_foldl ?_ fun _ _ _ => ?_
          · exact keeps_refl _ _
          · refine keeps_step (keeps_dropSeq _ _) rfl ?_
            assumption
        · refine keeps_step (keeps_modRail _ _ _) rfl ?_
          assumption
      · refine keeps_step (keeps_startRail _ _) rfl ?_
        assumption
    · refine keeps_mk ?_
      refine keeps_foldl ?_ fun _ _ _ => ?_
      · refine keeps_foldl ?_ fun _ _ _ => ?_
        · refine keeps_foldl ?_ fun _ _ _ => ?_
          · exact keeps_refl _ _
          · refine keeps_step (keeps_dropSeq _ _) rfl ?_
            assumption
        · refine keeps_step (keeps_modRail _ _ _) rfl ?_
          assumption
      · refine keeps_step (keeps_startRail _ _) rfl ?_
        assumption

theorem keeps_stopRail : ∀ x0 s, Keeps [.rail] s (@stopRail x0 s) := by
  intro x0 s
  unfold stopRail
  dsimp only
  split
  · refine keeps_step (keeps_modRail _ _ _) rfl ?_
    exact keeps_refl _ _
  · refine keeps_step (keeps_modRail _ _ _) rfl ?_
    exact keeps_refl _ _
  · refine keeps_step (keeps_modRail _ _ _) rfl ?_
    exact keeps_refl _ _
  · exact keeps_refl _ _
  · exact keeps_refl _ _
  · exact keeps_refl _ _
  · refine keeps_step (keeps_modRail _ _ _) rfl ?_
    exact keeps_refl _ _

theorem keeps_seqStop : ∀ x0 s, Keeps [.rail] s (@seqStop x0 s) := by
  intro x0 s
  unfold seqStop
  dsimp only
  refine keeps_ite ?_ ?_
  · refine keeps_foldl ?_ fun _ _ _ => ?_
    · refine keeps_foldl ?_ fun _ _ _ => ?_
      · exact keeps_refl _ _
      · refine keeps_step (keeps_dropSeq _ _) rfl ?_
        assumption
    · refine keeps_step (keeps_stopRail _ _) rfl ?_
      assumption
  · refine keeps_mk ?_
    refine keeps_foldl ?_ fun _ _ _ => ?_
    · refine keeps_foldl ?_ fun _ _ _ => ?_
      · exact keeps_refl _ _
      · refine keeps_step (keeps_dropSeq _ _) rfl ?_
        assumption
    · refine keeps_step (keeps_stopRail _ _) rfl ?_
      assumption

theorem keeps_pruneSeqs : ∀ s, Keeps [.rail] s (@pruneSeqs s) := by
  intro s
  unfold pruneSeqs
  dsimp only
  refine keeps_mk ?_
  exact keeps_refl _ _

theorem keeps_checkRailJobs : ∀ s, Keeps [.hif, .lpl, .rail, .rve, .yok, .eth, .mgt, .running,
    .maskQ] s (@checkRailJobs s) := by
  intro s
  unfold checkRailJobs
  refine keeps_foldl ?_ fun _ _ _ => ?_
  · exact keeps_refl _ _
  · split
    · assumption
    · refine keeps_step (keeps_finish _ _ _ _) rfl ?_
      refine keeps_mk ?_
      assumption

theorem keeps_settleRail : ∀ x0 s, Keeps [.rail] s (@settleRail x0 s) := by
  intro x0 s
  unfold settleRail
  dsimp only
  refine keeps_ite ?_ ?_
  · exact keeps_refl _ _
  · refine keeps_ite ?_ ?_
    · refine keeps_step (keeps_modRail _ _ _) rfl ?_
      exact keeps_refl _ _
    · refine keeps_ite ?_ ?_
      · refine keeps_ite ?_ ?_
        · refine keeps_step (keeps_modRail _ _ _) rfl ?_
          exact keeps_refl _ _
        · exact keeps_refl _ _
      · refine keeps_ite ?_ ?_
        · refine keeps_step (keeps_modRail _ _ _) rfl ?_
          exact keeps_refl _ _
        · refine keeps_ite ?_ ?_
          · refine keeps_step (keeps_modRail _ _ _) rfl ?_
            exact keeps_refl _ _
          · refine keeps_ite ?_ ?_
            · refine keeps_step (keeps_startRail _ _) rfl ?_
              exact keeps_refl _ _
            · refine keeps_ite ?_ ?_
              · refine keeps_step (keeps_startRail _ _) rfl ?_
                exact keeps_refl _ _
              · exact keeps_refl _ _

theorem keeps_releaseRails : ∀ s, Keeps [.rail] s (@releaseRails s) := by
  intro s
  unfold releaseRails
  dsimp only
  refine keeps_ite ?_ ?_
  · exact keeps_refl _ _
  · refine keeps_step (keeps_seqStart _ _ _) rfl ?_
    refine keeps_foldl ?_ fun _ _ _ => ?_
    · exact keeps_refl _ _
    · refine keeps_step (keeps_modRail _ _ _) rfl ?_
      assumption

theorem keeps_settleRails : ∀ s, Keeps [.hif, .lpl, .rail, .rve, .yok, .eth, .mgt, .tst, .running,
    .maskQ] s (@settleRails s) := by
  intro s
  unfold settleRails
  dsimp only
  refine keeps_step (keeps_checkRailTest _) rfl ?_
  refine keeps_step (keeps_checkRailJobs _) rfl ?_
  refine keeps_step (keeps_pruneSeqs _) rfl ?_
  refine keeps_foldl ?_ fun _ _ _ => ?_
  · refine keeps_step (keeps_releaseRails _) rfl ?_
    exact keeps_refl _ _
  · refine keeps_foldl ?_ fun _ _ _ => ?_
    · assumption
    · refine keeps_step (keeps_settleRail _ _) rfl ?_
      assumption

theorem keeps_dropFault : ∀ x0 x1 s, Keeps [.rail, .rve] s (@dropFault x0 x1 s) := by
  intro x0 x1 s
  unfold dropFault
  dsimp only
  refine keeps_step (keeps_modRail _ _ _) rfl ?_
  refine keeps_mk ?_
  exact keeps_refl _ _

theorem keeps_recordFault : ∀ x0 x1 x2 s, Keeps [.hif, .lpl, .rail, .rve, .yok, .eth, .mgt, .tst,
    .running, .maskQ] s (@recordFault x0 x1 x2 s) := by
  intro x0 x1 x2 s
  unfold recordFault
  dsimp only
  refine keeps_step (keeps_settleRails _) rfl ?_
  refine keeps_step (keeps_raise _ _ _ _) rfl ?_
  refine keeps_ite ?_ ?_
  · refine keeps_step (keeps_dropSeq _ _) rfl ?_
    refine keeps_mk ?_
    refine keeps_step (keeps_modRail _ _ _) rfl ?_
    exact keeps_refl _ _
  · refine keeps_mk ?_
    refine keeps_step (keeps_modRail _ _ _) rfl ?_
    exact keeps_refl _ _

theorem keeps_railFault : ∀ x0 x1 s, Keeps [.hif, .lpl, .rail, .rve, .yok, .eth, .mgt, .tst,
    .running, .maskQ] s (@railFault x0 x1 s) := by
  intro x0 x1 s
  unfold railFault
  dsimp only
  split
  · refine keeps_ite ?_ ?_
    · refine keeps_step (keeps_recordFault _ _ _ _) rfl ?_
      refine keeps_step (keeps_dropFault _ _ _) rfl ?_
      exact keeps_refl _ _
    · exact keeps_refl _ _
  · refine keeps_step (keeps_recordFault _ _ _ _) rfl ?_
    exact keeps_refl _ _

theorem keeps_takeRails : ∀ s, Keeps [.free, .hif, .lpl, .rail, .rve, .yok, .eth, .mgt, .tst,
    .running, .maskQ] s (@takeRails s) := by
  intro s
  unfold takeRails
  dsimp only
  refine keeps_step (keeps_settleRails _) rfl ?_
  refine keeps_step (keeps_seqStart _ _ _) rfl ?_
  refine keeps_foldl ?_ fun _ _ _ => ?_
  · exact keeps_refl _ _
  · refine keeps_ite ?_ ?_
    · refine keeps_step (keeps_modRail _ _ _) rfl ?_
      refine keeps_ite ?_ ?_
      · refine keeps_step (keeps_freshBits _ _) rfl ?_
        assumption
      · assumption
    · assumption

theorem keeps_restartRails : ∀ s, Keeps [.hif, .lpl, .rail, .rve, .yok, .eth, .mgt, .tst, .running,
    .maskQ] s (@restartRails s) := by
  intro s
  unfold restartRails
  dsimp only
  refine keeps_step (keeps_settleRails _) rfl ?_
  refine keeps_step (keeps_seqStart _ _ _) rfl ?_
  exact keeps_refl _ _

theorem keeps_lowRails : ∀ s, Keeps [.hif, .lpl, .rail, .pwr, .rve, .yok, .eth, .mgt, .tst,
    .running, .maskQ] s (@lowRails s) := by
  intro s
  unfold lowRails
  split
  · refine keeps_ite ?_ ?_
    · exact keeps_refl _ _
    · dsimp only
      refine keeps_step (keeps_settleRails _) rfl ?_
      refine keeps_step (keeps_seqStop _ _) rfl ?_
      refine keeps_mk ?_
      exact keeps_refl _ _
  · exact keeps_refl _ _

theorem keeps_allowRails : ∀ s, Keeps [.hif, .lpl, .rail, .rve, .yok, .eth, .mgt, .tst, .running,
    .maskQ] s (@allowRails s) := by
  intro s
  unfold allowRails
  refine keeps_step (keeps_restartRails _) rfl ?_
  refine keeps_mk ?_
  exact keeps_refl _ _

end Sys2Proof.Laws
end

