-- ==== Sys2Proof/Laws/KeepTransmit.lean ====
section
/-!
SUPPORT. Which parts of the state the operations of Transmit.lean leave alone.
-/

namespace Sys2Proof.Laws

-- Each proof is checked before the next begins: hundreds at once would ask for a thread each.
set_option Elab.async false
set_option linter.all false

open Sys2Proof Sys2Proof.Machine Sys2Proof.Safety

theorem keeps_modLane : ∀ x0 x1 s, Keeps [.link, .yok] s (@modLane x0 x1 s) := by
  intro x0 x1 s
  unfold modLane
  refine keeps_dite (fun _ => ?_) fun _ => ?_
  · refine keeps_mk ?_
    exact keeps_refl _ _
  · refine keeps_mk ?_
    exact keeps_refl _ _

theorem keeps_sendLane : ∀ x0 x1 s, Keeps [.out, .link, .yok] s (@sendLane x0 x1 s) := by
  intro x0 x1 s
  unfold sendLane
  dsimp only
  refine keeps_ite ?_ ?_
  · exact keeps_refl _ _
  · split
    · refine keeps_ite ?_ ?_
      · refine keeps_step (keeps_emit _ _) rfl ?_
        refine keeps_step (keeps_modLane _ _ _) rfl ?_
        exact keeps_refl _ _
      · refine keeps_step (keeps_emit _ _) rfl ?_
        refine keeps_step (keeps_emit _ _) rfl ?_
        refine keeps_step (keeps_modLane _ _ _) rfl ?_
        exact keeps_refl _ _
    · refine keeps_ite ?_ ?_
      · refine keeps_step (keeps_emit _ _) rfl ?_
        refine keeps_step (keeps_modLane _ _ _) rfl ?_
        exact keeps_refl _ _
      · refine keeps_step (keeps_emit _ _) rfl ?_
        refine keeps_step (keeps_emit _ _) rfl ?_
        refine keeps_step (keeps_modLane _ _ _) rfl ?_
        exact keeps_refl _ _
    · refine keeps_step (keeps_emit _ _) rfl ?_
      refine keeps_step (keeps_modLane _ _ _) rfl ?_
      exact keeps_refl _ _
    · refine keeps_step (keeps_emit _ _) rfl ?_
      refine keeps_step (keeps_modLane _ _ _) rfl ?_
      exact keeps_refl _ _

theorem keeps_laneSends : ∀ x0 s, Keeps [.out, .link, .yok] s (@laneSends x0 s) := by
  intro x0 s
  unfold laneSends
  split
  · refine keeps_step (keeps_sendLane _ _ _) rfl ?_
    exact keeps_refl _ _
  · exact keeps_refl _ _

theorem keeps_toState : ∀ x0 x1 s, Keeps [.out, .link, .yok] s (@toState x0 x1 s) := by
  intro x0 x1 s
  unfold toState
  refine keeps_step (keeps_laneSends _ _) rfl ?_
  refine keeps_step (keeps_modLane _ _ _) rfl ?_
  exact keeps_refl _ _

theorem keeps_laneTick : ∀ x0 x1 s, Keeps [.out, .link, .yok] s (@laneTick x0 x1 s) := by
  intro x0 x1 s
  unfold laneTick
  dsimp only
  refine keeps_ite ?_ ?_
  · refine keeps_step (keeps_emit _ _) rfl ?_
    refine keeps_step (keeps_modLane _ _ _) rfl ?_
    exact keeps_refl _ _
  · refine keeps_step (keeps_modLane _ _ _) rfl ?_
    exact keeps_refl _ _

theorem keeps_laneIdle : ∀ s x1, Keeps [.out, .link, .yok] s (@laneIdle s x1) := by
  intro s x1
  unfold laneIdle
  split
  · exact keeps_refl _ _
  · dsimp only
    refine keeps_foldl ?_ fun _ _ _ => ?_
    · refine keeps_step (keeps_modLane _ _ _) rfl ?_
      exact keeps_refl _ _
    · refine keeps_step (keeps_laneTick _ _ _) rfl ?_
      assumption

end Sys2Proof.Laws
end

