-- ==== Sys2Proof/Laws/KeepYokeOps.lean ====
section
/-!
SUPPORT. Which parts of the state the operations of YokeOps.lean leave alone.
-/

namespace Sys2Proof.Laws

-- Each proof is checked before the next begins: hundreds at once would ask for a thread each.
set_option Elab.async false
set_option linter.all false

open Sys2Proof Sys2Proof.Machine Sys2Proof.Safety

theorem keeps_sendYoke : ∀ x0 x1 s, Keeps [.out] s (@sendYoke x0 x1 s) := by
  intro x0 x1 s
  unfold sendYoke
  refine keeps_ite ?_ ?_
  · refine keeps_step (keeps_emit _ _) rfl ?_
    exact keeps_refl _ _
  · exact keeps_refl _ _

theorem keeps_yokeEvent : ∀ x0 x1 s, Keeps [.rve] s (@yokeEvent x0 x1 s) := by
  intro x0 x1 s
  unfold yokeEvent
  refine keeps_step (keeps_raise _ _ _ _) rfl ?_
  exact keeps_refl _ _

theorem keeps_sendHello : ∀ s, Keeps [.out] s (@sendHello s) := by
  intro s
  unfold sendHello
  dsimp only
  refine keeps_step (keeps_sendYoke _ _ _) rfl ?_
  exact keeps_refl _ _

theorem keeps_dropRequests : ∀ s, Keeps [.link] s (@dropRequests s) := by
  intro s
  unfold dropRequests
  refine keeps_mk ?_
  exact keeps_refl _ _

theorem keeps_releaseLine : ∀ x0 s, Keeps [.hif, .hdg, .lpl, .link, .rail, .rve, .yok, .eth, .mgt,
    .tst, .running, .maskQ] s (@releaseLine x0 s) := by
  intro x0 s
  unfold releaseLine
  refine keeps_ite ?_ ?_
  · refine keeps_step (keeps_settleRails _) rfl ?_
    dsimp only
    refine keeps_mk ?_
    unfold dropDisc
    split
    · refine keeps_step (keeps_dropRequests _) rfl ?_
      exact keeps_refl _ _
    · refine keeps_ite ?_ ?_
      · refine keeps_mk ?_
        refine keeps_step (keeps_dropRequests _) rfl ?_
        exact keeps_refl _ _
      · refine keeps_mk ?_
        refine keeps_step (keeps_dropRequests _) rfl ?_
        exact keeps_refl _ _
  · exact keeps_refl _ _

theorem keeps_exclude : ∀ x0 s, Keeps [.hif, .hdg, .lpl, .link, .rail, .rve, .yok, .eth, .mgt, .tst,
    .running, .maskQ] s (@exclude x0 s) := by
  intro x0 s
  unfold exclude
  dsimp only
  refine keeps_step (keeps_yokeEvent _ _ _) rfl ?_
  refine keeps_mk ?_
  refine keeps_step (keeps_releaseLine _ _) rfl ?_
  exact keeps_refl _ _

theorem keeps_leadOn : ∀ s, Keeps [.yok] s (@leadOn s) := by
  intro s
  unfold leadOn
  refine keeps_mk ?_
  exact keeps_refl _ _

theorem keeps_partnerLost : ∀ s, Keeps [.rve, .yok] s (@partnerLost s) := by
  intro s
  unfold partnerLost
  refine keeps_ite ?_ ?_
  · exact keeps_refl _ _
  · dsimp only
    refine keeps_ite ?_ ?_
    · refine keeps_mk ?_
      refine keeps_step (keeps_yokeEvent _ _ _) rfl ?_
      refine keeps_mk ?_
      exact keeps_refl _ _
    · refine keeps_step (keeps_leadOn _) rfl ?_
      refine keeps_step (keeps_yokeEvent _ _ _) rfl ?_
      refine keeps_mk ?_
      exact keeps_refl _ _

theorem keeps_excludeFor : ∀ x0 s, Keeps [.out, .hif, .hdg, .lpl, .link, .rail, .rve, .yok, .eth,
    .mgt, .tst, .running, .maskQ] s (@excludeFor x0 s) := by
  intro x0 s
  unfold excludeFor
  refine keeps_ite ?_ ?_
  · exact keeps_refl _ _
  · refine keeps_ite ?_ ?_
    · refine keeps_step (keeps_sendYoke _ _ _) rfl ?_
      exact keeps_refl _ _
    · refine keeps_step (keeps_exclude _ _) rfl ?_
      exact keeps_refl _ _

theorem keeps_setRun : ∀ s, Keeps [.yok] s (@setRun s) := by
  intro s
  unfold setRun
  refine keeps_mk ?_
  exact keeps_refl _ _

theorem keeps_mismatchFrame : ∀ s, Keeps [.rve, .yok] s (@mismatchFrame s) := by
  intro s
  unfold mismatchFrame
  refine keeps_step (keeps_yokeEvent _ _ _) rfl ?_
  refine keeps_step (keeps_setRun _) rfl ?_
  refine keeps_mk ?_
  exact keeps_refl _ _

theorem keeps_checkTiles : ∀ s, Keeps [.out, .hif, .hdg, .lpl, .link, .rail, .rve, .yok, .eth, .mgt,
    .tst, .running, .maskQ] s (@checkTiles s) := by
  intro s
  unfold checkTiles
  refine keeps_ite ?_ ?_
  · dsimp only
    refine keeps_step (keeps_excludeFor _ _) rfl ?_
    refine keeps_step (keeps_mismatchFrame _) rfl ?_
    refine keeps_mk ?_
    exact keeps_refl _ _
  · exact keeps_refl _ _

theorem keeps_checkAtLatch : ∀ s, Keeps [.yok] s (@checkAtLatch s) := by
  intro s
  unfold checkAtLatch
  refine keeps_mk ?_
  exact keeps_refl _ _

theorem keeps_idleLine : ∀ s, Keeps [.free, .yok] s (@idleLine s) := by
  intro s
  unfold idleLine
  refine keeps_ite ?_ ?_
  · exact keeps_refl _ _
  · dsimp only
    refine keeps_mk ?_
    refine keeps_step (keeps_freshBool _) rfl ?_
    exact keeps_refl _ _

theorem keeps_sendFbkAll : ∀ s, Keeps [.out, .hif, .hdg, .lpl, .link, .rail, .rve, .yok, .eth, .mgt,
    .tst, .running, .maskQ] s (@sendFbkAll s) := by
  intro s
  unfold sendFbkAll
  dsimp only
  refine keeps_ite ?_ ?_
  · refine keeps_step (keeps_releaseLine _ _) rfl ?_
    refine keeps_foldl ?_ fun _ _ _ => ?_
    · exact keeps_refl _ _
    · refine keeps_ite ?_ ?_
      · refine keeps_step (keeps_sendLane _ _ _) rfl ?_
        assumption
      · split
        · refine keeps_step (keeps_sendLane _ _ _) rfl ?_
          assumption
        · assumption
  · refine keeps_foldl ?_ fun _ _ _ => ?_
    · exact keeps_refl _ _
    · refine keeps_ite ?_ ?_
      · refine keeps_step (keeps_sendLane _ _ _) rfl ?_
        assumption
      · split
        · refine keeps_step (keeps_sendLane _ _ _) rfl ?_
          assumption
        · assumption

end Sys2Proof.Laws
end

