-- ==== Sys2Proof/Laws/KeepHedgeOps.lean ====
section
/-!
SUPPORT. Which parts of the state the operations of HedgeOps.lean leave alone.
-/

namespace Sys2Proof.Laws

-- Each proof is checked before the next begins: hundreds at once would ask for a thread each.
set_option Elab.async false
set_option linter.all false

open Sys2Proof Sys2Proof.Machine Sys2Proof.Safety

theorem keeps_sendOverride : ∀ s, Keeps [.out, .link, .yok] s (@sendOverride s) := by
  intro s
  unfold sendOverride
  dsimp only
  split
  · exact keeps_refl _ _
  · refine keeps_foldl ?_ fun _ _ _ => ?_
    · exact keeps_refl _ _
    · refine keeps_step (keeps_sendLane _ _ _) rfl ?_
      assumption

theorem keeps_followState : ∀ x0 s, Keeps [.out, .link, .yok] s (@followState x0 s) := by
  intro x0 s
  unfold followState
  refine keeps_ite ?_ ?_
  · refine keeps_step (keeps_sendOverride _) rfl ?_
    exact keeps_refl _ _
  · exact keeps_refl _ _

theorem keeps_raiseCause : ∀ x0 x1 s, Keeps [.out, .hif, .hdg, .lpl, .link, .rail, .rve, .yok, .eth,
    .mgt, .tst, .running, .maskQ] s (@raiseCause x0 x1 s) := by
  intro x0 x1 s
  unfold raiseCause
  refine keeps_ite ?_ ?_
  · exact keeps_refl _ _
  · dsimp only
    refine keeps_ite ?_ ?_
    · refine keeps_step (keeps_raise _ _ _ _) rfl ?_
      refine keeps_mk ?_
      exact keeps_refl _ _
    · refine keeps_step (keeps_settleRails _) rfl ?_
      refine keeps_step (keeps_sendOverride _) rfl ?_
      refine keeps_step (keeps_raise _ _ _ _) rfl ?_
      refine keeps_mk ?_
      exact keeps_refl _ _

theorem keeps_releaseCauses : ∀ s, Keeps [.hif, .hdg, .lpl, .rail, .rve, .yok, .eth, .mgt, .tst,
    .running, .maskQ] s (@releaseCauses s) := by
  intro s
  unfold releaseCauses
  dsimp only
  refine keeps_step (keeps_settleRails _) rfl ?_
  refine keeps_mk ?_
  exact keeps_refl _ _

theorem keeps_ackHedge : ∀ s, Keeps [.hdg] s (@ackHedge s) := by
  intro s
  unfold ackHedge
  refine keeps_mk ?_
  exact keeps_refl _ _

theorem keeps_endTest : ∀ x0 x1 s, Keeps [.hif, .hdg, .lpl, .rve, .yok, .eth, .mgt, .running,
    .maskQ] s (@endTest x0 x1 s) := by
  intro x0 x1 s
  unfold endTest
  split
  · exact keeps_refl _ _
  · dsimp only
    refine keeps_ite ?_ ?_
    · refine keeps_step (keeps_finish _ _ _ _) rfl ?_
      refine keeps_mk ?_
      exact keeps_refl _ _
    · refine keeps_step (keeps_complete _ _ _ _ _) rfl ?_
      refine keeps_mk ?_
      exact keeps_refl _ _

theorem keeps_selfFault : ∀ x0 s, Keeps [.hif, .hdg, .lpl, .link, .rail, .rve, .yok, .eth, .mgt,
    .tst, .running, .maskQ] s (@selfFault x0 s) := by
  intro x0 s
  unfold selfFault
  refine keeps_ite ?_ ?_
  · exact keeps_refl _ _
  · dsimp only
    refine keeps_step (keeps_settleRails _) rfl ?_
    refine keeps_step (keeps_releaseLine _ _) rfl ?_
    refine keeps_step (keeps_raise _ _ _ _) rfl ?_
    refine keeps_step (keeps_endTest _ _ _) rfl ?_
    refine keeps_mk ?_
    unfold dropDisc
    split
    · exact keeps_refl _ _
    · refine keeps_ite ?_ ?_
      · refine keeps_mk ?_
        exact keeps_refl _ _
      · refine keeps_mk ?_
        exact keeps_refl _ _

theorem keeps_noteCommission : ∀ s, Keeps [.hdg, .rve] s (@noteCommission s) := by
  intro s
  unfold noteCommission
  refine keeps_ite ?_ ?_
  · refine keeps_step (keeps_raise _ _ _ _) rfl ?_
    refine keeps_mk ?_
    exact keeps_refl _ _
  · exact keeps_refl _ _

theorem keeps_modSafe : ∀ x0 x1 s, Keeps [.hdg] s (@modSafe x0 x1 s) := by
  intro x0 x1 s
  unfold modSafe
  refine keeps_ite ?_ ?_
  · refine keeps_mk ?_
    exact keeps_refl _ _
  · refine keeps_mk ?_
    exact keeps_refl _ _

theorem keeps_safeInRaise : ∀ s, Keeps [.out, .hif, .hdg, .lpl, .link, .rail, .rve, .yok, .eth,
    .mgt, .tst, .running, .maskQ] s (@safeInRaise s) := by
  intro s
  unfold safeInRaise
  refine keeps_ite ?_ ?_
  · exact keeps_refl _ _
  · refine keeps_step (keeps_raiseCause _ _ _) rfl ?_
    refine keeps_mk ?_
    exact keeps_refl _ _

theorem keeps_evalInputs : ∀ s, Keeps [.out, .hif, .hdg, .lpl, .link, .rail, .rve, .yok, .eth, .mgt,
    .tst, .running, .maskQ] s (@evalInputs s) := by
  intro s
  unfold evalInputs
  dsimp only
  refine keeps_ite ?_ ?_
  · refine keeps_step (keeps_safeInRaise _) rfl ?_
    exact keeps_refl _ _
  · exact keeps_refl _ _

theorem keeps_activateBlock : ∀ x0 x1 s, Keeps [.pho, .hdg] s (@activateBlock x0 x1 s) := by
  intro x0 x1 s
  unfold activateBlock
  refine keeps_mk ?_
  exact keeps_refl _ _

theorem keeps_dropStaged : ∀ s, Keeps [.hdg] s (@dropStaged s) := by
  intro s
  unfold dropStaged
  refine keeps_mk ?_
  exact keeps_refl _ _

theorem keeps_takeEcho : ∀ x0 x1 s, Keeps [.hdg] s (@takeEcho x0 x1 s) := by
  intro x0 x1 s
  unfold takeEcho
  dsimp only
  split
  · refine keeps_mk ?_
    exact keeps_refl _ _
  · exact keeps_refl _ _

theorem keeps_closeWindow : ∀ s, Keeps [.out, .hif, .hdg, .lpl, .link, .rail, .rve, .yok, .eth,
    .mgt, .tst, .running, .maskQ] s (@closeWindow s) := by
  intro s
  unfold closeWindow
  split
  · exact keeps_refl _ _
  · dsimp only
    refine keeps_ite ?_ ?_
    · refine keeps_step (keeps_raiseCause _ _ _) rfl ?_
      refine keeps_mk ?_
      exact keeps_refl _ _
    · refine keeps_mk ?_
      exact keeps_refl _ _

end Sys2Proof.Laws
end

