-- ==== Sys2Proof/Laws/KeepHedge.lean ====
section
/-!
SUPPORT. Which parts of the state the operations of Hedge.lean leave alone.
-/

namespace Sys2Proof.Laws

-- Each proof is checked before the next begins: hundreds at once would ask for a thread each.
set_option Elab.async false
set_option linter.all false

open Sys2Proof Sys2Proof.Machine Sys2Proof.Safety

theorem keeps_confirmBlock : ∀ x0 x1 s, Keeps [.hdg, .rve] s (@confirmBlock x0 x1 s).2 := by
  intro x0 x1 s
  unfold confirmBlock
  split
  · dsimp only
    exact keeps_refl _ _
  · split
    · dsimp only
      refine keeps_step (keeps_raise _ _ _ _) rfl ?_
      refine keeps_mk ?_
      exact keeps_refl _ _
    · dsimp only
      refine keeps_mk ?_
      exact keeps_refl _ _

theorem keeps_safetyBody : BodyKeeps [.free, .out, .hif, .dma, .hdg, .rve, .eth, .mgt, .running,
    .maskQ, .jobs] safetyBody := by
  refine ⟨fun c s => ?_, fun c st s => ?_⟩
  · unfold safetyBody
    dsimp only
    refine keeps_ite ?_ ?_
    · refine keeps_ite ?_ ?_
      · refine keeps_step (keeps_complete _ _ _ _ _) rfl ?_
        refine keeps_step (keeps_dropStaged _) rfl ?_
        exact keeps_refl _ _
      · refine keeps_step (keeps_askTransfer _ _) rfl ?_
        exact keeps_refl _ _
    · split
      · refine keeps_step (keeps_complete _ _ _ _ _) rfl ?_
        refine keeps_step (keeps_confirmBlock _ _ _) rfl ?_
        refine keeps_mk ?_
        exact keeps_refl _ _
      · refine keeps_step (keeps_confirmBlock _ _ _) rfl ?_
        refine keeps_mk ?_
        exact keeps_refl _ _
  · unfold safetyBody
    dsimp only
    exact keeps_refl _ _

theorem keeps_stageCopied : ∀ x0 s, Keeps [.hif, .hdg, .rve, .eth, .mgt, .running, .maskQ] s
    (@stageCopied x0 s) := by
  intro x0 s
  unfold stageCopied
  refine keeps_ite ?_ ?_
  · refine keeps_step (keeps_complete _ _ _ _ _) rfl ?_
    exact keeps_refl _ _
  · split
    · refine keeps_step (keeps_complete _ _ _ _ _) rfl ?_
      exact keeps_refl _ _
    · dsimp only
      refine keeps_step (keeps_complete _ _ _ _ _) rfl ?_
      refine keeps_mk ?_
      exact keeps_refl _ _

theorem keeps_startPulse : ∀ x0 s, Keeps [.hdg] s (@startPulse x0 s) := by
  intro x0 s
  unfold startPulse
  dsimp only
  refine keeps_step (keeps_modSafe _ _ _) rfl ?_
  exact keeps_refl _ _

theorem keeps_startDisc : ∀ x0 x1 x2 x3 s, Keeps [.hdg] s (@startDisc x0 x1 x2 x3 s) := by
  intro x0 x1 x2 x3 s
  unfold startDisc
  dsimp only
  refine keeps_mk ?_
  exact keeps_refl _ _

theorem keeps_beginTest : ∀ s, Keeps [.out, .hif, .hdg, .lpl, .link, .rve, .yok, .eth, .mgt,
    .running, .maskQ] s (@beginTest s) := by
  intro s
  unfold beginTest
  split
  · refine keeps_ite ?_ ?_
    · refine keeps_step (keeps_endTest _ _ _) rfl ?_
      exact keeps_refl _ _
    · refine keeps_ite ?_ ?_
      · exact keeps_refl _ _
      · dsimp only
        refine keeps_ite ?_ ?_
        · refine keeps_step (keeps_startPulse _ _) rfl ?_
          refine keeps_mk ?_
          exact keeps_refl _ _
        · refine keeps_ite ?_ ?_
          · refine keeps_step (keeps_startDisc _ _ _ _ _) rfl ?_
            refine keeps_mk ?_
            exact keeps_refl _ _
          · refine keeps_step (keeps_sendOverride _) rfl ?_
            refine keeps_mk ?_
            exact keeps_refl _ _
  · exact keeps_refl _ _

theorem keeps_safeTestBody : BodyKeeps [.out, .hif, .hdg, .lpl, .link, .rve, .yok, .eth, .mgt,
    .running, .maskQ] safeTestBody := by
  refine ⟨fun c s => ?_, fun c st s => ?_⟩
  · unfold safeTestBody
    dsimp only
    refine keeps_step (keeps_beginTest _) rfl ?_
    refine keeps_mk ?_
    exact keeps_refl _ _
  · unfold safeTestBody
    dsimp only
    exact keeps_refl _ _

theorem keeps_execSafetyCommit : ∀ x0 x1 s, ∃ t, @execSafetyCommit x0 x1 s = .next t ∧ Keeps [.free,
    .out, .hif, .dma, .hdg, .rve, .yok, .eth, .mgt, .running, .nextSer, .maskQ, .jobs] s t := by
  intro x0 x1 s
  unfold execSafetyCommit
  refine ⟨_, rfl, ?_⟩
  refine keeps_runRow rfl rfl keeps_safetyBody ?_
  exact keeps_refl _ _

theorem keeps_execSafeTest : ∀ x0 x1 s, ∃ t, @execSafeTest x0 x1 s = .next t ∧ Keeps [.out, .hif,
    .hdg, .lpl, .link, .rve, .yok, .eth, .mgt, .running, .nextSer, .maskQ] s t := by
  intro x0 x1 s
  unfold execSafeTest
  refine ⟨_, rfl, ?_⟩
  refine keeps_runRow rfl rfl keeps_safeTestBody ?_
  exact keeps_refl _ _

theorem keeps_execHdgCommitCrcWrite : ∀ x0 s, ∃ t, @execHdgCommitCrcWrite x0 s = .next t ∧ Keeps
    [.hdg, .rve] s t := by
  intro x0 s
  unfold execHdgCommitCrcWrite
  refine ⟨_, rfl, ?_⟩
  refine keeps_whenS ?_ fun _ => ?_
  · exact keeps_refl _ _
  · refine keeps_step (keeps_confirmBlock _ _ _) rfl ?_
    refine keeps_mk ?_
    exact keeps_refl _ _

theorem keeps_execHdgCntClearSafe : ∀ s, ∃ t, @execHdgCntClearSafe s = .next t ∧ Keeps [.hdg] s t :=
    by
  intro s
  unfold execHdgCntClearSafe
  refine ⟨_, rfl, ?_⟩
  refine keeps_whenS ?_ fun _ => ?_
  · exact keeps_refl _ _
  · refine keeps_mk ?_
    exact keeps_refl _ _

theorem keeps_execHdgCntClearCount : ∀ s, ∃ t, @execHdgCntClearCount s = .next t ∧ Keeps [.hdg] s t
    := by
  intro s
  unfold execHdgCntClearCount
  refine ⟨_, rfl, ?_⟩
  refine keeps_whenS ?_ fun _ => ?_
  · exact keeps_refl _ _
  · refine keeps_mk ?_
    exact keeps_refl _ _

theorem keeps_execEchoWindowExpiry : ∀ s, ∃ t, @execEchoWindowExpiry s = .next t ∧ Keeps [.out,
    .hif, .hdg, .lpl, .link, .rail, .rve, .yok, .eth, .mgt, .tst, .running, .maskQ] s t := by
  intro s
  unfold execEchoWindowExpiry
  refine ⟨_, rfl, ?_⟩
  refine keeps_whenS ?_ fun _ => ?_
  · exact keeps_refl _ _
  · refine keeps_step (keeps_closeWindow _) rfl ?_
    exact keeps_refl _ _

theorem keeps_execTeInEdge : ∀ s, ∃ t, @execTeInEdge s = .next t ∧ Keeps [.hdg, .lpl] s t := by
  intro s
  unfold execTeInEdge
  refine ⟨_, rfl, ?_⟩
  refine keeps_whenS ?_ fun _ => ?_
  · exact keeps_refl _ _
  · dsimp only
    refine keeps_foldl ?_ fun _ _ _ => ?_
    · refine keeps_mk ?_
      exact keeps_refl _ _
    · split
      · refine keeps_ite ?_ ?_
        · refine keeps_step (keeps_takeEcho _ _ _) rfl ?_
          assumption
        · assumption
      · assumption

theorem keeps_execSafeInRequest : ∀ x0 s, ∃ t, @execSafeInRequest x0 s = .next t ∧ Keeps [.out,
    .hif, .hdg, .lpl, .link, .rail, .rve, .yok, .eth, .mgt, .tst, .running, .maskQ] s t := by
  intro x0 s
  unfold execSafeInRequest
  refine ⟨_, rfl, ?_⟩
  refine keeps_whenS ?_ fun _ => ?_
  · exact keeps_refl _ _
  · dsimp only
    refine keeps_ite ?_ ?_
    · refine keeps_mk ?_
      refine keeps_step (keeps_modSafe _ _ _) rfl ?_
      refine keeps_step (keeps_safeInRaise _) rfl ?_
      refine keeps_step (keeps_modSafe _ _ _) rfl ?_
      exact keeps_refl _ _
    · refine keeps_step (keeps_safeInRaise _) rfl ?_
      refine keeps_step (keeps_modSafe _ _ _) rfl ?_
      exact keeps_refl _ _

theorem keeps_execSafeInHigh : ∀ x0 s, ∃ t, @execSafeInHigh x0 s = .next t ∧ Keeps [.hdg] s t := by
  intro x0 s
  unfold execSafeInHigh
  refine ⟨_, rfl, ?_⟩
  refine keeps_whenS ?_ fun _ => ?_
  · exact keeps_refl _ _
  · refine keeps_step (keeps_modSafe _ _ _) rfl ?_
    exact keeps_refl _ _

theorem keeps_execTestPulseStart : ∀ x0 s, ∃ t, @execTestPulseStart x0 s = .next t ∧ Keeps [.hdg] s
    t := by
  intro x0 s
  unfold execTestPulseStart
  dsimp only
  refine ⟨_, rfl, ?_⟩
  refine keeps_whenS ?_ fun _ => ?_
  · exact keeps_refl _ _
  · refine keeps_step (keeps_startPulse _ _) rfl ?_
    exact keeps_refl _ _

theorem keeps_execTestPulseSample : ∀ x0 x1 s, ∃ t, @execTestPulseSample x0 x1 s = .next t ∧ Keeps
    [.hdg] s t := by
  intro x0 x1 s
  unfold execTestPulseSample
  refine ⟨_, rfl, ?_⟩
  refine keeps_whenS ?_ fun _ => ?_
  · exact keeps_refl _ _
  · refine keeps_step (keeps_modSafe _ _ _) rfl ?_
    exact keeps_refl _ _

theorem keeps_testPulse : ∀ x0 x1 s, Keeps [.hif, .hdg, .lpl, .rve, .yok, .eth, .mgt, .running,
    .maskQ] s (@testPulse x0 x1 s) := by
  intro x0 x1 s
  unfold testPulse
  split
  · exact keeps_refl _ _
  · refine keeps_ite ?_ ?_
    · exact keeps_refl _ _
    · refine keeps_ite ?_ ?_
      · refine keeps_mk ?_
        exact keeps_refl _ _
      · dsimp only
        refine keeps_step (keeps_endTest _ _ _) rfl ?_
        exact keeps_refl _ _

theorem keeps_execTestPulseEnd : ∀ x0 s, ∃ t, @execTestPulseEnd x0 s = .next t ∧ Keeps [.out, .hif,
    .hdg, .lpl, .link, .rail, .rve, .yok, .eth, .mgt, .tst, .running, .maskQ] s t := by
  intro x0 s
  unfold execTestPulseEnd
  refine ⟨_, rfl, ?_⟩
  refine keeps_whenS ?_ fun _ => ?_
  · exact keeps_refl _ _
  · dsimp only
    refine keeps_step (keeps_beginTest _) rfl ?_
    refine keeps_ite ?_ ?_
    · refine keeps_step (keeps_safeInRaise _) rfl ?_
      refine keeps_step (keeps_modSafe _ _ _) rfl ?_
      refine keeps_step (keeps_testPulse _ _ _) rfl ?_
      refine keeps_ite ?_ ?_
      · refine keeps_step (keeps_raiseCause _ _ _) rfl ?_
        refine keeps_step (keeps_modSafe _ _ _) rfl ?_
        exact keeps_refl _ _
      · refine keeps_step (keeps_modSafe _ _ _) rfl ?_
        exact keeps_refl _ _
    · refine keeps_step (keeps_testPulse _ _ _) rfl ?_
      refine keeps_ite ?_ ?_
      · refine keeps_step (keeps_raiseCause _ _ _) rfl ?_
        refine keeps_step (keeps_modSafe _ _ _) rfl ?_
        exact keeps_refl _ _
      · refine keeps_step (keeps_modSafe _ _ _) rfl ?_
        exact keeps_refl _ _

theorem keeps_execHedgeSelfFault : ∀ x0 s, ∃ t, @execHedgeSelfFault x0 s = .next t ∧ Keeps [.hif,
    .hdg, .lpl, .link, .rail, .rve, .yok, .eth, .mgt, .tst, .running, .maskQ] s t := by
  intro x0 s
  unfold execHedgeSelfFault
  refine ⟨_, rfl, ?_⟩
  refine keeps_step (keeps_selfFault _ _) rfl ?_
  exact keeps_refl _ _

theorem keeps_execHedgeHeartbeatLoss : ∀ s, ∃ t, @execHedgeHeartbeatLoss s = .next t ∧ Keeps [.out,
    .hif, .hdg, .lpl, .link, .rail, .rve, .yok, .eth, .mgt, .tst, .running, .maskQ] s t := by
  intro s
  unfold execHedgeHeartbeatLoss
  refine ⟨_, rfl, ?_⟩
  refine keeps_whenS ?_ fun _ => ?_
  · exact keeps_refl _ _
  · dsimp only
    refine keeps_ite ?_ ?_
    · refine keeps_step (keeps_raise _ _ _ _) rfl ?_
      refine keeps_step (keeps_sendFbkAll _) rfl ?_
      refine keeps_mk ?_
      exact keeps_refl _ _
    · refine keeps_step (keeps_sendFbkAll _) rfl ?_
      refine keeps_mk ?_
      exact keeps_refl _ _

theorem keeps_execHedgeCrcScan : ∀ x0 x1 s, ∃ t, @execHedgeCrcScan x0 x1 s = .next t ∧ Keeps [.hif,
    .hdg, .lpl, .link, .rail, .rve, .yok, .eth, .mgt, .tst, .running, .maskQ] s t := by
  intro x0 x1 s
  unfold execHedgeCrcScan
  refine ⟨_, rfl, ?_⟩
  refine keeps_whenS ?_ fun _ => ?_
  · exact keeps_refl _ _
  · dsimp only
    refine keeps_ite ?_ ?_
    · refine keeps_ite ?_ ?_
      · refine keeps_step (keeps_raise _ _ _ _) rfl ?_
        exact keeps_refl _ _
      · exact keeps_refl _ _
    · refine keeps_step (keeps_selfFault _ _) rfl ?_
      refine keeps_ite ?_ ?_
      · refine keeps_step (keeps_raise _ _ _ _) rfl ?_
        exact keeps_refl _ _
      · exact keeps_refl _ _

theorem keeps_execStagedBlockTimeout : ∀ s, ∃ t, @execStagedBlockTimeout s = .next t ∧ Keeps [.hdg]
    s t := by
  intro s
  unfold execStagedBlockTimeout
  refine ⟨_, rfl, ?_⟩
  refine keeps_whenS ?_ fun _ => ?_
  · exact keeps_refl _ _
  · refine keeps_step (keeps_dropStaged _) rfl ?_
    exact keeps_refl _ _

theorem keeps_execCommissionNLow : ∀ s, ∃ t, @execCommissionNLow s = .next t ∧ Keeps [.hdg, .rve] s
    t := by
  intro s
  unfold execCommissionNLow
  refine ⟨_, rfl, ?_⟩
  refine keeps_whenS ?_ fun _ => ?_
  · exact keeps_refl _ _
  · refine keeps_step (keeps_noteCommission _) rfl ?_
    refine keeps_mk ?_
    exact keeps_refl _ _

theorem keeps_execClockDeviation : ∀ x0 s, ∃ t, @execClockDeviation x0 s = .next t ∧ Keeps [.hif,
    .hdg, .lpl, .link, .rail, .pwr, .rve, .yok, .eth, .mgt, .tst, .running, .maskQ] s t := by
  intro x0 s
  unfold execClockDeviation
  dsimp only
  refine ⟨_, rfl, ?_⟩
  refine keeps_ite ?_ ?_
  · refine keeps_step (keeps_selfFault _ _) rfl ?_
    refine keeps_step (keeps_raise _ _ _ _) rfl ?_
    split
    · refine keeps_mk ?_
      exact keeps_refl _ _
    · refine keeps_mk ?_
      exact keeps_refl _ _
    · refine keeps_mk ?_
      exact keeps_refl _ _
    · refine keeps_mk ?_
      exact keeps_refl _ _
    · refine keeps_mk ?_
      exact keeps_refl _ _
  · refine keeps_step (keeps_raise _ _ _ _) rfl ?_
    split
    · refine keeps_mk ?_
      exact keeps_refl _ _
    · refine keeps_mk ?_
      exact keeps_refl _ _
    · refine keeps_mk ?_
      exact keeps_refl _ _
    · refine keeps_mk ?_
      exact keeps_refl _ _
    · refine keeps_mk ?_
      exact keeps_refl _ _

theorem keeps_execFreezeStall : ∀ s, ∃ t, @execFreezeStall s = .next t ∧ Keeps [.out, .hif, .hdg,
    .lpl, .link, .rail, .rve, .yok, .eth, .mgt, .tst, .running, .maskQ] s t := by
  intro s
  unfold execFreezeStall
  refine ⟨_, rfl, ?_⟩
  refine keeps_whenS ?_ fun _ => ?_
  · exact keeps_refl _ _
  · dsimp only
    refine keeps_step (keeps_releaseLine _ _) rfl ?_
    refine keeps_step (keeps_sendFbkAll _) rfl ?_
    refine keeps_step (keeps_raise _ _ _ _) rfl ?_
    refine keeps_mk ?_
    exact keeps_refl _ _

end Sys2Proof.Laws
end

