-- ==== Sys2Proof/Laws/KeepDisconnect.lean ====
section
/-!
SUPPORT. Which parts of the state the operations of Disconnect.lean leave alone.
-/

namespace Sys2Proof.Laws

-- Each proof is checked before the next begins: hundreds at once would ask for a thread each.
set_option Elab.async false
set_option linter.all false

open Sys2Proof Sys2Proof.Machine Sys2Proof.Safety

theorem keeps_modSwitch : ∀ x0 x1 s, Keeps [.hdg] s (@modSwitch x0 x1 s) := by
  intro x0 x1 s
  unfold modSwitch
  refine keeps_ite ?_ ?_
  · refine keeps_mk ?_
    exact keeps_refl _ _
  · refine keeps_mk ?_
    exact keeps_refl _ _

theorem keeps_execDisconnectTestStart : ∀ x0 s, ∃ t, @execDisconnectTestStart x0 s = .next t ∧ Keeps
    [.hdg] s t := by
  intro x0 s
  unfold execDisconnectTestStart
  dsimp only
  refine ⟨_, rfl, ?_⟩
  refine keeps_whenS ?_ fun _ => ?_
  · exact keeps_refl _ _
  · refine keeps_step (keeps_startDisc _ _ _ _ _) rfl ?_
    refine keeps_mk ?_
    exact keeps_refl _ _

theorem keeps_execDisconnectFeedbackLow : ∀ x0 s, ∃ t, @execDisconnectFeedbackLow x0 s = .next t ∧
    Keeps [.hdg] s t := by
  intro x0 s
  unfold execDisconnectFeedbackLow
  refine ⟨_, rfl, ?_⟩
  split
  · exact keeps_refl _ _
  · refine keeps_ite ?_ ?_
    · exact keeps_refl _ _
    · dsimp only
      refine keeps_mk ?_
      refine keeps_step (keeps_modSwitch _ _ _) rfl ?_
      exact keeps_refl _ _

theorem keeps_execDisconnectOpenTimeout : ∀ s, ∃ t, @execDisconnectOpenTimeout s = .next t ∧ Keeps
    [.hdg] s t := by
  intro s
  unfold execDisconnectOpenTimeout
  refine ⟨_, rfl, ?_⟩
  split
  · exact keeps_refl _ _
  · refine keeps_ite ?_ ?_
    · exact keeps_refl _ _
    · dsimp only
      refine keeps_mk ?_
      refine keeps_step (keeps_modSwitch _ _ _) rfl ?_
      exact keeps_refl _ _

theorem keeps_powerUpDone : ∀ x0 s, Keeps [.hif, .hdg, .lpl, .rail, .rve, .yok, .eth, .mgt, .tst,
    .running, .maskQ] s (@powerUpDone x0 s) := by
  intro x0 s
  unfold powerUpDone
  dsimp only
  refine keeps_ite ?_ ?_
  · refine keeps_step (keeps_allowRails _) rfl ?_
    refine keeps_ite ?_ ?_
    · refine keeps_mk ?_
      exact keeps_refl _ _
    · refine keeps_mk ?_
      exact keeps_refl _ _
  · refine keeps_ite ?_ ?_
    · refine keeps_mk ?_
      exact keeps_refl _ _
    · refine keeps_mk ?_
      exact keeps_refl _ _

theorem keeps_setRetry : ∀ x0 x1 s, Keeps [.hdg] s (@setRetry x0 x1 s) := by
  intro x0 x1 s
  unfold setRetry
  refine keeps_ite ?_ ?_
  · refine keeps_mk ?_
    exact keeps_refl _ _
  · refine keeps_mk ?_
    exact keeps_refl _ _

theorem keeps_testDisc : ∀ x0 x1 s, Keeps [.hif, .hdg, .lpl, .rve, .yok, .eth, .mgt, .running,
    .maskQ] s (@testDisc x0 x1 s) := by
  intro x0 x1 s
  unfold testDisc
  split
  · exact keeps_refl _ _
  · refine keeps_ite ?_ ?_
    · exact keeps_refl _ _
    · refine keeps_ite ?_ ?_
      · refine keeps_mk ?_
        exact keeps_refl _ _
      · dsimp only
        refine keeps_step (keeps_endTest _ _ _) rfl ?_
        exact keeps_refl _ _

theorem keeps_execDisconnectReleaseCheck : ∀ x0 s, ∃ t, @execDisconnectReleaseCheck x0 s = .next t ∧
    Keeps [.out, .hif, .hdg, .lpl, .link, .rail, .rve, .yok, .eth, .mgt, .tst, .running, .maskQ] s t
    := by
  intro x0 s
  unfold execDisconnectReleaseCheck
  refine ⟨_, rfl, ?_⟩
  split
  · exact keeps_refl _ _
  · refine keeps_ite ?_ ?_
    · exact keeps_refl _ _
    · dsimp only
      refine keeps_ite ?_ ?_
      · refine keeps_step (keeps_powerUpDone _ _) rfl ?_
        refine keeps_ite ?_ ?_
        · refine keeps_ite ?_ ?_
          · refine keeps_step (keeps_modSwitch _ _ _) rfl ?_
            refine keeps_mk ?_
            exact keeps_refl _ _
          · refine keeps_mk ?_
            refine keeps_step (keeps_modSwitch _ _ _) rfl ?_
            refine keeps_mk ?_
            exact keeps_refl _ _
        · refine keeps_step (keeps_raiseCause _ _ _) rfl ?_
          refine keeps_ite ?_ ?_
          · refine keeps_step (keeps_modSwitch _ _ _) rfl ?_
            refine keeps_mk ?_
            exact keeps_refl _ _
          · refine keeps_mk ?_
            refine keeps_step (keeps_modSwitch _ _ _) rfl ?_
            refine keeps_mk ?_
            exact keeps_refl _ _
      · refine keeps_ite ?_ ?_
        · refine keeps_step (keeps_testDisc _ _ _) rfl ?_
          refine keeps_ite ?_ ?_
          · refine keeps_ite ?_ ?_
            · refine keeps_step (keeps_raiseCause _ _ _) rfl ?_
              refine keeps_ite ?_ ?_
              · refine keeps_step (keeps_modSwitch _ _ _) rfl ?_
                refine keeps_mk ?_
                exact keeps_refl _ _
              · refine keeps_mk ?_
                refine keeps_step (keeps_modSwitch _ _ _) rfl ?_
                refine keeps_mk ?_
                exact keeps_refl _ _
            · refine keeps_ite ?_ ?_
              · refine keeps_step (keeps_modSwitch _ _ _) rfl ?_
                refine keeps_mk ?_
                exact keeps_refl _ _
              · refine keeps_mk ?_
                refine keeps_step (keeps_modSwitch _ _ _) rfl ?_
                refine keeps_mk ?_
                exact keeps_refl _ _
          · refine keeps_step (keeps_setRetry _ _ _) rfl ?_
            refine keeps_ite ?_ ?_
            · refine keeps_step (keeps_raiseCause _ _ _) rfl ?_
              refine keeps_ite ?_ ?_
              · refine keeps_step (keeps_modSwitch _ _ _) rfl ?_
                refine keeps_mk ?_
                exact keeps_refl _ _
              · refine keeps_mk ?_
                refine keeps_step (keeps_modSwitch _ _ _) rfl ?_
                refine keeps_mk ?_
                exact keeps_refl _ _
            · refine keeps_ite ?_ ?_
              · refine keeps_step (keeps_modSwitch _ _ _) rfl ?_
                refine keeps_mk ?_
                exact keeps_refl _ _
              · refine keeps_mk ?_
                refine keeps_step (keeps_modSwitch _ _ _) rfl ?_
                refine keeps_mk ?_
                exact keeps_refl _ _
        · refine keeps_step (keeps_beginTest _) rfl ?_
          refine keeps_ite ?_ ?_
          · refine keeps_ite ?_ ?_
            · refine keeps_step (keeps_raiseCause _ _ _) rfl ?_
              refine keeps_ite ?_ ?_
              · refine keeps_step (keeps_modSwitch _ _ _) rfl ?_
                refine keeps_mk ?_
                exact keeps_refl _ _
              · refine keeps_mk ?_
                refine keeps_step (keeps_modSwitch _ _ _) rfl ?_
                refine keeps_mk ?_
                exact keeps_refl _ _
            · refine keeps_ite ?_ ?_
              · refine keeps_step (keeps_modSwitch _ _ _) rfl ?_
                refine keeps_mk ?_
                exact keeps_refl _ _
              · refine keeps_mk ?_
                refine keeps_step (keeps_modSwitch _ _ _) rfl ?_
                refine keeps_mk ?_
                exact keeps_refl _ _
          · refine keeps_step (keeps_setRetry _ _ _) rfl ?_
            refine keeps_ite ?_ ?_
            · refine keeps_step (keeps_raiseCause _ _ _) rfl ?_
              refine keeps_ite ?_ ?_
              · refine keeps_step (keeps_modSwitch _ _ _) rfl ?_
                refine keeps_mk ?_
                exact keeps_refl _ _
              · refine keeps_mk ?_
                refine keeps_step (keeps_modSwitch _ _ _) rfl ?_
                refine keeps_mk ?_
                exact keeps_refl _ _
            · refine keeps_ite ?_ ?_
              · refine keeps_step (keeps_modSwitch _ _ _) rfl ?_
                refine keeps_mk ?_
                exact keeps_refl _ _
              · refine keeps_mk ?_
                refine keeps_step (keeps_modSwitch _ _ _) rfl ?_
                refine keeps_mk ?_
                exact keeps_refl _ _

theorem keeps_execDisconnectTestRetry : ∀ s, ∃ t, @execDisconnectTestRetry s = .next t ∧ Keeps
    [.hdg] s t := by
  intro s
  unfold execDisconnectTestRetry
  dsimp only
  refine ⟨_, rfl, ?_⟩
  refine keeps_whenS ?_ fun _ => ?_
  · exact keeps_refl _ _
  · refine keeps_step (keeps_startDisc _ _ _ _ _) rfl ?_
    refine keeps_step (keeps_setRetry _ _ _) rfl ?_
    exact keeps_refl _ _

theorem keeps_execPowerupDisconnectTest : ∀ x0 s, ∃ t, @execPowerupDisconnectTest x0 s = .next t ∧
    Keeps [.free, .hif, .hdg, .lpl, .rail, .pwr, .rve, .yok, .eth, .mgt, .tst, .running, .maskQ] s t
    := by
  intro x0 s
  unfold execPowerupDisconnectTest
  dsimp only
  refine ⟨_, rfl, ?_⟩
  refine keeps_whenS ?_ fun _ => ?_
  · exact keeps_refl _ _
  · refine keeps_ite ?_ ?_
    · refine keeps_step (keeps_startDisc _ _ _ _ _) rfl ?_
      refine keeps_step (keeps_idleLine _) rfl ?_
      refine keeps_mk ?_
      exact keeps_refl _ _
    · refine keeps_ite ?_ ?_
      · refine keeps_step (keeps_powerUpDone _ _) rfl ?_
        refine keeps_step (keeps_powerUpDone _ _) rfl ?_
        refine keeps_mk ?_
        refine keeps_step (keeps_idleLine _) rfl ?_
        refine keeps_mk ?_
        exact keeps_refl _ _
      · refine keeps_step (keeps_idleLine _) rfl ?_
        refine keeps_mk ?_
        exact keeps_refl _ _

theorem keeps_execSafeFbUnexpectedOpen : ∀ x0 s, ∃ t, @execSafeFbUnexpectedOpen x0 s = .next t ∧
    Keeps [.out, .hif, .hdg, .lpl, .link, .rail, .rve, .yok, .eth, .mgt, .tst, .running, .maskQ] s t
    := by
  intro x0 s
  unfold execSafeFbUnexpectedOpen
  dsimp only
  refine ⟨_, rfl, ?_⟩
  refine keeps_whenS ?_ fun _ => ?_
  · exact keeps_refl _ _
  · refine keeps_step (keeps_raiseCause _ _ _) rfl ?_
    refine keeps_step (keeps_modSwitch _ _ _) rfl ?_
    exact keeps_refl _ _

end Sys2Proof.Laws
end

