-- ==== Sys2Proof/Laws/KeepHealthOps.lean ====
section
/-!
SUPPORT. Which parts of the state the operations of HealthOps.lean leave alone.
-/

namespace Sys2Proof.Laws

-- Each proof is checked before the next begins: hundreds at once would ask for a thread each.
set_option Elab.async false
set_option linter.all false

open Sys2Proof Sys2Proof.Machine Sys2Proof.Safety

theorem keeps_healthEvent : ∀ x0 x1 x2 s, Keeps [.rve] s (@healthEvent x0 x1 x2 s) := by
  intro x0 x1 x2 s
  unfold healthEvent
  refine keeps_step (keeps_raise _ _ _ _) rfl ?_
  exact keeps_refl _ _

theorem keeps_modEntry : ∀ x0 x1 s, Keeps [.pxh] s (@modEntry x0 x1 s) := by
  intro x0 x1 s
  unfold modEntry
  refine keeps_mk ?_
  exact keeps_refl _ _

theorem keeps_storeParity : ∀ x0 s, Keeps [.pxh, .rve] s (@storeParity x0 s) := by
  intro x0 s
  unfold storeParity
  refine keeps_step (keeps_healthEvent _ _ _ _) rfl ?_
  refine keeps_step (keeps_modEntry _ _ _) rfl ?_
  refine keeps_mk ?_
  exact keeps_refl _ _

theorem keeps_checkDead : ∀ x0 s, Keeps [.pxh, .rve] s (@checkDead x0 s) := by
  intro x0 s
  unfold checkDead
  refine keeps_ite ?_ ?_
  · exact keeps_refl _ _
  · dsimp only
    refine keeps_ite ?_ ?_
    · refine keeps_step (keeps_healthEvent _ _ _ _) rfl ?_
      refine keeps_mk ?_
      exact keeps_refl _ _
    · refine keeps_mk ?_
      exact keeps_refl _ _

theorem keeps_checkDeadAll : ∀ s, Keeps [.pxh, .rve] s (@checkDeadAll s) := by
  intro s
  unfold checkDeadAll
  refine keeps_foldl ?_ fun _ _ _ => ?_
  · exact keeps_refl _ _
  · refine keeps_step (keeps_checkDead _ _) rfl ?_
    assumption

theorem keeps_pushOverride : ∀ x0 x1 s, Keeps [.pho, .pxh, .rve] s (@pushOverride x0 x1 s) := by
  intro x0 x1 s
  unfold pushOverride
  dsimp only
  refine keeps_ite ?_ ?_
  · refine keeps_step (keeps_raise _ _ _ _) rfl ?_
    refine keeps_mk ?_
    exact keeps_refl _ _
  · refine keeps_mk ?_
    exact keeps_refl _ _

theorem keeps_feedHeld : ∀ x0 s, Keeps [.pho, .pxh, .rve] s (@feedHeld x0 s) := by
  intro x0 s
  induction x0 generalizing s with
  | zero =>
    exact keeps_refl _ _
  | succ _ ih =>
    rw [feedHeld]
    split
    · exact keeps_refl _ _
    · refine keeps_ite ?_ ?_
      · exact keeps_refl _ _
      · refine keeps_step (ih _) rfl ?_
        refine keeps_step (keeps_pushOverride _ _ _) rfl ?_
        refine keeps_mk ?_
        exact keeps_refl _ _

theorem keeps_enterChange : ∀ x0 x1 s, Keeps [.pho, .pxh, .rve] s (@enterChange x0 x1 s) := by
  intro x0 x1 s
  unfold enterChange
  refine keeps_ite ?_ ?_
  · refine keeps_mk ?_
    exact keeps_refl _ _
  · refine keeps_step (keeps_pushOverride _ _ _) rfl ?_
    exact keeps_refl _ _

theorem keeps_noteDead : ∀ x0 x1 x2 s, Keeps [.rve] s (@noteDead x0 x1 x2 s) := by
  intro x0 x1 x2 s
  unfold noteDead
  refine keeps_ite ?_ ?_
  · exact keeps_refl _ _
  · refine keeps_ite ?_ ?_
    · refine keeps_step (keeps_healthEvent _ _ _ _) rfl ?_
      exact keeps_refl _ _
    · refine keeps_ite ?_ ?_
      · refine keeps_step (keeps_healthEvent _ _ _ _) rfl ?_
        exact keeps_refl _ _
      · exact keeps_refl _ _

theorem keeps_changeHealth : ∀ x0 x1 s, Keeps [.pho, .pxh, .rve] s (@changeHealth x0 x1 s) := by
  intro x0 x1 s
  unfold changeHealth
  refine keeps_ite ?_ ?_
  · exact keeps_refl _ _
  · refine keeps_step (keeps_enterChange _ _ _) rfl ?_
    refine keeps_step (keeps_noteDead _ _ _ _) rfl ?_
    exact keeps_refl _ _

theorem keeps_pixelSample : ∀ x0 x1 s, Keeps [.pho, .pxh, .rve] s (@pixelSample x0 x1 s) := by
  intro x0 x1 s
  unfold pixelSample
  dsimp only
  split
  · refine keeps_step (keeps_modEntry _ _ _) rfl ?_
    exact keeps_refl _ _
  · refine keeps_ite ?_ ?_
    · split
      · refine keeps_step (keeps_changeHealth _ _ _) rfl ?_
        refine keeps_step (keeps_modEntry _ _ _) rfl ?_
        exact keeps_refl _ _
      · refine keeps_step (keeps_modEntry _ _ _) rfl ?_
        exact keeps_refl _ _
    · split
      · refine keeps_ite ?_ ?_
        · refine keeps_ite ?_ ?_
          · split
            · refine keeps_step (keeps_changeHealth _ _ _) rfl ?_
              refine keeps_step (keeps_modEntry _ _ _) rfl ?_
              exact keeps_refl _ _
            · refine keeps_step (keeps_modEntry _ _ _) rfl ?_
              exact keeps_refl _ _
          · refine keeps_step (keeps_modEntry _ _ _) rfl ?_
            split
            · refine keeps_step (keeps_changeHealth _ _ _) rfl ?_
              refine keeps_step (keeps_modEntry _ _ _) rfl ?_
              exact keeps_refl _ _
            · refine keeps_step (keeps_modEntry _ _ _) rfl ?_
              exact keeps_refl _ _
        · refine keeps_mk ?_
          refine keeps_ite ?_ ?_
          · split
            · refine keeps_step (keeps_changeHealth _ _ _) rfl ?_
              refine keeps_step (keeps_modEntry _ _ _) rfl ?_
              exact keeps_refl _ _
            · refine keeps_step (keeps_modEntry _ _ _) rfl ?_
              exact keeps_refl _ _
          · refine keeps_step (keeps_modEntry _ _ _) rfl ?_
            split
            · refine keeps_step (keeps_changeHealth _ _ _) rfl ?_
              refine keeps_step (keeps_modEntry _ _ _) rfl ?_
              exact keeps_refl _ _
            · refine keeps_step (keeps_modEntry _ _ _) rfl ?_
              exact keeps_refl _ _
      · refine keeps_ite ?_ ?_
        · split
          · refine keeps_step (keeps_changeHealth _ _ _) rfl ?_
            refine keeps_step (keeps_modEntry _ _ _) rfl ?_
            exact keeps_refl _ _
          · refine keeps_step (keeps_modEntry _ _ _) rfl ?_
            exact keeps_refl _ _
        · refine keeps_step (keeps_modEntry _ _ _) rfl ?_
          split
          · refine keeps_step (keeps_changeHealth _ _ _) rfl ?_
            refine keeps_step (keeps_modEntry _ _ _) rfl ?_
            exact keeps_refl _ _
          · refine keeps_step (keeps_modEntry _ _ _) rfl ?_
            exact keeps_refl _ _

theorem keeps_laneDark : ∀ x0 s, Keeps [.pxh] s (@laneDark x0 s) := by
  intro x0 s
  unfold laneDark
  dsimp only
  refine keeps_mk ?_
  exact keeps_refl _ _

theorem keeps_takeDark : ∀ s, Keeps [.pxh] s (@takeDark s) := by
  intro s
  unfold takeDark
  refine keeps_mk ?_
  exact keeps_refl _ _

theorem keeps_requeue : ∀ x0 s, Keeps [.pxh] s (@requeue x0 s) := by
  intro x0 s
  unfold requeue
  dsimp only
  refine keeps_mk ?_
  exact keeps_refl _ _

theorem keeps_writeField : ∀ x0 x1 s, Keeps [.free, .grn, .mem, .rve, .yok] s (@writeField x0 x1
    s).2 := by
  intro x0 x1 s
  unfold writeField
  dsimp only
  split
  · dsimp only
    refine keeps_step (keeps_readWord _ _ _ _) rfl ?_
    exact keeps_refl _ _
  · dsimp only
    refine keeps_step (keeps_storeBytes _ _ _) rfl ?_
    refine keeps_step (keeps_readWord _ _ _ _) rfl ?_
    exact keeps_refl _ _

theorem keeps_writeField_some : ∀ x0 x1 s, OKeeps [.free, .grn, .mem, .rve, .yok] s (@writeField x0
    x1 s).1 := by
  intro x0 x1 s
  unfold writeField
  dsimp only
  split
  · dsimp only
    exact okeeps_none
  · dsimp only
    refine okeeps_some ?_
    refine keeps_step (keeps_storeBytes _ _ _) rfl ?_
    refine keeps_step (keeps_readWord _ _ _ _) rfl ?_
    exact keeps_refl _ _

theorem keeps_checkSerial : ∀ x0 s, Keeps [.pxh] s (@checkSerial x0 s) := by
  intro x0 s
  unfold checkSerial
  dsimp only
  refine keeps_ite ?_ ?_
  · exact keeps_refl _ _
  · refine keeps_ite ?_ ?_
    · refine keeps_mk ?_
      exact keeps_refl _ _
    · refine keeps_mk ?_
      exact keeps_refl _ _

theorem keeps_tileCounts : ∀ x0 x1 s, Keeps [.pxh, .rve] s (@tileCounts x0 x1 s) := by
  intro x0 x1 s
  unfold tileCounts
  dsimp only
  refine keeps_ite ?_ ?_
  · refine keeps_step (keeps_healthEvent _ _ _ _) rfl ?_
    refine keeps_mk ?_
    exact keeps_refl _ _
  · refine keeps_mk ?_
    exact keeps_refl _ _

end Sys2Proof.Laws
end

