-- ==== Sys2Proof/Laws/KeepRail.lean ====
section
/-!
SUPPORT. Which parts of the state the operations of Rail.lean leave alone.
-/

namespace Sys2Proof.Laws

-- Each proof is checked before the next begins: hundreds at once would ask for a thread each.
set_option Elab.async false
set_option linter.all false

open Sys2Proof Sys2Proof.Machine Sys2Proof.Safety

theorem keeps_railTestCycle : ∀ x0 s, Keeps [.free, .hif, .rve, .eth, .mgt, .tst, .running, .maskQ]
    s (@railTestCycle x0 s) := by
  intro x0 s
  unfold railTestCycle
  split
  · exact keeps_refl _ _
  · refine keeps_ite ?_ ?_
    · exact keeps_refl _ _
    · split
      · dsimp only
        refine keeps_mk ?_
        refine keeps_step (keeps_freshBool _) rfl ?_
        exact keeps_refl _ _
      · refine keeps_ite ?_ ?_
        · refine keeps_mk ?_
          exact keeps_refl _ _
        · dsimp only
          refine keeps_step (keeps_endRun _ _ _ _) rfl ?_
          refine keeps_step (keeps_freshBool _) rfl ?_
          exact keeps_refl _ _
      · exact keeps_refl _ _

theorem keeps_execRailSwitchingCycle : ∀ x0 x1 x2 s, ∃ t, @execRailSwitchingCycle x0 x1 x2 s = .next
    t ∧ Keeps [.free, .hif, .lpl, .rail, .rve, .yok, .eth, .mgt, .tst, .running, .maskQ] s t := by
  intro x0 x1 x2 s
  unfold execRailSwitchingCycle
  refine ⟨_, rfl, ?_⟩
  refine keeps_whenS ?_ fun _ => ?_
  · exact keeps_refl _ _
  · refine keeps_step (keeps_railTestCycle _ _) rfl ?_
    refine keeps_step (keeps_checkRailJobs _) rfl ?_
    refine keeps_step (keeps_modRail _ _ _) rfl ?_
    exact keeps_refl _ _

theorem keeps_execRailComparatorTrip : ∀ x0 s, ∃ t, @execRailComparatorTrip x0 s = .next t ∧ Keeps
    [.rail] s t := by
  intro x0 s
  unfold execRailComparatorTrip
  refine ⟨_, rfl, ?_⟩
  refine keeps_whenS ?_ fun _ => ?_
  · exact keeps_refl _ _
  · refine keeps_step (keeps_modRail _ _ _) rfl ?_
    exact keeps_refl _ _

theorem keeps_execRailShortFault : ∀ x0 s, ∃ t, @execRailShortFault x0 s = .next t ∧ Keeps [.hif,
    .lpl, .rail, .rve, .yok, .eth, .mgt, .tst, .running, .maskQ] s t := by
  intro x0 s
  unfold execRailShortFault
  refine ⟨_, rfl, ?_⟩
  refine keeps_whenS ?_ fun _ => ?_
  · exact keeps_refl _ _
  · refine keeps_step (keeps_railFault _ _ _) rfl ?_
    exact keeps_refl _ _

theorem keeps_execRailOvervoltageFault : ∀ x0 s, ∃ t, @execRailOvervoltageFault x0 s = .next t ∧
    Keeps [.hif, .lpl, .rail, .rve, .yok, .eth, .mgt, .tst, .running, .maskQ] s t := by
  intro x0 s
  unfold execRailOvervoltageFault
  refine ⟨_, rfl, ?_⟩
  refine keeps_whenS ?_ fun _ => ?_
  · exact keeps_refl _ _
  · refine keeps_step (keeps_railFault _ _ _) rfl ?_
    exact keeps_refl _ _

theorem keeps_execRailSenseFault : ∀ x0 s, ∃ t, @execRailSenseFault x0 s = .next t ∧ Keeps [.hif,
    .lpl, .rail, .rve, .yok, .eth, .mgt, .tst, .running, .maskQ] s t := by
  intro x0 s
  unfold execRailSenseFault
  refine ⟨_, rfl, ?_⟩
  refine keeps_whenS ?_ fun _ => ?_
  · exact keeps_refl _ _
  · refine keeps_step (keeps_railFault _ _ _) rfl ?_
    exact keeps_refl _ _

theorem keeps_execRailOvercurrentTimeout : ∀ x0 s, ∃ t, @execRailOvercurrentTimeout x0 s = .next t ∧
    Keeps [.hif, .lpl, .rail, .rve, .yok, .eth, .mgt, .tst, .running, .maskQ] s t := by
  intro x0 s
  unfold execRailOvercurrentTimeout
  refine ⟨_, rfl, ?_⟩
  refine keeps_whenS ?_ fun _ => ?_
  · exact keeps_refl _ _
  · refine keeps_step (keeps_railFault _ _ _) rfl ?_
    exact keeps_refl _ _

theorem keeps_execRailUndervoltageTimeout : ∀ x0 s, ∃ t, @execRailUndervoltageTimeout x0 s = .next t
    ∧ Keeps [.hif, .lpl, .rail, .rve, .yok, .eth, .mgt, .tst, .running, .maskQ] s t := by
  intro x0 s
  unfold execRailUndervoltageTimeout
  refine ⟨_, rfl, ?_⟩
  refine keeps_whenS ?_ fun _ => ?_
  · exact keeps_refl _ _
  · refine keeps_step (keeps_railFault _ _ _) rfl ?_
    exact keeps_refl _ _

theorem keeps_execRailSoftStartTimeout : ∀ x0 s, ∃ t, @execRailSoftStartTimeout x0 s = .next t ∧
    Keeps [.hif, .lpl, .rail, .rve, .yok, .eth, .mgt, .tst, .running, .maskQ] s t := by
  intro x0 s
  unfold execRailSoftStartTimeout
  refine ⟨_, rfl, ?_⟩
  refine keeps_whenS ?_ fun _ => ?_
  · exact keeps_refl _ _
  · refine keeps_step (keeps_railFault _ _ _) rfl ?_
    exact keeps_refl _ _

theorem keeps_execRailPgood : ∀ x0 s, ∃ t, @execRailPgood x0 s = .next t ∧ Keeps [.hif, .lpl, .rail,
    .rve, .yok, .eth, .mgt, .tst, .running, .maskQ] s t := by
  intro x0 s
  unfold execRailPgood
  refine ⟨_, rfl, ?_⟩
  refine keeps_whenS ?_ fun _ => ?_
  · exact keeps_refl _ _
  · refine keeps_step (keeps_settleRails _) rfl ?_
    refine keeps_step (keeps_modRail _ _ _) rfl ?_
    exact keeps_refl _ _

theorem keeps_execRailSoftStopEnd : ∀ x0 s, ∃ t, @execRailSoftStopEnd x0 s = .next t ∧ Keeps [.hif,
    .lpl, .rail, .rve, .yok, .eth, .mgt, .tst, .running, .maskQ] s t := by
  intro x0 s
  unfold execRailSoftStopEnd
  refine ⟨_, rfl, ?_⟩
  refine keeps_whenS ?_ fun _ => ?_
  · exact keeps_refl _ _
  · refine keeps_step (keeps_settleRails _) rfl ?_
    refine keeps_step (keeps_modRail _ _ _) rfl ?_
    exact keeps_refl _ _

theorem keeps_execRailSeqDelayExpiry : ∀ x0 s, ∃ t, @execRailSeqDelayExpiry x0 s = .next t ∧ Keeps
    [.hif, .lpl, .rail, .rve, .yok, .eth, .mgt, .tst, .running, .maskQ] s t := by
  intro x0 s
  unfold execRailSeqDelayExpiry
  refine ⟨_, rfl, ?_⟩
  split
  · exact keeps_refl _ _
  · refine keeps_step (keeps_settleRails _) rfl ?_
    refine keeps_ite ?_ ?_
    · refine keeps_step (keeps_startRail _ _) rfl ?_
      exact keeps_refl _ _
    · refine keeps_step (keeps_stopRail _ _) rfl ?_
      exact keeps_refl _ _

theorem keeps_execRailRestartTimeout : ∀ x0 s, ∃ t, @execRailRestartTimeout x0 s = .next t ∧ Keeps
    [.hif, .lpl, .rail, .rve, .yok, .eth, .mgt, .tst, .running, .maskQ] s t := by
  intro x0 s
  unfold execRailRestartTimeout
  refine ⟨_, rfl, ?_⟩
  refine keeps_whenS ?_ fun _ => ?_
  · exact keeps_refl _ _
  · refine keeps_step (keeps_settleRails _) rfl ?_
    refine keeps_step (keeps_startRail _ _) rfl ?_
    refine keeps_step (keeps_modRail _ _ _) rfl ?_
    exact keeps_refl _ _

theorem keeps_execRailRestartCountClear : ∀ x0 s, ∃ t, @execRailRestartCountClear x0 s = .next t ∧
    Keeps [.rail] s t := by
  intro x0 s
  unfold execRailRestartCountClear
  refine ⟨_, rfl, ?_⟩
  refine keeps_whenS ?_ fun _ => ?_
  · exact keeps_refl _ _
  · refine keeps_step (keeps_modRail _ _ _) rfl ?_
    exact keeps_refl _ _

theorem keeps_execRailCntClearFaults : ∀ s, ∃ t, @execRailCntClearFaults s = .next t ∧ Keeps [.rail]
    s t := by
  intro s
  unfold execRailCntClearFaults
  refine ⟨_, rfl, ?_⟩
  refine keeps_whenS ?_ fun _ => ?_
  · exact keeps_refl _ _
  · refine keeps_mk ?_
    exact keeps_refl _ _

theorem keeps_enableRail : ∀ x0 s, Keeps [.rail] s (@enableRail x0 s) := by
  intro x0 s
  unfold enableRail
  refine keeps_step (keeps_modRail _ _ _) rfl ?_
  exact keeps_refl _ _

theorem keeps_railBody : BodyKeeps [.hif, .lpl, .rail, .rve, .yok, .eth, .mgt, .tst, .running,
    .maskQ] railBody := by
  refine ⟨fun c s => ?_, fun c st s => ?_⟩
  · unfold railBody
    dsimp only
    split
    · refine keeps_step (keeps_checkRailJobs _) rfl ?_
      refine keeps_mk ?_
      refine keeps_foldl ?_ fun _ _ _ => ?_
      · refine keeps_foldl ?_ fun _ _ _ => ?_
        · refine keeps_mk ?_
          exact keeps_refl _ _
        · refine keeps_step (keeps_complete _ _ _ _ _) rfl ?_
          assumption
      · refine keeps_step (keeps_modRail _ _ _) rfl ?_
        assumption
    · refine keeps_ite ?_ ?_
      · refine keeps_step (keeps_complete _ _ _ _ _) rfl ?_
        refine keeps_step (keeps_settleRails _) rfl ?_
        refine keeps_ite ?_ ?_
        · refine keeps_step (keeps_seqStart _ _ _) rfl ?_
          refine keeps_foldl ?_ fun _ _ _ => ?_
          · refine keeps_foldl ?_ fun _ _ _ => ?_
            · refine keeps_mk ?_
              exact keeps_refl _ _
            · refine keeps_step (keeps_complete _ _ _ _ _) rfl ?_
              assumption
          · refine keeps_step (keeps_enableRail _ _) rfl ?_
            refine keeps_step (keeps_dropSeq _ _) rfl ?_
            assumption
        · refine keeps_foldl ?_ fun _ _ _ => ?_
          · refine keeps_foldl ?_ fun _ _ _ => ?_
            · refine keeps_foldl ?_ fun _ _ _ => ?_
              · refine keeps_mk ?_
                exact keeps_refl _ _
              · refine keeps_step (keeps_complete _ _ _ _ _) rfl ?_
                assumption
            · refine keeps_step (keeps_enableRail _ _) rfl ?_
              refine keeps_step (keeps_dropSeq _ _) rfl ?_
              assumption
          · refine keeps_step (keeps_startRail _ _) rfl ?_
            assumption
      · refine keeps_step (keeps_checkRailJobs _) rfl ?_
        refine keeps_mk ?_
        refine keeps_step (keeps_settleRails _) rfl ?_
        refine keeps_ite ?_ ?_
        · refine keeps_step (keeps_seqStart _ _ _) rfl ?_
          refine keeps_foldl ?_ fun _ _ _ => ?_
          · refine keeps_foldl ?_ fun _ _ _ => ?_
            · refine keeps_mk ?_
              exact keeps_refl _ _
            · refine keeps_step (keeps_complete _ _ _ _ _) rfl ?_
              assumption
          · refine keeps_step (keeps_enableRail _ _) rfl ?_
            refine keeps_step (keeps_dropSeq _ _) rfl ?_
            assumption
        · refine keeps_foldl ?_ fun _ _ _ => ?_
          · refine keeps_foldl ?_ fun _ _ _ => ?_
            · refine keeps_foldl ?_ fun _ _ _ => ?_
              · refine keeps_mk ?_
                exact keeps_refl _ _
              · refine keeps_step (keeps_complete _ _ _ _ _) rfl ?_
                assumption
            · refine keeps_step (keeps_enableRail _ _) rfl ?_
              refine keeps_step (keeps_dropSeq _ _) rfl ?_
              assumption
          · refine keeps_step (keeps_startRail _ _) rfl ?_
            assumption
    · refine keeps_step (keeps_settleRails _) rfl ?_
      refine keeps_mk ?_
      refine keeps_ite ?_ ?_
      · refine keeps_step (keeps_seqStop _ _) rfl ?_
        refine keeps_foldl ?_ fun _ _ _ => ?_
        · refine keeps_foldl ?_ fun _ _ _ => ?_
          · refine keeps_mk ?_
            exact keeps_refl _ _
          · refine keeps_step (keeps_complete _ _ _ _ _) rfl ?_
            assumption
        · refine keeps_step (keeps_modRail _ _ _) rfl ?_
          assumption
      · refine keeps_foldl ?_ fun _ _ _ => ?_
        · refine keeps_foldl ?_ fun _ _ _ => ?_
          · refine keeps_foldl ?_ fun _ _ _ => ?_
            · refine keeps_mk ?_
              exact keeps_refl _ _
            · refine keeps_step (keeps_complete _ _ _ _ _) rfl ?_
              assumption
          · refine keeps_step (keeps_modRail _ _ _) rfl ?_
            assumption
        · refine keeps_step (keeps_stopRail _ _) rfl ?_
          refine keeps_step (keeps_dropSeq _ _) rfl ?_
          assumption
  · unfold railBody
    dsimp only
    exact keeps_refl _ _

theorem keeps_execRailSet : ∀ x0 x1 s, ∃ t, @execRailSet x0 x1 s = .next t ∧ Keeps [.hif, .lpl,
    .rail, .rve, .yok, .eth, .mgt, .tst, .running, .nextSer, .maskQ] s t := by
  intro x0 x1 s
  unfold execRailSet
  refine ⟨_, rfl, ?_⟩
  refine keeps_runRow rfl rfl keeps_railBody ?_
  exact keeps_refl _ _

theorem keeps_execDieBridgeTransferFail : ∀ x0 s, ∃ t, @execDieBridgeTransferFail x0 s = .next t ∧
    Keeps [.rve] s t := by
  intro x0 s
  unfold execDieBridgeTransferFail
  refine ⟨_, rfl, ?_⟩
  refine keeps_step (keeps_raise _ _ _ _) rfl ?_
  exact keeps_refl _ _

end Sys2Proof.Laws
end

