-- ==== Sys2Proof/Laws/KeepLaneOps.lean ====
section
/-!
SUPPORT. Which parts of the state the operations of LaneOps.lean leave alone.
-/

namespace Sys2Proof.Laws

-- Each proof is checked before the next begins: hundreds at once would ask for a thread each.
set_option Elab.async false
set_option linter.all false

open Sys2Proof Sys2Proof.Machine Sys2Proof.Safety

theorem keeps_laneEvent : ∀ x0 x1 x2 x3 s, Keeps [.rve] s (@laneEvent x0 x1 x2 x3 s) := by
  intro x0 x1 x2 x3 s
  unfold laneEvent
  refine keeps_ite ?_ ?_
  · refine keeps_step (keeps_raise _ _ _ _) rfl ?_
    exact keeps_refl _ _
  · refine keeps_step (keeps_raise _ _ _ _) rfl ?_
    exact keeps_refl _ _

theorem keeps_linkEvent : ∀ x0 x1 x2 x3 s, Keeps [.rve] s (@linkEvent x0 x1 x2 x3 s) := by
  intro x0 x1 x2 x3 s
  unfold linkEvent
  refine keeps_step (keeps_raise _ _ _ _) rfl ?_
  exact keeps_refl _ _

theorem keeps_loopLaneBack : ∀ x0 s, Keeps [.hif, .rve, .eth, .mgt, .tst, .running, .maskQ] s
    (@loopLaneBack x0 s) := by
  intro x0 s
  unfold loopLaneBack
  split
  · split
    · refine keeps_ite ?_ ?_
      · refine keeps_step (keeps_endRun _ _ _ _) rfl ?_
        exact keeps_refl _ _
      · exact keeps_refl _ _
    · exact keeps_refl _ _
  · exact keeps_refl _ _

theorem keeps_enterDown : ∀ x0 x1 s, Keeps [.out, .hif, .link, .rve, .yok, .eth, .mgt, .tst,
    .running, .maskQ] s (@enterDown x0 x1 s) := by
  intro x0 x1 s
  unfold enterDown
  dsimp only
  refine keeps_step (keeps_loopLaneBack _ _) rfl ?_
  refine keeps_ite ?_ ?_
  · refine keeps_step (keeps_partnerLost _) rfl ?_
    refine keeps_step (keeps_laneEvent _ _ _ _ _) rfl ?_
    refine keeps_step (keeps_laneSends _ _) rfl ?_
    refine keeps_step (keeps_modLane _ _ _) rfl ?_
    exact keeps_refl _ _
  · refine keeps_step (keeps_laneEvent _ _ _ _ _) rfl ?_
    refine keeps_step (keeps_laneSends _ _) rfl ?_
    refine keeps_step (keeps_modLane _ _ _) rfl ?_
    exact keeps_refl _ _

theorem keeps_freshOrientation : ∀ x0 s, Keeps [.link] s (@freshOrientation x0 s) := by
  intro x0 s
  unfold freshOrientation
  refine keeps_ite ?_ ?_
  · exact keeps_refl _ _
  · refine keeps_mk ?_
    exact keeps_refl _ _

theorem keeps_leaveScan : ∀ x0 s, Keeps [.lpl] s (@leaveScan x0 s) := by
  intro x0 s
  unfold leaveScan
  refine keeps_mk ?_
  exact keeps_refl _ _

theorem keeps_coldStart : ∀ x0 s, Keeps [.link, .yok] s (@coldStart x0 s) := by
  intro x0 s
  unfold coldStart
  dsimp only
  refine keeps_step (keeps_modLane _ _ _) rfl ?_
  refine keeps_step (keeps_freshOrientation _ _) rfl ?_
  exact keeps_refl _ _

theorem keeps_enterDetect : ∀ x0 x1 x2 s, Keeps [.out, .lpl, .link, .pxh, .yok] s (@enterDetect x0
    x1 x2 s) := by
  intro x0 x1 x2 s
  unfold enterDetect
  dsimp only
  refine keeps_step (keeps_laneSends _ _) rfl ?_
  refine keeps_step (keeps_modLane _ _ _) rfl ?_
  refine keeps_step (keeps_laneDark _ _) rfl ?_
  refine keeps_step (keeps_leaveScan _ _) rfl ?_
  refine keeps_ite ?_ ?_
  · exact keeps_refl _ _
  · refine keeps_step (keeps_coldStart _ _) rfl ?_
    exact keeps_refl _ _

theorem keeps_attemptFailed : ∀ x0 x1 s, Keeps [.out, .hif, .lpl, .link, .pxh, .rve, .yok, .eth,
    .mgt, .tst, .running, .maskQ] s (@attemptFailed x0 x1 s) := by
  intro x0 x1 s
  unfold attemptFailed
  dsimp only
  refine keeps_ite ?_ ?_
  · refine keeps_step (keeps_enterDown _ _ _) rfl ?_
    refine keeps_step (keeps_modLane _ _ _) rfl ?_
    exact keeps_refl _ _
  · refine keeps_step (keeps_enterDetect _ _ _ _) rfl ?_
    exact keeps_refl _ _

theorem keeps_sendReq : ∀ x0 x1 s, Keeps [.out, .link, .yok] s (@sendReq x0 x1 s) := by
  intro x0 x1 s
  unfold sendReq
  dsimp only
  refine keeps_ite ?_ ?_
  · exact keeps_refl _ _
  · refine keeps_step (keeps_sendLane _ _ _) rfl ?_
    refine keeps_step (keeps_modLane _ _ _) rfl ?_
    exact keeps_refl _ _

theorem keeps_sendCtl : ∀ x0 x1 x2 x3 x4 x5 s, Keeps [.out, .link, .yok] s (@sendCtl x0 x1 x2 x3 x4
    x5 s) := by
  intro x0 x1 x2 x3 x4 x5 s
  unfold sendCtl
  dsimp only
  refine keeps_ite ?_ ?_
  · exact keeps_refl _ _
  · refine keeps_step (keeps_modLane _ _ _) rfl ?_
    refine keeps_ite ?_ ?_
    · refine keeps_step (keeps_sendReq _ _ _) rfl ?_
      exact keeps_refl _ _
    · exact keeps_refl _ _

theorem keeps_flushReq : ∀ x0 s x2, Keeps [.out, .link, .yok] s (@flushReq x0 s x2) := by
  intro x0 s x2
  unfold flushReq
  refine keeps_ite ?_ ?_
  · exact keeps_refl _ _
  · refine keeps_step (keeps_sendReq _ _ _) rfl ?_
    refine keeps_step (keeps_modLane _ _ _) rfl ?_
    exact keeps_refl _ _

theorem keeps_flushCtl : ∀ s x1, Keeps [.out, .link, .yok] s (@flushCtl s x1) := by
  intro s x1
  unfold flushCtl
  refine keeps_foldl ?_ fun _ _ _ => ?_
  · exact keeps_refl _ _
  · refine keeps_step (keeps_flushReq _ _ _) rfl ?_
    assumption

theorem keeps_askSlot : ∀ x0 x1 s, Keeps [.out, .link, .yok] s (@askSlot x0 x1 s) := by
  intro x0 x1 s
  unfold askSlot
  refine keeps_step (keeps_sendCtl _ _ _ _ _ _ _) rfl ?_
  refine keeps_step (keeps_modLane _ _ _) rfl ?_
  exact keeps_refl _ _

theorem keeps_dropAssign : ∀ x0 s, Keeps [.link, .yok] s (@dropAssign x0 s) := by
  intro x0 s
  unfold dropAssign
  refine keeps_step (keeps_modLane _ _ _) rfl ?_
  exact keeps_refl _ _

theorem keeps_enterCheck : ∀ x0 s, Keeps [.out, .link, .yok] s (@enterCheck x0 s) := by
  intro x0 s
  unfold enterCheck
  dsimp only
  refine keeps_step (keeps_sendLane _ _ _) rfl ?_
  refine keeps_ite ?_ ?_
  · refine keeps_step (keeps_modLane _ _ _) rfl ?_
    exact keeps_refl _ _
  · refine keeps_step (keeps_sendCtl _ _ _ _ _ _ _) rfl ?_
    refine keeps_step (keeps_modLane _ _ _) rfl ?_
    exact keeps_refl _ _

theorem keeps_enterEnumerate : ∀ x0 s, Keeps [.out, .link, .yok] s (@enterEnumerate x0 s) := by
  intro x0 s
  unfold enterEnumerate
  refine keeps_ite ?_ ?_
  · refine keeps_step (keeps_enterCheck _ _) rfl ?_
    exact keeps_refl _ _
  · refine keeps_step (keeps_askSlot _ _ _) rfl ?_
    refine keeps_step (keeps_toState _ _ _) rfl ?_
    refine keeps_step (keeps_modLane _ _ _) rfl ?_
    exact keeps_refl _ _

theorem keeps_endEnumerate : ∀ x0 x1 s, Keeps [.out, .hif, .link, .rve, .yok, .eth, .mgt, .tst,
    .running, .maskQ] s (@endEnumerate x0 x1 s) := by
  intro x0 x1 s
  unfold endEnumerate
  dsimp only
  refine keeps_ite ?_ ?_
  · refine keeps_step (keeps_enterDown _ _ _) rfl ?_
    refine keeps_step (keeps_dropAssign _ _) rfl ?_
    refine keeps_step (keeps_modLane _ _ _) rfl ?_
    exact keeps_refl _ _
  · refine keeps_step (keeps_enterCheck _ _) rfl ?_
    refine keeps_step (keeps_dropAssign _ _) rfl ?_
    refine keeps_step (keeps_modLane _ _ _) rfl ?_
    exact keeps_refl _ _

theorem keeps_includeSlot : ∀ x0 x1 s, Keeps [.link, .pxh, .thm, .yok] s (@includeSlot x0 x1 s) :=
    by
  intro x0 x1 s
  unfold includeSlot
  dsimp only
  refine keeps_ite ?_ ?_
  · refine keeps_mk ?_
    refine keeps_dite (fun _ => ?_) fun _ => ?_
    · refine keeps_step (keeps_checkSerial _ _) rfl ?_
      refine keeps_step (keeps_modLane _ _ _) rfl ?_
      exact keeps_refl _ _
    · refine keeps_step (keeps_modLane _ _ _) rfl ?_
      exact keeps_refl _ _
  · refine keeps_dite (fun _ => ?_) fun _ => ?_
    · refine keeps_step (keeps_checkSerial _ _) rfl ?_
      refine keeps_step (keeps_modLane _ _ _) rfl ?_
      exact keeps_refl _ _
    · refine keeps_step (keeps_modLane _ _ _) rfl ?_
      exact keeps_refl _ _

theorem keeps_yokeReady : ∀ s, Keeps [.free, .out, .rve, .yok] s (@yokeReady s) := by
  intro s
  unfold yokeReady
  dsimp only
  refine keeps_step (keeps_sendHello _) rfl ?_
  refine keeps_step (keeps_raise _ _ _ _) rfl ?_
  refine keeps_mk ?_
  refine keeps_step (keeps_freshBits _ _) rfl ?_
  exact keeps_refl _ _

theorem keeps_enterReady : ∀ x0 s, Keeps [.free, .out, .hif, .link, .pxh, .thm, .rve, .yok, .eth,
    .mgt, .tst, .running, .maskQ] s (@enterReady x0 s) := by
  intro x0 s
  unfold enterReady
  dsimp only
  refine keeps_step (keeps_loopLaneBack _ _) rfl ?_
  refine keeps_dite (fun _ => ?_) fun _ => ?_
  · refine keeps_foldl ?_ fun _ _ _ => ?_
    · refine keeps_step (keeps_toState _ _ _) rfl ?_
      refine keeps_step (keeps_modLane _ _ _) rfl ?_
      exact keeps_refl _ _
    · refine keeps_step (keeps_includeSlot _ _ _) rfl ?_
      assumption
  · refine keeps_step (keeps_yokeReady _) rfl ?_
    refine keeps_step (keeps_toState _ _ _) rfl ?_
    refine keeps_step (keeps_modLane _ _ _) rfl ?_
    exact keeps_refl _ _

theorem keeps_judgeCheck : ∀ x0 s, Keeps [.free, .out, .hif, .link, .pxh, .thm, .rve, .yok, .eth,
    .mgt, .tst, .running, .maskQ] s (@judgeCheck x0 s) := by
  intro x0 s
  unfold judgeCheck
  dsimp only
  refine keeps_ite ?_ ?_
  · refine keeps_step (keeps_enterReady _ _) rfl ?_
    exact keeps_refl _ _
  · refine keeps_ite ?_ ?_
    · refine keeps_step (keeps_enterCheck _ _) rfl ?_
      refine keeps_step (keeps_modLane _ _ _) rfl ?_
      exact keeps_refl _ _
    · refine keeps_ite ?_ ?_
      · refine keeps_step (keeps_laneEvent _ _ _ _ _) rfl ?_
        refine keeps_step (keeps_toState _ _ _) rfl ?_
        refine keeps_step (keeps_modLane _ _ _) rfl ?_
        exact keeps_refl _ _
      · refine keeps_step (keeps_enterDown _ _ _) rfl ?_
        exact keeps_refl _ _

theorem keeps_retrain : ∀ x0 x1 s, Keeps [.out, .lpl, .link, .pxh, .rve, .yok] s (@retrain x0 x1 s)
    := by
  intro x0 x1 s
  unfold retrain
  dsimp only
  refine keeps_step (keeps_enterDetect _ _ _ _) rfl ?_
  refine keeps_step (keeps_laneEvent _ _ _ _ _) rfl ?_
  refine keeps_step (keeps_modLane _ _ _) rfl ?_
  exact keeps_refl _ _

theorem keeps_startLane : ∀ x0 x1 s, Keeps [.out, .lpl, .link, .pxh, .yok] s (@startLane x0 x1 s) :=
    by
  intro x0 x1 s
  unfold startLane
  dsimp only
  refine keeps_ite ?_ ?_
  · exact keeps_refl _ _
  · refine keeps_ite ?_ ?_
    · refine keeps_step (keeps_modLane _ _ _) rfl ?_
      exact keeps_refl _ _
    · refine keeps_ite ?_ ?_
      · refine keeps_step (keeps_enterDetect _ _ _ _) rfl ?_
        exact keeps_refl _ _
      · exact keeps_refl _ _

theorem keeps_startLanes : ∀ x0 s, Keeps [.out, .lpl, .link, .pxh, .yok] s (@startLanes x0 s) := by
  intro x0 s
  unfold startLanes
  refine keeps_foldl ?_ fun _ _ _ => ?_
  · exact keeps_refl _ _
  · refine keeps_step (keeps_startLane _ _ _) rfl ?_
    assumption

theorem keeps_lanesOff : ∀ s, Keeps [.link, .yok] s (@lanesOff s) := by
  intro s
  unfold lanesOff
  refine keeps_foldl ?_ fun _ _ _ => ?_
  · exact keeps_refl _ _
  · refine keeps_ite ?_ ?_
    · assumption
    · refine keeps_step (keeps_modLane _ _ _) rfl ?_
      assumption

theorem keeps_modSlot : ∀ x0 x1 s, Keeps [.link] s (@modSlot x0 x1 s) := by
  intro x0 x1 s
  unfold modSlot
  refine keeps_mk ?_
  exact keeps_refl _ _

end Sys2Proof.Laws
end

