-- ==== Sys2Proof/Laws/KeepLanes.lean ====
section
/-!
SUPPORT. Which parts of the state the operations of Lanes.lean leave alone.
-/

namespace Sys2Proof.Laws

-- Each proof is checked before the next begins: hundreds at once would ask for a thread each.
set_option Elab.async false
set_option linter.all false

open Sys2Proof Sys2Proof.Machine Sys2Proof.Safety

theorem keeps_execLaneSignalDetect : ∀ x0 s, ∃ t, @execLaneSignalDetect x0 s = .next t ∧ Keeps
    [.out, .lpl, .link, .pxh, .yok] s t := by
  intro x0 s
  unfold execLaneSignalDetect
  dsimp only
  refine ⟨_, rfl, ?_⟩
  refine keeps_ite ?_ ?_
  · refine keeps_step (keeps_toState _ _ _) rfl ?_
    exact keeps_refl _ _
  · refine keeps_ite ?_ ?_
    · refine keeps_step (keeps_enterDetect _ _ _ _) rfl ?_
      exact keeps_refl _ _
    · exact keeps_refl _ _

theorem keeps_execLaneCommaLock : ∀ x0 s, ∃ t, @execLaneCommaLock x0 s = .next t ∧ Keeps [.out,
    .link, .yok] s t := by
  intro x0 s
  unfold execLaneCommaLock
  refine ⟨_, rfl, ?_⟩
  refine keeps_whenS ?_ fun _ => ?_
  · exact keeps_refl _ _
  · refine keeps_step (keeps_toState _ _ _) rfl ?_
    exact keeps_refl _ _

theorem keeps_flipPort : ∀ x0 s, Keeps [.out, .lpl, .link, .pxh, .rve, .yok] s (@flipPort x0 s) :=
    by
  intro x0 s
  unfold flipPort
  dsimp only
  refine keeps_foldl ?_ fun _ _ _ => ?_
  · refine keeps_step (keeps_laneEvent _ _ _ _ _) rfl ?_
    refine keeps_mk ?_
    exact keeps_refl _ _
  · refine keeps_ite ?_ ?_
    · refine keeps_step (keeps_toState _ _ _) rfl ?_
      refine keeps_step (keeps_modLane _ _ _) rfl ?_
      refine keeps_ite ?_ ?_
      · refine keeps_step (keeps_laneDark _ _) rfl ?_
        refine keeps_step (keeps_leaveScan _ _) rfl ?_
        assumption
      · assumption
    · assumption

theorem keeps_inPolarity : ∀ x0 x1 s, Keeps [.out, .hif, .lpl, .link, .pxh, .rve, .yok, .eth, .mgt,
    .tst, .running, .maskQ] s (@inPolarity x0 x1 s) := by
  intro x0 x1 s
  unfold inPolarity
  dsimp only
  refine keeps_ite ?_ ?_
  · refine keeps_ite ?_ ?_
    · refine keeps_step (keeps_attemptFailed _ _ _) rfl ?_
      exact keeps_refl _ _
    · refine keeps_step (keeps_modLane _ _ _) rfl ?_
      exact keeps_refl _ _
  · refine keeps_ite ?_ ?_
    · refine keeps_step (keeps_modLane _ _ _) rfl ?_
      exact keeps_refl _ _
    · refine keeps_ite ?_ ?_
      · refine keeps_step (keeps_modLane _ _ _) rfl ?_
        exact keeps_refl _ _
      · refine keeps_ite ?_ ?_
        · refine keeps_step (keeps_enterEnumerate _ _) rfl ?_
          exact keeps_refl _ _
        · refine keeps_step (keeps_toState _ _ _) rfl ?_
          exact keeps_refl _ _

theorem keeps_inReversal : ∀ x0 x1 x2 s, Keeps [.out, .hif, .lpl, .link, .pxh, .rve, .yok, .eth,
    .mgt, .tst, .running, .maskQ] s (@inReversal x0 x1 x2 s) := by
  intro x0 x1 x2 s
  unfold inReversal
  dsimp only
  refine keeps_ite ?_ ?_
  · refine keeps_step (keeps_modLane _ _ _) rfl ?_
    exact keeps_refl _ _
  · refine keeps_ite ?_ ?_
    · exact keeps_refl _ _
    · refine keeps_ite ?_ ?_
      · refine keeps_ite ?_ ?_
        · refine keeps_step (keeps_modLane _ _ _) rfl ?_
          exact keeps_refl _ _
        · refine keeps_step (keeps_enterEnumerate _ _) rfl ?_
          exact keeps_refl _ _
      · refine keeps_ite ?_ ?_
        · refine keeps_step (keeps_flipPort _ _) rfl ?_
          exact keeps_refl _ _
        · refine keeps_step (keeps_attemptFailed _ _ _) rfl ?_
          exact keeps_refl _ _

theorem keeps_execLaneTrainingSetReceived : ∀ x0 x1 x2 x3 x4 x5 s, ∃ t, @execLaneTrainingSetReceived
    x0 x1 x2 x3 x4 x5 s = .next t ∧ Keeps [.out, .hif, .lpl, .link, .pxh, .rve, .yok, .eth, .mgt,
    .tst, .running, .maskQ] s t := by
  intro x0 x1 x2 x3 x4 x5 s
  unfold execLaneTrainingSetReceived
  dsimp only
  refine ⟨_, rfl, ?_⟩
  refine keeps_whenS ?_ fun _ => ?_
  · exact keeps_refl _ _
  · split
    · refine keeps_step (keeps_inPolarity _ _ _) rfl ?_
      exact keeps_refl _ _
    · refine keeps_step (keeps_inReversal _ _ _ _) rfl ?_
      exact keeps_refl _ _
    · exact keeps_refl _ _

theorem keeps_execLaneStateTimeout : ∀ x0 s, ∃ t, @execLaneStateTimeout x0 s = .next t ∧ Keeps
    [.free, .out, .hif, .lpl, .link, .pxh, .thm, .rve, .yok, .eth, .mgt, .tst, .running, .maskQ] s t
    := by
  intro x0 s
  unfold execLaneStateTimeout
  refine ⟨_, rfl, ?_⟩
  split
  · refine keeps_step (keeps_enterDown _ _ _) rfl ?_
    exact keeps_refl _ _
  · refine keeps_step (keeps_attemptFailed _ _ _) rfl ?_
    exact keeps_refl _ _
  · refine keeps_step (keeps_attemptFailed _ _ _) rfl ?_
    exact keeps_refl _ _
  · refine keeps_step (keeps_attemptFailed _ _ _) rfl ?_
    exact keeps_refl _ _
  · refine keeps_step (keeps_endEnumerate _ _ _) rfl ?_
    exact keeps_refl _ _
  · refine keeps_step (keeps_judgeCheck _ _) rfl ?_
    refine keeps_step (keeps_modLane _ _ _) rfl ?_
    exact keeps_refl _ _
  · refine keeps_step (keeps_modLane _ _ _) rfl ?_
    exact keeps_refl _ _
  · exact keeps_refl _ _

theorem keeps_execEnumerateHelloRepeat : ∀ x0 s, ∃ t, @execEnumerateHelloRepeat x0 s = .next t ∧
    Keeps [.out, .link, .yok] s t := by
  intro x0 s
  unfold execEnumerateHelloRepeat
  dsimp only
  refine ⟨_, rfl, ?_⟩
  split
  · refine keeps_ite ?_ ?_
    · exact keeps_refl _ _
    · refine keeps_step (keeps_sendCtl _ _ _ _ _ _ _) rfl ?_
      exact keeps_refl _ _
  · exact keeps_refl _ _

theorem keeps_execEnumerateSlotTimeout : ∀ x0 s, ∃ t, @execEnumerateSlotTimeout x0 s = .next t ∧
    Keeps [.out, .hif, .link, .rve, .yok, .eth, .mgt, .tst, .running, .maskQ] s t := by
  intro x0 s
  unfold execEnumerateSlotTimeout
  dsimp only
  refine ⟨_, rfl, ?_⟩
  split
  · exact keeps_refl _ _
  · refine keeps_ite ?_ ?_
    · refine keeps_step (keeps_endEnumerate _ _ _) rfl ?_
      exact keeps_refl _ _
    · refine keeps_step (keeps_dropAssign _ _) rfl ?_
      exact keeps_refl _ _

theorem keeps_execCheckPatternEnd : ∀ x0 x1 s, ∃ t, @execCheckPatternEnd x0 x1 s = .next t ∧ Keeps
    [.free, .out, .hif, .link, .pxh, .thm, .rve, .yok, .eth, .mgt, .tst, .running, .maskQ] s t := by
  intro x0 x1 s
  unfold execCheckPatternEnd
  refine ⟨_, rfl, ?_⟩
  refine keeps_whenS ?_ fun _ => ?_
  · exact keeps_refl _ _
  · dsimp only
    refine keeps_ite ?_ ?_
    · refine keeps_step (keeps_judgeCheck _ _) rfl ?_
      refine keeps_step (keeps_laneSends _ _) rfl ?_
      refine keeps_step (keeps_modLane _ _ _) rfl ?_
      exact keeps_refl _ _
    · refine keeps_foldl ?_ fun _ _ _ => ?_
      · refine keeps_step (keeps_laneSends _ _) rfl ?_
        refine keeps_step (keeps_modLane _ _ _) rfl ?_
        exact keeps_refl _ _
      · refine keeps_step (keeps_sendCtl _ _ _ _ _ _ _) rfl ?_
        assumption

theorem keeps_execCheckReportTimeout : ∀ x0 s, ∃ t, @execCheckReportTimeout x0 s = .next t ∧ Keeps
    [.free, .out, .hif, .link, .pxh, .thm, .rve, .yok, .eth, .mgt, .tst, .running, .maskQ] s t := by
  intro x0 s
  unfold execCheckReportTimeout
  dsimp only
  refine ⟨_, rfl, ?_⟩
  refine keeps_whenS ?_ fun _ => ?_
  · exact keeps_refl _ _
  · refine keeps_ite ?_ ?_
    · refine keeps_step (keeps_enterDown _ _ _) rfl ?_
      refine keeps_step (keeps_modLane _ _ _) rfl ?_
      exact keeps_refl _ _
    · refine keeps_step (keeps_judgeCheck _ _) rfl ?_
      refine keeps_step (keeps_modLane _ _ _) rfl ?_
      exact keeps_refl _ _

theorem keeps_execLaneLossOfSignal : ∀ x0 s, ∃ t, @execLaneLossOfSignal x0 s = .next t ∧ Keeps
    [.out, .lpl, .link, .pxh, .rve, .yok] s t := by
  intro x0 s
  unfold execLaneLossOfSignal
  refine ⟨_, rfl, ?_⟩
  refine keeps_whenS ?_ fun _ => ?_
  · exact keeps_refl _ _
  · refine keeps_step (keeps_retrain _ _ _) rfl ?_
    refine keeps_step (keeps_modLane _ _ _) rfl ?_
    exact keeps_refl _ _

theorem keeps_countErrors : ∀ x0 x1 s, Keeps [.link, .yok] s (@countErrors x0 x1 s) := by
  intro x0 x1 s
  unfold countErrors
  refine keeps_step (keeps_modLane _ _ _) rfl ?_
  exact keeps_refl _ _

theorem keeps_execLaneErrorBurst : ∀ x0 x1 s, ∃ t, @execLaneErrorBurst x0 x1 s = .next t ∧ Keeps
    [.out, .lpl, .link, .pxh, .rve, .yok] s t := by
  intro x0 x1 s
  unfold execLaneErrorBurst
  refine ⟨_, rfl, ?_⟩
  refine keeps_whenS ?_ fun _ => ?_
  · exact keeps_refl _ _
  · refine keeps_step (keeps_retrain _ _ _) rfl ?_
    refine keeps_step (keeps_countErrors _ _ _) rfl ?_
    exact keeps_refl _ _

theorem keeps_execLaneNewAlignment : ∀ x0 s, ∃ t, @execLaneNewAlignment x0 s = .next t ∧ Keeps
    [.out, .lpl, .link, .pxh, .rve, .yok] s t := by
  intro x0 s
  unfold execLaneNewAlignment
  refine ⟨_, rfl, ?_⟩
  refine keeps_whenS ?_ fun _ => ?_
  · exact keeps_refl _ _
  · refine keeps_step (keeps_retrain _ _ _) rfl ?_
    refine keeps_step (keeps_modLane _ _ _) rfl ?_
    exact keeps_refl _ _

theorem keeps_execLaneErrorWindow : ∀ x0 x1 s, ∃ t, @execLaneErrorWindow x0 x1 s = .next t ∧ Keeps
    [.out, .lpl, .link, .pxh, .rve, .yok] s t := by
  intro x0 x1 s
  unfold execLaneErrorWindow
  refine ⟨_, rfl, ?_⟩
  refine keeps_whenS ?_ fun _ => ?_
  · exact keeps_refl _ _
  · dsimp only
    refine keeps_ite ?_ ?_
    · refine keeps_step (keeps_retrain _ _ _) rfl ?_
      refine keeps_step (keeps_countErrors _ _ _) rfl ?_
      exact keeps_refl _ _
    · refine keeps_step (keeps_countErrors _ _ _) rfl ?_
      exact keeps_refl _ _

theorem keeps_execLaneFbkTimeout : ∀ x0 s, ∃ t, @execLaneFbkTimeout x0 s = .next t ∧ Keeps [.out,
    .hif, .hdg, .lpl, .link, .rail, .rve, .yok, .eth, .mgt, .tst, .running, .maskQ] s t := by
  intro x0 s
  unfold execLaneFbkTimeout
  dsimp only
  refine ⟨_, rfl, ?_⟩
  refine keeps_whenS ?_ fun _ => ?_
  · exact keeps_refl _ _
  · refine keeps_ite ?_ ?_
    · refine keeps_step (keeps_sendLane _ _ _) rfl ?_
      refine keeps_step (keeps_modLane _ _ _) rfl ?_
      exact keeps_refl _ _
    · refine keeps_ite ?_ ?_
      · refine keeps_step (keeps_releaseLine _ _) rfl ?_
        refine keeps_step (keeps_sendLane _ _ _) rfl ?_
        refine keeps_step (keeps_modLane _ _ _) rfl ?_
        exact keeps_refl _ _
      · refine keeps_step (keeps_sendLane _ _ _) rfl ?_
        refine keeps_step (keeps_modLane _ _ _) rfl ?_
        exact keeps_refl _ _

theorem keeps_execLaneSlowRetrain : ∀ x0 s, ∃ t, @execLaneSlowRetrain x0 s = .next t ∧ Keeps [.out,
    .lpl, .link, .pxh, .yok] s t := by
  intro x0 s
  unfold execLaneSlowRetrain
  dsimp only
  refine ⟨_, rfl, ?_⟩
  refine keeps_ite ?_ ?_
  · refine keeps_ite ?_ ?_
    · exact keeps_refl _ _
    · refine keeps_step (keeps_enterDetect _ _ _ _) rfl ?_
      exact keeps_refl _ _
  · refine keeps_ite ?_ ?_
    · refine keeps_step (keeps_askSlot _ _ _) rfl ?_
      exact keeps_refl _ _
    · exact keeps_refl _ _

theorem keeps_execRailGoodLaneRestart : ∀ x0 s, ∃ t, @execRailGoodLaneRestart x0 s = .next t ∧ Keeps
    [.out, .lpl, .link, .pxh, .yok] s t := by
  intro x0 s
  unfold execRailGoodLaneRestart
  dsimp only
  refine ⟨_, rfl, ?_⟩
  refine keeps_whenS ?_ fun _ => ?_
  · exact keeps_refl _ _
  · refine keeps_foldl ?_ fun _ _ _ => ?_
    · exact keeps_refl _ _
    · refine keeps_step (keeps_enterDetect _ _ _ _) rfl ?_
      assumption

theorem keeps_execXlpCntClearEvents : ∀ s, ∃ t, @execXlpCntClearEvents s = .next t ∧ Keeps [.link] s
    t := by
  intro s
  unfold execXlpCntClearEvents
  refine ⟨_, rfl, ?_⟩
  refine keeps_whenS ?_ fun _ => ?_
  · exact keeps_refl _ _
  · refine keeps_mk ?_
    exact keeps_refl _ _

theorem keeps_execXlpCntClearErr : ∀ s, ∃ t, @execXlpCntClearErr s = .next t ∧ Keeps [.link] s t :=
    by
  intro s
  unfold execXlpCntClearErr
  refine ⟨_, rfl, ?_⟩
  refine keeps_whenS ?_ fun _ => ?_
  · exact keeps_refl _ _
  · refine keeps_mk ?_
    exact keeps_refl _ _

theorem keeps_enterLoop : ∀ x0 x1 x2 x3 s, Keeps [.out, .link, .yok] s (@enterLoop x0 x1 x2 x3 s) :=
    by
  intro x0 x1 x2 x3 s
  unfold enterLoop
  dsimp only
  refine keeps_ite ?_ ?_
  · refine keeps_step (keeps_laneSends _ _) rfl ?_
    refine keeps_ite ?_ ?_
    · refine keeps_step (keeps_sendCtl _ _ _ _ _ _ _) rfl ?_
      refine keeps_step (keeps_modLane _ _ _) rfl ?_
      exact keeps_refl _ _
    · refine keeps_step (keeps_modLane _ _ _) rfl ?_
      exact keeps_refl _ _
  · refine keeps_ite ?_ ?_
    · refine keeps_step (keeps_sendLane _ _ _) rfl ?_
      refine keeps_ite ?_ ?_
      · refine keeps_step (keeps_sendCtl _ _ _ _ _ _ _) rfl ?_
        refine keeps_step (keeps_modLane _ _ _) rfl ?_
        exact keeps_refl _ _
      · refine keeps_step (keeps_modLane _ _ _) rfl ?_
        exact keeps_refl _ _
    · refine keeps_step (keeps_sendLane _ _ _) rfl ?_
      refine keeps_ite ?_ ?_
      · refine keeps_step (keeps_sendCtl _ _ _ _ _ _ _) rfl ?_
        refine keeps_step (keeps_modLane _ _ _) rfl ?_
        exact keeps_refl _ _
      · refine keeps_step (keeps_modLane _ _ _) rfl ?_
        exact keeps_refl _ _

theorem keeps_execLoopbackPatternEnd : ∀ x0 x1 s, ∃ t, @execLoopbackPatternEnd x0 x1 s = .next t ∧
    Keeps [.out, .lpl, .link, .pxh, .yok, .tst] s t := by
  intro x0 x1 s
  unfold execLoopbackPatternEnd
  refine ⟨_, rfl, ?_⟩
  refine keeps_whenS ?_ fun _ => ?_
  · exact keeps_refl _ _
  · dsimp only
    refine keeps_step (keeps_enterDetect _ _ _ _) rfl ?_
    split
    · refine keeps_ite ?_ ?_
      · refine keeps_mk ?_
        refine keeps_step (keeps_modLane _ _ _) rfl ?_
        exact keeps_refl _ _
      · refine keeps_step (keeps_modLane _ _ _) rfl ?_
        exact keeps_refl _ _
    · refine keeps_step (keeps_modLane _ _ _) rfl ?_
      exact keeps_refl _ _

end Sys2Proof.Laws
end

