-- ==== Sys2Proof/Laws/KeepHealth.lean ====
section
/-!
SUPPORT. Which parts of the state the operations of Health.lean leave alone.
-/

namespace Sys2Proof.Laws

-- Each proof is checked before the next begins: hundreds at once would ask for a thread each.
set_option Elab.async false
set_option linter.all false

open Sys2Proof Sys2Proof.Machine Sys2Proof.Safety

theorem keeps_retire : ∀ x0 s, Keeps [.pho] s (@retire x0 s) := by
  intro x0 s
  unfold retire
  split
  · exact keeps_refl _ _
  · exact keeps_refl _ _
  · dsimp only
    refine keeps_mk ?_
    exact keeps_refl _ _

theorem keeps_landWrite : ∀ x0 s, Keeps [.free, .out, .grn, .mem, .pho, .pxh, .rve, .yok] s
    (@landWrite x0 s) := by
  intro x0 s
  unfold landWrite
  dsimp only
  split
  · refine keeps_step (keeps_requeue _ _) rfl ?_
    refine keeps_step (keeps_writeField _ _ _) rfl ?_
    exact keeps_refl _ _
  · refine keeps_step (keeps_feedHeld _ _) rfl ?_
    refine keeps_step (keeps_checkDead _ _) rfl ?_
    refine keeps_step (keeps_retire _ _) rfl ?_
    split
    · refine keeps_ite ?_ ?_
      · refine keeps_step (keeps_sendYoke _ _ _) rfl ?_
        refine keeps_foldl ?_ fun _ _ _ => ?_
        · refine keeps_some (keeps_writeField_some _ _ _) rfl ‹_› ?_
          exact keeps_refl _ _
        · refine keeps_step (keeps_writeField _ _ _) rfl ?_
          assumption
      · refine keeps_foldl ?_ fun _ _ _ => ?_
        · refine keeps_some (keeps_writeField_some _ _ _) rfl ‹_› ?_
          exact keeps_refl _ _
        · refine keeps_step (keeps_writeField _ _ _) rfl ?_
          assumption
    · refine keeps_foldl ?_ fun _ _ _ => ?_
      · refine keeps_some (keeps_writeField_some _ _ _) rfl ‹_› ?_
        exact keeps_refl _ _
      · refine keeps_step (keeps_writeField _ _ _) rfl ?_
        assumption

theorem keeps_execHealthWriteback : ∀ x0 s, ∃ t, @execHealthWriteback x0 s = .next t ∧ Keeps [.free,
    .out, .grn, .mem, .pho, .pxh, .rve, .yok] s t := by
  intro x0 s
  unfold execHealthWriteback
  refine ⟨_, rfl, ?_⟩
  refine keeps_whenS ?_ fun _ => ?_
  · exact keeps_refl _ _
  · split
    · exact keeps_refl _ _
    · dsimp only
      refine keeps_ite ?_ ?_
      · refine keeps_step (keeps_requeue _ _) rfl ?_
        refine keeps_mk ?_
        exact keeps_refl _ _
      · refine keeps_step (keeps_landWrite _ _) rfl ?_
        refine keeps_mk ?_
        exact keeps_refl _ _

theorem keeps_recountReads : ∀ s, Keeps [.free, .grn, .rve] s (@recountReads s) := by
  intro s
  unfold recountReads
  refine keeps_step (keeps_readMarked _ _ _ _) rfl ?_
  exact keeps_refl _ _

theorem keeps_execHealthRecountDone : ∀ s, ∃ t, @execHealthRecountDone s = .next t ∧ Keeps [.free,
    .grn, .pxh, .rve] s t := by
  intro s
  unfold execHealthRecountDone
  refine ⟨_, rfl, ?_⟩
  refine keeps_whenS ?_ fun _ => ?_
  · exact keeps_refl _ _
  · refine keeps_step (keeps_checkDeadAll _) rfl ?_
    dsimp only
    refine keeps_mk ?_
    refine keeps_step (keeps_recountReads _) rfl ?_
    exact keeps_refl _ _

theorem keeps_resetRecord : ∀ s x1, Keeps [.free, .grn, .mem, .pxh, .rve, .yok] s (@resetRecord s
    x1) := by
  intro s x1
  unfold resetRecord
  dsimp only
  refine keeps_ite ?_ ?_
  · refine keeps_mk ?_
    refine keeps_foldl2 ?_ fun _ _ _ => ?_
    · dsimp only
      refine keeps_mk ?_
      exact keeps_refl _ _
    · dsimp only
      refine keeps_step (keeps_writeField _ _ _) rfl ?_
      assumption
  · refine keeps_foldl2 ?_ fun _ _ _ => ?_
    · dsimp only
      refine keeps_mk ?_
      exact keeps_refl _ _
    · dsimp only
      refine keeps_step (keeps_writeField _ _ _) rfl ?_
      assumption

theorem keeps_execTileSerialResetDone : ∀ x0 s, ∃ t, @execTileSerialResetDone x0 s = .next t ∧ Keeps
    [.free, .grn, .mem, .pxh, .rve, .yok] s t := by
  intro x0 s
  unfold execTileSerialResetDone
  refine ⟨_, rfl, ?_⟩
  refine keeps_whenS ?_ fun _ => ?_
  · exact keeps_refl _ _
  · dsimp only
    refine keeps_step (keeps_checkDead _ _) rfl ?_
    refine keeps_step (keeps_healthEvent _ _ _ _) rfl ?_
    refine keeps_mk ?_
    refine keeps_foldl ?_ fun _ _ _ => ?_
    · exact keeps_refl _ _
    · refine keeps_step (keeps_resetRecord _ _) rfl ?_
      assumption

theorem keeps_execPxhCntClearFlags : ∀ s, ∃ t, @execPxhCntClearFlags s = .next t ∧ Keeps [.pxh] s t
    := by
  intro s
  unfold execPxhCntClearFlags
  refine ⟨_, rfl, ?_⟩
  refine keeps_whenS ?_ fun _ => ?_
  · exact keeps_refl _ _
  · refine keeps_mk ?_
    exact keeps_refl _ _

theorem keeps_execPxhCntClearEvents : ∀ s, ∃ t, @execPxhCntClearEvents s = .next t ∧ Keeps [.pxh] s
    t := by
  intro s
  unfold execPxhCntClearEvents
  refine ⟨_, rfl, ?_⟩
  refine keeps_whenS ?_ fun _ => ?_
  · exact keeps_refl _ _
  · refine keeps_mk ?_
    exact keeps_refl _ _

theorem keeps_tileWord : ∀ x0 s, Keeps [.free] s (@tileWord x0 s).2 := by
  intro x0 s
  unfold tileWord
  dsimp only
  split
  · dsimp only
    refine keeps_step (keeps_freshBits _ _) rfl ?_
    exact keeps_refl _ _
  · dsimp only
    exact keeps_refl _ _

theorem keeps_telemetryBody : BodyKeeps [.free, .out, .hif, .dma, .grn, .hdg, .lpl, .rve, .yok,
    .eth, .mgt, .running, .maskQ, .jobs] telemetryBody := by
  refine ⟨fun c s => ?_, fun c st s => ?_⟩
  · unfold telemetryBody
    dsimp only
    split
    · split
      · refine keeps_step (keeps_complete _ _ _ _ _) rfl ?_
        refine keeps_step (keeps_coreRead _ _ _) rfl ?_
        exact keeps_refl _ _
      · refine keeps_step (keeps_finish _ _ _ _) rfl ?_
        refine keeps_step (keeps_coreRead _ _ _) rfl ?_
        exact keeps_refl _ _
    · refine keeps_step (keeps_finish _ _ _ _) rfl ?_
      refine keeps_step (keeps_tileWord _ _) rfl ?_
      exact keeps_refl _ _
    · refine keeps_step (keeps_askTransfer _ _) rfl ?_
      exact keeps_refl _ _
  · unfold telemetryBody
    dsimp only
    exact keeps_refl _ _

theorem keeps_execTelemetryRead : ∀ x0 x1 s, ∃ t, @execTelemetryRead x0 x1 s = .next t ∧ Keeps
    [.free, .out, .hif, .dma, .grn, .hdg, .lpl, .rve, .yok, .eth, .mgt, .running, .nextSer, .maskQ,
    .jobs] s t := by
  intro x0 x1 s
  unfold execTelemetryRead
  refine ⟨_, rfl, ?_⟩
  refine keeps_runRow rfl rfl keeps_telemetryBody ?_
  exact keeps_refl _ _

theorem keeps_healthBody : BodyKeeps [.hif, .lpl, .pxh, .rve, .yok, .eth, .mgt, .running, .maskQ]
    healthBody := by
  refine ⟨fun c s => ?_, fun c st s => ?_⟩
  · unfold healthBody
    dsimp only
    split
    · refine keeps_mk ?_
      exact keeps_refl _ _
    · refine keeps_step (keeps_finishOk _ _) rfl ?_
      refine keeps_mk ?_
      exact keeps_refl _ _
    · refine keeps_step (keeps_finishOk _ _) rfl ?_
      refine keeps_mk ?_
      exact keeps_refl _ _
  · unfold healthBody
    dsimp only
    exact keeps_refl _ _

theorem keeps_execHealthSet : ∀ x0 x1 s, ∃ t, @execHealthSet x0 x1 s = .next t ∧ Keeps [.hif, .lpl,
    .pxh, .rve, .yok, .eth, .mgt, .running, .nextSer, .maskQ] s t := by
  intro x0 x1 s
  unfold execHealthSet
  refine ⟨_, rfl, ?_⟩
  refine keeps_runRow rfl rfl keeps_healthBody ?_
  exact keeps_refl _ _

theorem keeps_sendShortClear : ∀ x0 s, Keeps [.out, .link, .yok] s (@sendShortClear x0 s).2 := by
  intro x0 s
  unfold sendShortClear
  dsimp only
  split
  · dsimp only
    exact keeps_refl _ _
  · split
    · dsimp only
      refine keeps_step (keeps_sendCtl _ _ _ _ _ _ _) rfl ?_
      exact keeps_refl _ _
    · dsimp only
      exact keeps_refl _ _

theorem keeps_feedSet : ∀ s, Keeps [.out, .pho, .link, .pxh, .rve, .yok] s (@feedSet s) := by
  intro s
  unfold feedSet
  split
  · exact keeps_refl _ _
  · split
    · exact keeps_refl _ _
    · refine keeps_ite ?_ ?_
      · exact keeps_refl _ _
      · dsimp only
        refine keeps_ite ?_ ?_
        · refine keeps_mk ?_
          refine keeps_step (keeps_modEntry _ _ _) rfl ?_
          split
          · refine keeps_step (keeps_sendShortClear _ _) rfl ?_
            exact keeps_refl _ _
          · dsimp only
            exact keeps_refl _ _
        · refine keeps_step (keeps_pushOverride _ _ _) rfl ?_
          refine keeps_step (keeps_noteDead _ _ _ _) rfl ?_
          refine keeps_mk ?_
          refine keeps_step (keeps_modEntry _ _ _) rfl ?_
          split
          · refine keeps_step (keeps_sendShortClear _ _) rfl ?_
            exact keeps_refl _ _
          · dsimp only
            exact keeps_refl _ _

theorem keeps_settleSets : ∀ s, Keeps [.hif, .lpl, .pxh, .rve, .yok, .eth, .mgt, .running, .maskQ] s
    (@settleSets s) := by
  intro s
  unfold settleSets
  refine keeps_foldl ?_ fun _ _ _ => ?_
  · exact keeps_refl _ _
  · split
    · refine keeps_ite ?_ ?_
      · assumption
      · dsimp only
        refine keeps_ite ?_ ?_
        · refine keeps_step (keeps_complete _ _ _ _ _) rfl ?_
          refine keeps_mk ?_
          assumption
        · refine keeps_ite ?_ ?_
          · refine keeps_step (keeps_finishOk _ _) rfl ?_
            refine keeps_mk ?_
            assumption
          · refine keeps_step (keeps_complete _ _ _ _ _) rfl ?_
            refine keeps_mk ?_
            assumption
    · assumption

theorem keeps_clearDone : ∀ x0 x1 x2 s, Keeps [.hif, .lpl, .pxh, .rve, .yok, .eth, .mgt, .running,
    .maskQ] s (@clearDone x0 x1 x2 s) := by
  intro x0 x1 x2 s
  unfold clearDone
  dsimp only
  split
  · exact keeps_refl _ _
  · refine keeps_step (keeps_settleSets _) rfl ?_
    refine keeps_mk ?_
    exact keeps_refl _ _

theorem keeps_enterShared : ∀ s, Keeps [.pho, .pxh, .rve, .yok] s (@enterShared s) := by
  intro s
  unfold enterShared
  split
  · refine keeps_foldl ?_ fun _ _ _ => ?_
    · refine keeps_mk ?_
      exact keeps_refl _ _
    · refine keeps_step (keeps_enterChange _ _ _) rfl ?_
      assumption
  · exact keeps_refl _ _

theorem keeps_enterHealth : ∀ s, Keeps [.out, .pho, .link, .pxh, .rve, .yok] s (@enterHealth s) :=
    by
  intro s
  unfold enterHealth
  refine keeps_step (keeps_takeDark _) rfl ?_
  refine keeps_step (keeps_enterShared _) rfl ?_
  refine keeps_foldl ?_ fun _ _ _ => ?_
  · refine keeps_step (keeps_feedHeld _ _) rfl ?_
    exact keeps_refl _ _
  · refine keeps_step (keeps_feedSet _) rfl ?_
    assumption

theorem keeps_takeOverrides : ∀ s, Keeps [.pho] s (@takeOverrides s) := by
  intro s
  unfold takeOverrides
  refine keeps_mk ?_
  exact keeps_refl _ _

theorem keeps_setsTaken : ∀ x0 s, Keeps [.hif, .lpl, .pxh, .rve, .yok, .eth, .mgt, .running, .maskQ]
    s (@setsTaken x0 s) := by
  intro x0 s
  unfold setsTaken
  refine keeps_step (keeps_settleSets _) rfl ?_
  refine keeps_mk ?_
  exact keeps_refl _ _

end Sys2Proof.Laws
end

