-- ==== Sys2Proof/Laws/KeepThermal.lean ====
section
/-!
SUPPORT. Which parts of the state the operations of Thermal.lean leave alone.
-/

namespace Sys2Proof.Laws

-- Each proof is checked before the next begins: hundreds at once would ask for a thread each.
set_option Elab.async false
set_option linter.all false

open Sys2Proof Sys2Proof.Machine Sys2Proof.Safety

theorem keeps_modClass : ∀ x0 x1 s, Keeps [.thm] s (@modClass x0 x1 s) := by
  intro x0 x1 s
  unfold modClass
  refine keeps_ite ?_ ?_
  · refine keeps_mk ?_
    exact keeps_refl _ _
  · refine keeps_mk ?_
    exact keeps_refl _ _

theorem keeps_settleThermal : ∀ s, Keeps [.out, .hif, .hdg, .lpl, .link, .rail, .thm, .rve, .yok,
    .eth, .mgt, .tst, .running, .maskQ] s (@settleThermal s) := by
  intro s
  unfold settleThermal
  dsimp only
  refine keeps_ite ?_ ?_
  · refine keeps_step (keeps_modClass _ _ _) rfl ?_
    refine keeps_ite ?_ ?_
    · refine keeps_step (keeps_sendFbkAll _) rfl ?_
      refine keeps_mk ?_
      refine keeps_ite ?_ ?_
      · refine keeps_ite ?_ ?_
        · refine keeps_step (keeps_raise _ _ _ _) rfl ?_
          refine keeps_step (keeps_modClass _ _ _) rfl ?_
          exact keeps_refl _ _
        · refine keeps_step (keeps_modClass _ _ _) rfl ?_
          exact keeps_refl _ _
      · refine keeps_step (keeps_modClass _ _ _) rfl ?_
        exact keeps_refl _ _
    · refine keeps_ite ?_ ?_
      · refine keeps_step (keeps_modClass _ _ _) rfl ?_
        refine keeps_mk ?_
        refine keeps_ite ?_ ?_
        · refine keeps_ite ?_ ?_
          · refine keeps_step (keeps_raise _ _ _ _) rfl ?_
            refine keeps_step (keeps_modClass _ _ _) rfl ?_
            exact keeps_refl _ _
          · refine keeps_step (keeps_modClass _ _ _) rfl ?_
            exact keeps_refl _ _
        · refine keeps_step (keeps_modClass _ _ _) rfl ?_
          exact keeps_refl _ _
      · refine keeps_ite ?_ ?_
        · refine keeps_ite ?_ ?_
          · refine keeps_step (keeps_raise _ _ _ _) rfl ?_
            refine keeps_step (keeps_modClass _ _ _) rfl ?_
            exact keeps_refl _ _
          · refine keeps_step (keeps_modClass _ _ _) rfl ?_
            exact keeps_refl _ _
        · refine keeps_step (keeps_modClass _ _ _) rfl ?_
          exact keeps_refl _ _
  · refine keeps_ite ?_ ?_
    · refine keeps_step (keeps_sendFbkAll _) rfl ?_
      refine keeps_mk ?_
      refine keeps_ite ?_ ?_
      · refine keeps_ite ?_ ?_
        · refine keeps_step (keeps_raise _ _ _ _) rfl ?_
          refine keeps_step (keeps_modClass _ _ _) rfl ?_
          exact keeps_refl _ _
        · refine keeps_step (keeps_modClass _ _ _) rfl ?_
          exact keeps_refl _ _
      · refine keeps_step (keeps_modClass _ _ _) rfl ?_
        exact keeps_refl _ _
    · refine keeps_ite ?_ ?_
      · refine keeps_step (keeps_modClass _ _ _) rfl ?_
        refine keeps_mk ?_
        refine keeps_ite ?_ ?_
        · refine keeps_ite ?_ ?_
          · refine keeps_step (keeps_raise _ _ _ _) rfl ?_
            refine keeps_step (keeps_modClass _ _ _) rfl ?_
            exact keeps_refl _ _
          · refine keeps_step (keeps_modClass _ _ _) rfl ?_
            exact keeps_refl _ _
        · refine keeps_step (keeps_modClass _ _ _) rfl ?_
          exact keeps_refl _ _
      · refine keeps_ite ?_ ?_
        · refine keeps_ite ?_ ?_
          · refine keeps_step (keeps_raise _ _ _ _) rfl ?_
            refine keeps_step (keeps_modClass _ _ _) rfl ?_
            exact keeps_refl _ _
          · refine keeps_step (keeps_modClass _ _ _) rfl ?_
            exact keeps_refl _ _
        · refine keeps_step (keeps_modClass _ _ _) rfl ?_
          exact keeps_refl _ _

theorem keeps_entered : ∀ x0 x1 x2 x3 s, Keeps [.thm, .rve] s (@entered x0 x1 x2 x3 s) := by
  intro x0 x1 x2 x3 s
  unfold entered
  refine keeps_ite ?_ ?_
  · exact keeps_refl _ _
  · dsimp only
    refine keeps_ite ?_ ?_
    · refine keeps_step (keeps_raise _ _ _ _) rfl ?_
      exact keeps_refl _ _
    · refine keeps_ite ?_ ?_
      · refine keeps_mk ?_
        refine keeps_step (keeps_modClass _ _ _) rfl ?_
        refine keeps_step (keeps_raise _ _ _ _) rfl ?_
        exact keeps_refl _ _
      · refine keeps_step (keeps_modClass _ _ _) rfl ?_
        refine keeps_step (keeps_raise _ _ _ _) rfl ?_
        exact keeps_refl _ _

theorem keeps_startCal : ∀ x0 x1 s, Keeps [.thm] s (@startCal x0 x1 s) := by
  intro x0 x1 s
  unfold startCal
  dsimp only
  refine keeps_mk ?_
  exact keeps_refl _ _

theorem keeps_triggerCal : ∀ s, Keeps [.thm] s (@triggerCal s) := by
  intro s
  unfold triggerCal
  refine keeps_ite ?_ ?_
  · exact keeps_refl _ _
  · refine keeps_ite ?_ ?_
    · refine keeps_step (keeps_startCal _ _ _) rfl ?_
      exact keeps_refl _ _
    · refine keeps_mk ?_
      exact keeps_refl _ _

theorem keeps_abandonCal : ∀ s, Keeps [.hif, .thm, .rve, .eth, .mgt, .running, .maskQ] s
    (@abandonCal s) := by
  intro s
  unfold abandonCal
  split
  · exact keeps_refl _ _
  · dsimp only
    split
    · refine keeps_step (keeps_complete _ _ _ _ _) rfl ?_
      refine keeps_mk ?_
      exact keeps_refl _ _
    · refine keeps_mk ?_
      exact keeps_refl _ _

theorem keeps_calAtVbi : ∀ s, Keeps [.thm] s (@calAtVbi s) := by
  intro s
  unfold calAtVbi
  split
  · refine keeps_ite ?_ ?_
    · refine keeps_step (keeps_startCal _ _ _) rfl ?_
      exact keeps_refl _ _
    · exact keeps_refl _ _
  · exact keeps_refl _ _

theorem keeps_execCalStep : ∀ x0 s, ∃ t, @execCalStep x0 s = .next t ∧ Keeps [.thm] s t := by
  intro x0 s
  unfold execCalStep
  refine ⟨_, rfl, ?_⟩
  split
  · exact keeps_refl _ _
  · split
    · exact keeps_refl _ _
    · refine keeps_ite ?_ ?_
      · exact keeps_refl _ _
      · dsimp only
        refine keeps_mk ?_
        exact keeps_refl _ _

theorem keeps_applyCal : ∀ s, Keeps [.hif, .lpl, .thm, .rve, .yok, .eth, .mgt, .running, .maskQ] s
    (@applyCal s) := by
  intro s
  unfold applyCal
  split
  · exact keeps_refl _ _
  · refine keeps_ite ?_ ?_
    · refine keeps_mk ?_
      exact keeps_refl _ _
    · dsimp only
      split
      · refine keeps_ite ?_ ?_
        · refine keeps_mk ?_
          exact keeps_refl _ _
        · refine keeps_step (keeps_raise _ _ _ _) rfl ?_
          refine keeps_mk ?_
          exact keeps_refl _ _
      · refine keeps_ite ?_ ?_
        · refine keeps_step (keeps_finish _ _ _ _) rfl ?_
          refine keeps_ite ?_ ?_
          · refine keeps_mk ?_
            exact keeps_refl _ _
          · refine keeps_step (keeps_raise _ _ _ _) rfl ?_
            refine keeps_mk ?_
            exact keeps_refl _ _
        · refine keeps_step (keeps_complete _ _ _ _ _) rfl ?_
          refine keeps_ite ?_ ?_
          · refine keeps_mk ?_
            exact keeps_refl _ _
          · refine keeps_step (keeps_raise _ _ _ _) rfl ?_
            refine keeps_mk ?_
            exact keeps_refl _ _

theorem keeps_breakSensor : ∀ x0 x1 s, Keeps [.thm] s (@breakSensor x0 x1 s) := by
  intro x0 x1 s
  unfold breakSensor
  refine keeps_mk ?_
  exact keeps_refl _ _

theorem keeps_calMoved : ∀ s, Keeps [.thm] s (@calMoved s) := by
  intro s
  unfold calMoved
  split
  · refine keeps_ite ?_ ?_
    · refine keeps_step (keeps_triggerCal _) rfl ?_
      exact keeps_refl _ _
    · exact keeps_refl _ _
  · exact keeps_refl _ _

theorem keeps_takeReading : ∀ x0 x1 s, Keeps [.out, .hif, .hdg, .lpl, .link, .rail, .thm, .rve,
    .yok, .eth, .mgt, .tst, .running, .maskQ] s (@takeReading x0 x1 s) := by
  intro x0 x1 s
  unfold takeReading
  dsimp only
  refine keeps_ite ?_ ?_
  · exact keeps_refl _ _
  · refine keeps_ite ?_ ?_
    · refine keeps_ite ?_ ?_
      · refine keeps_step (keeps_settleThermal _) rfl ?_
        refine keeps_step (keeps_raise _ _ _ _) rfl ?_
        refine keeps_step (keeps_breakSensor _ _ _) rfl ?_
        exact keeps_refl _ _
      · refine keeps_mk ?_
        exact keeps_refl _ _
    · refine keeps_step (keeps_settleThermal _) rfl ?_
      refine keeps_step (keeps_entered _ _ _ _ _) rfl ?_
      refine keeps_mk ?_
      exact keeps_refl _ _

theorem keeps_dieSample : ∀ x0 x1 s, Keeps [.out, .hif, .hdg, .lpl, .link, .rail, .thm, .rve, .yok,
    .eth, .mgt, .tst, .running, .maskQ] s (@dieSample x0 x1 s) := by
  intro x0 x1 s
  unfold dieSample
  dsimp only
  refine keeps_ite ?_ ?_
  · refine keeps_step (keeps_calMoved _) rfl ?_
    refine keeps_step (keeps_takeReading _ _ _) rfl ?_
    refine keeps_mk ?_
    exact keeps_refl _ _
  · refine keeps_step (keeps_takeReading _ _ _) rfl ?_
    refine keeps_mk ?_
    exact keeps_refl _ _

theorem keeps_tileSample : ∀ x0 s, Keeps [.out, .hif, .hdg, .lpl, .link, .rail, .thm, .rve, .yok,
    .eth, .mgt, .tst, .running, .maskQ] s (@tileSample x0 s) := by
  intro x0 s
  unfold tileSample
  dsimp only
  refine keeps_ite ?_ ?_
  · exact keeps_refl _ _
  · refine keeps_step (keeps_settleThermal _) rfl ?_
    refine keeps_step (keeps_entered _ _ _ _ _) rfl ?_
    refine keeps_mk ?_
    exact keeps_refl _ _

theorem keeps_execSensorSample : ∀ x0 x1 s, ∃ t, @execSensorSample x0 x1 s = .next t ∧ Keeps [.out,
    .hif, .hdg, .lpl, .link, .rail, .thm, .rve, .yok, .eth, .mgt, .tst, .running, .maskQ] s t := by
  intro x0 x1 s
  unfold execSensorSample
  refine ⟨_, rfl, ?_⟩
  refine keeps_whenS ?_ fun _ => ?_
  · exact keeps_refl _ _
  · refine keeps_dite (fun _ => ?_) fun _ => ?_
    · refine keeps_step (keeps_dieSample _ _ _) rfl ?_
      exact keeps_refl _ _
    · refine keeps_step (keeps_tileSample _ _) rfl ?_
      exact keeps_refl _ _

theorem keeps_tileReport : ∀ x0 x1 s, Keeps [.thm, .rve] s (@tileReport x0 x1 s) := by
  intro x0 x1 s
  unfold tileReport
  dsimp only
  refine keeps_ite ?_ ?_
  · refine keeps_step (keeps_raise _ _ _ _) rfl ?_
    refine keeps_mk ?_
    exact keeps_refl _ _
  · refine keeps_mk ?_
    exact keeps_refl _ _

theorem keeps_execTileTempStale : ∀ x0 s, ∃ t, @execTileTempStale x0 s = .next t ∧ Keeps [.out,
    .hif, .hdg, .lpl, .link, .rail, .thm, .rve, .yok, .eth, .mgt, .tst, .running, .maskQ] s t := by
  intro x0 s
  unfold execTileTempStale
  refine ⟨_, rfl, ?_⟩
  refine keeps_whenS ?_ fun _ => ?_
  · exact keeps_refl _ _
  · refine keeps_step (keeps_settleThermal _) rfl ?_
    refine keeps_mk ?_
    exact keeps_refl _ _

theorem keeps_execThrottleStep : ∀ x0 s, ∃ t, @execThrottleStep x0 s = .next t ∧ Keeps [.thm] s t :=
    by
  intro x0 s
  unfold execThrottleStep
  refine ⟨_, rfl, ?_⟩
  refine keeps_whenS ?_ fun _ => ?_
  · exact keeps_refl _ _
  · refine keeps_step (keeps_modClass _ _ _) rfl ?_
    exact keeps_refl _ _

theorem keeps_execThrottleHoldExpiry : ∀ x0 s, ∃ t, @execThrottleHoldExpiry x0 s = .next t ∧ Keeps
    [.thm] s t := by
  intro x0 s
  unfold execThrottleHoldExpiry
  refine ⟨_, rfl, ?_⟩
  refine keeps_whenS ?_ fun _ => ?_
  · exact keeps_refl _ _
  · refine keeps_step (keeps_modClass _ _ _) rfl ?_
    exact keeps_refl _ _

theorem keeps_execCalMaxTimer : ∀ s, ∃ t, @execCalMaxTimer s = .next t ∧ Keeps [.thm] s t := by
  intro s
  unfold execCalMaxTimer
  refine ⟨_, rfl, ?_⟩
  refine keeps_whenS ?_ fun _ => ?_
  · exact keeps_refl _ _
  · refine keeps_step (keeps_triggerCal _) rfl ?_
    exact keeps_refl _ _

theorem keeps_execDieBridgeLoss : ∀ s, ∃ t, @execDieBridgeLoss s = .next t ∧ Keeps [.out, .hif,
    .hdg, .lpl, .link, .rail, .pwr, .thm, .rve, .yok, .eth, .mgt, .tst, .running, .maskQ] s t := by
  intro s
  unfold execDieBridgeLoss
  refine ⟨_, rfl, ?_⟩
  refine keeps_whenS ?_ fun _ => ?_
  · exact keeps_refl _ _
  · dsimp only
    refine keeps_step (keeps_settleRails _) rfl ?_
    refine keeps_step (keeps_settleThermal _) rfl ?_
    refine keeps_foldl ?_ fun _ _ _ => ?_
    · refine keeps_step (keeps_raise _ _ _ _) rfl ?_
      refine keeps_mk ?_
      exact keeps_refl _ _
    · refine keeps_step (keeps_breakSensor _ _ _) rfl ?_
      assumption

theorem keeps_execDieBridgeRestored : ∀ s, ∃ t, @execDieBridgeRestored s = .next t ∧ Keeps [.out,
    .hif, .hdg, .lpl, .link, .rail, .pwr, .thm, .rve, .yok, .eth, .mgt, .tst, .running, .maskQ] s t
    := by
  intro s
  unfold execDieBridgeRestored
  refine ⟨_, rfl, ?_⟩
  refine keeps_whenS ?_ fun _ => ?_
  · exact keeps_refl _ _
  · dsimp only
    refine keeps_step (keeps_settleRails _) rfl ?_
    refine keeps_step (keeps_settleThermal _) rfl ?_
    refine keeps_mk ?_
    exact keeps_refl _ _

theorem keeps_execThmCntClearCount : ∀ s, ∃ t, @execThmCntClearCount s = .next t ∧ Keeps [.thm] s t
    := by
  intro s
  unfold execThmCntClearCount
  refine ⟨_, rfl, ?_⟩
  refine keeps_whenS ?_ fun _ => ?_
  · exact keeps_refl _ _
  · refine keeps_mk ?_
    exact keeps_refl _ _

theorem keeps_refast : ∀ x0 s, Keeps [.thm] s (@refast x0 s) := by
  intro x0 s
  unfold refast
  dsimp only
  refine keeps_mk ?_
  exact keeps_refl _ _

theorem keeps_thermalBody : BodyKeeps [.out, .hif, .hdg, .lpl, .link, .rail, .thm, .rve, .yok, .eth,
    .mgt, .tst, .running, .maskQ] thermalBody := by
  refine ⟨fun c s => ?_, fun c st s => ?_⟩
  · unfold thermalBody
    dsimp only
    refine keeps_step (keeps_finishOk _ _) rfl ?_
    split
    · refine keeps_step (keeps_refast _ _) rfl ?_
      refine keeps_step (keeps_modClass _ _ _) rfl ?_
      exact keeps_refl _ _
    · refine keeps_step (keeps_settleThermal _) rfl ?_
      refine keeps_step (keeps_modClass _ _ _) rfl ?_
      exact keeps_refl _ _
    · refine keeps_step (keeps_settleThermal _) rfl ?_
      refine keeps_mk ?_
      exact keeps_refl _ _
    · refine keeps_mk ?_
      exact keeps_refl _ _
  · unfold thermalBody
    dsimp only
    exact keeps_refl _ _

theorem keeps_calRunBody : BodyKeeps [.thm] calRunBody := by
  refine ⟨fun c s => ?_, fun c st s => ?_⟩
  · unfold calRunBody
    dsimp only
    refine keeps_step (keeps_startCal _ _ _) rfl ?_
    exact keeps_refl _ _
  · unfold calRunBody
    dsimp only
    exact keeps_refl _ _

theorem keeps_execThermalSet : ∀ x0 x1 s, ∃ t, @execThermalSet x0 x1 s = .next t ∧ Keeps [.out,
    .hif, .hdg, .lpl, .link, .rail, .thm, .rve, .yok, .eth, .mgt, .tst, .running, .nextSer, .maskQ]
    s t := by
  intro x0 x1 s
  unfold execThermalSet
  refine ⟨_, rfl, ?_⟩
  refine keeps_runRow rfl rfl keeps_thermalBody ?_
  exact keeps_refl _ _

theorem keeps_execCalRun : ∀ x0 x1 s, ∃ t, @execCalRun x0 x1 s = .next t ∧ Keeps [.hif, .thm, .rve,
    .yok, .eth, .mgt, .running, .nextSer, .maskQ] s t := by
  intro x0 x1 s
  unfold execCalRun
  refine ⟨_, rfl, ?_⟩
  refine keeps_runRow rfl rfl keeps_calRunBody ?_
  exact keeps_refl _ _

end Sys2Proof.Laws
end

