-- ==== Sys2Proof/Laws/KeepProtocol.lean ====
section
/-!
SUPPORT. Which parts of the state the operations of Protocol.lean leave alone.
-/

namespace Sys2Proof.Laws

-- Each proof is checked before the next begins: hundreds at once would ask for a thread each.
set_option Elab.async false
set_option linter.all false

open Sys2Proof Sys2Proof.Machine Sys2Proof.Safety

theorem keeps_badUp : ∀ x0 s, Keeps [.link, .rve, .yok] s (@badUp x0 s) := by
  intro x0 s
  unfold badUp
  dsimp only
  refine keeps_ite ?_ ?_
  · refine keeps_step (keeps_modLane _ _ _) rfl ?_
    exact keeps_refl _ _
  · refine keeps_step (keeps_linkEvent _ _ _ _ _) rfl ?_
    refine keeps_step (keeps_modLane _ _ _) rfl ?_
    exact keeps_refl _ _

theorem keeps_withPkt {l : List Zone} {s t : State} {n : Fin 24} {kind : Nat} {p : Nat → Bool}
    {b : List Byte} {eop : Bool} {f : UpPkt → State → State} (j : sub [.link, .rve, .yok] l = true) (h : Keeps l s t)
    (k : ∀ x, Keeps l s (f x t)) : Keeps l s (withPkt n kind p b eop f t) := by
  unfold withPkt
  split
  · exact h
  · split
    · exact keeps_step (keeps_badUp _ _) j h
    · split
      · exact k _
      · exact h

theorem keeps_helloAnswer : ∀ x0 x1 x2 x3 s, Keeps [.out, .hif, .link, .rve, .yok, .eth, .mgt, .tst,
    .running, .maskQ] s (@helloAnswer x0 x1 x2 x3 s) := by
  intro x0 x1 x2 x3 s
  unfold helloAnswer
  dsimp only
  refine keeps_ite ?_ ?_
  · refine keeps_ite ?_ ?_
    · refine keeps_step (keeps_endEnumerate _ _ _) rfl ?_
      exact keeps_refl _ _
    · refine keeps_step (keeps_dropAssign _ _) rfl ?_
      exact keeps_refl _ _
  · refine keeps_ite ?_ ?_
    · refine keeps_step (keeps_sendCtl _ _ _ _ _ _ _) rfl ?_
      refine keeps_step (keeps_modLane _ _ _) rfl ?_
      exact keeps_refl _ _
    · refine keeps_step (keeps_modLane _ _ _) rfl ?_
      exact keeps_refl _ _

theorem keeps_slotTaken : ∀ x0 x1 x2 s, Keeps [.out, .hif, .link, .rve, .yok, .eth, .mgt, .tst,
    .running, .maskQ] s (@slotTaken x0 x1 x2 s) := by
  intro x0 x1 x2 s
  unfold slotTaken
  dsimp only
  refine keeps_ite ?_ ?_
  · refine keeps_ite ?_ ?_
    · refine keeps_step (keeps_endEnumerate _ _ _) rfl ?_
      refine keeps_foldl ?_ fun _ _ _ => ?_
      · refine keeps_step (keeps_modSlot _ _ _) rfl ?_
        refine keeps_step (keeps_modLane _ _ _) rfl ?_
        exact keeps_refl _ _
      · refine keeps_step (keeps_sendCtl _ _ _ _ _ _ _) rfl ?_
        assumption
    · refine keeps_step (keeps_askSlot _ _ _) rfl ?_
      refine keeps_foldl ?_ fun _ _ _ => ?_
      · refine keeps_step (keeps_modSlot _ _ _) rfl ?_
        refine keeps_step (keeps_modLane _ _ _) rfl ?_
        exact keeps_refl _ _
      · refine keeps_step (keeps_sendCtl _ _ _ _ _ _ _) rfl ?_
        assumption
  · refine keeps_step (keeps_modLane _ _ _) rfl ?_
    refine keeps_foldl ?_ fun _ _ _ => ?_
    · refine keeps_step (keeps_modSlot _ _ _) rfl ?_
      refine keeps_step (keeps_modLane _ _ _) rfl ?_
      exact keeps_refl _ _
    · refine keeps_step (keeps_sendCtl _ _ _ _ _ _ _) rfl ?_
      assumption

theorem keeps_answered : ∀ x0 x1 x2 x3 s, Keeps [.free, .out, .hif, .lpl, .link, .pxh, .thm, .rve,
    .yok, .eth, .mgt, .tst, .running, .maskQ] s (@answered x0 x1 x2 x3 s) := by
  intro x0 x1 x2 x3 s
  unfold answered
  dsimp only
  refine keeps_ite ?_ ?_
  · refine keeps_ite ?_ ?_
    · refine keeps_step (keeps_slotTaken _ _ _ _) rfl ?_
      exact keeps_refl _ _
    · exact keeps_refl _ _
  · refine keeps_ite ?_ ?_
    · refine keeps_step (keeps_clearDone _ _ _ _) rfl ?_
      exact keeps_refl _ _
    · refine keeps_ite ?_ ?_
      · exact keeps_refl _ _
      · refine keeps_ite ?_ ?_
        · refine keeps_step (keeps_modSlot _ _ _) rfl ?_
          exact keeps_refl _ _
        · refine keeps_ite ?_ ?_
          · refine keeps_ite ?_ ?_
            · refine keeps_step (keeps_checkSerial _ _) rfl ?_
              refine keeps_step (keeps_modSlot _ _ _) rfl ?_
              exact keeps_refl _ _
            · refine keeps_step (keeps_modSlot _ _ _) rfl ?_
              exact keeps_refl _ _
          · refine keeps_ite ?_ ?_
            · refine keeps_step (keeps_modSlot _ _ _) rfl ?_
              exact keeps_refl _ _
            · refine keeps_ite ?_ ?_
              · refine keeps_ite ?_ ?_
                · refine keeps_step (keeps_judgeCheck _ _) rfl ?_
                  refine keeps_step (keeps_modLane _ _ _) rfl ?_
                  exact keeps_refl _ _
                · refine keeps_step (keeps_modLane _ _ _) rfl ?_
                  exact keeps_refl _ _
              · exact keeps_refl _ _

theorem keeps_takeRdr : ∀ x0 x1 s, Keeps [.free, .out, .hif, .lpl, .link, .pxh, .thm, .rve, .yok,
    .eth, .mgt, .tst, .running, .maskQ] s (@takeRdr x0 x1 s) := by
  intro x0 x1 s
  unfold takeRdr
  dsimp only
  refine keeps_ite ?_ ?_
  · split
    · refine keeps_ite ?_ ?_
      · refine keeps_step (keeps_helloAnswer _ _ _ _ _) rfl ?_
        exact keeps_refl _ _
      · exact keeps_refl _ _
    · exact keeps_refl _ _
  · split
    · exact keeps_refl _ _
    · refine keeps_step (keeps_answered _ _ _ _ _) rfl ?_
      refine keeps_step (keeps_modLane _ _ _) rfl ?_
      exact keeps_refl _ _

theorem keeps_execRdrReceived : ∀ x0 x1 x2 s, ∃ t, @execRdrReceived x0 x1 x2 s = .next t ∧ Keeps
    [.free, .out, .hif, .lpl, .link, .pxh, .thm, .rve, .yok, .eth, .mgt, .tst, .running, .maskQ] s t
    := by
  intro x0 x1 x2 s
  unfold execRdrReceived
  refine ⟨_, rfl, ?_⟩
  refine keeps_withPkt rfl ?_ fun _ => ?_
  · exact keeps_refl _ _
  · refine keeps_step (keeps_takeRdr _ _ _) rfl ?_
    exact keeps_refl _ _

theorem keeps_repeatCtl : ∀ x0 x1 s, Keeps [.out, .link, .yok] s (@repeatCtl x0 x1 s) := by
  intro x0 x1 s
  unfold repeatCtl
  dsimp only
  refine keeps_ite ?_ ?_
  · refine keeps_step (keeps_sendReq _ _ _) rfl ?_
    refine keeps_step (keeps_modLane _ _ _) rfl ?_
    exact keeps_refl _ _
  · refine keeps_step (keeps_modLane _ _ _) rfl ?_
    exact keeps_refl _ _

theorem keeps_ctlFails : ∀ x0 x1 s, Keeps [.hif, .lpl, .link, .pxh, .rve, .yok, .eth, .mgt,
    .running, .maskQ] s (@ctlFails x0 x1 s) := by
  intro x0 x1 s
  unfold ctlFails
  dsimp only
  refine keeps_ite ?_ ?_
  · refine keeps_step (keeps_clearDone _ _ _ _) rfl ?_
    refine keeps_step (keeps_linkEvent _ _ _ _ _) rfl ?_
    refine keeps_step (keeps_modLane _ _ _) rfl ?_
    exact keeps_refl _ _
  · refine keeps_step (keeps_linkEvent _ _ _ _ _) rfl ?_
    refine keeps_step (keeps_modLane _ _ _) rfl ?_
    exact keeps_refl _ _

theorem keeps_execControlRequestRetry : ∀ x0 s, ∃ t, @execControlRequestRetry x0 s = .next t ∧ Keeps
    [.out, .hif, .lpl, .link, .pxh, .rve, .yok, .eth, .mgt, .running, .maskQ] s t := by
  intro x0 s
  unfold execControlRequestRetry
  refine ⟨_, rfl, ?_⟩
  split
  · exact keeps_refl _ _
  · refine keeps_ite ?_ ?_
    · refine keeps_step (keeps_repeatCtl _ _ _) rfl ?_
      exact keeps_refl _ _
    · refine keeps_step (keeps_ctlFails _ _ _) rfl ?_
      exact keeps_refl _ _

theorem keeps_countRefusal : ∀ x0 x1 x2 s, Keeps [.out, .lpl, .link, .pxh, .rve, .yok] s
    (@countRefusal x0 x1 x2 s) := by
  intro x0 x1 x2 s
  unfold countRefusal
  dsimp only
  refine keeps_ite ?_ ?_
  · refine keeps_step (keeps_modLane _ _ _) rfl ?_
    exact keeps_refl _ _
  · refine keeps_ite ?_ ?_
    · refine keeps_step (keeps_retrain _ _ _) rfl ?_
      refine keeps_step (keeps_modSlot _ _ _) rfl ?_
      refine keeps_step (keeps_modLane _ _ _) rfl ?_
      exact keeps_refl _ _
    · refine keeps_step (keeps_modSlot _ _ _) rfl ?_
      refine keeps_step (keeps_modLane _ _ _) rfl ?_
      exact keeps_refl _ _

theorem keeps_takeTe : ∀ x0 x1 x2 x3 s, Keeps [.out, .hdg, .lpl, .link, .pxh, .rve, .yok] s (@takeTe
    x0 x1 x2 x3 s) := by
  intro x0 x1 x2 x3 s
  unfold takeTe
  dsimp only
  split
  · refine keeps_ite ?_ ?_
    · refine keeps_ite ?_ ?_
      · refine keeps_mk ?_
        refine keeps_ite ?_ ?_
        · refine keeps_step (keeps_countRefusal _ _ _ _) rfl ?_
          exact keeps_refl _ _
        · exact keeps_refl _ _
      · refine keeps_ite ?_ ?_
        · refine keeps_step (keeps_countRefusal _ _ _ _) rfl ?_
          exact keeps_refl _ _
        · exact keeps_refl _ _
    · refine keeps_step (keeps_takeEcho _ _ _) rfl ?_
      refine keeps_ite ?_ ?_
      · refine keeps_mk ?_
        refine keeps_ite ?_ ?_
        · refine keeps_step (keeps_countRefusal _ _ _ _) rfl ?_
          exact keeps_refl _ _
        · exact keeps_refl _ _
      · refine keeps_ite ?_ ?_
        · refine keeps_step (keeps_countRefusal _ _ _ _) rfl ?_
          exact keeps_refl _ _
        · exact keeps_refl _ _
  · refine keeps_ite ?_ ?_
    · refine keeps_ite ?_ ?_
      · refine keeps_mk ?_
        refine keeps_ite ?_ ?_
        · refine keeps_ite ?_ ?_
          · refine keeps_mk ?_
            refine keeps_ite ?_ ?_
            · refine keeps_step (keeps_countRefusal _ _ _ _) rfl ?_
              exact keeps_refl _ _
            · exact keeps_refl _ _
          · refine keeps_ite ?_ ?_
            · refine keeps_step (keeps_countRefusal _ _ _ _) rfl ?_
              exact keeps_refl _ _
            · exact keeps_refl _ _
        · refine keeps_step (keeps_takeEcho _ _ _) rfl ?_
          refine keeps_ite ?_ ?_
          · refine keeps_mk ?_
            refine keeps_ite ?_ ?_
            · refine keeps_step (keeps_countRefusal _ _ _ _) rfl ?_
              exact keeps_refl _ _
            · exact keeps_refl _ _
          · refine keeps_ite ?_ ?_
            · refine keeps_step (keeps_countRefusal _ _ _ _) rfl ?_
              exact keeps_refl _ _
            · exact keeps_refl _ _
      · refine keeps_mk ?_
        refine keeps_ite ?_ ?_
        · refine keeps_ite ?_ ?_
          · refine keeps_mk ?_
            refine keeps_ite ?_ ?_
            · refine keeps_step (keeps_countRefusal _ _ _ _) rfl ?_
              exact keeps_refl _ _
            · exact keeps_refl _ _
          · refine keeps_ite ?_ ?_
            · refine keeps_step (keeps_countRefusal _ _ _ _) rfl ?_
              exact keeps_refl _ _
            · exact keeps_refl _ _
        · refine keeps_step (keeps_takeEcho _ _ _) rfl ?_
          refine keeps_ite ?_ ?_
          · refine keeps_mk ?_
            refine keeps_ite ?_ ?_
            · refine keeps_step (keeps_countRefusal _ _ _ _) rfl ?_
              exact keeps_refl _ _
            · exact keeps_refl _ _
          · refine keeps_ite ?_ ?_
            · refine keeps_step (keeps_countRefusal _ _ _ _) rfl ?_
              exact keeps_refl _ _
            · exact keeps_refl _ _
    · refine keeps_ite ?_ ?_
      · refine keeps_ite ?_ ?_
        · refine keeps_ite ?_ ?_
          · refine keeps_ite ?_ ?_
            · refine keeps_mk ?_
              refine keeps_ite ?_ ?_
              · refine keeps_step (keeps_countRefusal _ _ _ _) rfl ?_
                exact keeps_refl _ _
              · exact keeps_refl _ _
            · refine keeps_ite ?_ ?_
              · refine keeps_step (keeps_countRefusal _ _ _ _) rfl ?_
                exact keeps_refl _ _
              · exact keeps_refl _ _
          · refine keeps_step (keeps_takeEcho _ _ _) rfl ?_
            refine keeps_ite ?_ ?_
            · refine keeps_mk ?_
              refine keeps_ite ?_ ?_
              · refine keeps_step (keeps_countRefusal _ _ _ _) rfl ?_
                exact keeps_refl _ _
              · exact keeps_refl _ _
            · refine keeps_ite ?_ ?_
              · refine keeps_step (keeps_countRefusal _ _ _ _) rfl ?_
                exact keeps_refl _ _
              · exact keeps_refl _ _
        · refine keeps_ite ?_ ?_
          · refine keeps_step (keeps_raise _ _ _ _) rfl ?_
            refine keeps_mk ?_
            refine keeps_ite ?_ ?_
            · refine keeps_ite ?_ ?_
              · refine keeps_mk ?_
                refine keeps_ite ?_ ?_
                · refine keeps_step (keeps_countRefusal _ _ _ _) rfl ?_
                  exact keeps_refl _ _
                · exact keeps_refl _ _
              · refine keeps_ite ?_ ?_
                · refine keeps_step (keeps_countRefusal _ _ _ _) rfl ?_
                  exact keeps_refl _ _
                · exact keeps_refl _ _
            · refine keeps_step (keeps_takeEcho _ _ _) rfl ?_
              refine keeps_ite ?_ ?_
              · refine keeps_mk ?_
                refine keeps_ite ?_ ?_
                · refine keeps_step (keeps_countRefusal _ _ _ _) rfl ?_
                  exact keeps_refl _ _
                · exact keeps_refl _ _
              · refine keeps_ite ?_ ?_
                · refine keeps_step (keeps_countRefusal _ _ _ _) rfl ?_
                  exact keeps_refl _ _
                · exact keeps_refl _ _
          · refine keeps_mk ?_
            refine keeps_ite ?_ ?_
            · refine keeps_ite ?_ ?_
              · refine keeps_mk ?_
                refine keeps_ite ?_ ?_
                · refine keeps_step (keeps_countRefusal _ _ _ _) rfl ?_
                  exact keeps_refl _ _
                · exact keeps_refl _ _
              · refine keeps_ite ?_ ?_
                · refine keeps_step (keeps_countRefusal _ _ _ _) rfl ?_
                  exact keeps_refl _ _
                · exact keeps_refl _ _
            · refine keeps_step (keeps_takeEcho _ _ _) rfl ?_
              refine keeps_ite ?_ ?_
              · refine keeps_mk ?_
                refine keeps_ite ?_ ?_
                · refine keeps_step (keeps_countRefusal _ _ _ _) rfl ?_
                  exact keeps_refl _ _
                · exact keeps_refl _ _
              · refine keeps_ite ?_ ?_
                · refine keeps_step (keeps_countRefusal _ _ _ _) rfl ?_
                  exact keeps_refl _ _
                · exact keeps_refl _ _
      · refine keeps_ite ?_ ?_
        · refine keeps_ite ?_ ?_
          · refine keeps_mk ?_
            refine keeps_ite ?_ ?_
            · refine keeps_step (keeps_countRefusal _ _ _ _) rfl ?_
              exact keeps_refl _ _
            · exact keeps_refl _ _
          · refine keeps_ite ?_ ?_
            · refine keeps_step (keeps_countRefusal _ _ _ _) rfl ?_
              exact keeps_refl _ _
            · exact keeps_refl _ _
        · refine keeps_step (keeps_takeEcho _ _ _) rfl ?_
          refine keeps_ite ?_ ?_
          · refine keeps_mk ?_
            refine keeps_ite ?_ ?_
            · refine keeps_step (keeps_countRefusal _ _ _ _) rfl ?_
              exact keeps_refl _ _
            · exact keeps_refl _ _
          · refine keeps_ite ?_ ?_
            · refine keeps_step (keeps_countRefusal _ _ _ _) rfl ?_
              exact keeps_refl _ _
            · exact keeps_refl _ _

theorem keeps_execTeSequenceReceived : ∀ x0 x1 x2 x3 x4 s, ∃ t, @execTeSequenceReceived x0 x1 x2 x3
    x4 s = .next t ∧ Keeps [.out, .hdg, .lpl, .link, .pxh, .rve, .yok] s t := by
  intro x0 x1 x2 x3 x4 s
  unfold execTeSequenceReceived
  refine ⟨_, rfl, ?_⟩
  refine keeps_whenS ?_ fun _ => ?_
  · exact keeps_refl _ _
  · refine keeps_step (keeps_takeTe _ _ _ _ _) rfl ?_
    exact keeps_refl _ _

theorem keeps_takeNak : ∀ x0 x1 s, Keeps [.link, .rve, .yok] s (@takeNak x0 x1 s) := by
  intro x0 x1 s
  unfold takeNak
  dsimp only
  refine keeps_ite ?_ ?_
  · refine keeps_step (keeps_linkEvent _ _ _ _ _) rfl ?_
    refine keeps_step (keeps_modSlot _ _ _) rfl ?_
    refine keeps_step (keeps_modLane _ _ _) rfl ?_
    refine keeps_step (keeps_modLane _ _ _) rfl ?_
    exact keeps_refl _ _
  · refine keeps_step (keeps_modLane _ _ _) rfl ?_
    exact keeps_refl _ _

theorem keeps_execNakReceived : ∀ x0 x1 x2 s, ∃ t, @execNakReceived x0 x1 x2 s = .next t ∧ Keeps
    [.link, .rve, .yok] s t := by
  intro x0 x1 x2 s
  unfold execNakReceived
  refine ⟨_, rfl, ?_⟩
  refine keeps_withPkt rfl ?_ fun _ => ?_
  · exact keeps_refl _ _
  · refine keeps_step (keeps_takeNak _ _ _) rfl ?_
    exact keeps_refl _ _

theorem keeps_takeStatus : ∀ x0 x1 s, Keeps [.out, .hif, .hdg, .lpl, .link, .pxh, .rail, .thm, .rve,
    .yok, .eth, .mgt, .tst, .running, .maskQ] s (@takeStatus x0 x1 s) := by
  intro x0 x1 s
  unfold takeStatus
  dsimp only
  refine keeps_ite ?_ ?_
  · exact keeps_refl _ _
  · refine keeps_ite ?_ ?_
    · refine keeps_step (keeps_tileCounts _ _ _) rfl ?_
      refine keeps_step (keeps_settleThermal _) rfl ?_
      refine keeps_ite ?_ ?_
      · refine keeps_ite ?_ ?_
        · refine keeps_step (keeps_includeSlot _ _ _) rfl ?_
          refine keeps_step (keeps_modSlot _ _ _) rfl ?_
          refine keeps_ite ?_ ?_
          · refine keeps_step (keeps_tileReport _ _ _) rfl ?_
            refine keeps_step (keeps_checkTiles _) rfl ?_
            refine keeps_mk ?_
            refine keeps_step (keeps_modSlot _ _ _) rfl ?_
            exact keeps_refl _ _
          · refine keeps_step (keeps_checkTiles _) rfl ?_
            refine keeps_mk ?_
            refine keeps_step (keeps_modSlot _ _ _) rfl ?_
            exact keeps_refl _ _
        · refine keeps_step (keeps_modSlot _ _ _) rfl ?_
          refine keeps_ite ?_ ?_
          · refine keeps_step (keeps_tileReport _ _ _) rfl ?_
            refine keeps_step (keeps_checkTiles _) rfl ?_
            refine keeps_mk ?_
            refine keeps_step (keeps_modSlot _ _ _) rfl ?_
            exact keeps_refl _ _
          · refine keeps_step (keeps_checkTiles _) rfl ?_
            refine keeps_mk ?_
            refine keeps_step (keeps_modSlot _ _ _) rfl ?_
            exact keeps_refl _ _
      · refine keeps_ite ?_ ?_
        · refine keeps_step (keeps_tileReport _ _ _) rfl ?_
          refine keeps_step (keeps_checkTiles _) rfl ?_
          refine keeps_mk ?_
          refine keeps_step (keeps_modSlot _ _ _) rfl ?_
          exact keeps_refl _ _
        · refine keeps_step (keeps_checkTiles _) rfl ?_
          refine keeps_mk ?_
          refine keeps_step (keeps_modSlot _ _ _) rfl ?_
          exact keeps_refl _ _
    · refine keeps_ite ?_ ?_
      · refine keeps_ite ?_ ?_
        · refine keeps_step (keeps_includeSlot _ _ _) rfl ?_
          refine keeps_step (keeps_modSlot _ _ _) rfl ?_
          refine keeps_ite ?_ ?_
          · refine keeps_step (keeps_tileReport _ _ _) rfl ?_
            refine keeps_step (keeps_checkTiles _) rfl ?_
            refine keeps_mk ?_
            refine keeps_step (keeps_modSlot _ _ _) rfl ?_
            exact keeps_refl _ _
          · refine keeps_step (keeps_checkTiles _) rfl ?_
            refine keeps_mk ?_
            refine keeps_step (keeps_modSlot _ _ _) rfl ?_
            exact keeps_refl _ _
        · refine keeps_step (keeps_modSlot _ _ _) rfl ?_
          refine keeps_ite ?_ ?_
          · refine keeps_step (keeps_tileReport _ _ _) rfl ?_
            refine keeps_step (keeps_checkTiles _) rfl ?_
            refine keeps_mk ?_
            refine keeps_step (keeps_modSlot _ _ _) rfl ?_
            exact keeps_refl _ _
          · refine keeps_step (keeps_checkTiles _) rfl ?_
            refine keeps_mk ?_
            refine keeps_step (keeps_modSlot _ _ _) rfl ?_
            exact keeps_refl _ _
      · refine keeps_ite ?_ ?_
        · refine keeps_step (keeps_tileReport _ _ _) rfl ?_
          refine keeps_step (keeps_checkTiles _) rfl ?_
          refine keeps_mk ?_
          refine keeps_step (keeps_modSlot _ _ _) rfl ?_
          exact keeps_refl _ _
        · refine keeps_step (keeps_checkTiles _) rfl ?_
          refine keeps_mk ?_
          refine keeps_step (keeps_modSlot _ _ _) rfl ?_
          exact keeps_refl _ _

theorem keeps_execTelStatusReceived : ∀ x0 x1 x2 s, ∃ t, @execTelStatusReceived x0 x1 x2 s = .next t
    ∧ Keeps [.out, .hif, .hdg, .lpl, .link, .pxh, .rail, .thm, .rve, .yok, .eth, .mgt, .tst,
    .running, .maskQ] s t := by
  intro x0 x1 x2 s
  unfold execTelStatusReceived
  refine ⟨_, rfl, ?_⟩
  refine keeps_withPkt rfl ?_ fun _ => ?_
  · exact keeps_refl _ _
  · refine keeps_step (keeps_takeStatus _ _ _) rfl ?_
    exact keeps_refl _ _

theorem keeps_takePixels : ∀ x0 x1 x2 s, Keeps [.pho, .pxh, .rve] s (@takePixels x0 x1 x2 s) := by
  intro x0 x1 x2 s
  unfold takePixels
  dsimp only
  refine keeps_ite ?_ ?_
  · exact keeps_refl _ _
  · refine keeps_foldl ?_ fun _ _ _ => ?_
    · exact keeps_refl _ _
    · refine keeps_step (keeps_pixelSample _ _ _) rfl ?_
      refine keeps_ite ?_ ?_
      · refine keeps_step (keeps_storeParity _ _) rfl ?_
        assumption
      · assumption

theorem keeps_execTelPixelReceived : ∀ x0 x1 x2 x3 s, ∃ t, @execTelPixelReceived x0 x1 x2 x3 s =
    .next t ∧ Keeps [.pho, .link, .pxh, .rve, .yok] s t := by
  intro x0 x1 x2 x3 s
  unfold execTelPixelReceived
  refine ⟨_, rfl, ?_⟩
  refine keeps_withPkt rfl ?_ fun _ => ?_
  · exact keeps_refl _ _
  · refine keeps_step (keeps_takePixels _ _ _ _) rfl ?_
    exact keeps_refl _ _

theorem keeps_execSlotIncludeTimeout : ∀ x0 s, ∃ t, @execSlotIncludeTimeout x0 s = .next t ∧ Keeps
    [.out, .link, .yok] s t := by
  intro x0 s
  unfold execSlotIncludeTimeout
  dsimp only
  refine ⟨_, rfl, ?_⟩
  refine keeps_whenS ?_ fun _ => ?_
  · exact keeps_refl _ _
  · refine keeps_step (keeps_modLane _ _ _) rfl ?_
    refine keeps_step (keeps_sendCtl _ _ _ _ _ _ _) rfl ?_
    exact keeps_refl _ _

theorem keeps_execSlotSilentTimeout : ∀ x0 s, ∃ t, @execSlotSilentTimeout x0 s = .next t ∧ Keeps
    [.out, .lpl, .link, .pxh, .rve, .yok] s t := by
  intro x0 s
  unfold execSlotSilentTimeout
  dsimp only
  refine ⟨_, rfl, ?_⟩
  refine keeps_whenS ?_ fun _ => ?_
  · exact keeps_refl _ _
  · refine keeps_step (keeps_retrain _ _ _) rfl ?_
    refine keeps_step (keeps_linkEvent _ _ _ _ _) rfl ?_
    exact keeps_refl _ _

theorem keeps_execXlkCntClearCtl : ∀ s, ∃ t, @execXlkCntClearCtl s = .next t ∧ Keeps [.link] s t :=
    by
  intro s
  unfold execXlkCntClearCtl
  refine ⟨_, rfl, ?_⟩
  refine keeps_whenS ?_ fun _ => ?_
  · exact keeps_refl _ _
  · refine keeps_mk ?_
    exact keeps_refl _ _

theorem keeps_execXlkCntClearLat : ∀ s, ∃ t, @execXlkCntClearLat s = .next t ∧ Keeps [.link] s t :=
    by
  intro s
  unfold execXlkCntClearLat
  refine ⟨_, rfl, ?_⟩
  refine keeps_whenS ?_ fun _ => ?_
  · exact keeps_refl _ _
  · refine keeps_mk ?_
    exact keeps_refl _ _

theorem keeps_execXlkCntClearCnt : ∀ s, ∃ t, @execXlkCntClearCnt s = .next t ∧ Keeps [.link] s t :=
    by
  intro s
  unfold execXlkCntClearCnt
  refine ⟨_, rfl, ?_⟩
  refine keeps_whenS ?_ fun _ => ?_
  · exact keeps_refl _ _
  · refine keeps_mk ?_
    exact keeps_refl _ _

theorem keeps_readLine : ∀ x0 s, Keeps [.free, .grn, .rve] s (@readLine x0 s).2 := by
  intro x0 s
  unfold readLine
  refine keeps_foldl2 ?_ fun _ _ _ => ?_
  · dsimp only
    exact keeps_refl _ _
  · dsimp only
    refine keeps_step (keeps_readWord _ _ _ _) rfl ?_
    assumption

theorem keeps_lineFails : ∀ x0 x1 x2 x3 s, Keeps [.lpl, .rve] s (@lineFails x0 x1 x2 x3 s) := by
  intro x0 x1 x2 x3 s
  unfold lineFails
  refine keeps_step (keeps_raise _ _ _ _) rfl ?_
  refine keeps_mk ?_
  exact keeps_refl _ _

theorem keeps_sendPix : ∀ x0 x1 x2 x3 s, Keeps [.out, .hif, .lpl, .link, .rve, .yok, .eth, .mgt,
    .tst, .running, .maskQ] s (@sendPix x0 x1 x2 x3 s) := by
  intro x0 x1 x2 x3 s
  unfold sendPix
  dsimp only
  split
  · refine keeps_step (keeps_endRun _ _ _ _) rfl ?_
    refine keeps_mk ?_
    refine keeps_step (keeps_sendLane _ _ _) rfl ?_
    refine keeps_mk ?_
    exact keeps_refl _ _
  · refine keeps_step (keeps_sendLane _ _ _) rfl ?_
    refine keeps_mk ?_
    exact keeps_refl _ _

theorem keeps_execPixSend : ∀ x0 x1 s, ∃ t, @execPixSend x0 x1 s = .next t ∧ Keeps [.free, .out,
    .hif, .grn, .lpl, .link, .rve, .yok, .eth, .mgt, .tst, .running, .maskQ] s t := by
  intro x0 x1 s
  unfold execPixSend
  refine ⟨_, rfl, ?_⟩
  refine keeps_whenS ?_ fun _ => ?_
  · exact keeps_refl _ _
  · split
    · split
      · refine keeps_mk ?_
        exact keeps_refl _ _
      · dsimp only
        refine keeps_ite ?_ ?_
        · refine keeps_step (keeps_lineFails _ _ _ _ _) rfl ?_
          refine keeps_ite ?_ ?_
          · refine keeps_step (keeps_lineFails _ _ _ _ _) rfl ?_
            refine keeps_step (keeps_sendPix _ _ _ _ _) rfl ?_
            refine keeps_ite ?_ ?_
            · refine keeps_step (keeps_readLine _ _) rfl ?_
              refine keeps_step (keeps_readLine _ _) rfl ?_
              exact keeps_refl _ _
            · refine keeps_mk ?_
              refine keeps_step (keeps_readLine _ _) rfl ?_
              refine keeps_step (keeps_readLine _ _) rfl ?_
              exact keeps_refl _ _
          · refine keeps_step (keeps_sendPix _ _ _ _ _) rfl ?_
            refine keeps_ite ?_ ?_
            · refine keeps_step (keeps_readLine _ _) rfl ?_
              refine keeps_step (keeps_readLine _ _) rfl ?_
              exact keeps_refl _ _
            · refine keeps_mk ?_
              refine keeps_step (keeps_readLine _ _) rfl ?_
              refine keeps_step (keeps_readLine _ _) rfl ?_
              exact keeps_refl _ _
        · refine keeps_ite ?_ ?_
          · refine keeps_step (keeps_lineFails _ _ _ _ _) rfl ?_
            refine keeps_step (keeps_sendPix _ _ _ _ _) rfl ?_
            refine keeps_ite ?_ ?_
            · refine keeps_step (keeps_readLine _ _) rfl ?_
              refine keeps_step (keeps_readLine _ _) rfl ?_
              exact keeps_refl _ _
            · refine keeps_mk ?_
              refine keeps_step (keeps_readLine _ _) rfl ?_
              refine keeps_step (keeps_readLine _ _) rfl ?_
              exact keeps_refl _ _
          · refine keeps_step (keeps_sendPix _ _ _ _ _) rfl ?_
            refine keeps_ite ?_ ?_
            · refine keeps_step (keeps_readLine _ _) rfl ?_
              refine keeps_step (keeps_readLine _ _) rfl ?_
              exact keeps_refl _ _
            · refine keeps_mk ?_
              refine keeps_step (keeps_readLine _ _) rfl ?_
              refine keeps_step (keeps_readLine _ _) rfl ?_
              exact keeps_refl _ _
    · exact keeps_refl _ _

end Sys2Proof.Laws
end

