-- ==== Sys2Proof/Laws/KeepReeve.lean ====
section
/-!
SUPPORT. Which parts of the state the operations of Reeve.lean leave alone.
-/

namespace Sys2Proof.Laws

-- Each proof is checked before the next begins: hundreds at once would ask for a thread each.
set_option Elab.async false
set_option linter.all false

open Sys2Proof Sys2Proof.Machine Sys2Proof.Safety

theorem keeps_modGroup : ∀ x0 x1 x2 s, Keeps [.rve] s (@modGroup x0 x1 x2 s) := by
  intro x0 x1 x2 s
  unfold modGroup
  refine keeps_mk ?_
  exact keeps_refl _ _

theorem keeps_appendLog : ∀ x0 x1 s, Keeps [.rve] s (@appendLog x0 x1 s) := by
  intro x0 x1 s
  unfold appendLog
  dsimp only
  refine keeps_mk ?_
  exact keeps_refl _ _

theorem keeps_logEntry : ∀ x0 s, Keeps [.rve] s (@logEntry x0 s) := by
  intro x0 s
  unfold logEntry
  refine keeps_ite ?_ ?_
  · refine keeps_step (keeps_appendLog _ _ _) rfl ?_
    exact keeps_refl _ _
  · refine keeps_ite ?_ ?_
    · dsimp only
      refine keeps_mk ?_
      refine keeps_ite ?_ ?_
      · exact keeps_refl _ _
      · refine keeps_step (keeps_raise _ _ _ _) rfl ?_
        exact keeps_refl _ _
    · refine keeps_mk ?_
      exact keeps_refl _ _

theorem keeps_drainLog : ∀ s, Keeps [.rve] s (@drainLog s) := by
  intro s
  unfold drainLog
  refine keeps_foldl ?_ fun _ _ _ => ?_
  · exact keeps_refl _ _
  · split
    · assumption
    · refine keeps_ite ?_ ?_
      · refine keeps_step (keeps_appendLog _ _ _) rfl ?_
        refine keeps_mk ?_
        assumption
      · assumption

theorem keeps_reeveIrq : ∀ x0 s, Keeps [.out, .hif] s (@reeveIrq x0 s) := by
  intro x0 s
  unfold reeveIrq
  refine keeps_ite ?_ ?_
  · refine keeps_step (keeps_signalVec _ _) rfl ?_
    exact keeps_refl _ _
  · exact keeps_refl _ _

theorem keeps_injectDone : ∀ x0 x1 s, Keeps [.hif, .lpl, .rve, .yok, .eth, .mgt, .running, .maskQ] s
    (@injectDone x0 x1 s) := by
  intro x0 x1 s
  unfold injectDone
  split
  · exact keeps_refl _ _
  · split
    · exact keeps_refl _ _
    · dsimp only
      refine keeps_ite ?_ ?_
      · refine keeps_mk ?_
        exact keeps_refl _ _
      · refine keeps_step (keeps_finish _ _ _ _) rfl ?_
        refine keeps_mk ?_
        exact keeps_refl _ _

theorem keeps_entrySeq : ∀ s, Keeps [.free] s (@entrySeq s).2 := by
  intro s
  unfold entrySeq
  split
  · refine keeps_step (keeps_freshBits _ _) rfl ?_
    exact keeps_refl _ _
  · dsimp only
    exact keeps_refl _ _

theorem keeps_processEvent : ∀ x0 s, Keeps [.free, .out, .hif, .lpl, .rve, .yok, .eth, .mgt,
    .running, .maskQ] s (@processEvent x0 s) := by
  intro x0 s
  unfold processEvent
  dsimp only
  refine keeps_ite ?_ ?_
  · refine keeps_step (keeps_injectDone _ _ _) rfl ?_
    split
    · refine keeps_step (keeps_logEntry _ _) rfl ?_
      refine keeps_step (keeps_entrySeq _) rfl ?_
      refine keeps_step (keeps_modGroup _ _ _ _) rfl ?_
      exact keeps_refl _ _
    · refine keeps_step (keeps_reeveIrq _ _) rfl ?_
      refine keeps_mk ?_
      refine keeps_step (keeps_logEntry _ _) rfl ?_
      refine keeps_step (keeps_entrySeq _) rfl ?_
      refine keeps_step (keeps_modGroup _ _ _ _) rfl ?_
      exact keeps_refl _ _
    · refine keeps_step (keeps_reeveIrq _ _) rfl ?_
      refine keeps_ite ?_ ?_
      · refine keeps_mk ?_
        refine keeps_ite ?_ ?_
        · refine keeps_mk ?_
          refine keeps_step (keeps_logEntry _ _) rfl ?_
          refine keeps_step (keeps_entrySeq _) rfl ?_
          refine keeps_step (keeps_modGroup _ _ _ _) rfl ?_
          exact keeps_refl _ _
        · refine keeps_step (keeps_logEntry _ _) rfl ?_
          refine keeps_step (keeps_entrySeq _) rfl ?_
          refine keeps_step (keeps_modGroup _ _ _ _) rfl ?_
          exact keeps_refl _ _
      · refine keeps_ite ?_ ?_
        · refine keeps_mk ?_
          refine keeps_step (keeps_logEntry _ _) rfl ?_
          refine keeps_step (keeps_entrySeq _) rfl ?_
          refine keeps_step (keeps_modGroup _ _ _ _) rfl ?_
          exact keeps_refl _ _
        · refine keeps_step (keeps_logEntry _ _) rfl ?_
          refine keeps_step (keeps_entrySeq _) rfl ?_
          refine keeps_step (keeps_modGroup _ _ _ _) rfl ?_
          exact keeps_refl _ _
  · split
    · refine keeps_step (keeps_logEntry _ _) rfl ?_
      refine keeps_step (keeps_entrySeq _) rfl ?_
      refine keeps_step (keeps_modGroup _ _ _ _) rfl ?_
      exact keeps_refl _ _
    · refine keeps_step (keeps_reeveIrq _ _) rfl ?_
      refine keeps_mk ?_
      refine keeps_step (keeps_logEntry _ _) rfl ?_
      refine keeps_step (keeps_entrySeq _) rfl ?_
      refine keeps_step (keeps_modGroup _ _ _ _) rfl ?_
      exact keeps_refl _ _
    · refine keeps_step (keeps_reeveIrq _ _) rfl ?_
      refine keeps_ite ?_ ?_
      · refine keeps_mk ?_
        refine keeps_ite ?_ ?_
        · refine keeps_mk ?_
          refine keeps_step (keeps_logEntry _ _) rfl ?_
          refine keeps_step (keeps_entrySeq _) rfl ?_
          refine keeps_step (keeps_modGroup _ _ _ _) rfl ?_
          exact keeps_refl _ _
        · refine keeps_step (keeps_logEntry _ _) rfl ?_
          refine keeps_step (keeps_entrySeq _) rfl ?_
          refine keeps_step (keeps_modGroup _ _ _ _) rfl ?_
          exact keeps_refl _ _
      · refine keeps_ite ?_ ?_
        · refine keeps_mk ?_
          refine keeps_step (keeps_logEntry _ _) rfl ?_
          refine keeps_step (keeps_entrySeq _) rfl ?_
          refine keeps_step (keeps_modGroup _ _ _ _) rfl ?_
          exact keeps_refl _ _
        · refine keeps_step (keeps_logEntry _ _) rfl ?_
          refine keeps_step (keeps_entrySeq _) rfl ?_
          refine keeps_step (keeps_modGroup _ _ _ _) rfl ?_
          exact keeps_refl _ _

theorem keeps_execReeveEvent : ∀ s, ∃ t, @execReeveEvent s = .next t ∧ Keeps [.free, .out, .hif,
    .lpl, .rve, .yok, .eth, .mgt, .running, .maskQ] s t := by
  intro s
  unfold execReeveEvent
  refine ⟨_, rfl, ?_⟩
  split
  · exact keeps_refl _ _
  · refine keeps_step (keeps_processEvent _ _) rfl ?_
    refine keeps_mk ?_
    exact keeps_refl _ _

theorem keeps_execReeveRecovery : ∀ x0 x1 s, ∃ t, @execReeveRecovery x0 x1 s = .next t ∧ Keeps
    [.rve] s t := by
  intro x0 x1 s
  unfold execReeveRecovery
  dsimp only
  refine ⟨_, rfl, ?_⟩
  refine keeps_whenS ?_ fun _ => ?_
  · exact keeps_refl _ _
  · refine keeps_step (keeps_modGroup _ _ _ _) rfl ?_
    exact keeps_refl _ _

theorem keeps_execReeveHeartbeatLoss : ∀ s, ∃ t, @execReeveHeartbeatLoss s = .next t ∧ Keeps [.rve]
    s t := by
  intro s
  unfold execReeveHeartbeatLoss
  refine ⟨_, rfl, ?_⟩
  refine keeps_whenS ?_ fun _ => ?_
  · exact keeps_refl _ _
  · refine keeps_mk ?_
    exact keeps_refl _ _

theorem keeps_execReeveHeartbeatRestored : ∀ s, ∃ t, @execReeveHeartbeatRestored s = .next t ∧ Keeps
    [.rve] s t := by
  intro s
  unfold execReeveHeartbeatRestored
  refine ⟨_, rfl, ?_⟩
  refine keeps_whenS ?_ fun _ => ?_
  · exact keeps_refl _ _
  · refine keeps_mk ?_
    exact keeps_refl _ _

theorem keeps_execRveInjKeyWrite : ∀ x0 s, ∃ t, @execRveInjKeyWrite x0 s = .next t ∧ Keeps [.rve] s
    t := by
  intro x0 s
  unfold execRveInjKeyWrite
  refine ⟨_, rfl, ?_⟩
  refine keeps_whenS ?_ fun _ => ?_
  · exact keeps_refl _ _
  · refine keeps_mk ?_
    exact keeps_refl _ _

theorem keeps_execInjKeyExpiry : ∀ s, ∃ t, @execInjKeyExpiry s = .next t ∧ Keeps [.rve] s t := by
  intro s
  unfold execInjKeyExpiry
  refine ⟨_, rfl, ?_⟩
  refine keeps_mk ?_
  exact keeps_refl _ _

theorem keeps_execRveLockSet : ∀ s, ∃ t, @execRveLockSet s = .next t ∧ Keeps [.rve] s t := by
  intro s
  unfold execRveLockSet
  refine ⟨_, rfl, ?_⟩
  refine keeps_whenS ?_ fun _ => ?_
  · exact keeps_refl _ _
  · refine keeps_mk ?_
    exact keeps_refl _ _

theorem keeps_ackGroup : ∀ x0 x1 x2 s, Keeps [.rve] s (@ackGroup x0 x1 x2 s) := by
  intro x0 x1 x2 s
  unfold ackGroup
  dsimp only
  refine keeps_ite ?_ ?_
  · refine keeps_step (keeps_modGroup _ _ _ _) rfl ?_
    exact keeps_refl _ _
  · refine keeps_mk ?_
    refine keeps_step (keeps_modGroup _ _ _ _) rfl ?_
    refine keeps_step (keeps_modGroup _ _ _ _) rfl ?_
    exact keeps_refl _ _

theorem keeps_faultAckRun : ∀ x0 s, Keeps [.hif, .hdg, .lpl, .rve, .yok, .eth, .mgt, .running,
    .maskQ] s (@faultAckRun x0 s) := by
  intro x0 s
  unfold faultAckRun
  dsimp only
  refine keeps_step (keeps_finish _ _ _ _) rfl ?_
  refine keeps_ite ?_ ?_
  · refine keeps_mk ?_
    refine keeps_ite ?_ ?_
    · refine keeps_mk ?_
      refine keeps_ite ?_ ?_
      · refine keeps_step (keeps_ackHedge _) rfl ?_
        refine keeps_foldl ?_ fun _ _ _ => ?_
        · exact keeps_refl _ _
        · refine keeps_step (keeps_ackGroup _ _ _ _) rfl ?_
          assumption
      · refine keeps_foldl ?_ fun _ _ _ => ?_
        · exact keeps_refl _ _
        · refine keeps_step (keeps_ackGroup _ _ _ _) rfl ?_
          assumption
    · refine keeps_ite ?_ ?_
      · refine keeps_step (keeps_ackHedge _) rfl ?_
        refine keeps_foldl ?_ fun _ _ _ => ?_
        · exact keeps_refl _ _
        · refine keeps_step (keeps_ackGroup _ _ _ _) rfl ?_
          assumption
      · refine keeps_foldl ?_ fun _ _ _ => ?_
        · exact keeps_refl _ _
        · refine keeps_step (keeps_ackGroup _ _ _ _) rfl ?_
          assumption
  · refine keeps_ite ?_ ?_
    · refine keeps_mk ?_
      refine keeps_ite ?_ ?_
      · refine keeps_step (keeps_ackHedge _) rfl ?_
        refine keeps_foldl ?_ fun _ _ _ => ?_
        · exact keeps_refl _ _
        · refine keeps_step (keeps_ackGroup _ _ _ _) rfl ?_
          assumption
      · refine keeps_foldl ?_ fun _ _ _ => ?_
        · exact keeps_refl _ _
        · refine keeps_step (keeps_ackGroup _ _ _ _) rfl ?_
          assumption
    · refine keeps_ite ?_ ?_
      · refine keeps_step (keeps_ackHedge _) rfl ?_
        refine keeps_foldl ?_ fun _ _ _ => ?_
        · exact keeps_refl _ _
        · refine keeps_step (keeps_ackGroup _ _ _ _) rfl ?_
          assumption
      · refine keeps_foldl ?_ fun _ _ _ => ?_
        · exact keeps_refl _ _
        · refine keeps_step (keeps_ackGroup _ _ _ _) rfl ?_
          assumption

theorem keeps_faultAckBody : BodyKeeps [.hif, .hdg, .lpl, .rve, .yok, .eth, .mgt, .running, .maskQ]
    faultAckBody := by
  refine ⟨fun c s => ?_, fun c st s => ?_⟩
  · unfold faultAckBody
    dsimp only
    refine keeps_step (keeps_faultAckRun _ _) rfl ?_
    exact keeps_refl _ _
  · unfold faultAckBody
    dsimp only
    exact keeps_refl _ _

theorem keeps_faultReadBody : BodyKeeps [.free, .out, .hif, .dma, .hdg, .lpl, .rve, .yok, .eth,
    .mgt, .running, .maskQ, .jobs] faultReadBody := by
  refine ⟨fun c s => ?_, fun c st s => ?_⟩
  · unfold faultReadBody
    dsimp only
    split
    · refine keeps_step (keeps_finish _ _ _ _) rfl ?_
      exact keeps_refl _ _
    · refine keeps_step (keeps_finish _ _ _ _) rfl ?_
      exact keeps_refl _ _
    · refine keeps_step (keeps_finish _ _ _ _) rfl ?_
      exact keeps_refl _ _
    · split
      · refine keeps_step (keeps_finish _ _ _ _) rfl ?_
        exact keeps_refl _ _
      · refine keeps_step (keeps_askTransfer _ _) rfl ?_
        exact keeps_refl _ _
  · unfold faultReadBody
    dsimp only
    exact keeps_refl _ _

theorem keeps_injectBody : BodyKeeps [.rve] injectBody := by
  refine ⟨fun c s => ?_, fun c st s => ?_⟩
  · unfold injectBody
    dsimp only
    refine keeps_mk ?_
    exact keeps_refl _ _
  · unfold injectBody
    dsimp only
    refine keeps_ite ?_ ?_
    · refine keeps_step (keeps_raise _ _ _ _) rfl ?_
      refine keeps_mk ?_
      exact keeps_refl _ _
    · exact keeps_refl _ _

theorem keeps_execFaultAck : ∀ x0 x1 s, ∃ t, @execFaultAck x0 x1 s = .next t ∧ Keeps [.hif, .hdg,
    .lpl, .rve, .yok, .eth, .mgt, .running, .nextSer, .maskQ] s t := by
  intro x0 x1 s
  unfold execFaultAck
  refine ⟨_, rfl, ?_⟩
  refine keeps_runRow rfl rfl keeps_faultAckBody ?_
  exact keeps_refl _ _

theorem keeps_execFaultRead : ∀ x0 x1 s, ∃ t, @execFaultRead x0 x1 s = .next t ∧ Keeps [.free, .out,
    .hif, .dma, .hdg, .lpl, .rve, .yok, .eth, .mgt, .running, .nextSer, .maskQ, .jobs] s t := by
  intro x0 x1 s
  unfold execFaultRead
  refine ⟨_, rfl, ?_⟩
  refine keeps_runRow rfl rfl keeps_faultReadBody ?_
  exact keeps_refl _ _

theorem keeps_execDiagInject : ∀ x0 x1 s, ∃ t, @execDiagInject x0 x1 s = .next t ∧ Keeps [.hif,
    .rve, .yok, .eth, .mgt, .running, .nextSer, .maskQ] s t := by
  intro x0 x1 s
  unfold execDiagInject
  refine ⟨_, rfl, ?_⟩
  refine keeps_runRow rfl rfl keeps_injectBody ?_
  exact keeps_refl _ _

end Sys2Proof.Laws
end

