-- ==== Sys2Proof/Laws/KeepYoke.lean ====
section
/-!
SUPPORT. Which parts of the state the operations of Yoke.lean leave alone.
-/

namespace Sys2Proof.Laws

-- Each proof is checked before the next begins: hundreds at once would ask for a thread each.
set_option Elab.async false
set_option linter.all false

open Sys2Proof Sys2Proof.Machine Sys2Proof.Safety

theorem keeps_heard : ∀ s, Keeps [.yok] s (@heard s) := by
  intro s
  unfold heard
  refine keeps_mk ?_
  exact keeps_refl _ _

theorem keeps_execYokeQuietTime : ∀ s, ∃ t, @execYokeQuietTime s = .next t ∧ Keeps [.yok] s t := by
  intro s
  unfold execYokeQuietTime
  refine ⟨_, rfl, ?_⟩
  refine keeps_whenS ?_ fun _ => ?_
  · exact keeps_refl _ _
  · refine keeps_mk ?_
    exact keeps_refl _ _

theorem keeps_gainLine : ∀ s, Keeps [.free, .hif, .lpl, .rail, .rve, .yok, .eth, .mgt, .tst,
    .running, .maskQ] s (@gainLine s) := by
  intro s
  unfold gainLine
  dsimp only
  refine keeps_step (keeps_takeRails _) rfl ?_
  refine keeps_ite ?_ ?_
  · refine keeps_mk ?_
    exact keeps_refl _ _
  · refine keeps_ite ?_ ?_
    · refine keeps_step (keeps_yokeEvent _ _ _) rfl ?_
      refine keeps_mk ?_
      exact keeps_refl _ _
    · refine keeps_mk ?_
      exact keeps_refl _ _

theorem keeps_execYokeClaimSample : ∀ x0 s, ∃ t, @execYokeClaimSample x0 s = .next t ∧ Keeps [.free,
    .hif, .lpl, .rail, .rve, .yok, .eth, .mgt, .tst, .running, .maskQ] s t := by
  intro x0 s
  unfold execYokeClaimSample
  refine ⟨_, rfl, ?_⟩
  refine keeps_whenS ?_ fun _ => ?_
  · exact keeps_refl _ _
  · refine keeps_ite ?_ ?_
    · refine keeps_step (keeps_gainLine _) rfl ?_
      exact keeps_refl _ _
    · refine keeps_mk ?_
      exact keeps_refl _ _

theorem keeps_execYokeHolderCheck : ∀ x0 s, ∃ t, @execYokeHolderCheck x0 s = .next t ∧ Keeps [.hif,
    .hdg, .lpl, .link, .rail, .rve, .yok, .eth, .mgt, .tst, .running, .maskQ] s t := by
  intro x0 s
  unfold execYokeHolderCheck
  refine ⟨_, rfl, ?_⟩
  refine keeps_whenS ?_ fun _ => ?_
  · exact keeps_refl _ _
  · refine keeps_step (keeps_yokeEvent _ _ _) rfl ?_
    dsimp only
    refine keeps_mk ?_
    refine keeps_step (keeps_releaseLine _ _) rfl ?_
    refine keeps_mk ?_
    exact keeps_refl _ _

theorem keeps_execYokeRailMsg : ∀ x0 s, ∃ t, @execYokeRailMsg x0 s = .next t ∧ Keeps [.yok] s t :=
    by
  intro x0 s
  unfold execYokeRailMsg
  refine ⟨_, rfl, ?_⟩
  refine keeps_whenS ?_ fun _ => ?_
  · exact keeps_refl _ _
  · dsimp only
    refine keeps_mk ?_
    refine keeps_step (keeps_heard _) rfl ?_
    exact keeps_refl _ _

theorem keeps_compareSigs : ∀ s, Keeps [.out, .hif, .hdg, .lpl, .link, .rail, .rve, .yok, .eth,
    .mgt, .tst, .running, .maskQ] s (@compareSigs s) := by
  intro s
  unfold compareSigs
  split
  · refine keeps_ite ?_ ?_
    · exact keeps_refl _ _
    · dsimp only
      refine keeps_step (keeps_excludeFor _ _) rfl ?_
      refine keeps_ite ?_ ?_
      · refine keeps_step (keeps_mismatchFrame _) rfl ?_
        refine keeps_mk ?_
        exact keeps_refl _ _
      · refine keeps_step (keeps_setRun _) rfl ?_
        refine keeps_mk ?_
        exact keeps_refl _ _
  · exact keeps_refl _ _

theorem keeps_execYokeSigMsg : ∀ x0 s, ∃ t, @execYokeSigMsg x0 s = .next t ∧ Keeps [.out, .hif,
    .hdg, .lpl, .link, .rail, .rve, .yok, .eth, .mgt, .tst, .running, .maskQ] s t := by
  intro x0 s
  unfold execYokeSigMsg
  refine ⟨_, rfl, ?_⟩
  refine keeps_whenS ?_ fun _ => ?_
  · exact keeps_refl _ _
  · refine keeps_step (keeps_compareSigs _) rfl ?_
    dsimp only
    refine keeps_mk ?_
    refine keeps_step (keeps_heard _) rfl ?_
    exact keeps_refl _ _

theorem keeps_followAgeing : ∀ x0 x1 s, Keeps [.free, .grn, .mem, .rve, .yok] s (@followAgeing x0 x1
    s) := by
  intro x0 x1 s
  unfold followAgeing
  dsimp only
  refine keeps_foldl ?_ fun _ _ _ => ?_
  · exact keeps_refl _ _
  · refine keeps_step (keeps_writeField _ _ _) rfl ?_
    assumption

theorem keeps_execYokeSharedMsg : ∀ x0 s, ∃ t, @execYokeSharedMsg x0 s = .next t ∧ Keeps [.free,
    .grn, .mem, .rve, .yok] s t := by
  intro x0 s
  unfold execYokeSharedMsg
  refine ⟨_, rfl, ?_⟩
  refine keeps_whenS ?_ fun _ => ?_
  · exact keeps_refl _ _
  · refine keeps_ite ?_ ?_
    · refine keeps_foldl ?_ fun _ _ _ => ?_
      · dsimp only
        refine keeps_mk ?_
        refine keeps_step (keeps_heard _) rfl ?_
        exact keeps_refl _ _
      · refine keeps_step (keeps_followAgeing _ _ _) rfl ?_
        assumption
    · refine keeps_step (keeps_heard _) rfl ?_
      exact keeps_refl _ _

theorem keeps_rebase : ∀ s, Keeps [.lpl, .yok] s (@rebase s) := by
  intro s
  unfold rebase
  dsimp only
  refine keeps_mk ?_
  exact keeps_refl _ _

theorem keeps_joinPair : ∀ x0 s, Keeps [.lpl, .yok] s (@joinPair x0 s) := by
  intro x0 s
  unfold joinPair
  refine keeps_ite ?_ ?_
  · refine keeps_step (keeps_rebase _) rfl ?_
    refine keeps_mk ?_
    exact keeps_refl _ _
  · refine keeps_ite ?_ ?_
    · refine keeps_mk ?_
      exact keeps_refl _ _
    · exact keeps_refl _ _

theorem keeps_execYokeHelloMsg : ∀ x0 s, ∃ t, @execYokeHelloMsg x0 s = .next t ∧ Keeps [.hif, .hdg,
    .lpl, .link, .rail, .rve, .yok, .eth, .mgt, .tst, .running, .maskQ] s t := by
  intro x0 s
  unfold execYokeHelloMsg
  refine ⟨_, rfl, ?_⟩
  refine keeps_whenS ?_ fun _ => ?_
  · exact keeps_refl _ _
  · dsimp only
    refine keeps_ite ?_ ?_
    · refine keeps_mk ?_
      refine keeps_step (keeps_heard _) rfl ?_
      exact keeps_refl _ _
    · refine keeps_ite ?_ ?_
      · refine keeps_mk ?_
        refine keeps_step (keeps_heard _) rfl ?_
        exact keeps_refl _ _
      · refine keeps_ite ?_ ?_
        · refine keeps_ite ?_ ?_
          · refine keeps_step (keeps_exclude _ _) rfl ?_
            refine keeps_mk ?_
            refine keeps_step (keeps_heard _) rfl ?_
            exact keeps_refl _ _
          · refine keeps_mk ?_
            refine keeps_step (keeps_heard _) rfl ?_
            exact keeps_refl _ _
        · refine keeps_step (keeps_joinPair _ _) rfl ?_
          refine keeps_mk ?_
          refine keeps_step (keeps_heard _) rfl ?_
          exact keeps_refl _ _

theorem keeps_execYokeTripMsg : ∀ s, ∃ t, @execYokeTripMsg s = .next t ∧ Keeps [.hif, .lpl, .rail,
    .rve, .yok, .eth, .mgt, .tst, .running, .maskQ] s t := by
  intro s
  unfold execYokeTripMsg
  refine ⟨_, rfl, ?_⟩
  refine keeps_whenS ?_ fun _ => ?_
  · exact keeps_refl _ _
  · dsimp only
    refine keeps_ite ?_ ?_
    · refine keeps_step (keeps_settleRails _) rfl ?_
      refine keeps_mk ?_
      refine keeps_step (keeps_heard _) rfl ?_
      exact keeps_refl _ _
    · refine keeps_step (keeps_heard _) rfl ?_
      exact keeps_refl _ _

theorem keeps_execYokeTripRelease : ∀ s, ∃ t, @execYokeTripRelease s = .next t ∧ Keeps [.hif, .lpl,
    .rail, .rve, .yok, .eth, .mgt, .tst, .running, .maskQ] s t := by
  intro s
  unfold execYokeTripRelease
  refine ⟨_, rfl, ?_⟩
  refine keeps_whenS ?_ fun _ => ?_
  · exact keeps_refl _ _
  · refine keeps_step (keeps_settleRails _) rfl ?_
    refine keeps_mk ?_
    exact keeps_refl _ _

theorem keeps_execYokeHandoverMsg : ∀ x0 s, ∃ t, @execYokeHandoverMsg x0 s = .next t ∧ Keeps [.yok]
    s t := by
  intro x0 s
  unfold execYokeHandoverMsg
  refine ⟨_, rfl, ?_⟩
  refine keeps_whenS ?_ fun _ => ?_
  · exact keeps_refl _ _
  · refine keeps_ite ?_ ?_
    · refine keeps_step (keeps_heard _) rfl ?_
      exact keeps_refl _ _
    · dsimp only
      refine keeps_mk ?_
      refine keeps_step (keeps_heard _) rfl ?_
      exact keeps_refl _ _

theorem keeps_execYokeExcludeMsg : ∀ x0 s, ∃ t, @execYokeExcludeMsg x0 s = .next t ∧ Keeps [.hif,
    .hdg, .lpl, .link, .rail, .rve, .yok, .eth, .mgt, .tst, .running, .maskQ] s t := by
  intro x0 s
  unfold execYokeExcludeMsg
  refine ⟨_, rfl, ?_⟩
  refine keeps_whenS ?_ fun _ => ?_
  · exact keeps_refl _ _
  · refine keeps_ite ?_ ?_
    · refine keeps_step (keeps_heard _) rfl ?_
      exact keeps_refl _ _
    · refine keeps_step (keeps_exclude _ _) rfl ?_
      refine keeps_step (keeps_heard _) rfl ?_
      exact keeps_refl _ _

theorem keeps_execYokeCopyBlock : ∀ x0 x1 s, ∃ t, @execYokeCopyBlock x0 x1 s = .next t ∧ Keeps
    [.grn, .mem, .yok] s t := by
  intro x0 x1 s
  unfold execYokeCopyBlock
  refine ⟨_, rfl, ?_⟩
  refine keeps_whenS ?_ fun _ => ?_
  · exact keeps_refl _ _
  · refine keeps_ite ?_ ?_
    · refine keeps_step (keeps_storeBytes _ _ _) rfl ?_
      refine keeps_step (keeps_heard _) rfl ?_
      exact keeps_refl _ _
    · refine keeps_step (keeps_heard _) rfl ?_
      exact keeps_refl _ _

theorem keeps_takeSnapshot : ∀ x0 s, Keeps [.cmp, .pho, .lpl, .rail, .yok, .aux, .nextSer] s
    (@takeSnapshot x0 s) := by
  intro x0 s
  unfold takeSnapshot
  dsimp only
  refine keeps_mk ?_
  exact keeps_refl _ _

theorem keeps_execYokeSnapshot : ∀ x0 s, ∃ t, @execYokeSnapshot x0 s = .next t ∧ Keeps [.hif, .cmp,
    .pho, .lpl, .rail, .rve, .yok, .eth, .mgt, .aux, .tst, .running, .nextSer, .maskQ] s t := by
  intro x0 s
  unfold execYokeSnapshot
  refine ⟨_, rfl, ?_⟩
  refine keeps_whenS ?_ fun _ => ?_
  · exact keeps_refl _ _
  · refine keeps_ite ?_ ?_
    · refine keeps_step (keeps_settleRails _) rfl ?_
      refine keeps_step (keeps_takeSnapshot _ _) rfl ?_
      refine keeps_step (keeps_heard _) rfl ?_
      exact keeps_refl _ _
    · refine keeps_step (keeps_heard _) rfl ?_
      exact keeps_refl _ _

theorem keeps_execPartnerLoss : ∀ s, ∃ t, @execPartnerLoss s = .next t ∧ Keeps [.rve, .yok] s t :=
    by
  intro s
  unfold execPartnerLoss
  refine ⟨_, rfl, ?_⟩
  refine keeps_whenS ?_ fun _ => ?_
  · exact keeps_refl _ _
  · refine keeps_step (keeps_partnerLost _) rfl ?_
    exact keeps_refl _ _

theorem keeps_execLeaderLatchTimeout : ∀ s, ∃ t, @execLeaderLatchTimeout s = .next t ∧ Keeps [.yok]
    s t := by
  intro s
  unfold execLeaderLatchTimeout
  refine ⟨_, rfl, ?_⟩
  refine keeps_whenS ?_ fun _ => ?_
  · exact keeps_refl _ _
  · refine keeps_step (keeps_leadOn _) rfl ?_
    refine keeps_mk ?_
    exact keeps_refl _ _

theorem keeps_startHandover : ∀ s, Keeps [.out, .yok] s (@startHandover s) := by
  intro s
  unfold startHandover
  refine keeps_step (keeps_sendYoke _ _ _) rfl ?_
  refine keeps_mk ?_
  exact keeps_refl _ _

theorem keeps_execYokeReturnTimer : ∀ s, ∃ t, @execYokeReturnTimer s = .next t ∧ Keeps [.out, .yok]
    s t := by
  intro s
  unfold execYokeReturnTimer
  refine ⟨_, rfl, ?_⟩
  refine keeps_whenS ?_ fun _ => ?_
  · exact keeps_refl _ _
  · refine keeps_step (keeps_startHandover _) rfl ?_
    exact keeps_refl _ _

theorem keeps_execYokeHandoverRelease : ∀ s, ∃ t, @execYokeHandoverRelease s = .next t ∧ Keeps
    [.hif, .hdg, .lpl, .link, .rail, .rve, .yok, .eth, .mgt, .tst, .running, .maskQ] s t := by
  intro s
  unfold execYokeHandoverRelease
  dsimp only
  refine ⟨_, rfl, ?_⟩
  refine keeps_whenS ?_ fun _ => ?_
  · exact keeps_refl _ _
  · refine keeps_step (keeps_releaseLine _ _) rfl ?_
    refine keeps_mk ?_
    exact keeps_refl _ _

theorem keeps_execYokeSecondaryClaimTimeout : ∀ s, ∃ t, @execYokeSecondaryClaimTimeout s = .next t ∧
    Keeps [.yok] s t := by
  intro s
  unfold execYokeSecondaryClaimTimeout
  refine ⟨_, rfl, ?_⟩
  refine keeps_whenS ?_ fun _ => ?_
  · exact keeps_refl _ _
  · refine keeps_mk ?_
    exact keeps_refl _ _

theorem keeps_sendSnapshot : ∀ s, Keeps [.out] s (@sendSnapshot s) := by
  intro s
  unfold sendSnapshot
  refine keeps_ite ?_ ?_
  · refine keeps_step (keeps_emit _ _) rfl ?_
    exact keeps_refl _ _
  · exact keeps_refl _ _

theorem keeps_execYokePeriodicMessage : ∀ x0 s, ∃ t, @execYokePeriodicMessage x0 s = .next t ∧ Keeps
    [.out] s t := by
  intro x0 s
  unfold execYokePeriodicMessage
  refine ⟨_, rfl, ?_⟩
  split
  · refine keeps_whenS ?_ fun _ => ?_
    · exact keeps_refl _ _
    · refine keeps_step (keeps_sendYoke _ _ _) rfl ?_
      exact keeps_refl _ _
  · refine keeps_whenS ?_ fun _ => ?_
    · exact keeps_refl _ _
    · refine keeps_step (keeps_sendYoke _ _ _) rfl ?_
      exact keeps_refl _ _
  · refine keeps_step (keeps_sendHello _) rfl ?_
    exact keeps_refl _ _

theorem keeps_execCoverBitExpiry : ∀ s, ∃ t, @execCoverBitExpiry s = .next t ∧ Keeps [.yok] s t :=
    by
  intro s
  unfold execCoverBitExpiry
  refine ⟨_, rfl, ?_⟩
  refine keeps_mk ?_
  exact keeps_refl _ _

theorem keeps_readBlock : ∀ x0 s, Keeps [.free, .grn, .rve] s (@readBlock x0 s) := by
  intro x0 s
  unfold readBlock
  refine keeps_step (keeps_readMarked _ _ _ _) rfl ?_
  exact keeps_refl _ _

theorem keeps_execYokeCopyPassEnd : ∀ s, ∃ t, @execYokeCopyPassEnd s = .next t ∧ Keeps [.free, .out,
    .grn, .rve, .yok] s t := by
  intro s
  unfold execYokeCopyPassEnd
  refine ⟨_, rfl, ?_⟩
  refine keeps_whenS ?_ fun _ => ?_
  · exact keeps_refl _ _
  · dsimp only
    refine keeps_mk ?_
    refine keeps_foldl ?_ fun _ _ _ => ?_
    · exact keeps_refl _ _
    · refine keeps_step (keeps_sendYoke _ _ _) rfl ?_
      refine keeps_step (keeps_readBlock _ _) rfl ?_
      assumption

theorem keeps_execYokCntClearCount : ∀ s, ∃ t, @execYokCntClearCount s = .next t ∧ Keeps [.yok] s t
    := by
  intro s
  unfold execYokCntClearCount
  refine ⟨_, rfl, ?_⟩
  refine keeps_whenS ?_ fun _ => ?_
  · exact keeps_refl _ _
  · refine keeps_mk ?_
    exact keeps_refl _ _

theorem keeps_execYokCntClearCheck : ∀ s, ∃ t, @execYokCntClearCheck s = .next t ∧ Keeps [.yok] s t
    := by
  intro s
  unfold execYokCntClearCheck
  refine ⟨_, rfl, ?_⟩
  refine keeps_whenS ?_ fun _ => ?_
  · exact keeps_refl _ _
  · refine keeps_mk ?_
    exact keeps_refl _ _

theorem keeps_yokeSwitchBody : BodyKeeps [.out, .hif, .lpl, .rve, .yok, .eth, .mgt, .running,
    .maskQ] yokeSwitchBody := by
  refine ⟨fun c s => ?_, fun c st s => ?_⟩
  · unfold yokeSwitchBody
    dsimp only
    split
    · refine keeps_step (keeps_startHandover _) rfl ?_
      refine keeps_mk ?_
      exact keeps_refl _ _
    · refine keeps_mk ?_
      exact keeps_refl _ _
    · refine keeps_step (keeps_finishOk _ _) rfl ?_
      refine keeps_mk ?_
      exact keeps_refl _ _
  · unfold yokeSwitchBody
    dsimp only
    exact keeps_refl _ _

theorem keeps_execYokeSwitch : ∀ x0 x1 s, ∃ t, @execYokeSwitch x0 x1 s = .next t ∧ Keeps [.out,
    .hif, .lpl, .rve, .yok, .eth, .mgt, .running, .nextSer, .maskQ] s t := by
  intro x0 x1 s
  unfold execYokeSwitch
  refine ⟨_, rfl, ?_⟩
  refine keeps_runRow rfl rfl keeps_yokeSwitchBody ?_
  exact keeps_refl _ _

theorem keeps_handoverDone : ∀ s, Keeps [.hif, .lpl, .rve, .yok, .eth, .mgt, .running, .maskQ] s
    (@handoverDone s) := by
  intro s
  unfold handoverDone
  refine keeps_ite ?_ ?_
  · exact keeps_refl _ _
  · refine keeps_foldl ?_ fun _ _ _ => ?_
    · refine keeps_mk ?_
      exact keeps_refl _ _
    · refine keeps_step (keeps_finishOk _ _) rfl ?_
      assumption

theorem keeps_yokeAtLatch : ∀ x0 s, Keeps [.out, .hif, .hdg, .lpl, .link, .rail, .rve, .yok, .eth,
    .mgt, .tst, .running, .maskQ] s (@yokeAtLatch x0 s) := by
  intro x0 s
  unfold yokeAtLatch
  refine keeps_ite ?_ ?_
  · exact keeps_refl _ _
  · dsimp only
    refine keeps_ite ?_ ?_
    · refine keeps_step (keeps_sendSnapshot _) rfl ?_
      refine keeps_mk ?_
      refine keeps_foldl ?_ fun _ _ _ => ?_
      · refine keeps_mk ?_
        split
        · refine keeps_ite ?_ ?_
          · refine keeps_mk ?_
            split
            · refine keeps_step (keeps_compareSigs _) rfl ?_
              refine keeps_step (keeps_sendYoke _ _ _) rfl ?_
              refine keeps_mk ?_
              refine keeps_step (keeps_sendYoke _ _ _) rfl ?_
              refine keeps_step (keeps_checkAtLatch _) rfl ?_
              exact keeps_refl _ _
            · refine keeps_step (keeps_sendYoke _ _ _) rfl ?_
              refine keeps_step (keeps_checkAtLatch _) rfl ?_
              exact keeps_refl _ _
          · refine keeps_ite ?_ ?_
            · refine keeps_mk ?_
              split
              · refine keeps_step (keeps_compareSigs _) rfl ?_
                refine keeps_step (keeps_sendYoke _ _ _) rfl ?_
                refine keeps_mk ?_
                refine keeps_step (keeps_sendYoke _ _ _) rfl ?_
                refine keeps_step (keeps_checkAtLatch _) rfl ?_
                exact keeps_refl _ _
              · refine keeps_step (keeps_sendYoke _ _ _) rfl ?_
                refine keeps_step (keeps_checkAtLatch _) rfl ?_
                exact keeps_refl _ _
            · split
              · refine keeps_step (keeps_compareSigs _) rfl ?_
                refine keeps_step (keeps_sendYoke _ _ _) rfl ?_
                refine keeps_mk ?_
                refine keeps_step (keeps_sendYoke _ _ _) rfl ?_
                refine keeps_step (keeps_checkAtLatch _) rfl ?_
                exact keeps_refl _ _
              · refine keeps_step (keeps_sendYoke _ _ _) rfl ?_
                refine keeps_step (keeps_checkAtLatch _) rfl ?_
                exact keeps_refl _ _
        · split
          · refine keeps_step (keeps_compareSigs _) rfl ?_
            refine keeps_step (keeps_sendYoke _ _ _) rfl ?_
            refine keeps_mk ?_
            refine keeps_step (keeps_sendYoke _ _ _) rfl ?_
            refine keeps_step (keeps_checkAtLatch _) rfl ?_
            exact keeps_refl _ _
          · refine keeps_step (keeps_sendYoke _ _ _) rfl ?_
            refine keeps_step (keeps_checkAtLatch _) rfl ?_
            exact keeps_refl _ _
      · refine keeps_ite ?_ ?_
        · refine keeps_step (keeps_finishOk _ _) rfl ?_
          assumption
        · refine keeps_step (keeps_complete _ _ _ _ _) rfl ?_
          assumption
    · refine keeps_foldl ?_ fun _ _ _ => ?_
      · refine keeps_mk ?_
        split
        · refine keeps_ite ?_ ?_
          · refine keeps_mk ?_
            split
            · refine keeps_step (keeps_compareSigs _) rfl ?_
              refine keeps_step (keeps_sendYoke _ _ _) rfl ?_
              refine keeps_mk ?_
              refine keeps_step (keeps_sendYoke _ _ _) rfl ?_
              refine keeps_step (keeps_checkAtLatch _) rfl ?_
              exact keeps_refl _ _
            · refine keeps_step (keeps_sendYoke _ _ _) rfl ?_
              refine keeps_step (keeps_checkAtLatch _) rfl ?_
              exact keeps_refl _ _
          · refine keeps_ite ?_ ?_
            · refine keeps_mk ?_
              split
              · refine keeps_step (keeps_compareSigs _) rfl ?_
                refine keeps_step (keeps_sendYoke _ _ _) rfl ?_
                refine keeps_mk ?_
                refine keeps_step (keeps_sendYoke _ _ _) rfl ?_
                refine keeps_step (keeps_checkAtLatch _) rfl ?_
                exact keeps_refl _ _
              · refine keeps_step (keeps_sendYoke _ _ _) rfl ?_
                refine keeps_step (keeps_checkAtLatch _) rfl ?_
                exact keeps_refl _ _
            · split
              · refine keeps_step (keeps_compareSigs _) rfl ?_
                refine keeps_step (keeps_sendYoke _ _ _) rfl ?_
                refine keeps_mk ?_
                refine keeps_step (keeps_sendYoke _ _ _) rfl ?_
                refine keeps_step (keeps_checkAtLatch _) rfl ?_
                exact keeps_refl _ _
              · refine keeps_step (keeps_sendYoke _ _ _) rfl ?_
                refine keeps_step (keeps_checkAtLatch _) rfl ?_
                exact keeps_refl _ _
        · split
          · refine keeps_step (keeps_compareSigs _) rfl ?_
            refine keeps_step (keeps_sendYoke _ _ _) rfl ?_
            refine keeps_mk ?_
            refine keeps_step (keeps_sendYoke _ _ _) rfl ?_
            refine keeps_step (keeps_checkAtLatch _) rfl ?_
            exact keeps_refl _ _
          · refine keeps_step (keeps_sendYoke _ _ _) rfl ?_
            refine keeps_step (keeps_checkAtLatch _) rfl ?_
            exact keeps_refl _ _
      · refine keeps_ite ?_ ?_
        · refine keeps_step (keeps_finishOk _ _) rfl ?_
          assumption
        · refine keeps_step (keeps_complete _ _ _ _ _) rfl ?_
          assumption

end Sys2Proof.Laws
end

