-- ==== Sys2Proof/Laws/KeepTake.lean ====
section
/-!
SUPPORT. Which parts of the state the operations of Take.lean leave alone.
-/

namespace Sys2Proof.Laws

-- Each proof is checked before the next begins: hundreds at once would ask for a thread each.
set_option Elab.async false
set_option linter.all false

open Sys2Proof Sys2Proof.Machine Sys2Proof.Safety

theorem keeps_takeDone : ∀ x0 x1 x2 s, Keeps [.hif, .lpl, .rve, .eth, .mgt, .running, .maskQ] s
    (@takeDone x0 x1 x2 s) := by
  intro x0 x1 x2 s
  unfold takeDone
  refine keeps_ite ?_ ?_
  · refine keeps_step (keeps_complete _ _ _ _ _) rfl ?_
    exact keeps_refl _ _
  · refine keeps_mk ?_
    exact keeps_refl _ _

theorem keeps_stageLayer : ∀ x0 x1 s, Keeps [.cmp] s (@stageLayer x0 x1 s) := by
  intro x0 x1 s
  unfold stageLayer
  refine keeps_mk ?_
  exact keeps_refl _ _

theorem keeps_takeAux : ∀ x0 x1 x2 x3 s, Keeps [.aux] s (@takeAux x0 x1 x2 x3 s) := by
  intro x0 x1 x2 x3 s
  unfold takeAux
  dsimp only
  refine keeps_mk ?_
  exact keeps_refl _ _

theorem keeps_applyWrite : ∀ s x1, Keeps [.cmp, .pho, .aux] s (@applyWrite s x1) := by
  intro s x1
  unfold applyWrite
  split
  · refine keeps_step (keeps_stageLayer _ _ _) rfl ?_
    exact keeps_refl _ _
  · refine keeps_mk ?_
    exact keeps_refl _ _
  · refine keeps_step (keeps_stageLayer _ _ _) rfl ?_
    exact keeps_refl _ _
  · refine keeps_mk ?_
    exact keeps_refl _ _
  · refine keeps_mk ?_
    exact keeps_refl _ _
  · exact keeps_refl _ _
  · exact keeps_refl _ _
  · refine keeps_mk ?_
    exact keeps_refl _ _
  · refine keeps_mk ?_
    exact keeps_refl _ _
  · refine keeps_mk ?_
    exact keeps_refl _ _
  · refine keeps_step (keeps_startFade _ _ _ _) rfl ?_
    exact keeps_refl _ _
  · refine keeps_mk ?_
    exact keeps_refl _ _
  · refine keeps_step (keeps_takeAux _ _ _ _ _) rfl ?_
    exact keeps_refl _ _

theorem keeps_applyWrites : ∀ x0 s, Keeps [.cmp, .pho, .aux] s (@applyWrites x0 s) := by
  intro x0 s
  unfold applyWrites
  dsimp only
  refine keeps_ite ?_ ?_
  · refine keeps_mk ?_
    refine keeps_foldl ?_ fun _ _ _ => ?_
    · exact keeps_refl _ _
    · refine keeps_step (keeps_applyWrite _ _) rfl ?_
      assumption
  · refine keeps_foldl ?_ fun _ _ _ => ?_
    · exact keeps_refl _ _
    · refine keeps_step (keeps_applyWrite _ _) rfl ?_
      assumption

theorem keeps_declareLock : ∀ s, Keeps [.lpl] s (@declareLock s) := by
  intro s
  unfold declareLock
  refine keeps_mk ?_
  exact keeps_refl _ _

theorem keeps_governTiming : ∀ s, Keeps [.lpl] s (@governTiming s) := by
  intro s
  unfold governTiming
  dsimp only
  refine keeps_ite ?_ ?_
  · refine keeps_step (keeps_declareLock _) rfl ?_
    refine keeps_mk ?_
    exact keeps_refl _ _
  · refine keeps_mk ?_
    exact keeps_refl _ _

theorem keeps_takeDim : ∀ x0 s, Keeps [.out, .lpl, .link, .pxh, .pwr, .yok] s (@takeDim x0 s) := by
  intro x0 s
  unfold takeDim
  dsimp only
  refine keeps_mk ?_
  refine keeps_foldl ?_ fun _ _ _ => ?_
  · exact keeps_refl _ _
  · refine keeps_ite ?_ ?_
    · refine keeps_step (keeps_enterDetect _ _ _ _) rfl ?_
      refine keeps_step (keeps_modLane _ _ _) rfl ?_
      assumption
    · refine keeps_step (keeps_modLane _ _ _) rfl ?_
      assumption

theorem keeps_waitTiming : ∀ x0 s, Keeps [.lpl] s (@waitTiming x0 s) := by
  intro x0 s
  unfold waitTiming
  dsimp only
  refine keeps_mk ?_
  exact keeps_refl _ _

theorem keeps_endTiming : ∀ x0 x1 s x3, Keeps [.hif, .lpl, .rve, .eth, .mgt, .running, .maskQ] s
    (@endTiming x0 x1 s x3) := by
  intro x0 x1 s x3
  unfold endTiming
  refine keeps_ite ?_ ?_
  · refine keeps_mk ?_
    exact keeps_refl _ _
  · refine keeps_step (keeps_complete _ _ _ _ _) rfl ?_
    exact keeps_refl _ _

theorem keeps_replaceTiming : ∀ s, Keeps [.hif, .lpl, .rve, .eth, .mgt, .running, .maskQ] s
    (@replaceTiming s) := by
  intro s
  unfold replaceTiming
  dsimp only
  refine keeps_foldl ?_ fun _ _ _ => ?_
  · refine keeps_mk ?_
    exact keeps_refl _ _
  · refine keeps_step (keeps_endTiming _ _ _ _) rfl ?_
    assumption

theorem keeps_replaceHeld : ∀ x0 s, Keeps [.hif, .lpl, .rve, .eth, .mgt, .running, .maskQ] s
    (@replaceHeld x0 s) := by
  intro x0 s
  unfold replaceHeld
  dsimp only
  refine keeps_ite ?_ ?_
  · exact keeps_refl _ _
  · refine keeps_foldl ?_ fun _ _ _ => ?_
    · refine keeps_mk ?_
      exact keeps_refl _ _
    · refine keeps_step (keeps_endTiming _ _ _ _) rfl ?_
      assumption

theorem keeps_applyTimingMap : ∀ x0 x1 s, Keeps [.hif, .lpl, .rve, .eth, .mgt, .running, .maskQ] s
    (@applyTimingMap x0 x1 s) := by
  intro x0 x1 s
  unfold applyTimingMap
  dsimp only
  refine keeps_ite ?_ ?_
  · refine keeps_step (keeps_governTiming _) rfl ?_
    refine keeps_mk ?_
    refine keeps_ite ?_ ?_
    · refine keeps_step (keeps_replaceTiming _) rfl ?_
      exact keeps_refl _ _
    · exact keeps_refl _ _
  · refine keeps_ite ?_ ?_
    · refine keeps_mk ?_
      refine keeps_ite ?_ ?_
      · refine keeps_step (keeps_replaceTiming _) rfl ?_
        exact keeps_refl _ _
      · exact keeps_refl _ _
    · refine keeps_mk ?_
      refine keeps_ite ?_ ?_
      · refine keeps_step (keeps_replaceTiming _) rfl ?_
        exact keeps_refl _ _
      · exact keeps_refl _ _

theorem keeps_holdBudget : ∀ x0 x1 s, Keeps [.lpl, .rve] s (@holdBudget x0 x1 s) := by
  intro x0 x1 s
  unfold holdBudget
  dsimp only
  refine keeps_ite ?_ ?_
  · refine keeps_mk ?_
    exact keeps_refl _ _
  · refine keeps_step (keeps_raise _ _ _ _) rfl ?_
    refine keeps_mk ?_
    exact keeps_refl _ _

theorem keeps_takeTimingMap : ∀ x0 x1 s, Keeps [.out, .hif, .lpl, .link, .pxh, .pwr, .rve, .yok,
    .eth, .mgt, .running, .maskQ] s (@takeTimingMap x0 x1 s) := by
  intro x0 x1 s
  unfold takeTimingMap
  dsimp only
  refine keeps_ite ?_ ?_
  · split
    · refine keeps_step (keeps_takeDim _ _) rfl ?_
      refine keeps_step (keeps_replaceHeld _ _) rfl ?_
      refine keeps_mk ?_
      exact keeps_refl _ _
    · refine keeps_step (keeps_replaceHeld _ _) rfl ?_
      refine keeps_mk ?_
      exact keeps_refl _ _
  · split
    · refine keeps_step (keeps_holdBudget _ _ _) rfl ?_
      split
      · refine keeps_step (keeps_takeDim _ _) rfl ?_
        refine keeps_step (keeps_replaceHeld _ _) rfl ?_
        refine keeps_mk ?_
        exact keeps_refl _ _
      · refine keeps_step (keeps_replaceHeld _ _) rfl ?_
        refine keeps_mk ?_
        exact keeps_refl _ _
    · refine keeps_step (keeps_applyTimingMap _ _ _) rfl ?_
      split
      · refine keeps_step (keeps_takeDim _ _) rfl ?_
        refine keeps_step (keeps_replaceHeld _ _) rfl ?_
        refine keeps_mk ?_
        exact keeps_refl _ _
      · refine keeps_step (keeps_replaceHeld _ _) rfl ?_
        refine keeps_mk ?_
        exact keeps_refl _ _

theorem keeps_settleLayer : ∀ s x1, Keeps [.cmp, .rve] s (@settleLayer s x1) := by
  intro s x1
  unfold settleLayer
  dsimp only
  split
  · refine keeps_mk ?_
    exact keeps_refl _ _
  · refine keeps_ite ?_ ?_
    · refine keeps_mk ?_
      exact keeps_refl _ _
    · refine keeps_ite ?_ ?_
      · refine keeps_ite ?_ ?_
        · refine keeps_step (keeps_lateEvent _ _ _) rfl ?_
          refine keeps_mk ?_
          exact keeps_refl _ _
        · refine keeps_mk ?_
          exact keeps_refl _ _
      · refine keeps_mk ?_
        exact keeps_refl _ _

theorem keeps_mapDone : ∀ s, Keeps [.hif, .lpl, .rve, .eth, .mgt, .running, .maskQ] s (@mapDone s)
    := by
  intro s
  unfold mapDone
  dsimp only
  refine keeps_foldl ?_ fun _ _ _ => ?_
  · refine keeps_mk ?_
    exact keeps_refl _ _
  · refine keeps_step (keeps_takeDone _ _ _ _) rfl ?_
    assumption

theorem keeps_commitDone : ∀ s x1, Keeps [.hif, .lpl, .rve, .eth, .mgt, .running, .maskQ] s
    (@commitDone s x1) := by
  intro s x1
  unfold commitDone
  refine keeps_ite ?_ ?_
  · exact keeps_refl _ _
  · refine keeps_ite ?_ ?_
    · refine keeps_mk ?_
      exact keeps_refl _ _
    · refine keeps_ite ?_ ?_
      · dsimp only
        refine keeps_step (keeps_takeDone _ _ _ _) rfl ?_
        exact keeps_refl _ _
      · refine keeps_step (keeps_takeDone _ _ _ _) rfl ?_
        exact keeps_refl _ _

theorem keeps_launchDone : ∀ s x1, Keeps [.hif, .lpl, .rve, .eth, .mgt, .running, .maskQ] s
    (@launchDone s x1) := by
  intro s x1
  unfold launchDone
  dsimp only
  refine keeps_ite ?_ ?_
  · refine keeps_step (keeps_takeDone _ _ _ _) rfl ?_
    refine keeps_ite ?_ ?_
    · refine keeps_mk ?_
      exact keeps_refl _ _
    · exact keeps_refl _ _
  · refine keeps_step (keeps_takeDone _ _ _ _) rfl ?_
    refine keeps_ite ?_ ?_
    · refine keeps_mk ?_
      exact keeps_refl _ _
    · exact keeps_refl _ _

theorem keeps_takeMask : ∀ s x1, Keeps [.hif, .cmp, .lpl, .rve, .yok, .eth, .mgt, .running, .maskQ]
    s (@takeMask s x1) := by
  intro s x1
  unfold takeMask
  dsimp only
  refine keeps_step (keeps_takeDone _ _ _ _) rfl ?_
  refine keeps_mk ?_
  exact keeps_refl _ _

theorem keeps_dropShadow : ∀ x0 s, Keeps [.lpl] s (@dropShadow x0 s) := by
  intro x0 s
  unfold dropShadow
  split
  · refine keeps_mk ?_
    exact keeps_refl _ _
  · refine keeps_mk ?_
    exact keeps_refl _ _
  · refine keeps_mk ?_
    exact keeps_refl _ _
  · exact keeps_refl _ _

theorem keeps_takeAll : ∀ x0 s, Keeps [.out, .hif, .cmp, .pho, .lpl, .link, .pxh, .pwr, .rve, .yok,
    .eth, .mgt, .aux, .running, .maskQ] s (@takeAll x0 s) := by
  intro x0 s
  unfold takeAll
  dsimp only
  refine keeps_foldl ?_ fun _ _ _ => ?_
  · refine keeps_foldl ?_ fun _ _ _ => ?_
    · refine keeps_foldl ?_ fun _ _ _ => ?_
      · refine keeps_step (keeps_mapDone _) rfl ?_
        refine keeps_ite ?_ ?_
        · refine keeps_foldl ?_ fun _ _ _ => ?_
          · refine keeps_mk ?_
            refine keeps_step (keeps_applyWrites _ _) rfl ?_
            refine keeps_step (keeps_takeTimingMap _ _ _) rfl ?_
            refine keeps_foldl ?_ fun _ _ _ => ?_
            · refine keeps_mk ?_
              refine keeps_step (keeps_dropShadow _ _) rfl ?_
              exact keeps_refl _ _
            · refine keeps_step (keeps_waitTiming _ _) rfl ?_
              assumption
          · refine keeps_step (keeps_settleLayer _ _) rfl ?_
            assumption
        · refine keeps_ite ?_ ?_
          · refine keeps_mk ?_
            refine keeps_foldl ?_ fun _ _ _ => ?_
            · refine keeps_mk ?_
              refine keeps_step (keeps_applyWrites _ _) rfl ?_
              refine keeps_step (keeps_takeTimingMap _ _ _) rfl ?_
              refine keeps_foldl ?_ fun _ _ _ => ?_
              · refine keeps_mk ?_
                refine keeps_step (keeps_dropShadow _ _) rfl ?_
                exact keeps_refl _ _
              · refine keeps_step (keeps_waitTiming _ _) rfl ?_
                assumption
            · refine keeps_step (keeps_settleLayer _ _) rfl ?_
              assumption
          · refine keeps_mk ?_
            refine keeps_foldl ?_ fun _ _ _ => ?_
            · refine keeps_mk ?_
              refine keeps_step (keeps_applyWrites _ _) rfl ?_
              refine keeps_step (keeps_takeTimingMap _ _ _) rfl ?_
              refine keeps_foldl ?_ fun _ _ _ => ?_
              · refine keeps_mk ?_
                refine keeps_step (keeps_dropShadow _ _) rfl ?_
                exact keeps_refl _ _
              · refine keeps_step (keeps_waitTiming _ _) rfl ?_
                assumption
            · refine keeps_step (keeps_settleLayer _ _) rfl ?_
              assumption
      · refine keeps_step (keeps_commitDone _ _) rfl ?_
        assumption
    · refine keeps_step (keeps_launchDone _ _) rfl ?_
      assumption
  · refine keeps_step (keeps_takeMask _ _) rfl ?_
    assumption

end Sys2Proof.Laws
end

