-- ==== Sys2Proof/Laws/KeepLatch.lean ====
section
/-!
SUPPORT. Which parts of the state the operations of Latch.lean leave alone.
-/

namespace Sys2Proof.Laws

-- Each proof is checked before the next begins: hundreds at once would ask for a thread each.
set_option Elab.async false
set_option linter.all false

open Sys2Proof Sys2Proof.Machine Sys2Proof.Safety

theorem keeps_noteLat : ∀ x0 x1 s, Keeps [.lpl] s (@noteLat x0 x1 s) := by
  intro x0 x1 s
  unfold noteLat
  dsimp only
  refine keeps_mk ?_
  exact keeps_refl _ _

theorem keeps_openWindow : ∀ x0 x1 s, Keeps [.hdg] s (@openWindow x0 x1 s) := by
  intro x0 x1 s
  unfold openWindow
  dsimp only
  refine keeps_mk ?_
  exact keeps_refl _ _

theorem keeps_firstLat : ∀ x0 s, Keeps [.hif, .lpl, .rve, .eth, .mgt, .running, .maskQ] s (@firstLat
    x0 s) := by
  intro x0 s
  unfold firstLat
  dsimp only
  refine keeps_foldl ?_ fun _ _ _ => ?_
  · refine keeps_mk ?_
    exact keeps_refl _ _
  · refine keeps_step (keeps_endTiming _ _ _ _) rfl ?_
    assumption

theorem keeps_countRepeat : ∀ x0 x1 s, Keeps [.lpl, .rve] s (@countRepeat x0 x1 s) := by
  intro x0 x1 s
  unfold countRepeat
  refine keeps_ite ?_ ?_
  · dsimp only
    refine keeps_ite ?_ ?_
    · refine keeps_step (keeps_raise _ _ _ _) rfl ?_
      refine keeps_mk ?_
      exact keeps_refl _ _
    · refine keeps_mk ?_
      exact keeps_refl _ _
  · refine keeps_mk ?_
    exact keeps_refl _ _

theorem keeps_wrongSequence : ∀ x0 s, Keeps [.lpl, .rve] s (@wrongSequence x0 s) := by
  intro x0 s
  unfold wrongSequence
  refine keeps_step (keeps_countRepeat _ _ _) rfl ?_
  refine keeps_step (keeps_raise _ _ _ _) rfl ?_
  refine keeps_mk ?_
  exact keeps_refl _ _

theorem keeps_sendLats : ∀ x0 x1 s, Keeps [.out, .hif, .hdg, .lpl, .link, .rve, .yok, .eth, .mgt,
    .running, .maskQ] s (@sendLats x0 x1 s) := by
  intro x0 x1 s
  unfold sendLats
  split
  · dsimp only
    refine keeps_ite ?_ ?_
    · refine keeps_step (keeps_wrongSequence _ _) rfl ?_
      exact keeps_refl _ _
    · refine keeps_step (keeps_countRepeat _ _ _) rfl ?_
      refine keeps_ite ?_ ?_
      · refine keeps_step (keeps_firstLat _ _) rfl ?_
        refine keeps_ite ?_ ?_
        · refine keeps_mk ?_
          refine keeps_step (keeps_noteLat _ _ _) rfl ?_
          refine keeps_foldl ?_ fun _ _ _ => ?_
          · refine keeps_mk ?_
            refine keeps_step (keeps_openWindow _ _ _) rfl ?_
            exact keeps_refl _ _
          · refine keeps_step (keeps_sendLane _ _ _) rfl ?_
            assumption
        · refine keeps_foldl ?_ fun _ _ _ => ?_
          · refine keeps_mk ?_
            refine keeps_step (keeps_openWindow _ _ _) rfl ?_
            exact keeps_refl _ _
          · refine keeps_step (keeps_sendLane _ _ _) rfl ?_
            assumption
      · refine keeps_ite ?_ ?_
        · refine keeps_mk ?_
          refine keeps_step (keeps_noteLat _ _ _) rfl ?_
          refine keeps_foldl ?_ fun _ _ _ => ?_
          · refine keeps_mk ?_
            refine keeps_step (keeps_openWindow _ _ _) rfl ?_
            exact keeps_refl _ _
          · refine keeps_step (keeps_sendLane _ _ _) rfl ?_
            assumption
        · refine keeps_foldl ?_ fun _ _ _ => ?_
          · refine keeps_mk ?_
            refine keeps_step (keeps_openWindow _ _ _) rfl ?_
            exact keeps_refl _ _
          · refine keeps_step (keeps_sendLane _ _ _) rfl ?_
            assumption
  · refine keeps_step (keeps_countRepeat _ _ _) rfl ?_
    exact keeps_refl _ _

theorem keeps_slotRun : ∀ x0 x1 s x3, Keeps [.out, .lpl, .link, .pxh, .rve, .yok] s (@slotRun x0 x1
    s x3) := by
  intro x0 x1 s x3
  unfold slotRun
  dsimp only
  refine keeps_ite ?_ ?_
  · refine keeps_step (keeps_retrain _ _ _) rfl ?_
    refine keeps_step (keeps_modSlot _ _ _) rfl ?_
    exact keeps_refl _ _
  · refine keeps_step (keeps_modSlot _ _ _) rfl ?_
    exact keeps_refl _ _

theorem keeps_testAtLatch : ∀ s, Keeps [.out, .hif, .link, .rve, .yok, .eth, .mgt, .tst, .running,
    .maskQ] s (@testAtLatch s) := by
  intro s
  unfold testAtLatch
  split
  · exact keeps_refl _ _
  · split
    · dsimp only
      refine keeps_step (keeps_enterLoop _ _ _ _ _) rfl ?_
      refine keeps_mk ?_
      exact keeps_refl _ _
    · refine keeps_ite ?_ ?_
      · refine keeps_step (keeps_endRun _ _ _ _) rfl ?_
        exact keeps_refl _ _
      · refine keeps_mk ?_
        exact keeps_refl _ _
    · exact keeps_refl _ _

theorem keeps_mapBad : ∀ x0 s, Keeps [.out, .hif, .hdg, .lpl, .link, .rail, .rve, .yok, .eth, .mgt,
    .tst, .running, .maskQ] s (@mapBad x0 s) := by
  intro x0 s
  unfold mapBad
  refine keeps_step (keeps_raiseCause _ _ _) rfl ?_
  refine keeps_mk ?_
  exact keeps_refl _ _

theorem keeps_rejectAgain : ∀ x0 x1 s, Keeps [.hdg, .rve] s (@rejectAgain x0 x1 s) := by
  intro x0 x1 s
  unfold rejectAgain
  refine keeps_ite ?_ ?_
  · refine keeps_mk ?_
    exact keeps_refl _ _
  · refine keeps_step (keeps_raise _ _ _ _) rfl ?_
    refine keeps_mk ?_
    exact keeps_refl _ _

theorem keeps_scanAgain : ∀ x0 s, Keeps [.out, .hif, .hdg, .lpl, .link, .rail, .rve, .yok, .eth,
    .mgt, .tst, .running, .maskQ] s (@scanAgain x0 s) := by
  intro x0 s
  unfold scanAgain
  dsimp only
  split
  · refine keeps_mk ?_
    exact keeps_refl _ _
  · refine keeps_ite ?_ ?_
    · refine keeps_mk ?_
      exact keeps_refl _ _
    · refine keeps_step (keeps_mapBad _ _) rfl ?_
      refine keeps_step (keeps_rejectAgain _ _ _) rfl ?_
      refine keeps_mk ?_
      exact keeps_refl _ _

theorem keeps_takeReport : ∀ x0 s, Keeps [.pho, .rve] s (@takeReport x0 s) := by
  intro x0 s
  unfold takeReport
  dsimp only
  refine keeps_ite ?_ ?_
  · refine keeps_step (keeps_raise _ _ _ _) rfl ?_
    refine keeps_mk ?_
    exact keeps_refl _ _
  · refine keeps_mk ?_
    exact keeps_refl _ _

theorem keeps_measureFrame : ∀ x0 s, Keeps [.pho, .rve] s (@measureFrame x0 s) := by
  intro x0 s
  unfold measureFrame
  refine keeps_step (keeps_takeReport _ _) rfl ?_
  refine keeps_mk ?_
  exact keeps_refl _ _

theorem keeps_judgeFrame : ∀ x0 s, Keeps [.out, .hif, .hdg, .lpl, .link, .rail, .rve, .yok, .eth,
    .mgt, .tst, .running, .maskQ] s (@judgeFrame x0 s).2 := by
  intro x0 s
  unfold judgeFrame
  dsimp only
  refine keeps_ite ?_ ?_
  · refine keeps_ite ?_ ?_
    · refine keeps_step (keeps_raiseCause _ _ _) rfl ?_
      refine keeps_foldl ?_ fun _ _ _ => ?_
      · refine keeps_ite ?_ ?_
        · refine keeps_step (keeps_raise _ _ _ _) rfl ?_
          refine keeps_ite ?_ ?_
          · refine keeps_step (keeps_raise _ _ _ _) rfl ?_
            refine keeps_mk ?_
            exact keeps_refl _ _
          · refine keeps_mk ?_
            exact keeps_refl _ _
        · refine keeps_ite ?_ ?_
          · refine keeps_step (keeps_raise _ _ _ _) rfl ?_
            refine keeps_mk ?_
            exact keeps_refl _ _
          · refine keeps_mk ?_
            exact keeps_refl _ _
      · refine keeps_ite ?_ ?_
        · refine keeps_step (keeps_raiseCause _ _ _) rfl ?_
          assumption
        · assumption
    · refine keeps_foldl ?_ fun _ _ _ => ?_
      · refine keeps_ite ?_ ?_
        · refine keeps_step (keeps_raise _ _ _ _) rfl ?_
          refine keeps_ite ?_ ?_
          · refine keeps_step (keeps_raise _ _ _ _) rfl ?_
            refine keeps_mk ?_
            exact keeps_refl _ _
          · refine keeps_mk ?_
            exact keeps_refl _ _
        · refine keeps_ite ?_ ?_
          · refine keeps_step (keeps_raise _ _ _ _) rfl ?_
            refine keeps_mk ?_
            exact keeps_refl _ _
          · refine keeps_mk ?_
            exact keeps_refl _ _
      · refine keeps_ite ?_ ?_
        · refine keeps_step (keeps_raiseCause _ _ _) rfl ?_
          assumption
        · assumption
  · refine keeps_step (keeps_mapBad _ _) rfl ?_
    refine keeps_ite ?_ ?_
    · refine keeps_step (keeps_raiseCause _ _ _) rfl ?_
      refine keeps_foldl ?_ fun _ _ _ => ?_
      · refine keeps_ite ?_ ?_
        · refine keeps_step (keeps_raise _ _ _ _) rfl ?_
          refine keeps_ite ?_ ?_
          · refine keeps_step (keeps_raise _ _ _ _) rfl ?_
            refine keeps_mk ?_
            exact keeps_refl _ _
          · refine keeps_mk ?_
            exact keeps_refl _ _
        · refine keeps_ite ?_ ?_
          · refine keeps_step (keeps_raise _ _ _ _) rfl ?_
            refine keeps_mk ?_
            exact keeps_refl _ _
          · refine keeps_mk ?_
            exact keeps_refl _ _
      · refine keeps_ite ?_ ?_
        · refine keeps_step (keeps_raiseCause _ _ _) rfl ?_
          assumption
        · assumption
    · refine keeps_foldl ?_ fun _ _ _ => ?_
      · refine keeps_ite ?_ ?_
        · refine keeps_step (keeps_raise _ _ _ _) rfl ?_
          refine keeps_ite ?_ ?_
          · refine keeps_step (keeps_raise _ _ _ _) rfl ?_
            refine keeps_mk ?_
            exact keeps_refl _ _
          · refine keeps_mk ?_
            exact keeps_refl _ _
        · refine keeps_ite ?_ ?_
          · refine keeps_step (keeps_raise _ _ _ _) rfl ?_
            refine keeps_mk ?_
            exact keeps_refl _ _
          · refine keeps_mk ?_
            exact keeps_refl _ _
      · refine keeps_ite ?_ ?_
        · refine keeps_step (keeps_raiseCause _ _ _) rfl ?_
          assumption
        · assumption

theorem keeps_chooseBuffer : ∀ s, Keeps [.out, .hif, .pho, .hdg, .lpl, .link, .rail, .rve, .yok,
    .eth, .mgt, .tst, .running, .maskQ] s (@chooseBuffer s).2 := by
  intro s
  unfold chooseBuffer
  split
  · dsimp only
    refine keeps_step (keeps_scanAgain _ _) rfl ?_
    refine keeps_mk ?_
    exact keeps_refl _ _
  · split
    · dsimp only
      refine keeps_step (keeps_scanAgain _ _) rfl ?_
      refine keeps_ite ?_ ?_
      · refine keeps_mk ?_
        exact keeps_refl _ _
      · refine keeps_mk ?_
        exact keeps_refl _ _
    · dsimp only
      split
      · dsimp only
        refine keeps_step (keeps_scanAgain _ _) rfl ?_
        refine keeps_mk ?_
        exact keeps_refl _ _
      · dsimp only
        refine keeps_ite ?_ ?_
        · refine keeps_mk ?_
          refine keeps_step (keeps_judgeFrame _ _) rfl ?_
          refine keeps_step (keeps_measureFrame _ _) rfl ?_
          refine keeps_mk ?_
          exact keeps_refl _ _
        · refine keeps_step (keeps_scanAgain _ _) rfl ?_
          refine keeps_step (keeps_judgeFrame _ _) rfl ?_
          refine keeps_step (keeps_measureFrame _ _) rfl ?_
          refine keeps_mk ?_
          exact keeps_refl _ _

theorem keeps_activateConfirmed : ∀ s, Keeps [.out, .hif, .pho, .hdg, .lpl, .link, .rail, .rve,
    .yok, .eth, .mgt, .boot, .tst, .running, .maskQ] s (@activateConfirmed s) := by
  intro s
  unfold activateConfirmed
  split
  · exact keeps_refl _ _
  · dsimp only
    refine keeps_step (keeps_settleRails _) rfl ?_
    refine keeps_step (keeps_evalInputs _) rfl ?_
    refine keeps_foldl ?_ fun _ _ _ => ?_
    · refine keeps_step (keeps_activateBlock _ _ _) rfl ?_
      refine keeps_mk ?_
      exact keeps_refl _ _
    · refine keeps_step (keeps_complete _ _ _ _ _) rfl ?_
      assumption

theorem keeps_endPathTest : ∀ s, Keeps [.free, .hif, .hdg, .lpl, .rve, .yok, .eth, .mgt, .running,
    .maskQ] s (@endPathTest s) := by
  intro s
  unfold endPathTest
  split
  · refine keeps_ite ?_ ?_
    · dsimp only
      refine keeps_step (keeps_endTest _ _ _) rfl ?_
      refine keeps_step (keeps_freshBits _ _) rfl ?_
      exact keeps_refl _ _
    · exact keeps_refl _ _
  · exact keeps_refl _ _

theorem keeps_hedgeAtLatch : ∀ x0 s, Keeps [.free, .out, .hif, .pho, .hdg, .lpl, .link, .rail, .rve,
    .yok, .eth, .mgt, .boot, .tst, .running, .maskQ] s (@hedgeAtLatch x0 s) := by
  intro x0 s
  unfold hedgeAtLatch
  dsimp only
  refine keeps_step (keeps_followState _ _) rfl ?_
  refine keeps_step (keeps_activateConfirmed _) rfl ?_
  refine keeps_step (keeps_releaseCauses _) rfl ?_
  refine keeps_step (keeps_endPathTest _) rfl ?_
  refine keeps_mk ?_
  refine keeps_ite ?_ ?_
  · exact keeps_refl _ _
  · refine keeps_step (keeps_selfFault _ _) rfl ?_
    exact keeps_refl _ _

theorem keeps_lockAtLatch : ∀ s, Keeps [.lpl] s (@lockAtLatch s) := by
  intro s
  unfold lockAtLatch
  refine keeps_ite ?_ ?_
  · exact keeps_refl _ _
  · dsimp only
    refine keeps_ite ?_ ?_
    · refine keeps_step (keeps_declareLock _) rfl ?_
      refine keeps_mk ?_
      exact keeps_refl _ _
    · refine keeps_mk ?_
      exact keeps_refl _ _

theorem keeps_auxAtLatch : ∀ s x1, Keeps [.out, .aux] s (@auxAtLatch s x1) := by
  intro s x1
  unfold auxAtLatch
  dsimp only
  refine keeps_mk ?_
  refine keeps_ite ?_ ?_
  · refine keeps_step (keeps_emit _ _) rfl ?_
    exact keeps_refl _ _
  · exact keeps_refl _ _

theorem keeps_switchPlane : ∀ s, Keeps [.hif, .pho, .lpl, .pxh, .rve, .eth, .mgt, .running, .maskQ]
    s (@switchPlane s) := by
  intro s
  unfold switchPlane
  split
  · dsimp only
    split
    · refine keeps_step (keeps_takeDone _ _ _ _) rfl ?_
      refine keeps_mk ?_
      exact keeps_refl _ _
    · refine keeps_mk ?_
      exact keeps_refl _ _
  · exact keeps_refl _ _

theorem keeps_restartPaced : ∀ s, Keeps [.dma] s (@restartPaced s) := by
  intro s
  unfold restartPaced
  refine keeps_mk ?_
  exact keeps_refl _ _

theorem keeps_chainLens : ∀ s, Keeps [.link] s (@chainLens s) := by
  intro s
  unfold chainLens
  refine keeps_mk ?_
  exact keeps_refl _ _

theorem keeps_wakeAtLatch : ∀ s, Keeps [.lpl, .pwr] s (@wakeAtLatch s) := by
  intro s
  unfold wakeAtLatch
  split
  · split
    · refine keeps_ite ?_ ?_
      · refine keeps_mk ?_
        exact keeps_refl _ _
      · refine keeps_step (keeps_governTiming _) rfl ?_
        refine keeps_mk ?_
        exact keeps_refl _ _
    · exact keeps_refl _ _
  · exact keeps_refl _ _

theorem keeps_latchBegin : ∀ x0 x1 s, Keeps [.free, .out, .hif, .dma, .pho, .hdg, .lpl, .link, .pxh,
    .rail, .thm, .rve, .yok, .eth, .mgt, .boot, .aux, .tst, .running, .maskQ] s (@latchBegin x0 x1
    s).2 := by
  intro x0 x1 s
  unfold latchBegin
  dsimp only
  refine keeps_step (keeps_calAtVbi _) rfl ?_
  refine keeps_step (keeps_applyCal _) rfl ?_
  refine keeps_foldl ?_ fun _ _ _ => ?_
  · refine keeps_step (keeps_restartPaced _) rfl ?_
    refine keeps_step (keeps_switchPlane _) rfl ?_
    refine keeps_step (keeps_lockAtLatch _) rfl ?_
    refine keeps_step (keeps_hedgeAtLatch _ _) rfl ?_
    refine keeps_foldl ?_ fun _ _ _ => ?_
    · refine keeps_step (keeps_chainLens _) rfl ?_
      refine keeps_step (keeps_testAtLatch _) rfl ?_
      refine keeps_foldl ?_ fun _ _ _ => ?_
      · refine keeps_step (keeps_sendLats _ _ _) rfl ?_
        refine keeps_step (keeps_chooseBuffer _) rfl ?_
        refine keeps_mk ?_
        exact keeps_refl _ _
      · refine keeps_step (keeps_slotRun _ _ _ _) rfl ?_
        assumption
    · refine keeps_step (keeps_flushCtl _ _) rfl ?_
      assumption
  · refine keeps_step (keeps_auxAtLatch _ _) rfl ?_
    assumption

theorem keeps_countMasks : ∀ s, Keeps [.yok] s (@countMasks s) := by
  intro s
  unfold countMasks
  refine keeps_mk ?_
  exact keeps_refl _ _

theorem keeps_shareCounts : ∀ x0 s, Keeps [.out, .hif, .hdg, .lpl, .link, .rail, .rve, .yok, .eth,
    .mgt, .tst, .running, .maskQ] s (@shareCounts x0 s) := by
  intro x0 s
  unfold shareCounts
  refine keeps_step (keeps_yokeAtLatch _ _) rfl ?_
  refine keeps_mk ?_
  exact keeps_refl _ _

theorem keeps_latchTakes : ∀ s, Keeps [.out, .hif, .cmp, .pho, .lpl, .link, .pxh, .pwr, .rve, .yok,
    .eth, .mgt, .aux, .running, .maskQ] s (@latchTakes s) := by
  intro s
  unfold latchTakes
  refine keeps_ite ?_ ?_
  · refine keeps_step (keeps_takeAll _ _) rfl ?_
    exact keeps_refl _ _
  · refine keeps_mk ?_
    exact keeps_refl _ _

theorem keeps_latch : ∀ x0 x1 s, Keeps [.free, .out, .hif, .dma, .cmp, .pho, .hdg, .lpl, .link,
    .pxh, .rail, .pwr, .thm, .rve, .yok, .eth, .mgt, .boot, .aux, .tst, .running, .maskQ] s (@latch
    x0 x1 s) := by
  intro x0 x1 s
  unfold latch
  dsimp only
  refine keeps_step (keeps_lowRails _) rfl ?_
  refine keeps_step (keeps_wakeAtLatch _) rfl ?_
  refine keeps_step (keeps_latchTakes _) rfl ?_
  refine keeps_step (keeps_shareCounts _ _) rfl ?_
  refine keeps_step (keeps_countMasks _) rfl ?_
  refine keeps_step (keeps_latchBegin _ _ _) rfl ?_
  exact keeps_refl _ _

theorem keeps_execLatchPoint : ∀ x0 x1 s, ∃ t, @execLatchPoint x0 x1 s = .next t ∧ Keeps [.free,
    .out, .hif, .dma, .cmp, .pho, .hdg, .lpl, .link, .pxh, .rail, .pwr, .thm, .rve, .yok, .eth,
    .mgt, .boot, .aux, .tst, .running, .maskQ] s t := by
  intro x0 x1 s
  unfold execLatchPoint
  refine ⟨_, rfl, ?_⟩
  refine keeps_whenS ?_ fun _ => ?_
  · exact keeps_refl _ _
  · refine keeps_step (keeps_latch _ _ _) rfl ?_
    exact keeps_refl _ _

theorem keeps_lateTake : ∀ s, Keeps [.out, .hif, .cmp, .pho, .lpl, .link, .pxh, .pwr, .rve, .yok,
    .eth, .mgt, .aux, .running, .maskQ] s (@lateTake s) := by
  intro s
  unfold lateTake
  refine keeps_ite ?_ ?_
  · refine keeps_step (keeps_takeAll _ _) rfl ?_
    exact keeps_refl _ _
  · exact keeps_refl _ _

theorem keeps_followLatch : ∀ x0 s, Keeps [.lpl, .yok] s (@followLatch x0 s) := by
  intro x0 s
  unfold followLatch
  dsimp only
  refine keeps_ite ?_ ?_
  · refine keeps_mk ?_
    exact keeps_refl _ _
  · refine keeps_ite ?_ ?_
    · refine keeps_mk ?_
      exact keeps_refl _ _
    · refine keeps_mk ?_
      exact keeps_refl _ _

theorem keeps_holderLatch : ∀ x0 x1 s, Keeps [.lpl, .yok] s (@holderLatch x0 x1 s) := by
  intro x0 x1 s
  unfold holderLatch
  dsimp only
  refine keeps_ite ?_ ?_
  · refine keeps_mk ?_
    refine keeps_ite ?_ ?_
    · refine keeps_step (keeps_rebase _) rfl ?_
      refine keeps_mk ?_
      exact keeps_refl _ _
    · refine keeps_mk ?_
      exact keeps_refl _ _
  · refine keeps_ite ?_ ?_
    · refine keeps_step (keeps_rebase _) rfl ?_
      refine keeps_mk ?_
      exact keeps_refl _ _
    · refine keeps_mk ?_
      exact keeps_refl _ _

theorem keeps_execYokeLatchMsg : ∀ x0 s, ∃ t, @execYokeLatchMsg x0 s = .next t ∧ Keeps [.out, .hif,
    .cmp, .pho, .lpl, .link, .pxh, .pwr, .rve, .yok, .eth, .mgt, .aux, .running, .maskQ] s t := by
  intro x0 s
  unfold execYokeLatchMsg
  refine ⟨_, rfl, ?_⟩
  refine keeps_whenS ?_ fun _ => ?_
  · exact keeps_refl _ _
  · dsimp only
    refine keeps_ite ?_ ?_
    · refine keeps_step (keeps_lateTake _) rfl ?_
      refine keeps_step (keeps_handoverDone _) rfl ?_
      refine keeps_ite ?_ ?_
      · refine keeps_step (keeps_holderLatch _ _ _) rfl ?_
        refine keeps_mk ?_
        refine keeps_step (keeps_heard _) rfl ?_
        exact keeps_refl _ _
      · refine keeps_ite ?_ ?_
        · refine keeps_step (keeps_followLatch _ _) rfl ?_
          refine keeps_mk ?_
          refine keeps_step (keeps_heard _) rfl ?_
          exact keeps_refl _ _
        · refine keeps_mk ?_
          refine keeps_step (keeps_heard _) rfl ?_
          exact keeps_refl _ _
    · refine keeps_step (keeps_handoverDone _) rfl ?_
      refine keeps_ite ?_ ?_
      · refine keeps_step (keeps_holderLatch _ _ _) rfl ?_
        refine keeps_mk ?_
        refine keeps_step (keeps_heard _) rfl ?_
        exact keeps_refl _ _
      · refine keeps_ite ?_ ?_
        · refine keeps_step (keeps_followLatch _ _) rfl ?_
          refine keeps_mk ?_
          refine keeps_step (keeps_heard _) rfl ?_
          exact keeps_refl _ _
        · refine keeps_mk ?_
          refine keeps_step (keeps_heard _) rfl ?_
          exact keeps_refl _ _

theorem keeps_execYokeAlignTimeout : ∀ s, ∃ t, @execYokeAlignTimeout s = .next t ∧ Keeps [.out,
    .hif, .cmp, .pho, .lpl, .link, .pxh, .pwr, .rve, .yok, .eth, .mgt, .aux, .running, .maskQ] s t
    := by
  intro s
  unfold execYokeAlignTimeout
  refine ⟨_, rfl, ?_⟩
  refine keeps_whenS ?_ fun _ => ?_
  · exact keeps_refl _ _
  · refine keeps_step (keeps_takeAll _ _) rfl ?_
    refine keeps_mk ?_
    exact keeps_refl _ _

end Sys2Proof.Laws
end

