-- ==== Sys2Proof/Laws/KeepComposition.lean ====
section
/-!
SUPPORT. Which parts of the state the operations of Composition.lean leave alone.
-/

namespace Sys2Proof.Laws

-- Each proof is checked before the next begins: hundreds at once would ask for a thread each.
set_option Elab.async false
set_option linter.all false

open Sys2Proof Sys2Proof.Machine Sys2Proof.Safety

theorem keeps_pacedStart : ∀ x0 s, Keeps [.dma] s (@pacedStart x0 s) := by
  intro x0 s
  unfold pacedStart
  dsimp only
  refine keeps_mk ?_
  exact keeps_refl _ _

theorem keeps_startTaken : ∀ x0 s, Keeps [.hif, .cmp, .lpl, .rve, .eth, .mgt, .running, .maskQ] s
    (@startTaken x0 s) := by
  intro x0 s
  unfold startTaken
  dsimp only
  refine keeps_foldl ?_ fun _ _ _ => ?_
  · refine keeps_mk ?_
    refine keeps_ite ?_ ?_
    · refine keeps_mk ?_
      refine keeps_ite ?_ ?_
      · refine keeps_mk ?_
        exact keeps_refl _ _
      · exact keeps_refl _ _
    · refine keeps_ite ?_ ?_
      · refine keeps_mk ?_
        exact keeps_refl _ _
      · exact keeps_refl _ _
  · refine keeps_step (keeps_complete _ _ _ _ _) rfl ?_
    assumption

theorem keeps_capLevels : ∀ s, Keeps [.thm] s (@capLevels s) := by
  intro s
  unfold capLevels
  dsimp only
  refine keeps_mk ?_
  exact keeps_refl _ _

theorem keeps_startLevel : ∀ s, Keeps [.thm] s (@startLevel s) := by
  intro s
  unfold startLevel
  refine keeps_mk ?_
  exact keeps_refl _ _

theorem keeps_startComposition : ∀ s, Keeps [.free, .hif, .dma, .grn, .cmp, .pho, .lpl, .pxh, .thm,
    .rve, .yok, .eth, .mgt, .running, .maskQ] s (@startComposition s) := by
  intro s
  unfold startComposition
  dsimp only
  refine keeps_foldl ?_ fun _ _ _ => ?_
  · refine keeps_step (keeps_frameEcc _ _) rfl ?_
    refine keeps_step (keeps_pacedStart _ _) rfl ?_
    refine keeps_mk ?_
    refine keeps_step (keeps_setsTaken _ _) rfl ?_
    refine keeps_mk ?_
    refine keeps_step (keeps_startTaken _ _) rfl ?_
    refine keeps_step (keeps_startLevel _) rfl ?_
    refine keeps_step (keeps_startFactors _) rfl ?_
    exact keeps_refl _ _
  · refine keeps_step (keeps_frameDenied _ _ _) rfl ?_
    assumption

theorem keeps_sendShared : ∀ s, Keeps [.out] s (@sendShared s) := by
  intro s
  unfold sendShared
  refine keeps_ite ?_ ?_
  · dsimp only
    refine keeps_step (keeps_sendYoke _ _ _) rfl ?_
    exact keeps_refl _ _
  · exact keeps_refl _ _

theorem keeps_tearGuard : ∀ s, Keeps [.lpl] s (@tearGuard s) := by
  intro s
  unfold tearGuard
  dsimp only
  refine keeps_mk ?_
  exact keeps_refl _ _

theorem keeps_startScan : ∀ s, Keeps [.lpl] s (@startScan s) := by
  intro s
  unfold startScan
  dsimp only
  refine keeps_mk ?_
  refine keeps_ite ?_ ?_
  · refine keeps_step (keeps_tearGuard _) rfl ?_
    exact keeps_refl _ _
  · refine keeps_mk ?_
    exact keeps_refl _ _

theorem keeps_execVbiEnd : ∀ s, ∃ t, @execVbiEnd s = .next t ∧ Keeps [.free, .out, .hif, .dma, .grn,
    .cmp, .pho, .lpl, .link, .pxh, .thm, .rve, .yok, .eth, .mgt, .running, .maskQ] s t := by
  intro s
  unfold execVbiEnd
  refine ⟨_, rfl, ?_⟩
  refine keeps_whenS ?_ fun _ => ?_
  · exact keeps_refl _ _
  · dsimp only
    refine keeps_step (keeps_startScan _) rfl ?_
    refine keeps_mk ?_
    refine keeps_ite ?_ ?_
    · refine keeps_step (keeps_startComposition _) rfl ?_
      refine keeps_step (keeps_takeOverrides _) rfl ?_
      refine keeps_step (keeps_sendShared _) rfl ?_
      refine keeps_step (keeps_takeTemps _) rfl ?_
      refine keeps_step (keeps_enterHealth _) rfl ?_
      refine keeps_ite ?_ ?_
      · refine keeps_step (keeps_capLevels _) rfl ?_
        exact keeps_refl _ _
      · exact keeps_refl _ _
    · refine keeps_step (keeps_takeOverrides _) rfl ?_
      refine keeps_step (keeps_sendShared _) rfl ?_
      refine keeps_step (keeps_takeTemps _) rfl ?_
      refine keeps_step (keeps_enterHealth _) rfl ?_
      refine keeps_ite ?_ ?_
      · refine keeps_step (keeps_capLevels _) rfl ?_
        exact keeps_refl _ _
      · exact keeps_refl _ _

theorem keeps_countOver : ∀ x0 s x2, Keeps [.cmp, .rve] s (@countOver x0 s x2) := by
  intro x0 s x2
  unfold countOver
  split
  · exact keeps_refl _ _
  · dsimp only
    refine keeps_ite ?_ ?_
    · exact keeps_refl _ _
    · refine keeps_step (keeps_raise _ _ _ _) rfl ?_
      refine keeps_mk ?_
      exact keeps_refl _ _

theorem keeps_bufferWritten : ∀ x0 s, Keeps [.grn] s (@bufferWritten x0 s) := by
  intro x0 s
  unfold bufferWritten
  dsimp only
  refine keeps_mk ?_
  exact keeps_refl _ _

theorem keeps_execCompositionComplete : ∀ s, ∃ t, @execCompositionComplete s = .next t ∧ Keeps
    [.free, .grn, .cmp, .lpl, .rve] s t := by
  intro s
  unfold execCompositionComplete
  refine ⟨_, rfl, ?_⟩
  refine keeps_whenS ?_ fun _ => ?_
  · exact keeps_refl _ _
  · split
    · exact keeps_refl _ _
    · refine keeps_ite ?_ ?_
      · exact keeps_refl _ _
      · dsimp only
        refine keeps_foldl ?_ fun _ _ _ => ?_
        · refine keeps_foldl ?_ fun _ _ _ => ?_
          · refine keeps_step (keeps_bufferWritten _ _) rfl ?_
            refine keeps_mk ?_
            exact keeps_refl _ _
          · refine keeps_step (keeps_lateDenied _ _ _) rfl ?_
            assumption
        · refine keeps_step (keeps_countOver _ _ _) rfl ?_
          assumption

end Sys2Proof.Laws
end

