-- ==== Sys2Proof/Laws/KeepBell.lean ====
section
/-!
SUPPORT. Which parts of the state the operations of Bell.lean leave alone.
-/

namespace Sys2Proof.Laws

-- Each proof is checked before the next begins: hundreds at once would ask for a thread each.
set_option Elab.async false
set_option linter.all false

open Sys2Proof Sys2Proof.Machine Sys2Proof.Safety

theorem keeps_belSignal : ∀ x0 s, Keeps [.out, .hif] s (@belSignal x0 s) := by
  intro x0 s
  unfold belSignal
  refine keeps_ite ?_ ?_
  · refine keeps_step (keeps_signalVec _ _) rfl ?_
    exact keeps_refl _ _
  · exact keeps_refl _ _

theorem keeps_setTimeState : ∀ x0 x1 x2 s, Keeps [.out, .hif, .rve, .bel] s (@setTimeState x0 x1 x2
    s) := by
  intro x0 x1 x2 s
  unfold setTimeState
  refine keeps_ite ?_ ?_
  · exact keeps_refl _ _
  · dsimp only
    refine keeps_step (keeps_belSignal _ _) rfl ?_
    refine keeps_mk ?_
    refine keeps_ite ?_ ?_
    · refine keeps_step (keeps_raise _ _ _ _) rfl ?_
      refine keeps_mk ?_
      exact keeps_refl _ _
    · exact keeps_refl _ _

theorem keeps_loseLock : ∀ x0 x1 s, Keeps [.out, .hif, .rve, .bel] s (@loseLock x0 x1 s) := by
  intro x0 x1 s
  unfold loseLock
  refine keeps_ite ?_ ?_
  · refine keeps_step (keeps_setTimeState _ _ _ _) rfl ?_
    exact keeps_refl _ _
  · exact keeps_refl _ _

theorem keeps_settleFree : ∀ s, Keeps [.out, .hif, .rve, .bel] s (@settleFree s) := by
  intro s
  unfold settleFree
  refine keeps_ite ?_ ?_
  · refine keeps_step (keeps_setTimeState _ _ _ _) rfl ?_
    exact keeps_refl _ _
  · exact keeps_refl _ _

theorem keeps_dropTurns : ∀ s, Keeps [.eth] s (@dropTurns s) := by
  intro s
  unfold dropTurns
  refine keeps_mk ?_
  exact keeps_refl _ _

theorem keeps_stepTime : ∀ x0 s, Keeps [.bel, .eth] s (@stepTime x0 s) := by
  intro x0 s
  unfold stepTime
  dsimp only
  refine keeps_mk ?_
  refine keeps_step (keeps_dropTurns _) rfl ?_
  exact keeps_refl _ _

theorem keeps_setTime : ∀ x0 s, Keeps [.bel, .eth] s (@setTime x0 s) := by
  intro x0 s
  unfold setTime
  dsimp only
  refine keeps_mk ?_
  refine keeps_step (keeps_dropTurns _) rfl ?_
  exact keeps_refl _ _

theorem keeps_writeRate : ∀ x0 s, Keeps [.bel] s (@writeRate x0 s) := by
  intro x0 s
  unfold writeRate
  refine keeps_mk ?_
  exact keeps_refl _ _

theorem keeps_dropIntegrator : ∀ s, Keeps [.bel] s (@dropIntegrator s) := by
  intro s
  unfold dropIntegrator
  refine keeps_mk ?_
  exact keeps_refl _ _

theorem keeps_servo : ∀ x0 x1 s, Keeps [.out, .hif, .rve, .bel, .eth] s (@servo x0 x1 s) := by
  intro x0 x1 s
  unfold servo
  dsimp only
  refine keeps_ite ?_ ?_
  · refine keeps_step (keeps_setTimeState _ _ _ _) rfl ?_
    refine keeps_mk ?_
    refine keeps_step (keeps_stepTime _ _) rfl ?_
    exact keeps_refl _ _
  · refine keeps_step (keeps_writeRate _ _) rfl ?_
    refine keeps_mk ?_
    exact keeps_refl _ _

theorem keeps_judgeSample : ∀ x0 x1 s, Keeps [.out, .hif, .rve, .bel] s (@judgeSample x0 x1 s) := by
  intro x0 x1 s
  unfold judgeSample
  dsimp only
  refine keeps_ite ?_ ?_
  · refine keeps_step (keeps_setTimeState _ _ _ _) rfl ?_
    refine keeps_mk ?_
    refine keeps_ite ?_ ?_
    · refine keeps_step (keeps_setTimeState _ _ _ _) rfl ?_
      refine keeps_mk ?_
      exact keeps_refl _ _
    · exact keeps_refl _ _
  · refine keeps_ite ?_ ?_
    · refine keeps_step (keeps_setTimeState _ _ _ _) rfl ?_
      refine keeps_mk ?_
      refine keeps_ite ?_ ?_
      · refine keeps_step (keeps_setTimeState _ _ _ _) rfl ?_
        refine keeps_mk ?_
        exact keeps_refl _ _
      · exact keeps_refl _ _
    · refine keeps_mk ?_
      refine keeps_ite ?_ ?_
      · refine keeps_step (keeps_setTimeState _ _ _ _) rfl ?_
        refine keeps_mk ?_
        exact keeps_refl _ _
      · exact keeps_refl _ _

theorem keeps_sampleDt : ∀ s, Keeps [.free] s (@sampleDt s).2 := by
  intro s
  unfold sampleDt
  split
  · dsimp only
    exact keeps_refl _ _
  · dsimp only
    refine keeps_step (keeps_freshBits _ _) rfl ?_
    exact keeps_refl _ _

theorem keeps_takeSample : ∀ x0 x1 x2 s, Keeps [.free, .out, .hif, .rve, .bel, .eth] s (@takeSample
    x0 x1 x2 s) := by
  intro x0 x1 x2 s
  unfold takeSample
  dsimp only
  split
  · refine keeps_ite ?_ ?_
    · refine keeps_step (keeps_setTimeState _ _ _ _) rfl ?_
      refine keeps_mk ?_
      refine keeps_step (keeps_sampleDt _) rfl ?_
      refine keeps_step (keeps_belSignal _ _) rfl ?_
      refine keeps_mk ?_
      exact keeps_refl _ _
    · refine keeps_step (keeps_setTimeState _ _ _ _) rfl ?_
      refine keeps_mk ?_
      refine keeps_step (keeps_sampleDt _) rfl ?_
      refine keeps_step (keeps_belSignal _ _) rfl ?_
      refine keeps_mk ?_
      exact keeps_refl _ _
  · refine keeps_step (keeps_judgeSample _ _ _) rfl ?_
    refine keeps_step (keeps_servo _ _ _) rfl ?_
    refine keeps_mk ?_
    refine keeps_step (keeps_sampleDt _) rfl ?_
    refine keeps_step (keeps_belSignal _ _) rfl ?_
    refine keeps_mk ?_
    exact keeps_refl _ _
  · refine keeps_step (keeps_judgeSample _ _ _) rfl ?_
    refine keeps_mk ?_
    refine keeps_step (keeps_sampleDt _) rfl ?_
    refine keeps_step (keeps_belSignal _ _) rfl ?_
    refine keeps_mk ?_
    exact keeps_refl _ _

theorem keeps_measureTrim : ∀ s, Keeps [.free, .bel] s (@measureTrim s) := by
  intro s
  unfold measureTrim
  dsimp only
  refine keeps_mk ?_
  refine keeps_step (keeps_freshBits _ _) rfl ?_
  exact keeps_refl _ _

theorem keeps_execBelTimeNsRead : ∀ s, ∃ t, @execBelTimeNsRead s = .next t ∧ Keeps [.out, .bel] s t
    := by
  intro s
  unfold execBelTimeNsRead
  refine ⟨_, rfl, ?_⟩
  refine keeps_whenS ?_ fun _ => ?_
  · exact keeps_refl _ _
  · dsimp only
    refine keeps_step (keeps_emit _ _) rfl ?_
    refine keeps_mk ?_
    exact keeps_refl _ _

theorem keeps_execBelCntClearCount : ∀ s, ∃ t, @execBelCntClearCount s = .next t ∧ Keeps [.bel] s t
    := by
  intro s
  unfold execBelCntClearCount
  refine ⟨_, rfl, ?_⟩
  refine keeps_whenS ?_ fun _ => ?_
  · exact keeps_refl _ _
  · refine keeps_mk ?_
    exact keeps_refl _ _

theorem keeps_execBelRebase : ∀ s, ∃ t, @execBelRebase s = .next t ∧ Keeps [.bel] s t := by
  intro s
  unfold execBelRebase
  refine ⟨_, rfl, ?_⟩
  refine keeps_whenS ?_ fun _ => ?_
  · exact keeps_refl _ _
  · refine keeps_mk ?_
    exact keeps_refl _ _

theorem keeps_execFrcWrap : ∀ s, ∃ t, @execFrcWrap s = .next t ∧ Keeps [.bel] s t := by
  intro s
  unfold execFrcWrap
  refine ⟨_, rfl, ?_⟩
  refine keeps_whenS ?_ fun _ => ?_
  · exact keeps_refl _ _
  · refine keeps_mk ?_
    exact keeps_refl _ _

theorem keeps_cancelLaunch : ∀ s x1, Keeps [.hif, .lpl, .rve, .eth, .mgt, .running, .maskQ] s
    (@cancelLaunch s x1) := by
  intro s x1
  unfold cancelLaunch
  refine keeps_step (keeps_complete _ _ _ _ _) rfl ?_
  refine keeps_mk ?_
  exact keeps_refl _ _

theorem keeps_scheduleBody : BodyKeeps [.hif, .lpl, .rve, .yok, .bel, .eth, .mgt, .running, .maskQ]
    scheduleBody := by
  refine ⟨fun c s => ?_, fun c st s => ?_⟩
  · unfold scheduleBody
    dsimp only
    split
    · refine keeps_step (keeps_armLaunch _ _ _ _ _) rfl ?_
      exact keeps_refl _ _
    · refine keeps_step (keeps_complete _ _ _ _ _) rfl ?_
      refine keeps_mk ?_
      exact keeps_refl _ _
    · refine keeps_step (keeps_complete _ _ _ _ _) rfl ?_
      refine keeps_foldl ?_ fun _ _ _ => ?_
      · exact keeps_refl _ _
      · refine keeps_step (keeps_cancelLaunch _ _) rfl ?_
        assumption
    · refine keeps_step (keeps_complete _ _ _ _ _) rfl ?_
      refine keeps_mk ?_
      exact keeps_refl _ _
  · unfold scheduleBody
    dsimp only
    exact keeps_refl _ _

theorem keeps_execTimeSchedule : ∀ x0 x1 s, ∃ t, @execTimeSchedule x0 x1 s = .next t ∧ Keeps [.hif,
    .lpl, .rve, .yok, .bel, .eth, .mgt, .running, .nextSer, .maskQ] s t := by
  intro x0 x1 s
  unfold execTimeSchedule
  refine ⟨_, rfl, ?_⟩
  refine keeps_runRow rfl rfl keeps_scheduleBody ?_
  exact keeps_refl _ _

theorem keeps_modEth : ∀ x0 x1 s, Keeps [.eth] s (@modEth x0 x1 s) := by
  intro x0 x1 s
  unfold modEth
  refine keeps_mk ?_
  exact keeps_refl _ _

theorem keeps_restartPtp : ∀ x0 x1 s, Keeps [.out, .hif, .rve, .bel, .eth] s (@restartPtp x0 x1 s)
    := by
  intro x0 x1 s
  unfold restartPtp
  dsimp only
  refine keeps_step (keeps_settleFree _) rfl ?_
  refine keeps_ite ?_ ?_
  · refine keeps_step (keeps_loseLock _ _ _) rfl ?_
    refine keeps_step (keeps_modEth _ _ _) rfl ?_
    exact keeps_refl _ _
  · refine keeps_step (keeps_modEth _ _ _) rfl ?_
    exact keeps_refl _ _

theorem keeps_timeSetBody : BodyKeeps [.out, .hif, .lpl, .rve, .yok, .bel, .eth, .mgt, .running,
    .maskQ] timeSetBody := by
  refine ⟨fun c s => ?_, fun c st s => ?_⟩
  · unfold timeSetBody
    dsimp only
    split
    · refine keeps_step (keeps_finishOk _ _) rfl ?_
      refine keeps_step (keeps_settleFree _) rfl ?_
      refine keeps_step (keeps_dropIntegrator _) rfl ?_
      refine keeps_step (keeps_setTime _ _) rfl ?_
      exact keeps_refl _ _
    · refine keeps_step (keeps_finishOk _ _) rfl ?_
      refine keeps_step (keeps_settleFree _) rfl ?_
      refine keeps_step (keeps_dropIntegrator _) rfl ?_
      refine keeps_step (keeps_stepTime _ _) rfl ?_
      exact keeps_refl _ _
    · refine keeps_step (keeps_finishOk _ _) rfl ?_
      refine keeps_step (keeps_writeRate _ _) rfl ?_
      exact keeps_refl _ _
    · refine keeps_step (keeps_finishOk _ _) rfl ?_
      refine keeps_mk ?_
      exact keeps_refl _ _
    · refine keeps_step (keeps_finish _ _ _ _) rfl ?_
      exact keeps_refl _ _
    · refine keeps_step (keeps_finishOk _ _) rfl ?_
      refine keeps_step (keeps_restartPtp _ _ _) rfl ?_
      exact keeps_refl _ _
  · unfold timeSetBody
    dsimp only
    exact keeps_refl _ _

theorem keeps_execTimeSet : ∀ x0 x1 s, ∃ t, @execTimeSet x0 x1 s = .next t ∧ Keeps [.out, .hif,
    .lpl, .rve, .yok, .bel, .eth, .mgt, .running, .nextSer, .maskQ] s t := by
  intro x0 x1 s
  unfold execTimeSet
  refine ⟨_, rfl, ?_⟩
  refine keeps_runRow rfl rfl keeps_timeSetBody ?_
  exact keeps_refl _ _

theorem keeps_modPulse : ∀ x0 x1 s, Keeps [.bel] s (@modPulse x0 x1 s) := by
  intro x0 x1 s
  unfold modPulse
  refine keeps_mk ?_
  exact keeps_refl _ _

theorem keeps_startPps : ∀ x0 s, Keeps [.out, .bel] s (@startPps x0 s) := by
  intro x0 s
  unfold startPps
  refine keeps_step (keeps_emit _ _) rfl ?_
  refine keeps_step (keeps_modPulse _ _ _) rfl ?_
  exact keeps_refl _ _

theorem keeps_setPulse : ∀ x0 x1 s, Keeps [.out, .bel] s (@setPulse x0 x1 s) := by
  intro x0 x1 s
  unfold setPulse
  dsimp only
  refine keeps_ite ?_ ?_
  · refine keeps_step (keeps_startPps _ _) rfl ?_
    refine keeps_step (keeps_modPulse _ _ _) rfl ?_
    exact keeps_refl _ _
  · refine keeps_step (keeps_modPulse _ _ _) rfl ?_
    exact keeps_refl _ _

theorem keeps_pulseBody : BodyKeeps [.out, .hif, .lpl, .rve, .yok, .bel, .eth, .mgt, .running,
    .maskQ] pulseBody := by
  refine ⟨fun c s => ?_, fun c st s => ?_⟩
  · unfold pulseBody
    dsimp only
    refine keeps_step (keeps_finish _ _ _ _) rfl ?_
    refine keeps_ite ?_ ?_
    · refine keeps_step (keeps_modPulse _ _ _) rfl ?_
      exact keeps_refl _ _
    · refine keeps_step (keeps_setPulse _ _ _) rfl ?_
      exact keeps_refl _ _
  · unfold pulseBody
    dsimp only
    exact keeps_refl _ _

theorem keeps_execPulseSet : ∀ x0 x1 s, ∃ t, @execPulseSet x0 x1 s = .next t ∧ Keeps [.out, .hif,
    .lpl, .rve, .yok, .bel, .eth, .mgt, .running, .nextSer, .maskQ] s t := by
  intro x0 x1 s
  unfold execPulseSet
  refine ⟨_, rfl, ?_⟩
  refine keeps_runRow rfl rfl keeps_pulseBody ?_
  exact keeps_refl _ _

theorem keeps_execPulseEdge : ∀ x0 s, ∃ t, @execPulseEdge x0 s = .next t ∧ Keeps [.out, .bel] s t :=
    by
  intro x0 s
  unfold execPulseEdge
  refine ⟨_, rfl, ?_⟩
  refine keeps_whenS ?_ fun _ => ?_
  · exact keeps_refl _ _
  · refine keeps_step (keeps_startPps _ _) rfl ?_
    exact keeps_refl _ _

theorem keeps_execPulseEnd : ∀ x0 s, ∃ t, @execPulseEnd x0 s = .next t ∧ Keeps [.out, .bel] s t :=
    by
  intro x0 s
  unfold execPulseEnd
  dsimp only
  refine ⟨_, rfl, ?_⟩
  split
  · exact keeps_refl _ _
  · refine keeps_ite ?_ ?_
    · split
      · refine keeps_step (keeps_setPulse _ _ _) rfl ?_
        refine keeps_step (keeps_emit _ _) rfl ?_
        refine keeps_step (keeps_modPulse _ _ _) rfl ?_
        exact keeps_refl _ _
      · refine keeps_step (keeps_emit _ _) rfl ?_
        refine keeps_step (keeps_modPulse _ _ _) rfl ?_
        exact keeps_refl _ _
    · exact keeps_refl _ _

end Sys2Proof.Laws
end

