-- ==== Sys2Proof/Laws/KeepEth.lean ====
section
/-!
SUPPORT. Which parts of the state the operations of Eth.lean leave alone.
-/

namespace Sys2Proof.Laws

-- Each proof is checked before the next begins: hundreds at once would ask for a thread each.
set_option Elab.async false
set_option linter.all false

open Sys2Proof Sys2Proof.Machine Sys2Proof.Safety

theorem keeps_fcsBad : ∀ x0 s, Keeps [.rve, .eth] s (@fcsBad x0 s) := by
  intro x0 s
  unfold fcsBad
  dsimp only
  refine keeps_ite ?_ ?_
  · refine keeps_step (keeps_modEth _ _ _) rfl ?_
    exact keeps_refl _ _
  · refine keeps_step (keeps_raise _ _ _ _) rfl ?_
    refine keeps_step (keeps_modEth _ _ _) rfl ?_
    refine keeps_step (keeps_modEth _ _ _) rfl ?_
    exact keeps_refl _ _

theorem keeps_receive {l : List Zone} {s t : State} {p : Fin 2} {f : RxFrame} {g : Bool}
    {r : Eth → RxFrame → Bool} {h : State → State} (j : sub [.rve, .eth] l = true) (k : Keeps l s t) (e : Keeps l s (h t)) :
    Keeps l s (receive p f g r h t) := by
  unfold receive
  split
  · exact k
  · split
    · exact keeps_step (keeps_fcsBad _ _) j k
    · split
      · exact e
      · exact keeps_step (keeps_mono (keeps_modEth _ _ _) (m := [.rve, .eth]) rfl) j k

theorem keeps_ptpIgnore : ∀ x0 s, Keeps [.eth] s (@ptpIgnore x0 s) := by
  intro x0 s
  unfold ptpIgnore
  refine keeps_step (keeps_modEth _ _ _) rfl ?_
  exact keeps_refl _ _

theorem keeps_enqueue : ∀ x0 x1 x2 x3 s, Keeps [.eth] s (@enqueue x0 x1 x2 x3 s) := by
  intro x0 x1 x2 x3 s
  unfold enqueue
  refine keeps_ite ?_ ?_
  · refine keeps_step (keeps_modEth _ _ _) rfl ?_
    exact keeps_refl _ _
  · refine keeps_step (keeps_modEth _ _ _) rfl ?_
    exact keeps_refl _ _

theorem keeps_dropDatagram : ∀ x0 s, Keeps [.hif] s (@dropDatagram x0 s) := by
  intro x0 s
  unfold dropDatagram
  refine keeps_mk ?_
  exact keeps_refl _ _

theorem keeps_resend : ∀ x0 x1 x2 s, Keeps [.eth] s (@resend x0 x1 x2 s) := by
  intro x0 x1 x2 s
  unfold resend
  refine keeps_step (keeps_enqueue _ _ _ _ _) rfl ?_
  exact keeps_refl _ _

theorem keeps_takeCommand : ∀ x0 x1 s, Keeps [.hif, .eth] s (@takeCommand x0 x1 s) := by
  intro x0 x1 s
  unfold takeCommand
  dsimp only
  refine keeps_ite ?_ ?_
  · refine keeps_step (keeps_dropDatagram _ _) rfl ?_
    exact keeps_refl _ _
  · split
    · split
      · refine keeps_ite ?_ ?_
        · refine keeps_step (keeps_dropDatagram _ _) rfl ?_
          refine keeps_step (keeps_modEth _ _ _) rfl ?_
          exact keeps_refl _ _
        · refine keeps_step (keeps_resend _ _ _ _) rfl ?_
          refine keeps_step (keeps_modEth _ _ _) rfl ?_
          exact keeps_refl _ _
      · refine keeps_step (keeps_dropDatagram _ _) rfl ?_
        refine keeps_step (keeps_modEth _ _ _) rfl ?_
        exact keeps_refl _ _
    · refine keeps_ite ?_ ?_
      · refine keeps_step (keeps_dropDatagram _ _) rfl ?_
        split
        · refine keeps_step (keeps_modEth _ _ _) rfl ?_
          exact keeps_refl _ _
        · exact keeps_refl _ _
      · refine keeps_step (keeps_modEth _ _ _) rfl ?_
        refine keeps_mk ?_
        exact keeps_refl _ _

theorem keeps_execCommandDatagramReceived : ∀ x0 x1 s, ∃ t, @execCommandDatagramReceived x0 x1 s =
    .next t ∧ Keeps [.hif, .rve, .eth] s t := by
  intro x0 x1 s
  unfold execCommandDatagramReceived
  refine ⟨_, rfl, ?_⟩
  refine keeps_receive rfl ?_ ?_
  · exact keeps_refl _ _
  · refine keeps_step (keeps_takeCommand _ _ _) rfl ?_
    exact keeps_refl _ _

theorem keeps_execDatagramReply : ∀ x0 s, ∃ t, @execDatagramReply x0 s = .next t ∧ Keeps [.eth] s t
    := by
  intro x0 s
  unfold execDatagramReply
  refine ⟨_, rfl, ?_⟩
  refine keeps_ite ?_ ?_
  · exact keeps_refl _ _
  · split
    · exact keeps_refl _ _
    · dsimp only
      refine keeps_step (keeps_enqueue _ _ _ _ _) rfl ?_
      refine keeps_step (keeps_modEth _ _ _) rfl ?_
      exact keeps_refl _ _

theorem keeps_bulkWrite : ∀ x0 x1 x2 s, Keeps [.free, .grn, .mem, .rve, .yok] s (@bulkWrite x0 x1 x2
    s).2 := by
  intro x0 x1 x2 s
  unfold bulkWrite
  dsimp only
  split
  · dsimp only
    exact keeps_refl _ _
  · split
    · dsimp only
      exact keeps_refl _ _
    · split
      · dsimp only
        exact keeps_refl _ _
      · split
        · dsimp only
          exact keeps_refl _ _
        · split
          · dsimp only
            refine keeps_step (keeps_violation _ _ _ _ _) rfl ?_
            exact keeps_refl _ _
          · dsimp only
            refine keeps_step (keeps_coreWrite _ _ _) rfl ?_
            exact keeps_refl _ _

theorem keeps_drainBulk : ∀ x0 x1 s, Keeps [.free, .grn, .mem, .rve, .yok, .eth] s (@drainBulk x0 x1
    s) := by
  intro x0 x1 s
  induction x1 generalizing x0 s with
  | zero =>
    exact keeps_refl _ _
  | succ _ ih =>
    rw [drainBulk]
    split
    · refine keeps_ite ?_ ?_
      · dsimp only
        refine keeps_step (ih _ _) rfl ?_
        refine keeps_step (keeps_enqueue _ _ _ _ _) rfl ?_
        refine keeps_step (keeps_bulkWrite _ _ _ _) rfl ?_
        refine keeps_step (keeps_modEth _ _ _) rfl ?_
        exact keeps_refl _ _
      · exact keeps_refl _ _
    · exact keeps_refl _ _

theorem keeps_drainQueue : ∀ x0 s, Keeps [.free, .grn, .mem, .rve, .yok, .eth] s (@drainQueue x0 s)
    := by
  intro x0 s
  unfold drainQueue
  refine keeps_step (keeps_drainBulk _ _ _) rfl ?_
  exact keeps_refl _ _

theorem keeps_takeBulk : ∀ x0 x1 s, Keeps [.free, .hif, .grn, .mem, .rve, .yok, .eth] s (@takeBulk
    x0 x1 s) := by
  intro x0 x1 s
  unfold takeBulk
  dsimp only
  refine keeps_ite ?_ ?_
  · refine keeps_step (keeps_dropDatagram _ _) rfl ?_
    exact keeps_refl _ _
  · refine keeps_step (keeps_drainQueue _ _) rfl ?_
    refine keeps_step (keeps_modEth _ _ _) rfl ?_
    exact keeps_refl _ _

theorem keeps_execBulkDatagramReceived : ∀ x0 x1 s, ∃ t, @execBulkDatagramReceived x0 x1 s = .next t
    ∧ Keeps [.free, .hif, .grn, .mem, .rve, .yok, .eth] s t := by
  intro x0 x1 s
  unfold execBulkDatagramReceived
  refine ⟨_, rfl, ?_⟩
  refine keeps_receive rfl ?_ ?_
  · exact keeps_refl _ _
  · refine keeps_step (keeps_takeBulk _ _ _) rfl ?_
    exact keeps_refl _ _

theorem keeps_execArpRequestReceived : ∀ x0 x1 s, ∃ t, @execArpRequestReceived x0 x1 s = .next t ∧
    Keeps [.rve, .eth] s t := by
  intro x0 x1 s
  unfold execArpRequestReceived
  refine ⟨_, rfl, ?_⟩
  refine keeps_receive rfl ?_ ?_
  · exact keeps_refl _ _
  · refine keeps_step (keeps_enqueue _ _ _ _ _) rfl ?_
    exact keeps_refl _ _

theorem keeps_takeEchoRequest : ∀ x0 x1 s, Keeps [.eth] s (@takeEchoRequest x0 x1 s) := by
  intro x0 x1 s
  unfold takeEchoRequest
  dsimp only
  refine keeps_ite ?_ ?_
  · refine keeps_step (keeps_modEth _ _ _) rfl ?_
    exact keeps_refl _ _
  · refine keeps_step (keeps_enqueue _ _ _ _ _) rfl ?_
    refine keeps_step (keeps_modEth _ _ _) rfl ?_
    exact keeps_refl _ _

theorem keeps_execIcmpEchoReceived : ∀ x0 x1 s, ∃ t, @execIcmpEchoReceived x0 x1 s = .next t ∧ Keeps
    [.rve, .eth] s t := by
  intro x0 x1 s
  unfold execIcmpEchoReceived
  refine ⟨_, rfl, ?_⟩
  refine keeps_receive rfl ?_ ?_
  · exact keeps_refl _ _
  · refine keeps_step (keeps_takeEchoRequest _ _ _) rfl ?_
    exact keeps_refl _ _

theorem keeps_execEthLinkUp : ∀ x0 s, ∃ t, @execEthLinkUp x0 s = .next t ∧ Keeps [.eth] s t := by
  intro x0 s
  unfold execEthLinkUp
  dsimp only
  refine ⟨_, rfl, ?_⟩
  refine keeps_whenS ?_ fun _ => ?_
  · exact keeps_refl _ _
  · refine keeps_step (keeps_enqueue _ _ _ _ _) rfl ?_
    refine keeps_step (keeps_modEth _ _ _) rfl ?_
    exact keeps_refl _ _

theorem keeps_dropEgress : ∀ x0 s, Keeps [.eth] s (@dropEgress x0 s) := by
  intro x0 s
  unfold dropEgress
  refine keeps_step (keeps_modEth _ _ _) rfl ?_
  exact keeps_refl _ _

theorem keeps_ethLinkLost : ∀ x0 s, Keeps [.out, .hif, .rve, .bel, .eth] s (@ethLinkLost x0 s) := by
  intro x0 s
  unfold ethLinkLost
  dsimp only
  refine keeps_step (keeps_settleFree _) rfl ?_
  refine keeps_ite ?_ ?_
  · refine keeps_step (keeps_loseLock _ _ _) rfl ?_
    refine keeps_step (keeps_modEth _ _ _) rfl ?_
    refine keeps_step (keeps_dropEgress _ _) rfl ?_
    exact keeps_refl _ _
  · refine keeps_step (keeps_modEth _ _ _) rfl ?_
    refine keeps_step (keeps_dropEgress _ _) rfl ?_
    exact keeps_refl _ _

theorem keeps_execEthLinkDown : ∀ x0 s, ∃ t, @execEthLinkDown x0 s = .next t ∧ Keeps [.out, .hif,
    .rve, .bel, .eth] s t := by
  intro x0 s
  unfold execEthLinkDown
  refine ⟨_, rfl, ?_⟩
  refine keeps_whenS ?_ fun _ => ?_
  · exact keeps_refl _ _
  · refine keeps_step (keeps_ethLinkLost _ _) rfl ?_
    refine keeps_step (keeps_raise _ _ _ _) rfl ?_
    exact keeps_refl _ _

theorem keeps_markEligible : ∀ s x1 x2, Keeps [.eth] s (@markEligible s x1 x2) := by
  intro s x1 x2
  unfold markEligible
  dsimp only
  refine keeps_step (keeps_modEth _ _ _) rfl ?_
  exact keeps_refl _ _

theorem keeps_execEthLaunchEligible : ∀ x0 x1 s, ∃ t, @execEthLaunchEligible x0 x1 s = .next t ∧
    Keeps [.eth] s t := by
  intro x0 x1 s
  unfold execEthLaunchEligible
  refine ⟨_, rfl, ?_⟩
  refine keeps_whenS ?_ fun _ => ?_
  · exact keeps_refl _ _
  · refine keeps_step (keeps_markEligible _ _ _) rfl ?_
    exact keeps_refl _ _

theorem keeps_egressStamp : ∀ x0 s, Keeps [.free] s (@egressStamp x0 s).2 := by
  intro x0 s
  unfold egressStamp
  dsimp only
  refine keeps_step (keeps_freshBits _ _) rfl ?_
  exact keeps_refl _ _

theorem keeps_sendPtp : ∀ x0 x1 x2 x3 x4 x5 s, Keeps [.eth] s (@sendPtp x0 x1 x2 x3 x4 x5 s).2 := by
  intro x0 x1 x2 x3 x4 x5 s
  unfold sendPtp
  dsimp only
  split
  · split
    · dsimp only
      exact keeps_refl _ _
    · dsimp only
      refine keeps_step (keeps_enqueue _ _ _ _ _) rfl ?_
      exact keeps_refl _ _
  · split
    · dsimp only
      exact keeps_refl _ _
    · dsimp only
      refine keeps_step (keeps_enqueue _ _ _ _ _) rfl ?_
      exact keeps_refl _ _
  · dsimp only
    refine keeps_step (keeps_modEth _ _ _) rfl ?_
    exact keeps_refl _ _
  · dsimp only
    refine keeps_step (keeps_modEth _ _ _) rfl ?_
    exact keeps_refl _ _
  · dsimp only
    exact keeps_refl _ _

theorem keeps_sendFrame : ∀ x0 s, Keeps [.free, .out, .eth] s (@sendFrame x0 s) := by
  intro x0 s
  unfold sendFrame
  dsimp only
  split
  · refine keeps_foldl ?_ fun _ _ _ => ?_
    · exact keeps_refl _ _
    · refine keeps_step (keeps_markEligible _ _ _) rfl ?_
      assumption
  · split
    · refine keeps_foldl ?_ fun _ _ _ => ?_
      · exact keeps_refl _ _
      · refine keeps_step (keeps_markEligible _ _ _) rfl ?_
        assumption
    · refine keeps_step (keeps_emit _ _) rfl ?_
      split
      · refine keeps_step (keeps_sendPtp _ _ _ _ _ _ _) rfl ?_
        refine keeps_step (keeps_egressStamp _ _) rfl ?_
        refine keeps_step (keeps_modEth _ _ _) rfl ?_
        refine keeps_foldl ?_ fun _ _ _ => ?_
        · exact keeps_refl _ _
        · refine keeps_step (keeps_markEligible _ _ _) rfl ?_
          assumption
      · dsimp only
        refine keeps_step (keeps_egressStamp _ _) rfl ?_
        refine keeps_step (keeps_modEth _ _ _) rfl ?_
        refine keeps_foldl ?_ fun _ _ _ => ?_
        · exact keeps_refl _ _
        · refine keeps_step (keeps_markEligible _ _ _) rfl ?_
          assumption

theorem keeps_execEthFrameTransmit : ∀ x0 s, ∃ t, @execEthFrameTransmit x0 s = .next t ∧ Keeps
    [.free, .out, .eth] s t := by
  intro x0 s
  unfold execEthFrameTransmit
  refine ⟨_, rfl, ?_⟩
  refine keeps_whenS ?_ fun _ => ?_
  · exact keeps_refl _ _
  · refine keeps_step (keeps_sendFrame _ _) rfl ?_
    exact keeps_refl _ _

theorem keeps_syncSample : ∀ x0 x1 x2 x3 s, Keeps [.free, .out, .hif, .rve, .bel, .eth] s
    (@syncSample x0 x1 x2 x3 s) := by
  intro x0 x1 x2 x3 s
  unfold syncSample
  dsimp only
  refine keeps_step (keeps_takeSample _ _ _ _) rfl ?_
  refine keeps_step (keeps_modEth _ _ _) rfl ?_
  exact keeps_refl _ _

theorem keeps_takeSync : ∀ x0 x1 s, Keeps [.free, .out, .hif, .rve, .bel, .eth] s (@takeSync x0 x1
    s) := by
  intro x0 x1 s
  unfold takeSync
  dsimp only
  refine keeps_ite ?_ ?_
  · refine keeps_step (keeps_modEth _ _ _) rfl ?_
    exact keeps_refl _ _
  · refine keeps_ite ?_ ?_
    · refine keeps_step (keeps_modEth _ _ _) rfl ?_
      refine keeps_step (keeps_modEth _ _ _) rfl ?_
      exact keeps_refl _ _
    · refine keeps_step (keeps_syncSample _ _ _ _ _) rfl ?_
      refine keeps_step (keeps_modEth _ _ _) rfl ?_
      exact keeps_refl _ _

theorem keeps_execSyncReceived : ∀ x0 x1 x2 s, ∃ t, @execSyncReceived x0 x1 x2 s = .next t ∧ Keeps
    [.free, .out, .hif, .rve, .bel, .eth] s t := by
  intro x0 x1 x2 s
  unfold execSyncReceived
  refine ⟨_, rfl, ?_⟩
  unfold receivePtp
  refine keeps_receive rfl ?_ ?_
  · exact keeps_refl _ _
  · refine keeps_ite ?_ ?_
    · refine keeps_step (keeps_takeSync _ _ _) rfl ?_
      exact keeps_refl _ _
    · refine keeps_step (keeps_ptpIgnore _ _) rfl ?_
      exact keeps_refl _ _

theorem keeps_takeFollowUp : ∀ x0 x1 s, Keeps [.free, .out, .hif, .rve, .bel, .eth] s (@takeFollowUp
    x0 x1 s) := by
  intro x0 x1 s
  unfold takeFollowUp
  split
  · refine keeps_ite ?_ ?_
    · refine keeps_step (keeps_syncSample _ _ _ _ _) rfl ?_
      exact keeps_refl _ _
    · exact keeps_refl _ _
  · exact keeps_refl _ _

theorem keeps_execFollowUpReceived : ∀ x0 x1 x2 s, ∃ t, @execFollowUpReceived x0 x1 x2 s = .next t ∧
    Keeps [.free, .out, .hif, .rve, .bel, .eth] s t := by
  intro x0 x1 x2 s
  unfold execFollowUpReceived
  refine ⟨_, rfl, ?_⟩
  unfold receivePtp
  refine keeps_receive rfl ?_ ?_
  · exact keeps_refl _ _
  · refine keeps_ite ?_ ?_
    · refine keeps_step (keeps_takeFollowUp _ _ _) rfl ?_
      exact keeps_refl _ _
    · refine keeps_step (keeps_ptpIgnore _ _) rfl ?_
      exact keeps_refl _ _

theorem keeps_pdelayDone : ∀ x0 x1 x2 x3 x4 x5 s, Keeps [.eth] s (@pdelayDone x0 x1 x2 x3 x4 x5 s)
    := by
  intro x0 x1 x2 x3 x4 x5 s
  unfold pdelayDone
  dsimp only
  refine keeps_step (keeps_modEth _ _ _) rfl ?_
  exact keeps_refl _ _

theorem keeps_takeDelay : ∀ x0 x1 x2 s, Keeps [.eth] s (@takeDelay x0 x1 x2 s) := by
  intro x0 x1 x2 s
  unfold takeDelay
  dsimp only
  refine keeps_ite ?_ ?_
  · exact keeps_refl _ _
  · refine keeps_ite ?_ ?_
    · refine keeps_step (keeps_ptpIgnore _ _) rfl ?_
      exact keeps_refl _ _
    · split
      · refine keeps_ite ?_ ?_
        · refine keeps_step (keeps_ptpIgnore _ _) rfl ?_
          exact keeps_refl _ _
        · refine keeps_ite ?_ ?_
          · refine keeps_step (keeps_enqueue _ _ _ _ _) rfl ?_
            exact keeps_refl _ _
          · exact keeps_refl _ _
      · refine keeps_ite ?_ ?_
        · refine keeps_step (keeps_ptpIgnore _ _) rfl ?_
          exact keeps_refl _ _
        · split
          · refine keeps_ite ?_ ?_
            · refine keeps_step (keeps_modEth _ _ _) rfl ?_
              exact keeps_refl _ _
            · exact keeps_refl _ _
          · exact keeps_refl _ _
      · refine keeps_ite ?_ ?_
        · refine keeps_step (keeps_ptpIgnore _ _) rfl ?_
          exact keeps_refl _ _
        · refine keeps_step (keeps_enqueue _ _ _ _ _) rfl ?_
          exact keeps_refl _ _
      · refine keeps_ite ?_ ?_
        · refine keeps_step (keeps_ptpIgnore _ _) rfl ?_
          exact keeps_refl _ _
        · split
          · refine keeps_ite ?_ ?_
            · exact keeps_refl _ _
            · refine keeps_ite ?_ ?_
              · refine keeps_step (keeps_modEth _ _ _) rfl ?_
                exact keeps_refl _ _
              · refine keeps_step (keeps_pdelayDone _ _ _ _ _ _ _) rfl ?_
                exact keeps_refl _ _
          · exact keeps_refl _ _
      · refine keeps_ite ?_ ?_
        · refine keeps_step (keeps_ptpIgnore _ _) rfl ?_
          exact keeps_refl _ _
        · split
          · refine keeps_ite ?_ ?_
            · refine keeps_step (keeps_pdelayDone _ _ _ _ _ _ _) rfl ?_
              exact keeps_refl _ _
            · exact keeps_refl _ _
          · exact keeps_refl _ _
      · refine keeps_step (keeps_ptpIgnore _ _) rfl ?_
        exact keeps_refl _ _

theorem keeps_execDelayExchangeMessageReceived : ∀ x0 x1 x2 x3 s, ∃ t,
    @execDelayExchangeMessageReceived x0 x1 x2 x3 s = .next t ∧ Keeps [.rve, .eth] s t := by
  intro x0 x1 x2 x3 s
  unfold execDelayExchangeMessageReceived
  refine ⟨_, rfl, ?_⟩
  unfold receivePtp
  refine keeps_receive rfl ?_ ?_
  · exact keeps_refl _ _
  · refine keeps_ite ?_ ?_
    · refine keeps_step (keeps_takeDelay _ _ _ _) rfl ?_
      exact keeps_refl _ _
    · refine keeps_step (keeps_ptpIgnore _ _) rfl ?_
      exact keeps_refl _ _

theorem keeps_bestMaster : ∀ s, Keeps [.out, .hif, .rve, .bel, .eth] s (@bestMaster s) := by
  intro s
  unfold bestMaster
  dsimp only
  refine keeps_step (keeps_settleFree _) rfl ?_
  split
  · refine keeps_ite ?_ ?_
    · refine keeps_step (keeps_modEth _ _ _) rfl ?_
      refine keeps_step (keeps_modEth _ _ _) rfl ?_
      exact keeps_refl _ _
    · refine keeps_step (keeps_loseLock _ _ _) rfl ?_
      refine keeps_step (keeps_modEth _ _ _) rfl ?_
      refine keeps_step (keeps_modEth _ _ _) rfl ?_
      exact keeps_refl _ _
  · refine keeps_step (keeps_modEth _ _ _) rfl ?_
    refine keeps_step (keeps_modEth _ _ _) rfl ?_
    exact keeps_refl _ _

theorem keeps_takeUtc : ∀ x0 x1 s, Keeps [.bel] s (@takeUtc x0 x1 s) := by
  intro x0 x1 s
  unfold takeUtc
  refine keeps_ite ?_ ?_
  · refine keeps_mk ?_
    exact keeps_refl _ _
  · exact keeps_refl _ _

theorem keeps_takeAnnounce : ∀ x0 x1 s, Keeps [.out, .hif, .rve, .bel, .eth] s (@takeAnnounce x0 x1
    s) := by
  intro x0 x1 s
  unfold takeAnnounce
  refine keeps_ite ?_ ?_
  · exact keeps_refl _ _
  · refine keeps_ite ?_ ?_
    · refine keeps_step (keeps_ptpIgnore _ _) rfl ?_
      exact keeps_refl _ _
    · refine keeps_ite ?_ ?_
      · exact keeps_refl _ _
      · refine keeps_step (keeps_takeUtc _ _ _) rfl ?_
        refine keeps_step (keeps_bestMaster _) rfl ?_
        refine keeps_step (keeps_modEth _ _ _) rfl ?_
        exact keeps_refl _ _

theorem keeps_execAnnounceReceived : ∀ x0 x1 x2 s, ∃ t, @execAnnounceReceived x0 x1 x2 s = .next t ∧
    Keeps [.out, .hif, .rve, .bel, .eth] s t := by
  intro x0 x1 x2 s
  unfold execAnnounceReceived
  refine ⟨_, rfl, ?_⟩
  unfold receivePtp
  refine keeps_receive rfl ?_ ?_
  · exact keeps_refl _ _
  · refine keeps_ite ?_ ?_
    · refine keeps_step (keeps_takeAnnounce _ _ _) rfl ?_
      exact keeps_refl _ _
    · refine keeps_step (keeps_ptpIgnore _ _) rfl ?_
      exact keeps_refl _ _

theorem keeps_execManagementMessageReceived : ∀ x0 x1 s, ∃ t, @execManagementMessageReceived x0 x1 s
    = .next t ∧ Keeps [.rve, .eth] s t := by
  intro x0 x1 s
  unfold execManagementMessageReceived
  refine ⟨_, rfl, ?_⟩
  refine keeps_receive rfl ?_ ?_
  · exact keeps_refl _ _
  · refine keeps_step (keeps_ptpIgnore _ _) rfl ?_
    exact keeps_refl _ _

theorem keeps_sendTimed : ∀ x0 x1 s, Keeps [.eth] s (@sendTimed x0 x1 s) := by
  intro x0 x1 s
  unfold sendTimed
  dsimp only
  split
  · refine keeps_ite ?_ ?_
    · exact keeps_refl _ _
    · refine keeps_step (keeps_enqueue _ _ _ _ _) rfl ?_
      refine keeps_step (keeps_modEth _ _ _) rfl ?_
      exact keeps_refl _ _
  · refine keeps_ite ?_ ?_
    · refine keeps_step (keeps_modEth _ _ _) rfl ?_
      exact keeps_refl _ _
    · refine keeps_ite ?_ ?_
      · exact keeps_refl _ _
      · refine keeps_step (keeps_enqueue _ _ _ _ _) rfl ?_
        refine keeps_step (keeps_modEth _ _ _) rfl ?_
        exact keeps_refl _ _
  · refine keeps_ite ?_ ?_
    · exact keeps_refl _ _
    · refine keeps_step (keeps_enqueue _ _ _ _ _) rfl ?_
      refine keeps_step (keeps_modEth _ _ _) rfl ?_
      exact keeps_refl _ _
  · refine keeps_ite ?_ ?_
    · exact keeps_refl _ _
    · refine keeps_step (keeps_enqueue _ _ _ _ _) rfl ?_
      refine keeps_step (keeps_modEth _ _ _) rfl ?_
      exact keeps_refl _ _
  · exact keeps_refl _ _

theorem keeps_execPtpMessageTransmitTimer : ∀ x0 x1 s, ∃ t, @execPtpMessageTransmitTimer x0 x1 s =
    .next t ∧ Keeps [.eth] s t := by
  intro x0 x1 s
  unfold execPtpMessageTransmitTimer
  refine ⟨_, rfl, ?_⟩
  refine keeps_whenS ?_ fun _ => ?_
  · exact keeps_refl _ _
  · dsimp only
    refine keeps_step (keeps_sendTimed _ _ _) rfl ?_
    refine keeps_step (keeps_modEth _ _ _) rfl ?_
    exact keeps_refl _ _

theorem keeps_execSyncReceiptTimeout : ∀ s, ∃ t, @execSyncReceiptTimeout s = .next t ∧ Keeps [.out,
    .hif, .rve, .bel, .eth] s t := by
  intro s
  unfold execSyncReceiptTimeout
  refine ⟨_, rfl, ?_⟩
  split
  · exact keeps_refl _ _
  · refine keeps_ite ?_ ?_
    · refine keeps_step (keeps_loseLock _ _ _) rfl ?_
      exact keeps_refl _ _
    · refine keeps_mk ?_
      exact keeps_refl _ _

theorem keeps_execAnnounceReceiptTimeout : ∀ s, ∃ t, @execAnnounceReceiptTimeout s = .next t ∧ Keeps
    [.out, .hif, .rve, .bel, .eth] s t := by
  intro s
  unfold execAnnounceReceiptTimeout
  dsimp only
  refine ⟨_, rfl, ?_⟩
  refine keeps_whenS ?_ fun _ => ?_
  · exact keeps_refl _ _
  · split
    · refine keeps_step (keeps_bestMaster _) rfl ?_
      refine keeps_step (keeps_modEth _ _ _) rfl ?_
      refine keeps_step (keeps_loseLock _ _ _) rfl ?_
      exact keeps_refl _ _
    · refine keeps_mk ?_
      exact keeps_refl _ _

theorem keeps_execEthCntClearPtp : ∀ s, ∃ t, @execEthCntClearPtp s = .next t ∧ Keeps [.eth] s t :=
    by
  intro s
  unfold execEthCntClearPtp
  refine ⟨_, rfl, ?_⟩
  refine keeps_whenS ?_ fun _ => ?_
  · exact keeps_refl _ _
  · refine keeps_mk ?_
    exact keeps_refl _ _

theorem keeps_execEthCntClearTx : ∀ s, ∃ t, @execEthCntClearTx s = .next t ∧ Keeps [.eth] s t := by
  intro s
  unfold execEthCntClearTx
  refine ⟨_, rfl, ?_⟩
  refine keeps_whenS ?_ fun _ => ?_
  · exact keeps_refl _ _
  · refine keeps_mk ?_
    exact keeps_refl _ _

theorem keeps_execEthCntClearRx : ∀ s, ∃ t, @execEthCntClearRx s = .next t ∧ Keeps [.eth] s t := by
  intro s
  unfold execEthCntClearRx
  refine ⟨_, rfl, ?_⟩
  refine keeps_whenS ?_ fun _ => ?_
  · exact keeps_refl _ _
  · refine keeps_mk ?_
    exact keeps_refl _ _

end Sys2Proof.Laws
end

