-- ==== Sys2Proof/Laws/KeepRegWrite.lean ====
section
/-!
SUPPORT. Which parts of the state the operations of RegWrite.lean leave alone.
-/

namespace Sys2Proof.Laws

-- Each proof is checked before the next begins: hundreds at once would ask for a thread each.
set_option Elab.async false
set_option linter.all false

open Sys2Proof Sys2Proof.Machine Sys2Proof.Safety

theorem keeps_nextOr {l m : List Zone} {s t : State} {o : Out} (h : ∃ u, o = .next u ∧ Keeps m t u)
    (j : sub m l = true) (k : Keeps l s t) : Keeps l s (nextOr o t) := by
  obtain ⟨u, rfl, hu⟩ := h
  exact keeps_step hu j k

theorem keeps_sqCfgWrite : ∀ x0 x1 s, Keeps [.hif, .rve, .eth, .mgt] s (@sqCfgWrite x0 x1 s) := by
  intro x0 x1 s
  unfold sqCfgWrite
  dsimp only
  refine keeps_ite ?_ ?_
  · refine keeps_step (keeps_enableSq _ _) rfl ?_
    refine keeps_ite ?_ ?_
    · exact keeps_refl _ _
    · refine keeps_step (keeps_modSq _ _ _) rfl ?_
      exact keeps_refl _ _
  · refine keeps_step (keeps_disableSq _ _) rfl ?_
    refine keeps_ite ?_ ?_
    · exact keeps_refl _ _
    · refine keeps_step (keeps_modSq _ _ _) rfl ?_
      exact keeps_refl _ _

theorem keeps_cqCfgWrite : ∀ x0 x1 s, Keeps [.hif, .rve] s (@cqCfgWrite x0 x1 s) := by
  intro x0 x1 s
  unfold cqCfgWrite
  dsimp only
  refine keeps_ite ?_ ?_
  · refine keeps_step (keeps_enableCq _ _) rfl ?_
    refine keeps_ite ?_ ?_
    · exact keeps_refl _ _
    · refine keeps_step (keeps_modCq _ _ _) rfl ?_
      exact keeps_refl _ _
  · refine keeps_ite ?_ ?_
    · refine keeps_step (keeps_disableCq _ _) rfl ?_
      refine keeps_ite ?_ ?_
      · exact keeps_refl _ _
      · refine keeps_step (keeps_modCq _ _ _) rfl ?_
        exact keeps_refl _ _
    · refine keeps_ite ?_ ?_
      · exact keeps_refl _ _
      · refine keeps_step (keeps_modCq _ _ _) rfl ?_
        exact keeps_refl _ _

theorem keeps_hifWrite : ∀ x0 x1 s, Keeps [.out, .hif, .auth] s (@hifWrite x0 x1 s) := by
  intro x0 x1 s
  unfold hifWrite
  dsimp only
  refine keeps_ite ?_ ?_
  · refine keeps_foldl ?_ fun _ _ _ => ?_
    · refine keeps_foldl ?_ fun _ _ _ => ?_
      · exact keeps_refl _ _
      · refine keeps_ite ?_ ?_
        · refine keeps_nextOr (keeps_execHifKickSq _ _) rfl ?_
          assumption
        · assumption
    · refine keeps_ite ?_ ?_
      · refine keeps_nextOr (keeps_execHifKickCq _ _) rfl ?_
        assumption
      · assumption
  · refine keeps_ite ?_ ?_
    · refine keeps_ite ?_ ?_
      · refine keeps_nextOr (keeps_execHifLockRingLock _) rfl ?_
        refine keeps_ite ?_ ?_
        · refine keeps_nextOr (keeps_execHifLockAuthLock _) rfl ?_
          exact keeps_refl _ _
        · exact keeps_refl _ _
      · refine keeps_ite ?_ ?_
        · refine keeps_nextOr (keeps_execHifLockAuthLock _) rfl ?_
          exact keeps_refl _ _
        · exact keeps_refl _ _
    · refine keeps_ite ?_ ?_
      · refine keeps_ite ?_ ?_
        · refine keeps_nextOr (keeps_execHifCntClearDenied _) rfl ?_
          refine keeps_ite ?_ ?_
          · refine keeps_nextOr (keeps_execHifCntClearDrop _) rfl ?_
            exact keeps_refl _ _
          · exact keeps_refl _ _
        · refine keeps_ite ?_ ?_
          · refine keeps_nextOr (keeps_execHifCntClearDrop _) rfl ?_
            exact keeps_refl _ _
          · exact keeps_refl _ _
      · split
        · refine keeps_nextOr (keeps_execHifAuthWrite _ _ _) rfl ?_
          exact keeps_refl _ _
        · exact keeps_refl _ _

theorem keeps_ringWrite : ∀ x0 x1 s, Keeps [.hif, .rve, .eth, .mgt] s (@ringWrite x0 x1 s) := by
  intro x0 x1 s
  unfold ringWrite
  split
  · refine keeps_step (keeps_sqCfgWrite _ _ _) rfl ?_
    exact keeps_refl _ _
  · refine keeps_ite ?_ ?_
    · exact keeps_refl _ _
    · refine keeps_step (keeps_modSq _ _ _) rfl ?_
      exact keeps_refl _ _
  · refine keeps_step (keeps_cqCfgWrite _ _ _) rfl ?_
    exact keeps_refl _ _
  · refine keeps_ite ?_ ?_
    · exact keeps_refl _ _
    · refine keeps_step (keeps_modCq _ _ _) rfl ?_
      exact keeps_refl _ _
  · exact keeps_refl _ _

theorem keeps_regionWrite : ∀ x0 x1 s, Keeps [.grn] s (@regionWrite x0 x1 s) := by
  intro x0 x1 s
  unfold regionWrite
  refine keeps_ite ?_ ?_
  · exact keeps_refl _ _
  · refine keeps_mk ?_
    exact keeps_refl _ _

theorem keeps_grnRegWrite : ∀ x0 x1 s, Keeps [.grn] s (@grnRegWrite x0 x1 s) := by
  intro x0 x1 s
  unfold grnRegWrite
  refine keeps_ite ?_ ?_
  · refine keeps_mk ?_
    exact keeps_refl _ _
  · refine keeps_ite ?_ ?_
    · refine keeps_mk ?_
      exact keeps_refl _ _
    · split
      · refine keeps_step (keeps_regionWrite _ _ _) rfl ?_
        exact keeps_refl _ _
      · refine keeps_step (keeps_regionWrite _ _ _) rfl ?_
        exact keeps_refl _ _
      · exact keeps_refl _ _

theorem keeps_rveCfg {l : List Zone} {s t : State} {f : State → State} (j : sub [.rve] l = true)
    (k : Keeps l s t) (h : Keeps l s (f t)) : Keeps l s (rveCfg f t) := by
  unfold rveCfg
  split
  · exact keeps_step (keeps_raise _ _ _ _) j k
  · exact h

theorem keeps_groupCfg : ∀ x0 x1 s, Keeps [.rve] s (@groupCfg x0 x1 s) := by
  intro x0 x1 s
  unfold groupCfg
  refine keeps_rveCfg rfl ?_ ?_
  · exact keeps_refl _ _
  · refine keeps_mk ?_
    exact keeps_refl _ _

theorem keeps_rveWrite : ∀ x0 x1 s, Keeps [.rve] s (@rveWrite x0 x1 s) := by
  intro x0 x1 s
  unfold rveWrite
  refine keeps_ite ?_ ?_
  · refine keeps_rveCfg rfl ?_ ?_
    · exact keeps_refl _ _
    · refine keeps_mk ?_
      exact keeps_refl _ _
  · refine keeps_ite ?_ ?_
    · refine keeps_nextOr (keeps_execRveInjKeyWrite _ _) rfl ?_
      exact keeps_refl _ _
    · refine keeps_ite ?_ ?_
      · refine keeps_ite ?_ ?_
        · refine keeps_nextOr (keeps_execRveLockSet _) rfl ?_
          exact keeps_refl _ _
        · exact keeps_refl _ _
      · split
        · refine keeps_step (keeps_groupCfg _ _ _) rfl ?_
          exact keeps_refl _ _
        · refine keeps_step (keeps_groupCfg _ _ _) rfl ?_
          exact keeps_refl _ _
        · refine keeps_step (keeps_groupCfg _ _ _) rfl ?_
          exact keeps_refl _ _
        · exact keeps_refl _ _

theorem keeps_hdgWrite : ∀ x0 x1 s, Keeps [.hdg, .rve] s (@hdgWrite x0 x1 s) := by
  intro x0 x1 s
  unfold hdgWrite
  refine keeps_ite ?_ ?_
  · refine keeps_mk ?_
    exact keeps_refl _ _
  · refine keeps_ite ?_ ?_
    · refine keeps_mk ?_
      exact keeps_refl _ _
    · refine keeps_ite ?_ ?_
      · refine keeps_nextOr (keeps_execHdgCommitCrcWrite _ _) rfl ?_
        exact keeps_refl _ _
      · refine keeps_ite ?_ ?_
        · dsimp only
          refine keeps_ite ?_ ?_
          · refine keeps_nextOr (keeps_execHdgCntClearCount _) rfl ?_
            refine keeps_ite ?_ ?_
            · refine keeps_nextOr (keeps_execHdgCntClearSafe _) rfl ?_
              exact keeps_refl _ _
            · exact keeps_refl _ _
          · refine keeps_ite ?_ ?_
            · refine keeps_nextOr (keeps_execHdgCntClearSafe _) rfl ?_
              exact keeps_refl _ _
            · exact keeps_refl _ _
        · exact keeps_refl _ _

theorem keeps_clears_nil {l : List Zone} {s t : State} {v : Nat} (k : Keeps l s t) :
    Keeps l s (clears v [] t) := k

theorem keeps_clears_cons {l m : List Zone} {s t : State} {v n : Nat} {f : State → Out}
    {r : List (Nat × (State → Out))} (h : ∀ u, ∃ w, f u = .next w ∧ Keeps m u w)
    (j : sub m l = true) (k : Keeps l s t) (e : ∀ u, Keeps l s u → Keeps l s (clears v r u)) :
    Keeps l s (clears v ((n, f) :: r) t) := by
  refine e _ ?_
  dsimp only
  split
  · exact keeps_nextOr (h _) j k
  · exact k

theorem keeps_lplWrite : ∀ x0 x1 s, Keeps [.lpl] s (@lplWrite x0 x1 s) := by
  intro x0 x1 s
  unfold lplWrite
  refine keeps_ite ?_ ?_
  · refine keeps_mk ?_
    exact keeps_refl _ _
  · refine keeps_ite ?_ ?_
    · refine keeps_clears_cons keeps_execLplCntClearTe rfl ?_ fun _ _ => ?_
      · exact keeps_refl _ _
      · refine keeps_clears_cons keeps_execLplCntClearSync rfl ?_ fun _ _ => ?_
        · assumption
        · refine keeps_clears_cons keeps_execLplCntClearLate rfl ?_ fun _ _ => ?_
          · assumption
          · refine keeps_clears_cons keeps_execLplCntClearRepeats rfl ?_ fun _ _ => ?_
            · assumption
            · refine keeps_clears_nil ?_
              assumption
    · exact keeps_refl _ _

theorem keeps_execPwrCntClearCount : ∀ s, ∃ t, @execPwrCntClearCount s = .next t ∧ Keeps [.pwr] s t
    := by
  intro s
  unfold execPwrCntClearCount
  refine ⟨_, rfl, ?_⟩
  refine keeps_whenS ?_ fun _ => ?_
  · exact keeps_refl _ _
  · refine keeps_mk ?_
    exact keeps_refl _ _

theorem keeps_pwrWrite : ∀ x0 x1 s, Keeps [.pwr] s (@pwrWrite x0 x1 s) := by
  intro x0 x1 s
  unfold pwrWrite
  refine keeps_ite ?_ ?_
  · refine keeps_mk ?_
    exact keeps_refl _ _
  · refine keeps_ite ?_ ?_
    · refine keeps_mk ?_
      exact keeps_refl _ _
    · refine keeps_ite ?_ ?_
      · refine keeps_clears_cons keeps_execPwrCntClearCount rfl ?_ fun _ _ => ?_
        · exact keeps_refl _ _
        · refine keeps_clears_nil ?_
          assumption
      · exact keeps_refl _ _

theorem keeps_belWrite : ∀ x0 x1 s, Keeps [.bel] s (@belWrite x0 x1 s) := by
  intro x0 x1 s
  unfold belWrite
  refine keeps_ite ?_ ?_
  · refine keeps_mk ?_
    exact keeps_refl _ _
  · refine keeps_ite ?_ ?_
    · refine keeps_mk ?_
      exact keeps_refl _ _
    · refine keeps_ite ?_ ?_
      · refine keeps_clears_cons keeps_execBelCntClearCount rfl ?_ fun _ _ => ?_
        · exact keeps_refl _ _
        · refine keeps_clears_nil ?_
          assumption
      · exact keeps_refl _ _

theorem keeps_modCrcu : ∀ x0 x1 s, Keeps [.crcu] s (@modCrcu x0 x1 s) := by
  intro x0 x1 s
  unfold modCrcu
  refine keeps_mk ?_
  exact keeps_refl _ _

theorem keeps_execCrcuCfgWrite : ∀ x0 x1 s, ∃ t, @execCrcuCfgWrite x0 x1 s = .next t ∧ Keeps [.crcu]
    s t := by
  intro x0 x1 s
  unfold execCrcuCfgWrite
  dsimp only
  refine ⟨_, rfl, ?_⟩
  refine keeps_whenS ?_ fun _ => ?_
  · exact keeps_refl _ _
  · refine keeps_step (keeps_modCrcu _ _ _) rfl ?_
    exact keeps_refl _ _

theorem keeps_execCrcuDataWrite : ∀ x0 x1 x2 s, ∃ t, @execCrcuDataWrite x0 x1 x2 s = .next t ∧ Keeps
    [.crcu] s t := by
  intro x0 x1 x2 s
  unfold execCrcuDataWrite
  refine ⟨_, rfl, ?_⟩
  refine keeps_whenS ?_ fun _ => ?_
  · exact keeps_refl _ _
  · refine keeps_step (keeps_modCrcu _ _ _) rfl ?_
    exact keeps_refl _ _

theorem keeps_execCrcuCtxWrite : ∀ x0 x1 s, ∃ t, @execCrcuCtxWrite x0 x1 s = .next t ∧ Keeps [.rve,
    .crcu] s t := by
  intro x0 x1 s
  unfold execCrcuCtxWrite
  dsimp only
  refine ⟨_, rfl, ?_⟩
  refine keeps_whenS ?_ fun _ => ?_
  · exact keeps_refl _ _
  · refine keeps_ite ?_ ?_
    · refine keeps_step (keeps_modCrcu _ _ _) rfl ?_
      exact keeps_refl _ _
    · refine keeps_step (keeps_raise _ _ _ _) rfl ?_
      refine keeps_step (keeps_modCrcu _ _ _) rfl ?_
      exact keeps_refl _ _

theorem keeps_execGpioDataWrite : ∀ x0 s, ∃ t, @execGpioDataWrite x0 s = .next t ∧ Keeps [.gpio] s t
    := by
  intro x0 s
  unfold execGpioDataWrite
  refine ⟨_, rfl, ?_⟩
  refine keeps_whenS ?_ fun _ => ?_
  · exact keeps_refl _ _
  · refine keeps_mk ?_
    exact keeps_refl _ _

theorem keeps_execGrnRegLockSet : ∀ s, ∃ t, @execGrnRegLockSet s = .next t ∧ Keeps [.grn] s t := by
  intro s
  unfold execGrnRegLockSet
  refine ⟨_, rfl, ?_⟩
  refine keeps_whenS ?_ fun _ => ?_
  · exact keeps_refl _ _
  · refine keeps_mk ?_
    exact keeps_refl _ _

theorem keeps_execDmaCntClearStarve : ∀ s, ∃ t, @execDmaCntClearStarve s = .next t ∧ Keeps [.dma] s
    t := by
  intro s
  unfold execDmaCntClearStarve
  refine ⟨_, rfl, ?_⟩
  refine keeps_whenS ?_ fun _ => ?_
  · exact keeps_refl _ _
  · refine keeps_mk ?_
    exact keeps_refl _ _

theorem keeps_execTstCntClearCount : ∀ s, ∃ t, @execTstCntClearCount s = .next t ∧ Keeps [.tst] s t
    := by
  intro s
  unfold execTstCntClearCount
  refine ⟨_, rfl, ?_⟩
  refine keeps_whenS ?_ fun _ => ?_
  · exact keeps_refl _ _
  · refine keeps_mk ?_
    exact keeps_refl _ _

theorem keeps_crcuWrite : ∀ x0 x1 s, Keeps [.crcu] s (@crcuWrite x0 x1 s) := by
  intro x0 x1 s
  unfold crcuWrite
  split
  · dsimp only
    refine keeps_ite ?_ ?_
    · refine keeps_nextOr (keeps_execCrcuCfgWrite _ _ _) rfl ?_
      exact keeps_refl _ _
    · refine keeps_ite ?_ ?_
      · refine keeps_nextOr (keeps_execCrcuDataWrite _ _ _ _) rfl ?_
        exact keeps_refl _ _
      · refine keeps_ite ?_ ?_
        · refine keeps_nextOr (keeps_execCrcuDataWrite _ _ _ _) rfl ?_
          exact keeps_refl _ _
        · refine keeps_ite ?_ ?_
          · refine keeps_nextOr (keeps_execCrcuDataWrite _ _ _ _) rfl ?_
            exact keeps_refl _ _
          · exact keeps_refl _ _
  · exact keeps_refl _ _

theorem keeps_regWrite : ∀ x0 x1 s, Keeps [.out, .hif, .auth, .dma, .grn, .cmp, .pho, .hdg, .lpl,
    .link, .pxh, .rail, .pwr, .thm, .rve, .yok, .bel, .eth, .mgt, .crcu, .gpio, .tst] s (@regWrite
    x0 x1 s) := by
  intro x0 x1 s
  unfold regWrite
  dsimp only
  split
  · refine keeps_step (keeps_hifWrite _ _ _) rfl ?_
    exact keeps_refl _ _
  · refine keeps_step (keeps_ringWrite _ _ _) rfl ?_
    exact keeps_refl _ _
  · refine keeps_ite ?_ ?_
    · refine keeps_clears_cons keeps_execDmaCntClearStarve rfl ?_ fun _ _ => ?_
      · exact keeps_refl _ _
      · refine keeps_clears_nil ?_
        assumption
    · exact keeps_refl _ _
  · refine keeps_step (keeps_grnRegWrite _ _ _) rfl ?_
    exact keeps_refl _ _
  · refine keeps_ite ?_ ?_
    · refine keeps_mk ?_
      exact keeps_refl _ _
    · refine keeps_ite ?_ ?_
      · refine keeps_clears_cons keeps_execCmpCntClearLate rfl ?_ fun _ _ => ?_
        · exact keeps_refl _ _
        · refine keeps_clears_nil ?_
          assumption
      · exact keeps_refl _ _
  · refine keeps_ite ?_ ?_
    · refine keeps_clears_cons keeps_execGeoCntClearParity rfl ?_ fun _ _ => ?_
      · exact keeps_refl _ _
      · refine keeps_clears_cons keeps_execGeoCntClearOverstep rfl ?_ fun _ _ => ?_
        · assumption
        · refine keeps_clears_nil ?_
          assumption
    · exact keeps_refl _ _
  · refine keeps_ite ?_ ?_
    · refine keeps_mk ?_
      exact keeps_refl _ _
    · refine keeps_ite ?_ ?_
      · refine keeps_clears_cons keeps_execPhoCntClearSubst rfl ?_ fun _ _ => ?_
        · exact keeps_refl _ _
        · refine keeps_clears_nil ?_
          assumption
      · exact keeps_refl _ _
  · refine keeps_step (keeps_hdgWrite _ _ _) rfl ?_
    exact keeps_refl _ _
  · refine keeps_step (keeps_lplWrite _ _ _) rfl ?_
    exact keeps_refl _ _
  · refine keeps_ite ?_ ?_
    · refine keeps_clears_cons keeps_execXlpCntClearEvents rfl ?_ fun _ _ => ?_
      · exact keeps_refl _ _
      · refine keeps_clears_cons keeps_execXlpCntClearErr rfl ?_ fun _ _ => ?_
        · assumption
        · refine keeps_clears_nil ?_
          assumption
    · exact keeps_refl _ _
  · refine keeps_ite ?_ ?_
    · refine keeps_clears_cons keeps_execXlkCntClearCtl rfl ?_ fun _ _ => ?_
      · exact keeps_refl _ _
      · refine keeps_clears_cons keeps_execXlkCntClearLat rfl ?_ fun _ _ => ?_
        · assumption
        · refine keeps_clears_cons keeps_execXlkCntClearCnt rfl ?_ fun _ _ => ?_
          · assumption
          · refine keeps_clears_nil ?_
            assumption
    · exact keeps_refl _ _
  · refine keeps_ite ?_ ?_
    · refine keeps_clears_cons keeps_execPxhCntClearFlags rfl ?_ fun _ _ => ?_
      · exact keeps_refl _ _
      · refine keeps_clears_cons keeps_execPxhCntClearEvents rfl ?_ fun _ _ => ?_
        · assumption
        · refine keeps_clears_nil ?_
          assumption
    · exact keeps_refl _ _
  · refine keeps_ite ?_ ?_
    · refine keeps_clears_cons keeps_execRailCntClearFaults rfl ?_ fun _ _ => ?_
      · exact keeps_refl _ _
      · refine keeps_clears_nil ?_
        assumption
    · exact keeps_refl _ _
  · refine keeps_step (keeps_pwrWrite _ _ _) rfl ?_
    exact keeps_refl _ _
  · refine keeps_ite ?_ ?_
    · refine keeps_clears_cons keeps_execThmCntClearCount rfl ?_ fun _ _ => ?_
      · exact keeps_refl _ _
      · refine keeps_clears_nil ?_
        assumption
    · exact keeps_refl _ _
  · refine keeps_step (keeps_rveWrite _ _ _) rfl ?_
    exact keeps_refl _ _
  · refine keeps_ite ?_ ?_
    · refine keeps_clears_cons keeps_execYokCntClearCount rfl ?_ fun _ _ => ?_
      · exact keeps_refl _ _
      · refine keeps_clears_cons keeps_execYokCntClearCheck rfl ?_ fun _ _ => ?_
        · assumption
        · refine keeps_clears_nil ?_
          assumption
    · exact keeps_refl _ _
  · refine keeps_step (keeps_belWrite _ _ _) rfl ?_
    exact keeps_refl _ _
  · refine keeps_ite ?_ ?_
    · refine keeps_clears_cons keeps_execEthCntClearPtp rfl ?_ fun _ _ => ?_
      · exact keeps_refl _ _
      · refine keeps_clears_cons keeps_execEthCntClearTx rfl ?_ fun _ _ => ?_
        · assumption
        · refine keeps_clears_cons keeps_execEthCntClearRx rfl ?_ fun _ _ => ?_
          · assumption
          · refine keeps_clears_nil ?_
            assumption
    · exact keeps_refl _ _
  · refine keeps_ite ?_ ?_
    · refine keeps_nextOr (keeps_execGpioDataWrite _ _) rfl ?_
      exact keeps_refl _ _
    · exact keeps_refl _ _
  · refine keeps_step (keeps_crcuWrite _ _ _) rfl ?_
    exact keeps_refl _ _
  · refine keeps_ite ?_ ?_
    · refine keeps_clears_cons keeps_execTstCntClearCount rfl ?_ fun _ _ => ?_
      · exact keeps_refl _ _
      · refine keeps_clears_nil ?_
        assumption
    · exact keeps_refl _ _
  · exact keeps_refl _ _

theorem keeps_execRegisterWrite : ∀ x0 x1 s, ∃ t, @execRegisterWrite x0 x1 s = .next t ∧ Keeps
    [.out, .hif, .auth, .dma, .grn, .cmp, .pho, .hdg, .lpl, .link, .pxh, .rail, .pwr, .thm, .rve,
    .yok, .bel, .eth, .mgt, .crcu, .gpio, .tst] s t := by
  intro x0 x1 s
  unfold execRegisterWrite
  refine ⟨_, rfl, ?_⟩
  refine keeps_whenS ?_ fun _ => ?_
  · exact keeps_refl _ _
  · refine keeps_step (keeps_regWrite _ _ _) rfl ?_
    exact keeps_refl _ _

theorem keeps_execBar0UnmappedAccess : ∀ x0 x1 s, ∃ t, @execBar0UnmappedAccess x0 x1 s = .next t ∧
    Keeps [.out, .rve] s t := by
  intro x0 x1 s
  unfold execBar0UnmappedAccess
  dsimp only
  refine ⟨_, rfl, ?_⟩
  refine keeps_whenS ?_ fun _ => ?_
  · exact keeps_refl _ _
  · refine keeps_step (keeps_raise _ _ _ _) rfl ?_
    refine keeps_ite ?_ ?_
    · exact keeps_refl _ _
    · refine keeps_step (keeps_emit _ _) rfl ?_
      exact keeps_refl _ _

theorem keeps_execReg64LowRead : ∀ x0 s, ∃ t, @execReg64LowRead x0 s = .next t ∧ Keeps [.out, .hif]
    s t := by
  intro x0 s
  unfold execReg64LowRead
  refine ⟨_, rfl, ?_⟩
  split
  · exact keeps_refl _ _
  · refine keeps_whenS ?_ fun _ => ?_
    · exact keeps_refl _ _
    · refine keeps_step (keeps_emit _ _) rfl ?_
      refine keeps_mk ?_
      exact keeps_refl _ _

theorem keeps_execReg64HighRead : ∀ x0 s, ∃ t, @execReg64HighRead x0 s = .next t ∧ Keeps [.out] s t
    := by
  intro x0 s
  unfold execReg64HighRead
  dsimp only
  refine ⟨_, rfl, ?_⟩
  split
  · exact keeps_refl _ _
  · refine keeps_whenS ?_ fun _ => ?_
    · exact keeps_refl _ _
    · refine keeps_step (keeps_emit _ _) rfl ?_
      exact keeps_refl _ _

theorem keeps_execReg64LowWrite : ∀ x0 x1 s, ∃ t, @execReg64LowWrite x0 x1 s = .next t ∧ Keeps
    [.hif] s t := by
  intro x0 x1 s
  unfold execReg64LowWrite
  refine ⟨_, rfl, ?_⟩
  refine keeps_whenS ?_ fun _ => ?_
  · exact keeps_refl _ _
  · refine keeps_mk ?_
    exact keeps_refl _ _

theorem keeps_write64 : ∀ x0 x1 s, Keeps [.hif, .rve, .crcu] s (@write64 x0 x1 s) := by
  intro x0 x1 s
  unfold write64
  dsimp only
  split
  · split
    · refine keeps_whenS ?_ fun _ => ?_
      · exact keeps_refl _ _
      · refine keeps_step (keeps_modSq _ _ _) rfl ?_
        exact keeps_refl _ _
    · refine keeps_whenS ?_ fun _ => ?_
      · exact keeps_refl _ _
      · refine keeps_step (keeps_modSq _ _ _) rfl ?_
        exact keeps_refl _ _
    · refine keeps_whenS ?_ fun _ => ?_
      · exact keeps_refl _ _
      · refine keeps_step (keeps_modCq _ _ _) rfl ?_
        exact keeps_refl _ _
    · refine keeps_whenS ?_ fun _ => ?_
      · exact keeps_refl _ _
      · refine keeps_step (keeps_modCq _ _ _) rfl ?_
        exact keeps_refl _ _
    · exact keeps_refl _ _
  · refine keeps_ite ?_ ?_
    · refine keeps_mk ?_
      exact keeps_refl _ _
    · exact keeps_refl _ _
  · split
    · refine keeps_nextOr (keeps_execCrcuCtxWrite _ _ _) rfl ?_
      exact keeps_refl _ _
    · exact keeps_refl _ _
  · exact keeps_refl _ _

theorem keeps_execReg64HighWrite : ∀ x0 x1 s, ∃ t, @execReg64HighWrite x0 x1 s = .next t ∧ Keeps
    [.hif, .rve, .crcu] s t := by
  intro x0 x1 s
  unfold execReg64HighWrite
  dsimp only
  refine ⟨_, rfl, ?_⟩
  refine keeps_whenS ?_ fun _ => ?_
  · exact keeps_refl _ _
  · refine keeps_step (keeps_write64 _ _ _) rfl ?_
    exact keeps_refl _ _

theorem keeps_execBar2Read : ∀ x0 x1 x2 s, ∃ t, @execBar2Read x0 x1 x2 s = .next t ∧ Keeps [.free,
    .out, .hif, .grn, .mem, .rve, .yok] s t := by
  intro x0 x1 x2 s
  unfold execBar2Read
  refine ⟨_, rfl, ?_⟩
  refine keeps_whenS ?_ fun _ => ?_
  · exact keeps_refl _ _
  · refine keeps_step (keeps_hostAccess _ _) rfl ?_
    exact keeps_refl _ _

theorem keeps_execBar2Write : ∀ x0 x1 x2 s, ∃ t, @execBar2Write x0 x1 x2 s = .next t ∧ Keeps [.free,
    .out, .hif, .grn, .mem, .rve, .yok] s t := by
  intro x0 x1 x2 s
  unfold execBar2Write
  refine ⟨_, rfl, ?_⟩
  refine keeps_whenS ?_ fun _ => ?_
  · exact keeps_refl _ _
  · refine keeps_step (keeps_hostAccess _ _) rfl ?_
    exact keeps_refl _ _

end Sys2Proof.Laws
end

