-- ==== Sys2Proof/Laws/KeepDma.lean ====
section
/-!
SUPPORT. Which parts of the state the operations of Dma.lean leave alone.
-/

namespace Sys2Proof.Laws

-- Each proof is checked before the next begins: hundreds at once would ask for a thread each.
set_option Elab.async false
set_option linter.all false

open Sys2Proof Sys2Proof.Machine Sys2Proof.Safety

theorem keeps_modView : ∀ x0 x1 s, Keeps [.lpl] s (@modView x0 x1 s) := by
  intro x0 x1 s
  unfold modView
  refine keeps_mk ?_
  exact keeps_refl _ _

theorem keeps_pacedFails : ∀ x0 s, Keeps [.free, .grn, .cmp, .lpl, .rve] s (@pacedFails x0 s) := by
  intro x0 s
  unfold pacedFails
  split
  · exact keeps_refl _ _
  · split
    · exact keeps_refl _ _
    · split
      · refine keeps_step (keeps_hostUnderrun _ _ _) rfl ?_
        exact keeps_refl _ _
      · exact keeps_refl _ _

theorem keeps_dmaFail : ∀ x0 x1 x2 x3 s, Keeps [.free, .dma, .grn, .cmp, .lpl, .rve] s (@dmaFail x0
    x1 x2 x3 s) := by
  intro x0 x1 x2 x3 s
  unfold dmaFail
  refine keeps_ite ?_ ?_
  · refine keeps_step (keeps_dmaHalt _ _ _ _ _) rfl ?_
    exact keeps_refl _ _
  · refine keeps_step (keeps_pacedFails _ _) rfl ?_
    refine keeps_step (keeps_dmaHalt _ _ _ _ _) rfl ?_
    exact keeps_refl _ _

theorem keeps_grantTo : ∀ x0 s, Keeps [.dma] s (@grantTo x0 s) := by
  intro x0 s
  unfold grantTo
  dsimp only
  refine keeps_mk ?_
  exact keeps_refl _ _

theorem keeps_asked : ∀ x0 x1 s, Keeps [.dma] s (@asked x0 x1 s) := by
  intro x0 x1 s
  unfold asked
  refine keeps_step (keeps_modCh _ _ _) rfl ?_
  exact keeps_refl _ _

theorem keeps_grantBurst : ∀ x0 x1 s, Keeps [.out, .dma] s (@grantBurst x0 x1 s) := by
  intro x0 x1 s
  unfold grantBurst
  dsimp only
  refine keeps_ite ?_ ?_
  · refine keeps_step (keeps_emit _ _) rfl ?_
    refine keeps_step (keeps_asked _ _ _) rfl ?_
    refine keeps_step (keeps_grantTo _ _) rfl ?_
    exact keeps_refl _ _
  · refine keeps_ite ?_ ?_
    · refine keeps_mk ?_
      refine keeps_step (keeps_asked _ _ _) rfl ?_
      refine keeps_step (keeps_grantTo _ _) rfl ?_
      exact keeps_refl _ _
    · refine keeps_mk ?_
      refine keeps_step (keeps_grantTo _ _) rfl ?_
      exact keeps_refl _ _

theorem keeps_grantBursts : ∀ x0 s, Keeps [.out, .dma] s (@grantBursts x0 s) := by
  intro x0 s
  induction x0 generalizing s with
  | zero =>
    exact keeps_refl _ _
  | succ _ ih =>
    rw [grantBursts]
    split
    · exact keeps_refl _ _
    · refine keeps_step (ih _) rfl ?_
      refine keeps_step (keeps_grantBurst _ _ _) rfl ?_
      exact keeps_refl _ _

theorem keeps_arbitrate : ∀ s, Keeps [.out, .dma] s (@arbitrate s) := by
  intro s
  unfold arbitrate
  refine keeps_step (keeps_grantBursts _ _) rfl ?_
  exact keeps_refl _ _

theorem keeps_beginDesc : ∀ x0 x1 s, Keeps [.free, .dma, .grn, .cmp, .lpl, .rve] s (@beginDesc x0 x1
    s) := by
  intro x0 x1 s
  unfold beginDesc
  dsimp only
  split
  · refine keeps_step (keeps_dmaFail _ _ _ _ _) rfl ?_
    refine keeps_step (keeps_modCh _ _ _) rfl ?_
    exact keeps_refl _ _
  · refine keeps_step (keeps_modCh _ _ _) rfl ?_
    refine keeps_step (keeps_modCh _ _ _) rfl ?_
    exact keeps_refl _ _

theorem keeps_followLink : ∀ x0 x1 s, Keeps [.free, .out, .dma, .grn, .cmp, .lpl, .rve] s
    (@followLink x0 x1 s) := by
  intro x0 x1 s
  unfold followLink
  dsimp only
  refine keeps_ite ?_ ?_
  · refine keeps_step (keeps_dmaFail _ _ _ _ _) rfl ?_
    refine keeps_step (keeps_modCh _ _ _) rfl ?_
    exact keeps_refl _ _
  · refine keeps_ite ?_ ?_
    · refine keeps_step (keeps_dmaFail _ _ _ _ _) rfl ?_
      refine keeps_step (keeps_modCh _ _ _) rfl ?_
      exact keeps_refl _ _
    · refine keeps_step (keeps_askDesc _ _ _) rfl ?_
      refine keeps_step (keeps_modCh _ _ _) rfl ?_
      refine keeps_step (keeps_modCh _ _ _) rfl ?_
      exact keeps_refl _ _

theorem keeps_takeDesc : ∀ x0 x1 s, Keeps [.free, .out, .dma, .grn, .cmp, .lpl, .rve] s (@takeDesc
    x0 x1 s) := by
  intro x0 x1 s
  unfold takeDesc
  dsimp only
  refine keeps_ite ?_ ?_
  · refine keeps_step (keeps_followLink _ _ _) rfl ?_
    exact keeps_refl _ _
  · refine keeps_step (keeps_beginDesc _ _ _) rfl ?_
    exact keeps_refl _ _

theorem keeps_fetchGranary : ∀ x0 x1 s, Keeps [.free, .out, .dma, .grn, .cmp, .lpl, .rve] s
    (@fetchGranary x0 x1 s) := by
  intro x0 x1 s
  unfold fetchGranary
  dsimp only
  refine keeps_ite ?_ ?_
  · refine keeps_step (keeps_dmaFail _ _ _ _ _) rfl ?_
    refine keeps_step (keeps_violation _ _ _ _ _) rfl ?_
    exact keeps_refl _ _
  · refine keeps_ite ?_ ?_
    · refine keeps_step (keeps_dmaFail _ _ _ _ _) rfl ?_
      refine keeps_step (keeps_readWords _ _ _ _ _) rfl ?_
      exact keeps_refl _ _
    · refine keeps_step (keeps_takeDesc _ _ _) rfl ?_
      refine keeps_step (keeps_readWords _ _ _ _ _) rfl ?_
      exact keeps_refl _ _

theorem keeps_execDmaDescriptorFetched : ∀ x0 x1 x2 s, ∃ t, @execDmaDescriptorFetched x0 x1 x2 s =
    .next t ∧ Keeps [.free, .out, .dma, .grn, .cmp, .lpl, .rve] s t := by
  intro x0 x1 x2 s
  unfold execDmaDescriptorFetched
  refine ⟨_, rfl, ?_⟩
  refine keeps_whenS ?_ fun _ => ?_
  · exact keeps_refl _ _
  · dsimp only
    refine keeps_step (keeps_arbitrate _) rfl ?_
    split
    · split
      · refine keeps_step (keeps_beginDesc _ _ _) rfl ?_
        exact keeps_refl _ _
      · refine keeps_step (keeps_modCh _ _ _) rfl ?_
        exact keeps_refl _ _
    · split
      · refine keeps_step (keeps_beginDesc _ _ _) rfl ?_
        exact keeps_refl _ _
      · refine keeps_step (keeps_takeDesc _ _ _) rfl ?_
        exact keeps_refl _ _
      · refine keeps_step (keeps_dmaFail _ _ _ _ _) rfl ?_
        exact keeps_refl _ _
      · refine keeps_ite ?_ ?_
        · refine keeps_step (keeps_fetchGranary _ _ _) rfl ?_
          exact keeps_refl _ _
        · exact keeps_refl _ _

theorem keeps_execDmaPacedRequest : ∀ x0 s, ∃ t, @execDmaPacedRequest x0 s = .next t ∧ Keeps [.free,
    .dma, .grn, .cmp, .lpl, .rve] s t := by
  intro x0 s
  unfold execDmaPacedRequest
  dsimp only
  refine ⟨_, rfl, ?_⟩
  refine keeps_whenS ?_ fun _ => ?_
  · exact keeps_refl _ _
  · refine keeps_ite ?_ ?_
    · refine keeps_step (keeps_modCh _ _ _) rfl ?_
      exact keeps_refl _ _
    · refine keeps_ite ?_ ?_
      · exact keeps_refl _ _
      · refine keeps_ite ?_ ?_
        · refine keeps_step (keeps_modCh _ _ _) rfl ?_
          exact keeps_refl _ _
        · refine keeps_step (keeps_pacedFails _ _) rfl ?_
          refine keeps_step (keeps_raise _ _ _ _) rfl ?_
          refine keeps_mk ?_
          exact keeps_refl _ _

theorem keeps_scanFaults : ∀ x0 x1 s, Keeps [.free, .grn, .rve] s (@scanFaults x0 x1 s).2 := by
  intro x0 x1 s
  induction x0 generalizing x1 s with
  | zero =>
    exact keeps_refl _ _
  | succ _ ih =>
    rw [scanFaults]
    split
    · dsimp only
      exact keeps_refl _ _
    · dsimp only
      split
      · dsimp only
        refine keeps_step (keeps_violation _ _ _ _ _) rfl ?_
        exact keeps_refl _ _
      · split
        · dsimp only
          refine keeps_step (keeps_readWord _ _ _ _) rfl ?_
          exact keeps_refl _ _
        · split
          · dsimp only
            refine keeps_step (keeps_readWord _ _ _ _) rfl ?_
            exact keeps_refl _ _
          · refine keeps_step (ih _ _) rfl ?_
            refine keeps_step (keeps_readWord _ _ _ _) rfl ?_
            exact keeps_refl _ _

theorem keeps_nextRecord : ∀ x0 s, Keeps [.free, .grn, .rve] s (@nextRecord x0 s).2 := by
  intro x0 s
  unfold nextRecord
  split
  · dsimp only
    split
    · dsimp only
      exact keeps_refl _ _
    · split
      · dsimp only
        exact keeps_refl _ _
      · dsimp only
        exact keeps_refl _ _
  · split
    · split
      · dsimp only
        exact keeps_refl _ _
      · dsimp only
        split
        · dsimp only
          refine keeps_step (keeps_scanFaults _ _ _) rfl ?_
          exact keeps_refl _ _
        · dsimp only
          refine keeps_step (keeps_scanFaults _ _ _) rfl ?_
          exact keeps_refl _ _
        · dsimp only
          refine keeps_step (keeps_scanFaults _ _ _) rfl ?_
          exact keeps_refl _ _
    · split
      · dsimp only
        exact keeps_refl _ _
      · dsimp only
        exact keeps_refl _ _
    · split
      · dsimp only
        exact keeps_refl _ _
      · dsimp only
        refine keeps_step (keeps_tileWord _ _) rfl ?_
        exact keeps_refl _ _

theorem keeps_burstRead : ∀ x0 x1 s, Keeps [.dma] s (@burstRead x0 x1 s) := by
  intro x0 x1 s
  unfold burstRead
  refine keeps_mk ?_
  exact keeps_refl _ _

theorem keeps_takeRecords : ∀ x0 x1 s, Keeps [.free, .dma, .grn, .cmp, .lpl, .rve, .jobs] s
    (@takeRecords x0 x1 s) := by
  intro x0 x1 s
  induction x1 generalizing x0 s with
  | zero =>
    exact keeps_refl _ _
  | succ _ ih =>
    rw [takeRecords]
    split
    · refine keeps_ite ?_ ?_
      · exact keeps_refl _ _
      · dsimp only
        split
        · refine keeps_step (keeps_dmaFail _ _ _ _ _) rfl ?_
          refine keeps_step (keeps_nextRecord _ _) rfl ?_
          exact keeps_refl _ _
        · refine keeps_step (keeps_endBurst _ _) rfl ?_
          refine keeps_step (keeps_modCh _ _ _) rfl ?_
          refine keeps_step (keeps_nextRecord _ _) rfl ?_
          exact keeps_refl _ _
        · refine keeps_step (ih _ _) rfl ?_
          refine keeps_step (keeps_burstRead _ _ _) rfl ?_
          refine keeps_step (keeps_modCh _ _ _) rfl ?_
          refine keeps_step (keeps_setJob _ _ _) rfl ?_
          refine keeps_step (keeps_nextRecord _ _) rfl ?_
          exact keeps_refl _ _
    · exact keeps_refl _ _

theorem keeps_mergeWrite : ∀ x0 x1 s, Keeps [.free, .grn, .mem, .rve, .yok] s (@mergeWrite x0 x1 s)
    := by
  intro x0 x1 s
  unfold mergeWrite
  refine keeps_foldl ?_ fun _ _ _ => ?_
  · exact keeps_refl _ _
  · dsimp only
    refine keeps_step (keeps_storeBytes _ _ _) rfl ?_
    refine keeps_step (keeps_readWord _ _ _ _) rfl ?_
    assumption

theorem keeps_dmaStore : ∀ x0 x1 x2 x3 s, Keeps [.free, .dma, .grn, .mem, .cmp, .lpl, .rve, .yok] s
    (@dmaStore x0 x1 x2 x3 s).2 := by
  intro x0 x1 x2 x3 s
  unfold dmaStore
  split
  · dsimp only
    refine keeps_step (keeps_dmaFail _ _ _ _ _) rfl ?_
    refine keeps_step (keeps_violation _ _ _ _ _) rfl ?_
    exact keeps_refl _ _
  · dsimp only
    split
    · split
      · dsimp only
        refine keeps_step (keeps_mergeWrite _ _ _) rfl ?_
        exact keeps_refl _ _
      · split
        · dsimp only
          refine keeps_step (keeps_dmaFail _ _ _ _ _) rfl ?_
          refine keeps_step (keeps_grnStore _ _ _ _ _ _) rfl ?_
          exact keeps_refl _ _
        · split
          · dsimp only
            refine keeps_step (keeps_grnStore _ _ _ _ _ _) rfl ?_
            exact keeps_refl _ _
          · split
            · dsimp only
              refine keeps_step (keeps_grnStore _ _ _ _ _ _) rfl ?_
              refine keeps_step (keeps_grnStore _ _ _ _ _ _) rfl ?_
              exact keeps_refl _ _
            · dsimp only
              refine keeps_step (keeps_dmaFail _ _ _ _ _) rfl ?_
              refine keeps_step (keeps_grnStore _ _ _ _ _ _) rfl ?_
              refine keeps_step (keeps_grnStore _ _ _ _ _ _) rfl ?_
              exact keeps_refl _ _
    · split
      · dsimp only
        refine keeps_step (keeps_mergeWrite _ _ _) rfl ?_
        exact keeps_refl _ _
      · split
        · dsimp only
          refine keeps_step (keeps_dmaFail _ _ _ _ _) rfl ?_
          refine keeps_step (keeps_grnStore _ _ _ _ _ _) rfl ?_
          exact keeps_refl _ _
        · split
          · dsimp only
            refine keeps_step (keeps_grnStore _ _ _ _ _ _) rfl ?_
            exact keeps_refl _ _
          · split
            · dsimp only
              refine keeps_step (keeps_grnStore _ _ _ _ _ _) rfl ?_
              refine keeps_step (keeps_grnStore _ _ _ _ _ _) rfl ?_
              exact keeps_refl _ _
            · dsimp only
              refine keeps_step (keeps_dmaFail _ _ _ _ _) rfl ?_
              refine keeps_step (keeps_grnStore _ _ _ _ _ _) rfl ?_
              refine keeps_step (keeps_grnStore _ _ _ _ _ _) rfl ?_
              exact keeps_refl _ _

theorem keeps_dmaSend : ∀ x0 x1 x2 s, Keeps [.free, .out, .dma, .grn, .cmp, .lpl, .rve] s (@dmaSend
    x0 x1 x2 s).2 := by
  intro x0 x1 x2 s
  unfold dmaSend
  dsimp only
  split
  · split
    · dsimp only
      refine keeps_step (keeps_dmaFail _ _ _ _ _) rfl ?_
      refine keeps_step (keeps_violation _ _ _ _ _) rfl ?_
      exact keeps_refl _ _
    · dsimp only
      refine keeps_step (keeps_emit _ _) rfl ?_
      exact keeps_refl _ _
  · split
    · dsimp only
      refine keeps_step (keeps_dmaFail _ _ _ _ _) rfl ?_
      refine keeps_step (keeps_violation _ _ _ _ _) rfl ?_
      exact keeps_refl _ _
    · dsimp only
      refine keeps_step (keeps_emit _ _) rfl ?_
      exact keeps_refl _ _

theorem keeps_countLoaded : ∀ x0 s, Keeps [.pxh, .rve] s (@countLoaded x0 s) := by
  intro x0 s
  unfold countLoaded
  split
  · refine keeps_ite ?_ ?_
    · refine keeps_step (keeps_checkDeadAll _) rfl ?_
      exact keeps_refl _ _
    · exact keeps_refl _ _
  · exact keeps_refl _ _

theorem keeps_dmaPut : ∀ x0 x1 x2 x3 s, Keeps [.free, .out, .dma, .grn, .mem, .cmp, .lpl, .pxh,
    .rve, .yok, .jobs] s (@dmaPut x0 x1 x2 x3 s).2 := by
  intro x0 x1 x2 x3 s
  unfold dmaPut
  split
  · dsimp only
    refine keeps_step (keeps_modView _ _ _) rfl ?_
    exact keeps_refl _ _
  · dsimp only
    split
    · split
      · dsimp only
        refine keeps_ite ?_ ?_
        · refine keeps_step (keeps_setJob _ _ _) rfl ?_
          exact keeps_refl _ _
        · exact keeps_refl _ _
      · split
        · refine keeps_step (keeps_dmaSend _ _ _ _) rfl ?_
          refine keeps_ite ?_ ?_
          · refine keeps_step (keeps_setJob _ _ _) rfl ?_
            exact keeps_refl _ _
          · exact keeps_refl _ _
        · split
          · split
            · dsimp only
              refine keeps_step (keeps_countLoaded _ _) rfl ?_
              refine keeps_step (keeps_dmaStore _ _ _ _ _) rfl ?_
              refine keeps_step (keeps_setJob _ _ _) rfl ?_
              exact keeps_refl _ _
            · dsimp only
              refine keeps_step (keeps_setJob _ _ _) rfl ?_
              exact keeps_refl _ _
          · split
            · dsimp only
              refine keeps_step (keeps_countLoaded _ _) rfl ?_
              refine keeps_step (keeps_dmaStore _ _ _ _ _) rfl ?_
              exact keeps_refl _ _
            · dsimp only
              exact keeps_refl _ _
    · split
      · dsimp only
        refine keeps_step (keeps_setJob _ _ _) rfl ?_
        exact keeps_refl _ _
      · split
        · refine keeps_step (keeps_dmaSend _ _ _ _) rfl ?_
          exact keeps_refl _ _
        · split
          · dsimp only
            refine keeps_step (keeps_countLoaded _ _) rfl ?_
            refine keeps_step (keeps_dmaStore _ _ _ _ _) rfl ?_
            exact keeps_refl _ _
          · dsimp only
            exact keeps_refl _ _

theorem keeps_descDone : ∀ x0 x1 s, Keeps [.out, .dma, .lpl] s (@descDone x0 x1 s) := by
  intro x0 x1 s
  unfold descDone
  dsimp only
  refine keeps_ite ?_ ?_
  · refine keeps_step (keeps_modCh _ _ _) rfl ?_
    refine keeps_step (keeps_modCh _ _ _) rfl ?_
    split
    · refine keeps_step (keeps_modView _ _ _) rfl ?_
      exact keeps_refl _ _
    · exact keeps_refl _ _
  · refine keeps_ite ?_ ?_
    · refine keeps_step (keeps_modCh _ _ _) rfl ?_
      refine keeps_step (keeps_modCh _ _ _) rfl ?_
      split
      · refine keeps_step (keeps_modView _ _ _) rfl ?_
        exact keeps_refl _ _
      · exact keeps_refl _ _
    · split
      · refine keeps_step (keeps_modCh _ _ _) rfl ?_
        refine keeps_step (keeps_modCh _ _ _) rfl ?_
        refine keeps_step (keeps_modCh _ _ _) rfl ?_
        split
        · refine keeps_step (keeps_modView _ _ _) rfl ?_
          exact keeps_refl _ _
        · exact keeps_refl _ _
      · refine keeps_step (keeps_askDesc _ _ _) rfl ?_
        refine keeps_step (keeps_modCh _ _ _) rfl ?_
        refine keeps_step (keeps_modCh _ _ _) rfl ?_
        split
        · refine keeps_step (keeps_modView _ _ _) rfl ?_
          exact keeps_refl _ _
        · exact keeps_refl _ _

theorem keeps_settleDesc : ∀ x0 s, Keeps [.out, .dma, .lpl] s (@settleDesc x0 s) := by
  intro x0 s
  unfold settleDesc
  dsimp only
  split
  · refine keeps_ite ?_ ?_
    · refine keeps_step (keeps_descDone _ _ _) rfl ?_
      exact keeps_refl _ _
    · exact keeps_refl _ _
  · exact keeps_refl _ _

theorem keeps_beatHost : ∀ x0 x1 s, Keeps [.dma] s (@beatHost x0 x1 s) := by
  intro x0 x1 s
  unfold beatHost
  dsimp only
  split
  · exact keeps_refl _ _
  · refine keeps_ite ?_ ?_
    · exact keeps_refl _ _
    · refine keeps_step (keeps_modCh _ _ _) rfl ?_
      exact keeps_refl _ _

theorem keeps_beatWords : ∀ x0 x1 x2 x3 s, Keeps [.free, .grn, .rve] s (@beatWords x0 x1 x2 x3 s).2
    := by
  intro x0 x1 x2 x3 s
  unfold beatWords
  dsimp only
  split
  · split
    · refine keeps_step (keeps_readWords _ _ _ _ _) rfl ?_
      exact keeps_refl _ _
    · dsimp only
      exact keeps_refl _ _
  · split
    · refine keeps_step (keeps_readWords _ _ _ _ _) rfl ?_
      exact keeps_refl _ _
    · dsimp only
      exact keeps_refl _ _

theorem keeps_readBeat : ∀ x0 x1 x2 x3 x4 s, Keeps [.free, .dma, .grn, .cmp, .lpl, .rve] s
    (@readBeat x0 x1 x2 x3 x4 s) := by
  intro x0 x1 x2 x3 x4 s
  unfold readBeat
  refine keeps_ite ?_ ?_
  · refine keeps_step (keeps_dmaFail _ _ _ _ _) rfl ?_
    refine keeps_step (keeps_violation _ _ _ _ _) rfl ?_
    exact keeps_refl _ _
  · dsimp only
    refine keeps_ite ?_ ?_
    · refine keeps_step (keeps_dmaFail _ _ _ _ _) rfl ?_
      refine keeps_step (keeps_beatWords _ _ _ _ _) rfl ?_
      exact keeps_refl _ _
    · refine keeps_step (keeps_burstRead _ _ _) rfl ?_
      refine keeps_step (keeps_modCh _ _ _) rfl ?_
      refine keeps_step (keeps_beatWords _ _ _ _ _) rfl ?_
      exact keeps_refl _ _

theorem keeps_beatGranary : ∀ x0 x1 x2 s, Keeps [.free, .dma, .grn, .cmp, .lpl, .rve, .jobs] s
    (@beatGranary x0 x1 x2 s) := by
  intro x0 x1 x2 s
  unfold beatGranary
  dsimp only
  split
  · refine keeps_ite ?_ ?_
    · exact keeps_refl _ _
    · refine keeps_ite ?_ ?_
      · refine keeps_step (keeps_takeRecords _ _ _) rfl ?_
        exact keeps_refl _ _
      · refine keeps_ite ?_ ?_
        · refine keeps_step (keeps_readBeat _ _ _ _ _ _) rfl ?_
          exact keeps_refl _ _
        · exact keeps_refl _ _
  · exact keeps_refl _ _

theorem keeps_wroteBurst : ∀ x0 s, Keeps [.dma] s (@wroteBurst x0 s) := by
  intro x0 s
  unfold wroteBurst
  refine keeps_mk ?_
  exact keeps_refl _ _

theorem keeps_beatWrite : ∀ x0 x1 s, Keeps [.free, .out, .dma, .grn, .mem, .cmp, .lpl, .pxh, .rve,
    .yok, .jobs] s (@beatWrite x0 x1 s) := by
  intro x0 x1 s
  unfold beatWrite
  dsimp only
  split
  · exact keeps_refl _ _
  · refine keeps_ite ?_ ?_
    · exact keeps_refl _ _
    · refine keeps_ite ?_ ?_
      · refine keeps_step (keeps_wroteBurst _ _) rfl ?_
        refine keeps_step (keeps_modCh _ _ _) rfl ?_
        refine keeps_step (keeps_dmaPut _ _ _ _ _) rfl ?_
        exact keeps_refl _ _
      · refine keeps_step (keeps_dmaPut _ _ _ _ _) rfl ?_
        exact keeps_refl _ _

theorem keeps_beatError : ∀ x0 s, Keeps [.free, .dma, .grn, .cmp, .lpl, .rve] s (@beatError x0 s) :=
    by
  intro x0 s
  unfold beatError
  split
  · refine keeps_ite ?_ ?_
    · refine keeps_step (keeps_dmaFail _ _ _ _ _) rfl ?_
      exact keeps_refl _ _
    · exact keeps_refl _ _
  · exact keeps_refl _ _

theorem keeps_execDmaBeatComplete : ∀ x0 x1 s, ∃ t, @execDmaBeatComplete x0 x1 s = .next t ∧ Keeps
    [.free, .out, .dma, .grn, .mem, .cmp, .lpl, .pxh, .rve, .yok, .jobs] s t := by
  intro x0 x1 s
  unfold execDmaBeatComplete
  refine ⟨_, rfl, ?_⟩
  refine keeps_whenS ?_ fun _ => ?_
  · exact keeps_refl _ _
  · dsimp only
    refine keeps_step (keeps_arbitrate _) rfl ?_
    refine keeps_step (keeps_settleDesc _ _) rfl ?_
    split
    · refine keeps_ite ?_ ?_
      · refine keeps_step (keeps_arbitrate _) rfl ?_
        exact keeps_refl _ _
      · refine keeps_step (keeps_beatHost _ _ _) rfl ?_
        refine keeps_step (keeps_arbitrate _) rfl ?_
        exact keeps_refl _ _
    · refine keeps_step (keeps_beatGranary _ _ _ _) rfl ?_
      refine keeps_step (keeps_arbitrate _) rfl ?_
      exact keeps_refl _ _
    · refine keeps_step (keeps_beatWrite _ _ _) rfl ?_
      refine keeps_step (keeps_arbitrate _) rfl ?_
      exact keeps_refl _ _
    · refine keeps_step (keeps_beatError _ _) rfl ?_
      refine keeps_step (keeps_arbitrate _) rfl ?_
      exact keeps_refl _ _

theorem keeps_execDmaTimeout : ∀ x0 x1 s, ∃ t, @execDmaTimeout x0 x1 s = .next t ∧ Keeps [.free,
    .out, .dma, .grn, .cmp, .lpl, .rve] s t := by
  intro x0 x1 s
  unfold execDmaTimeout
  refine ⟨_, rfl, ?_⟩
  refine keeps_whenS ?_ fun _ => ?_
  · exact keeps_refl _ _
  · dsimp only
    split
    · refine keeps_step (keeps_arbitrate _) rfl ?_
      refine keeps_step (keeps_dmaFail _ _ _ _ _) rfl ?_
      refine keeps_step (keeps_arbitrate _) rfl ?_
      exact keeps_refl _ _
    · refine keeps_step (keeps_arbitrate _) rfl ?_
      exact keeps_refl _ _

theorem keeps_execDmaChannelFreed : ∀ s, ∃ t, @execDmaChannelFreed s = .next t ∧ Keeps [.free, .out,
    .dma, .hdg, .jobs] s t := by
  intro s
  unfold execDmaChannelFreed
  refine ⟨_, rfl, ?_⟩
  refine keeps_whenS ?_ fun _ => ?_
  · exact keeps_refl _ _
  · dsimp only
    split
    · refine keeps_step (keeps_reapJobs _) rfl ?_
      exact keeps_refl _ _
    · split
      · refine keeps_step (keeps_reapJobs _) rfl ?_
        exact keeps_refl _ _
      · refine keeps_step (keeps_startJob _ _ _) rfl ?_
        refine keeps_mk ?_
        refine keeps_step (keeps_reapJobs _) rfl ?_
        exact keeps_refl _ _

theorem keeps_failedRange : ∀ x0 x1 x2 s, Keeps [.free, .grn, .mem, .yok] s (@failedRange x0 x1 x2
    s) := by
  intro x0 x1 x2 s
  unfold failedRange
  split
  · refine keeps_step (keeps_scramble _ _ _) rfl ?_
    exact keeps_refl _ _
  · exact keeps_refl _ _

theorem keeps_transferFailed : ∀ x0 s, Keeps [.free, .grn, .mem, .cmp, .yok, .boot, .tst] s
    (@transferFailed x0 s) := by
  intro x0 s
  unfold transferFailed
  split
  · refine keeps_step (keeps_failedRange _ _ _ _) rfl ?_
    exact keeps_refl _ _
  · refine keeps_step (keeps_modSym _ _ _) rfl ?_
    exact keeps_refl _ _
  · refine keeps_step (keeps_failedRange _ _ _ _) rfl ?_
    exact keeps_refl _ _
  · refine keeps_mk ?_
    exact keeps_refl _ _
  · refine keeps_mk ?_
    exact keeps_refl _ _
  · exact keeps_refl _ _

theorem keeps_jobFailed : ∀ x0 s, Keeps [.free, .hif, .grn, .mem, .cmp, .rve, .yok, .eth, .mgt,
    .boot, .tst, .running, .maskQ] s (@jobFailed x0 s) := by
  intro x0 s
  unfold jobFailed
  dsimp only
  refine keeps_ite ?_ ?_
  · exact keeps_refl _ _
  · refine keeps_step (keeps_complete _ _ _ _ _) rfl ?_
    refine keeps_step (keeps_transferFailed _ _) rfl ?_
    exact keeps_refl _ _

theorem keeps_exportDone : ∀ x0 s, Keeps [.free, .hif, .grn, .lpl, .rve, .yok, .eth, .mgt, .running,
    .maskQ] s (@exportDone x0 s) := by
  intro x0 s
  unfold exportDone
  refine keeps_ite ?_ ?_
  · refine keeps_step (keeps_finish _ _ _ _) rfl ?_
    exact keeps_refl _ _
  · dsimp only
    split
    · refine keeps_step (keeps_finish _ _ _ _) rfl ?_
      split
      · refine keeps_step (keeps_scanFaults _ _ _) rfl ?_
        exact keeps_refl _ _
      · dsimp only
        exact keeps_refl _ _
    · refine keeps_step (keeps_finish _ _ _ _) rfl ?_
      split
      · refine keeps_step (keeps_scanFaults _ _ _) rfl ?_
        exact keeps_refl _ _
      · dsimp only
        exact keeps_refl _ _
    · refine keeps_step (keeps_complete _ _ _ _ _) rfl ?_
      split
      · refine keeps_step (keeps_scanFaults _ _ _) rfl ?_
        exact keeps_refl _ _
      · dsimp only
        exact keeps_refl _ _

theorem keeps_calDone : ∀ x0 s, Keeps [.hif, .lpl, .pxh, .rve, .yok, .eth, .mgt, .running, .maskQ] s
    (@calDone x0 s) := by
  intro x0 s
  unfold calDone
  refine keeps_step (keeps_checkDeadAll _) rfl ?_
  refine keeps_step (keeps_calLoaded _ _) rfl ?_
  exact keeps_refl _ _

end Sys2Proof.Laws
end

