-- ==== Sys2Proof/Laws/KeepHostLink.lean ====
section
/-!
SUPPORT. Which parts of the state the operations of HostLink.lean leave alone.
-/

namespace Sys2Proof.Laws

-- Each proof is checked before the next begins: hundreds at once would ask for a thread each.
set_option Elab.async false
set_option linter.all false

open Sys2Proof Sys2Proof.Machine Sys2Proof.Safety

theorem keeps_abortHost : ∀ s x1, Keeps [.free, .dma, .grn, .mem, .cmp, .lpl, .rve, .yok] s
    (@abortHost s x1) := by
  intro s x1
  unfold abortHost
  refine keeps_ite ?_ ?_
  · refine keeps_step (keeps_pacedFails _ _) rfl ?_
    refine keeps_step (keeps_dmaAbort _ _) rfl ?_
    exact keeps_refl _ _
  · exact keeps_refl _ _

theorem keeps_ringsLost : ∀ s, Keeps [.hif, .running] s (@ringsLost s) := by
  intro s
  unfold ringsLost
  refine keeps_mk ?_
  exact keeps_refl _ _

theorem keeps_jobsLost : ∀ s, Keeps [.free, .hif, .grn, .mem, .cmp, .rve, .yok, .eth, .mgt, .boot,
    .tst, .running, .maskQ, .jobs] s (@jobsLost s) := by
  intro s
  unfold jobsLost
  refine keeps_foldl ?_ fun _ _ _ => ?_
  · refine keeps_mk ?_
    exact keeps_refl _ _
  · refine keeps_step (keeps_jobFailed _ _) rfl ?_
    assumption

theorem keeps_hostLost : ∀ s, Keeps [.free, .hif, .dma, .grn, .mem, .cmp, .lpl, .rve, .yok, .eth,
    .mgt, .boot, .tst, .running, .maskQ, .jobs] s (@hostLost s) := by
  intro s
  unfold hostLost
  refine keeps_step (keeps_jobsLost _) rfl ?_
  refine keeps_step (keeps_ringsLost _) rfl ?_
  refine keeps_foldl ?_ fun _ _ _ => ?_
  · exact keeps_refl _ _
  · refine keeps_step (keeps_abortHost _ _) rfl ?_
    assumption

theorem keeps_functionReset : ∀ s, Keeps [.hif] s (@functionReset s) := by
  intro s
  unfold functionReset
  refine keeps_mk ?_
  exact keeps_refl _ _

theorem keeps_execPcieFlr : ∀ s, ∃ t, @execPcieFlr s = .next t ∧ Keeps [.free, .hif, .dma, .grn,
    .mem, .cmp, .lpl, .rve, .yok, .eth, .mgt, .boot, .tst, .running, .maskQ, .jobs] s t := by
  intro s
  unfold execPcieFlr
  refine ⟨_, rfl, ?_⟩
  refine keeps_whenS ?_ fun _ => ?_
  · exact keeps_refl _ _
  · refine keeps_step (keeps_functionReset _) rfl ?_
    refine keeps_step (keeps_hostLost _) rfl ?_
    exact keeps_refl _ _

theorem keeps_setD3hot : ∀ x0 s, Keeps [.hif] s (@setD3hot x0 s) := by
  intro x0 s
  unfold setD3hot
  refine keeps_mk ?_
  exact keeps_refl _ _

theorem keeps_execPcieD3hot : ∀ s, ∃ t, @execPcieD3hot s = .next t ∧ Keeps [.free, .hif, .dma, .grn,
    .mem, .cmp, .lpl, .rve, .yok, .eth, .mgt, .boot, .tst, .running, .maskQ, .jobs] s t := by
  intro s
  unfold execPcieD3hot
  refine ⟨_, rfl, ?_⟩
  refine keeps_whenS ?_ fun _ => ?_
  · exact keeps_refl _ _
  · refine keeps_step (keeps_setD3hot _ _) rfl ?_
    refine keeps_step (keeps_hostLost _) rfl ?_
    exact keeps_refl _ _

theorem keeps_linkLost : ∀ s, Keeps [.free, .hif, .dma, .grn, .mem, .cmp, .lpl, .rve, .yok, .eth,
    .mgt, .boot, .tst, .running, .maskQ, .jobs] s (@linkLost s) := by
  intro s
  unfold linkLost
  refine keeps_step (keeps_hostLost _) rfl ?_
  refine keeps_mk ?_
  exact keeps_refl _ _

theorem keeps_execPcieLinkDown : ∀ s, ∃ t, @execPcieLinkDown s = .next t ∧ Keeps [.free, .hif, .dma,
    .grn, .mem, .cmp, .lpl, .rve, .yok, .eth, .mgt, .boot, .tst, .running, .maskQ, .jobs] s t := by
  intro s
  unfold execPcieLinkDown
  refine ⟨_, rfl, ?_⟩
  refine keeps_whenS ?_ fun _ => ?_
  · exact keeps_refl _ _
  · refine keeps_step (keeps_raise _ _ _ _) rfl ?_
    refine keeps_step (keeps_linkLost _) rfl ?_
    exact keeps_refl _ _

theorem keeps_execPcieLinkUp : ∀ x0 x1 s, ∃ t, @execPcieLinkUp x0 x1 s = .next t ∧ Keeps [.hif] s t
    := by
  intro x0 x1 s
  unfold execPcieLinkUp
  refine ⟨_, rfl, ?_⟩
  refine keeps_whenS ?_ fun _ => ?_
  · exact keeps_refl _ _
  · refine keeps_mk ?_
    exact keeps_refl _ _

theorem keeps_perst : ∀ x0 s, Keeps [.free, .hif, .dma, .grn, .mem, .cmp, .lpl, .pwr, .rve, .yok,
    .eth, .mgt, .boot, .tst, .running, .maskQ, .jobs] s (@perst x0 s) := by
  intro x0 s
  unfold perst
  refine keeps_ite ?_ ?_
  · refine keeps_mk ?_
    exact keeps_refl _ _
  · dsimp only
    refine keeps_ite ?_ ?_
    · refine keeps_step (keeps_setD3hot _ _) rfl ?_
      refine keeps_step (keeps_linkLost _) rfl ?_
      refine keeps_mk ?_
      exact keeps_refl _ _
    · refine keeps_mk ?_
      exact keeps_refl _ _

theorem keeps_execPerstNChange : ∀ x0 s, ∃ t, @execPerstNChange x0 s = .next t ∧ Keeps [.free, .hif,
    .dma, .grn, .mem, .cmp, .lpl, .pwr, .rve, .yok, .eth, .mgt, .boot, .tst, .running, .maskQ,
    .jobs] s t := by
  intro x0 s
  unfold execPerstNChange
  refine ⟨_, rfl, ?_⟩
  refine keeps_step (keeps_perst _ _) rfl ?_
  exact keeps_refl _ _

end Sys2Proof.Laws
end

