-- ==== Sys2Proof/Laws/KeepGranary.lean ====
section
/-!
SUPPORT. Which parts of the state the operations of Granary.lean leave alone.
-/

namespace Sys2Proof.Laws

-- Each proof is checked before the next begins: hundreds at once would ask for a thread each.
set_option Elab.async false
set_option linter.all false

open Sys2Proof Sys2Proof.Machine Sys2Proof.Safety

theorem keeps_settleCopies : ∀ s, Keeps [.grn] s (@settleCopies s) := by
  intro s
  unfold settleCopies
  refine keeps_mk ?_
  exact keeps_refl _ _

theorem keeps_leaveBad : ∀ s x1, Keeps [.grn] s (@leaveBad s x1) := by
  intro s x1
  unfold leaveBad
  refine keeps_ite ?_ ?_
  · exact keeps_refl _ _
  · refine keeps_mk ?_
    exact keeps_refl _ _

theorem keeps_initDone : ∀ x0 s, Keeps [.free, .out, .hif, .grn, .mem, .lpl, .pwr, .rve, .yok] s
    (@initDone x0 s) := by
  intro x0 s
  unfold initDone
  dsimp only
  refine keeps_step (keeps_serveWaiting _) rfl ?_
  refine keeps_ite ?_ ?_
  · refine keeps_foldl ?_ fun _ _ _ => ?_
    · refine keeps_step (keeps_settleCopies _) rfl ?_
      refine keeps_foldl3 ?_ fun _ _ _ => ?_
      · dsimp only
        refine keeps_mk ?_
        exact keeps_refl _ _
      · unfold repairFailing
        split
        · assumption
        · split
          · dsimp only
            refine keeps_step (keeps_startRepair _ _) rfl ?_
            assumption
          · dsimp only
            refine keeps_step (keeps_startRepair _ _) rfl ?_
            assumption
    · refine keeps_step (keeps_leaveBad _ _) rfl ?_
      assumption
  · refine keeps_step (keeps_raise _ _ _ _) rfl ?_
    refine keeps_foldl ?_ fun _ _ _ => ?_
    · refine keeps_step (keeps_settleCopies _) rfl ?_
      refine keeps_foldl3 ?_ fun _ _ _ => ?_
      · dsimp only
        refine keeps_mk ?_
        exact keeps_refl _ _
      · unfold repairFailing
        split
        · assumption
        · split
          · dsimp only
            refine keeps_step (keeps_startRepair _ _) rfl ?_
            assumption
          · dsimp only
            refine keeps_step (keeps_startRepair _ _) rfl ?_
            assumption
    · refine keeps_step (keeps_leaveBad _ _) rfl ?_
      assumption

theorem keeps_execGranaryInitDone : ∀ x0 s, ∃ t, @execGranaryInitDone x0 s = .next t ∧ Keeps [.free,
    .out, .hif, .grn, .mem, .lpl, .pwr, .rve, .yok] s t := by
  intro x0 s
  unfold execGranaryInitDone
  dsimp only
  refine ⟨_, rfl, ?_⟩
  refine keeps_whenS ?_ fun _ => ?_
  · exact keeps_refl _ _
  · refine keeps_step (keeps_initDone _ _) rfl ?_
    exact keeps_refl _ _

theorem keeps_execEccRewrite : ∀ x0 s, ∃ t, @execEccRewrite x0 s = .next t ∧ Keeps [.grn] s t := by
  intro x0 s
  unfold execEccRewrite
  refine ⟨_, rfl, ?_⟩
  refine keeps_whenS ?_ fun _ => ?_
  · exact keeps_refl _ _
  · split
    · exact keeps_refl _ _
    · dsimp only
      refine keeps_mk ?_
      exact keeps_refl _ _

theorem keeps_execRowRepairComplete : ∀ s, ∃ t, @execRowRepairComplete s = .next t ∧ Keeps [.grn] s
    t := by
  intro s
  unfold execRowRepairComplete
  refine ⟨_, rfl, ?_⟩
  refine keeps_whenS ?_ fun _ => ?_
  · exact keeps_refl _ _
  · split
    · exact keeps_refl _ _
    · refine keeps_mk ?_
      exact keeps_refl _ _

theorem keeps_scrubBanks : ∀ x0 x1 s, Keeps [.free, .grn, .rve] s (@scrubBanks x0 x1 s) := by
  intro x0 x1 s
  unfold scrubBanks
  refine keeps_foldl ?_ fun _ _ _ => ?_
  · exact keeps_refl _ _
  · refine keeps_step (keeps_readWord _ _ _ _) rfl ?_
    assumption

theorem keeps_scrubOn : ∀ s, Keeps [.grn] s (@scrubOn s) := by
  intro s
  unfold scrubOn
  refine keeps_ite ?_ ?_
  · refine keeps_mk ?_
    exact keeps_refl _ _
  · refine keeps_mk ?_
    exact keeps_refl _ _

theorem keeps_execScrubWordRead : ∀ x0 x1 s, ∃ t, @execScrubWordRead x0 x1 s = .next t ∧ Keeps
    [.free, .grn, .rve] s t := by
  intro x0 x1 s
  unfold execScrubWordRead
  refine ⟨_, rfl, ?_⟩
  refine keeps_whenS ?_ fun _ => ?_
  · exact keeps_refl _ _
  · refine keeps_step (keeps_scrubOn _) rfl ?_
    refine keeps_step (keeps_scrubBanks _ _ _) rfl ?_
    exact keeps_refl _ _

theorem keeps_execRetentionReleaseDone : ∀ s, ∃ t, @execRetentionReleaseDone s = .next t ∧ Keeps
    [.free, .out, .hif, .grn, .mem, .pwr, .rve, .yok] s t := by
  intro s
  unfold execRetentionReleaseDone
  dsimp only
  refine ⟨_, rfl, ?_⟩
  refine keeps_whenS ?_ fun _ => ?_
  · exact keeps_refl _ _
  · refine keeps_step (keeps_serveWaiting _) rfl ?_
    refine keeps_mk ?_
    exact keeps_refl _ _

theorem keeps_marchBody : BodyKeeps [.grn, .marchCmd] marchBody := by
  refine ⟨fun c s => ?_, fun c st s => ?_⟩
  · unfold marchBody
    dsimp only
    refine keeps_mk ?_
    exact keeps_refl _ _
  · unfold marchBody
    dsimp only
    exact keeps_refl _ _

theorem keeps_execMarchRun : ∀ x0 x1 s, ∃ t, @execMarchRun x0 x1 s = .next t ∧ Keeps [.hif, .grn,
    .rve, .yok, .eth, .mgt, .running, .nextSer, .maskQ, .marchCmd] s t := by
  intro x0 x1 s
  unfold execMarchRun
  refine ⟨_, rfl, ?_⟩
  refine keeps_runRow rfl rfl keeps_marchBody ?_
  exact keeps_refl _ _

theorem keeps_marchEnd : ∀ x0 s, Keeps [.hif, .grn, .lpl, .rve, .yok, .eth, .mgt, .running, .maskQ,
    .marchCmd] s (@marchEnd x0 s) := by
  intro x0 s
  unfold marchEnd
  dsimp only
  split
  · refine keeps_ite ?_ ?_
    · refine keeps_step (keeps_raise _ _ _ _) rfl ?_
      refine keeps_mk ?_
      exact keeps_refl _ _
    · refine keeps_ite ?_ ?_
      · refine keeps_step (keeps_raise _ _ _ _) rfl ?_
        refine keeps_mk ?_
        exact keeps_refl _ _
      · refine keeps_mk ?_
        exact keeps_refl _ _
  · refine keeps_ite ?_ ?_
    · refine keeps_step (keeps_complete _ _ _ _ _) rfl ?_
      refine keeps_ite ?_ ?_
      · refine keeps_step (keeps_raise _ _ _ _) rfl ?_
        refine keeps_mk ?_
        exact keeps_refl _ _
      · refine keeps_ite ?_ ?_
        · refine keeps_step (keeps_raise _ _ _ _) rfl ?_
          refine keeps_mk ?_
          exact keeps_refl _ _
        · refine keeps_mk ?_
          exact keeps_refl _ _
    · refine keeps_ite ?_ ?_
      · refine keeps_step (keeps_complete _ _ _ _ _) rfl ?_
        refine keeps_ite ?_ ?_
        · refine keeps_step (keeps_raise _ _ _ _) rfl ?_
          refine keeps_mk ?_
          exact keeps_refl _ _
        · refine keeps_ite ?_ ?_
          · refine keeps_step (keeps_raise _ _ _ _) rfl ?_
            refine keeps_mk ?_
            exact keeps_refl _ _
          · refine keeps_mk ?_
            exact keeps_refl _ _
      · refine keeps_step (keeps_finish _ _ _ _) rfl ?_
        refine keeps_ite ?_ ?_
        · refine keeps_step (keeps_raise _ _ _ _) rfl ?_
          refine keeps_mk ?_
          exact keeps_refl _ _
        · refine keeps_ite ?_ ?_
          · refine keeps_step (keeps_raise _ _ _ _) rfl ?_
            refine keeps_mk ?_
            exact keeps_refl _ _
          · refine keeps_mk ?_
            exact keeps_refl _ _

theorem keeps_execMarchStripeDone : ∀ x0 s, ∃ t, @execMarchStripeDone x0 s = .next t ∧ Keeps [.hif,
    .grn, .mem, .lpl, .rve, .yok, .eth, .mgt, .running, .maskQ, .marchCmd] s t := by
  intro x0 s
  unfold execMarchStripeDone
  refine ⟨_, rfl, ?_⟩
  refine keeps_whenS ?_ fun _ => ?_
  · exact keeps_refl _ _
  · split
    · exact keeps_refl _ _
    · dsimp only
      refine keeps_ite ?_ ?_
      · refine keeps_step (keeps_marchEnd _ _) rfl ?_
        refine keeps_foldl3 ?_ fun _ _ _ => ?_
        · dsimp only
          refine keeps_ite ?_ ?_
          · refine keeps_step (keeps_storeBytes _ _ _) rfl ?_
            exact keeps_refl _ _
          · exact keeps_refl _ _
        · unfold repairFailing
          split
          · assumption
          · split
            · dsimp only
              refine keeps_step (keeps_startRepair _ _) rfl ?_
              assumption
            · dsimp only
              refine keeps_step (keeps_startRepair _ _) rfl ?_
              assumption
      · refine keeps_mk ?_
        refine keeps_foldl3 ?_ fun _ _ _ => ?_
        · dsimp only
          refine keeps_ite ?_ ?_
          · refine keeps_step (keeps_storeBytes _ _ _) rfl ?_
            exact keeps_refl _ _
          · exact keeps_refl _ _
        · unfold repairFailing
          split
          · assumption
          · split
            · dsimp only
              refine keeps_step (keeps_startRepair _ _) rfl ?_
              assumption
            · dsimp only
              refine keeps_step (keeps_startRepair _ _) rfl ?_
              assumption

end Sys2Proof.Laws
end

