-- ==== Sys2Proof/Laws/KeepAuxChains.lean ====
section
/-!
SUPPORT. Which parts of the state the operations of AuxChains.lean leave alone.
-/

namespace Sys2Proof.Laws

-- Each proof is checked before the next begins: hundreds at once would ask for a thread each.
set_option Elab.async false
set_option linter.all false

open Sys2Proof Sys2Proof.Machine Sys2Proof.Safety

theorem keeps_modAux : ∀ x0 x1 s, Keeps [.aux] s (@modAux x0 x1 s) := by
  intro x0 x1 s
  unfold modAux
  refine keeps_mk ?_
  exact keeps_refl _ _

theorem keeps_auxWriteBody : BodyKeeps [.hif, .lpl, .rve, .yok, .eth, .mgt, .running, .maskQ]
    auxWriteBody := by
  refine ⟨fun c s => ?_, fun c st s => ?_⟩
  · unfold auxWriteBody
    dsimp only
    refine keeps_step (keeps_finishOk _ _) rfl ?_
    refine keeps_step (keeps_shadowAll _ _) rfl ?_
    exact keeps_refl _ _
  · unfold auxWriteBody
    dsimp only
    exact keeps_refl _ _

theorem keeps_execAuxWrite : ∀ x0 x1 s, ∃ t, @execAuxWrite x0 x1 s = .next t ∧ Keeps [.hif, .lpl,
    .rve, .yok, .eth, .mgt, .running, .nextSer, .maskQ] s t := by
  intro x0 x1 s
  unfold execAuxWrite
  refine ⟨_, rfl, ?_⟩
  refine keeps_runRow rfl rfl keeps_auxWriteBody ?_
  exact keeps_refl _ _

theorem keeps_execAuxFrameShift : ∀ x0 s, ∃ t, @execAuxFrameShift x0 s = .next t ∧ Keeps [.out,
    .aux] s t := by
  intro x0 s
  unfold execAuxFrameShift
  refine ⟨_, rfl, ?_⟩
  refine keeps_whenS ?_ fun _ => ?_
  · exact keeps_refl _ _
  · dsimp only
    refine keeps_step (keeps_emit _ _) rfl ?_
    refine keeps_step (keeps_modAux _ _ _) rfl ?_
    exact keeps_refl _ _

theorem keeps_execAuxShiftEnd : ∀ x0 x1 x2 s, ∃ t, @execAuxShiftEnd x0 x1 x2 s = .next t ∧ Keeps
    [.out, .rve, .aux] s t := by
  intro x0 x1 x2 s
  unfold execAuxShiftEnd
  refine ⟨_, rfl, ?_⟩
  refine keeps_whenS ?_ fun _ => ?_
  · exact keeps_refl _ _
  · dsimp only
    split
    · exact keeps_refl _ _
    · refine keeps_ite ?_ ?_
      · refine keeps_step (keeps_modAux _ _ _) rfl ?_
        exact keeps_refl _ _
      · refine keeps_step (keeps_emit _ _) rfl ?_
        refine keeps_step (keeps_raise _ _ _ _) rfl ?_
        refine keeps_step (keeps_modAux _ _ _) rfl ?_
        exact keeps_refl _ _

end Sys2Proof.Laws
end

