-- ==== Sys2Proof/Laws/KeepTestRun.lean ====
section
/-!
SUPPORT. Which parts of the state the operations of TestRun.lean leave alone.
-/

namespace Sys2Proof.Laws

-- Each proof is checked before the next begins: hundreds at once would ask for a thread each.
set_option Elab.async false
set_option linter.all false

open Sys2Proof Sys2Proof.Machine Sys2Proof.Safety

theorem keeps_noteInsertion : ∀ s, Keeps [.tst] s (@noteInsertion s) := by
  intro s
  unfold noteInsertion
  refine keeps_mk ?_
  exact keeps_refl _ _

theorem keeps_eccInsert : ∀ x0 x1 s, Keeps [.free, .grn] s (@eccInsert x0 x1 s) := by
  intro x0 x1 s
  unfold eccInsert
  split
  · refine keeps_mk ?_
    exact keeps_refl _ _
  · dsimp only
    refine keeps_mk ?_
    refine keeps_step (keeps_freshBits _ _) rfl ?_
    exact keeps_refl _ _

theorem keeps_loopRead : ∀ x0 s, Keeps [.free, .out, .dma, .hdg, .jobs] s (@loopRead x0 s) := by
  intro x0 s
  unfold loopRead
  refine keeps_step (keeps_askTransfer _ _) rfl ?_
  exact keeps_refl _ _

theorem keeps_testRunBody : BodyKeeps [.free, .out, .hif, .dma, .grn, .hdg, .rve, .bel, .eth, .mgt,
    .tst, .running, .maskQ, .jobs] testRunBody := by
  refine ⟨fun c s => ?_, fun c st s => ?_⟩
  · unfold testRunBody
    dsimp only
    split
    · refine keeps_step (keeps_loopRead _ _) rfl ?_
      refine keeps_step (keeps_ethLinkLost _ _) rfl ?_
      refine keeps_mk ?_
      exact keeps_refl _ _
    · refine keeps_step (keeps_endRun _ _ _ _) rfl ?_
      refine keeps_step (keeps_noteInsertion _) rfl ?_
      refine keeps_step (keeps_eccInsert _ _ _) rfl ?_
      refine keeps_mk ?_
      exact keeps_refl _ _
    · refine keeps_mk ?_
      exact keeps_refl _ _
  · unfold testRunBody
    dsimp only
    exact keeps_refl _ _

theorem keeps_execTestRun : ∀ x0 x1 s, ∃ t, @execTestRun x0 x1 s = .next t ∧ Keeps [.free, .out,
    .hif, .dma, .grn, .hdg, .rve, .yok, .bel, .eth, .mgt, .tst, .running, .nextSer, .maskQ, .jobs] s
    t := by
  intro x0 x1 s
  unfold execTestRun
  refine ⟨_, rfl, ?_⟩
  refine keeps_runRow rfl rfl keeps_testRunBody ?_
  exact keeps_refl _ _

theorem keeps_loopSend : ∀ x0 s, Keeps [.out, .tst] s (@loopSend x0 s) := by
  intro x0 s
  unfold loopSend
  split
  · split
    · dsimp only
      refine keeps_step (keeps_emit _ _) rfl ?_
      refine keeps_mk ?_
      exact keeps_refl _ _
    · exact keeps_refl _ _
  · exact keeps_refl _ _

theorem keeps_loopBack : ∀ x0 s, Keeps [.free, .out, .hif, .dma, .hdg, .rve, .eth, .mgt, .tst,
    .running, .maskQ, .jobs] s (@loopBack x0 s) := by
  intro x0 s
  unfold loopBack
  split
  · split
    · dsimp only
      refine keeps_ite ?_ ?_
      · refine keeps_step (keeps_endRun _ _ _ _) rfl ?_
        exact keeps_refl _ _
      · refine keeps_step (keeps_loopRead _ _) rfl ?_
        refine keeps_mk ?_
        exact keeps_refl _ _
    · exact keeps_refl _ _
  · exact keeps_refl _ _

theorem keeps_execEthLoopFrameReturned : ∀ x0 x1 s, ∃ t, @execEthLoopFrameReturned x0 x1 s = .next t
    ∧ Keeps [.free, .out, .hif, .dma, .hdg, .rve, .eth, .mgt, .tst, .running, .maskQ, .jobs] s t :=
    by
  intro x0 x1 s
  unfold execEthLoopFrameReturned
  refine ⟨_, rfl, ?_⟩
  refine keeps_whenS ?_ fun _ => ?_
  · exact keeps_refl _ _
  · refine keeps_step (keeps_loopBack _ _) rfl ?_
    exact keeps_refl _ _

theorem keeps_execEthLoopFrameTimeout : ∀ s, ∃ t, @execEthLoopFrameTimeout s = .next t ∧ Keeps
    [.free, .out, .hif, .dma, .hdg, .rve, .eth, .mgt, .tst, .running, .maskQ, .jobs] s t := by
  intro s
  unfold execEthLoopFrameTimeout
  refine ⟨_, rfl, ?_⟩
  refine keeps_whenS ?_ fun _ => ?_
  · exact keeps_refl _ _
  · refine keeps_step (keeps_loopBack _ _) rfl ?_
    exact keeps_refl _ _

end Sys2Proof.Laws
end

