-- ==== Sys2Proof/Laws/KeepImage.lean ====
section
/-!
SUPPORT. Which parts of the state the operations of Image.lean leave alone.
-/

namespace Sys2Proof.Laws

-- Each proof is checked before the next begins: hundreds at once would ask for a thread each.
set_option Elab.async false
set_option linter.all false

open Sys2Proof Sys2Proof.Machine Sys2Proof.Safety

theorem keeps_applyIf : ∀ x0 s, OKeeps [] s (@applyIf x0 s) := by
  intro x0 s
  unfold applyIf
  refine okeeps_ite ?_ ?_
  · refine okeeps_some ?_
    exact keeps_refl _ _
  · exact okeeps_none

theorem keeps_imgHost : ∀ x0 x1 s, OKeeps [.hif, .auth, .dma, .grn] s (@imgHost x0 x1 s) := by
  intro x0 x1 s
  unfold imgHost
  refine okeeps_ite ?_ ?_
  · refine okeeps_some ?_
    refine keeps_mk ?_
    exact keeps_refl _ _
  · refine okeeps_ite ?_ ?_
    · refine okeeps_some ?_
      refine keeps_mk ?_
      exact keeps_refl _ _
    · refine okeeps_ite ?_ ?_
      · refine okeeps_some ?_
        refine keeps_mk ?_
        exact keeps_refl _ _
      · refine okeeps_ite ?_ ?_
        · dsimp only
          refine okeeps_step (keeps_applyIf _ _) rfl ?_
          refine keeps_mk ?_
          exact keeps_refl _ _
        · split
          · refine okeeps_some ?_
            refine keeps_mk ?_
            exact keeps_refl _ _
          · refine okeeps_ite ?_ ?_
            · refine okeeps_step (keeps_applyIf _ _) rfl ?_
              refine keeps_mk ?_
              exact keeps_refl _ _
            · refine okeeps_ite ?_ ?_
              · refine okeeps_some ?_
                refine keeps_mk ?_
                exact keeps_refl _ _
              · split
                · refine okeeps_some ?_
                  refine keeps_mk ?_
                  exact keeps_refl _ _
                · refine okeeps_some ?_
                  refine keeps_mk ?_
                  exact keeps_refl _ _
                · exact okeeps_none

theorem keeps_imgLanes : ∀ x0 x1 s, OKeeps [.lpl, .link] s (@imgLanes x0 x1 s) := by
  intro x0 x1 s
  unfold imgLanes
  split
  · dsimp only
    refine okeeps_step (keeps_applyIf _ _) rfl ?_
    refine keeps_ite ?_ ?_
    · refine keeps_mk ?_
      exact keeps_refl _ _
    · refine keeps_step (keeps_shadowAll _ _) rfl ?_
      refine keeps_mk ?_
      exact keeps_refl _ _
  · split
    · dsimp only
      refine okeeps_step (keeps_applyIf _ _) rfl ?_
      refine keeps_mk ?_
      exact keeps_refl _ _
    · refine okeeps_ite ?_ ?_
      · refine okeeps_some ?_
        refine keeps_mk ?_
        exact keeps_refl _ _
      · split
        · refine okeeps_step (keeps_applyIf _ _) rfl ?_
          refine keeps_mk ?_
          exact keeps_refl _ _
        · exact okeeps_none

theorem keeps_modEntryOf : ∀ x0 x1 s, Keeps [.rail] s (@modEntryOf x0 x1 s) := by
  intro x0 x1 s
  unfold modEntryOf
  refine keeps_mk ?_
  exact keeps_refl _ _

theorem keeps_bootEvent : ∀ x0 x1 x2 s, Keeps [.free, .rve] s (@bootEvent x0 x1 x2 s) := by
  intro x0 x1 x2 s
  unfold bootEvent
  dsimp only
  refine keeps_step (keeps_raise _ _ _ _) rfl ?_
  refine keeps_step (keeps_freshBits _ _) rfl ?_
  exact keeps_refl _ _

theorem keeps_imgRails : ∀ x0 x1 s, OKeeps [.free, .rail, .rve] s (@imgRails x0 x1 s) := by
  intro x0 x1 s
  unfold imgRails
  split
  · refine okeeps_some ?_
    refine keeps_whenS ?_ fun _ => ?_
    · refine keeps_mk ?_
      exact keeps_refl _ _
    · refine keeps_step (keeps_bootEvent _ _ _ _) rfl ?_
      assumption
  · split
    · refine okeeps_some ?_
      refine keeps_mk ?_
      exact keeps_refl _ _
    · refine okeeps_step (keeps_applyIf _ _) rfl ?_
      refine keeps_step (keeps_modEntryOf _ _ _) rfl ?_
      exact keeps_refl _ _
    · refine okeeps_step (keeps_applyIf _ _) rfl ?_
      refine keeps_step (keeps_modEntryOf _ _ _) rfl ?_
      exact keeps_refl _ _
    · refine okeeps_some ?_
      refine keeps_step (keeps_modEntryOf _ _ _) rfl ?_
      exact keeps_refl _ _
    · refine okeeps_step (keeps_applyIf _ _) rfl ?_
      refine keeps_step (keeps_modEntryOf _ _ _) rfl ?_
      exact keeps_refl _ _
    · refine okeeps_step (keeps_applyIf _ _) rfl ?_
      refine keeps_step (keeps_modEntryOf _ _ _) rfl ?_
      exact keeps_refl _ _
    · exact okeeps_none

theorem keeps_imgClass : ∀ x0 x1 s, Keeps [.thm] s (@imgClass x0 x1 s) := by
  intro x0 x1 s
  unfold imgClass
  refine keeps_step (keeps_modClass _ _ _) rfl ?_
  exact keeps_refl _ _

theorem keeps_imgPower : ∀ x0 x1 s, OKeeps [.pwr, .thm] s (@imgPower x0 x1 s) := by
  intro x0 x1 s
  unfold imgPower
  refine okeeps_ite ?_ ?_
  · refine okeeps_step (keeps_applyIf _ _) rfl ?_
    refine keeps_mk ?_
    exact keeps_refl _ _
  · split
    · refine okeeps_some ?_
      refine keeps_step (keeps_imgClass _ _ _) rfl ?_
      exact keeps_refl _ _
    · refine okeeps_some ?_
      refine keeps_step (keeps_imgClass _ _ _) rfl ?_
      exact keeps_refl _ _
    · refine okeeps_some ?_
      refine keeps_step (keeps_imgClass _ _ _) rfl ?_
      exact keeps_refl _ _
    · split
      · refine okeeps_some ?_
        refine keeps_mk ?_
        exact keeps_refl _ _
      · refine okeeps_ite ?_ ?_
        · refine okeeps_step (keeps_applyIf _ _) rfl ?_
          refine keeps_mk ?_
          exact keeps_refl _ _
        · exact okeeps_none

theorem keeps_imgReeve : ∀ x0 x1 s, OKeeps [.rve, .yok] s (@imgReeve x0 x1 s) := by
  intro x0 x1 s
  unfold imgReeve
  refine okeeps_ite ?_ ?_
  · refine okeeps_some ?_
    refine keeps_mk ?_
    exact keeps_refl _ _
  · refine okeeps_ite ?_ ?_
    · refine okeeps_some ?_
      refine keeps_mk ?_
      exact keeps_refl _ _
    · refine okeeps_ite ?_ ?_
      · refine okeeps_step (keeps_applyIf _ _) rfl ?_
        refine keeps_mk ?_
        exact keeps_refl _ _
      · split
        · refine okeeps_step (keeps_applyIf _ _) rfl ?_
          refine keeps_mk ?_
          exact keeps_refl _ _
        · refine okeeps_step (keeps_applyIf _ _) rfl ?_
          refine keeps_mk ?_
          exact keeps_refl _ _
        · refine okeeps_step (keeps_applyIf _ _) rfl ?_
          refine keeps_mk ?_
          exact keeps_refl _ _
        · exact okeeps_none

theorem keeps_imgBell : ∀ x0 x1 s, OKeeps [.bel] s (@imgBell x0 x1 s) := by
  intro x0 x1 s
  unfold imgBell
  refine okeeps_ite ?_ ?_
  · refine okeeps_some ?_
    refine keeps_mk ?_
    exact keeps_refl _ _
  · refine okeeps_ite ?_ ?_
    · refine okeeps_step (keeps_applyIf _ _) rfl ?_
      refine keeps_mk ?_
      exact keeps_refl _ _
    · refine okeeps_ite ?_ ?_
      · refine okeeps_some ?_
        refine keeps_mk ?_
        exact keeps_refl _ _
      · exact okeeps_none

theorem keeps_imgEth : ∀ x0 x1 x2 s, OKeeps [.eth] s (@imgEth x0 x1 x2 s) := by
  intro x0 x1 x2 s
  unfold imgEth
  split
  · refine okeeps_some ?_
    refine keeps_step (keeps_modEth _ _ _) rfl ?_
    exact keeps_refl _ _
  · refine okeeps_some ?_
    refine keeps_step (keeps_modEth _ _ _) rfl ?_
    exact keeps_refl _ _
  · refine okeeps_some ?_
    refine keeps_step (keeps_modEth _ _ _) rfl ?_
    exact keeps_refl _ _
  · refine okeeps_step (keeps_applyIf _ _) rfl ?_
    refine keeps_step (keeps_modEth _ _ _) rfl ?_
    exact keeps_refl _ _
  · dsimp only
    refine okeeps_step (keeps_applyIf _ _) rfl ?_
    refine keeps_step (keeps_modEth _ _ _) rfl ?_
    exact keeps_refl _ _
  · refine okeeps_some ?_
    refine keeps_step (keeps_modEth _ _ _) rfl ?_
    exact keeps_refl _ _
  · refine okeeps_some ?_
    refine keeps_step (keeps_modEth _ _ _) rfl ?_
    exact keeps_refl _ _
  · refine okeeps_some ?_
    refine keeps_step (keeps_modEth _ _ _) rfl ?_
    exact keeps_refl _ _
  · split
    · refine okeeps_some ?_
      refine keeps_step (keeps_modEth _ _ _) rfl ?_
      exact keeps_refl _ _
    · refine okeeps_step (keeps_applyIf _ _) rfl ?_
      refine keeps_step (keeps_modEth _ _ _) rfl ?_
      exact keeps_refl _ _
    · exact okeeps_none

theorem keeps_imgAux : ∀ x0 x1 s, OKeeps [.aux, .gpio] s (@imgAux x0 x1 s) := by
  intro x0 x1 s
  unfold imgAux
  refine okeeps_ite ?_ ?_
  · refine okeeps_some ?_
    refine keeps_mk ?_
    exact keeps_refl _ _
  · split
    · dsimp only
      refine okeeps_step (keeps_applyIf _ _) rfl ?_
      refine keeps_mk ?_
      exact keeps_refl _ _
    · exact okeeps_none

theorem keeps_imgReg : ∀ x0 x1 s, OKeeps [.free, .hif, .auth, .dma, .grn, .lpl, .link, .rail, .pwr,
    .thm, .rve, .yok, .bel, .eth, .aux, .gpio] s (@imgReg x0 x1 s) := by
  intro x0 x1 s
  unfold imgReg
  refine okeeps_ite ?_ ?_
  · exact okeeps_mono (keeps_imgHost _ _ _) rfl
  · refine okeeps_ite ?_ ?_
    · exact okeeps_mono (keeps_imgLanes _ _ _) rfl
    · refine okeeps_ite ?_ ?_
      · exact okeeps_mono (keeps_imgRails _ _ _) rfl
      · refine okeeps_ite ?_ ?_
        · exact okeeps_mono (keeps_imgPower _ _ _) rfl
        · refine okeeps_ite ?_ ?_
          · exact okeeps_mono (keeps_imgReeve _ _ _) rfl
          · refine okeeps_ite ?_ ?_
            · exact okeeps_mono (keeps_imgBell _ _ _) rfl
            · refine okeeps_ite ?_ ?_
              · exact okeeps_mono (keeps_imgEth _ _ _ _) rfl
              · refine okeeps_ite ?_ ?_
                · exact okeeps_mono (keeps_imgEth _ _ _ _) rfl
                · exact okeeps_mono (keeps_imgAux _ _ _) rfl

theorem keeps_imgSettings : ∀ x0 s, OKeeps [.free, .hif, .auth, .dma, .grn, .lpl, .link, .rail,
    .pwr, .thm, .rve, .yok, .bel, .eth, .aux, .gpio] s (@imgSettings x0 s) := by
  intro x0 s
  induction x0 generalizing s with
  | nil =>
    exact okeeps_some (keeps_refl _ _)
  | cons _ _ ih =>
    rw [imgSettings]
    refine okeeps_bind ?_ fun _ => ?_
    · exact okeeps_mono (keeps_imgReg _ _ _) rfl
    · exact okeeps_mono (ih _) rfl

theorem keeps_imgIdentity : ∀ x0 s, Keeps [.hif, .mgt] s (@imgIdentity x0 s) := by
  intro x0 s
  unfold imgIdentity
  refine keeps_mk ?_
  exact keeps_refl _ _

theorem keeps_imgLaneSection : ∀ x0 s, Keeps [.link, .rve, .yok] s (@imgLaneSection x0 s) := by
  intro x0 s
  unfold imgLaneSection
  refine keeps_foldl ?_ fun _ _ _ => ?_
  · exact keeps_refl _ _
  · dsimp only
    split
    · refine keeps_ite ?_ ?_
      · refine keeps_step (keeps_modLane _ _ _) rfl ?_
        assumption
      · refine keeps_step (keeps_laneEvent _ _ _ _ _) rfl ?_
        refine keeps_step (keeps_modLane _ _ _) rfl ?_
        assumption
    · refine keeps_ite ?_ ?_
      · refine keeps_mk ?_
        refine keeps_step (keeps_modLane _ _ _) rfl ?_
        assumption
      · refine keeps_step (keeps_modLane _ _ _) rfl ?_
        assumption

theorem keeps_imgLinkSection : ∀ x0 s, Keeps [.link, .rve, .yok] s (@imgLinkSection x0 s) := by
  intro x0 s
  unfold imgLinkSection
  refine keeps_foldl ?_ fun _ _ _ => ?_
  · exact keeps_refl _ _
  · dsimp only
    refine keeps_ite ?_ ?_
    · refine keeps_step (keeps_modLane _ _ _) rfl ?_
      assumption
    · refine keeps_step (keeps_linkEvent _ _ _ _ _) rfl ?_
      refine keeps_step (keeps_modLane _ _ _) rfl ?_
      assumption

theorem keeps_imgRailSection : ∀ x0 s, Keeps [.free, .rail, .rve] s (@imgRailSection x0 s) := by
  intro x0 s
  unfold imgRailSection
  dsimp only
  refine keeps_ite ?_ ?_
  · refine keeps_step (keeps_bootEvent _ _ _ _) rfl ?_
    refine keeps_mk ?_
    refine keeps_foldl ?_ fun _ _ _ => ?_
    · exact keeps_refl _ _
    · split
      · refine keeps_step (keeps_raise _ _ _ _) rfl ?_
        refine keeps_step (keeps_modRail _ _ _) rfl ?_
        assumption
      · refine keeps_step (keeps_modRail _ _ _) rfl ?_
        assumption
  · refine keeps_mk ?_
    refine keeps_foldl ?_ fun _ _ _ => ?_
    · exact keeps_refl _ _
    · split
      · refine keeps_step (keeps_raise _ _ _ _) rfl ?_
        refine keeps_step (keeps_modRail _ _ _) rfl ?_
        assumption
      · refine keeps_step (keeps_modRail _ _ _) rfl ?_
        assumption

theorem keeps_imgThermalSection : ∀ x0 s, Keeps [.thm, .rve] s (@imgThermalSection x0 s) := by
  intro x0 s
  unfold imgThermalSection
  refine keeps_foldl ?_ fun _ _ _ => ?_
  · exact keeps_refl _ _
  · split
    · refine keeps_step (keeps_raise _ _ _ _) rfl ?_
      refine keeps_mk ?_
      assumption
    · refine keeps_mk ?_
      assumption

theorem keeps_imgPort : ∀ x0 x1 s, OKeeps [.eth] s (@imgPort x0 x1 s) := by
  intro x0 x1 s
  induction x1 generalizing x0 s with
  | nil =>
    exact okeeps_some (keeps_refl _ _)
  | cons _ _ ih =>
    rw [imgPort]
    refine okeeps_ite ?_ ?_
    · exact okeeps_none
    · refine okeeps_bind ?_ fun _ => ?_
      · exact okeeps_mono (keeps_imgEth _ _ _ _) rfl
      · exact okeeps_mono (ih _ _) rfl

theorem keeps_imgNetwork : ∀ x0 s, Keeps [.free, .rve, .bel, .eth] s (@imgNetwork x0 s) := by
  intro x0 s
  unfold imgNetwork
  dsimp only
  refine keeps_foldl ?_ fun _ _ _ => ?_
  · refine keeps_ite ?_ ?_
    · refine keeps_step (keeps_bootEvent _ _ _ _) rfl ?_
      refine keeps_foldl2 ?_ fun _ _ _ => ?_
      · dsimp only
        exact keeps_refl _ _
      · split
        · dsimp only
          refine keeps_some (keeps_imgBell _ _ _) rfl ‹_› ?_
          assumption
        · assumption
    · refine keeps_foldl2 ?_ fun _ _ _ => ?_
      · dsimp only
        exact keeps_refl _ _
      · split
        · dsimp only
          refine keeps_some (keeps_imgBell _ _ _) rfl ‹_› ?_
          assumption
        · assumption
  · split
    · refine keeps_some (keeps_imgPort _ _ _) rfl ‹_› ?_
      assumption
    · refine keeps_step (keeps_bootEvent _ _ _ _) rfl ?_
      refine keeps_step (keeps_modEth _ _ _) rfl ?_
      assumption

theorem keeps_settingsSection : ∀ x0 s, OKeeps [.free, .hif, .auth, .dma, .grn, .lpl, .link, .rail,
    .pwr, .thm, .rve, .yok, .bel, .eth, .aux, .gpio] s (@settingsSection x0 s) := by
  intro x0 s
  unfold settingsSection
  split
  · refine okeeps_ite ?_ ?_
    · refine okeeps_some ?_
      refine keeps_some (keeps_imgSettings _ _) rfl ‹_› ?_
      exact keeps_refl _ _
    · exact okeeps_none
  · exact okeeps_none

theorem keeps_applySection : ∀ x0 x1 s, OKeeps [.free, .hif, .auth, .dma, .grn, .lpl, .link, .rail,
    .pwr, .thm, .rve, .yok, .bel, .eth, .mgt, .boot, .aux, .gpio] s (@applySection x0 x1 s) := by
  intro x0 x1 s
  unfold applySection
  split
  · refine okeeps_some ?_
    refine keeps_step (keeps_imgIdentity _ _) rfl ?_
    exact keeps_refl _ _
  · exact okeeps_mono (keeps_settingsSection _ _) rfl
  · refine okeeps_some ?_
    refine keeps_step (keeps_imgLaneSection _ _) rfl ?_
    exact keeps_refl _ _
  · refine okeeps_some ?_
    refine keeps_step (keeps_imgLinkSection _ _) rfl ?_
    exact keeps_refl _ _
  · refine okeeps_some ?_
    refine keeps_step (keeps_imgRailSection _ _) rfl ?_
    exact keeps_refl _ _
  · refine okeeps_some ?_
    refine keeps_step (keeps_imgThermalSection _ _) rfl ?_
    exact keeps_refl _ _
  · refine okeeps_some ?_
    refine keeps_step (keeps_imgNetwork _ _) rfl ?_
    exact keeps_refl _ _
  · refine okeeps_some ?_
    refine keeps_mk ?_
    exact keeps_refl _ _
  · refine okeeps_some ?_
    refine keeps_mk ?_
    exact keeps_refl _ _
  · exact okeeps_none

theorem keeps_rejectSection : ∀ x0 s, Keeps [.free, .rve, .boot] s (@rejectSection x0 s) := by
  intro x0 s
  unfold rejectSection
  refine keeps_step (keeps_bootEvent _ _ _ _) rfl ?_
  refine keeps_ite ?_ ?_
  · refine keeps_mk ?_
    exact keeps_refl _ _
  · exact keeps_refl _ _

theorem keeps_applySections : ∀ x0 s, Keeps [.free, .out, .hif, .auth, .dma, .grn, .mem, .cmp, .lpl, .link, .rail,
    .pwr, .thm, .rve, .yok, .bel, .eth, .mgt, .boot, .aux, .gpio] s (@applySections x0 s) := by
  intro x0 s
  unfold applySections
  refine keeps_foldl (keeps_refl _ _) fun t x h => ?_
  split
  · rename_i e
    split at e
    · exact keeps_some (keeps_applySection _ _ _) rfl e h
    · cases e
  · exact keeps_step (keeps_rejectSection _ _) rfl h

theorem keeps_imageDefaults : ∀ s, Keeps [.hif, .auth, .dma, .grn, .lpl, .link, .rail, .pwr, .thm,
    .rve, .yok, .bel, .eth, .mgt, .boot, .aux, .gpio] s (@imageDefaults s) := by
  intro s
  unfold imageDefaults
  dsimp only
  refine keeps_step (keeps_imgClass _ _ _) rfl ?_
  refine keeps_step (keeps_imgClass _ _ _) rfl ?_
  refine keeps_mk ?_
  exact keeps_refl _ _

theorem keeps_unusedRailsOff : ∀ s, Keeps [.rail] s (@unusedRailsOff s) := by
  intro s
  unfold unusedRailsOff
  refine keeps_mk ?_
  exact keeps_refl _ _

theorem keeps_hostlessReset : ∀ s, Keeps [.hif] s (@hostlessReset s) := by
  intro s
  unfold hostlessReset
  refine keeps_ite ?_ ?_
  · refine keeps_mk ?_
    exact keeps_refl _ _
  · exact keeps_refl _ _

theorem keeps_applyImage : ∀ x0 x1 s, Keeps [.free, .out, .hif, .auth, .dma, .grn, .mem, .cmp, .lpl,
    .link, .rail, .pwr, .thm, .rve, .yok, .bel, .eth, .mgt, .boot, .aux, .gpio] s (@applyImage x0 x1
    s) := by
  intro x0 x1 s
  unfold applyImage
  dsimp only
  refine keeps_mk ?_
  refine keeps_step (keeps_hostlessReset _) rfl ?_
  refine keeps_step (keeps_unusedRailsOff _) rfl ?_
  refine keeps_step (keeps_applySections _ _) rfl ?_
  refine keeps_mk ?_
  refine keeps_step (keeps_imageDefaults _) rfl ?_
  exact keeps_refl _ _

end Sys2Proof.Laws
end

