-- ==== Sys2Proof/Laws/KeepDomains.lean ====
section
/-!
SUPPORT. Which parts of the state the operations of Domains.lean leave alone.
-/

namespace Sys2Proof.Laws

-- Each proof is checked before the next begins: hundreds at once would ask for a thread each.
set_option Elab.async false
set_option linter.all false

open Sys2Proof Sys2Proof.Machine Sys2Proof.Safety

theorem keeps_domainsReset : ∀ x0 s, Keeps [.hif, .dma, .grn, .cmp, .pho, .hdg, .lpl, .link, .pxh,
    .rail, .pwr, .thm, .rve, .yok, .eth, .mgt, .boot, .aux, .crcu, .gpio, .tst, .running, .maskQ,
    .jobs, .kernels, .marchCmd] s (@domainsReset x0 s) := by
  intro x0 s
  unfold domainsReset
  dsimp only
  refine keeps_mk ?_
  exact keeps_refl _ _

theorem keeps_coreOut : ∀ s, Keeps [.out, .pwr, .bel] s (@coreOut s) := by
  intro s
  unfold coreOut
  split
  · dsimp only
    refine keeps_ite ?_ ?_
    · refine keeps_ite ?_ ?_
      · refine keeps_step (keeps_emitAll _ _) rfl ?_
        refine keeps_mk ?_
        exact keeps_refl _ _
      · refine keeps_mk ?_
        exact keeps_refl _ _
    · exact keeps_refl _ _
  · exact keeps_refl _ _

theorem keeps_beginStart : ∀ x0 s, Keeps [.pwr] s (@beginStart x0 s) := by
  intro x0 s
  unfold beginStart
  dsimp only
  refine keeps_mk ?_
  exact keeps_refl _ _

theorem keeps_phaseB : ∀ s, Keeps [.pwr] s (@phaseB s) := by
  intro s
  unfold phaseB
  split
  · refine keeps_ite ?_ ?_
    · exact keeps_refl _ _
    · refine keeps_mk ?_
      exact keeps_refl _ _
  · exact keeps_refl _ _

theorem keeps_idlePhaseA : ∀ s, Keeps [.pwr] s (@idlePhaseA s) := by
  intro s
  unfold idlePhaseA
  split
  · refine keeps_ite ?_ ?_
    · refine keeps_step (keeps_phaseB _) rfl ?_
      exact keeps_refl _ _
    · exact keeps_refl _ _
  · exact keeps_refl _ _

theorem keeps_sysStart : ∀ x0 s, Keeps [.out, .hif, .dma, .grn, .cmp, .pho, .hdg, .lpl, .link, .pxh,
    .rail, .pwr, .thm, .rve, .yok, .bel, .eth, .mgt, .boot, .aux, .crcu, .gpio, .tst, .running,
    .maskQ, .jobs, .kernels, .marchCmd, .saved] s (@sysStart x0 s) := by
  intro x0 s
  unfold sysStart
  dsimp only
  refine keeps_step (keeps_coreOut _) rfl ?_
  refine keeps_mk ?_
  refine keeps_step (keeps_beginStart _ _) rfl ?_
  refine keeps_ite ?_ ?_
  · refine keeps_mk ?_
    refine keeps_step (keeps_domainsReset _ _) rfl ?_
    exact keeps_refl _ _
  · refine keeps_mk ?_
    refine keeps_step (keeps_domainsReset _ _) rfl ?_
    exact keeps_refl _ _

theorem keeps_sysHold : ∀ s, Keeps [.out, .hif, .dma, .grn, .cmp, .pho, .hdg, .lpl, .link, .pxh,
    .rail, .pwr, .thm, .rve, .yok, .bel, .eth, .mgt, .boot, .aux, .crcu, .gpio, .tst, .running,
    .maskQ, .jobs, .kernels, .marchCmd, .saved] s (@sysHold s) := by
  intro s
  unfold sysHold
  refine keeps_ite ?_ ?_
  · refine keeps_step (keeps_sysStart _ _) rfl ?_
    exact keeps_refl _ _
  · exact keeps_refl _ _

theorem keeps_wakeComplete : ∀ s, Keeps [.out, .hif, .dma, .grn, .cmp, .pho, .hdg, .lpl, .link,
    .pxh, .rail, .pwr, .thm, .rve, .yok, .bel, .eth, .mgt, .boot, .aux, .crcu, .gpio, .tst,
    .running, .maskQ, .jobs, .kernels, .marchCmd, .saved] s (@wakeComplete s) := by
  intro s
  unfold wakeComplete
  refine keeps_ite ?_ ?_
  · refine keeps_step (keeps_sysStart _ _) rfl ?_
    exact keeps_refl _ _
  · exact keeps_refl _ _

theorem keeps_execSysReset : ∀ s, ∃ t, @execSysReset s = .next t ∧ Keeps [.out, .hif, .dma, .grn,
    .cmp, .pho, .hdg, .lpl, .link, .pxh, .rail, .pwr, .thm, .rve, .yok, .bel, .eth, .mgt, .boot,
    .aux, .crcu, .gpio, .tst, .running, .maskQ, .jobs, .kernels, .marchCmd, .saved] s t := by
  intro s
  unfold execSysReset
  refine ⟨_, rfl, ?_⟩
  refine keeps_step (keeps_sysHold _) rfl ?_
  refine keeps_mk ?_
  exact keeps_refl _ _

theorem keeps_sysRelease : ∀ s, Keeps [.out, .pwr, .bel] s (@sysRelease s) := by
  intro s
  unfold sysRelease
  refine keeps_ite ?_ ?_
  · exact keeps_refl _ _
  · refine keeps_step (keeps_coreOut _) rfl ?_
    refine keeps_whenS ?_ fun _ => ?_
    · exact keeps_refl _ _
    · refine keeps_mk ?_
      exact keeps_refl _ _

theorem keeps_execSysRstNRelease : ∀ s, ∃ t, @execSysRstNRelease s = .next t ∧ Keeps [.out, .pwr,
    .bel] s t := by
  intro s
  unfold execSysRstNRelease
  refine ⟨_, rfl, ?_⟩
  refine keeps_step (keeps_sysRelease _) rfl ?_
  refine keeps_mk ?_
  exact keeps_refl _ _

theorem keeps_execTestenChange : ∀ x0 s, ∃ t, @execTestenChange x0 s = .next t ∧ Keeps [.out, .hif,
    .dma, .grn, .cmp, .pho, .hdg, .lpl, .link, .pxh, .rail, .pwr, .thm, .rve, .yok, .bel, .eth,
    .mgt, .boot, .aux, .crcu, .gpio, .tst, .running, .maskQ, .jobs, .kernels, .marchCmd, .saved] s t
    := by
  intro x0 s
  unfold execTestenChange
  refine ⟨_, rfl, ?_⟩
  refine keeps_ite ?_ ?_
  · refine keeps_step (keeps_sysHold _) rfl ?_
    refine keeps_mk ?_
    exact keeps_refl _ _
  · refine keeps_step (keeps_sysRelease _) rfl ?_
    refine keeps_mk ?_
    exact keeps_refl _ _

theorem keeps_execJtagInstructionUpdate : ∀ x0 s, ∃ t, @execJtagInstructionUpdate x0 s = .next t ∧
    Keeps [.out, .hif, .dma, .grn, .cmp, .pho, .hdg, .lpl, .link, .pxh, .rail, .pwr, .thm, .rve,
    .yok, .bel, .eth, .mgt, .boot, .aux, .crcu, .gpio, .tst, .running, .maskQ, .jobs, .kernels,
    .marchCmd, .saved] s t := by
  intro x0 s
  unfold execJtagInstructionUpdate
  dsimp only
  refine ⟨_, rfl, ?_⟩
  refine keeps_ite ?_ ?_
  · refine keeps_step (keeps_sysHold _) rfl ?_
    refine keeps_mk ?_
    exact keeps_refl _ _
  · refine keeps_ite ?_ ?_
    · refine keeps_step (keeps_sysRelease _) rfl ?_
      refine keeps_mk ?_
      exact keeps_refl _ _
    · refine keeps_mk ?_
      exact keeps_refl _ _

theorem keeps_execCommissionNHigh : ∀ s, ∃ t, @execCommissionNHigh s = .next t ∧ Keeps [.out, .hdg,
    .pwr, .bel] s t := by
  intro s
  unfold execCommissionNHigh
  dsimp only
  refine ⟨_, rfl, ?_⟩
  refine keeps_ite ?_ ?_
  · refine keeps_step (keeps_sysRelease _) rfl ?_
    refine keeps_mk ?_
    refine keeps_step (keeps_dropStaged _) rfl ?_
    refine keeps_mk ?_
    exact keeps_refl _ _
  · refine keeps_step (keeps_dropStaged _) rfl ?_
    refine keeps_mk ?_
    exact keeps_refl _ _

theorem keeps_execPgCoreLoss : ∀ s, ∃ t, @execPgCoreLoss s = .next t ∧ Keeps [.out, .hif, .dma,
    .grn, .cmp, .pho, .hdg, .lpl, .link, .pxh, .rail, .pwr, .thm, .rve, .yok, .bel, .eth, .mgt,
    .boot, .aux, .crcu, .gpio, .tst, .running, .maskQ, .jobs, .kernels, .marchCmd, .saved] s t := by
  intro s
  unfold execPgCoreLoss
  refine ⟨_, rfl, ?_⟩
  refine keeps_whenS ?_ fun _ => ?_
  · exact keeps_refl _ _
  · refine keeps_step (keeps_sysStart _ _) rfl ?_
    exact keeps_refl _ _

theorem keeps_execPgSramLossInSleep : ∀ s, ∃ t, @execPgSramLossInSleep s = .next t ∧ Keeps [.grn] s
    t := by
  intro s
  unfold execPgSramLossInSleep
  refine ⟨_, rfl, ?_⟩
  refine keeps_whenS ?_ fun _ => ?_
  · exact keeps_refl _ _
  · refine keeps_mk ?_
    exact keeps_refl _ _

theorem keeps_riseIo : ∀ x0 s, Keeps [.free, .pwr] s (@riseIo x0 s) := by
  intro x0 s
  unfold riseIo
  refine keeps_mk ?_
  exact keeps_refl _ _

theorem keeps_execPor : ∀ x0 x1 s, ∃ t, @execPor x0 x1 s = .next t ∧ Keeps [.free, .part, .hif,
    .auth, .dma, .grn, .mem, .cmp, .pho, .hdg, .lpl, .link, .pxh, .rail, .pwr, .thm, .rve, .yok,
    .bel, .eth, .mgt, .boot, .aux, .crcu, .gpio, .tst, .running, .nextSer, .maskQ, .jobs, .kernels,
    .marchCmd, .saved] s t := by
  intro x0 x1 s
  unfold execPor
  dsimp only
  refine ⟨_, rfl, ?_⟩
  refine keeps_step (keeps_beginStart _ _) rfl ?_
  refine keeps_step (keeps_riseIo _ _) rfl ?_
  refine keeps_mk ?_
  exact keeps_refl _ _

end Sys2Proof.Laws
end

