-- ==== Sys2Proof/Laws/KeepBoot.lean ====
section
/-!
SUPPORT. Which parts of the state the operations of Boot.lean leave alone.
-/

namespace Sys2Proof.Laws

-- Each proof is checked before the next begins: hundreds at once would ask for a thread each.
set_option Elab.async false
set_option linter.all false

open Sys2Proof Sys2Proof.Machine Sys2Proof.Safety

theorem keeps_advanceStart : ∀ s, Keeps [.pwr] s (@advanceStart s) := by
  intro s
  unfold advanceStart
  split
  · exact keeps_refl _ _
  · refine keeps_ite ?_ ?_
    · refine keeps_mk ?_
      exact keeps_refl _ _
    · exact keeps_refl _ _

theorem keeps_readLoad : ∀ s, Keeps [.out] s (@readLoad s) := by
  intro s
  unfold readLoad
  dsimp only
  split
  · refine keeps_ite ?_ ?_
    · refine keeps_step (keeps_emit _ _) rfl ?_
      exact keeps_refl _ _
    · exact keeps_refl _ _
  · exact keeps_refl _ _

theorem keeps_bootFails : ∀ x0 x1 s, Keeps [.pwr, .rve, .boot] s (@bootFails x0 x1 s) := by
  intro x0 x1 s
  unfold bootFails
  dsimp only
  refine keeps_step (keeps_raise _ _ _ _) rfl ?_
  refine keeps_step (keeps_raise _ _ _ _) rfl ?_
  refine keeps_mk ?_
  exact keeps_refl _ _

theorem keeps_bootRuns : ∀ x0 x1 s, Keeps [.free, .out, .hif, .auth, .dma, .grn, .mem, .cmp, .lpl,
    .link, .pxh, .rail, .pwr, .thm, .rve, .yok, .bel, .eth, .mgt, .boot, .aux, .gpio, .saved] s
    (@bootRuns x0 x1 s) := by
  intro x0 x1 s
  unfold bootRuns
  dsimp only
  refine keeps_step (keeps_readLoad _) rfl ?_
  refine keeps_step (keeps_settleFree _) rfl ?_
  refine keeps_ite ?_ ?_
  · refine keeps_step (keeps_startLanes _ _) rfl ?_
    refine keeps_mk ?_
    refine keeps_step (keeps_applyImage _ _ _) rfl ?_
    exact keeps_refl _ _
  · refine keeps_mk ?_
    refine keeps_step (keeps_applyImage _ _ _) rfl ?_
    exact keeps_refl _ _

theorem keeps_wakeSucceeds : ∀ s, Keeps [.out, .hif, .dma, .grn, .cmp, .pho, .hdg, .lpl, .link,
    .pxh, .rail, .pwr, .thm, .rve, .yok, .bel, .eth, .mgt, .boot, .aux, .crcu, .gpio, .tst,
    .running, .maskQ, .jobs, .kernels, .marchCmd, .saved] s (@wakeSucceeds s) := by
  intro s
  unfold wakeSucceeds
  refine keeps_step (keeps_wakeComplete _) rfl ?_
  refine keeps_mk ?_
  exact keeps_refl _ _

theorem keeps_bootImage : ∀ x0 s, Keeps [.free, .out, .hif, .auth, .dma, .grn, .mem, .cmp, .pho,
    .hdg, .lpl, .link, .pxh, .rail, .pwr, .thm, .rve, .yok, .bel, .eth, .mgt, .boot, .aux, .crcu,
    .gpio, .tst, .running, .maskQ, .jobs, .kernels, .marchCmd, .saved] s (@bootImage x0 s) := by
  intro x0 s
  unfold bootImage
  dsimp only
  refine keeps_ite ?_ ?_
  · refine keeps_step (keeps_bootFails _ _ _) rfl ?_
    refine keeps_mk ?_
    exact keeps_refl _ _
  · refine keeps_ite ?_ ?_
    · refine keeps_step (keeps_wakeSucceeds _) rfl ?_
      refine keeps_step (keeps_bootRuns _ _ _) rfl ?_
      refine keeps_ite ?_ ?_
      · refine keeps_step (keeps_raise _ _ _ _) rfl ?_
        refine keeps_mk ?_
        exact keeps_refl _ _
      · refine keeps_mk ?_
        exact keeps_refl _ _
    · refine keeps_step (keeps_bootRuns _ _ _) rfl ?_
      refine keeps_ite ?_ ?_
      · refine keeps_step (keeps_raise _ _ _ _) rfl ?_
        refine keeps_mk ?_
        exact keeps_refl _ _
      · refine keeps_mk ?_
        exact keeps_refl _ _

theorem keeps_execBootImageLoaded : ∀ x0 s, ∃ t, @execBootImageLoaded x0 s = .next t ∧ Keeps [.free,
    .out, .hif, .auth, .dma, .grn, .mem, .cmp, .pho, .hdg, .lpl, .link, .pxh, .rail, .pwr, .thm,
    .rve, .yok, .bel, .eth, .mgt, .boot, .aux, .crcu, .gpio, .tst, .running, .maskQ, .jobs,
    .kernels, .marchCmd, .saved] s t := by
  intro x0 s
  unfold execBootImageLoaded
  dsimp only
  refine ⟨_, rfl, ?_⟩
  refine keeps_whenS ?_ fun _ => ?_
  · exact keeps_refl _ _
  · refine keeps_step (keeps_bootImage _ _) rfl ?_
    exact keeps_refl _ _

theorem keeps_loadViolation : ∀ x0 s, Keeps [.grn, .rve] s (@loadViolation x0 s) := by
  intro x0 s
  unfold loadViolation
  refine keeps_ite ?_ ?_
  · refine keeps_step (keeps_violation _ _ _ _ _) rfl ?_
    exact keeps_refl _ _
  · exact keeps_refl _ _

theorem keeps_loadRecord : ∀ x0 x1 s, Keeps [.free, .grn, .mem, .rve, .yok] s (@loadRecord x0 x1 s)
    := by
  intro x0 x1 s
  unfold loadRecord
  dsimp only
  split
  · refine keeps_step (keeps_bootEvent _ _ _ _) rfl ?_
    refine keeps_step (keeps_scramble _ _ _) rfl ?_
    exact keeps_refl _ _
  · refine keeps_ite ?_ ?_
    · refine keeps_step (keeps_bootEvent _ _ _ _) rfl ?_
      refine keeps_step (keeps_scramble _ _ _) rfl ?_
      exact keeps_refl _ _
    · split
      · refine keeps_step (keeps_bootEvent _ _ _ _) rfl ?_
        refine keeps_step (keeps_scramble _ _ _) rfl ?_
        refine keeps_step (keeps_loadViolation _ _) rfl ?_
        exact keeps_refl _ _
      · refine keeps_ite ?_ ?_
        · refine keeps_step (keeps_grnWrite _ _ _ _ _) rfl ?_
          exact keeps_refl _ _
        · refine keeps_step (keeps_bootEvent _ _ _ _) rfl ?_
          refine keeps_step (keeps_scramble _ _ _) rfl ?_
          refine keeps_step (keeps_grnWrite _ _ _ _ _) rfl ?_
          exact keeps_refl _ _

theorem keeps_execFlashLoadRecordDone : ∀ x0 s, ∃ t, @execFlashLoadRecordDone x0 s = .next t ∧ Keeps
    [.free, .out, .grn, .mem, .pwr, .rve, .yok, .boot] s t := by
  intro x0 s
  unfold execFlashLoadRecordDone
  dsimp only
  refine ⟨_, rfl, ?_⟩
  refine keeps_whenS ?_ fun _ => ?_
  · exact keeps_refl _ _
  · split
    · exact keeps_refl _ _
    · refine keeps_step (keeps_advanceStart _) rfl ?_
      refine keeps_step (keeps_readLoad _) rfl ?_
      refine keeps_mk ?_
      refine keeps_step (keeps_loadRecord _ _ _) rfl ?_
      exact keeps_refl _ _

theorem keeps_hedgePowerUp : ∀ s, Keeps [.out, .hif, .pho, .hdg, .lpl, .link, .rail, .pwr, .rve,
    .yok, .eth, .mgt, .tst, .running, .maskQ] s (@hedgePowerUp s) := by
  intro s
  unfold hedgePowerUp
  dsimp only
  refine keeps_step (keeps_advanceStart _) rfl ?_
  refine keeps_step (keeps_sendHello _) rfl ?_
  refine keeps_step (keeps_evalInputs _) rfl ?_
  refine keeps_step (keeps_noteCommission _) rfl ?_
  refine keeps_mk ?_
  split
  · refine keeps_step (keeps_activateBlock _ _ _) rfl ?_
    exact keeps_refl _ _
  · refine keeps_step (keeps_raise _ _ _ _) rfl ?_
    refine keeps_step (keeps_activateBlock _ _ _) rfl ?_
    exact keeps_refl _ _

theorem keeps_execHedgePowerUp : ∀ s, ∃ t, @execHedgePowerUp s = .next t ∧ Keeps [.out, .hif, .pho,
    .hdg, .lpl, .link, .rail, .pwr, .rve, .yok, .eth, .mgt, .tst, .running, .maskQ] s t := by
  intro s
  unfold execHedgePowerUp
  dsimp only
  refine ⟨_, rfl, ?_⟩
  refine keeps_whenS ?_ fun _ => ?_
  · exact keeps_refl _ _
  · refine keeps_step (keeps_hedgePowerUp _) rfl ?_
    exact keeps_refl _ _

theorem keeps_recSeq : ∀ s, Keeps [.free] s (@recSeq s).2 := by
  intro s
  unfold recSeq
  split
  · dsimp only
    exact keeps_refl _ _
  · dsimp only
    refine keeps_step (keeps_freshBits _ _) rfl ?_
    exact keeps_refl _ _

theorem keeps_recordWritten : ∀ x0 s, Keeps [.free, .out, .rve, .boot] s (@recordWritten x0 s) := by
  intro x0 s
  unfold recordWritten
  split
  · exact keeps_refl _ _
  · dsimp only
    refine keeps_ite ?_ ?_
    · refine keeps_step (keeps_emit _ _) rfl ?_
      refine keeps_ite ?_ ?_
      · refine keeps_mk ?_
        refine keeps_step (keeps_emit _ _) rfl ?_
        refine keeps_mk ?_
        refine keeps_step (keeps_recSeq _) rfl ?_
        exact keeps_refl _ _
      · refine keeps_mk ?_
        refine keeps_step (keeps_emit _ _) rfl ?_
        refine keeps_mk ?_
        refine keeps_step (keeps_recSeq _) rfl ?_
        exact keeps_refl _ _
    · refine keeps_step (keeps_bootEvent _ _ _ _) rfl ?_
      refine keeps_mk ?_
      refine keeps_ite ?_ ?_
      · refine keeps_step (keeps_freshBool _) rfl ?_
        refine keeps_step (keeps_emit _ _) rfl ?_
        refine keeps_mk ?_
        refine keeps_step (keeps_recSeq _) rfl ?_
        exact keeps_refl _ _
      · refine keeps_ite ?_ ?_
        · refine keeps_mk ?_
          refine keeps_step (keeps_freshBool _) rfl ?_
          refine keeps_step (keeps_emit _ _) rfl ?_
          refine keeps_mk ?_
          refine keeps_step (keeps_recSeq _) rfl ?_
          exact keeps_refl _ _
        · refine keeps_mk ?_
          refine keeps_step (keeps_freshBool _) rfl ?_
          refine keeps_step (keeps_emit _ _) rfl ?_
          refine keeps_mk ?_
          refine keeps_step (keeps_recSeq _) rfl ?_
          exact keeps_refl _ _

theorem keeps_execCommissioningRecordWriteDone : ∀ x0 s, ∃ t, @execCommissioningRecordWriteDone x0 s
    = .next t ∧ Keeps [.free, .out, .rve, .boot] s t := by
  intro x0 s
  unfold execCommissioningRecordWriteDone
  refine ⟨_, rfl, ?_⟩
  refine keeps_whenS ?_ fun _ => ?_
  · exact keeps_refl _ _
  · refine keeps_step (keeps_recordWritten _ _) rfl ?_
    exact keeps_refl _ _

theorem keeps_modOtherSlot : ∀ x0 s, Keeps [.boot] s (@modOtherSlot x0 s) := by
  intro x0 s
  unfold modOtherSlot
  refine keeps_ite ?_ ?_
  · refine keeps_mk ?_
    exact keeps_refl _ _
  · refine keeps_mk ?_
    exact keeps_refl _ _

theorem keeps_fwStageBody : BodyKeeps [.free, .out, .dma, .hdg, .boot, .jobs] fwStageBody := by
  refine ⟨fun c s => ?_, fun c st s => ?_⟩
  · unfold fwStageBody
    dsimp only
    refine keeps_step (keeps_askTransfer _ _) rfl ?_
    refine keeps_mk ?_
    exact keeps_refl _ _
  · unfold fwStageBody
    dsimp only
    exact keeps_refl _ _

theorem keeps_execFwStage : ∀ x0 x1 s, ∃ t, @execFwStage x0 x1 s = .next t ∧ Keeps [.free, .out,
    .hif, .dma, .hdg, .rve, .yok, .eth, .mgt, .boot, .running, .nextSer, .maskQ, .jobs] s t := by
  intro x0 x1 s
  unfold execFwStage
  refine ⟨_, rfl, ?_⟩
  refine keeps_runRow rfl rfl keeps_fwStageBody ?_
  exact keeps_refl _ _

theorem keeps_stageImage : ∀ x0 s, Keeps [.boot] s (@stageImage x0 s) := by
  intro x0 s
  unfold stageImage
  refine keeps_mk ?_
  exact keeps_refl _ _

theorem keeps_stageDone : ∀ x0 x1 x2 s, Keeps [.out, .hif, .lpl, .rve, .yok, .eth, .mgt, .boot,
    .running, .maskQ] s (@stageDone x0 x1 x2 s) := by
  intro x0 x1 x2 s
  unfold stageDone
  split
  · exact keeps_refl _ _
  · refine keeps_ite ?_ ?_
    · exact keeps_refl _ _
    · dsimp only
      refine keeps_ite ?_ ?_
      · refine keeps_step (keeps_finish _ _ _ _) rfl ?_
        refine keeps_mk ?_
        exact keeps_refl _ _
      · refine keeps_ite ?_ ?_
        · refine keeps_step (keeps_finishOk _ _) rfl ?_
          refine keeps_step (keeps_emitAll _ _) rfl ?_
          refine keeps_step (keeps_modOtherSlot _ _) rfl ?_
          refine keeps_step (keeps_emitAll _ _) rfl ?_
          refine keeps_step (keeps_modOtherSlot _ _) rfl ?_
          refine keeps_mk ?_
          exact keeps_refl _ _
        · refine keeps_step (keeps_finish _ _ _ _) rfl ?_
          refine keeps_step (keeps_emitAll _ _) rfl ?_
          refine keeps_step (keeps_modOtherSlot _ _) rfl ?_
          refine keeps_mk ?_
          exact keeps_refl _ _

theorem keeps_execFwStageFlashDone : ∀ x0 x1 x2 s, ∃ t, @execFwStageFlashDone x0 x1 x2 s = .next t ∧
    Keeps [.out, .hif, .lpl, .rve, .yok, .eth, .mgt, .boot, .running, .maskQ] s t := by
  intro x0 x1 x2 s
  unfold execFwStageFlashDone
  refine ⟨_, rfl, ?_⟩
  refine keeps_whenS ?_ fun _ => ?_
  · exact keeps_refl _ _
  · refine keeps_step (keeps_stageDone _ _ _ _) rfl ?_
    exact keeps_refl _ _

end Sys2Proof.Laws
end

