-- ==== Sys2Proof/Laws/KeepCores.lean ====
section
/-!
SUPPORT. Which parts of the state the operations of Cores.lean leave alone.
-/

namespace Sys2Proof.Laws

-- Each proof is checked before the next begins: hundreds at once would ask for a thread each.
set_option Elab.async false
set_option linter.all false

open Sys2Proof Sys2Proof.Machine Sys2Proof.Safety

theorem keeps_rerunRails : ∀ s, Keeps [.hif, .lpl, .rail, .rve, .yok, .eth, .mgt, .tst, .running,
    .maskQ] s (@rerunRails s) := by
  intro s
  unfold rerunRails
  dsimp only
  refine keeps_step (keeps_settleRails _) rfl ?_
  refine keeps_step (keeps_seqStart _ _ _) rfl ?_
  refine keeps_mk ?_
  exact keeps_refl _ _

theorem keeps_rerunLanes : ∀ s, Keeps [.out, .lpl, .link, .pxh, .yok] s (@rerunLanes s) := by
  intro s
  unfold rerunLanes
  refine keeps_step (keeps_startLanes _ _) rfl ?_
  refine keeps_foldl ?_ fun _ _ _ => ?_
  · exact keeps_refl _ _
  · refine keeps_ite ?_ ?_
    · refine keeps_step (keeps_enterDetect _ _ _ _) rfl ?_
      assumption
    · assumption

theorem keeps_undoEntry : ∀ s, Keeps [.out, .hif, .lpl, .link, .pxh, .rail, .pwr, .rve, .yok, .eth,
    .mgt, .tst, .running, .maskQ] s (@undoEntry s) := by
  intro s
  unfold undoEntry
  dsimp only
  refine keeps_step (keeps_rerunLanes _) rfl ?_
  refine keeps_step (keeps_rerunRails _) rfl ?_
  refine keeps_mk ?_
  exact keeps_refl _ _

theorem keeps_enterHold : ∀ s, Keeps [.hif, .dma, .pwr, .thm, .rve, .eth, .mgt, .running, .maskQ] s
    (@enterHold s) := by
  intro s
  unfold enterHold
  refine keeps_step (keeps_dmaStopAll _) rfl ?_
  refine keeps_step (keeps_abandonCal _) rfl ?_
  refine keeps_mk ?_
  exact keeps_refl _ _

theorem keeps_execCoreReset : ∀ s, ∃ t, @execCoreReset s = .next t ∧ Keeps [.hif, .dma, .pwr, .thm,
    .rve, .eth, .mgt, .running, .maskQ] s t := by
  intro s
  unfold execCoreReset
  refine ⟨_, rfl, ?_⟩
  refine keeps_whenS ?_ fun _ => ?_
  · exact keeps_refl _ _
  · refine keeps_step (keeps_enterHold _) rfl ?_
    exact keeps_refl _ _

theorem keeps_execLockstepMismatch : ∀ s, ∃ t, @execLockstepMismatch s = .next t ∧ Keeps [.hif,
    .dma, .pwr, .thm, .rve, .eth, .mgt, .running, .maskQ] s t := by
  intro s
  unfold execLockstepMismatch
  refine ⟨_, rfl, ?_⟩
  refine keeps_whenS ?_ fun _ => ?_
  · exact keeps_refl _ _
  · refine keeps_step (keeps_enterHold _) rfl ?_
    refine keeps_step (keeps_raise _ _ _ _) rfl ?_
    exact keeps_refl _ _

theorem keeps_execWatchdogExpiry : ∀ s, ∃ t, @execWatchdogExpiry s = .next t ∧ Keeps [.hif, .dma,
    .pwr, .thm, .rve, .eth, .mgt, .running, .maskQ] s t := by
  intro s
  unfold execWatchdogExpiry
  refine ⟨_, rfl, ?_⟩
  refine keeps_whenS ?_ fun _ => ?_
  · exact keeps_refl _ _
  · refine keeps_step (keeps_enterHold _) rfl ?_
    refine keeps_step (keeps_raise _ _ _ _) rfl ?_
    exact keeps_refl _ _

theorem keeps_kernelStops : ∀ x0 s, Keeps [.cmp] s (@kernelStops x0 s) := by
  intro x0 s
  unfold kernelStops
  split
  · refine keeps_step (keeps_modBank _ _ _ _) rfl ?_
    exact keeps_refl _ _
  · exact keeps_refl _ _

theorem keeps_interrupted : ∀ s x1, Keeps [.hif, .cmp, .rve, .eth, .mgt, .boot, .running, .maskQ] s
    (@interrupted s x1) := by
  intro s x1
  unfold interrupted
  dsimp only
  refine keeps_step (keeps_complete _ _ _ _ _) rfl ?_
  split
  · refine keeps_ite ?_ ?_
    · refine keeps_step (keeps_modSym _ _ _) rfl ?_
      exact keeps_refl _ _
    · exact keeps_refl _ _
  · refine keeps_ite ?_ ?_
    · refine keeps_step (keeps_modOtherSlot _ _) rfl ?_
      refine keeps_mk ?_
      exact keeps_refl _ _
    · refine keeps_mk ?_
      exact keeps_refl _ _
  · refine keeps_ite ?_ ?_
    · refine keeps_step (keeps_kernelStops _ _) rfl ?_
      exact keeps_refl _ _
    · exact keeps_refl _ _
  · exact keeps_refl _ _

theorem keeps_dropUnseen : ∀ s, Keeps [.pho, .lpl, .pxh, .rail, .rve, .yok, .tst, .maskQ, .jobs,
    .kernels, .marchCmd] s (@dropUnseen s) := by
  intro s
  unfold dropUnseen
  dsimp only
  refine keeps_mk ?_
  exact keeps_refl _ _

theorem keeps_endStopped : ∀ s, Keeps [.hif, .cmp, .rve, .eth, .mgt, .boot, .running, .maskQ, .jobs]
    s (@endStopped s) := by
  intro s
  unfold endStopped
  dsimp only
  refine keeps_foldl ?_ fun _ _ _ => ?_
  · refine keeps_mk ?_
    exact keeps_refl _ _
  · refine keeps_step (keeps_interrupted _ _) rfl ?_
    assumption

theorem keeps_deliverLate : ∀ s, Keeps [.mgt] s (@deliverLate s) := by
  intro s
  unfold deliverLate
  split
  · refine keeps_mk ?_
    exact keeps_refl _ _
  · exact keeps_refl _ _

theorem keeps_activated : ∀ x0 s, Keeps [.out, .part, .hif, .rve, .boot] s (@activated x0 s) := by
  intro x0 s
  unfold activated
  dsimp only
  refine keeps_ite ?_ ?_
  · refine keeps_step (keeps_emit _ _) rfl ?_
    refine keeps_mk ?_
    refine keeps_step (keeps_raise _ _ _ _) rfl ?_
    refine keeps_mk ?_
    exact keeps_refl _ _
  · refine keeps_step (keeps_raise _ _ _ _) rfl ?_
    refine keeps_mk ?_
    exact keeps_refl _ _

theorem keeps_returnToService : ∀ s, Keeps [.free, .out, .part, .hif, .grn, .mem, .cmp, .pho, .lpl,
    .link, .pxh, .rail, .pwr, .rve, .yok, .bel, .eth, .mgt, .boot, .tst, .running, .maskQ, .jobs,
    .kernels, .marchCmd] s (@returnToService s) := by
  intro s
  unfold returnToService
  dsimp only
  refine keeps_step (keeps_advanceStart _) rfl ?_
  refine keeps_step (keeps_drainQueue _ _) rfl ?_
  refine keeps_step (keeps_drainQueue _ _) rfl ?_
  refine keeps_foldl ?_ fun _ _ _ => ?_
  · refine keeps_step (keeps_deliverLate _) rfl ?_
    refine keeps_mk ?_
    refine keeps_ite ?_ ?_
    · refine keeps_step (keeps_loseLock _ _ _) rfl ?_
      refine keeps_mk ?_
      refine keeps_step (keeps_dropUnseen _) rfl ?_
      refine keeps_foldl ?_ fun _ _ _ => ?_
      · refine keeps_ite ?_ ?_
        · refine keeps_step (keeps_undoEntry _) rfl ?_
          split
          · refine keeps_step (keeps_activated _ _) rfl ?_
            refine keeps_mk ?_
            exact keeps_refl _ _
          · refine keeps_mk ?_
            exact keeps_refl _ _
        · split
          · refine keeps_step (keeps_activated _ _) rfl ?_
            refine keeps_mk ?_
            exact keeps_refl _ _
          · refine keeps_mk ?_
            exact keeps_refl _ _
      · refine keeps_step (keeps_interrupted _ _) rfl ?_
        assumption
    · refine keeps_step (keeps_dropUnseen _) rfl ?_
      refine keeps_foldl ?_ fun _ _ _ => ?_
      · refine keeps_ite ?_ ?_
        · refine keeps_step (keeps_undoEntry _) rfl ?_
          split
          · refine keeps_step (keeps_activated _ _) rfl ?_
            refine keeps_mk ?_
            exact keeps_refl _ _
          · refine keeps_mk ?_
            exact keeps_refl _ _
        · split
          · refine keeps_step (keeps_activated _ _) rfl ?_
            refine keeps_mk ?_
            exact keeps_refl _ _
          · refine keeps_mk ?_
            exact keeps_refl _ _
      · refine keeps_step (keeps_interrupted _ _) rfl ?_
        assumption
  · refine keeps_step (keeps_requestEntries _ _) rfl ?_
    assumption

theorem keeps_execFirmwareReturnToService : ∀ s, ∃ t, @execFirmwareReturnToService s = .next t ∧
    Keeps [.free, .out, .part, .hif, .grn, .mem, .cmp, .pho, .lpl, .link, .pxh, .rail, .pwr, .rve,
    .yok, .bel, .eth, .mgt, .boot, .tst, .running, .maskQ, .jobs, .kernels, .marchCmd] s t := by
  intro s
  unfold execFirmwareReturnToService
  refine ⟨_, rfl, ?_⟩
  refine keeps_whenS ?_ fun _ => ?_
  · exact keeps_refl _ _
  · refine keeps_step (keeps_returnToService _) rfl ?_
    exact keeps_refl _ _

theorem keeps_restartFailed : ∀ s, Keeps [.free, .out, .pwr, .rve, .boot] s (@restartFailed s) := by
  intro s
  unfold restartFailed
  dsimp only
  refine keeps_ite ?_ ?_
  · refine keeps_step (keeps_raise _ _ _ _) rfl ?_
    refine keeps_mk ?_
    refine keeps_ite ?_ ?_
    · refine keeps_step (keeps_bootEvent _ _ _ _) rfl ?_
      refine keeps_step (keeps_emit _ _) rfl ?_
      refine keeps_step (keeps_modOtherSlot _ _) rfl ?_
      refine keeps_mk ?_
      exact keeps_refl _ _
    · refine keeps_mk ?_
      exact keeps_refl _ _
  · refine keeps_ite ?_ ?_
    · refine keeps_step (keeps_bootEvent _ _ _ _) rfl ?_
      refine keeps_step (keeps_emit _ _) rfl ?_
      refine keeps_step (keeps_modOtherSlot _ _) rfl ?_
      refine keeps_mk ?_
      exact keeps_refl _ _
    · refine keeps_mk ?_
      exact keeps_refl _ _

theorem keeps_execFirmwareRestartTimeout : ∀ s, ∃ t, @execFirmwareRestartTimeout s = .next t ∧ Keeps
    [.free, .out, .pwr, .rve, .boot] s t := by
  intro s
  unfold execFirmwareRestartTimeout
  refine ⟨_, rfl, ?_⟩
  refine keeps_whenS ?_ fun _ => ?_
  · exact keeps_refl _ _
  · refine keeps_step (keeps_restartFailed _) rfl ?_
    exact keeps_refl _ _

theorem keeps_fwActivateBody : BodyKeeps [.hif, .dma, .lpl, .pwr, .thm, .rve, .yok, .eth, .mgt,
    .running, .maskQ] fwActivateBody := by
  refine ⟨fun c s => ?_, fun c st s => ?_⟩
  · unfold fwActivateBody
    dsimp only
    refine keeps_step (keeps_enterHold _) rfl ?_
    refine keeps_mk ?_
    refine keeps_step (keeps_finishOk _ _) rfl ?_
    exact keeps_refl _ _
  · unfold fwActivateBody
    dsimp only
    exact keeps_refl _ _

theorem keeps_execFwActivate : ∀ x0 x1 s, ∃ t, @execFwActivate x0 x1 s = .next t ∧ Keeps [.hif,
    .dma, .lpl, .pwr, .thm, .rve, .yok, .eth, .mgt, .running, .nextSer, .maskQ] s t := by
  intro x0 x1 s
  unfold execFwActivate
  refine ⟨_, rfl, ?_⟩
  refine keeps_runRow rfl rfl keeps_fwActivateBody ?_
  exact keeps_refl _ _

end Sys2Proof.Laws
end

