-- ==== Sys2Proof/Laws/KeepPower.lean ====
section
/-!
SUPPORT. Which parts of the state the operations of Power.lean leave alone.
-/

namespace Sys2Proof.Laws

-- Each proof is checked before the next begins: hundreds at once would ask for a thread each.
set_option Elab.async false
set_option linter.all false

open Sys2Proof Sys2Proof.Machine Sys2Proof.Safety

theorem keeps_askDim : ∀ x0 s, Keeps [.lpl, .pwr, .yok] s (@askDim x0 s) := by
  intro x0 s
  unfold askDim
  dsimp only
  refine keeps_mk ?_
  refine keeps_step (keeps_issueCommit _) rfl ?_
  refine keeps_step (keeps_shadowAll _ _) rfl ?_
  refine keeps_mk ?_
  exact keeps_refl _ _

theorem keeps_lowRegs : ∀ x0 s, Keeps [.pwr] s (@lowRegs x0 s) := by
  intro x0 s
  unfold lowRegs
  dsimp only
  refine keeps_ite ?_ ?_
  · refine keeps_mk ?_
    exact keeps_refl _ _
  · refine keeps_ite ?_ ?_
    · refine keeps_mk ?_
      exact keeps_refl _ _
    · refine keeps_mk ?_
      exact keeps_refl _ _

theorem keeps_entryCpl : ∀ x0 x1 s, Keeps [.out, .hif, .rve, .eth, .mgt, .running, .maskQ] s
    (@entryCpl x0 x1 s) := by
  intro x0 x1 s
  unfold entryCpl
  dsimp only
  split
  · refine keeps_ite ?_ ?_
    · refine keeps_step (keeps_complete _ _ _ _ _) rfl ?_
      exact keeps_refl _ _
    · refine keeps_step (keeps_putCpl _ _ _) rfl ?_
      refine keeps_step (keeps_complete _ _ _ _ _) rfl ?_
      exact keeps_refl _ _
  · refine keeps_step (keeps_complete _ _ _ _ _) rfl ?_
    exact keeps_refl _ _

theorem keeps_engineStop : ∀ s, Keeps [.free, .hif, .dma, .grn, .mem, .cmp, .lpl, .link, .pwr, .rve,
    .yok, .eth, .mgt, .boot, .tst, .running, .maskQ, .jobs] s (@engineStop s) := by
  intro s
  unfold engineStop
  split
  · refine keeps_ite ?_ ?_
    · exact keeps_refl _ _
    · dsimp only
      refine keeps_step (keeps_dmaStopAll _) rfl ?_
      refine keeps_step (keeps_linkLost _) rfl ?_
      refine keeps_step (keeps_lanesOff _) rfl ?_
      refine keeps_mk ?_
      exact keeps_refl _ _
  · exact keeps_refl _ _

theorem keeps_commitNow : ∀ s, Keeps [.free, .out, .hif, .grn, .mem, .pwr, .rve, .yok, .eth, .mgt,
    .running, .maskQ, .saved] s (@commitNow s) := by
  intro s
  unfold commitNow
  split
  · refine keeps_ite ?_ ?_
    · exact keeps_refl _ _
    · dsimp only
      refine keeps_step (keeps_entryCpl _ _ _) rfl ?_
      refine keeps_mk ?_
      refine keeps_ite ?_ ?_
      · refine keeps_step (keeps_scramble _ _ _) rfl ?_
        refine keeps_mk ?_
        exact keeps_refl _ _
      · refine keeps_mk ?_
        exact keeps_refl _ _
  · exact keeps_refl _ _

theorem keeps_commitLow : ∀ s, Keeps [.free, .out, .hif, .dma, .grn, .mem, .cmp, .lpl, .link, .pwr,
    .rve, .yok, .eth, .mgt, .boot, .tst, .running, .maskQ, .jobs, .saved] s (@commitLow s) := by
  intro s
  unfold commitLow
  refine keeps_step (keeps_commitNow _) rfl ?_
  refine keeps_step (keeps_engineStop _) rfl ?_
  exact keeps_refl _ _

theorem keeps_abandonEntry : ∀ x0 s, Keeps [.out, .hif, .cmp, .lpl, .link, .pxh, .rail, .pwr, .rve,
    .yok, .eth, .mgt, .boot, .tst, .running, .maskQ, .jobs] s (@abandonEntry x0 s) := by
  intro x0 s
  unfold abandonEntry
  dsimp only
  refine keeps_ite ?_ ?_
  · refine keeps_step (keeps_entryCpl _ _ _) rfl ?_
    refine keeps_step (keeps_endStopped _) rfl ?_
    refine keeps_step (keeps_undoEntry _) rfl ?_
    refine keeps_mk ?_
    exact keeps_refl _ _
  · refine keeps_step (keeps_undoEntry _) rfl ?_
    refine keeps_mk ?_
    exact keeps_refl _ _

theorem keeps_raiseWake : ∀ s, Keeps [.grn, .pwr, .rve] s (@raiseWake s) := by
  intro s
  unfold raiseWake
  split
  · exact keeps_refl _ _
  · refine keeps_ite ?_ ?_
    · exact keeps_refl _ _
    · dsimp only
      refine keeps_ite ?_ ?_
      · refine keeps_step (keeps_raise _ _ _ _) rfl ?_
        refine keeps_mk ?_
        refine keeps_ite ?_ ?_
        · refine keeps_step (keeps_raise _ _ _ _) rfl ?_
          refine keeps_mk ?_
          refine keeps_foldl ?_ fun _ _ _ => ?_
          · refine keeps_mk ?_
            exact keeps_refl _ _
          · refine keeps_step (keeps_raise _ _ _ _) rfl ?_
            assumption
        · refine keeps_foldl ?_ fun _ _ _ => ?_
          · refine keeps_mk ?_
            exact keeps_refl _ _
          · refine keeps_step (keeps_raise _ _ _ _) rfl ?_
            assumption
      · refine keeps_ite ?_ ?_
        · refine keeps_step (keeps_raise _ _ _ _) rfl ?_
          refine keeps_mk ?_
          refine keeps_foldl ?_ fun _ _ _ => ?_
          · refine keeps_mk ?_
            exact keeps_refl _ _
          · refine keeps_step (keeps_raise _ _ _ _) rfl ?_
            assumption
        · refine keeps_foldl ?_ fun _ _ _ => ?_
          · refine keeps_mk ?_
            exact keeps_refl _ _
          · refine keeps_step (keeps_raise _ _ _ _) rfl ?_
            assumption

theorem keeps_wakeIo : ∀ x0 s, Keeps [.free, .pwr] s (@wakeIo x0 s) := by
  intro x0 s
  unfold wakeIo
  dsimp only
  refine keeps_ite ?_ ?_
  · refine keeps_step (keeps_riseIo _ _) rfl ?_
    exact keeps_refl _ _
  · exact keeps_refl _ _

theorem keeps_coreGood : ∀ s, Keeps [.free, .out, .grn, .pwr, .rve, .bel] s (@coreGood s) := by
  intro s
  unfold coreGood
  split
  · refine keeps_ite ?_ ?_
    · exact keeps_refl _ _
    · refine keeps_step (keeps_raiseWake _) rfl ?_
      refine keeps_step (keeps_coreOut _) rfl ?_
      refine keeps_step (keeps_wakeIo _ _) rfl ?_
      refine keeps_mk ?_
      exact keeps_refl _ _
  · exact keeps_refl _ _

theorem keeps_beginWake : ∀ s, Keeps [.free, .out, .grn, .pwr, .rve, .bel, .saved] s (@beginWake s)
    := by
  intro s
  unfold beginWake
  dsimp only
  refine keeps_whenS ?_ fun _ => ?_
  · refine keeps_mk ?_
    refine keeps_step (keeps_beginStart _ _) rfl ?_
    refine keeps_ite ?_ ?_
    · exact keeps_refl _ _
    · refine keeps_mk ?_
      exact keeps_refl _ _
  · refine keeps_step (keeps_coreGood _) rfl ?_
    assumption

theorem keeps_fireWake : ∀ x0 s, Keeps [.free, .out, .hif, .grn, .cmp, .lpl, .link, .pxh, .rail,
    .pwr, .rve, .yok, .bel, .eth, .mgt, .boot, .tst, .running, .maskQ, .jobs, .saved] s (@fireWake
    x0 s) := by
  intro x0 s
  unfold fireWake
  dsimp only
  refine keeps_ite ?_ ?_
  · exact keeps_refl _ _
  · split
    · refine keeps_ite ?_ ?_
      · refine keeps_ite ?_ ?_
        · refine keeps_mk ?_
          exact keeps_refl _ _
        · refine keeps_step (keeps_abandonEntry _ _) rfl ?_
          refine keeps_mk ?_
          exact keeps_refl _ _
      · exact keeps_refl _ _
    · refine keeps_ite ?_ ?_
      · refine keeps_mk ?_
        exact keeps_refl _ _
      · refine keeps_ite ?_ ?_
        · refine keeps_step (keeps_beginWake _) rfl ?_
          refine keeps_mk ?_
          exact keeps_refl _ _
        · exact keeps_refl _ _

theorem keeps_enterLow : ∀ x0 s, Keeps [.free, .out, .hif, .grn, .cmp, .lpl, .link, .pxh, .rail,
    .pwr, .thm, .rve, .yok, .bel, .eth, .mgt, .boot, .tst, .running, .maskQ, .jobs, .saved] s
    (@enterLow x0 s) := by
  intro x0 s
  unfold enterLow
  dsimp only
  refine keeps_whenS ?_ fun _ => ?_
  · refine keeps_mk ?_
    refine keeps_step (keeps_abandonCal _) rfl ?_
    refine keeps_step (keeps_lowRegs _ _) rfl ?_
    exact keeps_refl _ _
  · refine keeps_step (keeps_fireWake _ _) rfl ?_
    assumption

theorem keeps_powerBody : BodyKeeps [.free, .out, .hif, .grn, .cmp, .lpl, .link, .pxh, .rail, .pwr,
    .thm, .rve, .yok, .bel, .eth, .mgt, .boot, .tst, .running, .maskQ, .jobs, .saved] powerBody :=
    by
  refine ⟨fun c s => ?_, fun c st s => ?_⟩
  · unfold powerBody
    dsimp only
    refine keeps_ite ?_ ?_
    · refine keeps_step (keeps_askDim _ _) rfl ?_
      exact keeps_refl _ _
    · refine keeps_step (keeps_enterLow _ _) rfl ?_
      exact keeps_refl _ _
  · unfold powerBody
    dsimp only
    exact keeps_refl _ _

theorem keeps_execPowerRequest : ∀ x0 x1 s, ∃ t, @execPowerRequest x0 x1 s = .next t ∧ Keeps [.free,
    .out, .hif, .grn, .cmp, .lpl, .link, .pxh, .rail, .pwr, .thm, .rve, .yok, .bel, .eth, .mgt,
    .boot, .tst, .running, .nextSer, .maskQ, .jobs, .saved] s t := by
  intro x0 x1 s
  unfold execPowerRequest
  refine ⟨_, rfl, ?_⟩
  refine keeps_runRow rfl rfl keeps_powerBody ?_
  exact keeps_refl _ _

theorem keeps_powerDown : ∀ x0 s, Keeps [.free, .out, .hif, .dma, .grn, .mem, .cmp, .pho, .hdg,
    .lpl, .link, .pxh, .rail, .pwr, .thm, .rve, .yok, .bel, .eth, .mgt, .boot, .aux, .crcu, .gpio,
    .tst, .running, .maskQ, .jobs, .kernels, .marchCmd, .saved] s (@powerDown x0 s) := by
  intro x0 s
  unfold powerDown
  dsimp only
  refine keeps_ite ?_ ?_
  · refine keeps_step (keeps_beginWake _) rfl ?_
    refine keeps_mk ?_
    refine keeps_step (keeps_domainsReset _ _) rfl ?_
    refine keeps_ite ?_ ?_
    · refine keeps_step (keeps_measureTrim _) rfl ?_
      exact keeps_refl _ _
    · exact keeps_refl _ _
  · refine keeps_mk ?_
    refine keeps_step (keeps_domainsReset _ _) rfl ?_
    refine keeps_ite ?_ ?_
    · refine keeps_step (keeps_measureTrim _) rfl ?_
      exact keeps_refl _ _
    · exact keeps_refl _ _

theorem keeps_execLowPowerPowerdown : ∀ s, ∃ t, @execLowPowerPowerdown s = .next t ∧ Keeps [.free,
    .out, .hif, .dma, .grn, .mem, .cmp, .pho, .hdg, .lpl, .link, .pxh, .rail, .pwr, .thm, .rve,
    .yok, .bel, .eth, .mgt, .boot, .aux, .crcu, .gpio, .tst, .running, .maskQ, .jobs, .kernels,
    .marchCmd, .saved] s t := by
  intro s
  unfold execLowPowerPowerdown
  dsimp only
  refine ⟨_, rfl, ?_⟩
  split
  · refine keeps_ite ?_ ?_
    · refine keeps_step (keeps_powerDown _ _) rfl ?_
      refine keeps_step (keeps_commitLow _) rfl ?_
      exact keeps_refl _ _
    · refine keeps_step (keeps_commitLow _) rfl ?_
      exact keeps_refl _ _
  · refine keeps_step (keeps_commitLow _) rfl ?_
    exact keeps_refl _ _

theorem keeps_execWakePinEvent : ∀ x0 s, ∃ t, @execWakePinEvent x0 s = .next t ∧ Keeps [.free, .out,
    .hif, .grn, .cmp, .lpl, .link, .pxh, .rail, .pwr, .rve, .yok, .bel, .eth, .mgt, .boot, .tst,
    .running, .maskQ, .jobs, .saved] s t := by
  intro x0 s
  unfold execWakePinEvent
  refine ⟨_, rfl, ?_⟩
  refine keeps_whenS ?_ fun _ => ?_
  · refine keeps_mk ?_
    exact keeps_refl _ _
  · refine keeps_step (keeps_fireWake _ _) rfl ?_
    assumption

theorem keeps_execWakeSafeInEvent : ∀ s, ∃ t, @execWakeSafeInEvent s = .next t ∧ Keeps [.free, .out,
    .hif, .grn, .cmp, .lpl, .link, .pxh, .rail, .pwr, .rve, .yok, .bel, .eth, .mgt, .boot, .tst,
    .running, .maskQ, .jobs, .saved] s t := by
  intro s
  unfold execWakeSafeInEvent
  refine ⟨_, rfl, ?_⟩
  refine keeps_step (keeps_fireWake _ _) rfl ?_
  exact keeps_refl _ _

theorem keeps_execWakePcieSquelch : ∀ s, ∃ t, @execWakePcieSquelch s = .next t ∧ Keeps [.free, .out,
    .hif, .grn, .cmp, .lpl, .link, .pxh, .rail, .pwr, .rve, .yok, .bel, .eth, .mgt, .boot, .tst,
    .running, .maskQ, .jobs, .saved] s t := by
  intro s
  unfold execWakePcieSquelch
  refine ⟨_, rfl, ?_⟩
  refine keeps_step (keeps_fireWake _ _) rfl ?_
  exact keeps_refl _ _

theorem keeps_nightVisit : ∀ x0 x1 s, Keeps [.free, .out, .hif, .grn, .cmp, .lpl, .link, .pxh,
    .rail, .pwr, .rve, .yok, .bel, .eth, .mgt, .boot, .tst, .running, .maskQ, .jobs, .saved] s
    (@nightVisit x0 x1 s) := by
  intro x0 x1 s
  unfold nightVisit
  dsimp only
  refine keeps_ite ?_ ?_
  · refine keeps_step (keeps_fireWake _ _) rfl ?_
    refine keeps_mk ?_
    exact keeps_refl _ _
  · refine keeps_mk ?_
    exact keeps_refl _ _

theorem keeps_execNightwatchVisit : ∀ x0 x1 x2 s, ∃ t, @execNightwatchVisit x0 x1 x2 s = .next t ∧
    Keeps [.free, .out, .hif, .grn, .cmp, .lpl, .link, .pxh, .rail, .pwr, .rve, .yok, .bel, .eth,
    .mgt, .boot, .tst, .running, .maskQ, .jobs, .saved] s t := by
  intro x0 x1 x2 s
  unfold execNightwatchVisit
  refine ⟨_, rfl, ?_⟩
  refine keeps_whenS ?_ fun _ => ?_
  · exact keeps_refl _ _
  · refine keeps_step (keeps_nightVisit _ _ _) rfl ?_
    exact keeps_refl _ _

theorem keeps_execPgCoreRise : ∀ s, ∃ t, @execPgCoreRise s = .next t ∧ Keeps [.free, .out, .grn,
    .pwr, .rve, .bel] s t := by
  intro s
  unfold execPgCoreRise
  refine ⟨_, rfl, ?_⟩
  refine keeps_step (keeps_coreGood _) rfl ?_
  refine keeps_step (keeps_phaseB _) rfl ?_
  exact keeps_refl _ _

theorem keeps_execPgSramRise : ∀ s, ∃ t, @execPgSramRise s = .next t ∧ Keeps [.out, .pwr] s t := by
  intro s
  unfold execPgSramRise
  dsimp only
  refine ⟨_, rfl, ?_⟩
  split
  · refine keeps_ite ?_ ?_
    · refine keeps_step (keeps_phaseB _) rfl ?_
      exact keeps_refl _ _
    · refine keeps_ite ?_ ?_
      · refine keeps_step (keeps_emitAll _ _) rfl ?_
        refine keeps_mk ?_
        refine keeps_step (keeps_phaseB _) rfl ?_
        exact keeps_refl _ _
      · refine keeps_mk ?_
        refine keeps_step (keeps_phaseB _) rfl ?_
        exact keeps_refl _ _
  · refine keeps_step (keeps_phaseB _) rfl ?_
    exact keeps_refl _ _

theorem keeps_execAnalogueDomainReady : ∀ s, ∃ t, @execAnalogueDomainReady s = .next t ∧ Keeps
    [.hif, .lpl, .rail, .pwr, .rve, .yok, .eth, .mgt, .tst, .running, .maskQ] s t := by
  intro s
  unfold execAnalogueDomainReady
  refine ⟨_, rfl, ?_⟩
  refine keeps_whenS ?_ fun _ => ?_
  · exact keeps_refl _ _
  · dsimp only
    refine keeps_ite ?_ ?_
    · refine keeps_step (keeps_restartRails _) rfl ?_
      refine keeps_mk ?_
      refine keeps_step (keeps_phaseB _) rfl ?_
      exact keeps_refl _ _
    · refine keeps_mk ?_
      refine keeps_step (keeps_phaseB _) rfl ?_
      exact keeps_refl _ _

theorem keeps_pllLocks : ∀ x0 s, Keeps [.free, .out, .lpl, .link, .pxh, .pwr, .yok, .bel] s
    (@pllLocks x0 s) := by
  intro x0 s
  unfold pllLocks
  split
  · refine keeps_mk ?_
    exact keeps_refl _ _
  · dsimp only
    split
    · refine keeps_ite ?_ ?_
      · refine keeps_step (keeps_startLanes _ _) rfl ?_
        refine keeps_mk ?_
        exact keeps_refl _ _
      · refine keeps_ite ?_ ?_
        · refine keeps_step (keeps_startLanes _ _) rfl ?_
          refine keeps_mk ?_
          exact keeps_refl _ _
        · refine keeps_mk ?_
          exact keeps_refl _ _
    · refine keeps_step (keeps_startLanes _ _) rfl ?_
      refine keeps_mk ?_
      exact keeps_refl _ _
  · dsimp only
    refine keeps_step (keeps_measureTrim _) rfl ?_
    refine keeps_ite ?_ ?_
    · refine keeps_mk ?_
      exact keeps_refl _ _
    · refine keeps_mk ?_
      exact keeps_refl _ _

theorem keeps_execPllLock : ∀ x0 s, ∃ t, @execPllLock x0 s = .next t ∧ Keeps [.free, .out, .lpl,
    .link, .pxh, .pwr, .yok, .bel] s t := by
  intro x0 s
  unfold execPllLock
  dsimp only
  refine ⟨_, rfl, ?_⟩
  refine keeps_whenS ?_ fun _ => ?_
  · exact keeps_refl _ _
  · refine keeps_step (keeps_pllLocks _ _) rfl ?_
    exact keeps_refl _ _

theorem keeps_execXtal32Switch : ∀ s, ∃ t, @execXtal32Switch s = .next t ∧ Keeps [.pwr] s t := by
  intro s
  unfold execXtal32Switch
  refine ⟨_, rfl, ?_⟩
  refine keeps_whenS ?_ fun _ => ?_
  · exact keeps_refl _ _
  · refine keeps_mk ?_
    exact keeps_refl _ _

theorem keeps_execXtal32Loss : ∀ s, ∃ t, @execXtal32Loss s = .next t ∧ Keeps [.pwr] s t := by
  intro s
  unfold execXtal32Loss
  refine ⟨_, rfl, ?_⟩
  refine keeps_whenS ?_ fun _ => ?_
  · exact keeps_refl _ _
  · refine keeps_mk ?_
    exact keeps_refl _ _

theorem keeps_allDown : ∀ s, Keeps [.hif, .dma, .grn, .cmp, .pho, .hdg, .lpl, .link, .pxh, .rail,
    .pwr, .thm, .rve, .yok, .bel, .eth, .mgt, .boot, .aux, .crcu, .gpio, .tst, .running, .maskQ,
    .jobs, .kernels, .marchCmd] s (@allDown s) := by
  intro s
  unfold allDown
  dsimp only
  refine keeps_mk ?_
  refine keeps_step (keeps_domainsReset _ _) rfl ?_
  exact keeps_refl _ _

theorem keeps_wakeTimeout : ∀ x0 x1 s, Keeps [.hif, .dma, .grn, .mem, .cmp, .pho, .hdg, .lpl, .link,
    .pxh, .rail, .pwr, .thm, .rve, .yok, .bel, .eth, .mgt, .boot, .aux, .crcu, .gpio, .tst,
    .running, .maskQ, .jobs, .kernels, .marchCmd, .saved] s (@wakeTimeout x0 x1 s) := by
  intro x0 x1 s
  unfold wakeTimeout
  dsimp only
  refine keeps_ite ?_ ?_
  · refine keeps_mk ?_
    refine keeps_step (keeps_allDown _) rfl ?_
    exact keeps_refl _ _
  · refine keeps_mk ?_
    refine keeps_step (keeps_allDown _) rfl ?_
    exact keeps_refl _ _

theorem keeps_execWakeStepTimeout : ∀ x0 s, ∃ t, @execWakeStepTimeout x0 s = .next t ∧ Keeps [.hif,
    .dma, .grn, .mem, .cmp, .pho, .hdg, .lpl, .link, .pxh, .rail, .pwr, .thm, .rve, .yok, .bel,
    .eth, .mgt, .boot, .aux, .crcu, .gpio, .tst, .running, .maskQ, .jobs, .kernels, .marchCmd,
    .saved] s t := by
  intro x0 s
  unfold execWakeStepTimeout
  refine ⟨_, rfl, ?_⟩
  split
  · refine keeps_ite ?_ ?_
    · exact keeps_refl _ _
    · refine keeps_step (keeps_wakeTimeout _ _ _) rfl ?_
      exact keeps_refl _ _
  · exact keeps_refl _ _

theorem keeps_execWakeRetry : ∀ s, ∃ t, @execWakeRetry s = .next t ∧ Keeps [.free, .out, .grn, .pwr,
    .rve, .bel, .saved] s t := by
  intro s
  unfold execWakeRetry
  refine ⟨_, rfl, ?_⟩
  split
  · refine keeps_ite ?_ ?_
    · exact keeps_refl _ _
    · dsimp only
      refine keeps_mk ?_
      refine keeps_ite ?_ ?_
      · refine keeps_step (keeps_beginWake _) rfl ?_
        refine keeps_mk ?_
        exact keeps_refl _ _
      · refine keeps_step (keeps_beginStart _ _) rfl ?_
        exact keeps_refl _ _
  · exact keeps_refl _ _

theorem keeps_restoreImage : ∀ x0 s, Keeps [.hif, .auth, .grn, .cmp, .pho, .lpl, .pxh, .pwr, .thm,
    .rve, .yok, .eth, .boot, .aux, .crcu, .gpio, .tst, .saved] s (@restoreImage x0 s) := by
  intro x0 s
  unfold restoreImage
  refine keeps_mk ?_
  exact keeps_refl _ _

theorem keeps_imageFails : ∀ s, Keeps [.out, .grn, .link, .pwr, .rve, .yok, .saved] s (@imageFails
    s) := by
  intro s
  unfold imageFails
  dsimp only
  refine keeps_step (keeps_emitAll _ _) rfl ?_
  refine keeps_step (keeps_lanesOff _) rfl ?_
  refine keeps_step (keeps_raise _ _ _ _) rfl ?_
  refine keeps_mk ?_
  exact keeps_refl _ _

theorem keeps_readImage : ∀ x0 s, Keeps [.free, .grn, .rve] s (@readImage x0 s).2 := by
  intro x0 s
  unfold readImage
  dsimp only
  refine keeps_step (keeps_readMarked _ _ _ _) rfl ?_
  exact keeps_refl _ _

theorem keeps_execWakeImageRestore : ∀ x0 s, ∃ t, @execWakeImageRestore x0 s = .next t ∧ Keeps
    [.free, .out, .hif, .auth, .dma, .grn, .cmp, .pho, .hdg, .lpl, .link, .pxh, .rail, .pwr, .thm,
    .rve, .yok, .bel, .eth, .mgt, .boot, .aux, .crcu, .gpio, .tst, .running, .maskQ, .jobs,
    .kernels, .marchCmd, .saved] s t := by
  intro x0 s
  unfold execWakeImageRestore
  dsimp only
  refine ⟨_, rfl, ?_⟩
  refine keeps_whenS ?_ fun _ => ?_
  · exact keeps_refl _ _
  · split
    · refine keeps_ite ?_ ?_
      · refine keeps_step (keeps_wakeSucceeds _) rfl ?_
        refine keeps_step (keeps_restoreImage _ _) rfl ?_
        refine keeps_step (keeps_readImage _ _) rfl ?_
        exact keeps_refl _ _
      · refine keeps_step (keeps_imageFails _) rfl ?_
        refine keeps_step (keeps_readImage _ _) rfl ?_
        exact keeps_refl _ _
    · refine keeps_step (keeps_imageFails _) rfl ?_
      refine keeps_step (keeps_readImage _ _) rfl ?_
      exact keeps_refl _ _

theorem keeps_execWakeL0Placement : ∀ s, ∃ t, @execWakeL0Placement s = .next t ∧ Keeps [.free, .out,
    .hif, .dma, .cmp, .pho, .hdg, .lpl, .link, .pxh, .rail, .pwr, .thm, .rve, .yok, .eth, .mgt,
    .boot, .aux, .tst, .running, .maskQ] s t := by
  intro s
  unfold execWakeL0Placement
  refine ⟨_, rfl, ?_⟩
  split
  · refine keeps_ite ?_ ?_
    · refine keeps_step (keeps_latch _ _ _) rfl ?_
      refine keeps_mk ?_
      exact keeps_refl _ _
    · exact keeps_refl _ _
  · exact keeps_refl _ _

theorem keeps_alarmFires : ∀ x0 s, Keeps [.free, .out, .hif, .grn, .cmp, .lpl, .link, .pxh, .rail,
    .pwr, .rve, .yok, .bel, .eth, .mgt, .boot, .tst, .running, .maskQ, .jobs, .saved] s (@alarmFires
    x0 s) := by
  intro x0 s
  unfold alarmFires
  dsimp only
  refine keeps_step (keeps_fireWake _ _) rfl ?_
  refine keeps_step (keeps_belSignal _ _) rfl ?_
  refine keeps_mk ?_
  exact keeps_refl _ _

theorem keeps_execAlarmFire : ∀ x0 s, ∃ t, @execAlarmFire x0 s = .next t ∧ Keeps [.free, .out, .hif,
    .grn, .cmp, .lpl, .link, .pxh, .rail, .pwr, .rve, .yok, .bel, .eth, .mgt, .boot, .tst, .running,
    .maskQ, .jobs, .saved] s t := by
  intro x0 s
  unfold execAlarmFire
  dsimp only
  refine ⟨_, rfl, ?_⟩
  refine keeps_whenS ?_ fun _ => ?_
  · exact keeps_refl _ _
  · refine keeps_step (keeps_alarmFires _ _) rfl ?_
    exact keeps_refl _ _

end Sys2Proof.Laws
end

