-- ==== Sys2Proof/Laws/KeepManagement.lean ====
section
/-!
SUPPORT. Which parts of the state the operations of Management.lean leave alone.
-/

namespace Sys2Proof.Laws

-- Each proof is checked before the next begins: hundreds at once would ask for a thread each.
set_option Elab.async false
set_option linter.all false

open Sys2Proof Sys2Proof.Machine Sys2Proof.Safety

theorem keeps_i2cReadByte : ∀ x0 s, Keeps [.mgt] s (@i2cReadByte x0 s).2 := by
  intro x0 s
  unfold i2cReadByte
  split
  · dsimp only
    exact keeps_refl _ _
  · split
    · dsimp only
      refine keeps_ite ?_ ?_
      · refine keeps_mk ?_
        exact keeps_refl _ _
      · exact keeps_refl _ _
    · dsimp only
      exact keeps_refl _ _

theorem keeps_i2cRead : ∀ x0 x1 s, Keeps [.mgt] s (@i2cRead x0 x1 s).2 := by
  intro x0 x1 s
  induction x0 generalizing x1 s with
  | zero =>
    exact keeps_refl _ _
  | succ _ ih =>
    rw [i2cRead]
    refine keeps_step (ih _ _) rfl ?_
    dsimp only
    refine keeps_mk ?_
    refine keeps_step (keeps_i2cReadByte _ _) rfl ?_
    exact keeps_refl _ _

theorem keeps_i2cError : ∀ x0 s, Keeps [.rve, .mgt] s (@i2cError x0 s) := by
  intro x0 s
  unfold i2cError
  refine keeps_step (keeps_raise _ _ _ _) rfl ?_
  refine keeps_mk ?_
  exact keeps_refl _ _

theorem keeps_ringDoorbell : ∀ s, Keeps [.rve, .mgt] s (@ringDoorbell s) := by
  intro s
  unfold ringDoorbell
  refine keeps_ite ?_ ?_
  · refine keeps_step (keeps_i2cError _ _) rfl ?_
    exact keeps_refl _ _
  · refine keeps_mk ?_
    exact keeps_refl _ _

theorem keeps_i2cServe : ∀ x0 s, Keeps [.out, .rve, .mgt] s (@i2cServe x0 s) := by
  intro x0 s
  unfold i2cServe
  split
  · refine keeps_step (keeps_i2cError _ _) rfl ?_
    exact keeps_refl _ _
  · dsimp only
    refine keeps_step (keeps_emit _ _) rfl ?_
    refine keeps_foldl2 ?_ fun _ _ _ => ?_
    · dsimp only
      refine keeps_mk ?_
      exact keeps_refl _ _
    · unfold i2cWriteByte
      dsimp only
      split
      · split
        · dsimp only
          refine keeps_mk ?_
          refine keeps_step (keeps_i2cError _ _) rfl ?_
          assumption
        · split
          · dsimp only
            refine keeps_mk ?_
            refine keeps_ite ?_ ?_
            · refine keeps_step (keeps_ringDoorbell _) rfl ?_
              assumption
            · assumption
          · dsimp only
            refine keeps_mk ?_
            assumption
      · dsimp only
        refine keeps_mk ?_
        assumption
  · dsimp only
    refine keeps_step (keeps_emit _ _) rfl ?_
    refine keeps_step (keeps_i2cRead _ _ _) rfl ?_
    exact keeps_refl _ _

theorem keeps_execI2cTransaction : ∀ x0 s, ∃ t, @execI2cTransaction x0 s = .next t ∧ Keeps [.free,
    .out, .hif, .grn, .cmp, .lpl, .link, .pxh, .rail, .pwr, .rve, .yok, .bel, .eth, .mgt, .boot,
    .tst, .running, .maskQ, .jobs, .saved] s t := by
  intro x0 s
  unfold execI2cTransaction
  refine ⟨_, rfl, ?_⟩
  refine keeps_whenS ?_ fun _ => ?_
  · exact keeps_refl _ _
  · dsimp only
    refine keeps_ite ?_ ?_
    · refine keeps_step (keeps_fireWake _ _) rfl ?_
      refine keeps_step (keeps_i2cServe _ _) rfl ?_
      exact keeps_refl _ _
    · refine keeps_step (keeps_i2cServe _ _) rfl ?_
      exact keeps_refl _ _

theorem keeps_i2cLowRead : ∀ x0 x1 x2 s, Keeps [.mgt] s (@i2cLowRead x0 x1 x2 s).2 := by
  intro x0 x1 x2 s
  induction x0 generalizing x1 x2 s with
  | zero =>
    exact keeps_refl _ _
  | succ _ ih =>
    rw [i2cLowRead]
    refine keeps_step (ih _ _ _) rfl ?_
    dsimp only
    refine keeps_mk ?_
    refine keeps_step (keeps_i2cReadByte _ _) rfl ?_
    exact keeps_refl _ _

theorem keeps_i2cLow : ∀ x0 s, Keeps [.free, .out, .hif, .grn, .cmp, .lpl, .link, .pxh, .rail, .pwr,
    .rve, .yok, .bel, .eth, .mgt, .boot, .tst, .running, .maskQ, .jobs, .saved] s (@i2cLow x0 s) :=
    by
  intro x0 s
  unfold i2cLow
  split
  · exact keeps_refl _ _
  · split
    · dsimp only
      refine keeps_ite ?_ ?_
      · refine keeps_step (keeps_emit _ _) rfl ?_
        refine keeps_mk ?_
        exact keeps_refl _ _
      · refine keeps_step (keeps_fireWake _ _) rfl ?_
        refine keeps_step (keeps_emit _ _) rfl ?_
        refine keeps_mk ?_
        exact keeps_refl _ _
    · refine keeps_step (keeps_fireWake _ _) rfl ?_
      refine keeps_step (keeps_emit _ _) rfl ?_
      exact keeps_refl _ _
  · split
    · dsimp only
      refine keeps_step (keeps_emit _ _) rfl ?_
      refine keeps_step (keeps_i2cLowRead _ _ _ _) rfl ?_
      exact keeps_refl _ _
    · refine keeps_step (keeps_fireWake _ _) rfl ?_
      refine keeps_step (keeps_emit _ _) rfl ?_
      exact keeps_refl _ _

theorem keeps_execI2cLowPowerTransaction : ∀ x0 s, ∃ t, @execI2cLowPowerTransaction x0 s = .next t ∧
    Keeps [.free, .out, .hif, .grn, .cmp, .lpl, .link, .pxh, .rail, .pwr, .rve, .yok, .bel, .eth,
    .mgt, .boot, .tst, .running, .maskQ, .jobs, .saved] s t := by
  intro x0 s
  unfold execI2cLowPowerTransaction
  refine ⟨_, rfl, ?_⟩
  refine keeps_whenS ?_ fun _ => ?_
  · exact keeps_refl _ _
  · refine keeps_step (keeps_i2cLow _ _) rfl ?_
    exact keeps_refl _ _

theorem keeps_execI2cDoorbell : ∀ s, ∃ t, @execI2cDoorbell s = .next t ∧ Keeps [.rve, .mgt] s t :=
    by
  intro s
  unfold execI2cDoorbell
  refine ⟨_, rfl, ?_⟩
  refine keeps_whenS ?_ fun _ => ?_
  · exact keeps_refl _ _
  · refine keeps_step (keeps_ringDoorbell _) rfl ?_
    exact keeps_refl _ _

end Sys2Proof.Laws
end

