-- ==== Sys2Proof/Laws/KeepCommands.lean ====
section
/-!
SUPPORT. Which parts of the state the operations of Commands.lean leave alone.
-/

namespace Sys2Proof.Laws

-- Each proof is checked before the next begins: hundreds at once would ask for a thread each.
set_option Elab.async false
set_option linter.all false

open Sys2Proof Sys2Proof.Machine Sys2Proof.Safety

theorem bodyKeeps_mono {l m : List Zone} {b : Body} (h : BodyKeeps m b) (j : sub m l = true) :
    BodyKeeps l b :=
  ⟨fun c s => keeps_mono (h.1 c s) j, fun c st s => keeps_mono (h.2 c st s) j⟩

/-- The parts that the opcode of a command may change beside what starting one changes. -/
theorem keeps_bodyOf (op : Nat) (b : Body) (h : bodyOf op = some b) :
    BodyKeeps [.free, .out, .hif, .dma, .grn, .mem, .cmp, .pho, .hdg, .lpl,
    .link, .pxh, .rail, .pwr, .thm, .rve, .yok, .bel, .eth, .mgt, .boot, .tst, .running, .nextSer,
    .maskQ, .jobs, .kernels, .marchCmd, .saved] b := by
  unfold bodyOf at h
  split at h <;> cases h
  · exact bodyKeeps_mono keeps_nopBody rfl
  · exact bodyKeeps_mono keeps_layerSetBody rfl
  · exact bodyKeeps_mono keeps_presentBody rfl
  · exact bodyKeeps_mono keeps_maskBody rfl
  · exact bodyKeeps_mono keeps_symbolBody rfl
  · exact bodyKeeps_mono keeps_coefBody rfl
  · exact bodyKeeps_mono keeps_timingBody rfl
  · exact bodyKeeps_mono keeps_tileMapBody rfl
  · exact bodyKeeps_mono keeps_calLoadBody rfl
  · exact bodyKeeps_mono keeps_fadeBody rfl
  · exact bodyKeeps_mono keeps_budgetBody rfl
  · exact bodyKeeps_mono keeps_telemetryBody rfl
  · exact bodyKeeps_mono keeps_healthBody rfl
  · exact bodyKeeps_mono keeps_railBody rfl
  · exact bodyKeeps_mono keeps_powerBody rfl
  · exact bodyKeeps_mono keeps_thermalBody rfl
  · exact bodyKeeps_mono keeps_calRunBody rfl
  · exact bodyKeeps_mono keeps_scheduleBody rfl
  · exact bodyKeeps_mono keeps_timeSetBody rfl
  · exact bodyKeeps_mono keeps_pulseBody rfl
  · exact bodyKeeps_mono keeps_safetyBody rfl
  · exact bodyKeeps_mono keeps_safeTestBody rfl
  · exact bodyKeeps_mono keeps_fwStageBody rfl
  · exact bodyKeeps_mono keeps_fwActivateBody rfl
  · exact bodyKeeps_mono keeps_auxWriteBody rfl
  · exact bodyKeeps_mono keeps_faultAckBody rfl
  · exact bodyKeeps_mono keeps_faultReadBody rfl
  · exact bodyKeeps_mono keeps_injectBody rfl
  · exact bodyKeeps_mono keeps_testRunBody rfl
  · exact bodyKeeps_mono keeps_marchBody rfl
  · exact bodyKeeps_mono keeps_yokeSwitchBody rfl

theorem keeps_startDesc : ∀ x0 x1 x2 s, Keeps [.free, .out, .hif, .dma, .grn, .mem, .cmp, .pho,
    .hdg, .lpl, .link, .pxh, .rail, .pwr, .thm, .rve, .yok, .bel, .eth, .mgt, .boot, .tst,
    .running, .nextSer, .maskQ, .jobs, .kernels, .marchCmd, .saved] s (@startDesc x0 x1 x2 s) := by
  intro x0 x1 x2 s
  unfold startDesc
  refine keeps_startCmd (m := [.free, .out, .hif, .dma, .grn, .mem, .cmp, .pho, .hdg, .lpl,
      .link, .pxh, .rail, .pwr, .thm, .rve, .yok, .bel, .eth, .mgt, .boot, .tst, .running, .nextSer,
      .maskQ, .jobs, .kernels, .marchCmd, .saved]) rfl rfl ?_ (keeps_refl _ _)
  cases h : bodyOf (Desc.f x2 0 0 8) with
  | none => exact bodyKeeps_mono keeps_nopBody rfl
  | some b => exact keeps_bodyOf _ b h

theorem keeps_startRing : ∀ x0 s, Keeps [.free, .out, .hif, .dma, .grn, .mem, .cmp, .pho, .hdg,
    .lpl, .link, .pxh, .rail, .pwr, .thm, .rve, .yok, .bel, .eth, .mgt, .boot, .tst, .running,
    .nextSer, .maskQ, .jobs, .kernels, .marchCmd, .saved] s (@startRing x0 s) := by
  intro x0 s
  unfold startRing
  split
  · exact keeps_refl _ _
  · dsimp only
    refine keeps_step (keeps_startDesc _ _ _ _) rfl ?_
    refine keeps_step (keeps_requestEntries _ _) rfl ?_
    refine keeps_step (keeps_flushDead _ _ _) rfl ?_
    refine keeps_step (keeps_modSq _ _ _) rfl ?_
    refine keeps_mk ?_
    exact keeps_refl _ _

theorem keeps_startEth : ∀ x0 s, Keeps [.free, .out, .hif, .dma, .grn, .mem, .cmp, .pho, .hdg, .lpl,
    .link, .pxh, .rail, .pwr, .thm, .rve, .yok, .bel, .eth, .mgt, .boot, .tst, .running, .nextSer,
    .maskQ, .jobs, .kernels, .marchCmd, .saved] s (@startEth x0 s) := by
  intro x0 s
  unfold startEth
  split
  · exact keeps_refl _ _
  · dsimp only
    refine keeps_step (keeps_drainQueue _ _) rfl ?_
    refine keeps_step (keeps_startDesc _ _ _ _) rfl ?_
    refine keeps_step (keeps_modEth _ _ _) rfl ?_
    exact keeps_refl _ _

theorem keeps_startNext : ∀ s, Keeps [.free, .out, .hif, .dma, .grn, .mem, .cmp, .pho, .hdg, .lpl,
    .link, .pxh, .rail, .pwr, .thm, .rve, .yok, .bel, .eth, .mgt, .boot, .tst, .running, .nextSer,
    .maskQ, .jobs, .kernels, .marchCmd, .saved] s (@startNext s) := by
  intro s
  unfold startNext
  split
  · exact keeps_refl _ _
  · dsimp only
    split
    · split
      · refine keeps_step (keeps_startRing _ _) rfl ?_
        refine keeps_mk ?_
        exact keeps_refl _ _
      · refine keeps_mk ?_
        exact keeps_refl _ _
    · refine keeps_step (keeps_startEth _ _) rfl ?_
      refine keeps_mk ?_
      exact keeps_refl _ _
    · refine keeps_step (keeps_startEth _ _) rfl ?_
      refine keeps_mk ?_
      exact keeps_refl _ _
    · refine keeps_step (keeps_startDesc _ _ _ _) rfl ?_
      refine keeps_mk ?_
      exact keeps_refl _ _

theorem keeps_execCommandStart : ∀ s, ∃ t, @execCommandStart s = .next t ∧ Keeps [.free, .out, .hif,
    .dma, .grn, .mem, .cmp, .pho, .hdg, .lpl, .link, .pxh, .rail, .pwr, .thm, .rve, .yok, .bel,
    .eth, .mgt, .boot, .tst, .running, .nextSer, .maskQ, .jobs, .kernels, .marchCmd, .saved] s t :=
    by
  intro s
  unfold execCommandStart
  refine ⟨_, rfl, ?_⟩
  refine keeps_step (keeps_startNext _) rfl ?_
  refine keeps_step (keeps_advanceStart _) rfl ?_
  exact keeps_refl _ _

theorem keeps_startStartup : ∀ s, Keeps [.free, .out, .hif, .dma, .grn, .mem, .cmp, .pho, .hdg,
    .lpl, .link, .pxh, .rail, .pwr, .thm, .rve, .yok, .bel, .eth, .mgt, .boot, .tst, .running,
    .nextSer, .maskQ, .jobs, .kernels, .marchCmd, .saved] s (@startStartup s) := by
  intro s
  unfold startStartup
  split
  · exact keeps_refl _ _
  · dsimp only
    split
    · refine keeps_step (keeps_advanceStart _) rfl ?_
      exact keeps_refl _ _
    · refine keeps_ite ?_ ?_
      · refine keeps_step (keeps_startDesc _ _ _ _) rfl ?_
        refine keeps_mk ?_
        exact keeps_refl _ _
      · exact keeps_refl _ _

theorem keeps_execStartupCommand : ∀ s, ∃ t, @execStartupCommand s = .next t ∧ Keeps [.free, .out,
    .hif, .dma, .grn, .mem, .cmp, .pho, .hdg, .lpl, .link, .pxh, .rail, .pwr, .thm, .rve, .yok,
    .bel, .eth, .mgt, .boot, .tst, .running, .nextSer, .maskQ, .jobs, .kernels, .marchCmd, .saved] s
    t := by
  intro s
  unfold execStartupCommand
  refine ⟨_, rfl, ?_⟩
  refine keeps_step (keeps_startStartup _) rfl ?_
  exact keeps_refl _ _

theorem keeps_jobDone : ∀ x0 s, Keeps [.free, .out, .hif, .grn, .cmp, .hdg, .lpl, .pxh, .rve, .yok,
    .eth, .mgt, .boot, .tst, .running, .maskQ] s (@jobDone x0 s) := by
  intro x0 s
  unfold jobDone
  refine keeps_ite ?_ ?_
  · exact keeps_refl _ _
  · split
    · refine keeps_step (keeps_lsCopied _ _) rfl ?_
      exact keeps_refl _ _
    · refine keeps_step (keeps_symbolLoaded _ _) rfl ?_
      exact keeps_refl _ _
    · refine keeps_step (keeps_calDone _ _) rfl ?_
      exact keeps_refl _ _
    · refine keeps_step (keeps_exportDone _ _) rfl ?_
      exact keeps_refl _ _
    · refine keeps_step (keeps_stageCopied _ _) rfl ?_
      exact keeps_refl _ _
    · refine keeps_step (keeps_stageImage _ _) rfl ?_
      exact keeps_refl _ _
    · refine keeps_step (keeps_exportDone _ _) rfl ?_
      exact keeps_refl _ _
    · refine keeps_step (keeps_loopSend _ _) rfl ?_
      exact keeps_refl _ _
    · refine keeps_step (keeps_finishOk _ _) rfl ?_
      exact keeps_refl _ _

theorem keeps_chainDone : ∀ x0 s, Keeps [.free, .out, .hif, .grn, .mem, .cmp, .hdg, .lpl, .pxh,
    .rve, .yok, .eth, .mgt, .boot, .tst, .running, .maskQ, .jobs] s (@chainDone x0 s) := by
  intro x0 s
  unfold chainDone
  split
  · exact keeps_refl _ _
  · split
    · refine keeps_step (keeps_jobDone _ _) rfl ?_
      refine keeps_step (keeps_dropJob _ _) rfl ?_
      exact keeps_refl _ _
    · refine keeps_step (keeps_jobFailed _ _) rfl ?_
      refine keeps_step (keeps_dropJob _ _) rfl ?_
      exact keeps_refl _ _
    · refine keeps_step (keeps_jobFailed _ _) rfl ?_
      refine keeps_step (keeps_dropJob _ _) rfl ?_
      exact keeps_refl _ _
    · exact keeps_refl _ _

theorem keeps_execDmaChainDone : ∀ x0 s, ∃ t, @execDmaChainDone x0 s = .next t ∧ Keeps [.free, .out,
    .hif, .grn, .mem, .cmp, .hdg, .lpl, .pxh, .rve, .yok, .eth, .mgt, .boot, .tst, .running, .maskQ,
    .jobs] s t := by
  intro x0 s
  unfold execDmaChainDone
  refine ⟨_, rfl, ?_⟩
  refine keeps_whenS ?_ fun _ => ?_
  · exact keeps_refl _ _
  · refine keeps_step (keeps_chainDone _ _) rfl ?_
    exact keeps_refl _ _

end Sys2Proof.Laws
end

