-- ==== Sys2Proof/Laws/KeepEndpoint.lean ====
section
/-!
SUPPORT. Which parts of the state the operations of Endpoint.lean leave alone.
-/

namespace Sys2Proof.Laws

-- Each proof is checked before the next begins: hundreds at once would ask for a thread each.
set_option Elab.async false
set_option linter.all false

open Sys2Proof Sys2Proof.Machine Sys2Proof.Safety

theorem keeps_hostWrites : ∀ s, Keeps [.free, .hif] s (@hostWrites s) := by
  intro s
  unfold hostWrites
  dsimp only
  refine keeps_mk ?_
  exact keeps_refl _ _

theorem keeps_sendPending : ∀ s, Keeps [.out, .hif] s (@sendPending s) := by
  intro s
  unfold sendPending
  refine keeps_foldl ?_ fun _ _ _ => ?_
  · exact keeps_refl _ _
  · refine keeps_ite ?_ ?_
    · refine keeps_step (keeps_emit _ _) rfl ?_
      refine keeps_mk ?_
      assumption
    · assumption

theorem keeps_hostConfigures : ∀ s, Keeps [.free, .out, .hif] s (@hostConfigures s) := by
  intro s
  unfold hostConfigures
  refine keeps_ite ?_ ?_
  · exact keeps_refl _ _
  · dsimp only
    refine keeps_ite ?_ ?_
    · refine keeps_step (keeps_sendPending _) rfl ?_
      refine keeps_step (keeps_hostWrites _) rfl ?_
      refine keeps_step (keeps_freshBool _) rfl ?_
      exact keeps_refl _ _
    · refine keeps_step (keeps_freshBool _) rfl ?_
      exact keeps_refl _ _

end Sys2Proof.Laws
end

