-- ==== Sys2Proof/Laws/KeepIdle.lean ====
section
/-!
SUPPORT. Which parts of the state the operations of Idle.lean leave alone.
-/

namespace Sys2Proof.Laws

-- Each proof is checked before the next begins: hundreds at once would ask for a thread each.
set_option Elab.async false
set_option linter.all false

open Sys2Proof Sys2Proof.Machine Sys2Proof.Safety

theorem keeps_idleClock : ∀ s, Keeps [.now, .bel] s (@idleClock s) := by
  intro s
  unfold idleClock
  dsimp only
  refine keeps_ite ?_ ?_
  · refine keeps_mk ?_
    exact keeps_refl _ _
  · refine keeps_mk ?_
    exact keeps_refl _ _

theorem keeps_idleKernels : ∀ s, Keeps [.free, .hif, .grn, .cmp, .lpl, .rve, .yok, .eth, .mgt,
    .running, .maskQ, .kernels] s (@idleKernels s) := by
  intro s
  unfold idleKernels
  refine keeps_ite ?_ ?_
  · refine keeps_step (keeps_finishKernels _) rfl ?_
    exact keeps_refl _ _
  · exact keeps_refl _ _

theorem keeps_idleLanes : ∀ s, Keeps [.out, .link, .yok] s (@idleLanes s) := by
  intro s
  unfold idleLanes
  refine keeps_foldl ?_ fun _ _ _ => ?_
  · exact keeps_refl _ _
  · refine keeps_ite ?_ ?_
    · assumption
    · refine keeps_step (keeps_laneIdle _ _) rfl ?_
      assumption

theorem keeps_repeatOverride : ∀ s, Keeps [.out, .link, .yok] s (@repeatOverride s) := by
  intro s
  unfold repeatOverride
  refine keeps_ite ?_ ?_
  · refine keeps_foldl ?_ fun _ _ _ => ?_
    · refine keeps_mk ?_
      exact keeps_refl _ _
    · split
      · refine keeps_step (keeps_sendLane _ _ _) rfl ?_
        assumption
      · assumption
  · exact keeps_refl _ _

theorem keeps_idle : ∀ s, Keeps [.now, .free, .out, .hif, .dma, .grn, .mem, .cmp, .hdg, .lpl, .link,
    .pxh, .rail, .pwr, .rve, .yok, .bel, .eth, .mgt, .boot, .tst, .running, .maskQ, .jobs, .kernels,
    .saved] s (@idle s) := by
  intro s
  unfold idle
  dsimp only
  refine keeps_step (keeps_commitLow _) rfl ?_
  refine keeps_whenS ?_ fun _ => ?_
  · refine keeps_whenS ?_ fun _ => ?_
    · refine keeps_step (keeps_advanceStart _) rfl ?_
      refine keeps_step (keeps_idlePhaseA _) rfl ?_
      refine keeps_step (keeps_hostConfigures _) rfl ?_
      refine keeps_step (keeps_idleKernels _) rfl ?_
      refine keeps_step (keeps_repeatOverride _) rfl ?_
      refine keeps_step (keeps_idleLanes _) rfl ?_
      refine keeps_step (keeps_beginTest _) rfl ?_
      refine keeps_step (keeps_idleLine _) rfl ?_
      refine keeps_step (keeps_idleClock _) rfl ?_
      exact keeps_refl _ _
    · refine keeps_step (keeps_drainLog _) rfl ?_
      assumption
  · refine keeps_step (keeps_fireWake _ _) rfl ?_
    assumption

end Sys2Proof.Laws
end

