-- ==== Sys2Proof/Laws/Memory.lean ====
section
/-!
SUPPORT. The memory operations keep the canonical form, and what they leave at each address.
-/

namespace Sys2Proof.Laws

open Sys2Proof.Machine

theorem wfFrom_mono {lo k : Nat} (h : k ≤ lo) : ∀ {m}, Memory.wfFrom lo m = true → Memory.wfFrom k m = true
  | [], _ => rfl
  | (a, b) :: r, w => by
    simp only [Memory.wfFrom, Bool.and_eq_true, decide_eq_true_eq] at w ⊢
    exact ⟨⟨Nat.le_trans h w.1.1, w.1.2⟩, w.2⟩

theorem read_of_wfFrom {lo a : Nat} (h : a < lo) : ∀ {m}, Memory.wfFrom lo m = true → Memory.read m a = Memory.blankByte
  | [], _ => rfl
  | (k, b) :: r, w => by
    simp only [Memory.wfFrom, Bool.and_eq_true, decide_eq_true_eq] at w
    rw [Memory.read, if_neg (by omega), if_pos (by omega)]

theorem wfFrom_write {lo a : Nat} {v : Byte} (h : lo ≤ a) :
    ∀ {m}, Memory.wfFrom lo m = true → Memory.wfFrom lo (Memory.write m a v) = true
  | [], _ => by
    unfold Memory.write
    split
    · rfl
    · simp_all [Memory.wfFrom]
  | (k, b) :: r, w => by
    simp only [Memory.wfFrom, Bool.and_eq_true, decide_eq_true_eq] at w
    obtain ⟨⟨h1, h2⟩, h3⟩ := w
    unfold Memory.write
    split
    · split
      · exact wfFrom_mono (by omega) h3
      · subst k
        simp_all [Memory.wfFrom]
    · split
      · split
        · simp_all [Memory.wfFrom]
        · simp only [Memory.wfFrom, Bool.and_eq_true, decide_eq_true_eq]
          exact ⟨⟨h, by assumption⟩, ⟨by omega, h2⟩, h3⟩
      · simp only [Memory.wfFrom, Bool.and_eq_true, decide_eq_true_eq]
        exact ⟨⟨h1, h2⟩, wfFrom_write (by omega) h3⟩

/-- Storing a byte keeps the canonical form. -/
theorem wf_write {m : List Host.Cell} (a : Nat) (v : Byte) (h : Memory.wf m = true) : Memory.wf (Memory.write m a v) = true :=
  wfFrom_write (Nat.zero_le a) h

/-- Storing bytes keeps the canonical form. -/
theorem wf_writeBytes (d : List Byte) :
    ∀ {m : List Host.Cell} (a : Nat), Memory.wf m = true → Memory.wf (Memory.writeBytes m a d) = true := by
  induction d with
  | nil => exact fun _ h => h
  | cons b r ih => exact fun a h => ih (a + 1) (wf_write a b h)

theorem wfFrom_filter (p : Host.Cell → Bool) :
    ∀ {lo : Nat} {m : List Host.Cell}, Memory.wfFrom lo m = true → Memory.wfFrom lo (m.filter p) = true
  | _, [], _ => rfl
  | lo, (k, b) :: r, w => by
    simp only [Memory.wfFrom, Bool.and_eq_true, decide_eq_true_eq] at w
    rw [List.filter_cons]
    split
    · simp only [Memory.wfFrom, Bool.and_eq_true, decide_eq_true_eq]
      exact ⟨w.1, wfFrom_filter p w.2⟩
    · exact wfFrom_mono (by omega) (wfFrom_filter p w.2)

/-- Clearing a range keeps the canonical form. -/
theorem wf_clear {m : List Host.Cell} (a n : Nat) (h : Memory.wf m = true) : Memory.wf (Memory.clear m a n) = true :=
  wfFrom_filter _ h

theorem read_write_from {lo a : Nat} {v : Byte} :
    ∀ {m}, Memory.wfFrom lo m = true → Memory.read (Memory.write m a v) a = v
  | [], _ => by
    unfold Memory.write
    split <;> simp_all [Memory.read]
  | (k, b) :: r, w => by
    simp only [Memory.wfFrom, Bool.and_eq_true, decide_eq_true_eq] at w
    unfold Memory.write
    split
    · split
      · rw [read_of_wfFrom (by omega) w.2, ← ‹v = Memory.blankByte›]
      · simp [Memory.read]
    · split
      · split
        · rw [Memory.read, if_neg (by omega), if_pos (by omega), ← ‹v = Memory.blankByte›]
        · simp [Memory.read]
      · rw [Memory.read, if_neg (by omega), if_neg (by omega)]
        exact read_write_from w.2

/-- A byte stored is what a later read finds. -/
theorem read_write {m : List Host.Cell} (a : Nat) (v : Byte) (h : Memory.wf m = true) : Memory.read (Memory.write m a v) a = v :=
  read_write_from h

theorem read_write_ne_from {lo a x : Nat} {v : Byte} (hx : x ≠ a) :
    ∀ {m}, Memory.wfFrom lo m = true → Memory.read (Memory.write m a v) x = Memory.read m x
  | [], _ => by
    unfold Memory.write
    split
    · rfl
    · simp only [Memory.read]
      rw [if_neg (by omega)]
      split <;> rfl
  | (k, b) :: r, w => by
    simp only [Memory.wfFrom, Bool.and_eq_true, decide_eq_true_eq] at w
    unfold Memory.write
    split
    · subst k
      split
      · rw [Memory.read, if_neg (by omega)]
        split
        · exact read_of_wfFrom (by omega) w.2
        · rfl
      · simp only [Memory.read, if_neg (Ne.symm hx)]
    · split
      · split
        · rfl
        · conv => lhs; rw [Memory.read, if_neg (Ne.symm hx)]
          split
          · rw [Memory.read, if_neg (by omega), if_pos (by omega)]
          · rfl
      · rw [Memory.read, Memory.read]
        split
        · rfl
        · split
          · rfl
          · exact read_write_ne_from hx w.2

/-- A byte stored leaves every other address alone. -/
theorem read_write_ne {m : List Host.Cell} {a x : Nat} (v : Byte) (hx : x ≠ a) (h : Memory.wf m = true) :
    Memory.read (Memory.write m a v) x = Memory.read m x :=
  read_write_ne_from hx h

/-- Bytes stored leave every address outside them alone. -/
theorem read_writeBytes_out (d : List Byte) :
    ∀ {m : List Host.Cell} {a x : Nat}, Memory.wf m = true → x < a ∨ a + d.length ≤ x →
      Memory.read (Memory.writeBytes m a d) x = Memory.read m x := by
  induction d with
  | nil => exact fun _ _ => rfl
  | cons b r ih =>
    intro m a x h hx
    rw [List.length_cons] at hx
    rw [Memory.writeBytes, ih (wf_write a b h) (by omega), read_write_ne b (by omega) h]

/-- Bytes stored are what later reads find at their addresses. -/
theorem read_writeBytes_in (d : List Byte) :
    ∀ {m : List Host.Cell} {a i : Nat}, Memory.wf m = true → i < d.length →
      Memory.read (Memory.writeBytes m a d) (a + i) = d.getD i 0 := by
  induction d with
  | nil => intro m a i _ hi; exact absurd hi (Nat.not_lt_zero i)
  | cons b r ih =>
    intro m a i h hi
    rw [Memory.writeBytes]
    cases i with
    | zero =>
      rw [read_writeBytes_out r (wf_write a b h) (by omega)]
      simpa using read_write a b h
    | succ i =>
      have e := ih (m := Memory.write m a b) (a := a + 1) (i := i) (wf_write a b h)
        (by simpa [Nat.succ_lt_succ_iff] using hi)
      rw [show a + (i + 1) = a + 1 + i from by omega, e]
      simp

/-- The memory of the state after reset is in canonical form. -/
theorem wf_reset : Memory.wf State.reset.grn.mem = true := rfl

end Sys2Proof.Laws
end

