-- ==== Sys2Proof/Laws/State.lean ====
section
/-!
SUPPORT. What each named update of the state leaves in each field, and the tables' read-after-update.
-/

namespace Sys2Proof

@[simp] theorem Tab.getElem_upd {α : Type} {n : Nat} (t : Tab α n) (i j : Fin n) (f : α → α) :
    (t.upd i f)[j.val] = if j = i then f t[j.val] else t[j.val] := by
  simp [Tab.upd, Fin.ext_iff]

@[simp] theorem Tab.getElem_map' {α β : Type} {n : Nat} (t : Tab α n) (f : α → β) (j : Fin n) :
    (t.map' f)[j.val] = f t[j.val] := by simp [Tab.map']

@[simp] theorem Tab.getElem_mapI {α β : Type} {n : Nat} (t : Tab α n) (f : Fin n → α → β) (j : Fin n) :
    (t.mapI f)[j.val] = f j t[j.val] := by simp [Tab.mapI]

@[simp] theorem Tab.getElem_all {α : Type} {n : Nat} (a : α) (j : Fin n) : (Tab.all n a)[j.val] = a := by
  simp [Tab.all]

end Sys2Proof

namespace Sys2Proof.Laws

-- Each proof is checked before the next begins: hundreds at once would ask for a thread each.
set_option Elab.async false
set_option linter.all false

open Sys2Proof Sys2Proof.Machine

theorem core_of_hostUp {s : State} (h : hostUp s = true) : s.pwr.core = true := by
  simp only [hostUp, Bool.and_eq_true] at h
  exact h.1.1.1.1

theorem core_of_coresUp {s : State} (h : coresUp s = true) : s.pwr.core = true := by
  simp only [coresUp, Bool.and_eq_true] at h
  exact h.1

theorem raise_of_core {g : Nat} {c : Machine.Class} {d : Nat} {s : State} (h : s.pwr.core = true) :
    raise g c d s = { s with
      rve.inbox := s.rve.inbox ++ [⟨g, c, BitVec.ofNat 32 d, false, s.now⟩] } := by
  simp [raise, h]

theorem whenS_true {f : State → State} {s : State} {b : Bool} (h : b = true) : whenS b f s = f s := by
  simp [whenS, h]

theorem whenS_false {f : State → State} {s : State} {b : Bool} (h : b = false) : whenS b f s = s := by
  simp [whenS, h]

@[simp] theorem emit_pending (e : Emit) (s : State) : (emit e s).pending = s.pending := by rw [emit]
@[simp] theorem emit_now (e : Emit) (s : State) : (emit e s).now = s.now := by rw [emit]
@[simp] theorem emit_free (e : Emit) (s : State) : (emit e s).free = s.free := by rw [emit]
@[simp] theorem emit_out (e : Emit) (s : State) : (emit e s).out = e :: s.out := by rw [emit]
@[simp] theorem emit_part (e : Emit) (s : State) : (emit e s).part = s.part := by rw [emit]
@[simp] theorem emit_hif (e : Emit) (s : State) : (emit e s).hif = s.hif := by rw [emit]
@[simp] theorem emit_dma (e : Emit) (s : State) : (emit e s).dma = s.dma := by rw [emit]
@[simp] theorem emit_grn (e : Emit) (s : State) : (emit e s).grn = s.grn := by rw [emit]
@[simp] theorem emit_cmp (e : Emit) (s : State) : (emit e s).cmp = s.cmp := by rw [emit]
@[simp] theorem emit_pho (e : Emit) (s : State) : (emit e s).pho = s.pho := by rw [emit]
@[simp] theorem emit_hdg (e : Emit) (s : State) : (emit e s).hdg = s.hdg := by rw [emit]
@[simp] theorem emit_lpl (e : Emit) (s : State) : (emit e s).lpl = s.lpl := by rw [emit]
@[simp] theorem emit_link (e : Emit) (s : State) : (emit e s).link = s.link := by rw [emit]
@[simp] theorem emit_pxh (e : Emit) (s : State) : (emit e s).pxh = s.pxh := by rw [emit]
@[simp] theorem emit_rail (e : Emit) (s : State) : (emit e s).rail = s.rail := by rw [emit]
@[simp] theorem emit_pwr (e : Emit) (s : State) : (emit e s).pwr = s.pwr := by rw [emit]
@[simp] theorem emit_thm (e : Emit) (s : State) : (emit e s).thm = s.thm := by rw [emit]
@[simp] theorem emit_rve (e : Emit) (s : State) : (emit e s).rve = s.rve := by rw [emit]
@[simp] theorem emit_yok (e : Emit) (s : State) : (emit e s).yok = s.yok := by rw [emit]
@[simp] theorem emit_bel (e : Emit) (s : State) : (emit e s).bel = s.bel := by rw [emit]
@[simp] theorem emit_eth (e : Emit) (s : State) : (emit e s).eth = s.eth := by rw [emit]
@[simp] theorem emit_mgt (e : Emit) (s : State) : (emit e s).mgt = s.mgt := by rw [emit]
@[simp] theorem emit_boot (e : Emit) (s : State) : (emit e s).boot = s.boot := by rw [emit]
@[simp] theorem emit_aux (e : Emit) (s : State) : (emit e s).aux = s.aux := by rw [emit]
@[simp] theorem emit_crcu (e : Emit) (s : State) : (emit e s).crcu = s.crcu := by rw [emit]
@[simp] theorem emit_gpio (e : Emit) (s : State) : (emit e s).gpio = s.gpio := by rw [emit]
@[simp] theorem emit_tst (e : Emit) (s : State) : (emit e s).tst = s.tst := by rw [emit]
@[simp] theorem emit_running (e : Emit) (s : State) : (emit e s).running = s.running := by rw [emit]
@[simp] theorem emit_nextSer (e : Emit) (s : State) : (emit e s).nextSer = s.nextSer := by rw [emit]
@[simp] theorem emit_maskQ (e : Emit) (s : State) : (emit e s).maskQ = s.maskQ := by rw [emit]
@[simp] theorem emit_jobs (e : Emit) (s : State) : (emit e s).jobs = s.jobs := by rw [emit]
@[simp] theorem emit_kernels (e : Emit) (s : State) : (emit e s).kernels = s.kernels := by rw [emit]
@[simp] theorem emit_marchCmd (e : Emit) (s : State) : (emit e s).marchCmd = s.marchCmd := by rw [emit]
@[simp] theorem emit_saved (e : Emit) (s : State) : (emit e s).saved = s.saved := by rw [emit]

@[simp] theorem modSq_pending (n : Fin 16) (f : SqRing → SqRing) (s : State) :
    (modSq n f s).pending = s.pending := by rw [modSq]
@[simp] theorem modSq_now (n : Fin 16) (f : SqRing → SqRing) (s : State) :
    (modSq n f s).now = s.now := by rw [modSq]
@[simp] theorem modSq_free (n : Fin 16) (f : SqRing → SqRing) (s : State) :
    (modSq n f s).free = s.free := by rw [modSq]
@[simp] theorem modSq_out (n : Fin 16) (f : SqRing → SqRing) (s : State) :
    (modSq n f s).out = s.out := by rw [modSq]
@[simp] theorem modSq_part (n : Fin 16) (f : SqRing → SqRing) (s : State) :
    (modSq n f s).part = s.part := by rw [modSq]
@[simp] theorem modSq_hif (n : Fin 16) (f : SqRing → SqRing) (s : State) :
    (modSq n f s).hif = { s.hif with sq := s.hif.sq.upd n f } := by rw [modSq]
@[simp] theorem modSq_dma (n : Fin 16) (f : SqRing → SqRing) (s : State) :
    (modSq n f s).dma = s.dma := by rw [modSq]
@[simp] theorem modSq_grn (n : Fin 16) (f : SqRing → SqRing) (s : State) :
    (modSq n f s).grn = s.grn := by rw [modSq]
@[simp] theorem modSq_cmp (n : Fin 16) (f : SqRing → SqRing) (s : State) :
    (modSq n f s).cmp = s.cmp := by rw [modSq]
@[simp] theorem modSq_pho (n : Fin 16) (f : SqRing → SqRing) (s : State) :
    (modSq n f s).pho = s.pho := by rw [modSq]
@[simp] theorem modSq_hdg (n : Fin 16) (f : SqRing → SqRing) (s : State) :
    (modSq n f s).hdg = s.hdg := by rw [modSq]
@[simp] theorem modSq_lpl (n : Fin 16) (f : SqRing → SqRing) (s : State) :
    (modSq n f s).lpl = s.lpl := by rw [modSq]
@[simp] theorem modSq_link (n : Fin 16) (f : SqRing → SqRing) (s : State) :
    (modSq n f s).link = s.link := by rw [modSq]
@[simp] theorem modSq_pxh (n : Fin 16) (f : SqRing → SqRing) (s : State) :
    (modSq n f s).pxh = s.pxh := by rw [modSq]
@[simp] theorem modSq_rail (n : Fin 16) (f : SqRing → SqRing) (s : State) :
    (modSq n f s).rail = s.rail := by rw [modSq]
@[simp] theorem modSq_pwr (n : Fin 16) (f : SqRing → SqRing) (s : State) :
    (modSq n f s).pwr = s.pwr := by rw [modSq]
@[simp] theorem modSq_thm (n : Fin 16) (f : SqRing → SqRing) (s : State) :
    (modSq n f s).thm = s.thm := by rw [modSq]
@[simp] theorem modSq_rve (n : Fin 16) (f : SqRing → SqRing) (s : State) :
    (modSq n f s).rve = s.rve := by rw [modSq]
@[simp] theorem modSq_yok (n : Fin 16) (f : SqRing → SqRing) (s : State) :
    (modSq n f s).yok = s.yok := by rw [modSq]
@[simp] theorem modSq_bel (n : Fin 16) (f : SqRing → SqRing) (s : State) :
    (modSq n f s).bel = s.bel := by rw [modSq]
@[simp] theorem modSq_eth (n : Fin 16) (f : SqRing → SqRing) (s : State) :
    (modSq n f s).eth = s.eth := by rw [modSq]
@[simp] theorem modSq_mgt (n : Fin 16) (f : SqRing → SqRing) (s : State) :
    (modSq n f s).mgt = s.mgt := by rw [modSq]
@[simp] theorem modSq_boot (n : Fin 16) (f : SqRing → SqRing) (s : State) :
    (modSq n f s).boot = s.boot := by rw [modSq]
@[simp] theorem modSq_aux (n : Fin 16) (f : SqRing → SqRing) (s : State) :
    (modSq n f s).aux = s.aux := by rw [modSq]
@[simp] theorem modSq_crcu (n : Fin 16) (f : SqRing → SqRing) (s : State) :
    (modSq n f s).crcu = s.crcu := by rw [modSq]
@[simp] theorem modSq_gpio (n : Fin 16) (f : SqRing → SqRing) (s : State) :
    (modSq n f s).gpio = s.gpio := by rw [modSq]
@[simp] theorem modSq_tst (n : Fin 16) (f : SqRing → SqRing) (s : State) :
    (modSq n f s).tst = s.tst := by rw [modSq]
@[simp] theorem modSq_running (n : Fin 16) (f : SqRing → SqRing) (s : State) :
    (modSq n f s).running = s.running := by rw [modSq]
@[simp] theorem modSq_nextSer (n : Fin 16) (f : SqRing → SqRing) (s : State) :
    (modSq n f s).nextSer = s.nextSer := by rw [modSq]
@[simp] theorem modSq_maskQ (n : Fin 16) (f : SqRing → SqRing) (s : State) :
    (modSq n f s).maskQ = s.maskQ := by rw [modSq]
@[simp] theorem modSq_jobs (n : Fin 16) (f : SqRing → SqRing) (s : State) :
    (modSq n f s).jobs = s.jobs := by rw [modSq]
@[simp] theorem modSq_kernels (n : Fin 16) (f : SqRing → SqRing) (s : State) :
    (modSq n f s).kernels = s.kernels := by rw [modSq]
@[simp] theorem modSq_marchCmd (n : Fin 16) (f : SqRing → SqRing) (s : State) :
    (modSq n f s).marchCmd = s.marchCmd := by rw [modSq]
@[simp] theorem modSq_saved (n : Fin 16) (f : SqRing → SqRing) (s : State) :
    (modSq n f s).saved = s.saved := by rw [modSq]

@[simp] theorem modCq_pending (n : Fin 16) (f : CqRing → CqRing) (s : State) :
    (modCq n f s).pending = s.pending := by rw [modCq]
@[simp] theorem modCq_now (n : Fin 16) (f : CqRing → CqRing) (s : State) :
    (modCq n f s).now = s.now := by rw [modCq]
@[simp] theorem modCq_free (n : Fin 16) (f : CqRing → CqRing) (s : State) :
    (modCq n f s).free = s.free := by rw [modCq]
@[simp] theorem modCq_out (n : Fin 16) (f : CqRing → CqRing) (s : State) :
    (modCq n f s).out = s.out := by rw [modCq]
@[simp] theorem modCq_part (n : Fin 16) (f : CqRing → CqRing) (s : State) :
    (modCq n f s).part = s.part := by rw [modCq]
@[simp] theorem modCq_hif (n : Fin 16) (f : CqRing → CqRing) (s : State) :
    (modCq n f s).hif = { s.hif with cq := s.hif.cq.upd n f } := by rw [modCq]
@[simp] theorem modCq_dma (n : Fin 16) (f : CqRing → CqRing) (s : State) :
    (modCq n f s).dma = s.dma := by rw [modCq]
@[simp] theorem modCq_grn (n : Fin 16) (f : CqRing → CqRing) (s : State) :
    (modCq n f s).grn = s.grn := by rw [modCq]
@[simp] theorem modCq_cmp (n : Fin 16) (f : CqRing → CqRing) (s : State) :
    (modCq n f s).cmp = s.cmp := by rw [modCq]
@[simp] theorem modCq_pho (n : Fin 16) (f : CqRing → CqRing) (s : State) :
    (modCq n f s).pho = s.pho := by rw [modCq]
@[simp] theorem modCq_hdg (n : Fin 16) (f : CqRing → CqRing) (s : State) :
    (modCq n f s).hdg = s.hdg := by rw [modCq]
@[simp] theorem modCq_lpl (n : Fin 16) (f : CqRing → CqRing) (s : State) :
    (modCq n f s).lpl = s.lpl := by rw [modCq]
@[simp] theorem modCq_link (n : Fin 16) (f : CqRing → CqRing) (s : State) :
    (modCq n f s).link = s.link := by rw [modCq]
@[simp] theorem modCq_pxh (n : Fin 16) (f : CqRing → CqRing) (s : State) :
    (modCq n f s).pxh = s.pxh := by rw [modCq]
@[simp] theorem modCq_rail (n : Fin 16) (f : CqRing → CqRing) (s : State) :
    (modCq n f s).rail = s.rail := by rw [modCq]
@[simp] theorem modCq_pwr (n : Fin 16) (f : CqRing → CqRing) (s : State) :
    (modCq n f s).pwr = s.pwr := by rw [modCq]
@[simp] theorem modCq_thm (n : Fin 16) (f : CqRing → CqRing) (s : State) :
    (modCq n f s).thm = s.thm := by rw [modCq]
@[simp] theorem modCq_rve (n : Fin 16) (f : CqRing → CqRing) (s : State) :
    (modCq n f s).rve = s.rve := by rw [modCq]
@[simp] theorem modCq_yok (n : Fin 16) (f : CqRing → CqRing) (s : State) :
    (modCq n f s).yok = s.yok := by rw [modCq]
@[simp] theorem modCq_bel (n : Fin 16) (f : CqRing → CqRing) (s : State) :
    (modCq n f s).bel = s.bel := by rw [modCq]
@[simp] theorem modCq_eth (n : Fin 16) (f : CqRing → CqRing) (s : State) :
    (modCq n f s).eth = s.eth := by rw [modCq]
@[simp] theorem modCq_mgt (n : Fin 16) (f : CqRing → CqRing) (s : State) :
    (modCq n f s).mgt = s.mgt := by rw [modCq]
@[simp] theorem modCq_boot (n : Fin 16) (f : CqRing → CqRing) (s : State) :
    (modCq n f s).boot = s.boot := by rw [modCq]
@[simp] theorem modCq_aux (n : Fin 16) (f : CqRing → CqRing) (s : State) :
    (modCq n f s).aux = s.aux := by rw [modCq]
@[simp] theorem modCq_crcu (n : Fin 16) (f : CqRing → CqRing) (s : State) :
    (modCq n f s).crcu = s.crcu := by rw [modCq]
@[simp] theorem modCq_gpio (n : Fin 16) (f : CqRing → CqRing) (s : State) :
    (modCq n f s).gpio = s.gpio := by rw [modCq]
@[simp] theorem modCq_tst (n : Fin 16) (f : CqRing → CqRing) (s : State) :
    (modCq n f s).tst = s.tst := by rw [modCq]
@[simp] theorem modCq_running (n : Fin 16) (f : CqRing → CqRing) (s : State) :
    (modCq n f s).running = s.running := by rw [modCq]
@[simp] theorem modCq_nextSer (n : Fin 16) (f : CqRing → CqRing) (s : State) :
    (modCq n f s).nextSer = s.nextSer := by rw [modCq]
@[simp] theorem modCq_maskQ (n : Fin 16) (f : CqRing → CqRing) (s : State) :
    (modCq n f s).maskQ = s.maskQ := by rw [modCq]
@[simp] theorem modCq_jobs (n : Fin 16) (f : CqRing → CqRing) (s : State) :
    (modCq n f s).jobs = s.jobs := by rw [modCq]
@[simp] theorem modCq_kernels (n : Fin 16) (f : CqRing → CqRing) (s : State) :
    (modCq n f s).kernels = s.kernels := by rw [modCq]
@[simp] theorem modCq_marchCmd (n : Fin 16) (f : CqRing → CqRing) (s : State) :
    (modCq n f s).marchCmd = s.marchCmd := by rw [modCq]
@[simp] theorem modCq_saved (n : Fin 16) (f : CqRing → CqRing) (s : State) :
    (modCq n f s).saved = s.saved := by rw [modCq]

@[simp] theorem modCh_pending (k : Fin 32) (f : DmaCh → DmaCh) (s : State) :
    (modCh k f s).pending = s.pending := by rw [modCh]
@[simp] theorem modCh_now (k : Fin 32) (f : DmaCh → DmaCh) (s : State) :
    (modCh k f s).now = s.now := by rw [modCh]
@[simp] theorem modCh_free (k : Fin 32) (f : DmaCh → DmaCh) (s : State) :
    (modCh k f s).free = s.free := by rw [modCh]
@[simp] theorem modCh_out (k : Fin 32) (f : DmaCh → DmaCh) (s : State) :
    (modCh k f s).out = s.out := by rw [modCh]
@[simp] theorem modCh_part (k : Fin 32) (f : DmaCh → DmaCh) (s : State) :
    (modCh k f s).part = s.part := by rw [modCh]
@[simp] theorem modCh_hif (k : Fin 32) (f : DmaCh → DmaCh) (s : State) :
    (modCh k f s).hif = s.hif := by rw [modCh]
@[simp] theorem modCh_dma (k : Fin 32) (f : DmaCh → DmaCh) (s : State) :
    (modCh k f s).dma = { s.dma with ch := s.dma.ch.upd k f } := by rw [modCh]
@[simp] theorem modCh_grn (k : Fin 32) (f : DmaCh → DmaCh) (s : State) :
    (modCh k f s).grn = s.grn := by rw [modCh]
@[simp] theorem modCh_cmp (k : Fin 32) (f : DmaCh → DmaCh) (s : State) :
    (modCh k f s).cmp = s.cmp := by rw [modCh]
@[simp] theorem modCh_pho (k : Fin 32) (f : DmaCh → DmaCh) (s : State) :
    (modCh k f s).pho = s.pho := by rw [modCh]
@[simp] theorem modCh_hdg (k : Fin 32) (f : DmaCh → DmaCh) (s : State) :
    (modCh k f s).hdg = s.hdg := by rw [modCh]
@[simp] theorem modCh_lpl (k : Fin 32) (f : DmaCh → DmaCh) (s : State) :
    (modCh k f s).lpl = s.lpl := by rw [modCh]
@[simp] theorem modCh_link (k : Fin 32) (f : DmaCh → DmaCh) (s : State) :
    (modCh k f s).link = s.link := by rw [modCh]
@[simp] theorem modCh_pxh (k : Fin 32) (f : DmaCh → DmaCh) (s : State) :
    (modCh k f s).pxh = s.pxh := by rw [modCh]
@[simp] theorem modCh_rail (k : Fin 32) (f : DmaCh → DmaCh) (s : State) :
    (modCh k f s).rail = s.rail := by rw [modCh]
@[simp] theorem modCh_pwr (k : Fin 32) (f : DmaCh → DmaCh) (s : State) :
    (modCh k f s).pwr = s.pwr := by rw [modCh]
@[simp] theorem modCh_thm (k : Fin 32) (f : DmaCh → DmaCh) (s : State) :
    (modCh k f s).thm = s.thm := by rw [modCh]
@[simp] theorem modCh_rve (k : Fin 32) (f : DmaCh → DmaCh) (s : State) :
    (modCh k f s).rve = s.rve := by rw [modCh]
@[simp] theorem modCh_yok (k : Fin 32) (f : DmaCh → DmaCh) (s : State) :
    (modCh k f s).yok = s.yok := by rw [modCh]
@[simp] theorem modCh_bel (k : Fin 32) (f : DmaCh → DmaCh) (s : State) :
    (modCh k f s).bel = s.bel := by rw [modCh]
@[simp] theorem modCh_eth (k : Fin 32) (f : DmaCh → DmaCh) (s : State) :
    (modCh k f s).eth = s.eth := by rw [modCh]
@[simp] theorem modCh_mgt (k : Fin 32) (f : DmaCh → DmaCh) (s : State) :
    (modCh k f s).mgt = s.mgt := by rw [modCh]
@[simp] theorem modCh_boot (k : Fin 32) (f : DmaCh → DmaCh) (s : State) :
    (modCh k f s).boot = s.boot := by rw [modCh]
@[simp] theorem modCh_aux (k : Fin 32) (f : DmaCh → DmaCh) (s : State) :
    (modCh k f s).aux = s.aux := by rw [modCh]
@[simp] theorem modCh_crcu (k : Fin 32) (f : DmaCh → DmaCh) (s : State) :
    (modCh k f s).crcu = s.crcu := by rw [modCh]
@[simp] theorem modCh_gpio (k : Fin 32) (f : DmaCh → DmaCh) (s : State) :
    (modCh k f s).gpio = s.gpio := by rw [modCh]
@[simp] theorem modCh_tst (k : Fin 32) (f : DmaCh → DmaCh) (s : State) :
    (modCh k f s).tst = s.tst := by rw [modCh]
@[simp] theorem modCh_running (k : Fin 32) (f : DmaCh → DmaCh) (s : State) :
    (modCh k f s).running = s.running := by rw [modCh]
@[simp] theorem modCh_nextSer (k : Fin 32) (f : DmaCh → DmaCh) (s : State) :
    (modCh k f s).nextSer = s.nextSer := by rw [modCh]
@[simp] theorem modCh_maskQ (k : Fin 32) (f : DmaCh → DmaCh) (s : State) :
    (modCh k f s).maskQ = s.maskQ := by rw [modCh]
@[simp] theorem modCh_jobs (k : Fin 32) (f : DmaCh → DmaCh) (s : State) :
    (modCh k f s).jobs = s.jobs := by rw [modCh]
@[simp] theorem modCh_kernels (k : Fin 32) (f : DmaCh → DmaCh) (s : State) :
    (modCh k f s).kernels = s.kernels := by rw [modCh]
@[simp] theorem modCh_marchCmd (k : Fin 32) (f : DmaCh → DmaCh) (s : State) :
    (modCh k f s).marchCmd = s.marchCmd := by rw [modCh]
@[simp] theorem modCh_saved (k : Fin 32) (f : DmaCh → DmaCh) (s : State) :
    (modCh k f s).saved = s.saved := by rw [modCh]

@[simp] theorem modEth_pending (p : Fin 2) (f : Eth → Eth) (s : State) :
    (modEth p f s).pending = s.pending := by rw [modEth]
@[simp] theorem modEth_now (p : Fin 2) (f : Eth → Eth) (s : State) :
    (modEth p f s).now = s.now := by rw [modEth]
@[simp] theorem modEth_free (p : Fin 2) (f : Eth → Eth) (s : State) :
    (modEth p f s).free = s.free := by rw [modEth]
@[simp] theorem modEth_out (p : Fin 2) (f : Eth → Eth) (s : State) :
    (modEth p f s).out = s.out := by rw [modEth]
@[simp] theorem modEth_part (p : Fin 2) (f : Eth → Eth) (s : State) :
    (modEth p f s).part = s.part := by rw [modEth]
@[simp] theorem modEth_hif (p : Fin 2) (f : Eth → Eth) (s : State) :
    (modEth p f s).hif = s.hif := by rw [modEth]
@[simp] theorem modEth_dma (p : Fin 2) (f : Eth → Eth) (s : State) :
    (modEth p f s).dma = s.dma := by rw [modEth]
@[simp] theorem modEth_grn (p : Fin 2) (f : Eth → Eth) (s : State) :
    (modEth p f s).grn = s.grn := by rw [modEth]
@[simp] theorem modEth_cmp (p : Fin 2) (f : Eth → Eth) (s : State) :
    (modEth p f s).cmp = s.cmp := by rw [modEth]
@[simp] theorem modEth_pho (p : Fin 2) (f : Eth → Eth) (s : State) :
    (modEth p f s).pho = s.pho := by rw [modEth]
@[simp] theorem modEth_hdg (p : Fin 2) (f : Eth → Eth) (s : State) :
    (modEth p f s).hdg = s.hdg := by rw [modEth]
@[simp] theorem modEth_lpl (p : Fin 2) (f : Eth → Eth) (s : State) :
    (modEth p f s).lpl = s.lpl := by rw [modEth]
@[simp] theorem modEth_link (p : Fin 2) (f : Eth → Eth) (s : State) :
    (modEth p f s).link = s.link := by rw [modEth]
@[simp] theorem modEth_pxh (p : Fin 2) (f : Eth → Eth) (s : State) :
    (modEth p f s).pxh = s.pxh := by rw [modEth]
@[simp] theorem modEth_rail (p : Fin 2) (f : Eth → Eth) (s : State) :
    (modEth p f s).rail = s.rail := by rw [modEth]
@[simp] theorem modEth_pwr (p : Fin 2) (f : Eth → Eth) (s : State) :
    (modEth p f s).pwr = s.pwr := by rw [modEth]
@[simp] theorem modEth_thm (p : Fin 2) (f : Eth → Eth) (s : State) :
    (modEth p f s).thm = s.thm := by rw [modEth]
@[simp] theorem modEth_rve (p : Fin 2) (f : Eth → Eth) (s : State) :
    (modEth p f s).rve = s.rve := by rw [modEth]
@[simp] theorem modEth_yok (p : Fin 2) (f : Eth → Eth) (s : State) :
    (modEth p f s).yok = s.yok := by rw [modEth]
@[simp] theorem modEth_bel (p : Fin 2) (f : Eth → Eth) (s : State) :
    (modEth p f s).bel = s.bel := by rw [modEth]
@[simp] theorem modEth_eth (p : Fin 2) (f : Eth → Eth) (s : State) :
    (modEth p f s).eth = { s.eth with port := s.eth.port.upd p f } := by rw [modEth]
@[simp] theorem modEth_mgt (p : Fin 2) (f : Eth → Eth) (s : State) :
    (modEth p f s).mgt = s.mgt := by rw [modEth]
@[simp] theorem modEth_boot (p : Fin 2) (f : Eth → Eth) (s : State) :
    (modEth p f s).boot = s.boot := by rw [modEth]
@[simp] theorem modEth_aux (p : Fin 2) (f : Eth → Eth) (s : State) :
    (modEth p f s).aux = s.aux := by rw [modEth]
@[simp] theorem modEth_crcu (p : Fin 2) (f : Eth → Eth) (s : State) :
    (modEth p f s).crcu = s.crcu := by rw [modEth]
@[simp] theorem modEth_gpio (p : Fin 2) (f : Eth → Eth) (s : State) :
    (modEth p f s).gpio = s.gpio := by rw [modEth]
@[simp] theorem modEth_tst (p : Fin 2) (f : Eth → Eth) (s : State) :
    (modEth p f s).tst = s.tst := by rw [modEth]
@[simp] theorem modEth_running (p : Fin 2) (f : Eth → Eth) (s : State) :
    (modEth p f s).running = s.running := by rw [modEth]
@[simp] theorem modEth_nextSer (p : Fin 2) (f : Eth → Eth) (s : State) :
    (modEth p f s).nextSer = s.nextSer := by rw [modEth]
@[simp] theorem modEth_maskQ (p : Fin 2) (f : Eth → Eth) (s : State) :
    (modEth p f s).maskQ = s.maskQ := by rw [modEth]
@[simp] theorem modEth_jobs (p : Fin 2) (f : Eth → Eth) (s : State) :
    (modEth p f s).jobs = s.jobs := by rw [modEth]
@[simp] theorem modEth_kernels (p : Fin 2) (f : Eth → Eth) (s : State) :
    (modEth p f s).kernels = s.kernels := by rw [modEth]
@[simp] theorem modEth_marchCmd (p : Fin 2) (f : Eth → Eth) (s : State) :
    (modEth p f s).marchCmd = s.marchCmd := by rw [modEth]
@[simp] theorem modEth_saved (p : Fin 2) (f : Eth → Eth) (s : State) :
    (modEth p f s).saved = s.saved := by rw [modEth]

@[simp] theorem modPulse_pending (o : Fin 4) (f : Pulse → Pulse) (s : State) :
    (modPulse o f s).pending = s.pending := by rw [modPulse]
@[simp] theorem modPulse_now (o : Fin 4) (f : Pulse → Pulse) (s : State) :
    (modPulse o f s).now = s.now := by rw [modPulse]
@[simp] theorem modPulse_free (o : Fin 4) (f : Pulse → Pulse) (s : State) :
    (modPulse o f s).free = s.free := by rw [modPulse]
@[simp] theorem modPulse_out (o : Fin 4) (f : Pulse → Pulse) (s : State) :
    (modPulse o f s).out = s.out := by rw [modPulse]
@[simp] theorem modPulse_part (o : Fin 4) (f : Pulse → Pulse) (s : State) :
    (modPulse o f s).part = s.part := by rw [modPulse]
@[simp] theorem modPulse_hif (o : Fin 4) (f : Pulse → Pulse) (s : State) :
    (modPulse o f s).hif = s.hif := by rw [modPulse]
@[simp] theorem modPulse_dma (o : Fin 4) (f : Pulse → Pulse) (s : State) :
    (modPulse o f s).dma = s.dma := by rw [modPulse]
@[simp] theorem modPulse_grn (o : Fin 4) (f : Pulse → Pulse) (s : State) :
    (modPulse o f s).grn = s.grn := by rw [modPulse]
@[simp] theorem modPulse_cmp (o : Fin 4) (f : Pulse → Pulse) (s : State) :
    (modPulse o f s).cmp = s.cmp := by rw [modPulse]
@[simp] theorem modPulse_pho (o : Fin 4) (f : Pulse → Pulse) (s : State) :
    (modPulse o f s).pho = s.pho := by rw [modPulse]
@[simp] theorem modPulse_hdg (o : Fin 4) (f : Pulse → Pulse) (s : State) :
    (modPulse o f s).hdg = s.hdg := by rw [modPulse]
@[simp] theorem modPulse_lpl (o : Fin 4) (f : Pulse → Pulse) (s : State) :
    (modPulse o f s).lpl = s.lpl := by rw [modPulse]
@[simp] theorem modPulse_link (o : Fin 4) (f : Pulse → Pulse) (s : State) :
    (modPulse o f s).link = s.link := by rw [modPulse]
@[simp] theorem modPulse_pxh (o : Fin 4) (f : Pulse → Pulse) (s : State) :
    (modPulse o f s).pxh = s.pxh := by rw [modPulse]
@[simp] theorem modPulse_rail (o : Fin 4) (f : Pulse → Pulse) (s : State) :
    (modPulse o f s).rail = s.rail := by rw [modPulse]
@[simp] theorem modPulse_pwr (o : Fin 4) (f : Pulse → Pulse) (s : State) :
    (modPulse o f s).pwr = s.pwr := by rw [modPulse]
@[simp] theorem modPulse_thm (o : Fin 4) (f : Pulse → Pulse) (s : State) :
    (modPulse o f s).thm = s.thm := by rw [modPulse]
@[simp] theorem modPulse_rve (o : Fin 4) (f : Pulse → Pulse) (s : State) :
    (modPulse o f s).rve = s.rve := by rw [modPulse]
@[simp] theorem modPulse_yok (o : Fin 4) (f : Pulse → Pulse) (s : State) :
    (modPulse o f s).yok = s.yok := by rw [modPulse]
@[simp] theorem modPulse_bel (o : Fin 4) (f : Pulse → Pulse) (s : State) :
    (modPulse o f s).bel = { s.bel with pulse := s.bel.pulse.upd o f } := by rw [modPulse]
@[simp] theorem modPulse_eth (o : Fin 4) (f : Pulse → Pulse) (s : State) :
    (modPulse o f s).eth = s.eth := by rw [modPulse]
@[simp] theorem modPulse_mgt (o : Fin 4) (f : Pulse → Pulse) (s : State) :
    (modPulse o f s).mgt = s.mgt := by rw [modPulse]
@[simp] theorem modPulse_boot (o : Fin 4) (f : Pulse → Pulse) (s : State) :
    (modPulse o f s).boot = s.boot := by rw [modPulse]
@[simp] theorem modPulse_aux (o : Fin 4) (f : Pulse → Pulse) (s : State) :
    (modPulse o f s).aux = s.aux := by rw [modPulse]
@[simp] theorem modPulse_crcu (o : Fin 4) (f : Pulse → Pulse) (s : State) :
    (modPulse o f s).crcu = s.crcu := by rw [modPulse]
@[simp] theorem modPulse_gpio (o : Fin 4) (f : Pulse → Pulse) (s : State) :
    (modPulse o f s).gpio = s.gpio := by rw [modPulse]
@[simp] theorem modPulse_tst (o : Fin 4) (f : Pulse → Pulse) (s : State) :
    (modPulse o f s).tst = s.tst := by rw [modPulse]
@[simp] theorem modPulse_running (o : Fin 4) (f : Pulse → Pulse) (s : State) :
    (modPulse o f s).running = s.running := by rw [modPulse]
@[simp] theorem modPulse_nextSer (o : Fin 4) (f : Pulse → Pulse) (s : State) :
    (modPulse o f s).nextSer = s.nextSer := by rw [modPulse]
@[simp] theorem modPulse_maskQ (o : Fin 4) (f : Pulse → Pulse) (s : State) :
    (modPulse o f s).maskQ = s.maskQ := by rw [modPulse]
@[simp] theorem modPulse_jobs (o : Fin 4) (f : Pulse → Pulse) (s : State) :
    (modPulse o f s).jobs = s.jobs := by rw [modPulse]
@[simp] theorem modPulse_kernels (o : Fin 4) (f : Pulse → Pulse) (s : State) :
    (modPulse o f s).kernels = s.kernels := by rw [modPulse]
@[simp] theorem modPulse_marchCmd (o : Fin 4) (f : Pulse → Pulse) (s : State) :
    (modPulse o f s).marchCmd = s.marchCmd := by rw [modPulse]
@[simp] theorem modPulse_saved (o : Fin 4) (f : Pulse → Pulse) (s : State) :
    (modPulse o f s).saved = s.saved := by rw [modPulse]

@[simp] theorem modRail_pending (k : Fin 8) (f : Rail → Rail) (s : State) :
    (modRail k f s).pending = s.pending := by rw [modRail]
@[simp] theorem modRail_now (k : Fin 8) (f : Rail → Rail) (s : State) :
    (modRail k f s).now = s.now := by rw [modRail]
@[simp] theorem modRail_free (k : Fin 8) (f : Rail → Rail) (s : State) :
    (modRail k f s).free = s.free := by rw [modRail]
@[simp] theorem modRail_out (k : Fin 8) (f : Rail → Rail) (s : State) :
    (modRail k f s).out = s.out := by rw [modRail]
@[simp] theorem modRail_part (k : Fin 8) (f : Rail → Rail) (s : State) :
    (modRail k f s).part = s.part := by rw [modRail]
@[simp] theorem modRail_hif (k : Fin 8) (f : Rail → Rail) (s : State) :
    (modRail k f s).hif = s.hif := by rw [modRail]
@[simp] theorem modRail_dma (k : Fin 8) (f : Rail → Rail) (s : State) :
    (modRail k f s).dma = s.dma := by rw [modRail]
@[simp] theorem modRail_grn (k : Fin 8) (f : Rail → Rail) (s : State) :
    (modRail k f s).grn = s.grn := by rw [modRail]
@[simp] theorem modRail_cmp (k : Fin 8) (f : Rail → Rail) (s : State) :
    (modRail k f s).cmp = s.cmp := by rw [modRail]
@[simp] theorem modRail_pho (k : Fin 8) (f : Rail → Rail) (s : State) :
    (modRail k f s).pho = s.pho := by rw [modRail]
@[simp] theorem modRail_hdg (k : Fin 8) (f : Rail → Rail) (s : State) :
    (modRail k f s).hdg = s.hdg := by rw [modRail]
@[simp] theorem modRail_lpl (k : Fin 8) (f : Rail → Rail) (s : State) :
    (modRail k f s).lpl = s.lpl := by rw [modRail]
@[simp] theorem modRail_link (k : Fin 8) (f : Rail → Rail) (s : State) :
    (modRail k f s).link = s.link := by rw [modRail]
@[simp] theorem modRail_pxh (k : Fin 8) (f : Rail → Rail) (s : State) :
    (modRail k f s).pxh = s.pxh := by rw [modRail]
@[simp] theorem modRail_rail (k : Fin 8) (f : Rail → Rail) (s : State) :
    (modRail k f s).rail = { s.rail with rail := s.rail.rail.upd k f } := by rw [modRail]
@[simp] theorem modRail_pwr (k : Fin 8) (f : Rail → Rail) (s : State) :
    (modRail k f s).pwr = s.pwr := by rw [modRail]
@[simp] theorem modRail_thm (k : Fin 8) (f : Rail → Rail) (s : State) :
    (modRail k f s).thm = s.thm := by rw [modRail]
@[simp] theorem modRail_rve (k : Fin 8) (f : Rail → Rail) (s : State) :
    (modRail k f s).rve = s.rve := by rw [modRail]
@[simp] theorem modRail_yok (k : Fin 8) (f : Rail → Rail) (s : State) :
    (modRail k f s).yok = s.yok := by rw [modRail]
@[simp] theorem modRail_bel (k : Fin 8) (f : Rail → Rail) (s : State) :
    (modRail k f s).bel = s.bel := by rw [modRail]
@[simp] theorem modRail_eth (k : Fin 8) (f : Rail → Rail) (s : State) :
    (modRail k f s).eth = s.eth := by rw [modRail]
@[simp] theorem modRail_mgt (k : Fin 8) (f : Rail → Rail) (s : State) :
    (modRail k f s).mgt = s.mgt := by rw [modRail]
@[simp] theorem modRail_boot (k : Fin 8) (f : Rail → Rail) (s : State) :
    (modRail k f s).boot = s.boot := by rw [modRail]
@[simp] theorem modRail_aux (k : Fin 8) (f : Rail → Rail) (s : State) :
    (modRail k f s).aux = s.aux := by rw [modRail]
@[simp] theorem modRail_crcu (k : Fin 8) (f : Rail → Rail) (s : State) :
    (modRail k f s).crcu = s.crcu := by rw [modRail]
@[simp] theorem modRail_gpio (k : Fin 8) (f : Rail → Rail) (s : State) :
    (modRail k f s).gpio = s.gpio := by rw [modRail]
@[simp] theorem modRail_tst (k : Fin 8) (f : Rail → Rail) (s : State) :
    (modRail k f s).tst = s.tst := by rw [modRail]
@[simp] theorem modRail_running (k : Fin 8) (f : Rail → Rail) (s : State) :
    (modRail k f s).running = s.running := by rw [modRail]
@[simp] theorem modRail_nextSer (k : Fin 8) (f : Rail → Rail) (s : State) :
    (modRail k f s).nextSer = s.nextSer := by rw [modRail]
@[simp] theorem modRail_maskQ (k : Fin 8) (f : Rail → Rail) (s : State) :
    (modRail k f s).maskQ = s.maskQ := by rw [modRail]
@[simp] theorem modRail_jobs (k : Fin 8) (f : Rail → Rail) (s : State) :
    (modRail k f s).jobs = s.jobs := by rw [modRail]
@[simp] theorem modRail_kernels (k : Fin 8) (f : Rail → Rail) (s : State) :
    (modRail k f s).kernels = s.kernels := by rw [modRail]
@[simp] theorem modRail_marchCmd (k : Fin 8) (f : Rail → Rail) (s : State) :
    (modRail k f s).marchCmd = s.marchCmd := by rw [modRail]
@[simp] theorem modRail_saved (k : Fin 8) (f : Rail → Rail) (s : State) :
    (modRail k f s).saved = s.saved := by rw [modRail]

@[simp] theorem modAux_pending (c : Fin 4) (f : Aux → Aux) (s : State) :
    (modAux c f s).pending = s.pending := by rw [modAux]
@[simp] theorem modAux_now (c : Fin 4) (f : Aux → Aux) (s : State) :
    (modAux c f s).now = s.now := by rw [modAux]
@[simp] theorem modAux_free (c : Fin 4) (f : Aux → Aux) (s : State) :
    (modAux c f s).free = s.free := by rw [modAux]
@[simp] theorem modAux_out (c : Fin 4) (f : Aux → Aux) (s : State) :
    (modAux c f s).out = s.out := by rw [modAux]
@[simp] theorem modAux_part (c : Fin 4) (f : Aux → Aux) (s : State) :
    (modAux c f s).part = s.part := by rw [modAux]
@[simp] theorem modAux_hif (c : Fin 4) (f : Aux → Aux) (s : State) :
    (modAux c f s).hif = s.hif := by rw [modAux]
@[simp] theorem modAux_dma (c : Fin 4) (f : Aux → Aux) (s : State) :
    (modAux c f s).dma = s.dma := by rw [modAux]
@[simp] theorem modAux_grn (c : Fin 4) (f : Aux → Aux) (s : State) :
    (modAux c f s).grn = s.grn := by rw [modAux]
@[simp] theorem modAux_cmp (c : Fin 4) (f : Aux → Aux) (s : State) :
    (modAux c f s).cmp = s.cmp := by rw [modAux]
@[simp] theorem modAux_pho (c : Fin 4) (f : Aux → Aux) (s : State) :
    (modAux c f s).pho = s.pho := by rw [modAux]
@[simp] theorem modAux_hdg (c : Fin 4) (f : Aux → Aux) (s : State) :
    (modAux c f s).hdg = s.hdg := by rw [modAux]
@[simp] theorem modAux_lpl (c : Fin 4) (f : Aux → Aux) (s : State) :
    (modAux c f s).lpl = s.lpl := by rw [modAux]
@[simp] theorem modAux_link (c : Fin 4) (f : Aux → Aux) (s : State) :
    (modAux c f s).link = s.link := by rw [modAux]
@[simp] theorem modAux_pxh (c : Fin 4) (f : Aux → Aux) (s : State) :
    (modAux c f s).pxh = s.pxh := by rw [modAux]
@[simp] theorem modAux_rail (c : Fin 4) (f : Aux → Aux) (s : State) :
    (modAux c f s).rail = s.rail := by rw [modAux]
@[simp] theorem modAux_pwr (c : Fin 4) (f : Aux → Aux) (s : State) :
    (modAux c f s).pwr = s.pwr := by rw [modAux]
@[simp] theorem modAux_thm (c : Fin 4) (f : Aux → Aux) (s : State) :
    (modAux c f s).thm = s.thm := by rw [modAux]
@[simp] theorem modAux_rve (c : Fin 4) (f : Aux → Aux) (s : State) :
    (modAux c f s).rve = s.rve := by rw [modAux]
@[simp] theorem modAux_yok (c : Fin 4) (f : Aux → Aux) (s : State) :
    (modAux c f s).yok = s.yok := by rw [modAux]
@[simp] theorem modAux_bel (c : Fin 4) (f : Aux → Aux) (s : State) :
    (modAux c f s).bel = s.bel := by rw [modAux]
@[simp] theorem modAux_eth (c : Fin 4) (f : Aux → Aux) (s : State) :
    (modAux c f s).eth = s.eth := by rw [modAux]
@[simp] theorem modAux_mgt (c : Fin 4) (f : Aux → Aux) (s : State) :
    (modAux c f s).mgt = s.mgt := by rw [modAux]
@[simp] theorem modAux_boot (c : Fin 4) (f : Aux → Aux) (s : State) :
    (modAux c f s).boot = s.boot := by rw [modAux]
@[simp] theorem modAux_aux (c : Fin 4) (f : Aux → Aux) (s : State) :
    (modAux c f s).aux = s.aux.upd c f := by rw [modAux]
@[simp] theorem modAux_crcu (c : Fin 4) (f : Aux → Aux) (s : State) :
    (modAux c f s).crcu = s.crcu := by rw [modAux]
@[simp] theorem modAux_gpio (c : Fin 4) (f : Aux → Aux) (s : State) :
    (modAux c f s).gpio = s.gpio := by rw [modAux]
@[simp] theorem modAux_tst (c : Fin 4) (f : Aux → Aux) (s : State) :
    (modAux c f s).tst = s.tst := by rw [modAux]
@[simp] theorem modAux_running (c : Fin 4) (f : Aux → Aux) (s : State) :
    (modAux c f s).running = s.running := by rw [modAux]
@[simp] theorem modAux_nextSer (c : Fin 4) (f : Aux → Aux) (s : State) :
    (modAux c f s).nextSer = s.nextSer := by rw [modAux]
@[simp] theorem modAux_maskQ (c : Fin 4) (f : Aux → Aux) (s : State) :
    (modAux c f s).maskQ = s.maskQ := by rw [modAux]
@[simp] theorem modAux_jobs (c : Fin 4) (f : Aux → Aux) (s : State) :
    (modAux c f s).jobs = s.jobs := by rw [modAux]
@[simp] theorem modAux_kernels (c : Fin 4) (f : Aux → Aux) (s : State) :
    (modAux c f s).kernels = s.kernels := by rw [modAux]
@[simp] theorem modAux_marchCmd (c : Fin 4) (f : Aux → Aux) (s : State) :
    (modAux c f s).marchCmd = s.marchCmd := by rw [modAux]
@[simp] theorem modAux_saved (c : Fin 4) (f : Aux → Aux) (s : State) :
    (modAux c f s).saved = s.saved := by rw [modAux]

@[simp] theorem shadowAll_pending (w : List ShadowWrite) (s : State) :
    (shadowAll w s).pending = s.pending := by rw [shadowAll]
@[simp] theorem shadowAll_now (w : List ShadowWrite) (s : State) :
    (shadowAll w s).now = s.now := by rw [shadowAll]
@[simp] theorem shadowAll_free (w : List ShadowWrite) (s : State) :
    (shadowAll w s).free = s.free := by rw [shadowAll]
@[simp] theorem shadowAll_out (w : List ShadowWrite) (s : State) :
    (shadowAll w s).out = s.out := by rw [shadowAll]
@[simp] theorem shadowAll_part (w : List ShadowWrite) (s : State) :
    (shadowAll w s).part = s.part := by rw [shadowAll]
@[simp] theorem shadowAll_hif (w : List ShadowWrite) (s : State) :
    (shadowAll w s).hif = s.hif := by rw [shadowAll]
@[simp] theorem shadowAll_dma (w : List ShadowWrite) (s : State) :
    (shadowAll w s).dma = s.dma := by rw [shadowAll]
@[simp] theorem shadowAll_grn (w : List ShadowWrite) (s : State) :
    (shadowAll w s).grn = s.grn := by rw [shadowAll]
@[simp] theorem shadowAll_cmp (w : List ShadowWrite) (s : State) :
    (shadowAll w s).cmp = s.cmp := by rw [shadowAll]
@[simp] theorem shadowAll_pho (w : List ShadowWrite) (s : State) :
    (shadowAll w s).pho = s.pho := by rw [shadowAll]
@[simp] theorem shadowAll_hdg (w : List ShadowWrite) (s : State) :
    (shadowAll w s).hdg = s.hdg := by rw [shadowAll]
@[simp] theorem shadowAll_lpl (w : List ShadowWrite) (s : State) :
    (shadowAll w s).lpl = { s.lpl with shadow := s.lpl.shadow ++ w } := by rw [shadowAll]
@[simp] theorem shadowAll_link (w : List ShadowWrite) (s : State) :
    (shadowAll w s).link = s.link := by rw [shadowAll]
@[simp] theorem shadowAll_pxh (w : List ShadowWrite) (s : State) :
    (shadowAll w s).pxh = s.pxh := by rw [shadowAll]
@[simp] theorem shadowAll_rail (w : List ShadowWrite) (s : State) :
    (shadowAll w s).rail = s.rail := by rw [shadowAll]
@[simp] theorem shadowAll_pwr (w : List ShadowWrite) (s : State) :
    (shadowAll w s).pwr = s.pwr := by rw [shadowAll]
@[simp] theorem shadowAll_thm (w : List ShadowWrite) (s : State) :
    (shadowAll w s).thm = s.thm := by rw [shadowAll]
@[simp] theorem shadowAll_rve (w : List ShadowWrite) (s : State) :
    (shadowAll w s).rve = s.rve := by rw [shadowAll]
@[simp] theorem shadowAll_yok (w : List ShadowWrite) (s : State) :
    (shadowAll w s).yok = s.yok := by rw [shadowAll]
@[simp] theorem shadowAll_bel (w : List ShadowWrite) (s : State) :
    (shadowAll w s).bel = s.bel := by rw [shadowAll]
@[simp] theorem shadowAll_eth (w : List ShadowWrite) (s : State) :
    (shadowAll w s).eth = s.eth := by rw [shadowAll]
@[simp] theorem shadowAll_mgt (w : List ShadowWrite) (s : State) :
    (shadowAll w s).mgt = s.mgt := by rw [shadowAll]
@[simp] theorem shadowAll_boot (w : List ShadowWrite) (s : State) :
    (shadowAll w s).boot = s.boot := by rw [shadowAll]
@[simp] theorem shadowAll_aux (w : List ShadowWrite) (s : State) :
    (shadowAll w s).aux = s.aux := by rw [shadowAll]
@[simp] theorem shadowAll_crcu (w : List ShadowWrite) (s : State) :
    (shadowAll w s).crcu = s.crcu := by rw [shadowAll]
@[simp] theorem shadowAll_gpio (w : List ShadowWrite) (s : State) :
    (shadowAll w s).gpio = s.gpio := by rw [shadowAll]
@[simp] theorem shadowAll_tst (w : List ShadowWrite) (s : State) :
    (shadowAll w s).tst = s.tst := by rw [shadowAll]
@[simp] theorem shadowAll_running (w : List ShadowWrite) (s : State) :
    (shadowAll w s).running = s.running := by rw [shadowAll]
@[simp] theorem shadowAll_nextSer (w : List ShadowWrite) (s : State) :
    (shadowAll w s).nextSer = s.nextSer := by rw [shadowAll]
@[simp] theorem shadowAll_maskQ (w : List ShadowWrite) (s : State) :
    (shadowAll w s).maskQ = s.maskQ := by rw [shadowAll]
@[simp] theorem shadowAll_jobs (w : List ShadowWrite) (s : State) :
    (shadowAll w s).jobs = s.jobs := by rw [shadowAll]
@[simp] theorem shadowAll_kernels (w : List ShadowWrite) (s : State) :
    (shadowAll w s).kernels = s.kernels := by rw [shadowAll]
@[simp] theorem shadowAll_marchCmd (w : List ShadowWrite) (s : State) :
    (shadowAll w s).marchCmd = s.marchCmd := by rw [shadowAll]
@[simp] theorem shadowAll_saved (w : List ShadowWrite) (s : State) :
    (shadowAll w s).saved = s.saved := by rw [shadowAll]

@[simp] theorem issueCommit_pending (s : State) : (issueCommit s).pending = s.pending := by rw [issueCommit]
@[simp] theorem issueCommit_now (s : State) : (issueCommit s).now = s.now := by rw [issueCommit]
@[simp] theorem issueCommit_free (s : State) : (issueCommit s).free = s.free := by rw [issueCommit]
@[simp] theorem issueCommit_out (s : State) : (issueCommit s).out = s.out := by rw [issueCommit]
@[simp] theorem issueCommit_part (s : State) : (issueCommit s).part = s.part := by rw [issueCommit]
@[simp] theorem issueCommit_hif (s : State) : (issueCommit s).hif = s.hif := by rw [issueCommit]
@[simp] theorem issueCommit_dma (s : State) : (issueCommit s).dma = s.dma := by rw [issueCommit]
@[simp] theorem issueCommit_grn (s : State) : (issueCommit s).grn = s.grn := by rw [issueCommit]
@[simp] theorem issueCommit_cmp (s : State) : (issueCommit s).cmp = s.cmp := by rw [issueCommit]
@[simp] theorem issueCommit_pho (s : State) : (issueCommit s).pho = s.pho := by rw [issueCommit]
@[simp] theorem issueCommit_hdg (s : State) : (issueCommit s).hdg = s.hdg := by rw [issueCommit]
@[simp] theorem issueCommit_lpl (s : State) :
    (issueCommit s).lpl = { s.lpl with
      seen := s.lpl.seen ++ [s.lpl.shadow], shadow := [], commitPending := true,
      shadowAt := match s.lpl.shadowAt with | .general => .commit (s.yok.own.commits + 1) | p => p } := rfl
@[simp] theorem issueCommit_link (s : State) : (issueCommit s).link = s.link := by rw [issueCommit]
@[simp] theorem issueCommit_pxh (s : State) : (issueCommit s).pxh = s.pxh := by rw [issueCommit]
@[simp] theorem issueCommit_rail (s : State) : (issueCommit s).rail = s.rail := by rw [issueCommit]
@[simp] theorem issueCommit_pwr (s : State) : (issueCommit s).pwr = s.pwr := by rw [issueCommit]
@[simp] theorem issueCommit_thm (s : State) : (issueCommit s).thm = s.thm := by rw [issueCommit]
@[simp] theorem issueCommit_rve (s : State) : (issueCommit s).rve = s.rve := by rw [issueCommit]
@[simp] theorem issueCommit_yok (s : State) :
    (issueCommit s).yok = { s.yok with own := { s.yok.own with commits := s.yok.own.commits + 1 } } := by rw [issueCommit]
@[simp] theorem issueCommit_bel (s : State) : (issueCommit s).bel = s.bel := by rw [issueCommit]
@[simp] theorem issueCommit_eth (s : State) : (issueCommit s).eth = s.eth := by rw [issueCommit]
@[simp] theorem issueCommit_mgt (s : State) : (issueCommit s).mgt = s.mgt := by rw [issueCommit]
@[simp] theorem issueCommit_boot (s : State) : (issueCommit s).boot = s.boot := by rw [issueCommit]
@[simp] theorem issueCommit_aux (s : State) : (issueCommit s).aux = s.aux := by rw [issueCommit]
@[simp] theorem issueCommit_crcu (s : State) : (issueCommit s).crcu = s.crcu := by rw [issueCommit]
@[simp] theorem issueCommit_gpio (s : State) : (issueCommit s).gpio = s.gpio := by rw [issueCommit]
@[simp] theorem issueCommit_tst (s : State) : (issueCommit s).tst = s.tst := by rw [issueCommit]
@[simp] theorem issueCommit_running (s : State) : (issueCommit s).running = s.running := by rw [issueCommit]
@[simp] theorem issueCommit_nextSer (s : State) : (issueCommit s).nextSer = s.nextSer := by rw [issueCommit]
@[simp] theorem issueCommit_maskQ (s : State) : (issueCommit s).maskQ = s.maskQ := by rw [issueCommit]
@[simp] theorem issueCommit_jobs (s : State) : (issueCommit s).jobs = s.jobs := by rw [issueCommit]
@[simp] theorem issueCommit_kernels (s : State) : (issueCommit s).kernels = s.kernels := by rw [issueCommit]
@[simp] theorem issueCommit_marchCmd (s : State) : (issueCommit s).marchCmd = s.marchCmd := by rw [issueCommit]
@[simp] theorem issueCommit_saved (s : State) : (issueCommit s).saved = s.saved := by rw [issueCommit]

@[simp] theorem heard_pending (s : State) : (heard s).pending = s.pending := by rw [heard]
@[simp] theorem heard_now (s : State) : (heard s).now = s.now := by rw [heard]
@[simp] theorem heard_free (s : State) : (heard s).free = s.free := by rw [heard]
@[simp] theorem heard_out (s : State) : (heard s).out = s.out := by rw [heard]
@[simp] theorem heard_part (s : State) : (heard s).part = s.part := by rw [heard]
@[simp] theorem heard_hif (s : State) : (heard s).hif = s.hif := by rw [heard]
@[simp] theorem heard_dma (s : State) : (heard s).dma = s.dma := by rw [heard]
@[simp] theorem heard_grn (s : State) : (heard s).grn = s.grn := by rw [heard]
@[simp] theorem heard_cmp (s : State) : (heard s).cmp = s.cmp := by rw [heard]
@[simp] theorem heard_pho (s : State) : (heard s).pho = s.pho := by rw [heard]
@[simp] theorem heard_hdg (s : State) : (heard s).hdg = s.hdg := by rw [heard]
@[simp] theorem heard_lpl (s : State) : (heard s).lpl = s.lpl := by rw [heard]
@[simp] theorem heard_link (s : State) : (heard s).link = s.link := by rw [heard]
@[simp] theorem heard_pxh (s : State) : (heard s).pxh = s.pxh := by rw [heard]
@[simp] theorem heard_rail (s : State) : (heard s).rail = s.rail := by rw [heard]
@[simp] theorem heard_pwr (s : State) : (heard s).pwr = s.pwr := by rw [heard]
@[simp] theorem heard_thm (s : State) : (heard s).thm = s.thm := by rw [heard]
@[simp] theorem heard_rve (s : State) : (heard s).rve = s.rve := by rw [heard]
@[simp] theorem heard_yok (s : State) :
    (heard s).yok = { s.yok with lost := false, lastMsg := s.now } := by rw [heard]
@[simp] theorem heard_bel (s : State) : (heard s).bel = s.bel := by rw [heard]
@[simp] theorem heard_eth (s : State) : (heard s).eth = s.eth := by rw [heard]
@[simp] theorem heard_mgt (s : State) : (heard s).mgt = s.mgt := by rw [heard]
@[simp] theorem heard_boot (s : State) : (heard s).boot = s.boot := by rw [heard]
@[simp] theorem heard_aux (s : State) : (heard s).aux = s.aux := by rw [heard]
@[simp] theorem heard_crcu (s : State) : (heard s).crcu = s.crcu := by rw [heard]
@[simp] theorem heard_gpio (s : State) : (heard s).gpio = s.gpio := by rw [heard]
@[simp] theorem heard_tst (s : State) : (heard s).tst = s.tst := by rw [heard]
@[simp] theorem heard_running (s : State) : (heard s).running = s.running := by rw [heard]
@[simp] theorem heard_nextSer (s : State) : (heard s).nextSer = s.nextSer := by rw [heard]
@[simp] theorem heard_maskQ (s : State) : (heard s).maskQ = s.maskQ := by rw [heard]
@[simp] theorem heard_jobs (s : State) : (heard s).jobs = s.jobs := by rw [heard]
@[simp] theorem heard_kernels (s : State) : (heard s).kernels = s.kernels := by rw [heard]
@[simp] theorem heard_marchCmd (s : State) : (heard s).marchCmd = s.marchCmd := by rw [heard]
@[simp] theorem heard_saved (s : State) : (heard s).saved = s.saved := by rw [heard]

@[simp] theorem setD3hot_pending (v : Bool) (s : State) : (setD3hot v s).pending = s.pending := by rw [setD3hot]
@[simp] theorem setD3hot_now (v : Bool) (s : State) : (setD3hot v s).now = s.now := by rw [setD3hot]
@[simp] theorem setD3hot_free (v : Bool) (s : State) : (setD3hot v s).free = s.free := by rw [setD3hot]
@[simp] theorem setD3hot_out (v : Bool) (s : State) : (setD3hot v s).out = s.out := by rw [setD3hot]
@[simp] theorem setD3hot_part (v : Bool) (s : State) : (setD3hot v s).part = s.part := by rw [setD3hot]
@[simp] theorem setD3hot_hif (v : Bool) (s : State) : (setD3hot v s).hif = { s.hif with d3hot := v } := by rw [setD3hot]
@[simp] theorem setD3hot_dma (v : Bool) (s : State) : (setD3hot v s).dma = s.dma := by rw [setD3hot]
@[simp] theorem setD3hot_grn (v : Bool) (s : State) : (setD3hot v s).grn = s.grn := by rw [setD3hot]
@[simp] theorem setD3hot_cmp (v : Bool) (s : State) : (setD3hot v s).cmp = s.cmp := by rw [setD3hot]
@[simp] theorem setD3hot_pho (v : Bool) (s : State) : (setD3hot v s).pho = s.pho := by rw [setD3hot]
@[simp] theorem setD3hot_hdg (v : Bool) (s : State) : (setD3hot v s).hdg = s.hdg := by rw [setD3hot]
@[simp] theorem setD3hot_lpl (v : Bool) (s : State) : (setD3hot v s).lpl = s.lpl := by rw [setD3hot]
@[simp] theorem setD3hot_link (v : Bool) (s : State) : (setD3hot v s).link = s.link := by rw [setD3hot]
@[simp] theorem setD3hot_pxh (v : Bool) (s : State) : (setD3hot v s).pxh = s.pxh := by rw [setD3hot]
@[simp] theorem setD3hot_rail (v : Bool) (s : State) : (setD3hot v s).rail = s.rail := by rw [setD3hot]
@[simp] theorem setD3hot_pwr (v : Bool) (s : State) : (setD3hot v s).pwr = s.pwr := by rw [setD3hot]
@[simp] theorem setD3hot_thm (v : Bool) (s : State) : (setD3hot v s).thm = s.thm := by rw [setD3hot]
@[simp] theorem setD3hot_rve (v : Bool) (s : State) : (setD3hot v s).rve = s.rve := by rw [setD3hot]
@[simp] theorem setD3hot_yok (v : Bool) (s : State) :
    (setD3hot v s).yok = s.yok := by rw [setD3hot]
@[simp] theorem setD3hot_bel (v : Bool) (s : State) : (setD3hot v s).bel = s.bel := by rw [setD3hot]
@[simp] theorem setD3hot_eth (v : Bool) (s : State) : (setD3hot v s).eth = s.eth := by rw [setD3hot]
@[simp] theorem setD3hot_mgt (v : Bool) (s : State) : (setD3hot v s).mgt = s.mgt := by rw [setD3hot]
@[simp] theorem setD3hot_boot (v : Bool) (s : State) : (setD3hot v s).boot = s.boot := by rw [setD3hot]
@[simp] theorem setD3hot_aux (v : Bool) (s : State) : (setD3hot v s).aux = s.aux := by rw [setD3hot]
@[simp] theorem setD3hot_crcu (v : Bool) (s : State) : (setD3hot v s).crcu = s.crcu := by rw [setD3hot]
@[simp] theorem setD3hot_gpio (v : Bool) (s : State) : (setD3hot v s).gpio = s.gpio := by rw [setD3hot]
@[simp] theorem setD3hot_tst (v : Bool) (s : State) : (setD3hot v s).tst = s.tst := by rw [setD3hot]
@[simp] theorem setD3hot_running (v : Bool) (s : State) : (setD3hot v s).running = s.running := by rw [setD3hot]
@[simp] theorem setD3hot_nextSer (v : Bool) (s : State) : (setD3hot v s).nextSer = s.nextSer := by rw [setD3hot]
@[simp] theorem setD3hot_maskQ (v : Bool) (s : State) : (setD3hot v s).maskQ = s.maskQ := by rw [setD3hot]
@[simp] theorem setD3hot_jobs (v : Bool) (s : State) : (setD3hot v s).jobs = s.jobs := by rw [setD3hot]
@[simp] theorem setD3hot_kernels (v : Bool) (s : State) : (setD3hot v s).kernels = s.kernels := by rw [setD3hot]
@[simp] theorem setD3hot_marchCmd (v : Bool) (s : State) : (setD3hot v s).marchCmd = s.marchCmd := by rw [setD3hot]
@[simp] theorem setD3hot_saved (v : Bool) (s : State) : (setD3hot v s).saved = s.saved := by rw [setD3hot]

end Sys2Proof.Laws
end

