-- ==== Sys2Proof/Machine/Package.lean ====
section
/-!
DEFINITION. The package: which function every ball has (R7, R545 to R547, R550 and R556 of spec/21_balls.md).
-/

namespace Sys2Proof.Machine

/-- What a ball carries: a signal of R550, a supply of R556, or VSS. -/
inductive BallFn where
  | laneTxP (n : Nat) | laneTxN (n : Nat) | laneRxP (n : Nat) | laneRxN (n : Nat)
  | yokeTxP | yokeTxN | yokeRxP | yokeRxN | pcieTxP (i : Nat) | pcieTxN (i : Nat) | pcieRxP (i : Nat) | pcieRxN (i : Nat)
  | pcieRefP | pcieRefN | ethTxP (p : Nat) | ethTxN (p : Nat) | ethRxP (p : Nat) | ethRxN (p : Nat)
  | lrefP | lrefN | sdRext
  /-- A ball of a VDDIO bank. -/
  | digital (b : Ball)
  | xtal32In | xtal32Out | xtal25In | xtal25Out
  | adc (i : Nat) | ts (i : Nat) | tsRtn
  | railPwm (k : Nat) | railIsp (k : Nat) | railIsn (k : Nat) | railVs (k : Nat)
  | vddCore | vddSram | vddSerdes | vddioAo | vddio1 | vddio2 | vinAo | vddAna | capAo | capHdg | vss
  deriving DecidableEq, Repr

/-- A position: the row's index and the column, each 1 to 22 (R545). -/
abbrev BallPos := Nat × Nat

/-- The rows in the order of their indices 1 to 22 (R545). -/
def rowNames : List String :=
  ["A", "B", "C", "D", "E", "F", "G", "H", "J", "K", "L", "M", "N", "P", "T", "U", "V", "W", "Y", "AA", "AB", "AC"]

/-- A ball as it is written: its row, then its column (R7). -/
def ballName (p : BallPos) : String := rowNames.getD (p.1 - 1) "" ++ toString p.2

/-- Positions of a numbered function, 0 first. -/
def numbered (f : Nat → BallFn) (l : List BallPos) : List (BallPos × BallFn) :=
  l.zipIdx.map fun x => (x.1, f x.2)

/-- The table Lane balls (R547). -/
def laneBalls : List (BallPos × BallFn) :=
  numbered .laneTxP
      [(1, 2), (1, 4), (1, 6), (1, 8), (1, 12), (1, 14), (1, 16), (1, 18), (4, 22), (6, 22), (8, 22), (10, 22),
       (12, 22), (14, 22), (16, 22), (18, 22), (22, 2), (22, 4), (22, 6), (22, 8), (22, 12), (22, 14), (22, 16),
       (22, 18)] ++
    numbered .laneTxN
      [(1, 3), (1, 5), (1, 7), (1, 9), (1, 13), (1, 15), (1, 17), (1, 19), (5, 22), (7, 22), (9, 22), (11, 22),
       (13, 22), (15, 22), (17, 22), (19, 22), (22, 3), (22, 5), (22, 7), (22, 9), (22, 13), (22, 15), (22, 17),
       (22, 19)] ++
    numbered .laneRxP
      [(3, 2), (3, 4), (3, 6), (3, 8), (3, 12), (3, 14), (3, 16), (3, 18), (4, 20), (6, 20), (8, 20), (10, 20),
       (12, 20), (14, 20), (16, 20), (18, 20), (20, 2), (20, 4), (20, 6), (20, 8), (20, 12), (20, 14), (20, 16),
       (20, 18)] ++
    numbered .laneRxN
      [(3, 3), (3, 5), (3, 7), (3, 9), (3, 13), (3, 15), (3, 17), (3, 19), (5, 20), (7, 20), (9, 20), (11, 20),
       (13, 20), (15, 20), (17, 20), (19, 20), (20, 3), (20, 5), (20, 7), (20, 9), (20, 13), (20, 15), (20, 17),
       (20, 19)]

/-- The table High-speed balls but the lanes' (R550). -/
def highSpeedBalls : List (BallPos × BallFn) :=
  [((16, 1), .yokeTxP), ((17, 1), .yokeTxN), ((16, 3), .yokeRxP), ((17, 3), .yokeRxN), ((18, 1), .pcieRefP),
    ((19, 1), .pcieRefN), ((18, 3), .lrefP), ((19, 3), .lrefN), ((18, 2), .sdRext), ((4, 1), .pcieTxP 0),
    ((5, 1), .pcieTxN 0), ((4, 3), .pcieRxP 0), ((5, 3), .pcieRxN 0), ((6, 1), .pcieTxP 1), ((7, 1), .pcieTxN 1),
    ((6, 3), .pcieRxP 1), ((7, 3), .pcieRxN 1), ((8, 1), .pcieTxP 2), ((9, 1), .pcieTxN 2), ((8, 3), .pcieRxP 2),
    ((9, 3), .pcieRxN 2), ((10, 1), .pcieTxP 3), ((11, 1), .pcieTxN 3), ((10, 3), .pcieRxP 3),
    ((11, 3), .pcieRxN 3), ((12, 1), .ethTxP 0), ((13, 1), .ethTxN 0), ((12, 3), .ethRxP 0), ((13, 3), .ethRxN 0),
    ((14, 1), .ethTxP 1), ((15, 1), .ethTxN 1), ((14, 3), .ethRxP 1), ((15, 3), .ethRxN 1)]

/-- The table Always-on balls (R550). -/
def aoBalls : List (BallPos × BallFn) :=
  [((18, 8), .digital (.safeIn false)), ((18, 10), .digital (.safeIn true)), ((18, 9), .digital (.tp false)),
    ((18, 11), .digital (.tp true)), ((18, 12), .digital (.safeOff false)), ((18, 14), .digital (.safeOff true)),
    ((18, 13), .digital (.safeFb false)), ((18, 15), .digital (.safeFb true)), ((18, 16), .digital .fallbackN),
    ((18, 17), .digital .faultN), ((17, 6), .digital .wake), ((17, 7), .digital .commissionN),
    ((17, 8), .digital .yokeActN), ((17, 9), .digital .yokePri), ((17, 10), .digital .scl),
    ((17, 11), .digital .sda), ((17, 12), .digital (.addr 0)), ((17, 13), .digital (.addr 1)),
    ((17, 14), .digital (.addr 2)), ((17, 15), .digital .testen), ((18, 6), .digital .sysRstN),
    ((19, 16), .digital .regEnCore), ((19, 17), .digital .regEnSram), ((19, 18), .digital .pgCore),
    ((18, 5), .digital .pgSram), ((19, 5), .xtal32In), ((19, 6), .xtal32Out), ((19, 8), .xtal25In),
    ((19, 9), .xtal25Out)]

/-- The table Timing and auxiliary balls (R550). -/
def timingBalls : List (BallPos × BallFn) :=
  [((5, 9), .digital .syncIn), ((5, 10), .digital .teIn), ((5, 11), .digital (.ppsOut 0)),
    ((5, 12), .digital (.ppsOut 1)), ((5, 13), .digital (.ppsOut 2)), ((5, 14), .digital (.ppsOut 3)),
    ((4, 6), .digital (.auxClk 0)), ((4, 10), .digital (.auxClk 1)), ((4, 14), .digital (.auxClk 2)),
    ((5, 5), .digital (.auxClk 3)), ((4, 7), .digital (.auxDat 0)), ((4, 11), .digital (.auxDat 1)),
    ((4, 15), .digital (.auxDat 2)), ((5, 6), .digital (.auxDat 3)), ((4, 8), .digital (.auxLat 0)),
    ((4, 12), .digital (.auxLat 1)), ((4, 16), .digital (.auxLat 2)), ((5, 7), .digital (.auxLat 3)),
    ((4, 9), .digital (.auxRet 0)), ((4, 13), .digital (.auxRet 1)), ((4, 17), .digital (.auxRet 2)),
    ((5, 8), .digital (.auxRet 3))]

/-- The table Boot, debug and GPIO balls (R550). -/
def bootBalls : List (BallPos × BallFn) :=
  [((6, 4), .digital .qspiClk), ((7, 4), .digital .qspiCsN), ((8, 4), .digital (.qspiIo 0)),
    ((9, 4), .digital (.qspiIo 1)), ((10, 4), .digital (.qspiIo 2)), ((11, 4), .digital (.qspiIo 3)),
    ((13, 4), .digital .jtagTck), ((14, 4), .digital .jtagTms), ((15, 4), .digital .jtagTdi),
    ((16, 4), .digital .jtagTdo), ((17, 4), .digital .jtagTrstN), ((6, 5), .digital .perstN),
    ((8, 5), .digital (.gpio 0)), ((9, 5), .digital (.gpio 1)), ((10, 5), .digital (.gpio 2)),
    ((11, 5), .digital (.gpio 3)), ((12, 5), .digital (.gpio 4)), ((13, 5), .digital (.gpio 5)),
    ((14, 5), .digital (.gpio 6)), ((15, 5), .digital (.gpio 7)), ((16, 5), .digital (.gpio 8)),
    ((17, 5), .digital (.gpio 9)), ((7, 6), .digital (.gpio 10)), ((8, 6), .digital (.gpio 11)),
    ((9, 6), .digital (.gpio 12)), ((10, 6), .digital (.gpio 13)), ((11, 6), .digital (.gpio 14)),
    ((12, 6), .digital (.gpio 15))]

/-- The table Analogue balls (R550). -/
def analogueBalls : List (BallPos × BallFn) :=
  numbered .adc
      [(5, 16), (5, 17), (5, 18), (6, 6), (6, 7), (6, 8)] ++
    numbered .ts
      [(6, 9), (6, 10), (6, 11), (6, 12), (6, 13), (6, 14), (6, 15), (6, 16)] ++ [((6, 17), .tsRtn)]

/-- The table Rail balls (R550). -/
def railBalls : List (BallPos × BallFn) :=
  numbered .railPwm
      [(6, 19), (7, 19), (8, 19), (9, 19), (11, 19), (12, 19), (13, 19), (14, 19)] ++
    numbered .railIsp
      [(6, 18), (8, 18), (10, 18), (12, 18), (14, 18), (16, 18), (7, 17), (9, 17)] ++
    numbered .railIsn
      [(7, 18), (9, 18), (11, 18), (13, 18), (15, 18), (17, 18), (8, 17), (10, 17)] ++
    numbered .railVs
      [(16, 19), (17, 19), (11, 17), (12, 17), (13, 17), (14, 17), (15, 17), (16, 17)]

/-- The supply balls that R556 names by position. -/
def namedSupplies : List (BallPos × BallFn) :=
  [((1, 10), .vddSerdes), ((1, 11), .vddSerdes), ((3, 1), .vddSerdes), ((3, 10), .vddSerdes),
    ((3, 11), .vddSerdes), ((3, 22), .vddSerdes), ((4, 4), .vddSerdes), ((4, 19), .vddSerdes),
    ((19, 4), .vddSerdes), ((19, 19), .vddSerdes), ((20, 1), .vddSerdes), ((20, 10), .vddSerdes),
    ((20, 11), .vddSerdes), ((20, 22), .vddSerdes), ((22, 10), .vddSerdes), ((22, 11), .vddSerdes),
    ((18, 7), .vddioAo), ((18, 18), .vddioAo), ((5, 4), .vddio1), ((12, 4), .vddio1), ((18, 4), .vddio1),
    ((4, 5), .vddio2), ((4, 18), .vddio2), ((5, 15), .vddio2), ((19, 10), .vinAo), ((19, 11), .vinAo),
    ((5, 19), .vddAna), ((10, 19), .vddAna), ((15, 19), .vddAna), ((18, 19), .vddAna), ((19, 14), .vddAna),
    ((19, 15), .vddAna), ((19, 12), .capAo), ((19, 13), .capHdg)]

/-- The signal balls (R550). -/
def signalBalls : List (BallPos × BallFn) :=
  laneBalls ++ highSpeedBalls ++ aoBalls ++ timingBalls ++ bootBalls ++ analogueBalls ++ railBalls

/-- The supply of a ball of the centre block, chosen by rule: rows G to N VDD_CORE, rows P to U VDD_SRAM, where row index
plus column is even (R556). -/
def centreSupply (p : BallPos) : Option BallFn :=
  if 7 ≤ p.2 ∧ p.2 ≤ 16 ∧ (p.1 + p.2) % 2 = 0 then
    if 7 ≤ p.1 ∧ p.1 ≤ 13 then some .vddCore
    else if 14 ≤ p.1 ∧ p.1 ≤ 16 then some .vddSram
    else none
  else none

/-- The function of a ball (R546): one that is not named is VSS. -/
def ballAt (p : BallPos) : BallFn :=
  match (signalBalls ++ namedSupplies).lookup p with
  | some f => f
  | none => (centreSupply p).getD .vss

end Sys2Proof.Machine
end

