-- ==== Sys2Proof/WellFormed.lean ====
section
/-!
DEFINITION. The operands a command can carry: widths and ranges that the constructors' types do not say
already. A meaning is total; it answers a next state on an ill-formed command too.
-/

namespace Sys2Proof.WellFormed

/-- A 32-bit register's offset (R13). -/
def word (off : BitVec 22) : Bool := off.toNat % 4 == 0

/-- A BAR0 access that R45 refuses: not four bytes, or not aligned. -/
def badWidth (off : BitVec 22) (bytes : Nat) : Bool :=
  decide (0 < bytes) && !(bytes == 4 && word off)

/-- An access to the window: not empty, inside its 64 MiB (R115). -/
def request (addr bytes : Nat) : Bool :=
  decide (0 < bytes) && decide (addr + bytes ≤ 0x4000000)

/-- A descriptor whose OPCODE byte is the row's (R52, R71). -/
def opcode (op : Nat) (d : Desc) : Bool := Desc.f d 0 0 8 == op

/-- Link speed Gen1 to Gen3, width ×1, ×2 or ×4 (R43). -/
def linkSpeed (speed width : BitVec 3) : Bool :=
  decide (1 ≤ speed.toNat ∧ speed.toNat ≤ 3) &&
    (width.toNat == 1 || width.toNat == 2 || width.toNat == 4)

/-- A read request for submission entries asks for one to eight (R57). -/
def entries (e : Option (List Desc)) : Bool :=
  match e with
  | none => true
  | some l => decide (0 < l.length ∧ l.length ≤ 8)

/-- A host completion carries bytes; what a beat of the Granary or a write moves follows from the burst (R90, R91). -/
def beat (b : Machine.Beat) : Bool :=
  match b with
  | .fromHost l => decide (0 < l.length)
  | .fromGranary _ => true
  | .write => true
  | .error _ => true

/-- Errors of a stretch of so many symbols: at most one a symbol (R289, R302). -/
def errorsIn (symbols : Nat) (e : Machine.CodeErrors) : Bool := decide (e.violations ≤ symbols)

/-- A copied block is 64 KiB (R474). -/
def block (data : List Byte) : Bool := data.length == 65536

end Sys2Proof.WellFormed

namespace Sys2Proof

/-- A command that the table's row can carry. -/
def Instr.wellFormed (i : Instr) : Bool :=
  match i with
  | .bar0UnmappedAccess _ off => WellFormed.word off
  | .bar0BadWidthAccess _ off bytes => WellFormed.badWidth off bytes.toNat
  | .registerWrite off _ => WellFormed.word off
  | .reg64LowRead off => WellFormed.word off
  | .reg64HighRead off => WellFormed.word off && decide (4 ≤ off.toNat)
  | .reg64LowWrite off _ => WellFormed.word off
  | .reg64HighWrite off _ => WellFormed.word off && decide (4 ≤ off.toNat)
  | .pcieLinkUp speed width => WellFormed.linkSpeed speed width
  | .bar2Read addr bytes _ => WellFormed.request addr.toNat bytes.toNat
  | .bar2Write addr data _ => WellFormed.request addr.toNat data.length
  | .ringEntryFetched _ e => WellFormed.entries e
  | .staleEntryReread _ e => WellFormed.entries e
  | .dmaBeatComplete _ b => WellFormed.beat b
  | .laneErrorBurst _ e => WellFormed.errorsIn 16 e
  | .laneErrorWindow _ e => WellFormed.errorsIn 312500 e
  | .yokeCopyBlock _ data => WellFormed.block data
  | .nop _ d => WellFormed.opcode 0x00 d
  | .layerSet _ d => WellFormed.opcode 0x10 d
  | .layerPresent _ d => WellFormed.opcode 0x11 d
  | .maskUpdate _ d => WellFormed.opcode 0x12 d
  | .symbolLoad _ d => WellFormed.opcode 0x13 d
  | .coefLoad _ d => WellFormed.opcode 0x14 d
  | .timingSet _ d => WellFormed.opcode 0x18 d
  | .tileMapSet _ d => WellFormed.opcode 0x19 d
  | .calLoad _ d => WellFormed.opcode 0x20 d
  | .fadeSet _ d => WellFormed.opcode 0x21 d
  | .fluxBudgetSet _ d => WellFormed.opcode 0x22 d
  | .telemetryRead _ d => WellFormed.opcode 0x28 d
  | .healthSet _ d => WellFormed.opcode 0x29 d
  | .railSet _ d => WellFormed.opcode 0x30 d
  | .powerRequest _ d => WellFormed.opcode 0x38 d
  | .thermalSet _ d => WellFormed.opcode 0x39 d
  | .calRun _ d => WellFormed.opcode 0x3A d
  | .timeSchedule _ d => WellFormed.opcode 0x40 d
  | .timeSet _ d => WellFormed.opcode 0x41 d
  | .pulseSet _ d => WellFormed.opcode 0x42 d
  | .safetyCommit _ d => WellFormed.opcode 0x48 d
  | .safeTest _ d => WellFormed.opcode 0x49 d
  | .fwStage _ d => WellFormed.opcode 0x50 d
  | .fwActivate _ d => WellFormed.opcode 0x51 d
  | .auxWrite _ d => WellFormed.opcode 0x58 d
  | .faultAck _ d => WellFormed.opcode 0x60 d
  | .faultRead _ d => WellFormed.opcode 0x61 d
  | .diagInject _ d => WellFormed.opcode 0x62 d
  | .testRun _ d => WellFormed.opcode 0x68 d
  | .marchRun _ d => WellFormed.opcode 0x69 d
  | .yokeSwitch _ d => WellFormed.opcode 0x70 d
  | _ => true

end Sys2Proof
end

