-- ==== Sys2Proof/Tests/Slice0.lean ====
section
/-!
SUPPORT. Tests: ill-formed commands that WellFormed refuses, the worked examples of spec/, and for each
statement a state and operands that meet the hypotheses of each of its clauses.
-/

namespace Sys2Proof.Tests

open Sys2Proof Sys2Proof.Machine Sys2Proof.Safety

set_option Elab.async false
set_option linter.all false
set_option maxRecDepth 10000

/-- The state after reset, from which the witnesses below are made. -/
def s0 : State := State.reset

/-- The cores run and serve commands. -/
def mkCores (s : State) : State :=
  { s with pwr.core := true, pwr.cores.up := true, pwr.cores.served := true, pwr.entry := none }

/-- The host link may be used. -/
def mkHost (s : State) : State :=
  { s with pwr.core := true, hif.hostless := false, pwr.perstLow := false, hif.configRetry := false, hif.d3hot := false }

/-- The Granary is initialised. -/
def mkGrn (s : State) : State := { s with grn.initDone := true, grn.retention := false }

/-- Region 5 lets every requester at everything above the calibration plane's start. -/
def mkRegAll (s : State) : State := { s with grn.regions := s.grn.regions.put 5 ⟨0x48, 0x3FF, 0xFF⟩, grn.marks := [] }

/-- One of a yoked pair, standing by. -/
def mkYoked (s : State) : State := { s with yok.state := .standby }

/-- Every sender may send every command. -/
def mkAccept (s : State) : State := { mkCores s with running := [], hif.auth := s.hif.auth.map' fun a => { a with cls := 0xFFF } }

/-- len bits of a descriptor, from bit lo of a byte on, set to v. -/
def dset (d : Desc) (byte lo len v : Nat) : Desc :=
  (d &&& ~~~ BitVec.ofNat 512 ((2 ^ len - 1) * 2 ^ (8 * byte + lo))) ||| BitVec.ofNat 512 (v * 2 ^ (8 * byte + lo))

/-- A descriptor whose VERSION is 1. -/
def desc1 : Desc := dset 0 4 0 4 1

/-- The n bytes of a number, least significant first. -/
def le (n v : Nat) : List Byte := (List.range n).map fun i => BitVec.ofNat 8 (v / 256 ^ i)

/-- An upstream packet with its CRC (R310). -/
def mkPkt (kind slot sub seq addr arg : Nat) : List Byte :=
  let b := [BitVec.ofNat 8 (kind + 16 * slot), BitVec.ofNat 8 sub] ++ le 2 seq ++ le 2 addr ++ [BitVec.ofNat 8 arg, 0] ++
    (List.range ((upLength kind sub).getD 0)).map fun i => BitVec.ofNat 8 (i * 7)
  b ++ le 4 (Env.crc32c b).toNat

/-- A transfer of two lines of 256 bytes within the Granary. -/
def xfer0 : DmaDesc :=
  { src := 0x500000, dst := 0x600000, lineBytes := 256, lines := 2, srcStride := 64, dstStride := 64, swidth := 3,
    dwidth := 3, srcHost := false, dstHost := false, last := true, link := false, fill := false, tag := 7 }

/-- The words of a DMA descriptor (R87). -/
def encDma (x : DmaDesc) : BitVec 256 :=
  let f (v lo : Nat) : BitVec 256 := BitVec.ofNat 256 (v * 2 ^ lo)
  f x.src 0 ||| f x.dst 64 ||| f x.lineBytes 128 ||| f x.lines 160 ||| f x.srcStride 192 ||| f x.dstStride 208 |||
    f x.swidth 224 ||| f x.dwidth 226 ||| f x.srcHost.toNat 228 ||| f x.dstHost.toNat 229 ||| f x.last.toNat 230 |||
    f x.link.toNat 231 ||| f x.fill.toNat 232 ||| f x.tag 240

def cmd0 : Cmd := ⟨.ring 0, desc1, 0, 0⟩
def cpl0 : Cpl := ⟨.ring 0, 0, 0, 0, 0, 0⟩
def event0 : Event := ⟨33, .minor, 0, false, 0⟩
def peer0 : Peer := ⟨1, 2, 3⟩
def rx0 : RxFrame :=
  { fcsOk := true, length := 100, vlan := none, dst := 0x000000191B01, etherType := 0x0800, protocol := 17, port := 47810,
    target := (s0.eth.port[(0 : Fin 2)]).ip, ipOk := true, from' := peer0, payload := [] }
def frame0 : Frame := newFrame s0
def view0 : LayerView := mkView 0 (Layer.reset).cur none true s0
def echo0 : EchoWin := ⟨0, 0, 0, 0, .uncommissioned, true⟩
def march0 : March := ⟨0x500000, 1280, false, 0, 0, none, 0, [], false⟩
def log0 : LogEntry := ⟨0, 0, 0, false, true, .minor, none, false, false, 0, 0⟩
def partner0 : PartnerLatch := ⟨0, 0, 8000000, ⟨0, 0, 0⟩, .standby, true, 0, 0⟩
/-- An image header (R513) without firmware and without a configuration segment. -/
def hdr0 : List Byte := [0x49, 0x4D, 1, 0, 1] ++ List.replicate 251 0
/-- A wake image of the state after reset (R386). -/
def saved0 : Saved :=
  ⟨s0.hif, grnLast s0.grn, s0.cmp, s0.pho, s0.lpl, s0.pxh, s0.thm, s0.rve, s0.yok, s0.eth, s0.aux, s0.crcu, s0.gpio, s0.tst, s0.boot, none⟩
/-- On an empty queue the block idles. -/
theorem step_idle (s : State) (h : s.pending = []) : step s = .next (idle s) := by simp only [step, h]

/-! What a command may not carry, one refused term and one accepted for each check of WellFormed. -/

theorem test_ill_formed_offset :
    Instr.wellFormed (.registerWrite 0x010001 0) = false ∧ Instr.wellFormed (.registerWrite 0x010004 0) = true ∧
      Instr.wellFormed (.bar0UnmappedAccess true 0x3FFFFE) = false ∧ Instr.wellFormed (.reg64LowRead 2) = false ∧
      Instr.wellFormed (.reg64HighRead 0) = false ∧ Instr.wellFormed (.reg64LowWrite 6 0) = false ∧
      Instr.wellFormed (.reg64HighWrite 0 0) = false ∧ Instr.wellFormed (.reg64HighWrite 4 0) = true := by decide

theorem test_ill_formed_width :
    Instr.wellFormed (.bar0BadWidthAccess true 8 4) = false ∧ Instr.wellFormed (.bar0BadWidthAccess true 8 8) = true ∧
      Instr.wellFormed (.bar0BadWidthAccess true 6 4) = true := by decide

theorem test_ill_formed_link :
    Instr.wellFormed (.pcieLinkUp 0 1) = false ∧ Instr.wellFormed (.pcieLinkUp 4 1) = false ∧
      Instr.wellFormed (.pcieLinkUp 3 3) = false ∧ Instr.wellFormed (.pcieLinkUp 3 4) = true := by decide

theorem test_ill_formed_request :
    Instr.wellFormed (.bar2Read 0 0 .none) = false ∧ Instr.wellFormed (.bar2Read 0x3FFFFFF 2 .none) = false ∧
      Instr.wellFormed (.bar2Read 0x3FFFFFF 1 .none) = true ∧
      Instr.wellFormed (.bar2Write 0 [] .none) = false := by decide

theorem test_ill_formed_entries :
    Instr.wellFormed (.ringEntryFetched 0 (some [])) = false ∧
      Instr.wellFormed (.staleEntryReread 0 (some (List.replicate 9 0))) = false ∧
      Instr.wellFormed (.ringEntryFetched 0 (some (List.replicate 8 0))) = true := by decide

theorem test_ill_formed_beat :
    Instr.wellFormed (.dmaBeatComplete 0 (.fromHost [])) = false ∧
      Instr.wellFormed (.dmaBeatComplete 0 (.fromHost [0])) = true ∧
      Instr.wellFormed (.dmaBeatComplete 0 (.fromGranary .none)) = true := by decide

theorem test_ill_formed_errors :
    Instr.wellFormed (.laneErrorBurst 0 ⟨9, 8, 0⟩) = false ∧ Instr.wellFormed (.laneErrorBurst 0 ⟨8, 8, 0⟩) = true ∧
      Instr.wellFormed (.laneErrorWindow 0 ⟨312500, 1, 0⟩) = false := by decide

theorem test_ill_formed_block :
    Instr.wellFormed (.yokeCopyBlock 72 [0]) = false ∧
      Instr.wellFormed (.yokeCopyBlock 72 (List.replicate 65536 0)) = true := by
  refine ⟨by decide, ?_⟩
  show ((List.replicate 65536 (0 : Byte)).length == 65536) = true
  rw [List.length_replicate]; rfl

theorem test_ill_formed_opcode :
    Instr.wellFormed (.layerSet (.ring 0) 0x11) = false ∧ Instr.wellFormed (.layerSet (.ring 0) 0x10) = true ∧
      Instr.wellFormed (.yokeSwitch .i2c 0x71) = false := by decide +kernel

/-! The worked examples of spec/, with the results they print. -/

/-- spec/04_granary.md: the word at 0x0180_0010 lies in bank 2, row 192. -/
theorem test_granary_row : wordBank (0x01800010 / 8) = 2 ∧ wordRow (0x01800010 / 8) = 192 := by decide

/-- spec/05_composition.md: the beam of the headlamp pixel. -/
theorem test_blend_beam :
    (Cmp.samplePair { (Layer.reset).cur.cfg with gain := 0x18000, opacity := 0x10000 } .l16 [0x00, 0xC0]).1 = 73730 := by
  decide +kernel

/-- spec/05_composition.md: the arrow. -/
theorem test_blend_arrow :
    Cmp.samplePair { (Layer.reset).cur.cfg with gain := 0x8000, opacity := 0xC000 } .la88 [0xFF, 0x80] = (12336, 24673) := by
  decide +kernel

/-- spec/05_composition.md: the arrow adds, the mask dims. -/
theorem test_blend_steps :
    Cmp.blend .add 73730 (12336, 24673) = 86066 ∧ Cmp.blend .mul 86066 (12336, 49345) = 37463 := by decide

/-- spec/07_photometry.md: bin 2 at 96.5 °C. -/
theorem test_derate : Pipe.derate { tRef := 400, tKnee := 1360, slope := 328, dMin := 0x4000 } 1544 = 28996 := by decide

/-- spec/07_photometry.md: the budget factor of the frame. -/
theorem test_budget :
    nextFactor { Photo.reset with limit := 400000, rise := 64, demand := 412000 * 65536, budget := 31680 } = 31744 := by
  decide +kernel

/-- spec/08_hedge.md: the two pixels beside a window. -/
theorem test_clamp :
    Pipe.clampPixel 0x200 3096 4100 700 = ⟨2998, 512, true, false⟩ ∧
      Pipe.clampPixel 0x200 3096 5000 300 = ⟨3096, 300, false, true⟩ := by decide

/-- spec/21_balls.md: of 484 balls 255 carry signals, 84 are supplies and 145 are VSS. -/
theorem test_package_counts :
    let all := (List.range 484).map fun k => ballAt (k / 22 + 1, k % 22 + 1)
    signalBalls.length = 255 ∧ all.countP (fun f => f == .vss) = 145 ∧ ballName (20, 4) = "AA4" := by
  decide +kernel

/-! For every statement with hypotheses, states and operands that meet them, clause by clause. -/

theorem test_witness_StepRunsFront :
    ∃ (c : Instr) (rest : List Instr) (s : State), s.pending = c :: rest :=
  let c : Instr := .commandStart
  let rest : List Instr := []
  let s : State := s0
  let s : State := { s with pending := c :: rest }
  ⟨c, rest, s, by decide +kernel +revert⟩

theorem test_witness_StepIdles :
    (∃ (s : State), s.pending = [] ∧ s.pwr.start = none ∧ s.pwr.entry = none ∧ s.kernels = [] ∧ s.hdg.test = none ∧
      s.pwr.wakeHigh = false ∧ s.rve.queue = []) ∧
    (∃ (s : State), s.pending = [] ∧ s.pwr.start = none ∧ s.pwr.entry = none ∧ s.kernels = [] ∧ s.hdg.test = none ∧
      s.pwr.wakeHigh = false ∧ s.rve.queue = [] ∧ (∀ n : Fin 25, laneFill n s = none) ∧
      s.now + (if s.bel.sleepClock then 40 else 4) < s.link.overrideAt + 10000 ∧ yoked s = false ∧
      s.hif.linkUp = false) := by
  refine ⟨?_, ?_⟩
  · let s : State := { s0 with pwr.start := none }
    exact ⟨s, by decide +kernel +revert⟩
  · let s : State := { s0 with
      pwr.start := none
      yok.state := .solo
      link.lane := s0.link.lane.map' fun l => { l with state := .off }, yok.lane.state := .off }
    exact ⟨s, by decide +kernel +revert⟩

theorem test_witness_MemoryStaysCanonical :
    ∃ (s t : State), Memory.wf s.grn.mem = true ∧ step s = .next t :=
  ⟨s0, idle s0, by decide +kernel, step_idle s0 rfl⟩

theorem test_witness_AuthorityStaysWithin :
    ∃ (s t : State), AuthorityKeeps s ∧ step s = .next t :=
  ⟨s0, idle s0, ⟨by unfold AuthorityWithin; decide +kernel, by simp [s0, State.reset]⟩, step_idle s0 rfl⟩

theorem test_witness_AuthorityMaskWrites :
    (∃ (s : State) (p : Fin 5), hostUp s = true ∧ s.hif.authLock = false ∧ p ≠ 4) ∧
    (∃ (s : State) (p : Fin 5), (s.hif.authLock = true ∨ p = 4)) ∧
    (∃ (s : State), hostUp s = true) ∧
    (∃ (s : State), hostUp s = true) := by
  refine ⟨?_, ?_, ?_, ?_⟩
  · let s : State := mkHost s0
    exact ⟨s, 0, by decide +kernel +revert⟩
  · let s : State := { s0 with hif.authLock := true }
    exact ⟨s, 0, by decide +kernel +revert⟩
  · let s : State := mkHost s0
    exact ⟨s, by decide +kernel +revert⟩
  · let s : State := mkHost s0
    exact ⟨s, by decide +kernel +revert⟩

theorem test_witness_RingEnableBits :
    (∃ (s : State) (n : Fin 16), hostUp s = true ∧ (s.hif.sq[n]).enable = false ∧
      (s.hif.cq[(s.hif.sq[n]).cq]).enable = true) ∧
    (∃ (s : State) (n : Fin 16), (s.hif.cq[(s.hif.sq[n]).cq]).enable = false) ∧
    (∃ (s : State) (n : Fin 16), hostUp s = true ∧ (s.hif.sq[n]).enable = true ∧ (s.hif.sq[n]).behind = [] ∧
      (∀ e ∈ (s.hif.sq[n]).fetched, e.dead = false)) ∧
    (∃ (s : State) (n : Fin 16), hostUp s = true ∧ (s.hif.cq[n]).enable = false) ∧
    (∃ (s : State) (n : Fin 16), hostUp s = true ∧ cqInUse n s = false) ∧
    (∃ (s : State) (n : Fin 16), hostUp s = true ∧ cqInUse n s = true) := by
  refine ⟨?_, ?_, ?_, ?_, ?_, ?_⟩
  · let n : Fin 16 := 0
    let s : State := mkHost s0
    let s : State := { s with
      hif.cq := Tab.put (s.hif.cq) ((s.hif.sq[n]).cq) ({ (s.hif.cq)[(s.hif.sq[n]).cq] with enable := true }) }
    exact ⟨s, n, by decide +kernel +revert⟩
  · exact ⟨s0, 0, by decide +kernel⟩
  · let n : Fin 16 := 0
    let s : State := mkHost s0
    let s : State := { s with hif.sq := s.hif.sq.put n { s.hif.sq[n] with enable := true } }
    exact ⟨s, n, by decide +kernel +revert⟩
  · let s : State := mkHost s0
    exact ⟨s, 0, by decide +kernel +revert⟩
  · let s : State := mkHost s0
    exact ⟨s, 0, by decide +kernel +revert⟩
  · let n : Fin 16 := 0
    let s : State := mkHost s0
    let s : State := { s with hif.sq := Tab.put s.hif.sq 3 { s.hif.sq[(3 : Fin 16)] with cq := n, running := true } }
    exact ⟨s, n, by decide +kernel +revert⟩

theorem test_witness_RingFetching :
    (∃ (s : State) (n : Fin 16) (c : Instr), ringsServed s = true ∧ (s.hif.sq[n]).enable = true ∧
      (s.hif.sq[n]).stopped = false ∧
      (c = .hifKickSq n ∧ hostUp s = true ∨ c = .ringDoorbellPoll n ∧ (s.hif.sq[n]).head = (s.hif.sq[n]).prod) ∧
      (s.hif.sq[n]).dbAsked ≠ some s.now) ∧
    (∃ (s : State) (n : Fin 16) (c : Instr), ringsServed s = true ∧ (s.hif.sq[n]).enable = true ∧
      (s.hif.sq[n]).stopped = false ∧
      (c = .hifKickSq n ∧ hostUp s = true ∨ c = .ringDoorbellPoll n ∧ (s.hif.sq[n]).head = (s.hif.sq[n]).prod) ∧
      (s.hif.sq[n]).dbAsked = some s.now) ∧
    (∃ (s : State) (n : Fin 16), hostUp s = true ∧ (s.hif.cq[n]).enable = true ∧ (s.hif.cq[n]).dbAsked ≠ some s.now) ∧
    (∃ (s : State) (n : Fin 16) (w : Word), ringsServed s = true ∧ (s.hif.sq[n]).enable = true ∧
      (s.hif.sq[n]).stopped = false ∧ field w 0 16 < (s.hif.sq[n]).size) ∧
    (∃ (s : State) (n : Fin 16) (w : Word), ringsServed s = true ∧ (s.hif.sq[n]).enable = true ∧
      (s.hif.sq[n]).stopped = false ∧ (s.hif.sq[n]).size ≤ field w 0 16) ∧
    (∃ (s : State) (n : Fin 16) (c : Instr), ringsServed s = true ∧ (s.hif.sq[n]).enable = true ∧
      (s.hif.sq[n]).stopped = false ∧
      (c = .producerIndexReadDone n none ∨ c = .ringEntryFetched n none ∧ (s.hif.sq[n]).asked ≠ 0)) ∧
    (∃ (s : State) (n : Fin 16) (a b : List Desc), ringsServed s = true ∧ (s.hif.sq[n]).enable = true ∧
      (s.hif.sq[n]).stopped = false ∧ (s.hif.sq[n]).asked = (a ++ b).length ∧ a ++ b ≠ [] ∧
      (s.hif.sq[n]).behind = [] ∧
      (∀ i : Fin a.length, Desc.b a[i] 1 0 = (s.hif.sq[n]).phaseAt ((s.hif.sq[n]).fetched.length + i.val)) ∧
      (∀ d, b.head? = some d → Desc.b d 1 0 ≠ (s.hif.sq[n]).phaseAt ((s.hif.sq[n]).fetched.length + a.length))) ∧
    (∃ (s : State) (n : Fin 16) (d e : Desc), mayFetch n s = true ∧ (s.hif.sq[n]).behind = [e] ∧
      Desc.b d 1 0 = (s.hif.sq[n]).phaseAt (s.hif.sq[n]).fetched.length) ∧
    (∃ (s : State) (n : Fin 16) (d e : Desc) (r : List Desc), mayFetch n s = true ∧ (s.hif.sq[n]).behind = e :: r ∧
      Desc.b d 1 0 ≠ (s.hif.sq[n]).phaseAt (s.hif.sq[n]).fetched.length ∧ (s.hif.sq[n]).rereads + 1 < 16) ∧
    (∃ (s : State) (n : Fin 16) (d e : Desc), mayFetch n s = true ∧ (s.hif.sq[n]).fetched = [] ∧
      (s.hif.sq[n]).behind = [e] ∧ Desc.b d 1 0 ≠ (s.hif.sq[n]).phaseAt 0 ∧ (s.hif.sq[n]).rereads + 1 = 16 ∧
      (s.hif.sq[n]).head < (s.hif.sq[n]).size) ∧
    (∃ (s : State) (n : Fin 16) (d e : Desc) (x : Fetched) (l : List Fetched), mayFetch n s = true ∧
      (s.hif.sq[n]).fetched = x :: l ∧ x.dead = false ∧ (s.hif.sq[n]).behind = [e] ∧
      Desc.b d 1 0 ≠ (s.hif.sq[n]).phaseAt (s.hif.sq[n]).fetched.length ∧ (s.hif.sq[n]).rereads + 1 = 16) := by
  refine ⟨?_, ?_, ?_, ?_, ?_, ?_, ?_, ?_, ?_, ?_, ?_⟩
  · let n : Fin 16 := 0
    let s : State := mkCores s0
    let s : State := mkHost s
    let s : State := { s with hif.sq := s.hif.sq.put n { s.hif.sq[n] with enable := true } }
    let c : Instr := .hifKickSq n
    exact ⟨s, n, c, by decide +kernel +revert⟩
  · let n : Fin 16 := 0
    let s : State := mkCores s0
    let s : State := mkHost s
    let s : State := { s with hif.sq := s.hif.sq.put n { s.hif.sq[n] with enable := true, dbAsked := some s.now } }
    let c : Instr := .hifKickSq n
    exact ⟨s, n, c, by decide +kernel +revert⟩
  · let n : Fin 16 := 0
    let s : State := mkHost s0
    let s : State := { s with hif.cq := s.hif.cq.put n { s.hif.cq[n] with enable := true } }
    exact ⟨s, n, by decide +kernel +revert⟩
  · let n : Fin 16 := 0
    let s : State := mkCores s0
    let s : State := { s with hif.sq := s.hif.sq.put n { s.hif.sq[n] with enable := true } }
    exact ⟨s, n, 0, by decide +kernel +revert⟩
  · let n : Fin 16 := 0
    let s : State := mkCores s0
    let s : State := { s with hif.sq := s.hif.sq.put n { s.hif.sq[n] with enable := true } }
    exact ⟨s, n, 0xFFFF, by decide +kernel +revert⟩
  · let n : Fin 16 := 0
    let s : State := mkCores s0
    let s : State := { s with hif.sq := s.hif.sq.put n { s.hif.sq[n] with enable := true } }
    let c : Instr := .producerIndexReadDone n none
    exact ⟨s, n, c, by decide +kernel +revert⟩
  · let n : Fin 16 := 0
    let s : State := mkCores s0
    let s : State := { s with hif.sq := s.hif.sq.put n { s.hif.sq[n] with enable := true, asked := 2 } }
    exact ⟨s, n, [0], [dset 0 1 0 1 1], by decide +kernel +revert, by decide +kernel +revert,
      by decide +kernel +revert, by decide +kernel +revert, by decide +kernel +revert, by decide +kernel +revert,
        by decide +kernel +revert, by intro d h; cases h; decide +kernel +revert⟩
  · let n : Fin 16 := 0
    let e : Desc := desc1
    let s : State := mkCores s0
    let s : State := { s with
      hif.sq := s.hif.sq.put n { s.hif.sq[n] with enable := true, stopped := false, behind := [e] } }
    exact ⟨s, n, desc1, e, by decide +kernel +revert⟩
  · let n : Fin 16 := 0
    let e : Desc := desc1
    let r : List Desc := []
    let s : State := mkCores s0
    let s : State := { s with
      hif.sq := s.hif.sq.put n { s.hif.sq[n] with enable := true, stopped := false, behind := e :: r } }
    let d : Desc := dset 0 1 0 1 (if (s.hif.sq[n]).phaseAt (s.hif.sq[n]).fetched.length then 0 else 1)
    exact ⟨s, n, d, e, r, by decide +kernel +revert⟩
  · let n : Fin 16 := 0
    let d : Desc := desc1
    let e : Desc := desc1
    let s : State := mkCores s0
    let s : State := { s with
      hif.sq := s.hif.sq.put n { s.hif.sq[n] with
        enable := true
        stopped := false
        behind := [e]
        rereads := 16 - 1 } }
    let d : Desc := dset d 1 0 1 (if (s.hif.sq[n]).phaseAt 0 then 0 else 1)
    exact ⟨s, n, d, e, by decide +kernel +revert⟩
  · let n : Fin 16 := 0
    let d : Desc := desc1
    let e : Desc := desc1
    let x : Fetched := ⟨desc1, false, 0⟩
    let l : List Fetched := []
    let s : State := mkCores s0
    let s : State := { s with
      hif.sq := s.hif.sq.put n { s.hif.sq[n] with
        enable := true
        stopped := false
        fetched := x :: l
        behind := [e]
        rereads := 16 - 1 } }
    let d : Desc := dset d 1 0 1 (if (s.hif.sq[n]).phaseAt (s.hif.sq[n]).fetched.length then 0 else 1)
    exact ⟨s, n, d, e, x, l, by decide +kernel +revert⟩

theorem test_witness_CompletionRing :
    (∃ (s : State) (n : Fin 16) (e : Cpl) (r : List Cpl), coresUp s = true ∧ (s.hif.cq[n]).enable = true ∧
      (s.hif.cq[n]).waiting = e :: r ∧ ((s.hif.cq[n]).tail + 1) % (s.hif.cq[n]).size ≠ (s.hif.cq[n]).cons) ∧
    (∃ (s : State) (n : Fin 16), ((s.hif.cq[n]).tail + 1) % (s.hif.cq[n]).size = (s.hif.cq[n]).cons) ∧
    (∃ (s : State) (n : Fin 16), s.pwr.core = true ∧ (s.hif.cq[n]).enable = true ∧ (s.hif.cq[n]).polls = true) ∧
    (∃ (s : State) (n : Fin 16), s.pwr.core = true ∧ (s.hif.cq[n]).enable = true ∧ (s.hif.cq[n]).polls = true) ∧
    (∃ (s : State) (n : Fin 16), s.pwr.core = true ∧ (s.hif.cq[n]).full = true) ∧
    (∃ (s : State) (n : Fin 16), s.pwr.core = true ∧ (s.hif.cq[n]).enable = true ∧ (s.hif.cq[n]).irqEn = true ∧
      0 < (s.hif.cq[n]).unsignalled) := by
  refine ⟨?_, ?_, ?_, ?_, ?_, ?_⟩
  · let n : Fin 16 := 0
    let e : Cpl := cpl0
    let r : List Cpl := []
    let s : State := mkCores s0
    let s : State := { s with hif.cq := s.hif.cq.put n { s.hif.cq[n] with enable := true, waiting := e :: r } }
    exact ⟨s, n, e, r, by decide +kernel +revert⟩
  · let n : Fin 16 := 0
    let s : State := { s0 with
      hif.cq := s0.hif.cq.put n { s0.hif.cq[n] with cons := ((s0.hif.cq[n]).tail + 1) % (s0.hif.cq[n]).size } }
    exact ⟨s, n, by decide +kernel +revert⟩
  · let n : Fin 16 := 0
    let s : State := { s0 with pwr.core := true, hif.cq := s0.hif.cq.put n { s0.hif.cq[n] with enable := true } }
    let s : State := { s with hif.cq := s.hif.cq.put n { s.hif.cq[n] with full := true } }
    exact ⟨s, n, by decide +kernel +revert⟩
  · let n : Fin 16 := 0
    let s : State := { s0 with pwr.core := true, hif.cq := s0.hif.cq.put n { s0.hif.cq[n] with enable := true } }
    let s : State := { s with hif.cq := s.hif.cq.put n { s.hif.cq[n] with full := true } }
    exact ⟨s, n, by decide +kernel +revert⟩
  · let n : Fin 16 := 0
    let s : State := { s0 with pwr.core := true, hif.cq := s0.hif.cq.put n { s0.hif.cq[n] with full := true } }
    exact ⟨s, n, by decide +kernel +revert⟩
  · let n : Fin 16 := 0
    let s : State := { s0 with pwr.core := true, hif.cq := s0.hif.cq.put n { s0.hif.cq[n] with enable := true } }
    let s : State := { s with hif.cq := s.hif.cq.put n { s.hif.cq[n] with irqEn := true, unsignalled := (0) + 1 } }
    exact ⟨s, n, by decide +kernel +revert⟩

theorem test_witness_PcieEndpoint :
    (∃ (s : State) (sp w : BitVec 3), s.pwr.core = true ∧ s.hif.hostless = false ∧ s.pwr.perstLow = false ∧
      1 ≤ sp.toNat ∧ sp.toNat ≤ 3 ∧ (w.toNat = 1 ∨ w.toNat = 2 ∨ w.toNat = 4)) ∧
    (∃ (s : State) (c : Instr), s.pwr.core = true ∧
      (c = .pcieFlr ∨ c = .pcieD3hot ∨ (c = .pcieLinkDown ∧ s.hif.linkUp = true) ∨ c = .perstNChange false)) ∧
    (∃ (s : State), s.pwr.core = true) := by
  refine ⟨?_, ?_, ?_⟩
  · let s : State := { s0 with pwr.core := true, pwr.perstLow := false }
    exact ⟨s, 1, 1, by decide +kernel +revert⟩
  · let s : State := { s0 with pwr.core := true }
    exact ⟨s, .pcieFlr, by decide +kernel +revert⟩
  · let s : State := { s0 with pwr.core := true }
    exact ⟨s, by decide +kernel +revert⟩

theorem test_witness_HedgeSafeInputs :
    (∃ (s : State) (b : Bool) (e : Envelope), s.pwr.hedge = true ∧ s.hdg.active = some e ∧ Env.safeinMode e = true ∧
      (safeCh b s).window = false ∧ (s.hdg.cause[cSafeIn]).active = false) ∧
    (∃ (s : State) (b : Bool), s.pwr.hedge = true ∧ (∀ e, s.hdg.active = some e → Env.safeinMode e = false) ∧
      (safeCh b s).window = false ∧ (safeCh (!b) s).window = false) ∧
    (∃ (s : State), s.pwr.hedge = true) ∧
    (∃ (s : State) (b : Bool) (e : Envelope), s.pwr.hedge = true ∧ s.hdg.active = some e ∧ s.hdg.selfHeld = false ∧
      Env.safeinMode e = true ∧ Env.tpEnable e = true ∧ s.hdg.test = none ∧ (safeCh b s).window = false) ∧
    (∃ (s : State) (b : Bool), s.pwr.hedge = true ∧ (safeCh b s).window = true ∧ (safeCh b s).pulseSampled = false) ∧
    (∃ (s : State) (b : Bool), s.pwr.hedge = true ∧ (safeCh b s).window = true ∧ s.hdg.test = none ∧
      (safeCh b s).pulseSampled = true ∧ (safeCh b s).pulseFailed = false ∧ (safeCh b s).level = true) ∧
    (∃ (s : State) (b : Bool) (e : Envelope), s.pwr.hedge = true ∧ s.hdg.active = some e ∧ (safeCh b s).window = true ∧
      s.hdg.test = none ∧ (safeCh b s).pulseFailed = true ∧ (safeCh b s).level = true ∧
      (s.hdg.cause[cSafeInTest]).active = false) := by
  refine ⟨?_, ?_, ?_, ?_, ?_, ?_, ?_⟩
  · let e : Envelope := .uncommissioned
    let s : State := { s0 with pwr.hedge := true, hdg.active := some e }
    exact ⟨s, false, e, by decide +kernel +revert⟩
  · let s : State := { s0 with pwr.hedge := true }
    exact ⟨s, false, by decide +kernel +revert⟩
  · let s : State := { s0 with pwr.hedge := true }
    exact ⟨s, by decide +kernel +revert⟩
  · let e : Envelope := .uncommissioned
    let s : State := { s0 with pwr.hedge := true, hdg.active := some e }
    exact ⟨s, false, e, by decide +kernel +revert⟩
  · let s : State := { s0 with pwr.hedge := true, hdg.chA.window := true }
    exact ⟨s, false, by decide +kernel +revert⟩
  · let s : State := { s0 with
      pwr.hedge := true
      hdg.chA.window := true
      hdg.chA.pulseSampled := true
      hdg.chA.level := true }
    exact ⟨s, false, by decide +kernel +revert⟩
  · let e : Envelope := .uncommissioned
    let s : State := { s0 with
      pwr.hedge := true
      hdg.chA.window := true
      hdg.chA.pulseFailed := true
      hdg.chA.level := true
      hdg.active := some e }
    exact ⟨s, false, e, by decide +kernel +revert⟩

theorem test_witness_HedgeDisconnectTests :
    (∃ (s : State) (b : Bool) (e : Envelope), s.pwr.hedge = true ∧ s.hdg.active = some e ∧ lit s = true ∧
      drivesOff s = true ∧ disconnected s = false ∧ s.hdg.selfHeld = false ∧ s.hdg.disc = none ∧ s.hdg.test = none ∧
      Env.sdPeriod e ≠ 0 ∧ (b = true → s.hdg.discMid = true)) ∧
    (∃ (s : State) (d : DiscTest), s.hdg.disc = some d ∧ d.asserted = true) ∧
    (∃ (s : State) (d : DiscTest), s.hdg.disc = some d ∧ d.asserted = true) ∧
    (∃ (s : State) (d : DiscTest), s.hdg.disc = some d ∧ d.asserted = false ∧ d.powerUp = false ∧ s.hdg.test = none ∧
      (s.hdg.cause[cOffFb]).active = false) ∧
    (∃ (s : State) (d : DiscTest), s.hdg.disc = some d ∧ d.asserted = false ∧ d.powerUp = true ∧
      (s.hdg.cause[cOffFb]).active = false) ∧
    (∃ (s : State) (e : Envelope), (s.hdg.retryA = true ∨ s.hdg.retryB = true) ∧ s.pwr.hedge = true ∧
      s.hdg.active = some e ∧ lit s = true ∧ disconnected s = false ∧ s.hdg.selfHeld = false ∧ s.hdg.disc = none ∧
      s.hdg.test = none) ∧
    (∃ (s : State) (b : Bool), s.pwr.hedge = true ∧ s.hdg.selfHeld = false ∧ s.hdg.disc = none ∧
      (if b then s.hdg.puDoneB else s.hdg.puDoneA) = false ∧ drivesOff s = true) ∧
    (∃ (s : State), s.pwr.hedge = true ∧ disconnected s = false ∧ s.hdg.disc = none) := by
  refine ⟨?_, ?_, ?_, ?_, ?_, ?_, ?_, ?_⟩
  · let e : Envelope := .block (List.replicate 27904 1)
    let s : State := { s0 with pwr.hedge := true, pwr.state := .run, yok.state := .solo, hdg.active := some e }
    exact ⟨s, false, e, by decide +kernel +revert, rfl, by decide +kernel +revert, by decide +kernel +revert,
      by decide +kernel +revert, by decide +kernel +revert, by decide +kernel +revert, by decide +kernel +revert,
      by decide +kernel +revert, nofun⟩
  · let d : DiscTest := ⟨false, false, false, false, false, false⟩
    let d : DiscTest := { d with asserted := true }
    let s : State := { s0 with hdg.disc := some d }
    exact ⟨s, d, by decide +kernel +revert⟩
  · let d : DiscTest := ⟨false, false, false, false, false, false⟩
    let d : DiscTest := { d with asserted := true }
    let s : State := { s0 with hdg.disc := some d }
    exact ⟨s, d, by decide +kernel +revert⟩
  · let d : DiscTest := ⟨false, false, false, false, false, false⟩
    let s : State := { s0 with hdg.disc := some d }
    exact ⟨s, d, by decide +kernel +revert⟩
  · let d : DiscTest := ⟨false, false, false, false, false, false⟩
    let d : DiscTest := { d with powerUp := true }
    let s : State := { s0 with hdg.disc := some d }
    exact ⟨s, d, by decide +kernel +revert⟩
  · let e : Envelope := .uncommissioned
    let s : State := { s0 with hdg.retryA := true, pwr.hedge := true, hdg.active := some e }
    exact ⟨s, e, by decide +kernel +revert⟩
  · let s : State := if drivesOff s0 then s0 else { s0 with yok.state := .solo }
    let s : State := { s with pwr.hedge := true }
    exact ⟨s, false, by decide +kernel +revert⟩
  · let s : State := { s0 with pwr.hedge := true }
    exact ⟨s, by decide +kernel +revert⟩

theorem test_witness_HedgeSelfFaultsAndCommissioning :
    (∃ (s : State) (c : Instr) (b : Fin 6), s.pwr.hedge = true ∧
      (c = .hedgeSelfFault b ∨ (∃ k, c = .hedgeCrcScan false k) ∧ hedgeUp s = true ∧
        b = 4 ∨ c = .clockDeviation 4 ∧ b = 0)) ∧
    (∃ (s : State), hedgeUp s = true ∧ s.pwr.core = true) ∧
    (∃ (s : State), hedgeUp s = true ∧ s.pwr.core = true) ∧
    (∃ (s : State), s.pwr.core = true) ∧
    (∃ (s : State), (s.pwr.state = .run ∨ s.pwr.state = .dim ∨ s.pwr.state = .lightHold)) ∧
    (∃ (s : State), s.pwr.core = true ∧ s.lpl.stall = false ∧ s.pwr.entry = none) ∧
    (∃ (s : State), s.hdg.commissionLow = false ∧ s.hdg.commNoted = false ∧ s.pwr.core = true) ∧
    (∃ (s : State), s.pwr.hedge = true) ∧
    (∃ (s : State) (b : List Byte), hostUp s = true ∧ s.hdg.commissionLow = true ∧ s.hdg.staged = some b) ∧
    (∃ (s : State) (v : Word) (b : List Byte), hostUp s = true ∧ s.hdg.commissionLow = true ∧ s.hdg.staged = some b ∧
      v ≠ s.hdg.stagedCrc) ∧
    (∃ (s : State), s.hdg.commissionLow = false) := by
  refine ⟨?_, ?_, ?_, ?_, ?_, ?_, ?_, ?_, ?_, ?_, ?_⟩
  · let b : Fin 6 := 0
    let s : State := { s0 with pwr.hedge := true }
    let c : Instr := .hedgeSelfFault b
    exact ⟨s, c, b, by decide +kernel +revert⟩
  · let s : State := { s0 with
      pwr.hedge := true
      hdg.active := some (s0.hdg.active.getD .uncommissioned)
      pwr.core := true }
    exact ⟨s, by decide +kernel +revert⟩
  · let s : State := { s0 with
      pwr.hedge := true
      hdg.active := some (s0.hdg.active.getD .uncommissioned)
      pwr.core := true }
    exact ⟨s, by decide +kernel +revert⟩
  · let s : State := { s0 with pwr.core := true }
    exact ⟨s, by decide +kernel +revert⟩
  · exact ⟨s0, by decide +kernel⟩
  · let s : State := { s0 with pwr.core := true }
    exact ⟨s, by decide +kernel +revert⟩
  · let s : State := { s0 with pwr.core := true }
    exact ⟨s, by decide +kernel +revert⟩
  · let s : State := { s0 with pwr.hedge := true }
    exact ⟨s, by decide +kernel +revert⟩
  · let b : List Byte := []
    let s : State := mkHost s0
    let s : State := { s with hdg.commissionLow := true, hdg.staged := some b }
    exact ⟨s, b, by decide +kernel +revert⟩
  · let b : List Byte := []
    let s : State := mkHost s0
    let s : State := { s with hdg.commissionLow := true, hdg.staged := some b }
    let v : Word := s.hdg.stagedCrc + 1
    exact ⟨s, v, b, by decide +kernel +revert⟩
  · exact ⟨s0, by decide +kernel⟩

theorem test_witness_RailOperation :
    (∃ (s : State) (r : Fin 8), s.pwr.analogue = true ∧ (s.rail.rail[r]).entry.used = true ∧ s.tst.job = none ∧
      s.rail.jobs = []) ∧
    (∃ (s : State) (r : Fin 8), railIn r Rail.switching s = true) ∧
    (∃ (s : State) (r : Fin 8), railIn r (fun x => x.state == .softStart) s = true ∧
      (s.rail.rail[r]).target = (s.rail.rail[r]).vSet ∧ (s.rail.rail[r]).inBand = true ∧ drivesOff s = true ∧
      disconnected s = false ∧ (s.rail.rail[r]).entry.linkPrev = false) ∧
    (∃ (s : State) (r : Fin 8), railIn r (fun x => x.state == .softStop) s = true) ∧
    (∃ (s : State) (r : Fin 8) (q : RailSeq), s.rail.seqs = [q] ∧ seqReady q r s = true ∧ q.start = false ∧
      drivesOff s = true ∧ disconnected s = false) ∧
    (∃ (s : State) (r : Fin 8) (q : RailSeq), s.rail.seqs = [q] ∧ seqReady q r s = true ∧ q.start = true ∧
      drivesOff s = true ∧ disconnected s = false ∧ (s.rail.rail[r]).en = true ∧ (s.rail.rail[r]).entry.used = true ∧
      (s.rail.rail[r]).entry.linkPrev = false ∧ s.rail.allowed = true ∧ s.pwr.analogue = true ∧ s.pwr.entry = none) ∧
    (∃ (s : State) (r : Fin 8), railIn r (fun x => x.state == .regulate) s = true) := by
  refine ⟨?_, ?_, ?_, ?_, ?_, ?_, ?_⟩
  · let r : Fin 8 := 0
    let s : State := { s0 with
      pwr.analogue := true
      rail.rail := s0.rail.rail.put r { s0.rail.rail[r] with
        entry := { (s0.rail.rail)[r].entry with used := true } } }
    exact ⟨s, r, by decide +kernel +revert⟩
  · let r : Fin 8 := 0
    let s : State := { s0 with
      pwr.analogue := true
      rail.rail := s0.rail.rail.put r { s0.rail.rail[r] with
        entry := { s0.rail.rail[r].entry with used := true }
        state := .regulate
        limit := true } }
    exact ⟨s, r, by decide +kernel +revert⟩
  · let r : Fin 8 := 0
    let s : State := { s0 with
      pwr.analogue := true
      rail.rail := s0.rail.rail.put r { s0.rail.rail[r] with
        entry := { s0.rail.rail[r].entry with used := true }
        state := .softStart
        limit := true } }
    let s : State := if drivesOff s then s else { s with yok.state := .solo }
    exact ⟨s, r, by decide +kernel +revert⟩
  · let r : Fin 8 := 0
    let s : State := { s0 with
      pwr.analogue := true
      rail.rail := s0.rail.rail.put r { s0.rail.rail[r] with
        entry := { s0.rail.rail[r].entry with used := true }
        state := .softStop
        limit := true } }
    exact ⟨s, r, by decide +kernel +revert⟩
  · let r : Fin 8 := 0
    let q : RailSeq := ⟨0, true⟩
    let q : RailSeq := { q with named := q.named ||| BitVec.ofNat 8 (2 ^ r.val) }
    let q : RailSeq := { q with start := false }
    let s : State := if drivesOff s0 then s0 else { s0 with yok.state := .solo }
    let s : State := { s with
      rail.seqs := [q]
      rail.rail := s.rail.rail.mapI fun k x => if k = r then { x with
        state := .regulate } else { x with state := .off } }
    exact ⟨s, r, q, by decide +kernel +revert⟩
  · let r : Fin 8 := 0
    let q : RailSeq := ⟨0, true⟩
    let q : RailSeq := { q with named := q.named ||| BitVec.ofNat 8 (2 ^ r.val) }
    let s : State := if drivesOff s0 then s0 else { s0 with yok.state := .solo }
    let s : State := { s with rail.seqs := [q], rail.rail := s.rail.rail.put r { s.rail.rail[r] with en := true } }
    let s : State := { s with
      rail.rail := s.rail.rail.put r { s.rail.rail[r] with entry := { (s.rail.rail)[r].entry with used := true } }
      rail.allowed := true
      pwr.analogue := true }
    let s : State := { s with
      rail.rail := s.rail.rail.mapI fun k x => if k = r then { x with
        state := .waitSeq
        turn := false } else { x with state := .regulate } }
    exact ⟨s, r, q, by decide +kernel +revert⟩
  · let r : Fin 8 := 0
    let s : State := { s0 with
      pwr.analogue := true
      rail.rail := s0.rail.rail.put r { s0.rail.rail[r] with
        entry := { s0.rail.rail[r].entry with used := true }
        state := .regulate
        limit := true } }
    exact ⟨s, r, by decide +kernel +revert⟩

theorem test_witness_RailFaultsAndAnalogueDomain :
    (∃ (s : State) (r : Fin 8) (c : Instr) (code : Nat),
      ((c = .railShortFault r ∧ code = 1) ∨ (c = .railOvervoltageFault r ∧ code = 2) ∨ (c = .railSenseFault r ∧
        code = 3)) ∧ railIn r Rail.switching s = true ∧ drivesOff s = true ∧ s.rail.jobs = [] ∧ s.tst.job = none ∧
      s.pwr.core = true ∧ s.pwr.entry = none ∧ (s.rail.rail[r]).cycleFault = none) ∧
    (∃ (s : State) (r : Fin 8) (c : Instr) (code : Nat),
      ((c = .railOvercurrentTimeout r ∧ code = 4 ∧
        railIn r (fun x => x.switching && x.limit) s = true) ∨ (c = .railUndervoltageTimeout r ∧ code = 5 ∧
          railIn r (fun x => x.state == .regulate) s = true ∧
            underBlanked r s = false) ∨ (c = .railSoftStartTimeout r ∧ code = 6 ∧
              railIn r (fun x => x.state == .softStart) s = true)) ∧ drivesOff s = true ∧ s.rail.jobs = [] ∧
      s.tst.job = none ∧ s.pwr.core = true ∧ s.pwr.entry = none ∧ (s.rail.rail[r]).cycleFault = none) ∧
    (∃ (s : State) (r : Fin 8), underBlanked r s = true) ∧
    (∃ (s : State) (r : Fin 8), railIn r (fun x => x.state == .faultWait) s = true ∧ (s.rail.rail[r]).en = true ∧
      s.rail.allowed = true ∧ s.pwr.entry = none ∧ drivesOff s = true ∧ disconnected s = false ∧
      (s.rail.rail[r]).entry.linkPrev = false ∧ s.rail.jobs = [] ∧ s.tst.job = none) ∧
    (∃ (s : State), s.pwr.core = true) ∧
    (∃ (s : State), s.pwr.core = true ∧ s.pwr.bridge = true) ∧
    (∃ (s : State), s.pwr.core = true ∧ s.pwr.bridge = false) ∧
    (∃ (s : State) (x : Start), s.pwr.start = some x ∧ s.pwr.analogue = false) := by
  refine ⟨?_, ?_, ?_, ?_, ?_, ?_, ?_, ?_⟩
  · let r : Fin 8 := 0
    let s : State := { s0 with
      pwr.analogue := true
      rail.rail := s0.rail.rail.put r { s0.rail.rail[r] with
        entry := { s0.rail.rail[r].entry with used := true }
        state := .regulate
        limit := true } }
    let s : State := if drivesOff s then s else { s with yok.state := .solo }
    let s : State := { s with pwr.core := true }
    let c : Instr := .railShortFault r
    exact ⟨s, r, c, 1, by decide +kernel +revert⟩
  · let r : Fin 8 := 0
    let s : State := { s0 with
      pwr.analogue := true
      rail.rail := s0.rail.rail.put r { s0.rail.rail[r] with
        entry := { s0.rail.rail[r].entry with used := true }
        state := .regulate
        limit := true } }
    let s : State := if drivesOff s then s else { s with yok.state := .solo }
    let s : State := { s with pwr.core := true }
    let c : Instr := .railOvercurrentTimeout r
    exact ⟨s, r, c, 4, by decide +kernel +revert⟩
  · let s : State := { s0 with hdg.swA.awaitHigh := true }
    exact ⟨s, 0, by decide +kernel +revert⟩
  · let r : Fin 8 := 0
    let s : State := { s0 with
      pwr.analogue := true
      rail.rail := s0.rail.rail.put r { s0.rail.rail[r] with
        entry := { s0.rail.rail[r].entry with used := true }
        state := .faultWait
        limit := true } }
    let s : State := if drivesOff s then s else { s with yok.state := .solo }
    let s : State := { s with
      rail.rail := s.rail.rail.put r { s.rail.rail[r] with en := true }
      rail.allowed := true }
    exact ⟨s, r, by decide +kernel +revert⟩
  · let s : State := { s0 with pwr.core := true }
    exact ⟨s, by decide +kernel +revert⟩
  · let s : State := { s0 with pwr.core := true }
    exact ⟨s, by decide +kernel +revert⟩
  · let s : State := { s0 with pwr.core := true, pwr.bridge := false }
    exact ⟨s, by decide +kernel +revert⟩
  · exact ⟨s0, Start.begin .por 0, by decide +kernel⟩

theorem test_witness_LaneBringUp :
    (∃ (s : State) (n : Fin 25), (laneAt n s).state = .detect) ∧
    (∃ (s : State) (n : Fin 25), (laneAt n s).state = .commaLock) ∧
    (∃ (s : State) (n : Fin 25), (laneAt n s).state = .polarity ∧ n ≠ 24) ∧
    (∃ (s : State) (n : Fin 24), (s.link.lane[n]).state = .reversal) ∧
    (∃ (s : State) (n : Fin 25) (ident : Byte), (laneAt n s).state = .polarity ∧ (ident = 0xB5 ∨ ident = 0xBA) ∧
      (laneAt n s).rxInvert = false) ∧
    (∃ (s : State) (n : Fin 25),
      ((laneAt n s).state = .commaLock ∨ (laneAt n s).state = .polarity ∨ (laneAt n s).state = .reversal) ∧
      (laneAt n s).attempts < 2) ∧
    (∃ (s : State) (n : Fin 25), (laneAt n s).state = .polarity ∧ 2 ≤ (laneAt n s).attempts ∧ n ≠ 24) ∧
    (∃ (s : State) (n : Fin 25), (laneAt n s).state = .check ∧ (laneAt n s).checkFails = 0) ∧
    (∃ (s : State) (n : Fin 25), (laneAt n s).state = .down ∧ laneHeld n s = false) ∧
    (∃ (s : State) (r : Fin 8) (n : Fin 25), (s.rail.rail[r]).en = true ∧ (s.rail.rail[r]).inBand = true ∧
      (laneAt n s).state = .down ∧ (laneAt n s).reason = .noPartner ∧ laneHeld n s = false ∧ n ≠ 24 ∧
      s.rail.map.at' (4 * n.val) 15 = r.val) := by
  refine ⟨?_, ?_, ?_, ?_, ?_, ?_, ?_, ?_, ?_, ?_⟩
  · let s : State := { s0 with link.lane := s0.link.lane.put 0 { s0.link.lane[0] with state := .detect } }
    exact ⟨s, 0, by decide +kernel +revert⟩
  · let s : State := { s0 with link.lane := s0.link.lane.put 0 { s0.link.lane[0] with state := .commaLock } }
    exact ⟨s, 0, by decide +kernel +revert⟩
  · let s : State := { s0 with link.lane := s0.link.lane.put 0 { s0.link.lane[0] with state := .polarity } }
    exact ⟨s, 0, by decide +kernel +revert⟩
  · let n : Fin 24 := 0
    let s : State := { s0 with link.lane := s0.link.lane.put n { s0.link.lane[n] with state := .reversal } }
    exact ⟨s, n, by decide +kernel +revert⟩
  · let s : State := { s0 with link.lane := s0.link.lane.put 0 { s0.link.lane[0] with state := .polarity } }
    exact ⟨s, 0, 0xB5, by decide +kernel +revert⟩
  · let s : State := { s0 with link.lane := s0.link.lane.put 0 { s0.link.lane[0] with state := .commaLock } }
    exact ⟨s, 0, by decide +kernel +revert⟩
  · let s : State := { s0 with
      link.lane := s0.link.lane.put 0 { s0.link.lane[0] with state := .polarity, attempts := (2) } }
    exact ⟨s, 0, by decide +kernel +revert⟩
  · let s : State := { s0 with link.lane := s0.link.lane.put 0 { s0.link.lane[0] with state := .check } }
    exact ⟨s, 0, by decide +kernel +revert⟩
  · let s : State := { s0 with link.lane := s0.link.lane.put 0 { s0.link.lane[0] with state := .down } }
    exact ⟨s, 0, by decide +kernel +revert⟩
  · let r : Fin 8 := 0
    let n : Fin 25 := 0
    let s : State := { s0 with
      rail.rail := s0.rail.rail.put r { s0.rail.rail[r] with en := true }
      link.lane := s0.link.lane.put 0 { s0.link.lane[0] with state := .down } }
    let s : State := { s with
      link.lane := s.link.lane.put 0 { s.link.lane[0] with reason := .noPartner }
      rail.map := (s.rail.map.set! (4 * n.val) r.val) }
    exact ⟨s, r, n, by decide +kernel +revert⟩

theorem test_witness_LaneEnumeration :
    (∃ (s : State) (n : Fin 24) (k : Nat), (s.link.lane[n]).asking = some k ∧
      ctlNow (Fin.castSucc n) (LanePkt.rdq 7 0x000C (s.link.lane[n]).ctlSeq).length s = true ∧
      (s.link.lane[n]).state ≠ .off ∧ (s.link.lane[n]).state ≠ .down) ∧
    (∃ (s : State) (n : Fin 24), ctlWaits (Fin.castSucc n) s = true) ∧
    (∃ (s : State) (n : Fin 24) (k : Nat), (s.link.lane[n]).asking = some k ∧ (s.link.lane[n]).state = .enumerate) ∧
    (∃ (s : State) (n : Fin 24) (k : Nat), (s.link.lane[n]).asking = some k ∧ (s.link.lane[n]).state ≠ .enumerate) ∧
    (∃ (s : State) (n : Fin 24), (s.link.lane[n]).state = .check ∧ (s.link.lane[n]).patternDone = false ∧
      (s.link.lane[n]).chainLen ≤ 4) ∧
    (∃ (s : State) (n : Fin 24), (s.link.lane[n]).state = .check ∧ (s.link.lane[n]).patternDone = true ∧
      0 < (s.link.lane[n]).chainLen ∧ (s.link.lane[n]).reported.getLsbD 0 = false) ∧
    (∃ (s : State) (n : Fin 24) (k : Nat), (s.link.lane[n]).state = .check ∧ (s.link.lane[n]).patternDone = true ∧
      0 < k ∧ k < (s.link.lane[n]).chainLen ∧ (∀ j : Nat, j < k → (s.link.lane[n]).reported.getLsbD j = true) ∧
      (s.link.lane[n]).reported.getLsbD k = false ∧ (s.link.lane[n]).checkBad = false) ∧
    (∃ (s : State) (n : Fin 24) (q : CtlReq), (s.link.lane[n]).requests.find? (fun x => x.sent) = some q ∧
      q.repeats < 3 ∧ ctlNow (Fin.castSucc n) q.packet.length s = true ∧ (s.link.lane[n]).state ≠ .off ∧
      (s.link.lane[n]).state ≠ .down) ∧
    (∃ (s : State) (n : Fin 24) (q : CtlReq), (s.link.lane[n]).requests.find? (fun x => x.sent) = some q ∧
      q.repeats < 3 ∧ ctlNow (Fin.castSucc n) q.packet.length s = false) ∧
    (∃ (s : State) (n : Fin 24) (q : CtlReq), (s.link.lane[n]).requests.find? (fun x => x.sent) = some q ∧
      3 ≤ q.repeats ∧ s.pwr.core = true ∧ (q.addr ≠ 0x0020 ∨ q.write = false)) ∧
    (∃ (s : State) (n : Fin 25) (x : Loop), (laneAt n s).state = .loopback ∧ (laneAt n s).loop = some x) := by
  refine ⟨?_, ?_, ?_, ?_, ?_, ?_, ?_, ?_, ?_, ?_, ?_⟩
  · let n : Fin 24 := 0
    let k : Nat := 0
    let s : State := { s0 with
      link.lane := s0.link.lane.put n { s0.link.lane[n] with state := .detect, asking := some k } }
    exact ⟨s, n, k, by decide +kernel +revert⟩
  · let n : Fin 24 := 0
    let s : State := { s0 with
      lpl.scanning := true
      link.lane := s0.link.lane.put n { s0.link.lane[n] with state := .ready } }
    exact ⟨s, n, by decide +kernel +revert⟩
  · let n : Fin 24 := 0
    let k : Nat := 0
    let s : State := { s0 with
      link.lane := s0.link.lane.put n { s0.link.lane[n] with asking := some k, state := .enumerate } }
    exact ⟨s, n, k, by decide +kernel +revert⟩
  · let n : Fin 24 := 0
    let k : Nat := 0
    let s : State := { s0 with link.lane := s0.link.lane.put n { s0.link.lane[n] with asking := some k } }
    exact ⟨s, n, k, by decide +kernel +revert⟩
  · let n : Fin 24 := 0
    let s : State := { s0 with link.lane := s0.link.lane.put n { s0.link.lane[n] with state := .check } }
    exact ⟨s, n, by decide +kernel +revert⟩
  · let n : Fin 24 := 0
    let s : State := { s0 with
      link.lane := s0.link.lane.put n { s0.link.lane[n] with
        state := .check
        patternDone := true
        chainLen := (0) + 1 } }
    exact ⟨s, n, by decide +kernel +revert⟩
  · let n : Fin 24 := 0
    let s : State := { s0 with
      link.lane := s0.link.lane.put n { s0.link.lane[n] with
        state := .check
        patternDone := true
        chainLen := 4
        reported := 3
        checkBad := false } }
    exact ⟨s, n, 2, by decide +kernel +revert⟩
  · let n : Fin 24 := 0
    let q : CtlReq := ⟨0, false, 0, 0, 0, 0, 0, true⟩
    let s : State := { s0 with
      lpl.scanning := false
      pwr.core := true
      link.lane := s0.link.lane.put n { s0.link.lane[n] with state := .check, requests := [q] } }
    exact ⟨s, n, q, by decide +kernel +revert⟩
  · let n : Fin 24 := 0
    let q : CtlReq := ⟨0, false, 0, 0, 0, 0, 0, true⟩
    let s : State := { s0 with
      lpl.scanning := true
      pwr.core := true
      link.lane := s0.link.lane.put n { s0.link.lane[n] with state := .ready, requests := [q] } }
    exact ⟨s, n, q, by decide +kernel +revert⟩
  · let n : Fin 24 := 0
    let q : CtlReq := ⟨0, false, 0, 0, 0, 0, 3, true⟩
    let s : State := { s0 with
      lpl.scanning := false
      pwr.core := true
      link.lane := s0.link.lane.put n { s0.link.lane[n] with state := .ready, requests := [q] } }
    exact ⟨s, n, q, by decide +kernel +revert⟩
  · let x : Loop := ⟨1, 0, 0, false⟩
    let s : State := { s0 with
      link.lane := s0.link.lane.put 0 { s0.link.lane[0] with state := .loopback, loop := some x } }
    exact ⟨s, 0, x, by decide +kernel +revert⟩

theorem test_witness_LaneRetrains :
    (∃ (s : State) (n : Fin 25) (c : Instr) (k : Nat), (laneAt n s).state = .ready ∧
      (c = .laneLossOfSignal n ∧ k = 1 ∨ c = .laneNewAlignment n ∧
        k = 3 ∨ ∃ e : CodeErrors, c = .laneErrorBurst n e ∧ 4 ≤ e.violations ∧ k = 2)) ∧
    (∃ (s : State) (n : Fin 25), rxRuns n s = true) ∧
    (∃ (s : State) (n : Fin 24), (s.link.lane[n]).state ≠ .ready ∧ (s.link.lane[n]).state ≠ .off ∧
      laneHeld (Fin.castSucc n) s = false ∧ (s.link.lane[n]).loop = none ∧ s.yok.cover.getLsbD n.val = false ∧
      (s.link.lane[n]).tx.skp = 0) ∧
    (∃ (s : State) (k : Fin 96), (laneAt (slotOf k).1 s).state = .ready ∧
      (laneAt (slotOf k).1 s).assigned.getLsbD (slotOf k).2 = true ∧
      (laneAt (slotOf k).1 s).included.getLsbD (slotOf k).2 = false) ∧
    (∃ (s : State) (k : Fin 96), (laneAt (slotOf k).1 s).state = .ready ∧
      (laneAt (slotOf k).1 s).assigned.getLsbD (slotOf k).2 = true) := by
  refine ⟨?_, ?_, ?_, ?_, ?_⟩
  · let n : Fin 25 := 0
    let c : Instr := .laneLossOfSignal n
    let s : State := { s0 with link.lane := s0.link.lane.put 0 { s0.link.lane[0] with state := .ready } }
    exact ⟨s, n, c, 1, by decide +kernel +revert, .inl ⟨rfl, rfl⟩⟩
  · let s : State := { s0 with link.lane := s0.link.lane.put 0 { s0.link.lane[0] with state := .ready } }
    exact ⟨s, 0, by decide +kernel +revert⟩
  · let n : Fin 24 := 0
    let s : State := { s0 with link.lane := s0.link.lane.put n { s0.link.lane[n] with state := .detect } }
    exact ⟨s, n, by decide +kernel +revert⟩
  · let s : State := { s0 with
      link.lane := s0.link.lane.put 0 { s0.link.lane[0] with state := .ready, assigned := 1, included := 0 } }
    exact ⟨s, 0, by decide +kernel +revert⟩
  · let s : State := { s0 with
      link.lane := s0.link.lane.put 0 { s0.link.lane[0] with state := .ready, assigned := 1, included := 0 } }
    exact ⟨s, 0, by decide +kernel +revert⟩

theorem test_witness_LanePackets :
    (∃ (s : State) (n : Fin 24) (b : List Byte) (eop : Bool) (y : BitVec 128) (c : Instr), receives n s = true ∧
      parsePkt b eop = none ∧
      (c = .rdrReceived n b eop ∨ c = .nakReceived n b eop ∨ c = .telStatusReceived n b eop ∨ c = .telPixelReceived n
        b eop y)) ∧
    (∃ (s : State) (n : Fin 24) (b : List Byte) (p : UpPkt), receives n s = true ∧ parsePkt b true = some p ∧
      p.kind = 10) ∧
    (∃ (s : State) (n : Fin 24) (b : List Byte) (p : UpPkt), receives n s = true ∧ parsePkt b true = some p ∧
      p.kind = 8 ∧ p.sub = 0 ∧ p.slot < 4) ∧
    (∃ (s : State) (n : Fin 24) (b : List Byte) (p : UpPkt) (q : CtlReq), receives n s = true ∧
      parsePkt b true = some p ∧ p.kind = 9 ∧ p.addr ≠ 0x000C ∧ (s.link.lane[n]).requests = [q] ∧ q.sent = true ∧
      q.seq.toNat = p.seq ∧ q.addr = p.addr ∧ q.addr ≠ 0x0010 ∧ q.addr ≠ 0x0020) ∧
    (∃ (s : State) (n : Fin 24) (b : List Byte) (p : UpPkt), receives n s = true ∧ parsePkt b true = some p ∧
      p.kind = 8 ∧ p.sub = 1 ∧ p.slot < 4 ∧ p.arg ≤ 95 ∧ (s.lpl.map[entryNo n p.slot]).present = true ∧
      slotIncluded (entryNo n p.slot).val s = true) ∧
    (∃ (r : PixelRec), r.state = 3) ∧
    (∃ (s : State) (n : Fin 24) (b : List Byte) (p : UpPkt), receives n s = true ∧ parsePkt b true = some p ∧
      p.kind = 8 ∧ p.sub = 1 ∧
      (p.slot ≥ 4 ∨ p.arg > 95 ∨ (s.lpl.map[entryNo n p.slot]).present = false ∨ slotIncluded (entryNo n p.slot).val
        s = false)) ∧
    (∃ (a lo hi chk : Byte), chk ≠ a ^^^ lo ^^^ hi) ∧
    (∃ (s : State) (n : Fin 24) (a : Byte), receives n s = true ∧ field a 0 3 < 4 ∧ bitOf a 3 = false) ∧
    (∃ (s : State) (n : Fin 24) (p q : ScanPos) (f : Frame), lanesSend s = true ∧ s.lpl.scanning = true ∧
      (s.link.lane[n]).state = .ready ∧ s.lpl.pos[n] = some p ∧ s.lpl.buf[s.lpl.scan] = some f ∧
      nextPix (fun k => s.lpl.served[entryNo n k]) p = some q ∧ s.tst.job = none) := by
  refine ⟨?_, ?_, ?_, ?_, ?_, ?_, ?_, ?_, ?_, ?_⟩
  · let n : Fin 24 := 0
    let b : List Byte := []
    let eop : Bool := false
    let s : State := { s0 with
      pwr.core := true
      link.lane := s0.link.lane.put n { s0.link.lane[n] with state := .ready } }
    let c : Instr := .rdrReceived n b eop
    exact ⟨s, n, b, eop, 0, c, by decide +kernel +revert⟩
  · let n : Fin 24 := 0
    let b : List Byte := mkPkt 10 2 3 77 0x123 5
    let s : State := { s0 with
      pwr.core := true
      link.lane := s0.link.lane.put n { s0.link.lane[n] with state := .ready } }
    let p : UpPkt := (parsePkt b true).getD ⟨0, 0, 0, 0, 0, 0, []⟩
    exact ⟨s, n, b, p, by decide +kernel +revert⟩
  · let n : Fin 24 := 0
    let b : List Byte := mkPkt 8 3 0 77 0x123 5
    let s : State := { s0 with
      pwr.core := true
      link.lane := s0.link.lane.put n { s0.link.lane[n] with state := .ready } }
    let p : UpPkt := (parsePkt b true).getD ⟨0, 0, 0, 0, 0, 0, []⟩
    exact ⟨s, n, b, p, by decide +kernel +revert⟩
  · let n : Fin 24 := 0
    let q : CtlReq := ⟨0, false, 0, 0, 0, 0, 0, true⟩
    let b : List Byte := mkPkt 9 2 0 77 0x123 5
    let s : State := { s0 with
      pwr.core := true
      link.lane := s0.link.lane.put n { s0.link.lane[n] with state := .ready } }
    let p : UpPkt := (parsePkt b true).getD ⟨0, 0, 0, 0, 0, 0, []⟩
    let q : CtlReq := { q with seq := 77, addr := 0x123 }
    let s : State := { s with link.lane := s.link.lane.put n { s.link.lane[n] with requests := [q] } }
    exact ⟨s, n, b, p, q, by decide +kernel +revert⟩
  · let n : Fin 24 := 0
    let b : List Byte := mkPkt 8 3 1 77 0x123 95
    let p : UpPkt := (parsePkt b true).getD ⟨0, 0, 0, 0, 0, 0, []⟩
    let s : State := { s0 with
      pwr.core := true
      link.lane := s0.link.lane.put n { s0.link.lane[n] with state := .ready } }
    let k := entryNo n p.slot
    let s : State := { s with
      lpl.map := s.lpl.map.put k { s.lpl.map[k] with present := true }
      link.lane := s.link.lane.put n { s.link.lane[n] with state := .ready, included := 0xF } }
    exact ⟨s, n, b, p, by decide +kernel +revert⟩
  · let r : PixelRec := ⟨0, 0⟩
    let r : PixelRec := { r with state := 3 }
    exact ⟨r, by decide +kernel +revert⟩
  · let n : Fin 24 := 0
    let b : List Byte := mkPkt 8 6 1 77 0x123 5
    let s : State := { s0 with
      pwr.core := true
      link.lane := s0.link.lane.put n { s0.link.lane[n] with state := .ready } }
    let p : UpPkt := (parsePkt b true).getD ⟨0, 0, 0, 0, 0, 0, []⟩
    exact ⟨s, n, b, p, by decide +kernel +revert⟩
  · exact ⟨0, 0, 0, 1, by decide +kernel⟩
  · let n : Fin 24 := 0
    let s : State := { s0 with
      pwr.core := true
      link.lane := s0.link.lane.put n { s0.link.lane[n] with state := .ready } }
    exact ⟨s, n, 0, by decide +kernel +revert⟩
  · let n : Fin 24 := 0
    let p : ScanPos := ⟨0, 0⟩
    let f : Frame := { frame0 with view := Tab.all 9 none }
    let s : State := { s0 with
      pwr.core := true
      hdg.heartbeat := true
      thm.shutdown := false
      lpl.stall := false
      yok.state := .solo
      lpl.scanning := true
      link.lane := s0.link.lane.put n { s0.link.lane[n] with state := .ready }
      lpl.pos := Tab.put (s0.lpl.pos) (n) (some p)
      lpl.buf := Tab.put (s0.lpl.buf) (s0.lpl.scan) (some f)
      hdg.active := some (.block (List.replicate 27904 0))
      lpl.served := s0.lpl.served.map' fun _ => true }
    exact ⟨s, n, p, ⟨0, 0⟩, f, by decide +kernel +revert⟩

theorem test_witness_CounterClears :
    (∃ (s : State) (c : Instr) (base stride count : Nat) (z : Zone), hostUp s = true ∧
      (c, base, stride, count, z) ∈ [(Instr.hifCntClearDrop, 0x000044, 0, 1, Zone.hif), (.hifCntClearDenied,
        0x000040, 0, 1, .hif), (.dmaCntClearStarve, 0x021008, 0, 1, .dma), (.hdgCntClearCount, 0x07003C, 0, 1,
          .hdg), (.lplCntClearSync, 0x080040, 0, 1, .lpl), (.pxhCntClearEvents, 0x0B0028, 0, 1, .pxh),
            (.pwrCntClearCount, 0x0D001C, 0, 1, .pwr), (.thmCntClearCount, 0x0E001C, 0, 1, .thm),
              (.yokCntClearCount, 0x10000C, 0, 1, .yok), (.belCntClearCount, 0x110054, 0, 1, .bel),
                (.tstCntClearCount, 0x150004, 0, 1, .tst), (.geoCntClearOverstep, 0x050008, 0x40, 8, .cmp),
                  (.xlpCntClearEvents, 0x090008, 0x20, 24, .link), (.xlpCntClearErr, 0x090004, 0x20, 24, .link),
                    (.xlkCntClearCtl, 0x0A000C, 0x20, 24, .link), (.xlkCntClearLat, 0x0A0008, 0x20, 24, .link),
                      (.xlkCntClearCnt, 0x0A0004, 0x20, 24, .link), (.railCntClearFaults, 0x0C0024, 0x40, 8, .rail),
                        (.ethCntClearPtp, 0x120030, 0x100, 2, .eth), (.ethCntClearTx, 0x12002C, 0x100, 2, .eth),
                          (.ethCntClearRx, 0x120028, 0x100, 2, .eth)]) ∧
    (∃ (s : State), hostUp s = true) ∧
    (∃ (s : State), hostUp s = true) ∧
    (∃ (s : State), hostUp s = true) ∧
    (∃ (s : State), hostUp s = true) ∧
    (∃ (s : State) (c : Instr) (l : Lamp), hostUp s = true ∧
      (c, l) ∈ [(Instr.lplCntClearTe, { s.lpl with
        teMisses := 0 }), (.lplCntClearLate, { s.lpl with
          lateLaunches := 0 }), (.lplCntClearRepeats, { s.lpl with repeats := 0 })]) ∧
    (∃ (s : State), hostUp s = true) ∧
    (∃ (s : State), hostUp s = true) := by
  refine ⟨?_, ?_, ?_, ?_, ?_, ?_, ?_, ?_⟩
  · let s : State := mkHost s0
    exact ⟨s, Instr.hifCntClearDrop, 0x000044, 0, 1, Zone.hif, by decide +kernel +revert⟩
  · let s : State := mkHost s0
    exact ⟨s, by decide +kernel +revert⟩
  · let s : State := mkHost s0
    exact ⟨s, by decide +kernel +revert⟩
  · let s : State := mkHost s0
    exact ⟨s, by decide +kernel +revert⟩
  · let s : State := mkHost s0
    exact ⟨s, by decide +kernel +revert⟩
  · exact ⟨mkHost s0, .lplCntClearTe, _, by decide +kernel, List.mem_cons_self⟩
  · let s : State := mkHost s0
    exact ⟨s, by decide +kernel +revert⟩
  · let s : State := mkHost s0
    exact ⟨s, by decide +kernel +revert⟩

theorem test_witness_RegisterAccess :
    (∃ (s : State) (off : BitVec 22), hostUp s = true ∧ regRead off.toNat s = none ∧ regRead64 off.toNat s = none ∧
      regRead64 (off.toNat - 4) s = none) ∧
    (∃ (s : State) (off : BitVec 22), hostUp s = true ∧ regRead off.toNat s = none ∧ regRead64 off.toNat s = none ∧
      regRead64 (off.toNat - 4) s = none) ∧
    (∃ (s : State), hostUp s = true) ∧
    (∃ (s : State), hostUp s = true) ∧
    (∃ (s : State) (off : BitVec 22) (v : Nat), hostUp s = true ∧ regRead64 off.toNat s = some v) ∧
    (∃ (s : State) (off : BitVec 22) (v : Nat), hostUp s = true ∧ 4 ≤ off.toNat ∧ regRead64 (off.toNat - 4) s = some v) ∧
    (∃ (s : State) (off : BitVec 22), hostUp s = true ∧ (regRead64 off.toNat s).isSome = true) ∧
    (∃ (s : State) (n : Fin 16), hostUp s = true ∧ s.hif.ringLock = false ∧ (s.hif.sq[n]).enable = false) := by
  refine ⟨?_, ?_, ?_, ?_, ?_, ?_, ?_, ?_⟩
  · let s : State := mkHost s0
    exact ⟨s, 0x3FFFF0, by decide +kernel +revert⟩
  · let s : State := mkHost s0
    exact ⟨s, 0x3FFFF0, by decide +kernel +revert⟩
  · let s : State := mkHost s0
    exact ⟨s, by decide +kernel +revert⟩
  · let s : State := mkHost s0
    exact ⟨s, by decide +kernel +revert⟩
  · let s : State := mkHost s0
    exact ⟨s, 0x110010, 0, by decide +kernel +revert⟩
  · let s : State := mkHost s0
    exact ⟨s, 0x110014, 0, by decide +kernel +revert⟩
  · let s : State := mkHost s0
    exact ⟨s, 0x010000, by decide +kernel +revert⟩
  · let s : State := mkHost s0
    exact ⟨s, 0, by decide +kernel +revert⟩

theorem test_witness_Resets :
    (∃ (s : State) (c : Instr), supplied s = true ∧
      (c = .sysReset ∨ c = .testenChange true ∨ (∃ i, c = .jtagInstructionUpdate i ∧
        (i = .extest ∨ i = .clamp ∨ i = .highz) ∧ s.hdg.commissionLow = true) ∨ (c = .pgCoreLoss ∧ s.pwr.core = true))) ∧
    (∃ (s : State) (st : Start), s.pwr.start = some st ∧ st.kind = .sys ∧ st.pgCore = true ∧ st.waiting = false ∧
      s.pwr.testen = false ∧ scanHolds s = false) ∧
    (∃ (s : State), s.pwr.rstLow = true) ∧
    (∃ (s : State) (i : JtagInstr), (i = .bypass ∨ i = .idcode ∨ i = .samplePreload) ∧ scanHolds s = false) ∧
    (∃ (s : State) (i : JtagInstr), (i = .extest ∨ i = .clamp ∨ i = .highz) ∧ s.hdg.commissionLow = false) ∧
    (∃ (s : State), s.pwr.state = .sleep ∧ s.grn.retention = true) := by
  refine ⟨?_, ?_, ?_, ?_, ?_, ?_⟩
  · let s : State := { s0 with pwr.state := .run }
    exact ⟨s, .sysReset, by decide +kernel +revert, .inl rfl⟩
  · let st : Start := Start.begin .por 0
    let st : Start := { st with kind := .sys }
    let st : Start := { st with pgCore := true }
    let s : State := { s0 with pwr.start := some st }
    exact ⟨s, st, by decide +kernel +revert⟩
  · let s : State := { s0 with pwr.rstLow := true }
    exact ⟨s, by decide +kernel +revert⟩
  · exact ⟨s0, .bypass, by decide +kernel⟩
  · exact ⟨s0, .extest, by decide +kernel⟩
  · let s : State := { s0 with pwr.state := .sleep, grn.retention := true }
    exact ⟨s, by decide +kernel +revert⟩

theorem test_witness_LightHold :
    (∃ (s : State) (c : Instr) (k : Nat), mayHold s = true ∧
      ((c = .coreReset ∧ k = 0) ∨ (c = .lockstepMismatch ∧ k = 1) ∨ (c = .watchdogExpiry ∧ k = 2))) ∧
    (∃ (s : State), s.pwr.core = true ∧ s.pwr.state = .lightHold ∧ s.pwr.cores.up = false ∧ s.pwr.cores.stuck = false ∧
      s.running = [] ∧ s.mgt.late = none ∧ s.eth.syncLate = false ∧ (s.eth.port[0]).queue = [] ∧
      (s.eth.port[1]).queue = [] ∧ s.pwr.start = none ∧ s.pwr.entry = none) ∧
    (∃ (s : State), s.pwr.core = true ∧ s.pwr.state = .lightHold ∧ s.pwr.cores.up = false ∧ s.pwr.cores.stuck = false) := by
  refine ⟨?_, ?_, ?_⟩
  · let s : State := { s0 with pwr.core := true, pwr.cores.up := true, pwr.entry := none, pwr.state := .run }
    exact ⟨s, .coreReset, 0, by decide +kernel +revert⟩
  · let s : State := { s0 with pwr.core := true, pwr.state := .lightHold, pwr.start := none }
    exact ⟨s, by decide +kernel +revert⟩
  · let s : State := { s0 with pwr.core := true, pwr.state := .lightHold }
    exact ⟨s, by decide +kernel +revert⟩

theorem test_witness_SceneCommands :
    (∃ (s : State) (src : Src) (d : Desc), Accepted 0x00 src d s) ∧
    (∃ (s : State) (src : Src) (d : Desc), Accepted 0x10 src d s ∧ lsCheck (cmdOf 0x10 src d s) s = none ∧
      lsCopy (cmdOf 0x10 src d s) = false) ∧
    (∃ (s : State) (src : Src) (d : Desc), Accepted 0x10 src d s ∧ lsCheck (cmdOf 0x10 src d s) s = none ∧
      lsCopy (cmdOf 0x10 src d s) = true) ∧
    (∃ (s : State) (src : Src) (d : Desc), Accepted 0x12 src d s ∧ (cmdOf 0x12 src d s).f 8 0 3 ≤ 4 ∧
      (∀ b ∈ boxRecs (cmdOf 0x12 src d s), boxBad b.2 = false)) ∧
    (∃ (s : State) (src : Src) (d : Desc), Accepted 0x13 src d s ∧ (cmdOf 0x13 src d s).b 9 0 = true ∧
      symbolInUse (symId (cmdOf 0x13 src d s)) none s = false) ∧
    (∃ (s : State) (src : Src) (d : Desc), Accepted 0x13 src d s ∧ (cmdOf 0x13 src d s).b 9 0 = false ∧
      symBad (cmdOf 0x13 src d s) s = false ∧
      symbolInUse (symId (cmdOf 0x13 src d s)) (some ((cmdOf 0x13 src d s).f 12 0 32,
        (cmdOf 0x13 src d s).f 16 0 32)) s = false) := by
  refine ⟨?_, ?_, ?_, ?_, ?_, ?_⟩
  · let s : State := mkAccept s0
    exact ⟨s, .ring 0, desc1, by decide +kernel +revert⟩
  · let d : Desc := desc1
    let s : State := mkAccept s0
    let d : Desc := dset d 12 0 16 (100)
    let d : Desc := dset d 14 0 16 (50)
    let d : Desc := dset d 16 0 32 (800)
    exact ⟨s, .ring 0, d, by decide +kernel +revert⟩
  · let d : Desc := desc1
    let s : State := mkAccept s0
    let d : Desc := dset d 9 2 1 (1)
    let d : Desc := dset d 12 0 16 (100)
    let d : Desc := dset d 14 0 16 (50)
    let d : Desc := dset d 16 0 32 (800)
    exact ⟨s, .ring 0, d, by decide +kernel +revert⟩
  · let s : State := mkAccept s0
    exact ⟨s, .ring 0, desc1, by decide +kernel +revert⟩
  · let d : Desc := desc1
    let d : Desc := dset d 9 0 1 1
    let s : State := mkAccept s0
    exact ⟨s, .ring 0, d, by decide +kernel +revert⟩
  · let d : Desc := desc1
    let s : State := mkAccept s0
    let d : Desc := dset d 12 0 32 (4718592)
    let d : Desc := dset d 16 0 32 (256)
    exact ⟨s, .ring 0, d, by decide +kernel +revert⟩

theorem test_witness_FrameCommands :
    (∃ (s : State) (src : Src) (d : Desc), Accepted 0x11 src d s ∧
      presentBody.check (cmdOf 0x11 src d s) (begun 0x11 src d s) = none ∧ (cmdOf 0x11 src d s).b 9 1 = false) ∧
    (∃ (s : State) (src : Src) (d : Desc), Accepted 0x11 src d s ∧
      presentBody.check (cmdOf 0x11 src d s) (begun 0x11 src d s) = none ∧ (cmdOf 0x11 src d s).b 9 1 = true) ∧
    (∃ (s : State) (src : Src) (d : Desc), Accepted 0x18 src d s ∧ s.pwr.state ≠ .dim ∧
      (cmdOf 0x18 src d s).f 8 0 2 ≠ 3 ∧ timingBad (tsTiming (cmdOf 0x18 src d s)) = false ∧
      budgetFault (fun n => budgetRate (s.link.lane[n])) (tsTiming (cmdOf 0x18 src d s)).active (shadowMap s) s = none) ∧
    (∃ (s : State) (src : Src) (d : Desc), Accepted 0x19 src d s ∧
      tileMapBody.check (cmdOf 0x19 src d s) (begun 0x19 src d s) = none) ∧
    (∃ (s : State) (src : Src) (d : Desc) (n : Fin 9), Accepted 0x14 src d s ∧
      coefBody.check (cmdOf 0x14 src d s) (begun 0x14 src d s) = none ∧ layerOf (cmdOf 0x14 src d s) = some n ∧
      (cmdOf 0x14 src d s).f 8 4 2 = 0) ∧
    (∃ (s : State) (src : Src) (d : Desc) (n : Fin 9), Accepted 0x14 src d s ∧
      coefBody.check (cmdOf 0x14 src d s) (begun 0x14 src d s) = none ∧ layerOf (cmdOf 0x14 src d s) = some n ∧
      (cmdOf 0x14 src d s).f 8 4 2 ≠ 0) ∧
    (∃ (s : State), s.pending = [] ∧ coresUp s = true) ∧
    (∃ (s s' : State) (c : Cmd) (bytes : List Byte) (tab : List Int),
      coreRead (c.f 16 0 32) (tableBytes (c.b 9 2)) s = (some bytes, s') ∧ Geo.checkTable (c.b 9 2) bytes = .ok tab) ∧
    (∃ (s s' : State) (c : Cmd) (bytes : List Byte) (e : Geo.CoefFault),
      coreRead (c.f 16 0 32) (tableBytes (c.b 9 2)) s = (some bytes, s') ∧ Geo.checkTable (c.b 9 2) bytes = .error e) := by
  refine ⟨?_, ?_, ?_, ?_, ?_, ?_, ?_, ?_, ?_⟩
  · let s : State := mkAccept s0
    exact ⟨s, .ring 0, desc1, by decide +kernel +revert⟩
  · let d : Desc := desc1
    let d : Desc := dset d 9 1 1 1
    let s : State := mkAccept s0
    exact ⟨s, .ring 0, d, by decide +kernel +revert⟩
  · let d : Desc := desc1
    let s : State := mkAccept s0
    let d : Desc := dset d 9 0 8 (3)
    let d : Desc := dset d 12 0 32 (8000000)
    let d : Desc := dset d 16 0 32 (10000)
    exact ⟨s, .ring 0, d, by decide +kernel +revert⟩
  · let d : Desc := desc1
    let s : State := mkAccept s0
    let d : Desc := dset d 9 0 5 (1)
    exact ⟨s, .ring 0, d, by decide +kernel +revert⟩
  · let s : State := mkAccept s0
    exact ⟨s, .ring 0, desc1, 0, by decide +kernel +revert⟩
  · let d : Desc := desc1
    let d : Desc := dset d 8 4 2 ((0) + 1)
    let s : State := mkAccept s0
    exact ⟨s, .ring 0, d, 0, by decide +kernel +revert⟩
  · let s : State := mkCores s0
    exact ⟨s, by decide +kernel +revert⟩
  · let c : Cmd := ⟨.ring 0, dset desc1 16 0 32 0x500000, 0, 0⟩
    let bytes : List Byte := (List.range 64).flatMap fun _ => [0, 0x20, 0, 0x20, 0, 0, 0, 0]
    let s : State := { mkRegAll s0 with grn.mem := Memory.writeBytes [] 0x500000 bytes }
    exact ⟨s, _, c, bytes, (List.range 64).flatMap fun _ => [8192, 8192, 0, 0],
      Prod.ext (by decide +kernel +revert) rfl, by decide +kernel +revert⟩
  · let c : Cmd := ⟨.ring 0, dset desc1 16 0 32 0x500000, 0, 0⟩
    let s : State := mkRegAll s0
    exact ⟨s, _, c, List.replicate 512 0, ⟨1, 0, 0, 0⟩, Prod.ext (by decide +kernel +revert) rfl,
      by decide +kernel +revert⟩

theorem test_witness_LightCommands :
    (∃ (s : State) (src : Src) (d : Desc) (c : Cmd), c = cmdOf 0x21 src d s ∧ Accepted 0x21 src d s ∧
      c.f 8 0 16 ≤ 0x8000 ∧ c.f 12 0 32 ≤ 60000000) ∧
    (∃ (s : State) (src : Src) (d : Desc) (c : Cmd), c = cmdOf 0x22 src d s ∧ Accepted 0x22 src d s ∧ 1 ≤ c.f 12 0 16 ∧
      c.f 12 0 16 ≤ 0x8000) ∧
    (∃ (s : State) (src : Src) (d : Desc) (c : Cmd), c = cmdOf 0x20 src d s ∧ Accepted 0x20 src d s ∧ c.f 8 0 2 = 1 ∧
      c.f 22 0 16 ≤ 0x8000) ∧
    (∃ (s : State) (src : Src) (d : Desc) (c : Cmd), c = cmdOf 0x20 src d s ∧ Accepted 0x20 src d s ∧ c.f 8 0 2 = 3) ∧
    (∃ (s : State) (src : Src) (d : Desc) (c : Cmd), c = cmdOf 0x20 src d s ∧ Accepted 0x20 src d s ∧ c.f 8 0 2 = 2 ∧
      planeOk (c.f 20 0 32) s = true ∧ s.pho.plane = none) ∧
    (∃ (s : State) (src : Src) (d : Desc) (c : Cmd), c = cmdOf 0x20 src d s ∧ Accepted 0x20 src d s ∧ c.f 8 0 2 = 0 ∧
      calBad c s = false ∧ calBusy c s = false) ∧
    (∃ (s : State) (src : Src) (d : Desc) (c : Cmd), c = cmdOf 0x58 src d s ∧ Accepted 0x58 src d s ∧ awBad c s = false) := by
  refine ⟨?_, ?_, ?_, ?_, ?_, ?_, ?_⟩
  · let src : Src := .ring 0
    let d : Desc := desc1
    let s : State := mkAccept s0
    let c : Cmd := cmdOf 0x21 src d s
    exact ⟨s, src, d, c, by decide +kernel +revert⟩
  · let src : Src := .ring 0
    let d : Desc := desc1
    let d : Desc := dset d 12 0 16 ((1) + 0)
    let s : State := mkAccept s0
    let c : Cmd := cmdOf 0x22 src d s
    exact ⟨s, src, d, c, by decide +kernel +revert⟩
  · let src : Src := .ring 0
    let d : Desc := desc1
    let d : Desc := dset d 8 0 2 (1)
    let s : State := mkAccept s0
    let c : Cmd := cmdOf 0x20 src d s
    exact ⟨s, src, d, c, by decide +kernel +revert⟩
  · let src : Src := .ring 0
    let d : Desc := desc1
    let d : Desc := dset d 8 0 2 (3)
    let s : State := mkAccept s0
    let c : Cmd := cmdOf 0x20 src d s
    exact ⟨s, src, d, c, by decide +kernel +revert⟩
  · let src : Src := .ring 0
    let d : Desc := desc1
    let d : Desc := dset d 8 0 2 (2)
    let s : State := mkAccept s0
    let d : Desc := dset d 20 0 32 (4718592)
    let c : Cmd := cmdOf 0x20 src d s
    exact ⟨s, src, d, c, by decide +kernel +revert⟩
  · let src : Src := .ring 0
    let d : Desc := desc1
    let s : State := mkAccept s0
    let d : Desc := dset d 20 0 32 (22020096)
    let d : Desc := dset d 16 0 21 (100)
    let c : Cmd := cmdOf 0x20 src d s
    exact ⟨s, src, d, c, by decide +kernel +revert⟩
  · let src : Src := .ring 0
    let d : Desc := desc1
    let s : State := mkAccept s0
    let d : Desc := dset d 12 0 8 (3)
    let s : State := { s with aux := s.aux.map' fun a => { a with used := true, ics := 4, ch := 8, wordBits := 12 } }
    let c : Cmd := cmdOf 0x58 src d s
    exact ⟨s, src, d, c, by decide +kernel +revert⟩

theorem test_witness_HealthCommandsAndUpkeep :
    (∃ (s : State) (src : Src) (d : Desc) (c : Cmd), c = cmdOf 0x29 src d s ∧ Accepted 0x29 src d s ∧ hsBad c = false ∧
      c.f 8 0 2 = 2) ∧
    (∃ (s : State) (src : Src) (d : Desc) (c : Cmd), c = cmdOf 0x29 src d s ∧ Accepted 0x29 src d s ∧ hsBad c = false ∧
      c.f 8 0 2 = 0) ∧
    (∃ (s : State) (src : Src) (d : Desc) (c : Cmd), c = cmdOf 0x29 src d s ∧ Accepted 0x29 src d s ∧ hsBad c = false ∧
      c.f 8 0 2 = 1) ∧
    (∃ (s : State) (src : Src) (d : Desc) (c : Cmd), c = cmdOf 0x28 src d s ∧ Accepted 0x28 src d s ∧ c.f 8 0 3 = 4 ∧
      c.f 12 0 21 ≤ 95 ∧ s.pxh.recount = false) ∧
    (∃ (s s' : State) (src : Src) (d : Desc) (c : Cmd) (b : List Byte), c = cmdOf 0x28 src d s ∧
      Accepted 0x28 src d s ∧ c.f 8 0 3 = 3 ∧ c.f 12 0 21 < Pipe.pixels ∧
      coreRead (s.pho.planeBase + 8 * c.f 12 0 21) 8 (foldDigest c (begun 0x28 src d s)) = (some b, s')) ∧
    (∃ (s : State) (src : Src) (d : Desc) (c : Cmd), c = cmdOf 0x28 src d s ∧ Accepted 0x28 src d s ∧
      trBad c s = false ∧ c.f 8 0 3 ≤ 2) ∧
    (∃ (s : State) (k : Fin 96), s.pwr.core = true ∧ (s.pxh.tile[k]).resetting = true) ∧
    (∃ (s : State) (w : WriteBack), s.pwr.core = true ∧ grnReady s = true ∧ s.pxh.writes = [w] ∧ writeReady s w = true) ∧
    (∃ (s : State) (w : WriteBack), s.pwr.core = true ∧ grnReady s = true ∧ s.pxh.writes = [w] ∧ writeReady s w = true) ∧
    (∃ (s : State) (w : WriteBack) (o : Override) (h : Nat), s.pwr.core = true ∧ grnReady s = true ∧
      s.pxh.writes = [w] ∧ s.pho.overrides = [o] ∧ w.health = some h ∧ w.ageing = none ∧ o.pixel = w.pixel ∧
      o.state = h ∧ o.taken = true ∧ s.grn.marks = [] ∧ s.pxh.heldChanges = []) ∧
    (∃ (s : State) (w : WriteBack), s.pxh.writes = [w] ∧ writeReady s w = false) ∧
    (∃ (s : State), s.pwr.core = true ∧ s.pxh.recount = true ∧ grnReady s = true) := by
  refine ⟨?_, ?_, ?_, ?_, ?_, ?_, ?_, ?_, ?_, ?_, ?_, ?_⟩
  · let src : Src := .ring 0
    let d : Desc := desc1
    let d : Desc := dset d 8 0 2 (2)
    let s : State := mkAccept s0
    let d : Desc := dset d 12 0 12 (100)
    let d : Desc := dset d 16 0 4 (3)
    let d : Desc := dset d 16 4 4 (2)
    let d : Desc := dset d 16 8 8 (9)
    let d : Desc := dset d 22 0 16 (36864)
    let d : Desc := dset d 24 0 14 (77)
    let c : Cmd := cmdOf 0x29 src d s
    exact ⟨s, src, d, c, by decide +kernel +revert⟩
  · let src : Src := .ring 0
    let d : Desc := desc1
    let s : State := mkAccept s0
    let d : Desc := dset d 16 0 11 (5)
    let d : Desc := dset d 18 0 10 (6)
    let c : Cmd := cmdOf 0x29 src d s
    exact ⟨s, src, d, c, by decide +kernel +revert⟩
  · let src : Src := .ring 0
    let d : Desc := desc1
    let d : Desc := dset d 8 0 2 (1)
    let s : State := mkAccept s0
    let d : Desc := dset d 16 0 11 (5)
    let d : Desc := dset d 18 0 10 (6)
    let c : Cmd := cmdOf 0x29 src d s
    exact ⟨s, src, d, c, by decide +kernel +revert⟩
  · let src : Src := .ring 0
    let d : Desc := desc1
    let d : Desc := dset d 8 0 3 (4)
    let s : State := mkAccept s0
    let c : Cmd := cmdOf 0x28 src d s
    exact ⟨s, src, d, c, by decide +kernel +revert⟩
  · let d : Desc := dset desc1 8 0 3 3
    let s : State := mkAccept s0
    exact ⟨s, _, .ring 0, d, _, List.replicate 8 0, rfl, by decide +kernel +revert, by decide +kernel +revert,
      by decide +kernel +revert, Prod.ext (by decide +kernel +revert) rfl⟩
  · let src : Src := .ring 0
    let d : Desc := desc1
    let s : State := mkAccept s0
    let d : Desc := dset d 16 0 21 (1)
    let c : Cmd := cmdOf 0x28 src d s
    exact ⟨s, src, d, c, by decide +kernel +revert⟩
  · let k : Fin 96 := 0
    let s : State := { s0 with
      pwr.core := true
      pxh.tile := s0.pxh.tile.put k { s0.pxh.tile[k] with resetting := true } }
    exact ⟨s, k, by decide +kernel +revert⟩
  · let w : WriteBack := ⟨0, none, none⟩
    let s : State := mkGrn s0
    let s : State := { s with pwr.core := true, pxh.writes := [w] }
    exact ⟨s, w, by decide +kernel +revert⟩
  · let w : WriteBack := ⟨0, none, none⟩
    let s : State := mkGrn s0
    let s : State := { s with pwr.core := true, pxh.writes := [w] }
    exact ⟨s, w, by decide +kernel +revert⟩
  · let w : WriteBack := ⟨0, none, none⟩
    let o : Override := ⟨0, 0, false⟩
    let s : State := mkGrn s0
    let s : State := { s with pwr.core := true }
    let w : WriteBack := { w with health := some 4, ageing := none, pixel := 5 }
    let o : Override := { o with pixel := 5, state := 4, taken := true }
    let s : State := { s with pxh.writes := [w], pho.overrides := [o] }
    exact ⟨s, w, o, 4, by decide +kernel +revert⟩
  · let w : WriteBack := ⟨0, some 3, none⟩
    let s : State := { s0 with pxh.writes := [w] }
    exact ⟨s, w, by decide +kernel +revert⟩
  · let s : State := mkGrn s0
    let s : State := { s with pwr.core := true, pxh.recount := true }
    exact ⟨s, by decide +kernel +revert⟩

theorem test_witness_PlantCommands :
    (∃ (s : State) (src : Src) (d : Desc) (c : Cmd), c = cmdOf 0x30 src d s ∧ Accepted 0x30 src d s ∧
      railBad c s = false ∧ c.f 9 0 2 = 0 ∧ s.rail.jobs = []) ∧
    (∃ (s : State) (src : Src) (d : Desc) (c : Cmd) (on : Bool), c = cmdOf 0x30 src d s ∧ Accepted 0x30 src d s ∧
      railBad c s = false ∧ c.f 9 0 2 = (if on then 1 else 2)) ∧
    (∃ (s : State) (src : Src) (d : Desc) (c : Cmd), c = cmdOf 0x38 src d s ∧ Accepted 0x38 src d s ∧ prBad c = false ∧
      prState c s = false ∧ prBudget c s = none ∧ c.f 8 0 3 = 1) ∧
    (∃ (s : State) (src : Src) (d : Desc) (c : Cmd), c = cmdOf 0x38 src d s ∧ Accepted 0x38 src d s ∧ prBad c = false ∧
      2 ≤ c.f 8 0 3 ∧ s.pwr.wakeHigh = false) ∧
    (∃ (s : State) (src : Src) (d : Desc) (c : Cmd), c = cmdOf 0x38 src d s ∧ Accepted 0x38 src d s ∧ prBad c = false ∧
      2 ≤ c.f 8 0 3 ∧ s.pwr.wakeHigh = true ∧ c.b 9 1 = true ∧ (wakeAllowed (prTarget c) (c.b 8 3)).getLsbD 1 = true) ∧
    (∃ (s : State) (src : Src) (d : Desc) (c : Cmd), c = cmdOf 0x39 src d s ∧ Accepted 0x39 src d s ∧ c.f 8 0 2 = 0 ∧
      thBad c s = false ∧ overCeiling c s = false) ∧
    (∃ (s : State) (src : Src) (d : Desc) (c : Cmd), c = cmdOf 0x39 src d s ∧ Accepted 0x39 src d s ∧ c.f 8 0 2 = 1 ∧
      thBad c s = false) ∧
    (∃ (s : State) (src : Src) (d : Desc) (c : Cmd), c = cmdOf 0x39 src d s ∧ Accepted 0x39 src d s ∧ c.f 8 0 2 = 3 ∧
      thBad c s = false) ∧
    (∃ (s : State) (src : Src) (d : Desc) (c : Cmd), c = cmdOf 0x3A src d s ∧ Accepted 0x3A src d s ∧ c.f 8 0 5 ≠ 0 ∧
      s.thm.run = none) := by
  refine ⟨?_, ?_, ?_, ?_, ?_, ?_, ?_, ?_, ?_⟩
  · let src : Src := .ring 0
    let d : Desc := desc1
    let s : State := mkAccept s0
    let d : Desc := dset d 8 0 8 (3)
    let d : Desc := dset d 12 0 16 (500)
    let d : Desc := dset d 14 0 16 (200)
    let d : Desc := dset d 16 0 8 (9)
    let s : State := { s with
      rail.rail := s.rail.rail.map' fun r => { r with
        entry := { r.entry with used := true, vMin := 100, vMax := 900, iMax := 3000 } } }
    let c : Cmd := cmdOf 0x30 src d s
    exact ⟨s, src, d, c, by decide +kernel +revert⟩
  · let src : Src := .ring 0
    let d : Desc := desc1
    let on : Bool := false
    let d : Desc := dset d 9 0 2 ((if on then 1 else 2))
    let s : State := mkAccept s0
    let d : Desc := dset d 8 0 8 (3)
    let d : Desc := dset d 16 0 8 (9)
    let s : State := { s with
      rail.rail := s.rail.rail.map' fun r => { r with
        entry := { r.entry with used := true, vMin := 100, vMax := 900, iMax := 3000 } } }
    let c : Cmd := cmdOf 0x30 src d s
    exact ⟨s, src, d, c, on, by decide +kernel +revert⟩
  · let src : Src := .ring 0
    let d : Desc := desc1
    let d : Desc := dset d 8 0 3 (1)
    let s : State := mkAccept s0
    let d : Desc := dset d 12 0 32 (8000000)
    let d : Desc := dset d 16 0 32 (10000)
    let c : Cmd := cmdOf 0x38 src d s
    exact ⟨s, src, d, c, by decide +kernel +revert⟩
  · let src : Src := .ring 0
    let d : Desc := desc1
    let d : Desc := dset d 8 0 3 ((2) + 0)
    let s : State := mkAccept s0
    let d : Desc := dset d 9 0 6 (2)
    let c : Cmd := cmdOf 0x38 src d s
    exact ⟨s, src, d, c, by decide +kernel +revert⟩
  · let src : Src := .ring 0
    let d : Desc := desc1
    let d : Desc := dset d 8 0 3 ((2) + 0)
    let d : Desc := dset d 9 1 1 1
    let s : State := mkAccept s0
    let s : State := { s with pwr.wakeHigh := true }
    let c : Cmd := cmdOf 0x38 src d s
    exact ⟨s, src, d, c, by decide +kernel +revert⟩
  · let src : Src := .ring 0
    let d : Desc := desc1
    let s : State := mkAccept s0
    let d : Desc := dset d 14 0 16 (300)
    let d : Desc := dset d 16 0 16 (600)
    let d : Desc := dset d 18 0 8 (9)
    let d : Desc := dset d 19 0 8 (9)
    let d : Desc := dset d 20 0 8 (9)
    let c : Cmd := cmdOf 0x39 src d s
    exact ⟨s, src, d, c, by decide +kernel +revert⟩
  · let src : Src := .ring 0
    let d : Desc := desc1
    let d : Desc := dset d 8 0 2 (1)
    let s : State := mkAccept s0
    let d : Desc := dset d 12 0 16 (100)
    let c : Cmd := cmdOf 0x39 src d s
    exact ⟨s, src, d, c, by decide +kernel +revert⟩
  · let src : Src := .ring 0
    let d : Desc := desc1
    let d : Desc := dset d 8 0 2 (3)
    let s : State := mkAccept s0
    let d : Desc := dset d 12 0 12 (32)
    let c : Cmd := cmdOf 0x39 src d s
    exact ⟨s, src, d, c, by decide +kernel +revert⟩
  · let src : Src := .ring 0
    let d : Desc := desc1
    let d : Desc := dset d 8 0 5 ((0) + 1)
    let s : State := mkAccept s0
    let c : Cmd := cmdOf 0x3A src d s
    exact ⟨s, src, d, c, by decide +kernel +revert⟩

theorem test_witness_TimeCommands :
    (∃ (s : State) (src : Src) (d : Desc) (c : Cmd), c = cmdOf 0x40 src d s ∧ Accepted 0x40 src d s ∧ c.f 8 0 2 = 0 ∧
      c.f 24 0 32 < 1000000000 ∧ s.lpl.launches.length < 16) ∧
    (∃ (s : State) (src : Src) (d : Desc) (c : Cmd), c = cmdOf 0x40 src d s ∧ Accepted 0x40 src d s ∧ c.f 8 0 2 = 1 ∧
      c.f 24 0 32 < 1000000000) ∧
    (∃ (s : State) (src : Src) (d : Desc) (c : Cmd) (b : Fin 4), c = cmdOf 0x40 src d s ∧ Accepted 0x40 src d s ∧
      c.f 8 0 2 = 3 ∧ c.b 8 2 = false ∧ c.f 24 0 32 < 1000000000 ∧ b.val = c.f 9 0 2 ∧ (s.bel.alarm[b]).armed = true) ∧
    (∃ (s : State) (src : Src) (d : Desc) (c : Cmd), c = cmdOf 0x40 src d s ∧ Accepted 0x40 src d s ∧ c.f 8 0 2 = 2 ∧
      c.b 8 2 = true ∧ c.f 24 0 32 < 1000000000 ∧ cancelNamed c s ≠ []) ∧
    (∃ (s : State) (src : Src) (d : Desc) (c : Cmd), c = cmdOf 0x41 src d s ∧ Accepted 0x41 src d s ∧
      tsBad c s = false ∧ c.f 8 0 3 = 0 ∧ s.bel.mode ≠ .internal) ∧
    (∃ (s : State) (src : Src) (d : Desc) (c : Cmd), c = cmdOf 0x41 src d s ∧ Accepted 0x41 src d s ∧
      tsBad c s = false ∧ c.f 8 0 3 = 1 ∧ s.bel.mode ≠ .internal) ∧
    (∃ (s : State) (src : Src) (d : Desc) (c : Cmd), c = cmdOf 0x41 src d s ∧ Accepted 0x41 src d s ∧
      tsBad c s = false ∧ c.f 8 0 3 = 2 ∧ s.bel.mode ≠ .internal) ∧
    (∃ (s : State) (src : Src) (d : Desc) (c : Cmd), c = cmdOf 0x41 src d s ∧ Accepted 0x41 src d s ∧
      tsBad c s = false ∧ c.f 8 0 3 = 5) ∧
    (∃ (s : State) (src : Src) (d : Desc) (c : Cmd), c = cmdOf 0x41 src d s ∧ Accepted 0x41 src d s ∧
      tsBad c s = false ∧ c.f 8 0 3 = 3) ∧
    (∃ (s : State) (src : Src) (d : Desc) (c : Cmd), c = cmdOf 0x41 src d s ∧ Accepted 0x41 src d s ∧
      tsBad c s = false ∧ c.f 8 0 3 = 4) ∧
    (∃ (s : State) (src : Src) (d : Desc) (c : Cmd) (o : Fin 4), c = cmdOf 0x42 src d s ∧ Accepted 0x42 src d s ∧
      (psCfg c).bad = false ∧ o.val = c.f 8 0 2 ∧ (psCfg c).passed s = true ∧ (s.bel.pulse[o]).active = none) ∧
    (∃ (s : State) (src : Src) (d : Desc) (c : Cmd) (o : Fin 4), c = cmdOf 0x42 src d s ∧ Accepted 0x42 src d s ∧
      (psCfg c).bad = false ∧ o.val = c.f 8 0 2 ∧ (psCfg c).passed s = false) := by
  refine ⟨?_, ?_, ?_, ?_, ?_, ?_, ?_, ?_, ?_, ?_, ?_, ?_⟩
  · let src : Src := .ring 0
    let d : Desc := desc1
    let s : State := mkAccept s0
    let c : Cmd := cmdOf 0x40 src d s
    exact ⟨s, src, d, c, by decide +kernel +revert⟩
  · let src : Src := .ring 0
    let d : Desc := desc1
    let d : Desc := dset d 8 0 2 (1)
    let s : State := mkAccept s0
    let c : Cmd := cmdOf 0x40 src d s
    exact ⟨s, src, d, c, by decide +kernel +revert⟩
  · let src : Src := .ring 0
    let d : Desc := desc1
    let b : Fin 4 := 0
    let d : Desc := dset d 8 0 2 (3)
    let s : State := mkAccept s0
    let s : State := { s with bel.alarm := s.bel.alarm.put b { s.bel.alarm[b] with armed := true } }
    let c : Cmd := cmdOf 0x40 src d s
    exact ⟨s, src, d, c, b, by decide +kernel +revert⟩
  · let src : Src := .ring 0
    let d : Desc := desc1
    let d : Desc := dset d 8 0 2 (2)
    let d : Desc := dset d 8 2 1 1
    let s : State := mkAccept s0
    let s : State := { s with lpl.launches := [⟨3, 4, false, [], cmdOf 0x40 src d s, 0⟩] }
    let c : Cmd := cmdOf 0x40 src d s
    exact ⟨s, src, d, c, by decide +kernel +revert⟩
  · let src : Src := .ring 0
    let d : Desc := desc1
    let s : State := mkAccept s0
    let s : State := { s with bel.mode := .off }
    let c : Cmd := cmdOf 0x41 src d s
    exact ⟨s, src, d, c, by decide +kernel +revert⟩
  · let src : Src := .ring 0
    let d : Desc := desc1
    let d : Desc := dset d 8 0 3 (1)
    let s : State := mkAccept s0
    let s : State := { s with bel.mode := .external }
    let c : Cmd := cmdOf 0x41 src d s
    exact ⟨s, src, d, c, by decide +kernel +revert⟩
  · let src : Src := .ring 0
    let d : Desc := desc1
    let d : Desc := dset d 8 0 3 (2)
    let s : State := mkAccept s0
    let s : State := { s with bel.mode := .off }
    let c : Cmd := cmdOf 0x41 src d s
    exact ⟨s, src, d, c, by decide +kernel +revert⟩
  · let src : Src := .ring 0
    let d : Desc := desc1
    let d : Desc := dset d 8 0 3 (5)
    let s : State := mkAccept s0
    let c : Cmd := cmdOf 0x41 src d s
    exact ⟨s, src, d, c, by decide +kernel +revert⟩
  · let src : Src := .ring 0
    let d : Desc := desc1
    let d : Desc := dset d 8 0 3 (3)
    let s : State := mkAccept s0
    let d : Desc := dset d 20 0 16 (100)
    let d : Desc := dset d 20 16 14 (9)
    let c : Cmd := cmdOf 0x41 src d s
    exact ⟨s, src, d, c, by decide +kernel +revert⟩
  · let src : Src := .ring 0
    let d : Desc := desc1
    let d : Desc := dset d 8 0 3 (4)
    let s : State := mkAccept s0
    let c : Cmd := cmdOf 0x41 src d s
    exact ⟨s, src, d, c, by decide +kernel +revert⟩
  · let src : Src := .ring 0
    let d : Desc := desc1
    let s : State := mkAccept s0
    let d : Desc := dset d 8 2 2 (1)
    let d : Desc := dset d 12 0 32 (50)
    let s : State := { s with
      bel.offset := s.bel.offset + 2 ^ 90
      bel.pulse := s.bel.pulse.map' fun x => { x with active := none } }
    let c : Cmd := cmdOf 0x42 src d s
    let o : Fin 4 := Fin.ofNat _ (c.f 8 0 2)
    exact ⟨s, src, d, c, o, by decide +kernel +revert⟩
  · let src : Src := .ring 0
    let d : Desc := desc1
    let s : State := mkAccept s0
    let c : Cmd := cmdOf 0x42 src d s
    exact ⟨s, src, d, c, 0, by decide +kernel +revert⟩

theorem test_witness_ServiceCommands :
    (∃ (s : State) (src : Src) (d : Desc) (c : Cmd), c = cmdOf 0x48 src d s ∧ Accepted 0x48 src d s ∧
      scBad c s = false ∧ c.f 8 0 2 = 0 ∧ s.hdg.selfHeld = false) ∧
    (∃ (s : State) (src : Src) (d : Desc) (c : Cmd) (b : List Byte), c = cmdOf 0x48 src d s ∧ Accepted 0x48 src d s ∧
      c.f 8 0 2 = 1 ∧ s.hdg.staged = some b ∧ BitVec.ofNat 32 (c.f 24 0 32) = s.hdg.stagedCrc) ∧
    (∃ (s : State) (src : Src) (d : Desc) (c : Cmd), c = cmdOf 0x49 src d s ∧ Accepted 0x49 src d s ∧ c.f 8 0 2 = 2 ∧
      s.hdg.commissionLow = true ∧ s.hdg.selfHeld = false ∧ s.hdg.test = none ∧ testRuns s = false) ∧
    (∃ (s : State) (src : Src) (d : Desc) (c : Cmd), c = cmdOf 0x49 src d s ∧ Accepted 0x49 src d s ∧ c.f 8 0 2 = 0 ∧
      s.hdg.active.isSome = true ∧ Env.safeinMode s.hdg.env = true ∧ s.hdg.selfHeld = false ∧ s.hdg.test = none ∧
      testRuns s = false) ∧
    (∃ (s : State) (src : Src) (d : Desc) (c : Cmd), c = cmdOf 0x49 src d s ∧ Accepted 0x49 src d s ∧ c.f 8 0 2 = 1 ∧
      drivesOff s = true ∧ disconnected s = false ∧ s.hdg.selfHeld = false ∧ s.hdg.test = none ∧ testRuns s = false) ∧
    (∃ (s : State) (src : Src) (d : Desc) (c : Cmd), c = cmdOf 0x50 src d s ∧ Accepted 0x50 src d s ∧
      c.f 16 0 64 % 8 = 0 ∧ 1024 ≤ c.f 24 0 32 ∧ c.f 24 0 32 ≤ slotBytes ∧ c.b 8 0 = false ∧ s.boot.stage = none) ∧
    (∃ (s : State) (src : Src) (d : Desc) (c : Cmd), c = cmdOf 0x51 src d s ∧ Accepted 0x51 src d s ∧
      s.boot.stage = none ∧ (otherSlot s).valid = true ∧ (ownSlot s).gen < (otherSlot s).gen) ∧
    (∃ (s : State) (src : Src) (d : Desc) (c : Cmd), c = cmdOf 0x68 src d s ∧ Accepted 0x68 src d s ∧
      (s.pwr.state = .run ∨ s.pwr.state = .dim) ∧ testBad c s = false ∧ s.tst.job = none ∧
      (testDisturbs c s = true → c.b 8 4 = true) ∧ testOwnPort c = false ∧ testTargetOk c s = true ∧
      (c.f 8 0 4 = 0 ∨ c.f 8 0 4 = 1 ∨ c.f 8 0 4 = 3 ∨ c.f 8 0 4 = 5)) ∧
    (∃ (s : State) (src : Src) (d : Desc) (c : Cmd), c = cmdOf 0x68 src d s ∧ Accepted 0x68 src d s ∧
      (s.pwr.state = .run ∨ s.pwr.state = .dim) ∧ testBad c s = false ∧ s.tst.job = none ∧
      (testDisturbs c s = true → c.b 8 4 = true) ∧ c.f 8 0 4 = 4 ∧ markOf s (c.f 16 0 32 / 8) = none) ∧
    (∃ (s : State) (src : Src) (d : Desc) (c : Cmd), c = cmdOf 0x68 src d s ∧ Accepted 0x68 src d s ∧
      (s.pwr.state = .run ∨ s.pwr.state = .dim) ∧ testBad c s = false ∧ s.tst.job = none ∧ testOwnPort c = false ∧
      testTargetOk c s = true ∧ c.f 8 0 4 = 2) ∧
    (∃ (s : State) (src : Src) (d : Desc) (c : Cmd), c = cmdOf 0x69 src d s ∧ Accepted 0x69 src d s ∧
      c.f 8 0 32 % 256 = 0 ∧ c.f 12 0 32 % 256 = 0 ∧ 256 ≤ c.f 12 0 32 ∧ c.f 8 0 32 + c.f 12 0 32 ≤ grnSize ∧
      c.f 16 0 2 = 0 ∧ s.grn.march = none) := by
  refine ⟨?_, ?_, ?_, ?_, ?_, ?_, ?_, ?_, ?_, ?_, ?_⟩
  · let src : Src := .ring 0
    let d : Desc := desc1
    let s : State := mkAccept s0
    let s : State := { s with hdg.commissionLow := true, hif.hostless := false }
    let c : Cmd := cmdOf 0x48 src d s
    exact ⟨s, src, d, c, by decide +kernel +revert⟩
  · let src : Src := .ring 0
    let d : Desc := desc1
    let b : List Byte := []
    let d : Desc := dset d 8 0 2 (1)
    let s : State := mkAccept s0
    let s : State := { s with hdg.staged := some b, hdg.commissionLow := true }
    let c : Cmd := cmdOf 0x48 src d s
    exact ⟨s, src, d, c, b, by decide +kernel +revert⟩
  · let src : Src := .ring 0
    let d : Desc := desc1
    let d : Desc := dset d 8 0 2 (2)
    let s : State := mkAccept s0
    let s : State := { s with hdg.commissionLow := true }
    let c : Cmd := cmdOf 0x49 src d s
    exact ⟨s, src, d, c, by decide +kernel +revert⟩
  · let src : Src := .ring 0
    let d : Desc := desc1
    let s : State := mkAccept s0
    let s : State := { s with hdg.active := some .uncommissioned }
    let c : Cmd := cmdOf 0x49 src d s
    exact ⟨s, src, d, c, by decide +kernel +revert⟩
  · let src : Src := .ring 0
    let d : Desc := desc1
    let d : Desc := dset d 8 0 2 (1)
    let s : State := mkAccept s0
    let s : State := if drivesOff s then s else { s with yok.state := .solo }
    let c : Cmd := cmdOf 0x49 src d s
    exact ⟨s, src, d, c, by decide +kernel +revert⟩
  · let src : Src := .ring 0
    let d : Desc := desc1
    let d : Desc := dset d 24 0 32 ((1024) + 0)
    let s : State := mkAccept s0
    let c : Cmd := cmdOf 0x50 src d s
    exact ⟨s, src, d, c, by decide +kernel +revert⟩
  · let src : Src := .ring 0
    let d : Desc := desc1
    let s : State := mkAccept s0
    let s : State := { s with boot.a.gen := 5, boot.b.gen := 3, boot.slot := true, boot.a.valid := true }
    let c : Cmd := cmdOf 0x51 src d s
    exact ⟨s, src, d, c, by decide +kernel +revert⟩
  · let src : Src := .ring 0
    let d : Desc := desc1
    let s : State := mkAccept s0
    let s : State := { s with
      link.lane := s.link.lane.map' fun l => { l with
        state := .ready }, yok.lane.state := .ready, rail.rail := s.rail.rail.map' fun r => { r with
          state := .regulate } }
    let t := BitVec.toNat (d >>> 64) % 16
    let d : Desc := if t = 1 then dset (dset (dset d 9 0 5 0) 10 0 3 2) 8 4 1 1 else if t = 0 then dset (dset d 10 0
      3 3) 8 4 1 1 else d
    let d : Desc := dset d 12 0 32 (if t ≤ 1 then 20000 else if t = 3 then 100 else 0)
    let c : Cmd := cmdOf 0x68 src d s
    exact ⟨s, src, d, c, by decide +kernel +revert⟩
  · let src : Src := .ring 0
    let d : Desc := desc1
    let d : Desc := dset d 8 0 4 (4)
    let s : State := mkAccept s0
    let d : Desc := dset d 16 0 32 (5242880)
    let d : Desc := dset d 11 0 2 (1)
    let c : Cmd := cmdOf 0x68 src d s
    exact ⟨s, src, d, c, by decide +kernel +revert⟩
  · let src : Src := .ring 0
    let d : Desc := desc1
    let d : Desc := dset d 8 0 4 (2)
    let s : State := mkAccept s0
    let d : Desc := dset d 10 0 3 (2)
    let d : Desc := dset d 12 0 32 (10)
    let s : State := { s with eth.port := s.eth.port.map' fun e => { e with enabled := true, link := true } }
    let c : Cmd := cmdOf 0x68 src d s
    exact ⟨s, src, d, c, by decide +kernel +revert⟩
  · let src : Src := .ring 0
    let d : Desc := desc1
    let d : Desc := dset d 12 0 32 ((256) + 0)
    let s : State := mkAccept s0
    let c : Cmd := cmdOf 0x69 src d s
    exact ⟨s, src, d, c, by decide +kernel +revert⟩

theorem test_witness_FaultCollection :
    (∃ (s : State) (src : Src) (d : Desc) (c : Cmd), c = cmdOf 0x60 src d s ∧ Accepted 0x60 src d s ∧ c.b 8 0 = false ∧
      (c.f 8 0 64 ≠ 0 ∨ c.b 16 2 = true)) ∧
    (∃ (s : State) (src : Src) (d : Desc) (c : Cmd), c = cmdOf 0x61 src d s ∧ Accepted 0x61 src d s ∧ c.f 8 0 2 = 0) ∧
    (∃ (s : State) (src : Src) (d : Desc) (c : Cmd) (e : LogEntry), c = cmdOf 0x61 src d s ∧ Accepted 0x61 src d s ∧
      c.f 8 0 2 = 1 ∧ logAt (BitVec.ofNat 16 (c.f 10 0 16)) s = some e) ∧
    (∃ (s : State) (src : Src) (d : Desc) (c : Cmd) (g : Fin 64), c = cmdOf 0x61 src d s ∧ Accepted 0x61 src d s ∧
      c.f 8 0 2 = 2 ∧ c.f 9 0 6 = g.val) ∧
    (∃ (s : State) (src : Src) (d : Desc) (c : Cmd) (first : BitVec 16), c = cmdOf 0x61 src d s ∧
      Accepted 0x61 src d s ∧ c.f 8 0 2 = 3 ∧ frBad c s = false ∧
      exportFirst (BitVec.ofNat 16 (c.f 10 0 16)) s = some first) ∧
    (∃ (s : State) (src : Src) (d : Desc) (c : Cmd), c = cmdOf 0x62 src d s ∧ Accepted 0x62 src d s ∧ c.f 8 0 6 ≤ 45 ∧
      0 < c.f 10 0 8 ∧ s.rve.injKey ≠ 0 ∧ s.rve.injKey.toNat = c.f 16 0 16) ∧
    (∃ (s : State) (src : Src) (d : Desc) (c : Cmd), c = cmdOf 0x70 src d s ∧ Accepted 0x70 src d s ∧ c.f 8 0 2 = 2 ∧
      s.yok.state = .excluded) ∧
    (∃ (s : State) (src : Src) (d : Desc) (c : Cmd), c = cmdOf 0x70 src d s ∧ Accepted 0x70 src d s ∧ c.f 8 0 2 = 1 ∧
      yoked s = true ∧ s.yok.holding = true ∧ partnerIn .copy s = true) ∧
    (∃ (s : State) (src : Src) (d : Desc) (c : Cmd), c = cmdOf 0x70 src d s ∧ Accepted 0x70 src d s ∧ c.f 8 0 2 = 0 ∧
      yoked s = true ∧ s.yok.holding = true ∧ partnerReady s = true) ∧
    (∃ (s : State) (e : Event) (g : Fin 64), s.rve.inbox = [e] ∧ e.injected = false ∧ e.group = g.val ∧
      (logFull s = false ∨ s.rve.lostFlag = true) ∧ (s.rve.group[g]).real.winOpen = true ∧
      max s.now e.at' - (s.rve.group[g]).real.winStart < (s.rve.group[g]).w * 100000 ∧
      (s.rve.group[g]).real.k + 1 < (s.rve.group[g]).n ∧ (s.rve.group[g]).real.k < 255) ∧
    (∃ (s : State) (e : Event), s.rve.inbox = [e] ∧ e.injected = false ∧ s.rve.queue = [] ∧ logTakes s = true) ∧
    (∃ (s : State) (e : Event), s.rve.inbox = [e] ∧ e.injected = false ∧ (s.rve.queue ≠ [] ∨ logTakes s = false) ∧
      logFull s = false) ∧
    (∃ (s : State) (e : Event), s.rve.inbox = [e] ∧ e.injected = false ∧ s.rve.lostFlag = true ∧ logFull s = true) ∧
    (∃ (s : State) (g : Fin 64), s.pwr.core = true ∧ s.rve.inbox = [] ∧ levelLine g.val s = false ∧
      (s.rve.group[g]).q ≠ 0 ∧ (s.rve.group[g]).real.latched = false ∧
      ((s.rve.group[g]).real.held = some .minor ∨ (s.rve.group[g]).real.held = some .major)) ∧
    (∃ (s : State), (s.pwr.state = .run ∨ s.pwr.state = .lightHold ∨ s.pwr.state = .dim)) ∧
    (∃ (s : State), s.pwr.core = true ∧ s.rve.revive = true) := by
  refine ⟨?_, ?_, ?_, ?_, ?_, ?_, ?_, ?_, ?_, ?_, ?_, ?_, ?_, ?_, ?_, ?_⟩
  · let src : Src := .ring 0
    let d : Desc := desc1
    let s : State := mkAccept s0
    let d : Desc := dset (dset d 8 1 4 15) 8 0 1 0
    let c : Cmd := cmdOf 0x60 src d s
    exact ⟨s, src, d, c, by decide +kernel +revert⟩
  · let src : Src := .ring 0
    let d : Desc := desc1
    let s : State := mkAccept s0
    let c : Cmd := cmdOf 0x61 src d s
    exact ⟨s, src, d, c, by decide +kernel +revert⟩
  · let src : Src := .ring 0
    let d : Desc := desc1
    let s : State := { s0 with rve.log := [log0] }
    let d : Desc := dset d 8 0 2 (1)
    let s : State := mkAccept s
    let c : Cmd := cmdOf 0x61 src d s
    let e : LogEntry := (logAt (BitVec.ofNat 16 (c.f 10 0 16)) s).getD log0
    exact ⟨s, src, d, c, e, by decide +kernel +revert⟩
  · let src : Src := .ring 0
    let d : Desc := desc1
    let d : Desc := dset d 8 0 2 (2)
    let s : State := mkAccept s0
    let c : Cmd := cmdOf 0x61 src d s
    exact ⟨s, src, d, c, 0, by decide +kernel +revert⟩
  · let src : Src := .ring 0
    let d : Desc := desc1
    let s : State := { s0 with rve.log := [log0] }
    let d : Desc := dset d 12 0 10 4
    let d : Desc := dset d 8 0 2 (3)
    let s : State := mkAccept s
    let c : Cmd := cmdOf 0x61 src d s
    exact ⟨s, src, d, c, 0, by decide +kernel +revert⟩
  · let src : Src := .ring 0
    let d : Desc := desc1
    let d : Desc := dset d 10 0 8 ((0) + 1)
    let s : State := mkAccept s0
    let s : State := { s with rve.injKey := 7 }
    let d : Desc := dset d 16 0 16 7
    let c : Cmd := cmdOf 0x62 src d s
    exact ⟨s, src, d, c, by decide +kernel +revert⟩
  · let src : Src := .ring 0
    let d : Desc := desc1
    let d : Desc := dset d 8 0 2 (2)
    let s : State := mkAccept s0
    let s : State := { s with yok.state := .excluded }
    let c : Cmd := cmdOf 0x70 src d s
    exact ⟨s, src, d, c, by decide +kernel +revert⟩
  · let src : Src := .ring 0
    let d : Desc := desc1
    let d : Desc := dset d 8 0 2 (1)
    let s : State := mkAccept s0
    let s : State := { s with
      yok.lost := false
      yok.partner := some { partner0 with state := .copy }
      yok.holding := true }
    let c : Cmd := cmdOf 0x70 src d s
    exact ⟨s, src, d, c, by decide +kernel +revert⟩
  · let src : Src := .ring 0
    let d : Desc := desc1
    let s : State := mkAccept s0
    let s : State := { s with
      yok.lost := false
      yok.partner := some { partner0 with state := .standby, locked := true }
      yok.holding := true }
    let c : Cmd := cmdOf 0x70 src d s
    exact ⟨s, src, d, c, by decide +kernel +revert⟩
  · let e : Event := event0
    let g : Fin 64 := 0
    let e : Event := { e with group := g.val }
    let s : State := { s0 with
      rve.inbox := [e]
      rve.group := s0.rve.group.put g { s0.rve.group[g] with
        real := { (s0.rve.group)[g].real with winOpen := true } } }
    let s : State := { s with
      rve.group := s.rve.group.put g { s.rve.group[g] with
        w := 100000
        n := 200
        real := { (s.rve.group[g]).real with k := 3, winStart := s.now } } }
    exact ⟨s, e, g, by decide +kernel +revert⟩
  · let e : Event := event0
    let s : State := { s0 with rve.inbox := [e] }
    exact ⟨s, e, by decide +kernel +revert⟩
  · let e : Event := event0
    let s : State := { s0 with rve.inbox := [e], rve.queue := [log0] }
    exact ⟨s, e, by decide +kernel +revert⟩
  · let e : Event := event0
    let s : State := { s0 with rve.inbox := [e], rve.lostFlag := true, rve.queue := List.replicate 64 log0 }
    exact ⟨s, e, by decide +kernel +revert⟩
  · let g : Fin 64 := 0
    let s : State := { s0 with
      pwr.core := true
      rve.group := s0.rve.group.put g { s0.rve.group[g] with
        real := { (s0.rve.group)[g].real with held := some .minor } } }
    exact ⟨s, g, by decide +kernel +revert⟩
  · exact ⟨s0, by decide +kernel⟩
  · let s : State := { s0 with pwr.core := true, rve.revive := true }
    exact ⟨s, by decide +kernel +revert⟩

theorem test_witness_RegisterEffects :
    (∃ (s : State), hostUp s = true) ∧
    (∃ (s : State), hostUp s = true) ∧
    (∃ (s : State), hostUp s = true) ∧
    (∃ (s : State), hostUp s = true) ∧
    (∃ (s : State), hostUp s = true) ∧
    (∃ (s : State), hostUp s = true) ∧
    (∃ (s : State), hostUp s = true) ∧
    (∃ (s : State), hostUp s = true) ∧
    (∃ (s : State), hostUp s = true) ∧
    (∃ (s : State) (st : Word) (p : BitVec 24) (k : Byte), hostUp s = true ∧
      k ≠ Config.ctxCheck (polyOf (p.toNat % 4)) st) ∧
    (∃ (s : State), hostUp s = true) := by
  refine ⟨?_, ?_, ?_, ?_, ?_, ?_, ?_, ?_, ?_, ?_, ?_⟩
  · let s : State := mkHost s0
    exact ⟨s, by decide +kernel +revert⟩
  · let s : State := mkHost s0
    exact ⟨s, by decide +kernel +revert⟩
  · let s : State := mkHost s0
    exact ⟨s, by decide +kernel +revert⟩
  · let s : State := mkHost s0
    exact ⟨s, by decide +kernel +revert⟩
  · let s : State := mkHost s0
    exact ⟨s, by decide +kernel +revert⟩
  · let s : State := mkHost s0
    exact ⟨s, by decide +kernel +revert⟩
  · let s : State := mkHost s0
    exact ⟨s, by decide +kernel +revert⟩
  · let s : State := mkHost s0
    exact ⟨s, by decide +kernel +revert⟩
  · let s : State := mkHost s0
    exact ⟨s, by decide +kernel +revert⟩
  · exact ⟨mkHost s0, 0, 0, Config.ctxCheck (polyOf 0) 0 + 1, by decide +kernel, fun h => by
      have : (Config.ctxCheck (polyOf 0) 0).toNat < 256 := BitVec.isLt _
      have := congrArg BitVec.toNat h
      simp [BitVec.toNat_add] at this
      omega⟩
  · let s : State := mkHost s0
    exact ⟨s, by decide +kernel +revert⟩

theorem test_witness_HostMemoryAccess :
    (∃ (s : State) (a : BitVec 26) (n : BitVec 13), hostUp s = true ∧ grnReady s = true ∧ 0 < n.toNat ∧
      grnMay s permHostR true a.toNat n.toNat = true ∧
      (∀ w ∈ (List.range n.toNat).map (fun i => (a.toNat + i) / 8), markOf s w = none)) ∧
    (∃ (s : State) (a : BitVec 26) (n : BitVec 13), hostUp s = true ∧ grnReady s = true ∧ 0 < n.toNat ∧
      grnMay s permHostR true a.toNat n.toNat = false) ∧
    (∃ (s : State) (a : BitVec 26) (d : List Byte) (u : Upset), hostUp s = true ∧ grnReady s = true ∧ d ≠ [] ∧
      grnMay s permHostW false a.toNat d.length = true ∧
      (∀ w ∈ partialWords a.toNat d.length, markOf s w = none ∧ u = .none) ∧ a.toNat + d.length ≤ grnSize ∧
      Memory.wf s.grn.mem = true) ∧
    (∃ (s : State) (a : BitVec 26) (d : List Byte), hostUp s = true ∧ grnReady s = true ∧ d ≠ [] ∧
      grnMay s permHostW false a.toNat d.length = false) ∧
    (∃ (s : State) (n : BitVec 13), hostUp s = true ∧ grnReady s = false ∧ 0 < n.toNat) ∧
    (∃ (s : State) (d : List Byte), hostUp s = true ∧ grnReady s = false ∧ d ≠ []) := by
  refine ⟨?_, ?_, ?_, ?_, ?_, ?_⟩
  · let s : State := mkHost s0
    let s : State := mkGrn s
    exact ⟨s, 0, BitVec.ofNat 13 4095, by decide +kernel +revert⟩
  · let a : BitVec 26 := 0
    let a : BitVec 26 := 0x480000 ||| (a &&& 0xFFFFF)
    let s : State := mkHost s0
    let s : State := mkGrn s
    let s : State := { s with grn.regions := s.grn.regions.map' fun r => { r with perm := 0 } }
    exact ⟨s, a, BitVec.ofNat 13 100, by decide +kernel +revert⟩
  · let a : BitVec 26 := 0
    let a : BitVec 26 := 0x480000 ||| (a &&& 0xFFFFF)
    let s : State := mkHost s0
    let s : State := mkGrn s
    exact ⟨s, a, [1, 2, 3, 4, 5, 6, 7, 8, 9, 10, 11], .none, by decide +kernel +revert⟩
  · let s : State := mkHost s0
    let s : State := mkGrn s
    exact ⟨s, 0, [1, 2, 3, 4, 5, 6, 7, 8, 9, 10, 11], by decide +kernel +revert⟩
  · let s : State := mkHost s0
    exact ⟨s, BitVec.ofNat 13 100, by decide +kernel +revert⟩
  · let s : State := mkHost s0
    exact ⟨s, [1, 2, 3], by decide +kernel +revert⟩

theorem test_witness_GranaryUpkeep :
    (∃ (s : State) (st : Start), s.pwr.core = true ∧ s.grn.initDone = false ∧ s.grn.retention = false ∧
      s.pwr.start = some st ∧ st.pgCore = true ∧ st.pgSram = true ∧ st.granary = false ∧ s.hif.bar2Wait = []) ∧
    (∃ (s : State) (st : Start), s.pwr.core = true ∧ s.grn.initDone = false ∧ s.grn.retention = false ∧
      s.pwr.start = some st ∧ st.pgCore = true ∧ st.pgSram = true ∧ st.granary = false ∧ s.hif.bar2Wait = [] ∧
      s.grn.repaired = [] ∧ s.grn.copying = []) ∧
    (∃ (s : State) (b : Fin 32) (w : Nat) (r : List Nat), s.pwr.core = true ∧ grnReady s = true ∧
      s.grn.rewriteQ = w :: r ∧ wordBank w = b.val ∧ w ∉ r ∧ markOf s w = some .single) ∧
    (∃ (s : State) (x : RowCopy) (r : List RowCopy), s.pwr.core = true ∧ grnReady s = true ∧ s.grn.copying = x :: r) ∧
    (∃ (s : State), s.pwr.core = true ∧ grnReady s = true ∧ s.grn.scrubEn = true ∧ s.grn.marks = []) ∧
    (∃ (s : State) (m : March), s.pwr.core = true ∧ grnReady s = true ∧ s.grn.march = some m ∧ m.destructive = false ∧
      256 * (m.done + 1) < m.length) ∧
    (∃ (s : State) (m : March), s.pwr.core = true ∧ grnReady s = true ∧ s.grn.march = some m ∧ m.destructive = true ∧
      256 * (m.done + 1) < m.length ∧ Memory.wf s.grn.mem = true) ∧
    (∃ (s : State) (m : March) (c : Cmd), s.pwr.core = true ∧ grnReady s = true ∧ s.grn.march = some m ∧
      m.destructive = false ∧ m.length ≤ 256 * (m.done + 1) ∧ m.failWords = 0 ∧ m.unrepaired = [] ∧
      s.marchCmd = some c) ∧
    (∃ (s : State) (st : Start), s.pwr.core = true ∧ s.grn.retention = true ∧ s.grn.initDone = true ∧
      s.pwr.start = some st ∧ st.pgCore = true ∧ s.hif.bar2Wait = []) := by
  refine ⟨?_, ?_, ?_, ?_, ?_, ?_, ?_, ?_, ?_⟩
  · let st : Start := Start.begin .por 0
    let st : Start := { st with pgCore := true }
    let st : Start := { st with pgSram := true }
    let s : State := { s0 with pwr.core := true, pwr.start := some st }
    exact ⟨s, st, by decide +kernel +revert⟩
  · let st : Start := Start.begin .por 0
    let st : Start := { st with pgCore := true }
    let st : Start := { st with pgSram := true }
    let s : State := { s0 with pwr.core := true, pwr.start := some st }
    exact ⟨s, st, by decide +kernel +revert⟩
  · let w : Nat := 0
    let r : List Nat := []
    let s : State := mkGrn s0
    let s : State := { s with pwr.core := true, grn.marks := [(w, .single)], grn.rewriteQ := w :: r }
    exact ⟨s, 0, w, r, by decide +kernel +revert⟩
  · let x : RowCopy := ⟨0, 0⟩
    let r : List RowCopy := []
    let s : State := mkGrn s0
    let s : State := { s with pwr.core := true, grn.copying := x :: r }
    exact ⟨s, x, r, by decide +kernel +revert⟩
  · let s : State := mkGrn s0
    let s : State := { s with pwr.core := true }
    exact ⟨s, by decide +kernel +revert⟩
  · let m : March := march0
    let s : State := mkGrn s0
    let s : State := { s with pwr.core := true, grn.march := some m }
    exact ⟨s, m, by decide +kernel +revert⟩
  · let m : March := march0
    let m : March := { m with destructive := true }
    let s : State := mkGrn s0
    let s : State := { s with pwr.core := true, grn.march := some m }
    exact ⟨s, m, by decide +kernel +revert⟩
  · let m : March := ⟨0x500000, 256, false, 0, 0, none, 0, [], false⟩
    let c : Cmd := cmd0
    let s : State := mkGrn s0
    let s : State := { s with pwr.core := true, grn.march := some m }
    let s : State := { s with marchCmd := some c }
    exact ⟨s, m, c, by decide +kernel +revert⟩
  · let st : Start := Start.begin .por 0
    let st : Start := { st with pgCore := true }
    let s : State := { s0 with pwr.core := true, grn.retention := true, grn.initDone := true, pwr.start := some st }
    exact ⟨s, st, by decide +kernel +revert⟩

theorem test_witness_CommandStarts :
    (∃ (s : State) (n : Fin 16) (e : Fetched), s.pwr.start = none ∧ nextGroup s = some 0 ∧ nextRing s = some n ∧
      (s.hif.sq[n]).fetched = [e] ∧ ringHead n s = some e) ∧
    (∃ (s : State) (p : Fin 2) (g : Fin 4) (key next arr : Nat) (d : Desc), s.pwr.start = none ∧ g.val = p.val + 1 ∧
      nextGroup s = some g ∧ ethHead p s = some (key, next, arr, d)) ∧
    (∃ (s : State), nextGroup s = none ∧ s.pwr.start = none) ∧
    (∃ (s : State) (d : Desc), s.pwr.start = none ∧ nextGroup s = some 3 ∧ d = s.mgt.mailbox) ∧
    (∃ (s : State) (st : Start) (d : Desc) (i : Nat), s.pwr.start = some st ∧ i = s.boot.startupNext ∧
      s.boot.startup[i]? = some d ∧ st.kind ≠ .warm ∧ st.restored = true ∧ st.record = true ∧ st.granary = true ∧
      s.boot.loads = [] ∧ serves (.startup i) s = true ∧ fenceOk (.startup i) d s = true) := by
  refine ⟨?_, ?_, ?_, ?_, ?_⟩
  · let n : Fin 16 := 0
    let e : Fetched := ⟨desc1, false, 0⟩
    let s : State := { s0 with pwr.start := none }
    let s : State := mkCores s
    let s : State := { s with hif.sq := s.hif.sq.put n { s.hif.sq[n] with enable := true, fetched := [e] } }
    exact ⟨s, n, e, by decide +kernel +revert⟩
  · let p : Fin 2 := 0
    let s : State := mkCores s0
    let s : State := { s with
      pwr.start := none
      hif.lastGroup := some 0
      eth.port := s.eth.port.put p { s.eth.port[p] with queue := [.cmd 5 peer0 2 [desc1] 3 4] } }
    exact ⟨s, p, 1, 5, 3, 4, desc1, by decide +kernel +revert⟩
  · let s : State := { s0 with pwr.start := none }
    exact ⟨s, by decide +kernel +revert⟩
  · let s : State := { s0 with pwr.start := none }
    let s : State := mkCores s
    let s : State := { s with
      hif.lastGroup := some 2
      mgt.busy := true
      mgt.late := none
      mgt.mailbox := 0
      running := [] }
    let d : Desc := s.mgt.mailbox
    exact ⟨s, d, by decide +kernel +revert⟩
  · let st : Start := Start.begin .por 0
    let st : Start := { st with restored := true }
    let st : Start := { st with record := true }
    let st : Start := { st with granary := true }
    let s : State := mkCores s0
    let s : State := { s with pwr.start := some st }
    let s : State := { s with running := [], boot.startup := [0, dset 0 1 3 1 1, 0], boot.startupNext := 1 }
    let i : Nat := s.boot.startupNext
    let d : Desc := (s.boot.startup[i]?).getD 0
    exact ⟨s, st, d, i, by decide +kernel +revert⟩

theorem test_witness_DmaDescriptors :
    (∃ (s : State) (k : Fin 32) (w : BitVec 256), s.pwr.core = true ∧ (s.dma.ch[k]).state = .fetch ∧ 8 ≤ k.val ∧
      jobOn k s = none ∧ (s.dma.ch[k]).descHost = true ∧ ((parseDma w).link = false ∨ (parseDma w).last = true) ∧
      checkDesc (parseDma w) s = none) ∧
    (∃ (s : State) (k : Fin 32) (w : BitVec 256) (code : Byte), s.pwr.core = true ∧ (s.dma.ch[k]).state = .fetch ∧
      8 ≤ k.val ∧ jobOn k s = none ∧ (s.dma.ch[k]).descHost = true ∧
      ((parseDma w).link = false ∨ (parseDma w).last = true) ∧ checkDesc (parseDma w) s = some code) ∧
    (∃ (s : State) (k : Fin 32), s.pwr.core = true ∧ (s.dma.ch[k]).state = .fetch ∧ 8 ≤ k.val ∧ jobOn k s = none ∧
      (s.dma.ch[k]).descHost = true) ∧
    (∃ (s : State) (k : Fin 32) (w : BitVec 256), s.pwr.core = true ∧ (s.dma.ch[k]).state = .fetch ∧ 8 ≤ k.val ∧
      jobOn k s = none ∧ (s.dma.ch[k]).descHost = true ∧ (parseDma w).link = true ∧ (parseDma w).last = false ∧
      (s.dma.ch[k]).links + 1 < 16 ∧ (parseDma w).src % 32 = 0 ∧
      (if (parseDma w).srcHost then hostReachable s = true else (parseDma w).src < grnSize)) ∧
    (∃ (s : State) (k : Fin 32) (x : DmaDesc), s.pwr.core = true ∧ (s.dma.ch[k]).state = .fetch ∧ 8 ≤ k.val ∧
      jobOn k s = none ∧ (s.dma.ch[k]).descHost = false ∧ grnReady s = true ∧
      grnMay s permDmaR false (s.dma.ch[k]).descAddr 32 = true ∧ s.grn.marks = [] ∧
      x = parseDma (BitVec.ofNat 256 (leNat (grnRead s (s.dma.ch[k]).descAddr 32))) ∧
      (x.link = false ∨ x.last = true) ∧ checkDesc x s = none) ∧
    (∃ (s : State) (k : Fin 32) (j : DmaJob), s.pwr.core = true ∧ (s.dma.ch[k]).state = .fetch ∧ 8 ≤ k.val ∧
      jobOn k s = some j ∧ j.xfer.link = false ∧ checkDesc j.xfer s = none) := by
  refine ⟨?_, ?_, ?_, ?_, ?_, ?_⟩
  · let k : Fin 32 := 8
    let s : State := { s0 with
      pwr.core := true
      dma.ch := s0.dma.ch.put k { s0.dma.ch[k] with state := .fetch, descHost := true, links := 14 } }
    exact ⟨s, k, encDma xfer0, by decide +kernel +revert⟩
  · let k : Fin 32 := 8
    let s : State := { s0 with
      pwr.core := true
      dma.ch := s0.dma.ch.put k { s0.dma.ch[k] with state := .fetch, descHost := true, links := 14 } }
    exact ⟨s, k, 0, 0x13, by decide +kernel +revert⟩
  · let k : Fin 32 := 8
    let s : State := { s0 with
      pwr.core := true
      dma.ch := s0.dma.ch.put k { s0.dma.ch[k] with state := .fetch, descHost := true, links := 14 } }
    exact ⟨s, k, by decide +kernel +revert⟩
  · let k : Fin 32 := 8
    let s : State := { s0 with
      pwr.core := true
      dma.ch := s0.dma.ch.put k { s0.dma.ch[k] with state := .fetch, descHost := true, links := 14 } }
    exact ⟨s, k, encDma { xfer0 with last := false, link := true }, by decide +kernel +revert⟩
  · let k : Fin 32 := 8
    let s : State := mkGrn (mkRegAll { s0 with pwr.core := true })
    let s : State := { s with
      dma.ch := s.dma.ch.put k { s.dma.ch[k] with state := .fetch, descHost := false, descAddr := 0x700000 }
      grn.mem := Memory.writeBytes [] 0x700000 (le 32 (encDma xfer0).toNat) }
    exact ⟨s, k, xfer0, by decide +kernel +revert⟩
  · let j : DmaJob := ⟨cmd0, none, 8, 31, xfer0, 0, 0, 0, false, [], false⟩
    let k : Fin 32 := 8
    let j : DmaJob := { j with ch := some k, xfer := xfer0 }
    let s : State := { s0 with
      pwr.core := true
      jobs := [j]
      dma.ch := s0.dma.ch.put k { s0.dma.ch[k] with state := .fetch } }
    exact ⟨s, k, j, by decide +kernel +revert⟩

theorem test_witness_DmaProgress :
    (∃ (s : State) (k : Fin 32) (x : DmaDesc) (data : List Byte), s.pwr.core = true ∧ (s.dma.ch[k]).state = .run ∧
      abortedNow k s = false ∧ (s.dma.ch[k]).cur = some x ∧ x.readsHost = true ∧
      (s.dma.ch[k]).fits x data.length = true ∧ data.length ≤ x.total - (s.dma.ch[k]).remain - (s.dma.ch[k]).arrived ∧
      (s.dma.ch[k]).written < x.total) ∧
    (∃ (s : State) (k : Fin 32) (x : DmaDesc) (a n left : Nat) (fresh : Bool), s.pwr.core = true ∧
      (s.dma.ch[k]).state = .run ∧ abortedNow k s = false ∧ (s.dma.ch[k]).cur = some x ∧ x.srcHost = false ∧
      x.fill = false ∧ jobOn k s = none ∧ s.dma.burst = some ⟨k, left, false, fresh⟩ ∧
      a = x.srcAt (s.dma.ch[k]).arrived ∧ n = min (32 - a % 32) left ∧ 0 < n ∧ (s.dma.ch[k]).hold.length + n ≤ 64 ∧
      grnReady s = true ∧ s.grn.marks = [] ∧ grnMay s permDmaR false a n = true ∧ (s.dma.ch[k]).written < x.total) ∧
    (∃ (s : State) (k : Fin 32) (x : DmaDesc) (a n : Nat) (data : List Byte), s.pwr.core = true ∧ 8 ≤ k.val ∧
      (s.dma.ch[k]).state = .run ∧ abortedNow k s = false ∧ (s.dma.ch[k]).cur = some x ∧ x.dstHost = false ∧
      x.dwidth = 3 ∧ jobOn k s = none ∧ (s.dma.ch[k]).canWrite = true ∧ n = x.writeLen (s.dma.ch[k]).written ∧
      (burstAt k s).isSome = true ∧ a = x.dstAt (s.dma.ch[k]).written ∧ grnReady s = true ∧ s.grn.marks = [] ∧
      grnMay s permDmaW false a n = true ∧ a + n ≤ grnSize ∧ (s.dma.ch[k]).written + n < x.total ∧
      data = (if x.fill then (List.range n).map (fun i => x.fillByte (a + i)) else (s.dma.ch[k]).hold.take n) ∧
      Memory.wf s.grn.mem = true) ∧
    (∃ (s : State) (k : Fin 32) (x : DmaDesc), s.pwr.core = true ∧ 8 ≤ k.val ∧ (s.dma.ch[k]).state = .run ∧
      abortedNow k s = false ∧ (s.dma.ch[k]).cur = some x ∧ x.readsHost = true ∧
      (s.dma.ch[k]).arrived < x.total - (s.dma.ch[k]).remain) ∧
    (∃ (s : State) (k : Fin 32) (what : DmaWait) (x : Nat × Bool), s.pwr.core = true ∧ 8 ≤ k.val ∧
      timedOut k what s = some x) ∧
    (∃ (s : State) (l : Fin 8) (k : Fin 32), k.val = l.val ∧ s.pwr.core = true ∧ (s.dma.ch[k]).state = .waitRequest) ∧
    (∃ (s : State) (l : Fin 8) (k : Fin 32), k.val = l.val ∧ s.pwr.core = true ∧ (s.dma.ch[k]).state = .run ∧
      (s.dma.ch[k]).requests < 2) ∧
    (∃ (s : State) (l : Fin 8) (k : Fin 32), k.val = l.val ∧ s.pwr.core = true ∧ (s.dma.ch[k]).state = .run ∧
      2 ≤ (s.dma.ch[k]).requests ∧ s.lpl.work = none) ∧
    (∃ (s : State) (j : DmaJob) (k : Fin 32), coresUp s = true ∧ s.jobs = [j] ∧ j.ch = none ∧ j.dead = false ∧
      freeCh j.lo j.hi s = some k) ∧
    (∃ (s : State) (j : DmaJob) (k : Fin 32), coresUp s = true ∧ jobOn k s = some j ∧ j.dead = false ∧
      (s.dma.ch[k]).state = .idle ∧ j.cmd.opcode = 0x61) ∧
    (∃ (s : State) (j : DmaJob) (k : Fin 32), coresUp s = true ∧ jobOn k s = some j ∧ j.dead = false ∧
      (s.dma.ch[k]).state = .halted ∧ j.cmd.opcode = 0x61) := by
  refine ⟨?_, ?_, ?_, ?_, ?_, ?_, ?_, ?_, ?_, ?_, ?_⟩
  · let k : Fin 32 := 0
    let x : DmaDesc := { xfer0 with srcHost := true }
    let s : State := { s0 with pwr.core := true, dma.ch := s0.dma.ch.put k { s0.dma.ch[k] with state := .run } }
    let s : State := { s with dma.ch := s.dma.ch.put k { s.dma.ch[k] with cur := some x } }
    exact ⟨s, k, x, (List.range 32).map fun i => BitVec.ofNat 8 (i + 3), by decide +kernel +revert⟩
  · let k : Fin 32 := 0
    let fresh : Bool := false
    let s : State := mkGrn (mkRegAll { s0 with pwr.core := true })
    let s : State := { s with
      dma.ch := s.dma.ch.put k { s.dma.ch[k] with
        state := .run
        hold := []
        arrived := 64
        remain := 448
        written := 64
        cur := some xfer0 } }
    let left : Nat := 256
    let s : State := { s with dma.burst := some ⟨k, left, false, fresh⟩ }
    exact ⟨s, k, xfer0, xfer0.srcAt 64, 32, left, fresh, by decide +kernel +revert⟩
  · let k : Fin 32 := 8
    let s : State := mkGrn (mkRegAll { s0 with pwr.core := true })
    let s : State := { s with
      dma.ch := s.dma.ch.put k { s.dma.ch[k] with
        state := .run
        hold := List.replicate 64 7
        arrived := 128
        remain := 384
        written := 64
        cur := some xfer0 }
      dma.burst := some ⟨k, 256, true, true⟩ }
    let n : Nat := xfer0.writeLen 64
    let data : List Byte := List.replicate n 7
    exact ⟨s, k, xfer0, xfer0.dstAt 64, n, data, by decide +kernel +revert⟩
  · let x : DmaDesc := { xfer0 with srcHost := true }
    let k : Fin 32 := 8
    let s : State := { s0 with
      pwr.core := true
      dma.ch := s0.dma.ch.put k { s0.dma.ch[k] with
        state := .run
        hold := []
        arrived := 64
        remain := 384
        written := 64
        cur := some x } }
    exact ⟨s, k, x, by decide +kernel +revert⟩
  · let k : Fin 32 := 0
    let k : Fin 32 := Fin.ofNat 32 (k.val % 24 + 8)
    let s : State := { s0 with
      pwr.core := true
      dma.burst := some ⟨k, 256, true, true⟩
      dma.ch := s0.dma.ch.put k { s0.dma.ch[k] with
        state := .run
        hold := List.replicate 64 7
        arrived := 128
        remain := 384
        written := 64
        cur := some xfer0 } }
    exact ⟨s, k, .dest, (xfer0.dstAt 64, false), by decide +kernel +revert⟩
  · let k : Fin 32 := 0
    let s : State := { s0 with
      pwr.core := true
      dma.ch := s0.dma.ch.put k { s0.dma.ch[k] with state := .waitRequest } }
    exact ⟨s, 0, k, by decide +kernel +revert⟩
  · let k : Fin 32 := 0
    let s : State := { s0 with pwr.core := true, dma.ch := s0.dma.ch.put k { s0.dma.ch[k] with state := .run } }
    exact ⟨s, 0, k, by decide +kernel +revert⟩
  · let k : Fin 32 := 0
    let s : State := { s0 with pwr.core := true, dma.ch := s0.dma.ch.put k { s0.dma.ch[k] with state := .run } }
    let s : State := { s with dma.ch := s.dma.ch.put k { s.dma.ch[k] with requests := (2) } }
    exact ⟨s, 0, k, by decide +kernel +revert⟩
  · let j : DmaJob := ⟨cmd0, none, 8, 31, xfer0, 0, 0, 0, false, [], false⟩
    let s : State := mkCores s0
    let s : State := { s with jobs := [j] }
    let k : Fin 32 := (freeCh j.lo j.hi s).getD 0
    exact ⟨s, j, k, by decide +kernel +revert⟩
  · let j : DmaJob := ⟨cmd0, none, 8, 31, xfer0, 0, 0, 0, false, [], false⟩
    let k : Fin 32 := 0
    let j : DmaJob := { j with ch := some k, dead := false, cmd := { j.cmd with d := dset j.cmd.d 0 0 8 0x61 } }
    let s : State := mkCores s0
    let s : State := { s with jobs := [j] }
    exact ⟨s, j, k, by decide +kernel +revert⟩
  · let j : DmaJob := ⟨cmd0, none, 8, 31, xfer0, 0, 0, 0, false, [], false⟩
    let k : Fin 32 := 0
    let j : DmaJob := { j with ch := some k, dead := false, cmd := { j.cmd with d := dset j.cmd.d 0 0 8 0x61 } }
    let s : State := mkCores s0
    let s : State := { s with dma.ch := s.dma.ch.put k { s.dma.ch[k] with state := .halted } }
    let s : State := { s with jobs := [j] }
    exact ⟨s, j, k, by decide +kernel +revert⟩

theorem test_witness_FramesAndTheirFailures :
    (∃ (s : State), lampRuns s = true) ∧
    (∃ (s : State), lampRuns s = true ∧ s.lpl.scanning = false ∧ s.lpl.work = none ∧ s.thm.shutdown = false) ∧
    (∃ (s : State) (f : Frame), s.pwr.core = true ∧ s.lpl.work = some f ∧ f.finished = false) ∧
    (∃ (s : State) (l : Fin 8) (f : Frame) (v : LayerView) (a : Nat), s.pwr.core = true ∧ s.lpl.work = some f ∧
      f.finished = false ∧ f.view[Fin.castSucc l] = some v ∧ v.set.cfg.source = .host a ∧ v.underrun = none ∧
      v.sym = none ∧ bitOf s.cmp.late l.val = false) ∧
    (∃ (s : State) (n : Fin 9) (b : Fin 4), s.pwr.core = true ∧ bankRead n s = some b) ∧
    (∃ (s : State) (n : Fin 9), bankRead n s = none) := by
  refine ⟨?_, ?_, ?_, ?_, ?_, ?_⟩
  · let s : State := { s0 with pwr.core := true, pwr.start := none }
    exact ⟨s, by decide +kernel +revert⟩
  · let s : State := { s0 with pwr.core := true, pwr.start := none }
    exact ⟨s, by decide +kernel +revert⟩
  · let f : Frame := { frame0 with finished := false }
    let s : State := { s0 with pwr.core := true, lpl.work := some f }
    exact ⟨s, f, by decide +kernel +revert⟩
  · let f : Frame := { frame0 with
      finished := false
      view := frame0.view.put 0 (some { view0 with
        set := { view0.set with cfg := { view0.set.cfg with source := .host 0 } }
        underrun := none
        sym := none }) }
    let v : LayerView := { view0 with
      set := { view0.set with cfg := { view0.set.cfg with source := .host 0 } }
      underrun := none
      sym := none }
    let s : State := { s0 with pwr.core := true, lpl.work := some f, cmp.late := 0 }
    exact ⟨s, 0, f, v, 0, by decide +kernel +revert⟩
  · let n : Fin 9 := 0
    let b : Fin 4 := 0
    let s : State := { s0 with
      pwr.core := true
      lpl.work := some { frame0 with
        finished := false
        view := frame0.view.put n (some { view0 with
          fallback := none
          set := { view0.set with warp := { view0.set.warp with mode := .projective, bank := b } } }) }
      cmp.bank := s0.cmp.bank.put n (s0.cmp.bank[n].put b { s0.cmp.bank[n][b] with state := .ready }) }
    exact ⟨s, n, b, by decide +kernel +revert⟩
  · exact ⟨s0, 0, by decide +kernel⟩

theorem test_witness_SyncAndEchoes :
    (∃ (s : State) (e : Nat), syncGoverns s = true ∧ s.lpl.lastEdge = some e ∧
      s.lpl.timing.period * 98 ≤ (s.now - e) * 100 ∧ (s.now - e) * 100 ≤ s.lpl.timing.period * 102 ∧
      s.lpl.timing.active + 8000 ≤ s.now - e) ∧
    (∃ (s : State), syncGoverns s = true ∧ s.lpl.lastEdge = none) ∧
    (∃ (s : State) (e : Nat), syncGoverns s = true ∧ s.lpl.lastEdge = some e ∧
      (s.now - e) * 100 < s.lpl.timing.period * 98) ∧
    (∃ (s : State), syncGoverns s = true) ∧
    (∃ (s : State), syncGoverns s = true ∧ s.lpl.hold = true) ∧
    (∃ (s : State), s.pwr.core = true) ∧
    (∃ (s : State) (w : EchoWin) (r : List EchoWin), s.pwr.hedge = true ∧ s.hdg.echoWins = w :: r ∧ w.expected = w.got) ∧
    (∃ (s : State) (b : Nat), s.pwr.core = true ∧ s.pho.plane = some (.copying b)) := by
  refine ⟨?_, ?_, ?_, ?_, ?_, ?_, ?_, ?_⟩
  · let e : Nat := 1000050
    let s : State := { s0 with
      pwr.core := true
      now := 9000000
      lpl.lastEdge := some e
      lpl.timing := { s0.lpl.timing with source := .syncIn, period := 8000000, vbi := 1000000 } }
    exact ⟨s, e, by decide +kernel +revert⟩
  · let s : State := { s0 with pwr.core := true, lpl.timing.source := .syncIn, yok.state := .solo }
    exact ⟨s, by decide +kernel +revert⟩
  · let e : Nat := 0
    let s : State := { s0 with
      pwr.core := true
      lpl.timing.source := .syncIn
      yok.state := .solo
      lpl.lastEdge := some e }
    exact ⟨s, e, by decide +kernel +revert⟩
  · let s : State := { s0 with pwr.core := true, lpl.timing.source := .syncIn, yok.state := .solo }
    exact ⟨s, by decide +kernel +revert⟩
  · let s : State := { s0 with pwr.core := true, lpl.timing.source := .syncIn, yok.state := .solo, lpl.hold := true }
    exact ⟨s, by decide +kernel +revert⟩
  · let s : State := { s0 with pwr.core := true }
    exact ⟨s, by decide +kernel +revert⟩
  · let w : EchoWin := echo0
    let r : List EchoWin := []
    let s : State := { s0 with pwr.hedge := true, hdg.echoWins := w :: r }
    exact ⟨s, w, r, by decide +kernel +revert⟩
  · let b : Nat := 0
    let s : State := { s0 with pwr.core := true, pho.plane := some (.copying b) }
    exact ⟨s, b, by decide +kernel +revert⟩

theorem test_witness_ThermalSteps :
    (∃ (s : State) (k : Fin 24) (i : Fin 120) (v : Int), s.pwr.core = true ∧ i.val = k.val ∧
      (s.thm.sensor[k]).valid = true ∧ plausible ((s.thm.sensor[k]).reading i.val v) = true) ∧
    (∃ (s : State) (k : Fin 24) (i : Fin 120) (v : Int), s.pwr.core = true ∧ i.val = k.val ∧
      (s.thm.sensor[k]).valid = true ∧ plausible ((s.thm.sensor[k]).reading i.val v) = false ∧
      (s.thm.sensor[k]).st.badRun < 2) ∧
    (∃ (s : State) (k : Fin 24) (i : Fin 120) (v : Int), s.pwr.core = true ∧ i.val = k.val ∧
      (s.thm.sensor[k]).valid = true ∧ plausible ((s.thm.sensor[k]).reading i.val v) = false ∧
      2 ≤ (s.thm.sensor[k]).st.badRun) ∧
    (∃ (s : State) (k : Fin 96) (i : Fin 120), s.pwr.core = true ∧ i.val = 24 + k.val ∧ (s.thm.tile[k]).fresh = true ∧
      tileTempOk (s.thm.tile[k]) = true) ∧
    (∃ (s : State), s.pwr.core = true) ∧
    (∃ (s : State), s.pwr.core = true ∧ 2 ≤ lightState s) ∧
    (∃ (s : State), s.pwr.core = true ∧ s.thm.die.allBroken = false) ∧
    (∃ (s : State), s.pwr.core = true ∧ s.thm.calMaxS ≠ 0 ∧ s.thm.run = none ∧ calAllowed s = true) ∧
    (∃ (s : State) (r : CalRun) (x : CalStep) (l : List CalStep), s.thm.run = some r ∧ r.steps = x :: l ∧
      s.lpl.scanning = false ∧ x.item ≠ 3) := by
  refine ⟨?_, ?_, ?_, ?_, ?_, ?_, ?_, ?_, ?_⟩
  · let k : Fin 24 := 5
    let s : State := { s0 with
      pwr.core := true
      thm.sensor := s0.thm.sensor.put k { s0.thm.sensor[k] with
        used := true
        st := { s0.thm.sensor[k].st with broken := false } } }
    exact ⟨s, k, 5, 0, by decide +kernel +revert⟩
  · let k : Fin 24 := 5
    let s : State := { s0 with
      pwr.core := true
      thm.sensor := s0.thm.sensor.put k { s0.thm.sensor[k] with
        used := true
        st := { s0.thm.sensor[k].st with broken := false, badRun := 1 } } }
    exact ⟨s, k, 5, 4000, by decide +kernel +revert⟩
  · let k : Fin 24 := 5
    let s : State := { s0 with
      pwr.core := true
      thm.sensor := s0.thm.sensor.put k { s0.thm.sensor[k] with
        used := true
        st := { s0.thm.sensor[k].st with broken := false, badRun := 2 } } }
    exact ⟨s, k, 5, 4000, by decide +kernel +revert⟩
  · let k : Fin 96 := 0
    let s : State := { s0 with
      pwr.core := true
      thm.tile := s0.thm.tile.put k { s0.thm.tile[k] with
        fresh := true
        stale := false
        st := { s0.thm.tile[k].st with broken := false } } }
    exact ⟨s, k, 24, by decide +kernel +revert⟩
  · let s : State := { s0 with pwr.core := true }
    exact ⟨s, by decide +kernel +revert⟩
  · let s : State := { s0 with
      pwr.core := true
      thm.sensor := s0.thm.sensor.put 0 { s0.thm.sensor[0] with
        used := true
        light := true
        st := { s0.thm.sensor[0].st with broken := false, state := 2 } } }
    exact ⟨s, by decide +kernel +revert⟩
  · let s : State := { s0 with pwr.core := true }
    exact ⟨s, by decide +kernel +revert⟩
  · let s : State := { s0 with pwr.core := true }
    exact ⟨s, by decide +kernel +revert⟩
  · let r : CalRun := ⟨0, [], 0, [], 0, 0, none, false⟩
    let x : CalStep := ⟨0, 0⟩
    let l : List CalStep := []
    let r : CalRun := { r with steps := x :: l }
    let s : State := { s0 with thm.run := some r }
    exact ⟨s, r, x, l, by decide +kernel +revert⟩

theorem test_witness_Datagrams :
    (∃ (s : State) (p : Fin 2) (f : RxFrame), macUp p s = true ∧ f.fcsOk = true ∧
      frameOk s.eth.port[p] f false (rowUdp 47810 s.eth.port[p] f) = true ∧ cmdBad f.payload = false ∧
      allowed s.eth.port[p] f.from'.ip = true ∧
      (∀ x, (s.eth.port[p]).senders.find? (fun y => y.ip == f.from'.ip && y.port == f.from'.port) = some x →
        x.sequence ≠ BitVec.ofNat 32 (hdr f.payload 4 4) ∧
          (BitVec.ofNat 32 (hdr f.payload 4 4) - x.sequence).msb = false) ∧ (s.eth.port[p]).queue.length < 64) ∧
    (∃ (s : State) (p : Fin 2) (f : RxFrame) (x : Sender) (r : List Byte), macUp p s = true ∧ f.fcsOk = true ∧
      frameOk s.eth.port[p] f false (rowUdp 47810 s.eth.port[p] f) = true ∧ cmdBad f.payload = false ∧
      allowed s.eth.port[p] f.from'.ip = true ∧
      (s.eth.port[p]).senders.find? (fun y => y.ip == f.from'.ip && y.port == f.from'.port) = some x ∧
      x.sequence = BitVec.ofNat 32 (hdr f.payload 4 4) ∧ x.reply = some r ∧ (s.eth.port[p]).queue.length < 64) ∧
    (∃ (s : State) (p : Fin 2) (f : RxFrame) (k : Nat) (a : Peer) (b : BitVec 32) (l : List Desc) (n c : Nat) (r : List Datagram),
      macUp p s = true ∧ f.fcsOk = true ∧ frameOk s.eth.port[p] f false (rowUdp 47811 s.eth.port[p] f) = true ∧
      bulkBad f.payload = false ∧ allowed s.eth.port[p] f.from'.ip = true ∧
      (s.eth.port[p]).queue = .cmd k a b l n c :: r ∧ (s.eth.port[p]).queue.length < 64) ∧
    (∃ (s : State) (p : Fin 2) (f : RxFrame), macUp p s = true ∧ f.fcsOk = true ∧
      frameOk s.eth.port[p] f false (rowUdp 47811 s.eth.port[p] f) = true ∧ bulkBad f.payload = false ∧
      allowed s.eth.port[p] f.from'.ip = true ∧ (s.eth.port[p]).queue = [] ∧ serves (.eth p 0 0) s = true) ∧
    (∃ (s : State) (p : Fin 2) (f : RxFrame), macUp p s = true ∧ f.fcsOk = true ∧
      frameOk s.eth.port[p] f false (rowUdp 47810 s.eth.port[p] f) = true ∧ cmdBad f.payload = true) ∧
    (∃ (s : State) (p : Fin 2) (f : RxFrame), macUp p s = true ∧ f.fcsOk = true ∧
      frameOk s.eth.port[p] f false (rowUdp 47811 s.eth.port[p] f) = true ∧ bulkBad f.payload = true) ∧
    (∃ (s : State) (p : Fin 2) (x : Exec), coresUp s = true ∧ (s.eth.port[p]).execs = [x] ∧ x.done.length = x.count ∧
      (s.eth.port[p]).link = true) := by
  refine ⟨?_, ?_, ?_, ?_, ?_, ?_, ?_⟩
  · let p : Fin 2 := 0
    let f : RxFrame := { rx0 with payload := [0x47, 0x4C, 1, 1, 0, 0, 0, 1] ++ List.replicate 72 0 }
    let s : State := mkCores s0
    let s : State := { s with eth.port := s.eth.port.put p { s.eth.port[p] with enabled := true, link := true } }
    exact ⟨s, p, f, by decide +kernel +revert⟩
  · let p : Fin 2 := 0
    let f : RxFrame := { rx0 with payload := [0x47, 0x4C, 1, 1, 0, 0, 0, 1] ++ List.replicate 72 0 }
    let x : Sender := ⟨peer0.ip, peer0.port, 0x01000000, some []⟩
    let s : State := mkCores s0
    let s : State := { s with
      eth.port := s.eth.port.put p { s.eth.port[p] with enabled := true, link := true, senders := [x] } }
    exact ⟨s, p, f, x, [], by decide +kernel +revert⟩
  · let p : Fin 2 := 0
    let f : RxFrame := { rx0 with payload := [0x42, 0x4C, 1, 0] ++ List.replicate 28 0 }
    let k : Nat := 0
    let a : Peer := peer0
    let b : BitVec 32 := 0
    let l : List Desc := []
    let n : Nat := 0
    let c : Nat := 0
    let r : List Datagram := []
    let s : State := mkCores s0
    let s : State := { s with eth.port := s.eth.port.put p { s.eth.port[p] with enabled := true, link := true } }
    let f : RxFrame := { f with port := 47811 }
    let s : State := { s with eth.port := s.eth.port.put p { s.eth.port[p] with queue := .cmd k a b l n c :: r } }
    exact ⟨s, p, f, k, a, b, l, n, c, r, by decide +kernel +revert⟩
  · let p : Fin 2 := 0
    let f : RxFrame := { rx0 with payload := [0x42, 0x4C, 1, 0] ++ List.replicate 28 0 }
    let s : State := mkCores s0
    let s : State := { s with eth.port := s.eth.port.put p { s.eth.port[p] with enabled := true, link := true } }
    let f : RxFrame := { f with port := 47811 }
    exact ⟨s, p, f, by decide +kernel +revert⟩
  · let p : Fin 2 := 0
    let s : State := mkCores s0
    let s : State := { s with eth.port := s.eth.port.put p { s.eth.port[p] with enabled := true, link := true } }
    exact ⟨s, p, rx0, by decide +kernel +revert⟩
  · let p : Fin 2 := 0
    let s : State := mkCores s0
    let s : State := { s with eth.port := s.eth.port.put p { s.eth.port[p] with enabled := true, link := true } }
    exact ⟨s, p, { rx0 with port := 47811 }, by decide +kernel +revert⟩
  · let p : Fin 2 := 0
    let x : Exec := ⟨0, peer0, 0, 0, []⟩
    let s : State := mkCores s0
    let s : State := { s with eth.port := s.eth.port.put p { s.eth.port[p] with execs := [x], link := true } }
    exact ⟨s, p, x, by decide +kernel +revert⟩

theorem test_witness_EthernetFrames :
    (∃ (s : State) (p : Fin 2) (f : RxFrame), macUp p s = true ∧ f.fcsOk = true ∧
      frameOk s.eth.port[p] f false (rowArp s.eth.port[p] f) = true) ∧
    (∃ (s : State) (p : Fin 2) (f : RxFrame), macUp p s = true ∧ f.fcsOk = true ∧
      frameOk s.eth.port[p] f false (rowIcmp s.eth.port[p] f) = true ∧ (s.eth.port[p]).echoes < 16) ∧
    (∃ (s : State) (p : Fin 2), s.pwr.core = true ∧ (s.eth.port[p]).enabled = true ∧ (s.eth.port[p]).link = false ∧
      s.tst.job = none) ∧
    (∃ (s : State) (p : Fin 2), s.pwr.core = true ∧ (s.eth.port[p]).link = true) ∧
    (∃ (s : State) (p : Fin 2) (q : Fin 8) (g : EgFrame) (r : List EgFrame) (k : Int), macSends p s = true ∧
      (s.eth.port[p]).egress[q] = g :: r ∧ g.launch = some k) ∧
    (∃ (s : State) (p : Fin 2) (g : EgFrame) (r : List EgFrame), macSends p s = true ∧
      (∀ q : Fin 8, q ≠ 1 → (s.eth.port[p]).egress[q] = []) ∧ (s.eth.port[p]).egress[(1 : Fin 8)] = g :: r ∧
      g.launch = none ∧ (∀ m a b c, g.payload ≠ .ptp m a b c)) := by
  refine ⟨?_, ?_, ?_, ?_, ?_, ?_⟩
  · let p : Fin 2 := 0
    let s : State := mkCores s0
    let s : State := { s with eth.port := s.eth.port.put p { s.eth.port[p] with enabled := true, link := true } }
    exact ⟨s, p, { rx0 with etherType := 0x0806 }, by decide +kernel +revert⟩
  · let p : Fin 2 := 0
    let s : State := mkCores s0
    let s : State := { s with eth.port := s.eth.port.put p { s.eth.port[p] with enabled := true, link := true } }
    exact ⟨s, p, { rx0 with protocol := 1 }, by decide +kernel +revert⟩
  · let p : Fin 2 := 0
    let s : State := { s0 with
      pwr.core := true
      eth.port := s0.eth.port.put p { s0.eth.port[p] with enabled := true } }
    exact ⟨s, p, by decide +kernel +revert⟩
  · let p : Fin 2 := 0
    let s : State := { s0 with pwr.core := true, eth.port := s0.eth.port.put p { s0.eth.port[p] with link := true } }
    exact ⟨s, p, by decide +kernel +revert⟩
  · let p : Fin 2 := 0
    let q : Fin 8 := 0
    let g : EgFrame := ⟨.gratuitousArp, none, true⟩
    let r : List EgFrame := []
    let k : Int := 0
    let g : EgFrame := { g with launch := some k }
    let s : State := mkCores s0
    let s : State := { s with eth.port := s.eth.port.put p { s.eth.port[p] with enabled := true, link := true } }
    let s : State := { s with
      eth.port := s.eth.port.put p { s.eth.port[p] with egress := Tab.put ((s.eth.port)[p].egress) (q) (g :: r) } }
    exact ⟨s, p, q, g, r, k, by decide +kernel +revert⟩
  · let p : Fin 2 := 0
    let g : EgFrame := ⟨.gratuitousArp, none, true⟩
    let r : List EgFrame := []
    let g : EgFrame := { g with launch := none }
    let s : State := mkCores s0
    let s : State := { s with eth.port := s.eth.port.put p { s.eth.port[p] with enabled := true, link := true } }
    let s : State := { s with
      eth.port := s.eth.port.put p { s.eth.port[p] with
        egress := Tab.put ((s.eth.port)[p].egress) ((1 : Fin 8)) (g :: r) } }
    exact ⟨s, p, g, r, by decide +kernel +revert, by decide +kernel +revert, by decide +kernel +revert,
      by decide +kernel +revert, nofun⟩

theorem test_witness_PrecisionTime :
    (∃ (s : State) (p : Fin 2) (f : RxFrame) (m : PtpIn), macUp p s = true ∧ f.fcsOk = true ∧
      frameOk s.eth.port[p] f (isGptp p s) (rowPtp s.eth.port[p] f) = true ∧ m.domain = (s.eth.port[p]).ptp.domain ∧
      ptpRuns p s = true ∧ isSource p s = true ∧ m.twoStep = true) ∧
    (∃ (s : State) (p : Fin 2) (f : RxFrame) (m : PtpIn), macUp p s = true ∧ f.fcsOk = true ∧
      frameOk s.eth.port[p] f (isGptp p s) (rowPtp s.eth.port[p] f) = true ∧ m.domain = (s.eth.port[p]).ptp.domain ∧
      ptpRuns p s = true ∧ isSource p s = true ∧ m.twoStep = false) ∧
    (∃ (s : State) (p : Fin 2) (f : RxFrame) (m : PtpIn) (w : SyncWait), macUp p s = true ∧ f.fcsOk = true ∧
      frameOk s.eth.port[p] f (isGptp p s) (rowPtp s.eth.port[p] f) = true ∧ m.domain = (s.eth.port[p]).ptp.domain ∧
      ptpRuns p s = true ∧ isSource p s = true ∧ (s.eth.port[p]).syncWait = some w ∧ w.seq = m.seq) ∧
    (∃ (s : State) (p : Fin 2) (f : RxFrame) (m : PtpIn), macUp p s = true ∧ f.fcsOk = true ∧
      frameOk s.eth.port[p] f (isGptp p s) (rowPtp s.eth.port[p] f) = true ∧ m.domain = (s.eth.port[p]).ptp.domain ∧
      ptpRuns p s = true ∧ (s.eth.port[p]).ptp.profile ≠ 0) ∧
    (∃ (s : State) (p : Fin 2) (f : RxFrame) (m : PtpIn), macUp p s = true ∧ f.fcsOk = true ∧
      frameOk s.eth.port[p] f (isGptp p s) (rowPtp s.eth.port[p] f) = true ∧ m.domain = (s.eth.port[p]).ptp.domain ∧
      ptpRuns p s = true ∧ (s.eth.port[p]).ptp.profile = 0 ∧ (s.eth.port[p]).ptpState = .master) ∧
    (∃ (s : State) (p : Fin 2) (f : RxFrame) (m : PtpIn) (t1 : Int) (w : PdelayWait) (r : Rat), macUp p s = true ∧
      f.fcsOk = true ∧ frameOk s.eth.port[p] f (isGptp p s) (rowPtp s.eth.port[p] f) = true ∧
      m.domain = (s.eth.port[p]).ptp.domain ∧ ptpRuns p s = true ∧ (s.eth.port[p]).ptp.profile ≠ 0 ∧
      (s.eth.port[p]).delayT3 = some t1 ∧ (s.eth.port[p]).pdelay = some w ∧ w.seq = m.seq ∧
      r = rateRatio s.eth.port[p] (some (m.time + w.correction + m.correction)) w.t4) ∧
    (∃ (s : State) (p : Fin 2) (f : RxFrame) (a : AnnounceIn), macUp p s = true ∧ f.fcsOk = true ∧
      frameOk s.eth.port[p] f (isGptp p s) (rowPtp s.eth.port[p] f) = true ∧ a.domain = (s.eth.port[p]).ptp.domain ∧
      ptpRuns p s = true ∧ a.data.sender ≠ clockIdentity s ∧ a.data.steps < 255) ∧
    (∃ (s : State) (p : Fin 2) (f : RxFrame) (a : AnnounceIn), macUp p s = true ∧ f.fcsOk = true ∧
      frameOk s.eth.port[p] f (isGptp p s) (rowPtp s.eth.port[p] f) = true ∧ a.domain = (s.eth.port[p]).ptp.domain ∧
      decides p s = true ∧ coresUp s = true ∧ a.data.sender ≠ clockIdentity s ∧ a.data.steps < 255 ∧
      (s.eth.port[1 - p]).link = false ∧ isSource (1 - p) s = false ∧ (s.eth.port[p]).ptp.role ≠ 3 ∧
      127 < (ownData s).clockClass ∧
      (∀ x ∈ (s.eth.port[p]).foreign, x.data.sender = a.data.sender ∧ x.data.senderPort = a.data.senderPort) ∧
      ((s.eth.port[p]).ptp.profile = 2 ∨ ∃ x ∈ (s.eth.port[p]).foreign, x.fresh s.eth.port[p] s = true)) ∧
    (∃ (s : State) (p : Fin 2) (f : RxFrame), macUp p s = true ∧ f.fcsOk = true ∧
      frameOk s.eth.port[p] f (isGptp p s) (rowPtp s.eth.port[p] f) = true) ∧
    (∃ (s : State) (p : Fin 2), macSends p s = true ∧ ptpRuns p s = true ∧ (s.eth.port[p]).ptpState = .master) ∧
    (∃ (s : State) (p : Fin 2), coresUp s = true ∧ sourcePort s = some p ∧ s.bel.state = .locked ∧ s.bel.onLock = false) ∧
    (∃ (s : State) (p : Fin 2), coresUp s = true ∧ sourcePort s = some p ∧ s.bel.state = .locked ∧ s.bel.onLock = false) := by
  refine ⟨?_, ?_, ?_, ?_, ?_, ?_, ?_, ?_, ?_, ?_, ?_, ?_⟩
  · let p : Fin 2 := 0
    let m : PtpIn := ⟨0, 0, false, 0, 0, 0⟩
    let m : PtpIn := { m with twoStep := true }
    let s : State := mkCores s0
    let s : State := { s with eth.port := s.eth.port.put p { s.eth.port[p] with enabled := true, link := true } }
    let s : State := { s with
      eth.port := s.eth.port.put p { s.eth.port[p] with
        ptp := { s.eth.port[p].ptp with role := 1 }
        ptpState := .slave } }
    exact ⟨s, p, { rx0 with etherType := 0x88F7 }, m, by decide +kernel +revert⟩
  · let p : Fin 2 := 0
    let s : State := mkCores s0
    let s : State := { s with eth.port := s.eth.port.put p { s.eth.port[p] with enabled := true, link := true } }
    let s : State := { s with
      eth.port := s.eth.port.put p { s.eth.port[p] with
        ptp := { s.eth.port[p].ptp with role := 1 }
        ptpState := .slave } }
    exact ⟨s, p, { rx0 with etherType := 0x88F7 }, ⟨0, 0, false, 0, 0, 0⟩, by decide +kernel +revert⟩
  · let p : Fin 2 := 0
    let w : SyncWait := ⟨0, 0, 0⟩
    let s : State := mkCores s0
    let s : State := { s with eth.port := s.eth.port.put p { s.eth.port[p] with enabled := true, link := true } }
    let s : State := { s with
      eth.port := s.eth.port.put p { s.eth.port[p] with
        ptp := { s.eth.port[p].ptp with role := 1 }
        ptpState := .slave
        syncWait := some w } }
    exact ⟨s, p, { rx0 with etherType := 0x88F7 }, ⟨0, 0, false, 0, 0, 0⟩, w, by decide +kernel +revert⟩
  · let p : Fin 2 := 0
    let s : State := mkCores s0
    let s : State := { s with eth.port := s.eth.port.put p { s.eth.port[p] with enabled := true, link := true } }
    let s : State := { s with
      eth.port := s.eth.port.put p { s.eth.port[p] with ptp := { s.eth.port[p].ptp with role := 1 } } }
    let s : State := { s with
      eth.port := s.eth.port.put p { s.eth.port[p] with ptp := { (s.eth.port)[p].ptp with profile := 1 } } }
    exact ⟨s, p, { rx0 with etherType := 0x88F7 }, ⟨0, 0, false, 0, 0, 0⟩, by decide +kernel +revert⟩
  · let p : Fin 2 := 0
    let s : State := mkCores s0
    let s : State := { s with eth.port := s.eth.port.put p { s.eth.port[p] with enabled := true, link := true } }
    let s : State := { s with
      eth.port := s.eth.port.put p { s.eth.port[p] with
        ptp := { s.eth.port[p].ptp with role := 1 }
        ptpState := .master } }
    exact ⟨s, p, { rx0 with etherType := 0x88F7 }, ⟨0, 0, false, 0, 0, 0⟩, by decide +kernel +revert⟩
  · let p : Fin 2 := 0
    let t1 : Int := 0
    let w : PdelayWait := ⟨0, 0, 0, 0⟩
    let s : State := mkCores s0
    let s : State := { s with eth.port := s.eth.port.put p { s.eth.port[p] with enabled := true, link := true } }
    let s : State := { s with
      eth.port := s.eth.port.put p { s.eth.port[p] with
        ptp := { s.eth.port[p].ptp with role := 1 }
        delayT3 := some t1
        pdelay := some w } }
    let s : State := { s with
      eth.port := s.eth.port.put p { s.eth.port[p] with ptp := { (s.eth.port)[p].ptp with profile := 1 } } }
    exact ⟨s, p, { rx0 with etherType := 0x88F7 }, ⟨0, 0, false, 0, 0, 0⟩, t1, w, 1, by decide +kernel +revert⟩
  · let p : Fin 2 := 0
    let a : AnnounceIn := ⟨0, ⟨128, 248, 0, 0, 128, 5, 0, 5, 1⟩, 0, false, false, false⟩
    let s : State := mkCores s0
    let s : State := { s with eth.port := s.eth.port.put p { s.eth.port[p] with enabled := true, link := true } }
    let s : State := { s with
      eth.port := s.eth.port.put p { s.eth.port[p] with ptp := { s.eth.port[p].ptp with role := 1 } } }
    exact ⟨s, p, { rx0 with etherType := 0x88F7 }, a, by decide +kernel +revert⟩
  · let p : Fin 2 := 0
    let a : AnnounceIn := ⟨0, ⟨128, 248, 0, 0, 128, 5, 0, 5, 1⟩, 0, false, false, false⟩
    let s : State := mkCores s0
    let s : State := { s with
      eth.port := s.eth.port.put p { s.eth.port[p] with
        enabled := true
        link := true
        ip := rx0.target
        ptp := { s.eth.port[p].ptp with role := 1, profile := 2 }
        ptpState := .listening } }
    exact ⟨s, p, { rx0 with etherType := 0x88F7 }, a, by decide +kernel +revert⟩
  · let p : Fin 2 := 0
    let s : State := mkCores s0
    let s : State := { s with eth.port := s.eth.port.put p { s.eth.port[p] with enabled := true, link := true } }
    exact ⟨s, p, { rx0 with etherType := 0x88F7 }, by decide +kernel +revert⟩
  · let p : Fin 2 := 0
    let s : State := mkCores s0
    let s : State := { s with eth.port := s.eth.port.put p { s.eth.port[p] with enabled := true, link := true } }
    let s : State := { s with
      eth.port := s.eth.port.put p { s.eth.port[p] with
        ptp := { s.eth.port[p].ptp with role := 1 }
        ptpState := .master } }
    exact ⟨s, p, by decide +kernel +revert⟩
  · let p : Fin 2 := 0
    let s : State := mkCores s0
    let s : State := { s with
      eth.port := s.eth.port.put p { s.eth.port[p] with
        enabled := true
        link := true
        ip := rx0.target
        ptpState := .slave
        ptp := { s.eth.port[p].ptp with role := 1 } }
      bel.state := .locked
      bel.onLock := false }
    exact ⟨s, p, by decide +kernel +revert⟩
  · let p : Fin 2 := 0
    let s : State := mkCores s0
    let s : State := { s with
      eth.port := s.eth.port.put p { s.eth.port[p] with
        enabled := true
        link := true
        ip := rx0.target
        ptpState := .slave
        ptp := { s.eth.port[p].ptp with role := 1 } }
      bel.state := .locked
      bel.onLock := false }
    exact ⟨s, p, by decide +kernel +revert⟩

theorem test_witness_NetworkTime :
    (∃ (s : State), s.bel.powered = true) ∧
    (∃ (s : State), s.bel.powered = true ∧ 2 ^ 64 ≤ s.bel.frc + s.bel.cycle) ∧
    (∃ (s : State) (a : Fin 4), s.bel.powered = true ∧ (s.bel.alarm[a]).armed = true ∧
      mkTime (s.bel.alarm[a]).s (s.bel.alarm[a]).ns ≤ netTime s ∧ ¬(s.pwr.state = .sleep ∧ s.pwr.keepTime = true)) ∧
    (∃ (s : State) (o : Fin 4), pulseDue o s = true) ∧
    (∃ (s : State) (o : Fin 4) (f : Nat), (s.bel.pulse[o]).active = some f ∧
      (s.bel.pulse[o]).cfg.width * 65536 < (s.bel.frc + 2 ^ 64 - f) % 2 ^ 64 + s.bel.cycle ∧
      (∀ c, (s.bel.pulse[o]).pending = some c → c.passed s = false)) ∧
    (∃ (s : State) (j : TestJob) (left failed : Nat) (sent : List Byte), s.pwr.core = true ∧ s.tst.job = some j ∧
      j.phase = .frames left failed (some sent) ∧ 2 ≤ left) ∧
    (∃ (s : State) (j : TestJob) (left failed : Nat) (sent : List Byte), s.pwr.core = true ∧ s.tst.job = some j ∧
      j.phase = .frames left failed (some sent) ∧ 2 ≤ left) := by
  refine ⟨?_, ?_, ?_, ?_, ?_, ?_, ?_⟩
  · let s : State := { s0 with bel.powered := true }
    exact ⟨s, by decide +kernel +revert⟩
  · let s : State := { s0 with bel.powered := true, bel.frc := 2 ^ 64 - 1, bel.sleepClock := false }
    exact ⟨s, by decide +kernel +revert⟩
  · let a : Fin 4 := 0
    let s : State := { s0 with
      bel.powered := true
      bel.alarm := s0.bel.alarm.put a { s0.bel.alarm[a] with armed := true } }
    exact ⟨s, a, by decide +kernel +revert⟩
  · let o : Fin 4 := 0
    let s : State := { s0 with
      bel.powered := true
      bel.offset := 2 ^ 80
      bel.pulse := s0.bel.pulse.put o { s0.bel.pulse[o] with cfg := { s0.bel.pulse[o].cfg with mode := .oneshot } } }
    exact ⟨s, o, by decide +kernel +revert⟩
  · let o : Fin 4 := 0
    let f : Nat := 0
    let s : State := { s0 with bel.pulse := s0.bel.pulse.put o { s0.bel.pulse[o] with active := some f } }
    exact ⟨s, o, f, by decide +kernel +revert⟩
  · let failed : Nat := 0
    let sent : List Byte := []
    let left : Nat := 2
    let j : TestJob := ⟨cmd0, 6, 0, 0, 0, 0, 0, .frames left failed (some sent), 0⟩
    let s : State := { s0 with pwr.core := true, tst.job := some j }
    exact ⟨s, j, left, failed, sent, by decide +kernel +revert⟩
  · let failed : Nat := 0
    let sent : List Byte := []
    let left : Nat := 2
    let j : TestJob := ⟨cmd0, 6, 0, 0, 0, 0, 0, .frames left failed (some sent), 0⟩
    let s : State := { s0 with pwr.core := true, tst.job := some j }
    exact ⟨s, j, left, failed, sent, by decide +kernel +revert⟩

theorem test_witness_LowPowerStates :
    (∃ (s : State) (e : LowEntry), s.pwr.entry = some e ∧ e.committed = true ∧ s.pwr.latched = false) ∧
    (∃ (s : State) (b : Fin 6) (i : Instr),
      ((b = 1 ∧ i = .wakePinEvent true) ∨ (b = 2 ∧ i = .wakeSafeInEvent) ∨ (b = 5 ∧ i = .wakePcieSquelch)) ∧
      s.pwr.wakeEn.getLsbD b.val = false) ∧
    (∃ (s : State) (b : Fin 6) (i : Instr),
      ((b = 1 ∧ i = .wakePinEvent true) ∨ (b = 2 ∧ i = .wakeSafeInEvent) ∨ (b = 5 ∧ i = .wakePcieSquelch)) ∧
      s.pwr.wakeEn.getLsbD b.val = true ∧ s.pwr.entry = none ∧ s.pwr.start = none ∧
      (s.pwr.state = .sleep ∨ s.pwr.state = .nightwatch ∨ s.pwr.state = .dormant)) ∧
    (∃ (s : State) (a : Fin 4), s.bel.powered = true ∧ (s.bel.alarm[a]).armed = true ∧
      mkTime (s.bel.alarm[a]).s (s.bel.alarm[a]).ns ≤ netTime s ∧ s.pwr.state = .sleep ∧ s.pwr.keepTime = true ∧
      s.pwr.wakeEn.getLsbD 4 = true ∧ s.pwr.entry = none ∧ s.pwr.start = none) ∧
    (∃ (s : State) (a : BitVec 12) (x : Tab Int 4) (y : Tab Int 8), s.pwr.state = .nightwatch ∧ s.pwr.start = none ∧
      visitOutside a.toNat ((visitTemps x y s).filter plausible) s.pwr = false ∧ 1 ≤ s.pwr.nwDebounce) ∧
    (∃ (s : State) (a : BitVec 12) (x : Tab Int 4) (y : Tab Int 8), s.pwr.state = .nightwatch ∧ s.pwr.start = none ∧
      visitOutside a.toNat ((visitTemps x y s).filter plausible) s.pwr = true ∧
      s.pwr.nwOutside + 1 < s.pwr.nwDebounce ∧ s.pwr.nwDebounce ≤ 15) ∧
    (∃ (s : State) (a : BitVec 12) (x : Tab Int 4) (y : Tab Int 8), s.pwr.state = .nightwatch ∧ s.pwr.start = none ∧
      visitOutside a.toNat ((visitTemps x y s).filter plausible) s.pwr = true ∧
      s.pwr.nwDebounce ≤ s.pwr.nwOutside + 1 ∧ s.pwr.nwDebounce ≤ 15 ∧ s.pwr.wakeEn.getLsbD 3 = true ∧
      s.pwr.entry = none) ∧
    (∃ (s : State), s.pwr.core = false ∧ s.pwr.state = .sleep ∧ s.pwr.entry = none) ∧
    (∃ (s : State) (b : Byte), s.pwr.core = false ∧ s.pwr.state = .sleep ∧ 0x80 ≤ s.mgt.index ∧ s.mgt.index ≤ 0x9F ∧
      s.mgt.cbuf.getD (s.mgt.index - 0x80) 0 = b) := by
  refine ⟨?_, ?_, ?_, ?_, ?_, ?_, ?_, ?_, ?_⟩
  · let e : LowEntry := ⟨cmd0, .sleep, true, 0, .latch, false⟩
    let e : LowEntry := { e with committed := true }
    let s : State := { s0 with pwr.entry := some e }
    exact ⟨s, e, by decide +kernel +revert⟩
  · exact ⟨s0, 1, .wakePinEvent true, by decide +kernel⟩
  · let s : State := { s0 with pwr.start := none, pwr.state := .sleep, pwr.wakeEn := 0x3F }
    exact ⟨s, 1, .wakePinEvent true, by decide +kernel +revert⟩
  · let a : Fin 4 := 0
    let s : State := { s0 with
      bel.powered := true
      bel.alarm := s0.bel.alarm.put a { s0.bel.alarm[a] with armed := true }
      pwr.state := .sleep
      pwr.keepTime := true
      pwr.start := none
      pwr.wakeEn := (s0.pwr.wakeEn) ||| BitVec.ofNat _ (2 ^ (4)) }
    exact ⟨s, a, by decide +kernel +revert⟩
  · let s : State := { s0 with pwr.state := .nightwatch, pwr.start := none }
    exact ⟨s, 0, Tab.all 4 0, Tab.all 8 0, by decide +kernel +revert⟩
  · let s : State := { s0 with pwr.state := .nightwatch, pwr.start := none, pwr.ambHigh := 3000, pwr.nwDebounce := 3 }
    exact ⟨s, 4000, Tab.all 4 400, Tab.all 8 0, by decide +kernel +revert⟩
  · let s : State := { s0 with
      pwr.nwDebounce := 2
      pwr.nwOutside := 1
      pwr.ambLow := 0xFFF
      pwr.wakeEn := 0xF
      pwr.state := .nightwatch
      pwr.start := none
      pwr.entry := none }
    exact ⟨s, 4000, Tab.all 4 400, Tab.all 8 0, by decide +kernel +revert⟩
  · let s : State := { s0 with pwr.state := .sleep, mgt.index := (0x80) }
    exact ⟨s, by decide +kernel +revert⟩
  · let s : State := { s0 with pwr.state := .sleep, mgt.index := (0x80) }
    exact ⟨s, 0, by decide +kernel +revert⟩

theorem test_witness_WakeSequence :
    (∃ (s : State) (st : Start), s.pwr.start = some st ∧ st.pgCore = false ∧ st.waiting = false ∧
      (st.kind = .warm ∨ st.kind = .cold)) ∧
    (∃ (s : State) (st : Start), s.pwr.start = some st ∧ st.pgSram = false ∧ st.waiting = false) ∧
    (∃ (s : State), s.pwr.core = true ∧ s.pwr.pllCore = false) ∧
    (∃ (s : State), s.pwr.core = true ∧ s.pwr.pllLane = false) ∧
    (∃ (s : State), s.pwr.core = true ∧ s.pwr.pllEth = false) ∧
    (∃ (s : State), s.pwr.xtalFail = false) ∧
    (∃ (s : State), s.pwr.xtalFail = false) ∧
    (∃ (s : State), s.pwr.xtalFail = true) ∧
    (∃ (s : State), s.pwr.xtalFail = true) ∧
    (∃ (s : State) (st : Start) (v : Saved), s.pwr.start = some st ∧ st.kind = .warm ∧ st.granary = true ∧
      st.restored = false ∧ s.pwr.core = true ∧ s.pwr.pllCore = true ∧ s.pwr.pllLane = true ∧ s.pwr.pllEth = true ∧
      s.saved = some v ∧ s.grn.marks = [] ∧ sysHeld s = false) ∧
    (∃ (s : State) (st : Start) (v : Saved), s.pwr.start = some st ∧ st.kind = .warm ∧ st.granary = true ∧
      st.restored = false ∧ s.pwr.core = true ∧ s.pwr.pllCore = true ∧ s.pwr.pllLane = true ∧ s.pwr.pllEth = true ∧
      s.saved = some v ∧ s.grn.marks = [] ∧ sysHeld s = false) ∧
    (∃ (s : State) (st : Start) (k : Fin 7), s.pwr.start = some st ∧ st.waiting = false ∧ stepOpen k.val st s = true) ∧
    (∃ (s : State) (st : Start), s.pwr.start = some st ∧ st.waiting = true) ∧
    (∃ (s : State) (st : Start), s.pwr.start = some st ∧ st.kind = .warm ∧ s.pwr.core = true ∧ st.l0 = none ∧
      st.waiting = false ∧ st.since + 980000 ≤ s.now) := by
  refine ⟨?_, ?_, ?_, ?_, ?_, ?_, ?_, ?_, ?_, ?_, ?_, ?_, ?_, ?_⟩
  · let st : Start := Start.begin .por 0
    let st : Start := { st with kind := .warm }
    let s : State := { s0 with pwr.start := some st }
    exact ⟨s, st, by decide +kernel +revert⟩
  · exact ⟨s0, Start.begin .por 0, by decide +kernel⟩
  · let s : State := { s0 with pwr.core := true }
    exact ⟨s, by decide +kernel +revert⟩
  · let s : State := { s0 with pwr.core := true }
    exact ⟨s, by decide +kernel +revert⟩
  · let s : State := { s0 with pwr.core := true }
    exact ⟨s, by decide +kernel +revert⟩
  · exact ⟨s0, by decide +kernel⟩
  · exact ⟨s0, by decide +kernel⟩
  · let s : State := { s0 with pwr.xtalFail := true }
    exact ⟨s, by decide +kernel +revert⟩
  · let s : State := { s0 with pwr.xtalFail := true }
    exact ⟨s, by decide +kernel +revert⟩
  · let st : Start := { Start.begin .warm 0 with granary := true }
    let s : State := { s0 with
      pwr.start := some st
      pwr.core := true
      pwr.pllCore := true
      pwr.pllLane := true
      pwr.pllEth := true
      saved := some saved0 }
    exact ⟨s, st, saved0, rfl, rfl, rfl, rfl, rfl, rfl, rfl, rfl, rfl, rfl, by decide +kernel +revert⟩
  · let st : Start := { Start.begin .warm 0 with granary := true }
    let s : State := { s0 with
      pwr.start := some st
      pwr.core := true
      pwr.pllCore := true
      pwr.pllLane := true
      pwr.pllEth := true
      saved := some saved0 }
    exact ⟨s, st, saved0, rfl, rfl, rfl, rfl, rfl, rfl, rfl, rfl, rfl, rfl, by decide +kernel +revert⟩
  · exact ⟨s0, Start.begin .por 0, 1, by decide +kernel⟩
  · let st : Start := Start.begin .por 0
    let st : Start := { st with waiting := true }
    let s : State := { s0 with pwr.start := some st }
    exact ⟨s, st, by decide +kernel +revert⟩
  · let st : Start := Start.begin .por 0
    let st : Start := { st with kind := .warm }
    let s : State := { s0 with pwr.start := some st, pwr.core := true }
    let s : State := { s with now := (st.since + 980000) }
    exact ⟨s, st, by decide +kernel +revert⟩

theorem test_witness_BootAndFlash :
    (∃ (s : State) (st : Start) (img : ImageIn), s.pwr.core = true ∧ s.pwr.start = some st ∧ st.pgCore = true ∧
      st.pgSram = true ∧ st.restored = false ∧ st.record = false ∧ st.kind = .por ∧ slotFault img.a s ≠ 0 ∧
      slotFault img.b s ≠ 0) ∧
    (∃ (s : State) (st : Start) (img : ImageIn), s.pwr.core = true ∧ s.pwr.start = some st ∧ st.pgCore = true ∧
      st.pgSram = true ∧ st.restored = false ∧ st.record = false ∧ st.kind = .por ∧
      (slotFault img.a s = 0 ∨ slotFault img.b s = 0)) ∧
    (∃ (s : State) (st : Start) (r : FlashRec) (l : List FlashRec), coresUp s = true ∧ s.pwr.start = some st ∧
      st.restored = true ∧ st.granary = true ∧ st.record = false ∧ s.boot.loads = r :: l ∧ Memory.wf s.grn.mem = true) ∧
    (∃ (s : State) (st : Start) (r : FlashRec) (l : List FlashRec) (d : List Byte), coresUp s = true ∧
      s.pwr.start = some st ∧ st.restored = true ∧ st.granary = true ∧ st.record = false ∧ s.boot.loads = r :: l ∧
      Memory.wf s.grn.mem = true ∧ s.grn.marks = [] ∧ r.len % 8 = 0 ∧ r.len ≤ 0x1000000 ∧ d.length = r.len ∧
      Env.crc32c d = r.crc ∧ loadDenied r.addr r.len s = none) ∧
    (∃ (s : State) (st : Start), s.pwr.core = true ∧ s.pwr.hedge = true ∧ s.pwr.start = some st ∧ st.restored = true ∧
      st.record = false) ∧
    (∃ (s : State) (w : RecWrite) (l : List RecWrite) (r : RecCopy), coresUp s = true ∧ s.boot.writes = w :: l ∧
      newerRec s.boot.rec0 s.boot.rec1 = some r) ∧
    (∃ (s : State) (w : RecWrite) (l : List RecWrite) (r : RecCopy), coresUp s = true ∧ s.boot.writes = w :: l ∧
      newerRec s.boot.rec0 s.boot.rec1 = some r) ∧
    (∃ (s : State) (j : StageJob) (a b : Bool), coresUp s = true ∧ s.boot.stage = some j ∧ j.img ≠ [] ∧
      stageFault j.img a b { s with boot.stage := none } ≠ 0) ∧
    (∃ (s : State) (j : StageJob), coresUp s = true ∧ s.boot.stage = some j ∧ j.img ≠ [] ∧
      stageFault j.img true true { s with boot.stage := none } = 0) ∧
    (∃ (s : State) (j : StageJob), coresUp s = true ∧ s.boot.stage = some j ∧ j.img ≠ [] ∧
      stageFault j.img true true { s with boot.stage := none } = 0) := by
  refine ⟨?_, ?_, ?_, ?_, ?_, ?_, ?_, ?_, ?_, ?_⟩
  · let st : Start := Start.begin .por 0
    let img : ImageIn := ⟨⟨[], true, true, 0⟩, ⟨[], true, true, 0⟩, [], [], none, none⟩
    let st : Start := { st with pgCore := true }
    let st : Start := { st with pgSram := true }
    let s : State := { s0 with pwr.core := true, pwr.start := some st }
    exact ⟨s, st, img, by decide +kernel +revert⟩
  · let st : Start := Start.begin .por 0
    let img : ImageIn := ⟨⟨hdr0, true, true, 0⟩, ⟨hdr0, true, true, 0⟩, [], [], none, none⟩
    let st : Start := { st with pgCore := true }
    let st : Start := { st with pgSram := true }
    let s : State := { s0 with pwr.core := true, pwr.start := some st }
    exact ⟨s, st, img, by decide +kernel +revert⟩
  · let st : Start := Start.begin .por 0
    let r : FlashRec := ⟨0, 0, 0, 0⟩
    let l : List FlashRec := []
    let st : Start := { st with restored := true }
    let st : Start := { st with granary := true }
    let s : State := mkCores s0
    let s : State := { s with pwr.start := some st, boot.loads := r :: l }
    exact ⟨s, st, r, l, by decide +kernel +revert⟩
  · let st : Start := Start.begin .por 0
    let d : List Byte := [1, 2, 3, 4, 5, 6, 7, 8]
    let st : Start := { st with restored := true }
    let st : Start := { st with granary := true }
    let s : State := mkCores s0
    let s : State := { s with pwr.start := some st }
    let r : FlashRec := ⟨0, 0x500000, 8, Env.crc32c d⟩
    let s : State := { s with boot.loads := [r], grn.mem := [], grn.marks := [] }
    exact ⟨s, st, r, [], d, by decide +kernel +revert⟩
  · let st : Start := Start.begin .por 0
    let st : Start := { st with restored := true }
    let s : State := { s0 with pwr.core := true, pwr.hedge := true, pwr.start := some st }
    exact ⟨s, st, by decide +kernel +revert⟩
  · let w : RecWrite := ⟨[], 0, none, 0⟩
    let l : List RecWrite := []
    let r : RecCopy := ⟨5, 0, []⟩
    let s : State := mkCores s0
    let s : State := { s with boot.writes := w :: l, boot.rec0 := some r, boot.rec1 := some ⟨4, 0, []⟩ }
    exact ⟨s, w, l, r, by decide +kernel +revert⟩
  · let w : RecWrite := ⟨[], 0, none, 0⟩
    let l : List RecWrite := []
    let r : RecCopy := ⟨5, 0, []⟩
    let s : State := mkCores s0
    let s : State := { s with boot.writes := w :: l, boot.rec0 := some r, boot.rec1 := some ⟨4, 0, []⟩ }
    exact ⟨s, w, l, r, by decide +kernel +revert⟩
  · let j : StageJob := ⟨cmd0, true, 0, 0, [0]⟩
    let s : State := mkCores s0
    let s : State := { s with boot.stage := some j }
    exact ⟨s, j, true, true, by decide +kernel +revert⟩
  · let j : StageJob := ⟨cmd0, true, 0, 0, hdr0⟩
    let s : State := mkCores s0
    let s : State := { s with boot.stage := some j }
    exact ⟨s, j, by decide +kernel +revert⟩
  · let j : StageJob := ⟨cmd0, true, 0, 0, hdr0⟩
    let s : State := mkCores s0
    let s : State := { s with boot.stage := some j }
    exact ⟨s, j, by decide +kernel +revert⟩

theorem test_witness_ManagementAndAuxChains :
    (∃ (s : State), s.pwr.core = true) ∧
    (∃ (s : State) (k : Byte), s.pwr.core = true ∧ s.mgt.busy = false ∧ 0x40 ≤ k.toNat ∧ k.toNat ≤ 0x7F) ∧
    (∃ (s : State), s.pwr.core = true) ∧
    (∃ (s : State) (b : Byte), s.pwr.core = true ∧ 0x80 ≤ s.mgt.index ∧ s.mgt.index ≤ 0x9F ∧
      s.mgt.cbuf.getD (s.mgt.index - 0x80) 0 = b) ∧
    (∃ (s : State), s.pwr.core = true) ∧
    (∃ (s : State) (c : Fin 4), s.pwr.core = true ∧ (s.aux[c]).used = true ∧ (s.aux[c]).shifting = none) ∧
    (∃ (s : State) (c : Fin 4) (w : List Nat), s.pwr.core = true ∧ (s.aux[c]).shifting = some w) := by
  refine ⟨?_, ?_, ?_, ?_, ?_, ?_, ?_⟩
  · let s : State := { s0 with pwr.core := true }
    exact ⟨s, by decide +kernel +revert⟩
  · let k : Byte := 0
    let s : State := { s0 with pwr.core := true }
    let k : Byte := BitVec.ofNat _ (k.toNat % 3 + (0x40))
    exact ⟨s, k, by decide +kernel +revert⟩
  · let s : State := { s0 with pwr.core := true }
    exact ⟨s, by decide +kernel +revert⟩
  · let s : State := { s0 with pwr.core := true, mgt.index := (0x80) }
    exact ⟨s, 0, by decide +kernel +revert⟩
  · let s : State := { s0 with pwr.core := true }
    exact ⟨s, by decide +kernel +revert⟩
  · let c : Fin 4 := 0
    let s : State := { s0 with pwr.core := true }
    let s : State := { s with aux := s.aux.put c { s.aux[c] with used := true } }
    exact ⟨s, c, by decide +kernel +revert⟩
  · let c : Fin 4 := 0
    let w : List Nat := []
    let s : State := { s0 with pwr.core := true }
    let s : State := { s with aux := s.aux.put c { s.aux[c] with shifting := some w } }
    exact ⟨s, c, w, by decide +kernel +revert⟩

theorem test_witness_YokeLine :
    (∃ (s : State), mayClaim s = true ∧ s.yok.claim = .none) ∧
    (∃ (s : State), s.yok.claim ≠ .none) ∧
    (∃ (s : State), yoked s = true ∧ s.yok.holding = true ∧ s.pwr.core = true) ∧
    (∃ (s : State), yoked s = true ∧ s.yok.holding = true ∧ s.pwr.core = true) ∧
    (∃ (s : State), yoked s = true ∧ s.yok.lost = false ∧ s.pwr.core = true ∧
      (s.yok.hello.isSome = true ∨ s.yok.partner.isSome = true)) ∧
    (∃ (s : State), s.yok.following = true) ∧
    (∃ (s : State), s.yok.returnEn = true ∧ s.yok.holding = true ∧ s.yok.pri = false ∧ partnerReady s = true ∧
      s.yok.handover = none) ∧
    (∃ (s : State) (q : BitVec 16), s.yok.holding = true ∧ s.yok.handover = some ⟨q, true⟩) ∧
    (∃ (s : State), s.hdg.active.isSome = true) := by
  refine ⟨?_, ?_, ?_, ?_, ?_, ?_, ?_, ?_, ?_⟩
  · let s : State := { s0 with
      pwr.core := true
      yok.state := .seek
      yok.holding := false
      yok.pri := true
      pwr.state := .run
      hdg.active := some (s0.hdg.active.getD .uncommissioned)
      hdg.selfHeld := false
      lpl.stall := false }
    exact ⟨s, by decide +kernel +revert⟩
  · let s : State := { s0 with yok.claim := .pulse }
    exact ⟨s, by decide +kernel +revert⟩
  · let s : State := { s0 with yok.holding := true, pwr.core := true }
    exact ⟨s, by decide +kernel +revert⟩
  · let s : State := { s0 with yok.holding := true, pwr.core := true }
    exact ⟨s, by decide +kernel +revert⟩
  · let s : State := { s0 with pwr.core := true, yok.hello := some (ownHello s0) }
    exact ⟨s, by decide +kernel +revert⟩
  · let s : State := { s0 with yok.following := true }
    exact ⟨s, by decide +kernel +revert⟩
  · let s : State := { s0 with
      yok.lost := false
      yok.partner := some { partner0 with state := .standby, locked := true }
      yok.holding := true }
    exact ⟨s, by decide +kernel +revert⟩
  · let q : BitVec 16 := 0
    let s : State := { s0 with yok.holding := true, yok.handover := some ⟨q, true⟩ }
    exact ⟨s, q, by decide +kernel +revert⟩
  · let s : State := { s0 with hdg.active := some .uncommissioned }
    exact ⟨s, by decide +kernel +revert⟩

theorem test_witness_YokeMessages :
    (∃ (s : State), hears s = true) ∧
    (∃ (s : State), hears s = true) ∧
    (∃ (s : State) (m a : Sig), hears s = true ∧ paired (heard s) = true ∧ s.yok.ownSig = some a ∧ a.seq = m.seq ∧
      a.digest = m.digest) ∧
    (∃ (s : State) (m : Shared), hears s = true ∧ s.yok.state = .standby ∧ s.yok.holding = false ∧ m.ageing = []) ∧
    (∃ (s : State) (m : Hello), hears s = true ∧ s.yok.state = .seek ∧ s.yok.holding = false ∧ incompatible m s ≠ 0 ∧
      partnerHolds (heard s) = true) ∧
    (∃ (s : State) (m : Hello), hears s = true ∧ s.yok.state = .seek ∧ s.yok.holding = false ∧ s.yok.claim = .none ∧
      incompatible m s = 0 ∧ partnerHolds (heard s) = true) ∧
    (∃ (s : State), hears s = true ∧ s.yok.holding = true) ∧
    (∃ (s : State), s.yok.trip = true) ∧
    (∃ (s : State), hears s = true ∧ s.yok.holding = false) ∧
    (∃ (s : State), hears s = true ∧ s.yok.holding = false ∧ s.yok.claim = .none) := by
  refine ⟨?_, ?_, ?_, ?_, ?_, ?_, ?_, ?_, ?_, ?_⟩
  · let s : State := mkYoked { s0 with pwr.core := true }
    exact ⟨s, by decide +kernel +revert⟩
  · let s : State := mkYoked { s0 with pwr.core := true }
    exact ⟨s, by decide +kernel +revert⟩
  · let a : Sig := ⟨0, 0, 0, 0⟩
    let s : State := mkYoked { s0 with pwr.core := true }
    let s : State := { s with
      yok.state := .active
      yok.holding := true
      yok.lost := false
      yok.partner := some { partner0 with state := .standby }
      yok.ownSig := some a }
    exact ⟨s, ⟨0, 0, 0, 0⟩, a, by decide +kernel +revert⟩
  · let s : State := mkYoked { s0 with pwr.core := true }
    exact ⟨s, ⟨none, 0, 0, 0, [], []⟩, by decide +kernel +revert⟩
  · let s : State := mkYoked { s0 with pwr.core := true }
    let s : State := { s with
      yok.lost := false
      yok.partner := some { partner0 with state := .active }
      yok.state := .seek }
    exact ⟨s, ownHello s0, by decide +kernel +revert⟩
  · let s : State := mkYoked { s0 with pwr.core := true }
    let s : State := { s with
      yok.lost := false
      yok.partner := some { partner0 with state := .active }
      yok.state := .seek }
    exact ⟨s, { ownHello s0 with pri := true }, by decide +kernel +revert⟩
  · let s : State := mkYoked { s0 with pwr.core := true }
    let s : State := { s with yok.holding := true }
    exact ⟨s, by decide +kernel +revert⟩
  · let s : State := { s0 with yok.trip := true }
    exact ⟨s, by decide +kernel +revert⟩
  · let s : State := mkYoked { s0 with pwr.core := true }
    exact ⟨s, by decide +kernel +revert⟩
  · let s : State := mkYoked { s0 with pwr.core := true }
    exact ⟨s, by decide +kernel +revert⟩

theorem test_witness_YokeCopies :
    (∃ (s : State), paired s = true ∧ s.yok.counted = false) ∧
    (∃ (s : State) (k : Fin 1024) (l : List Byte), hears s = true ∧ s.yok.state = .copy ∧ 72 ≤ k.val ∧
      l.length = 65536 ∧ Memory.wf s.grn.mem = true) ∧
    (∃ (s : State), hears s = true ∧ s.yok.state = .copy) ∧
    (∃ (s : State), s.yok.holding = true ∧ partnerIn .copy s = true ∧ s.yok.lane.state = .ready) ∧
    (∃ (s : State), yoked s = true ∧ s.yok.lane.state = .ready ∧ s.yok.holding = true) ∧
    (∃ (s : State), yoked s = true ∧ s.yok.lane.state = .ready ∧ s.yok.holding = false ∧ s.hdg.wantsOff = true ∧
      s.hdg.selfHeld = false) ∧
    (∃ (s : State), yoked s = true ∧ s.yok.lane.state = .ready) := by
  refine ⟨?_, ?_, ?_, ?_, ?_, ?_, ?_⟩
  · let s : State := { s0 with
      yok.state := .active
      yok.holding := true
      yok.lost := false
      yok.partner := some { partner0 with state := .standby } }
    exact ⟨s, by decide +kernel +revert⟩
  · let s : State := mkYoked { s0 with pwr.core := true }
    let s : State := { s with yok.state := .copy }
    exact ⟨s, 72, List.replicate 65536 0, by decide +kernel +revert, rfl, by decide, List.length_replicate,
      by decide +kernel +revert⟩
  · let s : State := mkYoked { s0 with pwr.core := true }
    let s : State := { s with yok.state := .copy }
    exact ⟨s, by decide +kernel +revert⟩
  · let s : State := { s0 with
      yok.lost := false
      yok.partner := some { partner0 with state := .copy }
      yok.holding := true
      yok.lane := { s0.yok.lane with state := .ready } }
    exact ⟨s, by decide +kernel +revert⟩
  · let s : State := { s0 with yok.lane := { s0.yok.lane with state := .ready }, yok.holding := true }
    exact ⟨s, by decide +kernel +revert⟩
  · let s : State := { s0 with
      yok.lane := { s0.yok.lane with state := .ready }
      hdg.active := some (.block (List.replicate 27904 5))
      hdg.cause := s0.hdg.cause.put 0 { s0.hdg.cause[(0 : Fin 9)] with active := true } }
    exact ⟨s, by decide +kernel +revert⟩
  · let s : State := { s0 with yok.lane := { s0.yok.lane with state := .ready } }
    exact ⟨s, by decide +kernel +revert⟩

theorem test_witness_TimeNeverFallsBack :
    ∃ (s : State), s.pending = [] ∧ s.pwr.start = none ∧ s.pwr.entry = none ∧ s.bel.powered = true ∧
      (s.pwr.pllEth = true ∨ s.bel.sleepClock = true) ∧ s.bel.frc < 2 ^ 64 ∧
      -(2 ^ 31 : Int) ≤ (if s.bel.sleepClock then s.bel.rate + s.bel.sleepTrim else s.bel.rate) ∧
      ((s.bel.frc : Int) - s.bel.frcRef) % (2 ^ 64 : Int) + s.bel.cycle < 2 ^ 64 :=
  let s : State := { s0 with
    pwr.start := none
    bel.powered := true
    pwr.pllEth := true
    bel.frc := 5
    bel.frcRef := 5
    bel.rate := 0 }
  ⟨s, by decide +kernel +revert⟩

theorem test_witness_DeniedCommands :
    ∃ (i : Instr) (op : Nat) (src : Src) (d : Desc) (s : State) (p : Fin 4) (b : Nat),
      opcodeRow i = some (op, src, d) ∧ serves src s = true ∧ fenceOk src (withOpcode d op) s = true ∧
      (cmdOf op src d s).version = 1 ∧ src.port = some p ∧ classOf op = some (some b) ∧
      bitOf (authMask src s) b = false :=
  let src : Src := .ring 0
  let d : Desc := desc1
  let i : Instr := .layerSet src d
  let s : State := { mkCores s0 with running := [] }
  let s : State := { s with hif.auth := s.hif.auth.map' fun a => { a with cls := 0 } }
  ⟨i, 0x10, src, d, s, 0, 0, by decide +kernel +revert⟩

theorem test_witness_HeldAndRefusedCommands :
    (∃ (i : Instr) (op : Nat) (src : Src) (d : Desc) (s : State), opcodeRow i = some (op, src, d) ∧
      (serves src s = false ∨ fenceOk src (withOpcode d op) s = false)) ∧
    (∃ (i : Instr) (op : Nat) (src : Src) (d : Desc) (s : State) (st : BitVec 16), opcodeRow i = some (op, src, d) ∧
      serves src s = true ∧ fenceOk src (withOpcode d op) s = true ∧
      gate (cmdOf op src d s) (begun op src d s) = some st ∧ st ≠ stDenied) := by
  refine ⟨?_, ?_⟩
  · let s : State := s0
    exact ⟨.nop (.ring 0) desc1, 0, .ring 0, desc1, s, by decide +kernel +revert⟩
  · let op : Nat := 0
    let src : Src := .ring 0
    let d : Desc := 0
    let s : State := s0
    let s : State := mkCores s
    let st : BitVec 16 := (gate (cmdOf op src d s) (begun op src d s)).getD 0
    exact ⟨.nop (.ring 0) 0, op, src, d, s, st, by decide +kernel +revert⟩

theorem test_witness_CompletionToOrigin :
    (∃ (c : Cmd) (s : State), findRunning c.ser s = none) ∧
    (∃ (c k : Cmd) (s : State), findRunning c.ser s = some k) := by
  refine ⟨?_, ?_⟩
  · let s : State := s0
    exact ⟨cmd0, s, by decide +kernel +revert⟩
  · let s : State := s0
    let s : State := { s with running := [cmd0] }
    exact ⟨cmd0, cmd0, s, by decide +kernel +revert⟩

theorem test_witness_CommitWaits :
    (∃ (c : Cmd) (st : BitVec 16), c.commit = true ∧ (st = stSuccess ∨ st = stLate)) ∧
    (∃ (c : Cmd) (st : BitVec 16), (c.commit = false ∨ (st ≠ stSuccess ∧ st ≠ stLate))) := by
  refine ⟨?_, ?_⟩
  · exact ⟨⟨.ring 0, dset desc1 1 3 1 1, 0, 0⟩, 0, by decide +kernel⟩
  · exact ⟨cmd0, 0, by decide +kernel⟩

theorem test_witness_RingFieldsLocked :
    (∃ (s : State) (n : Fin 16) (v : Word) (o : Fin 8) (i : Instr),
      (i = .registerWrite (BitVec.ofNat 22 (0x10000 + 0x20 * n.val + 4 * o.val)) v ∨ i = .reg64HighWrite
        (BitVec.ofNat 22 (0x10000 + 0x20 * n.val + 4 * o.val)) v) ∧
      ((s.hif.sq[n]).enable = true ∨ s.hif.ringLock = true)) ∧
    (∃ (s : State) (n : Fin 16) (v : Word) (o : Fin 8) (i : Instr),
      (i = .registerWrite (BitVec.ofNat 22 (0x10400 + 0x20 * n.val + 4 * o.val)) v ∨ i = .reg64HighWrite
        (BitVec.ofNat 22 (0x10400 + 0x20 * n.val + 4 * o.val)) v) ∧
      ((s.hif.cq[n]).enable = true ∨ s.hif.ringLock = true)) ∧
    (∃ (s : State) (n : Fin 16), hostUp s = true ∧ s.hif.ringLock = false ∧ (s.hif.sq[n]).enable = false) ∧
    (∃ (s : State) (n : Fin 16), hostUp s = true ∧ s.hif.ringLock = false ∧ (s.hif.sq[n]).enable = false) ∧
    (∃ (s : State) (n : Fin 16), hostUp s = true ∧ s.hif.ringLock = false ∧ (s.hif.cq[n]).enable = false) ∧
    (∃ (s : State) (n : Fin 16), hostUp s = true ∧ s.hif.ringLock = false ∧ (s.hif.cq[n]).enable = false) ∧
    (∃ (s : State) (n : Fin 16), hostUp s = true ∧ s.hif.ringLock = false ∧ (s.hif.sq[n]).enable = false) ∧
    (∃ (s : State) (n : Fin 16), hostUp s = true ∧ s.hif.ringLock = false ∧ (s.hif.sq[n]).enable = false) ∧
    (∃ (s : State) (n : Fin 16), hostUp s = true ∧ s.hif.ringLock = false ∧ (s.hif.cq[n]).enable = false) ∧
    (∃ (s : State) (n : Fin 16), hostUp s = true ∧ s.hif.ringLock = false ∧ (s.hif.cq[n]).enable = false) := by
  refine ⟨?_, ?_, ?_, ?_, ?_, ?_, ?_, ?_, ?_, ?_⟩
  · let n : Fin 16 := 0
    let v : Word := 0
    let o : Fin 8 := 0
    let s : State := { s0 with hif.sq := s0.hif.sq.put n { s0.hif.sq[n] with enable := true } }
    let i : Instr := .registerWrite (BitVec.ofNat 22 (0x10000 + 0x20 * n.val + 4 * o.val)) v
    exact ⟨s, n, v, o, i, by decide +kernel +revert⟩
  · let n : Fin 16 := 0
    let v : Word := 0
    let o : Fin 8 := 0
    let s : State := { s0 with hif.cq := s0.hif.cq.put n { s0.hif.cq[n] with enable := true } }
    let i : Instr := .registerWrite (BitVec.ofNat 22 (0x10400 + 0x20 * n.val + 4 * o.val)) v
    exact ⟨s, n, v, o, i, by decide +kernel +revert⟩
  · let s : State := mkHost s0
    exact ⟨s, 0, by decide +kernel +revert⟩
  · let s : State := mkHost s0
    exact ⟨s, 0, by decide +kernel +revert⟩
  · let s : State := mkHost s0
    exact ⟨s, 0, by decide +kernel +revert⟩
  · let s : State := mkHost s0
    exact ⟨s, 0, by decide +kernel +revert⟩
  · let s : State := mkHost s0
    exact ⟨s, 0, by decide +kernel +revert⟩
  · let s : State := mkHost s0
    exact ⟨s, 0, by decide +kernel +revert⟩
  · let s : State := mkHost s0
    exact ⟨s, 0, by decide +kernel +revert⟩
  · let s : State := mkHost s0
    exact ⟨s, 0, by decide +kernel +revert⟩

theorem test_witness_RepairsLast :
    (∃ (i : Instr), (i = .sysReset ∨ i = .coreReset ∨ i = .pgCoreLoss)) ∧
    (∃ (s : State) (e : LowEntry), s.pwr.entry = some e ∧ e.committed = true) ∧
    (∃ (s : State), s.pwr.state = .sleep ∧ s.grn.retention = true) := by
  refine ⟨?_, ?_, ?_⟩
  · exact ⟨.sysReset, by decide +kernel⟩
  · let e : LowEntry := ⟨cmd0, .sleep, true, 0, .latch, false⟩
    let e : LowEntry := { e with committed := true }
    let s : State := { s0 with pwr.entry := some e }
    exact ⟨s, e, by decide +kernel +revert⟩
  · let s : State := { s0 with pwr.state := .sleep, grn.retention := true }
    exact ⟨s, by decide +kernel +revert⟩

end Sys2Proof.Tests
end

section
/-!
SUPPORT. A row of the opcode index that one of the common checks turns away (R61), and the command whose
class bit is 0 in its port's mask (R73).
-/

namespace Sys2Proof.Proofs

open Sys2Proof Sys2Proof.Machine Sys2Proof.Safety Sys2Proof.Laws

/-- Every row of the opcode index runs its opcode with a body of its own. -/
theorem exec_opcodeRow {i : Instr} {op : Nat} {src : Src} {d : Desc} (h : opcodeRow i = some (op, src, d)) :
    ∃ b : Body, ∀ s, exec i s = .next (runRow op b src d s) := by
  unfold opcodeRow at h
  split at h <;> cases h <;> exact ⟨_, fun _ => rfl⟩

/-- The opcodes of the index are bytes (R52). -/
theorem lt_of_classOf_eq_some {op : Nat} {c : Option Nat} (h : classOf op = some c) : op < 256 := by
  by_contra hge
  have hnone : classOf op = none := by
    unfold classOf
    repeat rw [if_neg (by omega)]
  rw [hnone] at h
  cases h

theorem f_zero_withOpcode (d : Desc) (op : Nat) : Desc.f (withOpcode d op) 0 0 8 = op % 256 := by
  have hbits : (withOpcode d op).toNat = (d.toNat >>> 8) <<< 8 ||| op % 256 := by
    have hlow : op % 256 % 2 ^ 512 = op % 256 := Nat.mod_eq_of_lt (by omega)
    have hhigh : (d.toNat >>> 8) <<< 8 % 2 ^ 512 = (d.toNat >>> 8) <<< 8 := by
      have := d.isLt
      apply Nat.mod_eq_of_lt
      simp only [Nat.shiftLeft_eq, Nat.shiftRight_eq_div_pow]
      omega
    simp only [withOpcode, BitVec.toNat_or, BitVec.toNat_shiftLeft, BitVec.toNat_ushiftRight,
      BitVec.toNat_ofNat, hlow, hhigh]
  simp only [Desc.f, field, hbits, Nat.mul_zero, Nat.add_zero, Nat.shiftRight_zero, Nat.or_mod_two_pow]
  simp [Nat.shiftLeft_eq]

theorem cmdOf_opcode {op : Nat} (src : Src) (d : Desc) (s : State) (h : op < 256) :
    (cmdOf op src d s).opcode = op :=
  (f_zero_withOpcode d op).trans (Nat.mod_eq_of_lt h)

/-- A row whose command starts and fails one of the checks common to all opcodes completes with that
check's status (R61). -/
theorem runRow_of_gate {op : Nat} {src : Src} {d : Desc} {s : State} {st : BitVec 16} (b : Body)
    (hserves : serves src s = true) (hfence : fenceOk src (withOpcode d op) s = true)
    (hgate : gate (cmdOf op src d s) (begun op src d s) = some st) :
    runRow op b src d s = complete (cmdOf op src d s) st 0 0
      (if st = stDenied then noteDenied (cmdOf op src d s) (begun op src d s) else begun op src d s) := by
  have hrow : runRow op b src d s = execute b (cmdOf op src d s) (begun op src d s) := by
    simp only [runRow, hserves, hfence, Bool.and_self, if_true]
    rfl
  rw [hrow, execute, hgate]

/-- Of the common checks, the version and the opcode come before the authority of the sender. -/
theorem gate_of_class_denied {c : Cmd} {s : State} {b : Nat} (hver : c.version = 1)
    (hclass : classOf c.opcode = some (some b)) (hmask : bitOf (authMask c.src s) b = false) :
    gate c s = some stDenied := by
  simp [gate, permitted, hver, hclass, hmask]

theorem keeps_begun (op : Nat) (src : Src) (d : Desc) (s : State) :
    Keeps [.nextSer, .running] s (begun op src d s) :=
  keeps_mk (keeps_refl _ _)

/-- With the core domain powered, the Reeve takes the NOTE of a denial on port p. -/
theorem noteDenied_of_port {c : Cmd} {s : State} {p : Fin 4} (hcore : s.pwr.core = true)
    (hport : c.src.port = some p) :
    noteDenied c s = { s with
      hif.deniedCnt := s.hif.deniedCnt.upd p (bump 255 1)
      hif.lastDeniedPort := p.val
      hif.lastDeniedOpcode := BitVec.ofNat 8 c.opcode
      rve.inbox := s.rve.inbox ++
        [⟨34, .note, BitVec.ofNat 32 (c.opcode + p.val * 2 ^ 24 + 5 * 2 ^ 28), false, s.now⟩] } := by
  simp only [noteDenied, hport]
  exact raise_of_core hcore

theorem core_of_serves {src : Src} {s : State} (h : serves src s = true) : s.pwr.core = true := by
  simp only [serves, Bool.and_eq_true] at h
  exact core_of_coresUp h.1.1

/-- Settles O55: the check of the class bit answers DENIED, and all that a DENIED completion does beside
completing is `noteDenied`. -/
theorem deniedCommands : Obligations.DeniedCommands := by
  intro i op src d s p b hrow hserves hfence hver hport hclass hmask
  obtain ⟨body, hexec⟩ := exec_opcodeRow hrow
  have hop : (cmdOf op src d s).opcode = op := cmdOf_opcode src d s (lt_of_classOf_eq_some hclass)
  have hgate : gate (cmdOf op src d s) (begun op src d s) = some stDenied :=
    gate_of_class_denied hver (by rw [hop]; exact hclass) hmask
  have hkeeps := keeps_trans
    (keeps_mono (keeps_begun op src d s) (m := [.nextSer, .running, .hif, .rve]) rfl)
    (keeps_mono (keeps_noteDenied (cmdOf op src d s) _) rfl)
  have hnote := noteDenied_of_port (c := cmdOf op src d s) (s := begun op src d s)
    (core_of_serves hserves) hport
  rw [hop] at hnote
  refine ⟨noteDenied (cmdOf op src d s) (begun op src d s), ?_, hkeeps, ?_⟩
  · rw [hexec, runRow_of_gate body hserves hfence hgate, if_pos rfl]
  · rw [hnote]
    refine ⟨rfl, by simp [begun], fun q hq => by simp [begun, hq], rfl, rfl, rfl, rfl⟩

end Sys2Proof.Proofs
end

section
/-!
SUPPORT. What R48 guards of a ring, what setting and clearing ENABLE leave of it, and what a register write
leaves of it while the ring is locked or stores in it while it is not.
-/

namespace Sys2Proof.Proofs

open Sys2Proof Sys2Proof.Machine Sys2Proof.Safety Sys2Proof.Laws

/-- What R48 guards of a submission ring: its fields but ENABLE, and its write-one-to-clear flags. -/
def sqGuarded (q : SqRing) : (DWord × DWord × Nat × Nat × Nat × Fin 16) × Bool × Bool :=
  (sqFields q, q.fetchError, q.badIndex)

/-- What R48 guards of a completion ring. -/
def cqGuarded (q : CqRing) : (DWord × DWord × Nat × Nat × Nat × Bool × Nat) × Bool × Bool :=
  (cqFields q, q.dbError, q.fullWait)

/-- Nothing that R48 guards differs between two states, in any ring. -/
def RingsKeep (s t : State) : Prop :=
  ∀ n : Fin 16, sqGuarded t.hif.sq[n] = sqGuarded s.hif.sq[n] ∧ cqGuarded t.hif.cq[n] = cqGuarded s.hif.cq[n]

theorem ringsKeep_refl (s : State) : RingsKeep s s := fun _ => ⟨rfl, rfl⟩

theorem RingsKeep.trans {s t u : State} (h : RingsKeep s t) (k : RingsKeep t u) : RingsKeep s u :=
  fun n => ⟨(k n).1.trans (h n).1, (k n).2.trans (h n).2⟩

theorem ringsKeep_of_hif {s t : State} (h : t.hif = s.hif) : RingsKeep s t :=
  fun _ => by rw [h]; exact ⟨rfl, rfl⟩

/-- An operation that keeps the host interface keeps every ring. -/
theorem ringsKeep_of_keeps {l : List Zone} {s t : State} (h : Keeps l s t) (hl : Zone.hif ∉ l) :
    RingsKeep s t := by
  have hsq : t.hif.sq = s.hif.sq := (congrArg Hif.sq (h .hif hl) :)
  have hcq : t.hif.cq = s.hif.cq := (congrArg Hif.cq (h .hif hl) :)
  intro n
  rw [hsq, hcq]
  exact ⟨rfl, rfl⟩

theorem ringsKeep_modSq {m : Fin 16} {f : SqRing → SqRing} (s : State)
    (hf : ∀ q, sqGuarded (f q) = sqGuarded q) : RingsKeep s (modSq m f s) := by
  intro n
  by_cases hn : n = m <;> simp [hn, hf]

theorem ringsKeep_modCq {m : Fin 16} {f : CqRing → CqRing} (s : State)
    (hf : ∀ q, cqGuarded (f q) = cqGuarded q) : RingsKeep s (modCq m f s) := by
  intro n
  by_cases hn : n = m <;> simp [hn, hf]

theorem ringsKeep_whenS {b : Bool} {f : State → State} {s : State} (h : RingsKeep s (f s)) :
    RingsKeep s (whenS b f s) := by
  cases b
  · exact ringsKeep_refl s
  · exact h

theorem ringsKeep_raise (g : Nat) (c : Machine.Class) (d : Nat) (s : State) : RingsKeep s (raise g c d s) :=
  ringsKeep_of_keeps (keeps_raise g c d s) (by decide)

theorem ringsKeep_settleRing (n : Fin 16) (s : State) : RingsKeep s (settleRing n s) := by
  simp only [settleRing]
  split
  · exact ringsKeep_modSq s fun _ => rfl
  · exact ringsKeep_refl s

/-- A completion delivered to a ring waits on its completion ring; no field of a ring changes (R56). -/
theorem ringsKeep_deliver_ring (n : Fin 16) (e : Cpl) (quiet : Bool) (s : State) :
    RingsKeep s (deliver (.ring n) e quiet s) := by
  simp only [deliver]
  refine .trans (ringsKeep_modSq (m := n) (f := fun q => { q with lastDone := s.now }) s fun _ => rfl) ?_
  refine .trans ?_ (ringsKeep_settleRing n _)
  split
  · exact ringsKeep_refl _
  · exact ringsKeep_modCq _ fun _ => rfl

theorem ringsKeep_staleDone (n : Fin 16) (d : Desc) (s : State) : RingsKeep s (staleDone n d s) :=
  .trans (ringsKeep_raise _ _ _ s) (ringsKeep_deliver_ring n _ _ _)

theorem ringsKeep_foldl {α : Type} {f : State → α → State} (hf : ∀ s a, RingsKeep s (f s a)) (l : List α)
    (s : State) : RingsKeep s (l.foldl f s) := by
  induction l generalizing s with
  | nil => exact ringsKeep_refl s
  | cons a l ih => exact .trans (hf s a) (ih _)

theorem ringsKeep_abortEntries (n : Fin 16) (s : State) : RingsKeep s (abortEntries n s) := by
  simp only [abortEntries]
  refine .trans (ringsKeep_modSq s ?_) (ringsKeep_foldl (fun t e => ?_) _ _)
  · exact fun _ => rfl
  · split
    · exact ringsKeep_staleDone n _ t
    · exact ringsKeep_deliver_ring n _ _ t

theorem ringsKeep_enableSq (n : Fin 16) (s : State) : RingsKeep s (enableSq n s) :=
  ringsKeep_whenS (ringsKeep_modSq s fun _ => rfl)

theorem ringsKeep_disableSq (n : Fin 16) (s : State) : RingsKeep s (disableSq n s) :=
  have hoff : RingsKeep s (modSq n (fun q => { q with enable := false }) s) := ringsKeep_modSq s fun _ => rfl
  ringsKeep_whenS ((hoff.trans (ringsKeep_abortEntries n _)).trans (ringsKeep_settleRing n _))

theorem ringsKeep_enableCq (n : Fin 16) (s : State) : RingsKeep s (enableCq n s) :=
  ringsKeep_whenS (ringsKeep_modCq s fun _ => rfl)

theorem ringsKeep_disableCq (n : Fin 16) (s : State) : RingsKeep s (disableCq n s) := by
  simp only [disableCq]
  split
  · exact ringsKeep_raise _ _ _ s
  · exact ringsKeep_modCq s fun _ => rfl

/-- The stores that R48 guards in submission ring m: discarded while the ring is enabled or locked. -/
def storeSq (m : Fin 16) (f : SqRing → SqRing) (s : State) : State :=
  if (s.hif.sq[m]).enable || s.hif.ringLock then s else modSq m f s

/-- The stores that R48 guards in completion ring m. -/
def storeCq (m : Fin 16) (f : CqRing → CqRing) (s : State) : State :=
  if (s.hif.cq[m]).enable || s.hif.ringLock then s else modCq m f s

theorem whenS_not_and_not (l e : Bool) (f : State → State) (s : State) :
    whenS (!l && !e) f s = if e || l then s else f s := by
  cases l <;> cases e <;> rfl

/-- Submission ring n takes no writes but of ENABLE (R48). -/
def SqLocked (n : Fin 16) (s : State) : Prop := (s.hif.sq[n]).enable = true ∨ s.hif.ringLock = true

/-- Completion ring n takes no writes but of ENABLE (R48). -/
def CqLocked (n : Fin 16) (s : State) : Prop := (s.hif.cq[n]).enable = true ∨ s.hif.ringLock = true

/-- What R48 guards of submission ring n is the same in two states. -/
def SqKeeps (n : Fin 16) (s t : State) : Prop := sqGuarded t.hif.sq[n] = sqGuarded s.hif.sq[n]

/-- What R48 guards of completion ring n is the same in two states. -/
def CqKeeps (n : Fin 16) (s t : State) : Prop := cqGuarded t.hif.cq[n] = cqGuarded s.hif.cq[n]

section
variable {n : Fin 16} {s : State}

theorem storeSq_of_locked (h : SqLocked n s) (f : SqRing → SqRing) : storeSq n f s = s :=
  if_pos (by simpa [SqLocked] using h)

theorem storeCq_of_locked (h : CqLocked n s) (f : CqRing → CqRing) : storeCq n f s = s :=
  if_pos (by simpa [CqLocked] using h)

theorem storeSq_of_unlocked (he : (s.hif.sq[n]).enable = false) (hl : s.hif.ringLock = false)
    (f : SqRing → SqRing) : storeSq n f s = modSq n f s :=
  if_neg (by rw [he, hl]; decide)

theorem storeCq_of_unlocked (he : (s.hif.cq[n]).enable = false) (hl : s.hif.ringLock = false)
    (f : CqRing → CqRing) : storeCq n f s = modCq n f s :=
  if_neg (by rw [he, hl]; decide)

/-- A store into any submission ring keeps a locked one: either it is that ring, or another one. -/
theorem sqKeeps_storeSq (h : SqLocked n s) (m : Fin 16) (f : SqRing → SqRing) :
    SqKeeps n s (storeSq m f s) := by
  by_cases hn : n = m
  · rw [← hn, storeSq_of_locked h, SqKeeps]
  · unfold storeSq
    split
    · rfl
    · simp [SqKeeps, hn]

theorem cqKeeps_storeCq (h : CqLocked n s) (m : Fin 16) (f : CqRing → CqRing) :
    CqKeeps n s (storeCq m f s) := by
  by_cases hn : n = m
  · rw [← hn, storeCq_of_locked h, CqKeeps]
  · unfold storeCq
    split
    · rfl
    · simp [CqKeeps, hn]

theorem sqKeeps_storeCq (m : Fin 16) (f : CqRing → CqRing) : SqKeeps n s (storeCq m f s) := by
  unfold storeCq
  split
  · rfl
  · simp [SqKeeps]

theorem cqKeeps_storeSq (m : Fin 16) (f : SqRing → SqRing) : CqKeeps n s (storeSq m f s) := by
  unfold storeSq
  split
  · rfl
  · simp [CqKeeps]

end

/-- What a register write does to what R48 guards: one guarded store into one ring, or nothing. What follows it,
the setting or clearing of ENABLE, keeps every ring. -/
inductive RingStore (s : State) : State → Prop
  | sq (m : Fin 16) (f : SqRing → SqRing) {t : State} (ht : RingsKeep (storeSq m f s) t) : RingStore s t
  | cq (m : Fin 16) (f : CqRing → CqRing) {t : State} (ht : RingsKeep (storeCq m f s) t) : RingStore s t
  | other {t : State} (ht : RingsKeep s t) : RingStore s t

theorem RingStore.sqKeeps {n : Fin 16} {s t : State} (h : RingStore s t) (hn : SqLocked n s) : SqKeeps n s t := by
  cases h with
  | sq m f ht => exact (ht n).1.trans (sqKeeps_storeSq hn m f)
  | cq m f ht => exact (ht n).1.trans (sqKeeps_storeCq m f)
  | other ht => exact (ht n).1

theorem RingStore.cqKeeps {n : Fin 16} {s t : State} (h : RingStore s t) (hn : CqLocked n s) : CqKeeps n s t := by
  cases h with
  | sq m f ht => exact (ht n).2.trans (cqKeeps_storeSq m f)
  | cq m f ht => exact (ht n).2.trans (cqKeeps_storeCq hn m f)
  | other ht => exact (ht n).2

/-- The fields of a submission ring that a write of its CFG register gives (R47). -/
def sqCfg (v : Nat) (q : SqRing) : SqRing :=
  { q with
    pollUs := max 1 (min 1000 (wf' v 16 10)), log2 := ringLog (wf' v 8 4), prio := wf' v 6 2
    cq := ⟨wf' v 2 4 % 16, by omega⟩ }

/-- The fields of a completion ring that a write of its CFG register gives (R47). -/
def cqCfg (v : Nat) (q : CqRing) : CqRing :=
  { q with
    coalUs := min 1000 (wf' v 20 10), coalCount := max 1 (wf' v 12 8), log2 := ringLog (wf' v 8 4)
    irqEn := wb v 6, vector := wf' v 1 5 }

/-- A write of RING_SQn_CFG stores its fields, then sets or clears ENABLE. -/
theorem ringsKeep_sqCfgWrite (n : Fin 16) (v : Nat) (s : State) :
    RingsKeep (storeSq n (sqCfg v) s) (sqCfgWrite n v s) := by
  have hcfg : sqCfgWrite n v s = if wb v 0 then enableSq n (storeSq n (sqCfg v) s)
      else disableSq n (storeSq n (sqCfg v) s) := rfl
  rw [hcfg]
  split
  · exact ringsKeep_enableSq n _
  · exact ringsKeep_disableSq n _

theorem ringsKeep_cqCfgWrite (n : Fin 16) (v : Nat) (s : State) :
    RingsKeep (storeCq n (cqCfg v) s) (cqCfgWrite n v s) := by
  have hcfg : cqCfgWrite n v s = if wb v 0 then enableCq n (storeCq n (cqCfg v) s)
      else if ((storeCq n (cqCfg v) s).hif.cq[n]).enable then disableCq n (storeCq n (cqCfg v) s)
      else storeCq n (cqCfg v) s := rfl
  rw [hcfg]
  split
  · exact ringsKeep_enableCq n _
  · split
    · exact ringsKeep_disableCq n _
    · exact ringsKeep_refl _

theorem ringStore_ringWrite (o v : Nat) (s : State) : RingStore s (ringWrite o v s) := by
  unfold ringWrite
  split
  · exact .sq _ _ (ringsKeep_sqCfgWrite _ v s)
  · exact .sq _ _ (ringsKeep_refl _)
  · exact .cq _ _ (ringsKeep_cqCfgWrite _ v s)
  · exact .cq _ _ (ringsKeep_refl _)
  · exact .other (ringsKeep_refl s)

theorem ringStore_write64 (lo v : Nat) (s : State) : RingStore s (write64 lo v s) := by
  unfold write64
  dsimp only
  split
  · split
    · exact .sq _ _ (by rw [whenS_not_and_not]; exact ringsKeep_refl _)
    · exact .sq _ _ (by rw [whenS_not_and_not]; exact ringsKeep_refl _)
    · exact .cq _ _ (by rw [whenS_not_and_not]; exact ringsKeep_refl _)
    · exact .cq _ _ (by rw [whenS_not_and_not]; exact ringsKeep_refl _)
    · exact .other (ringsKeep_refl s)
  · exact .other (ringsKeep_of_hif (by split <;> rfl))
  · split
    · exact .other (ringsKeep_of_keeps (l := [.rve, .crcu])
        (keeps_nextOr (keeps_execCrcuCtxWrite _ _ _) rfl (keeps_refl _ s)) (by decide))
    · exact .other (ringsKeep_refl s)
  · exact .other (ringsKeep_refl s)

theorem regWrite_ringPage {off : Nat} (h : off / 65536 = 1) (v : Nat) (s : State) :
    regWrite off v s = ringWrite (off % 65536) v s := by
  simp only [regWrite, h]

theorem regRead64_ringPage {off : Nat} (h : off / 65536 = 1) (s : State) :
    regRead64 off s = ringRead64 (off % 65536) s := by
  simp only [regRead64, h]

/-- An access of the host that writes a word of the RING page: a 32-bit register, or the high word of a 64-bit
register. -/
theorem answers_ringStore {off : Nat} (hlo : 0x10000 ≤ off) (hhi : off < 0x20000) {v : Word} {i : Instr}
    (hi : i = .registerWrite (BitVec.ofNat 22 off) v ∨ i = .reg64HighWrite (BitVec.ofNat 22 off) v) (s : State) :
    Answers (exec i s) (RingStore s) := by
  have hoff : (BitVec.ofNat 22 off).toNat = off := Nat.mod_eq_of_lt (by omega)
  rcases hi with rfl | rfl
  · refine ⟨_, rfl, ?_⟩
    rw [hoff]
    cases hostUp s
    · exact .other (ringsKeep_refl s)
    · rw [whenS_true rfl, regWrite_ringPage (by omega)]
      exact ringStore_ringWrite _ _ s
  · refine ⟨_, rfl, ?_⟩
    cases hostUp s && (regRead64 ((BitVec.ofNat 22 off).toNat - 4) s).isSome
    · exact .other (ringsKeep_refl s)
    · exact ringStore_write64 _ _ s

/-- The write-one-to-clear flags of a submission ring's STATUS register, which R48 guards too (log entry 82). -/
def sqClear (v : Nat) (q : SqRing) : SqRing :=
  { q with fetchError := q.fetchError && !wb v 19, badIndex := q.badIndex && !wb v 18 }

/-- The write-one-to-clear flags of a completion ring's STATUS register (log entry 82). -/
def cqClear (v : Nat) (q : CqRing) : CqRing :=
  { q with dbError := q.dbError && !wb v 19, fullWait := q.fullWait && !wb v 18 }

/-- Register r of ring n, where an array of sixteen rings begins. -/
theorem arrayAt_ring {o base r : Nat} (n : Fin 16) (ho : o = base + r + 0x20 * n.val) (hr : r < 0x20) :
    arrayAt o base 0x20 16 = some (n.val, r) := by
  rw [arrayAt, if_pos (by omega), show (o - base) / 0x20 = n.val by omega, show (o - base) % 0x20 = r by omega]

/-- The completion rings lie behind the array of the submission rings. -/
theorem arrayAt_sq_of_ge {o : Nat} (h : 0x200 ≤ o) : arrayAt o 0 0x20 16 = none :=
  if_neg (by omega)

theorem ring16_val (n : Fin 16) : ring16 n.val = n := Fin.ext (Nat.mod_eq_of_lt n.isLt)

section
variable (n : Fin 16) (v : Nat) (s : State)

theorem regWrite_sqCfg : regWrite (0x10010 + 0x20 * n.val) v s = sqCfgWrite n v s := by
  have ho : (0x10010 + 0x20 * n.val) % 65536 = 0 + 0x10 + 0x20 * n.val := by omega
  rw [regWrite_ringPage (by omega), ringWrite, arrayAt_ring n ho (by decide)]
  simp only [ring16_val]

theorem regWrite_sqStatus : regWrite (0x10014 + 0x20 * n.val) v s = storeSq n (sqClear v) s := by
  have ho : (0x10014 + 0x20 * n.val) % 65536 = 0 + 0x14 + 0x20 * n.val := by omega
  rw [regWrite_ringPage (by omega), ringWrite, arrayAt_ring n ho (by decide)]
  simp only [ring16_val]
  rfl

theorem regWrite_cqCfg : regWrite (0x10410 + 0x20 * n.val) v s = cqCfgWrite n v s := by
  have ho : (0x10410 + 0x20 * n.val) % 65536 = 0x400 + 0x10 + 0x20 * n.val := by omega
  rw [regWrite_ringPage (by omega), ringWrite, arrayAt_sq_of_ge (by omega), arrayAt_ring n ho (by decide)]
  simp only [ring16_val]

theorem regWrite_cqStatus : regWrite (0x10414 + 0x20 * n.val) v s = storeCq n (cqClear v) s := by
  have ho : (0x10414 + 0x20 * n.val) % 65536 = 0x400 + 0x14 + 0x20 * n.val := by omega
  rw [regWrite_ringPage (by omega), ringWrite, arrayAt_sq_of_ge (by omega), arrayAt_ring n ho (by decide)]
  simp only [ring16_val]
  rfl

/-- The 64-bit registers of ring n are BASE and DB, of each kind. -/
theorem regRead64_ring_isSome {lo : Nat} (h : lo = 0x10000 + 0x20 * n.val ∨ lo = 0x10008 + 0x20 * n.val ∨
    lo = 0x10400 + 0x20 * n.val ∨ lo = 0x10408 + 0x20 * n.val) : (regRead64 lo s).isSome = true := by
  rw [regRead64_ringPage (by omega), ringRead64]
  rcases h with h | h | h | h
  · rw [arrayAt_ring (base := 0) (r := 0x00) n (by omega) (by decide)]
    rfl
  · rw [arrayAt_ring (base := 0) (r := 0x08) n (by omega) (by decide)]
    rfl
  · rw [arrayAt_sq_of_ge (by omega), arrayAt_ring (base := 0x400) (r := 0x00) n (by omega) (by decide)]
    rfl
  · rw [arrayAt_sq_of_ge (by omega), arrayAt_ring (base := 0x400) (r := 0x08) n (by omega) (by decide)]
    rfl

theorem write64_sqBase : write64 (0x10000 + 0x20 * n.val) v s =
    storeSq n (fun q => { q with base := BitVec.ofNat 64 (v / 64 * 64) }) s := by
  have hpage : (0x10000 + 0x20 * n.val) / 65536 = 1 := by omega
  have ho : (0x10000 + 0x20 * n.val) % 65536 = 0 + 0x00 + 0x20 * n.val := by omega
  simp only [write64, hpage, arrayAt_ring n ho (by decide), ring16_val, whenS_not_and_not]
  rfl

theorem write64_sqDb : write64 (0x10008 + 0x20 * n.val) v s =
    storeSq n (fun q => { q with db := BitVec.ofNat 64 (v / 4 * 4) }) s := by
  have hpage : (0x10008 + 0x20 * n.val) / 65536 = 1 := by omega
  have ho : (0x10008 + 0x20 * n.val) % 65536 = 0 + 0x08 + 0x20 * n.val := by omega
  simp only [write64, hpage, arrayAt_ring n ho (by decide), ring16_val, whenS_not_and_not]
  rfl

theorem write64_cqBase : write64 (0x10400 + 0x20 * n.val) v s =
    storeCq n (fun q => { q with base := BitVec.ofNat 64 (v / 32 * 32) }) s := by
  have hpage : (0x10400 + 0x20 * n.val) / 65536 = 1 := by omega
  have ho : (0x10400 + 0x20 * n.val) % 65536 = 0x400 + 0x00 + 0x20 * n.val := by omega
  have hge : 0x200 ≤ (0x10400 + 0x20 * n.val) % 65536 := by omega
  simp only [write64, hpage, arrayAt_sq_of_ge hge, arrayAt_ring n ho (by decide), ring16_val, whenS_not_and_not]
  rfl

theorem write64_cqDb : write64 (0x10408 + 0x20 * n.val) v s =
    storeCq n (fun q => { q with db := BitVec.ofNat 64 (v / 4 * 4) }) s := by
  have hpage : (0x10408 + 0x20 * n.val) / 65536 = 1 := by omega
  have ho : (0x10408 + 0x20 * n.val) % 65536 = 0x400 + 0x08 + 0x20 * n.val := by omega
  have hge : 0x200 ≤ (0x10408 + 0x20 * n.val) % 65536 := by omega
  simp only [write64, hpage, arrayAt_sq_of_ge hge, arrayAt_ring n ho (by decide), ring16_val, whenS_not_and_not]
  rfl

end

/-- With the host's link up, a write of a mapped register is carried out. -/
theorem exec_registerWrite {off : Nat} (hoff : off < 0x20000) (v : Word) {s : State} (hup : hostUp s = true) :
    exec (.registerWrite (BitVec.ofNat 22 off) v) s = .next (regWrite off v.toNat s) := by
  have hnat : (BitVec.ofNat 22 off).toNat = off := Nat.mod_eq_of_lt (by omega)
  simp only [exec, execRegisterWrite, hnat, whenS_true hup]

/-- With the host's link up, the write of the high word joins the low word held back (R13). -/
theorem exec_ring64HighWrite {n : Fin 16} {off lo : Nat} (hoff : off = lo + 4)
    (hlo : lo = 0x10000 + 0x20 * n.val ∨ lo = 0x10008 + 0x20 * n.val ∨
      lo = 0x10400 + 0x20 * n.val ∨ lo = 0x10408 + 0x20 * n.val) (v : Word) {s : State} (hup : hostUp s = true) :
    exec (.reg64HighWrite (BitVec.ofNat 22 off) v) s =
      .next (write64 lo (v.toNat * 2 ^ 32 + (holding s.hif.wrHold lo).toNat) s) := by
  have hnat : (BitVec.ofNat 22 off).toNat - 4 = lo := by
    rw [BitVec.toNat_ofNat, Nat.mod_eq_of_lt (by omega), hoff, Nat.add_sub_cancel]
  have hmapped := regRead64_ring_isSome n s hlo
  simp only [exec, execReg64HighWrite, hnat, hup, hmapped, Bool.and_self, whenS_true]

/-- A 64-bit register that holds its value in steps of k takes the two words as written, rounded down. -/
theorem toNat_joined_steps (v w : Word) (k : Nat) :
    (BitVec.ofNat 64 ((v.toNat * 2 ^ 32 + w.toNat) / k * k)).toNat = (v.toNat * 2 ^ 32 + w.toNat) / k * k := by
  have hlt : v.toNat * 2 ^ 32 + w.toNat < 2 ^ 64 := by omega
  rw [BitVec.toNat_ofNat, Nat.mod_eq_of_lt ((Nat.div_mul_le_self _ k).trans_lt hlt)]

/-- A write of CFG to a submission ring that is neither enabled nor locked. -/
theorem sqGuarded_sqCfgWrite {n : Fin 16} {s : State} (he : (s.hif.sq[n]).enable = false)
    (hl : s.hif.ringLock = false) (v : Nat) :
    sqGuarded (sqCfgWrite n v s).hif.sq[n] = sqGuarded (sqCfg v s.hif.sq[n]) := by
  rw [(ringsKeep_sqCfgWrite n v s n).1, storeSq_of_unlocked he hl]
  simp

theorem cqGuarded_cqCfgWrite {n : Fin 16} {s : State} (he : (s.hif.cq[n]).enable = false)
    (hl : s.hif.ringLock = false) (v : Nat) :
    cqGuarded (cqCfgWrite n v s).hif.cq[n] = cqGuarded (cqCfg v s.hif.cq[n]) := by
  rw [(ringsKeep_cqCfgWrite n v s n).2, storeCq_of_unlocked he hl]
  simp

section
variable {n : Fin 16} {s : State} (hup : hostUp s = true) (hl : s.hif.ringLock = false) (v : Word)
include hup hl

theorem answers_sqCfg (he : (s.hif.sq[n]).enable = false) :
    Answers (exec (.registerWrite (BitVec.ofNat 22 (0x10010 + 0x20 * n.val)) v) s) fun t =>
      (t.hif.sq[n]).pollUs = max 1 (min 1000 (v.toNat / 2 ^ 16 % 1024)) ∧
      (t.hif.sq[n]).log2 = max 4 (min 12 (v.toNat / 2 ^ 8 % 16)) ∧
      (t.hif.sq[n]).prio = v.toNat / 2 ^ 6 % 4 ∧ ((t.hif.sq[n]).cq).val = v.toNat / 2 ^ 2 % 16 := by
  refine ⟨_, exec_registerWrite (by omega) v hup, ?_⟩
  rw [regWrite_sqCfg]
  have hq := sqGuarded_sqCfgWrite he hl v.toNat
  simp only [sqGuarded, sqFields, Prod.mk.injEq] at hq
  obtain ⟨⟨-, -, hpoll, hlog, hprio, hcq⟩, -, -⟩ := hq
  refine ⟨hpoll, hlog, hprio, ?_⟩
  rw [hcq]
  exact Nat.mod_mod _ _

theorem answers_sqStatus (he : (s.hif.sq[n]).enable = false) :
    Answers (exec (.registerWrite (BitVec.ofNat 22 (0x10014 + 0x20 * n.val)) v) s) fun t =>
      (t.hif.sq[n]).fetchError = ((s.hif.sq[n]).fetchError && !(v.toNat / 2 ^ 19 % 2 == 1)) ∧
      (t.hif.sq[n]).badIndex = ((s.hif.sq[n]).badIndex && !(v.toNat / 2 ^ 18 % 2 == 1)) := by
  refine ⟨_, exec_registerWrite (by omega) v hup, ?_⟩
  rw [regWrite_sqStatus, storeSq_of_unlocked he hl]
  simp [sqClear, wb, wf']

theorem answers_cqCfg (he : (s.hif.cq[n]).enable = false) :
    Answers (exec (.registerWrite (BitVec.ofNat 22 (0x10410 + 0x20 * n.val)) v) s) fun t =>
      (t.hif.cq[n]).coalUs = min 1000 (v.toNat / 2 ^ 20 % 1024) ∧
      (t.hif.cq[n]).coalCount = max 1 (v.toNat / 2 ^ 12 % 256) ∧
      (t.hif.cq[n]).log2 = max 4 (min 12 (v.toNat / 2 ^ 8 % 16)) ∧
      (t.hif.cq[n]).irqEn = (v.toNat / 2 ^ 6 % 2 == 1) ∧ (t.hif.cq[n]).vector = v.toNat / 2 % 32 := by
  refine ⟨_, exec_registerWrite (by omega) v hup, ?_⟩
  rw [regWrite_cqCfg]
  have hq := cqGuarded_cqCfgWrite he hl v.toNat
  simp only [cqGuarded, cqFields, Prod.mk.injEq] at hq
  obtain ⟨⟨-, -, hus, hcount, hlog, hirq, hvector⟩, -, -⟩ := hq
  exact ⟨hus, hcount, hlog, hirq, by rw [hvector]; rfl⟩

theorem answers_cqStatus (he : (s.hif.cq[n]).enable = false) :
    Answers (exec (.registerWrite (BitVec.ofNat 22 (0x10414 + 0x20 * n.val)) v) s) fun t =>
      (t.hif.cq[n]).dbError = ((s.hif.cq[n]).dbError && !(v.toNat / 2 ^ 19 % 2 == 1)) ∧
      (t.hif.cq[n]).fullWait = ((s.hif.cq[n]).fullWait && !(v.toNat / 2 ^ 18 % 2 == 1)) := by
  refine ⟨_, exec_registerWrite (by omega) v hup, ?_⟩
  rw [regWrite_cqStatus, storeCq_of_unlocked he hl]
  simp [cqClear, wb, wf']

theorem answers_sqBase (he : (s.hif.sq[n]).enable = false) :
    Answers (exec (.reg64HighWrite (BitVec.ofNat 22 (0x10004 + 0x20 * n.val)) v) s) fun t =>
      ((t.hif.sq[n]).base).toNat =
        (v.toNat * 2 ^ 32 + (holding s.hif.wrHold (0x10000 + 0x20 * n.val)).toNat) / 64 * 64 := by
  refine ⟨_, exec_ring64HighWrite (n := n) (by omega) (.inl rfl) v hup, ?_⟩
  rw [write64_sqBase, storeSq_of_unlocked he hl, ← toNat_joined_steps]
  simp

theorem answers_sqDb (he : (s.hif.sq[n]).enable = false) :
    Answers (exec (.reg64HighWrite (BitVec.ofNat 22 (0x1000C + 0x20 * n.val)) v) s) fun t =>
      ((t.hif.sq[n]).db).toNat =
        (v.toNat * 2 ^ 32 + (holding s.hif.wrHold (0x10008 + 0x20 * n.val)).toNat) / 4 * 4 := by
  refine ⟨_, exec_ring64HighWrite (n := n) (by omega) (.inr (.inl rfl)) v hup, ?_⟩
  rw [write64_sqDb, storeSq_of_unlocked he hl, ← toNat_joined_steps]
  simp

theorem answers_cqBase (he : (s.hif.cq[n]).enable = false) :
    Answers (exec (.reg64HighWrite (BitVec.ofNat 22 (0x10404 + 0x20 * n.val)) v) s) fun t =>
      ((t.hif.cq[n]).base).toNat =
        (v.toNat * 2 ^ 32 + (holding s.hif.wrHold (0x10400 + 0x20 * n.val)).toNat) / 32 * 32 := by
  refine ⟨_, exec_ring64HighWrite (n := n) (by omega) (.inr (.inr (.inl rfl))) v hup, ?_⟩
  rw [write64_cqBase, storeCq_of_unlocked he hl, ← toNat_joined_steps]
  simp

theorem answers_cqDb (he : (s.hif.cq[n]).enable = false) :
    Answers (exec (.reg64HighWrite (BitVec.ofNat 22 (0x1040C + 0x20 * n.val)) v) s) fun t =>
      ((t.hif.cq[n]).db).toNat =
        (v.toNat * 2 ^ 32 + (holding s.hif.wrHold (0x10408 + 0x20 * n.val)).toNat) / 4 * 4 := by
  refine ⟨_, exec_ring64HighWrite (n := n) (by omega) (.inr (.inr (.inr rfl))) v hup, ?_⟩
  rw [write64_cqDb, storeCq_of_unlocked he hl, ← toNat_joined_steps]
  simp

end

theorem sqKeeps_iff {n : Fin 16} {s t : State} :
    SqKeeps n s t ↔ sqFields t.hif.sq[n] = sqFields s.hif.sq[n] ∧
      (t.hif.sq[n]).fetchError = (s.hif.sq[n]).fetchError ∧ (t.hif.sq[n]).badIndex = (s.hif.sq[n]).badIndex := by
  simp only [SqKeeps, sqGuarded, Prod.mk.injEq]

theorem cqKeeps_iff {n : Fin 16} {s t : State} :
    CqKeeps n s t ↔ cqFields t.hif.cq[n] = cqFields s.hif.cq[n] ∧
      (t.hif.cq[n]).dbError = (s.hif.cq[n]).dbError ∧ (t.hif.cq[n]).fullWait = (s.hif.cq[n]).fullWait := by
  simp only [CqKeeps, cqGuarded, Prod.mk.injEq]

/-- Settles O59: whatever word of the RING page is written, all it does to what R48 guards is one guarded store
(`RingStore`); where the ring is neither enabled nor locked, the store takes effect. -/
theorem ringFieldsLocked : Obligations.RingFieldsLocked := by
  refine ⟨?_, ?_, ?_, ?_⟩
  · intro s n v o i hi hlock
    obtain ⟨t, ht, hstore⟩ := answers_ringStore (by omega) (by omega) hi s
    exact ⟨t, ht, sqKeeps_iff.mp (hstore.sqKeeps hlock)⟩
  · intro s n v o i hi hlock
    obtain ⟨t, ht, hstore⟩ := answers_ringStore (by omega) (by omega) hi s
    exact ⟨t, ht, cqKeeps_iff.mp (hstore.cqKeeps hlock)⟩
  · intro s n v hup hl
    exact ⟨fun he => ⟨answers_sqCfg hup hl v he, answers_sqStatus hup hl v he⟩,
      fun he => ⟨answers_cqCfg hup hl v he, answers_cqStatus hup hl v he⟩⟩
  · intro s n v hup hl
    exact ⟨fun he => ⟨answers_sqBase hup hl v he, answers_sqDb hup hl v he⟩,
      fun he => ⟨answers_cqBase hup hl v he, answers_cqDb hup hl v he⟩⟩

end Sys2Proof.Proofs
end

section
/-!
SUPPORT. The Granary's repaired rows (R120): which operations leave them as they are, and where they end with
the Granary's power.
-/

namespace Sys2Proof.Proofs

open Sys2Proof Sys2Proof.Machine Sys2Proof.Safety Sys2Proof.Laws

/-- The rows of the Granary that a spare row has replaced (R119) are these. -/
def Repaired (rows : List RowCopy) (s : State) : Prop := s.grn.repaired = rows

section
variable {rows : List RowCopy} {s : State}

/-- An operation that keeps the Granary's registers keeps the repaired rows. -/
theorem repaired_of_keeps {l : List Zone} {t : State} (k : Keeps l s t) (hl : Zone.grn ∉ l)
    (h : Repaired rows s) : Repaired rows t :=
  (congrArg Granary.repaired (k .grn hl) :).trans h

theorem repaired_ite {c : Prop} [Decidable c] {t u : State} (h : Repaired rows t) (k : Repaired rows u) :
    Repaired rows (if c then t else u) := by
  split
  · exact h
  · exact k

theorem repaired_whenS {f : State → State} (hf : ∀ t, Repaired rows t → Repaired rows (f t)) (b : Bool)
    (h : Repaired rows s) : Repaired rows (whenS b f s) :=
  repaired_ite (hf s h) h

theorem repaired_foldl {α : Type} {f : State → α → State} {l : List α}
    (hf : ∀ t a, Repaired rows t → Repaired rows (f t a)) (h : Repaired rows s) :
    Repaired rows (l.foldl f s) := by
  induction l generalizing s with
  | nil => exact h
  | cons a l ih => exact ih (hf s a h)

theorem repaired_raise (g : Nat) (c : Machine.Class) (d : Nat) (h : Repaired rows s) :
    Repaired rows (raise g c d s) :=
  repaired_of_keeps (keeps_raise g c d s) (by decide) h

theorem repaired_scramble (a n : Nat) (h : Repaired rows s) : Repaired rows (scramble a n s) :=
  repaired_ite (repaired_of_keeps (keeps_markDirty _ _ _) (by decide) h) h

/-! A read that meets an ECC error may start the copy of a row; the row counts as repaired when that copy is
complete, and not before (R119). -/

theorem repaired_violation (m : Master) (w : Bool) (a : Nat) (c : Machine.Class) (h : Repaired rows s) :
    Repaired rows (violation m w a c s) :=
  repaired_raise _ _ _ h

theorem repaired_eccEvent (m : Master) (t : EccType) (w : Nat) (c : Machine.Class) (h : Repaired rows s) :
    Repaired rows (eccEvent m t w c s) :=
  repaired_raise _ _ _ h

theorem repaired_startRepair (w : Nat) (h : Repaired rows s) : Repaired rows (startRepair w s) :=
  repaired_ite h h

theorem repaired_readWord (m : Master) (w : Nat) (u : Upset) (h : Repaired rows s) :
    Repaired rows (readWord m w u s).2 := by
  unfold readWord
  dsimp only
  split
  · exact h
  · exact repaired_eccEvent _ _ _ _ h
  · split
    · exact h
    · split
      · exact repaired_startRepair _ (repaired_eccEvent _ _ _ _ h)
      · exact repaired_eccEvent _ _ _ _ h

theorem repaired_readsEcc (words : List Nat) (once : Nat → Bool) (h : Repaired rows s) :
    Repaired rows (readsEcc words once s) :=
  repaired_foldl (fun _ _ => repaired_readWord _ _ _) h

theorem repaired_layerEcc (f : Frame) (v : LayerView) (h : Repaired rows s) :
    Repaired rows (layerEcc f v s) :=
  repaired_ite h (repaired_readsEcc _ _ h)

theorem repaired_denyOne (bad : List Nat) (h : Repaired rows s) : Repaired rows (denyOne bad s) := by
  unfold denyOne
  split
  · exact h
  · exact repaired_violation _ _ _ _ h

theorem repaired_denyLayer (r : Tab Region 16) (v : LayerView) (h : Repaired rows s) :
    Repaired rows (denyLayer r v s) := by
  unfold denyLayer
  split
  · exact h
  · exact repaired_ite h (repaired_denyOne _ h)

/-! Loss of the link: host transfers abort, what they wrote is undefined, their commands fail (R44, R98). -/

theorem repaired_hostUnderrun (n : Fin 9) (row : Nat) (h : Repaired rows s) :
    Repaired rows (hostUnderrun n row s) := by
  unfold hostUnderrun
  split
  · exact h
  · refine repaired_ite h ?_
    split
    · exact h
    · split
      · dsimp only
        refine repaired_ite ?_ (repaired_of_keeps (keeps_lateEvent _ _ _) (by decide) ?_)
        · exact repaired_ite (repaired_denyLayer _ _ (repaired_layerEcc _ _ h)) h
        · exact repaired_ite (repaired_denyLayer _ _ (repaired_layerEcc _ _ h)) h
      · exact h

theorem repaired_pacedFails (k : Fin 32) (h : Repaired rows s) : Repaired rows (pacedFails k s) := by
  unfold pacedFails
  split
  · exact h
  · split
    · exact h
    · split
      · exact repaired_hostUnderrun _ _ h
      · exact h

/-- The destination of an aborted transfer is left undefined, line by line. -/
theorem repaired_dmaAbort (k : Fin 32) (h : Repaired rows s) : Repaired rows (dmaAbort k s) := by
  unfold dmaAbort
  dsimp only
  refine repaired_ite (repaired_of_keeps (keeps_abortHalted k s) (by decide) h) (repaired_ite h ?_)
  refine repaired_of_keeps (keeps_modCh _ _ _) (by decide)
    (repaired_of_keeps (keeps_endBurst _ _) (by decide) ?_)
  unfold Repaired
  dsimp only
  split
  · exact repaired_ite h (repaired_foldl (fun _ _ => repaired_scramble _ _) h)
  · exact h

theorem repaired_abortHost (k : Fin 32) (h : Repaired rows s) : Repaired rows (abortHost s k) :=
  repaired_ite (repaired_pacedFails _ (repaired_dmaAbort _ h)) h

theorem repaired_failedRange (j : DmaJob) (a n : Nat) (h : Repaired rows s) :
    Repaired rows (failedRange j a n s) := by
  unfold failedRange
  split
  · exact repaired_scramble _ _ h
  · exact h

theorem repaired_transferFailed (j : DmaJob) (h : Repaired rows s) : Repaired rows (transferFailed j s) := by
  unfold transferFailed
  split
  · exact repaired_failedRange _ _ _ h
  · exact repaired_of_keeps (keeps_modSym _ _ _) (by decide) h
  · exact repaired_failedRange _ _ _ h
  · exact h
  · exact h
  · exact h

theorem repaired_jobFailed (j : DmaJob) (h : Repaired rows s) : Repaired rows (jobFailed j s) :=
  repaired_ite h (repaired_of_keeps (keeps_complete _ _ _ _ _) (by decide) (repaired_transferFailed j h))

theorem repaired_jobsLost (h : Repaired rows s) : Repaired rows (jobsLost s) :=
  repaired_foldl (fun _ _ => repaired_jobFailed _) h

theorem repaired_hostLost (h : Repaired rows s) : Repaired rows (hostLost s) :=
  repaired_jobsLost (repaired_of_keeps (keeps_ringsLost _) (by decide)
    (repaired_foldl (fun _ _ => repaired_abortHost _) h))

theorem repaired_linkLost (h : Repaired rows s) : Repaired rows (linkLost s) := repaired_hostLost h

/-! A low-power entry, and the wake that may follow it at once. -/

theorem repaired_engineStop (h : Repaired rows s) : Repaired rows (engineStop s) := by
  unfold engineStop
  split
  · exact repaired_ite h (repaired_of_keeps (keeps_dmaStopAll _) (by decide)
      (repaired_linkLost (repaired_of_keeps (keeps_lanesOff _) (by decide) h)))
  · exact h

theorem repaired_raiseWake (h : Repaired rows s) : Repaired rows (raiseWake s) := by
  unfold raiseWake
  split
  · exact h
  · refine repaired_ite h ?_
    have hlost : ∀ t : State, Repaired rows t →
        Repaired rows (if t.grn.lost then raise 31 .major 0 { t with grn.lost := false } else t) :=
      fun t ht => repaired_ite (repaired_raise _ _ _ ht) ht
    have hnote : ∀ t : State, Repaired rows t →
        Repaired rows (if t.pwr.xtalNote then raise 31 .note 0 { t with pwr.xtalNote := false } else t) :=
      fun t ht => repaired_ite (repaired_raise _ _ _ ht) ht
    exact hnote _ (hlost _ (repaired_foldl (fun _ _ => repaired_raise _ _ _) h))

theorem repaired_coreGood (h : Repaired rows s) : Repaired rows (coreGood s) := by
  unfold coreGood
  split
  · exact repaired_ite h (repaired_raiseWake (repaired_of_keeps (keeps_coreOut _) (by decide)
      (repaired_of_keeps (keeps_wakeIo _ _) (by decide) h)))
  · exact h

theorem repaired_beginStart (k : StartKind) (h : Repaired rows s) : Repaired rows (beginStart k s) :=
  repaired_of_keeps (keeps_beginStart k s) (by decide) h

theorem repaired_beginWake (h : Repaired rows s) : Repaired rows (beginWake s) := by
  unfold beginWake
  dsimp only
  have hstart {t : State} (ht : Repaired rows t) (k : StartKind) (x : Option Start) :
      Repaired rows { beginStart k t with pwr.start := x } := repaired_beginStart k ht
  refine repaired_whenS (fun _ => repaired_coreGood) _ (hstart ?_ _ _)
  exact repaired_ite h h

/-- A wake event latched during the entry starts its wake at once (R388). -/
theorem repaired_latchedWake (latched : Bool) (h : Repaired rows s) :
    Repaired rows (if latched then beginWake s else s) :=
  repaired_ite (repaired_beginWake h) h

/-- A reset of every domain but the always-on one keeps the Granary's repairs, as `keepGranary` says. -/
theorem repaired_domainsReset (en : Bool) (h : Repaired rows s) : Repaired rows (domainsReset en s) := h

theorem repaired_sysStart (core : Bool) (h : Repaired rows s) : Repaired rows (sysStart core s) := by
  have hreset : Repaired rows (domainsReset false s) := repaired_domainsReset false h
  unfold sysStart
  refine repaired_of_keeps (keeps_coreOut _) (by decide) ?_
  exact repaired_beginStart .sys (repaired_ite hreset hreset)

/-- The Granary goes to retention for SLEEP, and loses its power otherwise. -/
theorem repaired_powerDown (e : LowEntry) (h : Repaired rows s) :
    Repaired (if e.target = .sleep then rows else []) (powerDown e s) := by
  have htrim (keep : Bool) : Repaired rows (if keep then measureTrim s else s) :=
    repaired_ite (repaired_of_keeps (keeps_measureTrim s) (by decide) h) h
  have hreset (keep : Bool) := repaired_domainsReset true (htrim keep)
  unfold powerDown
  dsimp only
  refine repaired_latchedWake _ ?_
  by_cases he : e.target = .sleep
  · simp only [he, if_true, beq_self_eq_true]
    exact hreset _
  · simp only [he, if_false, beq_iff_eq]
    rfl

end

/-- While lanes and link go down, the entry keeps its target and stays on its side of the commit point. -/
theorem engineStop_entry {s : State} {e : LowEntry} (h : s.pwr.entry = some e) :
    ∃ f, (engineStop s).pwr.entry = some f ∧ f.committed = e.committed ∧ f.target = e.target := by
  unfold engineStop
  simp only [h]
  split
  · exact ⟨e, h, rfl, rfl⟩
  · have hoff (t : State) : (lanesOff t).pwr = t.pwr := keeps_lanesOff t .pwr (by decide)
    have hlink (t : State) : (linkLost t).pwr = t.pwr := keeps_linkLost t .pwr (by decide)
    have hstop (t : State) : (dmaStopAll t).pwr = t.pwr := keeps_dmaStopAll t .pwr (by decide)
    rw [hstop, hlink, hoff]
    exact ⟨_, rfl, rfl, rfl⟩

theorem commitNow_of_committed {s : State} {e : LowEntry} (h : s.pwr.entry = some e) (hc : e.committed = true) :
    commitNow s = s := by
  simp [commitNow, h, hc]

/-- An entry past its commit point powers the device down (R387). -/
theorem execLowPowerPowerdown_of_committed {s : State} {e : LowEntry} (h : s.pwr.entry = some e)
    (hc : e.committed = true) :
    ∃ f, f.target = e.target ∧ execLowPowerPowerdown s = .next (powerDown f (engineStop s)) := by
  obtain ⟨f, hf, hcf, htf⟩ := engineStop_entry h
  have hlow : commitLow s = engineStop s := commitNow_of_committed hf (hcf.trans hc)
  exact ⟨f, htf, by simp [execLowPowerPowerdown, hlow, hf, hcf, hc]⟩

/-- SYS and CORE reset, and the loss of VDD_CORE, leave the Granary powered. -/
theorem answers_repaired_of_reset {i : Instr} (hi : i = .sysReset ∨ i = .coreReset ∨ i = .pgCoreLoss)
    (s : State) : Answers (exec i s) (Repaired s.grn.repaired) := by
  obtain rfl | rfl | rfl := hi
  · exact ⟨_, rfl, repaired_ite (repaired_sysStart _ rfl) rfl⟩
  · obtain ⟨t, ht, hkeeps⟩ := keeps_execCoreReset s
    exact ⟨t, ht, repaired_of_keeps hkeeps (by decide) rfl⟩
  · exact ⟨_, rfl, repaired_whenS (fun _ => repaired_sysStart _) _ rfl⟩

/-- Settles O60: the resets and a power-down to SLEEP keep the repaired rows; POR, a power-down to another state and
the loss of VDD_SRAM in SLEEP end them. -/
theorem repairsLast : Obligations.RepairsLast := by
  refine ⟨fun s i hi => answers_repaired_of_reset hi s, ?_, fun _ _ _ => ⟨_, rfl, rfl⟩, ?_⟩
  · intro s e he hc
    obtain ⟨f, htarget, hexec⟩ := execLowPowerPowerdown_of_committed he hc
    refine ⟨_, hexec, ?_⟩
    have hdown := repaired_powerDown f (repaired_engineStop (rfl : Repaired s.grn.repaired s))
    rwa [htarget] at hdown
  · intro s hsleep hret
    obtain ⟨t, ht, hkeeps⟩ := keeps_execPgSramLossInSleep s
    have hlost : execPgSramLossInSleep s = .next { s with grn.lost := true, grn.repaired := [] } := by
      rw [execPgSramLossInSleep, whenS_true (by simp [hsleep, hret])]
    cases hlost.symm.trans ht
    exact ⟨_, ht, rfl, rfl, hkeeps⟩

end Sys2Proof.Proofs
end

section
/-!
SUPPORT. The frame of every command, and the two invariants that every step keeps.
-/

namespace Sys2Proof.Proofs

-- Each proof is checked before the next begins: hundreds at once would ask for a thread each.
set_option Elab.async false

open Sys2Proof Sys2Proof.Machine Sys2Proof.Safety Sys2Proof.Laws

/-- Every command answers a next state and changes no part of the state but those `touches` lists for it. -/
theorem keeps_exec : ∀ (c : Instr) (s : State), Answers (exec c s) (Keeps (touches c) s)
  | .por yokePri addr, s => keeps_execPor yokePri addr s
  | .sysReset, s => keeps_execSysReset s
  | .pgCoreLoss, s => keeps_execPgCoreLoss s
  | .pgSramLossInSleep, s => keeps_execPgSramLossInSleep s
  | .testenChange high, s => keeps_execTestenChange high s
  | .coreReset, s => keeps_execCoreReset s
  | .lockstepMismatch, s => keeps_execLockstepMismatch s
  | .watchdogExpiry, s => keeps_execWatchdogExpiry s
  | .firmwareReturnToService, s => keeps_execFirmwareReturnToService s
  | .firmwareRestartTimeout, s => keeps_execFirmwareRestartTimeout s
  | .perstNChange high, s => keeps_execPerstNChange high s
  | .pcieFlr, s => keeps_execPcieFlr s
  | .pcieD3hot, s => keeps_execPcieD3hot s
  | .pcieLinkDown, s => keeps_execPcieLinkDown s
  | .pcieLinkUp speed width, s => keeps_execPcieLinkUp speed width s
  | .pcieAerError uncorrectable status, s => keeps_execPcieAerError uncorrectable status s
  | .bar0UnmappedAccess write off, s => keeps_execBar0UnmappedAccess write off s
  | .bar0BadWidthAccess write off bytes, s => keeps_execBar0BadWidthAccess write off bytes s
  | .registerWrite off value, s => keeps_execRegisterWrite off value s
  | .reg64LowRead off, s => keeps_execReg64LowRead off s
  | .reg64HighRead off, s => keeps_execReg64HighRead off s
  | .reg64LowWrite off value, s => keeps_execReg64LowWrite off value s
  | .reg64HighWrite off value, s => keeps_execReg64HighWrite off value s
  | .hifKickSq n, s => keeps_execHifKickSq n s
  | .hifKickCq n, s => keeps_execHifKickCq n s
  | .hifAuthWrite port value, s => keeps_execHifAuthWrite port value s
  | .hifLockAuthLock, s => keeps_execHifLockAuthLock s
  | .hifLockRingLock, s => keeps_execHifLockRingLock s
  | .hifCntClearDrop, s => keeps_execHifCntClearDrop s
  | .hifCntClearDenied, s => keeps_execHifCntClearDenied s
  | .ringSqEnable n, s => keeps_execRingSqEnable n s
  | .ringSqDisable n, s => keeps_execRingSqDisable n s
  | .ringCqEnable n, s => keeps_execRingCqEnable n s
  | .ringCqDisable n, s => keeps_execRingCqDisable n s
  | .dmaCntClearStarve, s => keeps_execDmaCntClearStarve s
  | .cmpCntClearLate, s => keeps_execCmpCntClearLate s
  | .geoCntClearParity, s => keeps_execGeoCntClearParity s
  | .geoCntClearOverstep, s => keeps_execGeoCntClearOverstep s
  | .phoCntClearSubst, s => keeps_execPhoCntClearSubst s
  | .hdgCommitCrcWrite value, s => keeps_execHdgCommitCrcWrite value s
  | .hdgCntClearSafe, s => keeps_execHdgCntClearSafe s
  | .hdgCntClearCount, s => keeps_execHdgCntClearCount s
  | .lplCntClearTe, s => keeps_execLplCntClearTe s
  | .lplCntClearSync, s => keeps_execLplCntClearSync s
  | .lplCntClearLate, s => keeps_execLplCntClearLate s
  | .lplCntClearRepeats, s => keeps_execLplCntClearRepeats s
  | .xlpCntClearEvents, s => keeps_execXlpCntClearEvents s
  | .xlpCntClearErr, s => keeps_execXlpCntClearErr s
  | .xlkCntClearCtl, s => keeps_execXlkCntClearCtl s
  | .xlkCntClearLat, s => keeps_execXlkCntClearLat s
  | .xlkCntClearCnt, s => keeps_execXlkCntClearCnt s
  | .pxhCntClearFlags, s => keeps_execPxhCntClearFlags s
  | .pxhCntClearEvents, s => keeps_execPxhCntClearEvents s
  | .railCntClearFaults, s => keeps_execRailCntClearFaults s
  | .pwrCntClearCount, s => keeps_execPwrCntClearCount s
  | .thmCntClearCount, s => keeps_execThmCntClearCount s
  | .rveInjKeyWrite key, s => keeps_execRveInjKeyWrite key s
  | .rveLockSet, s => keeps_execRveLockSet s
  | .yokCntClearCount, s => keeps_execYokCntClearCount s
  | .yokCntClearCheck, s => keeps_execYokCntClearCheck s
  | .belTimeNsRead, s => keeps_execBelTimeNsRead s
  | .belCntClearCount, s => keeps_execBelCntClearCount s
  | .ethCntClearPtp, s => keeps_execEthCntClearPtp s
  | .ethCntClearTx, s => keeps_execEthCntClearTx s
  | .ethCntClearRx, s => keeps_execEthCntClearRx s
  | .crcuCfgWrite c poly, s => keeps_execCrcuCfgWrite c poly s
  | .crcuDataWrite c log2 value, s => keeps_execCrcuDataWrite c log2 value s
  | .crcuCtxWrite c value, s => keeps_execCrcuCtxWrite c value s
  | .gpioDataWrite out, s => keeps_execGpioDataWrite out s
  | .grnRegLockSet, s => keeps_execGrnRegLockSet s
  | .tstCntClearCount, s => keeps_execTstCntClearCount s
  | .bar2Read addr bytes upset, s => keeps_execBar2Read addr bytes upset s
  | .bar2Write addr data upset, s => keeps_execBar2Write addr data upset s
  | .ringDoorbellPoll n, s => keeps_execRingDoorbellPoll n s
  | .producerIndexReadDone n result, s => keeps_execProducerIndexReadDone n result s
  | .ringEntryFetched n entries, s => keeps_execRingEntryFetched n entries s
  | .staleEntryReread n entries, s => keeps_execStaleEntryReread n entries s
  | .commandStart, s => keeps_execCommandStart s
  | .completionWrite n, s => keeps_execCompletionWrite n s
  | .cqConsumerPoll n result, s => keeps_execCqConsumerPoll n result s
  | .cqFullWaitTimeout n, s => keeps_execCqFullWaitTimeout n s
  | .msixCoalesceTimeout n, s => keeps_execMsixCoalesceTimeout n s
  | .nop src d, s => keeps_execNop src d s
  | .layerSet src d, s => keeps_execLayerSet src d s
  | .layerPresent src d, s => keeps_execLayerPresent src d s
  | .maskUpdate src d, s => keeps_execMaskUpdate src d s
  | .symbolLoad src d, s => keeps_execSymbolLoad src d s
  | .coefLoad src d, s => keeps_execCoefLoad src d s
  | .timingSet src d, s => keeps_execTimingSet src d s
  | .tileMapSet src d, s => keeps_execTileMapSet src d s
  | .calLoad src d, s => keeps_execCalLoad src d s
  | .fadeSet src d, s => keeps_execFadeSet src d s
  | .fluxBudgetSet src d, s => keeps_execFluxBudgetSet src d s
  | .telemetryRead src d, s => keeps_execTelemetryRead src d s
  | .healthSet src d, s => keeps_execHealthSet src d s
  | .railSet src d, s => keeps_execRailSet src d s
  | .powerRequest src d, s => keeps_execPowerRequest src d s
  | .lowPowerPowerdown, s => keeps_execLowPowerPowerdown s
  | .thermalSet src d, s => keeps_execThermalSet src d s
  | .calRun src d, s => keeps_execCalRun src d s
  | .timeSchedule src d, s => keeps_execTimeSchedule src d s
  | .timeSet src d, s => keeps_execTimeSet src d s
  | .pulseSet src d, s => keeps_execPulseSet src d s
  | .safetyCommit src d, s => keeps_execSafetyCommit src d s
  | .safeTest src d, s => keeps_execSafeTest src d s
  | .fwStage src d, s => keeps_execFwStage src d s
  | .fwActivate src d, s => keeps_execFwActivate src d s
  | .auxWrite src d, s => keeps_execAuxWrite src d s
  | .faultAck src d, s => keeps_execFaultAck src d s
  | .faultRead src d, s => keeps_execFaultRead src d s
  | .diagInject src d, s => keeps_execDiagInject src d s
  | .testRun src d, s => keeps_execTestRun src d s
  | .marchRun src d, s => keeps_execMarchRun src d s
  | .yokeSwitch src d, s => keeps_execYokeSwitch src d s
  | .commandDatagramReceived p f, s => keeps_execCommandDatagramReceived p f s
  | .datagramReply p, s => keeps_execDatagramReply p s
  | .bulkDatagramReceived p f, s => keeps_execBulkDatagramReceived p f s
  | .arpRequestReceived p f, s => keeps_execArpRequestReceived p f s
  | .icmpEchoReceived p f, s => keeps_execIcmpEchoReceived p f s
  | .ethLinkUp p, s => keeps_execEthLinkUp p s
  | .ethLinkDown p, s => keeps_execEthLinkDown p s
  | .ethLaunchEligible p q, s => keeps_execEthLaunchEligible p q s
  | .ethFrameTransmit p, s => keeps_execEthFrameTransmit p s
  | .syncReceived p f m, s => keeps_execSyncReceived p f m s
  | .followUpReceived p f m, s => keeps_execFollowUpReceived p f m s
  | .delayExchangeMessageReceived p f msg m, s => keeps_execDelayExchangeMessageReceived p f msg m s
  | .announceReceived p f a, s => keeps_execAnnounceReceived p f a s
  | .managementMessageReceived p f, s => keeps_execManagementMessageReceived p f s
  | .ptpMessageTransmitTimer p msg, s => keeps_execPtpMessageTransmitTimer p msg s
  | .syncReceiptTimeout, s => keeps_execSyncReceiptTimeout s
  | .announceReceiptTimeout, s => keeps_execAnnounceReceiptTimeout s
  | .belRebase, s => keeps_execBelRebase s
  | .alarmFire a, s => keeps_execAlarmFire a s
  | .pulseEdge o, s => keeps_execPulseEdge o s
  | .pulseEnd o, s => keeps_execPulseEnd o s
  | .latchPoint vbiTestOk latSeq, s => keeps_execLatchPoint vbiTestOk latSeq s
  | .vbiEnd, s => keeps_execVbiEnd s
  | .compositionComplete, s => keeps_execCompositionComplete s
  | .pixSend n badLines, s => keeps_execPixSend n badLines s
  | .hostLineUnderrun layer row, s => keeps_execHostLineUnderrun layer row s
  | .coefParityFailure layer pixel, s => keeps_execCoefParityFailure layer pixel s
  | .freezeStall, s => keeps_execFreezeStall s
  | .syncInEdge, s => keeps_execSyncInEdge s
  | .syncInMissing, s => keeps_execSyncInMissing s
  | .syncLockTimeout, s => keeps_execSyncLockTimeout s
  | .teInEdge, s => keeps_execTeInEdge s
  | .teSequenceReceived n a fseqLow fseqHigh chk, s => keeps_execTeSequenceReceived n a fseqLow fseqHigh chk s
  | .echoWindowExpiry, s => keeps_execEchoWindowExpiry s
  | .nakReceived n pkt eop, s => keeps_execNakReceived n pkt eop s
  | .rdrReceived n pkt eop, s => keeps_execRdrReceived n pkt eop s
  | .telStatusReceived n pkt eop, s => keeps_execTelStatusReceived n pkt eop s
  | .telPixelReceived n pkt eop parity, s => keeps_execTelPixelReceived n pkt eop parity s
  | .tileSerialResetDone t, s => keeps_execTileSerialResetDone t s
  | .slotIncludeTimeout k, s => keeps_execSlotIncludeTimeout k s
  | .slotSilentTimeout k, s => keeps_execSlotSilentTimeout k s
  | .controlRequestRetry n, s => keeps_execControlRequestRetry n s
  | .laneSignalDetect n, s => keeps_execLaneSignalDetect n s
  | .laneCommaLock n, s => keeps_execLaneCommaLock n s
  | .laneTrainingSetReceived n ident lane rate state chk, s => keeps_execLaneTrainingSetReceived n ident lane rate state chk s
  | .laneStateTimeout n, s => keeps_execLaneStateTimeout n s
  | .enumerateHelloRepeat n, s => keeps_execEnumerateHelloRepeat n s
  | .enumerateSlotTimeout n, s => keeps_execEnumerateSlotTimeout n s
  | .checkPatternEnd n errors, s => keeps_execCheckPatternEnd n errors s
  | .checkReportTimeout n, s => keeps_execCheckReportTimeout n s
  | .laneLossOfSignal n, s => keeps_execLaneLossOfSignal n s
  | .laneErrorBurst n e, s => keeps_execLaneErrorBurst n e s
  | .laneNewAlignment n, s => keeps_execLaneNewAlignment n s
  | .laneErrorWindow n e, s => keeps_execLaneErrorWindow n e s
  | .laneFbkTimeout n, s => keeps_execLaneFbkTimeout n s
  | .laneSlowRetrain n, s => keeps_execLaneSlowRetrain n s
  | .railGoodLaneRestart r, s => keeps_execRailGoodLaneRestart r s
  | .healthWriteback cancelled, s => keeps_execHealthWriteback cancelled s
  | .healthRecountDone, s => keeps_execHealthRecountDone s
  | .planeCopyComplete, s => keeps_execPlaneCopyComplete s
  | .dmaChannelFreed, s => keeps_execDmaChannelFreed s
  | .dmaDescriptorFetched ch raw upset, s => keeps_execDmaDescriptorFetched ch raw upset s
  | .dmaPacedRequest layer, s => keeps_execDmaPacedRequest layer s
  | .dmaBeatComplete ch beat, s => keeps_execDmaBeatComplete ch beat s
  | .dmaTimeout ch what, s => keeps_execDmaTimeout ch what s
  | .dmaChainDone ch, s => keeps_execDmaChainDone ch s
  | .granaryInitDone failing, s => keeps_execGranaryInitDone failing s
  | .eccRewrite bank, s => keeps_execEccRewrite bank s
  | .rowRepairComplete, s => keeps_execRowRepairComplete s
  | .scrubWordRead bank upset, s => keeps_execScrubWordRead bank upset s
  | .marchStripeDone failing, s => keeps_execMarchStripeDone failing s
  | .retentionReleaseDone, s => keeps_execRetentionReleaseDone s
  | .safeInRequest second, s => keeps_execSafeInRequest second s
  | .testPulseStart second, s => keeps_execTestPulseStart second s
  | .testPulseSample second level, s => keeps_execTestPulseSample second level s
  | .testPulseEnd second, s => keeps_execTestPulseEnd second s
  | .disconnectTestStart second, s => keeps_execDisconnectTestStart second s
  | .disconnectFeedbackLow tenths, s => keeps_execDisconnectFeedbackLow tenths s
  | .disconnectOpenTimeout, s => keeps_execDisconnectOpenTimeout s
  | .disconnectReleaseCheck high, s => keeps_execDisconnectReleaseCheck high s
  | .disconnectTestRetry, s => keeps_execDisconnectTestRetry s
  | .powerupDisconnectTest second, s => keeps_execPowerupDisconnectTest second s
  | .safeFbUnexpectedOpen second, s => keeps_execSafeFbUnexpectedOpen second s
  | .hedgeSelfFault which, s => keeps_execHedgeSelfFault which s
  | .hedgeHeartbeatLoss, s => keeps_execHedgeHeartbeatLoss s
  | .hedgeCrcScan good corrected, s => keeps_execHedgeCrcScan good corrected s
  | .stagedBlockTimeout, s => keeps_execStagedBlockTimeout s
  | .hedgePowerUp, s => keeps_execHedgePowerUp s
  | .commissionNLow, s => keeps_execCommissionNLow s
  | .commissionNHigh, s => keeps_execCommissionNHigh s
  | .clockDeviation clock, s => keeps_execClockDeviation clock s
  | .dieBridgeTransferFail kind, s => keeps_execDieBridgeTransferFail kind s
  | .dieBridgeLoss, s => keeps_execDieBridgeLoss s
  | .dieBridgeRestored, s => keeps_execDieBridgeRestored s
  | .railSwitchingCycle r vs num, s => keeps_execRailSwitchingCycle r vs num s
  | .railComparatorTrip r, s => keeps_execRailComparatorTrip r s
  | .railShortFault r, s => keeps_execRailShortFault r s
  | .railOvervoltageFault r, s => keeps_execRailOvervoltageFault r s
  | .railSenseFault r, s => keeps_execRailSenseFault r s
  | .railOvercurrentTimeout r, s => keeps_execRailOvercurrentTimeout r s
  | .railUndervoltageTimeout r, s => keeps_execRailUndervoltageTimeout r s
  | .railSoftStartTimeout r, s => keeps_execRailSoftStartTimeout r s
  | .railPgood r, s => keeps_execRailPgood r s
  | .railSoftStopEnd r, s => keeps_execRailSoftStopEnd r s
  | .railSeqDelayExpiry r, s => keeps_execRailSeqDelayExpiry r s
  | .railRestartTimeout r, s => keeps_execRailRestartTimeout r s
  | .railRestartCountClear r, s => keeps_execRailRestartCountClear r s
  | .sensorSample sensor sample, s => keeps_execSensorSample sensor sample s
  | .tileTempStale t, s => keeps_execTileTempStale t s
  | .throttleStep light, s => keeps_execThrottleStep light s
  | .throttleHoldExpiry light, s => keeps_execThrottleHoldExpiry light s
  | .calMaxTimer, s => keeps_execCalMaxTimer s
  | .calStep value, s => keeps_execCalStep value s
  | .reeveEvent, s => keeps_execReeveEvent s
  | .reeveRecovery g injected, s => keeps_execReeveRecovery g injected s
  | .reeveHeartbeatLoss, s => keeps_execReeveHeartbeatLoss s
  | .injKeyExpiry, s => keeps_execInjKeyExpiry s
  | .wakePinEvent high, s => keeps_execWakePinEvent high s
  | .wakeSafeInEvent, s => keeps_execWakeSafeInEvent s
  | .wakePcieSquelch, s => keeps_execWakePcieSquelch s
  | .i2cTransaction x, s => keeps_execI2cTransaction x s
  | .i2cLowPowerTransaction x, s => keeps_execI2cLowPowerTransaction x s
  | .i2cDoorbell, s => keeps_execI2cDoorbell s
  | .nightwatchVisit ambient die remote, s => keeps_execNightwatchVisit ambient die remote s
  | .pgCoreRise, s => keeps_execPgCoreRise s
  | .pllLock pll, s => keeps_execPllLock pll s
  | .wakeImageRestore good, s => keeps_execWakeImageRestore good s
  | .wakeStepTimeout step, s => keeps_execWakeStepTimeout step s
  | .wakeRetry, s => keeps_execWakeRetry s
  | .wakeL0Placement, s => keeps_execWakeL0Placement s
  | .xtal32Switch, s => keeps_execXtal32Switch s
  | .xtal32Loss, s => keeps_execXtal32Loss s
  | .bootImageLoaded img, s => keeps_execBootImageLoaded img s
  | .flashLoadRecordDone data, s => keeps_execFlashLoadRecordDone data s
  | .startupCommand, s => keeps_execStartupCommand s
  | .commissioningRecordWriteDone ok, s => keeps_execCommissioningRecordWriteDone ok s
  | .auxFrameShift c, s => keeps_execAuxFrameShift c s
  | .auxShiftEnd c dataCrc ownCrc, s => keeps_execAuxShiftEnd c dataCrc ownCrc s
  | .yokeQuietTime, s => keeps_execYokeQuietTime s
  | .yokeClaimSample high, s => keeps_execYokeClaimSample high s
  | .yokeHolderCheck high, s => keeps_execYokeHolderCheck high s
  | .yokeLatchMsg m, s => keeps_execYokeLatchMsg m s
  | .yokeRailMsg m, s => keeps_execYokeRailMsg m s
  | .yokeSigMsg m, s => keeps_execYokeSigMsg m s
  | .yokeSharedMsg m, s => keeps_execYokeSharedMsg m s
  | .yokeHelloMsg m, s => keeps_execYokeHelloMsg m s
  | .yokeTripMsg, s => keeps_execYokeTripMsg s
  | .yokeTripRelease, s => keeps_execYokeTripRelease s
  | .yokeHandoverMsg seq, s => keeps_execYokeHandoverMsg seq s
  | .yokeExcludeMsg reason, s => keeps_execYokeExcludeMsg reason s
  | .yokeCopyBlock block data, s => keeps_execYokeCopyBlock block data s
  | .yokeSnapshot m, s => keeps_execYokeSnapshot m s
  | .partnerLoss, s => keeps_execPartnerLoss s
  | .leaderLatchTimeout, s => keeps_execLeaderLatchTimeout s
  | .yokeAlignTimeout, s => keeps_execYokeAlignTimeout s
  | .yokeReturnTimer, s => keeps_execYokeReturnTimer s
  | .yokeSecondaryClaimTimeout, s => keeps_execYokeSecondaryClaimTimeout s
  | .safeInHigh second, s => keeps_execSafeInHigh second s
  | .sysRstNRelease, s => keeps_execSysRstNRelease s
  | .loopbackPatternEnd n errors, s => keeps_execLoopbackPatternEnd n errors s
  | .ethLoopFrameReturned fcsOk data, s => keeps_execEthLoopFrameReturned fcsOk data s
  | .ethLoopFrameTimeout, s => keeps_execEthLoopFrameTimeout s
  | .jtagInstructionUpdate num, s => keeps_execJtagInstructionUpdate num s
  | .reeveHeartbeatRestored, s => keeps_execReeveHeartbeatRestored s
  | .frcWrap, s => keeps_execFrcWrap s
  | .analogueDomainReady, s => keeps_execAnalogueDomainReady s
  | .pgSramRise, s => keeps_execPgSramRise s
  | .fwStageFlashDone fwSigOk cfgSigOk flashOk, s => keeps_execFwStageFlashDone fwSigOk cfgSigOk flashOk s
  | .yokePeriodicMessage kind, s => keeps_execYokePeriodicMessage kind s
  | .coverBitExpiry, s => keeps_execCoverBitExpiry s
  | .yokeCopyPassEnd, s => keeps_execYokeCopyPassEnd s
  | .yokeHandoverRelease, s => keeps_execYokeHandoverRelease s

/-- The parts that no command of the table changes: the queue of waiting commands and the clock. -/
theorem pending_now_notMem_touches (c : Instr) : Zone.pending ∉ touches c ∧ Zone.now ∉ touches c := by
  have h : (touches c).contains .pending = false ∧ (touches c).contains .now = false := by
    cases c <;> exact ⟨rfl, rfl⟩
  simpa using h

/-- Settles O5: each command's own frame lemma, of which none lists the queue or the clock. -/
theorem frameOfEveryCommand : Obligations.FrameOfEveryCommand := by
  intro c s
  obtain ⟨t, hexec, hkeeps⟩ := keeps_exec c s
  obtain ⟨hpending, hnow⟩ := pending_now_notMem_touches c
  exact ⟨t, hexec, hkeeps, hkeeps .pending hpending, hkeeps .now hnow⟩

end Sys2Proof.Proofs
end

section
/-!
SUPPORT. What every step keeps: a property of states is carried through an operation step by step, and the canonical
form of the Granary's bytes through each operation that stores bytes.
-/

namespace Sys2Proof.Proofs

set_option Elab.async false

open Sys2Proof Sys2Proof.Machine Sys2Proof.Safety Sys2Proof.Laws

/-- The parts of the state that a command of the opcode index changes. -/
def bodyZones : List Zone :=
  [.free, .out, .hif, .dma, .grn, .cmp, .pho, .hdg, .lpl, .link, .pxh, .rail, .pwr, .thm, .rve, .yok, .bel, .eth,
    .mgt, .boot, .tst, .running, .nextSer, .maskQ, .jobs, .kernels, .marchCmd, .saved]

theorem bodyKeeps_bodyOf {op : Nat} {b : Body} (h : bodyOf op = some b) : BodyKeeps bodyZones b := by
  unfold bodyOf at h
  split at h <;> cases h
  · exact bodyKeeps_mono keeps_nopBody rfl
  · exact bodyKeeps_mono keeps_layerSetBody rfl
  · exact bodyKeeps_mono keeps_presentBody rfl
  · exact bodyKeeps_mono keeps_maskBody rfl
  · exact bodyKeeps_mono keeps_symbolBody rfl
  · exact bodyKeeps_mono keeps_coefBody rfl
  · exact bodyKeeps_mono keeps_timingBody rfl
  · exact bodyKeeps_mono keeps_tileMapBody rfl
  · exact bodyKeeps_mono keeps_calLoadBody rfl
  · exact bodyKeeps_mono keeps_fadeBody rfl
  · exact bodyKeeps_mono keeps_budgetBody rfl
  · exact bodyKeeps_mono keeps_telemetryBody rfl
  · exact bodyKeeps_mono keeps_healthBody rfl
  · exact bodyKeeps_mono keeps_railBody rfl
  · exact bodyKeeps_mono keeps_powerBody rfl
  · exact bodyKeeps_mono keeps_thermalBody rfl
  · exact bodyKeeps_mono keeps_calRunBody rfl
  · exact bodyKeeps_mono keeps_scheduleBody rfl
  · exact bodyKeeps_mono keeps_timeSetBody rfl
  · exact bodyKeeps_mono keeps_pulseBody rfl
  · exact bodyKeeps_mono keeps_safetyBody rfl
  · exact bodyKeeps_mono keeps_safeTestBody rfl
  · exact bodyKeeps_mono keeps_fwStageBody rfl
  · exact bodyKeeps_mono keeps_fwActivateBody rfl
  · exact bodyKeeps_mono keeps_auxWriteBody rfl
  · exact bodyKeeps_mono keeps_faultAckBody rfl
  · exact bodyKeeps_mono keeps_faultReadBody rfl
  · exact bodyKeeps_mono keeps_injectBody rfl
  · exact bodyKeeps_mono keeps_testRunBody rfl
  · exact bodyKeeps_mono keeps_marchBody rfl
  · exact bodyKeeps_mono keeps_yokeSwitchBody rfl

theorem keeps_startDesc_bodies (src : Src) (arr : Nat) (d : Desc) (s : State) :
    Keeps bodyZones s (startDesc src arr d s) := by
  unfold startDesc
  refine keeps_startCmd (m := bodyZones) rfl rfl ?_ (keeps_refl _ _)
  cases h : bodyOf (Desc.f d 0 0 8) with
  | none => exact bodyKeeps_mono keeps_nopBody rfl
  | some b => exact bodyKeeps_bodyOf h

/-- A property of states that holds after an operation if it held before. -/
def Carries (P : State → Prop) (s t : State) : Prop := P s → P t

/-- The same of an operation that may fail. -/
def OCarries (P : State → Prop) (s : State) (o : Option State) : Prop := ∀ t, o = some t → Carries P s t

section
variable {P : State → Prop} {s t u : State}

theorem carries_refl (P : State → Prop) (s : State) : Carries P s s := id

theorem carries_step (k : Carries P t u) (h : Carries P s t) : Carries P s u := fun hs => k (h hs)

theorem carries_ite {c : Prop} [Decidable c] (h : Carries P s t) (k : Carries P s u) :
    Carries P s (if c then t else u) := by
  split
  · exact h
  · exact k

theorem carries_foldl {α : Type} {f : State → α → State} {x : List α} (h : Carries P s t)
    (k : ∀ u a, Carries P s u → Carries P s (f u a)) : Carries P s (x.foldl f t) := by
  induction x generalizing t with
  | nil => exact h
  | cons a x ih => exact ih (k t a h)

theorem carries_foldl2 {α β : Type} {t : β × State} {f : β × State → α → β × State} {x : List α}
    (h : Carries P s t.2) (k : ∀ u a, Carries P s u.2 → Carries P s (f u a).2) :
    Carries P s (x.foldl f t).2 := by
  induction x generalizing t with
  | nil => exact h
  | cons a x ih => exact ih (k t a h)

theorem carries_foldl3 {α β γ : Type} {t : β × γ × State} {f : β × γ × State → α → β × γ × State} {x : List α}
    (h : Carries P s t.2.2) (k : ∀ u a, Carries P s u.2.2 → Carries P s (f u a).2.2) :
    Carries P s (x.foldl f t).2.2 := by
  induction x generalizing t with
  | nil => exact h
  | cons a x ih => exact ih (k t a h)

theorem carries_whenS {g : Bool} {f : State → State} (h : Carries P s t)
    (k : Carries P s t → Carries P s (f t)) : Carries P s (whenS g f t) :=
  carries_ite (k h) h

theorem ocarries_none : OCarries P s none := fun _ h => nomatch h

theorem ocarries_some (h : Carries P s t) : OCarries P s (some t) := by
  intro u e
  cases e
  exact h

theorem carries_some {o : Option State} (h : OCarries P u o) (e : o = some t) (k : Carries P s u) :
    Carries P s t :=
  carries_step (h t e) k

end

/-- The Granary's bytes are in canonical form. -/
def Canonical (s : State) : Prop := Memory.wf s.grn.mem = true

theorem canonical_of_keeps {l : List Zone} {s t : State} (k : Keeps l s t) (hl : l.contains .mem = false) :
    Carries Canonical s t := by
  have hmem : t.grn.mem = s.grn.mem := k .mem (by simpa using hl)
  exact fun h => by rwa [Canonical, hmem]

theorem ocanonical_of_okeeps {l : List Zone} {s : State} {o : Option State} (k : OKeeps l s o)
    (hl : l.contains .mem = false) : OCarries Canonical s o :=
  fun t e => canonical_of_keeps (k t e) hl

/-- A record update of a state that leaves the bytes or takes others in canonical form. -/
theorem canonical_mk {s t : State}
    {v1 : Nat} {v2 : Nat} {v3 : List Emit} {v4 : PartId} {v5 : Hif} {v6 : Dma} {v7 : Granary} {v8 : Compose}
    {v9 : Photo} {v10 : Hedge} {v11 : Lamp} {v12 : Link} {v13 : Health} {v14 : Rails} {v15 : Power}
    {v16 : Thermal} {v17 : Reeve} {v18 : Yoke} {v19 : Bell} {v20 : Eths} {v21 : Mgt} {v22 : Boot}
    {v23 : Tab Aux 4} {v24 : Tab Crcu 4} {v25 : Gpio} {v26 : Test} {v27 : List Cmd} {v28 : Nat}
    {v29 : List MaskEntry} {v30 : List DmaJob} {v31 : List Cmd} {v32 : Option Cmd} {v33 : Option Saved}
    (hmem : Memory.wf t.grn.mem = true → Memory.wf v7.mem = true) (h : Carries Canonical s t) :
    Carries Canonical s (State.mk t.pending v1 v2 v3 v4 v5 v6 v7 v8 v9 v10 v11 v12 v13 v14 v15 v16 v17 v18 v19
      v20 v21 v22 v23 v24 v25 v26 v27 v28 v29 v30 v31 v32 v33) :=
  fun hs => hmem (h hs)

/-! The operations that store bytes, in the order of the model's files. -/

theorem canonical_storeBytes : ∀ x0 x1 s, Carries Canonical s (@storeBytes x0 x1 s) := by
  intro x0 x1 s
  unfold storeBytes
  refine carries_ite ?_ ?_
  · exact carries_refl _ _
  · dsimp only
    refine carries_step (canonical_of_keeps (keeps_markDirty _ _ _) rfl) ?_
    exact canonical_mk (wf_writeBytes _ _) (carries_refl _ _)

theorem canonical_grnStore : ∀ x0 x1 x2 x3 x4 s, Carries Canonical s (@grnStore x0 x1 x2 x3 x4 s).2 := by
  intro x0 x1 x2 x3 x4 s
  unfold grnStore
  dsimp only
  split
  · split
    · dsimp only
      refine carries_step (canonical_storeBytes _ _ _) ?_
      exact carries_step (canonical_of_keeps (keeps_readFirst _ _ _ _) rfl) (carries_refl _ _)
    · dsimp only
      exact carries_step (canonical_of_keeps (keeps_readFirst _ _ _ _) rfl) (carries_refl _ _)
  · split
    · dsimp only
      refine carries_step (canonical_storeBytes _ _ _) ?_
      exact carries_step (canonical_of_keeps (keeps_readFirst _ _ _ _) rfl) (carries_refl _ _)
    · dsimp only
      exact carries_step (canonical_of_keeps (keeps_readFirst _ _ _ _) rfl) (carries_refl _ _)

theorem canonical_grnWrite : ∀ x0 x1 x2 x3 s, Carries Canonical s (@grnWrite x0 x1 x2 x3 s).2 := by
  intro x0 x1 x2 x3 s
  unfold grnWrite
  dsimp only
  refine carries_step (canonical_storeBytes _ _ _) ?_
  exact carries_step (canonical_of_keeps (keeps_readFirst _ _ _ _) rfl) (carries_refl _ _)

theorem canonical_scramble : ∀ x0 x1 s, Carries Canonical s (@scramble x0 x1 s) := by
  intro x0 x1 s
  unfold scramble
  dsimp only
  refine carries_ite ?_ ?_
  · refine carries_step (canonical_of_keeps (keeps_markDirty _ _ _) rfl) ?_
    exact canonical_mk (wf_writeBytes _ _) (carries_refl _ _)
  · exact canonical_mk (wf_writeBytes _ _) (carries_refl _ _)

theorem canonical_coreWrite : ∀ x0 x1 s, Carries Canonical s (@coreWrite x0 x1 s).2 := by
  intro x0 x1 s
  unfold coreWrite
  split
  · exact carries_step (canonical_grnWrite _ _ _ _ _) (carries_refl _ _)
  · dsimp only
    split
    · dsimp only
      refine carries_step (canonical_of_keeps (keeps_violation _ _ _ _ _) rfl) ?_
      exact carries_step (canonical_grnWrite _ _ _ _ _) (carries_refl _ _)
    · exact carries_step (canonical_grnWrite _ _ _ _ _) (carries_refl _ _)

theorem canonical_serveHost : ∀ s x1, Carries Canonical s (@serveHost s x1) := by
  intro s x1
  unfold serveHost
  split
  · refine carries_ite ?_ ?_
    · dsimp only
      refine carries_step (canonical_of_keeps (keeps_emit _ _) rfl) ?_
      exact carries_step (canonical_of_keeps (keeps_readWords _ _ _ _ _) rfl) (carries_refl _ _)
    · refine carries_step (canonical_of_keeps (keeps_emit _ _) rfl) ?_
      exact carries_step (canonical_of_keeps (keeps_violation _ _ _ _ _) rfl) (carries_refl _ _)
  · refine carries_ite ?_ ?_
    · exact carries_step (canonical_grnWrite _ _ _ _ _) (carries_refl _ _)
    · exact carries_step (canonical_of_keeps (keeps_violation _ _ _ _ _) rfl) (carries_refl _ _)

theorem canonical_hostAccess : ∀ x0 s, Carries Canonical s (@hostAccess x0 s) := by
  intro x0 s
  unfold hostAccess
  refine carries_ite ?_ ?_
  · exact carries_step (canonical_serveHost _ _) (carries_refl _ _)
  · exact canonical_mk id (carries_refl _ _)

theorem canonical_serveWaiting : ∀ s, Carries Canonical s (@serveWaiting s) := by
  intro s
  unfold serveWaiting
  refine carries_foldl ?_ fun _ _ _ => ?_
  · exact canonical_mk id (carries_refl _ _)
  · exact carries_step (canonical_serveHost _ _) ‹_›

theorem canonical_dmaAbort : ∀ x0 s, Carries Canonical s (@dmaAbort x0 s) := by
  intro x0 s
  unfold dmaAbort
  dsimp only
  refine carries_ite ?_ ?_
  · exact carries_step (canonical_of_keeps (keeps_abortHalted _ _) rfl) (carries_refl _ _)
  · refine carries_ite ?_ ?_
    · exact carries_refl _ _
    · refine carries_step (canonical_of_keeps (keeps_modCh _ _ _) rfl) ?_
      refine carries_step (canonical_of_keeps (keeps_endBurst _ _) rfl) ?_
      refine canonical_mk id ?_
      split
      · refine carries_ite ?_ ?_
        · exact carries_refl _ _
        · refine carries_foldl ?_ fun _ _ _ => ?_
          · exact carries_refl _ _
          · exact carries_step (canonical_scramble _ _ _) ‹_›
      · exact carries_refl _ _

theorem canonical_copyRecord : ∀ x0 x1 x2 s, Carries Canonical s (@copyRecord x0 x1 x2 s) := by
  intro x0 x1 x2 s
  unfold copyRecord
  dsimp only
  refine carries_ite ?_ ?_
  · refine carries_step (canonical_of_keeps (keeps_readWord _ _ _ _) rfl) ?_
    exact carries_step (canonical_of_keeps (keeps_readWord _ _ _ _) rfl) (carries_refl _ _)
  · refine carries_step (canonical_storeBytes _ _ _) ?_
    refine carries_ite ?_ ?_
    · refine carries_step (canonical_of_keeps (keeps_freshBits _ _) rfl) ?_
      refine carries_step (canonical_of_keeps (keeps_readWord _ _ _ _) rfl) ?_
      exact carries_step (canonical_of_keeps (keeps_readWord _ _ _ _) rfl) (carries_refl _ _)
    · refine carries_step (canonical_of_keeps (keeps_readWord _ _ _ _) rfl) ?_
      exact carries_step (canonical_of_keeps (keeps_readWord _ _ _ _) rfl) (carries_refl _ _)

theorem canonical_copyPlane : ∀ x0 s, Carries Canonical s (@copyPlane x0 s) := by
  intro x0 s
  unfold copyPlane
  refine carries_foldl ?_ fun _ _ _ => ?_
  · exact carries_refl _ _
  · exact carries_step (canonical_copyRecord _ _ _ _) ‹_›

theorem canonical_execPlaneCopyComplete : ∀ s,
    ∃ t, @execPlaneCopyComplete s = .next t ∧ Carries Canonical s t := by
  intro s
  unfold execPlaneCopyComplete
  refine ⟨_, rfl, ?_⟩
  refine carries_whenS ?_ fun _ => ?_
  · exact carries_refl _ _
  · split
    · dsimp only
      exact canonical_mk id (carries_step (canonical_copyPlane _ _) (carries_refl _ _))
    · exact carries_refl _ _

theorem canonical_writeField : ∀ x0 x1 s, Carries Canonical s (@writeField x0 x1 s).2 := by
  intro x0 x1 s
  unfold writeField
  dsimp only
  split
  · dsimp only
    exact carries_step (canonical_of_keeps (keeps_readWord _ _ _ _) rfl) (carries_refl _ _)
  · dsimp only
    refine carries_step (canonical_storeBytes _ _ _) ?_
    exact carries_step (canonical_of_keeps (keeps_readWord _ _ _ _) rfl) (carries_refl _ _)

theorem canonical_writeField_some : ∀ x0 x1 s, OCarries Canonical s (@writeField x0 x1 s).1 := by
  intro x0 x1 s
  unfold writeField
  dsimp only
  split
  · dsimp only
    exact ocarries_none
  · dsimp only
    refine ocarries_some ?_
    refine carries_step (canonical_storeBytes _ _ _) ?_
    exact carries_step (canonical_of_keeps (keeps_readWord _ _ _ _) rfl) (carries_refl _ _)

theorem canonical_landWrite : ∀ x0 s, Carries Canonical s (@landWrite x0 s) := by
  intro x0 s
  unfold landWrite
  dsimp only
  split
  · refine carries_step (canonical_of_keeps (keeps_requeue _ _) rfl) ?_
    exact carries_step (canonical_writeField _ _ _) (carries_refl _ _)
  · refine carries_step (canonical_of_keeps (keeps_feedHeld _ _) rfl) ?_
    refine carries_step (canonical_of_keeps (keeps_checkDead _ _) rfl) ?_
    refine carries_step (canonical_of_keeps (keeps_retire _ _) rfl) ?_
    split
    · refine carries_ite ?_ ?_
      · refine carries_step (canonical_of_keeps (keeps_sendYoke _ _ _) rfl) ?_
        refine carries_foldl ?_ fun _ _ _ => ?_
        · exact carries_some (canonical_writeField_some _ _ _) ‹_› (carries_refl _ _)
        · exact carries_step (canonical_writeField _ _ _) ‹_›
      · refine carries_foldl ?_ fun _ _ _ => ?_
        · exact carries_some (canonical_writeField_some _ _ _) ‹_› (carries_refl _ _)
        · exact carries_step (canonical_writeField _ _ _) ‹_›
    · refine carries_foldl ?_ fun _ _ _ => ?_
      · exact carries_some (canonical_writeField_some _ _ _) ‹_› (carries_refl _ _)
      · exact carries_step (canonical_writeField _ _ _) ‹_›

theorem canonical_execHealthWriteback : ∀ x0 s,
    ∃ t, @execHealthWriteback x0 s = .next t ∧ Carries Canonical s t := by
  intro x0 s
  unfold execHealthWriteback
  refine ⟨_, rfl, ?_⟩
  refine carries_whenS ?_ fun _ => ?_
  · exact carries_refl _ _
  · split
    · exact carries_refl _ _
    · dsimp only
      refine carries_ite ?_ ?_
      · exact carries_step (canonical_of_keeps (keeps_requeue _ _) rfl) (canonical_mk id (carries_refl _ _))
      · exact carries_step (canonical_landWrite _ _) (canonical_mk id (carries_refl _ _))

theorem canonical_resetRecord : ∀ s x1, Carries Canonical s (@resetRecord s x1) := by
  intro s x1
  unfold resetRecord
  dsimp only
  refine carries_ite ?_ ?_
  · refine canonical_mk id ?_
    refine carries_foldl2 ?_ fun _ _ _ => ?_
    · dsimp only
      exact canonical_mk id (carries_refl _ _)
    · dsimp only
      exact carries_step (canonical_writeField _ _ _) ‹_›
  · refine carries_foldl2 ?_ fun _ _ _ => ?_
    · dsimp only
      exact canonical_mk id (carries_refl _ _)
    · dsimp only
      exact carries_step (canonical_writeField _ _ _) ‹_›

theorem canonical_execTileSerialResetDone : ∀ x0 s,
    ∃ t, @execTileSerialResetDone x0 s = .next t ∧ Carries Canonical s t := by
  intro x0 s
  unfold execTileSerialResetDone
  refine ⟨_, rfl, ?_⟩
  refine carries_whenS ?_ fun _ => ?_
  · exact carries_refl _ _
  · dsimp only
    refine carries_step (canonical_of_keeps (keeps_checkDead _ _) rfl) ?_
    refine carries_step (canonical_of_keeps (keeps_healthEvent _ _ _ _) rfl) ?_
    refine canonical_mk id ?_
    refine carries_foldl ?_ fun _ _ _ => ?_
    · exact carries_refl _ _
    · exact carries_step (canonical_resetRecord _ _) ‹_›

theorem canonical_followAgeing : ∀ x0 x1 s, Carries Canonical s (@followAgeing x0 x1 s) := by
  intro x0 x1 s
  unfold followAgeing
  dsimp only
  refine carries_foldl ?_ fun _ _ _ => ?_
  · exact carries_refl _ _
  · exact carries_step (canonical_writeField _ _ _) ‹_›

theorem canonical_execYokeSharedMsg : ∀ x0 s,
    ∃ t, @execYokeSharedMsg x0 s = .next t ∧ Carries Canonical s t := by
  intro x0 s
  unfold execYokeSharedMsg
  refine ⟨_, rfl, ?_⟩
  refine carries_whenS ?_ fun _ => ?_
  · exact carries_refl _ _
  · refine carries_ite ?_ ?_
    · refine carries_foldl ?_ fun _ _ _ => ?_
      · dsimp only
        exact canonical_mk id (carries_step (canonical_of_keeps (keeps_heard _) rfl) (carries_refl _ _))
      · exact carries_step (canonical_followAgeing _ _ _) ‹_›
    · exact carries_step (canonical_of_keeps (keeps_heard _) rfl) (carries_refl _ _)

theorem canonical_execYokeCopyBlock : ∀ x0 x1 s,
    ∃ t, @execYokeCopyBlock x0 x1 s = .next t ∧ Carries Canonical s t := by
  intro x0 x1 s
  unfold execYokeCopyBlock
  refine ⟨_, rfl, ?_⟩
  refine carries_whenS ?_ fun _ => ?_
  · exact carries_refl _ _
  · refine carries_ite ?_ ?_
    · refine carries_step (canonical_storeBytes _ _ _) ?_
      exact carries_step (canonical_of_keeps (keeps_heard _) rfl) (carries_refl _ _)
    · exact carries_step (canonical_of_keeps (keeps_heard _) rfl) (carries_refl _ _)

theorem canonical_bulkWrite : ∀ x0 x1 x2 s, Carries Canonical s (@bulkWrite x0 x1 x2 s).2 := by
  intro x0 x1 x2 s
  unfold bulkWrite
  dsimp only
  split
  · dsimp only
    exact carries_refl _ _
  · split
    · dsimp only
      exact carries_refl _ _
    · split
      · dsimp only
        exact carries_refl _ _
      · split
        · dsimp only
          exact carries_refl _ _
        · split
          · dsimp only
            exact carries_step (canonical_of_keeps (keeps_violation _ _ _ _ _) rfl) (carries_refl _ _)
          · dsimp only
            exact carries_step (canonical_coreWrite _ _ _) (carries_refl _ _)

theorem canonical_drainBulk : ∀ x0 x1 s, Carries Canonical s (@drainBulk x0 x1 s) := by
  intro x0 x1 s
  induction x1 generalizing x0 s with
  | zero =>
    exact carries_refl _ _
  | succ _ ih =>
    rw [drainBulk]
    split
    · refine carries_ite ?_ ?_
      · dsimp only
        refine carries_step (ih _ _) ?_
        refine carries_step (canonical_of_keeps (keeps_enqueue _ _ _ _ _) rfl) ?_
        refine carries_step (canonical_bulkWrite _ _ _ _) ?_
        exact carries_step (canonical_of_keeps (keeps_modEth _ _ _) rfl) (carries_refl _ _)
      · exact carries_refl _ _
    · exact carries_refl _ _

theorem canonical_drainQueue : ∀ x0 s, Carries Canonical s (@drainQueue x0 s) := by
  intro x0 s
  unfold drainQueue
  exact carries_step (canonical_drainBulk _ _ _) (carries_refl _ _)

theorem canonical_takeBulk : ∀ x0 x1 s, Carries Canonical s (@takeBulk x0 x1 s) := by
  intro x0 x1 s
  unfold takeBulk
  dsimp only
  refine carries_ite ?_ ?_
  · exact carries_step (canonical_of_keeps (keeps_dropDatagram _ _) rfl) (carries_refl _ _)
  · refine carries_step (canonical_drainQueue _ _) ?_
    exact carries_step (canonical_of_keeps (keeps_modEth _ _ _) rfl) (carries_refl _ _)

theorem canonical_receive {s t : State} {p : Fin 2} {f : RxFrame} {g : Bool} {r : Eth → RxFrame → Bool}
    {h : State → State} (k : Carries Canonical s t) (e : Carries Canonical s (h t)) :
    Carries Canonical s (receive p f g r h t) := by
  unfold receive
  split
  · exact k
  · split
    · exact carries_step (canonical_of_keeps (keeps_fcsBad _ _) rfl) k
    · split
      · exact e
      · exact carries_step (canonical_of_keeps (keeps_modEth _ _ _) rfl) k

theorem canonical_execBulkDatagramReceived : ∀ x0 x1 s,
    ∃ t, @execBulkDatagramReceived x0 x1 s = .next t ∧ Carries Canonical s t := by
  intro x0 x1 s
  unfold execBulkDatagramReceived
  refine ⟨_, rfl, ?_⟩
  refine canonical_receive ?_ ?_
  · exact carries_refl _ _
  · exact carries_step (canonical_takeBulk _ _ _) (carries_refl _ _)

theorem canonical_execBar2Read : ∀ x0 x1 x2 s,
    ∃ t, @execBar2Read x0 x1 x2 s = .next t ∧ Carries Canonical s t := by
  intro x0 x1 x2 s
  unfold execBar2Read
  refine ⟨_, rfl, ?_⟩
  refine carries_whenS ?_ fun _ => ?_
  · exact carries_refl _ _
  · exact carries_step (canonical_hostAccess _ _) (carries_refl _ _)

theorem canonical_execBar2Write : ∀ x0 x1 x2 s,
    ∃ t, @execBar2Write x0 x1 x2 s = .next t ∧ Carries Canonical s t := by
  intro x0 x1 x2 s
  unfold execBar2Write
  refine ⟨_, rfl, ?_⟩
  refine carries_whenS ?_ fun _ => ?_
  · exact carries_refl _ _
  · exact carries_step (canonical_hostAccess _ _) (carries_refl _ _)

theorem canonical_mergeWrite : ∀ x0 x1 s, Carries Canonical s (@mergeWrite x0 x1 s) := by
  intro x0 x1 s
  unfold mergeWrite
  refine carries_foldl ?_ fun _ _ _ => ?_
  · exact carries_refl _ _
  · dsimp only
    refine carries_step (canonical_storeBytes _ _ _) ?_
    exact carries_step (canonical_of_keeps (keeps_readWord _ _ _ _) rfl) ‹_›

theorem canonical_dmaStore : ∀ x0 x1 x2 x3 s, Carries Canonical s (@dmaStore x0 x1 x2 x3 s).2 := by
  intro x0 x1 x2 x3 s
  unfold dmaStore
  split
  · dsimp only
    refine carries_step (canonical_of_keeps (keeps_dmaFail _ _ _ _ _) rfl) ?_
    exact carries_step (canonical_of_keeps (keeps_violation _ _ _ _ _) rfl) (carries_refl _ _)
  · dsimp only
    split
    · split
      · dsimp only
        exact carries_step (canonical_mergeWrite _ _ _) (carries_refl _ _)
      · split
        · dsimp only
          refine carries_step (canonical_of_keeps (keeps_dmaFail _ _ _ _ _) rfl) ?_
          exact carries_step (canonical_grnStore _ _ _ _ _ _) (carries_refl _ _)
        · split
          · dsimp only
            exact carries_step (canonical_grnStore _ _ _ _ _ _) (carries_refl _ _)
          · split
            · dsimp only
              refine carries_step (canonical_grnStore _ _ _ _ _ _) ?_
              exact carries_step (canonical_grnStore _ _ _ _ _ _) (carries_refl _ _)
            · dsimp only
              refine carries_step (canonical_of_keeps (keeps_dmaFail _ _ _ _ _) rfl) ?_
              refine carries_step (canonical_grnStore _ _ _ _ _ _) ?_
              exact carries_step (canonical_grnStore _ _ _ _ _ _) (carries_refl _ _)
    · split
      · dsimp only
        exact carries_step (canonical_mergeWrite _ _ _) (carries_refl _ _)
      · split
        · dsimp only
          refine carries_step (canonical_of_keeps (keeps_dmaFail _ _ _ _ _) rfl) ?_
          exact carries_step (canonical_grnStore _ _ _ _ _ _) (carries_refl _ _)
        · split
          · dsimp only
            exact carries_step (canonical_grnStore _ _ _ _ _ _) (carries_refl _ _)
          · split
            · dsimp only
              refine carries_step (canonical_grnStore _ _ _ _ _ _) ?_
              exact carries_step (canonical_grnStore _ _ _ _ _ _) (carries_refl _ _)
            · dsimp only
              refine carries_step (canonical_of_keeps (keeps_dmaFail _ _ _ _ _) rfl) ?_
              refine carries_step (canonical_grnStore _ _ _ _ _ _) ?_
              exact carries_step (canonical_grnStore _ _ _ _ _ _) (carries_refl _ _)

theorem canonical_dmaPut : ∀ x0 x1 x2 x3 s, Carries Canonical s (@dmaPut x0 x1 x2 x3 s).2 := by
  intro x0 x1 x2 x3 s
  unfold dmaPut
  split
  · dsimp only
    exact carries_step (canonical_of_keeps (keeps_modView _ _ _) rfl) (carries_refl _ _)
  · dsimp only
    split
    · split
      · dsimp only
        refine carries_ite ?_ ?_
        · exact carries_step (canonical_of_keeps (keeps_setJob _ _ _) rfl) (carries_refl _ _)
        · exact carries_refl _ _
      · split
        · refine carries_step (canonical_of_keeps (keeps_dmaSend _ _ _ _) rfl) ?_
          refine carries_ite ?_ ?_
          · exact carries_step (canonical_of_keeps (keeps_setJob _ _ _) rfl) (carries_refl _ _)
          · exact carries_refl _ _
        · split
          · split
            · dsimp only
              refine carries_step (canonical_of_keeps (keeps_countLoaded _ _) rfl) ?_
              refine carries_step (canonical_dmaStore _ _ _ _ _) ?_
              exact carries_step (canonical_of_keeps (keeps_setJob _ _ _) rfl) (carries_refl _ _)
            · dsimp only
              exact carries_step (canonical_of_keeps (keeps_setJob _ _ _) rfl) (carries_refl _ _)
          · split
            · dsimp only
              refine carries_step (canonical_of_keeps (keeps_countLoaded _ _) rfl) ?_
              exact carries_step (canonical_dmaStore _ _ _ _ _) (carries_refl _ _)
            · dsimp only
              exact carries_refl _ _
    · split
      · dsimp only
        exact carries_step (canonical_of_keeps (keeps_setJob _ _ _) rfl) (carries_refl _ _)
      · split
        · exact carries_step (canonical_of_keeps (keeps_dmaSend _ _ _ _) rfl) (carries_refl _ _)
        · split
          · dsimp only
            refine carries_step (canonical_of_keeps (keeps_countLoaded _ _) rfl) ?_
            exact carries_step (canonical_dmaStore _ _ _ _ _) (carries_refl _ _)
          · dsimp only
            exact carries_refl _ _

theorem canonical_beatWrite : ∀ x0 x1 s, Carries Canonical s (@beatWrite x0 x1 s) := by
  intro x0 x1 s
  unfold beatWrite
  dsimp only
  split
  · exact carries_refl _ _
  · refine carries_ite ?_ ?_
    · exact carries_refl _ _
    · refine carries_ite ?_ ?_
      · refine carries_step (canonical_of_keeps (keeps_wroteBurst _ _) rfl) ?_
        refine carries_step (canonical_of_keeps (keeps_modCh _ _ _) rfl) ?_
        exact carries_step (canonical_dmaPut _ _ _ _ _) (carries_refl _ _)
      · exact carries_step (canonical_dmaPut _ _ _ _ _) (carries_refl _ _)

theorem canonical_execDmaBeatComplete : ∀ x0 x1 s,
    ∃ t, @execDmaBeatComplete x0 x1 s = .next t ∧ Carries Canonical s t := by
  intro x0 x1 s
  unfold execDmaBeatComplete
  refine ⟨_, rfl, ?_⟩
  refine carries_whenS ?_ fun _ => ?_
  · exact carries_refl _ _
  · dsimp only
    refine carries_step (canonical_of_keeps (keeps_arbitrate _) rfl) ?_
    refine carries_step (canonical_of_keeps (keeps_settleDesc _ _) rfl) ?_
    split
    · refine carries_ite ?_ ?_
      · exact carries_step (canonical_of_keeps (keeps_arbitrate _) rfl) (carries_refl _ _)
      · refine carries_step (canonical_of_keeps (keeps_beatHost _ _ _) rfl) ?_
        exact carries_step (canonical_of_keeps (keeps_arbitrate _) rfl) (carries_refl _ _)
    · refine carries_step (canonical_of_keeps (keeps_beatGranary _ _ _ _) rfl) ?_
      exact carries_step (canonical_of_keeps (keeps_arbitrate _) rfl) (carries_refl _ _)
    · refine carries_step (canonical_beatWrite _ _ _) ?_
      exact carries_step (canonical_of_keeps (keeps_arbitrate _) rfl) (carries_refl _ _)
    · refine carries_step (canonical_of_keeps (keeps_beatError _ _) rfl) ?_
      exact carries_step (canonical_of_keeps (keeps_arbitrate _) rfl) (carries_refl _ _)

theorem canonical_failedRange : ∀ x0 x1 x2 s, Carries Canonical s (@failedRange x0 x1 x2 s) := by
  intro x0 x1 x2 s
  unfold failedRange
  split
  · exact carries_step (canonical_scramble _ _ _) (carries_refl _ _)
  · exact carries_refl _ _

theorem canonical_transferFailed : ∀ x0 s, Carries Canonical s (@transferFailed x0 s) := by
  intro x0 s
  unfold transferFailed
  split
  · exact carries_step (canonical_failedRange _ _ _ _) (carries_refl _ _)
  · exact carries_step (canonical_of_keeps (keeps_modSym _ _ _) rfl) (carries_refl _ _)
  · exact carries_step (canonical_failedRange _ _ _ _) (carries_refl _ _)
  · exact canonical_mk id (carries_refl _ _)
  · exact canonical_mk id (carries_refl _ _)
  · exact carries_refl _ _

theorem canonical_jobFailed : ∀ x0 s, Carries Canonical s (@jobFailed x0 s) := by
  intro x0 s
  unfold jobFailed
  dsimp only
  refine carries_ite ?_ ?_
  · exact carries_refl _ _
  · refine carries_step (canonical_of_keeps (keeps_complete _ _ _ _ _) rfl) ?_
    exact carries_step (canonical_transferFailed _ _) (carries_refl _ _)

theorem canonical_abortHost : ∀ s x1, Carries Canonical s (@abortHost s x1) := by
  intro s x1
  unfold abortHost
  refine carries_ite ?_ ?_
  · refine carries_step (canonical_of_keeps (keeps_pacedFails _ _) rfl) ?_
    exact carries_step (canonical_dmaAbort _ _) (carries_refl _ _)
  · exact carries_refl _ _

theorem canonical_jobsLost : ∀ s, Carries Canonical s (@jobsLost s) := by
  intro s
  unfold jobsLost
  refine carries_foldl ?_ fun _ _ _ => ?_
  · exact canonical_mk id (carries_refl _ _)
  · exact carries_step (canonical_jobFailed _ _) ‹_›

theorem canonical_hostLost : ∀ s, Carries Canonical s (@hostLost s) := by
  intro s
  unfold hostLost
  refine carries_step (canonical_jobsLost _) ?_
  refine carries_step (canonical_of_keeps (keeps_ringsLost _) rfl) ?_
  refine carries_foldl ?_ fun _ _ _ => ?_
  · exact carries_refl _ _
  · exact carries_step (canonical_abortHost _ _) ‹_›

theorem canonical_execPcieFlr : ∀ s, ∃ t, @execPcieFlr s = .next t ∧ Carries Canonical s t := by
  intro s
  unfold execPcieFlr
  refine ⟨_, rfl, ?_⟩
  refine carries_whenS ?_ fun _ => ?_
  · exact carries_refl _ _
  · refine carries_step (canonical_of_keeps (keeps_functionReset _) rfl) ?_
    exact carries_step (canonical_hostLost _) (carries_refl _ _)

theorem canonical_execPcieD3hot : ∀ s, ∃ t, @execPcieD3hot s = .next t ∧ Carries Canonical s t := by
  intro s
  unfold execPcieD3hot
  refine ⟨_, rfl, ?_⟩
  refine carries_whenS ?_ fun _ => ?_
  · exact carries_refl _ _
  · refine carries_step (canonical_of_keeps (keeps_setD3hot _ _) rfl) ?_
    exact carries_step (canonical_hostLost _) (carries_refl _ _)

theorem canonical_linkLost : ∀ s, Carries Canonical s (@linkLost s) := by
  intro s
  unfold linkLost
  exact carries_step (canonical_hostLost _) (canonical_mk id (carries_refl _ _))

theorem canonical_execPcieLinkDown : ∀ s, ∃ t, @execPcieLinkDown s = .next t ∧ Carries Canonical s t := by
  intro s
  unfold execPcieLinkDown
  refine ⟨_, rfl, ?_⟩
  refine carries_whenS ?_ fun _ => ?_
  · exact carries_refl _ _
  · refine carries_step (canonical_of_keeps (keeps_raise _ _ _ _) rfl) ?_
    exact carries_step (canonical_linkLost _) (carries_refl _ _)

theorem canonical_perst : ∀ x0 s, Carries Canonical s (@perst x0 s) := by
  intro x0 s
  unfold perst
  refine carries_ite ?_ ?_
  · exact canonical_mk id (carries_refl _ _)
  · dsimp only
    refine carries_ite ?_ ?_
    · refine carries_step (canonical_of_keeps (keeps_setD3hot _ _) rfl) ?_
      exact carries_step (canonical_linkLost _) (canonical_mk id (carries_refl _ _))
    · exact canonical_mk id (carries_refl _ _)

theorem canonical_execPerstNChange : ∀ x0 s, ∃ t, @execPerstNChange x0 s = .next t ∧ Carries Canonical s t := by
  intro x0 s
  unfold execPerstNChange
  refine ⟨_, rfl, ?_⟩
  exact carries_step (canonical_perst _ _) (carries_refl _ _)

theorem canonical_repairFailing {s : State} (x : Nat × List RowCopy × State) (w : Nat) (h : Carries Canonical s x.2.2) :
    Carries Canonical s (repairFailing x w).2.2 := by
  unfold repairFailing
  split
  · exact h
  · split <;> exact carries_step (canonical_of_keeps (keeps_startRepair _ _) rfl) h

theorem canonical_initDone : ∀ x0 s, Carries Canonical s (@initDone x0 s) := by
  intro x0 s
  unfold initDone
  dsimp only
  refine carries_step (canonical_serveWaiting _) ?_
  refine carries_ite ?_ ?_
  · refine carries_foldl ?_ fun _ _ _ => ?_
    · refine carries_step (canonical_of_keeps (keeps_settleCopies _) rfl) ?_
      refine carries_foldl3 ?_ fun _ _ _ => ?_
      · dsimp only
        exact canonical_mk (fun _ => rfl) (carries_refl _ _)
      · exact canonical_repairFailing _ _ (by assumption)
    · exact carries_step (canonical_of_keeps (keeps_leaveBad _ _) rfl) ‹_›
  · refine carries_step (canonical_of_keeps (keeps_raise _ _ _ _) rfl) ?_
    refine carries_foldl ?_ fun _ _ _ => ?_
    · refine carries_step (canonical_of_keeps (keeps_settleCopies _) rfl) ?_
      refine carries_foldl3 ?_ fun _ _ _ => ?_
      · dsimp only
        exact canonical_mk (fun _ => rfl) (carries_refl _ _)
      · exact canonical_repairFailing _ _ (by assumption)
    · exact carries_step (canonical_of_keeps (keeps_leaveBad _ _) rfl) ‹_›

theorem canonical_execGranaryInitDone : ∀ x0 s,
    ∃ t, @execGranaryInitDone x0 s = .next t ∧ Carries Canonical s t := by
  intro x0 s
  unfold execGranaryInitDone
  dsimp only
  refine ⟨_, rfl, ?_⟩
  refine carries_whenS ?_ fun _ => ?_
  · exact carries_refl _ _
  · exact carries_step (canonical_initDone _ _) (carries_refl _ _)

theorem canonical_execRetentionReleaseDone : ∀ s,
    ∃ t, @execRetentionReleaseDone s = .next t ∧ Carries Canonical s t := by
  intro s
  unfold execRetentionReleaseDone
  dsimp only
  refine ⟨_, rfl, ?_⟩
  refine carries_whenS ?_ fun _ => ?_
  · exact carries_refl _ _
  · exact carries_step (canonical_serveWaiting _) (canonical_mk id (carries_refl _ _))

theorem canonical_execMarchStripeDone : ∀ x0 s,
    ∃ t, @execMarchStripeDone x0 s = .next t ∧ Carries Canonical s t := by
  intro x0 s
  unfold execMarchStripeDone
  refine ⟨_, rfl, ?_⟩
  refine carries_whenS ?_ fun _ => ?_
  · exact carries_refl _ _
  · split
    · exact carries_refl _ _
    · dsimp only
      refine carries_ite ?_ ?_
      · refine carries_step (canonical_of_keeps (keeps_marchEnd _ _) rfl) ?_
        refine carries_foldl3 ?_ fun _ _ _ => ?_
        · dsimp only
          refine carries_ite ?_ ?_
          · exact carries_step (canonical_storeBytes _ _ _) (carries_refl _ _)
          · exact carries_refl _ _
        · exact canonical_repairFailing _ _ (by assumption)
      · refine canonical_mk id ?_
        refine carries_foldl3 ?_ fun _ _ _ => ?_
        · dsimp only
          refine carries_ite ?_ ?_
          · exact carries_step (canonical_storeBytes _ _ _) (carries_refl _ _)
          · exact carries_refl _ _
        · exact canonical_repairFailing _ _ (by assumption)

theorem canonical_applySections : ∀ x0 s, Carries Canonical s (@applySections x0 s) := by
  intro x0 s
  unfold applySections
  refine carries_foldl (carries_refl _ _) fun t x h => ?_
  split
  · rename_i e
    split at e
    · exact carries_some (ocanonical_of_okeeps (keeps_applySection _ _ _) rfl) e h
    · cases e
  · exact carries_step (canonical_of_keeps (keeps_rejectSection _ _) rfl) h

theorem canonical_applyImage : ∀ x0 x1 s, Carries Canonical s (@applyImage x0 x1 s) := by
  intro x0 x1 s
  unfold applyImage
  dsimp only
  refine canonical_mk id ?_
  refine carries_step (canonical_of_keeps (keeps_hostlessReset _) rfl) ?_
  refine carries_step (canonical_of_keeps (keeps_unusedRailsOff _) rfl) ?_
  refine carries_step (canonical_applySections _ _) ?_
  exact canonical_mk id (carries_step (canonical_of_keeps (keeps_imageDefaults _) rfl) (carries_refl _ _))

theorem canonical_execPor : ∀ x0 x1 s, ∃ t, @execPor x0 x1 s = .next t ∧ Carries Canonical s t := by
  intro x0 x1 s
  unfold execPor
  dsimp only
  refine ⟨_, rfl, ?_⟩
  refine carries_step (canonical_of_keeps (keeps_beginStart _ _) rfl) ?_
  refine carries_step (canonical_of_keeps (keeps_riseIo _ _) rfl) ?_
  exact canonical_mk (fun _ => wf_reset) (carries_refl _ _)

theorem canonical_bootRuns : ∀ x0 x1 s, Carries Canonical s (@bootRuns x0 x1 s) := by
  intro x0 x1 s
  unfold bootRuns
  dsimp only
  refine carries_step (canonical_of_keeps (keeps_readLoad _) rfl) ?_
  refine carries_step (canonical_of_keeps (keeps_settleFree _) rfl) ?_
  refine carries_ite ?_ ?_
  · refine carries_step (canonical_of_keeps (keeps_startLanes _ _) rfl) ?_
    exact canonical_mk id (carries_step (canonical_applyImage _ _ _) (carries_refl _ _))
  · exact canonical_mk id (carries_step (canonical_applyImage _ _ _) (carries_refl _ _))

theorem canonical_bootImage : ∀ x0 s, Carries Canonical s (@bootImage x0 s) := by
  intro x0 s
  unfold bootImage
  dsimp only
  refine carries_ite ?_ ?_
  · exact carries_step (canonical_of_keeps (keeps_bootFails _ _ _) rfl) (canonical_mk id (carries_refl _ _))
  · refine carries_ite ?_ ?_
    · refine carries_step (canonical_of_keeps (keeps_wakeSucceeds _) rfl) ?_
      refine carries_step (canonical_bootRuns _ _ _) ?_
      refine carries_ite ?_ ?_
      · exact carries_step (canonical_of_keeps (keeps_raise _ _ _ _) rfl) (canonical_mk id (carries_refl _ _))
      · exact canonical_mk id (carries_refl _ _)
    · refine carries_step (canonical_bootRuns _ _ _) ?_
      refine carries_ite ?_ ?_
      · exact carries_step (canonical_of_keeps (keeps_raise _ _ _ _) rfl) (canonical_mk id (carries_refl _ _))
      · exact canonical_mk id (carries_refl _ _)

theorem canonical_execBootImageLoaded : ∀ x0 s,
    ∃ t, @execBootImageLoaded x0 s = .next t ∧ Carries Canonical s t := by
  intro x0 s
  unfold execBootImageLoaded
  dsimp only
  refine ⟨_, rfl, ?_⟩
  refine carries_whenS ?_ fun _ => ?_
  · exact carries_refl _ _
  · exact carries_step (canonical_bootImage _ _) (carries_refl _ _)

theorem canonical_loadRecord : ∀ x0 x1 s, Carries Canonical s (@loadRecord x0 x1 s) := by
  intro x0 x1 s
  unfold loadRecord
  dsimp only
  split
  · refine carries_step (canonical_of_keeps (keeps_bootEvent _ _ _ _) rfl) ?_
    exact carries_step (canonical_scramble _ _ _) (carries_refl _ _)
  · refine carries_ite ?_ ?_
    · refine carries_step (canonical_of_keeps (keeps_bootEvent _ _ _ _) rfl) ?_
      exact carries_step (canonical_scramble _ _ _) (carries_refl _ _)
    · split
      · refine carries_step (canonical_of_keeps (keeps_bootEvent _ _ _ _) rfl) ?_
        refine carries_step (canonical_scramble _ _ _) ?_
        exact carries_step (canonical_of_keeps (keeps_loadViolation _ _) rfl) (carries_refl _ _)
      · refine carries_ite ?_ ?_
        · exact carries_step (canonical_grnWrite _ _ _ _ _) (carries_refl _ _)
        · refine carries_step (canonical_of_keeps (keeps_bootEvent _ _ _ _) rfl) ?_
          refine carries_step (canonical_scramble _ _ _) ?_
          exact carries_step (canonical_grnWrite _ _ _ _ _) (carries_refl _ _)

theorem canonical_execFlashLoadRecordDone : ∀ x0 s,
    ∃ t, @execFlashLoadRecordDone x0 s = .next t ∧ Carries Canonical s t := by
  intro x0 s
  unfold execFlashLoadRecordDone
  dsimp only
  refine ⟨_, rfl, ?_⟩
  refine carries_whenS ?_ fun _ => ?_
  · exact carries_refl _ _
  · split
    · exact carries_refl _ _
    · refine carries_step (canonical_of_keeps (keeps_advanceStart _) rfl) ?_
      refine carries_step (canonical_of_keeps (keeps_readLoad _) rfl) ?_
      exact canonical_mk id (carries_step (canonical_loadRecord _ _ _) (carries_refl _ _))

theorem canonical_returnToService : ∀ s, Carries Canonical s (@returnToService s) := by
  intro s
  unfold returnToService
  dsimp only
  refine carries_step (canonical_of_keeps (keeps_advanceStart _) rfl) ?_
  refine carries_step (canonical_drainQueue _ _) ?_
  refine carries_step (canonical_drainQueue _ _) ?_
  refine carries_foldl ?_ fun _ _ _ => ?_
  · refine carries_step (canonical_of_keeps (keeps_deliverLate _) rfl) ?_
    refine canonical_mk id ?_
    refine carries_ite ?_ ?_
    · refine carries_step (canonical_of_keeps (keeps_loseLock _ _ _) rfl) ?_
      refine canonical_mk id ?_
      refine carries_step (canonical_of_keeps (keeps_dropUnseen _) rfl) ?_
      refine carries_foldl ?_ fun _ _ _ => ?_
      · refine carries_ite ?_ ?_
        · refine carries_step (canonical_of_keeps (keeps_undoEntry _) rfl) ?_
          split
          · refine carries_step (canonical_of_keeps (keeps_activated _ _) rfl) ?_
            exact canonical_mk id (carries_refl _ _)
          · exact canonical_mk id (carries_refl _ _)
        · split
          · refine carries_step (canonical_of_keeps (keeps_activated _ _) rfl) ?_
            exact canonical_mk id (carries_refl _ _)
          · exact canonical_mk id (carries_refl _ _)
      · exact carries_step (canonical_of_keeps (keeps_interrupted _ _) rfl) ‹_›
    · refine carries_step (canonical_of_keeps (keeps_dropUnseen _) rfl) ?_
      refine carries_foldl ?_ fun _ _ _ => ?_
      · refine carries_ite ?_ ?_
        · refine carries_step (canonical_of_keeps (keeps_undoEntry _) rfl) ?_
          split
          · refine carries_step (canonical_of_keeps (keeps_activated _ _) rfl) ?_
            exact canonical_mk id (carries_refl _ _)
          · exact canonical_mk id (carries_refl _ _)
        · split
          · refine carries_step (canonical_of_keeps (keeps_activated _ _) rfl) ?_
            exact canonical_mk id (carries_refl _ _)
          · exact canonical_mk id (carries_refl _ _)
      · exact carries_step (canonical_of_keeps (keeps_interrupted _ _) rfl) ‹_›
  · exact carries_step (canonical_of_keeps (keeps_requestEntries _ _) rfl) ‹_›

theorem canonical_execFirmwareReturnToService : ∀ s,
    ∃ t, @execFirmwareReturnToService s = .next t ∧ Carries Canonical s t := by
  intro s
  unfold execFirmwareReturnToService
  refine ⟨_, rfl, ?_⟩
  refine carries_whenS ?_ fun _ => ?_
  · exact carries_refl _ _
  · exact carries_step (canonical_returnToService _) (carries_refl _ _)

theorem canonical_engineStop : ∀ s, Carries Canonical s (@engineStop s) := by
  intro s
  unfold engineStop
  split
  · refine carries_ite ?_ ?_
    · exact carries_refl _ _
    · dsimp only
      refine carries_step (canonical_of_keeps (keeps_dmaStopAll _) rfl) ?_
      refine carries_step (canonical_linkLost _) ?_
      exact carries_step (canonical_of_keeps (keeps_lanesOff _) rfl) (canonical_mk id (carries_refl _ _))
  · exact carries_refl _ _

theorem canonical_commitNow : ∀ s, Carries Canonical s (@commitNow s) := by
  intro s
  unfold commitNow
  split
  · refine carries_ite ?_ ?_
    · exact carries_refl _ _
    · dsimp only
      refine carries_step (canonical_of_keeps (keeps_entryCpl _ _ _) rfl) ?_
      refine canonical_mk id ?_
      refine carries_ite ?_ ?_
      · exact carries_step (canonical_scramble _ _ _) (canonical_mk id (carries_refl _ _))
      · exact canonical_mk id (carries_refl _ _)
  · exact carries_refl _ _

theorem canonical_commitLow : ∀ s, Carries Canonical s (@commitLow s) := by
  intro s
  unfold commitLow
  exact carries_step (canonical_commitNow _) (carries_step (canonical_engineStop _) (carries_refl _ _))

theorem canonical_powerDown : ∀ x0 s, Carries Canonical s (@powerDown x0 s) := by
  intro x0 s
  have hreset : Carries Canonical s 
      (domainsReset true (if x0.target == PState.sleep && x0.keepTime then measureTrim s else s)) :=
    carries_step (canonical_of_keeps (keeps_domainsReset _ _) rfl)
      (carries_ite (canonical_of_keeps (keeps_measureTrim _) rfl) (carries_refl _ _))
  have hdown : ∀ t : State, Memory.wf t.grn.mem = true →
      Memory.wf (if (x0.target == PState.sleep) = true then { t.grn with retention := true }
        else { t.grn with
          mem := [], marks := [], repaired := [], initDone := false, retention := false }).mem = true := by
    intro t ht
    split
    · exact ht
    · rfl
  unfold powerDown
  dsimp only
  refine carries_ite ?_ ?_
  · exact carries_step (canonical_of_keeps (keeps_beginWake _) rfl) (canonical_mk (hdown _) hreset)
  · exact canonical_mk (hdown _) hreset

theorem canonical_execLowPowerPowerdown : ∀ s,
    ∃ t, @execLowPowerPowerdown s = .next t ∧ Carries Canonical s t := by
  intro s
  unfold execLowPowerPowerdown
  dsimp only
  refine ⟨_, rfl, ?_⟩
  split
  · refine carries_ite ?_ ?_
    · exact carries_step (canonical_powerDown _ _) (carries_step (canonical_commitLow _) (carries_refl _ _))
    · exact carries_step (canonical_commitLow _) (carries_refl _ _)
  · exact carries_step (canonical_commitLow _) (carries_refl _ _)

theorem canonical_wakeTimeout : ∀ x0 x1 s, Carries Canonical s (@wakeTimeout x0 x1 s) := by
  intro x0 x1 s
  unfold wakeTimeout
  dsimp only
  refine carries_ite ?_ ?_
  · refine canonical_mk (fun _ => rfl) ?_
    exact carries_step (canonical_of_keeps (keeps_allDown _) rfl) (carries_refl _ _)
  · exact canonical_mk (id) (carries_step (canonical_of_keeps (keeps_allDown _) rfl) (carries_refl _ _))

theorem canonical_execWakeStepTimeout : ∀ x0 s,
    ∃ t, @execWakeStepTimeout x0 s = .next t ∧ Carries Canonical s t := by
  intro x0 s
  unfold execWakeStepTimeout
  refine ⟨_, rfl, ?_⟩
  split
  · refine carries_ite ?_ ?_
    · exact carries_refl _ _
    · exact carries_step (canonical_wakeTimeout _ _ _) (carries_refl _ _)
  · exact carries_refl _ _

theorem canonical_startDesc : ∀ x0 x1 x2 s, Carries Canonical s (@startDesc x0 x1 x2 s) := by
  intro x0 x1 x2 s
  exact canonical_of_keeps (keeps_startDesc_bodies x0 x1 x2 s) rfl

theorem canonical_startRing : ∀ x0 s, Carries Canonical s (@startRing x0 s) := by
  intro x0 s
  unfold startRing
  split
  · exact carries_refl _ _
  · dsimp only
    refine carries_step (canonical_startDesc _ _ _ _) ?_
    refine carries_step (canonical_of_keeps (keeps_requestEntries _ _) rfl) ?_
    refine carries_step (canonical_of_keeps (keeps_flushDead _ _ _) rfl) ?_
    exact carries_step (canonical_of_keeps (keeps_modSq _ _ _) rfl) (canonical_mk id (carries_refl _ _))

theorem canonical_startEth : ∀ x0 s, Carries Canonical s (@startEth x0 s) := by
  intro x0 s
  unfold startEth
  split
  · exact carries_refl _ _
  · dsimp only
    refine carries_step (canonical_drainQueue _ _) ?_
    refine carries_step (canonical_startDesc _ _ _ _) ?_
    exact carries_step (canonical_of_keeps (keeps_modEth _ _ _) rfl) (carries_refl _ _)

theorem canonical_startNext : ∀ s, Carries Canonical s (@startNext s) := by
  intro s
  unfold startNext
  split
  · exact carries_refl _ _
  · dsimp only
    split
    · split
      · exact carries_step (canonical_startRing _ _) (canonical_mk id (carries_refl _ _))
      · exact canonical_mk id (carries_refl _ _)
    · exact carries_step (canonical_startEth _ _) (canonical_mk id (carries_refl _ _))
    · exact carries_step (canonical_startEth _ _) (canonical_mk id (carries_refl _ _))
    · exact carries_step (canonical_startDesc _ _ _ _) (canonical_mk id (carries_refl _ _))

theorem canonical_execCommandStart : ∀ s, ∃ t, @execCommandStart s = .next t ∧ Carries Canonical s t := by
  intro s
  unfold execCommandStart
  refine ⟨_, rfl, ?_⟩
  refine carries_step (canonical_startNext _) ?_
  exact carries_step (canonical_of_keeps (keeps_advanceStart _) rfl) (carries_refl _ _)

theorem canonical_startStartup : ∀ s, Carries Canonical s (@startStartup s) := by
  intro s
  unfold startStartup
  split
  · exact carries_refl _ _
  · dsimp only
    split
    · exact carries_step (canonical_of_keeps (keeps_advanceStart _) rfl) (carries_refl _ _)
    · refine carries_ite ?_ ?_
      · exact carries_step (canonical_startDesc _ _ _ _) (canonical_mk id (carries_refl _ _))
      · exact carries_refl _ _

theorem canonical_execStartupCommand : ∀ s, ∃ t, @execStartupCommand s = .next t ∧ Carries Canonical s t := by
  intro s
  unfold execStartupCommand
  refine ⟨_, rfl, ?_⟩
  exact carries_step (canonical_startStartup _) (carries_refl _ _)

theorem canonical_chainDone : ∀ x0 s, Carries Canonical s (@chainDone x0 s) := by
  intro x0 s
  unfold chainDone
  split
  · exact carries_refl _ _
  · split
    · refine carries_step (canonical_of_keeps (keeps_jobDone _ _) rfl) ?_
      exact carries_step (canonical_of_keeps (keeps_dropJob _ _) rfl) (carries_refl _ _)
    · refine carries_step (canonical_jobFailed _ _) ?_
      exact carries_step (canonical_of_keeps (keeps_dropJob _ _) rfl) (carries_refl _ _)
    · refine carries_step (canonical_jobFailed _ _) ?_
      exact carries_step (canonical_of_keeps (keeps_dropJob _ _) rfl) (carries_refl _ _)
    · exact carries_refl _ _

theorem canonical_execDmaChainDone : ∀ x0 s, ∃ t, @execDmaChainDone x0 s = .next t ∧ Carries Canonical s t := by
  intro x0 s
  unfold execDmaChainDone
  refine ⟨_, rfl, ?_⟩
  refine carries_whenS ?_ fun _ => ?_
  · exact carries_refl _ _
  · exact carries_step (canonical_chainDone _ _) (carries_refl _ _)

theorem canonical_idle : ∀ s, Carries Canonical s (@idle s) := by
  intro s
  unfold idle
  dsimp only
  refine carries_step (canonical_commitLow _) ?_
  refine carries_whenS ?_ fun _ => ?_
  · refine carries_whenS ?_ fun _ => ?_
    · refine carries_step (canonical_of_keeps (keeps_advanceStart _) rfl) ?_
      refine carries_step (canonical_of_keeps (keeps_idlePhaseA _) rfl) ?_
      refine carries_step (canonical_of_keeps (keeps_hostConfigures _) rfl) ?_
      refine carries_step (canonical_of_keeps (keeps_idleKernels _) rfl) ?_
      refine carries_step (canonical_of_keeps (keeps_repeatOverride _) rfl) ?_
      refine carries_step (canonical_of_keeps (keeps_idleLanes _) rfl) ?_
      refine carries_step (canonical_of_keeps (keeps_beginTest _) rfl) ?_
      refine carries_step (canonical_of_keeps (keeps_idleLine _) rfl) ?_
      exact carries_step (canonical_of_keeps (keeps_idleClock _) rfl) (carries_refl _ _)
    · exact carries_step (canonical_of_keeps (keeps_drainLog _) rfl) ‹_›
  · exact carries_step (canonical_of_keeps (keeps_fireWake _ _) rfl) ‹_›

/-- Every command keeps the canonical form of the Granary's bytes. -/
theorem canonical_exec (c : Instr) (s : State) : Answers (exec c s) (Carries Canonical s) := by
  by_cases hmem : (touches c).contains .mem = false
  · obtain ⟨t, hexec, hkeeps⟩ := keeps_exec c s
    exact ⟨t, hexec, canonical_of_keeps hkeeps hmem⟩
  · cases c
    case por yokePri addr => exact canonical_execPor yokePri addr s
    case firmwareReturnToService => exact canonical_execFirmwareReturnToService s
    case perstNChange high => exact canonical_execPerstNChange high s
    case pcieFlr => exact canonical_execPcieFlr s
    case pcieD3hot => exact canonical_execPcieD3hot s
    case pcieLinkDown => exact canonical_execPcieLinkDown s
    case bar2Read addr bytes upset => exact canonical_execBar2Read addr bytes upset s
    case bar2Write addr data upset => exact canonical_execBar2Write addr data upset s
    case commandStart => exact canonical_execCommandStart s
    case lowPowerPowerdown => exact canonical_execLowPowerPowerdown s
    case bulkDatagramReceived p f => exact canonical_execBulkDatagramReceived p f s
    case tileSerialResetDone t => exact canonical_execTileSerialResetDone t s
    case healthWriteback cancelled => exact canonical_execHealthWriteback cancelled s
    case planeCopyComplete => exact canonical_execPlaneCopyComplete s
    case dmaBeatComplete ch beat => exact canonical_execDmaBeatComplete ch beat s
    case dmaChainDone ch => exact canonical_execDmaChainDone ch s
    case granaryInitDone failing => exact canonical_execGranaryInitDone failing s
    case marchStripeDone failing => exact canonical_execMarchStripeDone failing s
    case retentionReleaseDone => exact canonical_execRetentionReleaseDone s
    case wakeStepTimeout step => exact canonical_execWakeStepTimeout step s
    case bootImageLoaded img => exact canonical_execBootImageLoaded img s
    case flashLoadRecordDone data => exact canonical_execFlashLoadRecordDone data s
    case startupCommand => exact canonical_execStartupCommand s
    case yokeSharedMsg m => exact canonical_execYokeSharedMsg m s
    case yokeCopyBlock block data => exact canonical_execYokeCopyBlock block data s
    all_goals exact absurd rfl hmem

/-- Settles O6: idle time and every command carry the canonical form. -/
theorem memoryStaysCanonical : Obligations.MemoryStaysCanonical := by
  intro s t hwf hstep
  cases hpending : s.pending with
  | nil =>
    simp only [step, hpending] at hstep
    obtain rfl := Host.Outcome.next.inj hstep
    exact canonical_idle s hwf
  | cons c rest =>
    simp only [step, hpending] at hstep
    obtain ⟨u, hexec, hcarries⟩ := canonical_exec c { s with pending := rest }
    obtain rfl := Host.Outcome.next.inj (hexec.symm.trans hstep)
    exact hcarries hwf

end Sys2Proof.Proofs
end

section
/-!
SUPPORT. The authority masks through each operation that writes a mask, the image's or a saved one.
-/

namespace Sys2Proof.Proofs

set_option Elab.async false

open Sys2Proof Sys2Proof.Machine Sys2Proof.Safety Sys2Proof.Laws

theorem ocarries_ite {P : State → Prop} {s : State} {t u : Option State} {c : Prop} [Decidable c]
    (h : OCarries P s t) (k : OCarries P s u) : OCarries P s (if c then t else u) := by
  split
  · exact h
  · exact k

theorem ocarries_bind {P : State → Prop} {s : State} {o : Option State} {f : State → Option State}
    (h : OCarries P s o) (k : ∀ t, OCarries P t (f t)) : OCarries P s (o.bind f) := by
  intro u e
  obtain ⟨t, ht, hu⟩ := Option.bind_eq_some_iff.mp e
  exact carries_step (k t u hu) (h t ht)

theorem ocarries_applyIf {P : State → Prop} {s t : State} {b : Bool} (h : b = true → Carries P s t) :
    OCarries P s (applyIf b t) := by
  intro u e
  cases b with
  | false => cases e
  | true =>
    cases e
    exact h rfl

theorem carries_nextOr {P : State → Prop} {s t : State} {o : Out} (h : Answers o (Carries P t))
    (k : Carries P s t) : Carries P s (nextOr o t) := by
  obtain ⟨u, rfl, hu⟩ := h
  exact carries_step hu k

theorem carries_clears_nil {P : State → Prop} {s t : State} {v : Nat} (k : Carries P s t) :
    Carries P s (clears v [] t) := k

theorem carries_clears_cons {P : State → Prop} {s t : State} {v n : Nat} {f : State → Out}
    {r : List (Nat × (State → Out))} (h : ∀ u, Answers (f u) (Carries P u)) (k : Carries P s t)
    (e : ∀ u, Carries P s u → Carries P s (clears v r u)) : Carries P s (clears v ((n, f) :: r) t) :=
  e _ (carries_ite (carries_nextOr (h t) k) k)

theorem authority_of_keeps {l : List Zone} {s t : State} (k : Keeps l s t) (ha : l.contains .auth = false)
    (hs : l.contains .saved = false) : Carries AuthorityKeeps s t := by
  have hauth : t.hif.auth = s.hif.auth := k .auth (by simpa using ha)
  have hsaved : t.saved = s.saved := k .saved (by simpa using hs)
  intro h
  rwa [AuthorityKeeps, AuthorityWithin, hauth, hsaved]

theorem oauthority_of_okeeps {l : List Zone} {s : State} {o : Option State} (k : OKeeps l s o)
    (ha : l.contains .auth = false) (hs : l.contains .saved = false) : OCarries AuthorityKeeps s o :=
  fun t e => authority_of_keeps (k t e) ha hs

/-- A record update of a state: what it takes for the host interface and for the wake image keeps the bounds. -/
theorem authority_mk {s t : State}
    {v1 : Nat} {v2 : Nat} {v3 : List Emit} {v4 : PartId} {v5 : Hif} {v6 : Dma} {v7 : Granary} {v8 : Compose}
    {v9 : Photo} {v10 : Hedge} {v11 : Lamp} {v12 : Link} {v13 : Health} {v14 : Rails} {v15 : Power}
    {v16 : Thermal} {v17 : Reeve} {v18 : Yoke} {v19 : Bell} {v20 : Eths} {v21 : Mgt} {v22 : Boot}
    {v23 : Tab Aux 4} {v24 : Tab Crcu 4} {v25 : Gpio} {v26 : Test} {v27 : List Cmd} {v28 : Nat}
    {v29 : List MaskEntry} {v30 : List DmaJob} {v31 : List Cmd} {v32 : Option Cmd} {v33 : Option Saved}
    (hmasks : AuthorityKeeps t → AuthorityWithin v5 ∧ ∀ v, v33 = some v → AuthorityWithin v.hif)
    (h : Carries AuthorityKeeps s t) :
    Carries AuthorityKeeps s (State.mk t.pending v1 v2 v3 v4 v5 v6 v7 v8 v9 v10 v11 v12 v13 v14 v15 v16 v17 v18
      v19 v20 v21 v22 v23 v24 v25 v26 v27 v28 v29 v30 v31 v32 v33) :=
  fun hs => hmasks (h hs)

/-- Without a wake image there is none to bound. -/
theorem within_of_none : ∀ v : Saved, (none : Option Saved) = some v → AuthorityWithin v.hif :=
  fun _ h => absurd h (Option.some_ne_none _).symm

theorem authority_of_answers {l : List Zone} {s : State} {o : Out} (k : ∃ t, o = .next t ∧ Keeps l s t)
    (ha : l.contains .auth = false) (hs : l.contains .saved = false) : Answers o (Carries AuthorityKeeps s) := by
  obtain ⟨t, ht, hk⟩ := k
  exact ⟨t, ht, authority_of_keeps hk ha hs⟩

theorem and_and_self_right (v i : BitVec 12) : v &&& i &&& i = v &&& i := by
  rw [BitVec.and_assoc, BitVec.and_self]

/-- A mask of a port other than the yoke peer's, taken within its IMAGE_CLASS. -/
theorem authorityWithin_upd {h : Hif} {p : Fin 5} {f : Auth → Auth} (hp : p ≠ 4) (hw : AuthorityWithin h)
    (hf : ∀ a, (f a).cls &&& (f a).image = (f a).cls) :
    AuthorityWithin { h with auth := h.auth.upd p f } := by
  obtain ⟨hall, himage, hcls⟩ := hw
  refine ⟨fun q => ?_, ?_, ?_⟩
  · by_cases hq : q = p
    · simpa [hq] using hf _
    · simpa [hq] using hall q
  · simpa [Tab.upd, Ne.symm hp] using himage
  · simpa [Tab.upd, Ne.symm hp] using hcls

theorem authorityWithin_default {h : Hif} (hauth : h.auth = defaultAuth) : AuthorityWithin h := by
  rw [AuthorityWithin, hauth]
  decide

theorem authority_execHifAuthWrite : ∀ x0 x1 s,
    ∃ t, @execHifAuthWrite x0 x1 s = .next t ∧ Carries AuthorityKeeps s t := by
  intro x0 x1 s
  refine ⟨_, rfl, fun h => ?_⟩
  unfold whenS
  split
  · next hguard =>
    simp only [Bool.and_eq_true, decide_eq_true_eq] at hguard
    exact ⟨authorityWithin_upd hguard.2 h.1 fun a => and_and_self_right x1 a.image, h.2⟩
  · exact h

theorem authority_hifWrite : ∀ x0 x1 s, Carries AuthorityKeeps s (@hifWrite x0 x1 s) := by
  intro x0 x1 s
  unfold hifWrite
  dsimp only
  refine carries_ite ?_ ?_
  · refine carries_foldl ?_ fun _ _ _ => ?_
    · refine carries_foldl ?_ fun _ _ _ => ?_
      · exact carries_refl _ _
      · refine carries_ite ?_ ?_
        · exact carries_nextOr (authority_of_answers (keeps_execHifKickSq _ _) rfl rfl) ‹_›
        · assumption
    · refine carries_ite ?_ ?_
      · exact carries_nextOr (authority_of_answers (keeps_execHifKickCq _ _) rfl rfl) ‹_›
      · assumption
  · refine carries_ite ?_ ?_
    · refine carries_ite ?_ ?_
      · refine carries_nextOr (authority_of_answers (keeps_execHifLockRingLock _) rfl rfl) ?_
        refine carries_ite ?_ ?_
        · exact carries_nextOr (authority_of_answers (keeps_execHifLockAuthLock _) rfl rfl) (carries_refl _ _)
        · exact carries_refl _ _
      · refine carries_ite ?_ ?_
        · exact carries_nextOr (authority_of_answers (keeps_execHifLockAuthLock _) rfl rfl) (carries_refl _ _)
        · exact carries_refl _ _
    · refine carries_ite ?_ ?_
      · refine carries_ite ?_ ?_
        · refine carries_nextOr (authority_of_answers (keeps_execHifCntClearDenied _) rfl rfl) ?_
          refine carries_ite ?_ ?_
          · exact carries_nextOr (authority_of_answers (keeps_execHifCntClearDrop _) rfl rfl) (carries_refl _ _)
          · exact carries_refl _ _
        · refine carries_ite ?_ ?_
          · exact carries_nextOr (authority_of_answers (keeps_execHifCntClearDrop _) rfl rfl) (carries_refl _ _)
          · exact carries_refl _ _
      · split
        · exact carries_nextOr (authority_execHifAuthWrite _ _ _) (carries_refl _ _)
        · exact carries_refl _ _

theorem authority_regWrite : ∀ x0 x1 s, Carries AuthorityKeeps s (@regWrite x0 x1 s) := by
  intro x0 x1 s
  unfold regWrite
  dsimp only
  split
  · exact carries_step (authority_hifWrite _ _ _) (carries_refl _ _)
  · exact carries_step (authority_of_keeps (keeps_ringWrite _ _ _) rfl rfl) (carries_refl _ _)
  · refine carries_ite ?_ ?_
    · refine carries_clears_cons (fun u => authority_of_answers (keeps_execDmaCntClearStarve u) rfl rfl) ?_ fun _ _ => ?_
      · exact carries_refl _ _
      · exact carries_clears_nil ‹_›
    · exact carries_refl _ _
  · exact carries_step (authority_of_keeps (keeps_grnRegWrite _ _ _) rfl rfl) (carries_refl _ _)
  · refine carries_ite ?_ ?_
    · exact authority_mk id (carries_refl _ _)
    · refine carries_ite ?_ ?_
      · refine carries_clears_cons (fun u => authority_of_answers (keeps_execCmpCntClearLate u) rfl rfl) ?_ fun _ _ => ?_
        · exact carries_refl _ _
        · exact carries_clears_nil ‹_›
      · exact carries_refl _ _
  · refine carries_ite ?_ ?_
    · refine carries_clears_cons (fun u => authority_of_answers (keeps_execGeoCntClearParity u) rfl rfl) ?_ fun _ _ => ?_
      · exact carries_refl _ _
      · refine carries_clears_cons (fun u => authority_of_answers (keeps_execGeoCntClearOverstep u) rfl rfl) ?_ fun _ _ => ?_
        · assumption
        · exact carries_clears_nil ‹_›
    · exact carries_refl _ _
  · refine carries_ite ?_ ?_
    · exact authority_mk id (carries_refl _ _)
    · refine carries_ite ?_ ?_
      · refine carries_clears_cons (fun u => authority_of_answers (keeps_execPhoCntClearSubst u) rfl rfl) ?_ fun _ _ => ?_
        · exact carries_refl _ _
        · exact carries_clears_nil ‹_›
      · exact carries_refl _ _
  · exact carries_step (authority_of_keeps (keeps_hdgWrite _ _ _) rfl rfl) (carries_refl _ _)
  · exact carries_step (authority_of_keeps (keeps_lplWrite _ _ _) rfl rfl) (carries_refl _ _)
  · refine carries_ite ?_ ?_
    · refine carries_clears_cons (fun u => authority_of_answers (keeps_execXlpCntClearEvents u) rfl rfl) ?_ fun _ _ => ?_
      · exact carries_refl _ _
      · refine carries_clears_cons (fun u => authority_of_answers (keeps_execXlpCntClearErr u) rfl rfl) ?_ fun _ _ => ?_
        · assumption
        · exact carries_clears_nil ‹_›
    · exact carries_refl _ _
  · refine carries_ite ?_ ?_
    · refine carries_clears_cons (fun u => authority_of_answers (keeps_execXlkCntClearCtl u) rfl rfl) ?_ fun _ _ => ?_
      · exact carries_refl _ _
      · refine carries_clears_cons (fun u => authority_of_answers (keeps_execXlkCntClearLat u) rfl rfl) ?_ fun _ _ => ?_
        · assumption
        · refine carries_clears_cons (fun u => authority_of_answers (keeps_execXlkCntClearCnt u) rfl rfl) ?_ fun _ _ => ?_
          · assumption
          · exact carries_clears_nil ‹_›
    · exact carries_refl _ _
  · refine carries_ite ?_ ?_
    · refine carries_clears_cons (fun u => authority_of_answers (keeps_execPxhCntClearFlags u) rfl rfl) ?_ fun _ _ => ?_
      · exact carries_refl _ _
      · refine carries_clears_cons (fun u => authority_of_answers (keeps_execPxhCntClearEvents u) rfl rfl) ?_ fun _ _ => ?_
        · assumption
        · exact carries_clears_nil ‹_›
    · exact carries_refl _ _
  · refine carries_ite ?_ ?_
    · refine carries_clears_cons (fun u => authority_of_answers (keeps_execRailCntClearFaults u) rfl rfl) ?_ fun _ _ => ?_
      · exact carries_refl _ _
      · exact carries_clears_nil ‹_›
    · exact carries_refl _ _
  · exact carries_step (authority_of_keeps (keeps_pwrWrite _ _ _) rfl rfl) (carries_refl _ _)
  · refine carries_ite ?_ ?_
    · refine carries_clears_cons (fun u => authority_of_answers (keeps_execThmCntClearCount u) rfl rfl) ?_ fun _ _ => ?_
      · exact carries_refl _ _
      · exact carries_clears_nil ‹_›
    · exact carries_refl _ _
  · exact carries_step (authority_of_keeps (keeps_rveWrite _ _ _) rfl rfl) (carries_refl _ _)
  · refine carries_ite ?_ ?_
    · refine carries_clears_cons (fun u => authority_of_answers (keeps_execYokCntClearCount u) rfl rfl) ?_ fun _ _ => ?_
      · exact carries_refl _ _
      · refine carries_clears_cons (fun u => authority_of_answers (keeps_execYokCntClearCheck u) rfl rfl) ?_ fun _ _ => ?_
        · assumption
        · exact carries_clears_nil ‹_›
    · exact carries_refl _ _
  · exact carries_step (authority_of_keeps (keeps_belWrite _ _ _) rfl rfl) (carries_refl _ _)
  · refine carries_ite ?_ ?_
    · refine carries_clears_cons (fun u => authority_of_answers (keeps_execEthCntClearPtp u) rfl rfl) ?_ fun _ _ => ?_
      · exact carries_refl _ _
      · refine carries_clears_cons (fun u => authority_of_answers (keeps_execEthCntClearTx u) rfl rfl) ?_ fun _ _ => ?_
        · assumption
        · refine carries_clears_cons (fun u => authority_of_answers (keeps_execEthCntClearRx u) rfl rfl) ?_ fun _ _ => ?_
          · assumption
          · exact carries_clears_nil ‹_›
    · exact carries_refl _ _
  · refine carries_ite ?_ ?_
    · exact carries_nextOr (authority_of_answers (keeps_execGpioDataWrite _ _) rfl rfl) (carries_refl _ _)
    · exact carries_refl _ _
  · exact carries_step (authority_of_keeps (keeps_crcuWrite _ _ _) rfl rfl) (carries_refl _ _)
  · refine carries_ite ?_ ?_
    · refine carries_clears_cons (fun u => authority_of_answers (keeps_execTstCntClearCount u) rfl rfl) ?_ fun _ _ => ?_
      · exact carries_refl _ _
      · exact carries_clears_nil ‹_›
    · exact carries_refl _ _
  · exact carries_refl _ _

theorem authority_execRegisterWrite : ∀ x0 x1 s,
    ∃ t, @execRegisterWrite x0 x1 s = .next t ∧ Carries AuthorityKeeps s t := by
  intro x0 x1 s
  unfold execRegisterWrite
  refine ⟨_, rfl, ?_⟩
  refine carries_whenS ?_ fun _ => ?_
  · exact carries_refl _ _
  · exact carries_step (authority_regWrite _ _ _) (carries_refl _ _)

theorem authority_imgMask (p v : Nat) (s : State)
    (hok : (if p = 4 then BitVec.ofNat 12 (wf' v 16 12) == 0 && BitVec.ofNat 12 (wf' v 0 12) == 0
      else if p = 3 then !(bitOf (BitVec.ofNat 12 (wf' v 16 12)) 9 || bitOf (BitVec.ofNat 12 (wf' v 0 12)) 9)
      else true) = true) :
    Carries AuthorityKeeps s { s with
      hif.auth := s.hif.auth.updN p fun _ =>
        { image := BitVec.ofNat 12 (wf' v 16 12)
          cls := BitVec.ofNat 12 (wf' v 0 12) &&& BitVec.ofNat 12 (wf' v 16 12) } } := by
  refine fun h => ⟨?_, h.2⟩
  obtain ⟨hall, himage, hcls⟩ := h.1
  unfold Tab.updN
  split
  · next hp =>
    by_cases hyoke : p = 4
    · subst hyoke
      simp only [if_true, Bool.and_eq_true, beq_iff_eq] at hok
      refine ⟨fun q => ?_, ?_, ?_⟩
      · by_cases hq : q = 4
        · simp [hq, Tab.upd, hok]
        · simpa [hq] using hall q
      · simp [Tab.upd, hok]
      · simp [Tab.upd, hok]
    · exact authorityWithin_upd (fun e => hyoke (congrArg Fin.val e)) h.1 fun _ => and_and_self_right _ _
  · exact h.1

theorem authority_imgHost : ∀ x0 x1 s, OCarries AuthorityKeeps s (@imgHost x0 x1 s) := by
  intro x0 x1 s
  unfold imgHost
  refine ocarries_ite ?_ ?_
  · exact ocarries_some (authority_mk id (carries_refl _ _))
  · refine ocarries_ite ?_ ?_
    · exact ocarries_some (authority_mk id (carries_refl _ _))
    · refine ocarries_ite ?_ ?_
      · exact ocarries_some (authority_mk id (carries_refl _ _))
      · refine ocarries_ite ?_ ?_
        · dsimp only
          exact ocarries_applyIf (authority_imgMask _ _ s)
        · split
          · exact ocarries_some (authority_mk id (carries_refl _ _))
          · refine ocarries_ite ?_ ?_
            · exact ocarries_applyIf fun _ => (authority_mk id (carries_refl _ _))
            · refine ocarries_ite ?_ ?_
              · exact ocarries_some (authority_mk id (carries_refl _ _))
              · split
                · exact ocarries_some (authority_mk id (carries_refl _ _))
                · exact ocarries_some (authority_mk id (carries_refl _ _))
                · exact ocarries_none

theorem authority_imgReg : ∀ x0 x1 s, OCarries AuthorityKeeps s (@imgReg x0 x1 s) := by
  intro x0 x1 s
  unfold imgReg
  refine ocarries_ite ?_ ?_
  · exact authority_imgHost _ _ _
  · refine ocarries_ite ?_ ?_
    · exact oauthority_of_okeeps (keeps_imgLanes _ _ _) rfl rfl
    · refine ocarries_ite ?_ ?_
      · exact oauthority_of_okeeps (keeps_imgRails _ _ _) rfl rfl
      · refine ocarries_ite ?_ ?_
        · exact oauthority_of_okeeps (keeps_imgPower _ _ _) rfl rfl
        · refine ocarries_ite ?_ ?_
          · exact oauthority_of_okeeps (keeps_imgReeve _ _ _) rfl rfl
          · refine ocarries_ite ?_ ?_
            · exact oauthority_of_okeeps (keeps_imgBell _ _ _) rfl rfl
            · refine ocarries_ite ?_ ?_
              · exact oauthority_of_okeeps (keeps_imgEth _ _ _ _) rfl rfl
              · refine ocarries_ite ?_ ?_
                · exact oauthority_of_okeeps (keeps_imgEth _ _ _ _) rfl rfl
                · exact oauthority_of_okeeps (keeps_imgAux _ _ _) rfl rfl

theorem authority_imgSettings : ∀ x0 s, OCarries AuthorityKeeps s (@imgSettings x0 s) := by
  intro x0 s
  induction x0 generalizing s with
  | nil =>
    exact ocarries_some (carries_refl _ _)
  | cons _ _ ih =>
    rw [imgSettings]
    refine ocarries_bind ?_ fun _ => ?_
    · exact authority_imgReg _ _ _
    · exact ih _

theorem authority_settingsSection : ∀ x0 s, OCarries AuthorityKeeps s (@settingsSection x0 s) := by
  intro x0 s
  unfold settingsSection
  split
  · refine ocarries_ite ?_ ?_
    · exact ocarries_some (carries_some (authority_imgSettings _ _) ‹_› (carries_refl _ _))
    · exact ocarries_none
  · exact ocarries_none

theorem authority_applySection : ∀ x0 x1 s, OCarries AuthorityKeeps s (@applySection x0 x1 s) := by
  intro x0 x1 s
  unfold applySection
  split
  · exact ocarries_some (carries_step (authority_of_keeps (keeps_imgIdentity _ _) rfl rfl) (carries_refl _ _))
  · exact authority_settingsSection _ _
  · refine ocarries_some ?_
    exact carries_step (authority_of_keeps (keeps_imgLaneSection _ _) rfl rfl) (carries_refl _ _)
  · refine ocarries_some ?_
    exact carries_step (authority_of_keeps (keeps_imgLinkSection _ _) rfl rfl) (carries_refl _ _)
  · refine ocarries_some ?_
    exact carries_step (authority_of_keeps (keeps_imgRailSection _ _) rfl rfl) (carries_refl _ _)
  · refine ocarries_some ?_
    exact carries_step (authority_of_keeps (keeps_imgThermalSection _ _) rfl rfl) (carries_refl _ _)
  · exact ocarries_some (carries_step (authority_of_keeps (keeps_imgNetwork _ _) rfl rfl) (carries_refl _ _))
  · exact ocarries_some (authority_mk id (carries_refl _ _))
  · exact ocarries_some (authority_mk id (carries_refl _ _))
  · exact ocarries_none

theorem authority_applySections : ∀ x0 s, Carries AuthorityKeeps s (@applySections x0 s) := by
  intro x0 s
  unfold applySections
  refine carries_foldl (carries_refl _ _) fun t x h => ?_
  split
  · rename_i e
    split at e
    · exact carries_some (authority_applySection _ _ _) e h
    · cases e
  · exact carries_step (authority_of_keeps (keeps_rejectSection _ _) rfl rfl) h

theorem authority_imageDefaults : ∀ s, Carries AuthorityKeeps s (@imageDefaults s) := by
  intro s
  unfold imageDefaults
  dsimp only
  refine carries_step (authority_of_keeps (keeps_imgClass _ _ _) rfl rfl) ?_
  refine carries_step (authority_of_keeps (keeps_imgClass _ _ _) rfl rfl) ?_
  exact authority_mk (fun h => ⟨authorityWithin_default rfl, h.2⟩) (carries_refl _ _)

theorem authority_applyImage : ∀ x0 x1 s, Carries AuthorityKeeps s (@applyImage x0 x1 s) := by
  intro x0 x1 s
  unfold applyImage
  dsimp only
  refine authority_mk id ?_
  refine carries_step (authority_of_keeps (keeps_hostlessReset _) rfl rfl) ?_
  refine carries_step (authority_of_keeps (keeps_unusedRailsOff _) rfl rfl) ?_
  refine carries_step (authority_applySections _ _) ?_
  exact authority_mk id (carries_step (authority_imageDefaults _) (carries_refl _ _))

theorem authority_sysStart : ∀ x0 s, Carries AuthorityKeeps s (@sysStart x0 s) := by
  intro x0 s
  unfold sysStart
  dsimp only
  refine carries_step (authority_of_keeps (keeps_coreOut _) rfl rfl) ?_
  refine authority_mk id ?_
  refine carries_step (authority_of_keeps (keeps_beginStart _ _) rfl rfl) ?_
  refine carries_ite ?_ ?_
  · refine authority_mk (fun h => ⟨h.1, within_of_none⟩) ?_
    exact carries_step (authority_of_keeps (keeps_domainsReset _ _) rfl rfl) (carries_refl _ _)
  · refine authority_mk (fun h => ⟨h.1, within_of_none⟩) ?_
    exact carries_step (authority_of_keeps (keeps_domainsReset _ _) rfl rfl) (carries_refl _ _)

theorem authority_sysHold : ∀ s, Carries AuthorityKeeps s (@sysHold s) := by
  intro s
  unfold sysHold
  refine carries_ite ?_ ?_
  · exact carries_step (authority_sysStart _ _) (carries_refl _ _)
  · exact carries_refl _ _

theorem authority_wakeComplete : ∀ s, Carries AuthorityKeeps s (@wakeComplete s) := by
  intro s
  unfold wakeComplete
  refine carries_ite ?_ ?_
  · exact carries_step (authority_sysStart _ _) (carries_refl _ _)
  · exact carries_refl _ _

theorem authority_execSysReset : ∀ s, ∃ t, @execSysReset s = .next t ∧ Carries AuthorityKeeps s t := by
  intro s
  unfold execSysReset
  refine ⟨_, rfl, ?_⟩
  exact carries_step (authority_sysHold _) (authority_mk id (carries_refl _ _))

theorem authority_execTestenChange : ∀ x0 s,
    ∃ t, @execTestenChange x0 s = .next t ∧ Carries AuthorityKeeps s t := by
  intro x0 s
  unfold execTestenChange
  refine ⟨_, rfl, ?_⟩
  refine carries_ite ?_ ?_
  · exact carries_step (authority_sysHold _) (authority_mk id (carries_refl _ _))
  · exact carries_step (authority_of_keeps (keeps_sysRelease _) rfl rfl) (authority_mk id (carries_refl _ _))

theorem authority_execJtagInstructionUpdate : ∀ x0 s,
    ∃ t, @execJtagInstructionUpdate x0 s = .next t ∧ Carries AuthorityKeeps s t := by
  intro x0 s
  unfold execJtagInstructionUpdate
  dsimp only
  refine ⟨_, rfl, ?_⟩
  refine carries_ite ?_ ?_
  · exact carries_step (authority_sysHold _) (authority_mk id (carries_refl _ _))
  · refine carries_ite ?_ ?_
    · exact carries_step (authority_of_keeps (keeps_sysRelease _) rfl rfl) (authority_mk id (carries_refl _ _))
    · exact authority_mk id (carries_refl _ _)

theorem authority_execPgCoreLoss : ∀ s, ∃ t, @execPgCoreLoss s = .next t ∧ Carries AuthorityKeeps s t := by
  intro s
  unfold execPgCoreLoss
  refine ⟨_, rfl, ?_⟩
  refine carries_whenS ?_ fun _ => ?_
  · exact carries_refl _ _
  · exact carries_step (authority_sysStart _ _) (carries_refl _ _)

theorem authority_execPor : ∀ x0 x1 s, ∃ t, @execPor x0 x1 s = .next t ∧ Carries AuthorityKeeps s t := by
  intro x0 x1 s
  unfold execPor
  dsimp only
  refine ⟨_, rfl, ?_⟩
  refine carries_step (authority_of_keeps (keeps_beginStart _ _) rfl rfl) ?_
  refine carries_step (authority_of_keeps (keeps_riseIo _ _) rfl rfl) ?_
  exact authority_mk (fun _ => ⟨authorityWithin_default rfl, within_of_none⟩) (carries_refl _ _)

theorem authority_bootRuns : ∀ x0 x1 s, Carries AuthorityKeeps s (@bootRuns x0 x1 s) := by
  intro x0 x1 s
  unfold bootRuns
  dsimp only
  refine carries_step (authority_of_keeps (keeps_readLoad _) rfl rfl) ?_
  refine carries_step (authority_of_keeps (keeps_settleFree _) rfl rfl) ?_
  refine carries_ite ?_ ?_
  · refine carries_step (authority_of_keeps (keeps_startLanes _ _) rfl rfl) ?_
    refine authority_mk (fun h => ⟨h.1, within_of_none⟩) ?_
    exact carries_step (authority_applyImage _ _ _) (carries_refl _ _)
  · refine authority_mk (fun h => ⟨h.1, within_of_none⟩) ?_
    exact carries_step (authority_applyImage _ _ _) (carries_refl _ _)

theorem authority_wakeSucceeds : ∀ s, Carries AuthorityKeeps s (@wakeSucceeds s) := by
  intro s
  unfold wakeSucceeds
  exact carries_step (authority_wakeComplete _) (authority_mk id (carries_refl _ _))

theorem authority_bootImage : ∀ x0 s, Carries AuthorityKeeps s (@bootImage x0 s) := by
  intro x0 s
  unfold bootImage
  dsimp only
  refine carries_ite ?_ ?_
  · exact carries_step (authority_of_keeps (keeps_bootFails _ _ _) rfl rfl) (authority_mk id (carries_refl _ _))
  · refine carries_ite ?_ ?_
    · refine carries_step (authority_wakeSucceeds _) ?_
      refine carries_step (authority_bootRuns _ _ _) ?_
      refine carries_ite ?_ ?_
      · refine carries_step (authority_of_keeps (keeps_raise _ _ _ _) rfl rfl) ?_
        exact authority_mk id (carries_refl _ _)
      · exact authority_mk id (carries_refl _ _)
    · refine carries_step (authority_bootRuns _ _ _) ?_
      refine carries_ite ?_ ?_
      · refine carries_step (authority_of_keeps (keeps_raise _ _ _ _) rfl rfl) ?_
        exact authority_mk id (carries_refl _ _)
      · exact authority_mk id (carries_refl _ _)

theorem authority_execBootImageLoaded : ∀ x0 s,
    ∃ t, @execBootImageLoaded x0 s = .next t ∧ Carries AuthorityKeeps s t := by
  intro x0 s
  unfold execBootImageLoaded
  dsimp only
  refine ⟨_, rfl, ?_⟩
  refine carries_whenS ?_ fun _ => ?_
  · exact carries_refl _ _
  · exact carries_step (authority_bootImage _ _) (carries_refl _ _)

theorem authority_commitNow : ∀ s, Carries AuthorityKeeps s (@commitNow s) := by
  intro s
  unfold commitNow
  split
  · refine carries_ite ?_ ?_
    · exact carries_refl _ _
    · dsimp only
      refine carries_step (authority_of_keeps (keeps_entryCpl _ _ _) rfl rfl) ?_
      refine authority_mk id ?_
      refine carries_ite ?_ ?_
      · refine carries_step (authority_of_keeps (keeps_scramble _ _ _) rfl rfl) ?_
        exact authority_mk (fun h => ⟨h.1, fun v hv => Option.some.inj hv ▸ h.1⟩) (carries_refl _ _)
      · exact authority_mk (fun h => ⟨h.1, within_of_none⟩) (carries_refl _ _)
  · exact carries_refl _ _

theorem authority_commitLow : ∀ s, Carries AuthorityKeeps s (@commitLow s) := by
  intro s
  unfold commitLow
  refine carries_step (authority_commitNow _) ?_
  exact carries_step (authority_of_keeps (keeps_engineStop _) rfl rfl) (carries_refl _ _)

theorem authority_beginWake : ∀ s, Carries AuthorityKeeps s (@beginWake s) := by
  intro s
  unfold beginWake
  dsimp only
  refine carries_whenS ?_ fun _ => ?_
  · refine authority_mk id ?_
    refine carries_step (authority_of_keeps (keeps_beginStart _ _) rfl rfl) ?_
    refine carries_ite ?_ ?_
    · exact carries_refl _ _
    · exact authority_mk (fun h => ⟨h.1, within_of_none⟩) (carries_refl _ _)
  · exact carries_step (authority_of_keeps (keeps_coreGood _) rfl rfl) ‹_›

theorem authority_fireWake : ∀ x0 s, Carries AuthorityKeeps s (@fireWake x0 s) := by
  intro x0 s
  unfold fireWake
  dsimp only
  refine carries_ite ?_ ?_
  · exact carries_refl _ _
  · split
    · refine carries_ite ?_ ?_
      · refine carries_ite ?_ ?_
        · exact authority_mk id (carries_refl _ _)
        · refine carries_step (authority_of_keeps (keeps_abandonEntry _ _) rfl rfl) ?_
          exact authority_mk id (carries_refl _ _)
      · exact carries_refl _ _
    · refine carries_ite ?_ ?_
      · exact authority_mk id (carries_refl _ _)
      · refine carries_ite ?_ ?_
        · exact carries_step (authority_beginWake _) (authority_mk id (carries_refl _ _))
        · exact carries_refl _ _

theorem authority_enterLow : ∀ x0 s, Carries AuthorityKeeps s (@enterLow x0 s) := by
  intro x0 s
  unfold enterLow
  dsimp only
  refine carries_whenS ?_ fun _ => ?_
  · refine authority_mk id ?_
    refine carries_step (authority_of_keeps (keeps_abandonCal _) rfl rfl) ?_
    exact carries_step (authority_of_keeps (keeps_lowRegs _ _) rfl rfl) (carries_refl _ _)
  · exact carries_step (authority_fireWake _ _) ‹_›

/-- The work of a command and what a failing check of its own does. -/
def BodyCarries (P : State → Prop) (b : Body) : Prop :=
  (∀ c s, Carries P s (b.run c s)) ∧ ∀ c st s, Carries P s (b.fail c st s)

theorem authority_of_bodyKeeps {l : List Zone} {b : Body} (k : BodyKeeps l b) (ha : l.contains .auth = false)
    (hs : l.contains .saved = false) : BodyCarries AuthorityKeeps b :=
  ⟨fun c s => authority_of_keeps (k.1 c s) ha hs, fun c st s => authority_of_keeps (k.2 c st s) ha hs⟩

theorem authority_execute {b : Body} {c : Cmd} {s : State} (hb : BodyCarries AuthorityKeeps b) :
    Carries AuthorityKeeps s (execute b c s) := by
  have hdigest : Carries AuthorityKeeps s (foldDigest c s) := authority_of_keeps (keeps_foldDigest _ _) rfl rfl
  unfold execute
  split
  · refine carries_step (authority_of_keeps (keeps_complete _ _ _ _ _) rfl rfl) ?_
    exact carries_ite (authority_of_keeps (keeps_noteDenied _ _) rfl rfl) (carries_refl _ _)
  · split
    · refine carries_step (authority_of_keeps (keeps_complete _ _ _ _ _) rfl rfl) ?_
      exact carries_step (hb.2 _ _ _) (carries_ite hdigest (carries_refl _ _))
    · exact carries_step (hb.1 _ _) hdigest

theorem authority_startCmd {b : Body} {src : Src} {arr : Nat} {d : Desc} {s : State}
    (hb : BodyCarries AuthorityKeeps b) : Carries AuthorityKeeps s (startCmd b src arr d s) :=
  carries_step (authority_execute hb) (authority_mk id (carries_refl _ _))

theorem authority_runRow {op : Nat} {b : Body} {src : Src} {d : Desc} {s : State}
    (hb : BodyCarries AuthorityKeeps b) : Carries AuthorityKeeps s (runRow op b src d s) :=
  carries_ite (authority_startCmd hb) (carries_refl _ _)

theorem authority_powerBody : BodyCarries AuthorityKeeps powerBody := by
  refine ⟨fun c s => ?_, fun c st s => ?_⟩
  · unfold powerBody
    dsimp only
    refine carries_ite ?_ ?_
    · exact carries_step (authority_of_keeps (keeps_askDim _ _) rfl rfl) (carries_refl _ _)
    · exact carries_step (authority_enterLow _ _) (carries_refl _ _)
  · unfold powerBody
    dsimp only
    exact carries_refl _ _

theorem authority_execPowerRequest : ∀ x0 x1 s,
    ∃ t, @execPowerRequest x0 x1 s = .next t ∧ Carries AuthorityKeeps s t := by
  intro x0 x1 s
  unfold execPowerRequest
  refine ⟨_, rfl, ?_⟩
  exact authority_runRow authority_powerBody

theorem authority_powerDown : ∀ x0 s, Carries AuthorityKeeps s (@powerDown x0 s) := by
  intro x0 s
  unfold powerDown
  dsimp only
  refine carries_ite ?_ ?_
  · refine carries_step (authority_beginWake _) ?_
    refine authority_mk id ?_
    refine carries_step (authority_of_keeps (keeps_domainsReset _ _) rfl rfl) ?_
    refine carries_ite ?_ ?_
    · exact carries_step (authority_of_keeps (keeps_measureTrim _) rfl rfl) (carries_refl _ _)
    · exact carries_refl _ _
  · refine authority_mk id ?_
    refine carries_step (authority_of_keeps (keeps_domainsReset _ _) rfl rfl) ?_
    refine carries_ite ?_ ?_
    · exact carries_step (authority_of_keeps (keeps_measureTrim _) rfl rfl) (carries_refl _ _)
    · exact carries_refl _ _

theorem authority_execLowPowerPowerdown : ∀ s,
    ∃ t, @execLowPowerPowerdown s = .next t ∧ Carries AuthorityKeeps s t := by
  intro s
  unfold execLowPowerPowerdown
  dsimp only
  refine ⟨_, rfl, ?_⟩
  split
  · refine carries_ite ?_ ?_
    · exact carries_step (authority_powerDown _ _) (carries_step (authority_commitLow _) (carries_refl _ _))
    · exact carries_step (authority_commitLow _) (carries_refl _ _)
  · exact carries_step (authority_commitLow _) (carries_refl _ _)

theorem authority_execWakePinEvent : ∀ x0 s,
    ∃ t, @execWakePinEvent x0 s = .next t ∧ Carries AuthorityKeeps s t := by
  intro x0 s
  unfold execWakePinEvent
  refine ⟨_, rfl, ?_⟩
  refine carries_whenS ?_ fun _ => ?_
  · exact authority_mk id (carries_refl _ _)
  · exact carries_step (authority_fireWake _ _) ‹_›

theorem authority_execWakeSafeInEvent : ∀ s,
    ∃ t, @execWakeSafeInEvent s = .next t ∧ Carries AuthorityKeeps s t := by
  intro s
  unfold execWakeSafeInEvent
  refine ⟨_, rfl, ?_⟩
  exact carries_step (authority_fireWake _ _) (carries_refl _ _)

theorem authority_execWakePcieSquelch : ∀ s,
    ∃ t, @execWakePcieSquelch s = .next t ∧ Carries AuthorityKeeps s t := by
  intro s
  unfold execWakePcieSquelch
  refine ⟨_, rfl, ?_⟩
  exact carries_step (authority_fireWake _ _) (carries_refl _ _)

theorem authority_nightVisit : ∀ x0 x1 s, Carries AuthorityKeeps s (@nightVisit x0 x1 s) := by
  intro x0 x1 s
  unfold nightVisit
  dsimp only
  refine carries_ite ?_ ?_
  · exact carries_step (authority_fireWake _ _) (authority_mk id (carries_refl _ _))
  · exact authority_mk id (carries_refl _ _)

theorem authority_execNightwatchVisit : ∀ x0 x1 x2 s,
    ∃ t, @execNightwatchVisit x0 x1 x2 s = .next t ∧ Carries AuthorityKeeps s t := by
  intro x0 x1 x2 s
  unfold execNightwatchVisit
  refine ⟨_, rfl, ?_⟩
  refine carries_whenS ?_ fun _ => ?_
  · exact carries_refl _ _
  · exact carries_step (authority_nightVisit _ _ _) (carries_refl _ _)

theorem authority_wakeTimeout : ∀ x0 x1 s, Carries AuthorityKeeps s (@wakeTimeout x0 x1 s) := by
  intro x0 x1 s
  unfold wakeTimeout
  dsimp only
  refine carries_ite ?_ ?_
  · refine authority_mk (fun h => ⟨h.1, within_of_none⟩) ?_
    exact carries_step (authority_of_keeps (keeps_allDown _) rfl rfl) (carries_refl _ _)
  · exact authority_mk id (carries_step (authority_of_keeps (keeps_allDown _) rfl rfl) (carries_refl _ _))

theorem authority_execWakeStepTimeout : ∀ x0 s,
    ∃ t, @execWakeStepTimeout x0 s = .next t ∧ Carries AuthorityKeeps s t := by
  intro x0 s
  unfold execWakeStepTimeout
  refine ⟨_, rfl, ?_⟩
  split
  · refine carries_ite ?_ ?_
    · exact carries_refl _ _
    · exact carries_step (authority_wakeTimeout _ _ _) (carries_refl _ _)
  · exact carries_refl _ _

theorem authority_execWakeRetry : ∀ s, ∃ t, @execWakeRetry s = .next t ∧ Carries AuthorityKeeps s t := by
  intro s
  unfold execWakeRetry
  refine ⟨_, rfl, ?_⟩
  split
  · refine carries_ite ?_ ?_
    · exact carries_refl _ _
    · dsimp only
      refine authority_mk id ?_
      refine carries_ite ?_ ?_
      · exact carries_step (authority_beginWake _) (authority_mk id (carries_refl _ _))
      · exact carries_step (authority_of_keeps (keeps_beginStart _ _) rfl rfl) (carries_refl _ _)
  · exact carries_refl _ _

theorem authority_restoreImage {v : Saved} {s : State} (hv : AuthorityKeeps s → AuthorityWithin v.hif) :
    Carries AuthorityKeeps s (restoreImage v s) :=
  fun h => ⟨hv h, within_of_none⟩

theorem authority_imageFails : ∀ s, Carries AuthorityKeeps s (@imageFails s) := by
  intro s
  unfold imageFails
  dsimp only
  refine carries_step (authority_of_keeps (keeps_emitAll _ _) rfl rfl) ?_
  refine carries_step (authority_of_keeps (keeps_lanesOff _) rfl rfl) ?_
  refine carries_step (authority_of_keeps (keeps_raise _ _ _ _) rfl rfl) ?_
  exact authority_mk (fun h => ⟨h.1, within_of_none⟩) (carries_refl _ _)

theorem authority_execWakeImageRestore : ∀ x0 s,
    ∃ t, @execWakeImageRestore x0 s = .next t ∧ Carries AuthorityKeeps s t := by
  intro x0 s
  have hread : Carries AuthorityKeeps s (readImage x0 s).2 := authority_of_keeps (keeps_readImage _ _) rfl rfl
  have hsaved : (readImage x0 s).2.saved = s.saved := keeps_readImage x0 s .saved (by decide)
  unfold execWakeImageRestore
  dsimp only
  refine ⟨_, rfl, carries_whenS (carries_refl _ _) fun _ => ?_⟩
  split
  · next v hv =>
    refine carries_ite ?_ (carries_step (authority_imageFails _) hread)
    refine carries_step (authority_wakeSucceeds _) (carries_step (authority_restoreImage fun h => ?_) hread)
    exact h.2 v (hsaved.trans hv)
  · exact carries_step (authority_imageFails _) hread

theorem authority_alarmFires : ∀ x0 s, Carries AuthorityKeeps s (@alarmFires x0 s) := by
  intro x0 s
  unfold alarmFires
  dsimp only
  refine carries_step (authority_fireWake _ _) ?_
  exact carries_step (authority_of_keeps (keeps_belSignal _ _) rfl rfl) (authority_mk id (carries_refl _ _))

theorem authority_execAlarmFire : ∀ x0 s, ∃ t, @execAlarmFire x0 s = .next t ∧ Carries AuthorityKeeps s t := by
  intro x0 s
  unfold execAlarmFire
  dsimp only
  refine ⟨_, rfl, ?_⟩
  refine carries_whenS ?_ fun _ => ?_
  · exact carries_refl _ _
  · exact carries_step (authority_alarmFires _ _) (carries_refl _ _)

theorem authority_execI2cTransaction : ∀ x0 s,
    ∃ t, @execI2cTransaction x0 s = .next t ∧ Carries AuthorityKeeps s t := by
  intro x0 s
  unfold execI2cTransaction
  refine ⟨_, rfl, ?_⟩
  refine carries_whenS ?_ fun _ => ?_
  · exact carries_refl _ _
  · dsimp only
    refine carries_ite ?_ ?_
    · refine carries_step (authority_fireWake _ _) ?_
      exact carries_step (authority_of_keeps (keeps_i2cServe _ _) rfl rfl) (carries_refl _ _)
    · exact carries_step (authority_of_keeps (keeps_i2cServe _ _) rfl rfl) (carries_refl _ _)

theorem authority_i2cLow : ∀ x0 s, Carries AuthorityKeeps s (@i2cLow x0 s) := by
  intro x0 s
  unfold i2cLow
  split
  · exact carries_refl _ _
  · split
    · dsimp only
      refine carries_ite ?_ ?_
      · exact carries_step (authority_of_keeps (keeps_emit _ _) rfl rfl) (authority_mk id (carries_refl _ _))
      · refine carries_step (authority_fireWake _ _) ?_
        exact carries_step (authority_of_keeps (keeps_emit _ _) rfl rfl) (authority_mk id (carries_refl _ _))
    · refine carries_step (authority_fireWake _ _) ?_
      exact carries_step (authority_of_keeps (keeps_emit _ _) rfl rfl) (carries_refl _ _)
  · split
    · dsimp only
      refine carries_step (authority_of_keeps (keeps_emit _ _) rfl rfl) ?_
      exact carries_step (authority_of_keeps (keeps_i2cLowRead _ _ _ _) rfl rfl) (carries_refl _ _)
    · refine carries_step (authority_fireWake _ _) ?_
      exact carries_step (authority_of_keeps (keeps_emit _ _) rfl rfl) (carries_refl _ _)

theorem authority_execI2cLowPowerTransaction : ∀ x0 s,
    ∃ t, @execI2cLowPowerTransaction x0 s = .next t ∧ Carries AuthorityKeeps s t := by
  intro x0 s
  unfold execI2cLowPowerTransaction
  refine ⟨_, rfl, ?_⟩
  refine carries_whenS ?_ fun _ => ?_
  · exact carries_refl _ _
  · exact carries_step (authority_i2cLow _ _) (carries_refl _ _)

theorem authority_bodyOf {op : Nat} {b : Body} (h : bodyOf op = some b) : BodyCarries AuthorityKeeps b := by
  unfold bodyOf at h
  split at h <;> cases h
  · exact authority_of_bodyKeeps keeps_nopBody rfl rfl
  · exact authority_of_bodyKeeps keeps_layerSetBody rfl rfl
  · exact authority_of_bodyKeeps keeps_presentBody rfl rfl
  · exact authority_of_bodyKeeps keeps_maskBody rfl rfl
  · exact authority_of_bodyKeeps keeps_symbolBody rfl rfl
  · exact authority_of_bodyKeeps keeps_coefBody rfl rfl
  · exact authority_of_bodyKeeps keeps_timingBody rfl rfl
  · exact authority_of_bodyKeeps keeps_tileMapBody rfl rfl
  · exact authority_of_bodyKeeps keeps_calLoadBody rfl rfl
  · exact authority_of_bodyKeeps keeps_fadeBody rfl rfl
  · exact authority_of_bodyKeeps keeps_budgetBody rfl rfl
  · exact authority_of_bodyKeeps keeps_telemetryBody rfl rfl
  · exact authority_of_bodyKeeps keeps_healthBody rfl rfl
  · exact authority_of_bodyKeeps keeps_railBody rfl rfl
  · exact authority_powerBody
  · exact authority_of_bodyKeeps keeps_thermalBody rfl rfl
  · exact authority_of_bodyKeeps keeps_calRunBody rfl rfl
  · exact authority_of_bodyKeeps keeps_scheduleBody rfl rfl
  · exact authority_of_bodyKeeps keeps_timeSetBody rfl rfl
  · exact authority_of_bodyKeeps keeps_pulseBody rfl rfl
  · exact authority_of_bodyKeeps keeps_safetyBody rfl rfl
  · exact authority_of_bodyKeeps keeps_safeTestBody rfl rfl
  · exact authority_of_bodyKeeps keeps_fwStageBody rfl rfl
  · exact authority_of_bodyKeeps keeps_fwActivateBody rfl rfl
  · exact authority_of_bodyKeeps keeps_auxWriteBody rfl rfl
  · exact authority_of_bodyKeeps keeps_faultAckBody rfl rfl
  · exact authority_of_bodyKeeps keeps_faultReadBody rfl rfl
  · exact authority_of_bodyKeeps keeps_injectBody rfl rfl
  · exact authority_of_bodyKeeps keeps_testRunBody rfl rfl
  · exact authority_of_bodyKeeps keeps_marchBody rfl rfl
  · exact authority_of_bodyKeeps keeps_yokeSwitchBody rfl rfl

theorem authority_startDesc : ∀ x0 x1 x2 s, Carries AuthorityKeeps s (@startDesc x0 x1 x2 s) := by
  intro x0 x1 x2 s
  unfold startDesc
  refine authority_startCmd ?_
  cases h : bodyOf (Desc.f x2 0 0 8) with
  | none => exact authority_of_bodyKeeps keeps_nopBody rfl rfl
  | some b => exact authority_bodyOf h

theorem authority_startRing : ∀ x0 s, Carries AuthorityKeeps s (@startRing x0 s) := by
  intro x0 s
  unfold startRing
  split
  · exact carries_refl _ _
  · dsimp only
    refine carries_step (authority_startDesc _ _ _ _) ?_
    refine carries_step (authority_of_keeps (keeps_requestEntries _ _) rfl rfl) ?_
    refine carries_step (authority_of_keeps (keeps_flushDead _ _ _) rfl rfl) ?_
    exact carries_step (authority_of_keeps (keeps_modSq _ _ _) rfl rfl) (authority_mk id (carries_refl _ _))

theorem authority_startEth : ∀ x0 s, Carries AuthorityKeeps s (@startEth x0 s) := by
  intro x0 s
  unfold startEth
  split
  · exact carries_refl _ _
  · dsimp only
    refine carries_step (authority_of_keeps (keeps_drainQueue _ _) rfl rfl) ?_
    refine carries_step (authority_startDesc _ _ _ _) ?_
    exact carries_step (authority_of_keeps (keeps_modEth _ _ _) rfl rfl) (carries_refl _ _)

theorem authority_startNext : ∀ s, Carries AuthorityKeeps s (@startNext s) := by
  intro s
  unfold startNext
  split
  · exact carries_refl _ _
  · dsimp only
    split
    · split
      · exact carries_step (authority_startRing _ _) (authority_mk id (carries_refl _ _))
      · exact authority_mk id (carries_refl _ _)
    · exact carries_step (authority_startEth _ _) (authority_mk id (carries_refl _ _))
    · exact carries_step (authority_startEth _ _) (authority_mk id (carries_refl _ _))
    · exact carries_step (authority_startDesc _ _ _ _) (authority_mk id (carries_refl _ _))

theorem authority_execCommandStart : ∀ s, ∃ t, @execCommandStart s = .next t ∧ Carries AuthorityKeeps s t := by
  intro s
  unfold execCommandStart
  refine ⟨_, rfl, ?_⟩
  refine carries_step (authority_startNext _) ?_
  exact carries_step (authority_of_keeps (keeps_advanceStart _) rfl rfl) (carries_refl _ _)

theorem authority_startStartup : ∀ s, Carries AuthorityKeeps s (@startStartup s) := by
  intro s
  unfold startStartup
  split
  · exact carries_refl _ _
  · dsimp only
    split
    · exact carries_step (authority_of_keeps (keeps_advanceStart _) rfl rfl) (carries_refl _ _)
    · refine carries_ite ?_ ?_
      · exact carries_step (authority_startDesc _ _ _ _) (authority_mk id (carries_refl _ _))
      · exact carries_refl _ _

theorem authority_execStartupCommand : ∀ s,
    ∃ t, @execStartupCommand s = .next t ∧ Carries AuthorityKeeps s t := by
  intro s
  unfold execStartupCommand
  refine ⟨_, rfl, ?_⟩
  exact carries_step (authority_startStartup _) (carries_refl _ _)

theorem authority_idle : ∀ s, Carries AuthorityKeeps s (@idle s) := by
  intro s
  unfold idle
  dsimp only
  refine carries_step (authority_commitLow _) ?_
  refine carries_whenS ?_ fun _ => ?_
  · refine carries_whenS ?_ fun _ => ?_
    · refine carries_step (authority_of_keeps (keeps_advanceStart _) rfl rfl) ?_
      refine carries_step (authority_of_keeps (keeps_idlePhaseA _) rfl rfl) ?_
      refine carries_step (authority_of_keeps (keeps_hostConfigures _) rfl rfl) ?_
      refine carries_step (authority_of_keeps (keeps_idleKernels _) rfl rfl) ?_
      refine carries_step (authority_of_keeps (keeps_repeatOverride _) rfl rfl) ?_
      refine carries_step (authority_of_keeps (keeps_idleLanes _) rfl rfl) ?_
      refine carries_step (authority_of_keeps (keeps_beginTest _) rfl rfl) ?_
      refine carries_step (authority_of_keeps (keeps_idleLine _) rfl rfl) ?_
      exact carries_step (authority_of_keeps (keeps_idleClock _) rfl rfl) (carries_refl _ _)
    · exact carries_step (authority_of_keeps (keeps_drainLog _) rfl rfl) ‹_›
  · exact carries_step (authority_fireWake _ _) ‹_›

/-- Every command keeps the authority masks within their IMAGE_CLASS. -/
theorem authority_exec (c : Instr) (s : State) : Answers (exec c s) (Carries AuthorityKeeps s) := by
  by_cases hparts : (touches c).contains .auth = false ∧ (touches c).contains .saved = false
  · obtain ⟨t, hexec, hkeeps⟩ := keeps_exec c s
    exact ⟨t, hexec, authority_of_keeps hkeeps hparts.1 hparts.2⟩
  · cases c
    case por yokePri addr => exact authority_execPor yokePri addr s
    case sysReset => exact authority_execSysReset s
    case pgCoreLoss => exact authority_execPgCoreLoss s
    case testenChange high => exact authority_execTestenChange high s
    case registerWrite off value => exact authority_execRegisterWrite off value s
    case hifAuthWrite port value => exact authority_execHifAuthWrite port value s
    case commandStart => exact authority_execCommandStart s
    case powerRequest src d => exact authority_execPowerRequest src d s
    case lowPowerPowerdown => exact authority_execLowPowerPowerdown s
    case alarmFire a => exact authority_execAlarmFire a s
    case wakePinEvent high => exact authority_execWakePinEvent high s
    case wakeSafeInEvent => exact authority_execWakeSafeInEvent s
    case wakePcieSquelch => exact authority_execWakePcieSquelch s
    case i2cTransaction x => exact authority_execI2cTransaction x s
    case i2cLowPowerTransaction x => exact authority_execI2cLowPowerTransaction x s
    case nightwatchVisit ambient die remote => exact authority_execNightwatchVisit ambient die remote s
    case wakeImageRestore good => exact authority_execWakeImageRestore good s
    case wakeStepTimeout step => exact authority_execWakeStepTimeout step s
    case wakeRetry => exact authority_execWakeRetry s
    case bootImageLoaded img => exact authority_execBootImageLoaded img s
    case startupCommand => exact authority_execStartupCommand s
    case jtagInstructionUpdate num => exact authority_execJtagInstructionUpdate num s
    all_goals exact absurd ⟨rfl, rfl⟩ hparts

/-- Settles O7: idle time and every command carry the bounds of the masks. -/
theorem authorityStaysWithin : Obligations.AuthorityStaysWithin := by
  intro s t hwithin hstep
  cases hpending : s.pending with
  | nil =>
    simp only [step, hpending] at hstep
    obtain rfl := Host.Outcome.next.inj hstep
    exact authority_idle s hwithin
  | cons c rest =>
    simp only [step, hpending] at hstep
    obtain ⟨u, hexec, hcarries⟩ := authority_exec c { s with pending := rest }
    obtain rfl := Host.Outcome.next.inj (hexec.symm.trans hstep)
    exact hcarries hwithin

end Sys2Proof.Proofs
end

section
/-!
SUPPORT. A step on an empty queue and on one that is not, what reset leaves, and what ending a command's own work
does.
-/

namespace Sys2Proof.Proofs

set_option Elab.async false

open Sys2Proof Sys2Proof.Machine Sys2Proof.Safety Sys2Proof.Laws

/-- The host interface is one part with its masks. -/
theorem hif_of_keeps {l : List Zone} {s t : State} (k : Keeps l s t) (hh : Zone.hif ∉ l) (ha : Zone.auth ∉ l) :
    t.hif = s.hif := by
  have hhif : ({ t.hif with auth := s.hif.auth } : Hif) = s.hif := k .hif hh
  exact (congrArg (fun a => ({ t.hif with auth := a } : Hif)) (k .auth ha)).trans hhif

/-- The Granary is one part with its bytes. -/
theorem grn_of_keeps {l : List Zone} {s t : State} (k : Keeps l s t) (hg : Zone.grn ∉ l) (hm : Zone.mem ∉ l) :
    t.grn = s.grn := by
  have hgrn : ({ t.grn with mem := s.grn.mem } : Granary) = s.grn := k .grn hg
  exact (congrArg (fun m => ({ t.grn with mem := m } : Granary)) (k .mem hm)).trans hgrn

theorem step_of_nil {s : State} (h : s.pending = []) : step s = .next (idle s) := by
  simp only [step, h]

theorem step_of_idle {s t : State} (h : s.pending = []) (hidle : idle s = t) : step s = .next t := by
  rw [step_of_nil h, hidle]

/-- Settles O1: the step's own equation. -/
theorem stepRunsFront : Obligations.StepRunsFront := by
  intro c rest s h
  simp only [step, h]

/-- Settles O3: the fields of `State.reset`, the tables index by index. -/
theorem resetValues : Obligations.ResetValues := by
  refine ⟨rfl, rfl, rfl, fun n => ?_, rfl, rfl, rfl, rfl, rfl, rfl, fun n => ?_, fun k => ?_, rfl, rfl, rfl, rfl,
    fun p => ?_, rfl, rfl⟩
  · fin_cases n <;> exact ⟨rfl, rfl, rfl, rfl⟩
  · fin_cases n <;> rfl
  · fin_cases k <;> exact ⟨rfl, rfl⟩
  · fin_cases p <;> rfl

/-- Settles O4: reset lists no byte and leaves the default masks and no wake image. -/
theorem resetInvariants : Obligations.ResetInvariants :=
  ⟨wf_reset, authorityWithin_default rfl, within_of_none⟩

theorem finish_of_waits {c : Cmd} {st : BitVec 16} {r : Result} {s : State}
    (h : c.commit = true) (hst : st = stSuccess ∨ st = stLate) :
    finish c st r s = { issueCommit s with
      lpl.waits := (issueCommit s).lpl.waits ++ [⟨c, (issueCommit s).yok.own.commits, st, r⟩] } := by
  have hguard : (c.commit && (st == stSuccess || st == stLate)) = true := by simpa [h] using hst
  rw [finish, if_pos hguard]

theorem finish_of_not_waits {c : Cmd} {st : BitVec 16} {r : Result} {s : State}
    (h : c.commit = false ∨ (st ≠ stSuccess ∧ st ≠ stLate)) : finish c st r s = complete c st 0 r s := by
  have hguard : ¬ (c.commit && (st == stSuccess || st == stLate)) = true := by
    obtain h | ⟨h, k⟩ := h <;> simp_all
  rw [finish, if_neg hguard]

/-- Settles O58: `finish` issues the commit or completes. -/
theorem commitWaits : Obligations.CommitWaits := by
  refine ⟨fun c st r s hcommit hst => ?_, fun c st r s h => finish_of_not_waits h⟩
  rw [finish_of_waits hcommit hst]
  exact ⟨rfl, rfl, rfl, rfl, rfl, keeps_mk (keeps_mono (keeps_issueCommit s) rfl)⟩

/-! Idle time with nothing under way. -/

theorem finishKernels_of_nil {s : State} (h : s.kernels = []) : finishKernels s = s := by
  show List.foldl _ { s with kernels := [] } s.kernels = s
  rw [h, List.foldl_nil]
  rw [← h]

theorem engineStop_of_none {s : State} (h : s.pwr.entry = none) : engineStop s = s := by
  simp only [engineStop, h]

theorem commitNow_of_none {s : State} (h : s.pwr.entry = none) : commitNow s = s := by
  simp only [commitNow, h]

theorem commitLow_of_none {s : State} (h : s.pwr.entry = none) : commitLow s = s := by
  rw [commitLow, engineStop_of_none h, commitNow_of_none h]

theorem advanceStart_of_none {s : State} (h : s.pwr.start = none) : advanceStart s = s := by
  simp only [advanceStart, h]

theorem idlePhaseA_of_none {s : State} (h : s.pwr.start = none) : idlePhaseA s = s := by
  simp only [idlePhaseA, h]

theorem beginTest_of_none {s : State} (h : s.hdg.test = none) : beginTest s = s := by
  simp only [beginTest, h]

theorem drainLog_of_nil {s : State} (h : s.rve.queue = []) : drainLog s = s := by
  unfold drainLog
  induction List.range 64 with
  | nil => rfl
  | cons k l ih =>
    rw [List.foldl_cons]
    simpa only [h] using ih

theorem idleClock_eq (s : State) : idleClock s = { s with
    now := s.now + if s.bel.sleepClock then 40 else 4
    bel := if s.bel.powered && (s.pwr.pllEth || s.bel.sleepClock) then s.bel.tick else s.bel } := by
  unfold idleClock
  dsimp only
  split <;> rfl

/-- Idle time with no start, entry, load, test or log entry waiting: the clock, the line, the lanes and the host. -/
theorem idle_of_quiet {s : State} (hstart : s.pwr.start = none) (hentry : s.pwr.entry = none)
    (hkernels : s.kernels = []) (htest : s.hdg.test = none) (hwake : s.pwr.wakeHigh = false)
    (hqueue : s.rve.queue = []) :
    idle s = hostConfigures (repeatOverride (idleLanes (idleLine (idleClock s)))) := by
  have hline := keeps_step (keeps_idleLine _) (l := [.now, .free, .bel, .yok]) rfl
    (keeps_mono (keeps_idleClock s) rfl)
  have hrest := keeps_step (keeps_repeatOverride _) (l := [.now, .free, .out, .bel, .link, .yok]) rfl
    (keeps_step (keeps_idleLanes _) rfl (keeps_mono hline rfl))
  have hall := keeps_step (keeps_hostConfigures _) (l := [.now, .free, .out, .hif, .bel, .link, .yok]) rfl
    (keeps_mono hrest rfl)
  have hpwr := hall .pwr (by decide)
  have hrve := hall .rve (by decide)
  simp only [same] at hpwr hrve
  rw [idle, beginTest_of_none ((congrArg Hedge.test (hline .hdg (by decide))).trans htest)]
  have hker : idleKernels (repeatOverride (idleLanes (idleLine (idleClock s)))) =
      repeatOverride (idleLanes (idleLine (idleClock s))) := by
    rw [idleKernels, finishKernels_of_nil ((hrest .kernels (by decide)).trans hkernels), ite_self]
  rw [hker]
  have hquiet := (congrArg Power.start hpwr).trans hstart
  have hdrain (t : State) (h : t.rve.queue = []) : whenS t.pwr.core drainLog t = t := by
    rw [whenS, drainLog_of_nil h, ite_self]
  rw [idlePhaseA_of_none hquiet, advanceStart_of_none hquiet,
    hdrain _ ((congrArg Reeve.queue hrve).trans hqueue),
    whenS_false ((congrArg Power.wakeHigh hpwr).trans hwake),
    commitLow_of_none ((congrArg Power.entry hpwr).trans hentry)]

/-- Both ring tables of the host interface. -/
def rings (s : State) : Tab SqRing 16 × Tab CqRing 16 := (s.hif.sq, s.hif.cq)

theorem rings_sendPending (s : State) : rings (sendPending s) = rings s := by
  suffices h : ∀ (l : List Nat) (t : State), rings t = rings s → rings (l.foldl (fun s v =>
      if bitOf s.hif.msix.pending v && vectorOpen v s then
        emit (msixMsg v s) { s with hif.msix.pending := s.hif.msix.pending &&& ~~~(BitVec.ofNat 32 (2 ^ v)) }
      else s) t) = rings s from h _ s rfl
  intro l
  induction l with
  | nil => exact fun _ ht => ht
  | cons v l ih =>
    refine fun t ht => ih _ ?_
    dsimp only
    split <;> exact ht

theorem rings_hostConfigures (s : State) : rings (hostConfigures s) = rings s := by
  unfold hostConfigures
  split
  · rfl
  · dsimp only
    split
    · rw [rings_sendPending]
      rfl
    · rfl

theorem idleLine_of_alone {s : State} (h : yoked s = false) : idleLine s = s := by
  rw [idleLine, if_pos (by simp [h])]

theorem hostConfigures_of_linkDown {s : State} (h : s.hif.linkUp = false) : hostConfigures s = s := by
  rw [hostConfigures, if_pos (by simp [h])]

theorem laneIdle_of_idle {s : State} {n : Fin 25} (h : laneFill n s = none) : laneIdle s n = s := by
  simp only [laneIdle, h]

theorem idleLanes_of_idle {s : State} (h : ∀ n : Fin 25, laneFill n s = none) : idleLanes s = s := by
  unfold idleLanes
  induction List.finRange 25 with
  | nil => rfl
  | cons n l ih => rw [List.foldl_cons, laneIdle_of_idle (h n), ite_self, ih]

theorem repeatOverride_of_early {s : State} (h : s.now < s.link.overrideAt + 10000) : repeatOverride s = s := by
  rw [repeatOverride, if_neg (by omega)]

/-- Settles O2: idle time is the clock, the line, the lanes and the host; with all of these at rest, the clock. -/
theorem stepIdles : Obligations.StepIdles := by
  refine ⟨?_, ?_⟩
  · intro s hpending hstart hentry hkernels htest hwake hqueue
    have hline := keeps_idleLine (idleClock s)
    have hlanes := keeps_step (keeps_repeatOverride _) (l := [.free, .out, .link, .yok]) rfl
      (keeps_step (keeps_idleLanes _) rfl (keeps_mono hline rfl))
    have hhost := keeps_hostConfigures (repeatOverride (idleLanes (idleLine (idleClock s))))
    have hrings : rings (hostConfigures (repeatOverride (idleLanes (idleLine (idleClock s))))) = rings s := by
      have hhif := hif_of_keeps hlanes (by decide) (by decide)
      rw [rings_hostConfigures, rings, hhif, idleClock_eq]
      rfl
    refine ⟨_, step_of_idle hpending (idle_of_quiet hstart hentry hkernels htest hwake hqueue), ?_⟩
    refine ⟨?_, ?_, (Prod.mk.inj hrings).1, (Prod.mk.inj hrings).2, ?_⟩
    · rw [hhost .now (by decide), hlanes .now (by decide), idleClock_eq]
    · rw [hhost .bel (by decide), hlanes .bel (by decide), idleClock_eq]
    · exact keeps_step hhost rfl (keeps_step hlanes rfl (keeps_mono (keeps_idleClock s) rfl))
  · intro s hpending hstart hentry hkernels htest hwake hqueue hfill hearly halone hdown
    have hidle : idle s = idleClock s := by
      rw [idle_of_quiet hstart hentry hkernels htest hwake hqueue, idleClock_eq,
        idleLine_of_alone (by exact halone), idleLanes_of_idle (by exact hfill),
        repeatOverride_of_early (by exact hearly), hostConfigures_of_linkDown (by exact hdown)]
    exact ⟨idleClock s, step_of_idle hpending hidle, keeps_idleClock s⟩

/-! Network time over one cycle. -/

/-- A quotient rounded to 2^32 is within one half of it. -/
theorem roundEven_bounds (x : Int) :
    2 * x - 2 ^ 32 ≤ 2 ^ 33 * roundEven x (2 ^ 32) ∧ 2 ^ 33 * roundEven x (2 ^ 32) ≤ 2 * x + 2 ^ 32 := by
  simp only [roundEven, Nat.cast_ofNat, Int.reducePow, Nat.reducePow]
  split_ifs <;> omega

/-- The rate the counter runs at. -/
def rateInUse (b : Bell) : Int := if b.sleepClock then b.rate + b.sleepTrim else b.rate

theorem time_eq (b : Bell) : b.time = b.offset + b.frc +
    roundEven (rateInUse b * (((b.frc : Int) - b.frcRef) % 2 ^ 64)) (2 ^ 32) := rfl

theorem rateInUse_tick (b : Bell) : rateInUse b.tick = rateInUse b := by
  unfold Bell.tick
  split <;> simp only [rateInUse]

/-- A cycle adds its length to the time before scaling, whether or not the counter wraps. -/
theorem tick_sum (b : Bell) :
    b.tick.offset + b.tick.frc = b.offset + b.frc + b.cycle ∧
    ((b.tick.frc : Int) - b.tick.frcRef) % 2 ^ 64 = (((b.frc : Int) - b.frcRef) % 2 ^ 64 + b.cycle) % 2 ^ 64 := by
  have hcycle : b.cycle ≤ 2621440 := by
    unfold Bell.cycle
    split <;> omega
  unfold Bell.tick
  split
  · refine ⟨?_, ?_⟩
    · push_cast; ring
    · push_cast; rw [Int.emod_add_emod]; congr 1; ring
  · refine ⟨?_, ?_⟩
    · rw [Nat.cast_sub (by omega)]; push_cast; ring
    · rw [Nat.cast_sub (by omega)]; push_cast; omega

theorem time_lt_tick {b : Bell} (hrate : -(2 ^ 31 : Int) ≤ rateInUse b)
    (hnear : ((b.frc : Int) - b.frcRef) % (2 ^ 64 : Int) + b.cycle < 2 ^ 64) : b.time < b.tick.time := by
  obtain ⟨hsum, hdist⟩ := tick_sum b
  have hpos := Int.emod_nonneg ((b.frc : Int) - b.frcRef) (show (2 : Int) ^ 64 ≠ 0 by norm_num)
  rw [Int.emod_eq_of_lt (by omega) hnear] at hdist
  rw [time_eq, time_eq, rateInUse_tick, hsum, hdist, mul_add]
  have hbefore := roundEven_bounds (rateInUse b * (((b.frc : Int) - b.frcRef) % 2 ^ 64))
  have hafter := roundEven_bounds
    (rateInUse b * (((b.frc : Int) - b.frcRef) % 2 ^ 64) + rateInUse b * b.cycle)
  have hstep : -(2 ^ 31 : Int) * b.cycle ≤ rateInUse b * b.cycle :=
    mul_le_mul_of_nonneg_right hrate (Int.natCast_nonneg _)
  have hcycle : 262144 ≤ b.cycle := by
    unfold Bell.cycle
    split <;> omega
  norm_num only at hbefore hafter hstep ⊢
  omega

/-! What idle time does beside the clock leaves the Bellhouse as it is while that is powered. -/

theorem coreOut_bel {s : State} (h : s.bel.powered = true) : (coreOut s).bel = s.bel := by
  unfold coreOut
  split
  · dsimp only
    split
    · split
      · rw [keeps_emitAll _ _ .bel (by decide)]
      · rfl
    · rfl
  · rfl

theorem coreGood_bel {s : State} (h : s.bel.powered = true) : (coreGood s).bel = s.bel := by
  unfold coreGood
  split
  · split
    · rfl
    · have hio (t : State) (k : StartKind) : (wakeIo k t).bel = t.bel := keeps_wakeIo k t .bel (by decide)
      rw [keeps_raiseWake _ .bel (by decide), coreOut_bel (by rw [hio]; exact h), hio]
  · rfl

theorem beginWake_bel {s : State} (h : s.bel.powered = true) : (beginWake s).bel = s.bel := by
  have hstart (t : State) (k : StartKind) : (beginStart k t).bel = t.bel := keeps_beginStart k t .bel (by decide)
  unfold beginWake
  dsimp only
  unfold whenS
  split
  · rw [coreGood_bel]
    · rw [hstart]; split <;> rfl
    · rw [hstart]; split <;> exact h
  · rw [hstart]; split <;> rfl

theorem fireWake_bel {s : State} {bit : Fin 6} (h : s.bel.powered = true) (hentry : s.pwr.entry = none) :
    (fireWake bit s).bel = s.bel := by
  simp only [fireWake, hentry]
  split_ifs
  · rfl
  · rfl
  · exact beginWake_bel h
  · rfl

theorem idle_bel {s : State} (hstart : s.pwr.start = none) (hentry : s.pwr.entry = none)
    (hpowered : s.bel.powered = true) (hclock : s.pwr.pllEth = true ∨ s.bel.sleepClock = true) :
    (idle s).bel = s.bel.tick := by
  have hticks : (idleClock s).bel = s.bel.tick := by
    rw [idleClock_eq]
    exact if_pos (by simpa [hpowered] using hclock)
  have hpower : s.bel.tick.powered = true := by
    unfold Bell.tick
    split <;> exact hpowered
  have hmid := keeps_step (keeps_hostConfigures _)
    (l := [.free, .out, .hif, .grn, .cmp, .hdg, .lpl, .link, .rve, .yok, .eth, .mgt, .running, .maskQ, .kernels]) rfl
    (keeps_step (keeps_idleKernels _) rfl (keeps_step (keeps_repeatOverride _) rfl
      (keeps_step (keeps_idleLanes _) rfl (keeps_step (keeps_beginTest _) rfl
        (keeps_mono (keeps_idleLine (idleClock s)) rfl)))))
  rw [idle]
  generalize hostConfigures _ = u at hmid
  have hpwr : u.pwr = s.pwr := by
    rw [hmid .pwr (by decide), idleClock_eq]
  have hbel : u.bel = s.bel.tick := (hmid .bel (by decide)).trans hticks
  have hlog : Keeps [.rve] u (whenS u.pwr.core drainLog u) :=
    keeps_whenS (keeps_refl _ _) fun _ => keeps_drainLog u
  rw [idlePhaseA_of_none (by rw [hpwr, hstart]), advanceStart_of_none (by rw [hpwr, hstart])]
  generalize whenS u.pwr.core drainLog u = v at hlog
  have hvbel : v.bel = s.bel.tick := (hlog .bel (by decide)).trans hbel
  have hventry : v.pwr.entry = none := by rw [hlog .pwr (by decide), hpwr, hentry]
  have hlow (t : State) : (commitLow t).bel = t.bel := keeps_commitLow t .bel (by decide)
  rw [hlow, whenS]
  split
  · rw [fireWake_bel (by rw [hvbel, hpower]) hventry, hvbel]
  · exact hvbel

/-- Settles O54: idle time ticks the counter, and a tick moves the time on. -/
theorem timeNeverFallsBack : Obligations.TimeNeverFallsBack := by
  intro s hpending hstart hentry hpowered hclock _ hrate hnear
  refine ⟨_, step_of_nil hpending, ?_⟩
  show s.bel.time < (idle s).bel.time
  rw [idle_bel hstart hentry hpowered hclock]
  exact time_lt_tick hrate hnear

end Sys2Proof.Proofs
end

section
/-!
SUPPORT. Commands that are held or refused, and where a completion goes.
-/

namespace Sys2Proof.Proofs

set_option Elab.async false

open Sys2Proof Sys2Proof.Machine Sys2Proof.Safety Sys2Proof.Laws

/-- A command answered by a known state. -/
theorem answers_of_eq {o : Out} {t : State} {P : State → Prop} (h : o = .next t) (hP : P t) : Answers o P :=
  ⟨t, h, hP⟩

/-- While the core domain is powered the Reeve takes every event raised. -/
theorem raised_raise {g : Nat} {c : Machine.Class} {d : Nat} {s : State} (h : s.pwr.core = true) :
    Raised g c d s (raise g c d s) := by
  rw [raise_of_core h, Raised]

theorem runRow_of_held {op : Nat} {b : Body} {src : Src} {d : Desc} {s : State}
    (h : serves src s = false ∨ fenceOk src (withOpcode d op) s = false) : runRow op b src d s = s := by
  have hguard : (serves src s && fenceOk src (withOpcode d op) s) = false := by
    obtain h | h := h <;> simp [h]
  simp [runRow, hguard]

/-- Settles O56: a row starts its command or leaves the state, and the common checks complete it. -/
theorem heldAndRefusedCommands : Obligations.HeldAndRefusedCommands := by
  refine ⟨fun i op src d s hrow hheld => ?_, fun i op src d s st hrow hserves hfence hgate hst => ?_⟩
  · obtain ⟨b, hexec⟩ := exec_opcodeRow hrow
    rw [hexec, runRow_of_held hheld]
  · obtain ⟨b, hexec⟩ := exec_opcodeRow hrow
    rw [hexec, runRow_of_gate b hserves hfence hgate, if_neg hst]

theorem complete_of_not_running {c : Cmd} {st fs : BitVec 16} {r : Result} {s : State}
    (h : findRunning c.ser s = none) : complete c st fs r s = s := by
  simp only [complete, h]

/-- The state of a completion before it is delivered: the command has left the running list. -/
def leftRunning (c k : Cmd) (s : State) : State :=
  moveArrivals k { s with running := s.running.filter fun x => x.ser != c.ser }

theorem complete_of_running {c k : Cmd} {st fs : BitVec 16} {r : Result} {s : State}
    (h : findRunning c.ser s = some k) : complete c st fs r s =
      deliver k.src ⟨k.src, k.cmdId, BitVec.ofNat 8 k.opcode, st, fs, r⟩ k.quiet (leftRunning c k s) := by
  simp only [complete, h, leftRunning]

theorem keeps_leftRunning (c k : Cmd) (s : State) : Keeps [.running, .maskQ] s (leftRunning c k s) :=
  keeps_step (keeps_moveArrivals _ _) rfl (keeps_mk (keeps_refl _ _))

/-- What settling a submission ring changes is its RUNNING. -/
theorem settleRing_hif (n : Fin 16) (s : State) :
    (settleRing n s).hif.cq = s.hif.cq ∧ ((settleRing n s).hif.sq[n]).lastDone = (s.hif.sq[n]).lastDone := by
  unfold settleRing
  dsimp only
  split <;> simp

theorem getElem_queueCpl (n m : Fin 16) (e : Cpl) (s : State) :
    ((queueCpl n e s).hif.cq[m]) = if m = (s.hif.sq[n]).cq then
      { s.hif.cq[m] with waiting := (s.hif.cq[m]).waiting ++ [e] } else s.hif.cq[m] := by
  simp [queueCpl]

theorem deliver_ring (n : Fin 16) (e : Cpl) (quiet : Bool) (s : State) :
    ((deliver (.ring n) e quiet s).hif.cq[(s.hif.sq[n]).cq]).waiting =
      (s.hif.cq[(s.hif.sq[n]).cq]).waiting ++ (if (quiet && e.status == stSuccess) = true then [] else [e]) ∧
    (∀ m : Fin 16, m ≠ (s.hif.sq[n]).cq → (deliver (.ring n) e quiet s).hif.cq[m] = s.hif.cq[m]) ∧
    ((deliver (.ring n) e quiet s).hif.sq[n]).lastDone = s.now := by
  unfold deliver
  dsimp only
  obtain ⟨hcq, hdone⟩ := settleRing_hif n (if (quiet && e.status == stSuccess) = true then
    { s with hif.sq := s.hif.sq.upd n fun q => { q with lastDone := s.now } }
    else queueCpl n e { s with hif.sq := s.hif.sq.upd n fun q => { q with lastDone := s.now } })
  rw [hcq, hdone]
  split
  · simp
  · refine ⟨?_, fun m hm => ?_, ?_⟩
    · rw [getElem_queueCpl]; simp
    · rw [getElem_queueCpl, if_neg]
      simpa using hm
    · simp [queueCpl]

theorem keeps_deliver_ring (n : Fin 16) (e : Cpl) (quiet : Bool) (s : State) :
    Keeps [.hif] s (deliver (.ring n) e quiet s) := by
  refine keeps_step (keeps_settleRing _ _) rfl (keeps_ite (keeps_mk (keeps_refl _ _)) ?_)
  exact keeps_step (keeps_queueCpl _ _ _) rfl (keeps_mk (keeps_refl _ _))

/-- A datagram's command adds its completion to the answer of that datagram, and to no other's. -/
theorem deliver_eth (p : Fin 2) (key i : Nat) (e : Cpl) (quiet : Bool) (s : State) :
    (∀ x ∈ (s.eth.port[p]).execs, x.key = key →
      ∃ y ∈ ((deliver (.eth p key i) e quiet s).eth.port[p]).execs, y.key = key ∧ y.peer = x.peer ∧
        y.done.length = x.done.length + 1 ∧
        ((quiet && e.status == stSuccess) = true → y.done = x.done ++ [(i, none)])) ∧
    (deliver (.eth p key i) e quiet s).eth.port[1 - p] = s.eth.port[1 - p] ∧
    Keeps [.eth] s (deliver (.eth p key i) e quiet s) := by
  have hother : 1 - p ≠ p := by fin_cases p <;> decide
  refine ⟨fun x hx hkey => ?_, by simp [deliver, hother], keeps_mk (keeps_refl _ _)⟩
  refine ⟨{ x with done := x.done ++ [(i, if (quiet && e.status == stSuccess) = true then none
    else some (e, startedOf key x s.eth.port[p].queue))] }, ?_, hkey, rfl, by simp, fun hmute => by simp [hmute]⟩
  simp only [deliver, Fin.getElem_fin, Tab.getElem_upd, if_true]
  exact List.mem_map.mpr ⟨x, hx, if_pos hkey⟩

theorem deliver_i2c (e : Cpl) (quiet : Bool) {s : State} (h : coresUp s = true) :
    deliver .i2c e quiet s = { s with
      mgt.busy := false
      mgt.cbuf := if (quiet && e.status == stSuccess) = true then s.mgt.cbuf else cplBytes e 0 0 1 } := by
  simp only [deliver, h, if_true]

theorem keeps_deliver_i2c (e : Cpl) (quiet : Bool) (s : State) : Keeps [.mgt] s (deliver .i2c e quiet s) :=
  keeps_ite (keeps_mk (keeps_refl _ _)) (keeps_mk (keeps_refl _ _))

theorem deliver_startup (i : Nat) (e : Cpl) (quiet : Bool) (s : State) :
    deliver (.startup i) e quiet s = if (quiet && e.status == stSuccess) = true then s
      else raise 42 (if e.status = stSuccess then .note else .minor)
        (e.opcode.toNat + i * 256 + e.status.toNat * 65536) s := rfl

/-- Settles O57: the completion leaves the running list and `deliver` takes it to its origin. -/
theorem completionToOrigin : Obligations.CompletionToOrigin := by
  refine fun c k st fs r s => ⟨complete_of_not_running, fun h => ?_⟩
  have hleft := keeps_leftRunning c k s
  have hhif := hif_of_keeps hleft (by decide) (by decide)
  have heth : (leftRunning c k s).eth = s.eth := hleft .eth (by decide)
  have hmgt : (leftRunning c k s).mgt = s.mgt := hleft .mgt (by decide)
  have hpwr : (leftRunning c k s).pwr = s.pwr := hleft .pwr (by decide)
  have hrve : (leftRunning c k s).rve = s.rve := hleft .rve (by decide)
  have hnow : (leftRunning c k s).now = s.now := hleft .now (by decide)
  dsimp only
  rw [complete_of_running h]
  generalize he : (⟨k.src, k.cmdId, BitVec.ofNat 8 k.opcode, st, fs, r⟩ : Cpl) = e
  have hstatus : e.status = st := by rw [← he]
  have hop : e.opcode = BitVec.ofNat 8 k.opcode := by rw [← he]
  refine ⟨?_, fun n hsrc => ?_, fun p key i hsrc => ?_, fun hsrc => ?_, fun i hsrc hcore => ?_⟩
  · exact keeps_deliver _ _ _ _ .running (by decide)
  · obtain ⟨hwait, hothers, hdone⟩ := deliver_ring n e k.quiet (leftRunning c k s)
    simp only [hhif, hstatus] at hwait hothers
    rw [hsrc]
    exact ⟨hwait, hothers, hdone.trans hnow, keeps_step (keeps_deliver_ring _ _ _ _) rfl (keeps_mono hleft rfl)⟩
  · obtain ⟨hanswer, hother, hkeeps⟩ := deliver_eth p key i e k.quiet (leftRunning c k s)
    simp only [heth, hstatus] at hanswer hother
    rw [hsrc]
    exact ⟨hanswer, hother, keeps_step hkeeps rfl (keeps_mono hleft rfl)⟩
  · rw [hsrc]
    refine ⟨keeps_step (keeps_deliver_i2c _ _ _) rfl (keeps_mono hleft rfl), fun hup => ?_⟩
    rw [deliver_i2c e k.quiet (by rwa [coresUp, hpwr]), hstatus, hmgt]
    exact ⟨rfl, rfl⟩
  · rw [hsrc, deliver_startup, hstatus]
    split
    · exact ⟨keeps_mono hleft rfl, hrve⟩
    · refine ⟨keeps_step (keeps_raise _ _ _ _) rfl (keeps_mono hleft rfl), ?_⟩
      rw [Raised, raised_raise (by rw [hpwr, hcore]), hrve, hnow, hop]

end Sys2Proof.Proofs
end

section
/-!
SUPPORT. What the counter-clear bits clear, as the counters' registers read it.
-/

namespace Sys2Proof.Proofs

set_option Elab.async false

open Sys2Proof Sys2Proof.Machine Sys2Proof.Safety Sys2Proof.Laws

theorem answers_whenS {b : Bool} {f : State → State} {s : State} {P : State → Prop} (h : b = true) (hP : P (f s)) :
    Answers (.next (whenS b f s)) P :=
  ⟨f s, by rw [whenS_true h], hP⟩

/-- A counter clear, while the host is connected: its own store, and its frame. -/
theorem answers_clear {c : Instr} {z : Zone} {f : State → State} {R : State → Prop} {s : State}
    (hexec : exec c s = .next (whenS (hostUp s) f s)) (hup : hostUp s = true) (hz : touches c = [z])
    (hR : R (f s)) : Answers (exec c s) fun t => R t ∧ Keeps [z] s t := by
  obtain ⟨t, ht, hkeeps⟩ := keeps_exec c s
  rw [hexec, whenS_true hup] at ht
  obtain rfl := Host.Outcome.next.inj ht
  exact ⟨f s, by rw [hexec, whenS_true hup], hR, hz ▸ hkeeps⟩

theorem pk_zeros (l : List Nat) : pk (l.map fun lo => (lo, 0)) = 0 := by
  induction l with
  | nil => rfl
  | cons lo l ih => simpa [pk] using ih

/-- A single register whose fields, at these places, are all 0. -/
theorem regRead_scalar {base k : Nat} {t : State} (hk : k < 1) (l : List Nat)
    (h : regRead base t = some (pk (l.map fun lo => (lo, 0)))) : regRead (base + 0 * k) t = some 0 := by
  rw [Nat.zero_mul, Nat.add_zero, h, pk_zeros]

/-! The registers of the counters that are arrays. -/

theorem regRead_oversteps {k : Nat} (hk : k < 8) (s : State) :
    regRead (0x050008 + 0x40 * k) s = some (layerN k s).overstepPx := by
  interval_cases k <;> rfl

theorem regRead_laneErr {k : Nat} (hk : k < 24) (s : State) : regRead (0x090004 + 0x20 * k) s =
    some (pk [(16, (laneN k s).dispErr), (0, (laneN k s).codeErr)]) := by
  interval_cases k <;> rfl

theorem regRead_laneEvents {k : Nat} (hk : k < 24) (s : State) : regRead (0x090008 + 0x20 * k) s =
    some (pk [(24, (laneN k s).realign), (16, (laneN k s).los), (0, (laneN k s).retrains)]) := by
  interval_cases k <;> rfl

theorem regRead_laneCnt {k : Nat} (hk : k < 24) (s : State) : regRead (0x0A0004 + 0x20 * k) s =
    some (pk [(16, (laneN k s).nakRx), (0, (laneN k s).upCrc)]) := by
  interval_cases k <;> rfl

theorem regRead_laneLat {k : Nat} (hk : k < 24) (s : State) : regRead (0x0A0008 + 0x20 * k) s =
    some (pk [(16, (laneN k s).withheldCnt), (0, (laneN k s).refusedCnt)]) := by
  interval_cases k <;> rfl

theorem regRead_laneCtl {k : Nat} (hk : k < 24) (s : State) : regRead (0x0A000C + 0x20 * k) s =
    some (pk [(16, (laneN k s).retry), (0, (laneN k s).fail)]) := by
  interval_cases k <;> rfl

theorem laneN_map' {k : Nat} (hk : k < 24) (f : Lane → Lane) (s : State) :
    laneN k { s with link.lane := s.link.lane.map' f } = f (laneN k s) := by
  have h25 : k < 25 := by omega
  simp only [laneN, h25, dif_pos, laneAt, hk]
  exact Tab.getElem_map' _ f ⟨k, hk⟩

theorem regRead_railFaults {k : Nat} (hk : k < 8) (s : State) : regRead (0x0C0024 + 0x40 * k) s =
    some (pk [(24, (s.rail.rail.at' k Rail.reset).nShort), (16, (s.rail.rail.at' k Rail.reset).nOver),
      (8, (s.rail.rail.at' k Rail.reset).nUnder), (0, (s.rail.rail.at' k Rail.reset).nOther)]) := by
  interval_cases k <;> rfl

theorem regRead_ethRx {k : Nat} (hk : k < 2) (s : State) : regRead (0x120028 + 0x100 * k) s =
    some (pk [(16, (s.eth.port.at' k Eth.reset).rxFcs), (0, (s.eth.port.at' k Eth.reset).rxDiscarded)]) := by
  interval_cases k <;> rfl

theorem regRead_ethTx {k : Nat} (hk : k < 2) (s : State) : regRead (0x12002C + 0x100 * k) s =
    some (pk [(16, (s.eth.port.at' k Eth.reset).txLate), (0, (s.eth.port.at' k Eth.reset).txDropped)]) := by
  interval_cases k <;> rfl

theorem regRead_ethPtp {k : Nat} (hk : k < 2) (s : State) : regRead (0x120030 + 0x100 * k) s =
    some (pk [(16, (s.eth.port.at' k Eth.reset).syncRx), (0, (s.eth.port.at' k Eth.reset).ptpIgnored)]) := by
  interval_cases k <;> rfl

theorem at'_map' {α β : Type} {n k : Nat} (hk : k < n) (t : Tab α n) (f : α → β) (a : α) (b : β) :
    (t.map' f).at' k b = f (t.at' k a) := by
  simp only [Tab.at', hk, dif_pos]
  exact Tab.getElem_map' t f ⟨k, hk⟩

/-- Settles O22: each clear stores 0 in what its registers read. -/
theorem counterClears : Obligations.CounterClears := by
  intro s hup
  refine ⟨?_, ?_⟩
  · intro c base stride count z hrow
    simp only [List.mem_cons, Prod.mk.injEq, List.not_mem_nil, or_false] at hrow
    rcases hrow with ⟨rfl, rfl, rfl, rfl, rfl⟩ | ⟨rfl, rfl, rfl, rfl, rfl⟩ | ⟨rfl, rfl, rfl, rfl, rfl⟩ | ⟨rfl, rfl, rfl, rfl, rfl⟩ |
      ⟨rfl, rfl, rfl, rfl, rfl⟩ | ⟨rfl, rfl, rfl, rfl, rfl⟩ | ⟨rfl, rfl, rfl, rfl, rfl⟩ | ⟨rfl, rfl, rfl, rfl, rfl⟩ |
      ⟨rfl, rfl, rfl, rfl, rfl⟩ | ⟨rfl, rfl, rfl, rfl, rfl⟩ | ⟨rfl, rfl, rfl, rfl, rfl⟩ | ⟨rfl, rfl, rfl, rfl, rfl⟩ |
      ⟨rfl, rfl, rfl, rfl, rfl⟩ | ⟨rfl, rfl, rfl, rfl, rfl⟩ | ⟨rfl, rfl, rfl, rfl, rfl⟩ | ⟨rfl, rfl, rfl, rfl, rfl⟩ |
      ⟨rfl, rfl, rfl, rfl, rfl⟩ | ⟨rfl, rfl, rfl, rfl, rfl⟩ | ⟨rfl, rfl, rfl, rfl, rfl⟩ | ⟨rfl, rfl, rfl, rfl, rfl⟩ | ⟨rfl, rfl, rfl, rfl, rfl⟩
    · exact answers_clear rfl hup rfl fun k hk => regRead_scalar hk [0, 16] rfl
    · exact answers_clear rfl hup rfl fun k hk => regRead_scalar hk [0, 8, 16, 24] rfl
    · exact answers_clear rfl hup rfl fun k hk => regRead_scalar hk [16, 0] rfl
    · exact answers_clear rfl hup rfl fun k hk => regRead_scalar hk [16, 0] rfl
    · exact answers_clear rfl hup rfl fun k hk => regRead_scalar hk [16, 0] rfl
    · exact answers_clear rfl hup rfl fun k hk => regRead_scalar hk [16, 0] rfl
    · exact answers_clear rfl hup rfl fun k hk => regRead_scalar hk [16, 8, 0] rfl
    · exact answers_clear rfl hup rfl fun k hk => regRead_scalar hk [24, 16, 0] rfl
    · exact answers_clear rfl hup rfl fun k hk => regRead_scalar hk [24, 16, 8, 0] rfl
    · exact answers_clear rfl hup rfl fun k hk => regRead_scalar hk [16, 0] rfl
    · exact answers_clear rfl hup rfl fun k hk => regRead_scalar hk [16, 0] rfl
    · exact answers_clear rfl hup rfl fun k hk => by
        rw [regRead_oversteps hk, layerN, at'_map' (by omega) _ _ Layer.reset]
    · exact answers_clear rfl hup rfl fun k hk => by
        rw [regRead_laneEvents hk, laneN_map' hk]
        simp [pk]
    · exact answers_clear rfl hup rfl fun k hk => by
        rw [regRead_laneErr hk, laneN_map' hk]
        simp [pk]
    · exact answers_clear rfl hup rfl fun k hk => by
        rw [regRead_laneCtl hk, laneN_map' hk]
        simp [pk]
    · exact answers_clear rfl hup rfl fun k hk => by
        rw [regRead_laneLat hk, laneN_map' hk]
        simp [pk]
    · exact answers_clear rfl hup rfl fun k hk => by
        rw [regRead_laneCnt hk, laneN_map' hk]
        simp [pk]
    · exact answers_clear rfl hup rfl fun k hk => by
        rw [regRead_railFaults hk, at'_map' hk _ _ Rail.reset]
        simp [pk]
    · exact answers_clear rfl hup rfl fun k hk => by
        rw [regRead_ethPtp hk, at'_map' hk _ _ Eth.reset]
        simp [pk]
    · exact answers_clear rfl hup rfl fun k hk => by
        rw [regRead_ethTx hk, at'_map' hk _ _ Eth.reset]
        simp [pk]
    · exact answers_clear rfl hup rfl fun k hk => by
        rw [regRead_ethRx hk, at'_map' hk _ _ Eth.reset]
        simp [pk]
  · refine ⟨answers_clear rfl hup rfl fun n => by simp, answers_clear rfl hup rfl fun n => by simp,
      answers_clear rfl hup rfl fun n => by simp, ?_, ?_, answers_clear rfl hup rfl fun n => by simp, ?_⟩
    · exact answers_whenS hup ⟨rfl, rfl, rfl, rfl, rfl, rfl, keeps_mk (keeps_refl _ _)⟩
    · intro c l hrow
      simp only [List.mem_cons, Prod.mk.injEq, List.not_mem_nil, or_false] at hrow
      rcases hrow with ⟨rfl, rfl⟩ | ⟨rfl, rfl⟩ | ⟨rfl, rfl⟩ <;>
        exact congrArg Host.Outcome.next (whenS_true hup)
    · exact congrArg Host.Outcome.next (whenS_true hup)

end Sys2Proof.Proofs
end

section
/-!
SUPPORT. The authority masks and the rings: ENABLE, fetching, completions.
-/

namespace Sys2Proof.Proofs

set_option Elab.async false

open Sys2Proof Sys2Proof.Machine Sys2Proof.Safety Sys2Proof.Laws

theorem execHifAuthWrite_of_locked {p : Fin 5} {s : State} (v : BitVec 12) (h : s.hif.authLock = true ∨ p = 4) :
    exec (.hifAuthWrite p v) s = .next s := by
  have hguard : (hostUp s && !s.hif.authLock && decide (p ≠ 4)) = false := by
    obtain h | h := h <;> simp [h]
  exact congrArg Host.Outcome.next (whenS_false hguard)

/-- Settles O8: the guard of the mask write is the lock and the yoke peer's number. -/
theorem authorityMaskWrites : Obligations.AuthorityMaskWrites := by
  refine ⟨fun s p v hup hlock hp => ?_, fun s p v h => execHifAuthWrite_of_locked v h, fun s hup => ?_,
    fun s hup => ?_⟩
  · refine answers_whenS (by simp [hup, hlock, hp]) ⟨by simp, by simp, fun q hq => by simp [hq], ?_⟩
    exact keeps_mk (keeps_refl _ _)
  · exact congrArg Host.Outcome.next (whenS_true hup)
  · exact congrArg Host.Outcome.next (whenS_true hup)

theorem getElem_modSq (n m : Fin 16) (f : SqRing → SqRing) (s : State) :
    (modSq n f s).hif.sq[m] = if m = n then f s.hif.sq[m] else s.hif.sq[m] := by
  simp

theorem getElem_modCq (n m : Fin 16) (f : CqRing → CqRing) (s : State) :
    (modCq n f s).hif.cq[m] = if m = n then f s.hif.cq[m] else s.hif.cq[m] := by
  simp

theorem enableSq_of_cq_disabled {n : Fin 16} {s : State} (h : (s.hif.cq[(s.hif.sq[n]).cq]).enable = false) :
    enableSq n s = s :=
  whenS_false (by rw [h, Bool.and_false])

/-- Settling a ring changes nothing of a ring but RUNNING, and no other ring. -/
theorem getElem_settleRing (n m : Fin 16) (s : State) :
    ∃ r, (settleRing n s).hif.sq[m] = { s.hif.sq[m] with running := r } ∧
      (m ≠ n → (settleRing n s).hif.sq[m] = s.hif.sq[m]) := by
  unfold settleRing
  dsimp only
  split
  · by_cases h : m = n
    · exact ⟨false, by simp [h], fun hne => absurd h hne⟩
    · exact ⟨(s.hif.sq[m]).running, by simp [h], fun _ => by simp [h]⟩
  · exact ⟨(s.hif.sq[m]).running, rfl, fun _ => rfl⟩

theorem settleRing_cq (n : Fin 16) (s : State) : (settleRing n s).hif.cq = s.hif.cq := (settleRing_hif n s).1

/-- A delivery to a ring leaves of every ring all but RUNNING and the time of its last completion. -/
theorem getElem_deliver_ring (n m : Fin 16) (e : Cpl) (quiet : Bool) (s : State) :
    ∃ r l, (deliver (.ring n) e quiet s).hif.sq[m] = { s.hif.sq[m] with running := r, lastDone := l } ∧
      (m ≠ n → (deliver (.ring n) e quiet s).hif.sq[m] = s.hif.sq[m]) := by
  unfold deliver
  dsimp only
  obtain ⟨r, hr, hother⟩ := getElem_settleRing n m (if (quiet && e.status == stSuccess) = true then
    { s with hif.sq := s.hif.sq.upd n fun q => { q with lastDone := s.now } }
    else queueCpl n e { s with hif.sq := s.hif.sq.upd n fun q => { q with lastDone := s.now } })
  have hsq : (if (quiet && e.status == stSuccess) = true then
      { s with hif.sq := s.hif.sq.upd n fun q => { q with lastDone := s.now } }
      else queueCpl n e { s with hif.sq := s.hif.sq.upd n fun q => { q with lastDone := s.now } }).hif.sq =
      s.hif.sq.upd n fun q => { q with lastDone := s.now } := by split <;> rfl
  rw [hsq] at hr hother
  by_cases h : m = n
  · exact ⟨r, s.now, by rw [hr]; simp [h], fun hne => absurd h hne⟩
  · refine ⟨(s.hif.sq[m]).running, (s.hif.sq[m]).lastDone, ?_, fun hne => ?_⟩
    · rw [hother h]; simp [h]
    · rw [hother h]; simp [h]

/-- The completion of an entry of ring n that was not started when the ring was disabled (R50). -/
def abortedCpl (n : Fin 16) (e : Fetched) : Cpl :=
  ⟨.ring n, BitVec.ofNat 16 (Desc.f e.d 2 0 16), BitVec.ofNat 8 (Desc.f e.d 0 0 8), stAborted, 0, 0⟩

/-- Delivering the aborted entries of a ring queues their completions in order, and leaves of the rings all
but RUNNING and the time of the last completion. -/
theorem foldl_deliver_aborted (n : Fin 16) (l : List Fetched) (hl : ∀ e ∈ l, e.dead = false) :
    ∀ s : State, ∃ t, l.foldl (fun s e => if e.dead = true then staleDone n e.d s else
        deliver (.ring n) ⟨.ring n, BitVec.ofNat 16 (Desc.f e.d 2 0 16),
          BitVec.ofNat 8 (Desc.f e.d 0 0 8), stAborted, 0, 0⟩ false s) s = t ∧
      (t.hif.cq[(s.hif.sq[n]).cq]).waiting =
        (s.hif.cq[(s.hif.sq[n]).cq]).waiting ++ l.map (abortedCpl n) ∧
      (∃ r k, t.hif.sq[n] = { s.hif.sq[n] with running := r, lastDone := k }) ∧
      ∀ m : Fin 16, m ≠ n → t.hif.sq[m] = s.hif.sq[m] := by
  induction l with
  | nil => exact fun s => ⟨s, rfl, by simp, ⟨_, _, rfl⟩, fun _ _ => rfl⟩
  | cons x l ih =>
    intro s
    obtain ⟨t, ht, hwait, ⟨r, k, hring⟩, hothers⟩ :=
      ih (fun e he => hl e (List.mem_cons_of_mem _ he)) (deliver (.ring n) (abortedCpl n x) false s)
    obtain ⟨r', k', hself, -⟩ := getElem_deliver_ring n n (abortedCpl n x) false s
    have hcq : ((deliver (.ring n) (abortedCpl n x) false s).hif.sq[n]).cq = (s.hif.sq[n]).cq := by rw [hself]
    refine ⟨t, ?_, ?_, ⟨r, k, by rw [hring, hself]⟩, fun m hm => ?_⟩
    · rw [List.foldl_cons, if_neg (by simp [hl x])]
      exact ht
    · simp only [hcq] at hwait
      rw [hwait, (deliver_ring n (abortedCpl n x) false s).1]
      simp
    · obtain ⟨-, -, -, hother⟩ := getElem_deliver_ring n m (abortedCpl n x) false s
      rw [hothers m hm, hother hm]

theorem late_of_nil {q : SqRing} (h : q.behind = []) : q.late = [] := by
  simp [SqRing.late, h]

theorem disableSq_spec {s : State} {n : Fin 16} (hen : (s.hif.sq[n]).enable = true)
    (hbehind : (s.hif.sq[n]).behind = []) (hdead : ∀ e ∈ (s.hif.sq[n]).fetched, e.dead = false) :
    ((disableSq n s).hif.sq[n]).enable = false ∧ ((disableSq n s).hif.sq[n]).fetched = [] ∧
      ((disableSq n s).hif.cq[(s.hif.sq[n]).cq]).waiting = (s.hif.cq[(s.hif.sq[n]).cq]).waiting ++
        (s.hif.sq[n]).fetched.map (abortedCpl n) ∧
      ∀ m : Fin 16, m ≠ n → (disableSq n s).hif.sq[m] = s.hif.sq[m] := by
  rw [disableSq, whenS_true hen]
  rw [settleRing_cq]
  generalize hd : modSq n (fun q => { q with enable := false }) s = d
  have hdn : d.hif.sq[n] = { s.hif.sq[n] with enable := false } := by rw [← hd, getElem_modSq, if_pos rfl]
  have hdo : ∀ m : Fin 16, m ≠ n → d.hif.sq[m] = s.hif.sq[m] := fun m hm => by
    rw [← hd, getElem_modSq, if_neg hm]
  have hdc : d.hif.cq = s.hif.cq := by rw [← hd]; rfl
  have hlate : (d.hif.sq[n]).late = [] := late_of_nil (by rw [hdn]; exact hbehind)
  obtain ⟨t, ht, hwait, ⟨r, k, hring⟩, hothers⟩ := foldl_deliver_aborted n (s.hif.sq[n]).fetched hdead
    (modSq n (fun q => { q with asked := 0, dbAsked := none, fetched := [], behind := [] }) d)
  have hall : (d.hif.sq[n]).fetched ++ (d.hif.sq[n]).late.map (fun e => ⟨e, false, d.now⟩) =
      (s.hif.sq[n]).fetched := by rw [hlate, hdn, List.map_nil, List.append_nil]
  have habort : abortEntries n d = t := by
    rw [← ht, abortEntries, hall]
  rw [habort]
  have hself := getElem_modSq n n (fun q => { q with asked := 0, dbAsked := none, fetched := [], behind := [] }) d
  rw [if_pos rfl, hdn] at hself
  obtain ⟨r', hset, -⟩ := getElem_settleRing n n t
  rw [hring, hself] at hset
  refine ⟨by rw [hset], by rw [hset], ?_, fun m hm => ?_⟩
  · simp only [hself] at hwait
    rw [hwait]
    simp only [modSq, hdc]
  · obtain ⟨-, -, hother⟩ := getElem_settleRing n m t
    rw [hother hm, hothers m hm, getElem_modSq, if_neg hm, hdo m hm]

/-- Settles O9: each of the four writes changes its own ring, and disabling a ring completes its entries. -/
theorem ringEnableBits : Obligations.RingEnableBits := by
  refine ⟨fun s n hup hen hcq => ?_, fun s n hcq => ?_, fun s n hup hen hbehind hdead => ?_,
    fun s n hup hen => ?_, fun s n hup huse => ?_, fun s n hup huse => ?_⟩
  · refine answers_whenS hup ?_
    have hset : enableSq n s = modSq n (fun q => { q with
        enable := true, running := true, head := 0, phase := true, prod := 0, stopped := false,
        asked := 0, dbAsked := none, fetched := [], behind := [], rereads := 0 }) s :=
      whenS_true (by rw [hen, hcq]; rfl)
    rw [hset]
    have hself := getElem_modSq n n (fun q => { q with
        enable := true, running := true, head := 0, phase := true, prod := 0, stopped := false,
        asked := 0, dbAsked := none, fetched := [], behind := [], rereads := 0 }) s
    rw [if_pos rfl] at hself
    simp only [hself]
    exact ⟨trivial, trivial, trivial, trivial, trivial, rfl, fun m hm => by rw [getElem_modSq, if_neg hm], keeps_modSq _ _ _⟩
  · refine congrArg Host.Outcome.next ?_
    rw [whenS, enableSq_of_cq_disabled hcq, ite_self]
  · exact answers_whenS hup (disableSq_spec hen hbehind hdead)
  · refine answers_whenS hup ?_
    have hless : s.hif.hostless = false := by
      simp only [hostUp, Bool.and_eq_true, Bool.not_eq_true'] at hup
      exact hup.1.1.1.2
    have hset : enableCq n s = modCq n (fun q => { q with
        enable := true, tail := 0, phase := true, cons := 0, full := false, dbAsked := none, retry := false,
        unsignalled := 0 }) s := whenS_true (by rw [hen, hless]; rfl)
    rw [hset]
    refine ⟨?_, ?_, ?_, ?_, rfl, fun m hm => by rw [getElem_modCq, if_neg hm]⟩ <;>
      rw [getElem_modCq, if_pos rfl]
  · refine answers_whenS hup ?_
    rw [disableCq, if_neg (by simp [huse])]
    exact ⟨by rw [getElem_modCq, if_pos rfl], rfl, fun m hm => by rw [getElem_modCq, if_neg hm]⟩
  · refine answers_whenS hup ?_
    rw [disableCq, if_pos huse]
    exact ⟨hif_of_keeps (keeps_raise _ _ _ _) (by decide) (by decide), raised_raise (core_of_hostUp hup)⟩

end Sys2Proof.Proofs
end

section
/-!
SUPPORT. Fetching of submission rings: index reads, entry reads, phases and stale entries.
-/

namespace Sys2Proof.Proofs

set_option Elab.async false

open Sys2Proof Sys2Proof.Machine Sys2Proof.Safety Sys2Proof.Laws

theorem readDoorbell_of_due {n : Fin 16} {s : State} (hserved : ringsServed s = true)
    (hen : (s.hif.sq[n]).enable = true) (hstop : (s.hif.sq[n]).stopped = false)
    (hdue : (s.hif.sq[n]).dbAsked ≠ some s.now) :
    readDoorbell n s = emit (.hostRead (s.hif.sq[n]).db.toNat 4 TlpAttr.clear)
      (modSq n (fun q => { q with dbAsked := some s.now }) s) := by
  rw [readDoorbell]
  exact whenS_true (by rw [hserved, hen, hstop, bne_iff_ne.mpr hdue]; rfl)

theorem readDoorbell_of_asked {n : Fin 16} {s : State} (hasked : (s.hif.sq[n]).dbAsked = some s.now) :
    readDoorbell n s = s := by
  rw [readDoorbell]
  exact whenS_false (by rw [hasked, bne_self_eq_false, Bool.and_false])

/-- A kick by a reachable host and the poll of an empty ring read the doorbell. -/
theorem exec_doorbell {n : Fin 16} {c : Instr} {s : State} (h : c = .hifKickSq n ∧ hostUp s = true ∨
      c = .ringDoorbellPoll n ∧ (s.hif.sq[n]).head = (s.hif.sq[n]).prod) :
    exec c s = .next (readDoorbell n s) := by
  obtain ⟨rfl, hup⟩ | ⟨rfl, hempty⟩ := h
  · exact congrArg Host.Outcome.next (whenS_true hup)
  · exact congrArg Host.Outcome.next (whenS_true (beq_iff_eq.mpr hempty))

theorem readConsumer_of_due {n : Fin 16} {s : State} (hen : (s.hif.cq[n]).enable = true)
    (hdue : (s.hif.cq[n]).dbAsked ≠ some s.now) :
    readConsumer n s = emit (.hostRead (s.hif.cq[n]).db.toNat 4 TlpAttr.clear)
      (modCq n (fun q => { q with dbAsked := some s.now, retry := false }) s) := by
  rw [readConsumer]
  exact whenS_true (by rw [hen, bne_iff_ne.mpr hdue]; rfl)

theorem mayFetch_iff (n : Fin 16) (s : State) : mayFetch n s = true ↔ ringsServed s = true ∧
    (s.hif.sq[n]).enable = true ∧ (s.hif.sq[n]).stopped = false ∧
    (s.hif.cq[(s.hif.sq[n]).cq]).full = false := by
  simp only [mayFetch, Bool.and_eq_true, Bool.not_eq_true', and_assoc]

/-- A request for entries changes the count asked for of its ring and nothing else of the rings. -/
theorem requestEntries_rings (n : Fin 16) (s : State) :
    (∃ k, (requestEntries n s).hif.sq[n] = { s.hif.sq[n] with asked := k }) ∧
    (∀ m : Fin 16, m ≠ n → (requestEntries n s).hif.sq[m] = s.hif.sq[m]) ∧
    (requestEntries n s).hif.cq = s.hif.cq ∧ ∀ e ∈ s.out, e ∈ (requestEntries n s).out := by
  unfold requestEntries
  dsimp only
  split
  · refine ⟨⟨_, (getElem_modSq n n _ s).trans (if_pos rfl)⟩, fun m hm => ?_, rfl,
      fun e he => List.mem_cons_of_mem _ he⟩
    exact (getElem_modSq n m _ s).trans (if_neg hm)
  · exact ⟨⟨_, rfl⟩, fun _ _ => rfl, rfl, fun _ he => he⟩

/-- A ring with nothing on hand or under way asks for its entries from HEAD on (R57). -/
theorem sent_requestEntries {n : Fin 16} {s : State} (hmay : mayFetch n s = true)
    (hfetched : (s.hif.sq[n]).fetched = []) (hbehind : (s.hif.sq[n]).behind = [])
    (hasked : (s.hif.sq[n]).asked = 0) (hhead : (s.hif.sq[n]).head < (s.hif.sq[n]).size)
    (hprod : (s.hif.sq[n]).prod < (s.hif.sq[n]).size) (hne : (s.hif.sq[n]).prod ≠ (s.hif.sq[n]).head) :
    Sent [.hostRead ((s.hif.sq[n]).base.toNat + 64 * (s.hif.sq[n]).head)
      (64 * min (min 8 (((s.hif.sq[n]).prod + (s.hif.sq[n]).size - (s.hif.sq[n]).head) % (s.hif.sq[n]).size))
        ((s.hif.sq[n]).size - (s.hif.sq[n]).head)) TlpAttr.clear] s (requestEntries n s) := by
  unfold requestEntries
  generalize s.hif.sq[n] = q at *
  have hidx : q.nextIdx = q.head := by
    rw [SqRing.nextIdx, hfetched, hbehind]
    exact Nat.mod_eq_of_lt hhead
  have havail : 0 < (q.prod + q.size - q.head) % q.size := by
    rcases Nat.lt_or_ge q.head q.prod with h | h
    · rw [show q.prod + q.size - q.head = q.prod - q.head + q.size from by omega, Nat.add_mod_right,
        Nat.mod_eq_of_lt (by omega)]
      omega
    · rw [Nat.mod_eq_of_lt (by omega)]
      omega
  dsimp only
  rw [hidx, hmay, hbehind, hasked, if_pos (by simp; omega)]
  rfl

/-- Stopping a ring leaves what it has fetched and read, and raises its event. -/
theorem stopRing_spec (n : Fin 16) (kind : Nat) {s : State} (hcore : s.pwr.core = true) :
    (∃ r, (stopRing n kind s).hif.sq[n] = { s.hif.sq[n] with
      stopped := true
      badIndex := (s.hif.sq[n]).badIndex || kind == 1
      fetchError := (s.hif.sq[n]).fetchError || kind == 2
      running := r }) ∧ Raised 33 .minor (n.val + kind * 256) s (stopRing n kind s) := by
  unfold stopRing
  generalize ht : modSq n (fun q => { q with
      stopped := true
      badIndex := q.badIndex || kind == 1
      fetchError := q.fetchError || kind == 2 }) s = t
  have htn := getElem_modSq n n (fun q => { q with
      stopped := true
      badIndex := q.badIndex || kind == 1
      fetchError := q.fetchError || kind == 2 }) s
  rw [if_pos rfl, ht] at htn
  have hhif : (raise 33 .minor (n.val + kind * 256) t).hif = t.hif :=
    hif_of_keeps (keeps_raise _ _ _ _) (by decide) (by decide)
  constructor
  · obtain ⟨r, hset, -⟩ := getElem_settleRing n n (raise 33 .minor (n.val + kind * 256) t)
    exact ⟨r, by rw [hset, hhif, htn]⟩
  · have hrve : (settleRing n (raise 33 .minor (n.val + kind * 256) t)).rve =
        (raise 33 .minor (n.val + kind * 256) t).rve := keeps_settleRing _ _ .rve (by decide)
    have hraised := raised_raise (g := 33) (c := .minor) (d := n.val + kind * 256) (s := t)
      (by rw [← ht]; exact hcore)
    rw [Raised] at hraised ⊢
    rw [hrve, hraised, ← ht]
    rfl

/-- Entries up to the first with another phase are queued, and that one waits with those behind it. -/
theorem sortEntries_append (now : Nat) (a b : List Desc) : ∀ q : SqRing,
    (∀ i : Fin a.length, Desc.b a[i] 1 0 = q.phaseAt (q.fetched.length + i.val)) →
    (∀ d, b.head? = some d → Desc.b d 1 0 ≠ q.phaseAt (q.fetched.length + a.length)) →
    sortEntries q now (a ++ b) = { q with
      fetched := q.fetched ++ a.map (fun d => ⟨d, false, now⟩)
      behind := b
      rereads := if b = [] then q.rereads else 0 } := by
  induction a with
  | nil =>
    intro q _ hb
    cases b with
    | nil => simp [sortEntries]
    | cons d r =>
      have hd : Desc.b d 1 0 ≠ q.phaseAt q.fetched.length := hb d rfl
      simp [sortEntries, hd]
  | cons x a ih =>
    intro q ha hb
    have hx : Desc.b x 1 0 = q.phaseAt q.fetched.length := ha ⟨0, by simp⟩
    rw [List.cons_append, sortEntries, if_pos hx, ih]
    · simp
    · intro i
      have := ha ⟨i.val + 1, by simp⟩
      simpa [SqRing.phaseAt, SqRing.size, Nat.add_assoc, Nat.add_comm 1] using this
    · intro d hd
      have := hb d hd
      simpa [SqRing.phaseAt, SqRing.size, Nat.add_assoc, Nat.add_comm 1] using this

theorem core_of_ringsServed {s : State} (h : ringsServed s = true) : s.pwr.core = true := by
  simp only [ringsServed, Bool.and_eq_true] at h
  exact core_of_coresUp h.1.1

/-- The read of the stale entry that a ring waits for (R67). -/
def staleRead (n : Fin 16) (s : State) : Emit :=
  .hostRead ((s.hif.sq[n]).base.toNat + 64 * (((s.hif.sq[n]).head + (s.hif.sq[n]).fetched.length)
    % (s.hif.sq[n]).size)) 64 TlpAttr.clear

/-- What the entry read again does, by its phase and the re-reads made so far (R67). -/
theorem exec_staleEntryReread {n : Fin 16} {s : State} {d e : Desc} {r : List Desc}
    (hmay : mayFetch n s = true) (hbehind : (s.hif.sq[n]).behind = e :: r) :
    exec (.staleEntryReread n (some [d])) s = .next (
      if Desc.b d 1 0 = (s.hif.sq[n]).phaseAt (s.hif.sq[n]).fetched.length then
        requestEntries n (modSq n (fun q => sortEntries { q with behind := [] } s.now (d :: r))
          (emit (staleRead n s) s))
      else if (s.hif.sq[n]).rereads + 1 ≥ 16 then
        requestEntries n (flushDead n ((modSq n (fun q =>
            sortEntries { q with behind := [], fetched := q.fetched ++ [⟨d, true, s.now⟩] } s.now r)
          (emit (staleRead n s) s)).hif.sq[n]).fetched.length (modSq n (fun q =>
            sortEntries { q with behind := [], fetched := q.fetched ++ [⟨d, true, s.now⟩] } s.now r)
          (emit (staleRead n s) s)))
      else modSq n (fun q => { q with behind := d :: r, rereads := q.rereads + 1 })
        (emit (staleRead n s) s)) := by
  have hask : askStale n s = emit (staleRead n s) s := by
    rw [askStale]
    exact whenS_true (by rw [hbehind]; rfl)
  refine congrArg Host.Outcome.next ((whenS_true hmay).trans ?_)
  dsimp only
  rw [hask]
  simp only [emit_hif, hbehind]
  rfl

end Sys2Proof.Proofs
end

section
/-!
SUPPORT. The re-reads of stale entries, and R54 to R67 as the obligation states them.
-/

namespace Sys2Proof.Proofs

set_option Elab.async false

open Sys2Proof Sys2Proof.Machine Sys2Proof.Safety Sys2Proof.Laws

theorem flushDead_of_alive {n : Fin 16} {s : State} {x : Fetched} {l : List Fetched}
    (hfetched : (s.hif.sq[n]).fetched = x :: l) (halive : x.dead = false) (fuel : Nat) :
    flushDead n fuel s = s := by
  obtain ⟨d, dead, arr⟩ := x
  obtain rfl : dead = false := halive
  cases fuel with
  | zero => rfl
  | succ k => rw [flushDead, hfetched]

theorem flushDead_of_dead {n : Fin 16} {s : State} {d : Desc} {a : Nat}
    (hfetched : (s.hif.sq[n]).fetched = [⟨d, true, a⟩]) :
    flushDead n (s.hif.sq[n]).fetched.length s =
      staleDone n d (modSq n (fun q => { q.advance with fetched := [] }) s) := by
  rw [hfetched, List.length_singleton, flushDead, hfetched]
  rfl

/-- The completion of a stale entry (R67). -/
def staleCpl (n : Fin 16) (d : Desc) : Cpl :=
  ⟨.ring n, BitVec.ofNat 16 (Desc.f d 2 0 16), BitVec.ofNat 8 (Desc.f d 0 0 8), stStale, 0, 0⟩

theorem staleDone_eq (n : Fin 16) (d : Desc) (s : State) : staleDone n d s =
    deliver (.ring n) (staleCpl n d) false (raise 34 .note (Desc.f d 0 0 8 + 6 * 2 ^ 28) s) := by
  unfold staleDone staleCpl
  rfl

theorem staleDone_spec (n : Fin 16) (d : Desc) {s : State} (hcore : s.pwr.core = true) :
    (∃ r k, (staleDone n d s).hif.sq[n] = { s.hif.sq[n] with running := r, lastDone := k }) ∧
    ((staleDone n d s).hif.cq[(s.hif.sq[n]).cq]).waiting =
      (s.hif.cq[(s.hif.sq[n]).cq]).waiting ++ [staleCpl n d] ∧
    Raised 34 .note (Desc.f d 0 0 8 + 6 * 2 ^ 28) s (staleDone n d s) := by
  rw [staleDone_eq]
  generalize Desc.f d 0 0 8 + 6 * 2 ^ 28 = detail
  have hhif : (raise 34 .note detail s).hif = s.hif :=
    hif_of_keeps (keeps_raise _ _ _ _) (by decide) (by decide)
  obtain ⟨r, k, hring, -⟩ := getElem_deliver_ring n n (staleCpl n d) false (raise 34 .note detail s)
  have hwait := (deliver_ring n (staleCpl n d) false (raise 34 .note detail s)).1
  have hrve := keeps_deliver_ring n (staleCpl n d) false (raise 34 .note detail s) .rve (by decide)
  have hraised := raised_raise (g := 34) (c := .note) (d := detail) hcore
  simp only [hhif] at hring hwait
  refine ⟨⟨r, k, hring⟩, hwait, ?_⟩
  rw [Raised] at hraised ⊢
  rw [hrve, hraised]

theorem advance_head {q : SqRing} (h : q.head < q.size) : q.advance.head = (q.head + 1) % q.size := by
  unfold SqRing.advance
  split
  · rw [show q.head + 1 = q.size from by omega, Nat.mod_self]
  · next hge => exact (Nat.mod_eq_of_lt (Nat.lt_of_not_le hge)).symm

theorem advance_cq (q : SqRing) : q.advance.cq = q.cq := by
  unfold SqRing.advance
  split <;> rfl

theorem advance_behind (q : SqRing) : q.advance.behind = q.behind := by
  unfold SqRing.advance
  split <;> rfl

theorem sortEntries_nil (q : SqRing) (now : Nat) : sortEntries q now [] = { q with behind := [] } := rfl

/-- What a change of submission ring n leaves: the state after it, by the fields that the rings' rules read. -/
structure RingChanged (n : Fin 16) (f : SqRing → SqRing) (s t : State) : Prop where
  self : t.hif.sq[n] = f s.hif.sq[n]
  other : ∀ m : Fin 16, m ≠ n → t.hif.sq[m] = s.hif.sq[m]
  cq : t.hif.cq = s.hif.cq
  out : t.out = s.out
  rve : t.rve = s.rve
  now : t.now = s.now
  pwr : t.pwr = s.pwr

theorem ringChanged_modSq (n : Fin 16) (f : SqRing → SqRing) (s : State) : RingChanged n f s (modSq n f s) where
  self := (getElem_modSq n n f s).trans (if_pos rfl)
  other m hm := (getElem_modSq n m f s).trans (if_neg hm)
  cq := rfl
  out := modSq_out n f s
  rve := modSq_rve n f s
  now := modSq_now n f s
  pwr := modSq_pwr n f s

theorem RingChanged.trans {n : Fin 16} {f g : SqRing → SqRing} {s t u : State} (h : RingChanged n f s t)
    (k : RingChanged n g t u) : RingChanged n (fun q => g (f q)) s u where
  self := by rw [k.self, h.self]
  other m hm := (k.other m hm).trans (h.other m hm)
  cq := k.cq.trans h.cq
  out := k.out.trans h.out
  rve := k.rve.trans h.rve
  now := k.now.trans h.now
  pwr := k.pwr.trans h.pwr

theorem ringsServed_congr {s t : State} (h : t.pwr = s.pwr) : ringsServed t = ringsServed s := by
  simp only [ringsServed, coresUp, lowOff, h]

/-- The part of O10 about a producer index within the ring. -/
theorem producerIndex_taken {s : State} {n : Fin 16} {w : Word} (hserved : ringsServed s = true)
    (hen : (s.hif.sq[n]).enable = true) (hstop : (s.hif.sq[n]).stopped = false)
    (hlt : field w 0 16 < (s.hif.sq[n]).size) :
    Answers (exec (.producerIndexReadDone n (some w)) s) fun t =>
      (t.hif.sq[n]).prod = field w 0 16 ∧ (t.hif.sq[n]).head = (s.hif.sq[n]).head ∧
      (t.hif.sq[n]).dbAsked = none ∧
      ((s.hif.cq[(s.hif.sq[n]).cq]).full = false → (s.hif.sq[n]).fetched = [] → (s.hif.sq[n]).behind = [] →
        (s.hif.sq[n]).asked = 0 → (s.hif.sq[n]).head < (s.hif.sq[n]).size →
        field w 0 16 ≠ (s.hif.sq[n]).head →
        Sent [.hostRead ((s.hif.sq[n]).base.toNat + 64 * (s.hif.sq[n]).head)
          (64 * min (min 8 ((field w 0 16 + (s.hif.sq[n]).size - (s.hif.sq[n]).head) % (s.hif.sq[n]).size))
            ((s.hif.sq[n]).size - (s.hif.sq[n]).head)) TlpAttr.clear] s t) ∧
      t.hif.cq = s.hif.cq ∧ ∀ m : Fin 16, m ≠ n → t.hif.sq[m] = s.hif.sq[m] := by
  refine answers_whenS (by rw [hserved, hen, hstop]; rfl) ?_
  dsimp only
  have hfirst := ringChanged_modSq n (fun q => { q with dbAsked := none }) s
  generalize modSq n (fun q => { q with dbAsked := none }) s = u at hfirst ⊢
  have hsize : (u.hif.sq[n]).size = (s.hif.sq[n]).size := by rw [hfirst.self]; rfl
  rw [if_neg (by rw [hsize]; omega)]
  have hboth := hfirst.trans (ringChanged_modSq n (fun q => { q with prod := field w 0 16 }) u)
  generalize modSq n (fun q => { q with prod := field w 0 16 }) u = t at hboth ⊢
  obtain ⟨htn, hto, htc, htout, -, -, htp⟩ := hboth
  obtain ⟨⟨k, hk⟩, hothers, hcq, -⟩ := requestEntries_rings n t
  rw [hk, htn, hcq, htc]
  refine ⟨rfl, rfl, rfl, fun hfull hfetched hbehind hasked hhead hne => ?_, rfl, fun m hm => ?_⟩
  · have hmay : mayFetch n t = true := by
      simp only [mayFetch_iff, htn, htc, ringsServed_congr htp]
      exact ⟨hserved, hen, hstop, hfull⟩
    have hsent := sent_requestEntries hmay (by rw [htn]; exact hfetched) (by rw [htn]; exact hbehind)
      (by rw [htn]; exact hasked) (by rw [htn]; exact hhead) (by rw [htn]; exact hlt) (by rw [htn]; exact hne)
    rw [Sent, htn, htout] at hsent
    exact hsent
  · rw [hothers m hm, hto m hm]

/-- A ring whose read failed, or whose producer index lies outside it, stops (R58). -/
theorem stopRing_of_changed {s u : State} {n : Fin 16} {f : SqRing → SqRing} (hu : RingChanged n f s u)
    (hcore : s.pwr.core = true) (kind : Nat) :
    (∃ r, (stopRing n kind u).hif.sq[n] = { f s.hif.sq[n] with
      stopped := true
      badIndex := (f s.hif.sq[n]).badIndex || kind == 1
      fetchError := (f s.hif.sq[n]).fetchError || kind == 2
      running := r }) ∧ Raised 33 .minor (n.val + kind * 256) s (stopRing n kind u) := by
  obtain ⟨⟨r, hr⟩, hraised⟩ := stopRing_spec n kind (s := u) (by rw [hu.pwr]; exact hcore)
  rw [hu.self] at hr
  rw [Raised, hu.rve, hu.now] at hraised
  exact ⟨⟨r, hr⟩, hraised⟩

theorem producerIndex_outside {s : State} {n : Fin 16} {w : Word} (hserved : ringsServed s = true)
    (hen : (s.hif.sq[n]).enable = true) (hstop : (s.hif.sq[n]).stopped = false)
    (hle : (s.hif.sq[n]).size ≤ field w 0 16) :
    Answers (exec (.producerIndexReadDone n (some w)) s) fun t =>
      (t.hif.sq[n]).badIndex = true ∧ (t.hif.sq[n]).stopped = true ∧
      (t.hif.sq[n]).prod = (s.hif.sq[n]).prod ∧ Raised 33 .minor (n.val + 256) s t := by
  refine answers_whenS (by rw [hserved, hen, hstop]; rfl) ?_
  dsimp only
  have hfirst := ringChanged_modSq n (fun q => { q with dbAsked := none }) s
  generalize modSq n (fun q => { q with dbAsked := none }) s = u at hfirst ⊢
  have hsize : (u.hif.sq[n]).size = (s.hif.sq[n]).size := by rw [hfirst.self]; rfl
  rw [if_pos (by rw [hsize]; exact hle)]
  obtain ⟨⟨r, hr⟩, hraised⟩ := stopRing_of_changed hfirst (core_of_ringsServed hserved) 1
  rw [hr]
  exact ⟨by simp, rfl, rfl, hraised⟩

theorem failedRead_stops {s : State} {n : Fin 16} {c : Instr} (hserved : ringsServed s = true)
    (hen : (s.hif.sq[n]).enable = true) (hstop : (s.hif.sq[n]).stopped = false)
    (hc : c = .producerIndexReadDone n none ∨ c = .ringEntryFetched n none ∧ (s.hif.sq[n]).asked ≠ 0) :
    Answers (exec c s) fun t =>
      (t.hif.sq[n]).fetchError = true ∧ (t.hif.sq[n]).stopped = true ∧
      (t.hif.sq[n]).fetched = (s.hif.sq[n]).fetched ∧ Raised 33 .minor (n.val + 512) s t := by
  have hstops : ∀ f : SqRing → SqRing, (f s.hif.sq[n]).fetched = (s.hif.sq[n]).fetched →
      ((stopRing n 2 (modSq n f s)).hif.sq[n]).fetchError = true ∧
      ((stopRing n 2 (modSq n f s)).hif.sq[n]).stopped = true ∧
      ((stopRing n 2 (modSq n f s)).hif.sq[n]).fetched = (s.hif.sq[n]).fetched ∧
      Raised 33 .minor (n.val + 512) s (stopRing n 2 (modSq n f s)) := by
    intro f hf
    obtain ⟨⟨r, hr⟩, hraised⟩ := stopRing_of_changed (ringChanged_modSq n f s) (core_of_ringsServed hserved) 2
    rw [hr]
    exact ⟨by simp, rfl, hf, hraised⟩
  obtain rfl | ⟨rfl, hasked⟩ := hc
  · exact answers_whenS (by rw [hserved, hen, hstop]; rfl) (hstops _ rfl)
  · exact answers_whenS (by rw [hserved, hen, hstop, bne_iff_ne.mpr hasked]; rfl) (hstops _ rfl)

theorem ringEntryFetched_sorts {s : State} {n : Fin 16} {a b : List Desc} (hserved : ringsServed s = true)
    (hen : (s.hif.sq[n]).enable = true) (hstop : (s.hif.sq[n]).stopped = false)
    (hasked : (s.hif.sq[n]).asked = (a ++ b).length) (hne : a ++ b ≠ [])
    (ha : ∀ i : Fin a.length,
      Desc.b a[i] 1 0 = (s.hif.sq[n]).phaseAt ((s.hif.sq[n]).fetched.length + i.val))
    (hb : ∀ d, b.head? = some d →
      Desc.b d 1 0 ≠ (s.hif.sq[n]).phaseAt ((s.hif.sq[n]).fetched.length + a.length)) :
    Answers (exec (.ringEntryFetched n (some (a ++ b))) s) fun t =>
      (t.hif.sq[n]).fetched = (s.hif.sq[n]).fetched ++ a.map (fun d => ⟨d, false, s.now⟩) ∧
      (t.hif.sq[n]).behind = b ∧ (b ≠ [] → (t.hif.sq[n]).rereads = 0) ∧
      (t.hif.sq[n]).head = (s.hif.sq[n]).head ∧ ∀ m : Fin 16, m ≠ n → t.hif.sq[m] = s.hif.sq[m] := by
  have hasked' : (s.hif.sq[n]).asked ≠ 0 := by
    rw [hasked]; exact fun h => hne (List.length_eq_zero_iff.mp h)
  refine answers_whenS (by rw [hserved, hen, hstop, bne_iff_ne.mpr hasked']; rfl) ?_
  dsimp only
  have hfirst := ringChanged_modSq n (fun q => { q with asked := 0 }) s
  generalize modSq n (fun q => { q with asked := 0 }) s = u at hfirst ⊢
  rw [hasked, List.take_length, hfirst.now]
  have hboth := hfirst.trans (ringChanged_modSq n (fun r => sortEntries r s.now (a ++ b)) u)
  generalize modSq n (fun r => sortEntries r s.now (a ++ b)) u = t at hboth ⊢
  have htn := hboth.self
  rw [sortEntries_append s.now a b { s.hif.sq[n] with asked := 0 } ha hb] at htn
  obtain ⟨⟨k, hk⟩, hothers, -, -⟩ := requestEntries_rings n t
  rw [hk, htn]
  exact ⟨rfl, rfl, fun hb => if_neg hb, rfl, fun m hm => (hothers m hm).trans (hboth.other m hm)⟩

theorem reread_expected {s : State} {n : Fin 16} {d e : Desc} (hmay : mayFetch n s = true)
    (hbehind : (s.hif.sq[n]).behind = [e])
    (hphase : Desc.b d 1 0 = (s.hif.sq[n]).phaseAt (s.hif.sq[n]).fetched.length) :
    Answers (exec (.staleEntryReread n (some [d])) s) fun t =>
      (t.hif.sq[n]).fetched = (s.hif.sq[n]).fetched ++ [⟨d, false, s.now⟩] ∧ (t.hif.sq[n]).behind = [] ∧
      staleRead n s ∈ t.out := by
  refine answers_of_eq (exec_staleEntryReread hmay hbehind) ?_
  rw [if_pos hphase]
  have hu := ringChanged_modSq n (fun q => sortEntries { q with behind := [] } s.now [d]) (emit (staleRead n s) s)
  generalize modSq n (fun q => sortEntries { q with behind := [] } s.now [d]) (emit (staleRead n s) s) = u at hu ⊢
  have hsort : sortEntries { s.hif.sq[n] with behind := [] } s.now [d] =
      { s.hif.sq[n] with behind := [], fetched := (s.hif.sq[n]).fetched ++ [⟨d, false, s.now⟩] } := by
    generalize s.hif.sq[n] = q at hphase ⊢
    exact if_pos hphase
  obtain ⟨⟨k, hk⟩, -, -, hout⟩ := requestEntries_rings n u
  rw [hk, hu.self, emit_hif, hsort]
  exact ⟨rfl, rfl, hout _ (by rw [hu.out]; exact List.mem_cons_self ..)⟩

theorem reread_stale {s : State} {n : Fin 16} {d e : Desc} {r : List Desc} (hmay : mayFetch n s = true)
    (hbehind : (s.hif.sq[n]).behind = e :: r)
    (hphase : Desc.b d 1 0 ≠ (s.hif.sq[n]).phaseAt (s.hif.sq[n]).fetched.length)
    (hcount : (s.hif.sq[n]).rereads + 1 < 16) :
    Answers (exec (.staleEntryReread n (some [d])) s) fun t =>
      (t.hif.sq[n]).rereads = (s.hif.sq[n]).rereads + 1 ∧ (t.hif.sq[n]).behind = d :: r ∧
      (t.hif.sq[n]).fetched = (s.hif.sq[n]).fetched ∧ t.hif.cq = s.hif.cq ∧
      Sent [staleRead n s] s t ∧ Keeps [.out, .hif] s t := by
  refine answers_of_eq (exec_staleEntryReread hmay hbehind) ?_
  rw [if_neg hphase, if_neg (by omega)]
  have hkeeps : Keeps [.out, .hif] s (modSq n (fun q => { q with behind := d :: r, rereads := q.rereads + 1 })
      (emit (staleRead n s) s)) := keeps_step (keeps_modSq _ _ _) rfl (keeps_mono (keeps_emit _ _) rfl)
  have hu := ringChanged_modSq n (fun q => { q with behind := d :: r, rereads := q.rereads + 1 })
    (emit (staleRead n s) s)
  generalize modSq n (fun q => { q with behind := d :: r, rereads := q.rereads + 1 })
    (emit (staleRead n s) s) = u at hu hkeeps ⊢
  rw [Sent, hu.self, hu.cq, hu.out, emit_hif]
  exact ⟨rfl, rfl, rfl, rfl, rfl, hkeeps⟩

/-- The 16th re-read of a stale entry that is alone and at HEAD (R67). -/
theorem reread_gives_up {s : State} {n : Fin 16} {d e : Desc} (hmay : mayFetch n s = true)
    (hfetched : (s.hif.sq[n]).fetched = []) (hbehind : (s.hif.sq[n]).behind = [e])
    (hphase : Desc.b d 1 0 ≠ (s.hif.sq[n]).phaseAt 0) (hcount : (s.hif.sq[n]).rereads + 1 = 16)
    (hhead : (s.hif.sq[n]).head < (s.hif.sq[n]).size) :
    Answers (exec (.staleEntryReread n (some [d])) s) fun t =>
      (t.hif.sq[n]).head = ((s.hif.sq[n]).head + 1) % (s.hif.sq[n]).size ∧
      (t.hif.sq[n]).behind = [] ∧ Raised 34 .note (Desc.f d 0 0 8 + 6 * 2 ^ 28) s t ∧
      (t.hif.cq[(s.hif.sq[n]).cq]).waiting =
        (s.hif.cq[(s.hif.sq[n]).cq]).waiting ++ [staleCpl n d] := by
  refine answers_of_eq (exec_staleEntryReread hmay hbehind) ?_
  rw [if_neg (by rw [hfetched]; exact hphase), if_pos (by omega)]
  have hcore : s.pwr.core = true := core_of_ringsServed ((mayFetch_iff n s).mp hmay).1
  have ht := ringChanged_modSq n (fun q =>
      sortEntries { q with behind := [], fetched := q.fetched ++ [⟨d, true, s.now⟩] } s.now [])
    (emit (staleRead n s) s)
  generalize modSq n (fun q =>
      sortEntries { q with behind := [], fetched := q.fetched ++ [⟨d, true, s.now⟩] } s.now [])
    (emit (staleRead n s) s) = t at ht ⊢
  obtain ⟨htn, -, htc, -, htr, htnow, htp⟩ := ht
  rw [emit_hif, sortEntries_nil, hfetched] at htn
  rw [emit_hif] at htc
  rw [emit_rve] at htr
  rw [emit_now] at htnow
  rw [emit_pwr] at htp
  rw [flushDead_of_dead (d := d) (a := s.now) (by rw [htn]; rfl)]
  have hu := ringChanged_modSq n (fun q => { q.advance with fetched := [] }) t
  generalize modSq n (fun q => { q.advance with fetched := [] }) t = u at hu ⊢
  obtain ⟨hun, -, huc, -, hur, hunow, hup⟩ := hu
  obtain ⟨⟨r, k, hring⟩, hwait, hraised⟩ := staleDone_spec n d (s := u) (by rw [hup, htp]; exact hcore)
  have hucq : (u.hif.sq[n]).cq = (s.hif.sq[n]).cq := by
    rw [hun]; exact (advance_cq _).trans (by rw [htn])
  simp only [hucq, huc, htc] at hwait
  rw [Raised, hur, hunow, htr, htnow] at hraised
  generalize staleDone n d u = v at hring hwait hraised ⊢
  obtain ⟨⟨k', hk'⟩, -, hcq, -⟩ := requestEntries_rings n v
  have hrve : (requestEntries n v).rve = v.rve := keeps_requestEntries _ _ .rve (by decide)
  rw [Raised, hk', hring, hun, hcq, hwait, hrve, hraised]
  refine ⟨?_, ?_, rfl, rfl⟩
  · exact (advance_head (by rw [htn]; exact hhead)).trans (by rw [htn]; rfl)
  · exact (advance_behind _).trans (by rw [htn])

/-- The 16th re-read of a stale entry behind one that has not started (R67). -/
theorem reread_marks {s : State} {n : Fin 16} {d e : Desc} {x : Fetched} {l : List Fetched}
    (hmay : mayFetch n s = true) (hfetched : (s.hif.sq[n]).fetched = x :: l) (halive : x.dead = false)
    (hbehind : (s.hif.sq[n]).behind = [e])
    (hphase : Desc.b d 1 0 ≠ (s.hif.sq[n]).phaseAt (s.hif.sq[n]).fetched.length)
    (hcount : (s.hif.sq[n]).rereads + 1 = 16) :
    Answers (exec (.staleEntryReread n (some [d])) s) fun t =>
      (t.hif.sq[n]).fetched = (s.hif.sq[n]).fetched ++ [⟨d, true, s.now⟩] ∧ (t.hif.sq[n]).behind = [] ∧
      (t.hif.sq[n]).head = (s.hif.sq[n]).head ∧ t.hif.cq = s.hif.cq ∧ t.rve = s.rve := by
  refine answers_of_eq (exec_staleEntryReread hmay hbehind) ?_
  rw [if_neg hphase, if_pos (by omega)]
  have ht := ringChanged_modSq n (fun q =>
      sortEntries { q with behind := [], fetched := q.fetched ++ [⟨d, true, s.now⟩] } s.now [])
    (emit (staleRead n s) s)
  generalize modSq n (fun q =>
      sortEntries { q with behind := [], fetched := q.fetched ++ [⟨d, true, s.now⟩] } s.now [])
    (emit (staleRead n s) s) = t at ht ⊢
  obtain ⟨htn, -, htc, -, htr, -, -⟩ := ht
  rw [emit_hif, sortEntries_nil] at htn
  rw [flushDead_of_alive (x := x) (l := l ++ [⟨d, true, s.now⟩]) (by rw [htn, hfetched]; rfl) halive]
  obtain ⟨⟨k, hk⟩, -, hcq, -⟩ := requestEntries_rings n t
  rw [hk, htn, hcq, htc, keeps_requestEntries n t .rve (by decide), htr]
  exact ⟨rfl, rfl, rfl, rfl, rfl⟩

/-- Settles O10: index and entry reads by `requestEntries`, phases by `sortEntries`, re-reads by their count. -/
theorem ringFetching : Obligations.RingFetching := by
  refine ⟨⟨fun s n c hserved hen hstop hc => ⟨fun hdue => ?_, fun hasked => ?_⟩,
    fun s n hup hen hdue => ?_, fun s n w => producerIndex_taken, fun s n w => producerIndex_outside,
    fun s n c => failedRead_stops⟩,
    fun s n a b hserved hen hstop hasked hne _ ha hb => ringEntryFetched_sorts hserved hen hstop hasked hne ha hb,
    fun s n d e => reread_expected, fun s n d e r => reread_stale, fun s n d e => reread_gives_up,
    fun s n d e x l => reread_marks⟩
  · refine answers_of_eq (exec_doorbell hc) ?_
    rw [readDoorbell_of_due hserved hen hstop hdue]
    have hkeeps := keeps_modSq n (fun q => { q with dbAsked := some s.now }) s
    have hu := ringChanged_modSq n (fun q => { q with dbAsked := some s.now }) s
    generalize modSq n (fun q => { q with dbAsked := some s.now }) s = u at hu hkeeps ⊢
    rw [Sent, emit_out, emit_hif, hu.out, hu.self]
    exact ⟨rfl, rfl, keeps_step (keeps_emit _ _) rfl (keeps_mono hkeeps rfl)⟩
  · rw [exec_doorbell hc, readDoorbell_of_asked hasked]
  · refine answers_whenS hup ?_
    rw [readConsumer_of_due hen hdue]
    refine ⟨rfl, ?_, fun m hm => ?_, rfl, keeps_step (keeps_emit _ _) rfl (keeps_mono (keeps_modCq _ _ _) rfl)⟩
    · exact (getElem_modCq n n _ s).trans (if_pos rfl)
    · exact (getElem_modCq n m _ s).trans (if_neg hm)

end Sys2Proof.Proofs
end

section
/-!
SUPPORT. Completion rings: writing entries, a full ring, consumer-index reads and signals.
-/

namespace Sys2Proof.Proofs

set_option Elab.async false

open Sys2Proof Sys2Proof.Machine Sys2Proof.Safety Sys2Proof.Laws

/-- What a change of completion ring n leaves: the state after it, by the fields that the rings' rules read. -/
structure CqChanged (n : Fin 16) (f : CqRing → CqRing) (s t : State) : Prop where
  self : t.hif.cq[n] = f s.hif.cq[n]
  other : ∀ m : Fin 16, m ≠ n → t.hif.cq[m] = s.hif.cq[m]
  sq : t.hif.sq = s.hif.sq
  msix : t.hif.msix = s.hif.msix
  out : t.out = s.out
  rve : t.rve = s.rve
  now : t.now = s.now
  pwr : t.pwr = s.pwr
  keeps : Keeps [.hif] s t

theorem cqChanged_modCq (n : Fin 16) (f : CqRing → CqRing) (s : State) : CqChanged n f s (modCq n f s) where
  self := (getElem_modCq n n f s).trans (if_pos rfl)
  other m hm := (getElem_modCq n m f s).trans (if_neg hm)
  sq := rfl
  msix := rfl
  out := modCq_out n f s
  rve := modCq_rve n f s
  now := modCq_now n f s
  pwr := modCq_pwr n f s
  keeps := keeps_modCq n f s

theorem whenS_cases (b : Bool) (f : State → State) (s : State) : whenS b f s = f s ∨ whenS b f s = s := by
  cases b
  · exact .inr rfl
  · exact .inl rfl

theorem signalVec_rings (v : Nat) (s : State) : (signalVec v s).hif.cq = s.hif.cq ∧
    (signalVec v s).hif.sq = s.hif.sq ∧ ∀ e ∈ s.out, e ∈ (signalVec v s).out := by
  unfold signalVec
  split_ifs
  · exact ⟨rfl, rfl, fun e he => List.mem_cons_of_mem _ he⟩
  · exact ⟨rfl, rfl, fun e he => he⟩
  · exact ⟨rfl, rfl, fun e he => he⟩

/-- Signalling a ring changes only how many of its entries are not signalled. -/
theorem signalCq_rings (n : Fin 16) (s : State) :
    (∃ u, (signalCq n s).hif.cq[n] = { s.hif.cq[n] with unsignalled := u }) ∧
    (∀ m : Fin 16, m ≠ n → (signalCq n s).hif.cq[m] = s.hif.cq[m]) ∧
    ∀ e ∈ s.out, e ∈ (signalCq n s).out := by
  rw [signalCq]
  dsimp only
  obtain h | h := whenS_cases (s.hif.cq[n]).irqEn (fun s' =>
    signalVec (s.hif.cq[n]).vector (modCq n (fun q => { q with unsignalled := 0 }) s')) s
  · rw [h]
    have hu := cqChanged_modCq n (fun q => { q with unsignalled := 0 }) s
    generalize modCq n (fun q => { q with unsignalled := 0 }) s = u at hu ⊢
    obtain ⟨hcq, -, hout⟩ := signalVec_rings (s.hif.cq[n]).vector u
    rw [hcq]
    exact ⟨⟨0, hu.self⟩, hu.other, fun e he => hout e (by rw [hu.out]; exact he)⟩
  · rw [h]
    exact ⟨⟨_, rfl⟩, fun _ _ => rfl, fun _ he => he⟩

/-- An entry put at TAIL: the write that goes out, and the ring after it (R53, R56). -/
theorem putCpl_rings (n : Fin 16) (e : Cpl) (s : State) :
    (∃ u f, (putCpl n e s).hif.cq[n] = { s.hif.cq[n] with
      tail := ((s.hif.cq[n]).tail + 1) % (s.hif.cq[n]).size
      phase := (s.hif.cq[n]).phase ^^ decide (((s.hif.cq[n]).tail + 1) % (s.hif.cq[n]).size = 0)
      unsignalled := u, full := f }) ∧
    (∀ m : Fin 16, m ≠ n → (putCpl n e s).hif.cq[m] = s.hif.cq[m]) ∧
    Emit.hostWrite ((s.hif.cq[n]).base.toNat + 32 * (s.hif.cq[n]).tail)
      (cplBytes e (sqOf e.src s).1 (bn (s.hif.cq[n]).phase) (sqOf e.src s).2) TlpAttr.clear ∈
        (putCpl n e s).out := by
  unfold putCpl
  dsimp only
  generalize hw : Emit.hostWrite ((s.hif.cq[n]).base.toNat + 32 * (s.hif.cq[n]).tail)
      (cplBytes e (sqOf e.src s).1 (bn (s.hif.cq[n]).phase) (sqOf e.src s).2) TlpAttr.clear = w
  have hu := cqChanged_modCq n (fun q => { q with
      tail := ((s.hif.cq[n]).tail + 1) % (s.hif.cq[n]).size
      phase := q.phase ^^ decide (((s.hif.cq[n]).tail + 1) % (s.hif.cq[n]).size = 0)
      unsignalled := q.unsignalled + 1
      full := q.enable && (((s.hif.cq[n]).tail + 1) % (s.hif.cq[n]).size + 1) % q.size == q.cons }) (emit w s)
  generalize modCq n (fun q => { q with
      tail := ((s.hif.cq[n]).tail + 1) % (s.hif.cq[n]).size
      phase := q.phase ^^ decide (((s.hif.cq[n]).tail + 1) % (s.hif.cq[n]).size = 0)
      unsignalled := q.unsignalled + 1
      full := q.enable && (((s.hif.cq[n]).tail + 1) % (s.hif.cq[n]).size + 1) % q.size == q.cons })
    (emit w s) = u at hu ⊢
  have hself := hu.self
  have hother := hu.other
  have hout : w ∈ u.out := by rw [hu.out]; exact List.mem_cons_self ..
  rw [emit_hif] at hself hother
  obtain h | h := whenS_cases ((e.status != stSuccess && e.status != stLate) || (u.hif.cq[n]).coalUs == 0 ||
    decide ((u.hif.cq[n]).unsignalled ≥ (u.hif.cq[n]).coalCount)) (signalCq n) u
  · obtain ⟨⟨k, hk⟩, hothers, hsends⟩ := signalCq_rings n u
    rw [h, hk, hself]
    exact ⟨⟨_, _, rfl⟩, fun m hm => (hothers m hm).trans (hother m hm), hsends _ hout⟩
  · rw [h, hself]
    exact ⟨⟨_, _, rfl⟩, hother, hout⟩

theorem settleRing_out (n : Fin 16) (s : State) : (settleRing n s).out = s.out :=
  keeps_settleRing n s .out (by decide)

theorem writeCpl_of_room {n : Fin 16} {s : State} {e : Cpl} {r : List Cpl}
    (hen : (s.hif.cq[n]).enable = true) (hwait : (s.hif.cq[n]).waiting = e :: r)
    (hroom : ((s.hif.cq[n]).tail + 1) % (s.hif.cq[n]).size ≠ (s.hif.cq[n]).cons) :
    (writeCpl n s).hif.cq = (putCpl n e (modCq n (fun q => { q with waiting := r }) s)).hif.cq ∧
    (writeCpl n s).out = (putCpl n e (modCq n (fun q => { q with waiting := r }) s)).out := by
  have hno : (!(s.hif.cq[n]).enable || cqNoRoom n s) = false := by
    rw [hen, cqNoRoom, beq_false_of_ne hroom]; rfl
  unfold writeCpl
  simp only [hwait, hno, Bool.false_eq_true, if_false]
  split
  · exact ⟨settleRing_cq _ _, settleRing_out _ _⟩
  · exact ⟨rfl, rfl⟩

theorem writeCpl_of_full {n : Fin 16} {s : State}
    (hfull : ((s.hif.cq[n]).tail + 1) % (s.hif.cq[n]).size = (s.hif.cq[n]).cons) :
    writeCpl n s = s ∨ writeCpl n s = modCq n (fun q => { q with full := q.enable }) s := by
  have hno : (!(s.hif.cq[n]).enable || cqNoRoom n s) = true := by
    rw [cqNoRoom, beq_iff_eq.mpr hfull, Bool.or_true]
  unfold writeCpl
  dsimp only
  split
  · exact .inl rfl
  · exact .inr (if_pos hno)

/-- Requests of rings change no completion ring, and take nothing back of what was sent. -/
theorem foldl_requestEntries (l : List (Fin 16)) : ∀ s : State,
    (l.foldl (fun s m => requestEntries m s) s).hif.cq = s.hif.cq ∧
    ∀ e ∈ s.out, e ∈ (l.foldl (fun s m => requestEntries m s) s).out := by
  induction l with
  | nil => exact fun _ => ⟨rfl, fun _ he => he⟩
  | cons m l ih =>
    intro s
    obtain ⟨-, -, hcq, hout⟩ := requestEntries_rings m s
    obtain ⟨hcqs, houts⟩ := ih (requestEntries m s)
    rw [List.foldl_cons]
    exact ⟨hcqs.trans hcq, fun e he => houts e (hout e he)⟩

/-- The consumer-index read that a poll takes the result of: the one under way, else one that is sent now. -/
def consumerRead (n : Fin 16) (s : State) : State :=
  if (s.hif.cq[n]).dbAsked.isSome then s else readConsumer n s

theorem consumerRead_spec {n : Fin 16} {s : State} (hen : (s.hif.cq[n]).enable = true) :
    (∃ d r, (consumerRead n s).hif.cq[n] = { s.hif.cq[n] with dbAsked := d, retry := r }) ∧
    ((s.hif.cq[n]).dbAsked = none → Sent [.hostRead (s.hif.cq[n]).db.toNat 4 TlpAttr.clear] s (consumerRead n s)) ∧
    ((s.hif.cq[n]).dbAsked ≠ none → (consumerRead n s).out = s.out) ∧
    (consumerRead n s).rve = s.rve ∧ (consumerRead n s).now = s.now ∧ (consumerRead n s).pwr = s.pwr ∧
    Keeps [.out, .hif] s (consumerRead n s) := by
  unfold consumerRead
  cases hasked : (s.hif.cq[n]).dbAsked with
  | some a =>
    rw [if_pos Option.isSome_some]
    exact ⟨⟨_, _, rfl⟩, fun h => absurd h (by simp), fun _ => rfl, rfl, rfl, rfl, keeps_refl _ _⟩
  | none =>
    rw [if_neg (by simp), readConsumer_of_due hen (by rw [hasked]; simp)]
    have hu := cqChanged_modCq n (fun q => { q with dbAsked := some s.now, retry := false }) s
    generalize modCq n (fun q => { q with dbAsked := some s.now, retry := false }) s = u at hu ⊢
    rw [Sent, emit_out, emit_hif, emit_rve, emit_now, emit_pwr, hu.out]
    exact ⟨⟨_, _, hu.self⟩, fun _ => rfl, fun h => absurd rfl h, hu.rve, hu.now, hu.pwr,
      keeps_step (keeps_emit _ _) rfl (keeps_mono hu.keeps rfl)⟩

theorem signalVec_of_open {v : Nat} {s : State} (h : vectorOpen v s = true) :
    signalVec v s = { s with out := msixMsg v s :: s.out } := if_pos h

theorem signalVec_of_masked {v : Nat} {s : State} (h : vectorOpen v s = false) (hen : s.hif.msix.enable = true) :
    signalVec v s = { s with hif.msix.pending := s.hif.msix.pending ||| BitVec.ofNat 32 (2 ^ v) } := by
  rw [signalVec, h, hen]
  rfl

theorem completionWrite_room {s : State} {n : Fin 16} {e : Cpl} {r : List Cpl} (hup : coresUp s = true)
    (hen : (s.hif.cq[n]).enable = true) (hwait : (s.hif.cq[n]).waiting = e :: r)
    (hroom : ((s.hif.cq[n]).tail + 1) % (s.hif.cq[n]).size ≠ (s.hif.cq[n]).cons) :
    Answers (exec (.completionWrite n) s) fun t =>
      (t.hif.cq[n]).waiting = r ∧
      (t.hif.cq[n]).tail = ((s.hif.cq[n]).tail + 1) % (s.hif.cq[n]).size ∧
      (t.hif.cq[n]).phase = ((s.hif.cq[n]).phase ^^ decide ((t.hif.cq[n]).tail = 0)) ∧
      Emit.hostWrite ((s.hif.cq[n]).base.toNat + 32 * (s.hif.cq[n]).tail)
        (cplBytes e (sqOf e.src s).1 (bn (s.hif.cq[n]).phase) (sqOf e.src s).2) TlpAttr.clear ∈ t.out ∧
      ∀ m : Fin 16, m ≠ n → t.hif.cq[m] = s.hif.cq[m] := by
  refine answers_whenS hup ?_
  obtain ⟨hcq, hout⟩ := writeCpl_of_room hen hwait hroom
  rw [hcq, hout]
  have hu := cqChanged_modCq n (fun q => { q with waiting := r }) s
  generalize modCq n (fun q => { q with waiting := r }) s = u at hu ⊢
  obtain ⟨⟨k, f, hself⟩, hothers, hput⟩ := putCpl_rings n e u
  have hsrc : sqOf e.src u = sqOf e.src s := by simp only [sqOf, hu.sq]
  rw [hu.self] at hself hput
  rw [hself]
  exact ⟨rfl, rfl, rfl, hsrc ▸ hput, fun m hm => (hothers m hm).trans (hu.other m hm)⟩

theorem consumerPoll_taken {s : State} {n : Fin 16} {w : Word} (hcore : s.pwr.core = true)
    (hen : (s.hif.cq[n]).enable = true) (hpolls : (s.hif.cq[n]).polls = true) :
    Answers (exec (.cqConsumerPoll n (some w)) s) fun t =>
      (t.hif.cq[n]).cons = field w 0 16 ∧
      (t.hif.cq[n]).full = decide (((s.hif.cq[n]).tail + 1) % (s.hif.cq[n]).size = field w 0 16) ∧
      (t.hif.cq[n]).waiting = (s.hif.cq[n]).waiting ∧
      ((s.hif.cq[n]).dbAsked = none → Emit.hostRead (s.hif.cq[n]).db.toNat 4 TlpAttr.clear ∈ t.out) := by
  obtain ⟨⟨d, r, hself⟩, hsent, -, -, -, -, -⟩ := consumerRead_spec hen
  refine answers_whenS (by rw [hcore, hen, hpolls]; rfl) ?_
  dsimp only
  rw [← consumerRead]
  generalize consumerRead n s = u at hself hsent ⊢
  have hv := cqChanged_modCq n (fun q => { q with
    cons := field w 0 16, full := (q.tail + 1) % q.size == field w 0 16, dbAsked := none }) u
  generalize modCq n (fun q => { q with
    cons := field w 0 16, full := (q.tail + 1) % q.size == field w 0 16, dbAsked := none }) u = v at hv ⊢
  obtain ⟨hcq, hout⟩ := foldl_requestEntries ((List.finRange 16).filter fun m => (v.hif.sq[m]).cq == n) v
  rw [hcq, hv.self, hself]
  refine ⟨rfl, rfl, rfl, fun hasked => hout _ ?_⟩
  rw [hv.out, hsent hasked]
  exact List.mem_cons_self ..

theorem consumerPoll_failed {s : State} {n : Fin 16} (hcore : s.pwr.core = true)
    (hen : (s.hif.cq[n]).enable = true) (hpolls : (s.hif.cq[n]).polls = true) :
    Answers (exec (.cqConsumerPoll n none) s) fun t =>
      (t.hif.cq[n]).dbError = true ∧ (t.hif.cq[n]).retry = true ∧
      Raised 33 .minor (n.val + 16 + 4 * 256) s t ∧
      ((s.hif.cq[n]).dbAsked = none → Sent [.hostRead (s.hif.cq[n]).db.toNat 4 TlpAttr.clear] s t) ∧
      ((s.hif.cq[n]).dbAsked ≠ none → t.out = s.out) ∧ Keeps [.out, .hif, .rve] s t := by
  obtain ⟨-, hsent, hquiet, hrve, hnow, hpwr, hkeeps⟩ := consumerRead_spec hen
  refine answers_whenS (by rw [hcore, hen, hpolls]; rfl) ?_
  dsimp only
  rw [← consumerRead]
  generalize consumerRead n s = u at *
  have hv := cqChanged_modCq n (fun q => { q with dbError := true, dbAsked := none, retry := true }) u
  generalize modCq n (fun q => { q with dbError := true, dbAsked := none, retry := true }) u = v at hv ⊢
  have hhif := hif_of_keeps (keeps_raise 33 .minor (n.val + 16 + 4 * 256) v) (by decide) (by decide)
  have hout := keeps_raise 33 .minor (n.val + 16 + 4 * 256) v .out (by decide)
  have hraised := raised_raise (g := 33) (c := .minor) (d := n.val + 16 + 4 * 256) (s := v)
    (by rw [hv.pwr, hpwr, hcore])
  rw [Raised, hv.rve, hv.now, hrve, hnow] at hraised
  replace hout : (raise 33 .minor (n.val + 16 + 4 * 256) v).out = u.out := hout.trans hv.out
  rw [Sent, hhif, hv.self, hout]
  exact ⟨rfl, rfl, hraised, hsent, hquiet, keeps_step (keeps_raise _ _ _ _) rfl
    (keeps_step hv.keeps rfl (keeps_mono hkeeps rfl))⟩

theorem fullWait_raised {s : State} {n : Fin 16} (hcore : s.pwr.core = true) (hfull : (s.hif.cq[n]).full = true) :
    Answers (exec (.cqFullWaitTimeout n) s) fun t =>
      (t.hif.cq[n]).fullWait = true ∧ (t.hif.cq[n]).waiting = (s.hif.cq[n]).waiting ∧
      Raised 33 .minor (n.val + 16 + 3 * 256) s t ∧ Keeps [.hif, .rve] s t := by
  refine answers_whenS (by rw [hcore, hfull]; rfl) ?_
  have hv := cqChanged_modCq n (fun q => { q with fullWait := true }) s
  generalize modCq n (fun q => { q with fullWait := true }) s = v at hv ⊢
  have hhif := hif_of_keeps (keeps_raise 33 .minor (n.val + 16 + 3 * 256) v) (by decide) (by decide)
  have hraised := raised_raise (g := 33) (c := .minor) (d := n.val + 16 + 3 * 256) (s := v)
    (by rw [hv.pwr, hcore])
  rw [Raised, hv.rve, hv.now] at hraised
  rw [hhif, hv.self]
  exact ⟨rfl, rfl, hraised, keeps_step (keeps_raise _ _ _ _) rfl (keeps_mono hv.keeps rfl)⟩

theorem coalesced_signal {s : State} {n : Fin 16} (hcore : s.pwr.core = true)
    (hen : (s.hif.cq[n]).enable = true) (hirq : (s.hif.cq[n]).irqEn = true) (hpos : 0 < (s.hif.cq[n]).unsignalled) :
    Answers (exec (.msixCoalesceTimeout n) s) fun t =>
      (t.hif.cq[n]).unsignalled = 0 ∧
      (vectorOpen (s.hif.cq[n]).vector s = true → Sent [msixMsg (s.hif.cq[n]).vector s] s t ∧
        t.hif.msix = s.hif.msix) ∧
      (vectorOpen (s.hif.cq[n]).vector s = false → s.hif.msix.enable = true → t.out = s.out ∧
        t.hif.msix.pending = s.hif.msix.pending ||| BitVec.ofNat 32 (2 ^ (s.hif.cq[n]).vector)) ∧
      Keeps [.out, .hif] s t := by
  refine answers_whenS (by rw [hcore, hen, decide_eq_true hpos]; rfl) ?_
  rw [signalCq, whenS_true hirq]
  have hv := cqChanged_modCq n (fun q => { q with unsignalled := 0 }) s
  generalize modCq n (fun q => { q with unsignalled := 0 }) s = v at hv ⊢
  have hopen : ∀ k, vectorOpen k v = vectorOpen k s := fun k => by simp only [vectorOpen, hv.msix]
  refine ⟨?_, fun h => ?_, fun h hmsix => ?_, keeps_step (keeps_signalVec _ _) rfl (keeps_mono hv.keeps rfl)⟩
  · rw [(signalVec_rings _ v).1, hv.self]
  · rw [signalVec_of_open ((hopen _).trans h), Sent, msixMsg, msixMsg, hv.msix, hv.out]
    exact ⟨rfl, rfl⟩
  · rw [signalVec_of_masked ((hopen _).trans h) (by rw [hv.msix, hmsix]), hv.msix, hv.out]
    exact ⟨rfl, rfl⟩

/-- Settles O11: a completion goes out where there is room, and a poll or a signal changes its ring alone. -/
theorem completionRing : Obligations.CompletionRing := by
  refine ⟨fun s n e r => completionWrite_room, fun s n hfull => ?_, fun s n w => consumerPoll_taken,
    fun s n => consumerPoll_failed, fun s n => fullWait_raised, fun s n => coalesced_signal⟩
  refine answers_of_eq rfl ?_
  unfold whenS
  split
  · obtain h | h := writeCpl_of_full hfull
    · rw [h]; exact ⟨rfl, rfl, rfl⟩
    · rw [h, getElem_modCq, if_pos rfl]; exact ⟨rfl, rfl, modCq_out _ _ _⟩
  · exact ⟨rfl, rfl, rfl⟩

end Sys2Proof.Proofs
end

section
/-!
SUPPORT. The Reeve's inbox only grows while the host's transfers fail; what a loss of the host leaves of the rings.
-/

namespace Sys2Proof.Proofs

set_option Elab.async false

open Sys2Proof Sys2Proof.Machine Sys2Proof.Safety Sys2Proof.Laws

/-- The Reeve's inbox of the second state is that of the first with further events behind it. -/
def Grows (s t : State) : Prop := ∃ l, t.rve.inbox = s.rve.inbox ++ l

theorem grows_refl (s : State) : Grows s s := ⟨[], by simp⟩

theorem Grows.trans {s t u : State} (h : Grows s t) (k : Grows t u) : Grows s u := by
  obtain ⟨l, hl⟩ := h
  obtain ⟨m, hm⟩ := k
  exact ⟨l ++ m, by rw [hm, hl, List.append_assoc]⟩

theorem grows_of_rve {s t : State} (h : t.rve = s.rve) : Grows s t := ⟨[], by rw [h, List.append_nil]⟩

theorem grows_of_keeps {l : List Zone} {s t : State} (k : Keeps l s t) (h : Zone.rve ∉ l) : Grows s t :=
  grows_of_rve (k .rve h)

theorem grows_ite {c : Prop} [Decidable c] {s t u : State} (h : Grows s t) (k : Grows s u) :
    Grows s (if c then t else u) := by
  split
  · exact h
  · exact k

theorem grows_foldl {α : Type} {f : State → α → State} (hf : ∀ t a, Grows t (f t a)) (l : List α) :
    ∀ s, Grows s (l.foldl f s) := by
  induction l with
  | nil => exact grows_refl
  | cons a l ih => exact fun s => (hf s a).trans (ih (f s a))

theorem grows_raise (g : Nat) (c : Machine.Class) (d : Nat) (s : State) : Grows s (raise g c d s) := by
  unfold raise
  split
  · exact ⟨_, rfl⟩
  · exact grows_refl s

theorem grows_violation (m : Master) (w : Bool) (a : Nat) (c : Machine.Class) (s : State) :
    Grows s (violation m w a c s) := by
  unfold violation
  exact grows_raise _ _ _ { s with grn.violMaster := m, grn.violWrite := w, grn.violAddr := a }

theorem grows_eccEvent (m : Master) (t : EccType) (w : Nat) (c : Machine.Class) (s : State) :
    Grows s (eccEvent m t w c s) := by
  unfold eccEvent
  exact (grows_of_rve (by rfl)).trans (grows_raise _ _ _ _)

theorem grows_startRepair (w : Nat) (s : State) : Grows s (startRepair w s) :=
  grows_of_keeps (keeps_startRepair w s) (by decide)

theorem grows_readWord (m : Master) (w : Nat) (u : Upset) (s : State) : Grows s (readWord m w u s).2 := by
  unfold readWord
  dsimp only
  split
  · exact grows_of_rve rfl
  · exact (grows_of_rve (by rfl)).trans (grows_eccEvent _ _ _ _ _)
  · split
    · exact grows_of_rve rfl
    · split
      · exact (Grows.trans (grows_of_rve (by rfl)) (grows_eccEvent _ _ _ _ _)).trans (grows_startRepair _ _)
      · exact (grows_of_rve (by rfl)).trans (grows_eccEvent _ _ _ _ _)

theorem grows_readsEcc (words : List Nat) (once : Nat → Bool) (s : State) : Grows s (readsEcc words once s) :=
  (grows_of_rve (t := { s with free := (readOrder words once s.free).2 }) rfl).trans
    (grows_foldl (fun t w => grows_readWord .pipeline w .none t) _ _)

theorem grows_layerEcc (f : Frame) (v : LayerView) (s : State) : Grows s (layerEcc f v s) :=
  grows_ite (grows_refl s) (grows_readsEcc _ _ s)

theorem grows_denyOne (bad : List Nat) (s : State) : Grows s (denyOne bad s) := by
  unfold denyOne
  split
  · exact grows_refl s
  · exact (grows_of_rve (by rfl)).trans (grows_violation _ _ _ _ _)

theorem grows_denyLayer (r : Tab Region 16) (v : LayerView) (s : State) : Grows s (denyLayer r v s) := by
  unfold denyLayer
  split
  · exact grows_refl s
  · exact grows_ite (grows_refl s) (grows_denyOne _ s)

theorem grows_layerDenied (r : Tab Region 16) (f : Frame) (v : LayerView) (s : State) :
    Grows s (denyLayer r v (layerEcc f v s)) :=
  (grows_layerEcc f v s).trans (grows_denyLayer r v _)

theorem grows_lateEvent (n : Fin 9) (seq : BitVec 16) (s : State) : Grows s (lateEvent n seq s) := by
  unfold lateEvent
  exact (grows_of_rve (by rfl)).trans (grows_raise _ _ _ _)

theorem grows_hostUnderrun (n : Fin 9) (row : Nat) (s : State) : Grows s (hostUnderrun n row s) := by
  unfold hostUnderrun
  split
  · exact grows_refl s
  · refine grows_ite (grows_refl s) ?_
    split
    · exact grows_refl s
    · split
      · dsimp only
        refine grows_ite ?_ (Grows.trans ?_ (grows_lateEvent _ _ _))
        · exact (grows_of_rve (by rfl)).trans (grows_ite (grows_layerDenied _ _ _ _) (grows_refl _))
        · exact (grows_of_rve (by rfl)).trans (grows_ite (grows_layerDenied _ _ _ _) (grows_refl _))
      · exact grows_refl s

theorem grows_pacedFails (k : Fin 32) (s : State) : Grows s (pacedFails k s) := by
  unfold pacedFails
  split
  · exact grows_refl s
  · split
    · exact grows_refl s
    · split
      · exact grows_hostUnderrun _ _ s
      · exact grows_refl s

theorem grows_abortHost (s : State) (k : Fin 32) : Grows s (abortHost s k) :=
  grows_ite ((grows_of_keeps (keeps_dmaAbort k s) (by decide)).trans (grows_pacedFails k _)) (grows_refl s)

theorem grows_deliver (src : Src) (e : Cpl) (quiet : Bool) (s : State) : Grows s (deliver src e quiet s) := by
  cases src with
  | ring n => exact grows_of_keeps (keeps_deliver_ring n e quiet s) (by decide)
  | eth p key i => exact grows_of_rve rfl
  | i2c => exact grows_of_keeps (keeps_deliver_i2c e quiet s) (by decide)
  | startup i => rw [deliver_startup]; exact grows_ite (grows_refl s) (grows_raise _ _ _ s)
  | discard => exact grows_refl s

theorem grows_complete (c : Cmd) (st fs : BitVec 16) (r : Result) (s : State) :
    Grows s (complete c st fs r s) := by
  cases h : findRunning c.ser s with
  | none => rw [complete_of_not_running h]; exact grows_refl s
  | some k =>
    rw [complete_of_running h]
    exact (grows_of_keeps (keeps_leftRunning c k s) (by decide)).trans (grows_deliver _ _ _ _)

theorem grows_jobFailed (j : DmaJob) (s : State) : Grows s (jobFailed j s) :=
  grows_ite (grows_refl s) ((grows_of_keeps (keeps_transferFailed j s) (by decide)).trans (grows_complete _ _ _ _ _))

theorem grows_jobsLost (s : State) : Grows s (jobsLost s) :=
  (grows_of_rve (t := { s with jobs := s.jobs.filter fun j => !jobDead s j }) rfl).trans
    (grows_foldl (fun _ _ => grows_jobFailed _ _) _ _)

theorem grows_hostLost (s : State) : Grows s (hostLost s) :=
  ((grows_foldl grows_abortHost _ s).trans (grows_of_keeps (keeps_ringsLost _) (by decide))).trans
    (grows_jobsLost _)

/-- No command that runs owes its completion to a ring. -/
def OffRings (s : State) : Prop := ∀ x ∈ s.running, ∀ n, x.src ≠ .ring n

theorem deliver_off_ring {src : Src} (h : ∀ n, src ≠ .ring n) (e : Cpl) (quiet : Bool) (s : State) :
    (deliver src e quiet s).hif = s.hif := by
  cases src with
  | ring n => exact absurd rfl (h n)
  | eth p key i => rfl
  | i2c => exact hif_of_keeps (keeps_deliver_i2c e quiet s) (by decide) (by decide)
  | startup i =>
    rw [deliver_startup]
    split
    · rfl
    · exact hif_of_keeps (keeps_raise _ _ _ _) (by decide) (by decide)
  | discard => rfl

/-- Where no command owes a completion to a ring, completing one leaves the host interface. -/
theorem complete_off_rings {s : State} (h : OffRings s) (c : Cmd) (st fs : BitVec 16) (r : Result) :
    (complete c st fs r s).hif = s.hif ∧ OffRings (complete c st fs r s) := by
  cases hfind : findRunning c.ser s with
  | none => rw [complete_of_not_running hfind]; exact ⟨rfl, h⟩
  | some k =>
    have hk : k ∈ s.running := List.mem_of_find?_eq_some hfind
    have hleft := hif_of_keeps (keeps_leftRunning c k s) (by decide) (by decide)
    have hrun : (leftRunning c k s).running = s.running.filter fun x => x.ser != c.ser :=
      keeps_moveArrivals k _ .running (by decide)
    rw [complete_of_running hfind]
    refine ⟨(deliver_off_ring (h k hk) _ _ _).trans hleft, fun x hx => ?_⟩
    rw [keeps_deliver _ _ _ _ .running (by decide), hrun] at hx
    exact h x (List.mem_of_mem_filter hx)

theorem jobFailed_off_rings {s : State} (h : OffRings s) (j : DmaJob) :
    (jobFailed j s).hif = s.hif ∧ OffRings (jobFailed j s) := by
  unfold jobFailed
  dsimp only
  split
  · exact ⟨rfl, h⟩
  · have htf := keeps_transferFailed j s
    have hoff : OffRings (transferFailed j s) := fun x hx => h x (by rwa [htf .running (by decide)] at hx)
    obtain ⟨hhif, hrun⟩ := complete_off_rings hoff j.cmd stError 0 (match j.ch with
      | some k => xferDetail k s
      | none => xferNone)
    exact ⟨hhif.trans (hif_of_keeps htf (by decide) (by decide)), hrun⟩

theorem foldl_jobFailed_off_rings (l : List DmaJob) : ∀ s : State, OffRings s →
    (l.foldl (fun t j => jobFailed j t) s).hif = s.hif ∧ OffRings (l.foldl (fun t j => jobFailed j t) s) := by
  induction l with
  | nil => exact fun s h => ⟨rfl, h⟩
  | cons j l ih =>
    intro s h
    obtain ⟨hhif, hoff⟩ := jobFailed_off_rings h j
    obtain ⟨hhifs, hoffs⟩ := ih (jobFailed j s) hoff
    exact ⟨hhifs.trans hhif, hoffs⟩

/-- What a loss of the host leaves before the transfers' commands fail. -/
theorem aborted_keeps (s : State) : Keeps [.free, .dma, .grn, .mem, .cmp, .lpl, .rve, .yok] s
    ((List.finRange 32).foldl abortHost s) :=
  keeps_foldl (keeps_refl _ _) fun u k h => keeps_step (keeps_abortHost u k) rfl h

theorem ringsLost_off_rings (s : State) : OffRings (ringsLost s) := by
  intro x hx n
  obtain ⟨c, -, rfl⟩ := List.mem_map.mp hx
  split
  · simp
  · next hsrc => exact fun h => hsrc n h

/-- A loss of the host: the rings disabled and empty, no command that owes a completion to one (R44). -/
structure HostGone (s t : State) : Prop where
  rings : ∀ n : Fin 16, (t.hif.sq[n]).enable = false ∧ (t.hif.sq[n]).running = false ∧
    (t.hif.sq[n]).fetched = [] ∧ (t.hif.cq[n]).enable = false ∧ (t.hif.cq[n]).waiting = []
  off : OffRings t
  auth : t.hif.auth = s.hif.auth
  authLock : t.hif.authLock = s.hif.authLock
  ringLock : t.hif.ringLock = s.hif.ringLock
  linkUp : t.hif.linkUp = s.hif.linkUp
  pwr : t.pwr = s.pwr
  now : t.now = s.now
  grows : Grows s t

theorem hostLost_hif (s : State) : (hostLost s).hif = (ringsLost s).hif ∧ OffRings (hostLost s) := by
  have hhif := hif_of_keeps (aborted_keeps s) (by decide) (by decide)
  unfold hostLost
  generalize (List.finRange 32).foldl abortHost s = u at hhif
  have hrings : (ringsLost u).hif = (ringsLost s).hif := by simp only [ringsLost, hhif]
  have hoff := ringsLost_off_rings u
  generalize ringsLost u = v at hrings hoff
  unfold jobsLost
  obtain ⟨hjobs, hoffs⟩ := foldl_jobFailed_off_rings (v.jobs.filter (jobDead v))
    { v with jobs := v.jobs.filter fun j => !jobDead v j } hoff
  exact ⟨hjobs.trans hrings, hoffs⟩

theorem ringsLost_rings (s : State) (n : Fin 16) : ((ringsLost s).hif.sq[n]).enable = false ∧
    ((ringsLost s).hif.sq[n]).running = false ∧ ((ringsLost s).hif.sq[n]).fetched = [] ∧
    ((ringsLost s).hif.cq[n]).enable = false ∧ ((ringsLost s).hif.cq[n]).waiting = [] := by
  simp only [ringsLost, Tab.map'_get, and_self]

theorem hostGone_hostLost (s : State) : HostGone s (hostLost s) := by
  have hkeeps := keeps_hostLost s
  have hgrows := grows_hostLost s
  obtain ⟨hhif, hoff⟩ := hostLost_hif s
  generalize hostLost s = u at *
  refine ⟨fun n => ?_, hoff, ?_, ?_, ?_, ?_, hkeeps .pwr (by decide), hkeeps .now (by decide), hgrows⟩
  · simp only [hhif]
    exact ringsLost_rings s n
  all_goals rw [hhif]; rfl

theorem hostGone_linkLost (s : State) : HostGone { s with
    hif.linkUp := false, hif.speed := 0, hif.width := 0, hif.msix.pending := 0 } (linkLost s) :=
  hostGone_hostLost _

/-- Settles O12: every loss of the host runs `hostLost`, which empties the rings and their commands' claims. -/
theorem pcieEndpoint : Obligations.PcieEndpoint := by
  refine ⟨fun s sp w hcore hless hperst hlo hhi hw => ?_, fun s c hcore hc => ?_, fun s => rfl,
    fun s u w hcore => ?_⟩
  · exact congrArg Host.Outcome.next (whenS_true (by simp [hcore, hless, hperst, hlo, hhi, hw]))
  · obtain rfl | rfl | ⟨rfl, hlink⟩ | rfl := hc
    · refine answers_whenS hcore ?_
      have hgone := hostGone_hostLost s
      generalize hostLost s = u at hgone ⊢
      exact ⟨hgone.rings, hgone.off, by simp, by simp, by simp, fun _ => rfl, hgone.auth, hgone.authLock,
        hgone.ringLock, (congrArg Power.perstLow hgone.pwr).trans (by simp)⟩
    · refine answers_whenS hcore ?_
      have hgone := hostGone_hostLost s
      generalize hostLost s = u at hgone ⊢
      exact ⟨hgone.rings, hgone.off, by simp, by simp, fun _ => rfl, by simp, hgone.auth, hgone.authLock,
        hgone.ringLock, (congrArg Power.perstLow hgone.pwr).trans (by simp)⟩
    · refine answers_whenS (by rw [hcore, hlink]; rfl) ?_
      have hgone := hostGone_linkLost s
      generalize linkLost s = u at hgone ⊢
      have hk := keeps_raise 35 .minor 0 u
      have hraised := raised_raise (g := 35) (c := .minor) (d := 0) (s := u) (by rw [hgone.pwr]; exact hcore)
      have hhif := hif_of_keeps hk (by decide) (by decide)
      have hrun := hk .running (by decide)
      have hpwr := hk .pwr (by decide)
      generalize raise 35 .minor 0 u = v at *
      obtain ⟨l, hl⟩ := hgone.grows
      rw [Raised, hl, hgone.now] at hraised
      simp only [hhif]
      refine ⟨hgone.rings, fun x hx => hgone.off x (by rwa [hrun] at hx), fun _ => hgone.linkUp,
        fun _ => ⟨l, hraised⟩, by simp, by simp, hgone.auth, hgone.authLock, hgone.ringLock, ?_⟩
      exact (congrArg Power.perstLow (hpwr.trans hgone.pwr)).trans (by simp)
    · refine answers_of_eq (t := setD3hot false (linkLost { s with pwr.perstLow := true }))
        (congrArg Host.Outcome.next (if_pos hcore)) ?_
      have hgone := hostGone_linkLost { s with pwr.perstLow := true }
      generalize linkLost { s with pwr.perstLow := true } = u at hgone ⊢
      exact ⟨hgone.rings, hgone.off, fun _ => hgone.linkUp, by simp, by simp, by simp, hgone.auth, hgone.authLock,
        hgone.ringLock, (congrArg Power.perstLow hgone.pwr).trans (by simp)⟩
  · have hk := keeps_raise 35 (if u then .minor else .note) w.toNat s
    have hhif := hif_of_keeps hk (by decide) (by decide)
    have hraised := raised_raise (g := 35) (c := if u then .minor else .note) (d := w.toNat) hcore
    refine answers_whenS ((congrArg Power.core (hk .pwr (by decide))).trans hcore) ?_
    generalize raise 35 (if u then .minor else .note) w.toNat s = v at *
    have hkeeps : Keeps [.hif, .rve] s v := keeps_mono hk rfl
    cases u
    · exact ⟨hraised, by simp [hhif], keeps_mk hkeeps⟩
    · exact ⟨hraised, by simp [hhif], keeps_mk hkeeps⟩

end Sys2Proof.Proofs
end

section
/-!
SUPPORT. The Hedge's causes, its safe inputs and its disconnect tests.
-/

namespace Sys2Proof.Proofs

set_option Elab.async false

open Sys2Proof Sys2Proof.Machine Sys2Proof.Safety Sys2Proof.Laws

/-- Raising a cause changes of the Hedge that cause, and nothing else of it. -/
theorem raiseCause_hdg {c : Fin 9} {s : State} (h : (s.hdg.cause[c]).active = false) (frame : BitVec 16) :
    (raiseCause c frame s).hdg = { s.hdg with cause := s.hdg.cause.upd c fun k =>
      { k with active := true, latched := false, acked := false, raisedAt := s.now } } := by
  unfold raiseCause
  rw [if_neg (by simp only [h, Bool.false_eq_true, not_false_eq_true])]
  dsimp only
  generalize hu : ({ s with hdg.cause := s.hdg.cause.upd c fun k =>
      { k with active := true, latched := false, acked := false, raisedAt := s.now } } : State) = u
  have huh : u.hdg = { s.hdg with cause := s.hdg.cause.upd c fun k =>
      { k with active := true, latched := false, acked := false, raisedAt := s.now } } := by rw [← hu]
  rw [← huh]
  split
  · exact keeps_raise _ _ _ _ .hdg (by decide)
  · exact (keeps_settleRails _ .hdg (by decide)).trans ((keeps_sendOverride _ .hdg (by decide)).trans
      (keeps_raise _ _ _ _ .hdg (by decide)))

theorem raiseCause_of_active {c : Fin 9} {s : State} (h : (s.hdg.cause[c]).active = true) (frame : BitVec 16) :
    raiseCause c frame s = s := if_pos h

/-- A raised cause is active, whether it was before or not. -/
theorem raiseCause_active (c : Fin 9) (frame : BitVec 16) (s : State) :
    ((raiseCause c frame s).hdg.cause[c]).active = true := by
  cases h : (s.hdg.cause[c]).active with
  | true => rw [raiseCause_of_active h]; exact h
  | false => rw [raiseCause_hdg h, Tab.upd_get, if_pos rfl]

theorem env_of_active {s : State} {e : Envelope} (h : s.hdg.active = some e) : s.hdg.env = e := by
  rw [Hedge.env, h, Option.getD_some]

/-- A request with a block active and safe inputs in use (R232). -/
theorem safeInRaise_hdg {s : State} {e : Envelope} (hact : s.hdg.active = some e) (hmode : Env.safeinMode e = true)
    (hc : (s.hdg.cause[cSafeIn]).active = false) :
    (safeInRaise s).hdg = { s.hdg with
      requests := bump 255 1 s.hdg.requests
      cause := s.hdg.cause.upd cSafeIn fun k =>
        { k with active := true, latched := false, acked := false, raisedAt := s.now } } := by
  have hgo : ((s.hdg.cause[cSafeIn]).active || !Env.safeinMode s.hdg.env || s.hdg.active.isNone) = false := by
    rw [hc, env_of_active hact, hmode, hact]; rfl
  rw [safeInRaise, hgo, if_neg Bool.false_ne_true]
  exact raiseCause_hdg (s := { s with hdg.requests := bump 255 1 s.hdg.requests }) hc _

theorem safeInRaise_of_off {s : State} (h : ∀ e, s.hdg.active = some e → Env.safeinMode e = false) :
    safeInRaise s = s := by
  rw [safeInRaise, if_pos]
  cases hact : s.hdg.active with
  | none => simp
  | some e => rw [env_of_active hact, h e hact, Bool.not_false, Bool.or_true, Bool.true_or]

theorem safeCh_modSafe (b : Bool) (f : SafeCh → SafeCh) (s : State) :
    safeCh b (modSafe b f s) = f (safeCh b s) ∧ safeCh (!b) (modSafe b f s) = safeCh (!b) s := by
  cases b <;> exact ⟨rfl, rfl⟩

theorem safeCh_congr {s t : State} (hA : t.hdg.chA = s.hdg.chA) (hB : t.hdg.chB = s.hdg.chB) (b : Bool) :
    safeCh b t = safeCh b s := by
  rw [safeCh, safeCh, hA, hB]

/-- A change to one channel leaves everything of the Hedge but that channel. -/
structure SafeChanged (b : Bool) (f : SafeCh → SafeCh) (s t : State) : Prop where
  self : safeCh b t = f (safeCh b s)
  other : safeCh (!b) t = safeCh (!b) s
  cause : t.hdg.cause = s.hdg.cause
  requests : t.hdg.requests = s.hdg.requests
  active : t.hdg.active = s.hdg.active
  test : t.hdg.test = s.hdg.test
  now : t.now = s.now
  keeps : Keeps [.hdg] s t

theorem safeChanged_modSafe (b : Bool) (f : SafeCh → SafeCh) (s : State) : SafeChanged b f s (modSafe b f s) := by
  obtain ⟨hself, hother⟩ := safeCh_modSafe b f s
  have hk := keeps_modSafe b f s
  cases b <;> exact ⟨hself, hother, rfl, rfl, rfl, rfl, rfl, hk⟩

theorem testPulse_of_none {s : State} (h : s.hdg.test = none) (b pass : Bool) : testPulse b pass s = s := by
  rw [testPulse, h]

theorem safeIn_request {s : State} {b : Bool} {e : Envelope} (hup : s.pwr.hedge = true)
    (hact : s.hdg.active = some e) (hmode : Env.safeinMode e = true) (hwin : (safeCh b s).window = false)
    (hc : (s.hdg.cause[cSafeIn]).active = false) :
    Answers (exec (.safeInRequest b) s) fun t =>
      (t.hdg.cause[cSafeIn]).active = true ∧ (t.hdg.cause[cSafeIn]).raisedAt = s.now ∧
      (t.hdg.cause[cSafeIn]).latched = (safeCh (!b) s).window ∧
      (safeCh b t).level = false ∧ (safeCh b t).highSince = none ∧
      (safeCh (!b) t).pulseFailed = ((safeCh (!b) s).pulseFailed || (safeCh (!b) s).window) ∧
      t.hdg.requests = bump 255 1 s.hdg.requests ∧
      ∀ c : Fin 9, c ≠ cSafeIn → t.hdg.cause[c] = s.hdg.cause[c] := by
  refine answers_whenS (by rw [hup, hwin]; rfl) ?_
  dsimp only
  have hu := safeChanged_modSafe b (fun k => { k with
    level := false, highSince := none, passedSince := false }) s
  generalize modSafe b (fun k => { k with level := false, highSince := none, passedSince := false }) s = u at hu ⊢
  have hraise := safeInRaise_hdg (s := u) (e := e) (by rw [hu.active, hact]) hmode (by rw [hu.cause]; exact hc)
  generalize safeInRaise u = v at hraise ⊢
  have hch : ∀ x, safeCh x v = safeCh x u := safeCh_congr (by rw [hraise]) (by rw [hraise])
  have hcause : v.hdg.cause = s.hdg.cause.upd cSafeIn fun k =>
      { k with active := true, latched := false, acked := false, raisedAt := s.now } := by
    rw [hraise, ← hu.now, ← hu.cause]
  have hreq : v.hdg.requests = bump 255 1 s.hdg.requests := by rw [hraise, ← hu.requests]
  cases hother : (safeCh (!b) s).window with
  | false =>
    rw [hch, hu.other, hother, if_neg Bool.false_ne_true, hch, hu.self, hcause, Tab.upd_get, if_pos rfl,
      Bool.or_false]
    exact ⟨rfl, rfl, rfl, rfl, rfl, by rw [hch, hu.other], hreq, fun c hne => by rw [Tab.upd_get, if_neg hne]⟩
  | true =>
    rw [hch, hu.other, hother, if_pos rfl]
    have hw := safeChanged_modSafe (!b) (fun k => { k with pulseFailed := true }) v
    generalize modSafe (!b) (fun k => { k with pulseFailed := true }) v = w at hw ⊢
    have hself := hw.self
    have hoth := hw.other
    rw [Bool.not_not] at hoth
    have hlatch : ∀ x, safeCh x ({ w with hdg.cause := w.hdg.cause.upd cSafeIn fun k =>
        { k with latched := k.latched || k.active } } : State) = safeCh x w := fun x => by cases x <;> rfl
    rw [hlatch, hlatch, hoth, hself, hch, hch, hu.self, hu.other]
    dsimp only
    rw [hw.cause, hcause, Tab.upd_get, if_pos rfl, Tab.upd_get, if_pos rfl, Bool.or_true]
    exact ⟨rfl, rfl, rfl, rfl, rfl, (Bool.or_true _).symm, hw.requests.trans hreq, fun c hne => by
      rw [Tab.upd_get, if_neg hne, Tab.upd_get, if_neg hne]⟩

theorem safeIn_ignored {s : State} {b : Bool} (hup : s.pwr.hedge = true)
    (hoff : ∀ e, s.hdg.active = some e → Env.safeinMode e = false) (hwin : (safeCh b s).window = false)
    (hother : (safeCh (!b) s).window = false) :
    Answers (exec (.safeInRequest b) s) fun t =>
      (safeCh b t).level = false ∧ t.hdg.cause = s.hdg.cause ∧ t.hdg.requests = s.hdg.requests ∧
      Keeps [.hdg] s t := by
  refine answers_whenS (by rw [hup, hwin]; rfl) ?_
  dsimp only
  have hu := safeChanged_modSafe b (fun k => { k with
    level := false, highSince := none, passedSince := false }) s
  generalize modSafe b (fun k => { k with level := false, highSince := none, passedSince := false }) s = u at hu ⊢
  rw [safeInRaise_of_off (by rw [hu.active]; exact hoff), hu.other, hother, if_neg Bool.false_ne_true, hu.self]
  exact ⟨rfl, hu.cause, hu.requests, hu.keeps⟩

theorem pulse_starts {s : State} {b : Bool} {e : Envelope} (hup : s.pwr.hedge = true)
    (hact : s.hdg.active = some e) (hself : s.hdg.selfHeld = false) (hmode : Env.safeinMode e = true)
    (htp : Env.tpEnable e = true) (htest : s.hdg.test = none) (hwin : (safeCh b s).window = false) :
    Answers (exec (.testPulseStart b) s) fun t =>
      (safeCh b t).window = true ∧ (safeCh b t).pulseSampled = false ∧ (safeCh b t).pulseAt = s.now ∧
      (safeCh b t).pulseFailed = (!(safeCh (!b) s).level && !(safeCh (!b) s).window) ∧
      safeCh (!b) t = safeCh (!b) s ∧ t.hdg.cause = s.hdg.cause ∧ Keeps [.hdg] s t := by
  refine answers_of_eq (t := startPulse b s) ?_ ?_
  · refine congrArg Host.Outcome.next ?_
    rw [env_of_active hact, hself, hmode, htest, htp, hwin, hedgeUp, hup, hact]
    rfl
  · unfold startPulse
    dsimp only
    have hu := safeChanged_modSafe b (fun k => { k with
      window := true, pulseSampled := false
      pulseFailed := !(safeCh (!b) s).level && !(safeCh (!b) s).window, pulseAt := s.now }) s
    generalize modSafe b (fun k => { k with
      window := true, pulseSampled := false
      pulseFailed := !(safeCh (!b) s).level && !(safeCh (!b) s).window, pulseAt := s.now }) s = u at hu ⊢
    rw [hu.self]
    exact ⟨rfl, rfl, rfl, rfl, hu.other, hu.cause, hu.keeps⟩

/-- The end of a pulse where no SAFE_TEST waits and the channel reads high (R233). -/
theorem testPulseEnd_of_high {s : State} {b : Bool} (hup : s.pwr.hedge = true)
    (hwin : (safeCh b s).window = true) (htest : s.hdg.test = none) (hlevel : (safeCh b s).level = true) :
    Answers (exec (.testPulseEnd b) s) fun t => ∃ u,
      SafeChanged b (fun k => k.judge ((safeCh b s).pulseSampled && !(safeCh b s).pulseFailed)) s u ∧
      t = if decide ((safeCh b u).fails ≥ 2) && Env.tpEnable u.hdg.env then
        raiseCause cSafeInTest u.lpl.composing u else u := by
  refine answers_whenS (by rw [hup, hwin]; rfl) ?_
  dsimp only
  have hu := safeChanged_modSafe b (fun k => k.judge ((safeCh b s).pulseSampled && !(safeCh b s).pulseFailed)) s
  generalize modSafe b (fun k => k.judge ((safeCh b s).pulseSampled && !(safeCh b s).pulseFailed)) s = u at hu ⊢
  refine ⟨u, hu, ?_⟩
  generalize hv : (if (decide ((safeCh b u).fails ≥ 2) && Env.tpEnable u.hdg.env) = true then
    raiseCause cSafeInTest u.lpl.composing u else u) = v
  have hnone : v.hdg.test = none := by
    rw [← hv]
    split
    · cases hc : (u.hdg.cause[cSafeInTest]).active with
      | true => rw [raiseCause_of_active hc, hu.test, htest]
      | false => rw [raiseCause_hdg hc]; exact hu.test.trans htest
    · rw [hu.test, htest]
  rw [testPulse_of_none hnone, hlevel, Bool.not_true, if_neg Bool.false_ne_true, beginTest_of_none hnone]

/-- Settles O13: the channels change by `modSafe`, the causes by `raiseCause` alone. -/
theorem hedgeSafeInputs : Obligations.HedgeSafeInputs := by
  refine ⟨fun s b e => safeIn_request, fun s b => safeIn_ignored, fun s b hup => ?_, fun s b e => pulse_starts,
    fun s b lv hup hwin hsampled => ?_, fun s b hup hwin htest hsampled hfailed hlevel => ?_,
    fun s b e hup hact hwin htest hfailed hlevel hc => ?_⟩
  · refine answers_whenS hup ?_
    have hu := safeChanged_modSafe b (fun k => { k with
      level := true
      highSince := if k.highSince.isNone then some s.now else k.highSince }) s
    generalize modSafe b (fun k => { k with
      level := true
      highSince := if k.highSince.isNone then some s.now else k.highSince }) s = u at hu ⊢
    rw [hu.self]
    refine ⟨rfl, ?_, hu.other, hu.cause, hu.keeps⟩
    cases h : (safeCh b s).highSince <;> rfl
  · refine answers_whenS (by rw [hup, hwin, hsampled]; rfl) ?_
    have hu := safeChanged_modSafe b (fun k => { k with
      level := lv, pulseSampled := true, pulseFailed := k.pulseFailed || lv }) s
    generalize modSafe b (fun k => { k with
      level := lv, pulseSampled := true, pulseFailed := k.pulseFailed || lv }) s = u at hu ⊢
    rw [hu.self]
    exact ⟨rfl, rfl, rfl, hu.other, hu.cause, hu.keeps⟩
  · obtain ⟨t, ht, u, hu, rfl⟩ := testPulseEnd_of_high hup hwin htest hlevel
    refine ⟨_, ht, ?_⟩
    have hself := hu.self
    rw [hsampled, hfailed] at hself
    have hfew : (decide ((safeCh b u).fails ≥ 2) && Env.tpEnable u.hdg.env) = false := by rw [hself]; rfl
    rw [hfew, if_neg Bool.false_ne_true]
    dsimp only
    rw [hself]
    exact ⟨rfl, rfl, rfl, hu.cause, hu.keeps⟩
  · obtain ⟨t, ht, u, hu, rfl⟩ := testPulseEnd_of_high hup hwin htest hlevel
    refine ⟨_, ht, ?_⟩
    have hself := hu.self
    rw [hfailed, Bool.not_true, Bool.and_false] at hself
    have henv : u.hdg.env = e := env_of_active (hu.active.trans hact)
    have hcause : (u.hdg.cause[cSafeInTest]).active = false := by rw [hu.cause]; exact hc
    have hfails : decide ((safeCh b u).fails ≥ 2) = decide (1 ≤ (safeCh b s).fails) := by
      rw [hself]
      exact decide_eq_decide.mpr (by simp [SafeCh.judge])
    rw [henv, hfails]
    cases decide (1 ≤ (safeCh b s).fails) && Env.tpEnable e with
    | false =>
      rw [if_neg Bool.false_ne_true]
      dsimp only
      rw [hself]
      exact ⟨rfl, rfl, rfl, hcause⟩
    | true =>
      rw [if_pos rfl]
      have hraise := raiseCause_hdg hcause u.lpl.composing
      have hch : safeCh b (raiseCause cSafeInTest u.lpl.composing u) = safeCh b u :=
        safeCh_congr (by rw [hraise]) (by rw [hraise]) b
      dsimp only
      rw [hch, hself]
      exact ⟨rfl, rfl, rfl, raiseCause_active _ _ _⟩

end Sys2Proof.Proofs
end

section
/-!
SUPPORT. Disconnect tests of the two switches (R236, R237).
-/

namespace Sys2Proof.Proofs

set_option Elab.async false

open Sys2Proof Sys2Proof.Machine Sys2Proof.Safety Sys2Proof.Laws

/-- The record of one switch. -/
def switchOf (b : Bool) (s : State) : Switch := if b then s.hdg.swB else s.hdg.swA

/-- A change to one switch's record leaves everything of the Hedge but that record. -/
structure SwitchChanged (b : Bool) (f : Switch → Switch) (s t : State) : Prop where
  self : switchOf b t = f (switchOf b s)
  other : switchOf (!b) t = switchOf (!b) s
  cause : t.hdg.cause = s.hdg.cause
  test : t.hdg.test = s.hdg.test
  discFails : t.hdg.discFails = s.hdg.discFails
  active : t.hdg.active = s.hdg.active
  disc : t.hdg.disc = s.hdg.disc
  retryA : t.hdg.retryA = s.hdg.retryA
  retryB : t.hdg.retryB = s.hdg.retryB
  keeps : Keeps [.hdg] s t

theorem switchChanged_modSwitch (b : Bool) (f : Switch → Switch) (s : State) :
    SwitchChanged b f s (modSwitch b f s) := by
  have hk := keeps_modSwitch b f s
  cases b <;> exact ⟨rfl, rfl, rfl, rfl, rfl, rfl, rfl, rfl, rfl, hk⟩

theorem switchOf_congr {s t : State} (hA : t.hdg.swA = s.hdg.swA) (hB : t.hdg.swB = s.hdg.swB) (b : Bool) :
    switchOf b t = switchOf b s := by
  rw [switchOf, switchOf, hA, hB]

/-- The other switch's record is what the statement of O14 gives by cases. -/
theorem other_switch {b : Bool} {s t : State} (h : switchOf (!b) t = switchOf (!b) s) :
    if b then t.hdg.swA = s.hdg.swA else t.hdg.swB = s.hdg.swB := by
  cases b <;> exact h

theorem hedgeUp_of_active {s : State} {e : Envelope} (hup : s.pwr.hedge = true) (hact : s.hdg.active = some e) :
    hedgeUp s = true := by
  rw [hedgeUp, hup, hact]
  rfl

theorem disconnectTest_starts {s : State} {b : Bool} {e : Envelope} (hup : s.pwr.hedge = true)
    (hact : s.hdg.active = some e) (hlit : lit s = true) (hdrives : drivesOff s = true)
    (hconn : disconnected s = false) (hself : s.hdg.selfHeld = false) (hdisc : s.hdg.disc = none)
    (htest : s.hdg.test = none) (hperiod : Env.sdPeriod e ≠ 0) (hmid : b = true → s.hdg.discMid = true) :
    Answers (exec (.disconnectTestStart b) s) fun t =>
      t.hdg.disc = some ⟨b, true, false, false, false, false⟩ ∧ t.hdg.discMid = !b ∧ Keeps [.hdg] s t := by
  have horder : (!b || s.hdg.discMid) = true := by
    cases b with
    | false => rfl
    | true => exact hmid rfl
  refine answers_of_eq (t := startDisc b false false false { s with hdg.discMid := !b }) ?_
    ⟨rfl, rfl, keeps_step (keeps_startDisc _ _ _ _ _) rfl (keeps_mk (keeps_refl _ _))⟩
  refine congrArg Host.Outcome.next ?_
  rw [hedgeUp_of_active hup hact, hlit, hconn, hself, hdisc, htest, hdrives, env_of_active hact,
    bne_iff_ne.mpr hperiod, horder]
  rfl

/-- The feedback of a switch under test reads low (R236). -/
theorem feedback_low {s : State} {d : DiscTest} (k : Fin 10001) (hdisc : s.hdg.disc = some d)
    (hasserted : d.asserted = true) :
    Answers (exec (.disconnectFeedbackLow k) s) fun t =>
      t.hdg.disc = some { d with asserted := false, opened := decide (k.val ≤ openLimit d s) } ∧
      (switchOf d.second t).openTime = min 254 k.val ∧
      (if d.second then t.hdg.swA = s.hdg.swA else t.hdg.swB = s.hdg.swB) ∧ Keeps [.hdg] s t := by
  have hu := switchChanged_modSwitch d.second (fun w => { w with fb := false, openTime := min 254 k.val }) s
  generalize hm : modSwitch d.second (fun w => { w with fb := false, openTime := min 254 k.val }) s = u at hu
  have hlimit : openLimit d u = openLimit d s := by rw [openLimit, openLimit, Hedge.env, hu.active, ← Hedge.env]
  refine answers_of_eq (t := { u with
    hdg.disc := some { d with asserted := false, opened := decide (k.val ≤ openLimit d u) } }) ?_ ?_
  · refine congrArg Host.Outcome.next ?_
    rw [hdisc]
    dsimp only
    rw [hasserted, Bool.not_true, if_neg Bool.false_ne_true, hm]
  · rw [hlimit]
    exact ⟨rfl, congrArg Switch.openTime hu.self, other_switch hu.other, keeps_mk hu.keeps⟩

theorem open_timeout {s : State} {d : DiscTest} (hdisc : s.hdg.disc = some d) (hasserted : d.asserted = true) :
    Answers (exec .disconnectOpenTimeout s) fun t =>
      t.hdg.disc = some { d with asserted := false, opened := false } ∧
      (switchOf d.second t).openTime = 0xFF ∧ Keeps [.hdg] s t := by
  have hu := switchChanged_modSwitch d.second (fun w => { w with openTime := 0xFF }) s
  generalize hm : modSwitch d.second (fun w => { w with openTime := 0xFF }) s = u at hu
  refine answers_of_eq (t := { u with hdg.disc := some { d with asserted := false, opened := false } }) ?_
    ⟨rfl, congrArg Switch.openTime hu.self, keeps_mk hu.keeps⟩
  refine congrArg Host.Outcome.next ?_
  rw [hdisc]
  dsimp only
  rw [hasserted, Bool.not_true, if_neg Bool.false_ne_true, hm]

/-- The Hedge after a disconnect test has been judged and counted, before its causes (R236, R237). -/
structure Judged (b pass : Bool) (s u : State) : Prop where
  disc : u.hdg.disc = none
  fails : (switchOf b u).fails = if pass then 0 else (switchOf b s).fails + 1
  cause : u.hdg.cause = s.hdg.cause
  discFails : u.hdg.discFails = if pass then s.hdg.discFails else bump 255 1 s.hdg.discFails
  test : u.hdg.test = s.hdg.test

/-- What follows the judgement of a disconnect test (R236, R237). -/
def afterJudge (d : DiscTest) (pass : Bool) (u : State) : State :=
  if d.powerUp then powerUpDone d.second (if pass then u else raiseCause cOffFb u.lpl.composing u)
  else
    let v := if (switchOf d.second u).fails ≥ 2 then raiseCause cOffFb u.lpl.composing u else u
    let w := if pass || d.retry then v else setRetry d.second true v
    if d.requested then testDisc d.second pass w else beginTest w

theorem releaseCheck_eq {s : State} {d : DiscTest} (high : Bool) (hdisc : s.hdg.disc = some d)
    (hreleased : d.asserted = false) : ∃ u, Judged d.second (d.opened && high) s u ∧
      exec (.disconnectReleaseCheck high) s = .next (afterJudge d (d.opened && high) u) := by
  have hu := switchChanged_modSwitch d.second (fun w => w.judge (d.opened && high) high s.now)
    { s with hdg.disc := none }
  generalize hm : modSwitch d.second (fun w => w.judge (d.opened && high) high s.now)
    { s with hdg.disc := none } = u at hu
  refine ⟨if d.opened && high then u else { u with hdg.discFails := bump 255 1 u.hdg.discFails }, ?_, ?_⟩
  · have hfails : (switchOf d.second u).fails = if d.opened && high then 0 else (switchOf d.second s).fails + 1 :=
      congrArg Switch.fails hu.self
    generalize (d.opened && high) = pass at hfails ⊢
    cases pass
    · exact ⟨hu.disc, hfails, hu.cause, congrArg (bump 255 1) hu.discFails, hu.test⟩
    · exact ⟨hu.disc, hfails, hu.cause, hu.discFails, hu.test⟩
  · refine congrArg Host.Outcome.next ?_
    rw [hdisc]
    dsimp only
    rw [hreleased, if_neg Bool.false_ne_true, hm]
    rfl

theorem testDisc_of_none {s : State} (h : s.hdg.test = none) (b pass : Bool) : testDisc b pass s = s := by
  rw [testDisc, h]

theorem setRetry_spec (b : Bool) (s : State) :
    (setRetry b true s).hdg.disc = s.hdg.disc ∧ (setRetry b true s).hdg.cause = s.hdg.cause ∧
    (setRetry b true s).hdg.discFails = s.hdg.discFails ∧ (setRetry b true s).hdg.test = s.hdg.test ∧
    (∀ x, switchOf x (setRetry b true s) = switchOf x s) ∧
    (if b then (setRetry b true s).hdg.retryB else (setRetry b true s).hdg.retryA) = true := by
  cases b <;> exact ⟨rfl, rfl, rfl, rfl, fun x => switchOf_congr rfl rfl x, rfl⟩

theorem test_judged {s : State} {d : DiscTest} {high : Bool} (hdisc : s.hdg.disc = some d)
    (hreleased : d.asserted = false) (hpower : d.powerUp = false) (htest : s.hdg.test = none)
    (hc : (s.hdg.cause[cOffFb]).active = false) :
    Answers (exec (.disconnectReleaseCheck high) s) fun t =>
      t.hdg.disc = none ∧
      (if d.opened && high then
        (t.hdg.cause[cOffFb]).active = false ∧ t.hdg.discFails = s.hdg.discFails ∧
          (switchOf d.second t).fails = 0
      else
        (t.hdg.cause[cOffFb]).active = decide (2 ≤ (switchOf d.second s).fails + 1) ∧
        t.hdg.discFails = bump 255 1 s.hdg.discFails ∧
        (d.retry = false → (if d.second then t.hdg.retryB else t.hdg.retryA) = true)) := by
  obtain ⟨u, hu, heq⟩ := releaseCheck_eq high hdisc hreleased
  refine answers_of_eq heq ?_
  have huc : (u.hdg.cause[cOffFb]).active = false := by rw [hu.cause]; exact hc
  have hutest := hu.test.trans htest
  obtain ⟨hudisc, hfails, -, hcount, -⟩ := hu
  unfold afterJudge
  dsimp only
  rw [hpower, if_neg Bool.false_ne_true]
  generalize (d.opened && high) = pass at hfails hcount ⊢
  cases pass with
  | true =>
    rw [if_pos rfl] at hfails hcount
    rw [if_neg (by rw [hfails]; omega : ¬ (switchOf d.second u).fails ≥ 2), Bool.true_or, if_pos rfl,
      testDisc_of_none hutest, beginTest_of_none hutest, ite_self]
    exact ⟨hudisc, huc, hcount, hfails⟩
  | false =>
    rw [if_neg Bool.false_ne_true] at hfails hcount
    generalize hv : (if (switchOf d.second u).fails ≥ 2 then raiseCause cOffFb u.lpl.composing u else u) = v
    have hvh : v.hdg.disc = none ∧ (v.hdg.cause[cOffFb]).active = decide (2 ≤ (switchOf d.second s).fails + 1) ∧
        v.hdg.discFails = bump 255 1 s.hdg.discFails ∧ v.hdg.test = none := by
      rw [← hv, hfails]
      split
      · next hge =>
        refine ⟨?_, (raiseCause_active _ _ _).trans (decide_eq_true hge).symm, ?_, ?_⟩ <;> rw [raiseCause_hdg huc]
        exacts [hudisc, hcount, hutest]
      · next hlt => exact ⟨hudisc, huc.trans (decide_eq_false hlt).symm, hcount, hutest⟩
    obtain ⟨hvd, hvc, hvf, hvt⟩ := hvh
    rw [Bool.false_or]
    obtain ⟨hrd, hrc, hrf, hrt, -, hretry⟩ := setRetry_spec d.second v
    have hwtest : (if d.retry then v else setRetry d.second true v).hdg.test = none := by
      split
      · exact hvt
      · exact hrt.trans hvt
    rw [testDisc_of_none hwtest, beginTest_of_none hwtest, ite_self, if_neg Bool.false_ne_true]
    cases d.retry with
    | true => exact ⟨hvd, hvc, hvf, fun h => absurd h (by decide)⟩
    | false =>
      rw [if_neg Bool.false_ne_true, hrc, hvc]
      exact ⟨hrd.trans hvd, rfl, hrf.trans hvf, fun _ => hretry⟩

/-- A power-up test that is done leaves the causes and marks its switch (R237). -/
theorem powerUpDone_spec (b : Bool) (s : State) : (powerUpDone b s).hdg.cause = s.hdg.cause ∧
    (if b then (powerUpDone b s).hdg.puDoneB else (powerUpDone b s).hdg.puDoneA) = true := by
  unfold powerUpDone
  dsimp only
  have hallow : ∀ (u : State), (if (u.hdg.puDoneA && u.hdg.puDoneB) = true then allowRails u else u).hdg = u.hdg := by
    intro u
    split
    · exact keeps_allowRails u .hdg (by decide)
    · rfl
  rw [hallow]
  cases b <;> exact ⟨rfl, rfl⟩

theorem powerUpTest_judged {s : State} {d : DiscTest} {high : Bool} (hdisc : s.hdg.disc = some d)
    (hreleased : d.asserted = false) (hpower : d.powerUp = true) (hc : (s.hdg.cause[cOffFb]).active = false) :
    Answers (exec (.disconnectReleaseCheck high) s) fun t =>
      (t.hdg.cause[cOffFb]).active = !(d.opened && high) ∧
      (if d.second then t.hdg.puDoneB else t.hdg.puDoneA) = true := by
  obtain ⟨u, hu, heq⟩ := releaseCheck_eq high hdisc hreleased
  refine answers_of_eq heq ?_
  unfold afterJudge
  rw [hpower, if_pos rfl]
  obtain ⟨hcause, hdone⟩ := powerUpDone_spec d.second
    (if (d.opened && high) = true then u else raiseCause cOffFb u.lpl.composing u)
  refine ⟨?_, hdone⟩
  rw [hcause]
  cases (d.opened && high) with
  | true => rw [if_pos rfl, hu.cause]; exact hc
  | false => rw [if_neg Bool.false_ne_true]; exact raiseCause_active _ _ _

theorem test_repeated {s : State} {e : Envelope} (hretry : s.hdg.retryA = true ∨ s.hdg.retryB = true)
    (hup : s.pwr.hedge = true) (hact : s.hdg.active = some e) (hlit : lit s = true)
    (hconn : disconnected s = false) (hself : s.hdg.selfHeld = false) (hdisc : s.hdg.disc = none)
    (htest : s.hdg.test = none) :
    Answers (exec .disconnectTestRetry s) fun t =>
      t.hdg.disc = some ⟨!s.hdg.retryA, true, false, false, false, true⟩ ∧ t.hdg.retryA = false ∧
      t.hdg.retryB = (s.hdg.retryA && s.hdg.retryB) ∧ Keeps [.hdg] s t := by
  have hwaits : (s.hdg.retryA || s.hdg.retryB) = true := by
    obtain h | h := hretry <;> simp [h]
  refine answers_whenS (by rw [hedgeUp_of_active hup hact, hlit, hconn, hself, hdisc, htest, hwaits]; rfl) ?_
  have hk := keeps_step (keeps_startDisc (!s.hdg.retryA) false false true (setRetry (!s.hdg.retryA) false s)) rfl
    (keeps_setRetry (!s.hdg.retryA) false s)
  cases hA : s.hdg.retryA <;> rw [hA] at hk
  · exact ⟨rfl, hA, rfl, hk⟩
  · exact ⟨rfl, rfl, rfl, hk⟩

theorem idleLine_of_drives {s : State} (h : drivesOff s = true) : idleLine s = s := by
  rw [idleLine, if_pos]
  rw [drivesOff, Bool.or_eq_true] at h
  rw [yoked, bne, Bool.not_not]
  obtain h | h := h
  · rw [h]; rfl
  · rw [h, Bool.or_true, Bool.true_or]

/-- Settles O14: the tests change the Hedge alone but for the causes and rails of a judged one. -/
theorem hedgeDisconnectTests : Obligations.HedgeDisconnectTests := by
  refine ⟨fun s b e => disconnectTest_starts, fun s d k hdisc has => feedback_low k hdisc has,
    fun s d => open_timeout, fun s d high => test_judged, fun s d high => powerUpTest_judged,
    fun s e => test_repeated, fun s b hup hself hdisc hdone hdrives => ?_, fun s b hup hconn hdisc => ?_⟩
  · refine answers_of_eq (t := startDisc b true false false
      { s with pwr.hedgeOsc := true, pwr.clkHedge := true }) ?_
      ⟨rfl, keeps_step (keeps_startDisc _ _ _ _ _) rfl (keeps_mk (keeps_refl _ _))⟩
    have hline := idleLine_of_drives (s := { s with pwr.hedgeOsc := true, pwr.clkHedge := true }) hdrives
    refine congrArg Host.Outcome.next ((whenS_true (by rw [hup, hdone, hdisc, hself]; rfl)).trans ?_)
    dsimp only
    rw [hline]
    exact if_pos hdrives
  · refine answers_of_eq (t := raiseCause cOffFb s.lpl.composing (modSwitch b (fun w => { w with fb := false }) s))
      ?_ ⟨raiseCause_active _ _ _, ?_⟩
    · refine congrArg Host.Outcome.next ?_
      rw [hdisc]
      exact whenS_true (by rw [hup, hconn]; rfl)
    · have hu := switchChanged_modSwitch b (fun w => { w with fb := false }) s
      generalize modSwitch b (fun w => { w with fb := false }) s = u at hu ⊢
      have hsw : switchOf b (raiseCause cOffFb s.lpl.composing u) = switchOf b u := by
        cases hc : (u.hdg.cause[cOffFb]).active with
        | true => rw [raiseCause_of_active hc]
        | false => exact switchOf_congr (by rw [raiseCause_hdg hc]) (by rw [raiseCause_hdg hc]) b
      exact congrArg Switch.fb (hsw.trans hu.self)

end Sys2Proof.Proofs
end

section
/-!
SUPPORT. A holder of the line that loses the die bridge as its DIE temperature reaches SHUTDOWN releases the line,
and its rails are stopped, not held.
-/

namespace Sys2Proof.Proofs

set_option Elab.async false

open Sys2Proof Sys2Proof.Machine Sys2Proof.Safety Sys2Proof.Laws

/-- A device that holds the line, whose partner covers lane 0, with an on-die sensor in state 3 (R415), of which
SHUTDOWN has not been taken, and with rail 0 in REGULATE. -/
def hotHolder : State := { State.reset with
  pwr.core := true
  pwr.bridge := true
  yok.state := .active
  yok.holding := true
  yok.cover := 1
  link.lane := State.reset.link.lane.upd 0 fun l => { l with state := .ready }
  thm.sensor := State.reset.thm.sensor.upd 0 fun x => { x with used := true, st.state := 3 }
  rail.rail := State.reset.rail.rail.upd 0 fun r => { r with state := .regulate, entry.used := true } }

/-- Whether rail 0 is in HOLD after an instruction. -/
def rail0Holds (o : Out) : Bool := match o with
  | .next t => (t.rail.rail[(0 : Fin 8)]).state == .hold
  | _ => true

/-- DIE SHUTDOWN silences the covered lane, the device releases the line (R467), and rail 0 goes to OFF. -/
theorem rail0_of_dieBridgeLoss : rail0Holds (exec .dieBridgeLoss hotHolder) = false := by decide +kernel

/-- Refutes O17: the loss of the die bridge of a holder whose DIE SHUTDOWN comes with it releases the line, and
the rail that regulated is not in HOLD. -/
theorem not_railFaultsAndAnalogueDomain : ¬ Obligations.RailFaultsAndAnalogueDomain := by
  unfold Obligations.RailFaultsAndAnalogueDomain
  rintro ⟨-, -, hloss, -⟩
  obtain ⟨t, ht, -, -, -, hrails⟩ := hloss hotHolder (by decide +kernel) (by decide +kernel)
  have hhold := hrails (by decide +kernel) (by decide +kernel) 0 (by decide +kernel) (by decide +kernel)
  have heval := rail0_of_dieBridgeLoss
  rw [ht, rail0Holds, hhold] at heval
  exact absurd heval (by decide)

end Sys2Proof.Proofs
end

section
/-!
SUPPORT. The tile rails: what the suspensions that follow from a change leave of a rail, and O16.
-/

namespace Sys2Proof.Proofs

set_option Elab.async false

open Sys2Proof Sys2Proof.Machine Sys2Proof.Safety Sys2Proof.Laws

/-- A step of the rails' supervision that leaves rail r. -/
structure RailKept (r : Fin 8) (s t : State) : Prop where
  keeps : Keeps [.rail] s t
  allowed : t.rail.allowed = s.rail.allowed
  rail : t.rail.rail[r] = s.rail.rail[r]

theorem railKept_refl (r : Fin 8) (s : State) : RailKept r s s := ⟨keeps_refl _ _, rfl, rfl⟩

theorem RailKept.trans {r : Fin 8} {s t u : State} (h : RailKept r s t) (k : RailKept r t u) : RailKept r s u :=
  ⟨keeps_step k.keeps rfl h.keeps, k.allowed.trans h.allowed, k.rail.trans h.rail⟩

theorem railKept_foldl {α : Type} {r : Fin 8} {f : State → α → State} {l : List α}
    (hf : ∀ t, ∀ a ∈ l, RailKept r t (f t a)) : ∀ s, RailKept r s (l.foldl f s) := by
  induction l with
  | nil => exact railKept_refl r
  | cons a l ih =>
    exact fun s => (hf s a (List.mem_cons_self ..)).trans (ih (fun t b hb => hf t b (List.mem_cons_of_mem _ hb)) _)

theorem getElem_modRail (k r : Fin 8) (f : Rail → Rail) (s : State) :
    (modRail k f s).rail.rail[r] = if r = k then f s.rail.rail[r] else s.rail.rail[r] := by
  rw [modRail, Tab.upd_get]

theorem railKept_modRail {r k : Fin 8} (h : k ≠ r) (f : Rail → Rail) (s : State) : RailKept r s (modRail k f s) :=
  ⟨keeps_modRail k f s, rfl, (getElem_modRail k r f s).trans (if_neg (Ne.symm h))⟩

theorem railKept_dropSeq (r k : Fin 8) (s : State) : RailKept r s (dropSeq k s) :=
  ⟨keeps_dropSeq k s, rfl, rfl⟩

theorem railKept_ite {c : Prop} [Decidable c] {r : Fin 8} {s t u : State} (h : RailKept r s t)
    (k : RailKept r s u) : RailKept r s (if c then t else u) := by
  split
  · exact h
  · exact k

theorem railKept_startRail {r k : Fin 8} (h : k ≠ r) (s : State) : RailKept r s (startRail k s) :=
  railKept_ite (railKept_refl r s) (railKept_ite (railKept_modRail h _ s) (railKept_ite (railKept_modRail h _ s)
    (railKept_ite (railKept_modRail h _ s) (railKept_modRail h _ s))))

theorem railKept_settleRail {r k : Fin 8} (h : k ≠ r) (s : State) : RailKept r s (settleRail k s) := by
  have hmod := fun f => railKept_modRail h f s
  have hstart := railKept_startRail h s
  have hrefl := railKept_refl r s
  exact railKept_ite hrefl (railKept_ite (hmod _) (railKept_ite (railKept_ite (hmod _) hrefl)
    (railKept_ite (hmod _) (railKept_ite (hmod _) (railKept_ite hstart (railKept_ite hstart hrefl))))))

theorem settleRail_allowed (k : Fin 8) (s : State) : (settleRail k s).rail.allowed = s.rail.allowed := by
  have hne : k ≠ k + 1 := by revert k; decide
  exact (railKept_settleRail hne s).allowed

theorem mem_maskRails {m : BitVec 8} {k : Fin 8} : k ∈ maskRails m ↔ m.getLsbD k.val = true := by
  simp [maskRails]

/-- A sequenced start leaves every rail that its mask does not name. -/
theorem railKept_seqStart {r : Fin 8} (named : BitVec 8) {m : BitVec 8} (h : r ∉ maskRails m) (s : State) :
    RailKept r s (seqStart named m s) := by
  have hne : ∀ k ∈ maskRails m, k ≠ r := fun k hk hkr => h (hkr ▸ hk)
  unfold seqStart
  refine railKept_ite (railKept_refl r s) ?_
  dsimp only
  have hdrop := railKept_foldl (r := r) (l := maskRails named) (f := fun s k => dropSeq k s)
    (fun t k _ => railKept_dropSeq r k t) s
  generalize (maskRails named).foldl (fun s k => dropSeq k s) s = u at hdrop ⊢
  refine hdrop.trans (railKept_ite ?_ (RailKept.trans ?_ ⟨keeps_mk (keeps_refl _ _), rfl, rfl⟩)) <;>
  · refine (railKept_foldl (fun t k hk => railKept_modRail (hne k (List.mem_of_mem_filter hk)) _ t) u).trans
      (railKept_foldl (fun t k hk => railKept_startRail (hne k (List.mem_of_mem_filter hk)) t) _)

/-- A number made of eight bits has them. -/
theorem getLsbD_ofNat_bits : ∀ b0 b1 b2 b3 b4 b5 b6 b7 : Bool, ∀ k : Fin 8,
    (BitVec.ofNat 8 (bn b0 * 2 ^ 0 + (bn b1 * 2 ^ 1 + (bn b2 * 2 ^ 2 + (bn b3 * 2 ^ 3 + (bn b4 * 2 ^ 4 +
      (bn b5 * 2 ^ 5 + (bn b6 * 2 ^ 6 + (bn b7 * 2 ^ 7 + 0))))))))).getLsbD k.val =
    ![b0, b1, b2, b3, b4, b5, b6, b7] k := by
  decide +kernel

/-- The mask of the rails of a kind names exactly those. -/
theorem mem_railMask {s : State} {p : Rail → Bool} {k : Fin 8} :
    k ∈ maskRails (railMask s p) ↔ p s.rail.rail[k] = true := by
  have h8 : List.finRange 8 = [0, 1, 2, 3, 4, 5, 6, 7] := by decide
  have hbits := getLsbD_ofNat_bits (p s.rail.rail[(0 : Fin 8)]) (p s.rail.rail[(1 : Fin 8)])
    (p s.rail.rail[(2 : Fin 8)]) (p s.rail.rail[(3 : Fin 8)]) (p s.rail.rail[(4 : Fin 8)])
    (p s.rail.rail[(5 : Fin 8)]) (p s.rail.rail[(6 : Fin 8)]) (p s.rail.rail[(7 : Fin 8)]) k
  rw [mem_maskRails, railMask, h8]
  refine (Bool.eq_iff_iff.mp hbits).trans ?_
  fin_cases k <;> exact Iff.rfl

theorem mem_maskRails_and {m n : BitVec 8} {k : Fin 8} (h : k ∈ maskRails (m &&& n)) :
    k ∈ maskRails m ∧ k ∈ maskRails n := by
  simpa [mem_maskRails] using h

theorem mem_maskRails_or {m n : BitVec 8} {k : Fin 8} (h : k ∈ maskRails (m ||| n)) :
    k ∈ maskRails m ∨ k ∈ maskRails n := by
  simpa [mem_maskRails] using h

/-- The release of DISCONNECT touches only rails that are suspended or wait in a sequence (R373). -/
theorem railKept_releaseRails {r : Fin 8} {s : State} (hsusp : (s.rail.rail[r]).state ≠ .suspended)
    (hwait : (s.rail.rail[r]).state ≠ .waitSeq) : RailKept r s (releaseRails s) := by
  unfold releaseRails
  dsimp only
  generalize hheld : (railMask s fun r => r.state == .suspended && r.suspend == .disconnect) = held
  have hnot : r ∉ maskRails held := by
    rw [← hheld, mem_railMask]
    generalize s.rail.rail[r] = x at hsusp ⊢
    simp [hsusp]
  refine railKept_ite (railKept_refl r s) (RailKept.trans (railKept_foldl (fun t k hk => ?_) s)
    (railKept_seqStart _ (fun hr => ?_) _))
  · refine railKept_modRail (fun hkr => hnot ?_) _ t
    exact hkr ▸ (mem_maskRails_and hk).1
  · obtain h | h := mem_maskRails_or hr
    · exact hnot (mem_maskRails_and h).1
    · have := mem_railMask.mp (mem_maskRails_and h).1
      generalize s.rail.rail[r] = x at hwait this
      simp [hwait] at this

theorem rails_pruneSeqs (s : State) : (pruneSeqs s).rail.rail = s.rail.rail := rfl

theorem rails_checkRailJobs (s : State) : (checkRailJobs s).rail.rail = s.rail.rail := by
  have hstep : ∀ (l : List RailJob) (t : State), (l.foldl (fun s j => match railJobDone j s with
      | none => s
      | some st => finish j.cmd st (railResult s)
          { s with rail.jobs := s.rail.jobs.filter fun x => x.cmd.ser != j.cmd.ser }) t).rail.rail =
      t.rail.rail := by
    intro l
    induction l with
    | nil => exact fun _ => rfl
    | cons j l ih =>
      intro t
      rw [List.foldl_cons, ih]
      split
      · rfl
      · have hk := keeps_finish j.cmd ‹_› (railResult t)
          { t with rail.jobs := t.rail.jobs.filter fun x => x.cmd.ser != j.cmd.ser } .rail (by decide)
        rw [hk]
  exact hstep s.rail.jobs s

theorem rails_checkRailTest (s : State) : (checkRailTest s).rail = s.rail := keeps_checkRailTest s .rail (by decide)

/-- One pass over the rails (R372 to R374). -/
def railPass (s : State) : State := (List.finRange 8).foldl (fun s k => settleRail k s) s

/-- The state after the eight passes over the rails. -/
def railPasses (s : State) : State := (List.range 8).foldl (fun s _ => railPass s) s

theorem rails_settleRails (s : State) : (settleRails s).rail.rail = (railPasses (releaseRails s)).rail.rail := by
  unfold settleRails railPasses railPass
  dsimp only
  rw [rails_checkRailTest, rails_checkRailJobs, rails_pruneSeqs]

theorem foldl_settleRail_induction {p : State → Prop} (hstep : ∀ u k, p u → p (settleRail k u)) (l : List (Fin 8)) :
    ∀ s, p s → p (l.foldl (fun s k => settleRail k s) s) := by
  induction l with
  | nil => exact fun _ h => h
  | cons k l ih =>
    intro s h
    rw [List.foldl_cons]
    exact ih _ (hstep s k h)

/-- What each step of the passes keeps, they keep. -/
theorem railPasses_induction {p : State → Prop} (hstep : ∀ u k, p u → p (settleRail k u)) {s : State} (hs : p s) :
    p (railPasses s) := by
  unfold railPasses
  generalize List.range 8 = l
  induction l generalizing s with
  | nil => exact hs
  | cons i l ih =>
    rw [List.foldl_cons]
    exact ih (foldl_settleRail_induction hstep _ s hs)

/-- What the step of rail r brings about in the first pass, and each step keeps, holds after the passes. -/
theorem railPasses_reaches {p q : State → Prop} (r : Fin 8) (hp : ∀ u k, p u → p (settleRail k u))
    (hreach : ∀ u, p u → q (settleRail r u)) (hq : ∀ u k, q u → q (settleRail k u)) {s : State} (hs : p s) :
    q (railPasses s) := by
  have hfirst : q (railPass s) := by
    obtain ⟨l, m, hlm⟩ := List.append_of_mem (List.mem_finRange r)
    unfold railPass
    rw [hlm, List.foldl_append, List.foldl_cons]
    exact foldl_settleRail_induction hq m _ (hreach _ (foldl_settleRail_induction hp l s hs))
  have hpass : ∀ u, q u → q (railPass u) := foldl_settleRail_induction hq _
  have hlater : ∀ (l : List Nat) (u : State), q u → q (l.foldl (fun s _ => railPass s) u) := by
    intro l
    induction l with
    | nil => exact fun _ h => h
    | cons i l ih =>
      intro u h
      rw [List.foldl_cons]
      exact ih _ (hpass u h)
  have h8 : List.range 8 = 0 :: [1, 2, 3, 4, 5, 6, 7] := by decide
  unfold railPasses
  rw [h8, List.foldl_cons]
  exact hlater _ _ hfirst

/-- A rail that the passes have nothing to do for stays as it is. -/
theorem rail_settleRails {r : Fin 8} {s : State} (hsusp : (s.rail.rail[r]).state ≠ .suspended)
    (hwait : (s.rail.rail[r]).state ≠ .waitSeq) (hstay : ∀ u, RailKept r s u → settleRail r u = u) :
    (settleRails s).rail.rail[r] = s.rail.rail[r] := by
  have hall := railPasses_induction (p := RailKept r s) (fun u k hu => by
    by_cases hk : k = r
    · rw [hk, hstay u hu]; exact hu
    · exact hu.trans (railKept_settleRail hk u)) (railKept_releaseRails hsusp hwait)
  simp only [rails_settleRails]
  exact hall.rail

theorem drivesOff_congr {s t : State} (h : t.yok = s.yok) : drivesOff t = drivesOff s := by
  rw [drivesOff, drivesOff, h]

theorem RailKept.drives {r : Fin 8} {s t : State} (h : RailKept r s t) : drivesOff t = drivesOff s :=
  drivesOff_congr (h.keeps .yok (by decide))

theorem RailKept.disconnected {r : Fin 8} {s t : State} (h : RailKept r s t) : disconnected t = disconnected s := by
  rw [Machine.disconnected, Machine.disconnected, h.drives, h.keeps .yok (by decide), h.keeps .hdg (by decide),
    h.keeps .pwr (by decide)]

theorem RailKept.stopping {r : Fin 8} {s t : State} (h : RailKept r s t) : railsStopping t = railsStopping s := by
  rw [railsStopping, railsStopping, h.keeps .pwr (by decide)]

theorem RailKept.mayRun {r : Fin 8} {s t : State} (h : RailKept r s t) : railsMayRun t = railsMayRun s := by
  rw [railsMayRun, railsMayRun, h.stopping, h.allowed, h.keeps .pwr (by decide)]

/-- A rail that switches stays as it is while the outputs are driven and connected. -/
theorem settleRail_of_switching {r : Fin 8} {u : State} (hdrives : drivesOff u = true)
    (hconn : disconnected u = false) (hsw : (u.rail.rail[r]).switching = true)
    (hlink : (u.rail.rail[r]).entry.linkPrev = false ∨ (u.rail.rail[r]).state = .softStop) :
    settleRail r u = u := by
  unfold settleRail
  dsimp only
  generalize u.rail.rail[r] = x at hsw hlink ⊢
  rw [hdrives, hconn]
  obtain ⟨st, hst⟩ : ∃ st, x.state = st := ⟨_, rfl⟩
  simp only [Rail.switching, hst] at hsw
  rw [hst] at hlink ⊢
  cases st with
  | softStart | regulate | hold =>
    have hl : x.entry.linkPrev = false := hlink.resolve_right (by decide)
    simp [hl]
  | softStop => simp
  | off | waitSeq | suspended | faultWait | latched => exact absurd hsw (by decide)

/-- While the device does not hold the line, a rail that may run waits for it, SUSPENDED (R374). -/
theorem settleRail_of_standby {r : Fin 8} {u : State} {x : Rail} (hdrives : drivesOff u = false)
    (hused : x.entry.used = true) (hen : x.en = true) (hrun : railsMayRun u = true)
    (hrail : u.rail.rail[r] = x.stop .off .none ∨ u.rail.rail[r] = x.stop .suspended .standby) :
    (settleRail r u).rail.rail[r] = x.stop .suspended .standby := by
  have hstop : railsStopping u = false := by
    simp only [railsMayRun, Bool.and_eq_true, Bool.not_eq_true'] at hrun
    exact hrun.2
  have hmod := getElem_modRail r r (fun r => if r.en then r.stop .suspended .standby else r.stop .off .none) u
  rw [if_pos rfl] at hmod
  unfold settleRail
  dsimp only
  obtain h | h := hrail
  · have hen' : (x.stop .off .none).en = true := hen
    have hused' : (x.stop .off .none).entry.used = true := hused
    have hoff : (x.stop .off .none).state = .off := rfl
    rw [h, if_pos hen'] at hmod
    rw [h, hused', hen', hoff, hstop, hdrives, hrun]
    exact hmod
  · have hen' : (x.stop .suspended .standby).en = true := hen
    have hused' : (x.stop .suspended .standby).entry.used = true := hused
    have hsusp : (x.stop .suspended .standby).state = .suspended := rfl
    have hwhy : (x.stop .suspended .standby).suspend = .standby := rfl
    have hsw : (x.stop .suspended .standby).switching = false := rfl
    have hstays : settleRail r u = u := by
      unfold settleRail
      dsimp only
      rw [h, hused', hen', hsusp, hwhy, hsw, hstop, hdrives]
      rfl
    unfold settleRail at hstays
    dsimp only at hstays
    rw [hstays, h]

/-- A rail that is OFF stays so while the outputs are driven, or while it may not run. -/
theorem settleRail_of_off {r : Fin 8} {u : State} (hoff : (u.rail.rail[r]).state = .off)
    (h : drivesOff u = true ∨ ((u.rail.rail[r]).en && railsMayRun u) = false) : settleRail r u = u := by
  unfold settleRail
  dsimp only
  have hsw : (u.rail.rail[r]).switching = false := by simp only [Rail.switching, hoff]; rfl
  obtain h | h := h
  · simp only [hoff, hsw, h]
    simp
  · simp only [hoff, hsw, h, Bool.and_assoc]
    cases drivesOff u <;> simp

theorem clamp0_le (top : Nat) (x : Int) : clamp0 top x ≤ top := by
  rw [clamp0, sat]
  omega

theorem switching_cycle {s : State} {r : Fin 8} {vs : BitVec 15} {i : Int} (hup : s.pwr.analogue = true)
    (hused : (s.rail.rail[r]).entry.used = true) (htest : s.tst.job = none) (hjobs : s.rail.jobs = []) :
    Answers (exec (.railSwitchingCycle r vs i) s) fun t =>
      (t.rail.rail[r]).vs = 2 * vs.toNat ∧
      (t.rail.rail[r]).i = min 65535 ((s.rail.rail[r]).milliamps s.thm.trims.rail[r] i).toNat ∧
      ((s.rail.rail[r]).switching = true → (t.rail.rail[r]).duty ≤ 62259) ∧
      (t.rail.rail[r]).state = (s.rail.rail[r]).state ∧
      (∀ k : Fin 8, k ≠ r → t.rail.rail[k] = s.rail.rail[k]) ∧ Keeps [.rail] s t := by
  refine answers_whenS (by rw [hup, hused]; rfl) ?_
  generalize hu : modRail r (fun x => x.cycle (2 * vs.toNat) (x.milliamps s.thm.trims.rail[r] i)) s = u
  have hself : u.rail.rail[r] = (s.rail.rail[r]).cycle (2 * vs.toNat)
      ((s.rail.rail[r]).milliamps s.thm.trims.rail[r] i) := by rw [← hu, getElem_modRail, if_pos rfl]
  have hother : ∀ k : Fin 8, k ≠ r → u.rail.rail[k] = s.rail.rail[k] := fun k hk => by
    rw [← hu, getElem_modRail, if_neg hk]
  have hkeeps : Keeps [.rail] s u := by rw [← hu]; exact keeps_modRail _ _ _
  have hujobs : u.rail.jobs = [] := by rw [← hu]; exact hjobs
  have hutest : u.tst.job = none := by rw [hkeeps .tst (by decide)]; exact htest
  have hidle : railTestCycle r (checkRailJobs u) = u := by
    rw [checkRailJobs, hujobs, List.foldl_nil, railTestCycle, hutest]
  rw [hidle, hself]
  generalize s.rail.rail[r] = x
  refine ⟨?_, ?_, fun hsw => ?_, ?_, hother, hkeeps⟩
  · unfold Rail.cycle; dsimp only; split <;> rfl
  · unfold Rail.cycle; dsimp only; split <;> rfl
  · unfold Rail.cycle
    dsimp only
    have hsw' : (({ x with
        vs := 2 * vs.toNat, i := min 65535 (x.milliamps s.thm.trims.rail[r] i).toNat,
        cycleFault := none } : Rail)).switching = true := hsw
    rw [hsw', if_neg (by decide)]
    exact clamp0_le _ _
  · unfold Rail.cycle; dsimp only; split <;> rfl

theorem railIn_iff (r : Fin 8) (p : Rail → Bool) (s : State) : railIn r p s = true ↔
    s.pwr.analogue = true ∧ (s.rail.rail[r]).entry.used = true ∧ p s.rail.rail[r] = true := by
  simp only [railIn, Bool.and_eq_true, and_assoc]

theorem drives_modRail (r : Fin 8) (f : Rail → Rail) (s : State) :
    drivesOff (modRail r f s) = drivesOff s ∧ disconnected (modRail r f s) = disconnected s ∧
      railsMayRun (modRail r f s) = railsMayRun s := ⟨rfl, rfl, rfl⟩

/-- A rail that a change has set switching, while the outputs are driven and connected, is so afterwards. -/
theorem settled_switching {r : Fin 8} {f : Rail → Rail} {s : State} (hdrives : drivesOff s = true)
    (hconn : disconnected s = false) (hsw : (f s.rail.rail[r]).switching = true)
    (hlink : (f s.rail.rail[r]).entry.linkPrev = false ∨ (f s.rail.rail[r]).state = .softStop) :
    (settleRails (modRail r f s)).rail.rail[r] = f s.rail.rail[r] := by
  have hself := getElem_modRail r r f s
  rw [if_pos rfl] at hself
  obtain ⟨hd, hc, -⟩ := drives_modRail r f s
  generalize modRail r f s = u at hself hd hc ⊢
  have hsw' := hsw
  rw [← hself] at hsw hlink
  refine (rail_settleRails ?_ ?_ fun v hv => ?_).trans hself
  · intro h; rw [Rail.switching, h] at hsw; exact absurd hsw (by decide)
  · intro h; rw [Rail.switching, h] at hsw; exact absurd hsw (by decide)
  · refine settleRail_of_switching (by rw [hv.drives, hd, hdrives]) (by rw [hv.disconnected, hc, hconn]) ?_ ?_ <;>
      rw [hv.rail] <;> assumption

/-- A rail that has been turned off waits for the device to hold the line, where it may run, or is OFF (R374). -/
theorem settled_off {r : Fin 8} {s : State} (hused : (s.rail.rail[r]).entry.used = true) :
    ∃ st why, (settleRails (modRail r (fun x => x.stop .off .none) s)).rail.rail[r] =
      (s.rail.rail[r]).stop st why ∧
      st = if drivesOff s = false ∧ (s.rail.rail[r]).en = true ∧ railsMayRun s = true then .suspended else .off := by
  have hself := getElem_modRail r r (fun x => x.stop .off .none) s
  rw [if_pos rfl] at hself
  obtain ⟨hd, -, hrun⟩ := drives_modRail r (fun x => x.stop .off .none) s
  generalize modRail r (fun x => x.stop .off .none) s = u at hself hd hrun ⊢
  have hoff : (u.rail.rail[r]).state = .off := by rw [hself]; rfl
  have hen : (u.rail.rail[r]).en = (s.rail.rail[r]).en := by rw [hself]; rfl
  have hkept := railKept_releaseRails (r := r) (s := u) (by rw [hoff]; decide) (by rw [hoff]; decide)
  by_cases hwait : drivesOff s = false ∧ (s.rail.rail[r]).en = true ∧ railsMayRun s = true
  · rw [if_pos hwait]
    obtain ⟨hline, hene, hmay⟩ := hwait
    refine ⟨.suspended, .standby, ?_, rfl⟩
    have hstep : ∀ v, Keeps [.rail] u v → v.rail.allowed = u.rail.allowed →
        v.rail.rail[r] = (s.rail.rail[r]).stop .off .none ∨
          v.rail.rail[r] = (s.rail.rail[r]).stop .suspended .standby →
        (settleRail r v).rail.rail[r] = (s.rail.rail[r]).stop .suspended .standby := by
      intro v hv hallowed hrail
      refine settleRail_of_standby ?_ hused hene ?_ hrail
      · rw [drivesOff_congr (hv .yok (by decide)), hd, hline]
      · rw [← hmay, ← hrun, railsMayRun, railsMayRun, railsStopping, railsStopping, hv .pwr (by decide), hallowed]
    have hsettled := railPasses_reaches
      (p := fun v => Keeps [.rail] u v ∧ v.rail.allowed = u.rail.allowed ∧
        (v.rail.rail[r] = (s.rail.rail[r]).stop .off .none ∨
          v.rail.rail[r] = (s.rail.rail[r]).stop .suspended .standby))
      (q := fun v => Keeps [.rail] u v ∧ v.rail.allowed = u.rail.allowed ∧
        v.rail.rail[r] = (s.rail.rail[r]).stop .suspended .standby) r
      (fun v k hv => ?_) (fun v hv => ?_) (fun v k hv => ?_) (s := releaseRails u)
      ⟨hkept.keeps, hkept.allowed, .inl (hkept.rail.trans hself)⟩
    · simp only [rails_settleRails]
      exact hsettled.2.2
    · obtain ⟨hv, hallowed, hrail⟩ := hv
      refine ⟨keeps_step (keeps_settleRail k v) rfl hv, (settleRail_allowed k v).trans hallowed, ?_⟩
      by_cases hk : k = r
      · rw [hk]; exact .inr (hstep v hv hallowed hrail)
      · rw [(railKept_settleRail hk v).rail]; exact hrail
    · obtain ⟨hv, hallowed, hrail⟩ := hv
      exact ⟨keeps_step (keeps_settleRail r v) rfl hv, (settleRail_allowed r v).trans hallowed,
        hstep v hv hallowed hrail⟩
    · obtain ⟨hv, hallowed, hrail⟩ := hv
      refine ⟨keeps_step (keeps_settleRail k v) rfl hv, (settleRail_allowed k v).trans hallowed, ?_⟩
      by_cases hk : k = r
      · rw [hk]; exact hstep v hv hallowed (.inr hrail)
      · rw [(railKept_settleRail hk v).rail]; exact hrail
  · rw [if_neg hwait]
    refine ⟨.off, .none, (rail_settleRails ?_ ?_ fun v hv => ?_).trans hself, rfl⟩
    · rw [hoff]; decide
    · rw [hoff]; decide
    · refine settleRail_of_off (by rw [hv.rail, hoff]) ?_
      rw [hv.drives, hd, hv.rail, hen, hv.mayRun, hrun]
      cases h : drivesOff s
      · refine .inr (Bool.eq_false_iff.mpr fun hboth => hwait ⟨h, Bool.and_eq_true_iff.mp hboth⟩)
      · exact .inl rfl

/-- The sequence whose SEQ_DELAY has expired, where there is only one. -/
theorem exec_railSeqDelayExpiry {s : State} {r : Fin 8} {q : RailSeq} (hseqs : s.rail.seqs = [q])
    (hready : seqReady q r s = true) : exec (.railSeqDelayExpiry r) s =
      .next (settleRails (if q.start then startRail r s else stopRail r s)) := by
  refine congrArg Host.Outcome.next ?_
  have hfind : s.rail.seqs.find? (fun q => seqReady q r s) = some q := by
    rw [hseqs]
    exact List.find?_cons_of_pos hready
  rw [hfind]

/-- Settles O16: a rail that switches, or is OFF, is left alone by the suspensions that follow its change. -/
theorem railOperation : Obligations.RailOperation := by
  refine ⟨fun s r vs i => switching_cycle, fun s r hin => ?_, fun s r hin htarget hband hdrives hconn hlink => ?_,
    fun s r hin => ?_, fun s r q hseqs hready hstart hdrives hconn => ?_,
    fun s r q hseqs hready hstart hdrives hconn hen hused hlink hallowed hup hentry => ?_, fun s r hin => ?_⟩
  · refine answers_whenS hin ?_
    rw [getElem_modRail, if_pos rfl]
    exact ⟨rfl, rfl, fun k hk => by rw [getElem_modRail, if_neg hk], keeps_modRail _ _ _⟩
  · obtain ⟨hup, hused, hsoft⟩ := (railIn_iff _ _ _).mp hin
    refine answers_whenS ((railIn_iff _ _ _).mpr ⟨hup, hused, ?_⟩) ?_
    · rw [hsoft, htarget, hband, beq_self_eq_true]; rfl
    · rw [settled_switching hdrives hconn rfl (.inl hlink)]
      exact ⟨rfl, rfl⟩
  · obtain ⟨hup, hused, -⟩ := (railIn_iff _ _ _).mp hin
    refine answers_whenS hin ?_
    obtain ⟨st, why, hrail, hst⟩ := settled_off (r := r) (s := s) hused
    rw [hrail]
    exact ⟨hst, rfl, rfl⟩
  · refine answers_of_eq (exec_railSeqDelayExpiry hseqs hready) ?_
    rw [hstart, if_neg Bool.false_ne_true]
    have hsw : (s.rail.rail[r]).state = .regulate ∨ (s.rail.rail[r]).state = .softStart ∨
        (s.rail.rail[r]).state = .hold := by
      simp only [seqReady, hstart, Bool.false_eq_true, if_false, Bool.and_eq_true, Bool.or_eq_true,
        beq_iff_eq] at hready
      tauto
    have hstop : stopRail r s = modRail r (fun r => { r with
        state := .softStop, suspend := .none, vsEntry := r.target, rampAt := 0, pgood := false }) s := by
      unfold stopRail
      dsimp only
      obtain h | h | h := hsw <;> rw [h]
    rw [hstop, settled_switching hdrives hconn rfl (.inr rfl)]
  · refine answers_of_eq (exec_railSeqDelayExpiry hseqs hready) ?_
    rw [hstart, if_pos rfl]
    have hwait : (s.rail.rail[r]).state = .waitSeq := by
      simp only [seqReady, hstart, if_true, Bool.and_eq_true, beq_iff_eq] at hready
      tauto
    have hrun : railsMayRun s = true := by
      rw [railsMayRun, railsStopping, hallowed, hup, hentry]; rfl
    have hsoft : startRail r s = modRail r Rail.soft s := by
      unfold startRail
      dsimp only
      rw [hused, hen, hwait, hrun, hdrives, hconn, hlink]
      rfl
    rw [hsoft, settled_switching hdrives hconn rfl (.inl hlink)]
    rfl
  · refine answers_whenS hin ?_
    rw [getElem_modRail, if_pos rfl]
    exact ⟨rfl, fun k hk => by rw [getElem_modRail, if_neg hk], keeps_modRail _ _ _⟩

end Sys2Proof.Proofs
end

section
/-!
SUPPORT. A device that the pair has excluded sends no request on its lanes (R465), a HELLO among them.
-/

namespace Sys2Proof.Proofs

set_option Elab.async false

open Sys2Proof Sys2Proof.Machine Sys2Proof.Safety Sys2Proof.Laws

/-- An EXCLUDED device whose lane 0 asks for slot 0 in ENUMERATE. -/
def excludedAsking : State := { State.reset with
  yok.state := .excluded
  link.lane := State.reset.link.lane.upd 0 fun l => { l with state := .enumerate, asking := some 0 } }

/-- How much an instruction has sent. -/
def sentCount (o : Out) : Nat := match o with
  | .next t => t.out.length
  | _ => 0

theorem sentCount_of_excluded : sentCount (exec (.enumerateHelloRepeat 0) excludedAsking) = 0 := by decide +kernel

/-- Refutes O19: the HELLO that ENUMERATE repeats does not leave an EXCLUDED device. -/
theorem not_laneEnumeration : ¬ Obligations.LaneEnumeration := by
  unfold Obligations.LaneEnumeration
  rintro ⟨⟨hrepeat, -⟩, -⟩
  obtain ⟨t, ht, hsent, -⟩ := hrepeat excludedAsking 0 0 (by decide +kernel) (by decide +kernel)
    (by decide +kernel) (by decide +kernel)
  have hcount := sentCount_of_excluded
  rw [ht, sentCount, hsent] at hcount
  exact absurd hcount (by simp)

end Sys2Proof.Proofs
end

section
/-!
SUPPORT. An EXCLUDED device sends no PIX, whatever its line (R465).
-/

namespace Sys2Proof.Proofs

set_option Elab.async false

open Sys2Proof Sys2Proof.Machine Sys2Proof.Safety Sys2Proof.Laws

/-- An EXCLUDED device that pulls YOKE_ACT_N all the same, its Hedge at rest, in the scan-out of a frame to slot 0
of lane 0. -/
def excludedScan : State := { State.reset with
  pwr.core := true
  hdg.active := some .uncommissioned
  hdg.heartbeat := true
  yok.state := .excluded
  yok.holding := true
  lpl.scanning := true
  lpl.pos := State.reset.lpl.pos.put 0 (some ⟨0, 0⟩)
  lpl.served := State.reset.lpl.served.put 0 true
  lpl.buf := Tab.all 2 (some (newFrame State.reset))
  link.lane := State.reset.link.lane.upd 0 fun l => { l with state := .ready } }

theorem sentCount_of_excludedScan : sentCount (exec (.pixSend 0 0) excludedScan) = 0 := by decide +kernel

/-- Refutes O21: the lanes of an EXCLUDED device that holds the line may send, and yet no PIX leaves. -/
theorem not_lanePackets : ¬ Obligations.LanePackets := by
  unfold Obligations.LanePackets
  rintro ⟨-, -, -, hscan⟩
  obtain ⟨t, ht, -, -, ⟨vals, hsent, -⟩, -⟩ := hscan excludedScan 0 0 ⟨0, 0⟩ ⟨0, 0⟩ (newFrame State.reset)
    (by decide +kernel) (by decide +kernel) (by decide +kernel) (by decide +kernel) (by decide +kernel)
    (by decide +kernel) (by decide +kernel)
  have hcount := sentCount_of_excludedScan
  rw [ht, sentCount, hsent] at hcount
  exact absurd hcount (by simp)

end Sys2Proof.Proofs
end

section
/-!
SUPPORT. Accesses to BAR0: unmapped and badly sized ones, and the holding words of 64-bit registers (R13, R14).
-/

namespace Sys2Proof.Proofs

set_option Elab.async false

open Sys2Proof Sys2Proof.Machine Sys2Proof.Safety Sys2Proof.Laws

/-- A word that is held is read back. -/
theorem holding_setHolding_same (l : List (Nat × Word)) (off : Nat) (w : Word) :
    holding (setHolding l off w) off = w := by
  simp [holding, setHolding]

/-- The words held for other registers stay. -/
theorem holding_setHolding_ne {off o : Nat} (h : o ≠ off) (l : List (Nat × Word)) (w : Word) :
    holding (setHolding l off w) o = holding l o := by
  have hfind : (l.filter fun x => x.1 != off).find? (fun x => x.1 == o) = l.find? fun x => x.1 == o := by
    rw [List.find?_filter]
    refine List.find?_congr fun x _ => ?_
    by_cases hx : x.1 = o
    · simp [hx, h]
    · simp [hx]
  have hskip : ((off, w).1 == o) = false := beq_false_of_ne (Ne.symm h)
  rw [holding, setHolding, List.find?_cons_of_neg (by simp [Ne.symm h]), hfind, holding]

/-- An event raised for an access: the Reeve alone changes. -/
theorem raised_access {g : Nat} {c : Machine.Class} {d : Nat} {s : State} (h : s.pwr.core = true) :
    Raised g c d s (raise g c d s) ∧ Keeps [.rve] s (raise g c d s) :=
  ⟨raised_raise h, keeps_raise _ _ _ _⟩

/-- An event raised for a read, which is answered as well. -/
theorem raised_answered {g : Nat} {c : Machine.Class} {d : Nat} (e : Emit) {s : State} (h : s.pwr.core = true) :
    Raised g c d s (raise g c d (emit e s)) ∧ Sent [e] s (raise g c d (emit e s)) ∧
      Keeps [.out, .rve] s (raise g c d (emit e s)) := by
  have hraised := raised_raise (g := g) (c := c) (d := d) (s := emit e s) h
  have hout := keeps_raise g c d (emit e s) .out (by decide)
  refine ⟨?_, ?_, keeps_step (keeps_raise _ _ _ _) rfl (keeps_mono (keeps_emit e s) rfl)⟩
  · rw [Raised, emit_rve, emit_now] at hraised
    exact hraised
  · rw [Sent, hout, emit_out]
    rfl

/-- A 64-bit value rounded down to 64 is the value without its six low bits. -/
theorem ofNat_div_mul_64 (v w : Word) :
    BitVec.ofNat 64 ((v.toNat * 2 ^ 32 + w.toNat) / 64 * 64) = (v ++ w) &&& 0xFFFFFFFFFFFFFFC0#64 := by
  have hmask : ∀ x : BitVec 64, x &&& 0xFFFFFFFFFFFFFFC0#64 = (x >>> 6) <<< 6 := by
    intro x
    refine BitVec.eq_of_getLsbD_eq fun i hi => ?_
    have hbits : ∀ i : Fin 64, (0xFFFFFFFFFFFFFFC0#64).getLsbD i.val = decide (6 ≤ i.val) := by decide
    rw [BitVec.getLsbD_and, hbits ⟨i, hi⟩, BitVec.getLsbD_shiftLeft, BitVec.getLsbD_ushiftRight]
    by_cases h : 6 ≤ i
    · simp [h, hi, Nat.not_lt.mpr h]
    · simp [h, Nat.lt_of_not_le h]
  have hlt : v.toNat * 2 ^ 32 + w.toNat < 2 ^ 64 := by omega
  have happ : (v ++ w).toNat = v.toNat * 2 ^ 32 + w.toNat := by
    rw [BitVec.toNat_append, Nat.shiftLeft_eq, Nat.mul_comm, Nat.two_pow_add_eq_or_of_lt w.isLt]
  rw [hmask]
  apply BitVec.eq_of_toNat_eq
  rw [BitVec.toNat_ofNat, BitVec.toNat_shiftLeft, BitVec.toNat_ushiftRight, happ, Nat.shiftRight_eq_div_pow,
    Nat.shiftLeft_eq]

/-- Settles O23: each access answers and holds what its definition says; ring BASEs by `write64_sqBase`. -/
theorem registerAccess : Obligations.RegisterAccess := by
  refine ⟨fun s off hup hreg hreg64 hhigh => ?_, fun s off n hup => ?_, fun s off v hup hreg => ?_,
    fun s off v hup hoff hreg => ?_, fun s off w hup hreg => ?_, fun s n w hup hlock hen => ?_⟩
  · have hcore := core_of_hostUp hup
    have hmapped : (hostUp s && !((regRead off.toNat s).isSome || (regRead64 off.toNat s).isSome ||
        (regRead64 (off.toNat - 4) s).isSome)) = true := by rw [hup, hreg, hreg64, hhigh]; rfl
    exact ⟨answers_whenS hmapped (raised_access hcore), answers_whenS hmapped (raised_answered _ hcore)⟩
  · have hcore := core_of_hostUp hup
    exact ⟨answers_whenS hup (raised_access hcore), answers_whenS hup (raised_answered _ hcore)⟩
  · refine answers_of_eq (t := emit (.answer (leBytes 4 v) false)
      { s with hif.rdHold := setHolding s.hif.rdHold off.toNat (BitVec.ofNat 32 (v / 2 ^ 32)) }) ?_
      ⟨rfl, holding_setHolding_same _ _ _, keeps_step (keeps_emit _ _) rfl (keeps_mk (keeps_refl _ _))⟩
    simp only [exec, execReg64LowRead, hreg, whenS_true hup]
  · refine answers_of_eq (t := emit (.answer (leBytes 4 (if captured64 (off.toNat - 4) then v / 2 ^ 32
      else (holding s.hif.rdHold (off.toNat - 4)).toNat)) false) s) ?_ ⟨rfl, keeps_emit _ _⟩
    simp only [exec, execReg64HighRead, hreg, whenS_true hup]
  · refine answers_whenS (by rw [hup, hreg]; rfl)
      ⟨holding_setHolding_same _ _ _, fun o ho => holding_setHolding_ne ho _ _, keeps_mk (keeps_refl _ _)⟩
  · have hoff : BitVec.ofNat 22 (0x010004 + 0x20 * n.val) = BitVec.ofNat 22 (0x10000 + 0x20 * n.val + 4) := by
      congr 1; omega
    rw [hoff]
    refine answers_of_eq (exec_ring64HighWrite rfl (.inl rfl) w hup) ?_
    rw [write64_sqBase, storeSq_of_unlocked hen hlock]
    have hbase := ofNat_div_mul_64 w (holding s.hif.wrHold (0x10000 + 0x20 * n.val))
    generalize BitVec.ofNat 64
      ((w.toNat * 2 ^ 32 + (holding s.hif.wrHold (0x10000 + 0x20 * n.val)).toNat) / 64 * 64) = b at hbase ⊢
    have hu := ringChanged_modSq n (fun q => { q with base := b }) s
    generalize modSq n (fun q => { q with base := b }) s = u at hu ⊢
    rw [hu.self]
    exact ⟨hbase, hen, hu.cq, hu.other⟩

end Sys2Proof.Proofs
end

section
/-!
SUPPORT. The lanes: what an operation on one lane leaves of it and of the others.
-/

namespace Sys2Proof.Proofs

set_option Elab.async false

open Sys2Proof Sys2Proof.Machine Sys2Proof.Safety Sys2Proof.Laws

theorem laneAt_modLane_same (n : Fin 25) (f : Lane → Lane) (s : State) :
    laneAt n (modLane n f s) = f (laneAt n s) := by
  unfold laneAt modLane
  by_cases hn : n.val < 24
  · simp only [dif_pos hn]
    exact (Tab.upd_get _ _ (⟨n.val, hn⟩ : Fin 24) f).trans (if_pos rfl)
  · simp only [dif_neg hn]

theorem laneAt_modLane_ne {m n : Fin 25} (h : m ≠ n) (f : Lane → Lane) (s : State) :
    laneAt m (modLane n f s) = laneAt m s := by
  have hval : m.val ≠ n.val := fun he => h (Fin.ext he)
  unfold laneAt modLane
  by_cases hm : m.val < 24 <;> by_cases hn : n.val < 24
  · simp only [dif_pos hm, dif_pos hn]
    exact (Tab.upd_get _ _ (⟨m.val, hm⟩ : Fin 24) f).trans (if_neg (by simpa [Fin.ext_iff] using hval))
  · simp only [dif_pos hm, dif_neg hn]
  · simp only [dif_neg hm, dif_pos hn]
  · omega

theorem laneAt_congr {s t : State} (hlink : t.link.lane = s.link.lane) (hyok : t.yok.lane = s.yok.lane)
    (n : Fin 25) : laneAt n t = laneAt n s := by
  unfold laneAt
  rw [hyok]
  split
  · simp only [hlink]
  · rfl

theorem laneAt_of_keeps {l : List Zone} {s t : State} (k : Keeps l s t) (hl : Zone.link ∉ l) (hy : Zone.yok ∉ l)
    (n : Fin 25) : laneAt n t = laneAt n s :=
  laneAt_congr (congrArg Link.lane (k .link hl)) (congrArg Yoke.lane (k .yok hy)) n

theorem laneAt_castSucc (n : Fin 24) (s : State) : laneAt (Fin.castSucc n) s = s.link.lane[n] := by
  have h : (Fin.castSucc n).val < 24 := n.isLt
  unfold laneAt
  rw [dif_pos h]
  rfl

/-- Lane n has been changed by f, but for its transmitter, and every other lane stays. -/
structure LaneMoved (n : Fin 25) (f : Lane → Lane) (s t : State) : Prop where
  self : ∃ x, laneAt n t = { f (laneAt n s) with tx := x }
  other : ∀ m : Fin 25, m ≠ n → laneAt m t = laneAt m s

theorem laneMoved_modLane (n : Fin 25) (f : Lane → Lane) (s : State) : LaneMoved n f s (modLane n f s) :=
  ⟨⟨(f (laneAt n s)).tx, laneAt_modLane_same n f s⟩, fun _ hm => laneAt_modLane_ne hm f s⟩

theorem laneMoved_refl (n : Fin 25) (s : State) : LaneMoved n id s s := ⟨⟨_, rfl⟩, fun _ _ => rfl⟩

/-- A step that leaves every lane. -/
theorem laneMoved_of_same {n : Fin 25} {s t : State} (h : ∀ m, laneAt m t = laneAt m s) : LaneMoved n id s t :=
  ⟨⟨_, h n⟩, fun m _ => h m⟩

theorem laneMoved_of_keeps {n : Fin 25} {l : List Zone} {s t : State} (k : Keeps l s t) (hl : Zone.link ∉ l)
    (hy : Zone.yok ∉ l) : LaneMoved n id s t := laneMoved_of_same (laneAt_of_keeps k hl hy)

/-- Two changes in a row, where the second takes nothing from the transmitter but leaves it. -/
theorem LaneMoved.trans {n : Fin 25} {f g : Lane → Lane} {s t u : State} (h : LaneMoved n f s t)
    (k : LaneMoved n g t u) (hg : ∀ l x, ∃ y, g { l with tx := x } = { g l with tx := y }) :
    LaneMoved n (fun l => g (f l)) s u := by
  obtain ⟨x, hx⟩ := h.self
  obtain ⟨y, hy⟩ := k.self
  obtain ⟨z, hz⟩ := hg (f (laneAt n s)) x
  refine ⟨⟨y, ?_⟩, fun m hm => (k.other m hm).trans (h.other m hm)⟩
  rw [hy, hx, hz]

theorem LaneMoved.then_same {n : Fin 25} {f : Lane → Lane} {s t u : State} (h : LaneMoved n f s t)
    (k : LaneMoved n id t u) : LaneMoved n f s u := h.trans k fun _ _ => ⟨_, rfl⟩

theorem LaneMoved.after_same {n : Fin 25} {f : Lane → Lane} {s t u : State} (h : LaneMoved n id s t)
    (k : LaneMoved n f t u) (hf : ∀ l x, ∃ y, f { l with tx := x } = { f l with tx := y }) : LaneMoved n f s u :=
  h.trans k hf

theorem laneMoved_emit (n : Fin 25) (e : Emit) (s : State) : LaneMoved n id s (emit e s) :=
  laneMoved_of_keeps (keeps_emit e s) (by decide) (by decide)

/-- What a lane sends changes nothing of the lanes but its transmitter. -/
theorem laneMoved_sendLane (n : Fin 25) (p : LanePkt) (s : State) : LaneMoved n id s (sendLane n p s) := by
  have hput : ∀ (x : LaneTx) (b : Bool), LaneMoved n id s (modLane n (fun l => { l with tx := { x with rd := b } }) s) :=
    fun x b => ⟨⟨_, laneAt_modLane_same n _ s⟩, fun _ hm => laneAt_modLane_ne hm _ s⟩
  unfold sendLane
  dsimp only
  split
  · exact laneMoved_refl n s
  · split
    · split
      · exact (hput _ _).then_same (laneMoved_emit n _ _)
      · exact ((hput _ _).then_same (laneMoved_emit n _ _)).then_same (laneMoved_emit n _ _)
    · split
      · exact (hput _ _).then_same (laneMoved_emit n _ _)
      · exact ((hput _ _).then_same (laneMoved_emit n _ _)).then_same (laneMoved_emit n _ _)
    · exact (hput _ _).then_same (laneMoved_emit n _ _)
    · exact (hput _ _).then_same (laneMoved_emit n _ _)

theorem laneMoved_laneSends (n : Fin 25) (s : State) : LaneMoved n id s (laneSends n s) := by
  unfold laneSends
  split
  · exact laneMoved_sendLane n _ s
  · exact laneMoved_refl n s

theorem laneMoved_toState (n : Fin 25) (st : LaneState) (s : State) :
    LaneMoved n (fun l => { l with state := st, tsRun := 0 }) s (toState n st s) :=
  (laneMoved_modLane n _ s).then_same (laneMoved_laneSends n _)

/-- A control packet changes nothing of the lanes but the transmitter and the end of the control traffic. -/
theorem laneMoved_sendReq (n : Fin 25) (p : LanePkt) (s : State) :
    ∃ e, LaneMoved n (fun l => { l with ctlBusy := e }) s (sendReq n p s) := by
  unfold sendReq
  dsimp only
  split
  · exact ⟨(laneAt n s).ctlBusy, ⟨_, rfl⟩, fun _ _ => rfl⟩
  · exact ⟨_, (laneMoved_modLane n _ s).then_same (laneMoved_sendLane n p _)⟩

theorem laneMoved_laneEvent (n m : Fin 25) (kind reason : Nat) (cls : Machine.Class) (s : State) :
    LaneMoved n id s (laneEvent m kind reason cls s) :=
  laneMoved_of_keeps (keeps_laneEvent _ _ _ _ _) (by decide) (by decide)

theorem laneMoved_loopLaneBack (n m : Fin 25) (s : State) : LaneMoved n id s (loopLaneBack m s) :=
  laneMoved_of_keeps (keeps_loopLaneBack _ _) (by decide) (by decide)

/-- A retrain's entry into DETECT, which keeps orientation, polarity and rate (R296, R301). -/
def detectLane (warm : Bool) (attempts now : Nat) (l : Lane) : Lane := { l with
  state := .detect
  reason := .none
  warm := warm
  attempts := attempts
  rate := l.targetRate
  leftAt := if l.state = .off ∨ l.state = .ready then now else l.leftAt
  tsRun := 0, asking := none, answers := [], checkFails := 0, patternDone := false, reported := 0
  checkBad := false, assigned := 0, included := 0, requests := l.kept, loop := none, nextLen := none }

/-- What a cold start sets before a lane enters DETECT (R298, R301). -/
def coldLane (rate : Nat) (l : Lane) : Lane := { l with rxInvert := false, targetRate := rate, rateDowns := 0 }

theorem laneMoved_leaveScan (n m : Fin 25) (s : State) : LaneMoved n id s (leaveScan m s) :=
  laneMoved_of_keeps (keeps_leaveScan _ _) (by decide) (by decide)

theorem laneMoved_laneDark (n m : Fin 25) (s : State) : LaneMoved n id s (laneDark m s) :=
  laneMoved_of_keeps (keeps_laneDark _ _) (by decide) (by decide)

theorem laneMoved_enterDetect_again {n : Fin 25} {warm : Bool} {attempts : Nat}
    (h : (warm || attempts != 0) = true) (s : State) :
    LaneMoved n (detectLane warm attempts s.now) s (enterDetect n warm attempts s) := by
  have hdark := (laneMoved_leaveScan n n s).then_same (laneMoved_laneDark n n (leaveScan n s))
  have hnow : (laneDark n (leaveScan n s)).now = s.now :=
    (keeps_laneDark _ _ .now (by decide)).trans (keeps_leaveScan _ _ .now (by decide))
  unfold enterDetect
  rw [if_pos h]
  dsimp only
  generalize laneDark n (leaveScan n s) = u at hdark hnow ⊢
  have hdetect := (laneMoved_modLane n (detectLane warm attempts u.now) u).then_same (laneMoved_laneSends n _)
  rw [hnow] at hdetect ⊢
  exact hdark.after_same hdetect fun _ x => ⟨x, rfl⟩

theorem freshOrientation_lanes (n : Fin 25) (s : State) : LaneMoved n id s (freshOrientation n s) := by
  unfold freshOrientation
  split
  · exact laneMoved_refl n s
  · exact laneMoved_of_same fun m => laneAt_congr rfl rfl m

theorem laneMoved_coldStart (n : Fin 25) (s : State) : ∃ r, LaneMoved n (coldLane r) s (coldStart n s) :=
  ⟨coldRate n s, (freshOrientation_lanes n s).after_same (laneMoved_modLane n _ _) fun _ x => ⟨x, rfl⟩⟩

theorem laneMoved_enterDetect_cold (n : Fin 25) (s : State) :
    ∃ r, LaneMoved n (fun l => detectLane false 0 s.now (coldLane r l)) s (enterDetect n false 0 s) := by
  obtain ⟨r, hcold⟩ := laneMoved_coldStart n s
  have hnow : (laneDark n (leaveScan n (coldStart n s))).now = s.now :=
    (keeps_laneDark _ _ .now (by decide)).trans ((keeps_leaveScan _ _ .now (by decide)).trans
      (keeps_coldStart _ _ .now (by decide)))
  have hdark := (hcold.then_same (laneMoved_leaveScan n n _)).then_same (laneMoved_laneDark n n _)
  unfold enterDetect
  rw [if_neg (by decide)]
  dsimp only
  generalize laneDark n (leaveScan n (coldStart n s)) = u at hdark hnow ⊢
  have hdetect := (laneMoved_modLane n (detectLane false 0 u.now) u).then_same (laneMoved_laneSends n _)
  rw [hnow] at hdetect ⊢
  exact ⟨r, hdark.trans hdetect fun _ x => ⟨x, rfl⟩⟩

/-- What an entry into DOWN leaves of a lane (R296, R299, R300). -/
def downLane (why : LaneReason) (l : Lane) : Lane := { l with
  state := .down, reason := why, asking := none, requests := l.kept, assigned := 0, included := 0 }

theorem laneMoved_enterDown {n : Fin 25} (h : n ≠ 24) (why : LaneReason) (s : State) :
    LaneMoved n (downLane why) s (enterDown n why s) := by
  have hlane : isYokeLane n = false := by
    rw [isYokeLane]; exact beq_false_of_ne fun he => h (Fin.ext he)
  unfold enterDown
  dsimp only
  rw [hlane, if_neg Bool.false_ne_true]
  exact (((laneMoved_modLane n (downLane why) s).then_same (laneMoved_laneSends n _)).then_same
    (laneMoved_laneEvent n n _ _ _ _)).then_same (laneMoved_loopLaneBack n n _)

/-- The request that a CFG or an RDQ makes (R331). -/
def newReq (n : Fin 25) (slot : Nat) (write : Bool) (addr data mtch : Nat) (s : State) : CtlReq :=
  { slot := slot, write := write, addr := addr, data := BitVec.ofNat 32 data
    match' := BitVec.ofNat 32 mtch, seq := (laneAt n s).ctlSeq, repeats := 0, sent := false }

theorem laneMoved_sendNow (n : Fin 25) (b : Bool) (p : LanePkt) (s : State) :
    ∃ e, LaneMoved n (fun l => { l with ctlBusy := e }) s (if b then sendReq n p s else s) := by
  cases b
  · exact ⟨(laneAt n s).ctlBusy, ⟨_, rfl⟩, fun _ _ => rfl⟩
  · exact laneMoved_sendReq n p s

/-- A request of the bring-up exchanges joins its lane's requests, unless it is sent at once and not followed. -/
theorem laneMoved_sendCtl {n : Fin 25} {slot : Nat} {write : Bool} {addr data mtch : Nat} {s : State}
    (h : (newReq n slot write addr data mtch s).bringUp = true) : ∃ e b, LaneMoved n (fun l => { l with
      ctlBusy := e
      ctlSeq := l.ctlSeq + 1
      requests := if b && !(newReq n slot write addr data mtch s).followed then l.requests
        else l.requests ++ [{ newReq n slot write addr data mtch s with sent := b }] }) s
      (sendCtl n slot write addr data mtch s) ∧
      b = ctlNow n (newReq n slot write addr data mtch s).packet.length s := by
  have heq : sendCtl n slot write addr data mtch s = modLane n (fun l => { l with
      ctlSeq := l.ctlSeq + 1
      requests := if ctlNow n (newReq n slot write addr data mtch s).packet.length s &&
          !(newReq n slot write addr data mtch s).followed then l.requests
        else l.requests ++ [{ newReq n slot write addr data mtch s with
          sent := ctlNow n (newReq n slot write addr data mtch s).packet.length s }] })
      (if ctlNow n (newReq n slot write addr data mtch s).packet.length s then
        sendReq n (newReq n slot write addr data mtch s).packet s else s) := by
    refine if_neg ?_
    simp only [newReq] at h
    rw [h]
    simp
  rw [heq]
  generalize newReq n slot write addr data mtch s = q
  generalize ctlNow n q.packet.length s = b
  obtain ⟨e, he⟩ := laneMoved_sendNow n b q.packet s
  refine ⟨e, b, ?_, rfl⟩
  exact he.trans (laneMoved_modLane n (fun l => { l with
    ctlSeq := l.ctlSeq + 1
    requests := if b && !q.followed then l.requests else l.requests ++ [{ q with sent := b }] }) _)
    fun _ x => ⟨x, rfl⟩

end Sys2Proof.Proofs
end

section
/-!
SUPPORT. O18: the transitions of a lane from DETECT to READY and the failures of an attempt.
-/

namespace Sys2Proof.Proofs

set_option Elab.async false

open Sys2Proof Sys2Proof.Machine Sys2Proof.Safety Sys2Proof.Laws

theorem isYokeLane_of_ne {n : Fin 25} (h : n ≠ 24) : isYokeLane n = false := by
  rw [isYokeLane]; exact beq_false_of_ne fun he => h (Fin.ext he)

/-- A training set whose CHK is right is judged by the lane's state (R290, R297, R298). -/
theorem exec_trainingSet (n : Fin 25) (ident lane rate st : Byte) (s : State) :
    exec (.laneTrainingSetReceived n ident lane rate st (ident ^^^ lane ^^^ rate ^^^ st)) s =
      .next (match (laneAt n s).state with
        | .polarity => inPolarity n ident s
        | .reversal => inReversal n ident lane s
        | _ => s) :=
  congrArg Host.Outcome.next (whenS_true (beq_self_eq_true _))

/-- The lanes but for their transmitters, as the statements of O18 speak of them. -/
theorem LaneMoved.field {α : Type} {n : Fin 25} {f : Lane → Lane} {s t : State} (h : LaneMoved n f s t)
    (p : Lane → α) (hp : ∀ l x, p { l with tx := x } = p l) : p (laneAt n t) = p (f (laneAt n s)) := by
  obtain ⟨x, hx⟩ := h.self
  rw [hx, hp]

theorem signal_detected {s : State} {n : Fin 25} (h : (laneAt n s).state = .detect) :
    Answers (exec (.laneSignalDetect n) s) fun t =>
      (laneAt n t).state = .commaLock ∧ ∀ m : Fin 25, m ≠ n → laneAt m t = laneAt m s := by
  have hmoved := laneMoved_toState n .commaLock s
  refine answers_of_eq (t := toState n .commaLock s) (congrArg Host.Outcome.next (if_pos h)) ?_
  exact ⟨hmoved.field Lane.state fun _ _ => rfl, hmoved.other⟩

theorem comma_locked {s : State} {n : Fin 25} (h : (laneAt n s).state = .commaLock) :
    Answers (exec (.laneCommaLock n) s) fun t =>
      (laneAt n t).state = .polarity ∧ (laneAt n t).tsRun = 0 ∧
      ∀ m : Fin 25, m ≠ n → laneAt m t = laneAt m s := by
  have hmoved := laneMoved_toState n .polarity s
  refine answers_whenS (by rw [laneIs, h]; rfl) ?_
  exact ⟨hmoved.field Lane.state fun _ _ => rfl, hmoved.field Lane.tsRun fun _ _ => rfl, hmoved.other⟩

theorem polarity_counts {s : State} {n : Fin 25} {lane rate st : Byte} (h : (laneAt n s).state = .polarity)
    (hn : n ≠ 24) :
    Answers (exec (.laneTrainingSetReceived n 0x4A lane rate st (0x4A ^^^ lane ^^^ rate ^^^ st)) s) fun t =>
      (if (laneAt n s).tsRun + 1 < 8 then
        (laneAt n t).state = .polarity ∧ (laneAt n t).tsRun = (laneAt n s).tsRun + 1
      else (laneAt n t).state = .reversal ∧ (laneAt n t).tsRun = 0) ∧
      ∀ m : Fin 25, m ≠ n → laneAt m t = laneAt m s := by
  refine answers_of_eq (exec_trainingSet n 0x4A lane rate st s) ?_
  rw [h]
  dsimp only
  unfold inPolarity
  dsimp only
  rw [if_neg (c := (0x4A : Byte) = 0xB5 ∨ (0x4A : Byte) = 0xBA) (by decide),
    if_neg (c := (0x4A : Byte) ≠ 0x4A) (by decide)]
  by_cases hrun : (laneAt n s).tsRun + 1 < 8
  · rw [if_pos hrun, if_pos hrun, laneAt_modLane_same]
    exact ⟨⟨h, rfl⟩, fun m hm => laneAt_modLane_ne hm _ s⟩
  · rw [if_neg hrun, if_neg hrun, isYokeLane_of_ne hn, if_neg Bool.false_ne_true]
    have hmoved := laneMoved_toState n .reversal s
    exact ⟨⟨hmoved.field Lane.state fun _ _ => rfl, hmoved.field Lane.tsRun fun _ _ => rfl⟩, hmoved.other⟩

theorem castSucc_ne_last (n : Fin 24) : (Fin.castSucc n : Fin 25) ≠ 24 := by
  intro h
  have := congrArg Fin.val h
  have hlt := n.isLt
  simp at this
  omega

/-- Enumeration starts by asking for slot 0 (R295, R317). -/
theorem enumeration_starts {n : Fin 25} (hn : n ≠ 24) (s : State) :
    (laneAt n (enterEnumerate n s)).state = .enumerate ∧ (laneAt n (enterEnumerate n s)).asking = some 0 ∧
      (laneAt n (enterEnumerate n s)).assigned = 0 := by
  unfold enterEnumerate askSlot
  rw [isYokeLane_of_ne hn, if_neg Bool.false_ne_true]
  have hfirst := (laneMoved_modLane n (fun l => { l with assigned := 0 }) s).trans
    (laneMoved_toState n .enumerate _) fun _ x => ⟨x, rfl⟩
  have hasked := hfirst.trans (laneMoved_modLane n (fun l => { l with asking := some 0, answers := [] }) _)
    fun _ x => ⟨x, rfl⟩
  generalize modLane n (fun l => { l with asking := some 0, answers := [] })
    (toState n .enumerate (modLane n (fun l => { l with assigned := 0 }) s)) = u at hasked ⊢
  obtain ⟨e, b, hsent, -⟩ := laneMoved_sendCtl (n := n) (slot := 7) (write := false) (addr := 0x000C) (data := 0)
    (mtch := 0) (s := u) rfl
  have hall := hasked.trans hsent fun _ x => ⟨x, rfl⟩
  exact ⟨hall.field Lane.state fun _ _ => rfl, hall.field Lane.asking fun _ _ => rfl,
    hall.field Lane.assigned fun _ _ => rfl⟩

theorem reversal_counts {s : State} {n : Fin 24} {rate st : Byte} (h : (s.link.lane[n]).state = .reversal) :
    Answers (exec (.laneTrainingSetReceived (Fin.castSucc n) 0x4A (BitVec.ofNat 8 n.val) rate st
         (0x4A ^^^ BitVec.ofNat 8 n.val ^^^ rate ^^^ st)) s) fun t =>
       if (s.link.lane[n]).tsRun + 1 < 8 then
         (t.link.lane[n]).state = .reversal ∧ (t.link.lane[n]).tsRun = (s.link.lane[n]).tsRun + 1
       else (t.link.lane[n]).state = .enumerate ∧ (t.link.lane[n]).asking = some 0 ∧
         (t.link.lane[n]).assigned = 0 := by
  have hlt := n.isLt
  have hnat : (BitVec.ofNat 8 n.val).toNat = n.val := Nat.mod_eq_of_lt (by omega)
  have hself : BitVec.ofNat 8 n.val ≠ 0xFF := by
    intro he
    have := congrArg BitVec.toNat he
    rw [hnat] at this
    simp at this
    omega
  refine answers_of_eq (exec_trainingSet _ _ _ _ _ _) ?_
  rw [laneAt_castSucc, h]
  dsimp only
  unfold inReversal
  dsimp only
  rw [if_neg (c := (0x4A : Byte) ≠ 0x4A) (by decide), if_neg hself,
    if_pos (c := (BitVec.ofNat 8 n.val).toNat = (Fin.castSucc n).val) (by rw [hnat]; rfl), laneAt_castSucc]
  by_cases hrun : (s.link.lane[n]).tsRun + 1 < 8
  · rw [if_pos hrun, if_pos hrun, ← laneAt_castSucc, ← laneAt_castSucc, laneAt_modLane_same]
    exact ⟨(congrArg Lane.state (laneAt_castSucc n s)).trans h, rfl⟩
  · rw [if_neg hrun, if_neg hrun, ← laneAt_castSucc n (enterEnumerate _ s)]
    exact enumeration_starts (castSucc_ne_last n) s

theorem inverted_set {s : State} {n : Fin 25} {ident lane rate st : Byte} (h : (laneAt n s).state = .polarity)
    (hid : ident = 0xB5 ∨ ident = 0xBA) (hinv : (laneAt n s).rxInvert = false) :
    Answers (exec (.laneTrainingSetReceived n ident lane rate st (ident ^^^ lane ^^^ rate ^^^ st)) s) fun t =>
      (laneAt n t).rxInvert = true ∧ (laneAt n t).tsRun = 0 ∧ (laneAt n t).state = .polarity := by
  refine answers_of_eq (exec_trainingSet n ident lane rate st s) ?_
  rw [h]
  dsimp only
  unfold inPolarity
  dsimp only
  rw [if_pos hid, hinv, if_neg Bool.false_ne_true, laneAt_modLane_same]
  exact ⟨rfl, rfl, h⟩

/-- The first two failures of an attempt lead back to DETECT (R296). -/
theorem attempt_repeated {s : State} {n : Fin 25} (why : LaneReason) (h : (laneAt n s).attempts < 2) :
    (laneAt n (attemptFailed n why s)).state = .detect ∧
      (laneAt n (attemptFailed n why s)).attempts = (laneAt n s).attempts + 1 ∧
      (laneAt n (attemptFailed n why s)).warm = (laneAt n s).warm := by
  unfold attemptFailed
  dsimp only
  rw [if_neg (by omega)]
  have hmoved := laneMoved_enterDetect_again (n := n) (warm := (laneAt n s).warm)
    (attempts := (laneAt n s).attempts + 1) (by simp) s
  exact ⟨hmoved.field Lane.state fun _ _ => rfl, hmoved.field Lane.attempts fun _ _ => rfl,
    hmoved.field Lane.warm fun _ _ => rfl⟩

theorem attempt_given_up {s : State} {n : Fin 25} (why : LaneReason) (hn : n ≠ 24)
    (h : 2 ≤ (laneAt n s).attempts) :
    (laneAt n (attemptFailed n why s)).state = .down ∧ (laneAt n (attemptFailed n why s)).reason = why ∧
      (laneAt n (attemptFailed n why s)).attempts = 3 := by
  unfold attemptFailed
  dsimp only
  rw [if_pos (by omega)]
  have hmoved := (laneMoved_modLane n (fun l => { l with attempts := 3 }) s).trans
    (laneMoved_enterDown hn why _) fun _ x => ⟨x, rfl⟩
  exact ⟨hmoved.field Lane.state fun _ _ => rfl, hmoved.field Lane.reason fun _ _ => rfl,
    hmoved.field Lane.attempts fun _ _ => rfl⟩

/-- The check begins, or begins again (R300). -/
def checkLane (l : Lane) : Lane := { l with
  state := .check, patternDone := false, reported := 0, checkBad := false, asking := none }

/-- The write that starts the pattern on the tiles of a chain. -/
theorem checkCtl_moved (n : Fin 25) (b : Bool) (k : Nat) (s : State) : ∃ e q r,
    LaneMoved n (fun l => { l with ctlBusy := e, ctlSeq := q, requests := r }) s
      (if b then s else sendCtl n 6 true 0x0018 k 0 s) := by
  cases b
  · obtain ⟨e, c, hsent, -⟩ := laneMoved_sendCtl (n := n) (slot := 6) (write := true) (addr := 0x0018) (data := k)
      (mtch := 0) (s := s) rfl
    exact ⟨e, _, _, hsent.self, hsent.other⟩
  · exact ⟨_, _, _, ⟨_, rfl⟩, fun _ _ => rfl⟩

theorem laneMoved_enterCheck (n : Fin 25) (s : State) : ∃ e q r,
    LaneMoved n (fun l => { checkLane l with ctlBusy := e, ctlSeq := q, requests := r }) s (enterCheck n s) := by
  have hfirst := laneMoved_modLane n checkLane s
  unfold enterCheck
  dsimp only
  rw [← show checkLane = fun l => { l with
    state := .check, patternDone := false, reported := 0, checkBad := false, asking := none } from rfl]
  generalize modLane n checkLane s = u at hfirst ⊢
  obtain ⟨e, q, r, hctl⟩ := checkCtl_moved n (isYokeLane n)
    (patternChars (if (laneAt n u).warm = true then 16384 else 131072)) u
  exact ⟨e, q, r, (hfirst.trans hctl fun _ x => ⟨x, rfl⟩).then_same (laneMoved_sendLane n _ _)⟩

theorem check_repeated {s : State} {n : Fin 25} (h : (laneAt n s).state = .check)
    (hfails : (laneAt n s).checkFails = 0) :
    Answers (exec (.laneStateTimeout n) s) fun t =>
      (laneAt n t).state = .check ∧ (laneAt n t).checkFails = 1 ∧ (laneAt n t).patternDone = false ∧
      (laneAt n t).checkBad = false := by
  refine answers_of_eq (t := judgeCheck n (modLane n (fun l => { l with checkBad := true }) s)) ?_ ?_
  · simp only [exec, execLaneStateTimeout, h]
  · have hfirst := laneMoved_modLane n (fun l => { l with checkBad := true }) s
    generalize modLane n (fun l => { l with checkBad := true }) s = u at hfirst ⊢
    have hbad : (laneAt n u).checkBad = true := hfirst.field Lane.checkBad fun _ _ => rfl
    have hfew : (laneAt n u).checkFails = 0 := (hfirst.field Lane.checkFails fun _ _ => rfl).trans hfails
    unfold judgeCheck
    dsimp only
    rw [hbad, Bool.not_true, if_neg Bool.false_ne_true, if_pos hfew]
    obtain ⟨e, q, r, hcheck⟩ := laneMoved_enterCheck n (modLane n (fun l => { l with checkFails := 1 }) u)
    have hall := (laneMoved_modLane n (fun l => { l with checkFails := 1 }) u).trans hcheck fun _ x => ⟨x, rfl⟩
    exact ⟨hall.field Lane.state fun _ _ => rfl, hall.field Lane.checkFails fun _ _ => rfl,
      hall.field Lane.patternDone fun _ _ => rfl, hall.field Lane.checkBad fun _ _ => rfl⟩

theorem cold_bringUp (n : Fin 25) (s : State) : (laneAt n (enterDetect n false 0 s)).state = .detect ∧
    (laneAt n (enterDetect n false 0 s)).attempts = 0 ∧ (laneAt n (enterDetect n false 0 s)).warm = false := by
  obtain ⟨r, hmoved⟩ := laneMoved_enterDetect_cold n s
  exact ⟨hmoved.field Lane.state fun _ _ => rfl, hmoved.field Lane.attempts fun _ _ => rfl,
    hmoved.field Lane.warm fun _ _ => rfl⟩

/-- Cold bring-ups of several lanes: each of them is in DETECT afterwards. -/
theorem foldl_cold_bringUp (n : Fin 25) (l : List (Fin 25)) : ∀ s : State,
    ((laneAt n s).state = .detect ∧ (laneAt n s).warm = false ∨ n ∈ l) →
    (laneAt n (l.foldl (fun s n => enterDetect n false 0 s) s)).state = .detect ∧
      (laneAt n (l.foldl (fun s n => enterDetect n false 0 s) s)).warm = false := by
  induction l with
  | nil => exact fun s h => h.resolve_right List.not_mem_nil
  | cons m l ih =>
    intro s h
    rw [List.foldl_cons]
    refine ih _ ?_
    by_cases hm : n = m
    · obtain ⟨hstate, -, hwarm⟩ := cold_bringUp m s
      exact .inl (by rw [hm]; exact ⟨hstate, hwarm⟩)
    · obtain ⟨r, hmoved⟩ := laneMoved_enterDetect_cold m s
      rw [hmoved.other n hm]
      exact h.imp_right fun hmem => (List.mem_cons.mp hmem).resolve_left hm

/-- Settles O18: each transition is `toState` or an entry into DETECT, DOWN or CHECK. -/
theorem laneBringUp : Obligations.LaneBringUp := by
  refine ⟨⟨fun s n => signal_detected, fun s n => comma_locked, fun s n lane rate st => polarity_counts,
    fun s n rate st => reversal_counts, fun s n ident lane rate st => inverted_set⟩,
    fun s n h hatt => ?_, fun s n h hatt hn => ?_, fun s n => check_repeated, fun s n h hheld => ?_,
    fun s r n hen hband h hwhy hheld hn hmap => ?_⟩
  · obtain h | h | h := h
    · exact answers_of_eq (by simp only [exec, execLaneStateTimeout, h]) (attempt_repeated .commaLock hatt)
    · exact answers_of_eq (by simp only [exec, execLaneStateTimeout, h]) (attempt_repeated .polarity hatt)
    · exact answers_of_eq (by simp only [exec, execLaneStateTimeout, h]) (attempt_repeated .reversal hatt)
  · exact answers_of_eq (by simp only [exec, execLaneStateTimeout, h]) (attempt_given_up .polarity hn hatt)
  · refine answers_of_eq (t := enterDetect n false 0 s) ?_ (cold_bringUp n s)
    simp only [exec, execLaneSlowRetrain, h, hheld, if_true, Bool.false_eq_true, if_false]
  · refine answers_whenS (by rw [hen, hband]; rfl) (foldl_cold_bringUp n _ s (.inr ?_))
    refine List.mem_filter.mpr ⟨List.mem_finRange n, ?_⟩
    have hon : ((List.range 4).any fun k => s.rail.map.at' (4 * n.val + k) 15 == r.val) = true :=
      List.any_eq_true.mpr ⟨0, by decide, by rw [Nat.add_zero, hmap, beq_self_eq_true]⟩
    dsimp only
    rw [h, hwhy, hheld, isYokeLane_of_ne hn, hon]
    rfl

end Sys2Proof.Proofs
end

section
/-!
SUPPORT. O20: events that retrain a READY lane, and slots that do not return.
-/

namespace Sys2Proof.Proofs

set_option Elab.async false

open Sys2Proof Sys2Proof.Machine Sys2Proof.Safety Sys2Proof.Laws

/-- What a retrain leaves of its lane: a warm bring-up from DETECT, counted (R301, R302). -/
def retrainLane (cause now : Nat) (l : Lane) : Lane :=
  detectLane true 0 now { l with retrains := bump 65535 1 l.retrains, silent := cause == 6 }

theorem retrain_moved (n : Fin 25) (cause : Nat) (s : State) :
    LaneMoved n (retrainLane cause s.now) s (retrain n cause s) := by
  have hcount := laneMoved_modLane n
    (fun l => { l with retrains := bump 65535 1 l.retrains, silent := cause == 6 }) s
  have hnow : (modLane n (fun l => { l with
      retrains := bump 65535 1 l.retrains, silent := cause == 6 }) s).now = s.now :=
    keeps_modLane _ _ _ .now (by decide)
  unfold retrain
  dsimp only
  generalize modLane n (fun l => { l with
    retrains := bump 65535 1 l.retrains, silent := cause == 6 }) s = u at hcount hnow ⊢
  have hevent := hcount.then_same (laneMoved_laneEvent n n 1 cause .minor u)
  have hnow' : (laneEvent n 1 cause .minor u).now = s.now := (keeps_laneEvent _ _ _ _ _ .now (by decide)).trans hnow
  generalize laneEvent n 1 cause .minor u = v at hevent hnow' ⊢
  have hdetect := laneMoved_enterDetect_again (n := n) (warm := true) (attempts := 0) rfl v
  rw [hnow'] at hdetect
  exact hevent.trans hdetect fun _ x => ⟨x, rfl⟩

theorem inbox_retrain (n : Fin 25) (cause : Nat) {s : State} (hcore : s.pwr.core = true) :
    (retrain n cause s).rve.inbox = s.rve.inbox ++ [⟨if isYokeLane n then 22 else 14 + n.val / 4, .minor,
      BitVec.ofNat 32 (if isYokeLane n then cause else n.val + cause * 256 + 1 * 4096), false, s.now⟩] := by
  unfold retrain
  dsimp only
  have hkeep := keeps_modLane n (fun l => { l with
    retrains := bump 65535 1 l.retrains, silent := cause == 6 }) s
  generalize modLane n (fun l => { l with
    retrains := bump 65535 1 l.retrains, silent := cause == 6 }) s = u at hkeep ⊢
  have hup : u.pwr.core = true := (congrArg Power.core (hkeep .pwr (by decide))).trans hcore
  have hnow : u.now = s.now := hkeep .now (by decide)
  have hrve : u.rve = s.rve := hkeep .rve (by decide)
  rw [show (enterDetect n true 0 (laneEvent n 1 cause .minor u)).rve = _ from
    keeps_enterDetect _ _ _ _ .rve (by decide)]
  unfold laneEvent
  by_cases hy : isYokeLane n = true
  · rw [if_pos hy, if_pos hy, if_pos hy, raise_of_core hup, hrve, hnow]
  · rw [if_neg hy, if_neg hy, if_neg hy, raise_of_core hup, hrve, hnow]

/-- A retrain of a lane of the sub-mosaics, after a step that counts on the lane alone. -/
theorem retrain_after {n : Fin 25} {cause : Nat} {f : Lane → Lane} {s : State} (hcore : s.pwr.core = true)
    (hn : n ≠ 24) : Raised (14 + n.val / 4) .minor (n.val + cause * 256 + 4096) s
      (retrain n cause (modLane n f s)) := by
  have hkeep := keeps_modLane n f s
  have hup : (modLane n f s).pwr.core = true := (congrArg Power.core (hkeep .pwr (by decide))).trans hcore
  rw [Raised, inbox_retrain n cause hup, isYokeLane_of_ne hn, if_neg Bool.false_ne_true,
    if_neg Bool.false_ne_true, hkeep .rve (by decide), hkeep .now (by decide), Nat.one_mul]

/-- What every retrain that is preceded by a count on its lane shows. -/
theorem retrained {n : Fin 25} {cause : Nat} {f : Lane → Lane} {s : State} :
    LaneMoved n (fun l => retrainLane cause s.now (f l)) s (retrain n cause (modLane n f s)) := by
  have hnow : (modLane n f s).now = s.now := keeps_modLane _ _ _ .now (by decide)
  have hretrain := retrain_moved n cause (modLane n f s)
  rw [hnow] at hretrain
  exact (laneMoved_modLane n f s).trans hretrain fun _ x => ⟨x, rfl⟩

theorem laneIs_of_eq {n : Fin 25} {st : LaneState} {s : State} (h : (laneAt n s).state = st) :
    laneIs n st s = true := by
  rw [laneIs, h]
  cases st <;> rfl

theorem signal_lost {s : State} {n : Fin 25} (h : (laneAt n s).state = .ready) :
    exec (.laneLossOfSignal n) s =
      .next (retrain n 1 (modLane n (fun l => { l with los := bump 255 1 l.los }) s)) :=
  congrArg Host.Outcome.next (whenS_true (laneIs_of_eq h))

theorem newly_aligned {s : State} {n : Fin 25} (h : (laneAt n s).state = .ready) :
    exec (.laneNewAlignment n) s =
      .next (retrain n 3 (modLane n (fun l => { l with realign := bump 255 1 l.realign }) s)) :=
  congrArg Host.Outcome.next (whenS_true (laneIs_of_eq h))

theorem errors_burst {s : State} {n : Fin 25} {e : CodeErrors} (h : (laneAt n s).state = .ready)
    (he : 4 ≤ e.violations) : exec (.laneErrorBurst n e) s = .next (retrain n 2 (countErrors n e s)) :=
  congrArg Host.Outcome.next (whenS_true (by rw [laneIs_of_eq h, decide_eq_true he]; rfl))

theorem window_counts {s : State} {n : Fin 25} {e : CodeErrors} (h : rxRuns n s = true) :
    Answers (exec (.laneErrorWindow n e) s) fun t =>
      (laneAt n t).codeErr = bump 65535 e.violations (laneAt n s).codeErr ∧
      (laneAt n t).dispErr = bump 65535 e.otherDisparity (laneAt n s).dispErr ∧
      ((laneAt n s).state = .ready → (laneAt n t).state =
        (if (laneAt n s).entry.errRetrain ≠ 0 ∧ (laneAt n s).entry.errRetrain < e.violations then .detect
          else .ready)) ∧
      ((laneAt n s).state ≠ .ready → (laneAt n t).state = (laneAt n s).state) := by
  refine answers_whenS h ?_
  dsimp only
  have hcount : laneAt n (countErrors n e s) = { laneAt n s with
      codeErr := bump 65535 e.violations (laneAt n s).codeErr
      dispErr := bump 65535 e.otherDisparity (laneAt n s).dispErr } := laneAt_modLane_same _ _ _
  generalize countErrors n e s = u at hcount ⊢
  rw [laneIs, hcount]
  dsimp only
  by_cases hretrain : (laneAt n s).state = .ready ∧
      (laneAt n s).entry.errRetrain ≠ 0 ∧ e.violations > (laneAt n s).entry.errRetrain
  · obtain ⟨hready, hover⟩ := hretrain
    rw [if_pos ⟨by rw [hready]; rfl, hover⟩]
    have hmoved := retrain_moved n 4 u
    rw [hmoved.field Lane.codeErr fun _ _ => rfl, hmoved.field Lane.dispErr fun _ _ => rfl,
      hmoved.field Lane.state fun _ _ => rfl, hcount, if_pos hover]
    exact ⟨rfl, rfl, fun _ => rfl, fun hn => absurd hready hn⟩
  · rw [if_neg fun hc => hretrain ⟨beq_iff_eq.mp hc.1, hc.2⟩, hcount]
    exact ⟨rfl, rfl, fun hready => by rw [if_neg fun hover => hretrain ⟨hready, hover⟩]; exact hready, fun _ => rfl⟩

/-- One emission: BLANK or FBK on a lane that owes no SKP (R228, R289). -/
theorem sent_override {n : Fin 25} {p : LanePkt} {s : State} (hp : p = .blank ∨ p = .fbk)
    (hskp : (laneAt n s).tx.skp = 0) : Sent [.lane n p (laneAt n s).tx.start] s (sendLane n p s) := by
  have hordered : (s.yok.state == .excluded && !isYokeLane n && !p.isOrdered) = false := by
    obtain rfl | rfl := hp <;> exact Bool.and_false _
  unfold sendLane
  dsimp only
  rw [hordered, if_neg Bool.false_ne_true]
  obtain rfl | rfl := hp
  · dsimp only
    rw [if_pos hskp]
    exact congrArg (_ :: ·) (keeps_modLane _ _ _ .out (by decide))
  · dsimp only
    rw [if_pos hskp]
    exact congrArg (_ :: ·) (keeps_modLane _ _ _ .out (by decide))

theorem fbk_sent {s : State} {n : Fin 24} (hready : (s.link.lane[n]).state ≠ .ready)
    (hoff : (s.link.lane[n]).state ≠ .off) (hheld : laneHeld (Fin.castSucc n) s = false)
    (hloop : (s.link.lane[n]).loop = none) (hcover : s.yok.cover.getLsbD n.val = false)
    (hskp : (s.link.lane[n]).tx.skp = 0) :
    Answers (exec (.laneFbkTimeout n) s) fun t =>
      (t.link.lane[n]).fbkActive = true ∧
      Sent [.lane (Fin.castSucc n) (if s.hdg.state = 1 then .blank else .fbk)
        (s.link.lane[n]).tx.start] s t ∧
      ∀ m : Fin 24, m ≠ n → t.link.lane[m] = s.link.lane[m] := by
  have hshown := laneMoved_modLane (Fin.castSucc n) (fun l => { l with fbkActive := true }) s
  have hkeep := keeps_modLane (Fin.castSucc n) (fun l => { l with fbkActive := true }) s
  have hcov : (modLane (Fin.castSucc n) (fun l => { l with fbkActive := true }) s).yok.cover = s.yok.cover := by
    rw [modLane, dif_pos (by exact n.isLt)]
  have hself : laneAt (Fin.castSucc n) (modLane (Fin.castSucc n) (fun l => { l with fbkActive := true }) s) =
      { laneAt (Fin.castSucc n) s with fbkActive := true } := laneAt_modLane_same _ _ s
  refine answers_whenS ?_ ?_
  · rw [laneAt_castSucc, hheld, hloop]
    generalize (s.link.lane[n]).state = st at hready hoff ⊢
    cases st <;> simp_all
  · dsimp only
    generalize modLane (Fin.castSucc n) (fun l => { l with fbkActive := true }) s = u
      at hshown hkeep hcov hself ⊢
    rw [hcov, hcover, Bool.and_false, if_neg Bool.false_ne_true, hkeep .hdg (by decide)]
    have hsends : ∀ p : LanePkt, (p = .blank ∨ p = .fbk) →
        ((sendLane (Fin.castSucc n) p u).link.lane[n]).fbkActive = true ∧
        Sent [.lane (Fin.castSucc n) p (s.link.lane[n]).tx.start] s (sendLane (Fin.castSucc n) p u) ∧
        ∀ m : Fin 24, m ≠ n → (sendLane (Fin.castSucc n) p u).link.lane[m] = s.link.lane[m] := by
      intro p hp
      have hmoved := hshown.then_same (laneMoved_sendLane (Fin.castSucc n) p u)
      have hsent := sent_override (n := Fin.castSucc n) (s := u) hp (by rw [hself, laneAt_castSucc]; exact hskp)
      rw [hself, laneAt_castSucc, Sent, show u.out = s.out from hkeep .out (by decide)] at hsent
      refine ⟨?_, hsent, fun m hm => ?_⟩
      · rw [← laneAt_castSucc]
        exact hmoved.field Lane.fbkActive fun _ _ => rfl
      · rw [← laneAt_castSucc, ← laneAt_castSucc]
        exact hmoved.other _ fun he => hm (Fin.castSucc_injective _ he)
    by_cases hblank : s.hdg.state = 1
    · rw [if_pos hblank, if_pos hblank]
      exact hsends .blank (.inl rfl)
    · rw [if_neg hblank, if_neg hblank]
      exact hsends .fbk (.inr rfl)

theorem slot_returned {s : State} {n : Fin 25} {slot serial : Nat} :
    ∃ e q r, LaneMoved n (fun l => { l with
        ctlBusy := e
        ctlSeq := q
        requests := (laneAt n s).requests ++ [r]
        assigned := l.assigned &&& ~~~ BitVec.ofNat 4 (2 ^ slot)
        nextLen := some slot }) s
      (modLane n (fun l => { l with
        assigned := l.assigned &&& ~~~ BitVec.ofNat 4 (2 ^ slot), nextLen := some slot })
        (sendCtl n 7 true 0x0010 7 serial s)) ∧
      r.slot = 7 ∧ r.write = true ∧ r.addr = 0x0010 ∧ r.data = 7#32 ∧ r.match' = BitVec.ofNat 32 serial := by
  obtain ⟨e, b, hsent, -⟩ := laneMoved_sendCtl (n := n) (slot := 7) (write := true) (addr := 0x0010) (data := 7)
    (mtch := serial) (s := s) rfl
  have hfollowed : (newReq n 7 true 0x0010 7 serial s).followed = true := rfl
  rw [hfollowed, Bool.not_true, Bool.and_false] at hsent
  have hall := hsent.trans (laneMoved_modLane n (fun l => { l with
    assigned := l.assigned &&& ~~~ BitVec.ofNat 4 (2 ^ slot), nextLen := some slot }) _) fun _ x => ⟨x, rfl⟩
  exact ⟨e, (laneAt n s).ctlSeq + 1, { newReq n 7 true 0x0010 7 serial s with sent := b },
    ⟨hall.self, hall.other⟩, rfl, rfl, rfl, rfl, rfl⟩

/-- Settles O20: a retrain leaves `retrainLane` and raises one event. -/
theorem laneRetrains : Obligations.LaneRetrains := by
  refine ⟨fun s n c k hready hc => ?_, fun s n e => window_counts, fun s n => fbk_sent,
    fun s k hready hassigned hnot => ?_, fun s k hready hassigned => ?_⟩
  · obtain ⟨rfl, rfl⟩ | ⟨rfl, rfl⟩ | ⟨e, rfl, he, rfl⟩ := hc
    · have hmoved := retrained (n := n) (cause := 1) (f := fun l => { l with los := bump 255 1 l.los }) (s := s)
      refine answers_of_eq (signal_lost hready) ⟨hmoved.field Lane.state fun _ _ => rfl,
        hmoved.field Lane.warm fun _ _ => rfl, hmoved.field Lane.attempts fun _ _ => rfl,
        hmoved.field Lane.retrains fun _ _ => rfl, fun _ => hmoved.field Lane.los fun _ _ => rfl,
        (nomatch ·), fun _ => (nomatch ·), fun hcore hn => retrain_after hcore hn⟩
    · have hmoved := retrained (n := n) (cause := 3)
        (f := fun l => { l with realign := bump 255 1 l.realign }) (s := s)
      refine answers_of_eq (newly_aligned hready) ⟨hmoved.field Lane.state fun _ _ => rfl,
        hmoved.field Lane.warm fun _ _ => rfl, hmoved.field Lane.attempts fun _ _ => rfl,
        hmoved.field Lane.retrains fun _ _ => rfl, (nomatch ·),
        fun _ => hmoved.field Lane.realign fun _ _ => rfl, fun _ => (nomatch ·),
        fun hcore hn => retrain_after hcore hn⟩
    · have hmoved := retrained (n := n) (cause := 2) (f := fun l => { l with
        codeErr := bump 65535 e.violations l.codeErr, dispErr := bump 65535 e.otherDisparity l.dispErr }) (s := s)
      refine answers_of_eq (errors_burst hready he) ⟨hmoved.field Lane.state fun _ _ => rfl,
        hmoved.field Lane.warm fun _ _ => rfl, hmoved.field Lane.attempts fun _ _ => rfl,
        hmoved.field Lane.retrains fun _ _ => rfl, (nomatch ·), (nomatch ·), fun e' he' => ?_,
        fun hcore hn => retrain_after hcore hn⟩
      cases he'
      exact ⟨hmoved.field Lane.codeErr fun _ _ => rfl, hmoved.field Lane.dispErr fun _ _ => rfl⟩
  · obtain ⟨e, q, r, hmoved, hreq⟩ := slot_returned (s := s) (n := (slotOf k).1) (slot := (slotOf k).2)
      (serial := (s.link.slot[k]).serial.toNat)
    rw [BitVec.ofNat_toNat, BitVec.setWidth_eq] at hreq
    exact answers_whenS (by rw [hready, hassigned, hnot]; rfl) ⟨hmoved.field Lane.assigned fun _ _ => rfl,
      hmoved.field Lane.nextLen fun _ _ => rfl, ⟨r, hmoved.field Lane.requests fun _ _ => rfl, hreq⟩,
      (hmoved.field Lane.state fun _ _ => rfl).trans hready⟩
  · refine answers_whenS (by rw [hready, hassigned]; rfl) ?_
    have hkeep := keeps_linkEvent (slotOf k).1 (slotOf k).2 1 .minor s
    have hlane := laneAt_of_keeps hkeep (by decide) (by decide) (slotOf k).1
    have hevent : s.pwr.core = true → (linkEvent (slotOf k).1 (slotOf k).2 1 .minor s).rve.inbox =
        s.rve.inbox ++ [⟨20, .minor, BitVec.ofNat 32 ((slotOf k).1.val + (slotOf k).2 * 32 + 1 * 256), false, s.now⟩] :=
      fun hcore => raised_raise hcore
    generalize linkEvent (slotOf k).1 (slotOf k).2 1 .minor s = u at hkeep hlane hevent ⊢
    have hmoved := retrain_moved (slotOf k).1 6 u
    refine ⟨hmoved.field Lane.state fun _ _ => rfl, hmoved.field Lane.silent fun _ _ => rfl,
      hmoved.field Lane.warm fun _ _ => rfl, fun hcore => ?_⟩
    rw [inbox_retrain _ 6 ((congrArg Power.core (hkeep .pwr (by decide))).trans hcore), hevent hcore]
    exact List.mem_append_left _ (List.mem_append_right _ (List.mem_singleton_self _))

end Sys2Proof.Proofs
end

section
/-!
SUPPORT. O25: LIGHT_HOLD, its causes, the return to service and the failed restarts.
-/

namespace Sys2Proof.Proofs

set_option Elab.async false

open Sys2Proof Sys2Proof.Machine Sys2Proof.Safety Sys2Proof.Laws

theorem grows_enterHold (s : State) : Grows s (enterHold s) := by
  have hfirst : Grows s { s with
      pwr.cores := { s.pwr.cores with up := false, holdFrom := some s.pwr.state, attempts := 0 }
      pwr.lastState := s.pwr.state
      pwr.state := .lightHold } := grows_of_rve rfl
  refine Grows.trans ?_ (grows_of_keeps (keeps_dmaStopAll _) (by decide))
  refine hfirst.trans ?_
  unfold abandonCal
  split
  · exact grows_refl _
  · dsimp only
    split
    · exact (grows_of_rve rfl).trans (grows_complete _ _ _ _ _)
    · exact grows_of_rve rfl

theorem pwr_enterHold (s : State) : (enterHold s).pwr = { s.pwr with
    cores := { s.pwr.cores with up := false, holdFrom := some s.pwr.state, attempts := 0 }
    lastState := s.pwr.state
    state := .lightHold } :=
  ((keeps_dmaStopAll _) .pwr (by decide)).trans ((keeps_abandonCal _) .pwr (by decide))

theorem core_of_mayHold {s : State} (h : mayHold s = true) : s.pwr.core = true := by
  rw [mayHold, Bool.and_eq_true, Bool.and_eq_true, coresUp, Bool.and_eq_true] at h
  exact h.1.1.1

/-- A cause that LIGHT_HOLD is entered for, with its MAJOR (R35, R432). -/
theorem hold_entered {s : State} {k : Nat} (h : mayHold s = true) :
    let t := enterHold (raise 3 .major (coresDetail k s) s)
    t.pwr.state = .lightHold ∧ t.pwr.lastState = s.pwr.state ∧ t.pwr.cores.up = false ∧
      t.pwr.cores.holdFrom = some s.pwr.state ∧ t.pwr.cores.attempts = 0 ∧
      (1 ≤ k → ⟨3, .major, BitVec.ofNat 32 (k + s.lpl.composing.toNat * 65536), false, s.now⟩ ∈ t.rve.inbox) := by
  dsimp only
  have hraise : (raise 3 .major (coresDetail k s) s).rve.inbox = _ := raised_raise (core_of_mayHold h)
  have hkeep := keeps_raise 3 .major (coresDetail k s) s
  generalize raise 3 .major (coresDetail k s) s = u at hraise hkeep ⊢
  obtain ⟨l, hl⟩ := grows_enterHold u
  have hpwr : u.pwr = s.pwr := hkeep .pwr (by decide)
  rw [pwr_enterHold, hpwr]
  refine ⟨rfl, rfl, rfl, rfl, rfl, fun _ => ?_⟩
  rw [hl, hraise]
  exact List.mem_append_left _ (List.mem_append_right _ (List.mem_singleton_self _))

theorem light_held {s : State} {c : Instr} {k : Nat} (h : mayHold s = true)
    (hc : (c = .coreReset ∧ k = 0) ∨ (c = .lockstepMismatch ∧ k = 1) ∨ (c = .watchdogExpiry ∧ k = 2)) :
    Answers (exec c s) fun t =>
      t.pwr.state = .lightHold ∧ t.pwr.lastState = s.pwr.state ∧ t.pwr.cores.up = false ∧
      t.pwr.cores.holdFrom = some s.pwr.state ∧ t.pwr.cores.attempts = 0 ∧
      (1 ≤ k → ⟨3, .major, BitVec.ofNat 32 (k + s.lpl.composing.toNat * 65536), false, s.now⟩ ∈
        t.rve.inbox) := by
  obtain ⟨rfl, rfl⟩ | ⟨rfl, rfl⟩ | ⟨rfl, rfl⟩ := hc
  · refine answers_whenS h ?_
    rw [pwr_enterHold]
    exact ⟨rfl, rfl, rfl, rfl, rfl, fun hk => absurd hk (by decide)⟩
  · exact answers_whenS h (hold_entered h)
  · exact answers_whenS h (hold_entered h)

theorem holding_guard {s : State} (hcore : s.pwr.core = true) (hstate : s.pwr.state = .lightHold)
    (hup : s.pwr.cores.up = false) (hstuck : s.pwr.cores.stuck = false) :
    (s.pwr.core && s.pwr.state == .lightHold && !s.pwr.cores.up && !s.pwr.cores.stuck) = true := by
  rw [hcore, hstate, hup, hstuck]
  rfl

theorem keeps_askEntries (l : List (Fin 16)) (s : State) :
    Keeps [.out, .hif] s (l.foldl (fun s n => requestEntries n s) s) :=
  keeps_foldl (keeps_refl _ _) fun _ _ h => keeps_step (keeps_requestEntries _ _) rfl h

/-- What the switch to the staged image leaves, where one is activated (R520). -/
theorem activation_spec (act : Option Bool) {s : State} (hcore : s.pwr.core = true) :
    let t := match act with
      | some burn => activated burn s
      | none => s
    Keeps [.out, .part, .hif, .rve, .boot] s t ∧ (act = none → t.boot.slot = s.boot.slot) ∧
      ∀ burn, act = some burn → t.boot.slot = (!s.boot.slot) ∧
        ⟨3, .note, BitVec.ofNat 32 (3 + s.lpl.composing.toNat * 65536), false, s.now⟩ ∈ t.rve.inbox := by
  cases act with
  | none => exact ⟨keeps_refl _ _, fun _ => rfl, fun _ => (nomatch ·)⟩
  | some burn =>
    refine ⟨keeps_activated _ _, (nomatch ·), fun _ _ => ?_⟩
    dsimp only
    unfold activated
    dsimp only
    generalize hu : ({ s with
      boot.slot := !s.boot.slot
      hif.fwMajor := BitVec.ofNat 8 (field (otherSlot s).fwVersion 16 8)
      hif.fwMinor := BitVec.ofNat 8 (field (otherSlot s).fwVersion 8 8)
      hif.fwPatch := BitVec.ofNat 8 (field (otherSlot s).fwVersion 0 8) } : State) = u
    have hslot : u.boot.slot = !s.boot.slot := by rw [← hu]
    have hlpl : u.lpl = s.lpl := by rw [← hu]
    have hnow : u.now = s.now := by rw [← hu]
    have hin : (raise 3 .note (coresDetail 3 u) u).rve.inbox = _ :=
      raised_raise (by rw [← hu]; exact hcore)
    have hboot : (raise 3 .note (coresDetail 3 u) u).boot = u.boot := keeps_raise _ _ _ _ .boot (by decide)
    rw [coresDetail, hlpl, hnow] at hin
    rw [coresDetail, hlpl] at hboot ⊢
    generalize raise 3 .note (3 + s.lpl.composing.toNat * 65536) u = v at hin hboot ⊢
    have hmem : ⟨3, .note, BitVec.ofNat 32 (3 + s.lpl.composing.toNat * 65536), false, s.now⟩ ∈ v.rve.inbox := by
      rw [hin]
      exact List.mem_append_right _ (List.mem_singleton_self _)
    rw [← hslot, ← hboot]
    split
    · exact ⟨rfl, hmem⟩
    · exact ⟨rfl, hmem⟩

/-- The end of the return to service, where nothing waits to be sent and no start is under way. -/
def ringsAsk (s : State) : State :=
  advanceStart (drainQueue 1 (drainQueue 0 ((List.finRange 16).foldl (fun s n => requestEntries n s)
    (deliverLate { s with hif.sq := s.hif.sq.map' fun q => { q with
      asked := 0, dbAsked := none, fetched := [], behind := [], rereads := 0 } }))))

theorem drainQueue_of_nil {p : Fin 2} {s : State} (h : (s.eth.port[p]).queue = []) : drainQueue p s = s := by
  unfold drainQueue
  rw [h]
  rfl

theorem deliverLate_of_none {s : State} (h : s.mgt.late = none) : deliverLate s = s := by
  unfold deliverLate
  rw [h]

theorem keeps_ringsAsk {s : State} (hlate : s.mgt.late = none) (h0 : (s.eth.port[0]).queue = [])
    (h1 : (s.eth.port[1]).queue = []) (hstart : s.pwr.start = none) : Keeps [.out, .hif] s (ringsAsk s) := by
  unfold ringsAsk
  rw [deliverLate_of_none (s := { s with hif.sq := s.hif.sq.map' fun q => { q with
      asked := 0, dbAsked := none, fetched := [], behind := [], rereads := 0 } }) hlate]
  have hkeep : Keeps [.out, .hif] s ((List.finRange 16).foldl (fun s n => requestEntries n s)
      { s with hif.sq := s.hif.sq.map' fun q => { q with
        asked := 0, dbAsked := none, fetched := [], behind := [], rereads := 0 } }) :=
    keeps_step (keeps_askEntries _ _) rfl (keeps_mk (keeps_refl _ _))
  generalize (List.finRange 16).foldl (fun s n => requestEntries n s) _ = u at hkeep ⊢
  have heth : u.eth = s.eth := hkeep .eth (by decide)
  rw [drainQueue_of_nil (p := 0) (by rw [heth]; exact h0), drainQueue_of_nil (p := 1) (by rw [heth]; exact h1),
    advanceStart_of_none (by rw [hkeep .pwr (by decide)]; exact hstart)]
  exact hkeep

theorem deadJobs_dead (s : State) : ∀ j ∈ (dropUnseen s).jobs, j.dead = true := by
  intro j hj
  obtain ⟨i, -, hi⟩ := List.mem_filterMap.mp hj
  unfold deadJob at hi
  split at hi
  · split at hi
    · cases hi
      rfl
    · cases hi
  · cases hi

/-- The cores at work again, in the state that LIGHT_HOLD was entered from (R38). -/
def coresBack (s : State) : State := { s with
  pwr.cores := { s.pwr.cores with up := true, holdFrom := none, attempts := 0, activating := none }
  pwr.lastState := s.pwr.state
  pwr.state := s.pwr.cores.holdFrom.getD .run }

/-- What the return to service does once the cores are back. -/
def resumed (keep : List Nat) (act : Option Bool) (s : State) : State :=
  let s := match act with
    | some burn => activated burn s
    | none => s
  let s := if s.pwr.entry.isSome then undoEntry s else s
  let gone := s.running.filter fun c => !keep.contains c.ser
  let s := dropUnseen (gone.foldl interrupted s)
  ringsAsk (if s.eth.syncLate then loseLock 2 ((sourcePort s).getD 0) { s with eth.syncLate := false } else s)

theorem returnToService_eq (s : State) :
    returnToService s = resumed (outlives s) s.pwr.cores.activating (coresBack s) := rfl

/-- The return to service where nothing runs or waits, and no entry or start is under way. -/
theorem resumed_spec (keep : List Nat) (act : Option Bool) {s : State} (hcore : s.pwr.core = true)
    (hrun : s.running = []) (hlate : s.mgt.late = none) (hsync : s.eth.syncLate = false)
    (h0 : (s.eth.port[0]).queue = []) (h1 : (s.eth.port[1]).queue = []) (hstart : s.pwr.start = none)
    (hentry : s.pwr.entry = none) :
    let t := resumed keep act s
    t.pwr = s.pwr ∧ t.lpl.shadow = [] ∧ t.maskQ = [] ∧ t.kernels = [] ∧ (∀ j ∈ t.jobs, j.dead = true) ∧
      t.lpl.launches = s.lpl.launches ∧ (act = none → t.boot.slot = s.boot.slot) ∧
      (∀ burn, act = some burn → t.boot.slot = (!s.boot.slot) ∧
        ⟨3, .note, BitVec.ofNat 32 (3 + s.lpl.composing.toNat * 65536), false, s.now⟩ ∈ t.rve.inbox) := by
  have hact := activation_spec act hcore
  dsimp only at hact
  unfold resumed
  dsimp only
  generalize (match act with
    | some burn => activated burn s
    | none => s) = v at hact ⊢
  obtain ⟨hkeep, hsame, hnew⟩ := hact
  have hpwr : v.pwr = s.pwr := hkeep .pwr (by decide)
  have heth : v.eth = s.eth := hkeep .eth (by decide)
  rw [if_neg (c := v.pwr.entry.isSome = true) (by rw [hpwr, hentry]; exact Bool.false_ne_true),
    show v.running = [] from (hkeep .running (by decide)).trans hrun, List.filter_nil, List.foldl_nil,
    if_neg (by rw [show (dropUnseen v).eth = v.eth from rfl, heth, hsync]; exact Bool.false_ne_true)]
  have hdead := deadJobs_dead v
  have hshadow : (dropUnseen v).lpl.shadow = [] := rfl
  have hlaunch : (dropUnseen v).lpl.launches = s.lpl.launches :=
    Eq.trans (b := v.lpl.launches) rfl (congrArg (fun l : Lamp => l.launches) (hkeep .lpl (by decide)))
  have hmask : (dropUnseen v).maskQ = [] := rfl
  have hkernels : (dropUnseen v).kernels = [] := rfl
  have hdpwr : (dropUnseen v).pwr = s.pwr := hpwr
  have hdeth : (dropUnseen v).eth = s.eth := heth
  have hdmgt : (dropUnseen v).mgt = s.mgt := hkeep .mgt (by decide)
  have hdboot : (dropUnseen v).boot = v.boot := rfl
  have hinbox : (dropUnseen v).rve.inbox = v.rve.inbox := rfl
  generalize dropUnseen v = w at hdead hshadow hlaunch hmask hkernels hdpwr hdeth hdmgt hdboot hinbox ⊢
  have hask := keeps_ringsAsk (s := w) (by rw [hdmgt]; exact hlate) (by rw [hdeth]; exact h0)
    (by rw [hdeth]; exact h1) (by rw [hdpwr]; exact hstart)
  generalize ringsAsk w = t at hask ⊢
  rw [hask .pwr (by decide), hask .lpl (by decide), hask .maskQ (by decide), hask .kernels (by decide),
    hask .jobs (by decide), hask .boot (by decide), hask .rve (by decide), hdpwr, hdboot, hinbox]
  exact ⟨rfl, hshadow, hmask, hkernels, hdead, hlaunch, hsame, hnew⟩

/-- A restart that fails for the second time during an activation gives the new image up (R520). -/
def imageGivenUp (s : State) : State :=
  bootEvent 6 0 .major (emit (.flashErase (otherBase s)) (modOtherSlot (fun x => { x with valid := false })
    { s with pwr.cores.activating := none, boot.actFail := true }))

theorem imageGivenUp_spec (s : State) :
    (imageGivenUp s).pwr = { s.pwr with cores := { s.pwr.cores with activating := none } } ∧
      (imageGivenUp s).boot.actFail = true ∧ (imageGivenUp s).boot.slot = s.boot.slot := by
  unfold imageGivenUp
  generalize hu : ({ s with pwr.cores.activating := none, boot.actFail := true } : State) = u
  have hpwr : u.pwr = { s.pwr with cores := { s.pwr.cores with activating := none } } := by rw [← hu]
  have hslot : u.boot.slot = s.boot.slot := by rw [← hu]
  have hfail : u.boot.actFail = true := by rw [← hu]
  have hother : (modOtherSlot (fun x => { x with valid := false }) u).boot.actFail = true ∧
      (modOtherSlot (fun x => { x with valid := false }) u).boot.slot = s.boot.slot := by
    unfold modOtherSlot
    split <;> exact ⟨hfail, hslot⟩
  have hkeep := keeps_modOtherSlot (fun x => { x with valid := false }) u .pwr (by decide)
  generalize modOtherSlot (fun x => { x with valid := false }) u = v at hother hkeep ⊢
  rw [keeps_bootEvent _ _ _ _ .pwr (by decide), keeps_bootEvent _ _ _ _ .boot (by decide)]
  exact ⟨Eq.trans hkeep hpwr, hother⟩

theorem restart_failed {s : State} (hcore : s.pwr.core = true) :
    let t := restartFailed s
    t.pwr.cores.attempts = s.pwr.cores.attempts + 1 ∧
      (s.pwr.cores.attempts = 0 → t.pwr.cores.stuck = s.pwr.cores.stuck ∧ Keeps [.pwr] s t) ∧
      (s.pwr.cores.attempts = 1 → ∀ b, s.pwr.cores.activating = some b →
        t.pwr.cores.activating = none ∧ t.boot.actFail = true ∧ t.boot.slot = s.boot.slot) ∧
      (s.pwr.cores.attempts = 2 → t.pwr.cores.stuck = true ∧
        Raised 3 .critical (4 + s.lpl.composing.toNat * 65536) s t) := by
  dsimp only
  have heq : restartFailed s = (if s.pwr.cores.attempts + 1 ≥ 3 then
      (fun u => raise 3 .critical (coresDetail 4 u) { u with pwr.cores.stuck := true }) else id)
      (if s.pwr.cores.attempts + 1 = 2 ∧ s.pwr.cores.activating.isSome then
        imageGivenUp { s with pwr.cores.attempts := s.pwr.cores.attempts + 1 }
      else { s with pwr.cores.attempts := s.pwr.cores.attempts + 1 }) := by
    unfold restartFailed
    dsimp only
    split <;> rfl
  rw [heq]
  by_cases hthird : s.pwr.cores.attempts + 1 ≥ 3
  · rw [if_pos hthird, if_neg fun h => absurd h.1 (by omega)]
    have hraise : (raise 3 .critical (coresDetail 4 s) { s with
      pwr.cores := { s.pwr.cores with attempts := s.pwr.cores.attempts + 1, stuck := true } }).rve.inbox = _ :=
        raised_raise (s := { s with
      pwr.cores := { s.pwr.cores with attempts := s.pwr.cores.attempts + 1, stuck := true } }) hcore
    have hpwr := keeps_raise 3 .critical (coresDetail 4 s) { s with
      pwr.cores := { s.pwr.cores with attempts := s.pwr.cores.attempts + 1, stuck := true } } .pwr (by decide)
    refine ⟨congrArg (fun p : Power => p.cores.attempts) hpwr, fun h => absurd h (by omega),
      fun h => absurd h (by omega), fun _ => ⟨congrArg (fun p : Power => p.cores.stuck) hpwr, hraise⟩⟩
  · rw [if_neg hthird]
    by_cases hgive : s.pwr.cores.attempts + 1 = 2 ∧ s.pwr.cores.activating.isSome
    · rw [if_pos hgive]
      obtain ⟨hpwr, hfail, hslot⟩ := imageGivenUp_spec { s with pwr.cores.attempts := s.pwr.cores.attempts + 1 }
      exact ⟨congrArg (fun p : Power => p.cores.attempts) hpwr, fun h => absurd hgive.1 (by omega),
        fun _ _ _ => ⟨congrArg (fun p : Power => p.cores.activating) hpwr, hfail, hslot⟩,
        fun h => absurd hgive.1 (by omega)⟩
    · rw [if_neg hgive]
      exact ⟨rfl, fun _ => ⟨rfl, keeps_mk (keeps_refl _ _)⟩,
        fun h b hb => absurd ⟨by rw [h], by rw [hb]; rfl⟩ hgive, fun h => absurd h (by omega)⟩

/-- Settles O25, by what the entry into LIGHT_HOLD, the return to service and a failed restart each leave. -/
theorem lightHold : Obligations.LightHold := by
  refine ⟨fun s c k => light_held, fun s hcore hstate hup hstuck hrun hlate hsync h0 h1 hstart hentry => ?_,
    fun s hcore hstate hup hstuck => ?_⟩
  · refine answers_whenS (holding_guard hcore hstate hup hstuck) ?_
    obtain ⟨hpwr, hrest⟩ := resumed_spec (outlives s) s.pwr.cores.activating (s := coresBack s) hcore hrun hlate
      hsync h0 h1 hstart hentry
    rw [returnToService_eq, hpwr]
    exact ⟨rfl, rfl, rfl, hrest⟩
  · refine answers_whenS (holding_guard hcore hstate hup hstuck) ?_
    have hfailed := restart_failed hcore
    rw [hstuck] at hfailed
    exact hfailed

end Sys2Proof.Proofs
end

section
/-!
SUPPORT. A LAYER_SET of the start-up list reads the protected layer, and that read can fail (R122, R161).
-/

namespace Sys2Proof.Proofs

set_option Elab.async false

open Sys2Proof Sys2Proof.Machine Sys2Proof.Safety Sys2Proof.Laws

/-- A state that serves the start-up list, with an uncorrectable word at the start of slot 7. -/
def poisonedSlot : State := { State.reset with
  pwr.core := true
  pwr.cores.up := true
  pwr.cores.served := true
  grn.marks := [(Pipe.slotBase 7 / 8, .double)] }

/-- A LAYER_SET of layer 8 without COPY: slot 7, one pixel a line and one line. -/
def protectedSet : Desc :=
  BitVec.ofNat 512 (0x10 + 2 ^ 32 + 2 ^ 67 + 7 * 2 ^ 160 + 2 ^ 96 + 2 ^ 112 + 8 * 2 ^ 128)

/-- How many writes the shadow holds after a command. -/
def shadowLeft (o : Out) : Nat := match o with
  | .next t => t.lpl.shadow.length
  | _ => 0

theorem shadowLeft_of_poisonedSlot : shadowLeft (exec (.layerSet (.startup 0) protectedSet) poisonedSlot) = 0 := by
  decide +kernel

/-- Refutes O26: the read of the protected layer meets an uncorrectable word, and the LAYER_SET ends with ERROR. -/
theorem not_sceneCommands : ¬ Obligations.SceneCommands := by
  unfold Obligations.SceneCommands
  rintro ⟨-, hset, -⟩
  obtain ⟨u, hu, -, -, hshadow, -⟩ := hset poisonedSlot (.startup 0) protectedSet (by decide +kernel)
    (by decide +kernel) (by decide +kernel)
  have hnone := shadowLeft_of_poisonedSlot
  rw [hu, shadowLeft, finish_of_not_waits (by decide +kernel), keeps_complete _ _ _ _ _ .lpl (by decide),
    hshadow, List.length_append] at hnone
  exact absurd hnone (by decide +kernel)

end Sys2Proof.Proofs
end

section
/-!
SUPPORT. A command that starts and passes its checks: the state it runs in, how it ends, and its transfer.
-/

namespace Sys2Proof.Proofs

set_option Elab.async false

open Sys2Proof Sys2Proof.Machine Sys2Proof.Safety Sys2Proof.Laws

/-- The state in which an accepted command's body runs: the command runs, and its descriptor is in the digest
(R61, R473). -/
def opened (op : Nat) (src : Src) (d : Desc) (s : State) : State := foldDigest (cmdOf op src d s) (begun op src d s)

variable {op : Nat} {b : Body} {src : Src} {d : Desc} {s : State}

theorem keeps_opened (op : Nat) (src : Src) (d : Desc) (s : State) :
    Keeps [.nextSer, .running, .yok] s (opened op src d s) :=
  keeps_step (keeps_foldDigest _ _) rfl (keeps_mk (keeps_refl _ _))

theorem opened_running (op : Nat) (src : Src) (d : Desc) (s : State) :
    (opened op src d s).running = s.running ++ [cmdOf op src d s] :=
  keeps_foldDigest _ (begun op src d s) .running (by decide)

/-- What a body does not read of the running list, the serial numbers and the digest, it finds as it was. -/
theorem opened_eq (op : Nat) (src : Src) (d : Desc) (s : State) : ∃ x, opened op src d s =
    { s with nextSer := s.nextSer + 1, running := s.running ++ [cmdOf op src d s], yok.digest := x } := by
  unfold opened foldDigest
  split
  · exact ⟨s.yok.digest, rfl⟩
  · exact ⟨_, rfl⟩

theorem runRow_opened (h : Accepted op src d s) (hcheck : b.check (cmdOf op src d s) (begun op src d s) = none) :
    runRow op b src d s = b.run (cmdOf op src d s) (opened op src d s) := by
  obtain ⟨hserves, hfence, hgate⟩ := h
  unfold runRow startCmd execute
  dsimp only
  rw [hserves, hfence, Bool.and_true, if_pos rfl]
  change (match gate (cmdOf op src d s) (begun op src d s) with
    | some st => _
    | none => match b.check (cmdOf op src d s) (begun op src d s) with
      | some (st, r) => _
      | none => b.run (cmdOf op src d s) (foldDigest (cmdOf op src d s) (begun op src d s))) = _
  rw [hgate, hcheck]
  rfl

/-- A command that ends at once, after its body has changed the parts m. -/
theorem ends_of {l m : List Zone} {st : BitVec 16} {r : Result} {P : State → Prop} {u : State}
    (h : Accepted op src d s) (hcheck : b.check (cmdOf op src d s) (begun op src d s) = none)
    (hrun : b.run (cmdOf op src d s) (opened op src d s) = finish (cmdOf op src d s) st r u)
    (hkeep : Keeps m (opened op src d s) u) (hm : sub m ([.nextSer, .running, .yok] ++ l) = true)
    (hrunning : Zone.running ∉ m) (hP : P u) :
    Ends op src d s l st r P (.next (runRow op b src d s)) :=
  ⟨u, by rw [runRow_opened h hcheck, hrun],
    keeps_step hkeep hm (keeps_mono (keeps_opened op src d s) rfl),
    (hkeep .running hrunning).trans (opened_running op src d s), hP⟩

/-- A command that goes on after its body, which has changed the parts m. -/
theorem begins_of {l m : List Zone} {P : State → Prop} {t : State} (h : Accepted op src d s)
    (hcheck : b.check (cmdOf op src d s) (begun op src d s) = none)
    (hrun : b.run (cmdOf op src d s) (opened op src d s) = t) (hkeep : Keeps m (opened op src d s) t)
    (hm : sub m ([.nextSer, .running, .yok] ++ l) = true) (hrunning : Zone.running ∉ m) (hP : P t) :
    Begins op src d s l P (.next (runRow op b src d s)) :=
  ⟨t, by rw [runRow_opened h hcheck, hrun],
    keeps_step hkeep hm (keeps_mono (keeps_opened op src d s) rfl),
    (hkeep .running hrunning).trans (opened_running op src d s), hP⟩

/-- A command whose body writes to the shadow and completes. -/
theorem ends_shadow {w : List ShadowWrite} {st : BitVec 16} {r : Result} (h : Accepted op src d s)
    (hcheck : b.check (cmdOf op src d s) (begun op src d s) = none)
    (hrun : b.run (cmdOf op src d s) (opened op src d s) =
      finish (cmdOf op src d s) st r (shadowAll w (opened op src d s))) :
    Ends op src d s [.lpl] st r (fun u => u.lpl = { s.lpl with shadow := s.lpl.shadow ++ w })
      (.next (runRow op b src d s)) := by
  refine ends_of h hcheck hrun (m := [.lpl]) (keeps_mk (keeps_refl _ _)) rfl (by decide) ?_
  show { (opened op src d s).lpl with shadow := (opened op src d s).lpl.shadow ++ w } = _
  rw [keeps_opened op src d s .lpl (by decide)]

end Sys2Proof.Proofs
end

section
/-!
SUPPORT. O27: LAYER_PRESENT, TIMING_SET, TILE_MAP_SET and COEF_LOAD.
-/

namespace Sys2Proof.Proofs

set_option Elab.async false

open Sys2Proof Sys2Proof.Machine Sys2Proof.Safety Sys2Proof.Laws

/-! The ends of coefficient loads in idle time. -/

theorem kernels_kernelRun (n : Fin 9) (c : Cmd) (s : State) : (kernelRun n c s).kernels = s.kernels :=
  keeps_kernelRun _ _ _ .kernels (by decide)

theorem kernels_finishKernels (s : State) : (finishKernels s).kernels = [] := by
  suffices h : ∀ (l : List Cmd) (u : State), u.kernels = [] →
      (l.foldl (fun s c => match layerOf c with
        | some n => kernelRun n c s
        | none => s) u).kernels = [] from h s.kernels _ rfl
  intro l
  induction l with
  | nil => exact fun _ h => h
  | cons c l ih =>
    intro u hu
    rw [List.foldl_cons]
    refine ih _ ?_
    cases layerOf c with
    | none => exact hu
    | some n => exact (kernels_kernelRun n c u).trans hu

/-- The parts of an idle cycle before the loads leave the power state (log entry 1). -/
theorem pwr_idleLanes (s : State) : (repeatOverride (idleLanes (beginTest (idleLine (idleClock s))))).pwr = s.pwr := by
  rw [keeps_repeatOverride _ .pwr (by decide), keeps_idleLanes _ .pwr (by decide),
    keeps_beginTest _ .pwr (by decide), keeps_idleLine _ .pwr (by decide), keeps_idleClock _ .pwr (by decide)]

theorem kernels_whenS {b : Bool} {f : State → State} (hf : ∀ s, (f s).kernels = s.kernels) (s : State) :
    (whenS b f s).kernels = s.kernels := by
  cases b
  · rfl
  · exact hf s

theorem idle_kernels {s : State} (hcores : coresUp s = true) : (idle s).kernels = [] := by
  have hpwr := pwr_idleLanes s
  unfold idle
  dsimp only
  rw [keeps_commitLow _ .kernels (by decide), kernels_whenS fun _ => keeps_fireWake _ _ .kernels (by decide),
    kernels_whenS fun _ => keeps_drainLog _ .kernels (by decide), keeps_advanceStart _ .kernels (by decide),
    keeps_idlePhaseA _ .kernels (by decide), keeps_hostConfigures _ .kernels (by decide)]
  generalize repeatOverride (idleLanes (beginTest (idleLine (idleClock s)))) = u at hpwr ⊢
  rw [coresUp, ← hpwr] at hcores
  unfold idleKernels
  rw [coresUp, hcores, if_pos rfl]
  exact kernels_finishKernels u

/-! What a coefficient load leaves of its bank. -/

theorem bank_modBank (n : Fin 9) (b : Fin 4) (f : Bank → Bank) (s : State) :
    ((modBank n b f s).cmp.bank[n][b]) = f (s.cmp.bank[n][b]) ∧
      ∀ m : Fin 9, m ≠ n → (modBank n b f s).cmp.bank[m] = s.cmp.bank[m] := by
  unfold modBank
  refine ⟨?_, fun m hm => ?_⟩
  · simp
  · simp [Fin.val_ne_of_ne hm, hm]

theorem kernelRun_ready {s s' : State} {n : Fin 9} {c : Cmd} {bytes : List Byte} {tab : List Int}
    (hread : coreRead (c.f 16 0 32) (tableBytes (c.b 9 2)) s = (some bytes, s'))
    (hcheck : Geo.checkTable (c.b 9 2) bytes = .ok tab) :
    (kernelRun n c s).cmp.bank[n][clBank c] =
      { kind := clKind c, state := .ready, coeffs := tab, crc := Env.crc32c bytes } ∧
    ∀ m : Fin 9, m ≠ n → (kernelRun n c s).cmp.bank[m] = s.cmp.bank[m] := by
  have hkeep := keeps_coreRead (c.f 16 0 32) (tableBytes (c.b 9 2)) s
  rw [hread] at hkeep
  unfold kernelRun
  dsimp only
  rw [hread]
  dsimp only
  rw [hcheck]
  dsimp only
  have hbank := bank_modBank n (clBank c)
    (fun _ => { kind := clKind c, state := .ready, coeffs := tab, crc := Env.crc32c bytes }) s'
  rw [show s'.cmp = s.cmp from hkeep .cmp (by decide)] at hbank
  rw [keeps_finish _ _ _ _ .cmp (by decide)]
  exact hbank

theorem kernelRun_invalid {s s' : State} {n : Fin 9} {c : Cmd} {bytes : List Byte} {e : Geo.CoefFault}
    (hread : coreRead (c.f 16 0 32) (tableBytes (c.b 9 2)) s = (some bytes, s'))
    (hcheck : Geo.checkTable (c.b 9 2) bytes = .error e) :
    ((kernelRun n c s).cmp.bank[n][clBank c]).state = .invalid := by
  unfold kernelRun
  dsimp only
  rw [hread]
  dsimp only
  rw [hcheck]
  dsimp only
  rw [keeps_complete _ _ _ _ _ .cmp (by decide), (bank_modBank n (clBank c) _ s').1]

variable {src : Src} {d : Desc} {s : State}

/-- An accepted LAYER_PRESENT with AT_TIME arms its launch with the sender's shadow (R158, R264). -/
theorem present_launches (h : Accepted 0x11 src d s)
    (hcheck : presentBody.check (cmdOf 0x11 src d s) (begun 0x11 src d s) = none)
    (hat : (cmdOf 0x11 src d s).b 9 1 = true) :
    Begins 0x11 src d s [.lpl]
      (fun t => t.lpl.shadow = [] ∧ ∃ l, t.lpl.launches = s.lpl.launches ++ [l] ∧
        l.s = (cmdOf 0x11 src d s).f 16 0 48 ∧ l.ns = (cmdOf 0x11 src d s).f 24 0 32 ∧
        l.writes = s.lpl.shadow ++ lpWrites (cmdOf 0x11 src d s) ∧ l.cmd = cmdOf 0x11 src d s)
      (exec (.layerPresent src d) s) := by
  have hrun : presentBody.run (cmdOf 0x11 src d s) (opened 0x11 src d s) =
      armLaunch (cmdOf 0x11 src d s) ((cmdOf 0x11 src d s).f 16 0 48) ((cmdOf 0x11 src d s).f 24 0 32)
        (lpWrites (cmdOf 0x11 src d s)) (opened 0x11 src d s) := if_pos hat
  refine begins_of h hcheck hrun (keeps_armLaunch _ _ _ _ _) rfl (by decide) ⟨rfl, ?_⟩
  unfold armLaunch
  rw [keeps_opened 0x11 src d s .lpl (by decide)]
  exact ⟨_, rfl, rfl, rfl, rfl, rfl⟩

/-- A table load makes its bank LOADING and joins the loads under way (R186). -/
theorem table_loads {n : Fin 9} (h : Accepted 0x14 src d s)
    (hcheck : coefBody.check (cmdOf 0x14 src d s) (begun 0x14 src d s) = none)
    (hlayer : layerOf (cmdOf 0x14 src d s) = some n) (hsub : (cmdOf 0x14 src d s).f 8 4 2 ≠ 0) :
    Begins 0x14 src d s [.cmp, .kernels]
      (fun t => (t.cmp.bank[n][clBank (cmdOf 0x14 src d s)]).state = .loading ∧
        (t.cmp.bank[n][clBank (cmdOf 0x14 src d s)]).kind = clKind (cmdOf 0x14 src d s) ∧
        t.kernels = s.kernels ++ [cmdOf 0x14 src d s] ∧
        ∀ m : Fin 9, m ≠ n → t.cmp.bank[m] = s.cmp.bank[m])
      (exec (.coefLoad src d) s) := by
  have hrun : coefBody.run (cmdOf 0x14 src d s) (opened 0x14 src d s) =
      kernelStart n (cmdOf 0x14 src d s) (opened 0x14 src d s) := by
    unfold coefBody
    dsimp only
    rw [hlayer]
    exact if_neg hsub
  have hkeep := keeps_opened 0x14 src d s
  refine begins_of h hcheck hrun (keeps_kernelStart _ _ _) rfl (by decide) ?_
  unfold kernelStart
  obtain ⟨hbank, hother⟩ := bank_modBank n (clBank (cmdOf 0x14 src d s))
    (fun x => { x with kind := clKind (cmdOf 0x14 src d s), state := .loading })
    { opened 0x14 src d s with kernels := (opened 0x14 src d s).kernels ++ [cmdOf 0x14 src d s] }
  rw [hbank]
  refine ⟨rfl, rfl, congrArg (· ++ _) (hkeep .kernels (by decide)), fun m hm => (hother m hm).trans ?_⟩
  exact congrArg (fun x : Compose => x.bank[m]) (hkeep .cmp (by decide))

/-- Settles O27: each command is a write to the shadow, an armed launch or a load that idle time ends. -/
theorem frameCommands : Obligations.FrameCommands := by
  refine ⟨fun s src d h hcheck hat => ends_shadow h hcheck (if_neg (by rw [hat]; exact Bool.false_ne_true)),
    fun s src d => present_launches, fun s src d h hdim hmode htiming hbudget => ?_,
    fun s src d h hcheck => ends_shadow h hcheck rfl, fun s src d n h hcheck hlayer hsub => ?_,
    fun s src d n => table_loads,
    fun s hpending hcores => answers_of_eq (step_of_nil hpending) (idle_kernels hcores),
    fun s s' n c bytes tab => kernelRun_ready,
    fun s s' n c bytes e => kernelRun_invalid⟩
  · refine ends_shadow h ?_ rfl
    have hbegun : timingBody.check (cmdOf 0x18 src d s) (begun 0x18 src d s) =
        timingBody.check (cmdOf 0x18 src d s) s := rfl
    rw [hbegun]
    unfold timingBody
    dsimp only
    rw [if_neg hdim, if_neg (by rw [htiming]; simpa using hmode), hbudget]
    rfl
  · refine ends_shadow h hcheck ?_
    obtain ⟨y, hy⟩ := opened_eq 0x14 src d s
    have hsize : overSize n (opened 0x14 src d s) = overSize n s := by rw [hy]; rfl
    unfold coefBody
    dsimp only
    rw [hlayer]
    dsimp only
    rw [if_pos hsub, hsize]

end Sys2Proof.Proofs
end

section
/-!
SUPPORT. O28: FADE_SET, FLUX_BUDGET_SET, CAL_LOAD and AUX_WRITE.
-/

namespace Sys2Proof.Proofs

set_option Elab.async false

open Sys2Proof Sys2Proof.Machine Sys2Proof.Safety Sys2Proof.Laws

theorem firstFail_single {b : Bool} {st : BitVec 16} (h : b = false) : firstFail [(b, st)] = none := by
  rw [h]
  rfl

theorem firstFail_cons {b : Bool} {st : BitVec 16} {l : List (Bool × BitVec 16)} (h : b = false)
    (hl : firstFail l = none) : firstFail ((b, st) :: l) = none := by
  rw [h]
  exact hl

/-- A transfer that is asked for is among the jobs, on a channel or waiting for one (R84, R95). -/
theorem job_asked (j : DmaJob) (s : State) : ∃ ch, { j with ch := ch } ∈ (askTransfer j s).jobs := by
  unfold askTransfer
  dsimp only
  generalize reapJobs s = u
  split
  next k _ =>
    refine ⟨some k, ?_⟩
    rw [keeps_startJob _ _ _ .jobs (by decide)]
    exact List.mem_append_right _ (List.mem_singleton_self _)
  next => exact ⟨none, List.mem_append_right _ (List.mem_singleton_self _)⟩

/-- A transfer that is no chain of the sender's own starts without a read of its descriptor. -/
theorem keeps_askTransfer_line {j : DmaJob} (hlink : j.xfer.link = false) (hop : j.cmd.opcode ≠ 0x48) (s : State) :
    Keeps [.free, .dma, .jobs] s (askTransfer j s) := by
  unfold askTransfer
  dsimp only
  split
  next k _ =>
    unfold startJob
    dsimp only
    rw [hlink, if_neg Bool.false_ne_true, if_neg hop]
    refine keeps_step (keeps_modCh _ _ _) rfl (keeps_mk ?_)
    exact keeps_mono (keeps_reapJobs s) rfl
  next => exact keeps_mk (keeps_mono (keeps_reapJobs s) rfl)

theorem job_any {p : DmaJob → Bool} {j : DmaJob} {s : State} (hp : ∀ ch, p { j with ch := ch } = true) :
    (askTransfer j s).jobs.any p = true := by
  obtain ⟨ch, hch⟩ := job_asked j s
  exact List.any_eq_true.mpr ⟨_, hch, hp ch⟩

variable {src : Src} {d : Desc} {s : State} {c : Cmd}

theorem fade_set (hc : c = cmdOf 0x21 src d s) (h : Accepted 0x21 src d s) (hlevel : c.f 8 0 16 ≤ 0x8000)
    (htime : c.f 12 0 32 ≤ 60000000) :
    Ends 0x21 src d s [.lpl] stSuccess 0
      (fun u => u.lpl = { s.lpl with
        shadow := s.lpl.shadow ++ [.fade (c.f 8 0 16) (c.b 10 0) (c.f 12 0 32)] })
      (exec (.fadeSet src d) s) := by
  subst hc
  refine ends_shadow (b := fadeBody) h (firstFail_single ?_) rfl
  rw [decide_eq_false (by omega), decide_eq_false (by omega)]
  rfl

theorem budget_set (hc : c = cmdOf 0x22 src d s) (h : Accepted 0x22 src d s) (hrise : 1 ≤ c.f 12 0 16)
    (hmost : c.f 12 0 16 ≤ 0x8000) :
    Ends 0x22 src d s [.lpl] stSuccess 0
      (fun u => u.lpl = { s.lpl with shadow := s.lpl.shadow ++ [.budget (c.f 8 0 32) (c.f 12 0 16)] })
      (exec (.fluxBudgetSet src d) s) := by
  subst hc
  refine ends_shadow (b := budgetBody) h (firstFail_single ?_) rfl
  rw [decide_eq_false (by omega), decide_eq_false (by omega)]
  rfl

/-- CAL_LOAD passes its two checks. -/
theorem calLoad_checked (hbad : calBad c s = false) (hbusy : calBusy c s = false) :
    calLoadBody.check c s = none := firstFail_cons hbad (firstFail_single hbusy)

theorem calLoad_bin (hc : c = cmdOf 0x20 src d s) (h : Accepted 0x20 src d s) (hmode : c.f 8 0 2 = 1)
    (hmin : c.f 22 0 16 ≤ 0x8000) :
    Ends 0x20 src d s [.lpl] stSuccess 0
      (fun u => ∃ b : Fin 16, b.val = c.f 12 0 4 ∧ u.lpl = { s.lpl with
        shadow := s.lpl.shadow ++ [.bin b ⟨c.s 16 0 16, c.s 18 0 16, c.f 20 0 16, c.f 22 0 16⟩] })
      (exec (.calLoad src d) s) := by
  subst hc
  have hlt : (cmdOf 0x20 src d s).f 12 0 4 < 16 := Nat.mod_lt _ (by decide)
  have hcheck : calLoadBody.check (cmdOf 0x20 src d s) (begun 0x20 src d s) = none := by
    refine calLoad_checked ?_ ?_
    · rw [calBad, hmode]
      exact decide_eq_false (by omega)
    · rw [calBusy, hmode]
      rfl
  obtain ⟨u, hu, hkeep, hrun, hlpl⟩ := ends_shadow (b := calLoadBody) (st := stSuccess) (r := 0)
    (w := [.bin ⟨(cmdOf 0x20 src d s).f 12 0 4 % 16, by omega⟩ ⟨(cmdOf 0x20 src d s).s 16 0 16,
      (cmdOf 0x20 src d s).s 18 0 16, (cmdOf 0x20 src d s).f 20 0 16, (cmdOf 0x20 src d s).f 22 0 16⟩])
    h hcheck (by unfold calLoadBody; dsimp only; rw [hmode]; rfl)
  exact ⟨u, hu, hkeep, hrun, ⟨_, by omega⟩, Nat.mod_eq_of_lt hlt, hlpl⟩

theorem calLoad_default (hc : c = cmdOf 0x20 src d s) (h : Accepted 0x20 src d s) (hmode : c.f 8 0 2 = 3) :
    Ends 0x20 src d s [.lpl] stSuccess 0
      (fun u => u.lpl = { s.lpl with
        shadow := s.lpl.shadow ++ [.defaultRec (BitVec.ofNat 64 (c.f 24 0 64))] })
      (exec (.calLoad src d) s) := by
  subst hc
  refine ends_shadow (b := calLoadBody) h (calLoad_checked ?_ ?_) ?_
  · rw [calBad, hmode]
    rfl
  · rw [calBusy, hmode]
    rfl
  · unfold calLoadBody
    dsimp only
    rw [hmode]
    rfl

/-- A plane switch is staged, and its write joins the shadow or the commit that takes the shadow (R214). -/
theorem calLoad_switch (hc : c = cmdOf 0x20 src d s) (h : Accepted 0x20 src d s) (hmode : c.f 8 0 2 = 2)
    (hplane : planeOk (c.f 20 0 32) s = true) (hnone : s.pho.plane = none) :
    Begins 0x20 src d s [.lpl, .pho]
      (fun t => t.pho = { s.pho with plane := some (.staged (c.f 20 0 32)), planeCmd := some c } ∧
        (c.commit = false → t.lpl.shadow = s.lpl.shadow ++ [.plane (c.f 20 0 32)]) ∧
        (c.commit = true → t.lpl.shadow = [] ∧
          t.lpl.seen = s.lpl.seen ++ [s.lpl.shadow ++ [.plane (c.f 20 0 32)]]))
      (exec (.calLoad src d) s) := by
  subst hc
  have hcheck : calLoadBody.check (cmdOf 0x20 src d s) (begun 0x20 src d s) = none := by
    refine calLoad_checked ?_ ?_
    · rw [calBad, hmode]
      exact congrArg (!·) hplane
    · rw [calBusy, hmode]
      exact congrArg Option.isSome hnone
  have hkeep := keeps_opened 0x20 src d s
  have hrun : calLoadBody.run (cmdOf 0x20 src d s) (opened 0x20 src d s) =
      if (cmdOf 0x20 src d s).commit then issueCommit
        { shadowAll [.plane ((cmdOf 0x20 src d s).f 20 0 32)] (opened 0x20 src d s) with
          pho.plane := some (.staged ((cmdOf 0x20 src d s).f 20 0 32))
          pho.planeCmd := some (cmdOf 0x20 src d s) }
      else { shadowAll [.plane ((cmdOf 0x20 src d s).f 20 0 32)] (opened 0x20 src d s) with
          pho.plane := some (.staged ((cmdOf 0x20 src d s).f 20 0 32))
          pho.planeCmd := some (cmdOf 0x20 src d s) } := by
    unfold calLoadBody
    dsimp only
    rw [hmode]
    rfl
  have hlpl : (opened 0x20 src d s).lpl = s.lpl := hkeep .lpl (by decide)
  have hpho : (opened 0x20 src d s).pho = s.pho := hkeep .pho (by decide)
  generalize hu : ({ shadowAll [.plane ((cmdOf 0x20 src d s).f 20 0 32)] (opened 0x20 src d s) with
    pho.plane := some (.staged ((cmdOf 0x20 src d s).f 20 0 32))
    pho.planeCmd := some (cmdOf 0x20 src d s) } : State) = u at hrun
  have hstaged : Keeps [.lpl, .pho] (opened 0x20 src d s) u := by
    rw [← hu]
    exact keeps_mk (keeps_mono (keeps_shadowAll _ _) rfl)
  have hupho : u.pho = { s.pho with
      plane := some (.staged ((cmdOf 0x20 src d s).f 20 0 32)), planeCmd := some (cmdOf 0x20 src d s) } := by
    rw [← hu, ← hpho]
    rfl
  have hulpl : u.lpl = { s.lpl with shadow := s.lpl.shadow ++ [.plane ((cmdOf 0x20 src d s).f 20 0 32)] } := by
    rw [← hu, ← hlpl]
    rfl
  cases hcommit : (cmdOf 0x20 src d s).commit with
  | false =>
    rw [hcommit, if_neg Bool.false_ne_true] at hrun
    exact begins_of h hcheck hrun hstaged rfl (by decide)
      ⟨hupho, fun _ => congrArg (fun l : Lamp => l.shadow) hulpl, fun hc => absurd hc Bool.false_ne_true⟩
  | true =>
    rw [hcommit, if_pos rfl] at hrun
    refine begins_of h hcheck hrun (m := [.lpl, .pho, .yok]) (keeps_step (keeps_issueCommit u) rfl
      (keeps_mono hstaged rfl)) rfl (by decide) ⟨hupho, fun hc => absurd hc.symm Bool.false_ne_true, fun _ => ⟨rfl, ?_⟩⟩
    show u.lpl.seen ++ [u.lpl.shadow] = _
    rw [hulpl]

theorem calLoad_records (hc : c = cmdOf 0x20 src d s) (h : Accepted 0x20 src d s) (hmode : c.f 8 0 2 = 0)
    (hbad : calBad c s = false) (hbusy : calBusy c s = false) :
    Begins 0x20 src d s [.free, .dma, .jobs]
      (fun t => t.jobs.any (fun j => j.cmd == c && j.xfer == recordsXfer c) = true)
      (exec (.calLoad src d) s) := by
  subst hc
  refine begins_of (b := calLoadBody) (m := [.free, .dma, .jobs])
    (t := askTransfer (cmdJob (cmdOf 0x20 src d s) (recordsXfer (cmdOf 0x20 src d s)) false) (opened 0x20 src d s))
    h (calLoad_checked hbad hbusy) ?_ (keeps_askTransfer_line rfl ?_ _) rfl (by decide) (job_any fun _ => ?_)
  · unfold calLoadBody
    dsimp only
    rw [hmode]
    rfl
  · show (cmdOf 0x20 src d s).opcode ≠ 0x48
    rw [cmdOf_opcode src d s (by decide)]
    decide
  · show (cmdOf 0x20 src d s == cmdOf 0x20 src d s &&
      recordsXfer (cmdOf 0x20 src d s) == recordsXfer (cmdOf 0x20 src d s)) = true
    rw [beq_self_eq_true, beq_self_eq_true]
    rfl

theorem aux_write (hc : c = cmdOf 0x58 src d s) (h : Accepted 0x58 src d s) (hbad : awBad c s = false) :
    Ends 0x58 src d s [.lpl] stSuccess 0
      (fun u => u.lpl = { s.lpl with
        shadow := s.lpl.shadow ++ [.aux (awChain c) (c.f 10 0 16) (awWords c) (c.f 14 0 16)] })
      (exec (.auxWrite src d) s) := by
  subst hc
  exact ends_shadow (b := auxWriteBody) h (firstFail_single hbad) rfl

/-- Settles O28: each command writes to the shadow, stages a plane or asks for its transfer. -/
theorem lightCommands : Obligations.LightCommands :=
  ⟨fun _ _ _ _ => fade_set, fun _ _ _ _ => budget_set, fun _ _ _ _ => calLoad_bin, fun _ _ _ _ => calLoad_default,
    fun _ _ _ _ => calLoad_switch, fun _ _ _ _ => calLoad_records, fun _ _ _ _ => aux_write⟩

end Sys2Proof.Proofs
end

section
/-!
SUPPORT. A TELEMETRY_READ of a tile with a misaligned export address is refused (R357).
-/

namespace Sys2Proof.Proofs

set_option Elab.async false

open Sys2Proof Sys2Proof.Machine Sys2Proof.Safety Sys2Proof.Laws

/-- How many commands wait for their commit after a command. -/
def waitsLeft (o : Out) : Nat := match o with
  | .next t => t.lpl.waits.length
  | _ => 0

/-- A command with COMMIT that ends with SUCCESS waits for its commit (R62). -/
theorem waitsLeft_of_ends {op : Nat} {src : Src} {d : Desc} {s : State} {l : List Zone} {r : Result}
    {P : State → Prop} {o : Out} (hcommit : (cmdOf op src d s).commit = true)
    (h : Ends op src d s l stSuccess r P o) : waitsLeft o ≠ 0 := by
  obtain ⟨u, rfl, -⟩ := h
  rw [waitsLeft, finish_of_waits hcommit (.inl rfl)]
  simp

/-- A state that serves the start-up list. -/
def servingStartup : State := { State.reset with
  pwr.core := true
  pwr.cores.up := true
  pwr.cores.served := true }

/-- A TELEMETRY_READ of tile position 0, with COMMIT, whose export address is 1. -/
def misalignedTileRead : Desc := BitVec.ofNat 512 (0x28 + 2 ^ 11 + 2 ^ 32 + 4 * 2 ^ 64 + 2 ^ 192)

theorem waitsLeft_misalignedTileRead :
    waitsLeft (exec (.telemetryRead (.startup 0) misalignedTileRead) servingStartup) = 0 := by
  decide +kernel

/-- Refutes O29: the read of a tile position fails for the alignment of an address that it does not use. -/
theorem not_healthCommandsAndUpkeep : ¬ Obligations.HealthCommandsAndUpkeep := by
  unfold Obligations.HealthCommandsAndUpkeep
  rintro ⟨⟨-, -, -, htile, -⟩, -⟩
  exact waitsLeft_of_ends (by decide +kernel) (htile servingStartup (.startup 0) misalignedTileRead _ rfl
    (by decide +kernel) (by decide +kernel) (by decide +kernel) (by decide +kernel)) waitsLeft_misalignedTileRead

end Sys2Proof.Proofs
end

section
/-!
SUPPORT. A THERMAL_SET STEP of the LIGHT class finds that no on-die sensor is left (R413).
-/

namespace Sys2Proof.Proofs

set_option Elab.async false

open Sys2Proof Sys2Proof.Machine Sys2Proof.Safety Sys2Proof.Laws

/-- A state that serves the start-up list and uses no sensor. -/
def withoutSensors : State := { servingStartup with
  thm.sensor := servingStartup.thm.sensor.map' fun x => { x with used := false } }

/-- A THERMAL_SET STEP of the LIGHT class with a step of 10 ms. -/
def lightStep : Desc := BitVec.ofNat 512 (0x39 + 2 ^ 32 + (1 + 4) * 2 ^ 64 + 10 * 2 ^ 96 + 2 ^ 128)

/-- Whether a command finds every sensor of the DIE class broken. -/
def dieAllBroken (o : Out) : Bool := match o with
  | .next t => t.thm.die.allBroken
  | _ => false

theorem dieAllBroken_lightStep : dieAllBroken (exec (.thermalSet (.startup 0) lightStep) withoutSensors) = true := by
  decide +kernel

/-- Refutes O30: the STEP of the LIGHT class settles the DIE class, of which no sensor is used, and so changes it. -/
theorem not_plantCommands : ¬ Obligations.PlantCommands := by
  unfold Obligations.PlantCommands
  rintro ⟨-, -, -, -, -, -, hstep, -⟩
  obtain ⟨u, hu, -, -, -, -, hother⟩ := hstep withoutSensors (.startup 0) lightStep _ rfl (by decide +kernel)
    (by decide +kernel) (by decide +kernel)
  have hlight : (cmdOf 0x39 (.startup 0) lightStep withoutSensors).b 8 2 = true := by decide +kernel
  rw [hlight] at hother
  have hdie : u.thm.die = withoutSensors.thm.die := hother
  have hall := dieAllBroken_lightStep
  rw [hu, dieAllBroken, keeps_finish _ _ _ _ .thm (by decide), hdie] at hall
  exact absurd hall (by decide +kernel)

end Sys2Proof.Proofs
end

section
/-!
SUPPORT. O31: TIME_SCHEDULE, TIME_SET and PULSE_SET.
-/

namespace Sys2Proof.Proofs

set_option Elab.async false

open Sys2Proof Sys2Proof.Machine Sys2Proof.Safety Sys2Proof.Laws

theorem getElem_updN {α : Type} {n : Nat} (t : Tab α n) (k : Nat) (f : α → α) (i : Fin n) :
    (t.updN k f)[i] = if i.val = k then f t[i] else t[i] := by
  unfold Tab.updN
  by_cases hk : k < n
  · rw [dif_pos hk, Tab.upd_get]
    by_cases hi : i.val = k
    · rw [if_pos (Fin.ext hi), if_pos hi]
    · rw [if_neg fun he => hi (congrArg Fin.val he), if_neg hi]
  · rw [dif_neg hk, if_neg (by omega)]

/-- A change of the time state leaves the clock and the servo (R499). -/
theorem bel_setTimeState (k : TimeState) (kind : Nat) (p : Fin 2) (s : State) :
    ∃ j l, (setTimeState k kind p s).bel = { s.bel with state := j, lockLosses := l } := by
  unfold setTimeState
  dsimp only
  split
  · exact ⟨_, _, rfl⟩
  · rw [keeps_belSignal _ _ .bel (by decide)]
    split
    · exact ⟨k, _, congrArg (fun b : Bell => { b with state := k }) (keeps_raise _ _ _ _ .bel (by decide))⟩
    · exact ⟨k, _, rfl⟩

theorem bel_settleFree (s : State) : ∃ j l, (settleFree s).bel = { s.bel with state := j, lockLosses := l } := by
  unfold settleFree
  split
  · exact bel_setTimeState _ _ _ _
  · exact ⟨_, _, rfl⟩

theorem eth_settleFree (s : State) : (settleFree s).eth = s.eth := keeps_settleFree s .eth (by decide)

/-- Right after a rebase, network time is the counter and the offset (R488, R490). -/
theorem time_rebased {b : Bell} (h : b.frcRef = b.frc) : b.time = b.offset + b.frc := by
  rw [time_eq, h, sub_self]
  simp [roundEven]

variable {src : Src} {d : Desc} {s : State} {c : Cmd}

/-- TIME_SCHEDULE arms a launch with the sender's shadow (R502). -/
theorem schedule_launch (hc : c = cmdOf 0x40 src d s) (h : Accepted 0x40 src d s) (hsub : c.f 8 0 2 = 0)
    (hns : c.f 24 0 32 < 1000000000) (hroom : s.lpl.launches.length < 16) :
    Begins 0x40 src d s [.lpl]
      (fun t => t.lpl.shadow = [] ∧ ∃ l, t.lpl.launches = s.lpl.launches ++ [l] ∧ l.cmd = c ∧
        l.s = c.f 16 0 48 ∧ l.ns = c.f 24 0 32 ∧ l.writes = s.lpl.shadow ∧
        l.late = decide (netTime s > mkTime (c.f 16 0 48) (c.f 24 0 32)))
      (exec (.timeSchedule src d) s) := by
  subst hc
  refine begins_of (b := scheduleBody) (m := [.lpl, .yok])
    (t := armLaunch (cmdOf 0x40 src d s) ((cmdOf 0x40 src d s).f 16 0 48) ((cmdOf 0x40 src d s).f 24 0 32) []
      (opened 0x40 src d s)) h ?_ ?_ (keeps_armLaunch _ _ _ _ _) rfl (by decide) ⟨rfl, ?_⟩
  · refine firstFail_cons (decide_eq_false (by omega)) (firstFail_cons ?_ (firstFail_cons ?_ (firstFail_single ?_)))
    · rw [hsub]
      exact decide_eq_false (show ¬ s.lpl.launches.length ≥ 16 by omega)
    · rw [hsub]
      rfl
    · rw [hsub]
      rfl
  · unfold scheduleBody
    dsimp only
    rw [hsub]
    rfl
  · unfold armLaunch netTime
    rw [keeps_opened 0x40 src d s .lpl (by decide), keeps_opened 0x40 src d s .bel (by decide)]
    exact ⟨_, rfl, rfl, rfl, rfl, List.append_nil _, rfl⟩

theorem schedule_run_arms (hsub : c.f 8 0 2 = 1) : scheduleBody.run c s =
    complete c (if netTime s > mkTime (c.f 16 0 48) (c.f 24 0 32) then stLate else stSuccess) 0 0
      { s with bel.alarm := s.bel.alarm.updN (c.f 9 0 2) fun (x : Alarm) =>
          { x with armed := true, s := c.f 16 0 48, ns := c.f 24 0 32 } } := by
  unfold scheduleBody
  dsimp only
  rw [hsub]
  rfl

theorem schedule_run_cancels (hsub : c.f 8 0 2 = 2) : scheduleBody.run c s =
    complete c stSuccess 0 (resAt 16 (cancelNamed c s).length) ((cancelNamed c s).foldl cancelLaunch s) := by
  unfold scheduleBody
  dsimp only
  rw [hsub]
  rfl

theorem schedule_run_disarms (hsub : c.f 8 0 2 = 3) (hone : c.b 8 2 = false) : scheduleBody.run c s =
    complete c stSuccess 0 0 { s with bel.alarm := s.bel.alarm.updN (c.f 9 0 2) fun (a : Alarm) =>
      { a with armed := false } } := by
  unfold scheduleBody
  dsimp only
  rw [hsub, hone]
  rfl

theorem schedule_alarm (hc : c = cmdOf 0x40 src d s) (h : Accepted 0x40 src d s) (hsub : c.f 8 0 2 = 1)
    (hns : c.f 24 0 32 < 1000000000) :
    Answers (exec (.timeSchedule src d) s) fun t => ∀ a : Fin 4,
      t.bel.alarm[a] = if a.val = c.f 9 0 2 then
        { s.bel.alarm[a] with armed := true, s := c.f 16 0 48, ns := c.f 24 0 32 } else s.bel.alarm[a] := by
  subst hc
  have hcheck : scheduleBody.check (cmdOf 0x40 src d s) (begun 0x40 src d s) = none := by
    refine firstFail_cons (decide_eq_false (by omega)) (firstFail_cons ?_ (firstFail_cons ?_ (firstFail_single ?_)))
    · rw [hsub]
      rfl
    · rw [hsub]
      rfl
    · rw [hsub]
      rfl
  refine answers_of_eq (congrArg Host.Outcome.next (runRow_opened (b := scheduleBody) h hcheck)) fun a => ?_
  rw [schedule_run_arms hsub, keeps_complete _ _ _ _ _ .bel (by decide)]
  refine (getElem_updN _ _ _ a).trans ?_
  rw [keeps_opened 0x40 src d s .bel (by decide)]

theorem disarm_alarm {b : Fin 4} (hc : c = cmdOf 0x40 src d s) (h : Accepted 0x40 src d s)
    (hsub : c.f 8 0 2 = 3) (hone : c.b 8 2 = false) (hns : c.f 24 0 32 < 1000000000) (hb : b.val = c.f 9 0 2)
    (harmed : (s.bel.alarm[b]).armed = true) :
    Answers (exec (.timeSchedule src d) s) fun t => ∀ a : Fin 4,
      t.bel.alarm[a] = if a = b then { s.bel.alarm[a] with armed := false } else s.bel.alarm[a] := by
  subst hc
  have hcheck : scheduleBody.check (cmdOf 0x40 src d s) (begun 0x40 src d s) = none := by
    refine firstFail_cons (decide_eq_false (by omega)) (firstFail_cons ?_ (firstFail_cons ?_ (firstFail_single ?_)))
    · rw [hsub]
      rfl
    · rw [hsub]
      rfl
    · rw [hsub, hone, if_neg Bool.false_ne_true, ← hb]
      unfold Tab.at'
      rw [dif_pos b.isLt]
      change (_ && !(s.bel.alarm[b]).armed) = false
      rw [harmed]
      rfl
  refine answers_of_eq (congrArg Host.Outcome.next (runRow_opened (b := scheduleBody) h hcheck)) fun a => ?_
  rw [schedule_run_disarms hsub hone, keeps_complete _ _ _ _ _ .bel (by decide)]
  refine (getElem_updN _ _ _ a).trans ?_
  rw [keeps_opened 0x40 src d s .bel (by decide), ← hb]
  by_cases ha : a = b
  · rw [if_pos (congrArg Fin.val ha), if_pos ha]
  · rw [if_neg fun he => ha (Fin.ext he), if_neg ha]

/-- What is left of the launches when each of a list has been cancelled (R505). -/
theorem launches_cancelled (l : List Launch) : ∀ s : State,
    (l.foldl cancelLaunch s).lpl.launches = s.lpl.launches.filter fun x => l.all fun y => x.num != y.num := by
  induction l with
  | nil => exact fun s => by simp
  | cons y l ih =>
    intro s
    have hone : (cancelLaunch s y).lpl.launches = s.lpl.launches.filter fun x => x.num != y.num :=
      congrArg (fun l : Lamp => l.launches) (keeps_complete _ _ _ _ _ .lpl (by decide))
    rw [List.foldl_cons, ih, hone, List.filter_filter]
    refine congrArg (fun p => List.filter p _) (funext fun x => ?_)
    rw [List.all_cons, Bool.and_comm]

theorem launches_of_port_cancelled (hc : c = cmdOf 0x40 src d s) (h : Accepted 0x40 src d s)
    (hsub : c.f 8 0 2 = 2) (hall : c.b 8 2 = true) (hns : c.f 24 0 32 < 1000000000) (hsome : cancelNamed c s ≠ []) :
    Answers (exec (.timeSchedule src d) s) fun t => ∀ l ∈ t.lpl.launches, l.cmd.src.port ≠ c.src.port := by
  subst hc
  have hcheck : scheduleBody.check (cmdOf 0x40 src d s) (begun 0x40 src d s) = none := by
    refine firstFail_cons (decide_eq_false (by omega)) (firstFail_cons ?_ (firstFail_cons ?_ (firstFail_single ?_)))
    · rw [hsub]
      rfl
    · change (_ && (cancelNamed (cmdOf 0x40 src d s) s).isEmpty) = false
      rw [List.isEmpty_eq_false_iff.mpr hsome, Bool.and_false]
    · rw [hsub]
      rfl
  refine answers_of_eq (congrArg Host.Outcome.next (runRow_opened (b := scheduleBody) h hcheck)) fun l hl hport => ?_
  rw [schedule_run_cancels hsub, keeps_complete _ _ _ _ _ .lpl (by decide), launches_cancelled] at hl
  obtain ⟨hmem, hleft⟩ := List.mem_filter.mp hl
  have hnamed : l ∈ cancelNamed (cmdOf 0x40 src d s) (opened 0x40 src d s) := by
    unfold cancelNamed
    dsimp only
    rw [hall, if_pos rfl]
    exact List.mem_filter.mpr ⟨hmem, by rw [hport]; exact beq_self_eq_true _⟩
  have hnum := List.all_eq_true.mp hleft l hnamed
  exact absurd (beq_self_eq_true l.num) (by simpa using hnum)

/-! TIME_SET. -/

theorem timeSet_checked (hbad : tsBad c s = false) (hmode : s.bel.mode ≠ .internal ∨ 2 < c.f 8 0 3) :
    timeSetBody.check c s = none := by
  refine firstFail_cons hbad (firstFail_single ?_)
  obtain h | h := hmode
  · rw [beq_false_of_ne h, Bool.and_false, Bool.false_and]
  · rw [decide_eq_false (by omega), Bool.false_and, Bool.false_and]

/-- A set or a step of the time: what settles afterwards leaves the clock. -/
theorem time_set {u : State} (hc : c = cmdOf 0x41 src d s) (h : Accepted 0x41 src d s)
    (hbad : tsBad c s = false) (hmode : s.bel.mode ≠ .internal)
    (hrun : timeSetBody.run c (opened 0x41 src d s) = finishOk c (settleFree (dropIntegrator u)))
    (hkeep : Keeps [.bel, .eth] (opened 0x41 src d s) u) (hvalid : u.bel.valid = true)
    (hsteps : u.bel.steps = bump 65535 1 s.bel.steps) (hppb : u.bel.ratePpb = s.bel.ratePpb) {x : Int}
    (htime : netTime u = x) :
    Ends 0x41 src d s [.bel, .rve, .pwr, .hif, .eth, .mgt, .out, .free, .lpl, .thm] stSuccess 0
      (fun u => u.bel.valid = true ∧ netTime u = x ∧
        u.bel.steps = bump 65535 1 s.bel.steps ∧ u.bel.integ = s.bel.ratePpb)
      (exec (.timeSet src d) s) := by
  subst hc
  obtain ⟨j, l, hbel⟩ := bel_settleFree (dropIntegrator u)
  refine ends_of (b := timeSetBody) (m := [.bel, .rve, .hif, .eth, .out]) h (timeSet_checked hbad (.inl hmode)) hrun
    (keeps_step (keeps_settleFree _) rfl (keeps_step (keeps_dropIntegrator _) rfl (keeps_mono hkeep rfl))) rfl
    (by decide) ?_
  unfold netTime
  rw [hbel]
  exact ⟨hvalid, htime, hsteps, hppb⟩

theorem timeSet_run_set (hsub : c.f 8 0 3 = 0) :
    timeSetBody.run c s = finishOk c (settleFree (dropIntegrator (setTime (tsTarget c s) s))) := by
  unfold timeSetBody
  dsimp only
  rw [hsub]
  rfl

theorem timeSet_run_step (hsub : c.f 8 0 3 = 1) :
    timeSetBody.run c s = finishOk c (settleFree (dropIntegrator (stepTime (c.s 16 0 64) s))) := by
  unfold timeSetBody
  dsimp only
  rw [hsub]
  rfl

theorem timeSet_set (hc : c = cmdOf 0x41 src d s) (h : Accepted 0x41 src d s) (hbad : tsBad c s = false)
    (hsub : c.f 8 0 3 = 0) (hmode : s.bel.mode ≠ .internal) :
    Ends 0x41 src d s [.bel, .rve, .pwr, .hif, .eth, .mgt, .out, .free, .lpl, .thm] stSuccess 0
      (fun u => u.bel.valid = true ∧ netTime u = mkTime (c.f 16 0 48) (c.f 24 0 32) ∧
        u.bel.steps = bump 65535 1 s.bel.steps ∧ u.bel.integ = s.bel.ratePpb)
      (exec (.timeSet src d) s) := by
  have hbel : (opened 0x41 src d s).bel = s.bel := keeps_opened 0x41 src d s .bel (by decide)
  refine time_set hc h hbad hmode (timeSet_run_set hsub) (keeps_setTime _ _) rfl ?_ ?_ ?_
  · exact Eq.trans (b := bump 65535 1 (opened 0x41 src d s).bel.steps) rfl (by rw [hbel])
  · exact Eq.trans (b := (opened 0x41 src d s).bel.ratePpb) rfl (by rw [hbel])
  · have htime := time_rebased (b := (setTime (tsTarget c (opened 0x41 src d s)) (opened 0x41 src d s)).bel) rfl
    refine htime.trans ?_
    rw [show tsTarget c (opened 0x41 src d s) = mkTime (c.f 16 0 48) (c.f 24 0 32) from if_pos hsub]
    exact Int.sub_add_cancel _ _

theorem timeSet_step (hc : c = cmdOf 0x41 src d s) (h : Accepted 0x41 src d s) (hbad : tsBad c s = false)
    (hsub : c.f 8 0 3 = 1) (hmode : s.bel.mode ≠ .internal) :
    Ends 0x41 src d s [.bel, .rve, .pwr, .hif, .eth, .mgt, .out, .free, .lpl, .thm] stSuccess 0
      (fun u => u.bel.valid = true ∧ netTime u = netTime s + c.s 16 0 64 ∧
        u.bel.steps = bump 65535 1 s.bel.steps ∧ u.bel.integ = s.bel.ratePpb)
      (exec (.timeSet src d) s) := by
  have hbel : (opened 0x41 src d s).bel = s.bel := keeps_opened 0x41 src d s .bel (by decide)
  refine time_set hc h hbad hmode (timeSet_run_step hsub) (keeps_stepTime _ _) rfl ?_ ?_ ?_
  · exact congrArg (fun b : Bell => bump 65535 1 b.steps) hbel
  · exact Eq.trans (b := (opened 0x41 src d s).bel.ratePpb) rfl (by rw [hbel])
  · change Bell.time { (opened 0x41 src d s).bel with
      offset := (opened 0x41 src d s).bel.offset + c.s 16 0 64, valid := true
      steps := bump 65535 1 (opened 0x41 src d s).bel.steps } = s.bel.time + c.s 16 0 64
    rw [hbel, time_eq, time_eq]
    simp only [rateInUse]
    omega

theorem timeSet_rate (hc : c = cmdOf 0x41 src d s) (h : Accepted 0x41 src d s) (hbad : tsBad c s = false)
    (hsub : c.f 8 0 3 = 2) (hmode : s.bel.mode ≠ .internal) :
    Ends 0x41 src d s [.bel] stSuccess 0 (fun u => u.bel = { s.bel.rebase with rate := c.s 16 0 32 })
      (exec (.timeSet src d) s) := by
  subst hc
  refine ends_of (b := timeSetBody) (m := [.bel])
    (u := writeRate ((cmdOf 0x41 src d s).s 16 0 32) (opened 0x41 src d s)) h (timeSet_checked hbad (.inl hmode)) ?_
    (keeps_writeRate _ _) rfl (by decide) ?_
  · unfold timeSetBody
    dsimp only
    rw [hsub]
    rfl
  · exact congrArg (fun b : Bell => { b.rebase with rate := (cmdOf 0x41 src d s).s 16 0 32 })
      (keeps_opened 0x41 src d s .bel (by decide))

theorem timeSet_config (hc : c = cmdOf 0x41 src d s) (h : Accepted 0x41 src d s) (hbad : tsBad c s = false)
    (hsub : c.f 8 0 3 = 3) :
    Ends 0x41 src d s [.bel] stSuccess 0
      (fun u => u.bel = { s.bel with
        mode := modeOf (c.f 12 0 2), kp := c.f 16 0 16, ki := c.f 16 16 16, lockNs := c.f 20 0 16
        stepUs := c.f 20 16 14 })
      (exec (.timeSet src d) s) := by
  subst hc
  have hrun : timeSetBody.run (cmdOf 0x41 src d s) (opened 0x41 src d s) = finishOk (cmdOf 0x41 src d s)
      { opened 0x41 src d s with
        bel.mode := modeOf ((cmdOf 0x41 src d s).f 12 0 2)
        bel.kp := (cmdOf 0x41 src d s).f 16 0 16
        bel.ki := (cmdOf 0x41 src d s).f 16 16 16
        bel.lockNs := (cmdOf 0x41 src d s).f 20 0 16
        bel.stepUs := (cmdOf 0x41 src d s).f 20 16 14 } := by
    unfold timeSetBody
    dsimp only
    rw [hsub]
    rfl
  have hbel : (opened 0x41 src d s).bel = s.bel := keeps_opened 0x41 src d s .bel (by decide)
  refine ends_of h (timeSet_checked hbad (.inr (by omega))) hrun (m := [.bel]) (keeps_mk (keeps_refl _ _)) rfl
    (by decide) ?_
  rw [← hbel]

theorem timeSet_read (hc : c = cmdOf 0x41 src d s) (h : Accepted 0x41 src d s) (hbad : tsBad c s = false)
    (hsub : c.f 8 0 3 = 4) :
    Ends 0x41 src d s [] stSuccess (timeReadResult s) (fun _ => True) (exec (.timeSet src d) s) := by
  subst hc
  refine ends_of (b := timeSetBody) (m := []) (u := opened 0x41 src d s) h (timeSet_checked hbad (.inr (by omega)))
    ?_ (keeps_refl _ _) rfl (by decide) trivial
  have hresult : timeReadResult (opened 0x41 src d s) = timeReadResult s := by
    unfold timeReadResult netTime
    rw [keeps_opened 0x41 src d s .bel (by decide)]
  unfold timeSetBody
  dsimp only
  rw [hsub, ← hresult]
  rfl

theorem eth_loseLock (kind : Nat) (p : Fin 2) (s : State) : (loseLock kind p s).eth = s.eth :=
  keeps_loseLock _ _ s .eth (by decide)

theorem timeSet_ptp (hc : c = cmdOf 0x41 src d s) (h : Accepted 0x41 src d s) (hbad : tsBad c s = false)
    (hsub : c.f 8 0 3 = 5) :
    Ends 0x41 src d s [.bel, .rve, .hif, .eth, .out] stSuccess 0
      (fun u => (u.eth.port[tsPort c]).ptp = parsePtp (BitVec.ofNat 32 (c.f 16 0 32)) ∧
        (u.eth.port[tsPort c]).ptpState = .initializing)
      (exec (.timeSet src d) s) := by
  subst hc
  refine ends_of (b := timeSetBody) (m := [.out, .hif, .rve, .bel, .eth]) (u := restartPtp (tsPort (cmdOf 0x41 src d s))
    (parsePtp (BitVec.ofNat 32 ((cmdOf 0x41 src d s).f 16 0 32))) (opened 0x41 src d s)) h
    (timeSet_checked hbad (.inr (by omega))) ?_ (keeps_restartPtp _ _ _) rfl (by decide) ?_
  · unfold timeSetBody
    dsimp only
    rw [hsub]
    rfl
  · unfold restartPtp
    dsimp only
    rw [eth_settleFree]
    split
    · simp [eth_loseLock, modEth]
    · simp [modEth]

/-! PULSE_SET. -/

theorem pulse_index {o : Fin 4} {k : Nat} (h : o.val = k) : o = ⟨k % 4, Nat.mod_lt _ (by decide)⟩ :=
  Fin.ext (show o.val = k % 4 by omega)

theorem pulseSet_run {o : Fin 4} (ho : o.val = c.f 8 0 2) {u : State}
    (hu : u = if (s.bel.pulse[o]).active.isSome then modPulse o (fun p => { p with pending := some (psCfg c) }) s
      else setPulse o (psCfg c) s) :
    pulseBody.run c s = finish c (if (psCfg c).passed u then stLate else stSuccess) 0 u := by
  have hindex := pulse_index ho
  subst hindex hu
  rfl

theorem passed_congr {x : PulseCfg} {t : State} (h : netTime t = netTime s) : x.passed t = x.passed s := by
  unfold PulseCfg.passed
  rw [h]

/-- A configuration of an idle output, whose START has passed or not (R504). -/
theorem setPulse_eq (o : Fin 4) (x : PulseCfg) (s : State) : setPulse o x s =
    (if x.passed s then startPps o else id)
      (modPulse o (fun p => { p with cfg := x, pending := none, given := false, startedAt := none }) s) := by
  unfold setPulse
  dsimp only
  rw [passed_congr (t := modPulse o _ s) (s := s) rfl]
  split <;> rfl

theorem pulse_modPulse (o : Fin 4) (f : Pulse → Pulse) (s : State) :
    (modPulse o f s).bel.pulse[o] = f s.bel.pulse[o] ∧
      ∀ q : Fin 4, q ≠ o → (modPulse o f s).bel.pulse[q] = s.bel.pulse[q] :=
  ⟨(Tab.upd_get _ _ _ _).trans (if_pos rfl), fun q hq => (Tab.upd_get _ _ _ _).trans (if_neg hq)⟩

/-- A pulse that starts at once (R504). -/
theorem pulse_startPps (o : Fin 4) (s : State) : (startPps o s).bel.pulse[o] = { s.bel.pulse[o] with
      active := some s.bel.frc, given := true, startedAt := some s.bel.frc } ∧ Sent [.pps o true] s (startPps o s) :=
  ⟨(pulse_modPulse o _ s).1, rfl⟩

theorem pulse_late {o : Fin 4} (hc : c = cmdOf 0x42 src d s) (h : Accepted 0x42 src d s)
    (hbad : (psCfg c).bad = false) (ho : o.val = c.f 8 0 2) (hpassed : (psCfg c).passed s = true)
    (hidle : (s.bel.pulse[o]).active = none) :
    Ends 0x42 src d s [.bel, .out] stLate 0
      (fun u => Sent [.pps o true] s u ∧ (u.bel.pulse[o]).cfg = psCfg c ∧
        (u.bel.pulse[o]).active = some s.bel.frc ∧ (u.bel.pulse[o]).given = true)
      (exec (.pulseSet src d) s) := by
  subst hc
  have hbel : (opened 0x42 src d s).bel = s.bel := keeps_opened 0x42 src d s .bel (by decide)
  have hout : (opened 0x42 src d s).out = s.out := keeps_opened 0x42 src d s .out (by decide)
  have hopen : (psCfg (cmdOf 0x42 src d s)).passed (opened 0x42 src d s) = true :=
    (passed_congr (congrArg Bell.time hbel)).trans hpassed
  have hrun := pulseSet_run (s := opened 0x42 src d s) (u := setPulse o (psCfg (cmdOf 0x42 src d s))
    (opened 0x42 src d s)) ho (by rw [if_neg (by rw [hbel, hidle]; exact Bool.false_ne_true)])
  rw [setPulse_eq, hopen, if_pos rfl] at hrun
  have hself := (pulse_modPulse o (fun p => { p with
    cfg := psCfg (cmdOf 0x42 src d s), pending := none, given := false, startedAt := none }) (opened 0x42 src d s)).1
  have hkeep : Keeps [.bel] (opened 0x42 src d s) (modPulse o (fun p => { p with
    cfg := psCfg (cmdOf 0x42 src d s), pending := none, given := false, startedAt := none }) (opened 0x42 src d s)) :=
    keeps_modPulse _ _ _
  have hfrc : (modPulse o (fun p => { p with
      cfg := psCfg (cmdOf 0x42 src d s), pending := none, given := false, startedAt := none })
      (opened 0x42 src d s)).bel.frc = s.bel.frc :=
    Eq.trans (b := (opened 0x42 src d s).bel.frc) rfl (congrArg Bell.frc hbel)
  have hlate : (psCfg (cmdOf 0x42 src d s)).passed (modPulse o (fun p => { p with
      cfg := psCfg (cmdOf 0x42 src d s), pending := none, given := false, startedAt := none })
      (opened 0x42 src d s)) = true := (passed_congr rfl).trans hopen
  generalize modPulse o (fun p => { p with
    cfg := psCfg (cmdOf 0x42 src d s), pending := none, given := false, startedAt := none })
    (opened 0x42 src d s) = w at hrun hself hkeep hfrc hlate
  rw [passed_congr (t := startPps o w) (s := w) rfl, hlate, if_pos rfl] at hrun
  obtain ⟨hpulse, hsent⟩ := pulse_startPps o w
  refine ends_of h (firstFail_single hbad) hrun (m := [.out, .bel])
    (keeps_step (keeps_startPps _ _) rfl (keeps_mono hkeep rfl)) rfl (by decide) ⟨?_, ?_, ?_, ?_⟩
  · rw [Sent, hsent, show w.out = _ from hkeep .out (by decide), hout]
  · rw [hpulse, hself]
  · rw [hpulse, hfrc]
  · rw [hpulse]

theorem pulse_set {o : Fin 4} (hc : c = cmdOf 0x42 src d s) (h : Accepted 0x42 src d s)
    (hbad : (psCfg c).bad = false) (ho : o.val = c.f 8 0 2) (hpassed : (psCfg c).passed s = false) :
    Ends 0x42 src d s [.bel] stSuccess 0
      (fun u => (if (s.bel.pulse[o]).active.isSome then
          u.bel.pulse[o] = { s.bel.pulse[o] with pending := some (psCfg c) }
        else u.bel.pulse[o] = { s.bel.pulse[o] with
            cfg := psCfg c, pending := none, given := false, startedAt := none }) ∧
        ∀ q : Fin 4, q ≠ o → u.bel.pulse[q] = s.bel.pulse[q])
      (exec (.pulseSet src d) s) := by
  subst hc
  have hbel : (opened 0x42 src d s).bel = s.bel := keeps_opened 0x42 src d s .bel (by decide)
  have hopen : (psCfg (cmdOf 0x42 src d s)).passed (opened 0x42 src d s) = false :=
    (passed_congr (congrArg Bell.time hbel)).trans hpassed
  have hnot : ∀ f, (psCfg (cmdOf 0x42 src d s)).passed (modPulse o f (opened 0x42 src d s)) = false := fun f =>
    (passed_congr rfl).trans hopen
  by_cases hactive : (s.bel.pulse[o]).active.isSome = true
  · have hrun := pulseSet_run (s := opened 0x42 src d s) (u := modPulse o (fun p => { p with
      pending := some (psCfg (cmdOf 0x42 src d s)) }) (opened 0x42 src d s)) ho
      (by rw [if_pos (by rw [hbel]; exact hactive)])
    rw [hnot, if_neg Bool.false_ne_true] at hrun
    obtain ⟨hself, hother⟩ := pulse_modPulse o (fun p => { p with
      pending := some (psCfg (cmdOf 0x42 src d s)) }) (opened 0x42 src d s)
    rw [hbel] at hself hother
    refine ends_of h (firstFail_single hbad) hrun (m := [.bel]) (keeps_modPulse _ _ _) rfl (by decide) ⟨?_, hother⟩
    rw [if_pos hactive]
    exact hself
  · have hrun := pulseSet_run (s := opened 0x42 src d s) (u := setPulse o (psCfg (cmdOf 0x42 src d s))
      (opened 0x42 src d s)) ho (by rw [if_neg (by rw [hbel]; exact hactive)])
    rw [setPulse_eq, hopen, if_neg Bool.false_ne_true, id, hnot, if_neg Bool.false_ne_true] at hrun
    obtain ⟨hself, hother⟩ := pulse_modPulse o (fun p => { p with
      cfg := psCfg (cmdOf 0x42 src d s), pending := none, given := false, startedAt := none }) (opened 0x42 src d s)
    rw [hbel] at hself hother
    refine ends_of h (firstFail_single hbad) hrun (m := [.bel]) (keeps_modPulse _ _ _) rfl (by decide) ⟨?_, hother⟩
    rw [if_neg hactive]
    exact hself

/-- Settles O31, one lemma for each form of the three commands. -/
theorem timeCommands : Obligations.TimeCommands :=
  ⟨fun _ _ _ _ => schedule_launch, fun _ _ _ _ => schedule_alarm, fun _ _ _ _ _ => disarm_alarm,
    fun _ _ _ _ => launches_of_port_cancelled, fun _ _ _ _ => timeSet_set, fun _ _ _ _ => timeSet_step,
    fun _ _ _ _ => timeSet_rate, fun _ _ _ _ => timeSet_ptp, fun _ _ _ _ => timeSet_config,
    fun _ _ _ _ => timeSet_read, fun _ _ _ _ _ => pulse_late, fun _ _ _ _ _ => pulse_set⟩

end Sys2Proof.Proofs
end

section
/-!
SUPPORT. O32: SAFETY_COMMIT, SAFE_TEST, FW_STAGE, FW_ACTIVATE, TEST_RUN and MARCH_RUN.
-/

namespace Sys2Proof.Proofs

set_option Elab.async false

open Sys2Proof Sys2Proof.Machine Sys2Proof.Safety Sys2Proof.Laws

variable {src : Src} {d : Desc} {s : State} {c : Cmd}

/-! SAFETY_COMMIT. -/

/-- The Hedge after a transfer is asked for: a staging that starts discards the block staged before (R245). -/
theorem hdg_askTransfer {j : DmaJob} (hlink : j.xfer.link = false) (hop : j.cmd.opcode = 0x48) (s : State) :
    Keeps [.free, .dma, .hdg, .jobs] s (askTransfer j s) ∧
      ((askTransfer j s).hdg = s.hdg ∨ (askTransfer j s).hdg = { s.hdg with staged := none }) ∧
      (s.jobs = [] → freeCh j.lo j.hi s ≠ none → (askTransfer j s).hdg = { s.hdg with staged := none }) := by
  have hreap := keeps_reapJobs s
  have hjobs : s.jobs = [] → reapJobs s = s := fun h => by
    unfold reapJobs
    rw [h]
    exact congrArg (fun l => { s with jobs := l }) h.symm
  have hhdg : (reapJobs s).hdg = s.hdg := hreap .hdg (by decide)
  unfold askTransfer
  dsimp only
  split
  next k _ =>
    unfold startJob
    dsimp only
    rw [hlink, if_neg Bool.false_ne_true, if_pos hop]
    have hset : ∀ u : State, (modCh k (fun c => c.begin ((Config.freeBits 26 u.free).toNat / 32 * 32) false)
        { u with free := u.free + 1, hdg.staged := none }).hdg = { u.hdg with staged := none } := fun u =>
      keeps_modCh _ _ _ .hdg (by decide)
    refine ⟨keeps_step (keeps_modCh _ _ _) rfl (keeps_mk (keeps_mono hreap rfl)), .inr ?_, fun _ _ => ?_⟩
    · exact (hset { reapJobs s with jobs := _ }).trans (by rw [← hhdg])
    · exact (hset { reapJobs s with jobs := _ }).trans (by rw [← hhdg])
  next hnone =>
    refine ⟨keeps_mk (keeps_mono hreap rfl), .inl hhdg, fun hempty hfree => ?_⟩
    rw [hjobs hempty, hempty] at hnone
    exact absurd hnone hfree

theorem safety_stage (hc : c = cmdOf 0x48 src d s) (h : Accepted 0x48 src d s) (hbad : scBad c s = false)
    (hsub : c.f 8 0 2 = 0) (hheld : s.hdg.selfHeld = false) :
    Begins 0x48 src d s [.free, .dma, .hdg, .jobs]
      (fun t => t.jobs.any (fun j => j.cmd == c && j.toBuf) = true ∧
        (t.hdg = s.hdg ∨ t.hdg = { s.hdg with staged := none }) ∧
        (s.jobs = [] → freeCh 8 29 s ≠ none → t.hdg = { s.hdg with staged := none }))
      (exec (.safetyCommit src d) s) := by
  subst hc
  have hhdg : (opened 0x48 src d s).hdg = s.hdg := keeps_opened 0x48 src d s .hdg (by decide)
  have hrun : safetyBody.run (cmdOf 0x48 src d s) (opened 0x48 src d s) =
      askTransfer (cmdJob (cmdOf 0x48 src d s) (lineXfer ((cmdOf 0x48 src d s).f 16 0 64)
        ((cmdOf 0x48 src d s).b 8 2) Env.blockBytes 0 false Env.blockBytes Env.blockBytes 1) true)
        (opened 0x48 src d s) := by
    unfold safetyBody
    dsimp only
    rw [if_pos hsub, hhdg, hheld, if_neg Bool.false_ne_true]
  obtain ⟨hkeep, hor, hempty⟩ := hdg_askTransfer (j := cmdJob (cmdOf 0x48 src d s)
    (lineXfer ((cmdOf 0x48 src d s).f 16 0 64) ((cmdOf 0x48 src d s).b 8 2) Env.blockBytes 0 false Env.blockBytes
      Env.blockBytes 1) true) rfl (cmdOf_opcode src d s (by decide)) (opened 0x48 src d s)
  rw [hhdg] at hor hempty
  refine begins_of h (firstFail_single hbad) hrun hkeep rfl (by decide) ⟨job_any fun _ => ?_, hor, fun hj hfree => ?_⟩
  · show (cmdOf 0x48 src d s == cmdOf 0x48 src d s && true) = true
    rw [beq_self_eq_true]
    rfl
  · refine hempty ((keeps_opened 0x48 src d s .jobs (by decide)).trans hj) ?_
    obtain ⟨x, hx⟩ := opened_eq 0x48 src d s
    rw [hx]
    exact hfree

/-- The right value for a staged block is a confirmation, which waits (R246). -/
theorem confirmBlock_staged {u : State} {b : List Byte} (h : u.hdg.staged = some b) (c : Cmd) : ∃ old : List Cmd,
    confirmBlock u.hdg.stagedCrc (some c) u =
      (none, { u with hdg.confirmed := some ⟨b, u.hdg.stagedCrc, old ++ [c]⟩ }) := by
  unfold confirmBlock
  rw [h]
  exact ⟨_, if_neg (not_not_intro rfl)⟩

theorem safety_confirm {b : List Byte} (hc : c = cmdOf 0x48 src d s) (h : Accepted 0x48 src d s)
    (hsub : c.f 8 0 2 = 1) (hstaged : s.hdg.staged = some b)
    (hcrc : BitVec.ofNat 32 (c.f 24 0 32) = s.hdg.stagedCrc) :
    Begins 0x48 src d s [.hdg]
      (fun t => t.hdg.commitCrc = s.hdg.stagedCrc ∧ t.hdg.active = s.hdg.active ∧
        ∃ k, t.hdg.confirmed = some k ∧ k.block = b ∧ k.crc = s.hdg.stagedCrc ∧ c ∈ k.cmds)
      (exec (.safetyCommit src d) s) := by
  subst hc
  have hhdg : (opened 0x48 src d s).hdg = s.hdg := keeps_opened 0x48 src d s .hdg (by decide)
  have hbad : scBad (cmdOf 0x48 src d s) (begun 0x48 src d s) = false := by
    unfold scBad
    rw [hsub]
    rfl
  have hset : ({ opened 0x48 src d s with hdg.commitCrc := s.hdg.stagedCrc } : State).hdg =
      { s.hdg with commitCrc := s.hdg.stagedCrc } := by rw [← hhdg]
  have hkeep : Keeps [.hdg] (opened 0x48 src d s) { opened 0x48 src d s with hdg.commitCrc := s.hdg.stagedCrc } :=
    keeps_mk (keeps_refl _ _)
  have hrun : safetyBody.run (cmdOf 0x48 src d s) (opened 0x48 src d s) =
      match (confirmBlock s.hdg.stagedCrc (some (cmdOf 0x48 src d s))
        { opened 0x48 src d s with hdg.commitCrc := s.hdg.stagedCrc }).1 with
      | some st => complete (cmdOf 0x48 src d s) st 0 0 (confirmBlock s.hdg.stagedCrc
        (some (cmdOf 0x48 src d s)) { opened 0x48 src d s with hdg.commitCrc := s.hdg.stagedCrc }).2
      | none => (confirmBlock s.hdg.stagedCrc (some (cmdOf 0x48 src d s))
        { opened 0x48 src d s with hdg.commitCrc := s.hdg.stagedCrc }).2 := by
    unfold safetyBody
    dsimp only
    rw [if_neg (by rw [hsub]; decide), hcrc] <;> rfl
  generalize ({ opened 0x48 src d s with hdg.commitCrc := s.hdg.stagedCrc } : State) = u at hset hkeep hrun
  obtain ⟨old, hconfirm⟩ := confirmBlock_staged (u := u) (b := b) (by rw [hset]; exact hstaged) (cmdOf 0x48 src d s)
  rw [show u.hdg.stagedCrc = s.hdg.stagedCrc by rw [hset]] at hconfirm
  rw [hconfirm] at hrun
  refine begins_of (t := { u with
      hdg.confirmed := some ⟨b, s.hdg.stagedCrc, old ++ [cmdOf 0x48 src d s]⟩ })
    h (firstFail_single hbad) hrun (m := [.hdg]) (keeps_mk hkeep) rfl (by decide)
    ⟨?_, ?_, _, rfl, rfl, rfl, List.mem_append_right _ (List.mem_singleton_self _)⟩
  · exact congrArg Hedge.commitCrc hset
  · exact Eq.trans (b := u.hdg.active) rfl (by rw [hset])

/-! SAFE_TEST. -/

/-- The test that an accepted SAFE_TEST asks for. -/
def askedTest (c : Cmd) (now : Nat) : SafeTest :=
  { cmd := c, test := c.f 8 0 2, begun := true, passA := none, passB := none, since := now }

/-- A test that may begin begins at once (R236). -/
theorem safeTest_begins {u : State} (htest : u.hdg.test = none) (hoff : c.f 8 0 2 = 1 → drivesOff u = true)
    (hquiet : testRuns u = false) : safeTestBody.run c u =
      (if c.f 8 0 2 = 0 then startPulse false else if c.f 8 0 2 = 1 then startDisc false false true false
        else sendOverride) { u with hdg.test := some (askedTest c u.now) } := by
  have hoff' : ¬ (c.f 8 0 2 = 1 ∧ (!drivesOff u) = true) := fun hbad => by
    rw [hoff hbad.1] at hbad
    exact absurd hbad.2 Bool.false_ne_true
  have hquiet' : ¬ (false || testRuns u) = true := by
    rw [hquiet]
    exact Bool.false_ne_true
  refine (if_neg hoff').trans ((if_neg hquiet').trans ?_)
  split
  · rfl
  · split <;> rfl

/-- SAFE_TEST passes its checks where its test may begin (R236). -/
theorem safeTest_checked (hlow : c.f 8 0 2 = 2 → s.hdg.commissionLow = true)
    (hin : c.f 8 0 2 = 0 → s.hdg.active.isSome = true ∧ Env.safeinMode s.hdg.env = true)
    (hoff : c.f 8 0 2 = 1 → drivesOff s = true ∧ disconnected s = false) (hsub : c.f 8 0 2 ≠ 3)
    (hheld : s.hdg.selfHeld = false) (htest : s.hdg.test = none) : safeTestBody.check c s = none := by
  have h2 : (c.f 8 0 2 == 2 && !s.hdg.commissionLow) = false := by
    by_cases h : c.f 8 0 2 = 2
    · rw [hlow h, Bool.not_true, Bool.and_false]
    · rw [beq_false_of_ne h, Bool.false_and]
  have h0 : (c.f 8 0 2 == 0 && (s.hdg.active.isNone || !Env.safeinMode s.hdg.env)) = false := by
    by_cases h : c.f 8 0 2 = 0
    · obtain ⟨hactive, hmode⟩ := hin h
      rw [hmode, Option.isNone_eq_false_iff.mpr hactive, Bool.not_true, Bool.or_false, Bool.and_false]
    · rw [beq_false_of_ne h, Bool.false_and]
  have h1 : (c.f 8 0 2 == 1 && !drivesOff s) = false ∧ (c.f 8 0 2 == 1 && disconnected s) = false := by
    by_cases h : c.f 8 0 2 = 1
    · obtain ⟨hdrives, hdisc⟩ := hoff h
      rw [hdrives, hdisc, Bool.not_true, Bool.and_false]
      exact ⟨rfl, rfl⟩
    · rw [beq_false_of_ne h, Bool.false_and, Bool.false_and]
      exact ⟨rfl, rfl⟩
  refine firstFail_cons h2 (firstFail_cons h0 (firstFail_cons h1.1 (firstFail_cons (beq_false_of_ne hsub)
    (firstFail_cons hheld (firstFail_single ?_)))))
  rw [htest, h1.2]
  rfl

/-- The state with the test of an accepted SAFE_TEST. -/
theorem opened_testRuns (hquiet : testRuns s = false) : testRuns (opened 0x49 src d s) = false := by
  obtain ⟨x, hx⟩ := opened_eq 0x49 src d s
  rw [hx]
  exact hquiet

theorem safeTest_path (hc : c = cmdOf 0x49 src d s) (h : Accepted 0x49 src d s) (hsub : c.f 8 0 2 = 2)
    (hlow : s.hdg.commissionLow = true) (hheld : s.hdg.selfHeld = false) (htest : s.hdg.test = none)
    (hquiet : testRuns s = false) :
    Begins 0x49 src d s [.hdg, .link, .out]
      (fun t => ∃ x, t.hdg = { s.hdg with test := some x } ∧ x.cmd = c ∧ x.test = 2 ∧ x.begun = true)
      (exec (.safeTest src d) s) := by
  subst hc
  have hhdg : (opened 0x49 src d s).hdg = s.hdg := keeps_opened 0x49 src d s .hdg (by decide)
  have hrun := safeTest_begins (c := cmdOf 0x49 src d s) (u := opened 0x49 src d s) (by rw [hhdg]; exact htest)
    (fun h => absurd (hsub.symm.trans h) (by decide)) (opened_testRuns hquiet)
  rw [if_neg (by rw [hsub]; decide), if_neg (by rw [hsub]; decide)] at hrun
  refine begins_of h (safeTest_checked (fun _ => hlow) (fun h => absurd (hsub.symm.trans h) (by decide))
    (fun h => absurd (hsub.symm.trans h) (by decide)) (by rw [hsub]; decide) hheld htest) hrun
    (m := [.hdg, .out, .link, .yok]) (keeps_step (keeps_sendOverride _) rfl (keeps_mk (keeps_refl _ _))) rfl
    (by decide) ⟨askedTest (cmdOf 0x49 src d s) (opened 0x49 src d s).now, ?_, rfl, hsub, rfl⟩
  rw [keeps_sendOverride _ .hdg (by decide), ← hhdg]

theorem safeTest_inputs (hc : c = cmdOf 0x49 src d s) (h : Accepted 0x49 src d s) (hsub : c.f 8 0 2 = 0)
    (hactive : s.hdg.active.isSome = true) (hmode : Env.safeinMode s.hdg.env = true)
    (hheld : s.hdg.selfHeld = false) (htest : s.hdg.test = none) (hquiet : testRuns s = false) :
    Begins 0x49 src d s [.hdg]
      (fun t => (∃ x, t.hdg.test = some x ∧ x.cmd = c ∧ x.test = 0 ∧ x.begun = true) ∧
        t.hdg.chA.window = true ∧ t.hdg.chB.window = false)
      (exec (.safeTest src d) s) := by
  subst hc
  have hhdg : (opened 0x49 src d s).hdg = s.hdg := keeps_opened 0x49 src d s .hdg (by decide)
  have hrun := safeTest_begins (c := cmdOf 0x49 src d s) (u := opened 0x49 src d s) (by rw [hhdg]; exact htest)
    (fun h => absurd (hsub.symm.trans h) (by decide)) (opened_testRuns hquiet)
  rw [if_pos hsub] at hrun
  have hwindow : s.hdg.chB.window = false := by
    unfold testRuns at hquiet
    simp only [Bool.or_eq_false_iff] at hquiet
    exact hquiet.1.1.2
  refine begins_of h (safeTest_checked (fun h => absurd (hsub.symm.trans h) (by decide)) (fun _ => ⟨hactive, hmode⟩)
    (fun h => absurd (hsub.symm.trans h) (by decide)) (by rw [hsub]; decide) hheld htest) hrun
    (m := [.hdg]) (keeps_step (keeps_startPulse _ _) rfl (keeps_mk (keeps_refl _ _))) rfl (by decide)
    ⟨⟨askedTest (cmdOf 0x49 src d s) (opened 0x49 src d s).now, rfl, rfl, hsub, rfl⟩, rfl, ?_⟩
  exact Eq.trans (b := (opened 0x49 src d s).hdg.chB.window) rfl (by rw [hhdg]; exact hwindow)

theorem safeTest_disconnect (hc : c = cmdOf 0x49 src d s) (h : Accepted 0x49 src d s) (hsub : c.f 8 0 2 = 1)
    (hoff : drivesOff s = true) (hdisc : disconnected s = false) (hheld : s.hdg.selfHeld = false)
    (htest : s.hdg.test = none) (hquiet : testRuns s = false) :
    Begins 0x49 src d s [.hdg]
      (fun t => (∃ x, t.hdg.test = some x ∧ x.cmd = c ∧ x.test = 1 ∧ x.begun = true) ∧
        ∃ y, t.hdg.disc = some y ∧ y.second = false ∧ y.asserted = true ∧ y.requested = true)
      (exec (.safeTest src d) s) := by
  subst hc
  have hhdg : (opened 0x49 src d s).hdg = s.hdg := keeps_opened 0x49 src d s .hdg (by decide)
  have hdrives : drivesOff (opened 0x49 src d s) = true := by
    obtain ⟨x, hx⟩ := opened_eq 0x49 src d s
    rw [hx]
    exact hoff
  have hrun := safeTest_begins (c := cmdOf 0x49 src d s) (u := opened 0x49 src d s) (by rw [hhdg]; exact htest)
    (fun _ => hdrives) (opened_testRuns hquiet)
  rw [if_neg (by rw [hsub]; decide), if_pos hsub] at hrun
  exact begins_of h (safeTest_checked (fun h => absurd (hsub.symm.trans h) (by decide))
    (fun h => absurd (hsub.symm.trans h) (by decide)) (fun _ => ⟨hoff, hdisc⟩) (by rw [hsub]; decide) hheld htest)
    hrun (m := [.hdg]) (keeps_step (keeps_startDisc _ _ _ _ _) rfl (keeps_mk (keeps_refl _ _))) rfl (by decide)
    ⟨⟨askedTest (cmdOf 0x49 src d s) (opened 0x49 src d s).now, rfl, rfl, hsub, rfl⟩, _, rfl, rfl, rfl, rfl⟩

/-! FW_STAGE and FW_ACTIVATE. -/

theorem fw_stage (hc : c = cmdOf 0x50 src d s) (h : Accepted 0x50 src d s) (halign : c.f 16 0 64 % 8 = 0)
    (hleast : 1024 ≤ c.f 24 0 32) (hmost : c.f 24 0 32 ≤ slotBytes) (hhost : c.b 8 0 = false)
    (hstage : s.boot.stage = none) :
    Begins 0x50 src d s [.free, .dma, .boot, .jobs]
      (fun t => (∃ x, t.boot = { s.boot with stage := some x } ∧ x.cmd = c ∧ x.slot = !s.boot.slot) ∧
        t.jobs.any (fun j => j.cmd == c && j.toBuf) = true)
      (exec (.fwStage src d) s) := by
  subst hc
  have hboot : (opened 0x50 src d s).boot = s.boot := keeps_opened 0x50 src d s .boot (by decide)
  have hcheck : fwStageBody.check (cmdOf 0x50 src d s) (begun 0x50 src d s) = none := by
    refine firstFail_cons ?_ (firstFail_single (congrArg Option.isSome hstage))
    rw [halign, hhost, decide_eq_false (by omega), decide_eq_false (by omega)]
    rfl
  have hrun : fwStageBody.run (cmdOf 0x50 src d s) (opened 0x50 src d s) =
      askTransfer (cmdJob (cmdOf 0x50 src d s) (lineXfer ((cmdOf 0x50 src d s).f 16 0 64)
        ((cmdOf 0x50 src d s).b 8 0) ((cmdOf 0x50 src d s).f 24 0 32) 0 false ((cmdOf 0x50 src d s).f 24 0 32)
        ((cmdOf 0x50 src d s).f 24 0 32) 1) true)
        { opened 0x50 src d s with
          boot := { (opened 0x50 src d s).boot with
            stage := some ⟨cmdOf 0x50 src d s, !(opened 0x50 src d s).boot.slot, 0, 0, []⟩ } } := rfl
  rw [hboot] at hrun
  have hkeep : Keeps [.boot] (opened 0x50 src d s) { opened 0x50 src d s with
      boot := { s.boot with stage := some ⟨cmdOf 0x50 src d s, !s.boot.slot, 0, 0, []⟩ } } :=
    keeps_mk (keeps_refl _ _)
  refine begins_of h hcheck hrun (m := [.free, .dma, .boot, .jobs]) (keeps_step (keeps_askTransfer_line rfl ?_ _) rfl
    (keeps_mono hkeep rfl)) rfl (by decide) ⟨⟨_, keeps_askTransfer _ _ .boot (by decide), rfl, rfl⟩, job_any fun _ => ?_⟩
  · show (cmdOf 0x50 src d s).opcode ≠ 0x48
    rw [cmdOf_opcode src d s (by decide)]
    decide
  · show (cmdOf 0x50 src d s == cmdOf 0x50 src d s && true) = true
    rw [beq_self_eq_true]
    rfl

theorem fw_activate (hc : c = cmdOf 0x51 src d s) (h : Accepted 0x51 src d s) (hstage : s.boot.stage = none)
    (hvalid : (otherSlot s).valid = true) (hgen : (ownSlot s).gen < (otherSlot s).gen) :
    Answers (exec (.fwActivate src d) s) fun t =>
      t.pwr.state = .lightHold ∧ t.pwr.cores.up = false ∧ t.pwr.cores.activating = some (c.b 8 0) := by
  subst hc
  have hcheck : fwActivateBody.check (cmdOf 0x51 src d s) (begun 0x51 src d s) = none := by
    refine firstFail_cons (congrArg Option.isSome hstage) (firstFail_single ?_)
    change (!(otherSlot s).valid || decide ((otherSlot s).gen ≤ (ownSlot s).gen)) = false
    rw [hvalid, decide_eq_false (by omega)]
    rfl
  refine answers_of_eq (congrArg Host.Outcome.next (runRow_opened (b := fwActivateBody) h hcheck)) ?_
  unfold fwActivateBody
  dsimp only
  rw [pwr_enterHold]
  exact ⟨rfl, rfl, rfl⟩

/-! TEST_RUN and MARCH_RUN. -/

theorem testRun_checked (hstate : s.pwr.state = .run ∨ s.pwr.state = .dim) (hbad : testBad c s = false)
    (hjob : s.tst.job = none) (hdisturb : testDisturbs c s = true → c.b 8 4 = true) (hport : testOwnPort c = false)
    (htarget : testTargetOk c s = true) : testRunBody.check c s = none := by
  have hrun : (!(s.pwr.state == .run || s.pwr.state == .dim)) = false := by
    obtain h | h := hstate <;> rw [h] <;> rfl
  have hmay : (testDisturbs c s && !c.b 8 4) = false := by
    cases hd : testDisturbs c s with
    | false => rfl
    | true => rw [hdisturb hd]; rfl
  exact firstFail_cons hrun (firstFail_cons hbad (firstFail_cons (congrArg Option.isSome hjob)
    (firstFail_cons hmay (firstFail_cons hport (firstFail_single (congrArg (!·) htarget))))))

/-- The run that TEST_RUN begins (R532). -/
def testStarted (j : TestJob) (s : State) : State :=
  { s with tst.job := some j, tst.test := j.test, tst.target := j.target, tst.run := bump 65535 1 s.tst.run }

/-- The job of a TEST_RUN in a phase. -/
def testJobOf (c : Cmd) (phase : TestPhase) (now : Nat) : TestJob :=
  { cmd := c, test := c.f 8 0 4, target := c.f 9 0 5, depth := c.f 10 0 3, slot := c.f 10 4 2, count := c.f 12 0 32
    addr := c.f 16 0 32, phase := phase, since := now }

/-- The phase that each test begins in. -/
def testPhaseOf (k count : Nat) : TestPhase := match k with
  | 0 | 1 => .latch
  | 2 => .frames count 0 none
  | 3 => .pix 0
  | _ => .rail none 0

/-- The state and the job of an accepted TEST_RUN. -/
def testOf (c : Cmd) (k : Nat) (s : State) : State := testStarted (testJobOf c (testPhaseOf k (c.f 12 0 32)) s.now) s

/-- How test k goes on once its run has begun. -/
def testGoesOn (c : Cmd) (k : Nat) (s : State) : State := match k with
  | 2 => loopRead (testJobOf c (testPhaseOf k (c.f 12 0 32)) s.now)
      (ethLinkLost (if c.f 9 0 5 = 1 then 1 else 0) (testOf c k s))
  | 4 => endRun stSuccess 0 1 (noteInsertion (eccInsert (c.f 16 0 32 / 8) (c.f 11 0 2) (testOf c k s)))
  | _ => testOf c k s

theorem testRun_eq {k : Nat} (h : c.f 8 0 4 = k) : testRunBody.run c s = testGoesOn c k s := by
  subst h
  rfl

theorem testRun_inserts (h : c.f 8 0 4 = 4) : testRunBody.run c s =
    endRun stSuccess 0 1 (noteInsertion (eccInsert (c.f 16 0 32 / 8) (c.f 11 0 2) (testOf c 4 s))) := testRun_eq h

theorem testRun_reads (h : c.f 8 0 4 = 2) : testRunBody.run c s =
    loopRead (testJobOf c (testPhaseOf 2 (c.f 12 0 32)) s.now)
      (ethLinkLost (if c.f 9 0 5 = 1 then 1 else 0) (testOf c 2 s)) := testRun_eq h

theorem testRun_waits {k : Nat} (h : c.f 8 0 4 = k) (hk : k = 0 ∨ k = 1 ∨ k = 3 ∨ k = 5) :
    testRunBody.run c s = testOf c k s := by
  rw [testRun_eq h]
  obtain rfl | rfl | rfl | rfl := hk <;> rfl

theorem test_run (hc : c = cmdOf 0x68 src d s) (h : Accepted 0x68 src d s)
    (hstate : s.pwr.state = .run ∨ s.pwr.state = .dim) (hbad : testBad c s = false) (hjob : s.tst.job = none)
    (hdisturb : testDisturbs c s = true → c.b 8 4 = true) (hport : testOwnPort c = false)
    (htarget : testTargetOk c s = true) (hk : c.f 8 0 4 = 0 ∨ c.f 8 0 4 = 1 ∨ c.f 8 0 4 = 3 ∨ c.f 8 0 4 = 5) :
    Begins 0x68 src d s [.tst]
      (fun t => t.tst.run = bump 65535 1 s.tst.run ∧ t.tst.test = c.f 8 0 4 ∧ t.tst.target = c.f 9 0 5 ∧
        ∃ j, t.tst.job = some j ∧ j.cmd = c ∧ j.test = c.f 8 0 4 ∧ j.count = c.f 12 0 32)
      (exec (.testRun src d) s) := by
  subst hc
  have htst : (opened 0x68 src d s).tst = s.tst := keeps_opened 0x68 src d s .tst (by decide)
  refine begins_of (b := testRunBody) (m := [.tst]) h (testRun_checked hstate hbad hjob hdisturb hport htarget)
    (testRun_waits rfl hk) (keeps_mk (keeps_refl _ _)) rfl (by decide) ⟨?_, rfl, rfl, _, rfl, rfl, rfl, rfl⟩
  exact Eq.trans (b := bump 65535 1 (opened 0x68 src d s).tst.run) rfl (by rw [htst])

theorem markOf_putMark (l : List (Nat × Mark)) (w : Nat) (m : Mark) :
    ((putMark l w (some m)).find? fun x => x.1 == w).map Prod.snd = some m := by
  have hbelow : (l.filter fun x => decide (x.1 < w)).find? (fun x => x.1 == w) = none := by
    refine List.find?_eq_none.mpr fun x hx => ?_
    have := (List.mem_filter.mp hx).2
    simp at this ⊢
    omega
  unfold putMark
  rw [List.find?_append, List.find?_append, hbelow]
  simp

/-- The insertion into a word without an error (R538). -/
theorem eccInsert_new {w : Nat} (bits : Nat) {u : State} (h : markOf u w = none) : eccInsert w bits u =
    { u with grn.marks := putMark u.grn.marks w (some (if bits = 2 then .double else .single)) } := by
  unfold eccInsert
  rw [h]

/-- A run that ends well is counted by its start alone, and leaves the Granary (R532). -/
theorem run_ended (u : State) (h : u.tst.job.isSome = true) :
    (endRun stSuccess 0 1 u).tst.run = u.tst.run ∧ (endRun stSuccess 0 1 u).tst.job = none ∧
      (endRun stSuccess 0 1 u).grn = u.grn := by
  obtain ⟨j, hj⟩ := Option.isSome_iff_exists.mp h
  unfold endRun
  rw [hj]
  dsimp only
  rw [if_neg (c := stSuccess = 0x01D0#16) (by decide), keeps_complete _ _ _ _ _ .tst (by decide),
    grn_of_keeps (keeps_complete _ _ _ _ _) (by decide) (by decide)]
  exact ⟨rfl, rfl, rfl⟩

theorem ecc_insert (hc : c = cmdOf 0x68 src d s) (h : Accepted 0x68 src d s)
    (hstate : s.pwr.state = .run ∨ s.pwr.state = .dim) (hbad : testBad c s = false) (hjob : s.tst.job = none)
    (hdisturb : testDisturbs c s = true → c.b 8 4 = true) (hk : c.f 8 0 4 = 4)
    (hmark : markOf s (c.f 16 0 32 / 8) = none) :
    Answers (exec (.testRun src d) s) fun t =>
      t.tst.run = bump 65535 1 s.tst.run ∧ t.tst.job = none ∧
      markOf t (c.f 16 0 32 / 8) = some (if c.f 11 0 2 = 2 then .double else .single) := by
  subst hc
  have hport : testOwnPort (cmdOf 0x68 src d s) = false := by
    unfold testOwnPort
    rw [hk]
    split <;> rfl
  have htarget : testTargetOk (cmdOf 0x68 src d s) (begun 0x68 src d s) = true := by
    unfold testTargetOk
    rw [hk]
    rfl
  have htst : (opened 0x68 src d s).tst = s.tst := keeps_opened 0x68 src d s .tst (by decide)
  have hopen : markOf (testOf (cmdOf 0x68 src d s) 4 (opened 0x68 src d s)) ((cmdOf 0x68 src d s).f 16 0 32 / 8) =
      none := by
    obtain ⟨x, hx⟩ := opened_eq 0x68 src d s
    rw [hx]
    exact hmark
  have hrun : (testOf (cmdOf 0x68 src d s) 4 (opened 0x68 src d s)).tst.run = bump 65535 1 s.tst.run :=
    Eq.trans (b := bump 65535 1 (opened 0x68 src d s).tst.run) rfl (by rw [htst])
  have hjobs : (testOf (cmdOf 0x68 src d s) 4 (opened 0x68 src d s)).tst.job.isSome = true := rfl
  refine answers_of_eq (congrArg Host.Outcome.next ((runRow_opened (b := testRunBody) h
    (testRun_checked hstate hbad hjob hdisturb hport htarget)).trans (testRun_inserts hk))) ?_
  generalize testOf (cmdOf 0x68 src d s) 4 (opened 0x68 src d s) = u at hopen hrun hjobs ⊢
  obtain ⟨htests, hjobs', hgrn⟩ := run_ended (noteInsertion (eccInsert ((cmdOf 0x68 src d s).f 16 0 32 / 8)
    ((cmdOf 0x68 src d s).f 11 0 2) u)) (by rw [eccInsert_new _ hopen]; exact hjobs)
  rw [htests, hjobs', markOf, hgrn, eccInsert_new _ hopen]
  exact ⟨hrun, rfl, markOf_putMark _ _ _⟩

theorem eth_loop (hc : c = cmdOf 0x68 src d s) (h : Accepted 0x68 src d s)
    (hstate : s.pwr.state = .run ∨ s.pwr.state = .dim) (hbad : testBad c s = false) (hjob : s.tst.job = none)
    (hport : testOwnPort c = false) (htarget : testTargetOk c s = true) (hk : c.f 8 0 4 = 2) :
    Answers (exec (.testRun src d) s) fun t =>
      t.tst.run = bump 65535 1 s.tst.run ∧ t.jobs.any (fun j => j.cmd == c && j.toBuf) = true ∧
      ∃ j, t.tst.job = some j ∧ j.cmd = c ∧ j.phase = .frames (c.f 12 0 32) 0 none := by
  subst hc
  have hdisturb : testDisturbs (cmdOf 0x68 src d s) (begun 0x68 src d s) = true → (cmdOf 0x68 src d s).b 8 4 = true := by
    unfold testDisturbs
    rw [hk]
    exact fun hd => absurd hd Bool.false_ne_true
  have htst : (opened 0x68 src d s).tst = s.tst := keeps_opened 0x68 src d s .tst (by decide)
  refine answers_of_eq (congrArg Host.Outcome.next ((runRow_opened (b := testRunBody) h
    (testRun_checked hstate hbad hjob hdisturb hport htarget)).trans (testRun_reads hk))) ?_
  have hrun : (testOf (cmdOf 0x68 src d s) 2 (opened 0x68 src d s)).tst.run = bump 65535 1 s.tst.run :=
    Eq.trans (b := bump 65535 1 (opened 0x68 src d s).tst.run) rfl (by rw [htst])
  have hjobs : (testOf (cmdOf 0x68 src d s) 2 (opened 0x68 src d s)).tst.job =
      some (testJobOf (cmdOf 0x68 src d s) (.frames ((cmdOf 0x68 src d s).f 12 0 32) 0 none)
        (opened 0x68 src d s).now) := rfl
  generalize testOf (cmdOf 0x68 src d s) 2 (opened 0x68 src d s) = u at hrun hjobs ⊢
  rw [keeps_loopRead _ _ .tst (by decide), keeps_ethLinkLost _ _ .tst (by decide), hrun, hjobs]
  refine ⟨rfl, job_any fun _ => ?_, _, rfl, rfl, rfl⟩
  show (cmdOf 0x68 src d s == cmdOf 0x68 src d s && true) = true
  rw [beq_self_eq_true]
  rfl

theorem march_run (hc : c = cmdOf 0x69 src d s) (h : Accepted 0x69 src d s) (hstart : c.f 8 0 32 % 256 = 0)
    (hlength : c.f 12 0 32 % 256 = 0) (hleast : 256 ≤ c.f 12 0 32) (hmost : c.f 8 0 32 + c.f 12 0 32 ≤ grnSize)
    (hmode : c.f 16 0 2 = 0) (hmarch : s.grn.march = none) :
    Begins 0x69 src d s [.grn, .marchCmd]
      (fun t => t.marchCmd = some c ∧ ∃ m, t.grn.march = some m ∧ m.start = c.f 8 0 32 ∧
        m.length = c.f 12 0 32 ∧ m.destructive = false ∧ m.done = 0)
      (exec (.marchRun src d) s) := by
  subst hc
  refine begins_of (b := marchBody) (m := [.grn, .marchCmd]) h ?_ rfl (keeps_mk (keeps_refl _ _)) rfl (by decide)
    ⟨rfl, _, rfl, rfl, rfl, ?_, rfl⟩
  · refine firstFail_cons ?_ (firstFail_cons ?_ (firstFail_single (congrArg Option.isSome hmarch)))
    · rw [hstart, hlength, hmode, decide_eq_false (by omega), decide_eq_false (by omega)]
      rfl
    · rw [hmode]
      rfl
  · show ((cmdOf 0x69 src d s).f 16 0 2 == 1) = false
    rw [hmode]
    rfl

/-- Settles O32, one lemma for each form of the commands. -/
theorem serviceCommands : Obligations.ServiceCommands :=
  ⟨fun _ _ _ _ => safety_stage, fun _ _ _ _ _ => safety_confirm, fun _ _ _ _ => safeTest_path,
    fun _ _ _ _ => safeTest_inputs, fun _ _ _ _ => safeTest_disconnect, fun _ _ _ _ => fw_stage,
    fun _ _ _ _ => fw_activate, fun _ _ _ _ => test_run, fun _ _ _ _ => ecc_insert, fun _ _ _ _ => eth_loop,
    fun _ _ _ _ => march_run⟩

end Sys2Proof.Proofs
end

section
/-!
SUPPORT. O33: the commands of faults and of the yoke, and the collection of faults.
-/

namespace Sys2Proof.Proofs

set_option Elab.async false

open Sys2Proof Sys2Proof.Machine Sys2Proof.Safety Sys2Proof.Laws

variable {src : Src} {d : Desc} {s : State} {c : Cmd}

theorem group_modGroup (g : Nat) (b : Bool) (f : Counting → Counting) (s : State) (k : Fin 64) :
    (modGroup g b f s).rve.group[k] = if k.val = g then (s.rve.group[k]).upd b f else s.rve.group[k] :=
  getElem_updN _ _ _ _

/-! FAULT_ACK. -/

/-- What FAULT_ACK makes of a group x that it names and whose level has gone (R438). -/
structure Acked (injOnly : Bool) (x y : Group) : Prop where
  held : y.inj.held = none
  window : y.inj.winOpen = false
  real : injOnly = false → y.real.held = none ∧ y.real.winOpen = false
  kept : injOnly = true → y.real = x.real

/-- The variables of a copy after FAULT_ACK (R438). -/
def ackCopy (resetRec : Bool) (c : Counting) : Counting :=
  let c := { c with held := none, winOpen := false }
  if resetRec then { c with rec' := 0, latched := false } else c

theorem ackCopy_ends (r : Bool) (c : Counting) : (ackCopy r c).held = none ∧ (ackCopy r c).winOpen = false := by
  cases r <;> exact ⟨rfl, rfl⟩

/-- The variables of a group after FAULT_ACK. -/
def ackOf (r i : Bool) (x : Group) : Group :=
  { x with inj := ackCopy r x.inj, real := if i then x.real else ackCopy r x.real }

theorem group_ackGroup (g : Nat) (r i : Bool) (s : State) (k : Fin 64) :
    (ackGroup g r i s).rve.group[k] = if k.val = g then ackOf r i s.rve.group[k] else s.rve.group[k] := by
  have hinj := group_modGroup g true (ackCopy r) s k
  have hreal := group_modGroup g false (ackCopy r) (modGroup g true (ackCopy r) s) k
  have heq : ackGroup g r i s = if i then modGroup g true (ackCopy r) s else
      { modGroup g false (ackCopy r) (modGroup g true (ackCopy r) s) with
        rve.note := (modGroup g true (ackCopy r) s).rve.note &&& ~~~ BitVec.ofNat 64 (2 ^ g) } := rfl
  rw [heq]
  cases i with
  | true =>
    rw [if_pos rfl, hinj]
    rfl
  | false =>
    rw [if_neg Bool.false_ne_true]
    change (modGroup g false (ackCopy r) (modGroup g true (ackCopy r) s)).rve.group[k] = _
    rw [hreal, hinj]
    split <;> rfl

theorem acked_ackOf (r i : Bool) (x : Group) : Acked i x (ackOf r i x) where
  held := (ackCopy_ends r x.inj).1
  window := (ackCopy_ends r x.inj).2
  real := fun h => by
    rw [ackOf, h]
    exact ackCopy_ends r x.real
  kept := fun h => by
    rw [ackOf, h]
    rfl

theorem Acked.again {i : Bool} {x y : Group} (r : Bool) (h : Acked i x y) : Acked i x (ackOf r i y) where
  held := (ackCopy_ends r y.inj).1
  window := (ackCopy_ends r y.inj).2
  real := (acked_ackOf r i y).real
  kept := fun hi => ((acked_ackOf r i y).kept hi).trans (h.kept hi)

theorem acked_foldl (r i : Bool) (x : Group) (k : Fin 64) (l : List Nat) : ∀ s : State,
    (Acked i x s.rve.group[k] ∨ s.rve.group[k] = x ∧ k.val ∈ l) →
    Acked i x (l.foldl (fun s g => ackGroup g r i s) s).rve.group[k] := by
  induction l with
  | nil => exact fun s h => h.resolve_right fun h => List.not_mem_nil h.2
  | cons g l ih =>
    intro s h
    rw [List.foldl_cons]
    refine ih _ ?_
    rw [group_ackGroup]
    by_cases hg : k.val = g
    · rw [if_pos hg]
      exact .inl (h.elim (fun h => h.again r) fun h => by rw [h.1]; exact acked_ackOf r i x)
    · rw [if_neg hg]
      exact h.imp_right fun h => ⟨h.1, (List.mem_cons.mp h.2).resolve_left hg⟩

theorem unacked_foldl (r i : Bool) (k : Fin 64) (l : List Nat) (hk : k.val ∉ l) : ∀ s : State,
    (l.foldl (fun s g => ackGroup g r i s) s).rve.group[k] = s.rve.group[k] := by
  induction l with
  | nil => exact fun s => rfl
  | cons g l ih =>
    intro s
    rw [List.foldl_cons, ih fun h => hk (List.mem_cons_of_mem _ h), group_ackGroup,
      if_neg fun (h : k.val = g) => hk (h ▸ List.mem_cons_self)]

/-- FAULT_ACK of groups leaves the log and RVE_CRIT, and every part but the Reeve. -/
theorem ackGroups_rest (r i : Bool) (l : List Nat) (s : State) :
    Keeps [.rve] s (l.foldl (fun s g => ackGroup g r i s) s) ∧
      (l.foldl (fun s g => ackGroup g r i s) s).rve.log = s.rve.log ∧
      (l.foldl (fun s g => ackGroup g r i s) s).rve.crit = s.rve.crit := by
  induction l generalizing s with
  | nil => exact ⟨keeps_refl _ _, rfl, rfl⟩
  | cons g l ih =>
    rw [List.foldl_cons]
    have hone : (ackGroup g r i s).rve.log = s.rve.log ∧ (ackGroup g r i s).rve.crit = s.rve.crit := by
      cases i <;> exact ⟨rfl, rfl⟩
    obtain ⟨hkeep, hlog, hcrit⟩ := ih (ackGroup g r i s)
    exact ⟨keeps_trans (keeps_ackGroup _ _ _ _) hkeep, hlog.trans hone.1, hcrit.trans hone.2⟩

/-- The groups that a FAULT_ACK names, but for those whose level stands (R438). -/
def ackedGroups (c : Cmd) (s : State) : List Nat :=
  ((List.range 64).filter fun g => c.b (8 + g / 8) (g % 8)).filter fun g => !levelLine g s

theorem mem_ackedGroups {k : Fin 64} : k.val ∈ ackedGroups c s ↔
    c.b (8 + k.val / 8) (k.val % 8) = true ∧ levelLine k.val s = false := by
  unfold ackedGroups
  rw [List.mem_filter, List.mem_filter, List.mem_range]
  simp

/-- FAULT_ACK of a list of groups. -/
def groupsAcked (r i : Bool) (l : List Nat) (s : State) : State := l.foldl (fun s g => ackGroup g r i s) s

/-- CLEAR_CRIT (R438). -/
def critCleared (b : Bool) (s : State) : State := if b then { s with rve.crit := none } else s

/-- RVE_FIRST ends with the last held class (R437). -/
def firstCleared (s : State) : State := if rveStatus s = 0 then { s with rve.first := none } else s

/-- A FAULT_ACK that does not name the Hedge. -/
theorem faultAck_run (h : c.b 8 0 = false) : ∃ r, faultAckRun c s = finish c stSuccess r
    (firstCleared (critCleared (c.b 16 2) (groupsAcked (c.b 16 0) (c.b 16 1) (ackedGroups c s) s))) := by
  have hzero : (((List.range 64).filter fun g => c.b (8 + g / 8) (g % 8)).contains 0 && !c.b 16 1) = false := by
    have hnot : ((List.range 64).filter fun g => c.b (8 + g / 8) (g % 8)).contains 0 = false := by
      rw [List.contains_iff_mem.not.mpr ?_ |> Bool.eq_false_iff.mpr]
      intro hm
      exact absurd (h.symm.trans (List.mem_filter.mp hm).2) Bool.false_ne_true
    rw [hnot, Bool.false_and]
  unfold faultAckRun
  dsimp only
  rw [hzero, if_neg Bool.false_ne_true]
  exact ⟨_, rfl⟩

theorem firstCleared_spec (u : State) : Keeps [.rve] u (firstCleared u) ∧
    (firstCleared u).rve.log = u.rve.log ∧ (firstCleared u).rve.crit = u.rve.crit ∧
    (firstCleared u).rve.group = u.rve.group := by
  unfold firstCleared
  split
  · exact ⟨keeps_mk (keeps_refl _ _), rfl, rfl, rfl⟩
  · exact ⟨keeps_refl _ _, rfl, rfl, rfl⟩

theorem critCleared_spec (b : Bool) (u : State) : Keeps [.rve] u (critCleared b u) ∧
    (critCleared b u).rve.log = u.rve.log ∧ (critCleared b u).rve.crit = (if b then none else u.rve.crit) ∧
    (critCleared b u).rve.group = u.rve.group := by
  cases b
  · exact ⟨keeps_refl _ _, rfl, rfl, rfl⟩
  · exact ⟨keeps_mk (keeps_refl _ _), rfl, rfl, rfl⟩

/-- The groups of a state o that agrees with s in the Reeve, after FAULT_ACK of a list. -/
theorem groups_acked {o u : State} {r i : Bool} (h : o.rve = s.rve) (l : List Nat)
    (hu : groupsAcked r i l o = u) :
    (∀ g : Fin 64, g.val ∈ l → Acked i s.rve.group[g] u.rve.group[g]) ∧
      (∀ g : Fin 64, g.val ∉ l → u.rve.group[g] = s.rve.group[g]) ∧ Keeps [.rve] o u ∧
      u.rve.log = s.rve.log ∧ u.rve.crit = s.rve.crit := by
  subst hu
  unfold groupsAcked
  obtain ⟨hkeep, hlog, hcrit⟩ := ackGroups_rest r i l o
  have hgroup : ∀ g : Fin 64, o.rve.group[g] = s.rve.group[g] := fun g => by rw [h]
  exact ⟨fun g hg => acked_foldl r i _ g l o (.inr ⟨hgroup g, hg⟩),
    fun g hg => (unacked_foldl r i g l hg o).trans (hgroup g), hkeep, by rw [hlog, h], by rw [hcrit, h]⟩

theorem fault_ack (hc : c = cmdOf 0x60 src d s) (h : Accepted 0x60 src d s) (hhedge : c.b 8 0 = false)
    (hsome : c.f 8 0 64 ≠ 0 ∨ c.b 16 2 = true) :
    ∃ r, Ends 0x60 src d s [.rve] stSuccess r
       (fun u => u.rve.log = s.rve.log ∧ u.rve.crit = (if c.b 16 2 then none else s.rve.crit) ∧
         ∀ g : Fin 64,
           (c.b (8 + g.val / 8) (g.val % 8) = true → levelLine g.val s = false →
             (u.rve.group[g]).inj.held = none ∧ (u.rve.group[g]).inj.winOpen = false ∧
             (c.b 16 1 = false →
               (u.rve.group[g]).real.held = none ∧ (u.rve.group[g]).real.winOpen = false) ∧
             (c.b 16 1 = true → (u.rve.group[g]).real = (s.rve.group[g]).real)) ∧
           (c.b (8 + g.val / 8) (g.val % 8) = false ∨ levelLine g.val s = true →
             u.rve.group[g] = s.rve.group[g]))
       (exec (.faultAck src d) s) := by
  subst hc
  have hcheck : faultAckBody.check (cmdOf 0x60 src d s) (begun 0x60 src d s) = none := by
    refine firstFail_single ?_
    obtain h | h := hsome
    · rw [beq_false_of_ne h, Bool.false_and]
    · rw [h, Bool.not_true, Bool.and_false]
  obtain ⟨r, hrun⟩ := faultAck_run (c := cmdOf 0x60 src d s) (s := opened 0x60 src d s) hhedge
  have hrve : (opened 0x60 src d s).rve = s.rve := keeps_opened 0x60 src d s .rve (by decide)
  have hgroups : ackedGroups (cmdOf 0x60 src d s) (opened 0x60 src d s) = ackedGroups (cmdOf 0x60 src d s) s := by
    obtain ⟨x, hx⟩ := opened_eq 0x60 src d s
    rw [hx]
    rfl
  rw [hgroups] at hrun
  generalize hl : ackedGroups (cmdOf 0x60 src d s) s = l at hrun
  generalize hu : groupsAcked ((cmdOf 0x60 src d s).b 16 0) ((cmdOf 0x60 src d s).b 16 1) l (opened 0x60 src d s) = u
    at hrun
  obtain ⟨hacked, hother, hkeep, hlog, hcrit⟩ := groups_acked hrve l hu
  obtain ⟨kcrit, lcrit, ccrit, gcrit⟩ := critCleared_spec ((cmdOf 0x60 src d s).b 16 2) u
  generalize critCleared ((cmdOf 0x60 src d s).b 16 2) u = v at hrun kcrit lcrit ccrit gcrit
  obtain ⟨kfirst, lfirst, cfirst, gfirst⟩ := firstCleared_spec v
  generalize firstCleared v = w at hrun kfirst lfirst cfirst gfirst
  refine ⟨r, ends_of h hcheck hrun (m := [.rve]) (keeps_trans hkeep (keeps_trans kcrit kfirst)) rfl (by decide) ?_⟩
  refine ⟨?_, ?_, fun g => ⟨fun hnamed hlevel => ?_, fun hnot => ?_⟩⟩
  · rw [lfirst, lcrit, hlog]
  · rw [cfirst, ccrit, hcrit]
  · have hg := hacked g (by rw [← hl]; exact mem_ackedGroups.mpr ⟨hnamed, hlevel⟩)
    rw [gfirst, gcrit]
    exact ⟨hg.held, hg.window, hg.real, hg.kept⟩
  · rw [gfirst, gcrit]
    refine hother g fun hm => ?_
    rw [← hl] at hm
    obtain ⟨hnamed, hlevel⟩ := mem_ackedGroups.mp hm
    obtain hn | hn := hnot
    · exact absurd (hn.symm.trans hnamed) Bool.false_ne_true
    · exact absurd (hlevel.symm.trans hn) Bool.false_ne_true

/-! FAULT_READ, DIAG_INJECT and YOKE_SWITCH. -/

theorem faultRead_checked (hbad : frBad c s = false) (hlog : c.f 8 0 2 = 1 →
    (logAt (BitVec.ofNat 16 (c.f 10 0 16)) s).isNone = false) : faultReadBody.check c s = none := by
  refine firstFail_cons hbad (firstFail_single ?_)
  by_cases h : c.f 8 0 2 = 1
  · rw [hlog h, Bool.and_false]
  · rw [beq_false_of_ne h, Bool.false_and]

theorem frBad_of_ne (h : c.f 8 0 2 ≠ 3) : frBad c s = false := by
  unfold frBad
  rw [beq_false_of_ne h, Bool.false_and]

/-- A FAULT_READ that answers at once changes nothing. -/
theorem faultRead_answers {r : Result} (hc : c = cmdOf 0x61 src d s) (h : Accepted 0x61 src d s)
    (hsub : c.f 8 0 2 ≠ 3)
    (hlog : c.f 8 0 2 = 1 → (logAt (BitVec.ofNat 16 (c.f 10 0 16)) s).isNone = false)
    (hrun : faultReadBody.run c (opened 0x61 src d s) = finish c stSuccess r (opened 0x61 src d s)) :
    Ends 0x61 src d s [] stSuccess r (fun _ => True) (exec (.faultRead src d) s) := by
  subst hc
  exact ends_of (b := faultReadBody) (m := []) h (faultRead_checked (frBad_of_ne hsub) hlog) hrun (keeps_refl _ _)
    rfl (by decide) trivial

theorem faultRead_summary (hc : c = cmdOf 0x61 src d s) (h : Accepted 0x61 src d s) (hsub : c.f 8 0 2 = 0) :
    Ends 0x61 src d s [] stSuccess (resAt 16 (rveStatus s).toNat ||| resAt 24 (rveLatched s).toNat)
      (fun _ => True) (exec (.faultRead src d) s) := by
  refine faultRead_answers hc h (by rw [hsub]; decide) (fun hk => absurd (hsub.symm.trans hk) (by decide)) ?_
  obtain ⟨x, hx⟩ := opened_eq 0x61 src d s
  rw [hx]
  unfold faultReadBody
  dsimp only
  rw [hsub]
  rfl

theorem faultRead_entry {e : LogEntry} (hc : c = cmdOf 0x61 src d s) (h : Accepted 0x61 src d s)
    (hsub : c.f 8 0 2 = 1) (he : logAt (BitVec.ofNat 16 (c.f 10 0 16)) s = some e) :
    Ends 0x61 src d s [] stSuccess (resAt 16 e.word) (fun _ => True) (exec (.faultRead src d) s) := by
  refine faultRead_answers hc h (by rw [hsub]; decide) (fun _ => by rw [he]; rfl) ?_
  have hopen : logAt (BitVec.ofNat 16 (c.f 10 0 16)) (opened 0x61 src d s) = some e := by
    rw [← he, logAt, logAt, keeps_opened 0x61 src d s .rve (by decide)]
  unfold faultReadBody
  dsimp only
  rw [hsub, hopen]
  rfl

theorem faultRead_source {g : Fin 64} (hc : c = cmdOf 0x61 src d s) (h : Accepted 0x61 src d s)
    (hsub : c.f 8 0 2 = 2) (hg : c.f 9 0 6 = g.val) :
    Ends 0x61 src d s [] stSuccess
      (resAt 16 (srcState g.val s) ||| resAt 20 ((s.rve.group[g]).n + (s.rve.group[g]).rlimit * 256) |||
        resAt 24 (s.rve.group[g]).w ||| resAt 28 (s.rve.group[g]).q)
      (fun _ => True) (exec (.faultRead src d) s) := by
  refine faultRead_answers hc h (by rw [hsub]; decide) (fun hk => absurd (hsub.symm.trans hk) (by decide)) ?_
  have hat : s.rve.group.at' g.val (Group.reset g.val) = s.rve.group[g] := dif_pos g.isLt
  obtain ⟨x, hx⟩ := opened_eq 0x61 src d s
  rw [hx]
  unfold faultReadBody
  dsimp only
  rw [hsub, hg, ← hat]
  rfl

theorem faultRead_export {first : BitVec 16} (hc : c = cmdOf 0x61 src d s) (h : Accepted 0x61 src d s)
    (hsub : c.f 8 0 2 = 3) (hbad : frBad c s = false)
    (hfirst : exportFirst (BitVec.ofNat 16 (c.f 10 0 16)) s = some first) :
    Begins 0x61 src d s [.free, .dma, .jobs]
      (fun t => t.jobs.any (fun j => j.cmd == c && j.pos == first.toNat) = true)
      (exec (.faultRead src d) s) := by
  subst hc
  have hopen : exportFirst (BitVec.ofNat 16 ((cmdOf 0x61 src d s).f 10 0 16)) (opened 0x61 src d s) = some first := by
    obtain ⟨x, hx⟩ := opened_eq 0x61 src d s
    rw [hx]
    exact hfirst
  have hrun : ∃ x : DmaDesc, x.link = false ∧
      faultReadBody.run (cmdOf 0x61 src d s) (opened 0x61 src d s) =
        askTransfer { cmdJob (cmdOf 0x61 src d s) x false with pos := first.toNat, seq0 := first }
          (opened 0x61 src d s) := by
    unfold faultReadBody
    dsimp only
    rw [hsub, hopen]
    exact ⟨_, rfl, rfl⟩
  obtain ⟨x, hlink, hrun⟩ := hrun
  refine begins_of h (faultRead_checked hbad fun hk => absurd (hsub.symm.trans hk) (by decide)) hrun
    (keeps_askTransfer_line hlink ?_ _) rfl (by decide) (job_any fun _ => ?_)
  · show (cmdOf 0x61 src d s).opcode ≠ 0x48
    rw [cmdOf_opcode src d s (by decide)]
    decide
  · show (cmdOf 0x61 src d s == cmdOf 0x61 src d s && first.toNat == first.toNat) = true
    rw [beq_self_eq_true, beq_self_eq_true]
    rfl

theorem diag_inject (hc : c = cmdOf 0x62 src d s) (h : Accepted 0x62 src d s) (hgroup : c.f 8 0 6 ≤ 45)
    (hcount : 0 < c.f 10 0 8) (hkey : s.rve.injKey ≠ 0) (hright : s.rve.injKey.toNat = c.f 16 0 16) :
    Begins 0x62 src d s [.rve]
      (fun t => t.rve.inbox = s.rve.inbox ++ (List.range (c.f 10 0 8)).map (fun i =>
          ⟨c.f 8 0 6, Machine.Class.ofCode (c.f 9 0 2), BitVec.ofNat 32 (c.f 12 0 32), true,
            s.now + 1000 * i⟩) ∧
        t.rve.group = s.rve.group ∧ t.rve.log = s.rve.log)
      (exec (.diagInject src d) s) := by
  subst hc
  refine begins_of (b := injectBody) (m := [.rve]) h ?_ rfl (keeps_mk (keeps_refl _ _)) rfl (by decide) ?_
  · refine firstFail_cons ?_ (firstFail_single ?_)
    · rw [decide_eq_false (by omega), beq_false_of_ne (by omega)]
      rfl
    · change (s.rve.injKey == 0 || s.rve.injKey.toNat != (cmdOf 0x62 src d s).f 16 0 16) = false
      rw [beq_false_of_ne hkey, hright]
      exact bne_self_eq_false _
  · obtain ⟨x, hx⟩ := opened_eq 0x62 src d s
    rw [hx]
    exact ⟨rfl, rfl, rfl⟩

/-- YOKE_SWITCH passes its checks (R471, R472, R476). -/
theorem yokeSwitch_checked (hsub : c.f 8 0 2 ≠ 3) (hyoked : yoked s = true)
    (hhold : c.f 8 0 2 < 2 → s.yok.holding = true) (hexcluded : c.f 8 0 2 = 2 → s.yok.state = .excluded)
    (hready : c.f 8 0 2 = 0 → partnerReady s = true) (hcopy : c.f 8 0 2 = 1 → partnerIn .copy s = true) :
    yokeSwitchBody.check c s = none := by
  refine firstFail_cons (beq_false_of_ne hsub) (firstFail_cons (congrArg (!·) hyoked) (firstFail_cons ?_
    (firstFail_cons ?_ (firstFail_cons ?_ (firstFail_single ?_)))))
  · by_cases h : c.f 8 0 2 < 2
    · rw [hhold h, Bool.not_true, Bool.and_false]
    · rw [decide_eq_false h, Bool.false_and]
  · by_cases h : c.f 8 0 2 = 2
    · rw [hexcluded h, bne_self_eq_false, Bool.and_false]
    · rw [beq_false_of_ne h, Bool.false_and]
  · by_cases h : c.f 8 0 2 = 0
    · rw [hready h, Bool.not_true, Bool.and_false]
    · rw [beq_false_of_ne h, Bool.false_and]
  · by_cases h : c.f 8 0 2 = 1
    · rw [hcopy h, Bool.not_true, Bool.and_false]
    · rw [beq_false_of_ne h, Bool.false_and]

theorem yoke_rejoin (hc : c = cmdOf 0x70 src d s) (h : Accepted 0x70 src d s) (hsub : c.f 8 0 2 = 2)
    (hexcluded : s.yok.state = .excluded) :
    Ends 0x70 src d s [] stSuccess 0
      (fun u => u.yok.state = .seek ∧ u.yok.reason = 0 ∧ u.yok.run = 0 ∧ u.yok.own = s.yok.own)
      (exec (.yokeSwitch src d) s) := by
  subst hc
  have hrun : yokeSwitchBody.run (cmdOf 0x70 src d s) (opened 0x70 src d s) = finishOk (cmdOf 0x70 src d s)
      { opened 0x70 src d s with yok.state := .seek, yok.reason := 0, yok.run := 0, yok.greet := true } := by
    unfold yokeSwitchBody
    dsimp only
    rw [hsub]
    rfl
  have hyoked : yoked s = true := by
    rw [yoked, hexcluded]
    rfl
  refine ends_of h (yokeSwitch_checked (by rw [hsub]; decide) hyoked (fun hlt => absurd (hsub ▸ hlt) (by decide))
    (fun _ => hexcluded) (fun hk => absurd (hsub.symm.trans hk) (by decide))
    (fun hk => absurd (hsub.symm.trans hk) (by decide))) hrun (m := [.yok]) (keeps_mk (keeps_refl _ _)) rfl (by decide)
    ⟨rfl, rfl, rfl, ?_⟩
  obtain ⟨x, hx⟩ := opened_eq 0x70 src d s
  rw [hx]

theorem yoke_join (hc : c = cmdOf 0x70 src d s) (h : Accepted 0x70 src d s) (hsub : c.f 8 0 2 = 1)
    (hyoked : yoked s = true) (hhold : s.yok.holding = true) (hcopy : partnerIn .copy s = true) :
    Begins 0x70 src d s [] (fun t => t.yok.jobs = s.yok.jobs ++ [{ cmd := c, sub := 1, sent := none }])
      (exec (.yokeSwitch src d) s) := by
  subst hc
  have hrun : yokeSwitchBody.run (cmdOf 0x70 src d s) (opened 0x70 src d s) = { opened 0x70 src d s with
      yok.jobs := (opened 0x70 src d s).yok.jobs ++ [{ cmd := cmdOf 0x70 src d s, sub := 1, sent := none }] } := by
    unfold yokeSwitchBody
    dsimp only
    rw [hsub]
    rfl
  refine begins_of h (yokeSwitch_checked (by rw [hsub]; decide) hyoked (fun _ => hhold)
    (fun hk => absurd (hsub.symm.trans hk) (by decide)) (fun hk => absurd (hsub.symm.trans hk) (by decide))
    (fun _ => hcopy)) hrun (m := [.yok]) (keeps_mk (keeps_refl _ _)) rfl (by decide) ?_
  obtain ⟨x, hx⟩ := opened_eq 0x70 src d s
  rw [hx]

theorem yok_startHandover (s : State) :
    (startHandover s).yok = { s.yok with handover := some ⟨s.lpl.composing + 1, false⟩ } := by
  unfold startHandover sendYoke
  split <;> rfl

theorem yoke_handover (hc : c = cmdOf 0x70 src d s) (h : Accepted 0x70 src d s) (hsub : c.f 8 0 2 = 0)
    (hyoked : yoked s = true) (hhold : s.yok.holding = true) (hready : partnerReady s = true) :
    Begins 0x70 src d s [.out]
      (fun t => t.yok.handover = some ⟨s.lpl.composing + 1, false⟩ ∧
        t.yok.jobs = s.yok.jobs ++ [{ cmd := c, sub := 0, sent := none }])
      (exec (.yokeSwitch src d) s) := by
  subst hc
  have hrun : yokeSwitchBody.run (cmdOf 0x70 src d s) (opened 0x70 src d s) = startHandover { opened 0x70 src d s with
      yok.jobs := (opened 0x70 src d s).yok.jobs ++ [{ cmd := cmdOf 0x70 src d s, sub := 0, sent := none }] } := by
    unfold yokeSwitchBody
    dsimp only
    rw [hsub]
    rfl
  refine begins_of h (yokeSwitch_checked (by rw [hsub]; decide) hyoked (fun _ => hhold)
    (fun hk => absurd (hsub.symm.trans hk) (by decide)) (fun _ => hready)
    (fun hk => absurd (hsub.symm.trans hk) (by decide))) hrun (m := [.out, .yok])
    (keeps_step (keeps_startHandover _) rfl (keeps_mk (keeps_refl _ _))) rfl (by decide) ?_
  rw [yok_startHandover]
  obtain ⟨x, hx⟩ := opened_eq 0x70 src d s
  rw [hx]
  exact ⟨rfl, rfl⟩

end Sys2Proof.Proofs
end

section
/-!
SUPPORT. O33: an event that reaches the Reeve, its entry in the log, and recovery.
-/

namespace Sys2Proof.Proofs

set_option Elab.async false

open Sys2Proof Sys2Proof.Machine Sys2Proof.Safety Sys2Proof.Laws

/-- What an activation does once its entry has been written (R434 to R437). -/
def reacted (e : Event) (act held : Option Machine.Class) (esc : Bool) (seq : BitVec 16) (s : State) : State :=
  match act with
  | none => s
  | some .note => reeveIrq .note { s with rve.note := s.rve.note ||| BitVec.ofNat 64 (2 ^ e.group) }
  | some a =>
    let top := held.getD a
    let of' := if esc then top else a
    let s := if of' = .critical ∧ s.rve.crit.isNone then
        { s with rve.crit := some (e.group, composingSeq s) }
      else s
    let s := if of'.code ≥ 2 ∧ s.rve.first.isNone then
        { s with rve.first := some ⟨e.injected, top, e.group, seq⟩ }
      else s
    reeveIrq of' s

theorem rve_reeveIrq (a : Machine.Class) (s : State) : (reeveIrq a s).rve = s.rve := keeps_reeveIrq _ _ .rve (by decide)

/-- An activation changes RVE_NOTE, RVE_CRIT and RVE_FIRST alone of the Reeve. -/
theorem rve_reacted (e : Event) (act held : Option Machine.Class) (esc : Bool) (seq : BitVec 16) (s : State) :
    ∃ n c f, (reacted e act held esc seq s).rve = { s.rve with note := n, crit := c, first := f } := by
  unfold reacted
  split
  · exact ⟨_, _, _, rfl⟩
  · rw [rve_reeveIrq]
    exact ⟨_, _, _, rfl⟩
  · dsimp only
    rw [rve_reeveIrq]
    split_ifs <;> exact ⟨_, _, _, rfl⟩

/-- What counting makes of an event in its group, and the class of the activation (R433). -/
def counted (e : Event) (s : State) : Counting × Option Machine.Class :=
  countEvent (s.rve.group.at' e.group (Group.reset e.group))
    ((s.rve.group.at' e.group (Group.reset e.group)).copy e.injected) e.cls (max s.now e.at')

/-- The state with the event counted, and its group's held class. -/
def tallied (e : Event) (held : Option Machine.Class) (s : State) : State :=
  modGroup e.group e.injected (fun _ => { (counted e s).1 with held := held }) s

/-- The class that a group holds after an activation, and whether the activation escalates (R434). -/
def activated (r : Counting × Option Machine.Class) : Option Machine.Class × Bool :=
  match r.2 with
  | none => (r.1.held, false)
  | some .note => (r.1.held, false)
  | some a => let h := holdClass r.1.held a; (some h.1, h.2)

/-- The log entry of an event (R431). -/
def entryOf (e : Event) (act : Bool) (held : Option Machine.Class) (esc : Bool) (s : State) : LogEntry :=
  { ns := timeNs (netTime s), seconds := timeS (netTime s) % 2 ^ 32, source := e.group, injected := e.injected,
    activation := act, cls := e.cls, held := held, escalated := esc, lostBefore := false, seq := 0,
    detail := e.detail }

theorem activated_none {r : Counting × Option Machine.Class} (h : r.2 = none) : (activated r).1 = r.1.held := by
  unfold activated
  rw [h]

/-- A real event is counted in its group, logged, and acted on (R430 to R436). -/
theorem processEvent_eq {e : Event} (h : e.injected = false) (s : State) :
    processEvent e s = reacted e (counted e s).2 (activated (counted e s)).1 (activated (counted e s)).2
      (entrySeq (tallied e (activated (counted e s)).1 s)).1
      (logEntry (entryOf e (counted e s).2.isSome (activated (counted e s)).1 (activated (counted e s)).2
        (tallied e (activated (counted e s)).1 s)) (entrySeq (tallied e (activated (counted e s)).1 s)).2) :=
  if_neg (by rw [h]; exact Bool.false_ne_true)

theorem processEvent_real {e : Event} (h : e.injected = false) (s : State) :
    ∃ (held : Option Machine.Class) (esc : Bool) (x : LogEntry),
      x.source = e.group ∧ x.cls = e.cls ∧ x.detail = e.detail ∧ x.injected = e.injected ∧
      ((counted e s).2 = none → held = (counted e s).1.held) ∧
      processEvent e s = reacted e (counted e s).2 held esc (entrySeq (tallied e held s)).1
        (logEntry x (entrySeq (tallied e held s)).2) :=
  ⟨_, _, entryOf e (counted e s).2.isSome (activated (counted e s)).1 (activated (counted e s)).2
    (tallied e (activated (counted e s)).1 s), rfl, rfl, rfl, rfl, activated_none, processEvent_eq h s⟩

/-! The log (R431). -/

theorem rve_entrySeq (s : State) : Keeps [.free] s (entrySeq s).2 := by
  unfold entrySeq
  split
  · exact keeps_mk (keeps_refl _ _)
  · exact keeps_refl _ _

theorem rve_tallied (e : Event) (held : Option Machine.Class) (s : State) :
    (tallied e held s).rve = { s.rve with group := (tallied e held s).rve.group } ∧
      Keeps [.rve] s (tallied e held s) := ⟨rfl, keeps_modGroup _ _ _ _⟩

/-- Of the Reeve, what the log and its queue do not touch. -/
structure LogOnly (s t : State) : Prop where
  group : t.rve.group = s.rve.group
  note : t.rve.note = s.rve.note
  first : t.rve.first = s.rve.first
  inbox : t.rve.inbox = s.rve.inbox
  out : t.out = s.out

theorem logEntry_takes {s : State} (x : LogEntry) (hqueue : s.rve.queue = []) (htakes : logTakes s = true) :
    logEntry x s = appendLog x (coreCycle s + 1) s := by
  unfold logEntry
  rw [hqueue, htakes, List.isEmpty_nil, Bool.and_true, if_pos rfl]

theorem logEntry_waits {s : State} (x : LogEntry) (hbusy : s.rve.queue ≠ [] ∨ logTakes s = false)
    (hroom : logFull s = false) : logEntry x s = { s with rve.queue := s.rve.queue ++ [x] } := by
  have hnot : (s.rve.queue.isEmpty && logTakes s) = false := by
    obtain h | h := hbusy
    · rw [List.isEmpty_eq_false_iff.mpr h, Bool.false_and]
    · rw [h, Bool.and_false]
  unfold logEntry
  rw [hnot, hroom, if_neg Bool.false_ne_true, if_neg Bool.false_ne_true]

theorem queue_of_logFull {s : State} (h : logFull s = true) : s.rve.queue ≠ [] := by
  intro hnil
  unfold logFull at h
  rw [hnil] at h
  exact absurd h (by decide)

theorem logEntry_lost {s : State} (x : LogEntry) (hflag : s.rve.lostFlag = true) (hfull : logFull s = true) :
    logEntry x s = { s with rve.lost := bump 65535 1 s.rve.lost, rve.lostFlag := true } := by
  unfold logEntry
  rw [List.isEmpty_eq_false_iff.mpr (queue_of_logFull hfull), Bool.false_and, if_neg Bool.false_ne_true, hfull,
    if_pos rfl, hflag, if_pos rfl]

theorem appendLog_only (x : LogEntry) (k : Nat) (s : State) : LogOnly s (appendLog x k s) := by
  have hout : (appendLog x k s).out = s.out := keeps_appendLog _ _ _ .out (by decide)
  unfold appendLog at hout ⊢
  exact ⟨rfl, rfl, rfl, rfl, hout⟩

/-- An entry that finds room, or is not the first to be lost, raises nothing. -/
theorem logEntry_only {s : State} (x : LogEntry) (h : logFull s = false ∨ s.rve.lostFlag = true) :
    LogOnly s (logEntry x s) := by
  by_cases hfull : logFull s = true
  · rw [logEntry_lost x (h.resolve_left fun hf => absurd (hf.symm.trans hfull) Bool.false_ne_true) hfull]
    exact ⟨rfl, rfl, rfl, rfl, rfl⟩
  · by_cases htakes : s.rve.queue = [] ∧ logTakes s = true
    · rw [logEntry_takes x htakes.1 htakes.2]
      exact appendLog_only _ _ _
    · rw [logEntry_waits x (by by_cases hq : s.rve.queue = [] <;> simp_all) (Bool.eq_false_iff.mpr hfull)]
      exact ⟨rfl, rfl, rfl, rfl, rfl⟩

/-- The last entry of the log after one has been written. -/
theorem getLast_appendLog (x : LogEntry) (k : Nat) (s : State) : (appendLog x k s).rve.log.getLast? =
    some { x with seq := s.rve.nextSeq, lostBefore := s.rve.lostFlag } := by
  unfold appendLog
  dsimp only
  generalize ({ x with seq := s.rve.nextSeq, lostBefore := s.rve.lostFlag } : LogEntry) = y
  rw [List.drop_append_of_le_length (by simp)]
  simp

/-! One event in the inbox. -/

/-- The state in which the only event of the inbox is processed. -/
theorem exec_reeveEvent {s : State} {e : Event} (h : s.rve.inbox = [e]) :
    exec .reeveEvent s = .next (processEvent e { s with rve.inbox := [] }) := by
  have hnext : nextEvent [e] = some e := by
    unfold nextEvent
    cases hi : e.injected <;> simp [hi]
  show Host.Outcome.next (match nextEvent s.rve.inbox with
    | none => s
    | some e => processEvent e { s with rve.inbox := s.rve.inbox.erase e }) = _
  rw [h, hnext]
  simp

/-- The state in which the entry of a real event is logged: the event is counted, and the rest of the Reeve stays. -/
structure Logging (e : Event) (held : Option Machine.Class) (s u : State) : Prop where
  rve : u.rve = { s.rve with inbox := [], group := u.rve.group }
  group : u.rve.group = (tallied e held { s with rve.inbox := [] }).rve.group
  now : u.now = s.now
  out : u.out = s.out

theorem entry_logged {s : State} {e : Event} (hinbox : s.rve.inbox = [e]) (hreal : e.injected = false) :
    ∃ (held : Option Machine.Class) (esc : Bool) (x : LogEntry) (seq : BitVec 16) (u : State),
      x.source = e.group ∧ x.cls = e.cls ∧ x.detail = e.detail ∧ x.injected = false ∧ Logging e held s u ∧
      ((counted e { s with rve.inbox := [] }).2 = none → held = (counted e { s with rve.inbox := [] }).1.held) ∧
      exec .reeveEvent s =
        .next (reacted e (counted e { s with rve.inbox := [] }).2 held esc seq (logEntry x u)) := by
  obtain ⟨held, esc, x, hsource, hcls, hdetail, hinj, hheld, hprocess⟩ :=
    processEvent_real hreal { s with rve.inbox := [] }
  have htally := keeps_modGroup e.group e.injected
    (fun _ => { (counted e { s with rve.inbox := [] }).1 with held := held }) { s with rve.inbox := [] }
  have hentry := rve_entrySeq (tallied e held { s with rve.inbox := [] })
  refine ⟨held, esc, x, _, _, hsource, hcls, hdetail, hinj.trans hreal, ⟨?_, ?_, ?_, ?_⟩, hheld,
    (exec_reeveEvent hinbox).trans (congrArg Host.Outcome.next hprocess)⟩
  · rw [show (entrySeq (tallied e held { s with rve.inbox := [] })).2.rve = _ from hentry .rve (by decide)]
    rfl
  · rw [show (entrySeq (tallied e held { s with rve.inbox := [] })).2.rve = _ from hentry .rve (by decide)]
  · exact Eq.trans (hentry .now (by decide)) (htally .now (by decide))
  · exact Eq.trans (hentry .out (by decide)) (htally .out (by decide))

theorem Logging.logFull {e : Event} {held : Option Machine.Class} {s u : State} (h : Logging e held s u) :
    Machine.logFull u = Machine.logFull s := by
  unfold Machine.logFull
  rw [h.rve]

theorem Logging.logTakes {e : Event} {held : Option Machine.Class} {s u : State} (h : Logging e held s u) :
    Machine.logTakes u = Machine.logTakes s := by
  unfold Machine.logTakes coreCycle
  rw [h.rve, h.now]

/-- Counting in an open window, below the source's count (R433). -/
theorem countEvent_below {g : Group} {c : Counting} {cls : Machine.Class} {now : Nat} (hopen : c.winOpen = true)
    (hin : now - c.winStart < g.w * 100000) (hbelow : c.k + 1 < g.n) (hleast : c.k < 255) :
    (countEvent g c cls now).1.k = c.k + 1 ∧ (countEvent g c cls now).1.held = c.held ∧
      (countEvent g c cls now).2 = none := by
  have hfresh : (!c.winOpen || decide (now - c.winStart ≥ g.w * 100000)) = false := by
    rw [hopen, decide_eq_false (by omega)]
    rfl
  have hk : min 255 (c.k + 1) = c.k + 1 := by omega
  unfold countEvent
  dsimp only
  rw [hfresh, if_neg Bool.false_ne_true]
  dsimp only
  rw [hk, if_pos hbelow]
  exact ⟨rfl, rfl, rfl⟩

theorem event_counted {s : State} {e : Event} {g : Fin 64} (hinbox : s.rve.inbox = [e]) (hreal : e.injected = false)
    (hg : e.group = g.val) (hlog : logFull s = false ∨ s.rve.lostFlag = true)
    (hopen : (s.rve.group[g]).real.winOpen = true)
    (hin : max s.now e.at' - (s.rve.group[g]).real.winStart < (s.rve.group[g]).w * 100000)
    (hbelow : (s.rve.group[g]).real.k + 1 < (s.rve.group[g]).n) (hleast : (s.rve.group[g]).real.k < 255) :
    Answers (exec .reeveEvent s) fun t =>
      t.rve.inbox = [] ∧ t.rve.note = s.rve.note ∧ t.rve.first = s.rve.first ∧ t.out = s.out ∧
      (t.rve.group[g]).real.k = (s.rve.group[g]).real.k + 1 ∧
      (t.rve.group[g]).real.held = (s.rve.group[g]).real.held := by
  obtain ⟨held, esc, x, seq, u, -, -, -, -, hu, hheld, hexec⟩ := entry_logged hinbox hreal
  have hat : s.rve.group.at' e.group (Group.reset e.group) = s.rve.group[g] := by
    rw [hg]
    exact dif_pos g.isLt
  have hcount : counted e { s with rve.inbox := [] } =
      countEvent s.rve.group[g] (s.rve.group[g]).real e.cls (max s.now e.at') := by
    unfold counted
    dsimp only
    rw [hat, hreal]
    rfl
  obtain ⟨hk, hsame, hnone⟩ := countEvent_below (cls := e.cls) hopen hin hbelow hleast
  rw [← hcount] at hk hsame hnone
  rw [hnone] at hexec
  refine answers_of_eq hexec ?_
  have honly := logEntry_only x (s := u) (by
    rw [hu.logFull, hu.rve]
    exact hlog)
  have hgroup : u.rve.group[g] = (s.rve.group[g]).upd false
      (fun _ => { (counted e { s with rve.inbox := [] }).1 with held := held }) := by
    rw [hu.group, tallied, hreal, group_modGroup, if_pos hg.symm]
  change (logEntry x u).rve.inbox = [] ∧ (logEntry x u).rve.note = _ ∧ (logEntry x u).rve.first = _ ∧
    (logEntry x u).out = _ ∧ ((logEntry x u).rve.group[g]).real.k = _ ∧ ((logEntry x u).rve.group[g]).real.held = _
  rw [honly.inbox, honly.note, honly.first, honly.out, honly.group, hgroup, hu.out, hu.rve]
  exact ⟨rfl, rfl, rfl, rfl, hk, (hheld hnone).trans hsame⟩

theorem event_logged {s : State} {e : Event} (hinbox : s.rve.inbox = [e]) (hreal : e.injected = false)
    (hqueue : s.rve.queue = []) (htakes : logTakes s = true) :
    Answers (exec .reeveEvent s) fun t =>
      t.rve.inbox = [] ∧ t.rve.nextSeq = s.rve.nextSeq + 1 ∧ t.rve.lostFlag = false ∧
      ∃ x, t.rve.log.getLast? = some x ∧ x.seq = s.rve.nextSeq ∧ x.source = e.group ∧ x.cls = e.cls ∧
        x.detail = e.detail ∧ x.injected = false ∧ x.lostBefore = s.rve.lostFlag := by
  obtain ⟨held, esc, x, seq, u, hsource, hcls, hdetail, hinj, hu, -, hexec⟩ := entry_logged hinbox hreal
  refine answers_of_eq hexec ?_
  obtain ⟨n, c, f, hrve⟩ := rve_reacted e (counted e { s with rve.inbox := [] }).2 held esc seq (logEntry x u)
  rw [hrve, logEntry_takes x (by rw [hu.rve]; exact hqueue) (hu.logTakes.trans htakes), getLast_appendLog]
  unfold appendLog
  rw [hu.rve]
  exact ⟨rfl, rfl, rfl, _, rfl, rfl, hsource, hcls, hdetail, hinj, rfl⟩

theorem event_waits {s : State} {e : Event} (hinbox : s.rve.inbox = [e]) (hreal : e.injected = false)
    (hbusy : s.rve.queue ≠ [] ∨ logTakes s = false) (hroom : logFull s = false) :
    Answers (exec .reeveEvent s) fun t =>
      t.rve.inbox = [] ∧ t.rve.log = s.rve.log ∧ t.rve.lost = s.rve.lost ∧
      t.rve.queue.dropLast = s.rve.queue ∧
      ∃ x, t.rve.queue.getLast? = some x ∧ x.source = e.group ∧ x.cls = e.cls ∧ x.detail = e.detail ∧
        x.injected = false := by
  obtain ⟨held, esc, x, seq, u, hsource, hcls, hdetail, hinj, hu, -, hexec⟩ := entry_logged hinbox hreal
  refine answers_of_eq hexec ?_
  obtain ⟨n, c, f, hrve⟩ := rve_reacted e (counted e { s with rve.inbox := [] }).2 held esc seq (logEntry x u)
  rw [hrve, logEntry_waits x (by rw [hu.rve, hu.logTakes]; exact hbusy) (hu.logFull.trans hroom), hu.rve]
  exact ⟨rfl, rfl, rfl, List.dropLast_concat, x, List.getLast?_concat, hsource, hcls, hdetail, hinj⟩

theorem event_lost {s : State} {e : Event} (hinbox : s.rve.inbox = [e]) (hreal : e.injected = false)
    (hflag : s.rve.lostFlag = true) (hfull : logFull s = true) :
    Answers (exec .reeveEvent s) fun t =>
      t.rve.inbox = [] ∧ t.rve.log = s.rve.log ∧ t.rve.queue = s.rve.queue ∧
      t.rve.lost = bump 65535 1 s.rve.lost := by
  obtain ⟨held, esc, x, seq, u, -, -, -, -, hu, -, hexec⟩ := entry_logged hinbox hreal
  refine answers_of_eq hexec ?_
  obtain ⟨n, c, f, hrve⟩ := rve_reacted e (counted e { s with rve.inbox := [] }).2 held esc seq (logEntry x u)
  rw [hrve, logEntry_lost x (by rw [hu.rve]; exact hflag) (hu.logFull.trans hfull), hu.rve]
  exact ⟨rfl, rfl, rfl, rfl⟩

/-! Recovery (R439, R440). -/

theorem source_recovers {s : State} {g : Fin 64} (hcore : s.pwr.core = true) (hinbox : s.rve.inbox = [])
    (hlevel : levelLine g.val s = false) (hq : (s.rve.group[g]).q ≠ 0)
    (hlatched : (s.rve.group[g]).real.latched = false)
    (hheld : (s.rve.group[g]).real.held = some .minor ∨ (s.rve.group[g]).real.held = some .major) :
    Answers (exec (.reeveRecovery g false) s) fun t =>
      (if (s.rve.group[g]).rlimit ≤ (s.rve.group[g]).real.rec' + 1 then
        (t.rve.group[g]).real.latched = true ∧
          (t.rve.group[g]).real.held = (s.rve.group[g]).real.held
      else (t.rve.group[g]).real.held = none ∧
        (t.rve.group[g]).real.rec' = (s.rve.group[g]).real.rec' + 1) ∧
      (t.rve.group[g]).inj = (s.rve.group[g]).inj ∧
      (∀ k : Fin 64, k ≠ g → t.rve.group[k] = s.rve.group[k]) ∧ Keeps [.rve] s t := by
  refine answers_whenS ?_ ⟨?_, ?_, fun k hk => ?_, keeps_modGroup _ _ _ _⟩
  · rw [Group.copy, if_neg Bool.false_ne_true, hcore, hlatched, hlevel, hinbox, bne_iff_ne.mpr hq]
    obtain h | h := hheld <;> rw [h] <;> rfl
  · rw [group_modGroup, if_pos rfl]
    by_cases hlimit : (s.rve.group[g]).rlimit ≤ (s.rve.group[g]).real.rec' + 1
    · rw [if_pos hlimit, Group.upd, if_neg Bool.false_ne_true]
      dsimp only
      rw [if_pos hlimit]
      exact ⟨rfl, rfl⟩
    · rw [if_neg hlimit, Group.upd, if_neg Bool.false_ne_true]
      dsimp only
      rw [if_neg hlimit]
      exact ⟨rfl, rfl⟩
  · rw [group_modGroup, if_pos rfl]
    rfl
  · rw [group_modGroup, if_neg fun h => hk (Fin.ext h)]

/-- Settles O33, one lemma for each command and each case of the Reeve's collection. -/
theorem faultCollection : Obligations.FaultCollection := by
  refine ⟨⟨fun _ _ _ _ => fault_ack, fun _ _ _ _ => faultRead_summary, fun _ _ _ _ _ => faultRead_entry,
    fun _ _ _ _ _ => faultRead_source, fun _ _ _ _ _ => faultRead_export, fun _ _ _ _ => diag_inject,
    fun _ _ _ _ => yoke_rejoin, fun _ _ _ _ => yoke_join, fun _ _ _ _ => yoke_handover⟩,
    fun _ _ _ => event_counted, fun _ _ => event_logged, fun _ _ => event_waits, fun _ _ => event_lost,
    fun _ _ => source_recovers, fun s hstate => ?_, fun s hcore hrevive => ?_, fun s => rfl⟩
  · refine congrArg Host.Outcome.next (whenS_true ?_)
    obtain h | h | h := hstate <;> rw [h] <;> rfl
  · exact congrArg Host.Outcome.next (whenS_true (by rw [hcore, hrevive]; rfl))

end Sys2Proof.Proofs
end

section
/-!
SUPPORT. O34: writes of registers with an effect of their own.
-/

namespace Sys2Proof.Proofs

set_option Elab.async false

open Sys2Proof Sys2Proof.Machine Sys2Proof.Safety Sys2Proof.Laws

variable {s : State}

theorem core_of_hostUp (h : hostUp s = true) : s.pwr.core = true := by
  unfold hostUp at h
  simp only [Bool.and_eq_true] at h
  simp [h]

theorem regWrite_shortLimit (v : Word) (s : State) :
    regWrite 0x06002C v.toNat s = { s with pho.shortLimit := v.toNat } := by
  have hlt : v.toNat % 2 ^ 32 = v.toNat := Nat.mod_eq_of_lt v.isLt
  show { s with pho.shortLimit := v.toNat % 2 ^ 32 } = _
  rw [hlt]

theorem regWrite_injKey (v : Word) (h : hostUp s = true) :
    regWrite 0x0F0028 v.toNat s = { s with rve.injKey := v.truncate 16 } := by
  show whenS (hostUp s) (fun s => { s with rve.injKey := BitVec.ofNat 16 v.toNat }) s = _
  rw [whenS_true h]
  rfl

/-! The CRC unit (R528). -/

theorem crcu_modCrcu (c : Fin 4) (f : Crcu → Crcu) (s : State) : (modCrcu c f s).crcu[c] = f s.crcu[c] ∧
    (∀ k : Fin 4, k ≠ c → (modCrcu c f s).crcu[k] = s.crcu[k]) ∧ Keeps [.crcu] s (modCrcu c f s) :=
  ⟨(Tab.upd_get _ _ _ _).trans (if_pos rfl), fun k hk => (Tab.upd_get _ _ _ _).trans (if_neg hk),
    keeps_mk (keeps_refl _ _)⟩

theorem polyOf_eq (poly : BitVec 2) : polyOf poly.toNat = if poly = 3 then 0 else poly.toNat := by
  revert poly
  decide

theorem crcuInit_polyOf (poly : BitVec 2) :
    crcuInit (polyOf poly.toNat) = if poly = 2 then 0xFFFF#32 else 0xFFFFFFFF#32 := by
  revert poly
  decide

theorem crcu_cfg {c : Fin 4} {poly : BitVec 2} (h : hostUp s = true) :
    Answers (exec (.crcuCfgWrite c poly) s) fun t =>
      (t.crcu[c]).poly = (if poly = 3 then 0 else poly.toNat) ∧
      (t.crcu[c]).state = (if poly = 2 then 0xFFFF#32 else 0xFFFFFFFF#32) ∧ (t.crcu[c]).fresh = false ∧
      (∀ k : Fin 4, k ≠ c → t.crcu[k] = s.crcu[k]) ∧ Keeps [.crcu] s t := by
  obtain ⟨hself, hrest⟩ := crcu_modCrcu c
    (fun _ => { poly := polyOf poly.toNat, state := crcuInit (polyOf poly.toNat), fresh := false }) s
  refine answers_whenS h ?_
  rw [hself]
  exact ⟨polyOf_eq poly, crcuInit_polyOf poly, rfl, hrest⟩

theorem crcu_data {c : Fin 4} {k : Fin 3} {v : Word} (h : hostUp s = true) :
    Answers (exec (.crcuDataWrite c k v) s) fun t =>
      (t.crcu[c]).poly = (s.crcu[c]).poly ∧
      (t.crcu[c]).state = BitVec.ofNat 32 ((leBytes (2 ^ k.val) v.toNat).foldl
        (crcuByte (s.crcu[c]).poly) (s.crcu[c]).state.toNat) ∧ (t.crcu[c]).fresh = false ∧
      (∀ j : Fin 4, j ≠ c → t.crcu[j] = s.crcu[j]) ∧ Keeps [.crcu] s t := by
  obtain ⟨hself, hrest⟩ := crcu_modCrcu c (fun x => { x with
    fresh := false, state := BitVec.ofNat 32
      ((leBytes (2 ^ k.val) v.toNat).foldl (crcuByte x.poly) x.state.toNat) }) s
  refine answers_whenS h ?_
  rw [hself]
  exact ⟨rfl, rfl, rfl, hrest⟩

/-- The three parts of a context word (CRCU_CHc_CTX). -/
theorem ctx_fields (k : Byte) (p : BitVec 24) (st : Word) :
    field (k ++ p ++ st) 56 8 = k.toNat ∧ field (k ++ p ++ st) 32 2 = p.toNat % 4 ∧
      field (k ++ p ++ st) 0 32 = st.toNat := by
  have hp := p.isLt
  have hst := st.isLt
  have hk := k.isLt
  have hvalue : (k ++ p ++ st).toNat = (k.toNat * 2 ^ 24 + p.toNat) * 2 ^ 32 + st.toNat := by
    rw [BitVec.toNat_append, BitVec.toNat_append, ← Nat.shiftLeft_add_eq_or_of_lt hp,
      ← Nat.shiftLeft_add_eq_or_of_lt hst, Nat.shiftLeft_eq, Nat.shiftLeft_eq]
  unfold field
  rw [hvalue]
  simp only [Nat.shiftRight_eq_div_pow]
  omega

theorem crcu_context {c : Fin 4} {st : Word} {p : BitVec 24} (h : hostUp s = true) :
    Answers (exec (.crcuCtxWrite c (Config.ctxCheck (polyOf (p.toNat % 4)) st ++ p ++ st)) s) fun t =>
      (t.crcu[c]).poly = polyOf (p.toNat % 4) ∧ (t.crcu[c]).state = st ∧
      (∀ j : Fin 4, j ≠ c → t.crcu[j] = s.crcu[j]) ∧ Keeps [.crcu] s t := by
  obtain ⟨hcheck, hpoly, hstate⟩ := ctx_fields (Config.ctxCheck (polyOf (p.toNat % 4)) st) p st
  obtain ⟨hself, hrest⟩ := crcu_modCrcu c
    (fun _ => { poly := polyOf (p.toNat % 4), state := st, fresh := false }) s
  refine answers_whenS h ?_
  rw [hcheck, hpoly, hstate, BitVec.ofNat_toNat, BitVec.ofNat_toNat, BitVec.setWidth_eq, BitVec.setWidth_eq,
    if_pos rfl, hself]
  exact ⟨rfl, rfl, hrest⟩

theorem crcu_context_refused {c : Fin 4} {st : Word} {p : BitVec 24} {k : Byte} (h : hostUp s = true)
    (hwrong : k ≠ Config.ctxCheck (polyOf (p.toNat % 4)) st) :
    Answers (exec (.crcuCtxWrite c (k ++ p ++ st)) s) fun t =>
      Raised 43 .note c.val s t ∧ (t.crcu[c]).poly = (s.crcu[c]).poly ∧
      (t.crcu[c]).state = crcuInit (s.crcu[c]).poly ∧
      (∀ j : Fin 4, j ≠ c → t.crcu[j] = s.crcu[j]) ∧ Keeps [.crcu, .rve] s t := by
  obtain ⟨hcheck, hpoly, hstate⟩ := ctx_fields k p st
  obtain ⟨hself, hother, hkeep⟩ := crcu_modCrcu c (fun x => { x with state := crcuInit x.poly, fresh := false }) s
  refine answers_whenS h ?_
  rw [hcheck, hpoly, hstate, BitVec.ofNat_toNat, BitVec.ofNat_toNat, BitVec.setWidth_eq, BitVec.setWidth_eq,
    if_neg hwrong]
  generalize modCrcu c (fun x => { x with state := crcuInit x.poly, fresh := false }) s = u at hself hother hkeep ⊢
  have hraised : Raised 43 .note c.val u (raise 43 .note c.val u) :=
    raised_raise ((congrArg Power.core (hkeep .pwr (by decide))).trans (core_of_hostUp h))
  have hcrcu : (raise 43 .note c.val u).crcu = u.crcu := keeps_raise _ _ _ _ .crcu (by decide)
  rw [Raised, show u.rve = s.rve from hkeep .rve (by decide), show u.now = s.now from hkeep .now (by decide)]
    at hraised
  rw [hcrcu, hself]
  exact ⟨hraised, rfl, rfl, hother, keeps_step (keeps_raise _ _ _ _) rfl (keeps_mono hkeep rfl)⟩

/-- Settles O34, register by register. -/
theorem registerEffects : Obligations.RegisterEffects := by
  refine ⟨fun s h => ⟨fun k => ?_, ?_, ?_, fun v => ?_, fun v => ?_, fun v => ?_⟩, fun _ _ _ => crcu_cfg,
    fun _ _ _ _ => crcu_data, fun _ _ _ _ => crcu_context, fun _ _ _ _ _ => crcu_context_refused, fun s h => ?_⟩
  · exact congrArg Host.Outcome.next (whenS_true h)
  · exact congrArg Host.Outcome.next (whenS_true h)
  · exact congrArg Host.Outcome.next (whenS_true h)
  · exact congrArg Host.Outcome.next (whenS_true h)
  · exact congrArg Host.Outcome.next ((whenS_true h).trans (regWrite_shortLimit v s))
  · refine answers_of_eq (congrArg Host.Outcome.next ((whenS_true h).trans (regWrite_injKey v h))) ?_
    exact ⟨rfl, keeps_mk (keeps_refl _ _)⟩
  · exact answers_whenS h ⟨rfl, rfl, keeps_step (keeps_emit _ _) rfl (keeps_mk (keeps_refl _ _))⟩

end Sys2Proof.Proofs
end

section
/-!
SUPPORT. O35: reads and writes of the Granary by the host through BAR2, over words without an error.
-/

namespace Sys2Proof.Proofs

set_option Elab.async false

open Sys2Proof Sys2Proof.Machine Sys2Proof.Safety Sys2Proof.Laws

variable {s t u : State}

/-! Reads of words without an error: the list of marks may be laid anew, and nothing else changes. -/

/-- Two lists give every word the same mark. -/
def SameMarks (l m : List (Nat × Mark)) : Prop :=
  ∀ w, (m.find? fun x => x.1 == w) = l.find? fun x => x.1 == w

/-- A state that differs in the layout of its marks only. -/
def Remarked (s t : State) : Prop := ∃ m, t = { s with grn.marks := m } ∧ SameMarks s.grn.marks m

theorem remarked_refl (s : State) : Remarked s s := ⟨_, rfl, fun _ => rfl⟩

theorem Remarked.trans (h : Remarked s t) (k : Remarked t u) : Remarked s u := by
  obtain ⟨l, rfl, hl⟩ := h
  obtain ⟨m, rfl, hm⟩ := k
  exact ⟨m, rfl, fun w => (hm w).trans (hl w)⟩

theorem Remarked.markOf_eq (h : Remarked s t) (w : Nat) : markOf t w = markOf s w := by
  obtain ⟨m, rfl, hm⟩ := h
  exact congrArg (Option.map Prod.snd) (hm w)

/-- Without any mark nothing changes. -/
theorem Remarked.eq_of_nil (h : Remarked s t) (hm : s.grn.marks = []) : t = s := by
  obtain ⟨m, rfl, hsame⟩ := h
  have hnil : m = [] := by
    refine List.eq_nil_iff_forall_not_mem.mpr fun x hx => ?_
    have hnone := hsame x.1
    rw [hm, List.find?_nil, List.find?_eq_none] at hnone
    exact hnone x hx (beq_self_eq_true _)
  rw [hnil, ← hm]

theorem find_filter_word (p : Nat → Bool) (l : List (Nat × Mark)) (v : Nat) :
    ((l.filter fun x => p x.1).find? fun x => x.1 == v) = if p v then l.find? fun x => x.1 == v else none := by
  rw [List.find?_filter]
  split
  next hp =>
    have : (fun x : Nat × Mark => decide (p x.1 = true ∧ (x.1 == v) = true)) = fun x => x.1 == v := by
      funext x
      by_cases hx : x.1 = v <;> simp [hx, hp]
    exact congrArg (fun f => l.find? f) this
  next hp =>
    refine List.find?_eq_none.mpr fun x _ => ?_
    by_cases hx : x.1 = v <;> simp [hx, hp]

theorem sameMarks_putMark {l : List (Nat × Mark)} {w : Nat} (h : (l.find? fun x => x.1 == w) = none) :
    SameMarks l (putMark l w none) := by
  intro v
  have hlow := find_filter_word (fun y => decide (y < w)) l v
  have hhigh := find_filter_word (fun y => decide (w < y)) l v
  unfold putMark
  rw [List.find?_append, List.find?_append, hlow, hhigh, Option.map_none, Option.toList_none, List.find?_nil,
    Option.or_none]
  obtain hlt | rfl | hgt := Nat.lt_trichotomy v w
  · simp [hlt, Nat.lt_asymm hlt]
  · simp [h]
  · simp [hgt, Nat.lt_asymm hgt]

theorem readWord_clean (m : Master) {w : Nat} (h : markOf s w = none) :
    (readWord m w .none s).1 = false ∧ Remarked s (readWord m w .none s).2 := by
  have hworse : worse (markOf s w) .none = none := by rw [h]; rfl
  have hread : readWord m w .none s = (false, { s with grn.marks := putMark s.grn.marks w none }) := by
    unfold readWord
    rw [hworse]
  rw [hread]
  exact ⟨rfl, _, rfl, sameMarks_putMark (Option.map_eq_none_iff.mp h)⟩

/-- The words of a range, the upset on the first. -/
theorem foldReads_clean {m : Master} {a : Nat} {l : List Nat} :
    ∀ (acc : Bool × State), (∀ k ∈ l, markOf acc.2 (a + k) = none) →
      let r := l.foldl (fun acc k =>
        let r := readWord m (a + k) (if k = 0 then Upset.none else .none) acc.2
        (acc.1 || r.1, r.2)) acc
      r.1 = acc.1 ∧ Remarked acc.2 r.2 := by
  induction l with
  | nil => exact fun acc _ => ⟨rfl, remarked_refl _⟩
  | cons k l ih =>
    intro acc h
    obtain ⟨hgood, hsame⟩ := readWord_clean m (h k List.mem_cons_self)
    dsimp only
    rw [List.foldl_cons, ite_self, hgood, Bool.or_false]
    obtain ⟨hres, hrest⟩ := ih (acc.1, (readWord m (a + k) .none acc.2).2) fun j hj =>
      (hsame.markOf_eq _).trans (h j (List.mem_cons_of_mem _ hj))
    exact ⟨hres, hsame.trans hrest⟩

theorem readWords_clean (m : Master) {a n : Nat} (hn : 0 < n)
    (h : ∀ w ∈ (List.range n).map (fun i => (a + i) / 8), markOf s w = none) :
    (readWords m a n .none s).1 = false ∧ Remarked s (readWords m a n .none s).2 := by
  refine foldReads_clean (false, s) fun k hk => h _ (List.mem_map.mpr ?_)
  have hlt := List.mem_range.mp hk
  refine ⟨if k = 0 then 0 else 8 * (a / 8 + k) - a, ?_⟩
  rw [List.mem_range]
  split <;> omega

/-- The words read before a write. -/
theorem readFirst_clean (m : Master) {ps : List Nat} {x : Upset} (h : ∀ w ∈ ps, markOf s w = none ∧ x = .none) :
    (readFirst m ps x s).1 = [] ∧ Remarked s (readFirst m ps x s).2 := by
  have hfold : ∀ (l : List Nat) (acc : List Nat × State), (∀ w ∈ l, markOf acc.2 w = none ∧ x = .none) →
      let r := l.foldl (fun acc w =>
        let y := readWord m w (if ps.head? = some w then x else .none) acc.2
        (if y.1 then acc.1 ++ [w] else acc.1, y.2)) acc
      r.1 = acc.1 ∧ Remarked acc.2 r.2 := by
    intro l
    induction l with
    | nil => exact fun acc _ => ⟨rfl, remarked_refl _⟩
    | cons w l ih =>
      intro acc h
      obtain ⟨hmark, rfl⟩ := h w List.mem_cons_self
      obtain ⟨hgood, hsame⟩ := readWord_clean m hmark
      dsimp only
      rw [List.foldl_cons, ite_self, hgood, if_neg Bool.false_ne_true]
      obtain ⟨hres, hrest⟩ := ih (acc.1, (readWord m w .none acc.2).2) fun j hj =>
        ⟨(hsame.markOf_eq _).trans (h j (List.mem_cons_of_mem _ hj)).1, rfl⟩
      exact ⟨hres, hsame.trans hrest⟩
  exact hfold ps ([], s) h

/-! Stores. -/

theorem mem_storeBytes (a : Nat) (d : List Byte) (s : State) :
    (storeBytes a d s).grn.mem = Memory.writeBytes s.grn.mem a d := by
  unfold storeBytes
  split
  next hempty =>
    rw [List.isEmpty_iff.mp hempty]
    rfl
  next => exact keeps_markDirty _ _ _ .mem (by decide)

theorem read_writeBytes {m : List Host.Cell} {a : Nat} {d : List Byte} (h : Memory.wf m = true) (x : Nat) :
    Memory.read (Memory.writeBytes m a d) x =
      if a ≤ x ∧ x < a + d.length then d.getD (x - a) 0 else Memory.read m x := by
  split
  next hin =>
    have hread := read_writeBytes_in d (a := a) (i := x - a) h (by omega)
    rwa [show a + (x - a) = x by omega] at hread
  next hout => exact read_writeBytes_out d h (by omega)

theorem grnWrite_clean (m : Master) {a : Nat} {d : List Byte} {x : Upset}
    (h : ∀ w ∈ partialWords a d.length, markOf s w = none ∧ x = .none) :
    ∃ u, Remarked s u ∧ grnWrite m a d x s = (true, storeBytes a d u) := by
  obtain ⟨hgood, hsame⟩ := readFirst_clean m h
  refine ⟨_, hsame, ?_⟩
  unfold grnWrite
  dsimp only
  rw [hgood]
  simp

/-! The four accesses. -/

theorem violation_eq (m : Master) (write : Bool) (a : Nat) (cls : Machine.Class) (h : s.pwr.core = true) :
    violation m write a cls s = { s with
      rve.inbox := s.rve.inbox ++ [⟨7, cls, BitVec.ofNat 32 (a / 8 + m.code * 2 ^ 23), false, s.now⟩]
      grn.violMaster := m
      grn.violWrite := write
      grn.violAddr := a } := by
  unfold violation
  rw [raise_of_core (by exact h)]

theorem bar2_read {a : BitVec 26} {n : BitVec 13} (hup : hostUp s = true) (hready : grnReady s = true)
    (hn : 0 < n.toNat) (hmay : grnMay s permHostR true a.toNat n.toNat = true)
    (hclean : ∀ w ∈ (List.range n.toNat).map (fun i => (a.toNat + i) / 8), markOf s w = none) :
    Answers (exec (.bar2Read a n .none) s) fun t =>
      Sent [.answer (grnRead s a.toNat n.toNat) false] s t ∧ t.grn.mem = s.grn.mem ∧ t.rve = s.rve := by
  obtain ⟨hgood, m, hread, -⟩ := readWords_clean .host hn hclean
  refine answers_whenS (by rw [hup, decide_eq_true hn]; rfl) ?_
  unfold hostAccess serveHost
  rw [if_pos hready]
  dsimp only
  rw [if_pos hmay, hgood, hread]
  exact ⟨rfl, rfl, rfl⟩

theorem bar2_read_refused {a : BitVec 26} {n : BitVec 13} {x : Upset} (hup : hostUp s = true)
    (hready : grnReady s = true) (hn : 0 < n.toNat) (hmay : grnMay s permHostR true a.toNat n.toNat = false) :
    Answers (exec (.bar2Read a n x) s) fun t =>
      Sent [.answer (List.replicate n.toNat 0) false] s t ∧
      Raised 7 .note (a.toNat / 8 + Master.host.code * 2 ^ 23) s t ∧ t.grn.violMaster = .host ∧
      t.grn.violAddr = a.toNat ∧ t.grn.violWrite = false ∧ Keeps [.out, .grn, .rve] s t := by
  have hcore := core_of_hostUp hup
  refine answers_whenS (by rw [hup, decide_eq_true hn]; rfl) ?_
  unfold hostAccess serveHost
  rw [if_pos hready]
  dsimp only
  rw [if_neg (ne_true_of_eq_false hmay)]
  have hkeep : Keeps [.out, .grn, .rve] s
      (emit (.answer (List.replicate n.toNat 0) false) (violation .host false a.toNat .note s)) :=
    keeps_step (keeps_emit _ _) rfl (keeps_mono (keeps_violation _ _ _ _ _) rfl)
  have hraise := violation_eq .host false a.toNat .note hcore
  exact ⟨by rw [hraise]; rfl, by rw [hraise]; rfl, by rw [hraise]; rfl, by rw [hraise]; rfl,
    by rw [hraise]; rfl, hkeep⟩

theorem bar2_write {a : BitVec 26} {d : List Byte} {x : Upset} (hup : hostUp s = true)
    (hready : grnReady s = true) (hd : d ≠ []) (hmay : grnMay s permHostW false a.toNat d.length = true)
    (hclean : ∀ w ∈ partialWords a.toNat d.length, markOf s w = none ∧ x = .none)
    (hwf : Memory.wf s.grn.mem = true) :
    Answers (exec (.bar2Write a d x) s) fun t =>
      (∀ i, i < d.length → Memory.read t.grn.mem (a.toNat + i) = d.getD i 0) ∧
      (∀ y, y < a.toNat ∨ a.toNat + d.length ≤ y →
        Memory.read t.grn.mem y = Memory.read s.grn.mem y) ∧ t.out = s.out ∧ t.rve = s.rve := by
  obtain ⟨u, ⟨m, hu, -⟩, hwrite⟩ := grnWrite_clean .host hclean
  refine answers_whenS (by rw [hup]; simpa using hd) ?_
  unfold hostAccess serveHost
  rw [if_pos hready]
  dsimp only
  rw [if_pos hmay, hwrite]
  have hmem : (storeBytes a.toNat d u).grn.mem = Memory.writeBytes s.grn.mem a.toNat d := by
    rw [mem_storeBytes, hu]
  have hkeep := keeps_storeBytes a.toNat d u
  rw [hmem]
  refine ⟨fun i hi => read_writeBytes_in d hwf hi, fun y hy => read_writeBytes_out d hwf hy, ?_, ?_⟩
  · rw [show (storeBytes a.toNat d u).out = u.out from hkeep .out (by decide), hu]
  · rw [show (storeBytes a.toNat d u).rve = u.rve from hkeep .rve (by decide), hu]

theorem bar2_write_refused {a : BitVec 26} {d : List Byte} {x : Upset} (hup : hostUp s = true)
    (hready : grnReady s = true) (hd : d ≠ []) (hmay : grnMay s permHostW false a.toNat d.length = false) :
    Answers (exec (.bar2Write a d x) s) fun t =>
      t.grn.mem = s.grn.mem ∧ t.grn.violMaster = .host ∧ t.grn.violWrite = true ∧ t.grn.violAddr = a.toNat ∧
      Raised 7 .note (a.toNat / 8 + Master.host.code * 2 ^ 23) s t ∧ Keeps [.grn, .rve] s t := by
  have hcore := core_of_hostUp hup
  refine answers_whenS (by rw [hup]; simpa using hd) ?_
  unfold hostAccess serveHost
  rw [if_pos hready]
  dsimp only
  rw [if_neg (ne_true_of_eq_false hmay)]
  have hraise := violation_eq .host true a.toNat .note hcore
  exact ⟨by rw [hraise], by rw [hraise], by rw [hraise], by rw [hraise], by rw [hraise]; rfl,
    keeps_violation _ _ _ _ _⟩

/-- An access while the Granary is not ready. -/
theorem hostAccess_waits (x : Bar2Req) (h : grnReady s = false) :
    hostAccess x s = { s with hif.bar2Wait := s.hif.bar2Wait ++ [x] } :=
  if_neg (ne_true_of_eq_false h)

/-- Settles O35: an access is served at once or waits, and over words without an error a read leaves the
memory and a write is the store of its bytes. -/
theorem hostMemoryAccess : Obligations.HostMemoryAccess := by
  unfold Obligations.HostMemoryAccess
  refine ⟨fun _ _ _ => bar2_read, fun _ _ _ _ => bar2_read_refused, fun _ _ _ _ hup hready hd hmay hclean _ =>
    bar2_write hup hready hd hmay hclean, fun _ _ _ _ => bar2_write_refused, ?_⟩
  intro s a x hup hready
  refine ⟨fun n hn => ?_, fun d hd => ?_⟩
  · rw [← hostAccess_waits _ hready]
    exact congrArg Host.Outcome.next (whenS_true (b := hostUp s && decide (0 < n.toNat)) (by rw [hup, decide_eq_true hn]; rfl))
  · rw [← hostAccess_waits _ hready]
    exact congrArg Host.Outcome.next (whenS_true (b := hostUp s && !d.isEmpty) (by rw [hup]; simpa using hd))

end Sys2Proof.Proofs
end

section
/-!
SUPPORT. O36: initialisation, rewrites, row repair, scrub, march and retention of the Granary.
-/

namespace Sys2Proof.Proofs

set_option Elab.async false

open Sys2Proof Sys2Proof.Machine Sys2Proof.Safety Sys2Proof.Laws

variable {s t u : State}

theorem serveWaiting_of_nil (h : s.hif.bar2Wait = []) : serveWaiting s = s := by
  unfold serveWaiting
  rw [h, List.foldl_nil, ← h]

/-! Initialisation (R125, R126). -/

/-- The Granary as initialisation leaves it. -/
def initialised (s : State) : State :=
  { s with
    grn.mem := [], grn.marks := [], grn.rewritten := [], grn.rewriteQ := []
    lpl.old := Tab.all 2 none
    grn.lost := false, grn.initDone := true, grn.scrubWord := 0, grn.scrubActive := false
    pwr.start := s.pwr.start.map fun x => { x with granary := true } }

theorem keeps_initialised (s : State) : Keeps [.grn, .mem, .pwr, .lpl] s (initialised s) := by
  unfold initialised
  exact keeps_mk (keeps_refl _ _)

theorem initDone_nil (h : s.hif.bar2Wait = []) : initDone [] s = settleCopies (initialised s) :=
  serveWaiting_of_nil h

/-- One failing word of a row that is not repaired, with a spare free (R126). -/
theorem repairFailing_new {w : Nat} (hcopy : s.grn.copying = []) (hrep : s.grn.repaired = []) :
    repairFailing (0, [], s) w = (1, [], { s with grn.copying := [rowOf w] }) := by
  have hunder : underCopy s w = false := by
    unfold underCopy
    rw [hcopy]
    rfl
  have hspares : sparesUsed s (wordBank w) < 4 := by
    unfold sparesUsed
    rw [hcopy, hrep]
    simp
  have hstart : startRepair w s = { s with grn.copying := [rowOf w] } := by
    unfold startRepair rowOf
    rw [if_pos hspares, hcopy]
    rfl
  unfold repairFailing
  dsimp only
  rw [hunder, if_neg (by simp), if_pos hspares, hstart]

/-- The Granary after a start-up march that found one failing row, its spare taken. -/
def initialisedWith (r : RowCopy) (s : State) : State :=
  { initialised s with
    grn.repaired := [r]
    grn.copying := [] }

theorem initDone_single {w : Nat} (hwait : s.hif.bar2Wait = []) (hcopy : s.grn.copying = [])
    (hrep : s.grn.repaired = []) : initDone [w] s = initialisedWith (rowOf w) s := by
  have hrepair := repairFailing_new (s := initialised s) (w := w) hcopy hrep
  have hsettle : settleCopies { initialised s with grn.copying := [rowOf w] } = initialisedWith (rowOf w) s := by
    unfold settleCopies initialisedWith
    rw [show (initialised s).grn.repaired = [] from hrep]
    rfl
  have hleave : leaveBad (initialisedWith (rowOf w) s) w = initialisedWith (rowOf w) s :=
    if_pos (by simp [initialisedWith, rowOf])
  have hdone : initDone [w] s = serveWaiting
      (if (repairFailing (0, [], initialised s) w).2.1.isEmpty then
        leaveBad (settleCopies (repairFailing (0, [], initialised s) w).2.2) w
      else raise 7 .major (w + Master.march.code * 2 ^ 23)
        (leaveBad (settleCopies (repairFailing (0, [], initialised s) w).2.2) w)) := rfl
  rw [hdone, hrepair]
  dsimp only
  rw [hsettle, hleave]
  exact serveWaiting_of_nil hwait

/-- What the guard of GRANARY_INIT_DONE asks for. -/
theorem initDone_runs {st : Start} {failing : List (BitVec 26)} (hcore : s.pwr.core = true)
    (hinit : s.grn.initDone = false) (hret : s.grn.retention = false) (hstart : s.pwr.start = some st)
    (hpg : st.pgCore = true) (hsram : st.pgSram = true) (hgrn : st.granary = false) :
    exec (.granaryInitDone failing) s = .next (initDone (failing.map fun a => a.toNat / 8) s) := by
  refine congrArg Host.Outcome.next (whenS_true ?_)
  rw [hstart, hcore, hinit, hret]
  dsimp only
  rw [hpg, hsram, hgrn]
  rfl

/-! ECC rewrites and row repair (R118, R119). -/

theorem markOf_putMark_none (l : List (Nat × Mark)) (w : Nat) :
    ((putMark l w none).find? fun x => x.1 == w) = none := by
  have hlow := find_filter_word (fun y => decide (y < w)) l w
  have hhigh := find_filter_word (fun y => decide (w < y)) l w
  unfold putMark
  rw [List.find?_append, List.find?_append, hlow, hhigh]
  simp

theorem ecc_rewrite {b : Fin 32} {w : Nat} {r : List Nat} (hcore : s.pwr.core = true) (hready : grnReady s = true)
    (hq : s.grn.rewriteQ = w :: r) (hbank : wordBank w = b.val) (hnot : w ∉ r) (hmark : markOf s w = some .single) :
    Answers (exec (.eccRewrite b) s) fun t =>
      t.grn.rewriteQ = r ∧ w ∈ t.grn.rewritten ∧ markOf t w = none ∧ t.grn.mem = s.grn.mem ∧
      t.grn.eccCe = s.grn.eccCe ∧ Keeps [.grn] s t := by
  refine answers_whenS (by rw [hcore, hready]; rfl) ?_
  have hfind : (s.grn.rewriteQ.find? fun x => wordBank x == b.val) = some w := by
    rw [hq, List.find?_cons_of_pos (by simp [hbank])]
  have hfilter : (s.grn.rewriteQ.filter fun x => x != w) = r := by
    rw [hq, List.filter_cons_of_neg (by simp)]
    exact List.filter_eq_self.mpr fun x hx => by simpa using fun h : x = w => hnot (h ▸ hx)
  rw [hfind]
  dsimp only
  rw [hfilter, hmark, if_pos rfl]
  refine ⟨rfl, ?_, by rw [markOf, markOf_putMark_none]; rfl, rfl, rfl, keeps_mk (keeps_refl _ _)⟩
  split
  next h => exact List.contains_iff_mem.mp h
  next => exact List.mem_append_right _ (List.mem_singleton_self w)

theorem row_repaired {x : RowCopy} {r : List RowCopy} (hcore : s.pwr.core = true) (hready : grnReady s = true)
    (hcopy : s.grn.copying = x :: r) :
    Answers (exec .rowRepairComplete s) fun t =>
      t.grn.copying = r ∧ t.grn.repaired = s.grn.repaired ++ [x] ∧ t.grn.mem = s.grn.mem ∧
      (∀ m ∈ t.grn.marks, inRow x m.1 = true → m.2 ≠ .single) ∧ Keeps [.grn] s t := by
  refine answers_whenS (by rw [hcore, hready]; rfl) ?_
  rw [hcopy]
  dsimp only
  refine ⟨rfl, rfl, rfl, fun m hm hrow hsingle => ?_, keeps_mk (keeps_refl _ _)⟩
  have := (List.mem_filter.mp hm).2
  simp [hrow, hsingle] at this

/-! The scrub (R123, R124). -/

theorem scrubBanks_clean (b : Fin 32) (h : s.grn.marks = []) : scrubBanks b .none s = s := by
  have hfold : ∀ l : List Nat, l.foldl (fun t b' =>
      (readWord .scrub (32 * s.grn.scrubWord + b') (if b' = b.val then Upset.none else .none) t).2) s = s := by
    intro l
    induction l with
    | nil => rfl
    | cons k l ih =>
      have hclean : markOf s (32 * s.grn.scrubWord + k) = none := by
        rw [markOf, h]
        rfl
      rw [List.foldl_cons, ite_self, (readWord_clean .scrub hclean).2.eq_of_nil h, ih]
  exact hfold _

theorem scrubOn_spec (h : s.grn.marks = []) :
    (if s.grn.scrubWord + 1 < 262144 then
      (scrubOn s).grn.scrubWord = s.grn.scrubWord + 1 ∧ (scrubOn s).grn.passes = s.grn.passes
    else (scrubOn s).grn.scrubWord = 0 ∧ (scrubOn s).grn.passes = (s.grn.passes + 1) % 16384) ∧
    (scrubOn s).grn.marks = [] ∧ Keeps [.grn] s (scrubOn s) := by
  unfold scrubOn
  split
  next hend =>
    rw [if_neg (by omega)]
    exact ⟨⟨rfl, rfl⟩, h, keeps_mk (keeps_refl _ _)⟩
  next hgo =>
    rw [if_pos (by omega)]
    exact ⟨⟨rfl, rfl⟩, h, keeps_mk (keeps_refl _ _)⟩

/-! Stripes of a march (R127, R129 to R131) in which no word fails. -/

/-- The bytes as a stripe without failing words leaves them. -/
def stripeTested (m : March) (s : State) : State :=
  if m.destructive then storeBytes (m.start + 256 * m.done) (List.replicate 256 0) s else s

theorem stripe_clean {m : March} (hcore : s.pwr.core = true) (hready : grnReady s = true)
    (hmarch : s.grn.march = some m) :
    exec (.marchStripeDone []) s = .next
      (if 256 * (m.done + 1) ≥ m.length then marchEnd { m with done := m.done + 1 } (stripeTested m s)
      else { stripeTested m s with grn.march := some { m with done := m.done + 1 } }) := by
  refine congrArg Host.Outcome.next ((whenS_true (by rw [hcore, hready]; rfl)).trans ?_)
  have hbad : ((List.finRange 32).filter fun k => ([] : List (Fin 32)).contains k) = [] :=
    List.filter_eq_nil_iff.mpr fun _ _ => by simp
  have hfirst : (m.firstFail.orElse fun _ => none) = m.firstFail := by
    cases m.firstFail <;> rfl
  rw [hmarch]
  dsimp only
  rw [hbad, List.foldl_nil, List.head?_nil, Option.map_none, hfirst]
  rfl

theorem march_stripe {m : March} (hcore : s.pwr.core = true) (hready : grnReady s = true)
    (hmarch : s.grn.march = some m) (hkeep : m.destructive = false) (hmore : 256 * (m.done + 1) < m.length) :
    Answers (exec (.marchStripeDone []) s) fun t =>
      t.grn.march = some { m with done := m.done + 1 } ∧ Keeps [.grn] s t := by
  have hsame : stripeTested m s = s := if_neg (ne_true_of_eq_false hkeep)
  rw [stripe_clean hcore hready hmarch, if_neg (by omega), hsame]
  exact ⟨_, rfl, rfl, keeps_mk (keeps_refl _ _)⟩

theorem getD_zeros (n i : Nat) : (List.replicate n (0 : Byte)).getD i 0 = 0 := by
  rw [List.getD_eq_getElem?_getD, List.getElem?_replicate]
  split <;> rfl

/-- The end of a march that found nothing (R131). -/
theorem marchEnd_good {m : March} {c : Cmd} (hfail : m.failWords = 0) (hun : m.unrepaired = [])
    (hcmd : s.marchCmd = some c) :
    marchEnd m s = finish c stSuccess m.result { s with grn.march := none, marchCmd := none } := by
  unfold marchEnd
  dsimp only
  rw [hcmd, hun, hfail]
  simp only [List.isEmpty_nil, Bool.not_true, Bool.false_eq_true, if_false, ne_eq, not_true_eq_false]

theorem march_stripe_destructive {m : March} (hcore : s.pwr.core = true) (hready : grnReady s = true)
    (hmarch : s.grn.march = some m) (hdest : m.destructive = true) (hmore : 256 * (m.done + 1) < m.length)
    (hwf : Memory.wf s.grn.mem = true) :
    Answers (exec (.marchStripeDone []) s) fun t =>
      t.grn.march = some { m with done := m.done + 1 } ∧
      ∀ x, Memory.read t.grn.mem x =
        if m.start + 256 * m.done ≤ x ∧ x < m.start + 256 * m.done + 256 then 0
        else Memory.read s.grn.mem x := by
  have hmem : (stripeTested m s).grn.mem =
      Memory.writeBytes s.grn.mem (m.start + 256 * m.done) (List.replicate 256 0) := by
    unfold stripeTested
    rw [if_pos hdest, mem_storeBytes]
  rw [stripe_clean hcore hready hmarch, if_neg (by omega)]
  refine ⟨_, rfl, rfl, fun x => ?_⟩
  rw [hmem, read_writeBytes hwf, List.length_replicate]
  split
  next => exact getD_zeros _ _
  next => rfl

theorem march_finished {m : March} {c : Cmd} (hcore : s.pwr.core = true) (hready : grnReady s = true)
    (hmarch : s.grn.march = some m) (hkeep : m.destructive = false) (hend : m.length ≤ 256 * (m.done + 1))
    (hfail : m.failWords = 0) (hun : m.unrepaired = []) (hcmd : s.marchCmd = some c) :
    exec (.marchStripeDone []) s =
      .next (finish c stSuccess m.result { s with grn.march := none, marchCmd := none }) := by
  have hsame : stripeTested m s = s := if_neg (ne_true_of_eq_false hkeep)
  rw [stripe_clean hcore hready hmarch, if_pos hend, hsame, marchEnd_good (by exact hfail) (by exact hun) hcmd]
  unfold March.result
  rfl

/-! Retention (R133). -/

theorem retention_released {st : Start} (hcore : s.pwr.core = true) (hret : s.grn.retention = true)
    (hinit : s.grn.initDone = true) (hstart : s.pwr.start = some st) (hpg : st.pgCore = true)
    (hwait : s.hif.bar2Wait = []) :
    Answers (exec .retentionReleaseDone s) fun t =>
      grnReady t = true ∧ t.pwr.start = some { st with granary := true } ∧ Keeps [.grn, .pwr] s t := by
  refine answers_whenS (by rw [hstart, hcore, hret]; exact hpg) ?_
  rw [serveWaiting_of_nil (by exact hwait)]
  exact ⟨by rw [grnReady, hinit]; rfl, by rw [hstart]; rfl, keeps_mk (keeps_refl _ _)⟩

/-- Settles O36: each activity of the Granary is one update of its state, and reads of words without an
error change nothing. -/
theorem granaryUpkeep : Obligations.GranaryUpkeep := by
  unfold Obligations.GranaryUpkeep
  refine ⟨?_, ?_, fun _ _ _ _ => ecc_rewrite, fun _ _ _ => row_repaired, ?_, fun _ _ => march_stripe,
    fun _ _ => march_stripe_destructive, fun _ _ _ => march_finished, fun _ _ => retention_released⟩
  · intro s st hcore hinit hret hstart hpg hsram hgrn hwait
    rw [initDone_runs hcore hinit hret hstart hpg hsram hgrn, List.map_nil, initDone_nil hwait]
    refine ⟨_, rfl, rfl, rfl, ?_, rfl, rfl, ?_, keeps_step (keeps_settleCopies _) rfl (keeps_initialised s)⟩
    · show (true && !s.grn.retention) = true
      rw [hret]
      rfl
    · show s.pwr.start.map _ = _
      rw [hstart]
      rfl
  · intro s st a hcore hinit hret hstart hpg hsram hgrn hwait hrep hcopy
    rw [initDone_runs hcore hinit hret hstart hpg hsram hgrn, List.map_singleton,
      initDone_single hwait hcopy hrep]
    refine ⟨_, rfl, rfl, rfl, rfl, rfl, ?_, keeps_mk (keeps_initialised s)⟩
    show (true && !s.grn.retention) = true
    rw [hret]
    rfl
  · intro s b hcore hready hen hmarks
    refine answers_whenS (by rw [hcore, hready, hen]; rfl) ?_
    rw [scrubBanks_clean b hmarks]
    exact scrubOn_spec hmarks

end Sys2Proof.Proofs
end

section
/-!
SUPPORT. O37 fails: HEAD past a start is HEAD + 1 modulo the ring's size only where HEAD lies within the ring,
which the statement does not ask for. A HEAD at the ring's size goes to 0.
-/

namespace Sys2Proof.Proofs

set_option Elab.async false

open Sys2Proof Sys2Proof.Machine Sys2Proof.Safety Sys2Proof.Laws

/-- HEAD of submission ring 0 in an outcome. -/
def headLeft (o : Out) : Nat := match o with
  | .next t => (t.hif.sq[(0 : Fin 16)]).head
  | _ => 0

/-- Ring 0 holds one entry, of version 0; HEAD stands at the ring's size of 16. -/
def headOutside : State := { servingStartup with
  pwr.start := none
  hif.sq := State.reset.hif.sq.upd 0 fun q => { q with
    enable := true
    running := true
    head := 16
    fetched := [⟨0, false, 0⟩] } }

theorem head_deliver (src : Src) (e : Cpl) (quiet : Bool) (n : Fin 16) (s : State) :
    ((deliver src e quiet s).hif.sq[n]).head = (s.hif.sq[n]).head := by
  cases src with
  | ring m =>
    obtain ⟨r, l, hring, -⟩ := getElem_deliver_ring m n e quiet s
    rw [hring]
  | eth p key idx => rfl
  | i2c =>
    have hhif := hif_of_keeps (keeps_deliver_i2c e quiet s) (by decide) (by decide)
    rw [hhif]
  | startup i =>
    rw [deliver_startup]
    split
    · rfl
    · simp only [hif_of_keeps (keeps_raise _ _ _ _) (by decide) (by decide)]
  | discard => rfl

theorem head_complete (c : Cmd) (st fs : BitVec 16) (r : Result) (n : Fin 16) (s : State) :
    ((complete c st fs r s).hif.sq[n]).head = (s.hif.sq[n]).head := by
  cases hrun : findRunning c.ser s with
  | none => rw [complete_of_not_running hrun]
  | some k =>
    rw [complete_of_running hrun, head_deliver, hif_of_keeps (keeps_leftRunning c k s) (by decide) (by decide)]

/-- A command of another version completes at once and leaves every HEAD. -/
theorem head_startDesc (src : Src) (arr : Nat) (n : Fin 16) (s : State) :
    ((startDesc src arr 0 s).hif.sq[n]).head = (s.hif.sq[n]).head := by
  have hversion : ∀ c u, c.d = 0 → gate c u = some stVersion := fun c u hc =>
    if_pos (by unfold Cmd.version Cmd.f; rw [hc]; decide +kernel)
  unfold startDesc startCmd execute
  dsimp only
  rw [hversion _ _ rfl]
  exact head_complete _ _ _ _ _ _

theorem headLeft_headOutside : headLeft (exec .commandStart headOutside) = 0 := by
  decide +kernel

theorem nextHead_headOutside :
    ((headOutside.hif.sq[(0 : Fin 16)]).head + 1) % (headOutside.hif.sq[(0 : Fin 16)]).size = 1 := by
  decide +kernel

/-- Refutes O37: HEAD 16 of a ring of 16 entries goes to 0, and 17 modulo 16 is 1. -/
theorem not_commandStarts : ¬ Obligations.CommandStarts := by
  unfold Obligations.CommandStarts
  rintro ⟨h, -⟩
  obtain ⟨u, hexec, hhead, -⟩ := h headOutside 0 ⟨0, false, 0⟩ (by decide +kernel) (by decide +kernel)
    (by decide +kernel) (by decide +kernel) (by decide +kernel)
  have hleft := headLeft_headOutside
  rw [hexec, headLeft, head_startDesc] at hleft
  exact absurd (hleft.symm.trans (hhead.trans nextHead_headOutside)) (by decide)

end Sys2Proof.Proofs
end

section
/-!
SUPPORT. O39 fails: what had not finished in time halts a channel, unless the channel was aborted in the very
cycle. There the failure of a request leaves the channel ABORTED and moves its ERRADDR only (R98).
-/

namespace Sys2Proof.Proofs

set_option Elab.async false

open Sys2Proof Sys2Proof.Machine Sys2Proof.Safety Sys2Proof.Laws

/-- The state of channel 8 in an outcome. -/
def channelLeft (o : Out) : Option DmaState := match o with
  | .next t => some (t.dma.ch[(8 : Fin 32)]).state
  | _ => none

/-- Channel 8 was aborted in this cycle, while it fetched. -/
def abortedFetch : State := { State.reset with
  pwr.core := true
  dma.ch := State.reset.dma.ch.upd 8 fun c => { c with
    state := .aborted
    abortAt := some (State.reset.now, none) } }

theorem channelLeft_abortedFetch : channelLeft (exec (.dmaTimeout 8 .fetch) abortedFetch) = some .aborted := by
  decide +kernel

/-- Refutes O39: a fetch that times out in the cycle of an ABORT leaves its channel ABORTED. -/
theorem not_dmaProgress : ¬ Obligations.DmaProgress := by
  unfold Obligations.DmaProgress
  rintro ⟨-, -, -, -, htime, -⟩
  obtain ⟨t, ht, hstate, -⟩ := htime abortedFetch 8 .fetch _ (by decide +kernel) (by decide)
    (show _ = some ((abortedFetch.dma.ch[(8 : Fin 32)]).descAddr, (abortedFetch.dma.ch[(8 : Fin 32)]).descHost) by
      decide +kernel)
  have hleft := channelLeft_abortedFetch
  rw [ht, channelLeft, hstate] at hleft
  exact absurd hleft (by decide)

end Sys2Proof.Proofs
end

section
/-!
SUPPORT. O41: SYNC_IN, TE_IN, echo windows and plane copies.
-/

namespace Sys2Proof.Proofs

set_option Elab.async false

open Sys2Proof Sys2Proof.Machine Sys2Proof.Safety Sys2Proof.Laws

variable {s t u : State}

/-! Intervals of SYNC_IN (R259, R261). -/

theorem syncInEdge_first (hsync : syncGoverns s = true) (hedge : s.lpl.lastEdge = none) :
    exec .syncInEdge s = .next { s with lpl.lastEdge := some s.now } := by
  refine congrArg Host.Outcome.next ((whenS_true hsync).trans ?_)
  rw [hedge]

theorem syncInEdge_good {e : Nat} (hsync : syncGoverns s = true) (hedge : s.lpl.lastEdge = some e)
    (hlow : s.lpl.timing.period * 98 ≤ (s.now - e) * 100) (hhigh : (s.now - e) * 100 ≤ s.lpl.timing.period * 102)
    (hleast : s.lpl.timing.active + 8000 ≤ s.now - e) :
    Answers (exec .syncInEdge s) fun t =>
      t.lpl.goodRun = s.lpl.goodRun + 1 ∧ t.lpl.badRun = 0 ∧ t.lpl.lastEdge = some s.now ∧
      t.lpl.goodEdge = some s.now ∧ t.lpl.badEdges = s.lpl.badEdges ∧ Keeps [.lpl] s t := by
  refine answers_whenS hsync ?_
  rw [hedge]
  dsimp only
  rw [if_pos ⟨hlow, hhigh, hleast⟩]
  exact ⟨rfl, rfl, rfl, rfl, rfl, keeps_step (keeps_goodInterval _ _) rfl (keeps_mk (keeps_refl _ _))⟩

/-- A bad interval as it is counted. -/
def badCounted (s : State) : State :=
  { s with
    lpl.badEdges := bump 65535 1 s.lpl.badEdges
    lpl.badRun := s.lpl.badRun + 1
    lpl.goodRun := 0 }

/-- The loss of lock. -/
def lockLost (s : State) : State :=
  { s with
    lpl.syncLost := true
    lpl.holdover := true
    lpl.locked := false
    lpl.lockLosses := bump 65535 1 s.lpl.lockLosses }

theorem badInterval_eq (s : State) : badInterval s =
    if (s.lpl.locked && s.lpl.badRun + 1 == 4 && !s.lpl.syncLost) = true then
      raise 5 .minor (1 + s.lpl.composing.toNat * 65536) (lockLost (badCounted s))
    else badCounted s := rfl

theorem badInterval_counts (s : State) : (badInterval s).lpl.goodRun = 0 ∧
    (badInterval s).lpl.badRun = s.lpl.badRun + 1 ∧ (badInterval s).lpl.badEdges = bump 65535 1 s.lpl.badEdges ∧
    Keeps [.lpl, .rve] s (badInterval s) := by
  have hraise : (raise 5 .minor (1 + s.lpl.composing.toNat * 65536) (lockLost (badCounted s))).lpl =
      (lockLost (badCounted s)).lpl := keeps_raise _ _ _ _ .lpl (by decide)
  have hkeep := keeps_badInterval s
  rw [badInterval_eq] at hkeep ⊢
  split
  next h =>
    rw [if_pos h] at hkeep
    rw [hraise]
    exact ⟨rfl, rfl, rfl, hkeep⟩
  next h =>
    rw [if_neg h] at hkeep
    exact ⟨rfl, rfl, rfl, hkeep⟩

/-- The fourth bad interval in a row of a locked device (R261). -/
theorem badInterval_loses (hcore : s.pwr.core = true) (hlocked : s.lpl.locked = true) (hrun : s.lpl.badRun = 3)
    (hlost : s.lpl.syncLost = false) :
    (badInterval s).lpl.holdover = true ∧ (badInterval s).lpl.syncLost = true ∧
    (badInterval s).lpl.locked = false ∧ (badInterval s).lpl.lockLosses = bump 65535 1 s.lpl.lockLosses ∧
    Raised 5 .minor (1 + s.lpl.composing.toNat * 65536) s (badInterval s) := by
  rw [badInterval_eq, if_pos (by rw [hlocked, hrun, hlost]; rfl), raise_of_core (by exact hcore)]
  exact ⟨rfl, rfl, rfl, rfl, rfl⟩

theorem syncInEdge_bad {e : Nat} (hsync : syncGoverns s = true) (hedge : s.lpl.lastEdge = some e)
    (hshort : (s.now - e) * 100 < s.lpl.timing.period * 98) :
    Answers (exec .syncInEdge s) fun t =>
      t.lpl.goodRun = 0 ∧ t.lpl.badRun = s.lpl.badRun + 1 ∧
      t.lpl.badEdges = bump 65535 1 s.lpl.badEdges ∧ Keeps [.lpl, .rve] s t := by
  refine answers_whenS hsync ?_
  rw [hedge]
  dsimp only
  rw [if_neg (by omega)]
  obtain ⟨hgood, hbad, hcount, hkeep⟩ := badInterval_counts { s with lpl.lastEdge := some s.now }
  exact ⟨hgood, hbad, hcount, keeps_step hkeep rfl (keeps_mk (keeps_refl _ _))⟩

theorem syncInMissing_bad (hsync : syncGoverns s = true) :
    Answers (exec .syncInMissing s) fun t =>
      t.lpl.goodRun = 0 ∧ t.lpl.badRun = s.lpl.badRun + 1 ∧
      t.lpl.badEdges = bump 65535 1 s.lpl.badEdges ∧
      (s.lpl.locked = true → s.lpl.badRun = 3 → s.lpl.syncLost = false →
        t.lpl.holdover = true ∧ t.lpl.syncLost = true ∧ t.lpl.locked = false ∧
        t.lpl.lockLosses = bump 65535 1 s.lpl.lockLosses ∧
        Raised 5 .minor (1 + s.lpl.composing.toNat * 65536) s t) ∧ Keeps [.lpl, .rve] s t := by
  have hcore : s.pwr.core = true := by
    unfold syncGoverns at hsync
    simp only [Bool.and_eq_true] at hsync
    exact hsync.1.1
  refine answers_whenS hsync ?_
  obtain ⟨hgood, hbad, hcount, hkeep⟩ := badInterval_counts { s with lpl.lastEdge := none }
  exact ⟨hgood, hbad, hcount, fun hlocked hrun hlost =>
    badInterval_loses (s := { s with lpl.lastEdge := none }) hcore hlocked hrun hlost,
    keeps_step hkeep rfl (keeps_mk (keeps_refl _ _))⟩

theorem syncLock_timeout (hsync : syncGoverns s = true) (hhold : s.lpl.hold = true) :
    Answers (exec .syncLockTimeout s) fun t =>
      t.lpl.hold = false ∧ t.lpl.syncLost = true ∧ t.lpl.holdover = true ∧ Keeps [.lpl] s t :=
  answers_whenS (by rw [hsync, hhold]; rfl) ⟨rfl, rfl, rfl, keeps_mk (keeps_refl _ _)⟩

/-! TE_IN and echo windows (R224, R278, R577). -/

/-- The waits that an edge on TE_IN ends. -/
def teEnded (s : State) : State :=
  { s with lpl.teWait := s.lpl.teWait.mapI fun k w => if (s.lpl.map[k]).teIn then none else w }

theorem teIn_edge (hcore : s.pwr.core = true) :
    Answers (exec .teInEdge s) fun t =>
      (∀ k : Fin 96, t.lpl.teWait[k] = if (s.lpl.map[k]).teIn then none else s.lpl.teWait[k]) ∧
      Keeps [.hdg, .lpl] s t := by
  refine answers_whenS hcore ?_
  have hfold : ∀ l : List (Fin 96), Keeps [.hdg] (teEnded s) (l.foldl (fun s k =>
      match s.lpl.lastTo[k] with
      | some seq => if (s.lpl.map[k]).present && (s.lpl.map[k]).teIn then takeEcho k.val seq s else s
      | none => s) (teEnded s)) := by
    refine fun l => keeps_foldl (keeps_refl _ _) fun u k h => ?_
    split
    · exact keeps_ite (keeps_step (keeps_takeEcho _ _ _) rfl h) h
    · exact h
  have hkeep := hfold (List.finRange 96)
  have hwait : ∀ u : State, Keeps [.hdg] (teEnded s) u →
      (∀ k : Fin 96, u.lpl.teWait[k] = if (s.lpl.map[k]).teIn then none else s.lpl.teWait[k]) ∧
      Keeps [.hdg, .lpl] s u := fun u hu => by
    have hlpl : u.lpl = (teEnded s).lpl := hu .lpl (by decide)
    rw [hlpl]
    exact ⟨fun k => Tab.mapI_get _ _ _, keeps_step hu rfl (keeps_mk (keeps_refl _ _))⟩
  exact hwait _ hkeep

/-- The oldest window closes: every echo that it expected and did not get is a miss. -/
def windowClosed (w : EchoWin) (r : List EchoWin) (s : State) : State :=
  { s with
    hdg.echoWins := r
    hdg.echo := s.hdg.echo.mapI fun t x =>
      if !w.expected.getLsbD t then x
      else if w.expected.getLsbD t && !w.got.getLsbD t then
        { misses := if w.counts then x.misses + 1 else x.misses, missed := true }
      else { misses := 0, missed := false }
    hdg.echoBad := (List.range 96).any fun t => w.expected.getLsbD t && !w.got.getLsbD t }

theorem closeWindow_full {w : EchoWin} {r : List EchoWin} (hwins : s.hdg.echoWins = w :: r)
    (hmiss : ∀ i, (w.expected.getLsbD i && !w.got.getLsbD i) = false) : closeWindow s = windowClosed w r s := by
  unfold closeWindow
  rw [hwins]
  dsimp only
  rw [if_neg]
  · rfl
  · rw [List.any_eq_true]
    rintro ⟨x, -, hx⟩
    rw [hmiss, Bool.and_false] at hx
    simp at hx

theorem windowClosed_spec {w : EchoWin} {r : List EchoWin}
    (hmiss : ∀ i, (w.expected.getLsbD i && !w.got.getLsbD i) = false) :
    (windowClosed w r s).hdg.echoWins = r ∧ (windowClosed w r s).hdg.cause = s.hdg.cause ∧
    (∀ k : Fin 96, w.expected.getLsbD k.val = true → ((windowClosed w r s).hdg.echo[k]).misses = 0) ∧
    Keeps [.hdg] s (windowClosed w r s) := by
  have hecho : ∀ k : Fin 96, (windowClosed w r s).hdg.echo[k] =
      if !w.expected.getLsbD k.val then s.hdg.echo[k] else { misses := 0, missed := false } := fun k => by
    unfold windowClosed
    dsimp only
    rw [Tab.mapI_get, hmiss]
    rfl
  have hcause : (windowClosed w r s).hdg.cause = s.hdg.cause := by simp only [windowClosed]
  refine ⟨rfl, hcause, fun k hk => ?_, keeps_mk (keeps_refl _ _)⟩
  rw [hecho, hk]
  rfl

theorem echoWindow_full {w : EchoWin} {r : List EchoWin} (hpwr : s.pwr.hedge = true)
    (hwins : s.hdg.echoWins = w :: r) (hall : w.expected = w.got) :
    Answers (exec .echoWindowExpiry s) fun t =>
      t.hdg.echoWins = r ∧ t.hdg.cause = s.hdg.cause ∧
      (∀ k : Fin 96, w.expected.getLsbD k.val = true → (t.hdg.echo[k]).misses = 0) ∧
      Keeps [.hdg] s t := by
  have hmiss : ∀ i, (w.expected.getLsbD i && !w.got.getLsbD i) = false := fun i => by
    rw [hall]
    cases w.got.getLsbD i <;> rfl
  refine answers_whenS hpwr ?_
  rw [closeWindow_full hwins hmiss]
  exact windowClosed_spec hmiss

/-! Plane copies (R214). -/

/-- The copy of a plane as it ends. -/
def copyEnded (b : Nat) (s : State) : State := { s with pho.plane := some (.copied b) }

/-- The end of the copy, if one runs. -/
def copyRun (s : State) : State :=
  match s.pho.plane with
  | some (.copying b) => copyEnded b (copyPlane b s)
  | _ => s

theorem planeCopyComplete_eq (s : State) : exec .planeCopyComplete s = .next (whenS s.pwr.core copyRun s) := rfl

theorem copyRun_copying {b : Nat} (hplane : s.pho.plane = some (.copying b)) :
    copyRun s = copyEnded b (copyPlane b s) := by
  unfold copyRun
  rw [hplane]

theorem copyEnded_spec {b : Nat} (hkeep : Keeps [.free, .grn, .mem, .rve, .yok] s u) :
    (copyEnded b u).pho.plane = some (.copied b) ∧ (copyEnded b u).pho.planeBase = s.pho.planeBase ∧
      Keeps [.free, .grn, .mem, .pho, .rve, .yok] s (copyEnded b u) := by
  have hpho : u.pho = s.pho := hkeep .pho (by decide)
  refine ⟨rfl, ?_, keeps_mk (keeps_mono hkeep rfl)⟩
  show u.pho.planeBase = _
  rw [hpho]

theorem planeCopy_ended {b : Nat} (hcore : s.pwr.core = true) (hplane : s.pho.plane = some (.copying b)) :
    Answers (exec .planeCopyComplete s) fun t =>
      t.pho.plane = some (.copied b) ∧ t.pho.planeBase = s.pho.planeBase ∧
      Keeps [.free, .grn, .mem, .pho, .rve, .yok] s t := by
  rw [planeCopyComplete_eq, whenS_true hcore, copyRun_copying hplane]
  exact answers_of_eq rfl (copyEnded_spec (keeps_copyPlane b s))

/-- Settles O41: each event of SYNC_IN and TE_IN is one update of the Lamplighter, and a window without a
miss raises nothing. -/
theorem syncAndEchoes : Obligations.SyncAndEchoes := by
  unfold Obligations.SyncAndEchoes
  exact ⟨fun _ _ => syncInEdge_good, fun _ => syncInEdge_first, fun _ _ => syncInEdge_bad,
    fun _ => syncInMissing_bad, fun _ => syncLock_timeout, fun _ => teIn_edge, fun _ _ _ => echoWindow_full,
    fun _ _ => planeCopy_ended⟩

end Sys2Proof.Proofs
end

section
/-!
SUPPORT. O42: sensor samples, staleness, throttle levels and calibration steps.
-/

namespace Sys2Proof.Proofs

set_option Elab.async false

open Sys2Proof Sys2Proof.Machine Sys2Proof.Safety Sys2Proof.Laws

variable {s t u : State}

/-! What follows from a change of the sensors leaves the sensors, the positions and the count of BROKEN. -/

/-- The sensors, the tile positions and the count of BROKEN are the same. -/
structure SensorsKept (s t : State) : Prop where
  sensor : t.thm.sensor = s.thm.sensor
  tile : t.thm.tile = s.thm.tile
  count : t.thm.brokenCnt = s.thm.brokenCnt

theorem sensorsKept_refl (s : State) : SensorsKept s s := ⟨rfl, rfl, rfl⟩

theorem SensorsKept.trans (h : SensorsKept s t) (k : SensorsKept t u) : SensorsKept s u :=
  ⟨k.sensor.trans h.sensor, k.tile.trans h.tile, k.count.trans h.count⟩

theorem sensorsKept_of_thm (h : t.thm = s.thm) : SensorsKept s t :=
  ⟨by rw [h], by rw [h], by rw [h]⟩

theorem sensorsKept_ite {c : Prop} [Decidable c] (h : SensorsKept s t) (k : SensorsKept s u) :
    SensorsKept s (if c then t else u) := by
  split
  · exact h
  · exact k

theorem sensorsKept_raise (g : Nat) (c : Machine.Class) (d : Nat) (s : State) : SensorsKept s (raise g c d s) :=
  sensorsKept_of_thm (keeps_raise _ _ _ _ .thm (by decide))

theorem sensorsKept_modClass (light : Bool) (f : ThermClass → ThermClass) (s : State) :
    SensorsKept s (modClass light f s) :=
  sensorsKept_ite ⟨rfl, rfl, rfl⟩ ⟨rfl, rfl, rfl⟩

theorem sensorsKept_entered (i old new : Nat) (light : Bool) (s : State) :
    SensorsKept s (entered i light old new s) := by
  unfold entered
  refine sensorsKept_ite (sensorsKept_refl s) (sensorsKept_ite (sensorsKept_raise _ _ _ _) ?_)
  have hrise : ∀ c d, SensorsKept s (modClass light ThermClass.rise (raise 12 c d s)) := fun c d =>
    (sensorsKept_raise _ _ _ _).trans (sensorsKept_modClass _ _ _)
  exact sensorsKept_ite ((hrise _ _).trans ⟨rfl, rfl, rfl⟩) (hrise _ _)

theorem sensorsKept_sendFbkAll (s : State) : SensorsKept s (sendFbkAll s) :=
  sensorsKept_of_thm (keeps_sendFbkAll _ .thm (by decide))

/-! The three parts of what follows (R419 to R421). -/

/-- ALL_BROKEN of the DIE class. -/
def settleBroken (s : State) : State :=
  if ((s.thm.sensor.toList.filter fun x => x.used && !x.light).all fun x => x.st.broken) then
    if !s.thm.die.allBroken then
      raise 12 .major 0 (modClass false (fun c => { c with allBroken := true, level := c.maxLevel }) s)
    else modClass false (fun c => { c with allBroken := true, level := c.maxLevel }) s
  else modClass false (fun c => { c with allBroken := false }) s

/-- The outputs at SHUTDOWN of the DIE class are about to go. -/
def shutdownBegun (s : State) : State :=
  { s with thm.shutdown := true, thm.shutdowns := bump 255 1 s.thm.shutdowns, lpl.resume := some false }

/-- The state after SHUTDOWN of the DIE class, its level still to be set. -/
def shutdownEnded (s : State) : State := { s with thm.shutdown := false }

/-- The outputs at SHUTDOWN of the DIE class. -/
def settleShutdown (s : State) : State :=
  if dieState s == 3 && !s.thm.shutdown then sendFbkAll (shutdownBegun s)
  else if !(dieState s == 3) && s.thm.shutdown then
    modClass false (fun c => { c with level := c.maxLevel }) (shutdownEnded s)
  else s

/-- The level of the LIGHT class in SHUTDOWN. -/
def settleLight (s : State) : State :=
  if lightState s = 3 then modClass true (fun c => { c with level := c.maxLevel }) s else s

theorem settleThermal_eq (s : State) : settleThermal s = settleLight (settleShutdown (settleBroken s)) := rfl

theorem sensorsKept_settleThermal (s : State) : SensorsKept s (settleThermal s) := by
  have hbroken : SensorsKept s (settleBroken s) := sensorsKept_ite
    (sensorsKept_ite ((sensorsKept_modClass _ _ _).trans (sensorsKept_raise _ _ _ _)) (sensorsKept_modClass _ _ _))
    (sensorsKept_modClass _ _ _)
  have hshut : ∀ u, SensorsKept u (settleShutdown u) := fun u => sensorsKept_ite
    (SensorsKept.trans (t := shutdownBegun u) ⟨rfl, rfl, rfl⟩ (sensorsKept_sendFbkAll _))
    (sensorsKept_ite (SensorsKept.trans (t := shutdownEnded u) ⟨rfl, rfl, rfl⟩ (sensorsKept_modClass _ _ _)) (sensorsKept_refl u))
  have hlight : ∀ u, SensorsKept u (settleLight u) := fun u =>
    sensorsKept_ite (sensorsKept_modClass _ _ _) (sensorsKept_refl u)
  rw [settleThermal_eq]
  exact hbroken.trans ((hshut _).trans (hlight _))

theorem sensorsKept_calMoved (s : State) : SensorsKept s (calMoved s) := by
  have hstart : ∀ i c, SensorsKept s (startCal i c s) := fun _ _ => ⟨rfl, rfl, rfl⟩
  have htrigger : SensorsKept s (triggerCal s) :=
    sensorsKept_ite (sensorsKept_refl s) (sensorsKept_ite (hstart _ _) ⟨rfl, rfl, rfl⟩)
  unfold calMoved
  split
  · exact sensorsKept_ite htrigger (sensorsKept_refl s)
  · exact sensorsKept_refl s

/-! The Reeve's inbox only grows. -/

theorem grows_finish (c : Cmd) (st : BitVec 16) (r : Result) (s : State) : Grows s (finish c st r s) :=
  grows_ite (grows_of_rve (keeps_issueCommit s .rve (by decide))) (grows_complete _ _ _ _ _)

theorem grows_checkRailJobs (s : State) : Grows s (checkRailJobs s) := by
  refine grows_foldl (fun t j => ?_) _ _
  split
  · exact grows_refl t
  · exact Grows.trans (grows_of_rve (by rfl)) (grows_finish _ _ _ _)

/-- The test of a run ends with an error counted. -/
def testFailed (s : State) : State := { s with tst.failed := bump 65535 1 s.tst.failed }

theorem grows_endRun (st : BitVec 16) (errors flags : Nat) (s : State) : Grows s (endRun st errors flags s) := by
  unfold endRun
  split
  · exact grows_refl s
  · have hended : Grows s { s with tst.job := none } := grows_of_rve rfl
    exact (hended.trans (grows_ite (Grows.trans (t := testFailed { s with tst.job := none }) (grows_of_rve rfl)
      (grows_raise _ _ _ _)) (grows_refl _))).trans (grows_complete _ _ _ _ _)

theorem grows_checkRailTest (s : State) : Grows s (checkRailTest s) := by
  unfold checkRailTest
  split
  · exact grows_ite (grows_endRun _ _ _ s) (grows_refl s)
  · exact grows_refl s

theorem grows_settleRails (s : State) : Grows s (settleRails s) := by
  have hpass : ∀ u, Grows u (railPass u) := fun u =>
    grows_foldl (fun t k => grows_of_keeps (keeps_settleRail k t) (by decide)) _ u
  have hpasses : Grows s (railPasses (releaseRails s)) :=
    (grows_of_keeps (keeps_releaseRails s) (by decide)).trans (grows_foldl (fun t _ => hpass t) _ _)
  exact hpasses.trans ((grows_of_keeps (keeps_pruneSeqs _) (by decide)).trans
    ((grows_checkRailJobs _).trans (grows_checkRailTest _)))

theorem grows_releaseLine (st : YokeState) (s : State) : Grows s (releaseLine st s) := by
  refine grows_ite ?_ (grows_refl s)
  refine Grows.trans ?_ (grows_settleRails _)
  have hdrop : ∀ u, (dropDisc u).rve = u.rve := fun u => by
    unfold dropDisc
    split
    · rfl
    · split <;> rfl
  have hboth : (dropDisc (dropRequests s)).rve = s.rve :=
    (hdrop _).trans (keeps_dropRequests _ .rve (by decide))
  exact grows_of_rve hboth

theorem grows_sendFbkAll (s : State) : Grows s (sendFbkAll s) := by
  have hsend : Grows s ((List.finRange 24).foldl (fun s' n =>
      if laneSilenced s n then sendLane (Fin.castSucc n) .quiet s'
      else match laneOverride s n with
        | some p => sendLane (Fin.castSucc n) p s'
        | none => s') s) := by
    have hlane : ∀ k p u, Grows u (sendLane k p u) := fun k p u => grows_of_keeps (keeps_sendLane k p u) (by decide)
    refine grows_foldl (fun t n => grows_ite (hlane _ _ _) ?_) _ s
    split
    · exact hlane _ _ _
    · exact grows_refl t
  exact grows_ite (hsend.trans (grows_releaseLine _ _)) hsend

theorem grows_settleThermal (s : State) : Grows s (settleThermal s) := by
  have hclass : ∀ l f u, Grows u (modClass l f u) := fun l f u => grows_of_keeps (keeps_modClass l f u) (by decide)
  have hbroken : Grows s (settleBroken s) :=
    grows_ite (grows_ite ((hclass _ _ _).trans (grows_raise _ _ _ _)) (hclass _ _ _)) (hclass _ _ _)
  have hshut : ∀ u, Grows u (settleShutdown u) := fun u => grows_ite
    (Grows.trans (t := shutdownBegun u) (grows_of_rve rfl) (grows_sendFbkAll _))
    (grows_ite (Grows.trans (t := shutdownEnded u) (grows_of_rve rfl) (hclass _ _ _)) (grows_refl u))
  rw [settleThermal_eq]
  exact hbroken.trans ((hshut _).trans (grows_ite (hclass _ _ _) (grows_refl _)))

/-! Samples (R410, R411, R413). -/

/-- A sensor's sample is counted against the 10 ms schedule. -/
def ticked (k : Fin 24) (s : State) : State := { s with thm.sensor := s.thm.sensor.upd k Sensor.count }

theorem sensor_ticked (k : Fin 24) (s : State) : (ticked k s).thm.sensor[k] = (s.thm.sensor[k]).count ∧
    ∀ j : Fin 24, j ≠ k → (ticked k s).thm.sensor[j] = s.thm.sensor[j] :=
  ⟨(Tab.upd_get _ _ _ _).trans (if_pos rfl), fun j hj => (Tab.upd_get _ _ _ _).trans (if_neg hj)⟩

theorem dieSample_cases (k : Fin 24) (v : Int) (s : State) : dieSample k v s = takeReading k v (ticked k s) ∨
    dieSample k v s = calMoved (takeReading k v (ticked k s)) := by
  unfold dieSample
  dsimp only
  split
  · exact .inr rfl
  · exact .inl rfl

theorem sensorSample_die {k : Fin 24} {i : Fin 120} {v : Int} (hcore : s.pwr.core = true) (hi : i.val = k.val) :
    exec (.sensorSample i v) s = .next (dieSample k ((s.thm.sensor[k]).reading i.val v) s) := by
  obtain ⟨i, hlt⟩ := i
  have hk : i < 24 := lt_of_eq_of_lt hi k.isLt
  obtain rfl : k = ⟨i, hk⟩ := Fin.ext hi.symm
  exact congrArg Host.Outcome.next ((whenS_true hcore).trans (dif_pos hk))

/-- A plausible sample as the sensor takes it. -/
def measured (k : Fin 24) (v : Int) (s : State) : State :=
  let l := (thermClass (s.thm.sensor[k]).light s).lim
  { s with thm.sensor := s.thm.sensor.upd k fun x => { x with
      st := (s.thm.sensor[k]).st.step l v, fast := isFast l v, seen := true } }

theorem takeReading_plausible {k : Fin 24} {v : Int} (hvalid : (s.thm.sensor[k]).valid = true)
    (hgood : plausible v = true) : ∃ i old new light,
      takeReading k v s = settleThermal (entered i light old new (measured k v s)) := by
  refine ⟨k.val, (s.thm.sensor[k]).st.state, ((s.thm.sensor[k]).st.step
    (thermClass (s.thm.sensor[k]).light s).lim v).state, (s.thm.sensor[k]).light, ?_⟩
  unfold takeReading
  dsimp only
  rw [if_neg (by rw [hvalid]; decide), if_neg (by rw [hgood]; decide)]
  rfl

theorem thermClass_lim_ticked (k : Fin 24) (light : Bool) (s : State) :
    (thermClass light (ticked k s)).lim = (thermClass light s).lim := by
  unfold thermClass ticked
  dsimp only

theorem sample_plausible {k : Fin 24} {i : Fin 120} {v : Int} (hcore : s.pwr.core = true) (hi : i.val = k.val)
    (hvalid : (s.thm.sensor[k]).valid = true) (hgood : plausible ((s.thm.sensor[k]).reading i.val v) = true) :
    Answers (exec (.sensorSample i v) s) fun t =>
      (t.thm.sensor[k]).st = (s.thm.sensor[k]).st.step (thermClass (s.thm.sensor[k]).light s).lim
        ((s.thm.sensor[k]).reading i.val v) ∧
      (t.thm.sensor[k]).seen = true ∧
      ∀ j : Fin 24, j ≠ k → t.thm.sensor[j] = s.thm.sensor[j] := by
  rw [sensorSample_die hcore hi]
  refine ⟨_, rfl, ?_⟩
  generalize (s.thm.sensor[k]).reading i.val v = y at hgood ⊢
  obtain ⟨hself, hother⟩ := sensor_ticked k s
  obtain ⟨n, old, new, light, htake⟩ := takeReading_plausible (s := ticked k s) (k := k) (v := y)
    (by rw [hself]; exact hvalid) hgood
  have hkept : SensorsKept (measured k y (ticked k s)) (dieSample k y s) := by
    have htaken : SensorsKept (measured k y (ticked k s)) (takeReading k y (ticked k s)) := by
      rw [htake]
      exact (sensorsKept_entered _ _ _ _ _).trans (sensorsKept_settleThermal _)
    obtain h | h := dieSample_cases k y s <;> rw [h]
    · exact htaken
    · exact htaken.trans (sensorsKept_calMoved _)
  have hst : ((measured k y (ticked k s)).thm.sensor[k]).st =
      (s.thm.sensor[k]).st.step (thermClass (s.thm.sensor[k]).light s).lim y ∧
      ((measured k y (ticked k s)).thm.sensor[k]).seen = true := by
    unfold measured
    dsimp only
    rw [Tab.upd_get, if_pos rfl, hself, thermClass_lim_ticked]
    exact ⟨rfl, rfl⟩
  have hrest : ∀ j : Fin 24, j ≠ k → (measured k y (ticked k s)).thm.sensor[j] = s.thm.sensor[j] := fun j hj => by
    unfold measured
    dsimp only
    rw [Tab.upd_get, if_neg hj, hother j hj]
  rw [hkept.sensor]
  exact ⟨hst.1, hst.2, hrest⟩

theorem sample_implausible {k : Fin 24} {i : Fin 120} {v : Int} (hcore : s.pwr.core = true) (hi : i.val = k.val)
    (hvalid : (s.thm.sensor[k]).valid = true) (hbad : plausible ((s.thm.sensor[k]).reading i.val v) = false)
    (hrun : (s.thm.sensor[k]).st.badRun < 2) :
    Answers (exec (.sensorSample i v) s) fun t =>
      (t.thm.sensor[k]).st = { (s.thm.sensor[k]).st with badRun := (s.thm.sensor[k]).st.badRun + 1 } ∧
      Keeps [.thm] s t := by
  rw [sensorSample_die hcore hi]
  refine ⟨_, rfl, ?_⟩
  generalize (s.thm.sensor[k]).reading i.val v = y at hbad ⊢
  obtain ⟨hself, -⟩ := sensor_ticked k s
  have htake : takeReading k y (ticked k s) = { ticked k s with
      thm.sensor := (ticked k s).thm.sensor.upd k fun x => { x with st.badRun := x.st.badRun + 1 } } := by
    unfold takeReading
    rw [hself]
    dsimp only
    rw [if_neg (by rw [show ((s.thm.sensor[k]).count).valid = _ from hvalid]; decide), if_pos (by rw [hbad]; rfl),
      if_neg (by show ¬ (s.thm.sensor[k]).st.badRun + 1 ≥ 3; omega)]
  generalize htaken : takeReading k y (ticked k s) = u at htake
  have hu : (u.thm.sensor[k]).st = { (s.thm.sensor[k]).st with badRun := (s.thm.sensor[k]).st.badRun + 1 } ∧
      Keeps [.thm] s u := by
    rw [htake]
    refine ⟨?_, keeps_mk (keeps_mk (keeps_refl _ _))⟩
    dsimp only
    rw [Tab.upd_get, if_pos rfl, hself]
    rfl
  obtain h | h := dieSample_cases k y s <;> rw [h, htaken]
  · exact hu
  · rw [(sensorsKept_calMoved u).sensor]
    exact ⟨hu.1, keeps_step (keeps_calMoved u) rfl hu.2⟩

theorem sample_breaks {k : Fin 24} {i : Fin 120} {v : Int} (hcore : s.pwr.core = true) (hi : i.val = k.val)
    (hvalid : (s.thm.sensor[k]).valid = true) (hbad : plausible ((s.thm.sensor[k]).reading i.val v) = false)
    (hrun : 2 ≤ (s.thm.sensor[k]).st.badRun) :
    Answers (exec (.sensorSample i v) s) fun t =>
      (t.thm.sensor[k]).st.broken = true ∧ t.thm.brokenCnt = bump 255 1 s.thm.brokenCnt ∧
      ⟨12, .minor, BitVec.ofNat 32 k.val, false, s.now⟩ ∈ t.rve.inbox := by
  rw [sensorSample_die hcore hi]
  refine ⟨_, rfl, ?_⟩
  generalize (s.thm.sensor[k]).reading i.val v = y at hbad ⊢
  obtain ⟨hself, -⟩ := sensor_ticked k s
  have htake : takeReading k y (ticked k s) =
      settleThermal (raise 12 .minor k.val (breakSensor k false (ticked k s))) := by
    unfold takeReading
    rw [hself]
    dsimp only
    rw [if_neg (by rw [show ((s.thm.sensor[k]).count).valid = _ from hvalid]; decide), if_pos (by rw [hbad]; rfl),
      if_pos (by show (s.thm.sensor[k]).st.badRun + 1 ≥ 3; omega)]
  generalize hv : raise 12 .minor k.val (breakSensor k false (ticked k s)) = w at htake
  have hw : (w.thm.sensor[k]).st.broken = true ∧ w.thm.brokenCnt = bump 255 1 s.thm.brokenCnt ∧
      w.rve.inbox = s.rve.inbox ++ [⟨12, .minor, BitVec.ofNat 32 k.val, false, s.now⟩] := by
    rw [← hv, raise_of_core (by exact hcore)]
    unfold breakSensor ticked
    dsimp only
    rw [Tab.upd_get, if_pos rfl]
    exact ⟨rfl, rfl, rfl⟩
  have hkept : SensorsKept w (dieSample k y s) ∧ Grows w (dieSample k y s) := by
    obtain h | h := dieSample_cases k y s <;> rw [h, htake]
    · exact ⟨sensorsKept_settleThermal w, grows_settleThermal w⟩
    · exact ⟨(sensorsKept_settleThermal w).trans (sensorsKept_calMoved _),
        (grows_settleThermal w).trans (grows_of_keeps (keeps_calMoved _) (by decide))⟩
  obtain ⟨hsensors, l, hgrow⟩ := hkept
  rw [hsensors.sensor, hsensors.count, hgrow, hw.2.2]
  exact ⟨hw.1, hw.2.1, by simp⟩

/-- The sample of a tile position as it is taken. -/
def tileTaken (k : Fin 96) (s : State) : State :=
  { s with thm.tile := s.thm.tile.upd k fun x => { x with
      st := (s.thm.tile[k]).st.step s.thm.light.lim (sfield (s.thm.tile[k]).report 0 16)
      fresh := false
      sampled := true } }

theorem tile_tileTaken (k : Fin 96) (s : State) : (tileTaken k s).thm.tile[k] = { s.thm.tile[k] with
      st := (s.thm.tile[k]).st.step s.thm.light.lim (sfield (s.thm.tile[k]).report 0 16)
      fresh := false
      sampled := true } ∧ ∀ j : Fin 96, j ≠ k → (tileTaken k s).thm.tile[j] = s.thm.tile[j] := by
  unfold tileTaken
  dsimp only
  exact ⟨by rw [Tab.upd_get, if_pos rfl], fun j hj => by rw [Tab.upd_get, if_neg hj]⟩

theorem tileSample_fresh {k : Fin 96} (hfresh : (s.thm.tile[k]).fresh = true)
    (hok : tileTempOk (s.thm.tile[k]) = true) : ∃ i old new,
      tileSample k s = settleThermal (entered i true old new (tileTaken k s)) := by
  refine ⟨24 + k.val, (s.thm.tile[k]).st.state, ((s.thm.tile[k]).st.step s.thm.light.lim
    (sfield (s.thm.tile[k]).report 0 16)).state, ?_⟩
  unfold tileSample
  dsimp only
  rw [if_neg (by rw [hfresh, hok]; decide)]
  rfl

theorem sample_tile {k : Fin 96} {i : Fin 120} {v : Int} (hcore : s.pwr.core = true) (hi : i.val = 24 + k.val)
    (hfresh : (s.thm.tile[k]).fresh = true) (hok : tileTempOk (s.thm.tile[k]) = true) :
    Answers (exec (.sensorSample i v) s) fun t =>
      t.thm.tile[k] = { s.thm.tile[k] with
        st := (s.thm.tile[k]).st.step s.thm.light.lim (sfield (s.thm.tile[k]).report 0 16),
        fresh := false, sampled := true } ∧
      ∀ j : Fin 96, j ≠ k → t.thm.tile[j] = s.thm.tile[j] := by
  have hsample : exec (.sensorSample i v) s = .next (tileSample k s) := by
    refine congrArg Host.Outcome.next ((whenS_true hcore).trans ((dif_neg (by omega)).trans ?_))
    rw [show (⟨i.val - 24, by omega⟩ : Fin 96) = k from Fin.ext (by dsimp only; omega)]
  obtain ⟨n, old, new, htake⟩ := tileSample_fresh hfresh hok
  have hkept := (sensorsKept_entered n old new true (tileTaken k s)).trans (sensorsKept_settleThermal _)
  rw [hsample, htake]
  refine ⟨_, rfl, ?_⟩
  dsimp only
  rw [hkept.tile]
  exact tile_tileTaken k s

theorem tile_stale {k : Fin 96} (hcore : s.pwr.core = true) :
    Answers (exec (.tileTempStale k) s) fun t =>
      (t.thm.tile[k]).stale = true ∧ ∀ j : Fin 96, j ≠ k → t.thm.tile[j] = s.thm.tile[j] := by
  refine answers_whenS hcore ?_
  rw [(sensorsKept_settleThermal _).tile]
  dsimp only
  exact ⟨by rw [Tab.upd_get, if_pos rfl], fun j hj => by rw [Tab.upd_get, if_neg hj]⟩

/-! Throttle levels (R415, R418) and calibration (R422 to R426). -/

theorem throttle_light (hcore : s.pwr.core = true) (hstate : 2 ≤ lightState s) :
    Answers (exec (.throttleStep true) s) fun t =>
      t.thm.light.level = (if s.thm.light.level < s.thm.light.maxLevel then s.thm.light.level + 1
        else s.thm.light.level) ∧ t.thm.die = s.thm.die ∧ Keeps [.thm] s t := by
  refine answers_whenS (by rw [hcore]; exact decide_eq_true hstate) ?_
  refine ⟨?_, rfl, keeps_modClass _ _ _⟩
  show (ThermClass.rise s.thm.light).level = _
  unfold ThermClass.rise
  split <;> rfl

theorem throttle_hold_expiry (hcore : s.pwr.core = true) (hsome : s.thm.die.allBroken = false) :
    Answers (exec (.throttleHoldExpiry false) s) fun t =>
      t.thm.die.level = s.thm.die.level - 1 ∧ t.thm.light = s.thm.light ∧ Keeps [.thm] s t :=
  answers_whenS (by rw [hcore, show (thermClass false s).allBroken = false from hsome]; rfl)
    ⟨rfl, rfl, keeps_modClass _ _ _⟩

theorem cal_max_timer (hcore : s.pwr.core = true) (hmax : s.thm.calMaxS ≠ 0) (hrun : s.thm.run = none)
    (hallowed : calAllowed s = true) :
    Answers (exec .calMaxTimer s) fun t =>
      (∃ r, t.thm.run = some r ∧ r.items = 0x1F ∧ r.cmd = none) ∧ Keeps [.thm] s t := by
  refine answers_whenS (by rw [hcore]; simpa using hmax) ?_
  have htrigger : triggerCal s = startCal 0x1F none s := by
    unfold triggerCal
    rw [hrun, if_neg (by decide), if_pos hallowed]
  rw [htrigger]
  exact ⟨⟨_, rfl, rfl, rfl⟩, keeps_startCal _ _ _⟩

theorem cal_step {r : CalRun} {x : CalStep} {l : List CalStep} {v : Int} (hrun : s.thm.run = some r)
    (hsteps : r.steps = x :: l) (hscan : s.lpl.scanning = false) (hitem : x.item ≠ 3) :
    Answers (exec (.calStep v) s) fun t =>
      (∃ q, t.thm.run = some q ∧ q.steps = l ∧ q.usedVbi = true ∧
        (if trimOk x v s = true then q.values = r.values ++ [(x, v)] ∧ q.failed = r.failed
        else q.values = r.values ∧ q.failed = r.failed ||| BitVec.ofNat 5 (2 ^ x.item))) ∧
      Keeps [.thm] s t := by
  have hitem' : (x.item == 3) = false := by simpa using hitem
  refine ⟨_, rfl, ?_⟩
  rw [hrun]
  dsimp only
  rw [hsteps]
  dsimp only
  rw [hscan, if_neg Bool.false_ne_true, hitem', Bool.false_and, if_neg Bool.false_ne_true]
  refine ⟨⟨_, rfl, ?_⟩, keeps_mk (keeps_refl _ _)⟩
  split
  · exact ⟨rfl, rfl, rfl, rfl⟩
  · exact ⟨rfl, rfl, rfl, rfl⟩

/-- Settles O42: a sample moves its own sensor by the rule of three, and what follows from it leaves every
sensor and every position. -/
theorem thermalSteps : Obligations.ThermalSteps := by
  unfold Obligations.ThermalSteps
  exact ⟨fun _ _ _ _ => sample_plausible, fun _ _ _ _ => sample_implausible, fun _ _ _ _ => sample_breaks,
    fun _ _ _ _ => sample_tile, fun _ _ => tile_stale, fun _ => throttle_light, fun _ => throttle_hold_expiry,
    fun _ => cal_max_timer, fun _ _ _ _ _ => cal_step⟩

end Sys2Proof.Proofs
end

section
/-!
SUPPORT. O43: command and bulk datagrams.
-/

namespace Sys2Proof.Proofs

set_option Elab.async false

open Sys2Proof Sys2Proof.Machine Sys2Proof.Safety Sys2Proof.Laws

variable {s t u : State} {p : Fin 2}

/-! A port's state. -/

theorem other_port (p : Fin 2) : 1 - p ≠ p := by
  revert p
  decide

theorem port_modEth (p : Fin 2) (f : Eth → Eth) (s : State) : (modEth p f s).eth.port[p] = f s.eth.port[p] ∧
    (modEth p f s).eth.port[1 - p] = s.eth.port[1 - p] :=
  ⟨(Tab.upd_get _ _ _ _).trans (if_pos rfl), (Tab.upd_get _ _ _ _).trans (if_neg (other_port p))⟩

theorem link_of_macSends (h : macSends p s = true) : (s.eth.port[p]).link = true := by
  unfold macSends at h
  simp only [Bool.and_eq_true] at h
  exact h.2

theorem macSends_of_macUp (h : macUp p s = true) : macSends p s = true := by
  unfold macUp at h
  simp only [Bool.and_eq_true] at h
  exact h.1

theorem receive_accepted {f : RxFrame} {g : Bool} {row : Eth → RxFrame → Bool} {h : State → State}
    (hup : macUp p s = true) (hfcs : f.fcsOk = true) (hok : frameOk s.eth.port[p] f g (row s.eth.port[p] f) = true) :
    receive p f g row h s = h s := by
  unfold receive
  rw [hup, hfcs, hok]
  rfl

theorem replyQueue_congr (h : (t.eth.port[p]).pcpReply = (s.eth.port[p]).pcpReply) :
    replyQueue p t = replyQueue p s := Fin.ext (congrArg (· % 8) h)

/-- A frame behind those that wait in a queue. -/
def queuedFrame (q : Fin 8) (x : EthPayload) (launch : Option Int) (e : Eth) : Eth :=
  { e with egress := e.egress.upd q fun l => l ++ [⟨x, launch, launch.isNone⟩] }

theorem enqueue_linked {q : Fin 8} {x : EthPayload} {launch : Option Int} (h : (s.eth.port[p]).link = true) :
    enqueue p q x launch s = modEth p (queuedFrame q x launch) s := if_pos h

theorem egress_queuedFrame (q : Fin 8) (x : EthPayload) (launch : Option Int) (e : Eth) :
    (queuedFrame q x launch e).egress[q] = e.egress[q] ++ [⟨x, launch, launch.isNone⟩] ∧
    ∀ k : Fin 8, k ≠ q → (queuedFrame q x launch e).egress[k] = e.egress[k] := by
  unfold queuedFrame
  dsimp only
  exact ⟨by rw [Tab.upd_get, if_pos rfl], fun k hk => by rw [Tab.upd_get, if_neg hk]⟩

/-- A frame that is queued on a linked port: its queue has it last, and the other port stays. -/
theorem enqueue_spec {q : Fin 8} {x : EthPayload} {launch : Option Int} (h : (s.eth.port[p]).link = true) :
    ((enqueue p q x launch s).eth.port[p]).egress[q] = (s.eth.port[p]).egress[q] ++ [⟨x, launch, launch.isNone⟩] ∧
    (∀ k : Fin 8, k ≠ q → ((enqueue p q x launch s).eth.port[p]).egress[k] = (s.eth.port[p]).egress[k]) ∧
    ((enqueue p q x launch s).eth.port[p] = queuedFrame q x launch s.eth.port[p]) ∧
    (enqueue p q x launch s).eth.port[1 - p] = s.eth.port[1 - p] := by
  obtain ⟨hself, hother⟩ := port_modEth p (queuedFrame q x launch) s
  obtain ⟨hqueue, hrest⟩ := egress_queuedFrame q x launch s.eth.port[p]
  rw [enqueue_linked h, hself]
  exact ⟨hqueue, hrest, rfl, hother⟩

theorem cmdqDrop_dropDatagram (p : Fin 2) (s : State) :
    (dropDatagram p s).hif.cmdqDrop[p] = bump 65535 1 s.hif.cmdqDrop[p] ∧
    (dropDatagram p s).hif.cmdqDrop[1 - p] = s.hif.cmdqDrop[1 - p] ∧ Keeps [.hif] s (dropDatagram p s) := by
  refine ⟨?_, ?_, keeps_dropDatagram p s⟩
  · unfold dropDatagram
    dsimp only
    rw [Tab.upd_get, if_pos rfl]
  · unfold dropDatagram
    dsimp only
    rw [Tab.upd_get, if_neg (other_port p)]

/-! Command datagrams (R78, R79). -/

theorem commandDatagram_taken {f : RxFrame} (hup : macUp p s = true) (hfcs : f.fcsOk = true)
    (hok : frameOk s.eth.port[p] f false (rowUdp 47810 s.eth.port[p] f) = true) :
    exec (.commandDatagramReceived p f) s = .next (takeCommand p f s) :=
  congrArg Host.Outcome.next (receive_accepted hup hfcs hok)

/-- A sender is the one a frame came from. -/
def sentBy (f : RxFrame) (y : Sender) : Bool := y.ip == f.from'.ip && y.port == f.from'.port

/-- A command datagram as it joins the queue of its port. -/
def joined (f : RxFrame) (key now : Nat) (e : Eth) : Eth :=
  { e with
    senders := rememberSender e.senders ⟨f.from'.ip, f.from'.port, BitVec.ofNat 32 (hdr f.payload 4 4), none⟩
    queue := e.queue ++ [.cmd key f.from' (BitVec.ofNat 32 (hdr f.payload 4 4)) (cmdDescs f.payload) 0 now]
    execs := e.execs ++ [⟨key, f.from', BitVec.ofNat 32 (hdr f.payload 4 4), (cmdDescs f.payload).length, []⟩] }

/-- The next key is given out. -/
def keyTaken (s : State) : State := { s with eth.nextKey := s.eth.nextKey + 1 }

theorem takeCommand_new {f : RxFrame} (hbad : cmdBad f.payload = false)
    (hallow : allowed s.eth.port[p] f.from'.ip = true)
    (hnew : ∀ x, (s.eth.port[p]).senders.find? (sentBy f) = some x →
      x.sequence ≠ BitVec.ofNat 32 (hdr f.payload 4 4) ∧ (BitVec.ofNat 32 (hdr f.payload 4 4) - x.sequence).msb = false)
    (hroom : (s.eth.port[p]).queue.length < 64) :
    takeCommand p f s = modEth p (joined f s.eth.nextKey s.now) (keyTaken s) := by
  have hfull : decide ((s.eth.port[p]).queue.length ≥ 64) = false := decide_eq_false (by omega)
  unfold takeCommand
  dsimp only
  rw [if_neg (by rw [hbad, hallow]; decide)]
  change ∀ x, (s.eth.port[p]).senders.find? (fun x => x.ip == f.from'.ip && x.port == f.from'.port) = some x → _
    at hnew
  cases hknown : (s.eth.port[p]).senders.find? (fun x => x.ip == f.from'.ip && x.port == f.from'.port) with
  | none =>
    dsimp only
    rw [hfull, if_neg (by decide)]
    rfl
  | some x =>
    obtain ⟨hseq, hstale⟩ := hnew x hknown
    dsimp only
    rw [if_neg hseq]
    dsimp only
    rw [hfull, Bool.false_or, hstale, if_neg Bool.false_ne_true]
    rfl

theorem command_queued {f : RxFrame} (hup : macUp p s = true) (hfcs : f.fcsOk = true)
    (hok : frameOk s.eth.port[p] f false (rowUdp 47810 s.eth.port[p] f) = true) (hbad : cmdBad f.payload = false)
    (hallow : allowed s.eth.port[p] f.from'.ip = true)
    (hnew : ∀ x, (s.eth.port[p]).senders.find? (fun y => y.ip == f.from'.ip && y.port == f.from'.port) = some x →
      x.sequence ≠ BitVec.ofNat 32 (hdr f.payload 4 4) ∧ (BitVec.ofNat 32 (hdr f.payload 4 4) - x.sequence).msb = false)
    (hroom : (s.eth.port[p]).queue.length < 64) :
    Answers (exec (.commandDatagramReceived p f) s) fun t =>
      (t.eth.port[p]).queue = (s.eth.port[p]).queue ++
        [.cmd s.eth.nextKey f.from' (BitVec.ofNat 32 (hdr f.payload 4 4)) (cmdDescs f.payload) 0 s.now] ∧
      (t.eth.port[p]).senders = rememberSender (s.eth.port[p]).senders
        ⟨f.from'.ip, f.from'.port, BitVec.ofNat 32 (hdr f.payload 4 4), none⟩ ∧
      (t.eth.port[p]).execs = (s.eth.port[p]).execs ++ [⟨s.eth.nextKey, f.from',
        BitVec.ofNat 32 (hdr f.payload 4 4), (cmdDescs f.payload).length, []⟩] ∧
      t.eth.nextKey = s.eth.nextKey + 1 ∧ t.eth.port[1 - p] = s.eth.port[1 - p] ∧ Keeps [.eth] s t := by
  obtain ⟨hself, hother⟩ := port_modEth p (joined f s.eth.nextKey s.now) (keyTaken s)
  rw [commandDatagram_taken hup hfcs hok, takeCommand_new hbad hallow hnew hroom]
  refine ⟨_, rfl, ?_⟩
  dsimp only
  rw [hself, hother]
  exact ⟨rfl, rfl, rfl, rfl, rfl, keeps_step (keeps_modEth _ _ _) rfl (keeps_mk (keeps_refl _ _))⟩

/-- The sender of a frame is the one last heard. -/
def heardAgain (x : Sender) (e : Eth) : Eth := { e with senders := rememberSender e.senders x }

theorem takeCommand_again {f : RxFrame} {x : Sender} {r : List Byte} (hbad : cmdBad f.payload = false)
    (hallow : allowed s.eth.port[p] f.from'.ip = true)
    (hknown : (s.eth.port[p]).senders.find? (fun y => y.ip == f.from'.ip && y.port == f.from'.port) = some x)
    (hseq : x.sequence = BitVec.ofNat 32 (hdr f.payload 4 4)) (hreply : x.reply = some r)
    (hroom : (s.eth.port[p]).queue.length < 64) :
    takeCommand p f s = resend p f.from' r (modEth p (heardAgain x) s) := by
  unfold takeCommand
  dsimp only
  rw [if_neg (by rw [hbad, hallow]; decide), hknown]
  dsimp only
  rw [if_pos hseq]
  dsimp only
  rw [hreply]
  dsimp only
  rw [if_neg (by omega)]
  rfl

theorem command_repeated {f : RxFrame} {x : Sender} {r : List Byte} (hup : macUp p s = true) (hfcs : f.fcsOk = true)
    (hok : frameOk s.eth.port[p] f false (rowUdp 47810 s.eth.port[p] f) = true) (hbad : cmdBad f.payload = false)
    (hallow : allowed s.eth.port[p] f.from'.ip = true)
    (hknown : (s.eth.port[p]).senders.find? (fun y => y.ip == f.from'.ip && y.port == f.from'.port) = some x)
    (hseq : x.sequence = BitVec.ofNat 32 (hdr f.payload 4 4)) (hreply : x.reply = some r)
    (hroom : (s.eth.port[p]).queue.length < 64) :
    Answers (exec (.commandDatagramReceived p f) s) fun t =>
      (t.eth.port[p]).egress[replyQueue p s] = (s.eth.port[p]).egress[replyQueue p s] ++
        [⟨.udpReply f.from' 47810 (r.set 9 1), none, true⟩] ∧
      (t.eth.port[p]).queue = (s.eth.port[p]).queue ∧ t.eth.port[1 - p] = s.eth.port[1 - p] ∧
      Keeps [.eth] s t := by
  obtain ⟨hself, hother⟩ := port_modEth p (heardAgain x) s
  have hqueue : replyQueue p (modEth p (heardAgain x) s) = replyQueue p s := replyQueue_congr (by rw [hself]; rfl)
  obtain ⟨hegress, -, hport, hrest⟩ := enqueue_spec (s := modEth p (heardAgain x) s) (p := p)
    (q := replyQueue p s) (x := .udpReply f.from' 47810 (r.set 9 1)) (launch := none)
    (by rw [hself]; exact link_of_macSends (macSends_of_macUp hup))
  rw [commandDatagram_taken hup hfcs hok, takeCommand_again hbad hallow hknown hseq hreply hroom, resend, hqueue]
  refine ⟨_, rfl, hegress.trans (by rw [hself]; rfl), ?_, hrest.trans hother,
    keeps_step (keeps_enqueue _ _ _ _ _) rfl (keeps_modEth _ _ _)⟩
  rw [hport, hself]
  rfl

/-! Bulk datagrams (R483 to R485). -/

theorem bulkDatagram_taken {f : RxFrame} (hup : macUp p s = true) (hfcs : f.fcsOk = true)
    (hok : frameOk s.eth.port[p] f false (rowUdp 47811 s.eth.port[p] f) = true) :
    exec (.bulkDatagramReceived p f) s = .next (takeBulk p f s) :=
  congrArg Host.Outcome.next (receive_accepted hup hfcs hok)

/-- A bulk datagram behind those of its port. -/
def bulkJoined (f : RxFrame) (e : Eth) : Eth :=
  { e with queue := e.queue ++ [.bulk f.from' (f.payload.take 32) (f.payload.drop 32)] }

theorem takeBulk_joins {f : RxFrame} (hbad : bulkBad f.payload = false)
    (hallow : allowed s.eth.port[p] f.from'.ip = true) (hroom : (s.eth.port[p]).queue.length < 64) :
    takeBulk p f s = drainQueue p (modEth p (bulkJoined f) s) :=
  if_neg (by rw [hbad, hallow, decide_eq_false (show ¬ (s.eth.port[p]).queue.length ≥ 64 by omega)]; decide)

theorem drainBulk_command {n : Nat} {k : Nat} {a : Peer} {b : BitVec 32} {l : List Desc} {i c : Nat}
    {r : List Datagram} (h : (s.eth.port[p]).queue = .cmd k a b l i c :: r) : drainBulk p n s = s := by
  cases n with
  | zero => rfl
  | succ n =>
    unfold drainBulk
    rw [h]

theorem bulk_waits {f : RxFrame} {k : Nat} {a : Peer} {b : BitVec 32} {l : List Desc} {n c : Nat}
    {r : List Datagram} (hup : macUp p s = true) (hfcs : f.fcsOk = true)
    (hok : frameOk s.eth.port[p] f false (rowUdp 47811 s.eth.port[p] f) = true) (hbad : bulkBad f.payload = false)
    (hallow : allowed s.eth.port[p] f.from'.ip = true) (hqueue : (s.eth.port[p]).queue = .cmd k a b l n c :: r)
    (hroom : (s.eth.port[p]).queue.length < 64) :
    Answers (exec (.bulkDatagramReceived p f) s) fun t =>
      (t.eth.port[p]).queue = (s.eth.port[p]).queue ++
        [.bulk f.from' (f.payload.take 32) (f.payload.drop 32)] ∧
      t.eth.port[1 - p] = s.eth.port[1 - p] ∧ Keeps [.eth] s t := by
  obtain ⟨hself, hother⟩ := port_modEth p (bulkJoined f) s
  have hdrain : drainQueue p (modEth p (bulkJoined f) s) = modEth p (bulkJoined f) s :=
    drainBulk_command (k := k) (a := a) (b := b) (l := l) (i := n) (c := c)
      (r := r ++ [.bulk f.from' (f.payload.take 32) (f.payload.drop 32)]) (by
        rw [hself, bulkJoined, hqueue]
        rfl)
  rw [bulkDatagram_taken hup hfcs hok, takeBulk_joins hbad hallow hroom, hdrain]
  refine ⟨_, rfl, ?_, hother, keeps_modEth _ _ _⟩
  rw [hself]
  rfl

/-- One bulk datagram is handled and answered. -/
theorem drainBulk_one {x : Peer} {header data : List Byte} {q : Fin 8}
    (hqueue : (s.eth.port[p]).queue = [.bulk x header data]) (hserves : serves (.eth p 0 0) s = true)
    (hlink : (s.eth.port[p]).link = true) (hq : replyQueue p s = q) :
    ((drainBulk p 1 s).eth.port[p]).queue = [] ∧
    ∃ st, ((drainBulk p 1 s).eth.port[p]).egress[q] = (s.eth.port[p]).egress[q] ++
      [⟨.udpReply x 47811 (bulkReply header st), none, true⟩] := by
  obtain ⟨hself, -⟩ := port_modEth p (fun e => { e with queue := [] }) s
  generalize hu : modEth p (fun e => { e with queue := [] }) s = u at hself
  have hwritten : (bulkWrite p header data u).2.eth = u.eth := keeps_bulkWrite _ _ _ u .eth (by decide)
  have hreply : replyQueue p u = q := (replyQueue_congr (by rw [hself])).trans hq
  have hdrain : drainBulk p 1 s = enqueue p q
      (.udpReply x 47811 (bulkReply header (bulkWrite p header data u).1)) none (bulkWrite p header data u).2 := by
    unfold drainBulk
    rw [hqueue]
    dsimp only
    rw [if_pos hserves, hu, hreply]
    rfl
  rw [hdrain]
  generalize bulkWrite p header data u = r at hwritten ⊢
  obtain ⟨hegress, -, hport, -⟩ := enqueue_spec (s := r.2) (p := p) (q := q)
    (x := .udpReply x 47811 (bulkReply header r.1)) (launch := none) (by rw [hwritten, hself]; exact hlink)
  refine ⟨?_, r.1, ?_⟩
  · rw [hport, hwritten, hself]
    rfl
  · rw [hegress, hwritten, hself]
    rfl

theorem bulk_handled {f : RxFrame} (hup : macUp p s = true) (hfcs : f.fcsOk = true)
    (hok : frameOk s.eth.port[p] f false (rowUdp 47811 s.eth.port[p] f) = true) (hbad : bulkBad f.payload = false)
    (hallow : allowed s.eth.port[p] f.from'.ip = true) (hqueue : (s.eth.port[p]).queue = [])
    (hserves : serves (.eth p 0 0) s = true) :
    Answers (exec (.bulkDatagramReceived p f) s) fun t =>
      (t.eth.port[p]).queue = [] ∧
      ∃ st, (t.eth.port[p]).egress[replyQueue p s] = (s.eth.port[p]).egress[replyQueue p s] ++
        [⟨.udpReply f.from' 47811 (bulkReply (f.payload.take 32) st), none, true⟩] := by
  obtain ⟨hself, -⟩ := port_modEth p (bulkJoined f) s
  rw [bulkDatagram_taken hup hfcs hok, takeBulk_joins hbad hallow (by rw [hqueue]; decide)]
  generalize hu : modEth p (bulkJoined f) s = u at hself
  have hserves' : serves (.eth p 0 0) u = true := by
    rw [← hu]
    exact hserves
  have hone : (u.eth.port[p]).queue = [.bulk f.from' (f.payload.take 32) (f.payload.drop 32)] := by
    rw [hself, bulkJoined, hqueue]
    rfl
  have hreply : replyQueue p u = replyQueue p s := replyQueue_congr (by rw [hself]; rfl)
  obtain ⟨hempty, st, hegress⟩ := drainBulk_one hone hserves'
    (by rw [hself]; exact link_of_macSends (macSends_of_macUp hup)) hreply
  have hdrain : drainQueue p u = drainBulk p 1 u := by
    unfold drainQueue
    rw [hone]
    rfl
  rw [hdrain]
  rw [hself] at hegress
  exact ⟨_, rfl, hempty, st, hegress⟩

/-! Malformed datagrams and replies (R78 to R80, R484). -/

theorem command_malformed {f : RxFrame} (hup : macUp p s = true) (hfcs : f.fcsOk = true)
    (hok : frameOk s.eth.port[p] f false (rowUdp 47810 s.eth.port[p] f) = true) (hbad : cmdBad f.payload = true) :
    exec (.commandDatagramReceived p f) s = .next (dropDatagram p s) := by
  rw [commandDatagram_taken hup hfcs hok]
  exact congrArg Host.Outcome.next (if_pos (by rw [hbad]; rfl))

theorem bulk_malformed {f : RxFrame} (hup : macUp p s = true) (hfcs : f.fcsOk = true)
    (hok : frameOk s.eth.port[p] f false (rowUdp 47811 s.eth.port[p] f) = true) (hbad : bulkBad f.payload = true) :
    exec (.bulkDatagramReceived p f) s = .next (dropDatagram p s) := by
  rw [bulkDatagram_taken hup hfcs hok]
  exact congrArg Host.Outcome.next (if_pos (by rw [hbad]; rfl))

/-- The reply of a datagram is cached for the sender that still waits for it. -/
def cached (x : Exec) (y : Sender) : Sender :=
  if y.ip = x.peer.ip ∧ y.port = x.peer.port ∧ y.sequence = x.sequence then { y with reply := some (replyBytes x) }
  else y

/-- A port after its datagram has been replied to. -/
def replied (x : Exec) (e : Eth) : Eth :=
  { e with
    execs := e.execs.filter fun y => y.key != x.key
    senders := e.senders.map (cached x) }

theorem datagramReply_sent {x : Exec} (hup : coresUp s = true) (hexecs : (s.eth.port[p]).execs = [x])
    (hdone : x.done.length = x.count) : exec (.datagramReply p) s = .next
      (enqueue p (replyQueue p (modEth p (replied x) s)) (.udpReply x.peer 47810 (replyBytes x)) none
        (modEth p (replied x) s)) := by
  have hfind : (s.eth.port[p]).execs.find? (fun x => x.done.length == x.count) = some x := by
    rw [hexecs, List.find?_cons_of_pos (by simp [hdone])]
  refine congrArg Host.Outcome.next ((if_neg (by rw [hup]; decide)).trans ?_)
  rw [hfind]
  rfl

theorem datagram_replied {x : Exec} (hup : coresUp s = true) (hexecs : (s.eth.port[p]).execs = [x])
    (hdone : x.done.length = x.count) (hlink : (s.eth.port[p]).link = true) :
    Answers (exec (.datagramReply p) s) fun t =>
      (t.eth.port[p]).execs = [] ∧
      ((t.eth.port[p]).egress[replyQueue p s] = (s.eth.port[p]).egress[replyQueue p s] ++
        [⟨.udpReply x.peer 47810 (replyBytes x), none, true⟩]) ∧
      (∀ y ∈ (s.eth.port[p]).senders, y.ip = x.peer.ip → y.port = x.peer.port →
        y.sequence = x.sequence → { y with reply := some (replyBytes x) } ∈ (t.eth.port[p]).senders) ∧
      t.eth.port[1 - p] = s.eth.port[1 - p] ∧ Keeps [.eth] s t := by
  obtain ⟨hself, hother⟩ := port_modEth p (replied x) s
  rw [datagramReply_sent hup hexecs hdone]
  have hkeep : Keeps [.eth] s (modEth p (replied x) s) := keeps_modEth _ _ _
  generalize modEth p (replied x) s = u at hself hother hkeep
  have hqueue : replyQueue p u = replyQueue p s := replyQueue_congr (by rw [hself]; rfl)
  obtain ⟨hegress, -, hport, hrest⟩ := enqueue_spec (s := u) (p := p) (q := replyQueue p s)
    (x := .udpReply x.peer 47810 (replyBytes x)) (launch := none) (by rw [hself]; exact hlink)
  rw [hqueue]
  refine ⟨_, rfl, ?_, hegress.trans (by rw [hself]; rfl), fun y hy hip hpeer hseq => ?_, hrest.trans hother,
    keeps_step (keeps_enqueue _ _ _ _ _) rfl hkeep⟩
  · rw [hport, hself, queuedFrame, replied, hexecs]
    simp
  · rw [hport, hself]
    exact List.mem_map.mpr ⟨y, hy, if_pos ⟨hip, hpeer, hseq⟩⟩

/-- Settles O43: an accepted datagram joins its port's queue, is answered or is dropped, and every reply is
one frame more in the port's reply queue. -/
theorem datagrams : Obligations.Datagrams := by
  unfold Obligations.Datagrams
  refine ⟨fun _ _ _ => command_queued, fun _ _ _ _ _ => command_repeated, fun _ _ _ _ _ _ _ _ _ _ => bulk_waits,
    fun _ _ _ => bulk_handled, fun s p f hup hfcs => ⟨fun hok hbad => ?_, fun hok hbad => ?_⟩,
    fun _ _ _ => datagram_replied⟩
  · rw [command_malformed hup hfcs hok hbad]
    exact ⟨_, rfl, cmdqDrop_dropDatagram p s⟩
  · rw [bulk_malformed hup hfcs hok hbad]
    exact ⟨_, rfl, cmdqDrop_dropDatagram p s⟩

end Sys2Proof.Proofs
end

section
/-!
SUPPORT. O44: ARP, echo, link changes, launch eligibility and transmission of Ethernet frames.
-/

namespace Sys2Proof.Proofs

set_option Elab.async false

open Sys2Proof Sys2Proof.Machine Sys2Proof.Safety Sys2Proof.Laws

variable {s t u : State} {p : Fin 2}

/-! Frames answered (R479). -/

theorem arp_answered {f : RxFrame} (hup : macUp p s = true) (hfcs : f.fcsOk = true)
    (hok : frameOk s.eth.port[p] f false (rowArp s.eth.port[p] f) = true) :
    Answers (exec (.arpRequestReceived p f) s) fun t =>
      ((t.eth.port[p]).egress[(1 : Fin 8)] = (s.eth.port[p]).egress[(1 : Fin 8)] ++
        [⟨.arpReply f.from', none, true⟩]) ∧
      (∀ q : Fin 8, q ≠ 1 → (t.eth.port[p]).egress[q] = (s.eth.port[p]).egress[q]) ∧
      t.eth.port[1 - p] = s.eth.port[1 - p] ∧ Keeps [.eth] s t := by
  obtain ⟨hqueue, hrest, -, hother⟩ := enqueue_spec (s := s) (q := 1) (x := .arpReply f.from') (launch := none)
    (link_of_macSends (macSends_of_macUp hup))
  exact answers_of_eq (congrArg Host.Outcome.next (receive_accepted hup hfcs hok))
    ⟨hqueue, hrest, hother, keeps_enqueue _ _ _ _ _⟩

/-- An echo request is counted against the 16 of its second. -/
def echoCounted (n : Nat) (fresh : Bool) (now : Nat) (e : Eth) : Eth :=
  { e with echoes := n + 1, echoSince := if fresh then now else e.echoSince }

theorem takeEchoRequest_answers {f : RxFrame} (h : (s.eth.port[p]).echoes < 16) : ∃ n fresh,
    takeEchoRequest p f s =
      enqueue p 1 (.echoReply f.from' f.payload) none (modEth p (echoCounted n fresh s.now) s) := by
  unfold takeEchoRequest
  dsimp only
  rw [if_neg]
  · exact ⟨_, _, rfl⟩
  · split <;> omega

theorem echo_answered {f : RxFrame} (hup : macUp p s = true) (hfcs : f.fcsOk = true)
    (hok : frameOk s.eth.port[p] f false (rowIcmp s.eth.port[p] f) = true) (hroom : (s.eth.port[p]).echoes < 16) :
    Answers (exec (.icmpEchoReceived p f) s) fun t =>
      ((t.eth.port[p]).egress[(1 : Fin 8)] = (s.eth.port[p]).egress[(1 : Fin 8)] ++
        [⟨.echoReply f.from' f.payload, none, true⟩]) ∧ 1 ≤ (t.eth.port[p]).echoes ∧
      t.eth.port[1 - p] = s.eth.port[1 - p] ∧ Keeps [.eth] s t := by
  obtain ⟨n, fresh, htake⟩ := takeEchoRequest_answers (f := f) hroom
  obtain ⟨hself, hsame⟩ := port_modEth p (echoCounted n fresh s.now) s
  have hkeep : Keeps [.eth] s (modEth p (echoCounted n fresh s.now) s) := keeps_modEth _ _ _
  generalize modEth p (echoCounted n fresh s.now) s = u at htake hself hsame hkeep
  obtain ⟨hqueue, -, hport, hother⟩ := enqueue_spec (s := u) (p := p) (q := 1) (x := .echoReply f.from' f.payload)
    (launch := none) (by rw [hself]; exact link_of_macSends (macSends_of_macUp hup))
  refine answers_of_eq (congrArg Host.Outcome.next ((receive_accepted hup hfcs hok).trans htake))
    ⟨hqueue.trans (by rw [hself]; rfl), ?_, hother.trans hsame, keeps_step (keeps_enqueue _ _ _ _ _) rfl hkeep⟩
  rw [hport, hself]
  exact Nat.le_add_left 1 _

/-! Links (R480, R487). -/

/-- A port whose link has come up. -/
def linkedUp (e : Eth) : Eth := { e with link := true, ptpState := e.firstPtp }

theorem link_up (hcore : s.pwr.core = true) (hen : (s.eth.port[p]).enabled = true)
    (hdown : (s.eth.port[p]).link = false) (hjob : s.tst.job = none) :
    Answers (exec (.ethLinkUp p) s) fun t =>
      (t.eth.port[p]).link = true ∧ (t.eth.port[p]).ptpState = (s.eth.port[p]).firstPtp ∧
      ((t.eth.port[p]).egress[(1 : Fin 8)] = (s.eth.port[p]).egress[(1 : Fin 8)] ++
        [⟨.gratuitousArp, none, true⟩]) ∧
      t.eth.port[1 - p] = s.eth.port[1 - p] ∧ Keeps [.eth] s t := by
  obtain ⟨hself, hsame⟩ := port_modEth p linkedUp s
  obtain ⟨hqueue, -, hport, hother⟩ := enqueue_spec (s := modEth p linkedUp s) (p := p) (q := 1)
    (x := .gratuitousArp) (launch := none) (by rw [hself]; rfl)
  have hexec : exec (.ethLinkUp p) s = .next (enqueue p 1 .gratuitousArp none (modEth p linkedUp s)) :=
    congrArg Host.Outcome.next (whenS_true (by rw [hcore, hen, hdown, hjob]; rfl))
  refine answers_of_eq hexec ⟨?_, ?_, hqueue.trans (by rw [hself]; rfl), hother.trans hsame,
    keeps_step (keeps_enqueue _ _ _ _ _) rfl (keeps_modEth _ _ _)⟩
  · rw [hport, hself]
    rfl
  · rw [hport, hself]
    rfl

/-- A port whose link has gone: its frames are discarded and counted. -/
def linkGone (e : Eth) : Eth :=
  { e with
    egress := Tab.all 8 []
    txDropped := bump 65535 ((List.finRange 8).map fun q => (e.egress[q]).length).sum e.txDropped
    link := false, asCapable := false, syncWait := none, delayT3 := none, pdelay := none, parent := none
    foreign := [], qualify := 0, ratio := 1, turn := none
    ptpState := if e.ptp.role = 0 then .disabled else .faulty }

/-- The state of a port whose link has gone, before the time source is judged. -/
def linkFallen (p : Fin 2) (s : State) : State :=
  modEth p (fun e => { e with
    link := false, asCapable := false, syncWait := none, delayT3 := none, pdelay := none, parent := none
    foreign := [], qualify := 0, ratio := 1, turn := none
    ptpState := if e.ptp.role = 0 then .disabled else .faulty }) (dropEgress p s)

theorem ethLinkLost_eq (p : Fin 2) (s : State) : ethLinkLost p s =
    settleFree (if decide (sourcePort s = some p) then loseLock 5 p (linkFallen p s) else linkFallen p s) := rfl

theorem port_linkFallen (p : Fin 2) (s : State) : (linkFallen p s).eth.port[p] = linkGone s.eth.port[p] ∧
    (linkFallen p s).eth.port[1 - p] = s.eth.port[1 - p] := by
  unfold linkFallen dropEgress
  rw [(port_modEth p _ _).1, (port_modEth p _ _).1, (port_modEth p _ _).2, (port_modEth p _ _).2]
  exact ⟨rfl, rfl⟩

/-- The loss of LOCKED is counted. -/
def lossCounted (s : State) : State := { s with bel.lockLosses := bump 65535 1 s.bel.lockLosses }

theorem grows_setTimeState (x : TimeState) (k : Nat) (q : Fin 2) (s : State) : Grows s (setTimeState x k q s) := by
  unfold setTimeState
  refine grows_ite (grows_refl s) ?_
  have hsignal : ∀ b v w, Grows v w → Grows v (belSignal b w) := fun b v w h =>
    h.trans (grows_of_keeps (keeps_belSignal b w) (by decide))
  refine hsignal _ _ _ (Grows.trans ?_ (grows_of_rve (by rfl)))
  exact grows_ite (Grows.trans (t := lossCounted s) (grows_of_rve rfl) (grows_raise _ _ _ _)) (grows_refl s)

theorem ethLinkLost_spec (p : Fin 2) (s : State) : (ethLinkLost p s).eth.port[p] = linkGone s.eth.port[p] ∧
    (ethLinkLost p s).eth.port[1 - p] = s.eth.port[1 - p] ∧ Grows s (ethLinkLost p s) := by
  obtain ⟨hself, hother⟩ := port_linkFallen p s
  have hfallen : Grows s (linkFallen p s) := grows_of_rve rfl
  rw [ethLinkLost_eq]
  generalize linkFallen p s = u at hself hother hfallen
  have hlost : Grows u (loseLock 5 p u) := grows_ite (grows_setTimeState _ _ _ _) (grows_refl u)
  have hsettled : ∀ v, Grows v (settleFree v) := fun v => grows_ite (grows_setTimeState _ _ _ _) (grows_refl v)
  have heth : (if decide (sourcePort s = some p) then loseLock 5 p u else u).eth = u.eth := by
    split
    · exact eth_loseLock 5 p u
    · rfl
  rw [eth_settleFree, heth]
  exact ⟨hself, hother, (hfallen.trans (grows_ite hlost (grows_refl u))).trans (hsettled _)⟩

theorem link_down (hcore : s.pwr.core = true) (hup : (s.eth.port[p]).link = true) :
    Answers (exec (.ethLinkDown p) s) fun t =>
      (t.eth.port[p]).link = false ∧ (∀ q : Fin 8, (t.eth.port[p]).egress[q] = []) ∧
      (t.eth.port[p]).txDropped = bump 65535
        (((List.finRange 8).map fun q => ((s.eth.port[p]).egress[q]).length).sum) (s.eth.port[p]).txDropped ∧
      t.eth.port[1 - p] = s.eth.port[1 - p] ∧
      ∃ l, t.rve.inbox = s.rve.inbox ++ ⟨36 + p.val, .minor, 1#32, false, s.now⟩ :: l := by
  have hraise := raised_raise (g := 36 + p.val) (c := .minor) (d := 1) hcore
  have heth : (raise (36 + p.val) .minor 1 s).eth = s.eth := keeps_raise _ _ _ _ .eth (by decide)
  generalize hu : raise (36 + p.val) .minor 1 s = u at hraise heth
  have hexec : exec (.ethLinkDown p) s = .next (ethLinkLost p u) := by
    rw [← hu]
    exact congrArg Host.Outcome.next (whenS_true (by rw [hcore, hup]; rfl))
  obtain ⟨hport, hother, l, hgrow⟩ := ethLinkLost_spec p u
  rw [heth] at hport hother
  refine answers_of_eq hexec ⟨by rw [hport]; rfl, fun q => ?_, by rw [hport]; rfl, hother, l, ?_⟩
  · rw [hport, linkGone]
    simp
  · rw [hgrow, hraise, List.append_assoc]
    rfl

/-! Eligibility and transmission (R486, R487). -/

/-- The head frame of a queue is marked eligible if its launch time has come. -/
def headMarked (now : Int) (l : List EgFrame) : List EgFrame :=
  match l with
  | f :: r => (match f.launch with
    | some k => { f with eligible := decide (k ≤ now) }
    | none => { f with eligible := true }) :: r
  | [] => []

/-- A port with the head frame of one queue marked. -/
def queueMarked (now : Int) (q : Fin 8) (e : Eth) : Eth := { e with egress := e.egress.upd q (headMarked now) }

theorem markEligible_eq (s : State) (p : Fin 2) (q : Fin 8) :
    markEligible s p q = modEth p (queueMarked (netTime s) q) s := rfl

theorem egress_queueMarked (now : Int) (q : Fin 8) (e : Eth) :
    (queueMarked now q e).egress[q] = headMarked now e.egress[q] ∧
    ∀ k : Fin 8, k ≠ q → (queueMarked now q e).egress[k] = e.egress[k] := by
  unfold queueMarked
  dsimp only
  exact ⟨by rw [Tab.upd_get, if_pos rfl], fun k hk => by rw [Tab.upd_get, if_neg hk]⟩

theorem headMarked_twice (now : Int) (l : List EgFrame) : headMarked now (headMarked now l) = headMarked now l := by
  cases l with
  | nil => rfl
  | cons f r => cases h : f.launch <;> simp [headMarked, h]

theorem launch_eligible {q : Fin 8} {g : EgFrame} {r : List EgFrame} {k : Int} (hsends : macSends p s = true)
    (hqueue : (s.eth.port[p]).egress[q] = g :: r) (hlaunch : g.launch = some k) :
    Answers (exec (.ethLaunchEligible p q) s) fun t =>
      ((t.eth.port[p]).egress[q] = { g with eligible := decide (k ≤ netTime s) } :: r) ∧
      (∀ j : Fin 8, j ≠ q → (t.eth.port[p]).egress[j] = (s.eth.port[p]).egress[j]) ∧
      t.eth.port[1 - p] = s.eth.port[1 - p] ∧ Keeps [.eth] s t := by
  obtain ⟨hself, hother⟩ := port_modEth p (queueMarked (netTime s) q) s
  obtain ⟨hmark, hrest⟩ := egress_queueMarked (netTime s) q s.eth.port[p]
  refine answers_whenS hsends ?_
  rw [markEligible_eq, hself]
  refine ⟨hmark.trans ?_, hrest, hother, keeps_modEth _ _ _⟩
  rw [hqueue, headMarked, hlaunch]

/-- The state with the head frames of some queues marked. -/
def marksMade (p : Fin 2) (l : List (Fin 8)) (s : State) : State := l.foldl (fun s q => markEligible s p q) s

theorem keeps_marksMade (p : Fin 2) (l : List (Fin 8)) (s : State) : Keeps [.eth] s (marksMade p l s) :=
  keeps_foldl (keeps_refl _ _) fun _ _ h => keeps_step (keeps_markEligible _ _ _) rfl h

theorem marksMade_spec (p : Fin 2) (l : List (Fin 8)) : ∀ s : State,
    (marksMade p l s).eth.port[p] = { s.eth.port[p] with egress := ((marksMade p l s).eth.port[p]).egress } ∧
    (marksMade p l s).eth.port[1 - p] = s.eth.port[1 - p] ∧
    ∀ k : Fin 8, ((marksMade p l s).eth.port[p]).egress[k] =
      if k ∈ l then headMarked (netTime s) (s.eth.port[p]).egress[k] else (s.eth.port[p]).egress[k] := by
  induction l with
  | nil => exact fun s => ⟨rfl, rfl, fun k => rfl⟩
  | cons q l ih =>
    intro s
    obtain ⟨hself, hother⟩ := port_modEth p (queueMarked (netTime s) q) s
    obtain ⟨hmark, hrest⟩ := egress_queueMarked (netTime s) q s.eth.port[p]
    have hmade : marksMade p (q :: l) s = marksMade p l (modEth p (queueMarked (netTime s) q) s) := rfl
    have htime : netTime (modEth p (queueMarked (netTime s) q) s) = netTime s := rfl
    rw [hmade]
    generalize modEth p (queueMarked (netTime s) q) s = u at hself hother htime
    obtain ⟨hport, hsame, hqueues⟩ := ih u
    refine ⟨?_, hsame.trans hother, fun k => ?_⟩
    · rw [hself] at hport
      exact hport
    · rw [hqueues k, hself, htime]
      by_cases hk : k = q
      · subst hk
        rw [hmark, headMarked_twice]
        simp
      · rw [hrest k hk]
        simp [hk]

/-- What a port sends of a frame, and the state after. -/
def sentPayload (p : Fin 2) (f : EgFrame) (stamp : Int) (s : State) : EthPayload × State :=
  match f.payload with
  | .ptp m seq t c => sendPtp p m seq t c stamp s
  | y => (y, s)

/-- A frame that has left its queue is sent. -/
def frameOut (p : Fin 2) (q : Fin 8) (f : EgFrame) (s : State) : State :=
  let r := egressStamp p s
  let x := sentPayload p f r.1 r.2
  emit (.eth p { f with payload := x.1 } r.1 (egressTag p q x.1 s) (zeroChecksum p x.1 s) (ptpHead p s x.1)) x.2

/-- A frame leaves later than its launch time allows. -/
def launchedLate (f : EgFrame) (s : State) : Bool :=
  match f.launch with
  | some k => decide (k + 65536000 < netTime s)
  | none => false

/-- The head frame of a queue leaves. -/
def headSent (p : Fin 2) (q : Fin 8) (f : EgFrame) (rest : List EgFrame) (s : State) : State :=
  frameOut p q f (modEth p (fun e => { e with
    egress := e.egress.put q rest
    txLate := if launchedLate f s then bump 65535 1 e.txLate else e.txLate }) s)

theorem sendFrame_eq (p : Fin 2) (s : State) : sendFrame p s =
    match ((List.finRange 8).filter (headEligible p (marksMade p (List.finRange 8) s))).getLast? with
    | none => marksMade p (List.finRange 8) s
    | some q =>
      match ((marksMade p (List.finRange 8) s).eth.port[p]).egress[q] with
      | [] => marksMade p (List.finRange 8) s
      | f :: rest => headSent p q f rest (marksMade p (List.finRange 8) s) := rfl

theorem sentPayload_plain {f : EgFrame} {stamp : Int} (h : ∀ m a b c, f.payload ≠ .ptp m a b c) :
    sentPayload p f stamp s = (f.payload, s) := by
  unfold sentPayload
  cases hp : f.payload with
  | ptp m a b c => exact absurd hp (h m a b c)
  | _ => rfl

theorem plain_frame {y : EthPayload} (h : ∀ m a b c, y ≠ .ptp m a b c) :
    y.isPtp = false ∧ zeroChecksum p y s = false ∧ ptpHead p s y = none ∧
    egressTag p 1 y s = if (s.eth.port[p]).vlanId = 0 then none else some ((s.eth.port[p]).vlanId, 1) := by
  unfold zeroChecksum egressTag
  cases y with
  | ptp m a b c => exact absurd rfl (h m a b c)
  | _ => exact ⟨rfl, Bool.and_false _, rfl, by simp⟩

/-- A port that has sent the head frame of queue 1. -/
def afterSent (r : List EgFrame) (e : Eth) : Eth := { e with egress := e.egress.put 1 r }

theorem frameOut_plain {f : EgFrame} (hplain : ∀ m a b c, f.payload ≠ .ptp m a b c) : ∃ stamp,
    frameOut p 1 f s = emit (.eth p f stamp (egressTag p 1 f.payload s) false none) { s with free := s.free + 1 } := by
  refine ⟨(egressStamp p s).1, ?_⟩
  unfold frameOut
  dsimp only
  rw [sentPayload_plain hplain]
  dsimp only
  rw [(plain_frame hplain).2.1, (plain_frame hplain).2.2.1]
  rfl

theorem headSent_plain {f : EgFrame} {r : List EgFrame} (hlaunch : f.launch = none)
    (hplain : ∀ m a b c, f.payload ≠ .ptp m a b c) : ∃ stamp,
    headSent p 1 f r s = emit (.eth p f stamp (egressTag p 1 f.payload s) false none)
      { modEth p (afterSent r) s with free := s.free + 1 } := by
  obtain ⟨hself, -⟩ := port_modEth p (afterSent r) s
  have htag : egressTag p 1 f.payload (modEth p (afterSent r) s) = egressTag p 1 f.payload s := by
    rw [(plain_frame hplain).2.2.2, (plain_frame hplain).2.2.2, hself]
    rfl
  have hlate : launchedLate f s = false := by
    unfold launchedLate
    rw [hlaunch]
  have hsent : headSent p 1 f r s = frameOut p 1 f (modEth p (afterSent r) s) := by
    unfold headSent
    rw [hlate]
    rfl
  obtain ⟨stamp, hout⟩ := frameOut_plain (p := p) (s := modEth p (afterSent r) s) hplain
  exact ⟨stamp, by rw [hsent, hout, htag]; rfl⟩

theorem frame_transmitted {g : EgFrame} {r : List EgFrame} (hsends : macSends p s = true)
    (hempty : ∀ q : Fin 8, q ≠ 1 → (s.eth.port[p]).egress[q] = [])
    (hqueue : (s.eth.port[p]).egress[(1 : Fin 8)] = g :: r) (hlaunch : g.launch = none)
    (hplain : ∀ m a b c, g.payload ≠ .ptp m a b c) :
    Answers (exec (.ethFrameTransmit p) s) fun t =>
      ((t.eth.port[p]).egress[(1 : Fin 8)] = r) ∧
      (∃ stamp, Sent [.eth p { g with eligible := true } stamp (egressTag p 1 g.payload s) false none] s t) ∧
      t.eth.port[1 - p] = s.eth.port[1 - p] ∧ Keeps [.eth, .free, .out] s t := by
  obtain ⟨hport, hsame, hqueues⟩ := marksMade_spec p (List.finRange 8) s
  have hkeep := keeps_marksMade p (List.finRange 8) s
  have hframe := keeps_sendFrame p s
  have hsend := sendFrame_eq p s
  generalize marksMade p (List.finRange 8) s = u at hport hsame hqueues hkeep hsend
  have hone : (u.eth.port[p]).egress[(1 : Fin 8)] = { g with eligible := true } :: r := by
    rw [hqueues 1, if_pos (List.mem_finRange 1), hqueue, headMarked, hlaunch]
  have hchosen : ((List.finRange 8).filter (headEligible p u)).getLast? = some 1 := by
    have hfilter : (List.finRange 8).filter (headEligible p u) = (List.finRange 8).filter (· == 1) := by
      refine List.filter_congr fun q _ => ?_
      unfold headEligible
      by_cases hq : q = 1
      · subst hq
        rw [hone]
        simp [(plain_frame (p := p) (s := s) hplain).1]
      · rw [hqueues q, if_pos (List.mem_finRange q), hempty q hq]
        simpa [headMarked] using hq
    rw [hfilter]
    decide
  rw [hchosen] at hsend
  dsimp only at hsend
  rw [hone] at hsend
  obtain ⟨stamp, hsent⟩ := headSent_plain (s := u) (p := p) (f := { g with eligible := true }) (r := r) hlaunch hplain
  obtain ⟨hself, hother⟩ := port_modEth p (afterSent r) u
  have htag : egressTag p 1 g.payload u = egressTag p 1 g.payload s := by
    rw [(plain_frame hplain).2.2.2, (plain_frame hplain).2.2.2, hport]
  have hexec : exec (.ethFrameTransmit p) s = .next (sendFrame p s) :=
    congrArg Host.Outcome.next (whenS_true hsends)
  refine answers_of_eq hexec ?_
  dsimp only at hsend hsent
  rw [htag] at hsent
  rw [hsend, hsent] at hframe ⊢
  refine ⟨?_, ⟨stamp, ?_⟩, hother.trans hsame, keeps_mono hframe rfl⟩
  · show ((modEth p (afterSent r) u).eth.port[p]).egress[(1 : Fin 8)] = r
    rw [hself]
    exact (Tab.put_get _ _ _ _).trans (if_pos rfl)
  · show _ :: u.out = _ :: s.out
    rw [hkeep .out (by decide)]

/-- Settles O44: an accepted request is one frame more in queue 1, and the head frame of the only queue with
frames is the one that leaves. -/
theorem ethernetFrames : Obligations.EthernetFrames := by
  unfold Obligations.EthernetFrames
  exact ⟨fun _ _ _ => arp_answered, fun _ _ _ => echo_answered, fun _ _ => link_up, fun _ _ => link_down,
    fun _ _ _ _ _ _ => launch_eligible, fun _ _ _ _ => frame_transmitted⟩

end Sys2Proof.Proofs
end

section
/-!
SUPPORT. O46 fails: outside SLEEP with KEEP_TIME an alarm is a wake source all the same where a low-power entry to
SLEEP with KEEP_TIME has passed its commit point. It latches the wake (R388), which the statement's frame leaves out.
-/

namespace Sys2Proof.Proofs

set_option Elab.async false

open Sys2Proof Sys2Proof.Machine Sys2Proof.Safety Sys2Proof.Laws

/-- Whether a wake event is latched in an outcome. -/
def wakeLatched (o : Out) : Bool := match o with
  | .next t => t.pwr.latched
  | _ => false

/-- The device in RUN has committed an entry to SLEEP with KEEP_TIME; alarm 0, whose time has come, may wake it. -/
def committedWithAlarm : State := { State.reset with
  bel.powered := true
  bel.alarm := State.reset.bel.alarm.put 0 { armed := true, fired := false, s := 0, ns := 0 }
  pwr.wakeEn := 0x10#6
  pwr.entry := some {
    cmd := { src := .discard, d := 0, arr := 0, ser := 0 }
    target := .sleep
    keepTime := true
    wakeEn := 0x10#6
    step := .engines
    committed := true } }

theorem wakeLatched_committedWithAlarm : wakeLatched (exec (.alarmFire 0) committedWithAlarm) = true := by
  decide +kernel

/-- Refutes O46: an alarm that fires after the commit point of a low-power entry latches a wake. -/
theorem not_networkTime : ¬ Obligations.NetworkTime := by
  unfold Obligations.NetworkTime
  rintro ⟨-, -, halarm, -⟩
  obtain ⟨t, ht, -, -, -, -, -, hkeep⟩ := halarm committedWithAlarm 0 (by decide +kernel) (by decide +kernel)
    (by decide +kernel) (by decide +kernel)
  have hpwr : t.pwr = committedWithAlarm.pwr := hkeep .pwr (by decide)
  have heval := wakeLatched_committedWithAlarm
  rw [ht] at heval
  have hlatched : committedWithAlarm.pwr.latched = true := hpwr ▸ heval
  exact absurd hlatched (by decide +kernel)

end Sys2Proof.Proofs
end

section
/-!
SUPPORT. O47 fails: SLEEP_TRIM is measured as the power goes down, so a Bellhouse that is on the sleep clock already
has its network time judged by the new trim from its last rebase on, and the statement does not ask for the other clock.
-/

namespace Sys2Proof.Proofs

set_option Elab.async false

open Sys2Proof Sys2Proof.Machine Sys2Proof.Safety Sys2Proof.Laws

/-- An entry to SLEEP with KEEP_TIME that has passed its commit point. -/
def committedEntry : LowEntry where
  cmd := { src := .discard, d := 0, arr := 0, ser := 0 }
  target := .sleep
  keepTime := true
  wakeEn := 0
  step := .engines
  committed := true

/-- The Bellhouse has run on the sleep clock, with a trim, for 2^32 units. -/
def onSleepClock (trim : Int) : State := { State.reset with
  bel.powered := true
  bel.sleepClock := true
  bel.sleepTrim := trim
  bel.frc := 2 ^ 32
  pwr.entry := some committedEntry }

theorem netTime_onSleepClock_zero : netTime (onSleepClock 0) = 4294967296 := by decide +kernel

theorem netTime_onSleepClock_one : netTime (onSleepClock 1) = 4294967297 := by decide +kernel

/-- The measurement overwrites the trim, whatever it was. -/
theorem measureTrim_onSleepClock (trim : Int) : measureTrim (onSleepClock trim) = measureTrim (onSleepClock 0) := rfl

theorem powerDown_onSleepClock (trim : Int) :
    powerDown committedEntry (onSleepClock trim) = powerDown committedEntry (onSleepClock 0) := by
  have hkeep : ((committedEntry.target == .sleep) && committedEntry.keepTime) = true := rfl
  simp only [powerDown, hkeep, if_true, measureTrim_onSleepClock trim]
  rfl

/-- An entry with all its steps behind it makes no further one. -/
theorem commitLow_onSleepClock (trim : Int) : commitLow (onSleepClock trim) = onSleepClock trim := rfl

theorem exec_lowPowerPowerdown_onSleepClock (trim : Int) :
    exec .lowPowerPowerdown (onSleepClock trim) = .next (powerDown committedEntry (onSleepClock 0)) := by
  refine Eq.trans (b := execLowPowerPowerdown (onSleepClock trim)) rfl ?_
  unfold execLowPowerPowerdown
  dsimp only
  rw [commitLow_onSleepClock]
  exact congrArg Host.Outcome.next (powerDown_onSleepClock trim)

/-- Refutes O47: with the Bellhouse on the sleep clock already, two states that differ in their trims have different
network times and go down to one state. -/
theorem not_lowPowerStates : ¬ Obligations.LowPowerStates := by
  unfold Obligations.LowPowerStates
  rintro ⟨hdown, -⟩
  have hkept (trim : Int) : netTime (powerDown committedEntry (onSleepClock 0)) = netTime (onSleepClock trim) := by
    obtain ⟨t, ht, -, -, -, -, -, -, -, -, -, htime⟩ := hdown (onSleepClock trim) committedEntry rfl rfl rfl
    rw [exec_lowPowerPowerdown_onSleepClock] at ht
    cases ht
    exact htime rfl rfl
  have h0 := (hkept 0).symm.trans (hkept 1)
  rw [netTime_onSleepClock_zero, netTime_onSleepClock_one] at h0
  exact absurd h0 (by decide)

end Sys2Proof.Proofs
end

section
/-!
SUPPORT. O50 fails: with the core up and a low-power entry under way, a transaction of an index that the always-on
domain does not serve itself is a wake event (R388, R394), which the statement's frame leaves out.
-/

namespace Sys2Proof.Proofs

set_option Elab.async false

open Sys2Proof Sys2Proof.Machine Sys2Proof.Safety Sys2Proof.Laws

/-- The device has committed an entry to SLEEP, which I²C may wake from. -/
def committedWithI2c : State := { State.reset with
  pwr.core := true
  pwr.wakeEn := 0x01#6
  pwr.entry := some {
    cmd := { src := .discard, d := 0, arr := 0, ser := 0 }
    target := .sleep
    keepTime := false
    wakeEn := 0x01#6
    step := .engines
    committed := true } }

theorem wakeLatched_committedWithI2c :
    wakeLatched (exec (.i2cTransaction (.write 0 [])) committedWithI2c) = true := by
  decide +kernel

/-- Refutes O50: a transaction's first byte that sets an index of the core's latches a wake during a low-power
entry. -/
theorem not_managementAndAuxChains : ¬ Obligations.ManagementAndAuxChains := by
  unfold Obligations.ManagementAndAuxChains
  rintro ⟨⟨hindex, -⟩, -⟩
  obtain ⟨t, ht, -, -, -, hkeep⟩ := hindex committedWithI2c 0 rfl
  have hpwr : t.pwr = committedWithI2c.pwr := hkeep .pwr (by decide)
  have heval := wakeLatched_committedWithI2c
  rw [ht] at heval
  have hlatched : committedWithI2c.pwr.latched = true := hpwr ▸ heval
  exact absurd hlatched (by decide +kernel)

end Sys2Proof.Proofs
end

section
/-!
SUPPORT. O52 fails: a HELLO is not judged while a claim is under way (R454, R473), and the statement of the one that
does not match, other than that of the one that does, does not ask for no claim.
-/

namespace Sys2Proof.Proofs

set_option Elab.async false

open Sys2Proof Sys2Proof.Machine Sys2Proof.Safety Sys2Proof.Laws

/-- The state of the Yoke in an outcome. -/
def yokeLeft (o : Out) : Option YokeState := match o with
  | .next t => some t.yok.state
  | _ => none

/-- A device in SEEK pulls the line in a claim, while its partner says that it holds the line. -/
def claimingInSeek : State := { State.reset with
  pwr.core := true
  yok.state := .seek
  yok.claim := .pulse
  yok.lost := false
  yok.partner := some {
    seq := 0
    time := 0
    period := 0
    counts := ⟨0, 0, 0⟩
    state := .active
    locked := false
    ready := 0
    at' := 0 } }

/-- Its own HELLO come back has the device's own strap. -/
theorem incompatible_ownHello (s : State) : incompatible (ownHello s) s = 2 := if_pos rfl

theorem yokeLeft_claimingInSeek :
    yokeLeft (exec (.yokeHelloMsg (ownHello claimingInSeek)) claimingInSeek) = some .seek := by
  decide +kernel

/-- Refutes O52: a HELLO that does not match leaves a device in SEEK whose claim is under way. -/
theorem not_yokeMessages : ¬ Obligations.YokeMessages := by
  unfold Obligations.YokeMessages
  rintro ⟨-, -, -, -, hmismatch, -⟩
  obtain ⟨t, ht, -, hstate, -⟩ := hmismatch claimingInSeek (ownHello claimingInSeek) (by decide +kernel)
    (by decide +kernel) (by decide +kernel) (by rw [incompatible_ownHello]; decide) (by decide +kernel)
  have heval := yokeLeft_claimingInSeek
  rw [ht] at heval
  exact absurd (hstate.symm.trans (Option.some.inj heval)) (by decide)

end Sys2Proof.Proofs
end

section
/-!
SUPPORT. O53 fails: a snapshot brings EN of the rails (R475), and a rail that waits in SUSPENDED goes to OFF with
EN 0, where the statement has the states of the rails stay.
-/

namespace Sys2Proof.Proofs

set_option Elab.async false

open Sys2Proof Sys2Proof.Machine Sys2Proof.Safety Sys2Proof.Laws

/-- The state of rail 0 in an outcome. -/
def railLeft (o : Out) : Option RailState := match o with
  | .next t => some (t.rail.rail[(0 : Fin 8)]).state
  | _ => none

/-- A follower in COPY whose rail 0, enabled, waits for the line. -/
def copyingFollower : State := { State.reset with
  pwr.core := true
  yok.state := .copy
  rail.rail := State.reset.rail.rail.upd 0 fun r => { r with
    entry := { r.entry with used := true }
    en := true
    state := .suspended
    suspend := .standby } }

/-- The snapshot of a holder at reset, all of whose rails have EN 0. -/
theorem railLeft_copyingFollower :
    railLeft (exec (.yokeSnapshot (ownSnapshot State.reset)) copyingFollower) = some .off := by
  decide +kernel

theorem state_copyingFollower : (copyingFollower.rail.rail[(0 : Fin 8)]).state = .suspended := by
  decide +kernel

/-- Refutes O53: a snapshot whose rail 0 has EN 0 turns the follower's suspended rail OFF. -/
theorem not_yokeCopies : ¬ Obligations.YokeCopies := by
  unfold Obligations.YokeCopies
  rintro ⟨-, -, hsnap, -⟩
  obtain ⟨t, ht, -, -, -, -, -, -, -, -, -, -, -, -, -, -, -, hrails, -⟩ :=
    hsnap copyingFollower (ownSnapshot State.reset) (by decide +kernel) (by decide +kernel)
  have heval := railLeft_copyingFollower
  rw [ht] at heval
  have hsusp := (hrails 0).2.trans state_copyingFollower
  exact absurd (hsusp.symm.trans (Option.some.inj heval)) (by decide)

end Sys2Proof.Proofs
end

section
/-!
SUPPORT. O51: claiming, holding, losing and handing over the line of the yoked pair.
-/

namespace Sys2Proof.Proofs

set_option Elab.async false

open Sys2Proof Sys2Proof.Machine Sys2Proof.Safety Sys2Proof.Laws

variable {s t u : State}

/-! What the rails do changes nothing of the Yoke but its own counts, which a command with COMMIT moves on. -/

/-- The Yoke is the same but for the counts of its own takes. -/
def YokeKept (s t : State) : Prop := { t.yok with own := s.yok.own } = s.yok

theorem yokeKept_refl (s : State) : YokeKept s s := rfl

theorem YokeKept.trans (h : YokeKept s t) (k : YokeKept t u) : YokeKept s u := by
  have hown : { u.yok with own := s.yok.own } = { t.yok with own := s.yok.own } :=
    congrArg (fun y : Yoke => { y with own := s.yok.own }) k
  exact hown.trans h

theorem yokeKept_of_yok (h : t.yok = s.yok) : YokeKept s t := by
  unfold YokeKept
  rw [h]

theorem yokeKept_of_keeps {l : List Zone} (k : Keeps l s t) (h : Zone.yok ∉ l) : YokeKept s t :=
  yokeKept_of_yok (k .yok h)

theorem yokeKept_ite {c : Prop} [Decidable c] (h : YokeKept s t) (k : YokeKept s u) :
    YokeKept s (if c then t else u) := by
  split
  · exact h
  · exact k

theorem yokeKept_foldl {α : Type} {f : State → α → State} (hf : ∀ t a, YokeKept t (f t a)) (l : List α) :
    ∀ s, YokeKept s (l.foldl f s) := by
  induction l with
  | nil => exact yokeKept_refl
  | cons a l ih => exact fun s => (hf s a).trans (ih (f s a))

theorem yokeKept_finish (c : Cmd) (st : BitVec 16) (r : Result) (s : State) : YokeKept s (finish c st r s) :=
  yokeKept_ite rfl (yokeKept_of_keeps (keeps_complete _ _ _ _ _) (by decide))

theorem yokeKept_checkRailJobs (s : State) : YokeKept s (checkRailJobs s) := by
  refine yokeKept_foldl (fun t j => ?_) _ _
  split
  · exact yokeKept_refl t
  · exact YokeKept.trans (yokeKept_of_yok rfl) (yokeKept_finish _ _ _ _)

theorem yokeKept_settleRails (s : State) : YokeKept s (settleRails s) := by
  have hpass : ∀ u, YokeKept u (railPass u) := fun u =>
    yokeKept_foldl (fun t k => yokeKept_of_keeps (keeps_settleRail k t) (by decide)) _ u
  have hpasses : YokeKept s (railPasses (releaseRails s)) :=
    (yokeKept_of_keeps (keeps_releaseRails s) (by decide)).trans (yokeKept_foldl (fun t _ => hpass t) _ _)
  exact hpasses.trans ((yokeKept_of_keeps (keeps_pruneSeqs _) (by decide)).trans
    ((yokeKept_checkRailJobs _).trans (yokeKept_of_keeps (keeps_checkRailTest _) (by decide))))

/-- The rails taken over one by one. -/
def takeRail (s : State) (k : Fin 8) : State :=
  let m := s.yok.rails[k]
  let r := s.rail.rail[k]
  if r.entry.used && r.en && m.en && m.duty != 0 then
    let f := freshBits 16 s
    let duty := if m.vin = 0 then f.1.toNat else (roundEven (r.vs * 65536 : Nat) m.vin).toNat
    modRail k (fun r => { r with
      state := .regulate, suspend := .none, target := r.vSet, duty := min 62259 duty,
      integ := r.i, limit := false, pgood := true }) (if m.vin = 0 then f.2 else s)
  else s

/-- The rails that waited for the line start as one sequence. -/
def standbyStarted (s : State) : State :=
  let left := railMask s fun r =>
    r.entry.used && r.en && r.state == .suspended && r.suspend == .standby
  settleRails (seqStart left left s)

theorem takeRails_eq (s : State) : takeRails s = standbyStarted ((List.finRange 8).foldl takeRail s) := rfl

theorem keeps_takeRail (s : State) (k : Fin 8) : Keeps [.free, .rail] s (takeRail s k) := by
  unfold takeRail
  dsimp only
  refine keeps_ite (keeps_step (keeps_modRail _ _ _) rfl (keeps_ite ?_ (keeps_refl _ _))) (keeps_refl _ _)
  exact keeps_mono (keeps_freshBits 16 s) rfl

theorem yokeKept_standbyStarted (s : State) : YokeKept s (standbyStarted s) := by
  unfold standbyStarted
  exact (yokeKept_of_keeps (keeps_seqStart _ _ s) (by decide)).trans (yokeKept_settleRails _)

theorem grows_standbyStarted (s : State) : Grows s (standbyStarted s) := by
  unfold standbyStarted
  exact (grows_of_keeps (keeps_seqStart _ _ s) (by decide)).trans (grows_settleRails _)

theorem yokeKept_takeRails (s : State) : YokeKept s (takeRails s) := by
  rw [takeRails_eq]
  exact (yokeKept_foldl (fun t k => yokeKept_of_keeps (keeps_takeRail t k) (by decide)) _ s).trans
    (yokeKept_standbyStarted _)

theorem grows_takeRails (s : State) : Grows s (takeRails s) := by
  rw [takeRails_eq]
  exact (grows_foldl (fun t k => grows_of_keeps (keeps_takeRail t k) (by decide)) _ s).trans (grows_standbyStarted _)

/-! Events of the Yoke. -/

theorem mem_yokeEvent (kind : Nat) (c : Machine.Class) (hcore : s.pwr.core = true) :
    ∃ d, (⟨21, c, d, false, s.now⟩ : Event) ∈ (yokeEvent kind c s).rve.inbox := by
  unfold yokeEvent
  rw [raise_of_core hcore]
  exact ⟨_, List.mem_append_right _ (List.mem_singleton.2 rfl)⟩

theorem yok_yokeEvent (kind : Nat) (c : Machine.Class) (s : State) : (yokeEvent kind c s).yok = s.yok :=
  keeps_yokeEvent _ _ _ .yok (by decide)

theorem mem_of_grows {e : Event} (h : Grows s t) (he : e ∈ s.rve.inbox) : e ∈ t.rve.inbox := by
  obtain ⟨l, hl⟩ := h
  rw [hl]
  exact List.mem_append_left l he

/-! A device gains the line (R452, R469, R471). -/

/-- The handover that ends has passed its latch point. -/
def handedOver (s : State) : Bool := match s.yok.handover with
  | some h => h.passed
  | none => false

theorem handedOver_iff (s : State) : handedOver s = true ↔ s.yok.handover.map Handover.passed = some true := by
  unfold handedOver
  cases s.yok.handover with
  | none => simp
  | some h => simp

/-- The line is the device's. -/
def lineTaken (s : State) : State := { s with
  yok.claim := .none
  yok.holding := true
  yok.line := false
  yok.following := false
  yok.mayClaim := true
  yok.handover := none
  yok.errorNs := 0
  yok.leads := false
  yok.locked := false
  yok.goodRun := 0
  yok.badRun := 0
  yok.state := if s.yok.state = .standby ∧ handedOver s then .active else .alone }

/-- It is counted as a handover or, with a MAJOR, as a takeover. -/
def lineCounted (s : State) : State :=
  if s.yok.state = .standby ∧ handedOver s then
    { lineTaken s with yok.handovers := bump 255 1 s.yok.handovers }
  else if s.yok.state = .standby then
    yokeEvent 2 .major { lineTaken s with yok.takeovers := bump 255 1 s.yok.takeovers }
  else lineTaken s

theorem gainLine_eq (s : State) : gainLine s = takeRails (lineCounted s) := rfl

theorem lineCounted_holds (s : State) :
    (lineCounted s).yok.claim = .none ∧ (lineCounted s).yok.holding = true ∧ (lineCounted s).yok.line = false ∧
      (lineCounted s).yok.following = false ∧
      (lineCounted s).yok.state = (if s.yok.state = .standby ∧ handedOver s then .active else .alone) := by
  unfold lineCounted
  by_cases hgiven : s.yok.state = .standby ∧ handedOver s
  · rw [if_pos hgiven, if_pos hgiven]
    exact ⟨rfl, rfl, rfl, rfl, if_pos hgiven⟩
  · rw [if_neg hgiven, if_neg hgiven]
    split
    · rw [yok_yokeEvent]
      exact ⟨rfl, rfl, rfl, rfl, if_neg hgiven⟩
    · exact ⟨rfl, rfl, rfl, rfl, if_neg hgiven⟩

theorem lineCounted_takeover (hstate : s.yok.state = .standby) (hgiven : handedOver s = false)
    (hcore : s.pwr.core = true) :
    (lineCounted s).yok.takeovers = bump 255 1 s.yok.takeovers ∧
      ∃ d, (⟨21, .major, d, false, s.now⟩ : Event) ∈ (lineCounted s).rve.inbox := by
  have hnot : ¬(s.yok.state = .standby ∧ handedOver s = true) := fun h => by
    rw [hgiven] at h
    exact Bool.noConfusion h.2
  unfold lineCounted
  rw [if_neg hnot, if_pos hstate]
  exact ⟨by rw [yok_yokeEvent], mem_yokeEvent 2 .major hcore⟩

theorem claimSample_gained (hmay : mayClaim s = true) :
    (gainLine s).yok.claim = .none ∧ (gainLine s).yok.holding = true ∧ (gainLine s).yok.line = false ∧
      (gainLine s).yok.following = false ∧
      (gainLine s).yok.state = (if s.yok.state = .standby ∧ s.yok.handover.map Handover.passed = some true
        then .active else .alone) ∧
      (s.yok.state = .standby → s.yok.handover.map Handover.passed ≠ some true →
        (gainLine s).yok.takeovers = bump 255 1 s.yok.takeovers ∧
        ∃ d, (⟨21, .major, d, false, s.now⟩ : Event) ∈ (gainLine s).rve.inbox) := by
  have hcore : s.pwr.core = true := by
    unfold mayClaim at hmay
    simp only [Bool.and_eq_true] at hmay
    exact hmay.1.1.1.1.1.1.1
  have hkept := yokeKept_takeRails (lineCounted s)
  have hgrows := grows_takeRails (lineCounted s)
  obtain ⟨hclaim, hhold, hline, hfollow, hstate⟩ := lineCounted_holds s
  rw [gainLine_eq]
  generalize takeRails (lineCounted s) = v at hkept hgrows ⊢
  refine ⟨(congrArg Yoke.claim hkept).trans hclaim, (congrArg Yoke.holding hkept).trans hhold,
    (congrArg Yoke.line hkept).trans hline, (congrArg Yoke.following hkept).trans hfollow,
    ((congrArg Yoke.state hkept).trans hstate).trans (by simp only [handedOver_iff]), fun hstandby hgiven => ?_⟩
  have hnot : handedOver s = false := Bool.eq_false_iff.2 fun h => hgiven ((handedOver_iff s).1 h)
  obtain ⟨hcount, d, hmem⟩ := lineCounted_takeover hstandby hnot hcore
  exact ⟨(congrArg Yoke.takeovers hkept).trans hcount, d, mem_of_grows hgrows hmem⟩

/-! A device releases the line (R455, R471). -/

/-- The line is released, before the rails follow. -/
def lineReleased (st : YokeState) (s : State) : State := { dropDisc (dropRequests s) with
  yok.holding := false
  yok.claim := .none
  yok.line := true
  yok.trip := false
  yok.state := st
  hdg.discMid := false }

theorem releaseLine_of_holding (st : YokeState) (h : s.yok.holding = true) :
    releaseLine st s = settleRails (lineReleased st s) :=
  if_pos (by rw [h]; rfl)

theorem keeps_dropDisc (s : State) : Keeps [.hdg] s (dropDisc s) := by
  unfold dropDisc
  split
  · exact keeps_refl _ _
  · exact keeps_ite (keeps_mk (keeps_refl _ _)) (keeps_mk (keeps_refl _ _))

theorem yok_dropped (s : State) : (dropDisc (dropRequests s)).yok = s.yok :=
  (keeps_dropDisc _ .yok (by decide)).trans (keeps_dropRequests _ .yok (by decide))

theorem disc_dropDisc (s : State) : (dropDisc s).hdg.disc = none := by
  unfold dropDisc
  split
  case h_1 h => exact h
  case h_2 => split <;> rfl

theorem yok_lineReleased (st : YokeState) (s : State) : (lineReleased st s).yok = { s.yok with
    holding := false
    claim := .none
    line := true
    trip := false
    state := st } :=
  congrArg (fun y : Yoke => { y with
    holding := false
    claim := .none
    line := true
    trip := false
    state := st }) (yok_dropped s)

theorem disc_releaseLine (st : YokeState) (h : s.yok.holding = true) : (releaseLine st s).hdg.disc = none := by
  rw [releaseLine_of_holding st h, keeps_settleRails _ .hdg (by decide)]
  exact disc_dropDisc _

/-- What releasing the line leaves of the Yoke, but for the counts of its own takes. -/
theorem yok_releaseLine (st : YokeState) (h : s.yok.holding = true) :
    { (releaseLine st s).yok with own := s.yok.own } = { s.yok with
      holding := false
      claim := .none
      line := true
      trip := false
      state := st } := by
  have hkept := yokeKept_settleRails (lineReleased st s)
  unfold YokeKept at hkept
  rw [yok_lineReleased] at hkept
  rw [releaseLine_of_holding st h]
  exact hkept

/-- The holder counts a contention and releases the line. -/
def contended (s : State) : State :=
  { releaseLine .seek { s with yok.contentions := bump 255 1 s.yok.contentions } with yok.line := false }

theorem holderCheck_low (hyoked : yoked s = true) (hhold : s.yok.holding = true) (hcore : s.pwr.core = true) :
    Answers (exec (.yokeHolderCheck false) s) fun t =>
      t.yok.holding = false ∧ t.yok.line = false ∧ t.yok.claim = .none ∧ t.yok.state = .seek ∧
      t.yok.trip = false ∧
      t.hdg.disc = none ∧ t.yok.contentions = bump 255 1 s.yok.contentions ∧
      ∃ d, ⟨21, .major, d, false, s.now⟩ ∈ t.rve.inbox := by
  have hrel := yok_releaseLine (s := { s with yok.contentions := bump 255 1 s.yok.contentions }) .seek hhold
  have hpwr := keeps_releaseLine .seek { s with yok.contentions := bump 255 1 s.yok.contentions } .pwr (by decide)
  have hnow := keeps_releaseLine .seek { s with yok.contentions := bump 255 1 s.yok.contentions } .now (by decide)
  have hdisc := disc_releaseLine (s := { s with yok.contentions := bump 255 1 s.yok.contentions }) .seek hhold
  have hevent := mem_yokeEvent (s := contended s) 5 .major ((congrArg Power.core hpwr).trans hcore)
  have hyok := yok_yokeEvent 5 .major (contended s)
  have hhdg : (yokeEvent 5 .major (contended s)).hdg = (contended s).hdg := keeps_yokeEvent _ _ _ .hdg (by decide)
  refine answers_of_eq (congrArg Host.Outcome.next (whenS_true (f := fun s => yokeEvent 5 .major (contended s))
    (by rw [hyoked, hhold]; rfl))) ?_
  rw [hyok, hhdg]
  refine ⟨congrArg Yoke.holding hrel, rfl, congrArg Yoke.claim hrel, congrArg Yoke.state hrel,
    congrArg Yoke.trip hrel, hdisc, congrArg Yoke.contentions hrel, ?_⟩
  obtain ⟨d, hmem⟩ := hevent
  have hsame : (contended s).now = s.now := hnow
  rw [hsame] at hmem
  exact ⟨d, hmem⟩

/-- The handover is over as the line is released. -/
def handoverOver (s : State) : State := { s with
  yok.handover := none
  yok.following := true
  yok.leads := false
  yok.handovers := bump 255 1 s.yok.handovers }

theorem handoverRelease_spec {q : BitVec 16} (hhold : s.yok.holding = true)
    (hhand : s.yok.handover = some ⟨q, true⟩) :
    Answers (exec .yokeHandoverRelease s) fun t =>
      t.yok.holding = false ∧ t.yok.line = true ∧ t.yok.state = .standby ∧ t.yok.handover = none ∧
      t.yok.following = true ∧
      t.yok.handovers = bump 255 1 s.yok.handovers := by
  have hrel := yok_releaseLine (s := handoverOver s) .standby hhold
  refine answers_of_eq (congrArg Host.Outcome.next (whenS_true
    (f := fun s => releaseLine .standby (handoverOver s)) (by rw [hhold, hhand]; rfl))) ?_
  exact ⟨congrArg Yoke.holding hrel, congrArg Yoke.line hrel, congrArg Yoke.state hrel,
    congrArg Yoke.handover hrel, congrArg Yoke.following hrel, congrArg Yoke.handovers hrel⟩

/-! The partner falls silent (R468), and a handover begins (R471). -/

/-- The partner is lost, before the event. -/
def partnerGone (s : State) : State := { s with
  yok.lost := true
  yok.shared := none
  yok.partner := none }

theorem partnerLost_eq (hyoked : yoked s = true) (hlost : s.yok.lost = false) :
    partnerLost s =
      if (yokeEvent 1 .major (partnerGone s)).yok.holding then
        { yokeEvent 1 .major (partnerGone s) with yok.state := .alone }
      else leadOn (yokeEvent 1 .major (partnerGone s)) :=
  if_neg (by rw [hyoked, hlost]; decide)

theorem partnerLost_spec (hyoked : yoked s = true) (hlost : s.yok.lost = false) (hcore : s.pwr.core = true) :
    (partnerLost s).yok.lost = true ∧ (partnerLost s).yok.shared = none ∧
      (if s.yok.holding then (partnerLost s).yok.state = .alone else (partnerLost s).yok.state = s.yok.state ∧
        (partnerLost s).yok.following = false ∧ (partnerLost s).yok.locked = false) ∧
      ∃ d, (⟨21, .major, d, false, s.now⟩ : Event) ∈ (partnerLost s).rve.inbox := by
  have hyok := yok_yokeEvent 1 .major (partnerGone s)
  have hevent := mem_yokeEvent (s := partnerGone s) 1 .major hcore
  rw [partnerLost_eq hyoked hlost]
  generalize yokeEvent 1 .major (partnerGone s) = u at hyok hevent ⊢
  have hhold : u.yok.holding = s.yok.holding := by rw [hyok]; rfl
  rw [hhold]
  cases s.yok.holding with
  | true => exact ⟨by rw [if_pos rfl]; dsimp only; rw [hyok]; rfl, by rw [if_pos rfl]; dsimp only; rw [hyok]; rfl,
      rfl, hevent⟩
  | false =>
    have hstate : u.yok.state = s.yok.state := by rw [hyok]; rfl
    exact ⟨by rw [if_neg Bool.false_ne_true]; unfold leadOn; dsimp only; rw [hyok]; rfl,
      by rw [if_neg Bool.false_ne_true]; unfold leadOn; dsimp only; rw [hyok]; rfl,
      ⟨hstate, rfl, rfl⟩, hevent⟩

theorem sent_startHandover (s : State) :
    Sent (if yoked s && s.yok.lane.state == .ready then
      [.yoke YokeMsg.handover.code [(s.lpl.composing + 1).toNat]] else []) s (startHandover s) := by
  unfold startHandover sendYoke
  have hyoked : yoked { s with yok.handover := some ⟨s.lpl.composing + 1, false⟩ } = yoked s := rfl
  rw [hyoked]
  dsimp only
  cases yoked s && s.yok.lane.state == .ready with
  | true => exact rfl
  | false => exact rfl

theorem handover_startHandover (s : State) :
    (startHandover s).yok = { s.yok with handover := some ⟨s.lpl.composing + 1, false⟩ } :=
  keeps_sendYoke _ _ _ .yok (by decide)

/-- Settles O51. -/
theorem yokeLine : Obligations.YokeLine := by
  unfold Obligations.YokeLine
  refine ⟨fun s hmay hclaim => ?_, fun s high hclaim => ?_, fun s hyoked hhold hcore => ⟨?_, ?_⟩,
    fun s hyoked hlost hcore hpartner => ?_, fun s hfollow => ?_, fun s hret hhold hpri hready hhand => ?_,
    fun s q hhold hhand => handoverRelease_spec hhold hhand, fun s hactive => ?_, fun s => ?_⟩
  · exact answers_whenS (by rw [hmay, hclaim]; rfl) ⟨rfl, rfl, rfl, rfl, keeps_mk (keeps_refl _ _)⟩
  · refine answers_whenS (by simpa using hclaim) ?_
    split
    case isTrue hgain =>
      have hmay : mayClaim s = true := (Bool.and_eq_true_iff.1 hgain).2
      obtain ⟨hnone, hholding, hline, hfollow, hstate, htake⟩ := claimSample_gained hmay
      exact ⟨hnone, hholding, hline, hfollow, hstate, htake⟩
    case isFalse => exact ⟨rfl, rfl, rfl, rfl, keeps_mk (keeps_refl _ _)⟩
  · exact congrArg Host.Outcome.next (whenS_false (by rw [hyoked, hhold]; rfl))
  · exact holderCheck_low hyoked hhold hcore
  · obtain ⟨hl, hshared, hside, hevent⟩ := partnerLost_spec hyoked hlost hcore
    exact answers_whenS (by simpa using hpartner) ⟨hl, hshared, hside, hevent, keeps_mono (keeps_partnerLost s) rfl⟩
  · exact answers_whenS hfollow ⟨rfl, rfl, rfl, rfl, keeps_step (keeps_leadOn _) rfl (keeps_mk (keeps_refl _ _))⟩
  · refine answers_whenS (by rw [hret, hhold, hpri, hready, hhand]; rfl) ?_
    rw [handover_startHandover]
    exact ⟨rfl, hhold, sent_startHandover s, keeps_mono (keeps_startHandover s) rfl⟩
  · exact answers_whenS hactive ⟨rfl, rfl, keeps_mk (keeps_refl _ _)⟩
  · exact answers_of_eq rfl ⟨rfl, rfl, keeps_mk (keeps_refl _ _)⟩

end Sys2Proof.Proofs
end

section
/-!
SUPPORT. O49: the choice of the image slot, FLASH_LOAD, Hedge power-up, record writes and staging.
-/

namespace Sys2Proof.Proofs

set_option Elab.async false

open Sys2Proof Sys2Proof.Machine Sys2Proof.Safety Sys2Proof.Laws

variable {s t u : State}

theorem core_of_coresUp (h : coresUp s = true) : s.pwr.core = true := (Bool.and_eq_true_iff.1 h).1

/-! The boot ROM chooses the image slot (R513, R514). -/

theorem inbox_raise_raise {g d d' : Nat} {c : Machine.Class} (hcore : s.pwr.core = true) :
    (raise g c d' (raise g c d s)).rve.inbox = s.rve.inbox ++
      [⟨g, c, BitVec.ofNat 32 d, false, s.now⟩, ⟨g, c, BitVec.ofNat 32 d', false, s.now⟩] := by
  rw [raise_of_core hcore, raise_of_core (by exact hcore)]
  exact List.append_assoc _ _ _

/-- What the boot ROM keeps of the two slots. -/
def slotsRead (img : ImageIn) (s : State) : State := { s with
  boot.a := slotOfIn img.a s
  boot.b := slotOfIn img.b s }

/-- Neither image is valid, before the events. -/
def bootFailed (s : State) : State := { s with
  boot.fail := true
  pwr.start := s.pwr.start.map fun x => { x with record := true } }

theorem bootImage_of_faults {img : ImageIn} (ha : slotFault img.a s ≠ 0) (hb : slotFault img.b s ≠ 0) :
    bootImage img s = raise 41 .major (bootDetail 2 (slotFault img.b s) 0)
      (raise 41 .major (bootDetail 1 (slotFault img.a s) 0) (bootFailed (slotsRead img s))) :=
  if_pos ⟨ha, hb⟩

/-- The second slot holds the image that runs. -/
def secondRuns (img : ImageIn) (s : State) : Bool :=
  slotFault img.a s != 0 || (slotFault img.b s == 0 && decide (hdr img.a.header 4 4 < hdr img.b.header 4 4))

/-- A slot that was to run and failed is recorded. -/
def faultNoted (img : ImageIn) (s : State) : State :=
  let second := secondRuns img s
  let other := if second then slotOfIn img.a s else slotOfIn img.b s
  let own := if second then slotOfIn img.b s else slotOfIn img.a s
  let fault := if second then slotFault img.a s else slotFault img.b s
  if fault > 1 ∧ own.gen ≤ other.gen then
    raise 41 .major (bootDetail (if second then 1 else 2) fault 0) (slotsRead img s)
  else slotsRead img s

theorem pwr_faultNoted (img : ImageIn) (s : State) : (faultNoted img s).pwr = s.pwr := by
  unfold faultNoted
  dsimp only
  rw [apply_ite State.pwr, keeps_raise _ _ _ _ .pwr (by decide)]
  exact ite_self _

/-- The start is a cold wake. -/
def startsCold (s : State) : Bool := match s.pwr.start with
  | some st => st.kind == .cold
  | none => false

/-- A power-on start takes no wake's end. -/
theorem bootImage_of_por {img : ImageIn} {st : Start} (hstart : s.pwr.start = some st) (hkind : st.kind = .por)
    (hgood : slotFault img.a s = 0 ∨ slotFault img.b s = 0) :
    bootImage img s = bootRuns (secondRuns img s) img (faultNoted img s) := by
  have hfault : ¬(slotFault img.a s ≠ 0 ∧ slotFault img.b s ≠ 0) := fun h => hgood.elim h.1 h.2
  have heq : bootImage img s = if startsCold (faultNoted img s)
      then wakeSucceeds (bootRuns (secondRuns img s) img (faultNoted img s))
      else bootRuns (secondRuns img s) img (faultNoted img s) := if_neg hfault
  have hcold : startsCold (faultNoted img s) = false := by
    unfold startsCold
    rw [pwr_faultNoted, hstart]
    dsimp only
    rw [hkind]
    rfl
  rw [heq, hcold]
  rfl

/-- An image runs, before its lanes start. -/
def imageRuns (second : Bool) (img : ImageIn) (s : State) : State := { s with
  boot.slot := second
  boot.fail := false
  boot.openKey := s.part.ownerKey.isNone
  boot.rec0 := img.rec0
  boot.rec1 := img.rec1
  boot.record := newerRec img.rec0 img.rec1
  pwr.cores := { Cores.reset with up := true }
  pwr.start := s.pwr.start.map fun x => { x with restored := true }
  lpl.lastLatch := s.now
  saved := none
  pxh.recount := true
  thm.trigger := some (0x1F, none) }

theorem bootRuns_eq (second : Bool) (img : ImageIn) (s : State) : ∃ u, bootRuns second img s =
    readLoad (settleFree (if (imageRuns second img u).pwr.pllLane then startLanes false (imageRuns second img u)
      else imageRuns second img u)) :=
  ⟨_, rfl⟩

/-- What runs after the image is in changes no boot register and no core. -/
theorem bootRuns_spec (second : Bool) (img : ImageIn) (s : State) :
    (bootRuns second img s).boot.slot = second ∧ (bootRuns second img s).boot.fail = false ∧
      (bootRuns second img s).pwr.cores.up = true ∧ (bootRuns second img s).boot.rec0 = img.rec0 ∧
      (bootRuns second img s).boot.rec1 = img.rec1 := by
  obtain ⟨u, heq⟩ := bootRuns_eq second img s
  have hlanes : Keeps [.out, .lpl, .link, .pxh, .yok] (imageRuns second img u)
      (if (imageRuns second img u).pwr.pllLane then startLanes false (imageRuns second img u)
        else imageRuns second img u) :=
    keeps_ite (keeps_startLanes _ _) (keeps_refl _ _)
  rw [heq]
  generalize (if (imageRuns second img u).pwr.pllLane then startLanes false (imageRuns second img u)
    else imageRuns second img u) = v at hlanes
  have hboot : (readLoad (settleFree v)).boot = (imageRuns second img u).boot :=
    (keeps_readLoad _ .boot (by decide)).trans
      ((keeps_settleFree v .boot (by decide)).trans (hlanes .boot (by decide)))
  have hpwr : (readLoad (settleFree v)).pwr = (imageRuns second img u).pwr :=
    (keeps_readLoad _ .pwr (by decide)).trans
      ((keeps_settleFree v .pwr (by decide)).trans (hlanes .pwr (by decide)))
  rw [hboot, hpwr]
  exact ⟨rfl, rfl, rfl, rfl, rfl⟩

/-! FLASH_LOAD (R518). -/

/-- The record is out of the list, and the next one is read. -/
def nextLoad (l : List FlashRec) (s : State) : State := readLoad { s with boot.loads := l }

theorem keeps_nextLoad (l : List FlashRec) (s : State) : Keeps [.out, .boot] s (nextLoad l s) :=
  keeps_step (keeps_readLoad _) rfl (keeps_mk (keeps_refl _ _))

theorem loads_nextLoad (l : List FlashRec) (s : State) : (nextLoad l s).boot.loads = l :=
  congrArg Boot.loads (keeps_readLoad { s with boot.loads := l } .boot (by decide))

/-- While the commissioning record is not judged the start goes no further. -/
theorem advanceStart_of_unjudged {st : Start} (hstart : s.pwr.start = some st) (hrec : st.record = false) :
    advanceStart s = s := by
  unfold advanceStart
  rw [hstart]
  dsimp only
  rw [hrec]
  exact if_neg (by simp)

theorem keeps_loadRecord_pwr (r : FlashRec) (d : Option (List Byte)) (s : State) :
    (loadRecord r d s).pwr = s.pwr := keeps_loadRecord r d s .pwr (by decide)

theorem exec_flashLoadRecordDone {st : Start} {r : FlashRec} {l : List FlashRec} {d : Option (List Byte)}
    (hup : coresUp s = true) (hstart : s.pwr.start = some st) (hrestored : st.restored = true)
    (hgranary : st.granary = true) (hrec : st.record = false) (hloads : s.boot.loads = r :: l) :
    exec (.flashLoadRecordDone d) s = .next (nextLoad l (loadRecord r d s)) := by
  have hnext : (nextLoad l (loadRecord r d s)).pwr.start = some st :=
    (congrArg Power.start (keeps_nextLoad l (loadRecord r d s) .pwr (by decide))).trans
      ((congrArg Power.start (keeps_loadRecord_pwr r d s)).trans hstart)
  refine congrArg Host.Outcome.next ((whenS_true (by rw [hup, hstart]; dsimp only; rw [hrestored, hgranary]; rfl)).trans ?_)
  dsimp only
  rw [hloads]
  exact advanceStart_of_unjudged hnext hrec

/-- Bytes whose content is given up lie in their range. -/
theorem read_scramble {a n x : Nat} (hwf : Memory.wf s.grn.mem = true) (hx : x < a ∨ a + n ≤ x) :
    Memory.read (scramble a n s).grn.mem x = Memory.read s.grn.mem x := by
  have hmem : (scramble a n s).grn.mem = Memory.writeBytes s.grn.mem (max a outBufEnd)
      ((List.range (min (a + n) grnSize - max a outBufEnd)).map fun i => Config.freeByte s.free i) := by
    unfold scramble
    dsimp only
    split
    · exact keeps_markDirty _ _ _ .mem (by decide)
    · rfl
  rw [hmem, read_writeBytes hwf, List.length_map, List.length_range, if_neg (by omega)]

theorem loadRecord_missing (r : FlashRec) (s : State) :
    loadRecord r none s = bootEvent 4 8 .major (scramble r.addr r.len s) := rfl

theorem raised_bootEvent {kind type : Nat} {c : Machine.Class} (hcore : s.pwr.core = true) :
    ∃ d, Raised 41 c d s (bootEvent kind type c s) :=
  ⟨_, raised_raise (s := (freshBits 4 s).2) hcore⟩

theorem flashLoad_missing {st : Start} {r : FlashRec} {l : List FlashRec}
    (hup : coresUp s = true) (hstart : s.pwr.start = some st) (hrestored : st.restored = true)
    (hgranary : st.granary = true) (hrec : st.record = false) (hloads : s.boot.loads = r :: l)
    (hwf : Memory.wf s.grn.mem = true) :
    Answers (exec (.flashLoadRecordDone none) s) fun t =>
      t.boot.loads = l ∧ (∃ d, Raised 41 .major d s t) ∧
      ∀ a, a < r.addr ∨ r.addr + r.len ≤ a → Memory.read t.grn.mem a = Memory.read s.grn.mem a := by
  refine answers_of_eq (exec_flashLoadRecordDone hup hstart hrestored hgranary hrec hloads)
    ⟨loads_nextLoad _ _, ?_, fun a ha => ?_⟩
  · have hscr := keeps_scramble r.addr r.len s
    have hcore : (scramble r.addr r.len s).pwr.core = true :=
      (congrArg Power.core (hscr .pwr (by decide))).trans (core_of_coresUp hup)
    have hrve : (scramble r.addr r.len s).rve = s.rve := hscr .rve (by decide)
    have hnow : (scramble r.addr r.len s).now = s.now := hscr .now (by decide)
    have hlast : (nextLoad l (loadRecord r none s)).rve = (loadRecord r none s).rve :=
      keeps_nextLoad _ _ .rve (by decide)
    obtain ⟨d, hraised⟩ := raised_bootEvent (kind := 4) (type := 8) (c := .major) hcore
    unfold Raised at hraised
    rw [hrve, hnow, ← loadRecord_missing] at hraised
    exact ⟨d, (congrArg Reeve.inbox hlast).trans hraised⟩
  · have hmem : (nextLoad l (loadRecord r none s)).grn.mem = (scramble r.addr r.len s).grn.mem :=
      (keeps_nextLoad _ _ .mem (by decide)).trans (keeps_bootEvent _ _ _ _ .mem (by decide))
    rw [hmem]
    exact read_scramble hwf ha

/-- A record that passes its checks is written as its bytes are. -/
theorem loadRecord_clean {r : FlashRec} {d : List Byte} (hmarks : s.grn.marks = []) (h8 : r.len % 8 = 0)
    (hlen : r.len ≤ 0x1000000) (hd : d.length = r.len) (hcrc : Env.crc32c d = r.crc)
    (hperm : loadDenied r.addr r.len s = none) : loadRecord r (some d) s = storeBytes r.addr d s := by
  have hchecks : ¬(r.len % 8 ≠ 0 ∨ r.len > 0x1000000 ∨ d.length ≠ r.len ∨ Env.crc32c d ≠ r.crc) := by
    rintro (h | h | h | h)
    · exact h h8
    · omega
    · exact h hd
    · exact h hcrc
  obtain ⟨v, hsame, hwrite⟩ := grnWrite_clean (s := s) .cores (a := r.addr) (d := d) (x := .none)
    fun w _ => ⟨by unfold markOf; rw [hmarks]; rfl, rfl⟩
  rw [hsame.eq_of_nil hmarks] at hwrite
  unfold loadRecord
  dsimp only
  rw [if_neg hchecks, hperm]
  dsimp only
  rw [hwrite]
  rfl

theorem flashLoad_written {st : Start} {r : FlashRec} {l : List FlashRec} {d : List Byte}
    (hup : coresUp s = true) (hstart : s.pwr.start = some st) (hrestored : st.restored = true)
    (hgranary : st.granary = true) (hrec : st.record = false) (hloads : s.boot.loads = r :: l)
    (hwf : Memory.wf s.grn.mem = true) (hd : d.length = r.len)
    (hclean : loadRecord r (some d) s = storeBytes r.addr d s) :
    Answers (exec (.flashLoadRecordDone (some d)) s) fun t =>
      t.boot.loads = l ∧ t.rve = s.rve ∧
      ∀ a, Memory.read t.grn.mem a =
        if r.addr ≤ a ∧ a < r.addr + r.len then d.getD (a - r.addr) 0 else Memory.read s.grn.mem a := by
  have hexec := exec_flashLoadRecordDone (d := some d) hup hstart hrestored hgranary hrec hloads
  rw [hclean] at hexec
  have hstore := keeps_storeBytes r.addr d s
  refine answers_of_eq hexec ⟨loads_nextLoad _ _,
    (keeps_nextLoad _ _ .rve (by decide)).trans (hstore .rve (by decide)), fun a => ?_⟩
  have hmem : (nextLoad l (storeBytes r.addr d s)).grn.mem = Memory.writeBytes s.grn.mem r.addr d :=
    (keeps_nextLoad _ _ .mem (by decide)).trans (mem_storeBytes r.addr d s)
  rw [hmem, read_writeBytes hwf, hd]

/-! Hedge power-up (R246, R247). -/

/-- The block in force and its CRC stay. -/
structure BlockKept (s t : State) : Prop where
  active : t.hdg.active = s.hdg.active
  crc : t.hdg.activeCrc = s.hdg.activeCrc

theorem blockKept_refl (s : State) : BlockKept s s := ⟨rfl, rfl⟩

theorem BlockKept.trans (h : BlockKept s t) (k : BlockKept t u) : BlockKept s u :=
  ⟨k.active.trans h.active, k.crc.trans h.crc⟩

theorem blockKept_of_keeps {l : List Zone} (k : Keeps l s t) (h : Zone.hdg ∉ l) : BlockKept s t := by
  have hhdg : t.hdg = s.hdg := k .hdg h
  exact ⟨by rw [hhdg], by rw [hhdg]⟩

theorem blockKept_ite {c : Prop} [Decidable c] (h : BlockKept s t) (k : BlockKept s u) :
    BlockKept s (if c then t else u) := by
  split
  · exact h
  · exact k

/-- A cause holds from now on. -/
def causeHeld (c : Fin 9) (s : State) : State := { s with
  hdg.cause := s.hdg.cause.upd c fun k => { k with
    active := true, latched := false, acked := false, raisedAt := s.now } }

theorem raiseCause_eq (c : Fin 9) (frame : BitVec 16) (s : State) : raiseCause c frame s =
    if (s.hdg.cause[c]).active then s
    else
      let r := Env.reaction s.hdg.env c.val
      let s := raise 0 (if r % 4 = 0 then .minor else .major) (hedgeDetail (2 ^ c.val) 1 frame) (causeHeld c s)
      if r % 4 = 0 then s else settleRails (sendOverride s) := rfl

theorem blockKept_causeHeld (c : Fin 9) (s : State) : BlockKept s (causeHeld c s) := ⟨rfl, rfl⟩

theorem blockKept_raiseCause (c : Fin 9) (frame : BitVec 16) (s : State) : BlockKept s (raiseCause c frame s) := by
  rw [raiseCause_eq]
  dsimp only
  refine blockKept_ite (blockKept_refl s) ((blockKept_causeHeld c s).trans ?_)
  refine blockKept_ite (blockKept_of_keeps (keeps_raise _ _ _ _) (by decide)) ?_
  refine BlockKept.trans ?_ (blockKept_of_keeps (keeps_settleRails _) (by decide))
  refine BlockKept.trans ?_ (blockKept_of_keeps (keeps_sendOverride _) (by decide))
  exact blockKept_of_keeps (keeps_raise _ _ _ _) (by decide)

theorem grows_raiseCause (c : Fin 9) (frame : BitVec 16) (s : State) : Grows s (raiseCause c frame s) := by
  rw [raiseCause_eq]
  dsimp only
  have hheld : Grows s (causeHeld c s) := grows_of_rve rfl
  refine grows_ite (grows_refl s) (hheld.trans (grows_ite (grows_raise _ _ _ _) ?_))
  refine Grows.trans ?_ (grows_settleRails _)
  refine Grows.trans ?_ (grows_of_keeps (keeps_sendOverride _) (by decide))
  exact grows_raise _ _ _ _

/-- A request of SAFE_IN is counted. -/
def requestCounted (s : State) : State := { s with hdg.requests := bump 255 1 s.hdg.requests }

theorem evalInputs_eq (s : State) : evalInputs s = s ∨
    evalInputs s = raiseCause cSafeIn s.lpl.composing (requestCounted s) := by
  unfold evalInputs safeInRaise
  dsimp only
  split
  · split
    · exact .inl rfl
    · exact .inr rfl
  · exact .inl rfl

theorem blockKept_evalInputs (s : State) : BlockKept s (evalInputs s) := by
  obtain h | h := evalInputs_eq s
  · rw [h]
    exact blockKept_refl s
  · rw [h]
    exact BlockKept.trans (t := requestCounted s) ⟨rfl, rfl⟩ (blockKept_raiseCause _ _ _)

theorem grows_evalInputs (s : State) : Grows s (evalInputs s) := by
  obtain h | h := evalInputs_eq s
  · rw [h]
    exact grows_refl s
  · rw [h]
    exact Grows.trans (t := requestCounted s) (grows_of_rve rfl) (grows_raiseCause _ _ _)

/-- COMMISSION_N low has been noted. -/
def commissionNoted (s : State) : State := { s with hdg.commNoted := true }

theorem noteCommission_eq (s : State) : noteCommission s = s ∨
    noteCommission s = raise 0 .note (hedgeDetail 0 5 0) (commissionNoted s) := by
  unfold noteCommission
  split
  · exact .inr rfl
  · exact .inl rfl

theorem blockKept_noteCommission (s : State) : BlockKept s (noteCommission s) := by
  obtain h | h := noteCommission_eq s
  · rw [h]
    exact blockKept_refl s
  · rw [h]
    exact BlockKept.trans (t := commissionNoted s) ⟨rfl, rfl⟩ (blockKept_of_keeps (keeps_raise _ _ _ _) (by decide))

theorem grows_noteCommission (s : State) : Grows s (noteCommission s) := by
  obtain h | h := noteCommission_eq s
  · rw [h]
    exact grows_refl s
  · rw [h]
    exact Grows.trans (t := commissionNoted s) (grows_of_rve rfl) (grows_raise _ _ _ _)

/-- The block that the record's judgement puts in force, with the event of a record that is none. -/
def recordJudged (s : State) : State :=
  match judgeRecord s with
  | .ok (b, crc) => activateBlock (.block b) crc s
  | .error k =>
    raise 0 .major (hedgeDetail 0 k s.lpl.composing)
      (activateBlock .uncommissioned s.hdg.activeCrc s)

/-- The judgement is in. -/
def judgementIn (s : State) : State := { s with
  hdg.activeAt := s.now
  hdg.graceOver := false
  hdg.judgedLate := false
  pwr.start := s.pwr.start.map fun x => { x with record := true } }

theorem hedgePowerUp_eq (s : State) :
    hedgePowerUp s = advanceStart (sendHello (evalInputs (noteCommission (judgementIn (recordJudged s))))) := rfl

theorem blockKept_hedgePowerUp (s : State) : BlockKept (recordJudged s) (hedgePowerUp s) := by
  rw [hedgePowerUp_eq]
  refine BlockKept.trans (t := judgementIn (recordJudged s)) ⟨rfl, rfl⟩ ?_
  exact ((blockKept_noteCommission _).trans (blockKept_evalInputs _)).trans
    ((blockKept_of_keeps (keeps_sendHello _) (by decide)).trans (blockKept_of_keeps (keeps_advanceStart _) (by decide)))

theorem grows_hedgePowerUp (s : State) : Grows (recordJudged s) (hedgePowerUp s) := by
  rw [hedgePowerUp_eq]
  refine Grows.trans (t := judgementIn (recordJudged s)) (grows_of_rve rfl) ?_
  exact ((grows_noteCommission _).trans (grows_evalInputs _)).trans
    ((grows_of_keeps (keeps_sendHello _) (by decide)).trans (grows_of_keeps (keeps_advanceStart _) (by decide)))

theorem hedgePowerUp_block {b : List Byte} {crc : Word} (h : judgeRecord s = .ok (b, crc)) :
    (hedgePowerUp s).hdg.active = some (.block b) ∧ (hedgePowerUp s).hdg.activeCrc = crc := by
  have hkept := blockKept_hedgePowerUp s
  have hjudged : recordJudged s = activateBlock (.block b) crc s := by
    unfold recordJudged
    rw [h]
  rw [hjudged] at hkept
  exact ⟨hkept.active.trans rfl, hkept.crc.trans rfl⟩

theorem hedgePowerUp_uncommissioned {k : Nat} (h : judgeRecord s = .error k) (hcore : s.pwr.core = true) :
    (hedgePowerUp s).hdg.active = some .uncommissioned ∧ ∃ l, (hedgePowerUp s).rve.inbox = s.rve.inbox ++
      ⟨0, .major, BitVec.ofNat 32 (hedgeDetail 0 k s.lpl.composing), false, s.now⟩ :: l := by
  have hkept := blockKept_hedgePowerUp s
  have hgrows := grows_hedgePowerUp s
  have hjudged : recordJudged s = raise 0 .major (hedgeDetail 0 k s.lpl.composing)
      (activateBlock .uncommissioned s.hdg.activeCrc s) := by
    unfold recordJudged
    rw [h]
  rw [hjudged, raise_of_core (s := activateBlock .uncommissioned s.hdg.activeCrc s) hcore] at hkept hgrows
  obtain ⟨l, hl⟩ := hgrows
  exact ⟨hkept.active.trans rfl, l, hl.trans (List.append_assoc _ _ _)⟩

/-! The commissioning record (R521). -/

/-- The write is out of the list, and its copy is erased. -/
def recordErased (l : List RecWrite) (s : State) : State :=
  emit (.flashErase (if recTarget s.boot then 0x810000 else 0x800000)) { s with boot.writes := l }

/-- Change the copy that a record write goes to. -/
def putRecord (second : Bool) (r : Option RecCopy) (s : State) : State :=
  if second then { s with boot.rec1 := r } else { s with boot.rec0 := r }

theorem keeps_putRecord (second : Bool) (r : Option RecCopy) (s : State) : Keeps [.boot] s (putRecord second r s) :=
  keeps_ite (keeps_mk (keeps_refl _ _)) (keeps_mk (keeps_refl _ _))

theorem putRecord_true (r : Option RecCopy) (s : State) : putRecord true r s = { s with boot.rec1 := r } := rfl

theorem putRecord_false (r : Option RecCopy) (s : State) : putRecord false r s = { s with boot.rec0 := r } := rfl

theorem recordWritten_true {w : RecWrite} {l : List RecWrite} {r : RecCopy} (hw : s.boot.writes = w :: l)
    (hr : newerRec s.boot.rec0 s.boot.rec1 = some r) : ∃ e, recordWritten true s =
      emit e (putRecord (recTarget s.boot) (some ⟨(r.seq + 1) % 2 ^ 32, w.crc, w.block⟩) (recordErased l s)) := by
  have hseq : recSeq s = ((r.seq + 1) % 2 ^ 32, s) := by
    unfold recSeq
    rw [hr]
  unfold recordWritten
  rw [hw]
  dsimp only
  rw [hseq]
  exact ⟨_, rfl⟩

/-- The failed copy may have lost what it held. -/
def recordLost (l : List RecWrite) (s : State) : State :=
  let keep := freshBool (recordErased l s)
  if keep.1 then keep.2 else putRecord (recTarget s.boot) none keep.2

theorem recordWritten_false {w : RecWrite} {l : List RecWrite} {r : RecCopy} (hw : s.boot.writes = w :: l)
    (hr : newerRec s.boot.rec0 s.boot.rec1 = some r) : recordWritten false s =
      bootEvent 5 0 .major { recordLost l s with boot.recFail := true } := by
  have hseq : recSeq s = ((r.seq + 1) % 2 ^ 32, s) := by
    unfold recSeq
    rw [hr]
  unfold recordWritten
  rw [hw]
  dsimp only
  rw [hseq]
  rfl

theorem keeps_recordLost (l : List RecWrite) (s : State) : Keeps [.free, .out, .boot] s (recordLost l s) := by
  have herased : Keeps [.free, .out, .boot] s (freshBool (recordErased l s)).2 :=
    keeps_step (keeps_freshBool _) rfl (keeps_step (keeps_emit _ _) rfl (keeps_mk (keeps_refl _ _)))
  exact keeps_ite herased (keeps_step (keeps_putRecord _ _ _) rfl herased)

theorem boot_recordLost (l : List RecWrite) (s : State) : (recordLost l s).boot.writes = l ∧
    (if recTarget s.boot then (recordLost l s).boot.rec0 = s.boot.rec0
      else (recordLost l s).boot.rec1 = s.boot.rec1) := by
  unfold recordLost
  dsimp only
  cases recTarget s.boot <;> cases (freshBool (recordErased l s)).1 <;> exact ⟨rfl, rfl⟩

theorem recordDone_true {w : RecWrite} {l : List RecWrite} {r : RecCopy} (hup : coresUp s = true)
    (hw : s.boot.writes = w :: l) (hr : newerRec s.boot.rec0 s.boot.rec1 = some r) :
    Answers (exec (.commissioningRecordWriteDone true) s) fun t =>
      t.boot.writes = l ∧
      (if recTarget s.boot then t.boot.rec1 = some ⟨(r.seq + 1) % 2 ^ 32, w.crc, w.block⟩ ∧
          t.boot.rec0 = s.boot.rec0
        else t.boot.rec0 = some ⟨(r.seq + 1) % 2 ^ 32, w.crc, w.block⟩ ∧ t.boot.rec1 = s.boot.rec1) ∧
      Keeps [.boot, .out] s t := by
  obtain ⟨e, hwritten⟩ := recordWritten_true hw hr
  refine answers_of_eq (congrArg Host.Outcome.next ((whenS_true hup).trans hwritten)) ?_
  have hkeeps : ∀ x, Keeps [.boot, .out] s (emit e (putRecord (recTarget s.boot) x (recordErased l s))) := fun x =>
    keeps_step (keeps_emit _ _) rfl (keeps_step (keeps_putRecord _ _ _) rfl
      (keeps_step (keeps_emit _ _) rfl (keeps_mk (keeps_refl _ _))))
  refine ⟨?_, ?_, hkeeps _⟩
  · cases recTarget s.boot <;> rfl
  · cases recTarget s.boot <;> exact ⟨rfl, rfl⟩

theorem recordDone_false {w : RecWrite} {l : List RecWrite} {r : RecCopy} (hup : coresUp s = true)
    (hw : s.boot.writes = w :: l) (hr : newerRec s.boot.rec0 s.boot.rec1 = some r) :
    Answers (exec (.commissioningRecordWriteDone false) s) fun t =>
      t.boot.writes = l ∧ t.boot.recFail = true ∧ (∃ d, Raised 41 .major d s t) ∧
      (if recTarget s.boot then t.boot.rec0 = s.boot.rec0 else t.boot.rec1 = s.boot.rec1) ∧
      t.hdg = s.hdg := by
  have hlost := keeps_recordLost l s
  obtain ⟨hwrites, hcopy⟩ := boot_recordLost l s
  have hrve : (recordLost l s).rve = s.rve := hlost .rve (by decide)
  have hnow : (recordLost l s).now = s.now := hlost .now (by decide)
  have hhdg : (recordLost l s).hdg = s.hdg := hlost .hdg (by decide)
  have hcore : (recordLost l s).pwr.core = true :=
    (congrArg Power.core (hlost .pwr (by decide))).trans (core_of_coresUp hup)
  refine answers_of_eq (congrArg Host.Outcome.next ((whenS_true hup).trans (recordWritten_false hw hr))) ?_
  generalize recordLost l s = v at *
  have hevent := keeps_bootEvent 5 0 .major { v with boot.recFail := true }
  have hboot : (bootEvent 5 0 .major { v with boot.recFail := true }).boot = { v.boot with recFail := true } :=
    hevent .boot (by decide)
  obtain ⟨d, hraised⟩ := raised_bootEvent (s := { v with boot.recFail := true }) (kind := 5) (type := 0)
    (c := .major) hcore
  have hsince : Raised 41 .major d s (bootEvent 5 0 .major { v with boot.recFail := true }) := by
    unfold Raised
    rw [← hrve, ← hnow]
    exact hraised
  rw [hboot]
  exact ⟨hwrites, rfl, ⟨d, hsince⟩, hcopy, (hevent .hdg (by decide)).trans hhdg⟩

/-! FW_STAGE (R519). -/

/-- The staging job is over. -/
def unstaged (s : State) : State := { s with boot.stage := none }

/-- The other slot is erased, and the image but for its head is written. -/
def slotWritten (j : StageJob) (s : State) : State :=
  emitAll (eraseSlot (otherBase (unstaged s)) ++ [.flashWrite (otherBase (unstaged s) + 256) (j.img.drop 256)])
    (modOtherSlot (fun x => { x with valid := false }) (unstaged s))

/-- The slot a staged image fills. -/
def stagedSlot (j : StageJob) (s : State) : Slot :=
  { valid := true, gen := ((ownSlot s).gen + 1) % 2 ^ 32, rollback := hdr j.img 11 1
    fwVersion := BitVec.ofNat 24 (hdr j.img 8 3) }

/-- The head is written, and the other slot holds the image. -/
def slotFilled (j : StageJob) (s : State) : State :=
  emitAll [.flashWrite (otherBase (unstaged s))
      (j.img.take 4 ++ leBytes 4 (((ownSlot (unstaged s)).gen + 1) % 2 ^ 32) ++ (j.img.take 256).drop 8),
    .flashRead (otherBase (unstaged s)) j.img.length]
    (modOtherSlot (fun _ => stagedSlot j (unstaged s)) (slotWritten j s))

theorem stageDone_fault {j : StageJob} {a b ok : Bool} (hstage : s.boot.stage = some j) (himg : j.img ≠ [])
    (hfault : stageFault j.img a b (unstaged s) ≠ 0) :
    stageDone a b ok s = finish j.cmd 0x01C0#16 (resAt 16 (stageFault j.img a b (unstaged s))) (unstaged s) := by
  unfold stageDone
  rw [hstage]
  exact (if_neg (by simpa using himg)).trans (if_pos hfault)

theorem stageDone_good {j : StageJob} {ok : Bool} (hstage : s.boot.stage = some j) (himg : j.img ≠ [])
    (hgood : stageFault j.img true true (unstaged s) = 0) :
    stageDone true true ok s =
      if ok then finish j.cmd stSuccess 0 (slotFilled j s) else finish j.cmd 0x01C1#16 0 (slotWritten j s) := by
  unfold stageDone
  rw [hstage]
  exact (if_neg (by simpa using himg)).trans (if_neg (not_not.2 hgood))

theorem boot_emitAll (l : List Emit) (s : State) : (emitAll l s).boot = s.boot := keeps_emitAll _ _ .boot (by decide)

theorem slots_slotWritten (j : StageJob) (s : State) : (slotWritten j s).boot.stage = none ∧
    (otherSlot (slotWritten j s)).valid = false ∧ ownSlot (slotWritten j s) = ownSlot s := by
  unfold slotWritten otherSlot ownSlot
  rw [boot_emitAll]
  unfold modOtherSlot unstaged
  obtain h | h := Bool.eq_false_or_eq_true s.boot.slot <;> simp [h]

theorem slots_slotFilled (j : StageJob) (s : State) : (slotFilled j s).boot.stage = none ∧
    otherSlot (slotFilled j s) = stagedSlot j s ∧ ownSlot (slotFilled j s) = ownSlot s := by
  unfold slotFilled otherSlot ownSlot
  rw [boot_emitAll]
  unfold modOtherSlot slotWritten
  simp only [boot_emitAll]
  unfold modOtherSlot unstaged
  obtain h | h := Bool.eq_false_or_eq_true s.boot.slot <;> simp [h, boot_emitAll, stagedSlot, ownSlot]

theorem keeps_slotWritten (j : StageJob) (s : State) : Keeps [.boot, .out] s (slotWritten j s) :=
  keeps_step (keeps_emitAll _ _) rfl (keeps_step (keeps_modOtherSlot _ _) rfl (keeps_mk (keeps_refl _ _)))

theorem keeps_slotFilled (j : StageJob) (s : State) : Keeps [.boot, .out] s (slotFilled j s) :=
  keeps_step (keeps_emitAll _ _) rfl (keeps_step (keeps_modOtherSlot _ _) rfl (keeps_slotWritten j s))

/-- Settles O49. -/
theorem bootAndFlash : Obligations.BootAndFlash := by
  unfold Obligations.BootAndFlash
  refine ⟨fun s st img hcore hstart hpgc hpgs hrestored hrec hkind => ?_,
    fun s st r l hup hstart hrestored hgranary hrec hloads hwf =>
      flashLoad_missing hup hstart hrestored hgranary hrec hloads hwf,
    fun s st r l d hup hstart hrestored hgranary hrec hloads hwf hmarks h8 hlen hd hcrc hperm =>
      flashLoad_written hup hstart hrestored hgranary hrec hloads hwf hd
        (loadRecord_clean hmarks h8 hlen hd hcrc hperm),
    fun s st hcore hhedge hstart hrestored hrec => ?_,
    fun s w l r hup hw hr => ⟨recordDone_true hup hw hr, recordDone_false hup hw hr⟩,
    fun s j hup hstage himg => ⟨fun a b ok hfault => ?_, fun hgood => ?_, fun hgood => ?_⟩⟩
  · have hexec : exec (.bootImageLoaded img) s = .next (bootImage img s) :=
      congrArg Host.Outcome.next (whenS_true (by
        rw [hcore, hstart]
        dsimp only
        rw [hpgc, hpgs, hrestored, hrec, hkind]
        rfl))
    refine ⟨fun ha hb => ?_, fun hgood => ?_⟩
    · rw [bootImage_of_faults ha hb] at hexec
      refine answers_of_eq hexec ⟨?_, ?_, ?_⟩
      · rw [keeps_raise _ _ _ _ .boot (by decide), keeps_raise _ _ _ _ .boot (by decide)]
        rfl
      · rw [keeps_raise _ _ _ _ .pwr (by decide), keeps_raise _ _ _ _ .pwr (by decide)]
        rfl
      · exact inbox_raise_raise (s := bootFailed (slotsRead img s)) hcore
    · rw [bootImage_of_por hstart hkind hgood] at hexec
      exact answers_of_eq hexec (bootRuns_spec _ _ _)
  · refine answers_whenS (by rw [hcore, hhedge, hstart]; dsimp only; rw [hrestored, hrec]; rfl) ⟨?_, ?_⟩
    · exact fun b crc h => hedgePowerUp_block h
    · exact fun k h => hedgePowerUp_uncommissioned h hcore
  · exact congrArg Host.Outcome.next ((whenS_true hup).trans (stageDone_fault hstage himg hfault))
  · obtain ⟨hnone, hinvalid, hown⟩ := slots_slotWritten j s
    exact ⟨slotWritten j s, congrArg Host.Outcome.next ((whenS_true hup).trans
      ((stageDone_good hstage himg hgood).trans (if_neg Bool.false_ne_true))), hnone, hinvalid, hown,
      keeps_slotWritten j s⟩
  · obtain ⟨hnone, hfilled, hown⟩ := slots_slotFilled j s
    exact ⟨slotFilled j s, congrArg Host.Outcome.next ((whenS_true hup).trans
      ((stageDone_good hstage himg hgood).trans (if_pos rfl))), hnone, by rw [hfilled]; rfl, by rw [hfilled]; rfl,
      hown, keeps_slotFilled j s⟩

end Sys2Proof.Proofs
end

section
/-!
SUPPORT. What a latch point does to the Lamplighter's account of latch points (R255): the number of the next frame,
the time of the latch point and the end of the scan are set as it begins, and nothing that follows changes them.
-/

namespace Sys2Proof.Proofs

set_option Elab.async false

open Sys2Proof Sys2Proof.Machine Sys2Proof.Safety Sys2Proof.Laws

/-- The Lamplighter's account of latch points: the number being composed, the last latch point, and whether a scan
is under way. -/
def latchAccount (p : Lamp) : BitVec 16 × Nat × Bool := (p.composing, p.lastLatch, p.scanning)

/-- The account of latch points stays. -/
def PointKept (s t : State) : Prop := latchAccount t.lpl = latchAccount s.lpl

theorem pointKept_refl (s : State) : PointKept s s := rfl

theorem PointKept.trans {s t u : State} (h : PointKept s t) (k : PointKept t u) : PointKept s u := Eq.trans k h

theorem PointKept.after {s t u : State} (k : PointKept t u) (h : PointKept s t) : PointKept s u := h.trans k

theorem pointKept_of_keeps {l : List Zone} {s t : State} (k : Keeps l s t) (hl : Zone.lpl ∉ l) : PointKept s t :=
  congrArg latchAccount (k .lpl hl)

theorem pointKept_ite {c : Prop} [Decidable c] {s t u : State} (h : PointKept s t) (k : PointKept s u) :
    PointKept s (if c then t else u) := by
  split
  · exact h
  · exact k

theorem pointKept_foldl {α : Type} {f : State → α → State} (hf : ∀ t a, PointKept t (f t a)) (l : List α) :
    ∀ s, PointKept s (l.foldl f s) := by
  induction l with
  | nil => exact pointKept_refl
  | cons a l ih => exact fun s => (hf s a).trans (ih (f s a))

/-- A record update of a state that leaves the account as it is. -/
theorem pointKept_mk {s t : State}
    {v1 : Nat} {v2 : Nat} {v3 : List Emit} {v4 : PartId} {v5 : Hif} {v6 : Dma} {v7 : Granary} {v8 : Compose}
    {v9 : Photo} {v10 : Hedge} {v11 : Lamp} {v12 : Link} {v13 : Health} {v14 : Rails} {v15 : Power}
    {v16 : Thermal} {v17 : Reeve} {v18 : Yoke} {v19 : Bell} {v20 : Eths} {v21 : Mgt} {v22 : Boot}
    {v23 : Tab Aux 4} {v24 : Tab Crcu 4} {v25 : Gpio} {v26 : Test} {v27 : List Cmd} {v28 : Nat}
    {v29 : List MaskEntry} {v30 : List DmaJob} {v31 : List Cmd} {v32 : Option Cmd} {v33 : Option Saved}
    (hl : latchAccount v11 = latchAccount t.lpl) (h : PointKept s t) :
    PointKept s (State.mk t.pending v1 v2 v3 v4 v5 v6 v7 v8 v9 v10 v11 v12 v13 v14 v15 v16 v17 v18 v19
      v20 v21 v22 v23 v24 v25 v26 v27 v28 v29 v30 v31 v32 v33) :=
  h.trans hl

/-! Completions. -/

theorem pointKept_complete (c : Cmd) (st fs : BitVec 16) (r : Result) (s : State) :
    PointKept s (complete c st fs r s) := pointKept_of_keeps (keeps_complete _ _ _ _ s) (by decide)

theorem pointKept_raise (g : Nat) (c : Machine.Class) (d : Nat) (s : State) : PointKept s (raise g c d s) :=
  pointKept_of_keeps (keeps_raise _ _ _ s) (by decide)

theorem pointKept_finish (c : Cmd) (st : BitVec 16) (r : Result) (s : State) : PointKept s (finish c st r s) :=
  pointKept_ite rfl (pointKept_complete _ _ _ _ _)

theorem pointKept_takeDone (c : Cmd) (st : BitVec 16) (r : Result) (s : State) : PointKept s (takeDone c st r s) :=
  pointKept_ite (pointKept_complete _ _ _ _ _) rfl

theorem pointKept_endTest (st : BitVec 16) (r : Result) (s : State) : PointKept s (endTest st r s) := by
  unfold endTest
  split
  · exact pointKept_refl s
  · exact pointKept_ite (PointKept.after (pointKept_finish _ _ _ _) rfl)
      (PointKept.after (pointKept_complete _ _ _ _ _) rfl)

theorem pointKept_endTiming (st : BitVec 16) (r : Result) (s : State) (w : TimingWait) :
    PointKept s (endTiming st r s w) :=
  pointKept_ite rfl (pointKept_complete _ _ _ _ _)

/-! The rails and the Hedge. -/

theorem pointKept_checkRailJobs (s : State) : PointKept s (checkRailJobs s) := by
  refine pointKept_foldl (fun t j => ?_) _ _
  split
  · exact pointKept_refl t
  · exact PointKept.after (pointKept_finish _ _ _ _) rfl

theorem pointKept_settleRails (s : State) : PointKept s (settleRails s) := by
  have hpasses : PointKept s (railPasses (releaseRails s)) :=
    (pointKept_of_keeps (keeps_releaseRails s) (by decide)).trans (pointKept_foldl (fun t _ =>
      pointKept_foldl (fun u k => pointKept_of_keeps (keeps_settleRail k u) (by decide)) _ t) _ _)
  exact hpasses.trans ((pointKept_of_keeps (keeps_pruneSeqs _) (by decide)).trans
    ((pointKept_checkRailJobs _).trans (pointKept_of_keeps (keeps_checkRailTest _) (by decide))))

theorem pointKept_releaseLine (st : YokeState) (s : State) : PointKept s (releaseLine st s) := by
  unfold releaseLine
  refine pointKept_ite (PointKept.trans ?_ (pointKept_settleRails _)) (pointKept_refl s)
  exact pointKept_mk rfl ((pointKept_of_keeps (keeps_dropRequests s) (by decide)).trans
    (pointKept_of_keeps (keeps_dropDisc _) (by decide)))

theorem pointKept_raiseCause (c : Fin 9) (frame : BitVec 16) (s : State) : PointKept s (raiseCause c frame s) := by
  unfold raiseCause
  dsimp only
  refine pointKept_ite (pointKept_refl s) (pointKept_ite ?_ (PointKept.trans ?_ (pointKept_settleRails _)))
  · exact PointKept.after (pointKept_raise _ _ _ _) rfl
  · exact PointKept.after (pointKept_of_keeps (keeps_sendOverride _) (by decide))
      (PointKept.after (pointKept_raise _ _ _ _) rfl)

theorem pointKept_releaseCauses (s : State) : PointKept s (releaseCauses s) := by
  unfold releaseCauses
  dsimp only
  exact PointKept.after (pointKept_settleRails _) rfl

theorem pointKept_selfFault (bit : Fin 6) (s : State) : PointKept s (selfFault bit s) := by
  unfold selfFault
  dsimp only
  refine pointKept_ite (pointKept_refl s) (PointKept.trans ?_ (pointKept_settleRails _))
  refine PointKept.trans ?_ (pointKept_releaseLine _ _)
  refine PointKept.trans ?_ (pointKept_raise _ _ _ _)
  refine PointKept.trans ?_ (pointKept_endTest _ _ _)
  exact pointKept_mk rfl (pointKept_of_keeps (keeps_dropDisc s) (by decide))

theorem pointKept_evalInputs (s : State) : PointKept s (evalInputs s) := by
  have hraise : PointKept s (safeInRaise s) :=
    pointKept_ite (pointKept_refl s) (PointKept.after (pointKept_raiseCause _ _ _) rfl)
  exact pointKept_ite hraise (pointKept_refl s)

theorem pointKept_activateConfirmed (s : State) : PointKept s (activateConfirmed s) := by
  unfold activateConfirmed
  split
  · exact pointKept_refl s
  · dsimp only
    refine PointKept.trans ?_ (pointKept_settleRails _)
    refine PointKept.trans ?_ (pointKept_evalInputs _)
    refine PointKept.trans ?_ (pointKept_foldl (fun _ _ => pointKept_complete _ _ _ _ _) _ _)
    exact PointKept.after (pointKept_of_keeps (keeps_activateBlock _ _ _) (by decide)) rfl

theorem pointKept_endPathTest (s : State) : PointKept s (endPathTest s) := by
  unfold endPathTest
  split
  · exact pointKept_ite ((pointKept_of_keeps (keeps_freshBits 32 s) (by decide)).trans (pointKept_endTest _ _ _))
      (pointKept_refl s)
  · exact pointKept_refl s

theorem pointKept_hedgeAtLatch (v : Bool) (s : State) : PointKept s (hedgeAtLatch v s) := by
  unfold hedgeAtLatch
  dsimp only
  refine PointKept.trans ?_ (pointKept_of_keeps (keeps_followState _ _) (by decide))
  refine PointKept.trans ?_ (pointKept_activateConfirmed _)
  refine PointKept.trans ?_ (pointKept_releaseCauses _)
  refine PointKept.trans ?_ (pointKept_endPathTest _)
  exact pointKept_mk rfl (pointKept_ite (pointKept_refl s) (pointKept_selfFault 5 s))

theorem pointKept_lowRails (s : State) : PointKept s (lowRails s) := by
  unfold lowRails
  split
  · refine pointKept_ite (pointKept_refl s) (PointKept.trans ?_ (pointKept_settleRails _))
    exact PointKept.after (pointKept_of_keeps (keeps_seqStop _ _) (by decide)) rfl
  · exact pointKept_refl s

/-! Lanes. -/

theorem pointKept_leaveScan (n : Fin 25) (s : State) : PointKept s (leaveScan n s) := by
  simp only [PointKept, latchAccount, leaveScan]

theorem pointKept_enterDetect (n : Fin 25) (warm : Bool) (k : Nat) (s : State) :
    PointKept s (enterDetect n warm k s) := by
  unfold enterDetect
  dsimp only
  refine PointKept.trans ?_ (pointKept_of_keeps (keeps_laneSends _ _) (by decide))
  refine PointKept.trans ?_ (pointKept_of_keeps (keeps_modLane _ _ _) (by decide))
  refine PointKept.trans ?_ (pointKept_of_keeps (keeps_laneDark _ _) (by decide))
  exact PointKept.after (pointKept_leaveScan _ _)
    (pointKept_ite (pointKept_refl s) (pointKept_of_keeps (keeps_coldStart _ _) (by decide)))

theorem pointKept_retrain (n : Fin 25) (cause : Nat) (s : State) : PointKept s (retrain n cause s) :=
  ((pointKept_of_keeps (keeps_modLane _ _ s) (by decide)).trans (pointKept_of_keeps (keeps_laneEvent _ _ _ _ _) (by decide))).trans
    (pointKept_enterDetect _ _ _ _)

theorem pointKept_slotRun (left : Bool) (old s : State) (k : Fin 96) : PointKept s (slotRun left old s k) := by
  have hslot : ∀ f, PointKept s (modSlot k.val f s) := fun f => pointKept_of_keeps (keeps_modSlot _ f s) (by decide)
  exact pointKept_ite ((hslot _).trans (pointKept_retrain _ _ _)) (hslot _)

/-! The LATs and the choice of the buffer. -/

theorem pointKept_firstLat (seq : BitVec 16) (s : State) : PointKept s (firstLat seq s) :=
  PointKept.after (pointKept_foldl (fun _ _ => pointKept_endTiming _ _ _ _) _ _) rfl

theorem pointKept_countRepeat (old : State) (sent : Bool) (s : State) : PointKept s (countRepeat old sent s) := by
  unfold countRepeat
  dsimp only
  exact pointKept_ite (pointKept_ite (PointKept.after (pointKept_raise _ _ _ _) rfl) rfl) rfl

theorem pointKept_wrongSequence (old s : State) : PointKept s (wrongSequence old s) :=
  PointKept.after (pointKept_countRepeat _ _ _) (PointKept.after (pointKept_raise _ _ _ _) rfl)

/-- The LATs that have left are noted. -/
def latsNoted (sent : Bool) (old : State) (seq : BitVec 16) (s : State) : State :=
  if sent then { noteLat old seq s with lpl.lastLat := seq } else s

theorem pointKept_latsNoted (sent : Bool) (old : State) (seq : BitVec 16) (s : State) :
    PointKept s (latsNoted sent old seq s) :=
  pointKept_ite (by simp only [PointKept, latchAccount, noteLat]) rfl

theorem pointKept_sendLats (q : Option (BitVec 16)) (old s : State) : PointKept s (sendLats q old s) := by
  unfold sendLats
  split
  · dsimp only
    refine pointKept_ite (pointKept_wrongSequence _ _) (PointKept.trans ?_ (pointKept_countRepeat _ _ _))
    refine pointKept_ite (PointKept.trans ?_ (pointKept_firstLat _ _)) ?_
    all_goals
      refine PointKept.trans ?_ (pointKept_latsNoted _ old _ _)
      refine PointKept.trans ?_ (pointKept_foldl (fun _ _ => pointKept_of_keeps (keeps_sendLane _ _ _) (by decide)) _ _)
      exact pointKept_mk rfl (pointKept_of_keeps (keeps_openWindow _ _ s) (by decide))
  · exact pointKept_countRepeat _ _ _

theorem pointKept_mapBad (seq : BitVec 16) (s : State) : PointKept s (mapBad seq s) :=
  PointKept.after (pointKept_raiseCause _ _ _) rfl

theorem pointKept_scanAgain (counted : Bool) (s : State) : PointKept s (scanAgain counted s) := by
  unfold scanAgain
  dsimp only
  split
  · exact rfl
  · refine pointKept_ite rfl (PointKept.trans ?_ (pointKept_mapBad _ _))
    exact PointKept.after (pointKept_of_keeps (keeps_rejectAgain _ _ _) (by decide)) rfl

theorem pointKept_judgeFrame (f : Frame) (s : State) : PointKept s (judgeFrame f s).2 := by
  have hcause : ∀ (u : State) (b : Bool) (c : Fin 9) q,
      PointKept u (if b then raiseCause c q u else u) := fun u b c q =>
    pointKept_ite (pointKept_raiseCause _ _ _) (pointKept_refl u)
  have hraise : ∀ (u : State) (b : Bool) g k d, PointKept u (if b then raise g k d u else u) := fun u b g k d =>
    pointKept_ite (pointKept_raise _ _ _ _) (pointKept_refl u)
  unfold judgeFrame
  dsimp only
  refine PointKept.trans ?_ (pointKept_ite (pointKept_refl _) (pointKept_mapBad _ _))
  refine PointKept.trans ?_ (hcause _ _ _ _)
  refine PointKept.trans ?_ (pointKept_foldl (fun u x => hcause u _ _ _) _ _)
  refine PointKept.trans ?_ (hraise _ _ _ _ _)
  exact PointKept.after (hraise _ _ _ _ _) rfl

/-- A frame judged good is scanned next, another one leaves the scan buffer (R221). -/
theorem pointKept_judged {s : State} {x : Bool × State} (late : Bool) (h : PointKept s x.2) :
    PointKept s (if x.1 then { x.2 with
      lpl.scan := 1 - x.2.lpl.scan, lpl.repeatScan := false, lpl.latOff := false
      lpl.resume := x.2.lpl.resume.filter fun since => !since
      hdg.judgedLate := late } else scanAgain true x.2) :=
  pointKept_ite (pointKept_mk rfl h) (PointKept.after (pointKept_scanAgain _ _) h)

theorem pointKept_chooseBuffer (s : State) : PointKept s (chooseBuffer s).2 := by
  unfold chooseBuffer
  split
  · exact PointKept.after (pointKept_scanAgain _ _) rfl
  · dsimp only
    split
    · exact PointKept.after (pointKept_scanAgain _ _) (pointKept_ite rfl rfl)
    · split
      · exact PointKept.after (pointKept_scanAgain _ _) rfl
      · dsimp only
        refine pointKept_judged _ ?_
        refine PointKept.after (pointKept_judgeFrame _ _) ?_
        refine PointKept.after (pointKept_of_keeps (keeps_measureFrame _ _) (by decide)) ?_
        rfl

/-! What is taken. -/

theorem pointKept_governTiming (s : State) : PointKept s (governTiming s) := pointKept_ite rfl rfl

theorem pointKept_takeDim (q : DimReq) (s : State) : PointKept s (takeDim q s) := by
  unfold takeDim
  dsimp only
  refine pointKept_mk rfl (pointKept_foldl (fun t n => ?_) _ s)
  have hrate : ∀ f, PointKept t (modLane (Fin.castSucc n) f t) := fun f => pointKept_of_keeps (keeps_modLane _ f t) (by decide)
  exact pointKept_ite ((hrate _).trans (pointKept_enterDetect _ _ _ _)) (hrate _)

theorem pointKept_waitTiming (s : State) (w : CommitWait) : PointKept s (waitTiming w.cmd s) := rfl

theorem pointKept_replaceTiming (s : State) : PointKept s (replaceTiming s) :=
  PointKept.after (pointKept_foldl (fun _ _ => pointKept_endTiming _ _ _ _) _ _) rfl

theorem pointKept_replaceHeld (ws : List ShadowWrite) (s : State) : PointKept s (replaceHeld ws s) :=
  pointKept_ite (pointKept_refl s)
    (PointKept.after (pointKept_foldl (fun _ _ => pointKept_endTiming _ _ _ _) _ _) rfl)

theorem pointKept_applyTimingMap (t : Option Timing) (m : TileMap) (s : State) :
    PointKept s (applyTimingMap t m s) := by
  have hreplace : PointKept s (if t.isSome && s.lpl.hold then replaceTiming s else s) :=
    pointKept_ite (pointKept_replaceTiming s) (pointKept_refl s)
  unfold applyTimingMap
  dsimp only
  refine pointKept_ite (PointKept.trans ?_ (pointKept_governTiming _)) (pointKept_ite ?_ ?_)
  all_goals exact pointKept_mk rfl hreplace

theorem pointKept_holdBudget (t : Option Timing) (go : List (Fin 96 × MapEntry)) (s : State) :
    PointKept s (holdBudget t go s) :=
  pointKept_ite rfl (PointKept.after (pointKept_raise _ _ _ _) rfl)

/-- The map settings that wait for a block are held. -/
def mapHeld (ws : List ShadowWrite) (s : State) : State := { s with
  lpl.mapHold := !(splitMap ws s).2.isEmpty
  lpl.heldMap := (splitMap ws s).2 }

/-- DIM is entered or left, where its commit is among the takes. -/
def dimTaken (dim : Option DimReq) (s : State) : State :=
  match dim with
  | some q => takeDim q s
  | none => s

/-- A timing and map settings that fit take effect. -/
def fitTaken (t : Option Timing) (go : List (Fin 96 × MapEntry)) (s : State) : State :=
  if t.isNone && go.isEmpty then s
  else
    let m := putMap s.lpl.mapNext go
    match budgetFault (fun n => budgetRate (s.link.lane[n])) (t.getD s.lpl.timing).active m s with
    | some _ => holdBudget t go s
    | none => applyTimingMap t m s

theorem takeTimingMap_eq (ws : List ShadowWrite) (dim : Option DimReq) (s : State) : takeTimingMap ws dim s =
    fitTaken ((timingWrite ws).orElse fun _ => s.lpl.heldTiming) (splitMap ws s).1
      (dimTaken dim (replaceHeld ws (mapHeld ws s))) := rfl

theorem pointKept_fitTaken (t : Option Timing) (go : List (Fin 96 × MapEntry)) (s : State) :
    PointKept s (fitTaken t go s) := by
  unfold fitTaken
  dsimp only
  refine pointKept_ite (pointKept_refl s) ?_
  split
  · exact pointKept_holdBudget _ _ _
  · exact pointKept_applyTimingMap _ _ _

theorem pointKept_takeTimingMap (ws : List ShadowWrite) (dim : Option DimReq) (s : State) :
    PointKept s (takeTimingMap ws dim s) := by
  have hheld : PointKept s (mapHeld ws s) := rfl
  have hdim : ∀ u, PointKept u (dimTaken dim u) := fun u => by
    cases dim with
    | none => exact pointKept_refl u
    | some q => exact pointKept_takeDim q u
  rw [takeTimingMap_eq]
  exact PointKept.after (pointKept_fitTaken _ _ _) (PointKept.after (hdim _)
    (PointKept.after (pointKept_replaceHeld _ _) hheld))

theorem pointKept_mapDone (s : State) : PointKept s (mapDone s) :=
  PointKept.after (pointKept_foldl (fun _ _ => pointKept_takeDone _ _ _ _) _ _) rfl

theorem pointKept_commitDone (s : State) (w : CommitWait) : PointKept s (commitDone s w) :=
  pointKept_ite (pointKept_refl s) (pointKept_ite rfl
    (pointKept_ite (pointKept_takeDone _ _ _ _) (pointKept_takeDone _ _ _ _)))

theorem pointKept_launchDone (s : State) (x : Launch × Bool) : PointKept s (launchDone s x) := by
  have hlate : PointKept s (if x.2 then { s with lpl.lateLaunches := bump 65535 1 s.lpl.lateLaunches } else s) :=
    pointKept_ite rfl rfl
  exact pointKept_ite (hlate.trans (pointKept_takeDone _ _ _ _)) (hlate.trans (pointKept_takeDone _ _ _ _))

theorem pointKept_takeMask (s : State) (m : MaskEntry) : PointKept s (takeMask s m) :=
  PointKept.after (pointKept_takeDone _ _ _ _) rfl

theorem pointKept_dropShadow (l : List ShadowWrite) (s : State) : PointKept s (dropShadow l s) := by
  unfold dropShadow
  split <;> rfl

/-- The map settings go with one take. -/
def mapGone (s : State) : State := { s with lpl.mapGo := false }

theorem pointKept_mapGone (s : State) : PointKept s (mapGone s) := rfl

/-- COMMIT_TAKEN notes the takes, or the next composition will. -/
def takesNoted (took : Bool) (s : State) : State :=
  if !took then s
  else if willCompose s then { s with lpl.commitTaken := s.lpl.composing }
  else { s with lpl.heldTake := true }

theorem pointKept_takesNoted (took : Bool) (s : State) : PointKept s (takesNoted took s) :=
  pointKept_ite rfl (pointKept_ite rfl rfl)

theorem pointKept_takeAll (lim : TakeCounts) (s : State) : PointKept s (takeAll lim s) := by
  unfold takeAll
  dsimp only
  refine PointKept.trans ?_ (pointKept_foldl pointKept_takeMask _ _)
  refine PointKept.trans ?_ (pointKept_foldl pointKept_launchDone _ _)
  refine PointKept.trans ?_ (pointKept_foldl pointKept_commitDone _ _)
  refine PointKept.trans ?_ (pointKept_mapDone _)
  refine PointKept.trans ?_ (pointKept_takesNoted _ _)
  refine PointKept.trans ?_ (pointKept_foldl (fun _ _ => pointKept_of_keeps (keeps_settleLayer _ _) (by decide)) _ _)
  refine PointKept.trans ?_ (pointKept_mapGone _)
  refine PointKept.trans ?_ (pointKept_of_keeps (keeps_applyWrites _ _) (by decide))
  refine PointKept.trans ?_ (pointKept_takeTimingMap _ _ _)
  refine PointKept.trans ?_ (pointKept_foldl pointKept_waitTiming _ _)
  exact pointKept_mk rfl (pointKept_dropShadow _ _)

/-! The pair, the lock, the plane, the calibration and the wake. -/

theorem pointKept_compareSigs (s : State) : PointKept s (compareSigs s) := by
  have hexclude : ∀ r u, PointKept u (exclude r u) := fun r u =>
    (pointKept_releaseLine _ u).trans (PointKept.after (pointKept_of_keeps (keeps_yokeEvent _ _ _) (by decide)) rfl)
  have hfor : ∀ r u, PointKept u (excludeFor r u) := fun r u =>
    pointKept_ite (pointKept_refl u) (pointKept_ite (pointKept_of_keeps (keeps_sendYoke _ _ _) (by decide)) (hexclude r u))
  unfold compareSigs
  split
  · dsimp only
    refine pointKept_ite (pointKept_refl s) (PointKept.trans ?_ (hfor _ _))
    exact PointKept.after (pointKept_ite (pointKept_of_keeps (keeps_mismatchFrame _) (by decide))
      (pointKept_of_keeps (keeps_setRun _) (by decide))) rfl
  · exact pointKept_refl s

/-- The pair's messages of a latch point, up to the signatures. -/
def sigsSent (judged : Option Frame) (s : State) : State :=
  let s := sendYoke .latch
    [s.lpl.composing.toNat, toBits 128 s.lpl.tL, s.lpl.timing.period, s.yok.own.commits,
     s.yok.own.masks, s.yok.own.launches, s.yok.state.code, bn (s.yok.locked || s.yok.holding),
     (ownReady s).toNat] (checkAtLatch s)
  match judged with
  | some f =>
    let g : Sig := ⟨f.seq, frameSig f, s.hdg.activeCrc, s.yok.digest⟩
    compareSigs (sendYoke .sig [g.seq.toNat, g.sig.toNat, g.activeCrc.toNat, g.digest.toNat]
      { s with yok.ownSig := some g })
  | none => s

/-- A handover that named this latch point has passed. -/
def handoverPassed (s : State) : State :=
  match s.yok.handover with
  | some h =>
    if h.seq = s.lpl.composing then { s with yok.handover := some { h with passed := true } }
    else if h.passed && !s.yok.holding then { s with yok.handover := none }
    else s
  | none => s

/-- The JOINs whose snapshot has been sent complete. -/
def joinsDone (s : State) : State :=
  let done := s.yok.jobs.filter fun j => j.sub == 1 && j.sent.isSome
  done.foldl
    (fun s j =>
      if j.cmd.commit then finishOk j.cmd s else complete j.cmd stSuccess s.lpl.composing 0 s)
    { s with
      yok.jobs := s.yok.jobs.filter fun j => !(j.sub == 1 && j.sent.isSome)
      yok.state := if done.isEmpty || !s.yok.holding then s.yok.state else .active }

/-- The snapshot of a JOIN that waits is sent. -/
def joinsSent (s : State) : State :=
  let ready := s.yok.copyDone && s.yok.dirty.isEmpty && s.yok.copyLeft.isEmpty &&
    s.running.all fun c => (s.yok.jobs.any fun j => j.cmd.ser == c.ser && j.sub == 1) ||
      s.lpl.launches.any fun l => l.cmd.ser == c.ser
  if ready && (s.yok.jobs.any fun j => j.sub == 1) then
    sendSnapshot
      { s with yok.jobs := s.yok.jobs.map fun j =>
          if j.sub = 1 then { j with sent := some (s.lpl.composing + 1) } else j }
  else s

theorem yokeAtLatch_eq (judged : Option Frame) (s : State) : yokeAtLatch judged s =
    if !yoked s then s else joinsSent (joinsDone (handoverPassed (sigsSent judged s))) := rfl

theorem pointKept_sigsSent (judged : Option Frame) (s : State) : PointKept s (sigsSent judged s) := by
  have hlatch : PointKept s (sigsSent none s) :=
    (pointKept_of_keeps (keeps_checkAtLatch s) (by decide)).trans (pointKept_of_keeps (keeps_sendYoke _ _ _) (by decide))
  cases judged with
  | none => exact hlatch
  | some f =>
    exact PointKept.after (pointKept_compareSigs _)
      (PointKept.after (pointKept_of_keeps (keeps_sendYoke _ _ _) (by decide)) hlatch)

theorem pointKept_yokeAtLatch (judged : Option Frame) (s : State) : PointKept s (yokeAtLatch judged s) := by
  have hpassed : ∀ u, PointKept u (handoverPassed u) := fun u => by
    unfold handoverPassed
    split
    · exact pointKept_ite rfl (pointKept_ite rfl rfl)
    · exact pointKept_refl u
  have hdone : ∀ u, PointKept u (joinsDone u) := fun u =>
    PointKept.after (pointKept_foldl (fun _ _ => pointKept_ite (pointKept_finish _ _ _ _)
      (pointKept_complete _ _ _ _ _)) _ _) rfl
  have hsent : ∀ u, PointKept u (joinsSent u) := fun u =>
    pointKept_ite (PointKept.after (pointKept_of_keeps (keeps_sendSnapshot _) (by decide)) rfl) (pointKept_refl u)
  rw [yokeAtLatch_eq]
  exact pointKept_ite (pointKept_refl s)
    (((pointKept_sigsSent judged s).trans (hpassed _)).trans ((hdone _).trans (hsent _)))

theorem pointKept_lockAtLatch (s : State) : PointKept s (lockAtLatch s) := by
  unfold lockAtLatch
  dsimp only
  exact pointKept_ite rfl (pointKept_ite rfl rfl)

theorem pointKept_switchPlane (s : State) : PointKept s (switchPlane s) := by
  unfold switchPlane
  split
  · dsimp only
    split
    · exact PointKept.after (pointKept_takeDone _ _ _ _) rfl
    · exact rfl
  · exact pointKept_refl s

theorem pointKept_applyCal (s : State) : PointKept s (applyCal s) := by
  unfold applyCal
  split
  · exact pointKept_refl s
  · refine pointKept_ite rfl ?_
    dsimp only
    split
    · exact pointKept_ite rfl (PointKept.after (pointKept_raise _ _ _ _) rfl)
    · refine pointKept_ite (PointKept.trans ?_ (pointKept_finish _ _ _ _))
        (PointKept.trans ?_ (pointKept_complete _ _ _ _ _))
      all_goals exact pointKept_ite rfl (PointKept.after (pointKept_raise _ _ _ _) rfl)

theorem pointKept_wakeAtLatch (s : State) : PointKept s (wakeAtLatch s) := by
  unfold wakeAtLatch
  split
  · split
    · exact pointKept_ite rfl (PointKept.after (pointKept_governTiming _) rfl)
    · exact pointKept_refl s
  · exact pointKept_refl s

theorem pointKept_latchTakes (s : State) : PointKept s (latchTakes s) :=
  pointKept_ite (pointKept_takeAll _ _) rfl

/-! The latch point itself. -/

/-- The error of this latch point is noted. -/
def errorNoted (s : State) : State := { s with lpl.phaseErr := phaseNow s }

/-- The account of this latch point: the next number, its time, and no scan. -/
def pointSet (s : State) : State := { s with
  lpl.composing := s.lpl.composing + 1
  lpl.lastLatch := s.now
  lpl.latched := true
  lpl.tL := ownLatchTime s
  lpl.inVbi := true
  lpl.scanning := false
  lpl.map := s.lpl.mapNext
  lpl.timingWait := s.lpl.timingWait.map fun w => { w with frames := w.frames + 1 } }

theorem pointKept_latchBegin (v : Bool) (q : Option (BitVec 16)) (s : State) :
    PointKept (pointSet (errorNoted s)) (latchBegin v q s).2 := by
  unfold latchBegin
  dsimp only
  refine PointKept.trans ?_ (pointKept_of_keeps (keeps_calAtVbi _) (by decide))
  refine PointKept.trans ?_ (pointKept_applyCal _)
  refine PointKept.trans ?_ (pointKept_foldl (fun _ _ => pointKept_of_keeps (keeps_auxAtLatch _ _) (by decide)) _ _)
  refine PointKept.trans ?_ (pointKept_of_keeps (keeps_restartPaced _) (by decide))
  refine PointKept.trans ?_ (pointKept_switchPlane _)
  refine PointKept.trans ?_ (pointKept_lockAtLatch _)
  refine PointKept.trans ?_ (pointKept_hedgeAtLatch _ _)
  refine PointKept.trans ?_ (pointKept_foldl (fun _ _ => pointKept_of_keeps (keeps_flushCtl _ _) (by decide)) _ _)
  refine PointKept.trans ?_ (pointKept_of_keeps (keeps_chainLens _) (by decide))
  refine PointKept.trans ?_ (pointKept_of_keeps (keeps_testAtLatch _) (by decide))
  refine PointKept.trans ?_ (pointKept_foldl (fun _ _ => pointKept_slotRun _ _ _ _) _ _)
  exact (pointKept_chooseBuffer _).trans (pointKept_sendLats _ _ _)

/-- A latch point gives the next frame its number, is the latest latch point, and ends the scan (R255). -/
theorem latch_account (v : Bool) (q : Option (BitVec 16)) (s : State) :
    (latch v q s).lpl.composing = s.lpl.composing + 1 ∧ (latch v q s).lpl.lastLatch = s.now ∧
      (latch v q s).lpl.scanning = false := by
  have hshare : ∀ f u, PointKept u (shareCounts f u) := fun f u => PointKept.after (pointKept_yokeAtLatch _ _) rfl
  have hmasks : ∀ u, PointKept u (countMasks u) := fun u => pointKept_of_keeps (keeps_countMasks u) (by decide)
  have hkept : PointKept (pointSet (errorNoted s)) (latch v q s) := by
    unfold latch
    dsimp only
    refine PointKept.trans ?_ (pointKept_lowRails _)
    refine PointKept.trans ?_ (pointKept_wakeAtLatch _)
    refine PointKept.trans ?_ (pointKept_latchTakes _)
    refine PointKept.trans ?_ (hshare _ _)
    exact (pointKept_latchBegin v q s).trans (hmasks _)
  generalize latch v q s = t at hkept ⊢
  have haccount : latchAccount t.lpl = (s.lpl.composing + 1, s.now, false) := hkept
  exact ⟨congrArg Prod.fst haccount, congrArg (fun x => x.2.1) haccount, congrArg (fun x => x.2.2) haccount⟩

end Sys2Proof.Proofs
end

section
/-!
SUPPORT. O40: latch points, composition and scan-out of frames; late lines and bad coefficients.
-/

namespace Sys2Proof.Proofs

set_option Elab.async false

open Sys2Proof Sys2Proof.Machine Sys2Proof.Safety Sys2Proof.Laws

variable {s t u : State}

/-! Settings that are taken as a composition starts leave the frames and their buffers. -/

/-- The frame under way, its number and the output buffers stay. -/
structure FramesKept (s t : State) : Prop where
  composing : t.lpl.composing = s.lpl.composing
  buf : t.lpl.buf = s.lpl.buf
  scan : t.lpl.scan = s.lpl.scan
  work : t.lpl.work = s.lpl.work

theorem framesKept_refl (s : State) : FramesKept s s := ⟨rfl, rfl, rfl, rfl⟩

theorem FramesKept.trans (h : FramesKept s t) (k : FramesKept t u) : FramesKept s u :=
  ⟨k.composing.trans h.composing, k.buf.trans h.buf, k.scan.trans h.scan, k.work.trans h.work⟩

theorem framesKept_of_keeps {l : List Zone} (k : Keeps l s t) (h : Zone.lpl ∉ l) : FramesKept s t := by
  have hlpl : t.lpl = s.lpl := k .lpl h
  exact ⟨by rw [hlpl], by rw [hlpl], by rw [hlpl], by rw [hlpl]⟩

theorem framesKept_ite {c : Prop} [Decidable c] (h : FramesKept s t) (k : FramesKept s u) :
    FramesKept s (if c then t else u) := by
  split
  · exact h
  · exact k

theorem framesKept_foldl {α : Type} {f : State → α → State} (hf : ∀ t a, FramesKept t (f t a)) (l : List α) :
    ∀ s, FramesKept s (l.foldl f s) := by
  induction l with
  | nil => exact framesKept_refl
  | cons a l ih => exact fun s => (hf s a).trans (ih (f s a))

theorem framesKept_complete (c : Cmd) (st fs : BitVec 16) (r : Result) (s : State) :
    FramesKept s (complete c st fs r s) := framesKept_of_keeps (keeps_complete _ _ _ _ s) (by decide)

theorem framesKept_finish (c : Cmd) (st : BitVec 16) (r : Result) (s : State) : FramesKept s (finish c st r s) :=
  framesKept_ite ⟨rfl, rfl, rfl, rfl⟩ (framesKept_complete _ _ _ _ _)

/-- A finished HEALTH_SET is out of the list. -/
def setDropped (ser : Nat) (s : State) : State := { s with
  pxh.sets := s.pxh.sets.filter fun x => x.cmd.ser != ser }

theorem framesKept_settleSets (s : State) : FramesKept s (settleSets s) := by
  refine framesKept_foldl (fun v j => ?_) _ s
  have hdrop : FramesKept v (setDropped j.cmd.ser v) := ⟨rfl, rfl, rfl, rfl⟩
  split
  · exact framesKept_ite (framesKept_refl v) (framesKept_ite (hdrop.trans (framesKept_complete _ _ _ _ _))
      (framesKept_ite (hdrop.trans (framesKept_finish _ _ _ _)) (hdrop.trans (framesKept_complete _ _ _ _ _))))
  · exact framesKept_refl v

/-- The HEALTH_SETs whose states are all in are noted as taken. -/
def setsMarked (seq : BitVec 16) (s : State) : State := { s with
  pxh.sets := s.pxh.sets.map fun j => if j.done ≥ j.size && j.taken.isNone then { j with taken := some seq } else j }

theorem framesKept_setsTaken (seq : BitVec 16) (s : State) : FramesKept s (setsTaken seq s) :=
  FramesKept.trans (t := setsMarked seq s) ⟨rfl, rfl, rfl, rfl⟩ (framesKept_settleSets (setsMarked seq s))

theorem framesKept_startTaken (seq : BitVec 16) (s : State) : FramesKept s (startTaken seq s) := by
  unfold startTaken
  dsimp only
  refine FramesKept.trans ?_ (framesKept_foldl (fun _ _ => framesKept_complete _ _ _ _ _) _ _)
  split
  · split <;> exact ⟨rfl, rfl, rfl, rfl⟩
  · split <;> exact ⟨rfl, rfl, rfl, rfl⟩

/-- What applies before the frame's reads of the Granary are taken. -/
def settingsApplied (s : State) : State :=
  let s' := startTaken s.lpl.composing (startLevel (startFactors s))
  setsTaken s.lpl.composing { s' with
    cmp.layer := s'.cmp.layer.map' fun (l : Layer) =>
      if l.fresh then { l with fresh := false, shownSeq := s.lpl.composing } else l }

theorem framesKept_settingsApplied (s : State) : FramesKept s (settingsApplied s) := by
  refine FramesKept.trans ?_ (framesKept_setsTaken _ _)
  have htaken : FramesKept s (startTaken s.lpl.composing (startLevel (startFactors s))) :=
    ((framesKept_of_keeps (keeps_startFactors s) (by decide)).trans
      (framesKept_of_keeps (keeps_startLevel _) (by decide))).trans (framesKept_startTaken _ _)
  exact ⟨htaken.composing, htaken.buf, htaken.scan, htaken.work⟩

/-- The new frame is under way, before its reads. -/
def frameBegun (s : State) : State := { s with
  lpl.work := some (newFrame s)
  lpl.resume := s.lpl.resume.map fun _ => true
  free := s.free + 1
  cmp.was := BitVec.ofNat 8 (((List.range 8).map fun n => bn (notHidden s n) * 2 ^ n).sum) }

theorem startComposition_eq (s : State) : startComposition s = (List.finRange 9).foldl
    (frameDenied (newFrame (settingsApplied s)))
    (frameEcc (newFrame (settingsApplied s)) (pacedStart (newFrame (settingsApplied s))
      (frameBegun (settingsApplied s)))) := rfl

/-- A composition starts with a new frame of the number being composed (R255). -/
theorem startComposition_spec (s : State) :
    (∃ f, (startComposition s).lpl.work = some f ∧ f.seq = s.lpl.composing ∧ f.finished = false) ∧
      (startComposition s).lpl.composing = s.lpl.composing ∧ (startComposition s).lpl.buf = s.lpl.buf ∧
      (startComposition s).lpl.scan = s.lpl.scan := by
  have hkept := framesKept_settingsApplied s
  rw [startComposition_eq]
  generalize settingsApplied s = v at hkept
  have hreads := ((framesKept_of_keeps (keeps_pacedStart (newFrame v) (frameBegun v)) (by decide)).trans
    (framesKept_of_keeps (keeps_frameEcc (newFrame v) _) (by decide))).trans
      (framesKept_foldl (fun t n => framesKept_of_keeps (keeps_frameDenied (newFrame v) t n) (by decide))
        (List.finRange 9) _)
  exact ⟨⟨newFrame v, hreads.work, hkept.composing, rfl⟩, hreads.composing.trans hkept.composing,
    hreads.buf.trans hkept.buf, hreads.scan.trans hkept.scan⟩

theorem framesKept_startScan (s : State) : FramesKept s (startScan s) := by
  unfold startScan tearGuard
  dsimp only
  split <;> exact ⟨rfl, rfl, rfl, rfl⟩

/-- What the VBI's end takes before a composition starts. -/
def vbiTaken (s : State) : State := takeOverrides (sendShared (takeTemps (enterHealth s)))

theorem keeps_vbiTaken (s : State) : Keeps [.out, .pho, .link, .pxh, .rve, .yok] s (vbiTaken s) :=
  keeps_step (keeps_takeOverrides _) rfl (keeps_step (keeps_sendShared _) rfl (keeps_step (keeps_takeTemps _) rfl
    (keeps_enterHealth s)))

theorem vbiEnd_spec (hruns : lampRuns s = true) (hscan : s.lpl.scanning = false) (hwork : s.lpl.work = none)
    (hshut : s.thm.shutdown = false) :
    Answers (exec .vbiEnd s) fun t =>
      (∃ f, t.lpl.work = some f ∧ f.seq = s.lpl.composing ∧ f.finished = false) ∧
      t.lpl.composing = s.lpl.composing ∧ t.lpl.buf = s.lpl.buf ∧ t.lpl.scan = s.lpl.scan := by
  have hwill : willCompose s = true := by
    unfold willCompose
    rw [hwork, hshut]
    rfl
  have hlpl : (vbiTaken (capLevels s)).lpl = s.lpl := keeps_vbiTaken _ .lpl (by decide)
  have hthm : (vbiTaken (capLevels s)).thm = (capLevels s).thm := keeps_vbiTaken _ .thm (by decide)
  have hstill : willCompose (vbiTaken (capLevels s)) = true := by
    unfold willCompose
    rw [hlpl, hthm, hwork, Bool.and_eq_true]
    exact ⟨rfl, by rw [show (capLevels s).thm.shutdown = s.thm.shutdown from rfl, hshut]; rfl⟩
  have hexec : exec .vbiEnd s = .next (startScan
      { startComposition (vbiTaken (capLevels s)) with lpl.inVbi := false }) := by
    refine congrArg Host.Outcome.next ((whenS_true (by rw [hruns, hscan]; rfl)).trans ?_)
    dsimp only
    rw [if_pos hwill]
    exact congrArg (fun v : State => startScan { v with lpl.inVbi := false }) (if_pos hstill)
  obtain ⟨⟨f, hf, hseq, hfin⟩, hcomp, hbuf, hsel⟩ := startComposition_spec (vbiTaken (capLevels s))
  have hend := framesKept_startScan { startComposition (vbiTaken (capLevels s)) with lpl.inVbi := false }
  rw [hlpl] at hseq hcomp hbuf hsel
  generalize startComposition (vbiTaken (capLevels s)) = v at *
  exact answers_of_eq hexec ⟨⟨f, hend.work.trans hf, hseq, hfin⟩, hend.composing.trans hcomp,
    hend.buf.trans hbuf, hend.scan.trans hsel⟩

/-! A composition ends (R24). -/

/-- The frame with all its reads. -/
def frameDone (f : Frame) (s : State) : Frame :=
  { f with finished := true, memEnd := s.grn.mem, regionsEnd := s.grn.regions }

/-- The frame lies in the buffer that is not scanned. -/
def frameStored (f : Frame) (s : State) : State := bufferWritten (1 - s.lpl.scan) { s with
  lpl.work := some (frameDone f s)
  lpl.buf := s.lpl.buf.put (1 - s.lpl.scan) (some (frameDone f s)) }

theorem other_buffer (b : Fin 2) : b ≠ 1 - b := by revert b; decide

theorem compositionComplete_spec {f : Frame} (hcore : s.pwr.core = true) (hwork : s.lpl.work = some f)
    (hfin : f.finished = false) :
    Answers (exec .compositionComplete s) fun t =>
      t.lpl.work = some { f with finished := true, memEnd := s.grn.mem, regionsEnd := s.grn.regions } ∧
      t.lpl.buf[1 - s.lpl.scan] = t.lpl.work ∧ t.lpl.buf[s.lpl.scan] = s.lpl.buf[s.lpl.scan] ∧
      t.lpl.scan = s.lpl.scan ∧ t.grn.mem = s.grn.mem ∧ Keeps [.free, .grn, .cmp, .lpl, .rve] s t := by
  obtain ⟨t, ht, hkeeps⟩ := keeps_execCompositionComplete s
  have hexec : exec .compositionComplete s = .next ((List.finRange 9).foldl (countOver (frameDone f s))
      ((List.finRange 9).foldl (lateDenied (frameDone f s)) (frameStored f s))) := by
    refine congrArg Host.Outcome.next ((whenS_true hcore).trans ?_)
    dsimp only
    rw [hwork]
    exact if_neg (by rw [hfin]; exact Bool.false_ne_true)
  have hafter : Keeps [.free, .grn, .cmp, .rve] (frameStored f s)
      ((List.finRange 9).foldl (countOver (frameDone f s))
        ((List.finRange 9).foldl (lateDenied (frameDone f s)) (frameStored f s))) :=
    keeps_foldl (keeps_foldl (keeps_refl _ _) fun _ _ h => keeps_step (keeps_lateDenied _ _ _) rfl h)
      fun _ _ h => keeps_step (keeps_countOver _ _ _) rfl h
  have hsame : t = _ := Host.Outcome.next.inj (ht.symm.trans hexec)
  rw [← hsame] at hafter
  have hlpl : t.lpl = (frameStored f s).lpl := hafter .lpl (by decide)
  refine answers_of_eq ht ⟨by rw [hlpl]; rfl, ?_, ?_, by rw [hlpl]; rfl, hkeeps .mem (by decide), hkeeps⟩
  · rw [hlpl]
    exact (Tab.put_get _ _ _ _).trans (if_pos rfl)
  · rw [hlpl]
    exact (Tab.put_get _ _ _ _).trans (if_neg (other_buffer _))

/-! A line of host memory that comes late (R154, R155, R257). -/

/-- The hole a policy gives. -/
def holeOf (v : LayerView) : Underrun := if v.set.cfg.policy = .substitute then .substitute else .drop

/-- A layer's view from its late line on. -/
def lateView (v : LayerView) (y : Nat) (s : State) : LayerView :=
  { v with underrun := some ⟨y, holeOf v, s.grn.marks, s.grn.regions⟩ }

/-- The frame with the late line's hole. -/
def lateFrame (n : Fin 9) (v : LayerView) (y : Nat) (f : Frame) (s : State) : Frame :=
  { f with
    unused := f.unused || v.set.cfg.policy == .repeat'
    view := f.view.upd n fun _ => some (lateView v y s) }

/-- The hole is in the frame, and its fill has been read. -/
def holeFilled (n : Fin 9) (v : LayerView) (y : Nat) (f : Frame) (s : State) : State :=
  let s' := { s with lpl.work := some (lateFrame n v y f s) }
  if holeOf v = .substitute then denyLayer s'.grn.regions (lateView v y s) (layerEcc (lateFrame n v y f s) (lateView v y s) s')
  else s'

theorem hostUnderrun_eq {n : Fin 9} {v : LayerView} {y a : Nat} {f : Frame} (hwork : s.lpl.work = some f)
    (hfin : f.finished = false) (hview : f.view[n] = some v) (hsrc : v.set.cfg.source = .host a)
    (hnone : v.underrun = none) (hsym : v.sym = none) :
    hostUnderrun n y s = if bitOf (holeFilled n v y f s).cmp.late n.val then holeFilled n v y f s
      else lateEvent n f.seq (holeFilled n v y f s) := by
  unfold hostUnderrun
  rw [hwork]
  dsimp only
  rw [if_neg (by rw [hfin]; exact Bool.false_ne_true), hview]
  dsimp only
  split
  · rfl
  case h_2 hother => exact (hother a hsrc hnone hsym).elim

theorem keeps_holeFilled (n : Fin 9) (v : LayerView) (y : Nat) (f : Frame) (s : State) :
    Keeps [.free, .grn, .rve] { s with lpl.work := some (lateFrame n v y f s) } (holeFilled n v y f s) :=
  keeps_ite (keeps_step (keeps_denyLayer _ _ _) rfl (keeps_layerEcc _ _ _)) (keeps_refl _ _)

theorem lateEvent_spec (n : Fin 9) (seq : BitVec 16) (hcore : s.pwr.core = true) :
    ((lateEvent n seq s).cmp.layer[n]).lateCount = bump 65535 1 (s.cmp.layer[n]).lateCount ∧
      (⟨8, .note, BitVec.ofNat 32 (n.val + seq.toNat * 65536), false, s.now⟩ : Event) ∈ (lateEvent n seq s).rve.inbox ∧
      (lateEvent n seq s).lpl = s.lpl := by
  have hcmp : (lateEvent n seq s).cmp.layer = s.cmp.layer.upd n fun l =>
      { l with lateCount := bump 65535 1 l.lateCount } :=
    congrArg Compose.layer (keeps_raise _ _ _ _ .cmp (by decide))
  refine ⟨?_, ?_, keeps_lateEvent _ _ _ .lpl (by decide)⟩
  · rw [hcmp, Tab.upd_get, if_pos rfl]
  · unfold lateEvent
    rw [raise_of_core (by exact hcore)]
    exact List.mem_append_right _ (List.mem_singleton.2 rfl)

theorem hostLineUnderrun_spec {l : Fin 8} {y : Fin 768} {f : Frame} {v : LayerView} {a : Nat}
    (hcore : s.pwr.core = true) (hwork : s.lpl.work = some f) (hfin : f.finished = false)
    (hview : f.view[Fin.castSucc l] = some v) (hsrc : v.set.cfg.source = .host a) (hnone : v.underrun = none)
    (hsym : v.sym = none) (hlate : bitOf s.cmp.late l.val = false) :
    Answers (exec (.hostLineUnderrun l y) s) fun t =>
      (∃ g, t.lpl.work = some g ∧ g.unused = (f.unused || v.set.cfg.policy == .repeat') ∧
        g.view[Fin.castSucc l] = some { v with underrun := some (Gap.mk y.val
          (if v.set.cfg.policy = .substitute then .substitute else .drop) s.grn.marks s.grn.regions) }) ∧
      (t.cmp.layer[Fin.castSucc l]).lateCount =
        bump 65535 1 (s.cmp.layer[Fin.castSucc l]).lateCount ∧
      ⟨8, .note, BitVec.ofNat 32 (l.val + f.seq.toNat * 65536), false, s.now⟩ ∈ t.rve.inbox ∧
      Keeps [.free, .grn, .cmp, .lpl, .rve] s t := by
  have hheq := hostUnderrun_eq (y := y.val) hwork hfin hview hsrc hnone hsym
  have hfilled := keeps_holeFilled (Fin.castSucc l) v y.val f s
  have hcmp : (holeFilled (Fin.castSucc l) v y.val f s).cmp = s.cmp := hfilled .cmp (by decide)
  have hcore' : (holeFilled (Fin.castSucc l) v y.val f s).pwr.core = true :=
    (congrArg Power.core (hfilled .pwr (by decide))).trans hcore
  have hnow : (holeFilled (Fin.castSucc l) v y.val f s).now = s.now := hfilled .now (by decide)
  have hlpl : (holeFilled (Fin.castSucc l) v y.val f s).lpl.work = some (lateFrame (Fin.castSucc l) v y.val f s) :=
    congrArg Lamp.work (hfilled .lpl (by decide))
  rw [hcmp, if_neg (by rw [Fin.val_castSucc, hlate]; exact Bool.false_ne_true)] at hheq
  obtain ⟨hcount, hmem, hkept⟩ := lateEvent_spec (Fin.castSucc l) f.seq hcore'
  rw [← hheq] at hcount hmem hkept
  rw [hcmp] at hcount
  rw [hnow] at hmem
  refine answers_whenS hcore ⟨⟨lateFrame (Fin.castSucc l) v y.val f s, ?_, rfl, ?_⟩, hcount, hmem,
    keeps_hostUnderrun _ _ s⟩
  · rw [hkept]
    exact hlpl
  · unfold lateFrame
    dsimp only
    rw [Tab.upd_get, if_pos rfl]
    rfl

/-! A coefficient that fails its parity (R181). -/

/-- A layer's bank fails, before the event. -/
def coefFailed (n : Fin 9) (b : Fin 4) (pixel : Nat) (s : State) : State := { s with
  cmp.bank := s.cmp.bank.upd n fun t => t.upd b fun x => { x with state := .invalid }
  cmp.layer := s.cmp.layer.upd n fun l => { l with
    parity := bump 255 1 l.parity
    fallback := if l.cur.warp.bank = b ∧ l.cur.warp.mode ≠ WarpMode.direct then some b.val else l.fallback }
  lpl.work := s.lpl.work.map fun f =>
    { f with view := f.view.upd n fun v => v.map fun x : LayerView => { x with fallback := some pixel } } }

theorem parityFails_eq (n : Fin 9) (b : Fin 4) (pixel : Nat) (s : State) : parityFails n b pixel s =
    raise 9 (if n.val = 8 then .major else .minor) (n.val + b.val * 16) (coefFailed n b pixel s) := rfl

theorem exec_coefParityFailure {n : Fin 9} {b : Fin 4} {p : Fin 1179648} (hcore : s.pwr.core = true)
    (hread : bankRead n s = some b) :
    exec (.coefParityFailure n p) s = .next (parityFails n b p.val s) := by
  refine congrArg Host.Outcome.next ((whenS_true hcore).trans ?_)
  rw [hread]

theorem exec_coefParityFailure_unread {n : Fin 9} {p : Fin 1179648} (hread : bankRead n s = none) :
    exec (.coefParityFailure n p) s = .next s := by
  refine congrArg Host.Outcome.next ?_
  cases hcore : s.pwr.core with
  | false => exact whenS_false rfl
  | true =>
    refine (whenS_true rfl).trans ?_
    rw [hread]

theorem coefParityFailure_spec {n : Fin 9} {b : Fin 4} {p : Fin 1179648} (hcore : s.pwr.core = true)
    (hread : bankRead n s = some b) :
    Answers (exec (.coefParityFailure n p) s) fun t =>
      (t.cmp.bank[n][b]).state = .invalid ∧
      (t.cmp.layer[n]).parity = bump 255 1 (s.cmp.layer[n]).parity ∧
      (∀ f v, s.lpl.work = some f → f.view[n] = some v →
        ∃ g, t.lpl.work = some g ∧ g.view[n] = some { v with fallback := some p.val }) ∧
      Raised 9 (if n.val = 8 then .major else .minor) (n.val + b.val * 16) s t ∧
      (∀ m : Fin 9, m ≠ n → t.cmp.layer[m] = s.cmp.layer[m] ∧ t.cmp.bank[m] = s.cmp.bank[m]) ∧
      Keeps [.cmp, .lpl, .rve] s t := by
  have hraise := keeps_raise 9 (if n.val = 8 then .major else .minor) (n.val + b.val * 16) (coefFailed n b p.val s)
  have hcmp : (parityFails n b p.val s).cmp = (coefFailed n b p.val s).cmp := hraise .cmp (by decide)
  have hlpl : (parityFails n b p.val s).lpl = (coefFailed n b p.val s).lpl := hraise .lpl (by decide)
  have hraised : Raised 9 (if n.val = 8 then .major else .minor) (n.val + b.val * 16) (coefFailed n b p.val s)
      (parityFails n b p.val s) := raised_raise hcore
  refine answers_of_eq (exec_coefParityFailure hcore hread) ?_
  rw [hcmp, hlpl]
  refine ⟨?_, ?_, fun f v hf hv => ?_, hraised, fun m hm => ⟨?_, ?_⟩, keeps_parityFails _ _ _ s⟩
  · unfold coefFailed
    dsimp only
    rw [Tab.upd_get, if_pos rfl, Tab.upd_get, if_pos rfl]
  · unfold coefFailed
    dsimp only
    rw [Tab.upd_get, if_pos rfl]
  · unfold coefFailed
    dsimp only
    rw [hf]
    refine ⟨_, rfl, ?_⟩
    dsimp only
    rw [Tab.upd_get, if_pos rfl, hv]
    rfl
  · unfold coefFailed
    dsimp only
    rw [Tab.upd_get, if_neg hm]
  · unfold coefFailed
    dsimp only
    rw [Tab.upd_get, if_neg hm]

/-- Settles O40. -/
theorem framesAndTheirFailures : Obligations.FramesAndTheirFailures := by
  unfold Obligations.FramesAndTheirFailures
  exact ⟨⟨fun s v q hruns => answers_whenS hruns (latch_account v q s),
      fun s hruns hscan hwork hshut => vbiEnd_spec hruns hscan hwork hshut,
      fun s f hcore hwork hfin => compositionComplete_spec hcore hwork hfin⟩,
    fun s l y f v a hcore hwork hfin hview hsrc hnone hsym hlate =>
      hostLineUnderrun_spec hcore hwork hfin hview hsrc hnone hsym hlate,
    fun s n b p hcore hread => coefParityFailure_spec hcore hread,
    fun s n p hread => exec_coefParityFailure_unread hread⟩

end Sys2Proof.Proofs
end

section
/-!
SUPPORT. O48: supply and PLL steps of a wake, the wake image, time-outs, retries and L0.
-/

namespace Sys2Proof.Proofs

set_option Elab.async false

open Sys2Proof Sys2Proof.Machine Sys2Proof.Safety Sys2Proof.Laws

variable {s t u : State}

/-! What happens once the core domain's supply is good keeps the start sequence going. -/

/-- The start sequence goes on with its supplies, and the regulators stay as they are. -/
structure StartKept (s t : State) : Prop where
  core : t.pwr.regEnCore = s.pwr.regEnCore
  sram : t.pwr.regEnSram = s.pwr.regEnSram
  start : ∀ st, s.pwr.start = some st → ∃ x, t.pwr.start = some x ∧ x.kind = st.kind ∧ x.since = st.since ∧
    x.pgCore = st.pgCore ∧ x.waiting = st.waiting

theorem startKept_of_pwr (hcore : t.pwr.regEnCore = s.pwr.regEnCore) (hsram : t.pwr.regEnSram = s.pwr.regEnSram)
    (hstart : t.pwr.start = s.pwr.start) : StartKept s t :=
  ⟨hcore, hsram, fun st h => ⟨st, hstart.trans h, rfl, rfl, rfl, rfl⟩⟩

theorem startKept_refl (s : State) : StartKept s s := startKept_of_pwr rfl rfl rfl

theorem startKept_of_keeps {l : List Zone} (k : Keeps l s t) (h : Zone.pwr ∉ l) : StartKept s t := by
  have hpwr : t.pwr = s.pwr := k .pwr h
  exact startKept_of_pwr (by rw [hpwr]) (by rw [hpwr]) (by rw [hpwr])

theorem StartKept.trans (h : StartKept s t) (k : StartKept t u) : StartKept s u := by
  refine ⟨k.core.trans h.core, k.sram.trans h.sram, fun st hst => ?_⟩
  obtain ⟨x, hx, hxk, hxs, hxp, hxw⟩ := h.start st hst
  obtain ⟨y, hy, hyk, hys, hyp, hyw⟩ := k.start x hx
  exact ⟨y, hy, hyk.trans hxk, hys.trans hxs, hyp.trans hxp, hyw.trans hxw⟩

theorem startKept_wakeIo (kind : StartKind) (s : State) : StartKept s (wakeIo kind s) := by
  unfold wakeIo
  dsimp only
  split
  · exact startKept_of_pwr rfl rfl rfl
  · exact startKept_refl s

/-- The core domain is out of reset. -/
def coreLeft (s : State) : State := { s with
  pwr.core := true
  pwr.serdes := true
  bel := if s.bel.powered then s.bel else s.bel.restart
  pwr.state := .run
  pwr.lastState := if s.pwr.state = .run then s.pwr.lastState else s.pwr.state }

theorem coreOut_of_start {st : Start} (hstart : s.pwr.start = some st) :
    coreOut s = s ∨ ∃ l, coreOut s = emitAll l (coreLeft s) := by
  unfold coreOut
  rw [hstart]
  dsimp only
  split
  · split
    · exact .inr ⟨_, rfl⟩
    · exact .inr ⟨[], rfl⟩
  · exact .inl rfl

theorem coreOut_of_wake {st : Start} (hstart : s.pwr.start = some st) (hpg : st.pgCore = true)
    (hwait : st.waiting = false) (hkind : st.kind = .warm ∨ st.kind = .cold) :
    ∃ l, coreOut s = emitAll l (coreLeft s) := by
  have hfree : (st.pgCore && !((st.kind == .por || st.kind == .sys) && sysHeld s) && !st.waiting) = true := by
    rw [hpg, hwait]
    obtain h | h := hkind <;> rw [h] <;> rfl
  unfold coreOut
  rw [hstart]
  dsimp only
  rw [if_pos hfree]
  split
  · exact ⟨_, rfl⟩
  · exact ⟨[], rfl⟩

theorem startKept_coreOut {st : Start} (hstart : s.pwr.start = some st) : StartKept s (coreOut s) := by
  obtain h | ⟨l, h⟩ := coreOut_of_start hstart
  · rw [h]
    exact startKept_refl s
  · rw [h]
    exact StartKept.trans (t := coreLeft s) (startKept_of_pwr rfl rfl rfl)
      (startKept_of_keeps (keeps_emitAll _ _) (by decide))

/-- The steps that timed out are raised. -/
def failuresRaised (st : Start) (s : State) : State :=
  st.failed.foldl (fun s k => raise 31 .minor k s) { s with pwr.start := some { st with failed := [] } }

/-- The loss of the Granary's content is raised. -/
def lossRaised (s : State) : State :=
  if s.grn.lost then raise 31 .major 0 { s with grn.lost := false } else s

/-- The loss of the crystal is raised. -/
def crystalRaised (s : State) : State :=
  if s.pwr.xtalNote then raise 31 .note 0 { s with pwr.xtalNote := false } else s

theorem raiseWake_eq {st : Start} (hstart : s.pwr.start = some st) :
    raiseWake s = if !s.pwr.core then s else crystalRaised (lossRaised (failuresRaised st s)) := by
  unfold raiseWake
  rw [hstart]
  rfl

theorem pwr_failuresRaised (st : Start) (s : State) :
    (failuresRaised st s).pwr = { s.pwr with start := some { st with failed := [] } } :=
  keeps_foldl (l := [.rve]) (keeps_refl _ _) (fun _ _ h => keeps_step (keeps_raise _ _ _ _) rfl h) .pwr (by decide)

theorem pwr_lossRaised (s : State) : (lossRaised s).pwr = s.pwr := by
  unfold lossRaised
  split
  · exact keeps_raise _ _ _ _ .pwr (by decide)
  · rfl

theorem pwr_crystalRaised (s : State) : (crystalRaised s).pwr = { s.pwr with xtalNote := false } := by
  unfold crystalRaised
  split
  · exact keeps_raise _ _ _ _ .pwr (by decide)
  case isFalse h =>
    have hnote : s.pwr.xtalNote = false := Bool.eq_false_iff.2 h
    exact hnote ▸ rfl

/-- What the core domain raises on a wake leaves the power sequencer but for its own notes. -/
theorem pwr_raiseWake {st : Start} (hstart : s.pwr.start = some st) (hcore : s.pwr.core = true) :
    (raiseWake s).pwr = { s.pwr with start := some { st with failed := [] }, xtalNote := false } := by
  rw [raiseWake_eq hstart, hcore, if_neg (by decide), pwr_crystalRaised, pwr_lossRaised, pwr_failuresRaised]

theorem startKept_raiseWake {st : Start} (hstart : s.pwr.start = some st) : StartKept s (raiseWake s) := by
  cases hcore : s.pwr.core with
  | false =>
    rw [raiseWake_eq hstart, hcore]
    exact startKept_refl s
  | true =>
    have hpwr := pwr_raiseWake hstart hcore
    refine ⟨by rw [hpwr], by rw [hpwr], fun x hx => ?_⟩
    obtain rfl : st = x := Option.some.inj (hstart.symm.trans hx)
    exact ⟨{ st with failed := [] }, by rw [hpwr], rfl, rfl, rfl, rfl⟩

/-- PG_CORE is noted in the start. -/
def pgCoreNoted (st : Start) (s : State) : State := { s with pwr.start := some { st with pgCore := true } }

theorem coreGood_of_open {st : Start} (hstart : s.pwr.start = some st) (hpg : st.pgCore = false)
    (hwait : st.waiting = false) :
    coreGood s = raiseWake (coreOut (wakeIo st.kind (pgCoreNoted st s))) := by
  unfold coreGood
  rw [hstart]
  exact if_neg (by rw [hpg, hwait]; decide)

theorem coreGood_of_shut {st : Start} (hstart : s.pwr.start = some st) (h : (st.pgCore || st.waiting) = true) :
    coreGood s = s := by
  unfold coreGood
  rw [hstart]
  exact if_pos h

/-- From the note of PG_CORE on, the start goes on. -/
theorem startKept_coreNoted {st : Start} (s : State) :
    StartKept (pgCoreNoted st s) (raiseWake (coreOut (wakeIo st.kind (pgCoreNoted st s)))) := by
  have hio := startKept_wakeIo st.kind (pgCoreNoted st s)
  obtain ⟨x, hx, -⟩ := hio.start _ rfl
  have hout := startKept_coreOut hx
  obtain ⟨y, hy, -⟩ := hout.start x hx
  exact (hio.trans hout).trans (startKept_raiseWake hy)

/-- PG_CORE may be noted; else the start goes on, and the regulators stay. -/
theorem start_coreGood {st : Start} (hstart : s.pwr.start = some st) :
    (coreGood s).pwr.regEnCore = s.pwr.regEnCore ∧ (coreGood s).pwr.regEnSram = s.pwr.regEnSram ∧
      ∃ x, (coreGood s).pwr.start = some x ∧ x.waiting = st.waiting := by
  cases h : st.pgCore || st.waiting with
  | true =>
    rw [coreGood_of_shut hstart h]
    exact ⟨rfl, rfl, st, hstart, rfl⟩
  | false =>
    obtain ⟨hpg, hwait⟩ := Bool.or_eq_false_iff.1 h
    rw [coreGood_of_open hstart hpg hwait]
    have hkept := startKept_coreNoted (st := st) s
    obtain ⟨x, hx, -, -, -, hw⟩ := hkept.start _ rfl
    exact ⟨hkept.core, hkept.sram, x, hx, hw⟩

/-- PG_CORE in a wake: the core domain leaves reset (R397). -/
theorem coreGood_wake {st : Start} (hstart : s.pwr.start = some st) (hpg : st.pgCore = false)
    (hwait : st.waiting = false) (hkind : st.kind = .warm ∨ st.kind = .cold) :
    (coreGood s).pwr.core = true ∧ (coreGood s).pwr.serdes = true ∧ (coreGood s).pwr.state = .run ∧
      ∃ x, (coreGood s).pwr.start = some x ∧ x.pgCore = true ∧ x.kind = st.kind ∧ x.since = st.since := by
  rw [coreGood_of_open hstart hpg hwait]
  obtain ⟨x, hx, hk, hs, hp, hw⟩ := (startKept_wakeIo st.kind (pgCoreNoted st s)).start _ rfl
  obtain ⟨l, hout⟩ := coreOut_of_wake hx hp (hw.trans hwait) (by rw [hk]; exact hkind)
  obtain ⟨y, hy, hyk, hys, hyp, -⟩ := (startKept_coreNoted (st := st) s).start _ rfl
  rw [hout] at hy ⊢
  generalize wakeIo st.kind (pgCoreNoted st s) = v at *
  have hleft : (emitAll l (coreLeft v)).pwr = (coreLeft v).pwr := keeps_emitAll _ _ .pwr (by decide)
  have hpwr : (raiseWake (emitAll l (coreLeft v))).pwr =
      { (coreLeft v).pwr with start := some { x with failed := [] }, xtalNote := false } := by
    rw [pwr_raiseWake (st := x) (by rw [hleft]; exact hx) (by rw [hleft]; rfl), hleft]
  exact ⟨by rw [hpwr]; rfl, by rw [hpwr]; rfl, by rw [hpwr]; rfl, y, hy, hyp, hyk, hys⟩

theorem start_phaseB {st : Start} (hstart : s.pwr.start = some st) :
    (phaseB s).pwr.start = some st ∧ (phaseB s).pwr.core = s.pwr.core := by
  unfold phaseB
  rw [hstart]
  dsimp only
  split
  · exact ⟨hstart, rfl⟩
  · exact ⟨hstart, rfl⟩

theorem pgSramRise_spec {st : Start} (hstart : s.pwr.start = some st) (hpg : st.pgSram = false)
    (hwait : st.waiting = false) :
    Answers (exec .pgSramRise s) fun t =>
      t.pwr.start = some { st with pgSram := true } ∧
      Sent (if s.pwr.core && st.kind != .warm then [.flashRead 0 256, .flashRead 0x400000 256] else []) s t ∧
      Keeps [.out, .pwr] s t := by
  obtain ⟨hb, hcore⟩ := start_phaseB hstart
  have hout : (phaseB s).out = s.out := keeps_phaseB s .out (by decide)
  have hkeeps : Keeps [.out, .pwr] s { phaseB s with pwr.start := some { st with pgSram := true } } :=
    keeps_mk (keeps_mono (keeps_phaseB s) rfl)
  have hexec : exec .pgSramRise s = .next (if (phaseB s).pwr.core && st.kind != .warm then
      emitAll [.flashRead 0 256, .flashRead 0x400000 256]
        { phaseB s with pwr.start := some { st with pgSram := true } }
    else { phaseB s with pwr.start := some { st with pgSram := true } }) := by
    refine congrArg Host.Outcome.next ?_
    dsimp only
    rw [hb]
    exact if_neg (by rw [hpg, hwait]; decide)
  rw [hcore] at hexec
  cases hread : s.pwr.core && st.kind != .warm with
  | true =>
    rw [hread, if_pos rfl] at hexec
    exact answers_of_eq hexec ⟨rfl,
      congrArg (fun o => Emit.flashRead 0x400000 256 :: Emit.flashRead 0 256 :: o) hout, keeps_step (keeps_emitAll _ _) rfl hkeeps⟩
  | false =>
    rw [hread, if_neg Bool.false_ne_true] at hexec
    exact answers_of_eq hexec ⟨rfl, hout, hkeeps⟩

/-! The PLLs (R488). -/

theorem pllLock_core (hcore : s.pwr.core = true) (hlock : s.pwr.pllCore = false) :
    Answers (exec (.pllLock 0) s) fun t => t.pwr.pllCore = true ∧ Keeps [.pwr] s t :=
  answers_whenS (by rw [hcore, if_pos rfl, hlock]; rfl) ⟨rfl, keeps_mk (keeps_refl _ _)⟩

/-- The lane PLL is locked. -/
def lanePll (s : State) : State := { s with
  pwr.pllLane := true
  pwr.clkLane := true }

theorem pwr_pllLocks_lane (s : State) : (pllLocks 1 s).pwr = (lanePll s).pwr := by
  have hlanes : ∀ w, (startLanes w (lanePll s)).pwr = (lanePll s).pwr := fun w => keeps_startLanes _ _ .pwr (by decide)
  have heq : pllLocks 1 s = (match (lanePll s).pwr.start with
    | some st =>
      if st.kind = .warm then startLanes true (lanePll s)
      else if st.restored then startLanes false (lanePll s) else lanePll s
    | none => startLanes false (lanePll s)) := rfl
  rw [heq]
  split
  · split
    · exact hlanes true
    · split
      · exact hlanes false
      · rfl
  · exact hlanes false

theorem pllLock_lane (hcore : s.pwr.core = true) (hlock : s.pwr.pllLane = false) :
    Answers (exec (.pllLock 1) s) fun t => t.pwr.pllLane = true ∧
      t.pwr.pllCore = s.pwr.pllCore ∧ t.pwr.pllEth = s.pwr.pllEth := by
  refine answers_whenS (f := pllLocks 1) (by rw [hcore, if_neg (by decide), if_pos rfl, hlock]; rfl) ?_
  rw [pwr_pllLocks_lane]
  exact ⟨rfl, rfl, rfl⟩

/-- Off the sleep clock the trim does not count. -/
theorem time_awake {b : Bell} (x : Int) (h : b.sleepClock = false) : Bell.time { b with sleepTrim := x } = b.time := by
  unfold Bell.time
  dsimp only
  rw [h]
  rfl

/-- The Ethernet PLL is locked. -/
def ethPll (s : State) : State := { s with
  pwr.pllEth := true
  pwr.clkEth := true }

/-- The Bellhouse is back on its own clock. -/
def ethClock (s : State) : State :=
  if s.bel.sleepClock then { s with bel := { s.bel.rebase with sleepClock := false } } else s

theorem ethClock_spec (s : State) : (ethClock s).bel.sleepClock = false ∧ netTime (ethClock s) = netTime s := by
  unfold ethClock
  split
  · refine ⟨rfl, ?_⟩
    have htime : Bell.time { s.bel.rebase with sleepClock := false } = s.bel.rebase.offset + s.bel.rebase.frc :=
      time_rebased rfl
    exact htime.trans (Int.sub_add_cancel _ _)
  case isFalse h => exact ⟨Bool.eq_false_iff.2 h, rfl⟩

theorem pllLock_eth (hcore : s.pwr.core = true) (hlock : s.pwr.pllEth = false) :
    Answers (exec (.pllLock 2) s) fun t => t.pwr.pllEth = true ∧
      t.bel.sleepClock = false ∧ netTime t = netTime s ∧ Keeps [.free, .pwr, .bel] s t := by
  obtain ⟨hclock, htime⟩ := ethClock_spec (ethPll s)
  have hpwr : (ethClock (ethPll s)).pwr = (ethPll s).pwr := by
    unfold ethClock
    split <;> rfl
  refine answers_whenS (f := fun s => measureTrim (ethClock (ethPll s)))
    (by rw [hcore, if_neg (by decide), if_neg (by decide), hlock]; rfl) ⟨?_, hclock, ?_, ?_⟩
  · exact congrArg Power.pllEth hpwr
  · exact (time_awake _ hclock).trans htime
  · exact keeps_step (keeps_measureTrim _) rfl
      (keeps_ite (keeps_mk (keeps_mk (keeps_refl _ _))) (keeps_mk (keeps_refl _ _)))

/-! The wake image (R389, R397). -/

theorem readImage_clean {good : Bool} (hmarks : s.grn.marks = []) : readImage good s = (good, s) := by
  have hread : readMarked .cores (imageAt s) imageBytes s = (false, s) := by
    unfold readMarked
    rw [hmarks]
    rfl
  unfold readImage
  rw [hread]
  cases good <;> rfl

theorem exec_wakeImageRestore {st : Start} {v : Saved} {good : Bool} (hstart : s.pwr.start = some st)
    (hkind : st.kind = .warm) (hgranary : st.granary = true) (hrestored : st.restored = false)
    (hcore : s.pwr.core = true) (hpllc : s.pwr.pllCore = true) (hplll : s.pwr.pllLane = true)
    (hplle : s.pwr.pllEth = true) (hsaved : s.saved = some v) (hmarks : s.grn.marks = []) :
    exec (.wakeImageRestore good) s =
      .next (if good then wakeSucceeds (restoreImage v s) else imageFails s) := by
  refine congrArg Host.Outcome.next ((whenS_true (by
    rw [hcore, hpllc, hplll, hplle, hstart]
    dsimp only
    rw [hkind, hgranary, hrestored]
    rfl)).trans ?_)
  dsimp only
  rw [hsaved, readImage_clean hmarks]

/-- The wake has succeeded. -/
def wakeCounted (s : State) : State := { s with
  pwr.wakeFail := false
  pwr.failStep := 0
  pwr.wakes := bump 65535 1 s.pwr.wakes }

theorem wakeSucceeds_restored {v : Saved} (hheld : sysHeld s = false) :
    wakeSucceeds (restoreImage v s) = wakeCounted (restoreImage v s) := by
  have hsame : sysHeld (wakeCounted (restoreImage v s)) = sysHeld s := rfl
  have hfree : ¬sysHeld (wakeCounted (restoreImage v s)) = true := by
    rw [hsame, hheld]
    decide
  exact if_neg hfree

/-- The image is bad, before the event. -/
def imageBad (s : State) : State := { s with
  pwr.imageBad := true
  saved := none
  grn.initDone := false
  pwr.start := s.pwr.start.map fun x => { x with kind := .cold, granary := false } }

theorem imageFails_eq (s : State) : imageFails s =
    emitAll [.flashRead 0 256, .flashRead 0x400000 256] (lanesOff (raise 31 .major 0 (imageBad s))) := rfl

theorem keeps_imageFails_raise (s : State) :
    Keeps [.out, .link, .yok] (raise 31 .major 0 (imageBad s)) (imageFails s) :=
  keeps_step (keeps_emitAll _ _) rfl (keeps_mono (keeps_lanesOff _) rfl)

theorem imageFails_spec {st : Start} (hstart : s.pwr.start = some st) (hcore : s.pwr.core = true) :
    (imageFails s).pwr.imageBad = true ∧ (imageFails s).saved = none ∧ (imageFails s).cmp = s.cmp ∧
      Raised 31 .major 0 s (imageFails s) ∧
      ∃ x, (imageFails s).pwr.start = some x ∧ x.kind = .cold ∧ x.granary = false := by
  have hkeeps := keeps_imageFails_raise s
  have hraise := keeps_raise 31 .major 0 (imageBad s)
  have hpwr : (imageFails s).pwr = (imageBad s).pwr :=
    (hkeeps .pwr (by decide)).trans (hraise .pwr (by decide))
  have hbad : Raised 31 .major 0 (imageBad s) (raise 31 .major 0 (imageBad s)) := raised_raise hcore
  have hrve : (imageFails s).rve = (raise 31 .major 0 (imageBad s)).rve := hkeeps .rve (by decide)
  refine ⟨by rw [hpwr]; rfl, (hkeeps .saved (by decide)).trans (hraise .saved (by decide)),
    (hkeeps .cmp (by decide)).trans (hraise .cmp (by decide)), (congrArg Reeve.inbox hrve).trans hbad,
    { st with kind := .cold, granary := false }, ?_, rfl, rfl⟩
  rw [hpwr]
  exact congrArg (Option.map fun x : Start => { x with kind := .cold, granary := false }) hstart

/-! Time-outs and retries (R401). -/

theorem wakeTimeout_spec (k : Nat) (st : Start) (s : State) :
    (wakeTimeout k st s).pwr.core = false ∧ (wakeTimeout k st s).pwr.hedge = false ∧
      (wakeTimeout k st s).pwr.regEnCore = false ∧ (wakeTimeout k st s).pwr.regEnSram = false ∧
      if st.tries < 3 then
        (∃ x, (wakeTimeout k st s).pwr.start = some x ∧ x.waiting = true ∧ x.tries = st.tries + 1 ∧
          x.kind = st.kind ∧ x.since = st.since ∧ x.failed = st.failed ++ [k]) ∧
        (wakeTimeout k st s).pwr.retries = bump 255 1 s.pwr.retries
      else
        (wakeTimeout k st s).pwr.state = .dormant ∧ (wakeTimeout k st s).pwr.wakeFail = true ∧
        (wakeTimeout k st s).pwr.failStep = k ∧ (wakeTimeout k st s).pwr.start = none := by
  unfold wakeTimeout
  dsimp only
  by_cases hlast : st.tries ≥ 3
  · rw [if_pos hlast, if_neg (c := st.tries < 3) (by omega)]
    exact ⟨rfl, rfl, rfl, rfl, rfl, rfl, rfl, rfl⟩
  · rw [if_neg hlast, if_pos (c := st.tries < 3) (by omega)]
    exact ⟨rfl, rfl, rfl, rfl, ⟨_, rfl, rfl, rfl, rfl, rfl, rfl⟩, rfl⟩

/-- A wake that finds VDD_SRAM good notes it. -/
def sramNoted (on : Bool) (s : State) : State := { s with
  pwr.start := s.pwr.start.map fun x => { x with pgSram := on } }

/-- What a wake begins with: its state, and whether VDD_CORE is good already. -/
theorem beginWake_eq (s : State) : ∃ kind v, beginWake s =
    whenS s.pwr.regEnCore coreGood (sramNoted s.pwr.regEnSram (beginStart kind v)) ∧
      (kind = .warm ∨ kind = .cold) := by
  cases hw : s.pwr.state == .sleep && !s.grn.lost with
  | true => exact ⟨.warm, s, by unfold beginWake; dsimp only; rw [hw]; rfl, .inl rfl⟩
  | false => exact ⟨.cold, _, by unfold beginWake; dsimp only; rw [hw]; rfl, .inr rfl⟩

theorem beginWake_spec (s : State) : (beginWake s).pwr.regEnCore = true ∧ (beginWake s).pwr.regEnSram = true ∧
    ∃ x, (beginWake s).pwr.start = some x ∧ x.waiting = false := by
  obtain ⟨kind, v, heq, hkind⟩ := beginWake_eq s
  have hon : (sramNoted s.pwr.regEnSram (beginStart kind v)).pwr.regEnCore = true ∧
      (sramNoted s.pwr.regEnSram (beginStart kind v)).pwr.regEnSram = true := by
    obtain rfl | rfl := hkind <;> exact ⟨rfl, rfl⟩
  have hstart : (sramNoted s.pwr.regEnSram (beginStart kind v)).pwr.start =
      some { Start.begin kind v.now with pgSram := s.pwr.regEnSram } := rfl
  rw [heq]
  generalize sramNoted s.pwr.regEnSram (beginStart kind v) = w at hon hstart
  obtain ⟨hcore, hsram⟩ := hon
  cases s.pwr.regEnCore with
  | true =>
    obtain ⟨hc, hs, x, hx, hwait⟩ := start_coreGood hstart
    exact ⟨hc.trans hcore, hs.trans hsram, x, hx, hwait⟩
  | false => exact ⟨hcore, hsram, _, hstart, rfl⟩

/-- The retry keeps the event, the tries and the failures. -/
def retryNoted (st : Start) (s : State) : State := { s with
  pwr.start := s.pwr.start.map fun x => { x with
    since := st.since
    tries := st.tries
    failed := st.failed } }

theorem exec_wakeRetry {st : Start} (hstart : s.pwr.start = some st) (hwait : st.waiting = true) :
    exec .wakeRetry s = .next (retryNoted st
      (if st.kind = .warm then beginWake { s with pwr.start := none } else beginStart st.kind s)) := by
  refine congrArg Host.Outcome.next ?_
  rw [hstart]
  exact if_neg (by rw [hwait]; decide)

theorem retryNoted_spec {st x : Start} (hx : s.pwr.start = some x) (hwait : x.waiting = false) :
    ∃ y, (retryNoted st s).pwr.start = some y ∧ y.waiting = false ∧ y.tries = st.tries ∧ y.since = st.since ∧
      y.failed = st.failed := by
  refine ⟨{ x with since := st.since, tries := st.tries, failed := st.failed }, ?_, hwait, rfl, rfl, rfl⟩
  exact congrArg (Option.map fun y : Start => { y with
    since := st.since
    tries := st.tries
    failed := st.failed }) hx

theorem wakeRetry_spec {st : Start} (hstart : s.pwr.start = some st) (hwait : st.waiting = true) :
    Answers (exec .wakeRetry s) fun t =>
      (∃ x, t.pwr.start = some x ∧ x.waiting = false ∧ x.tries = st.tries ∧ x.since = st.since ∧
        x.failed = st.failed) ∧
      ((st.kind = .warm ∨ st.kind = .cold) → t.pwr.regEnCore = true ∧ t.pwr.regEnSram = true) := by
  refine answers_of_eq (exec_wakeRetry hstart hwait) ?_
  by_cases hkind : st.kind = .warm
  · rw [if_pos hkind]
    obtain ⟨hcore, hsram, x, hx, hw⟩ := beginWake_spec { s with pwr.start := none }
    exact ⟨retryNoted_spec hx hw, fun _ => ⟨hcore, hsram⟩⟩
  · rw [if_neg hkind]
    refine ⟨retryNoted_spec (x := Start.begin st.kind s.now) rfl rfl, fun h => ?_⟩
    rw [h.resolve_left hkind]
    exact ⟨rfl, rfl⟩

/-- Settles O48. -/
theorem wakeSequence : Obligations.WakeSequence := by
  unfold Obligations.WakeSequence
  refine ⟨fun s st hstart hpg hwait hkind => ?_, fun s st hstart hpg hwait => pgSramRise_spec hstart hpg hwait,
    fun s hcore => ⟨fun h => pllLock_core hcore h, fun h => pllLock_lane hcore h, fun h => pllLock_eth hcore h⟩,
    fun s hfail => ⟨?_, ?_⟩, fun s hfail => ⟨?_, ?_⟩,
    fun s st v hstart hkind hgranary hrestored hcore hpllc hplll hplle hsaved hmarks hheld => ⟨?_, ?_⟩,
    fun s st k hstart hwait hopen => ?_, fun s st hstart hwait => wakeRetry_spec hstart hwait,
    fun s st hstart hkind hcore hl0 hwait hdue => ?_⟩
  · obtain ⟨hb, -⟩ := start_phaseB hstart
    obtain ⟨hcore, hserdes, hstate, hgoes⟩ := coreGood_wake hb hpg hwait hkind
    exact answers_of_eq rfl ⟨hcore, hserdes, hstate, hgoes,
      keeps_step (keeps_coreGood _) rfl (keeps_mono (keeps_phaseB s) rfl)⟩
  · exact answers_whenS (by rw [hfail]; rfl) ⟨rfl, hfail, keeps_mk (keeps_refl _ _)⟩
  · exact answers_whenS (by rw [hfail]; rfl) ⟨rfl, rfl, keeps_mk (keeps_refl _ _)⟩
  · exact congrArg Host.Outcome.next (whenS_false (by rw [hfail]; rfl))
  · exact congrArg Host.Outcome.next (whenS_false (by rw [hfail]; rfl))
  · have hexec := exec_wakeImageRestore (good := true) hstart hkind hgranary hrestored hcore hpllc hplll hplle hsaved hmarks
    rw [if_pos rfl, wakeSucceeds_restored hheld] at hexec
    refine answers_of_eq hexec ⟨rfl, rfl, rfl, rfl, rfl, rfl, rfl, rfl, { st with restored := true }, ?_, rfl⟩
    exact congrArg (Option.map fun x : Start => { x with restored := true }) hstart
  · have hexec := exec_wakeImageRestore (good := false) hstart hkind hgranary hrestored hcore hpllc hplll hplle hsaved hmarks
    rw [if_neg Bool.false_ne_true] at hexec
    exact answers_of_eq hexec (imageFails_spec hstart hcore)
  · refine answers_of_eq (congrArg Host.Outcome.next ?_) (wakeTimeout_spec k.val st s)
    rw [hstart]
    exact if_neg (by rw [hwait, hopen]; decide)
  · obtain ⟨hcomp, hlast, -⟩ := latch_account true none { s with pwr.start := some { st with l0 := some 0 } }
    refine answers_of_eq (congrArg Host.Outcome.next ?_) ⟨hcomp, hlast⟩
    rw [hstart]
    exact if_pos (by rw [hkind, hcore, hl0, hwait, decide_eq_true hdue]; simp)

end Sys2Proof.Proofs
end

section
/-!
SUPPORT. O38: the descriptors a channel of commands takes, and the checks that halt it.
-/

namespace Sys2Proof.Proofs

set_option Elab.async false

open Sys2Proof Sys2Proof.Machine Sys2Proof.Safety Sys2Proof.Laws

variable {s t u : State} {k : Fin 32} {x : DmaDesc} {r : Option (BitVec 256)} {e : Upset}

/-! What arbitration changes of a channel (R93, R94, R100). -/

/-- The channels are the same but for REMAIN and the passes. -/
def SameRun (c d : DmaCh) : Prop := d = { c with remain := d.remain, passed := d.passed }

theorem sameRun_refl (c : DmaCh) : SameRun c c := rfl

theorem SameRun.trans {c d f : DmaCh} (h : SameRun c d) (l : SameRun d f) : SameRun c f := by
  unfold SameRun at h l
  rw [h] at l
  exact l

theorem SameRun.eq {c d : DmaCh} (h : SameRun c d) : d = { c with remain := d.remain, passed := d.passed } := h

theorem SameRun.state {c d : DmaCh} (h : SameRun c d) : d.state = c.state := by rw [h.eq]

theorem SameRun.cur {c d : DmaCh} (h : SameRun c d) : d.cur = c.cur := by rw [h.eq]

theorem SameRun.arrived {c d : DmaCh} (h : SameRun c d) : d.arrived = c.arrived := by rw [h.eq]

theorem SameRun.written {c d : DmaCh} (h : SameRun c d) : d.written = c.written := by rw [h.eq]

theorem SameRun.tag {c d : DmaCh} (h : SameRun c d) : d.tag = c.tag := by rw [h.eq]

theorem SameRun.code {c d : DmaCh} (h : SameRun c d) : d.code = c.code := by rw [h.eq]

theorem SameRun.errAddr {c d : DmaCh} (h : SameRun c d) : d.errAddr = c.errAddr := by rw [h.eq]

theorem SameRun.errHost {c d : DmaCh} (h : SameRun c d) : d.errHost = c.errHost := by rw [h.eq]

theorem SameRun.descAddr {c d : DmaCh} (h : SameRun c d) : d.descAddr = c.descAddr := by rw [h.eq]

theorem SameRun.descHost {c d : DmaCh} (h : SameRun c d) : d.descHost = c.descHost := by rw [h.eq]

theorem SameRun.links {c d : DmaCh} (h : SameRun c d) : d.links = c.links := by rw [h.eq]

/-- What grants change: REMAIN and the passes of channels, the burst under way, and what is sent. -/
structure Granted (s t : State) : Prop where
  chan : ∀ j : Fin 32, SameRun s.dma.ch[j] t.dma.ch[j]
  kept : Keeps [.dma, .out] s t

theorem granted_refl (s : State) : Granted s s := ⟨fun _ => sameRun_refl _, keeps_refl _ _⟩

theorem Granted.trans (h : Granted s t) (l : Granted t u) : Granted s u :=
  ⟨fun j => (h.chan j).trans (l.chan j), keeps_trans h.kept l.kept⟩

theorem chan_modCh (k j : Fin 32) (f : DmaCh → DmaCh) (s : State) :
    (modCh k f s).dma.ch[j] = if j = k then f s.dma.ch[j] else s.dma.ch[j] := Tab.upd_get _ _ _ _

theorem chan_modCh_same (k : Fin 32) (f : DmaCh → DmaCh) (s : State) :
    (modCh k f s).dma.ch[k] = f s.dma.ch[k] := (chan_modCh _ _ _ _).trans (if_pos rfl)

theorem chan_modCh_other {j : Fin 32} (h : j ≠ k) (f : DmaCh → DmaCh) (s : State) :
    (modCh k f s).dma.ch[j] = s.dma.ch[j] := (chan_modCh _ _ _ _).trans (if_neg h)

theorem granted_grantTo (k : Fin 32) (s : State) : Granted s (grantTo k s) := by
  refine ⟨fun j => ?_, keeps_mono (keeps_grantTo _ _) rfl⟩
  unfold grantTo
  dsimp only
  rw [Tab.mapI_get]
  split
  · rfl
  · split <;> rfl

theorem granted_asked (k : Fin 32) (n : Nat) (s : State) : Granted s (asked k n s) := by
  refine ⟨fun j => ?_, keeps_mono (keeps_asked _ _ _) rfl⟩
  unfold asked
  rw [chan_modCh]
  split <;> rfl

/-- A burst is recorded. -/
def withBurst (b : Option Burst) (s : State) : State := { s with dma.burst := b }

theorem granted_withBurst (b : Option Burst) (s : State) : Granted s (withBurst b s) :=
  ⟨fun _ => sameRun_refl _, keeps_mk (keeps_refl _ _)⟩

theorem granted_emit (a : Emit) (s : State) : Granted s (emit a s) :=
  ⟨fun _ => sameRun_refl _, keeps_mono (keeps_emit _ _) rfl⟩

theorem granted_grantBurst (k : Fin 32) (x : DmaDesc) (s : State) : Granted s (grantBurst k x s) := by
  unfold grantBurst
  dsimp only
  split
  · exact ((granted_grantTo _ _).trans (granted_asked _ _ _)).trans (granted_emit _ _)
  · split
    · exact ((granted_grantTo _ _).trans (granted_asked _ _ _)).trans (granted_withBurst _ _)
    · exact (granted_grantTo _ _).trans (granted_withBurst _ _)

theorem granted_grantBursts (n : Nat) (s : State) : Granted s (grantBursts n s) := by
  induction n generalizing s with
  | zero => exact granted_refl s
  | succ n ih =>
    rw [grantBursts]
    split
    · exact granted_refl s
    · exact (granted_grantBurst _ _ _).trans (ih _)

theorem granted_arbitrate (s : State) : Granted s (arbitrate s) := granted_grantBursts _ _

/-! A descriptor that passes its checks, and one that does not (R87, R88, R99). -/

theorem hostReachable_modCh (k : Fin 32) (f : DmaCh → DmaCh) (s : State) :
    hostReachable (modCh k f s) = hostReachable s := by
  unfold hostReachable
  rw [modCh_hif]

theorem checkDesc_modCh (x : DmaDesc) (k : Fin 32) (f : DmaCh → DmaCh) (s : State) :
    checkDesc x (modCh k f s) = checkDesc x s := by
  unfold checkDesc
  rw [hostReachable_modCh]

/-- The TAG of a descriptor shows. -/
def withTag (x : DmaDesc) (c : DmaCh) : DmaCh := { c with tag := x.tag }

/-- The TAG of a descriptor shows in its channel. -/
def tagged (k : Fin 32) (x : DmaDesc) (s : State) : State := modCh k (withTag x) s

theorem chan_tagged (k : Fin 32) (x : DmaDesc) (s : State) :
    (tagged k x s).dma.ch[k] = withTag x s.dma.ch[k] := chan_modCh_same _ _ _

theorem raised_of_tagged {g d : Nat} {c : Machine.Class} (h : Raised g c d (tagged k x s) t) : Raised g c d s t := by
  unfold Raised tagged at h
  rw [modCh_rve, modCh_now] at h
  exact h

/-- A descriptor stands in its channel. -/
def withDesc (x : DmaDesc) (c : DmaCh) : DmaCh := { c with
  cur := some x, arrived := 0, hold := [], written := 0, links := 0, remain := x.total, state := .run }

theorem beginDesc_passed (h : checkDesc x s = none) :
    beginDesc k x s = modCh k (withDesc x) (tagged k x s) := by
  have hcheck : checkDesc x (modCh k (fun c => { c with tag := x.tag }) s) = none :=
    (checkDesc_modCh _ _ _ _).trans h
  unfold beginDesc
  dsimp only
  rw [hcheck]
  rfl

theorem beginDesc_failed {code : Byte} (h : checkDesc x s = some code) :
    beginDesc k x s = dmaFail k code ((tagged k x s).dma.ch[k]).descAddr ((tagged k x s).dma.ch[k]).descHost
      (tagged k x s) := by
  have hcheck : checkDesc x (modCh k (fun c => { c with tag := x.tag }) s) = some code :=
    (checkDesc_modCh _ _ _ _).trans h
  unfold beginDesc
  dsimp only
  rw [hcheck]
  rfl

theorem beginDesc_runs (h : checkDesc x s = none) :
    (beginDesc k x s).dma.ch[k] = withDesc x (withTag x s.dma.ch[k]) ∧
    (∀ j : Fin 32, j ≠ k → (beginDesc k x s).dma.ch[j] = s.dma.ch[j]) ∧ Keeps [.dma] s (beginDesc k x s) := by
  rw [beginDesc_passed h]
  refine ⟨?_, fun j hj => ?_, keeps_step (keeps_modCh _ _ _) rfl (keeps_modCh _ _ _)⟩
  · rw [chan_modCh_same, chan_tagged]
  · exact (chan_modCh_other hj _ _).trans (chan_modCh_other hj _ _)

theorem pacedLayer_high (h : 8 ≤ k.val) : pacedLayer k = none := dif_neg (by omega)

theorem pacedFails_high (h : 8 ≤ k.val) (s : State) : pacedFails k s = s := by
  unfold pacedFails
  rw [pacedLayer_high h]

/-- The channel as an error at an address halts it. -/
structure Halts (k : Fin 32) (code : Byte) (addr : Nat) (host : Bool) (s t : State) : Prop where
  state : (t.dma.ch[k]).state = .halted
  reason : (t.dma.ch[k]).code = code
  addr : (t.dma.ch[k]).errAddr = addr
  host : (t.dma.ch[k]).errHost = host
  tag : (t.dma.ch[k]).tag = (s.dma.ch[k]).tag
  raised : Raised 32 .minor (k.val + code.toNat * 256) s t
  kept : Keeps [.dma, .rve] s t

/-- The channel as an error leaves it. -/
def withError (code : Byte) (addr : Nat) (host : Bool) (now : Nat) (c : DmaCh) : DmaCh := { c with
  state := .halted, code := code, errAddr := addr, errHost := host, hold := [], stopReq := false
  haltAt := some now, abortAt := none }

theorem dmaHalt_live {code : Byte} {addr : Nat} {host : Bool} (h : abortedNow k s = false) :
    dmaHalt k code addr host s = raise 32 .minor (k.val + code.toNat * 256)
      (modCh k (withError code addr host s.now) (endBurst k s)) := by
  unfold dmaHalt
  rw [h]
  rfl

theorem halts_dmaFail {code : Byte} {addr : Nat} {host : Bool} (hcore : s.pwr.core = true) (hk : 8 ≤ k.val)
    (hfetch : (s.dma.ch[k]).state = .fetch) : Halts k code addr host s (dmaFail k code addr host s) := by
  have hlive : abortedNow k s = false := by
    unfold abortedNow
    rw [hfetch]
    rfl
  have hfail : dmaFail k code addr host s = dmaHalt k code addr host s := by
    unfold dmaFail
    rw [hlive, pacedFails_high hk]
    exact if_neg Bool.false_ne_true
  have hkept : Keeps [.dma, .rve] s (dmaHalt k code addr host s) := keeps_dmaHalt _ _ _ _ _
  have hget := chan_modCh_same k (withError code addr host s.now) (endBurst k s)
  have hinner : Keeps [.dma] s (modCh k (withError code addr host s.now) (endBurst k s)) :=
    keeps_step (keeps_modCh _ _ _) rfl (keeps_endBurst _ _)
  have hchan : (endBurst k s).dma.ch = s.dma.ch := rfl
  rw [hfail, dmaHalt_live hlive]
  rw [dmaHalt_live hlive] at hkept
  rw [hchan] at hget
  generalize modCh k (withError code addr host s.now) (endBurst k s) = m at hget hinner hkept ⊢
  have hpower : m.pwr.core = true := by rw [hinner .pwr (by decide), hcore]
  have hinbox : m.rve = s.rve := hinner .rve (by decide)
  have hraised := raised_raise (g := 32) (c := .minor) (d := k.val + code.toNat * 256) hpower
  have hnow : m.now = s.now := hinner .now (by decide)
  have hdma : (raise 32 .minor (k.val + code.toNat * 256) m).dma = m.dma := keeps_raise _ _ _ _ .dma (by decide)
  rw [Raised, hinbox, hnow] at hraised
  refine ⟨?_, ?_, ?_, ?_, ?_, hraised, hkept⟩ <;> rw [hdma, hget] <;> rfl

theorem beginDesc_halts {code : Byte} (hcore : s.pwr.core = true) (hk : 8 ≤ k.val)
    (hfetch : (s.dma.ch[k]).state = .fetch) (h : checkDesc x s = some code) :
    Halts k code (s.dma.ch[k]).descAddr (s.dma.ch[k]).descHost (tagged k x s) (beginDesc k x s) := by
  have hget := chan_tagged k x s
  rw [beginDesc_failed h, hget]
  exact halts_dmaFail hcore hk (by rw [hget]; exact hfetch)

/-! A LINK that is followed (R89). -/

/-- The channel stands at the descriptor a LINK names. -/
def withLink (x : DmaDesc) (c : DmaCh) : DmaCh := { c with
  links := c.links + 1, descAddr := x.src, descHost := x.srcHost }

theorem followLink_passed (hlinks : (s.dma.ch[k]).links + 1 < 16) (halign : x.src % 32 = 0)
    (hreach : if x.srcHost then hostReachable s = true else x.src < grnSize) :
    followLink k x s = askDesc x.src x.srcHost (modCh k (withLink x) (tagged k x s)) := by
  have hcount : ((tagged k x s).dma.ch[k]).links + 1 < 16 := by
    rw [chan_tagged]
    exact hlinks
  have hreachable : hostReachable (tagged k x s) = hostReachable s := hostReachable_modCh _ _ _
  have htag : modCh k (fun c => { c with tag := x.tag }) s = tagged k x s := rfl
  unfold followLink
  dsimp only
  rw [htag, if_neg (by omega), hreachable]
  refine if_neg ?_
  obtain h | h := Bool.eq_false_or_eq_true x.srcHost
  · rw [if_pos h] at hreach
    simp [h, hreach]
  · rw [if_neg (by simp [h])] at hreach
    simp [h, hreach]

theorem followLink_moves (hlinks : (s.dma.ch[k]).links + 1 < 16) (halign : x.src % 32 = 0)
    (hreach : if x.srcHost then hostReachable s = true else x.src < grnSize) :
    (followLink k x s).dma.ch[k] = withLink x (withTag x s.dma.ch[k]) ∧
      Keeps [.dma, .out] s (followLink k x s) := by
  have hask : ∀ v : State, (askDesc x.src x.srcHost v).dma = v.dma := fun v =>
    keeps_askDesc _ _ v .dma (by decide)
  rw [followLink_passed hlinks halign hreach]
  refine ⟨?_, keeps_step (keeps_askDesc _ _ _) rfl (keeps_step (keeps_modCh _ _ _) rfl
    (keeps_mono (keeps_modCh _ _ _) rfl))⟩
  rw [hask, chan_modCh_same, chan_tagged]

theorem takeDesc_begins {w : BitVec 256} (h : (parseDma w).link = false ∨ (parseDma w).last = true) :
    takeDesc k w s = beginDesc k (parseDma w) s := by
  unfold takeDesc
  exact if_neg (by obtain h | h := h <;> simp [h])

theorem takeDesc_links {w : BitVec 256} (hlink : (parseDma w).link = true) (hlast : (parseDma w).last = false) :
    takeDesc k w s = followLink k (parseDma w) s := by
  unfold takeDesc
  exact if_pos (by simp [hlink, hlast])

/-! What arrives, by who built the chain (R86, R87). -/

/-- A channel of commands waits for a descriptor. -/
structure Fetches (k : Fin 32) (s : State) : Prop where
  core : s.pwr.core = true
  state : (s.dma.ch[k]).state = .fetch
  high : 8 ≤ k.val

theorem Fetches.guard (h : Fetches k s) : (s.pwr.core && (s.dma.ch[k]).state == .fetch) = true := by
  rw [h.core, h.state]
  rfl

theorem Fetches.arrives_host (h : Fetches k s) (hjob : jobOn k s = none)
    (hhost : (s.dma.ch[k]).descHost = true) (w : BitVec 256) (e : Upset) :
    exec (.dmaDescriptorFetched k (some w) e) s = .next (arbitrate (takeDesc k w s)) := by
  show Host.Outcome.next (whenS _ _ s) = _
  rw [whenS_true h.guard]
  simp only [pacedLayer_high h.high, hjob, hhost]

theorem Fetches.arrives_error (h : Fetches k s) (hjob : jobOn k s = none)
    (hhost : (s.dma.ch[k]).descHost = true) (e : Upset) :
    exec (.dmaDescriptorFetched k none e) s =
      .next (arbitrate (dmaFail k 0x12 (s.dma.ch[k]).descAddr true s)) := by
  show Host.Outcome.next (whenS _ _ s) = _
  rw [whenS_true h.guard]
  simp only [pacedLayer_high h.high, hjob, hhost]

theorem Fetches.reads_granary (h : Fetches k s) (hjob : jobOn k s = none)
    (hhost : (s.dma.ch[k]).descHost = false) (hready : grnReady s = true) (r : Option (BitVec 256))
    (e : Upset) : exec (.dmaDescriptorFetched k r e) s = .next (arbitrate (fetchGranary k e s)) := by
  show Host.Outcome.next (whenS _ _ s) = _
  rw [whenS_true h.guard]
  simp only [pacedLayer_high h.high, hjob, hhost, hready, if_true]

theorem Fetches.takes_own (h : Fetches k s) {j : DmaJob} (hjob : jobOn k s = some j)
    (hlink : j.xfer.link = false) (r : Option (BitVec 256)) (e : Upset) :
    exec (.dmaDescriptorFetched k r e) s = .next (arbitrate (beginDesc k j.xfer s)) := by
  show Host.Outcome.next (whenS _ _ s) = _
  rw [whenS_true h.guard]
  simp only [pacedLayer_high h.high, hjob, hlink, Bool.false_eq_true, if_false]

theorem fetchGranary_clean (hmay : grnMay s permDmaR false (s.dma.ch[k]).descAddr 32 = true)
    (hmarks : s.grn.marks = []) : fetchGranary k .none s =
      takeDesc k (BitVec.ofNat 256 (leNat (grnRead s (s.dma.ch[k]).descAddr 32))) s := by
  have hnone : ∀ w, markOf s w = none := fun w => by
    unfold markOf
    rw [hmarks]
    rfl
  obtain ⟨hgood, hsame⟩ := readWords_clean .dma (a := (s.dma.ch[k]).descAddr) (n := 32) (by decide) fun w _ =>
    hnone w
  have hstill := hsame.eq_of_nil hmarks
  unfold fetchGranary
  dsimp only
  rw [hmay, hgood, hstill]
  rfl

/-- After the event the engine may grant: what follows of any state it leads to follows of the outcome. -/
theorem answers_arbitrate {c : Instr} {P : State → Prop} (hexec : exec c s = .next (arbitrate t))
    (h : ∀ u, Granted t u → P u) : Answers (exec c s) P :=
  ⟨_, hexec, h _ (granted_arbitrate t)⟩

/-! The clauses of O38. -/

/-- The channel runs a descriptor from its first byte. -/
structure Runs (k : Fin 32) (x : DmaDesc) (t : State) : Prop where
  state : (t.dma.ch[k]).state = .run
  cur : (t.dma.ch[k]).cur = some x
  arrived : (t.dma.ch[k]).arrived = 0
  written : (t.dma.ch[k]).written = 0
  tag : (t.dma.ch[k]).tag = x.tag

theorem runs_granted (h : checkDesc x s = none) (hu : Granted (beginDesc k x s) u) :
    Runs k x u ∧ Keeps [.dma, .out] s u := by
  obtain ⟨hget, -, hkept⟩ := beginDesc_runs (k := k) h
  have hrun := hu.chan k
  rw [hget] at hrun
  exact ⟨⟨hrun.state, hrun.cur, hrun.arrived, hrun.written, hrun.tag⟩,
    keeps_step hu.kept rfl (keeps_mono hkept rfl)⟩

/-- Halted by an error, and then granted. -/
theorem Halts.granted {code : Byte} {addr : Nat} {host : Bool} (h : Halts k code addr host s t)
    (hu : Granted t u) : (u.dma.ch[k]).state = .halted ∧ (u.dma.ch[k]).code = code ∧
      (u.dma.ch[k]).tag = (s.dma.ch[k]).tag ∧ (u.dma.ch[k]).errAddr = addr ∧ (u.dma.ch[k]).errHost = host ∧
      Raised 32 .minor (k.val + code.toNat * 256) s u ∧ Keeps [.dma, .rve, .out] s u := by
  have hrve : u.rve = t.rve := hu.kept .rve (by decide)
  have hrun := hu.chan k
  refine ⟨hrun.state.trans h.state, hrun.code.trans h.reason, hrun.tag.trans h.tag, hrun.errAddr.trans h.addr,
    hrun.errHost.trans h.host, ?_, keeps_step hu.kept rfl (keeps_mono h.kept rfl)⟩
  rw [Raised, hrve]
  exact h.raised

theorem descriptor_runs (hf : Fetches k s) (hjob : jobOn k s = none) (hhost : (s.dma.ch[k]).descHost = true)
    {w : BitVec 256} (hlink : (parseDma w).link = false ∨ (parseDma w).last = true)
    (hcheck : checkDesc (parseDma w) s = none) :
    Answers (exec (.dmaDescriptorFetched k (some w) e) s) fun t =>
      (t.dma.ch[k]).state = .run ∧ (t.dma.ch[k]).cur = some (parseDma w) ∧
      (t.dma.ch[k]).arrived = 0 ∧ (t.dma.ch[k]).written = 0 ∧ (t.dma.ch[k]).tag = (parseDma w).tag ∧
      (∀ j : Fin 32, j ≠ k → t.dma.ch[j] = { s.dma.ch[j] with
        remain := (t.dma.ch[j]).remain, passed := (t.dma.ch[j]).passed }) ∧ Keeps [.dma, .out] s t := by
  refine answers_arbitrate (hf.arrives_host hjob hhost w e) fun u hu => ?_
  rw [takeDesc_begins hlink] at hu
  obtain ⟨hruns, hkept⟩ := runs_granted hcheck hu
  refine ⟨hruns.state, hruns.cur, hruns.arrived, hruns.written, hruns.tag, fun j hj => ?_, hkept⟩
  have hsame := hu.chan j
  rw [(beginDesc_runs hcheck).2.1 j hj] at hsame
  exact hsame

theorem descriptor_halts (hf : Fetches k s) (hjob : jobOn k s = none) (hhost : (s.dma.ch[k]).descHost = true)
    {w : BitVec 256} {code : Byte} (hlink : (parseDma w).link = false ∨ (parseDma w).last = true)
    (hcheck : checkDesc (parseDma w) s = some code) :
    Answers (exec (.dmaDescriptorFetched k (some w) e) s) fun t =>
      (t.dma.ch[k]).state = .halted ∧ (t.dma.ch[k]).code = code ∧ (t.dma.ch[k]).tag = (parseDma w).tag ∧
      (t.dma.ch[k]).errAddr = (s.dma.ch[k]).descAddr ∧ (t.dma.ch[k]).errHost = true ∧
      Raised 32 .minor (k.val + code.toNat * 256) s t ∧ Keeps [.dma, .rve, .out] s t := by
  refine answers_arbitrate (hf.arrives_host hjob hhost w e) fun u hu => ?_
  rw [takeDesc_begins hlink] at hu
  obtain ⟨hstate, hcode, htag, haddr, hto, hraised, hkept⟩ :=
    (beginDesc_halts hf.core hf.high hf.state hcheck).granted hu
  rw [chan_tagged] at htag
  exact ⟨hstate, hcode, htag, haddr, hto.trans hhost, raised_of_tagged hraised,
    keeps_trans (keeps_mono (keeps_modCh _ _ _) rfl) hkept⟩

theorem descriptor_unread (hf : Fetches k s) (hjob : jobOn k s = none)
    (hhost : (s.dma.ch[k]).descHost = true) :
    Answers (exec (.dmaDescriptorFetched k none e) s) fun t =>
      (t.dma.ch[k]).state = .halted ∧ (t.dma.ch[k]).code = 0x12 ∧
      (t.dma.ch[k]).errAddr = (s.dma.ch[k]).descAddr ∧
      Raised 32 .minor (k.val + 0x12 * 256) s t ∧ Keeps [.dma, .rve, .out] s t := by
  refine answers_arbitrate (hf.arrives_error hjob hhost e) fun u hu => ?_
  obtain ⟨hstate, hcode, -, haddr, -, hraised, hkept⟩ := (halts_dmaFail hf.core hf.high hf.state).granted hu
  exact ⟨hstate, hcode, haddr, hraised, hkept⟩

theorem descriptor_links (hf : Fetches k s) (hjob : jobOn k s = none) (hhost : (s.dma.ch[k]).descHost = true)
    {w : BitVec 256} (hlink : (parseDma w).link = true) (hlast : (parseDma w).last = false)
    (hlinks : (s.dma.ch[k]).links + 1 < 16) (halign : (parseDma w).src % 32 = 0)
    (hreach : if (parseDma w).srcHost then hostReachable s = true else (parseDma w).src < grnSize) :
    Answers (exec (.dmaDescriptorFetched k (some w) e) s) fun t =>
      (t.dma.ch[k]).state = .fetch ∧ (t.dma.ch[k]).descAddr = (parseDma w).src ∧
      (t.dma.ch[k]).descHost = (parseDma w).srcHost ∧ (t.dma.ch[k]).links = (s.dma.ch[k]).links + 1 ∧
      Keeps [.dma, .out] s t := by
  refine answers_arbitrate (hf.arrives_host hjob hhost w e) fun u hu => ?_
  rw [takeDesc_links hlink hlast] at hu
  obtain ⟨hget, hkept⟩ := followLink_moves hlinks halign hreach
  have hrun := hu.chan k
  rw [hget] at hrun
  exact ⟨hrun.state.trans hf.state, hrun.descAddr, hrun.descHost, hrun.links, keeps_trans hkept hu.kept⟩

theorem descriptor_granary (hf : Fetches k s) (hjob : jobOn k s = none)
    (hhost : (s.dma.ch[k]).descHost = false) (hready : grnReady s = true)
    (hmay : grnMay s permDmaR false (s.dma.ch[k]).descAddr 32 = true) (hmarks : s.grn.marks = [])
    (hx : x = parseDma (BitVec.ofNat 256 (leNat (grnRead s (s.dma.ch[k]).descAddr 32))))
    (hlink : x.link = false ∨ x.last = true) (hcheck : checkDesc x s = none) :
    Answers (exec (.dmaDescriptorFetched k r .none) s) fun t =>
      (t.dma.ch[k]).state = .run ∧ (t.dma.ch[k]).cur = some x ∧ (t.dma.ch[k]).arrived = 0 ∧
      (t.dma.ch[k]).written = 0 ∧ (t.dma.ch[k]).tag = x.tag ∧ Keeps [.dma, .out, .grn] s t := by
  refine answers_arbitrate (hf.reads_granary hjob hhost hready r .none) fun u hu => ?_
  rw [fetchGranary_clean hmay hmarks, takeDesc_begins (by rw [← hx]; exact hlink), ← hx] at hu
  obtain ⟨hruns, hkept⟩ := runs_granted hcheck hu
  exact ⟨hruns.state, hruns.cur, hruns.arrived, hruns.written, hruns.tag, keeps_mono hkept rfl⟩

theorem descriptor_own (hf : Fetches k s) {j : DmaJob} (hjob : jobOn k s = some j)
    (hlink : j.xfer.link = false) (hcheck : checkDesc j.xfer s = none) :
    Answers (exec (.dmaDescriptorFetched k r e) s) fun t =>
      (t.dma.ch[k]).state = .run ∧ (t.dma.ch[k]).cur = some j.xfer ∧ (t.dma.ch[k]).arrived = 0 ∧
      (t.dma.ch[k]).written = 0 ∧ Keeps [.dma, .out] s t := by
  refine answers_arbitrate (hf.takes_own hjob hlink r e) fun u hu => ?_
  obtain ⟨hruns, hkept⟩ := runs_granted hcheck hu
  exact ⟨hruns.state, hruns.cur, hruns.arrived, hruns.written, hkept⟩

/-- Settles O38: grants leave a channel's state, descriptor and error; what arrives begins, links or halts the
channel by its checks. -/
theorem dmaDescriptors : Obligations.DmaDescriptors := by
  unfold Obligations.DmaDescriptors
  refine ⟨?_, ?_, ?_, ?_, ?_, ?_⟩
  · intro s k w e hcore hstate hk hjob hhost hlink hcheck
    exact descriptor_runs ⟨hcore, hstate, hk⟩ hjob hhost hlink hcheck
  · intro s k w e code hcore hstate hk hjob hhost hlink hcheck
    exact descriptor_halts ⟨hcore, hstate, hk⟩ hjob hhost hlink hcheck
  · intro s k e hcore hstate hk hjob hhost
    exact descriptor_unread ⟨hcore, hstate, hk⟩ hjob hhost
  · intro s k w e hcore hstate hk hjob hhost hlink hlast hlinks halign hreach
    exact descriptor_links ⟨hcore, hstate, hk⟩ hjob hhost hlink hlast hlinks halign hreach
  · intro s k x r hcore hstate hk hjob hhost hready hmay hmarks hx hlink hcheck
    exact descriptor_granary ⟨hcore, hstate, hk⟩ hjob hhost hready hmay hmarks hx hlink hcheck
  · intro s k j r e hcore hstate hk hjob hlink hcheck
    exact descriptor_own ⟨hcore, hstate, hk⟩ hjob hlink hcheck

end Sys2Proof.Proofs
end

section
/-!
SUPPORT. O45: PTP messages and time-outs.
-/

namespace Sys2Proof.Proofs

set_option Elab.async false

open Sys2Proof Sys2Proof.Machine Sys2Proof.Safety Sys2Proof.Laws

variable {s t u v : State} {p : Fin 2} {f : RxFrame} {m : PtpIn}

/-! What a servo sample leaves of the ports (R497, R499). -/

/-- The ports are the same but for the stamps of their last peer delay exchange. -/
def SameTurns (s t : State) : Prop :=
  ∀ q : Fin 2, t.eth.port[q] = { s.eth.port[q] with turn := (t.eth.port[q]).turn }

theorem sameTurns_of_eth (h : t.eth = s.eth) : SameTurns s t := fun q => by rw [h]

theorem SameTurns.trans (h : SameTurns s t) (l : SameTurns t u) : SameTurns s u := fun q => by
  have hl := l q
  rw [h q] at hl
  exact hl

theorem sameTurns_stepTime (d : Int) (s : State) : SameTurns s (stepTime d s) := fun q => by
  have hget : (stepTime d s).eth.port[q] = { s.eth.port[q] with turn := none } := Tab.map'_get _ _ _
  rw [hget]

theorem SameTurns.after (l : SameTurns t u) (h : SameTurns s t) : SameTurns s u := h.trans l

theorem eth_setTimeState (k : TimeState) (kind : Nat) (p : Fin 2) (s : State) :
    (setTimeState k kind p s).eth = s.eth := keeps_setTimeState _ _ _ s .eth (by decide)

theorem sameTurns_servo (o : Int) (dt : Rat) (s : State) : SameTurns s (servo o dt s) := by
  unfold servo
  dsimp only
  split
  · refine (sameTurns_of_eth (eth_setTimeState _ _ _ _)).after ?_
    exact SameTurns.after (t := stepTime (-roundRat (dbl ((o : Rat) / 65536) * 65536)) s) (sameTurns_of_eth rfl)
      (sameTurns_stepTime _ s)
  · exact sameTurns_of_eth ((keeps_writeRate _ _ .eth (by decide)).trans rfl)

theorem eth_judgeSample (o : Int) (p : Fin 2) (s : State) : (judgeSample o p s).eth = s.eth :=
  keeps_judgeSample _ _ s .eth (by decide)

/-- The sample stands in its slot. -/
def sampleStored (ns d : Int) (s : State) : State := { s with
  bel.sample := s.bel.sample.updN (s.bel.sampleSeq % 16) fun _ =>
    { seq := s.bel.sampleSeq % 256, delay := (sat 0 16777215 d).toNat, offset := ns }
  bel.sampleSeq := (s.bel.sampleSeq + 1) % 65536
  bel.last := ns
  bel.pathDelay := satU 32 d }

/-- When the sample came. -/
def sampleTimed (s : State) : State := { s with bel.lastSample := some s.bel.frc }

theorem eth_sampleTimed (on : Bool) (ns d : Int) (s : State) :
    (sampleTimed (sampleDt (belSignal on (sampleStored ns d s))).2).eth = s.eth :=
  (keeps_sampleDt _ .eth (by decide)).trans ((keeps_belSignal _ _ .eth (by decide)).trans rfl)

theorem sameTurns_takeSample (p : Fin 2) (o delay : Int) (s : State) : SameTurns s (takeSample p o delay s) := by
  have heth := eth_sampleTimed s.bel.onSample (satS 32 (roundEven o 65536)) (roundEven delay 65536) s
  unfold takeSample
  dsimp only
  change (sampleTimed (sampleDt (belSignal _ (sampleStored _ _ s))).2).eth = s.eth at heth
  split
  · split
    · exact sameTurns_of_eth ((eth_setTimeState _ _ _ _).trans heth)
    · exact sameTurns_of_eth ((eth_setTimeState _ _ _ _).trans heth)
  · exact ((sameTurns_of_eth heth).trans (sameTurns_servo _ _ _)).trans
      (sameTurns_of_eth (eth_judgeSample _ _ _))
  · exact sameTurns_of_eth ((eth_judgeSample _ _ _).trans heth)

/-! What a port receives (R479, R481, R495). -/

/-- A PTP message over the transport that the port accepts, of the domain it is set to. -/
structure Heard (p : Fin 2) (f : RxFrame) (domain : Nat) (s : State) : Prop where
  up : macUp p s = true
  fcs : f.fcsOk = true
  frame : frameOk s.eth.port[p] f (isGptp p s) (rowPtp s.eth.port[p] f) = true
  domain : domain = (s.eth.port[p]).ptp.domain

theorem Heard.handled {n : Nat} (h : Heard p f n s) (g : State → State) : receivePtp p f n g s = g s :=
  (receive_accepted h.up h.fcs h.frame).trans (if_pos h.domain.symm)

theorem Heard.link {n : Nat} (h : Heard p f n s) : (s.eth.port[p]).link = true :=
  link_of_macSends (macSends_of_macUp h.up)

theorem coresUp_of_ptpRuns (h : ptpRuns p s = true) : coresUp s = true := by
  unfold ptpRuns at h
  exact (Bool.and_eq_true_iff.mp h).1

theorem ptpRuns_modEth {g : Eth → Eth} (h : (g s.eth.port[p]).ptp = (s.eth.port[p]).ptp) :
    ptpRuns p (modEth p g s) = ptpRuns p s := by
  unfold ptpRuns
  rw [(port_modEth p g s).1, h]
  rfl

theorem isSource_modEth {g : Eth → Eth} (h : (g s.eth.port[p]).ptpState = (s.eth.port[p]).ptpState) :
    isSource p (modEth p g s) = isSource p s := by
  unfold isSource
  rw [(port_modEth p g s).1, h]

theorem ingress_modEth {g : Eth → Eth} (h : (g s.eth.port[p]).rxDelay = (s.eth.port[p]).rxDelay) :
    ingress p m (modEth p g s) = ingress p m s := by
  unfold ingress
  rw [(port_modEth p g s).1, h]
  rfl

/-! A Sync and its Follow_Up (R497). -/

/-- A Sync is counted. -/
def syncCounted (e : Eth) : Eth := { e with syncRx := bump 65535 1 e.syncRx }

/-- A two-step Sync waits for its Follow_Up. -/
def syncWaits (w : SyncWait) (e : Eth) : Eth := { e with syncWait := some w }

/-- A Sync is complete. -/
def syncDone (diff : Int) (e : Eth) : Eth := { e with syncDiff := diff, syncWait := none, ptpState := .slave }

theorem takeSync_source (hruns : ptpRuns p s = true) (hsource : isSource p s = true) :
    takeSync p m s = if m.twoStep then
        modEth p (syncWaits ⟨m.seq, ingress p m s, m.correction⟩) (modEth p syncCounted s)
      else syncSample p (ingress p m s) m.time m.correction (modEth p syncCounted s) := by
  have hguard : (!ptpRuns p (modEth p syncCounted s) || !isSource p (modEth p syncCounted s)) = false := by
    rw [ptpRuns_modEth rfl, isSource_modEth rfl, hruns, hsource]
    rfl
  have hstamp : ingress p m (modEth p syncCounted s) = ingress p m s := ingress_modEth rfl
  rw [← hstamp]
  exact if_neg (Bool.eq_false_iff.mp hguard)

theorem syncSample_spec (p : Fin 2) (t2 t1 corr : Int) (s : State) :
    SameTurns (modEth p (syncDone (t2 - t1 - (corr + (s.eth.port[p]).asym))) s) (syncSample p t2 t1 corr s) :=
  sameTurns_takeSample _ _ _ _

/-- What a complete Sync leaves of the port and of the other one. -/
theorem syncSample_ports (p : Fin 2) (t2 t1 corr : Int) (s : State) :
    ((syncSample p t2 t1 corr s).eth.port[p]).syncDiff = t2 - t1 - (corr + (s.eth.port[p]).asym) ∧
    ((syncSample p t2 t1 corr s).eth.port[p]).syncWait = none ∧
    ((syncSample p t2 t1 corr s).eth.port[p]).ptpState = .slave ∧
    ((syncSample p t2 t1 corr s).eth.port[p]).syncRx = (s.eth.port[p]).syncRx ∧
    (syncSample p t2 t1 corr s).eth.port[1 - p] =
      { s.eth.port[1 - p] with turn := ((syncSample p t2 t1 corr s).eth.port[1 - p]).turn } := by
  have hsame := syncSample_spec p t2 t1 corr s
  generalize syncSample p t2 t1 corr s = u at hsame ⊢
  obtain ⟨hself, hother⟩ := port_modEth p (syncDone (t2 - t1 - (corr + (s.eth.port[p]).asym))) s
  have hport := hsame p
  have hrest := hsame (1 - p)
  rw [hself] at hport
  rw [hother] at hrest
  rw [hport]
  exact ⟨rfl, rfl, rfl, rfl, hrest⟩

theorem sync_waits (h : Heard p f m.domain s) (hruns : ptpRuns p s = true) (hsource : isSource p s = true)
    (htwo : m.twoStep = true) : Answers (exec (.syncReceived p f m) s) fun t =>
      (t.eth.port[p]).syncRx = bump 65535 1 (s.eth.port[p]).syncRx ∧
      (t.eth.port[p]).syncWait = some ⟨m.seq, ingress p m s, m.correction⟩ ∧
      t.eth.port[1 - p] = s.eth.port[1 - p] ∧ t.bel = s.bel ∧ Keeps [.eth] s t := by
  have hexec : exec (.syncReceived p f m) s =
      .next (modEth p (syncWaits ⟨m.seq, ingress p m s, m.correction⟩) (modEth p syncCounted s)) :=
    congrArg Host.Outcome.next ((h.handled _).trans ((takeSync_source hruns hsource).trans (if_pos htwo)))
  refine answers_of_eq hexec ?_
  rw [(port_modEth p _ _).1, (port_modEth p _ _).2, (port_modEth p _ _).1, (port_modEth p _ _).2]
  exact ⟨rfl, rfl, rfl, rfl, keeps_step (keeps_modEth _ _ _) rfl (keeps_modEth _ _ _)⟩

theorem sync_completes (h : Heard p f m.domain s) (hruns : ptpRuns p s = true) (hsource : isSource p s = true)
    (hone : m.twoStep = false) : Answers (exec (.syncReceived p f m) s) fun t =>
      (t.eth.port[p]).syncRx = bump 65535 1 (s.eth.port[p]).syncRx ∧
      (t.eth.port[p]).syncDiff = ingress p m s - m.time - (m.correction + (s.eth.port[p]).asym) ∧
      (t.eth.port[p]).syncWait = none ∧ (t.eth.port[p]).ptpState = .slave ∧
      t.eth.port[1 - p] = { s.eth.port[1 - p] with turn := (t.eth.port[1 - p]).turn } := by
  have hexec : exec (.syncReceived p f m) s =
      .next (syncSample p (ingress p m s) m.time m.correction (modEth p syncCounted s)) :=
    congrArg Host.Outcome.next ((h.handled _).trans ((takeSync_source hruns hsource).trans
      (if_neg (by rw [hone]; exact Bool.false_ne_true))))
  obtain ⟨hdiff, hwait, hstate, hcount, hother⟩ :=
    syncSample_ports p (ingress p m s) m.time m.correction (modEth p syncCounted s)
  rw [(port_modEth p syncCounted s).1] at hdiff hcount
  rw [(port_modEth p syncCounted s).2] at hother
  exact answers_of_eq hexec ⟨hcount, hdiff, hwait, hstate, hother⟩

theorem followUp_completes {w : SyncWait} (h : Heard p f m.domain s) (hruns : ptpRuns p s = true)
    (hsource : isSource p s = true) (hwait : (s.eth.port[p]).syncWait = some w) (hseq : w.seq = m.seq) :
    Answers (exec (.followUpReceived p f m) s) fun t =>
      (t.eth.port[p]).syncWait = none ∧ (t.eth.port[p]).ptpState = .slave ∧
      (t.eth.port[p]).syncDiff =
        w.ingress - m.time - (w.correction + m.correction + (s.eth.port[p]).asym) ∧
      t.eth.port[1 - p] = { s.eth.port[1 - p] with turn := (t.eth.port[1 - p]).turn } := by
  have htake : takeFollowUp p m s = syncSample p w.ingress m.time (w.correction + m.correction) s := by
    unfold takeFollowUp
    rw [hwait]
    dsimp only
    rw [hruns, hsource, hseq, beq_self_eq_true]
    rfl
  have hexec : exec (.followUpReceived p f m) s =
      .next (syncSample p w.ingress m.time (w.correction + m.correction) s) :=
    congrArg Host.Outcome.next ((h.handled _).trans htake)
  obtain ⟨hdiff, hnone, hstate, -, hother⟩ :=
    syncSample_ports p w.ingress m.time (w.correction + m.correction) s
  exact answers_of_eq hexec ⟨hnone, hstate, hdiff, hother⟩

/-! Delay messages (R494, R495, R497). -/

theorem takeDelay_pdelayReq (hruns : ptpRuns p s = true) (hprofile : (s.eth.port[p]).ptp.profile ≠ 0) :
    takeDelay p .pdelayReq m s = enqueue p 7 (.ptp .pdelayResp m.seq (ingress p m s) m.correction) none s := by
  unfold takeDelay
  dsimp only
  rw [coresUp_of_ptpRuns hruns, hruns]
  exact if_neg hprofile

theorem takeDelay_delayReq (hruns : ptpRuns p s = true) (hprofile : (s.eth.port[p]).ptp.profile = 0)
    (hmaster : (s.eth.port[p]).ptpState = .master) :
    takeDelay p .delayReq m s = enqueue p 6 (.ptp .delayResp m.seq (ingress p m s) m.correction) none s := by
  unfold takeDelay
  dsimp only
  rw [coresUp_of_ptpRuns hruns, hruns]
  exact (if_neg (not_not_intro hprofile)).trans (if_pos hmaster)

theorem takeDelay_followUp {t1 : Int} {w : PdelayWait} (hruns : ptpRuns p s = true)
    (hprofile : (s.eth.port[p]).ptp.profile ≠ 0) (ht3 : (s.eth.port[p]).delayT3 = some t1)
    (hwait : (s.eth.port[p]).pdelay = some w) (hseq : w.seq = m.seq) :
    takeDelay p .pdelayRespFollowUp m s = pdelayDone p w.t4 t1 (m.time - w.t2) (w.correction + m.correction)
      (some (m.time + w.correction + m.correction)) s := by
  unfold takeDelay
  dsimp only
  rw [coresUp_of_ptpRuns hruns, hruns, ht3, hwait]
  exact (if_neg hprofile).trans (if_pos hseq.symm)

theorem pdelay_answered (h : Heard p f m.domain s) (hruns : ptpRuns p s = true)
    (hprofile : (s.eth.port[p]).ptp.profile ≠ 0) :
    Answers (exec (.delayExchangeMessageReceived p f .pdelayReq m) s) fun t =>
      ((t.eth.port[p]).egress[(7 : Fin 8)] = (s.eth.port[p]).egress[(7 : Fin 8)] ++
        [⟨.ptp .pdelayResp m.seq (ingress p m s) m.correction, none, true⟩]) ∧
      t.eth.port[1 - p] = s.eth.port[1 - p] ∧ Keeps [.eth] s t := by
  obtain ⟨hqueue, -, -, hother⟩ := enqueue_spec (q := 7)
    (x := .ptp .pdelayResp m.seq (ingress p m s) m.correction) (launch := none) h.link
  exact answers_of_eq (congrArg Host.Outcome.next ((h.handled _).trans (takeDelay_pdelayReq hruns hprofile)))
    ⟨hqueue, hother, keeps_enqueue _ _ _ _ _⟩

theorem delay_answered (h : Heard p f m.domain s) (hruns : ptpRuns p s = true)
    (hprofile : (s.eth.port[p]).ptp.profile = 0) (hmaster : (s.eth.port[p]).ptpState = .master) :
    Answers (exec (.delayExchangeMessageReceived p f .delayReq m) s) fun t =>
      ((t.eth.port[p]).egress[(6 : Fin 8)] = (s.eth.port[p]).egress[(6 : Fin 8)] ++
        [⟨.ptp .delayResp m.seq (ingress p m s) m.correction, none, true⟩]) ∧
      t.eth.port[1 - p] = s.eth.port[1 - p] ∧ Keeps [.eth] s t := by
  obtain ⟨hqueue, -, -, hother⟩ := enqueue_spec (q := 6)
    (x := .ptp .delayResp m.seq (ingress p m s) m.correction) (launch := none) h.link
  exact answers_of_eq
    (congrArg Host.Outcome.next ((h.handled _).trans (takeDelay_delayReq hruns hprofile hmaster)))
    ⟨hqueue, hother, keeps_enqueue _ _ _ _ _⟩

theorem pathDelay_measured {t1 : Int} {w : PdelayWait} {r : Rat} (h : Heard p f m.domain s)
    (hruns : ptpRuns p s = true) (hprofile : (s.eth.port[p]).ptp.profile ≠ 0)
    (ht3 : (s.eth.port[p]).delayT3 = some t1) (hwait : (s.eth.port[p]).pdelay = some w) (hseq : w.seq = m.seq)
    (hr : r = rateRatio s.eth.port[p] (some (m.time + w.correction + m.correction)) w.t4) :
    Answers (exec (.delayExchangeMessageReceived p f .pdelayRespFollowUp m) s) fun t =>
      (t.eth.port[p]).pathDelay =
        roundEven (roundRat (r * (w.t4 - t1 : Int)) - (m.time - w.t2) - (w.correction + m.correction)) 2 ∧
      (t.eth.port[p]).ratio = r ∧
      (t.eth.port[p]).turn = some (m.time + w.correction + m.correction, w.t4) ∧
      t.eth.port[1 - p] = s.eth.port[1 - p] ∧ Keeps [.eth] s t := by
  subst hr
  refine answers_of_eq (congrArg Host.Outcome.next ((h.handled _).trans
    (takeDelay_followUp hruns hprofile ht3 hwait hseq))) ?_
  have hkept := keeps_pdelayDone p w.t4 t1 (m.time - w.t2) (w.correction + m.correction)
    (some (m.time + w.correction + m.correction)) s
  unfold pdelayDone at hkept ⊢
  dsimp only at hkept ⊢
  rw [(port_modEth p _ s).1, (port_modEth p _ s).2]
  exact ⟨rfl, rfl, rfl, rfl, hkept⟩

/-! The best master clock algorithm (R496). -/

theorem betterOf_either (x y : Option (Fin 2 × ClockData)) : betterOf x y = x ∨ betterOf x y = y := by
  unfold betterOf
  split
  · split
    · exact .inr rfl
    · exact .inl rfl
  · exact .inl rfl
  · exact .inr rfl

theorem bestOn_port {b : Fin 2 × ClockData} (h : bestOn p s = some b) : b.1 = p := by
  have hfold : ∀ (l : List Foreign) (o : Option (Fin 2 × ClockData)), (∀ c ∈ o, c.1 = p) →
      ∀ c ∈ l.foldl (fun best x => betterOf best (some (p, x.data))) o, c.1 = p := by
    intro l
    induction l with
    | nil => exact fun o ho => ho
    | cons x l ih =>
      refine fun o ho => ih _ fun c hc => ?_
      dsimp only at hc
      obtain hsame | hnew := betterOf_either o (some (p, x.data))
      · rw [hsame] at hc
        exact ho c hc
      · rw [hnew, Option.mem_some_iff] at hc
        rw [← hc]
  unfold bestOn at h
  dsimp only at h
  split at h
  · cases h
  · exact hfold _ none (fun c hc => nomatch hc) b h

theorem bestOn_unheard (h : (s.eth.port[p]).foreign = []) : bestOn p s = none := by
  unfold bestOn
  dsimp only
  rw [h]
  exact ite_self _

theorem bestOn_unlinked (h : (s.eth.port[p]).link = false) : bestOn p s = none := by
  unfold bestOn
  dsimp only
  rw [h]
  rfl

theorem bestOn_only {x : Foreign} (hlink : (s.eth.port[p]).link = true) (hrole : (s.eth.port[p]).ptp.role ≠ 0)
    (hslave : (s.eth.port[p]).ptp.role ≠ 3) (hheard : (s.eth.port[p]).foreign = [x]) (hq : x.qualified = true)
    (hfresh : x.fresh s.eth.port[p] s = true) : bestOn p s = some (p, x.data) := by
  have hopen : (!(s.eth.port[p]).link || (s.eth.port[p]).ptp.role == 0 || (s.eth.port[p]).ptp.role == 3) = false := by
    rw [hlink, beq_eq_false_iff_ne.mpr hrole, beq_eq_false_iff_ne.mpr hslave]
    rfl
  unfold bestOn
  dsimp only
  rw [hopen, hheard, List.filter_cons_of_pos (by rw [hq, hfresh]; rfl)]
  rfl

theorem betterOf_ports {d : ClockData} (hmine : bestOn p s = some (p, d)) (hother : bestOn (1 - p) s = none) :
    betterOf (bestOn 0 s) (bestOn 1 s) = some (p, d) := by
  obtain rfl | rfl : p = 0 ∨ p = 1 := by omega
  · rw [hmine, show bestOn 1 s = none from hother]
    rfl
  · rw [hmine, show bestOn 0 s = none from hother]
    rfl

theorem decidePort_only {d : ClockData} (hmine : bestOn p s = some (p, d)) (hother : bestOn (1 - p) s = none)
    (hclass : 127 < (ownData s).clockClass) : decidePort p s = if (ownData s).better d then
      (if (s.eth.port[p]).ptpState = .preMaster then .preMaster else .master, none)
      else (.uncalibrated, some d) := by
  have hbest := betterOf_ports hmine hother
  unfold decidePort
  dsimp only
  rw [if_neg (by rw [hmine]; simp), if_neg (by omega), hbest]
  dsimp only
  rw [if_pos (c := p = p) rfl]

theorem decidePort_unheard (h : bestOn p s = none) : (decidePort p s).1 ≠ .uncalibrated := by
  have hmaster : ((if (s.eth.port[p]).ptpState = .preMaster then PtpState.preMaster else .master,
      (none : Option ClockData))).1 ≠ .uncalibrated := by
    split <;> decide
  unfold decidePort
  dsimp only
  rw [h]
  split
  · decide
  · split
    · exact hmaster
    · split
      · exact hmaster
      next b hb =>
        split
        · exact hmaster
        · split
          next heq =>
            have hnone : ∀ q : Fin 2, bestOn q s ≠ some b := fun q hq => by
              have hqp : q = p := (bestOn_port hq).symm.trans heq
              rw [hqp, h] at hq
              cases hq
            obtain h0 | h1 := betterOf_either (bestOn 0 s) (bestOn 1 s)
            · exact absurd (h0.symm.trans hb) (hnone 0)
            · exact absurd (h1.symm.trans hb) (hnone 1)
          · exact PtpState.noConfusion

theorem becomes_orphan {x : PtpState × Option ClockData} {e : Eth} {n : Nat} (h : x.1 ≠ .uncalibrated) :
    (becomes x e n).parent = none := by
  unfold becomes
  dsimp only
  split
  next heq => exact absurd heq h
  · rfl

theorem becomes_source (d : ClockData) (e : Eth) (n : Nat) :
    ((becomes (.uncalibrated, some d) e n).ptpState = .uncalibrated ∨
      (becomes (.uncalibrated, some d) e n).ptpState = .slave) ∧
    (becomes (.uncalibrated, some d) e n).parent = some d := by
  have hstate : ∀ b : Bool, (if b then PtpState.slave else .uncalibrated) = .uncalibrated ∨
      (if b then PtpState.slave else .uncalibrated) = .slave := by
    decide
  exact ⟨hstate _, rfl⟩

theorem becomes_master {e : Eth} {n : Nat} (hrole : e.ptp.role ≠ 3) :
    (becomes (if e.ptpState = .preMaster then .preMaster else .master, none) e n).ptpState =
      if e.ptp.role = 1 then .listening
      else if e.ptpState = .preMaster then (if e.ptp.profile = 2 then .master else .preMaster)
      else .master := by
  by_cases hpre : e.ptpState = .preMaster
  · by_cases hgptp : e.ptp.profile = 2 <;> by_cases hone : e.ptp.role = 1 <;>
      simp [becomes, hpre, hgptp, hone, hrole, roleAdmits]
  · by_cases hone : e.ptp.role = 1 <;> simp [becomes, hpre, hone, hrole, roleAdmits]

theorem foreign_becomes (x : PtpState × Option ClockData) (e : Eth) (n : Nat) :
    (becomes x e n).foreign = e.foreign := by
  unfold becomes
  dsimp only
  split <;> rfl

/-- Steps of the best clock heard on either port. -/
def bestSteps (s : State) : Nat :=
  match betterOf (bestOn 0 s) (bestOn 1 s) with
  | some b => b.2.steps
  | none => 0

/-- A port as the algorithm leaves it. -/
def portDecided (s : State) (p : Fin 2) : Eth :=
  if decides p s then becomes (decidePort p s) s.eth.port[p] (bestSteps s) else s.eth.port[p]

/-- Both ports as the algorithm leaves them. -/
def portsDecided (s : State) : State :=
  modEth 1 (fun _ => portDecided s 1) (modEth 0 (fun _ => portDecided s 0) s)

theorem port_portsDecided (s : State) (p : Fin 2) : (portsDecided s).eth.port[p] = portDecided s p := by
  unfold portsDecided
  obtain rfl | rfl : p = 0 ∨ p = 1 := by omega
  · exact (port_modEth 1 _ _).2.trans (port_modEth 0 _ _).1
  · exact (port_modEth 1 _ _).1

theorem foreign_portDecided (s : State) (p : Fin 2) : (portDecided s p).foreign = (s.eth.port[p]).foreign := by
  unfold portDecided
  split
  · exact foreign_becomes _ _ _
  · rfl

/-- After the ports, LOCKED is lost where the source has changed, and the time state settles. -/
theorem bestMaster_cases (s : State) : bestMaster s = settleFree (portsDecided s) ∨
    ∃ q, bestMaster s = settleFree (loseLock 4 q (portsDecided s)) := by
  unfold bestMaster
  dsimp only
  split
  · split
    · exact .inl rfl
    · exact .inr ⟨_, rfl⟩
  · exact .inl rfl

theorem port_bestMaster (s : State) (q : Fin 2) : (bestMaster s).eth.port[q] = portDecided s q := by
  rw [← port_portsDecided]
  obtain h | ⟨r, h⟩ := bestMaster_cases s
  · rw [h, eth_settleFree]
  · rw [h, eth_settleFree, eth_loseLock]

theorem bel_loseLock (kind : Nat) (p : Fin 2) (s : State) :
    ∃ j l, (loseLock kind p s).bel = { s.bel with state := j, lockLosses := l } := by
  unfold loseLock
  split
  · exact bel_setTimeState _ _ _ _
  · exact ⟨_, _, rfl⟩

theorem bel_bestMaster (s : State) : ∃ j l, (bestMaster s).bel = { s.bel with state := j, lockLosses := l } := by
  obtain h | ⟨q, h⟩ := bestMaster_cases s
  · rw [h]
    exact bel_settleFree _
  · obtain ⟨j, l, hlost⟩ := bel_loseLock 4 q (portsDecided s)
    obtain ⟨k, n, hfree⟩ := bel_settleFree (loseLock 4 q (portsDecided s))
    rw [hlost] at hfree
    rw [h]
    exact ⟨k, n, hfree⟩

theorem settleFree_held (h : s.bel.state = .holdover) : settleFree s = s := by
  unfold settleFree
  exact if_neg (by simp [h])

theorem bestMaster_held (h : s.bel.state = .holdover) : bestMaster s = portsDecided s := by
  have hheld : (portsDecided s).bel.state = .holdover := h
  obtain hs | ⟨q, hs⟩ := bestMaster_cases s
  · exact hs.trans (settleFree_held hheld)
  · have hlose : loseLock 4 q (portsDecided s) = portsDecided s := if_neg (by rw [hheld]; decide)
    rw [hs, hlose]
    exact settleFree_held hheld

/-! An Announce (R495, R496, R499). -/

theorem takeAnnounce_heard {a : AnnounceIn} (hruns : ptpRuns p s = true) (hother : a.data.sender ≠ clockIdentity s)
    (hsteps : a.data.steps < 255) :
    takeAnnounce p a s = takeUtc p a (bestMaster (modEth p (fun e => hear a.data e s) s)) := by
  unfold takeAnnounce
  rw [coresUp_of_ptpRuns hruns, hruns]
  exact if_neg (c := a.data.sender = clockIdentity s ∨ 255 ≤ a.data.steps) (by omega)

theorem eth_takeUtc (p : Fin 2) (a : AnnounceIn) (s : State) : (takeUtc p a s).eth = s.eth :=
  keeps_takeUtc _ _ s .eth (by decide)

theorem time_takeUtc (p : Fin 2) (a : AnnounceIn) (s : State) : netTime (takeUtc p a s) = netTime s := by
  unfold takeUtc
  split <;> rfl

theorem time_bestMaster (s : State) : netTime (bestMaster s) = netTime s := by
  obtain ⟨j, l, h⟩ := bel_bestMaster s
  unfold netTime
  rw [h]
  rfl

theorem hear_remembers (d : ClockData) (e : Eth) (s : State) :
    ∃ x ∈ (hear d e s).foreign, x.data = d ∧ x.at' = s.now :=
  ⟨_, List.mem_append_right _ List.mem_cons_self, rfl, rfl⟩

theorem announce_remembered {a : AnnounceIn} (h : Heard p f a.domain s) (hruns : ptpRuns p s = true)
    (hother : a.data.sender ≠ clockIdentity s) (hsteps : a.data.steps < 255) :
    Answers (exec (.announceReceived p f a) s) fun t =>
      (∃ x ∈ (t.eth.port[p]).foreign, x.data = a.data ∧ x.at' = s.now) ∧
      (t.eth.port[1 - p]).foreign = (s.eth.port[1 - p]).foreign ∧ netTime t = netTime s := by
  refine answers_of_eq (congrArg Host.Outcome.next ((h.handled _).trans
    (takeAnnounce_heard hruns hother hsteps))) ?_
  obtain ⟨hself, hrest⟩ := port_modEth p (fun e => hear a.data e s) s
  rw [eth_takeUtc, port_bestMaster, port_bestMaster, foreign_portDecided, foreign_portDecided, hself, hrest,
    time_takeUtc, time_bestMaster]
  exact ⟨hear_remembers _ _ _, rfl, rfl⟩

theorem hear_only {d : ClockData} {e : Eth}
    (honly : ∀ x ∈ e.foreign, x.data.sender = d.sender ∧ x.data.senderPort = d.senderPort)
    (hagain : e.ptp.profile = 2 ∨ ∃ x ∈ e.foreign, x.fresh e s = true) :
    (hear d e s).foreign = [⟨d, s.now, true⟩] := by
  have hnone : (e.foreign.filter fun x =>
      !(x.data.sender == d.sender && x.data.senderPort == d.senderPort) && x.fresh e s) = [] := by
    refine List.filter_eq_nil_iff.mpr fun x hx => ?_
    obtain ⟨hsender, hport⟩ := honly x hx
    simp [hsender, hport]
  have hqual : (((e.foreign.filter fun x => x.fresh e s).any fun x =>
      x.data.sender == d.sender && x.data.senderPort == d.senderPort) || e.ptp.profile == 2) = true := by
    obtain hgptp | ⟨x, hx, hfresh⟩ := hagain
    · simp [hgptp]
    · obtain ⟨hsender, hport⟩ := honly x hx
      exact Bool.or_eq_true_iff.mpr (.inl (List.any_eq_true.mpr
        ⟨x, List.mem_filter.mpr ⟨hx, hfresh⟩, by simp [hsender, hport]⟩))
  unfold hear
  dsimp only
  rw [hnone, hqual]
  rfl

theorem ownData_modEth {g : Eth → Eth} (h : ∀ e, (g e).mac = e.mac) : ownData (modEth p g s) = ownData s := by
  have hmac : ((modEth p g s).eth.port[(0 : Fin 2)]).mac = (s.eth.port[(0 : Fin 2)]).mac := by
    have hget : (modEth p g s).eth.port[(0 : Fin 2)] = if (0 : Fin 2) = p then g s.eth.port[(0 : Fin 2)]
        else s.eth.port[(0 : Fin 2)] := Tab.upd_get _ _ _ _
    rw [hget]
    split
    · exact h _
    · rfl
  have hid : clockIdentity (modEth p g s) = clockIdentity s := by
    unfold clockIdentity
    rw [hmac]
  unfold ownData
  rw [hid]
  rfl

theorem decides_modEth {g : Eth → Eth} (h : (g s.eth.port[p]).enabled = (s.eth.port[p]).enabled ∧
    (g s.eth.port[p]).ptp = (s.eth.port[p]).ptp ∧ (g s.eth.port[p]).link = (s.eth.port[p]).link ∧
    (g s.eth.port[p]).ptpState = (s.eth.port[p]).ptpState) : decides p (modEth p g s) = decides p s := by
  obtain ⟨hen, hptp, hlink, hstate⟩ := h
  unfold decides Eth.runsPtp
  dsimp only
  rw [(port_modEth p g s).1, hen, hptp, hlink, hstate]

theorem decides_unlinked (h : (s.eth.port[p]).link = false) : decides p s = false := by
  unfold decides
  dsimp only
  rw [h, Bool.and_false]
  rfl

theorem decides_spec (h : decides p s = true) :
    (s.eth.port[p]).link = true ∧ (s.eth.port[p]).ptp.role ≠ 0 := by
  unfold decides Eth.runsPtp at h
  simp only [Bool.and_eq_true, bne_iff_ne] at h
  exact ⟨h.1.1.1.2, h.1.1.1.1.2⟩

theorem sourcePort_only (h : isSource p s = true) (hother : isSource (1 - p) s = false) :
    sourcePort s = some p := by
  have hlist : sourcePort s = ([0, 1] : List (Fin 2)).find? fun q => isSource q s := rfl
  rw [hlist]
  obtain rfl | rfl : p = 0 ∨ p = 1 := by omega
  · rw [List.find?_cons_of_pos (by exact h)]
  · rw [List.find?_cons_of_neg (by rw [show isSource 0 s = false from hother]; exact Bool.false_ne_true),
      List.find?_cons_of_pos (by exact h)]

/-- The best clock is the only one heard, on a port that decides, and the other port is down and no source. -/
structure OnlyHeard (p : Fin 2) (d : ClockData) (s : State) : Prop where
  decides : decides p s = true
  best : bestOn p s = some (p, d)
  unlinked : (s.eth.port[1 - p]).link = false
  silent : isSource (1 - p) s = false
  role : (s.eth.port[p]).ptp.role ≠ 3
  class' : 127 < (ownData s).clockClass

theorem OnlyHeard.decided {d : ClockData} (h : OnlyHeard p d s) : portDecided s p =
    becomes (if (ownData s).better d then
      (if (s.eth.port[p]).ptpState = .preMaster then .preMaster else .master, none)
      else (.uncalibrated, some d)) s.eth.port[p] (bestSteps s) := by
  unfold portDecided
  rw [if_pos h.decides, decidePort_only h.best (bestOn_unlinked h.unlinked) h.class']

theorem OnlyHeard.other {d : ClockData} (h : OnlyHeard p d s) : portDecided s (1 - p) = s.eth.port[1 - p] := by
  unfold portDecided
  rw [decides_unlinked h.unlinked]
  rfl

theorem OnlyHeard.follows {a : AnnounceIn} (h : OnlyHeard p a.data s) (hbetter : (ownData s).better a.data = false) :
    let t := takeUtc p a (bestMaster s)
    ((t.eth.port[p]).ptpState = .uncalibrated ∨ (t.eth.port[p]).ptpState = .slave) ∧
      (t.eth.port[p]).parent = some a.data ∧ t.bel.utcOffset = a.utcOffset ∧
      t.bel.utcValid = a.utcValid ∧ t.bel.leap59 = a.leap59 ∧ t.bel.leap61 = a.leap61 := by
  have hdecided := h.decided
  rw [hbetter, if_neg Bool.false_ne_true] at hdecided
  have hport := (port_bestMaster s p).trans hdecided
  have hrest := (port_bestMaster s (1 - p)).trans h.other
  obtain ⟨hstate, hparent⟩ := becomes_source a.data s.eth.port[p] (bestSteps s)
  rw [← hport] at hstate hparent
  have hsource : isSource p (bestMaster s) = true := by
    unfold isSource
    obtain hs | hs := hstate <;> rw [hs] <;> rfl
  have hsilent : isSource (1 - p) (bestMaster s) = false := by
    have hsame := h.silent
    unfold isSource at hsame ⊢
    rw [hrest]
    exact hsame
  have hsourceOf : sourceOf (bestMaster s) = some (p, a.data.sender, a.data.senderPort) := by
    unfold sourceOf
    rw [sourcePort_only hsource hsilent]
    dsimp only
    rw [hparent]
    rfl
  dsimp only
  rw [eth_takeUtc, takeUtc, if_pos hsourceOf]
  exact ⟨hstate, hparent, rfl, rfl, rfl, rfl⟩

theorem OnlyHeard.leads {a : AnnounceIn} (h : OnlyHeard p a.data s) (hbetter : (ownData s).better a.data = true) :
    let t := takeUtc p a (bestMaster s)
    (t.eth.port[p]).parent = none ∧
      (t.eth.port[p]).ptpState = (if (s.eth.port[p]).ptp.role = 1 then .listening
        else if (s.eth.port[p]).ptpState = .preMaster then
          (if (s.eth.port[p]).ptp.profile = 2 then .master else .preMaster)
        else .master) := by
  have hdecided := h.decided
  rw [hbetter, if_pos rfl] at hdecided
  have hport := (port_bestMaster s p).trans hdecided
  dsimp only
  rw [eth_takeUtc, hport]
  exact ⟨becomes_orphan (by split <;> decide), becomes_master h.role⟩

/-- The state once an Announce has been heard. -/
theorem onlyHeard_hear {d : ClockData} (hdecides : decides p s = true) (hlink : (s.eth.port[1 - p]).link = false)
    (hsilent : isSource (1 - p) s = false) (hrole : (s.eth.port[p]).ptp.role ≠ 3)
    (hclass : 127 < (ownData s).clockClass)
    (honly : ∀ x ∈ (s.eth.port[p]).foreign, x.data.sender = d.sender ∧ x.data.senderPort = d.senderPort)
    (hagain : (s.eth.port[p]).ptp.profile = 2 ∨ ∃ x ∈ (s.eth.port[p]).foreign, x.fresh s.eth.port[p] s = true) :
    OnlyHeard p d (modEth p (fun e => hear d e s) s) := by
  obtain ⟨hself, hother⟩ := port_modEth p (fun e => hear d e s) s
  obtain ⟨hup, hruns⟩ := decides_spec hdecides
  refine ⟨(decides_modEth ⟨rfl, rfl, rfl, rfl⟩).trans hdecides, ?_, by rw [hother]; exact hlink, ?_,
    by rw [hself]; exact hrole,
    by rw [ownData_modEth (g := fun e => hear d e s) fun _ => rfl]; exact hclass⟩
  · refine bestOn_only (x := ⟨d, s.now, true⟩) ?_ ?_ ?_ ?_ rfl (decide_eq_true (Nat.le_add_right _ _))
    · rw [hself]
      exact hup
    · rw [hself]
      exact hruns
    · rw [hself]
      exact hrole
    · rw [hself]
      exact hear_only honly hagain
  · unfold isSource at hsilent ⊢
    rw [hother]
    exact hsilent

theorem announce_decides {a : AnnounceIn} (h : Heard p f a.domain s) (hdecides : decides p s = true)
    (hcores : coresUp s = true) (hforeign : a.data.sender ≠ clockIdentity s) (hsteps : a.data.steps < 255)
    (hlink : (s.eth.port[1 - p]).link = false) (hsilent : isSource (1 - p) s = false)
    (hrole : (s.eth.port[p]).ptp.role ≠ 3) (hclass : 127 < (ownData s).clockClass)
    (honly : ∀ x ∈ (s.eth.port[p]).foreign,
      x.data.sender = a.data.sender ∧ x.data.senderPort = a.data.senderPort)
    (hagain : (s.eth.port[p]).ptp.profile = 2 ∨ ∃ x ∈ (s.eth.port[p]).foreign, x.fresh s.eth.port[p] s = true) :
    Answers (exec (.announceReceived p f a) s) fun t =>
      ((ownData s).better a.data = false →
        ((t.eth.port[p]).ptpState = .uncalibrated ∨ (t.eth.port[p]).ptpState = .slave) ∧
        (t.eth.port[p]).parent = some a.data ∧ t.bel.utcOffset = a.utcOffset ∧
        t.bel.utcValid = a.utcValid ∧ t.bel.leap59 = a.leap59 ∧ t.bel.leap61 = a.leap61) ∧
      ((ownData s).better a.data = true → (t.eth.port[p]).parent = none ∧
        (t.eth.port[p]).ptpState = (if (s.eth.port[p]).ptp.role = 1 then .listening
          else if (s.eth.port[p]).ptpState = .preMaster then
            (if (s.eth.port[p]).ptp.profile = 2 then .master else .preMaster)
          else .master)) := by
  have hruns : ptpRuns p s = true := by
    unfold ptpRuns
    rw [hcores, bne_iff_ne.mpr (decides_spec hdecides).2]
    rfl
  refine answers_of_eq (congrArg Host.Outcome.next ((h.handled _).trans
    (takeAnnounce_heard hruns hforeign hsteps))) ?_
  have hheard := onlyHeard_hear hdecides hlink hsilent hrole hclass honly hagain
  have hself := (port_modEth p (fun e => hear a.data e s) s).1
  have hown : ownData (modEth p (fun e => hear a.data e s) s) = ownData s := ownData_modEth fun _ => rfl
  have hleads := hheard.leads
  have hfollows := hheard.follows
  rw [hown] at hleads hfollows
  rw [hself] at hleads
  exact ⟨hfollows, hleads⟩

/-! Management messages, a master's Sync, and the time-outs (R487, R495, R499). -/

theorem management_ignored (hup : macUp p s = true) (hfcs : f.fcsOk = true)
    (hok : frameOk s.eth.port[p] f (isGptp p s) (rowPtp s.eth.port[p] f) = true) :
    Answers (exec (.managementMessageReceived p f) s) fun t =>
      (t.eth.port[p]).ptpIgnored = bump 65535 1 (s.eth.port[p]).ptpIgnored ∧
      t.eth.port[1 - p] = s.eth.port[1 - p] ∧ Keeps [.eth] s t := by
  refine answers_of_eq (congrArg Host.Outcome.next (receive_accepted hup hfcs hok)) ?_
  have hkept := keeps_ptpIgnore p s
  unfold ptpIgnore at hkept ⊢
  rw [(port_modEth p _ s).1, (port_modEth p _ s).2]
  exact ⟨rfl, rfl, hkept⟩

/-- A port in INITIALIZING comes into service. -/
def serviced (e : Eth) : Eth := { e with
  ptpState := if e.ptpState = .initializing then e.firstPtp else e.ptpState }

/-- A Sync takes its sequence number. -/
def syncNumbered (e : Eth) : Eth := { e with syncSeq := (e.syncSeq + 1) % 65536 }

theorem serviced_master {e : Eth} (h : e.ptpState = .master) : serviced e = e := by
  unfold serviced
  rw [if_neg (by rw [h]; decide)]

theorem sync_timed (hsends : macSends p s = true) (hruns : ptpRuns p s = true)
    (hmaster : (s.eth.port[p]).ptpState = .master) :
    Answers (exec (.ptpMessageTransmitTimer p .sync) s) fun t =>
      ((t.eth.port[p]).egress[(7 : Fin 8)] = (s.eth.port[p]).egress[(7 : Fin 8)] ++
        [⟨.ptp .sync (s.eth.port[p]).syncSeq 0 0,
          some (syncGrid (s.eth.port[p]).ptp.logSync (netTime s)), false⟩]) ∧
      (t.eth.port[p]).syncSeq = ((s.eth.port[p]).syncSeq + 1) % 65536 ∧
      t.eth.port[1 - p] = s.eth.port[1 - p] ∧ Keeps [.eth] s t := by
  have hself := (port_modEth p serviced s).1.trans (serviced_master hmaster)
  have hother := (port_modEth p serviced s).2
  have hexec : exec (.ptpMessageTransmitTimer p .sync) s = .next (sendTimed p .sync (modEth p serviced s)) :=
    congrArg Host.Outcome.next (whenS_true (by rw [hsends, hruns]; rfl))
  have hkept : Keeps [.eth] s (sendTimed p .sync (modEth p serviced s)) :=
    keeps_step (keeps_sendTimed _ _ _) rfl (keeps_modEth _ _ _)
  have htime : netTime (modEth p serviced s) = netTime s := rfl
  generalize modEth p serviced s = u at hself hother hexec hkept htime
  have hsend : sendTimed p .sync u = enqueue p 7 (.ptp .sync (s.eth.port[p]).syncSeq 0 0)
      (some (syncGrid (s.eth.port[p]).ptp.logSync (netTime s))) (modEth p syncNumbered u) := by
    unfold sendTimed
    dsimp only
    rw [hself, hmaster, htime]
    rfl
  obtain ⟨hnumbered, hrest⟩ := port_modEth p syncNumbered u
  rw [hself] at hnumbered
  have hlink : ((modEth p syncNumbered u).eth.port[p]).link = true := by
    rw [hnumbered]
    exact link_of_macSends hsends
  obtain ⟨hqueue, -, hport, hlast⟩ := enqueue_spec (q := 7) (x := .ptp .sync (s.eth.port[p]).syncSeq 0 0)
    (launch := some (syncGrid (s.eth.port[p]).ptp.logSync (netTime s))) hlink
  refine answers_of_eq hexec ⟨?_, ?_, ?_, hkept⟩
  · rw [hsend, hqueue, hnumbered]
    rfl
  · rw [hsend, hport, hnumbered]
    rfl
  · rw [hsend, hlast, hrest, hother]

/-- LOCKED is left for HOLDOVER, with no interrupt asked for. -/
def heldOver (kind : Nat) (p : Fin 2) (s : State) : State := { s with
  bel.state := .holdover
  bel.lockLosses := bump 65535 1 s.bel.lockLosses
  rve.inbox := s.rve.inbox ++
    [⟨38, .minor, BitVec.ofNat 32 (kind % 16 + p.val * 16 + (composingSeq s).toNat * 65536), false, s.now⟩] }

theorem loseLock_locked {kind : Nat} (hcores : coresUp s = true) (hlocked : s.bel.state = .locked)
    (hquiet : s.bel.onLock = false) : loseLock kind p s = heldOver kind p s := by
  have hsignal : ∀ v, belSignal s.bel.onLock v = v := fun v => by
    unfold belSignal
    rw [hquiet]
    rfl
  have hcount : loseLock kind p s = setTimeState .holdover kind p s := if_pos hlocked
  rw [hcount]
  unfold setTimeState
  dsimp only
  rw [if_neg (by rw [hlocked]; decide), if_pos hlocked, raise_of_core (by exact core_of_coresUp hcores)]
  exact (hsignal _).trans rfl

theorem keeps_heldOver (kind : Nat) (p : Fin 2) (s : State) : Keeps [.bel, .rve] s (heldOver kind p s) :=
  keeps_mk (keeps_refl _ _)

theorem time_heldOver (kind : Nat) (p : Fin 2) (s : State) : netTime (heldOver kind p s) = netTime s := rfl

theorem syncs_silent (hcores : coresUp s = true) (hsource : sourcePort s = some p)
    (hlocked : s.bel.state = .locked) (hquiet : s.bel.onLock = false) :
    Answers (exec .syncReceiptTimeout s) fun t =>
      t.bel.state = .holdover ∧ t.bel.lockLosses = bump 65535 1 s.bel.lockLosses ∧
      netTime t = netTime s ∧ Raised 38 .minor (2 + p.val * 16 + (composingSeq s).toNat * 65536) s t ∧
      Keeps [.bel, .rve] s t := by
  have hexec : exec .syncReceiptTimeout s = .next (heldOver 2 p s) := by
    show Host.Outcome.next _ = _
    rw [hsource]
    dsimp only
    rw [if_pos hcores, loseLock_locked hcores hlocked hquiet]
  exact answers_of_eq hexec ⟨rfl, rfl, rfl, rfl, keeps_heldOver _ _ _⟩

/-- A port whose source has fallen silent. -/
def sourceGone (e : Eth) : Eth :=
  { e with ptpState := if e.ptp.role = 2 then .master else .listening, parent := none, foreign := [] }

theorem parent_sourceGone (p : Fin 2) (s : State) : (portDecided (modEth p sourceGone s) p).parent = none := by
  have hself := (port_modEth p sourceGone s).1
  unfold portDecided
  split
  · exact becomes_orphan (decidePort_unheard (bestOn_unheard (by rw [hself]; rfl)))
  · rw [hself]
    rfl

theorem announces_silent (hcores : coresUp s = true) (hsource : sourcePort s = some p)
    (hlocked : s.bel.state = .locked) (hquiet : s.bel.onLock = false) :
    Answers (exec .announceReceiptTimeout s) fun t =>
      t.bel.state = .holdover ∧ t.bel.lockLosses = bump 65535 1 s.bel.lockLosses ∧
      (t.eth.port[p]).parent = none ∧ netTime t = netTime s ∧
      Raised 38 .minor (3 + p.val * 16 + (composingSeq s).toNat * 65536) s t ∧
      Keeps [.bel, .rve, .eth] s t := by
  have hheld : (modEth p sourceGone (heldOver 3 p s)).bel.state = .holdover := rfl
  have hexec : exec .announceReceiptTimeout s = .next (portsDecided (modEth p sourceGone (heldOver 3 p s))) := by
    rw [← bestMaster_held hheld, ← loseLock_locked hcores hlocked hquiet]
    show Host.Outcome.next (whenS _ _ s) = _
    rw [whenS_true hcores, hsource]
    rfl
  refine answers_of_eq hexec ⟨rfl, rfl, ?_, rfl, rfl, ?_⟩
  · rw [port_portsDecided]
    exact parent_sourceGone p _
  · refine keeps_step (keeps_modEth _ _ _) rfl (keeps_step (keeps_modEth _ _ _) rfl
      (keeps_step (keeps_modEth _ _ _) rfl (keeps_mono (keeps_heldOver _ _ _) rfl)))

/-- Settles O45: each message of an accepted frame goes to its handler, a sample changes no more of the ports than
the stamps, and the algorithm decides by the only clock heard. -/
theorem precisionTime : Obligations.PrecisionTime := by
  unfold Obligations.PrecisionTime
  refine ⟨?_, ?_, ?_, ?_, ?_, ?_, ?_, ?_, ?_, ?_, ?_, ?_⟩
  · intro s p f m hup hfcs hok hdomain hruns hsource htwo
    exact sync_waits ⟨hup, hfcs, hok, hdomain⟩ hruns hsource htwo
  · intro s p f m hup hfcs hok hdomain hruns hsource hone
    exact sync_completes ⟨hup, hfcs, hok, hdomain⟩ hruns hsource hone
  · intro s p f m w hup hfcs hok hdomain hruns hsource hwait hseq
    exact followUp_completes ⟨hup, hfcs, hok, hdomain⟩ hruns hsource hwait hseq
  · intro s p f m hup hfcs hok hdomain hruns hprofile
    exact pdelay_answered ⟨hup, hfcs, hok, hdomain⟩ hruns hprofile
  · intro s p f m hup hfcs hok hdomain hruns hprofile hmaster
    exact delay_answered ⟨hup, hfcs, hok, hdomain⟩ hruns hprofile hmaster
  · intro s p f m t1 w r hup hfcs hok hdomain hruns hprofile ht3 hwait hseq hr
    exact pathDelay_measured ⟨hup, hfcs, hok, hdomain⟩ hruns hprofile ht3 hwait hseq hr
  · intro s p f a hup hfcs hok hdomain hruns hother hsteps
    exact announce_remembered ⟨hup, hfcs, hok, hdomain⟩ hruns hother hsteps
  · intro s p f a hup hfcs hok hdomain hdecides hcores hother hsteps hlink hsilent hrole hclass honly hagain
    exact announce_decides ⟨hup, hfcs, hok, hdomain⟩ hdecides hcores hother hsteps hlink hsilent hrole hclass
      honly hagain
  · intro s p f hup hfcs hok
    exact management_ignored hup hfcs hok
  · intro s p hsends hruns hmaster
    exact sync_timed hsends hruns hmaster
  · intro s p hcores hsource hlocked hquiet
    exact syncs_silent hcores hsource hlocked hquiet
  · intro s p hcores hsource hlocked hquiet
    exact announces_silent hcores hsource hlocked hquiet

end Sys2Proof.Proofs
end
